-- ==== Sys2Proof/Word.lean ====
section
/-! DEFINITION. The word types of the part (R4, R5, R8): bytes, 32-bit registers, 48-bit device addresses. -/

namespace Sys2Proof

/-- One byte (R5). -/
abbrev Byte := BitVec 8
/-- One register of the block register space (R8). -/
abbrev Word := BitVec 32
/-- A device address (Table 00-6: one 48-bit address space). -/
abbrev Addr := BitVec 48
/-- One 64-byte command; bit `64*w + i` is bit `i` of little-endian word `w` (R55). -/
abbrev Cmd := BitVec 512

/-- A sparse table: keys strictly rising, keys that hold the table's default value left out. -/
abbrev AMap (α : Type) := List (Nat × α)

end Sys2Proof
end

