-- ==== Sys2Proof/Syntax.lean ====
section
/-! DEFINITION. The commands and events of the part: one constructor of `Instr` per row of the opcode table.
An operand says what the outside world supplies: which bobbin or unit the step is about, the value a host writes,
the bytes of a frame, the reading of a sensor. Everything else a step needs is in `State`. -/

namespace Sys2Proof

/-- Bobbin number, 0 to 262,143 (Table 00-2). -/
abbrev Bobbin := BitVec 18

/-- Where a register access enters the device (R34, R379): port n of the data plane, the management port, the niddy itself. -/
inductive Origin where
  | host (port : BitVec 5)
  | mgmt
  | niddy
deriving DecidableEq, Repr

/-- A byte on an internal path with its poison mark (R331). -/
structure MByte where
  val : Byte := 0
  poison : Bool := false
deriving DecidableEq, Repr

/-- A parity error that strikes while an engine works (R31, R139, R171, R243, R261, R330): one event, for a creel link one
flit. `src` is the SOURCE code of the block that finds it (R378), `part` the part of the block, `at_` and `also` the struck items:
* SPN 0: a byte of the feed buffer's panel area; 1: an operand byte in the stream area, by device address; 2: a shadow element
  `slot * 65536 + row * 256 + column`;
* HNK: a hank element, numbered as a shadow element;
* TWB: a byte of the buffer, plus 512 KiB for each time that the transfer has filled both halves before;
* CRD 0: an operand byte, by device address; 1: a byte in the write window, the output tile or the partials, by the device address
  that it is to be stored at;
* CRL 0: a byte read, 1: a byte written, by device address;
* FLY: a record `line index * 256 + row`; PLY: a block number, `part` being the place of its command among the active ones; PRT: a byte
  of a message by its offset, or of a request by device address; DST: an entry of the log (0) or of the counting table (1).
[DEDUCED, log 85] -/
structure Hit where
  src : BitVec 16
  at_ : Nat
  part : Nat := 0
  also : List Nat := []
deriving DecidableEq, Repr

/-- Cells of a stored sector that have flipped since the sector was last written (R327): the sector's first address
and the 36 bytes (32 data, 4 check) to be added into the stored codeword. `stuck`: the cells are physically faulty, and no
write repairs them (R328). -/
structure Upset where
  addr : Addr
  pattern : List Byte
  stuck : Bool := false
deriving DecidableEq, Repr

/-- What an arriving message or answer carries besides its content: how many of its packets are marked CE (R352), how many of its
FEC codewords were corrected (R373), and the occupancy in bytes that its class's ingress buffer reaches with it (R349). -/
structure Ingress where
  ce : Nat := 0
  fec : Nat := 0
  occupancy : Nat := 0
deriving DecidableEq, Repr

/-- A SEND that arrives on a queue pair of a port: the bytes of the message (R366), for UD its Q_Key and source, and the parity
errors that strike meanwhile in the port's buffer or in the plying engine's accumulators. -/
structure SendIn where
  qpn : BitVec 16
  bytes : List Byte
  qkey : Word := 0
  udSource : Nat := 0
  ing : Ingress := {}
  hits : List Hit := []
deriving DecidableEq, Repr

/-- A datagram at the management port (R442): its source, its frame, and how many of its FEC codewords were corrected (R375). -/
structure MgmtIn where
  mac : BitVec 48
  ip : BitVec 128
  frame : List Byte
  fec : Nat := 0
deriving DecidableEq, Repr

/-- Where an SPDM request comes from, and how many of its FEC codewords were corrected (R346, R375). -/
structure Asker where
  mac : BitVec 48 := 0
  ip : BitVec 128 := 0
  fec : Nat := 0
deriving DecidableEq, Repr

/-- Where a read of the boot NVM returns an error: in the persistent area, in the slot headers, or in the image of slot 0 or 1 (R421,
Table 15-6). -/
inductive ReadError where
  | scan | headers
  | image (slot1 : Bool)
deriving DecidableEq, Repr

/-- A frame that uses an unsupported feature (R347); a RoCEv2 request for an unsupported operation; a packet whose invariant CRC
fails (R348); codewords that the FEC cannot correct, and with them the frame (R373). -/
inductive BadFrame where
  | frame
  | request (qpn : BitVec 16)
  | icrc
  | fec (codewords : Nat)
deriving DecidableEq, Repr

/-- The NAK a queue pair receives (R357). -/
inductive NakKind where
  | rnr | other
deriving DecidableEq, Repr

/-- The readings of one whorl control period (R456): input power in W, sensors in 1/16 °C, flow-meter pulses of the last second (R461),
rails as (mV, A). -/
structure Sample where
  power : Nat := 0
  die : List (BitVec 16) := []
  skn : List (BitVec 16) := []
  inlet : BitVec 16 := 0
  pulses : Nat := 0
  rails : List (BitVec 16 × BitVec 16) := []
deriving DecidableEq, Repr

/-- What the boot meets outside the device's own state (R421, R339, R415): whether the NVM answers and is large enough; which read of
it returns an error; whether it declares 8D-8D-8D; which skeins fail training, and in which channel; whether the core reference shows
edges. -/
structure BootEnv where
  nvmOk : Bool := true
  readError : Option ReadError := none
  nvmFast : Bool := true
  trainFail : List (BitVec 5 × BitVec 5) := []
  refPresent : Bool := true
deriving DecidableEq, Repr

/-- The steps of the part, one constructor per row of the table of operations and events. -/
inductive Instr where
  -- scheduler commands (Table 02-5): the oldest dispatched one of the named bobbin runs
  | nop (b : Bobbin)
  | release (b : Bobbin)
  | barrierSet (b : Bobbin)
  | phaseClose (b : Bobbin)
  | imageStart (b : Bobbin)
  | imageUnload
  | imageLoadComplete
  -- spindle commands: the command at the front of position p's port runs
  | spnStage (p : BitVec 4) (hits : List Hit)
  | spnMma (p : BitVec 4) (hits : List Hit)
  | spnSlotDiscard (p : BitVec 4)
  -- carder commands: the front of carder k's port runs
  | crdGather (k : BitVec 5) (hits : List Hit)
  | crdScatter (k : BitVec 5) (hits : List Hit)
  | crdSpmm (k : BitVec 5) (hits : List Hit)
  | expSelect (k : BitVec 5) (hits : List Hit)
  | expFanout (k : BitVec 5) (hits : List Hit)
  | expDispatch (k : BitVec 5) (hits : List Hit)
  | expAssign (k : BitVec 5) (hits : List Hit)
  | expCombine (k : BitVec 5) (hits : List Hit)
  | expPrefetch (k : BitVec 5) (hits : List Hit)
  | trnLscale (k : BitVec 5) (hits : List Hit)
  | optAdamw (k : BitVec 5) (hits : List Hit)
  | optSgdm (k : BitVec 5) (hits : List Hit)
  -- flyer commands: the front of flyer f's port runs
  | flyNormFwd (f : BitVec 2) (hits : List Hit)
  | flyNormBwd (f : BitVec 2) (hits : List Hit)
  | flyNormPgrad (f : BitVec 2) (hits : List Hit)
  | flySmaxMerge (f : BitVec 2) (hits : List Hit)
  | flySmaxFwd (f : BitVec 2) (hits : List Hit)
  | flySmaxBwd (f : BitVec 2) (hits : List Hit)
  | flyStatsFree (f : BitVec 2)
  -- plying commands: the front of the plying port is accepted
  | plyReduce (hits : List Hit)
  | plyGather (hits : List Hit)
  | plyVerdict
  | plyBarrier
  | plyOrtho (hits : List Hit)
  | plyLrSeed
  | cpyPermute (k : BitVec 5) (hits : List Hit)
  -- doorbells (R48 to R52), written by a host
  | dbProdWrite (b : Bobbin) (v : Word)
  | dbCqHeadWrite (b : Bobbin) (v : Word)
  | enable (b : Bobbin)
  | disable (b : Bobbin)
  -- fetcher and scheduler
  | fetchBurst
  | burstArrival (b : Bobbin) (hits : List Hit)
  | dispatch (b : Bobbin)
  | agePromotion (b : Bobbin)
  | runSizeResolve (b : Bobbin)
  | engineCompletion (u : BitVec 6)
  | spareSwapTimeout
  | watchdogExpiry (b : Bobbin)
  | plyWatchExpiry (i : BitVec 2)
  | readyIncrement (k : BitVec 5)
  | indDataWrite (v : Word)
  | ctxReset (c : BitVec 12)
  | trnDataWrite (v : Word)
  | journalEnable (v : Word)
  | arm (v : Word)
  | resume (v : Word)
  -- skeins
  | skeinRead (src : BitVec 16) (a : Addr) (len : Nat) (upsets : List Upset)
  | skeinWrite (src : BitVec 16) (a : Addr) (data : List MByte)
  | bucketLeak (k : BitVec 5)
  | scrubGranule (k : BitVec 5) (upsets : List Upset)
  | fenceWrite (o : Origin) (k : BitVec 5) (i : BitVec 5) (v : Word) (nvmErr : Bool)
  -- expert fetches
  | fetchStart (k : BitVec 5)
  | fetchComplete (k : BitVec 5) (gid : BitVec 20) (data : List MByte) (ing : Ingress := {})
  | fetchTimeout (k : BitVec 5) (gid : BitVec 20)
  | writeBackComplete (k : BitVec 5) (gid : BitVec 20) (ing : Ingress := {})
  -- Dexornian messages that arrive
  | reduce (m : SendIn)
  | prescaleUp (m : SendIn)
  | prescaleDown (m : SendIn)
  | sum (m : SendIn)
  | gather (m : SendIn)
  | verdictUp (m : SendIn)
  | verdictDown (m : SendIn)
  | barrier (m : SendIn)
  | fetchNote (m : SendIn)
  | wbNote (m : SendIn)
  | replayHold (m : SendIn)
  | echoReq (m : SendIn)
  | echoRsp (m : SendIn)
  -- host requests over RoCEv2
  | rdmaWrite (qpn : BitVec 16) (rkey : Word) (a : Addr) (data : List Byte) (ing : Ingress) (hits : List Hit)
  | rdmaWriteImm (qpn : BitVec 16) (rkey : Word) (a : Addr) (data : List Byte) (imm : Word) (ing : Ingress)
      (hits : List Hit)
  | rdmaRead (qpn : BitVec 16) (rkey : Word) (a : Addr) (len : Nat) (ing : Ingress) (hits : List Hit)
  | fetchAndAdd (qpn : BitVec 16) (rkey : Word) (a : Addr) (operand : BitVec 64) (ing : Ingress) (hits : List Hit := [])
  -- ports
  | unsupportedFrame (n : BitVec 5) (f : BadFrame)
  | pfcXoff (n : BitVec 5) (cls : Bool)
  | pfcXon (n : BitVec 5) (cls lapse : Bool)
  | pfcStorm (n : BitVec 5) (cls : Bool)
  | cnp (qpn : BitVec 16)
  | ccPeriod (qpn : BitVec 16)
  | ackTimeout (qpn : BitVec 16)
  | nakReceived (qpn : BitVec 16) (kind : NakKind) (ing : Ingress := {})
  | qpLoad (o : Origin) (qpn : BitVec 16)
  | qpCmdError (o : Origin) (qpn : BitVec 16)
  | qpReset (o : Origin) (qpn : BitVec 16)
  | qpRearm (o : Origin) (qpn : BitVec 16)
  | linkDown (n : BitVec 5) (ticks : Nat := 0)
  | linkUp (n : BitVec 5)
  -- management port
  | arpRequest (v6 : Bool) (target : BitVec 128) (mac : BitVec 48) (ip : BitVec 128) (fec : Nat := 0)
  | regRead (m : MgmtIn)
  | regWrite (m : MgmtIn)
  | telemRead (m : MgmtIn)
  | nvmRead (m : MgmtIn)
  | nvmErase (m : MgmtIn)
  | nvmProgram (m : MgmtIn)
  | noticeTimeout
  | getVersion (r : Asker := {})
  | getCapabilities (r : Asker := {})
  | negotiateAlgorithms (r : Asker := {})
  | getDigests (r : Asker := {})
  | getCertificate (slot : BitVec 8) (offset len : BitVec 16) (r : Asker := {})
  | challenge (slot : BitVec 8) (nonce : List Byte) (r : Asker := {})
  | getMeasurements (index : BitVec 8) (signed : Bool) (nonce : List Byte) (r : Asker := {})
  | chunkGet (handle : Byte) (chunk : BitVec 16) (r : Asker := {})
  | vendorDefinedRequest (standard : BitVec 16) (vid : Word) (payload : List Byte) (r : Asker := {})
  -- SMBus and JTAG
  | smbSetOffset (v : Word)
  | smbBlockRead
  | smbAlertResponse
  | bypass
  | idcode
  | samplePreload
  | extest
  | clamp
  | highz
  | testReset
  -- distaff
  | faultMessage (hits : List Hit := [])
  | dstStatusClear (o : Origin) (v : Word)
  | evrBaseWrite (o : Origin) (hi : Bool) (v : Word)
  | evrCfgWrite (o : Origin) (v : Word)
  | kindCfgWrite (o : Origin) (win : Bool) (v : Word)
  | retire (o : Origin) (w : BitVec 2) (v : Word) (nvmErr : Bool)
  | returnFromRepair (o : Origin) (w : BitVec 2) (v : Word) (nvmErr : Bool)
  -- clock, gate and power register file
  | gateWrite (o : Origin) (w : BitVec 2) (v : Word)
  | sleepWrite (o : Origin) (w : BitVec 2) (v : Word)
  | sleepEntry (u : BitVec 7)
  | wake (u : BitVec 7)
  | unitReset (o : Origin) (w : BitVec 2) (v : Word)
  | unitResetDone (u : BitVec 7)
  | issueWrite (o : Origin) (v : Word)
  | runSet (o : Origin) (i : BitVec 7) (v : Word)
  | runClr (o : Origin) (i : BitVec 7) (v : Word)
  | spareWrite (o : Origin) (v : Word)
  | devReset (o : Origin) (v : Word)
  | fmStart (o : Origin) (v : Word)
  | fmDone (count : Nat)
  | driftWindow (count : Nat)
  | clockMonitorReset
  | resetPin
  -- package
  | powerOn
  | powerDown
  | vrFault (rail : BitVec 3)
  | powerTrip (rail : BitVec 3)
  | regulatorRestart
  | whorlPeriod (m : Sample)
  | thermtripRelease (m : Sample)
  | flowLow
  | flowRestored
  | retiredSleep (u : BitVec 7)
  | tabDataWrite (o : Origin) (v : Word)
  -- boot, persistence
  | bootStart (e : BootEnv)
  | clockStabilityWindow (count : Nat)
  | bootReady
  | bootFail
  | rwpWrite (o : Origin) (a : Addr) (v : Word) (nvmErr : Bool)
  | telemetryCopy
  | lifeDaysTick
  | fuseProgram (o : Origin) (v : Word)
  | fuseRevoke (o : Origin) (v : Word)
  | fuseDone
  -- registers that have no row of their own
  | rcCounterRead (o : Origin) (a : Addr)
  | registerWrite (o : Origin) (a : Addr) (v : Word)
  -- further arrivals
  | acknowledgement (qpn : BitVec 16) (ing : Ingress := {})
  | pfcXoffRepeat (n : BitVec 5) (cls : Bool) (occupancy : Nat := 0)
  | nextHopAnswer (mac : BitVec 48) (fec : Nat := 0)
  | strayMessage (m : SendIn)
  | spdmUnsupportedRequest (code : Byte) (r : Asker := {})
  | smbOtherCommand (code : Byte)
  | resetPinRelease
  | coreReferencePresent
deriving DecidableEq, Repr

end Sys2Proof
end

