-- ==== Sys2Proof/Decode.lean ====
section
/-! DEFINITION. The table of operations and events gives no row any bits: no word spells a command (the part takes its
commands as events, and its own 64-byte commands are data of the scheduler, read in `Machine/Envelope.lean`). -/

namespace Sys2Proof

/-- The command that a word spells by the table's bits: none, since the table gives none. [DESIGN CHOICE, log 4] -/
def decodeTableWord (_nbits _w : Nat) : Option Instr := none

end Sys2Proof
end

