-- ==== Sys2Proof/Config.lean ====
section
/-! DEFINITION. What the spec leaves open: constants with no body, so that nothing proved can rest on a value.
Each is applied to a plain counter of the state (`State.free`), which a step that uses one advances, or to the
operands the open value depends on. The assumption log names every one. -/

namespace Sys2Proof.Config

/-- A free number (a count of waiting cycles, a choice the spec leaves to the part). [DESIGN CHOICE, log 5] -/
opaque freeNat : Nat → Nat
/-- A free byte. [DESIGN CHOICE, log 5] -/
opaque freeByte : Nat → Byte
/-- A byte of an on-die SRAM whose layout the spec does not give: the name of what the unit left there, and the offset. [DESIGN CHOICE, log 84] -/
opaque sramByte : Nat → Nat → Byte
/-- A byte of a flyer's directory entry, by the fields it holds: the spec gives no layout. [DESIGN CHOICE, log 84] -/
opaque dirByte : List Nat → Nat → Byte
/-- A free yes or no. -/
opaque freeBool : Nat → Bool
/-- Chooses the bit pattern of a NaN result, which the spec does not give (FP32, BF16, FP16). [DESIGN CHOICE, log 14] -/
opaque nanSeed : Nat → Nat
/-- Byte `i` of the device's RSA-3072 signature over the given bytes (attestation; the key is not in the spec). [DESIGN CHOICE, log 98] -/
opaque deviceSignByte : List Byte → Nat → Byte
/-- Byte `i` of the device's SLH-DSA-SHA2-192s signature over the given bytes (R446). [DESIGN CHOICE, log 98] -/
opaque slhSignByte : List Byte → Nat → Byte
/-- SHA-384 of the niddy's boot table, whose content is not in the spec (R445). -/
opaque bootTableDigest : List Byte
/-- Byte of the telemetry frame, by the copies it holds (value and tick of each register): the spec gives no layout (R441). [DESIGN CHOICE, log 95] -/
opaque telemByte : List (Word × Nat) → Nat → Byte

/-- The device's RSASSA-PSS signature: 384 bytes. -/
def deviceSign (m : List Byte) : List Byte := (List.range 384).map (deviceSignByte m)
/-- The device's SLH-DSA signature: 16,224 bytes (R446). -/
def slhSign (m : List Byte) : List Byte := (List.range 16224).map (slhSignByte m)

end Sys2Proof.Config
end

