-- ==== Sys2Proof/Machine/Maps.lean ====
section
/-! DEFINITION. Sparse tables and the bit and byte helpers that the machine's operations share (R4, R5). -/

namespace Sys2Proof.Machine

/-- The value at key `k`; `d` where the table lists none. -/
def mget {α : Type} (m : AMap α) (k : Nat) (d : α) : α :=
  match m with
  | [] => d
  | (j, v) :: r => if j = k then v else mget r k d

/-- The entry at key `k`, if listed. -/
def mfind {α : Type} (m : AMap α) (k : Nat) : Option α :=
  match m with
  | [] => none
  | (j, v) :: r => if j = k then some v else mfind r k

/-- Take key `k` out of the table. -/
def mdel {α : Type} (m : AMap α) (k : Nat) : AMap α := m.filter (fun e => e.1 ≠ k)

/-- List `v` at key `k`, keeping the keys rising. -/
def mset {α : Type} (m : AMap α) (k : Nat) (v : α) : AMap α :=
  match m with
  | [] => [(k, v)]
  | (j, w) :: r => if j = k then (k, v) :: r else if k < j then (k, v) :: (j, w) :: r else (j, w) :: mset r k v

/-- Store `v` at key `k`; storing the default `d` takes the entry out, so that equal tables are equal data. -/
def mput {α : Type} [DecidableEq α] (m : AMap α) (k : Nat) (v d : α) : AMap α :=
  if v = d then mdel m k else mset m k v

/-- Keys strictly rising. -/
def sortedFrom {α : Type} (lo : Nat) : AMap α → Bool
  | [] => true
  | (k, _) :: r => lo ≤ k && sortedFrom (k + 1) r

/-- The canonical form of a table whose default is `d`: keys strictly rising, no entry equal to the default. -/
def mapWf {α : Type} [DecidableEq α] (d : α) (m : AMap α) : Bool :=
  sortedFrom 0 m && m.all (fun e => decide (e.2 ≠ d))

/-- Bits `[lo + n - 1 : lo]` of a number. -/
def bits (x lo n : Nat) : Nat := (x >>> lo) % 2 ^ n

/-- Bit `i` of a number. -/
def nbit (x i : Nat) : Bool := (x >>> i) % 2 = 1

/-- The number of bytes in little-endian order (R5). -/
def leNat : List Byte → Nat
  | [] => 0
  | b :: r => b.toNat + 256 * leNat r

/-- The low `n` bytes of `x`, byte 0 first (R5). -/
def leBytes : Nat → Nat → List Byte
  | 0, _ => []
  | n + 1, x => BitVec.ofNat 8 x :: leBytes n (x / 256)

/-- A number as a two's complement value of `n` bits. -/
def signed (n x : Nat) : Int := if x % 2 ^ n < 2 ^ (n - 1) then (x % 2 ^ n : Nat) else ((x % 2 ^ n : Nat) : Int) - 2 ^ n

/-- `x` as an `n`-bit two's complement pattern. -/
def unsigned (n : Nat) (x : Int) : Nat := (x % (2 ^ n : Int)).toNat

/-- `l` with element `i` replaced; unchanged where there is no element `i`. -/
def lset {α : Type} (l : List α) (i : Nat) (v : α) : List α := l.set i v

/-- `ceil (a / b)`. -/
def ceilDiv (a b : Nat) : Nat := (a + b - 1) / b

/-- Number of one bits among the low `n` bits. -/
def popcount : Nat → Nat → Nat
  | 0, _ => 0
  | n + 1, x => x % 2 + popcount n (x / 2)

/-- Do `[a, a + n)` and `[b, b + m)` share a byte? -/
def rangesMeet (a n b m : Nat) : Bool := a < b + m && b < a + n && 0 < n && 0 < m

/-- A register of 32 bits from fields `(lo, width, value)`. -/
def packWord (fs : List (Nat × Nat × Nat)) : Word :=
  BitVec.ofNat 32 (fs.foldl (fun acc f => acc + (f.2.2 % 2 ^ f.2.1) * 2 ^ f.1) 0)

/-- A Bool as a bit. -/
def b2n (b : Bool) : Nat := if b then 1 else 0

/-- One counter of 32 bits advanced by `n`, stopping at its largest value (R10). -/
def satAdd32 (v : Word) (n : Nat) : Word := BitVec.ofNat 32 (min (v.toNat + n) 4294967295)

/-- The largest of a list of numbers, 0 for none. -/
def lmax (l : List Nat) : Nat := l.foldl max 0

/-- The smallest index below `n` at which `p` holds. -/
def findIdx (n : Nat) (p : Nat → Bool) : Option Nat := (List.range n).find? p

/-- The first index at or after `from_`, walking upward and wrapping at `n`, at which `p` holds. -/
def findWrap (n from_ : Nat) (p : Nat → Bool) : Option Nat :=
  ((List.range n).map (fun i => (from_ + i) % n)).find? p

end Sys2Proof.Machine
end

