-- ==== Sys2Proof/Machine/Crc.lean ====
section
/-! DEFINITION. CRC-32C (Castagnoli), the check of bale blobs, journals and records (R220, R288). -/

namespace Sys2Proof.Machine

/-- `n` shifts of the reflected register. -/
def crcShift : Nat → Word → Word
  | 0, c => c
  | n + 1, c => crcShift n (if c.getLsbD 0 then (c >>> 1) ^^^ 0x82F63B78 else c >>> 1)

def crcByte (c : Word) (b : Byte) : Word := crcShift 8 (c ^^^ b.setWidth 32)

/-- CRC-32C: reflected polynomial 0x82F63B78, register starting at all ones and inverted at the end. [PRESUMED, log 13] -/
def crc32c (l : List Byte) : Word := ~~~(l.foldl crcByte 0xFFFFFFFF)

end Sys2Proof.Machine
end

