-- ==== Sys2Proof/Machine/RegTable.lean ====
section
/-! DEFINITION. The block register space (R8 to R12): block codes and instances of Table 00-4, and every register row of
the chapters' register tables with its fields, access types and reset values. A register at code `c`, instance `i`,
offset `o` is named by its register offset `(c * 256 + i) * 0x10000 + o` (R11). -/

namespace Sys2Proof.Machine

/-- Access types of Table 00-3. -/
inductive Acc where
  | ro | rw | w1c | w1s | wo | rwp | rc
deriving DecidableEq, Repr

/-- One field: lowest bit, width, access type, reset value. Bits in no field are reserved (R9). -/
structure RegField where
  lo : Nat
  width : Nat
  acc : Acc
  reset : Nat := 0
deriving DecidableEq, Repr

/-- One row of a register table: `count` registers `stride` apart, repeated `count2` times `stride2` apart. `only0`
marks a row that only instance 0 of its block has (Table 12-9). -/
structure RegRow where
  off : Nat
  fields : List RegField
  stride : Nat := 0
  count : Nat := 1
  stride2 : Nat := 0
  count2 : Nat := 1
  only0 : Bool := false
deriving DecidableEq, Repr

/-- Instances of each block code (Table 00-4); 0 for a code above 0x0D. -/
def blockInstances (code : Nat) : Nat :=
  match code with
  | 0 => 17 | 1 => 32 | 2 => 4 | 3 => 1 | 4 => 1 | 5 => 32 | 6 => 1 | 7 => 1 | 8 => 1 | 9 => 1 | 10 => 21
  | 11 => 17 | 12 => 17 | 13 => 1 | _ => 0

/-- Register offset of a register (R11). -/
def regOff (code inst off : Nat) : Nat := (code * 256 + inst) * 65536 + off

/-- Registers of the spindle (Table 04-8). -/
def regRowsSpn : List RegRow := [
  { off := 0x0000, fields := [⟨0, 4, .ro, 0⟩, ⟨4, 1, .ro, 0⟩, ⟨5, 1, .ro, 0⟩, ⟨6, 5, .ro, 16⟩] },  -- SPN_STATUS
  { off := 0x0004, fields := [⟨0, 32, .rc, 0⟩] },  -- SPN_GROUP_CNT
  { off := 0x0008, fields := [⟨0, 32, .rc, 0⟩] },  -- SPN_BUBBLE_CNT
  { off := 0x000C, fields := [⟨0, 32, .rc, 0⟩] },  -- SPN_HOLD_CNT
  { off := 0x0010, fields := [⟨0, 32, .rc, 0⟩] },  -- SPN_SWAP_CNT
  { off := 0x0014, fields := [⟨0, 32, .rc, 0⟩] },  -- SPN_SAT_CNT
  { off := 0x0018, fields := [⟨0, 32, .rc, 0⟩] },  -- SPN_PERR_CNT
  { off := 0x0020, fields := [⟨0, 6, .rw, 0⟩] },  -- SPN_PANEL_SEL
  { off := 0x0024, fields := [⟨0, 12, .ro, 0⟩, ⟨12, 12, .ro, 0⟩, ⟨24, 1, .ro, 0⟩] },  -- SPN_PANEL_DATA0
  { off := 0x0028, fields := [⟨0, 8, .ro, 0⟩, ⟨8, 2, .ro, 0⟩, ⟨10, 9, .ro, 0⟩] },  -- SPN_PANEL_DATA1
  { off := 0x002C, fields := [⟨0, 32, .ro, 0⟩] } ]  -- SPN_PANEL_DATA2

/-- Registers of the carder (Table 06-8, Table 07-6, Table 08-10, Table 09-7). -/
def regRowsCrd_0 : List RegRow := [
  { off := 0x0000, fields := [⟨0, 1, .ro, 0⟩, ⟨1, 5, .ro, 16⟩] },  -- CRD_STATUS
  { off := 0x0004, fields := [⟨0, 15, .rw, 4096⟩] },  -- CRD_SPLIT
  { off := 0x0008, fields := [⟨0, 32, .rc, 0⟩] },  -- CRD_POS_CNT
  { off := 0x000C, fields := [⟨0, 32, .rc, 0⟩] },  -- CRD_COALESCE_CNT
  { off := 0x0010, fields := [⟨0, 32, .rc, 0⟩] },  -- CRD_NZ_CNT
  { off := 0x0014, fields := [⟨0, 32, .rc, 0⟩] },  -- CRD_LONGROW_CNT
  { off := 0x0018, fields := [⟨0, 32, .rc, 0⟩] },  -- CRD_SAT_CNT
  { off := 0x001C, fields := [⟨0, 32, .rc, 0⟩] },  -- CRD_PERR_CNT
  { off := 0x0020, fields := [⟨0, 32, .rc, 0⟩] },  -- CRD_SPFAULT_CNT
  { off := 0x0024, fields := [⟨0, 32, .rc, 0⟩] },  -- CRD_WAIT_CNT
  { off := 0x0100, fields := [⟨0, 7, .ro, 0⟩] },  -- CRD_EXP_FETCH
  { off := 0x0104, fields := [⟨0, 7, .rw, 64⟩] } ]  -- CRD_EXP_FETCH_MAX

/-- Registers of the carder, continued. -/
def regRowsCrd_1 : List RegRow := [
  { off := 0x0108, fields := [⟨0, 24, .rw, 325000⟩] },  -- CRD_EXP_FETCH_TMO
  { off := 0x010C, fields := [⟨0, 3, .rw, 3⟩] },  -- CRD_EXP_FETCH_RETRY
  { off := 0x0110, fields := [⟨0, 1, .rw, 1⟩] },  -- CRD_EXP_POLICY
  { off := 0x0114, fields := [⟨0, 32, .rc, 0⟩] },  -- CRD_EXP_HIT_CNT
  { off := 0x0118, fields := [⟨0, 32, .rc, 0⟩] },  -- CRD_EXP_MISS_CNT
  { off := 0x011C, fields := [⟨0, 32, .rc, 0⟩] },  -- CRD_EXP_EVICT_CNT
  { off := 0x0120, fields := [⟨0, 32, .rc, 0⟩] },  -- CRD_EXP_WB_CNT
  { off := 0x0124, fields := [⟨0, 32, .rc, 0⟩] },  -- CRD_EXP_FAIL_CNT
  { off := 0x0128, fields := [⟨0, 32, .rc, 0⟩] },  -- CRD_EXP_REFINE_CNT
  { off := 0x012C, fields := [⟨0, 32, .rc, 0⟩] },  -- CRD_EXP_NAN_CNT
  { off := 0x0200, fields := [⟨0, 32, .rc, 0⟩] },  -- CRD_MOVE_CNT
  { off := 0x0204, fields := [⟨0, 32, .rc, 0⟩] } ]  -- CRD_INPLACE_CNT

/-- Registers of the carder, continued. -/
def regRowsCrd_2 : List RegRow := [
  { off := 0x0208, fields := [⟨0, 32, .rc, 0⟩] },  -- CRD_MOVE_PERR_CNT
  { off := 0x0300, fields := [⟨0, 32, .rc, 0⟩] },  -- CRD_OPT_ELEM_CNT
  { off := 0x0304, fields := [⟨0, 32, .rc, 0⟩] },  -- CRD_OPT_SUPP_CNT
  { off := 0x0308, fields := [⟨0, 32, .rc, 0⟩] },  -- CRD_OPT_NF_CNT
  { off := 0x030C, fields := [⟨0, 32, .rc, 0⟩] } ]  -- CRD_LSCALE_CNT

/-- All registers of the carder. -/
def regRowsCrd : List RegRow := regRowsCrd_0 ++ regRowsCrd_1 ++ regRowsCrd_2

/-- Registers of the flyer (Table 08-9). -/
def regRowsFly : List RegRow := [
  { off := 0x0000, fields := [⟨0, 1, .ro, 0⟩, ⟨1, 5, .ro, 16⟩] },  -- FLY_STATUS
  { off := 0x0004, fields := [⟨0, 32, .rw, 0⟩] },  -- FLY_SPILL_BASE_LO
  { off := 0x0008, fields := [⟨0, 16, .rw, 0⟩] },  -- FLY_SPILL_BASE_HI
  { off := 0x000C, fields := [⟨0, 17, .ro, 0⟩] },  -- FLY_KEYS
  { off := 0x0010, fields := [⟨0, 12, .ro, 0⟩] },  -- FLY_RESIDENT
  { off := 0x0014, fields := [⟨0, 32, .rc, 0⟩] },  -- FLY_SPILL_CNT
  { off := 0x0018, fields := [⟨0, 32, .rc, 0⟩] },  -- FLY_REFILL_CNT
  { off := 0x001C, fields := [⟨0, 32, .rc, 0⟩] },  -- FLY_MISSING_CNT
  { off := 0x0020, fields := [⟨0, 32, .rc, 0⟩] },  -- FLY_FULL_CNT
  { off := 0x0024, fields := [⟨0, 32, .rc, 0⟩] },  -- FLY_SAT_CNT
  { off := 0x0028, fields := [⟨0, 32, .rc, 0⟩] } ]  -- FLY_PERR_CNT

/-- Registers of the plying engine (Table 10-8). -/
def regRowsPly_0 : List RegRow := [
  { off := 0x0000, fields := [⟨0, 3, .ro, 0⟩, ⟨3, 5, .ro, 16⟩] },  -- PLY_STATUS
  { off := 0x0004, fields := [⟨0, 32, .rw, 0⟩] },  -- PLY_GTAB_BASE_LO
  { off := 0x0008, fields := [⟨0, 16, .rw, 0⟩] },  -- PLY_GTAB_BASE_HI
  { off := 0x000C, fields := [⟨0, 32, .rw, 286331153⟩] },  -- PLY_HEADROOM_LO
  { off := 0x0010, fields := [⟨0, 32, .rw, 286331153⟩] },  -- PLY_HEADROOM_HI
  { off := 0x0014, fields := [⟨0, 32, .rc, 0⟩] },  -- PLY_TX_CNT
  { off := 0x0018, fields := [⟨0, 32, .rc, 0⟩] },  -- PLY_RX_CNT
  { off := 0x001C, fields := [⟨0, 32, .rc, 0⟩] },  -- PLY_RNR_CNT
  { off := 0x0020, fields := [⟨0, 32, .rc, 0⟩] },  -- PLY_SAT_CNT
  { off := 0x0024, fields := [⟨0, 32, .rc, 0⟩] },  -- PLY_CSUM_FAIL_CNT
  { off := 0x0028, fields := [⟨0, 32, .rc, 0⟩] },  -- PLY_STRAY_CNT
  { off := 0x002C, fields := [⟨0, 32, .rc, 0⟩] } ]  -- PLY_PRE_CNT

/-- Registers of the plying engine, continued. -/
def regRowsPly_1 : List RegRow := [
  { off := 0x0030, fields := [⟨0, 32, .rc, 0⟩] },  -- PLY_SILENT_CNT
  { off := 0x0034, fields := [⟨0, 32, .rc, 0⟩] } ]  -- PLY_PERR_CNT

/-- All registers of the plying engine. -/
def regRowsPly : List RegRow := regRowsPly_0 ++ regRowsPly_1

/-- Registers of the bobbin fetcher and scheduler (Table 02-8, Table 05-5, Table 09-6). -/
def regRowsBob_0 : List RegRow := [
  { off := 0x0000, fields := [⟨0, 1, .ro, 0⟩] },  -- BOB_STATUS
  { off := 0x0004, fields := [⟨0, 32, .rw, 0⟩] },  -- BOB_BTAB_BASE_LO
  { off := 0x0008, fields := [⟨0, 16, .rw, 0⟩] },  -- BOB_BTAB_BASE_HI
  { off := 0x000C, fields := [⟨0, 32, .rw, 0⟩] },  -- BOB_CWIN_BASE_LO
  { off := 0x0010, fields := [⟨0, 16, .rw, 0⟩] },  -- BOB_CWIN_BASE_HI
  { off := 0x0014, fields := [⟨0, 16, .rw, 0⟩, ⟨16, 1, .rw, 0⟩] },  -- BOB_IND_SEL
  { off := 0x0018, fields := [⟨0, 32, .rw, 0⟩] },  -- BOB_IND_DATA
  { off := 0x001C, fields := [⟨0, 12, .wo, 0⟩] },  -- BOB_CTX_RESET
  { off := 0x0020, fields := [⟨0, 24, .rw, 0⟩] },  -- BOB_AGE_LIMIT
  { off := 0x0040, fields := [⟨0, 8, .rw, 1⟩], stride := 4, count := 8 },  -- BOB_PRIO[l]
  { off := 0x0060, fields := [⟨0, 32, .rc, 0⟩] },  -- BOB_FETCH_CNT
  { off := 0x0064, fields := [⟨0, 32, .rc, 0⟩] } ]  -- BOB_DISPATCH_CNT

/-- Registers of the bobbin fetcher and scheduler, continued. -/
def regRowsBob_1 : List RegRow := [
  { off := 0x0068, fields := [⟨0, 32, .rc, 0⟩] },  -- BOB_REL_IDLE_CNT
  { off := 0x006C, fields := [⟨0, 32, .rc, 0⟩] },  -- BOB_LATE_CNT
  { off := 0x0100, fields := [⟨0, 16, .ro, 0⟩], stride := 4, count := 53 },  -- BOB_EPOCH[u]
  { off := 0x8000, fields := [⟨0, 32, .ro, 0⟩], stride := 8, count := 4096 },  -- BOB_CTX[c]_STEP
  { off := 0x8004, fields := [⟨0, 2, .ro, 0⟩, ⟨2, 1, .ro, 0⟩, ⟨3, 1, .ro, 0⟩, ⟨4, 28, .ro, 0⟩], stride := 8, count := 4096 },  -- BOB_CTX[c]_STATE
  { off := 0x0070, fields := [⟨0, 12, .ro, 0⟩, ⟨12, 1, .ro, 0⟩, ⟨13, 3, .ro, 0⟩] },  -- BOB_LOAD_STATUS
  { off := 0x0074, fields := [⟨0, 8, .ro, 0⟩, ⟨8, 24, .ro, 0⟩] },  -- BOB_LOAD_RESULT
  { off := 0x0078, fields := [⟨0, 32, .ro, 0⟩] },  -- BOB_LOAD_ADDR_LO
  { off := 0x007C, fields := [⟨0, 16, .ro, 0⟩] },  -- BOB_LOAD_ADDR_HI
  { off := 0x0080, fields := [⟨0, 32, .rc, 0⟩] },  -- BOB_LOAD_CNT
  { off := 0x0084, fields := [⟨0, 32, .rc, 0⟩] },  -- BOB_REJECT_CNT
  { off := 0x0088, fields := [⟨0, 32, .rc, 0⟩] } ]  -- BOB_SHAPE_CNT

/-- Registers of the bobbin fetcher and scheduler, continued. -/
def regRowsBob_2 : List RegRow := [
  { off := 0x008C, fields := [⟨0, 32, .rc, 0⟩] },  -- BOB_PLAN_MISS_CNT
  { off := 0x0090, fields := [⟨0, 19, .ro, 262144⟩] },  -- BOB_BUF_FREE
  { off := 0x0094, fields := [⟨0, 32, .ro, 0⟩] },  -- BOB_LAST_RUN
  { off := 0x0098, fields := [⟨0, 3, .ro, 0⟩, ⟨3, 1, .ro, 0⟩] },  -- BOB_LAST_BUCKET
  { off := 0x4000, fields := [⟨0, 2, .ro, 0⟩], stride := 4, count := 4096 },  -- BOB_CTX[c]_IMAGE
  { off := 0x0200, fields := [⟨0, 12, .rw, 0⟩, ⟨12, 5, .rw, 0⟩] },  -- BOB_TRN_SEL
  { off := 0x0204, fields := [⟨0, 32, .rw, 0⟩] },  -- BOB_TRN_DATA
  { off := 0x0208, fields := [⟨0, 8, .rw, 16⟩, ⟨8, 8, .rw, 0⟩, ⟨16, 8, .rw, 32⟩] },  -- BOB_LS_CFG
  { off := 0x020C, fields := [⟨0, 32, .rw, 2000⟩] },  -- BOB_LS_RAISE
  { off := 0x0210, fields := [⟨0, 32, .rw, 650000000⟩] },  -- BOB_WD_TICKS
  { off := 0x0214, fields := [⟨0, 16, .rw, 65535⟩, ⟨16, 16, .rw, 0⟩] },  -- BOB_WD_RBAR
  { off := 0x0218, fields := [⟨0, 32, .rc, 0⟩] } ]  -- BOB_WD_CNT

/-- Registers of the bobbin fetcher and scheduler, continued. -/
def regRowsBob_3 : List RegRow := [
  { off := 0x021C, fields := [⟨0, 32, .rc, 0⟩] },  -- BOB_SUPPRESS_CNT
  { off := 0x0220, fields := [⟨0, 32, .rc, 0⟩] } ]  -- BOB_JRN_TRUNC_CNT

/-- All registers of the bobbin fetcher and scheduler. -/
def regRowsBob : List RegRow := regRowsBob_0 ++ regRowsBob_1 ++ regRowsBob_2 ++ regRowsBob_3

/-- Registers of the skein controller (Table 11-6). -/
def regRowsSkn_0 : List RegRow := [
  { off := 0x0000, fields := [⟨0, 3, .ro, 0⟩, ⟨3, 5, .ro, 0⟩, ⟨8, 2, .ro, 0⟩] },  -- SKN_STATE
  { off := 0x0004, fields := [⟨0, 32, .rc, 0⟩] },  -- SKN_CE_CNT
  { off := 0x0008, fields := [⟨0, 32, .rc, 0⟩] },  -- SKN_UE_CNT
  { off := 0x000C, fields := [⟨0, 32, .rc, 0⟩] },  -- SKN_POISON_RD_CNT
  { off := 0x0010, fields := [⟨0, 32, .rc, 0⟩] },  -- SKN_RMW_CNT
  { off := 0x0014, fields := [⟨0, 32, .rc, 0⟩] },  -- SKN_REPAIR_CNT
  { off := 0x0018, fields := [⟨0, 32, .rc, 0⟩] },  -- SKN_ERRRESP_CNT
  { off := 0x001C, fields := [⟨0, 32, .ro, 0⟩] },  -- SKN_UE_ADDR_LO
  { off := 0x0020, fields := [⟨0, 16, .ro, 0⟩] },  -- SKN_UE_ADDR_HI
  { off := 0x0024, fields := [⟨0, 8, .rw, 32⟩] },  -- SKN_BKT_CFG
  { off := 0x0028, fields := [⟨0, 32, .rw, 32500000⟩] },  -- SKN_BKT_LEAK
  { off := 0x002C, fields := [⟨0, 1, .rw, 0⟩] } ]  -- SKN_SCRUB_CFG

/-- Registers of the skein controller, continued. -/
def regRowsSkn_1 : List RegRow := [
  { off := 0x0030, fields := [⟨0, 32, .rw, 8388608⟩] },  -- SKN_SCRUB_INTERVAL
  { off := 0x0034, fields := [⟨0, 22, .ro, 0⟩] },  -- SKN_SCRUB_POS
  { off := 0x0038, fields := [⟨0, 32, .rc, 0⟩] },  -- SKN_SCRUB_PASS_CNT
  { off := 0x003C, fields := [⟨0, 32, .rc, 0⟩] },  -- SKN_BKT_EVT_CNT
  { off := 0x0100, fields := [⟨0, 8, .ro, 0⟩], stride := 4, count := 32 },  -- SKN_BUCKET[c]
  { off := 0x0200, fields := [⟨0, 14, .rwp, 0⟩, ⟨31, 1, .rwp, 0⟩], stride := 4, count := 16 },  -- SKN_PFENCE[i]
  { off := 0x0240, fields := [⟨0, 5, .rwp, 0⟩, ⟨5, 4, .rwp, 0⟩, ⟨9, 4, .rwp, 0⟩, ⟨31, 1, .rwp, 0⟩], stride := 4, count := 2 } ]  -- SKN_BFENCE[i]

/-- All registers of the skein controller. -/
def regRowsSkn : List RegRow := regRowsSkn_0 ++ regRowsSkn_1

/-- Registers of the distaff (Table 13-7). -/
def regRowsDst_0 : List RegRow := [
  { off := 0x0000, fields := [⟨0, 1, .w1c, 0⟩, ⟨1, 1, .w1c, 0⟩, ⟨2, 1, .w1c, 0⟩, ⟨3, 1, .w1c, 0⟩, ⟨4, 1, .w1c, 0⟩, ⟨5, 1, .w1c, 0⟩] },  -- DST_STATUS
  { off := 0x0004, fields := [⟨0, 32, .ro, 1⟩] },  -- DST_SEQ
  { off := 0x0008, fields := [⟨0, 32, .ro, 0⟩], stride := 4, count := 3 },  -- DST_FIRST_MSG[i]
  { off := 0x0014, fields := [⟨0, 32, .ro, 0⟩] },  -- DST_FIRST_SEQ
  { off := 0x0018, fields := [⟨0, 32, .ro, 0⟩] },  -- DST_FIRST_TICK_LO
  { off := 0x001C, fields := [⟨0, 16, .ro, 0⟩] },  -- DST_FIRST_TICK_HI
  { off := 0x0020, fields := [⟨0, 32, .rc, 0⟩] },  -- DST_MSG_CNT
  { off := 0x0024, fields := [⟨0, 32, .rc, 0⟩] },  -- DST_SEVERE_CNT
  { off := 0x0028, fields := [⟨0, 32, .rc, 0⟩] },  -- DST_DROP_CNT
  { off := 0x002C, fields := [⟨0, 32, .rc, 0⟩] },  -- DST_LOG_LOST_CNT
  { off := 0x0030, fields := [⟨0, 32, .rc, 0⟩] },  -- DST_EVR_LOST_CNT
  { off := 0x0034, fields := [⟨0, 11, .ro, 0⟩] } ]  -- DST_CTAB_USED

/-- Registers of the distaff, continued. -/
def regRowsDst_1 : List RegRow := [
  { off := 0x0040, fields := [⟨0, 32, .ro, 0⟩] },  -- DST_LOG_TAIL
  { off := 0x0044, fields := [⟨0, 32, .rw, 0⟩] },  -- DST_LOG_HEAD
  { off := 0x0048, fields := [⟨0, 12, .rw, 0⟩] },  -- DST_LOG_SEL
  { off := 0x0050, fields := [⟨0, 32, .ro, 0⟩], stride := 4, count := 8 },  -- DST_LOG_DATA[w]
  { off := 0x0070, fields := [⟨0, 32, .rw, 0⟩] },  -- DST_EVR_BASE_LO
  { off := 0x0074, fields := [⟨0, 16, .rw, 0⟩] },  -- DST_EVR_BASE_HI
  { off := 0x0078, fields := [⟨0, 5, .rw, 16⟩] },  -- DST_EVR_CFG
  { off := 0x007C, fields := [⟨0, 32, .ro, 0⟩] },  -- DST_EVR_TAIL
  { off := 0x0080, fields := [⟨0, 32, .rw, 0⟩] },  -- DST_EVR_HEAD
  { off := 0x0090, fields := [⟨0, 8, .rw, 0⟩] },  -- DST_KIND_SEL
  { off := 0x0094, fields := [⟨0, 16, .rw, 0⟩, ⟨16, 3, .rw, 0⟩, ⟨19, 3, .rw, 0⟩] },  -- DST_KIND_CFG
  { off := 0x0098, fields := [⟨0, 32, .rw, 0⟩] } ]  -- DST_KIND_WIN

/-- Registers of the distaff, continued. -/
def regRowsDst_2 : List RegRow := [
  { off := 0x00A0, fields := [⟨0, 17, .rwp, 0⟩] },  -- DST_RETIRED0
  { off := 0x00A4, fields := [⟨0, 32, .rwp, 0⟩] },  -- DST_RETIRED1
  { off := 0x00A8, fields := [⟨0, 4, .rwp, 0⟩, ⟨4, 1, .rwp, 0⟩] },  -- DST_RETIRED2
  { off := 0x00AC, fields := [⟨0, 20, .rwp, 0⟩] },  -- DST_RETIRED3
  { off := 0x00B0, fields := [⟨0, 32, .rwp, 0⟩], stride := 4, count := 3 },  -- DST_LAST_RESET[i]
  { off := 0x00BC, fields := [⟨0, 8, .rwp, 0⟩] } ]  -- DST_LAST_RESET3

/-- All registers of the distaff. -/
def regRowsDst : List RegRow := regRowsDst_0 ++ regRowsDst_1 ++ regRowsDst_2

/-- Registers of the clock and gate register file (Table 14-5). -/
def regRowsClk_0 : List RegRow := [
  { off := 0x0000, fields := [⟨0, 1, .ro, 0⟩, ⟨1, 1, .ro, 0⟩, ⟨2, 1, .ro, 0⟩] },  -- CLK_STATUS
  { off := 0x0004, fields := [⟨0, 32, .ro, 0⟩] },  -- CLK_TICK_LO
  { off := 0x0008, fields := [⟨0, 16, .ro, 0⟩] },  -- CLK_TICK_HI
  { off := 0x000C, fields := [⟨0, 3, .ro, 0⟩] },  -- CLK_RST_CAUSE
  { off := 0x0010, fields := [⟨0, 16, .wo, 0⟩] },  -- CLK_DEV_RESET
  { off := 0x0040, fields := [⟨0, 32, .rw, 0⟩], stride := 4, count := 4 },  -- CLK_GATE[w]
  { off := 0x0050, fields := [⟨0, 32, .ro, 0⟩], stride := 4, count := 4 },  -- CLK_PEND[w]
  { off := 0x0060, fields := [⟨0, 32, .wo, 0⟩], stride := 4, count := 4 },  -- CLK_RST[w]
  { off := 0x0070, fields := [⟨0, 32, .ro, 0⟩], stride := 4, count := 4 },  -- CLK_RST_BUSY[w]
  { off := 0x0080, fields := [⟨0, 32, .rw, 0⟩], stride := 4, count := 4 },  -- CLK_SLEEP[w]
  { off := 0x0090, fields := [⟨0, 32, .ro, 0⟩], stride := 4, count := 4 },  -- CLK_ASLEEP[w]
  { off := 0x00A0, fields := [⟨0, 7, .rw, 64⟩, ⟨8, 7, .rw, 64⟩, ⟨16, 7, .rw, 64⟩, ⟨24, 7, .rw, 64⟩] } ]  -- CLK_ISSUE

/-- Registers of the clock and gate register file, continued. -/
def regRowsClk_1 : List RegRow := [
  { off := 0x00B0, fields := [⟨0, 4, .rwp, 0⟩, ⟨4, 1, .rwp, 0⟩, ⟨5, 1, .ro, 0⟩] },  -- CLK_SPARE
  { off := 0x0100, fields := [⟨0, 32, .w1s, 0⟩], stride := 4, count := 128 },  -- CLK_RUN_SET[i]
  { off := 0x0300, fields := [⟨0, 32, .w1c, 0⟩], stride := 4, count := 128 },  -- CLK_RUN_CLR[i]
  { off := 0x0500, fields := [⟨0, 4, .rw, 0⟩, ⟨4, 4, .rw, 2⟩, ⟨8, 5, .rw, 17⟩, ⟨13, 1, .wo, 0⟩, ⟨14, 1, .ro, 0⟩] },  -- CLK_FM_CTL
  { off := 0x0504, fields := [⟨0, 32, .ro, 0⟩] },  -- CLK_FM_RESULT
  { off := 0x0510, fields := [⟨0, 16, .rw, 500⟩] },  -- CLK_DRIFT_PPM
  { off := 0x0514, fields := [⟨0, 32, .ro, 0⟩] },  -- CLK_MON_LAST
  { off := 0x0518, fields := [⟨0, 32, .rc, 0⟩] } ]  -- CLK_DRIFT_CNT

/-- All registers of the clock and gate register file. -/
def regRowsClk : List RegRow := regRowsClk_0 ++ regRowsClk_1

/-- Registers of the niddy (Table 00-1, Table 03-2, Table 04-10, Table 15-13). -/
def regRowsNdy_0 : List RegRow := [
  { off := 0x0000, fields := [⟨16, 16, .ro, 1896⟩, ⟨8, 8, .ro, 10⟩, ⟨0, 8, .ro, 1⟩] },  -- NDY_IDENT
  { off := 0x0400, fields := [⟨0, 8, .ro, 0⟩] },  -- NDY_FMT_VALID
  { off := 0x0404, fields := [⟨0, 3, .rw, 0⟩, ⟨3, 8, .rw, 0⟩] },  -- NDY_FMT_SEL
  { off := 0x0408, fields := [⟨0, 32, .ro, 0⟩] },  -- NDY_FMT_DATA
  { off := 0x0410, fields := [⟨0, 32, .ro, 0⟩], stride := 8, count := 8 },  -- NDY_FMT_DIGEST_LO[s]
  { off := 0x0414, fields := [⟨0, 32, .ro, 0⟩], stride := 8, count := 8 },  -- NDY_FMT_DIGEST_HI[s]
  { off := 0x0480, fields := [⟨0, 16, .ro, 0⟩] },  -- NDY_CURVE_VALID
  { off := 0x0488, fields := [⟨0, 32, .ro, 0⟩], stride := 8, count := 16 },  -- NDY_CURVE_DIGEST_LO[c]
  { off := 0x048C, fields := [⟨0, 32, .ro, 0⟩], stride := 8, count := 16 },  -- NDY_CURVE_DIGEST_HI[c]
  { off := 0x0004, fields := [⟨0, 4, .ro, 0⟩, ⟨4, 8, .ro, 0⟩, ⟨12, 1, .ro, 0⟩, ⟨13, 1, .ro, 0⟩] },  -- NDY_BOOT_STATE
  { off := 0x0008, fields := [⟨0, 32, .ro, 0⟩] },  -- NDY_IMAGE_SEQ
  { off := 0x000C, fields := [⟨0, 32, .rwp, 0⟩] } ]  -- NDY_MIN_SEQ

/-- Registers of the niddy, continued. -/
def regRowsNdy_1 : List RegRow := [
  { off := 0x0010, fields := [⟨0, 1, .ro, 0⟩, ⟨1, 1, .ro, 0⟩, ⟨2, 5, .ro, 0⟩] },  -- NDY_NVM_STATUS
  { off := 0x0014, fields := [⟨0, 28, .rw, 0⟩] },  -- NDY_WEAR_SEL
  { off := 0x0018, fields := [⟨0, 17, .ro, 0⟩, ⟨17, 1, .ro, 0⟩] },  -- NDY_WEAR_DATA
  { off := 0x001C, fields := [⟨0, 32, .ro, 0⟩] },  -- NDY_SPDM_VID
  { off := 0x0020, fields := [⟨0, 4, .ro, 0⟩, ⟨4, 4, .ro, 0⟩] },  -- NDY_KEYSLOT
  { off := 0x0024, fields := [⟨0, 2, .wo, 0⟩, ⟨2, 2, .wo, 0⟩, ⟨16, 16, .wo, 0⟩] },  -- NDY_FUSE_CMD
  { off := 0x0028, fields := [⟨0, 1, .ro, 0⟩, ⟨1, 1, .ro, 0⟩] },  -- NDY_FUSE_RESULT
  { off := 0x0030, fields := [⟨0, 32, .ro, 0⟩], stride := 4, count := 2 },  -- NDY_SERIAL[i]
  { off := 0x0040, fields := [⟨0, 32, .ro, 0⟩], stride := 4, count := 12 },  -- NDY_IMAGE_DIGEST[w]
  { off := 0x0080, fields := [⟨0, 32, .wo, 0⟩], stride := 4, count := 24 },  -- NDY_FUSE_DATA[w]
  { off := 0x0100, fields := [⟨0, 32, .ro, 0⟩], stride := 4, count := 12, stride2 := 96, count2 := 4 },  -- NDY_KEYHASH_RSA[s][w]
  { off := 0x0130, fields := [⟨0, 32, .ro, 0⟩], stride := 4, count := 12, stride2 := 96, count2 := 4 } ]  -- NDY_KEYHASH_SLH[s][w]

/-- Registers of the niddy, continued. -/
def regRowsNdy_2 : List RegRow := [
  { off := 0x0300, fields := [⟨0, 32, .ro, 0⟩] },  -- NDY_LIFE_POWERON
  { off := 0x0304, fields := [⟨0, 32, .ro, 0⟩] },  -- NDY_LIFE_RESETS
  { off := 0x0308, fields := [⟨0, 32, .ro, 0⟩] },  -- NDY_LIFE_DAYS
  { off := 0x0310, fields := [⟨0, 11, .ro, 0⟩] } ]  -- NDY_TELEM_CNT

/-- All registers of the niddy. -/
def regRowsNdy : List RegRow := regRowsNdy_0 ++ regRowsNdy_1 ++ regRowsNdy_2

/-- Registers of the whorl (Table 16-8). -/
def regRowsWhl_0 : List RegRow := [
  { off := 0x0000, fields := [⟨0, 4, .ro, 0⟩, ⟨4, 4, .ro, 0⟩, ⟨8, 4, .ro, 0⟩, ⟨12, 4, .ro, 0⟩, ⟨16, 1, .ro, 0⟩, ⟨17, 1, .ro, 0⟩] },  -- WHL_STATUS
  { off := 0x0004, fields := [⟨0, 12, .rw, 3000⟩] },  -- WHL_CAP
  { off := 0x0008, fields := [⟨0, 10, .rw, 50⟩] },  -- WHL_HYST
  { off := 0x000C, fields := [⟨0, 8, .rw, 32⟩] },  -- WHL_HOLD
  { off := 0x0010, fields := [⟨0, 12, .ro, 0⟩] },  -- WHL_POWER
  { off := 0x0014, fields := [⟨0, 32, .rc, 0⟩] },  -- WHL_ENERGY
  { off := 0x0018, fields := [⟨0, 32, .rc, 0⟩] },  -- WHL_THROT_CNT
  { off := 0x001C, fields := [⟨0, 7, .rw, 64⟩, ⟨8, 7, .rw, 64⟩, ⟨16, 7, .rw, 64⟩, ⟨24, 7, .rw, 64⟩] },  -- WHL_CEIL
  { off := 0x0020, fields := [⟨0, 16, .ro, 0⟩, ⟨16, 6, .ro, 0⟩] },  -- WHL_TEMP_SPINE
  { off := 0x0024, fields := [⟨0, 16, .ro, 0⟩, ⟨16, 5, .ro, 0⟩] },  -- WHL_TEMP_DRAM
  { off := 0x0028, fields := [⟨0, 16, .ro, 0⟩] },  -- WHL_INLET
  { off := 0x002C, fields := [⟨0, 16, .ro, 0⟩] } ]  -- WHL_FLOW

/-- Registers of the whorl, continued. -/
def regRowsWhl_1 : List RegRow := [
  { off := 0x0030, fields := [⟨0, 6, .rw, 0⟩] },  -- WHL_TAB_SEL
  { off := 0x0034, fields := [⟨0, 32, .rw, 0⟩] },  -- WHL_TAB_DATA
  { off := 0x0100, fields := [⟨0, 16, .ro, 0⟩], stride := 4, count := 64 },  -- WHL_TEMP_DIE[s]
  { off := 0x0200, fields := [⟨0, 16, .ro, 0⟩], stride := 4, count := 32 },  -- WHL_TEMP_SKN[k]
  { off := 0x0300, fields := [⟨0, 16, .ro, 0⟩, ⟨16, 16, .ro, 0⟩], stride := 4, count := 8 } ]  -- WHL_RAIL[r]

/-- All registers of the whorl. -/
def regRowsWhl : List RegRow := regRowsWhl_0 ++ regRowsWhl_1

/-- Registers of the port (Table 12-8, Table 12-9). -/
def regRowsPrt_0 : List RegRow := [
  { off := 0x0000, fields := [⟨0, 1, .ro, 0⟩, ⟨1, 1, .ro, 0⟩, ⟨2, 2, .ro, 0⟩] },  -- PRT_STATUS
  { off := 0x0004, fields := [⟨0, 32, .rwp, 0⟩] },  -- PRT_MAC_LO
  { off := 0x0008, fields := [⟨0, 16, .rwp, 0⟩] },  -- PRT_MAC_HI
  { off := 0x000C, fields := [⟨0, 32, .rwp, 0⟩] },  -- PRT_IPV4
  { off := 0x0010, fields := [⟨0, 32, .rwp, 0⟩], stride := 4, count := 4 },  -- PRT_IPV6[i]
  { off := 0x0020, fields := [⟨0, 3, .rw, 3⟩, ⟨3, 3, .rw, 6⟩, ⟨6, 3, .rw, 0⟩, ⟨9, 1, .rw, 1⟩] },  -- PRT_CFG
  { off := 0x0024, fields := [⟨0, 10, .rw, 256⟩] },  -- PRT_PFC_HEADROOM
  { off := 0x0028, fields := [⟨0, 24, .rw, 32500⟩] },  -- PRT_LINK_HOLD
  { off := 0x0040, fields := [⟨0, 32, .rc, 0⟩] },  -- PRT_TX_FRAMES
  { off := 0x0044, fields := [⟨0, 32, .rc, 0⟩] },  -- PRT_RX_FRAMES
  { off := 0x0048, fields := [⟨0, 32, .rc, 0⟩] },  -- PRT_FEC_CORR_CNT
  { off := 0x004C, fields := [⟨0, 32, .rc, 0⟩] } ]  -- PRT_FEC_UNCORR_CNT

/-- Registers of the port, continued. -/
def regRowsPrt_1 : List RegRow := [
  { off := 0x0050, fields := [⟨0, 32, .rc, 0⟩] },  -- PRT_ICRC_CNT
  { off := 0x0054, fields := [⟨0, 32, .rc, 0⟩] },  -- PRT_DROP_CNT
  { off := 0x0058, fields := [⟨0, 32, .rc, 0⟩] },  -- PRT_PFC_TX_CNT
  { off := 0x005C, fields := [⟨0, 32, .rc, 0⟩] },  -- PRT_PFC_RX_CNT
  { off := 0x0060, fields := [⟨0, 32, .rc, 0⟩] },  -- PRT_CE_RX_CNT
  { off := 0x0064, fields := [⟨0, 32, .rc, 0⟩] },  -- PRT_CNP_TX_CNT
  { off := 0x0068, fields := [⟨0, 32, .rc, 0⟩] },  -- PRT_LINK_DOWN_CNT
  { off := 0x006C, fields := [⟨0, 32, .rc, 0⟩] },  -- PRT_DEX_STRAY_CNT
  { off := 0x0070, fields := [⟨0, 32, .rc, 0⟩] },  -- PRT_NOTE_RX_CNT
  { off := 0x0074, fields := [⟨0, 32, .rc, 0⟩] },  -- PRT_ECHO_RX_CNT
  { off := 0x0078, fields := [⟨0, 32, .rc, 0⟩] },  -- PRT_PERR_CNT
  { off := 0x1000, fields := [⟨0, 32, .rw, 0⟩], only0 := true } ]  -- PRT_QPT_BASE_LO

/-- Registers of the port, continued. -/
def regRowsPrt_2 : List RegRow := [
  { off := 0x1004, fields := [⟨0, 16, .rw, 0⟩], only0 := true },  -- PRT_QPT_BASE_HI
  { off := 0x1008, fields := [⟨0, 32, .rw, 0⟩], only0 := true },  -- PRT_EPT_BASE_LO
  { off := 0x100C, fields := [⟨0, 16, .rw, 0⟩], only0 := true },  -- PRT_EPT_BASE_HI
  { off := 0x1010, fields := [⟨0, 32, .rw, 0⟩], only0 := true },  -- PRT_RGT_BASE_LO
  { off := 0x1014, fields := [⟨0, 16, .rw, 0⟩], only0 := true },  -- PRT_RGT_BASE_HI
  { off := 0x1018, fields := [⟨0, 16, .wo, 0⟩, ⟨16, 3, .wo, 0⟩], only0 := true },  -- PRT_QP_CMD
  { off := 0x101C, fields := [⟨0, 16, .ro, 0⟩, ⟨16, 1, .ro, 0⟩], only0 := true },  -- PRT_QP_RESULT
  { off := 0x1020, fields := [⟨0, 8, .rw, 64⟩], only0 := true },  -- PRT_CC_CUT
  { off := 0x1024, fields := [⟨0, 10, .rw, 8⟩], only0 := true },  -- PRT_CC_STEP
  { off := 0x1028, fields := [⟨0, 24, .rw, 16250⟩], only0 := true },  -- PRT_CC_PERIOD
  { off := 0x102C, fields := [⟨0, 10, .rw, 10⟩], only0 := true },  -- PRT_CC_MIN
  { off := 0x1030, fields := [⟨0, 24, .rw, 16250⟩], only0 := true } ]  -- PRT_CNP_GAP

/-- Registers of the port, continued. -/
def regRowsPrt_3 : List RegRow := [
  { off := 0x1034, fields := [⟨0, 32, .rw, 32500000⟩], only0 := true } ]  -- PRT_PFC_STORM

/-- All registers of the port. -/
def regRowsPrt : List RegRow := regRowsPrt_0 ++ regRowsPrt_1 ++ regRowsPrt_2 ++ regRowsPrt_3

/-- Registers of the twist buffer (Table 08-8). -/
def regRowsTwb : List RegRow := [
  { off := 0x0000, fields := [⟨0, 2, .ro, 0⟩] },  -- TWB_STATUS
  { off := 0x0004, fields := [⟨0, 32, .rc, 0⟩] },  -- TWB_TILE_CNT
  { off := 0x0008, fields := [⟨0, 32, .rc, 0⟩] },  -- TWB_STRAIGHT_CNT
  { off := 0x000C, fields := [⟨0, 32, .rc, 0⟩] },  -- TWB_YIELD_CNT
  { off := 0x0010, fields := [⟨0, 32, .rc, 0⟩] },  -- TWB_PERR_CNT
  { off := 0x0014, fields := [⟨0, 32, .ro, 0⟩] },  -- TWB_SPLIT_LO
  { off := 0x0018, fields := [⟨0, 32, .ro, 0⟩] } ]  -- TWB_SPLIT_HI

/-- Registers of the hank (Table 04-9). -/
def regRowsHnk : List RegRow := [
  { off := 0x0000, fields := [⟨0, 32, .ro, 0⟩] },  -- HNK_OPEN_LO
  { off := 0x0004, fields := [⟨0, 32, .ro, 0⟩] },  -- HNK_OPEN_HI
  { off := 0x0008, fields := [⟨0, 32, .rc, 0⟩] },  -- HNK_PERR_CNT
  { off := 0x0100, fields := [⟨0, 12, .ro, 0⟩, ⟨12, 1, .ro, 0⟩], stride := 4, count := 64 } ]  -- HNK_OWNER[s]

/-- Registers of the creel (Table 01-3). -/
def regRowsCrl : List RegRow := [
  { off := 0x0000, fields := [⟨0, 1, .ro, 0⟩] },  -- CRL_STATUS
  { off := 0x0004, fields := [⟨0, 4, .ro, 0⟩, ⟨4, 1, .ro, 0⟩] },  -- CRL_SPARE
  { off := 0x0008, fields := [⟨0, 32, .rc, 0⟩] },  -- CRL_PERR_CNT
  { off := 0x000C, fields := [⟨0, 32, .rc, 0⟩] },  -- CRL_MCAST_CNT
  { off := 0x0010, fields := [⟨0, 32, .rc, 0⟩] },  -- CRL_MCAST_PRUNE
  { off := 0x0014, fields := [⟨0, 1, .rw, 1⟩] } ]  -- CRL_MCAST_MODE

/-- The register rows of a block code. -/
def regRows (code : Nat) : List RegRow :=
  match code with
  | 0 => regRowsSpn
  | 1 => regRowsCrd
  | 2 => regRowsFly
  | 3 => regRowsPly
  | 4 => regRowsBob
  | 5 => regRowsSkn
  | 6 => regRowsDst
  | 7 => regRowsClk
  | 8 => regRowsNdy
  | 9 => regRowsWhl
  | 10 => regRowsPrt
  | 11 => regRowsTwb
  | 12 => regRowsHnk
  | 13 => regRowsCrl
  | _ => []

/-- Does the register at offset `o` of a block belong to this row? -/
def RegRow.has (r : RegRow) (o : Nat) : Bool :=
  (List.range r.count2).any (fun j =>
    let base := r.off + r.stride2 * j
    if r.stride = 0 then o = base else base ≤ o && (o - base) % r.stride = 0 && (o - base) / r.stride < r.count)

/-- The row of register offset `a` (in the block register space), where one is listed. -/
def regRow (a : Nat) : Option RegRow :=
  let code := a / 16777216
  let inst := a / 65536 % 256
  let o := a % 65536
  -- PRT[20] has STATUS, the identity registers and the frame and FEC counters alone (R375)
  if code = 10 && inst = 20 && !(o < 0x20 || (0x40 ≤ o && o < 0x50)) then none
  else (regRows code).find? (fun r => r.has o && (!r.only0 || inst = 0))

/-- The reset value of a register: its fields' reset values, reserved bits zero. -/
def regReset (a : Nat) : Word :=
  match regRow a with
  | some r => packWord (r.fields.map (fun f => (f.lo, f.width, f.reset)))
  | none => 0

/-- The bits of a register in fields of the given types. -/
def RegRow.mask (r : RegRow) (p : Acc → Bool) : Word :=
  packWord ((r.fields.filter (fun f => p f.acc)).map (fun f => (f.lo, f.width, 4294967295)))

/-- Are all fields RO (R10)? -/
def RegRow.allRo (r : RegRow) : Bool := r.fields.all (fun f => f.acc = .ro)

/-- Is this an RC counter (R10)? -/
def RegRow.isRc (r : RegRow) : Bool := r.fields.any (fun f => f.acc = .rc)

/-- Is this a persistent register (R10, R435)? -/
def RegRow.isRwp (r : RegRow) : Bool := r.fields.any (fun f => f.acc = .rwp)

end Sys2Proof.Machine
end

