-- ==== Sys2Proof/Machine/State.lean ====
section
/-! DEFINITION. The state of the part: every register, table, queue, counter, mode and pin the spec gives it, as
plain data, and the queue of commands that wait. -/

namespace Sys2Proof.Machine

/-- Why a step stops. [DESIGN CHOICE, log 3] -/
inductive Fault where
  /-- Raised by any row whose operand is outside what the row admits (`Instr.wf` is false): a byte list of the wrong
  length, a message of another type than the row's. The spec has no such command: the stop is safe. -/
  | malformed
deriving DecidableEq, Repr

/-- Why a step is refused. -/
inductive Refusal where
  /-- Raised by the arms of `exec` that have no meaning yet. Safe: nothing is claimed. -/
  | notModelled (mnemonic : String)
deriving DecidableEq, Repr

/-! ## Fault messages (R378, R380, R384) -/

/-- A fault message of Table 13-1. -/
structure Msg where
  source : BitVec 16
  kind : Byte
  flags : Byte
  addr : BitVec 48
  count : BitVec 16 := 1
deriving DecidableEq, Repr

/-- A message waiting at junction 3 and the command it is charged to, by its identity. -/
structure QMsg where
  msg : Msg
  charge : Option Nat := none
deriving DecidableEq, Repr

/-- One entry of the counting table (R384). -/
structure CEntry where
  source : BitVec 16
  kind : Byte
  start : Nat
  count : Nat
deriving DecidableEq, Repr

/-- Threshold and actions of a kind (DST[0]_KIND_CFG). -/
structure KindCfg where
  n : BitVec 16
  actNormal : BitVec 3
  actSevere : BitVec 3
deriving DecidableEq, Repr

/-- The distaff. -/
structure Distaff where
  /-- Junction-3 queues by SOURCE (R380). -/
  queues : AMap (List QMsg) := []
  /-- Sources that dropped a message since their last accepted one. -/
  dropped : AMap Bool := []
  /-- SOURCE served last (R381). -/
  last : Nat := 65535
  /-- Next sequence number. -/
  seq : Word := 1
  /-- DST[0]_STATUS bits [5:0]. -/
  status : BitVec 6 := 0
  /-- The first-error latch: message, sequence number, tick. -/
  latch : BitVec 96 := 0
  latchSeq : Word := 0
  latchTick : BitVec 48 := 0
  /-- The log ring (R387): 32-byte entries by slot. -/
  log : AMap (BitVec 256) := []
  logTail : Word := 0
  /-- The counting table, by entry number below 1,024. -/
  ctab : AMap CEntry := []
  /-- Classifications written over those of Table 13-2. -/
  cfg : AMap KindCfg := []
  win : AMap Word := []
  /-- The held low half of a new EVR_BASE (R393). -/
  heldLo : Option Word := none
  evrBaseLo : Word := 0
  evrBaseHi : BitVec 16 := 0
  evrLog2 : BitVec 5 := 16
  evrPosted : Bool := false
  evrTail : Word := 0
deriving DecidableEq, Repr

/-! ## The control plane (chapter 02) -/

inductive Phase where
  | fwd | bwd | upd
deriving DecidableEq, Repr

inductive BobState where
  | disabled | enabled | draining | stopped
deriving DecidableEq, Repr

/-- The outcome of a run-size resolution (R154 to R156). -/
inductive Resolved where
  /-- The command has no run-time size, or its plan entry is used as it stands. -/
  | none
  /-- A run size of `run`, the bucket selected and its extent. -/
  | run (n : Nat) (bucket : Nat) (empty exceeds : Bool)
deriving DecidableEq, Repr

/-- A command with what the control plane knows of it. `id` is the model's own name for it (which fault sequence
number belongs to it); `addr` is the ring address of its descriptor. -/
structure Issued where
  id : Nat
  bobbin : Bobbin
  seq : Word
  addr : Addr
  cmd : Cmd
  res : Resolved := .none
deriving DecidableEq, Repr

/-- How a fetched descriptor stands. -/
inductive QKind where
  /-- Checked and sound. -/
  | ok
  /-- Failed an envelope check (R60): completes with ERROR of kind CHECK. -/
  | bad
  /-- Found late (R71). -/
  | late
  /-- Run-size word failure (R156). -/
  | runWord
  /-- Completed by the watch (R285). -/
  | watched
  /-- Poisoned or unreadable descriptor (R61). -/
  | stop
deriving DecidableEq, Repr

/-- A fetched, undispatched descriptor. -/
structure QEntry where
  is : Issued
  kind : QKind := .ok
  charged : Bool := false
  /-- RUN_SIZE_RESOLVE has been done. -/
  resolved : Bool := false
  /-- Found everything but a free completion slot. -/
  slotWait : Bool := false
  /-- Its plan entry's BSET lies beyond the image's bucket sets (R160). -/
  beyond : Bool := false
  /-- Control-island cycle since which it is ready (R65). -/
  readySince : Option Nat := none
  aged : Bool := false
  /-- `wall` since which it waits on a remote counter alone (R285). -/
  watchSince : Option Nat := none
deriving DecidableEq, Repr

/-- The latched bobbin table entry (Table 02-1). -/
structure BobEntry where
  ringBase : Addr := 0
  log2 : Nat := 5
  cls : Nat := 0
  ctx : BitVec 12 := 0
  prio : BitVec 3 := 0
  cqLog2 : Nat := 4
deriving DecidableEq, Repr

/-- One bobbin. -/
structure Bob where
  state : BobState := .disabled
  prod : Word := 0
  fetched : Word := 0
  head : Word := 0
  tail : Word := 0
  outstanding : Nat := 0
  entry : BobEntry := {}
  queue : List QEntry := []
  /-- Bursts in flight: first descriptor count and length (R54). -/
  bursts : List (Word × Nat) := []
deriving DecidableEq, Repr

/-- A turn position of R64: the bobbin served last and the grants it has had. [DESIGN CHOICE, log 9] -/
structure Turn where
  last : Nat := 262143
  grants : Nat := 0
deriving DecidableEq, Repr

/-- A completion report that has left an engine (R77, R14). `unit` is the epoch unit index of Table 02-4. `undo`
lists the bytes the command has written with what stood there before, for a reset that abandons it (R40). [DEDUCED, log 55] [DESIGN CHOICE, log 60] -/
structure Report where
  is : Issued
  unit : Nat
  status : Byte
  errKind : Nat := 0
  oobReads : Nat := 0
  oobWrites : Nat := 0
  aux : Word := 0
  charged : Bool := false
  /-- The command ran in the unit (it is busy until the report is taken). -/
  ran : Bool := false
  undo : List (Nat × Byte) := []
  /-- Sectors whose error pattern the command's writes changed: the pattern before and after. -/
  undoErrs : List (Nat × List Byte × List Byte) := []
  /-- The physical spindle that finishes the command though it serves the position no longer (R39, R412). -/
  away : Option Nat := none
  /-- A plying command abandoned after it found an overflow or a checksum mismatch (R15). -/
  lovf : Bool := false
  lcsum : Bool := false
  /-- Route records of an EXP_SELECT, which enter the journal in completion order (R289): record and poison. -/
  route : List (Nat × Bool) := []
deriving DecidableEq, Repr

/-! ## Skeins (chapter 11) -/

inductive SknMode where
  | off | training | filling | ready | failed
deriving DecidableEq, Repr

/-- One skein controller. -/
structure Skn where
  mode : SknMode := .off
  channel : BitVec 5 := 0
  refresh : BitVec 2 := 0
  ueAddr : BitVec 48 := 0
  buckets : AMap Nat := []
  scrubPos : Nat := 0
  /-- Ticks from which the leak of R335 and the scrub interval of R336 count. -/
  leakFrom : Nat := 0
  scrubFrom : Nat := 0
  /-- The last leak: its tick, and the levels as that tick's errors raise them before it (R335). -/
  leaked : Option (Nat × AMap Nat) := none
  /-- BKT_CFG and BKT_LEAK as they stood when this tick began, where a write has changed one in it (R335). -/
  cfgWas : Option (Nat × Word × Word) := none
deriving DecidableEq, Repr

/-! ## Spindles, twist buffers, hanks (chapters 04, 08) -/

/-- A panel table entry (R122); `split` marks the split-ply form (R240). -/
structure Panel where
  line : Nat
  nlines : Nat
  fmt : Nat
  ply : Nat
  k : Nat
  vlanes : Nat
  split : Bool := false
deriving DecidableEq, Repr

/-- The panel area as it was before an unfinished multicast stage, and the lines that the stage writes. `id` is the stage's command. -/
structure Overlay where
  id : Nat
  line : Nat
  nlines : Nat
  feed : AMap Byte := []
  feedP : AMap Bool := []
deriving DecidableEq, Repr

/-- One physical spindle with its feed buffer and hank. [DESIGN CHOICE, log 9] -/
structure Spn where
  panels : AMap Panel := []
  /-- What multicast stages that have not completed write over: an instruction on this position's own port is not ordered behind
  them, and finds some of the lines as they were (R123, R159). -/
  was : List Overlay := []
  /-- Panel area: bytes by offset, their poison marks, and the valid bit of each 2 KiB line. -/
  feed : AMap Byte := []
  feedP : AMap Bool := []
  lineV : AMap Bool := []
  /-- Parked tiles: FP32 patterns and poison bits by `slot * 65536 + i * 256 + j`. -/
  hank : AMap Word := []
  hankP : AMap Bool := []
  /-- Slots in state OPEN. -/
  isOpen : AMap Bool := []
  /-- The slot whose tile is in the cells, and the tile by `i * 256 + j`. -/
  cellSlot : Option Nat := none
  cells : AMap Word := []
  cellsP : AMap Bool := []
  /-- The twist buffer's bytes and poison marks, and the half that its next tile takes (R238, R242). -/
  twb : AMap Byte := []
  twbP : AMap Bool := []
  twHalf : Nat := 0
  /-- The stream area's double buffers for A and B: none while no line of it has been written, else a name for what the last
  stream left (R119). -/
  strA : Option Nat := none
  strB : Option Nat := none
deriving DecidableEq, Repr

/-! ## Flyer side memory (R249 to R253) -/

/-- One record: two FP32 values and a poison bit. -/
structure FlyRec where
  a : Word
  b : Word
  poison : Bool := false
deriving DecidableEq, Repr

/-- One directory entry: its key, the records of its line, the resident line that holds it (none when spilled), and the
order of its last use. -/
structure FlyLine where
  ctx : Nat
  step : Nat
  kind : Nat
  layer : Nat
  rowblk : Nat
  coltile : Nat
  recs : AMap FlyRec := []
  line : Option Nat := none
  used : Nat := 0
deriving DecidableEq, Repr

structure Fly where
  dir : AMap FlyLine := []
  stamp : Nat := 0
  /-- Internal frees that wait in the command port (R263): context and step. -/
  frees : List (Nat × Nat) := []
deriving DecidableEq, Repr

/-! ## Loaded images (chapter 05) -/

inductive ImgState where
  | none | loading | loaded | rejected
deriving DecidableEq, Repr

/-- One buffer of a loaded image. -/
structure Buf where
  base : Nat
  size : Nat
  writable : Bool
deriving DecidableEq, Repr

/-- What an accepted load installs (R149, R163): tables, ranges and claims. -/
structure Image where
  /-- Address of the image header. -/
  addr : Nat := 0
  planBase : Nat
  planCount : Nat
  bsetBase : Nat
  bsetCount : Nat
  barFirst : Nat
  barLast : Nat
  holdFirst : Nat
  holdLast : Nat
  /-- HANK_CLAIM and PANEL_CLAIM (first line, lines) by position. -/
  hank : List Nat
  panel : List (Nat × Nat)
  bufs : List Buf
deriving DecidableEq, Repr

/-! ## Contexts and training state (chapters 02, 09) -/

/-- Step and phase of one context. -/
structure Ctx where
  step : Word := 0
  phase : Phase := .fwd
  done : Nat := 0
  /-- The PHASE_CLOSE that waits, and its COUNT. -/
  closer : Option (Issued × Nat) := none
deriving DecidableEq, Repr

/-- One capture point. -/
structure Cap where
  bobbin : BitVec 18 := 0
  en : Bool := false
  seq : Word := 0
deriving DecidableEq, Repr

/-- Training words of one context (Table 09-1), and the journal entry that is open. EXP is none where it stands at INIT as
READY left it. -/
structure Trn where
  exp : Option (BitVec 8) := none
  clean : Word := 0
  optStep : Word := 0
  verdict : BitVec 6 := 0
  seed : BitVec 64 := 0
  jbase : BitVec 48 := 0
  jlog : BitVec 3 := 0
  jen : Bool := false
  jcap : List Nat := [0, 0, 0, 0]
  jseq : Word := 0
  mode : BitVec 2 := 0
  entry : BitVec 4 := 0
  held : Bool := false
  reason : BitVec 2 := 0
  caps : List Cap := [{}, {}, {}, {}, {}, {}, {}, {}]
  /-- An entry is open for the running step: its number, records kept by section, TRUNC bits, POISON bit, JOURNAL_FULL
  sent. -/
  jopen : Option Nat := none
  jcnt : List Nat := [0, 0, 0, 0]
  jtrunc : List Bool := [false, false, false, false]
  jpois : Bool := false
  jfull : Bool := false
  /-- A replay is armed and runs; route runs of its entry already compared. -/
  armed : Bool := false
  jused : List Nat := []
deriving DecidableEq, Repr

/-! ## Queue pairs and ports (chapter 12) -/

/-- An operation the device issues on a queue pair. -/
inductive WireOp where
  /-- A SEND, with the identity of the plying command that waits for its acknowledgement. -/
  | send (bytes : List Byte) (owner : Option Nat)
  /-- The RDMA READ of a fetch: carder and expert. -/
  | read (raddr : Nat) (rkey : Word) (len : Nat) (k gid : Nat)
  /-- The RDMA WRITE of a write-back: carder and owner. -/
  | write (raddr : Nat) (rkey : Word) (data : List Byte) (k gid : Nat)
deriving DecidableEq, Repr

/-- An unacknowledged operation; `sent` when it has left the port. -/
structure SqOp where
  op : WireOp
  sent : Bool := false
deriving DecidableEq, Repr

/-- The headers of a RoCEv2 packet that a port sends (R348): time to live or hop limit, DSCP, the ECN field, IPv4 or IPv6, and the
path. -/
structure RoceHdr where
  port : Nat
  udpSrc : Nat
  hops : Nat
  dscp : Nat
  ecn : Nat
  v4 : Bool
  dgid : Nat
  dmac : Nat
  vlan : Nat
deriving DecidableEq, Repr

/-- What RoCEv2 packets carry. -/
inductive Pkt where
  | rdmaAck (qpn : BitVec 16)
  /-- NAK Invalid Request, NAK Remote Access Error, RNR NAK. -/
  | nakInvalid (qpn : BitVec 16)
  | nakAccess (qpn : BitVec 16)
  | rnrNak (qpn : BitVec 16)
  | rdmaData (qpn : BitVec 16) (bytes : List Byte)
  | atomicAck (qpn : BitVec 16) (old : BitVec 64)
  | frame (qpn : BitVec 16) (op : WireOp)
  /-- A SEND answered to a datagram source. -/
  | udSend (qpn : BitVec 16) (dest : Nat) (bytes : List Byte)
  /-- A CNP of a local queue pair to the queue pair that sent the marked packet. -/
  | cnp (qpn : BitVec 16) (dest : Nat)
deriving DecidableEq, Repr

/-- An answer of `frames` packets that is ready to leave: its class, headers and content. -/
structure HeldFrame where
  cls : Nat
  frames : Nat
  hdr : RoceHdr
  pkt : Pkt
deriving DecidableEq, Repr

/-- One queue pair as loaded (Table 12-3). -/
structure Qp where
  state : Nat := 0
  ud : Bool := false
  dex : Bool := false
  apm : Bool := false
  mig : Nat := 0
  port : Nat := 0
  altPort : Nat := 0
  cls : Nat := 0
  pmtu : Nat := 3
  destQpn : Nat := 0
  retry : Nat := 0
  rnrRetry : Nat := 0
  ackTimeout : Nat := 0
  access : Nat := 0
  bobbin : BitVec 18 := 0
  bobEn : Bool := false
  sqPsn : Nat := 0
  rqPsn : Nat := 0
  qkey : Word := 0
  /-- DGID, DMAC and VLAN of the path in use and of the other one. -/
  path : Nat × Nat × Nat := (0, 0, 0)
  altPath : Nat × Nat × Nat := (0, 0, 0)
  rate : Nat := 0
  retx : Word := 0
  cnpRx : Word := 0
  sq : List SqOp := []
  tries : Nat := 0
  rnrTries : Nat := 0
  /-- `wall` of the last CNP sent for it (R352). -/
  cnpSent : Option Nat := none
  /-- `wall` from which its rate period runs, and the rate before the increase of a period that ended at that `wall`
  (R353). -/
  ccFrom : Nat := 0
  ccOld : Option (Nat × Nat) := none
  /-- `wall` from which its ACK timeout runs. -/
  sentAt : Nat := 0
  /-- What has been sent is due to be sent again, as soon as its class and port let it (R350, R364, R377). -/
  again : Bool := false
deriving DecidableEq, Repr

/-- One host or fabric port. -/
structure Prt where
  /-- Enabled at boot: its MAC address is not zero (R373). -/
  en : Bool := false
  link : Bool := false
  /-- A port reset dropped the link, and link down is not yet reported (R377). -/
  lost : Bool := false
  /-- `wall` since which the peer pauses the class, and whether that pause has been reported as a storm (R351). -/
  pauseD : Option Nat := none
  pauseC : Option Nat := none
  stormD : Bool := false
  stormC : Bool := false
  /-- This port has sent XOFF for the class and not yet XON. -/
  xoffD : Bool := false
  xoffC : Bool := false
  /-- `wall` of the last XOFF sent for the class (R349). -/
  xoffAtD : Nat := 0
  xoffAtC : Nat := 0
  /-- Answers that wait until their class is no longer paused (R350), oldest first. -/
  held : List HeldFrame := []
deriving DecidableEq, Repr

/-! ## Experts (chapter 07) -/

inductive FetchSt where
  | writeBack | queued | flying
deriving DecidableEq, Repr

/-- One miss of a carder, from the choice of its victim to RESIDENT or FAILED. -/
structure Fetch where
  gid : Nat
  /-- Addresses of its residency entry and its slot table entry; the slot's number, address and size. -/
  ent : Nat
  slotEnt : Nat
  slot : Nat
  slotAddr : Nat
  slotSize : Nat
  /-- Context and step count of the command that found the miss; the stamp where it routed the expert. -/
  ctx : Nat := 0
  step : Word := 0
  stamp : Option Word := none
  st : FetchSt := .queued
  /-- The evicted owner whose write-back comes first: its number and the address of its entry. -/
  owner : Option (Nat × Nat) := none
  qpn : Option Nat := none
  tries : Nat := 0
  /-- Control-island cycle of the fetch request, and the tick of the attempt in hand. -/
  start : Nat := 0
  since : Nat := 0
deriving DecidableEq, Repr

/-- An EXP_ASSIGN or EXP_PREFETCH in its data phase. -/
structure CrdJob where
  is : Issued
  assign : Bool
  /-- Experts not yet assigned (index within the partition, global number, N, N poisoned); for a prefetch, numbers whose
  fetch has not started. -/
  wait : List (Nat × Nat × Nat × Bool)
  ert : Nat
  map : Nat
  next : Nat := 0
  train : Bool := false
  ready : Nat := 0
  waited : Nat := 0
  oobReads : Nat := 0
  status : Byte := 0
  errKind : Nat := 0
  charged : Bool := false
  /-- AUX of a prefetch. -/
  aux : Word := 0
deriving DecidableEq, Repr

/-- What one carder has in hand for experts. -/
structure Crd where
  fetches : List Fetch := []
  job : Option CrdJob := none
  /-- READY increments on their way to the scheduler, oldest first. -/
  incs : List Nat := []
  /-- SRAM areas of Table 06-2 that have been written, in table order from 0, each with a name for what it holds (R171). -/
  sram : AMap Nat := []
deriving DecidableEq, Repr

/-! ## Plying engine (chapter 10) -/

/-- A tensor descriptor (Table 03-4). `idxBase` and `idxSize` are BASE and SIZE0 of the index tensor. -/
structure Desc where
  addr : Nat := 0
  base : Nat := 0
  fmt : Nat := 0
  ply : Nat := 0
  ndim : Nat := 0
  idxEn : Bool := false
  idxRef : Nat := 0
  idxDim : Nat := 0
  size : List Nat := [0, 0, 0, 0, 0]
  fill : Word := 0
  stride : List Int := [0, 0, 0, 0, 0]
  reserved : Bool := false
  idxBase : Nat := 0
  idxSize : Nat := 0
deriving DecidableEq, Repr


/-- One open block of an owner (R308). -/
structure OpenBlk where
  sums : List Int := []
  k : Word := 0
  count : Nat := 0
  maxe : Nat := 0
  sat : Bool := false
  /-- A contribution carried code 0x80 (R303). -/
  neg : Bool := false
  poison : Bool := false
  heard : List Nat := []
deriving DecidableEq, Repr

/-- A block as its sender encodes it (R302, R309, R310). -/
structure Contrib where
  block : Nat
  codes : List Int
  cs : Word
  maxe : Nat
  sat : Bool
  poison : Bool
deriving DecidableEq, Repr

/-- One active plying command. [DEDUCED, log 70] -/
structure PlyCmd where
  is : Issued
  /-- The group entry read at acceptance: its number, TAG, SIZE, RANK and PEERS. -/
  group : Nat := 0
  tag : Word := 0
  size : Nat := 1
  rank : Nat := 0
  peers : Nat := 0
  /-- The peer array read at acceptance: each rank's endpoint, and whether its entry was poisoned (R296). -/
  ends : List (Nat × Bool) := []
  /-- The reduction block. -/
  rdid : Nat := 0
  scale : Nat := 0
  next : Nat := 0
  hclass : Nat := 0
  elems : Nat := 0
  shard : Nat := 2048
  allg : Bool := false
  d0 : Option Desc := none
  d1 : Option Desc := none
  /-- The training words when it was accepted: full step count, EXP, OPT_STEP. -/
  step : Word := 0
  exp : BitVec 8 := 0
  optStep : Word := 0
  /-- Messages not yet sent (rank and bytes), and own contributions not yet added. -/
  todo : List (Nat × List Byte) := []
  own : List Contrib := []
  /-- In its pre-round: per owned block MAXE so far and the ranks heard from, and whether a byte of it came poisoned; whether
  the owner's part is done; the blocks whose agreed byte is in. -/
  pre : Bool := false
  preUp : AMap (Nat × List Nat) := []
  preBad : AMap Bool := []
  preOwn : Bool := false
  preDown : AMap Bool := []
  blocks : AMap OpenBlk := []
  closed : AMap Bool := []
  /-- Blocks of the whole tensor that are in (ALLG, gather). -/
  got : AMap Bool := []
  /-- Verdict: children heard from, their flags, whether VERDICT_UP is sent, whether the verdict is in. -/
  heard : List Nat := []
  ovfIn : Bool := false
  csumIn : Bool := false
  upSent : Bool := false
  downIn : Bool := false
  /-- What has been found against it. -/
  checksum : Bool := false
  overflow : Bool := false
  poisoned : Bool := false
  consumed : Bool := false
  failed : Bool := false
  /-- Ranks whose EXP or OPT_STEP differed (R310). -/
  lsFrom : List Nat := []
  charged : Bool := false
  oobReads : Nat := 0
  oobWrites : Nat := 0
  oobAddr : Option Nat := none
  aux : Nat := 0
  /-- Tick since which it has heard from no peer (R311). -/
  since : Nat := 0
deriving DecidableEq, Repr

/-! ## The niddy (chapter 15) -/

/-- Where the start-up stands. [DESIGN CHOICE, log 11] -/
inductive BootPhase where
  /-- In reset, or out of it and not yet started. -/
  | held
  /-- At step 1 of Table 14-3, with no core reference. -/
  | waitRef
  /-- At step 3 of Table 14-3. -/
  | windows
  /-- Steps 9 and 10 of Table 15-6 are done. -/
  | placed
  | ready
  /-- A step has failed the boot. -/
  | failing
  | failed
deriving DecidableEq, Repr

/-- A fuse operation in hand: PROGRAM of a slot with its data by word, REVOKE of a slot, or one that is refused. -/
inductive FuseOp where
  | program (slot : Nat) (data : AMap Word)
  | revoke (slot : Nat)
  | refused
deriving DecidableEq, Repr

/-- Fuses: programmed and revoked slots, key hashes by word (`24 * slot + w`), serial number, SPDM vendor, factory MAC
of the management port. [DESIGN CHOICE, log 10] -/
structure Fuses where
  prog : BitVec 4 := 0
  revoked : BitVec 4 := 0
  hash : AMap Word := []
  serial : BitVec 64 := 0
  vid : Word := 0
  mac : BitVec 48 := 0x020000000001
deriving DecidableEq, Repr

/-- A large SPDM response that is fetched in chunks. -/
structure Large where
  handle : Byte
  bytes : List Byte
deriving DecidableEq, Repr

structure Ndy where
  phase : BootPhase := .held
  /-- NDY[0]_BOOT_STATE: STATE, REASON, SLOT, FALLBACK. -/
  step : Nat := 0
  reason : Nat := 0
  slot : Nat := 0
  fallback : Bool := false
  /-- SEQ, KEYSLOT and SHA-384 of the running image. -/
  seq : Word := 0
  keyslot : Nat := 0
  digest : List Byte := []
  /-- The NVM runs in 8D-8D-8D. -/
  fast : Bool := false
  /-- Identity of the management port, taken at step 3: MAC, IPv4 and IPv6 address (R373, R375). -/
  mac : Nat := 0
  ip4 : Nat := 0
  ip6 : Nat := 0
  /-- Skeins that fail training at this boot, with the first channel that fails. -/
  trainFail : List (BitVec 5 × BitVec 5) := []
  /-- Stability windows judged, and passes in a row (R415). -/
  windows : Nat := 0
  passes : Nat := 0
  /-- The active persistent half, its generation, and the records in it (R435). -/
  half : Option Nat := none
  gen : Nat := 0
  nrec : Nat := 0
  /-- Write-throughs that the NVM has in hand and that wait, oldest first: the `wall` of each (R436). -/
  nvmq : List Nat := []
  /-- `wall` since which a compaction runs; blocks of 64 KiB of the old half that are erased, while that goes on (R438). -/
  compactAt : Option Nat := none
  eraseAt : Option Nat := none
  /-- `wall` at which the skeins began to train (R339). -/
  trainAt : Nat := 0
  /-- The PORT table, once staged: interfaces, collector and its UDP port, gateway (R428). -/
  staged : Bool := false
  ifaces : List Nat := []
  collector : Nat := 0
  colPort : Nat := 0
  gateway : Nat := 0
  /-- Registers of the TELEMETRY table, and the frame: value and tick of the copy of each (R441). -/
  telem : List Nat := []
  frame : List (Word × Nat) := []
  /-- A NOTICE that waits for its next hop. -/
  notice : Option (List Byte) := none
  noticeAt : Nat := 0
  /-- The last 16 TAGs answered, oldest first, with their responses (R443). -/
  tags : List (Word × List Byte) := []
  fuse : Option FuseOp := none
  fuseDone : Bool := false
  fuseFail : Bool := false
  fuseData : AMap Word := []
  /-- The hash of the transcript of the last signed MEASUREMENTS of the SPDM connection; a response kept for CHUNK_GET. -/
  transcript : Option (List Byte) := none
  large : Option Large := none
  /-- Register offset that the SMBus target reads (R469). -/
  smb : Word := 0
  /-- `wall` of the last telemetry copy and of the last LIFE_DAYS count. -/
  telemAt : Nat := 0
  dayAt : Nat := 0
deriving DecidableEq, Repr

/-! ## The whorl and the package (chapter 16) -/

structure Whl where
  /-- The table taken at step 7 (R463), 256 bytes; empty before. -/
  table : List Byte := []
  level : Nat := 0
  plev : Nat := 0
  clev : Nat := 0
  dlev : Nat := 0
  below : Nat := 0
  flowLow : Bool := false
  /-- `wall` since which the flow has been below FLOW_MIN, or at or above it (R461). -/
  flowBelow : Option Nat := none
  flowAbove : Option Nat := none
  /-- Sensors that stood at or above CFAULT, skeins at or above DFAULT, in the last evaluation (R460). -/
  dieHot : List Nat := []
  sknHot : List Nat := []
  inletHigh : Bool := false
  power : Nat := 0
  /-- Input energy not yet a whole joule, in W × ticks. -/
  energy : Nat := 0
  die : List (BitVec 16) := []
  skn : List (BitVec 16) := []
  inlet : BitVec 16 := 0
  flow : BitVec 16 := 0
  rails : List (BitVec 16 × BitVec 16) := []
  /-- When (`wall`) a unit's retired bit was set (R462). -/
  retiredAt : AMap Nat := []
deriving DecidableEq, Repr

/-- The supply (R452, R454, R455, R460). -/
inductive Power where
  /-- P12V is down; every regulator is off. -/
  | off
  /-- Every rail in regulation. -/
  | on
  /-- Tripped; the regulators restart 10 ms later. -/
  | tripped
  /-- A third trip within 1 s: off until P12V falls and rises. -/
  | latched
  /-- A thermal trip: VMGMT and VIO only. -/
  | thermal
deriving DecidableEq, Repr

/-- The instruction that the JTAG test logic holds (R470). [PRESUMED, log 107] -/
inductive Tap where
  | idcode | bypass | sample | extest | clamp | highz
deriving DecidableEq, Repr

structure Pkg where
  power : Power := .on
  /-- RESET_N is held low. -/
  resetLow : Bool := false
  /-- `wall` of the power trips since the 12 V input rose, newest first. -/
  trips : List Nat := []
  /-- `wall` of the last device reset (R418). -/
  resetAt : Option Nat := none
  tap : Tap := .idcode
  /-- The strap lands SA1 and SA0 (R469). -/
  sa : BitVec 2 := 0
  /-- Physically faulty cells of the stacks, which no write repairs: 36 bytes by sector number (R328). -/
  stuck : AMap (List Byte) := []
deriving DecidableEq, Repr

/-- The algorithms of R444. -/
inductive SpdmAlg where
  | rsapss3072 | sha384
deriving DecidableEq, Repr

/-- An SPDM response, by what the spec says it carries. -/
inductive Spdm where
  | version (v : Nat)
  | capabilities (transfer size : Nat)
  | algorithms (asym hash measurementHash : SpdmAlg)
  | digests (digest : List Byte)
  | certificate (portion : List Byte) (remainder : Nat)
  | challengeAuth (chainHash nonce signature : List Byte)
  /-- How many measurements there are, and blocks: index, raw form, value. -/
  | measurements (total : Nat) (blocks : List (Nat × Bool × List Byte)) (nonce signature : List Byte)
  | chunk (handle : Byte) (number : Nat) (last : Bool) (bytes : List Byte)
  | vendor (payload : List Byte)
  | largeResponse (handle : Byte)
  | unsupported
  | unexpected
  | invalid
deriving DecidableEq, Repr


/-- What leaves the part. -/
inductive Out where
  /-- RoCEv2 on a host or fabric port. -/
  | roce (h : RoceHdr) (p : Pkt)
  /-- A PFC frame: the priority, and its pause time in quanta (0: XON). -/
  | pfc (port : BitVec 5) (pcp quanta : Nat)
  /-- A management response to a MAC and an IP address; a NOTICE to a next hop's MAC address. -/
  | mgmt (mac : BitVec 48) (ip : BitVec 128) (frame : List Byte)
  | notice (mac : BitVec 48) (collector port : Nat) (frame : List Byte)
  /-- A neighbour query by the management port for an address, and an answer to one. -/
  | resolve (target : Nat)
  | neighbour (mac : BitVec 48) (ip : BitVec 128) (target : BitVec 128) (answer : BitVec 48)
  /-- An SPDM response to a MAC and an IP address. -/
  | spdm (mac : BitVec 48) (ip : BitVec 128) (r : Spdm)
  /-- SMBus: bytes of a block read, the target's own address, an acknowledgement or a NAK. -/
  | smbData (bytes : List Byte)
  | smbAddress (a : Nat)
  | smbAck
  | smbNak
  /-- Lands (Table 16-9): PWRGD and THERMTRIP_N as they change (asserted or not); XSPI_RST_N driven low for 10 µs. -/
  | pwrgd (high : Bool)
  | thermtrip (asserted : Bool)
  | xspiReset
  /-- JTAG: the IDCODE register. -/
  | idcode (v : Word)
  /-- A register's value, to the origin that read it. -/
  | value (v : Word)
  /-- A skein controller's answer to a read (none: a byte with an error response) and to a write (the first address of each
  sector with an error response). -/
  | sknData (src : BitVec 16) (bytes : List (Option MByte))
  | sknAck (src : BitVec 16) (refused : List Nat)
deriving DecidableEq, Repr

/-- The state of the part. [DESIGN CHOICE, log 106] -/
structure State where
  /-- Commands that wait, first in first out. -/
  pending : List Instr := []
  /-- Management ticks since step 5 of Table 14-3 (48 bits), and management ticks in all. -/
  tick : Nat := 0
  wall : Nat := 0
  /-- Control-island cycles since step 6 of Table 14-3. -/
  cyc : Nat := 0
  /-- The model's own counter of free values used. -/
  free : Nat := 0
  /-- The model's own counter of command identities. -/
  ids : Nat := 0
  /-- RW fields and RC counters of the block register space, by register offset (R11); unlisted: the reset value. -/
  reg : AMap Word := []
  /-- Skein memory: data bytes by device address; unlisted: zero, as the fill leaves it (R339). -/
  mem : List Host.Cell := []
  /-- Sectors whose stored codeword differs from the encoded data (R327): 36 bytes by sector number. -/
  errs : AMap (List Byte) := []
  skn : AMap Skn := []
  dst : Distaff := {}
  -- junction 2 (chapter 14), bit 32w + u of Table 14-2
  gate : BitVec 128 := 0
  pend : BitVec 128 := 0
  rstBusy : BitVec 128 := 0
  sleepReq : BitVec 128 := 0
  asleep : BitVec 128 := 0
  /-- Sleep return in progress: tick at which power came back (R408). -/
  wakeAt : AMap Nat := []
  /-- Context run mask (R411). -/
  run : BitVec 4096 := 0
  /-- Spare map in force and the request that waits (R412): POS, ACTIVE; and the tick of the request. -/
  spare : BitVec 5 := 0
  spareReq : Option (BitVec 5 × Nat) := none
  -- control plane
  ready : Bool := false
  bobs : AMap Bob := []
  /-- Turn positions by unit index and level (R64), and the fetcher's by level (R66). -/
  turns : AMap Turn := []
  fetchTurns : AMap Turn := []
  barriers : AMap Word := []
  /-- When (`wall`) a barrier counter last changed, by counter (R285). -/
  barrierAt : AMap Nat := []
  holds : AMap Bool := []
  epochs : AMap (BitVec 16) := []
  /-- Command ports: commands dispatched to each unit and not yet accepted, oldest first. -/
  ports : AMap (List Issued) := []
  /-- Scheduler opcodes dispatched and not yet run. -/
  sched : List Issued := []
  reports : List Report := []
  /-- Sequence numbers returned for charged faults, by command identity (R381). -/
  seqs : AMap Word := []
  /-- Persistent registers: stored value and wear count by register offset (R435 to R437). -/
  rwp : AMap Word := []
  wear : AMap Nat := []
  /-- Retirements that wait for the end of a reset (R391). -/
  retireWait : BitVec 128 := 0
  /-- The reset-cause latch (R418). -/
  cause : BitVec 3 := 0
  -- clocks (chapter 14)
  pllLock : Bool := false
  spread : Bool := false
  onRoot : Bool := false
  /-- Step 6 of Table 14-3 is done: dividers released, clock monitor armed, drift monitor running. -/
  clocksOn : Bool := false
  fmRun : Bool := false
  fmDone : Bool := false
  fmResult : Word := 0
  driftOdd : Bool := false
  monLast : Word := 0
  /-- Format tables (R91): 256 FP32 patterns of each valid slot; curve tables: their 2,056 bytes or pattern words. -/
  fmt : AMap (List Word) := []
  spn : AMap Spn := []
  fly : AMap Fly := []
  curves : AMap (List Word) := []
  /-- The parity errors that strike during the step that runs; empty between steps. -/
  struck : List Hit := []
  /-- Images of LOADED contexts, and image states, by context. -/
  images : AMap Image := []
  imgState : AMap ImgState := []
  /-- IMAGE_START commands handed to the loader, oldest first (R165). -/
  loading : List Issued := []
  loadCtx : BitVec 12 := 0
  loadResult : Word := 0
  loadAddr : BitVec 48 := 0
  /-- The plan cache (R166): 32-byte entries by address. -/
  planCache : AMap Nat := []
  lastRun : Word := 0
  lastBucket : BitVec 4 := 0
  /-- Contexts: step and phase; training words; the INIT that READY found. -/
  ctxs : AMap Ctx := []
  trns : AMap Trn := []
  lsInit : BitVec 8 := 0x10
  /-- Queue pairs, ports, the result of the last queue-pair operation. -/
  qps : AMap Qp := []
  prts : AMap Prt := []
  qpResult : Word := 0
  crds : AMap Crd := []
  ply : List PlyCmd := []
  /-- The boot NVM by offset; unlisted: erased, 0xFF. -/
  nvm : AMap Byte := []
  ndy : Ndy := {}
  fuses : Fuses := {}
  whl : Whl := {}
  pkg : Pkg := {}
  out : List Out := []
deriving DecidableEq, Repr

/-- The part right after reset: management plane only, every enable off, nothing trained or filled (R37). [DESIGN CHOICE, log 9] [DESIGN CHOICE, log 10] [DESIGN CHOICE, log 11] -/
def State.reset : State := {}

end Sys2Proof.Machine
end

