-- ==== Sys2Proof/WellFormed.lean ====
section
/-! DEFINITION. Which commands are well formed: the operands that the outside world can supply at all. A command that is not
well formed is none that the spec has, and a step on it ends in the fault `malformed`. -/

namespace Sys2Proof

/-- An upset names the first byte of a sector in skein memory and 36 bytes of change (R327). -/
def Upset.wf (u : Upset) : Bool := u.addr.toNat < 2 ^ 40 && u.addr.toNat % 32 = 0 && u.pattern.length = 36

/-- A request to a skein controller: at least one byte, all of one 32 GiB slot (R18). -/
def requestWf (a len : Nat) : Bool := 0 < len && a + len ≤ 2 ^ 40 && a / 2 ^ 35 = (a + len - 1) / 2 ^ 35

/-- The message begins with the type byte of its row (R367). -/
def typeWf (t : Nat) (m : SendIn) : Bool :=
  match m.bytes with
  | b :: _ => b.toNat = t
  | [] => false

/-- A host or fabric port (Table 12-1). -/
def portWf (n : BitVec 5) : Bool := n.toNat < 20

/-- A place that Table 14-2 lists: 32 times the word plus the bit. -/
def unitWf (u : BitVec 7) : Bool := u.toNat < 24 || (32 ≤ u.toNat && u.toNat < 116)

/-- One sample: 64 die sensors, 32 skeins, 8 rails (R456, Table 16-8). -/
def Sample.wf (m : Sample) : Bool := m.die.length = 64 && m.skn.length = 32 && m.rails.length = 8

/-- An SPDM nonce is 32 bytes. -/
def nonceWf (l : List Byte) : Bool := l.length = 32

/-- An address outside skein memory: the row is an access to a register, or to a place where none is (Table 00-6). -/
def registerAddress (a : Addr) : Bool := 2 ^ 40 ≤ a.toNat

/-- The frame begins with the OP of its row (Table 15-10). REG_READ also stands for the requests whose OP the table gives no row. -/
def opWf (op : Nat) (m : MgmtIn) : Bool :=
  match m.frame with
  | b :: _ => if op = 1 then !(2 ≤ b.toNat && b.toNat ≤ 6) else b.toNat = op
  | [] => false

/-- Well-formed commands. [DESIGN CHOICE, log 3] -/
def Instr.wf : Instr → Bool
  | .engineCompletion u => u.toNat < 54
  | .skeinRead _ a len us => requestWf a.toNat len && us.all Upset.wf
  | .skeinWrite _ a data => requestWf a.toNat data.length
  | .scrubGranule _ us => us.all Upset.wf
  | .fenceWrite _ _ i _ _ => i.toNat < 18
  | .reduce m => typeWf 0x10 m
  | .prescaleUp m => typeWf 0x11 m
  | .prescaleDown m => typeWf 0x12 m
  | .sum m => typeWf 0x13 m
  | .gather m => typeWf 0x14 m
  | .verdictUp m => typeWf 0x15 m
  | .verdictDown m => typeWf 0x16 m
  | .barrier m => typeWf 0x30 m
  | .fetchNote m => typeWf 0x20 m
  | .wbNote m => typeWf 0x21 m
  | .replayHold m => typeWf 0x40 m
  | .echoReq m => typeWf 0x50 m
  | .echoRsp m => typeWf 0x51 m
  | .unsupportedFrame n _ => n.toNat < 21
  | .pfcXoff n _ => portWf n
  | .pfcXon n _ _ => portWf n
  | .pfcStorm n _ => portWf n
  | .pfcXoffRepeat n _ _ => portWf n
  | .linkDown n _ => portWf n
  | .linkUp n => portWf n
  | .challenge _ nonce _ => nonceWf nonce
  | .getMeasurements _ _ nonce _ => nonceWf nonce
  | .regRead m => opWf 1 m
  | .regWrite m => opWf 2 m
  | .telemRead m => opWf 3 m
  | .nvmRead m => opWf 4 m
  | .nvmErase m => opWf 5 m
  | .nvmProgram m => opWf 6 m
  | .smbOtherCommand c => c ≠ 0x10 && c ≠ 0x11
  | .sleepEntry u => unitWf u
  | .wake u => unitWf u
  | .unitResetDone u => unitWf u
  | .retiredSleep u => unitWf u
  | .rwpWrite _ a _ _ => registerAddress a
  | .rcCounterRead _ a => registerAddress a && 0x020200000000 ≤ a.toNat && a.toNat < 0x02020E000000
  | .registerWrite _ a _ => registerAddress a
  | .whorlPeriod m => m.wf
  | .thermtripRelease m => m.wf
  | _ => true

end Sys2Proof
end

