-- ==== Sys2Proof/Machine/Ops.lean ====
section
/-! DEFINITION. The named operations every family shares: free values, units and their gates, the register store and its
counters, sending fault messages, epochs, barriers and hold bits. -/

namespace Sys2Proof.Machine

/-- The outcome of a step. -/
abbrev Res := Host.Outcome State Fault Refusal

/-- The next state of a well-formed command; the fault `malformed` for any other. [DESIGN CHOICE, log 3] -/
def guarded (i : Instr) (s : State) : Res := if i.wf then .next s else .fault .malformed

/-- Advance the counter of free values. [DESIGN CHOICE, log 5] -/
def State.bumpFree (s : State) : State := { s with free := s.free + 1 }

/-- A fresh command identity. [DESIGN CHOICE, log 6] -/
def State.bumpId (s : State) : State := { s with ids := s.ids + 1 }

/-! ## Units (Table 02-4, Table 14-2) -/

/-- The physical spindle that serves position `p` (R28, R412). -/
def physOf (s : State) (p : Nat) : Nat :=
  if s.spare.getLsbD 4 && (s.spare.toNat % 16 = p) then 16 else p

/-- The position a physical spindle serves, if any. -/
def posOf (s : State) (n : Nat) : Option Nat :=
  if n = 16 then (if s.spare.getLsbD 4 then some (s.spare.toNat % 16) else none)
  else if s.spare.getLsbD 4 && (s.spare.toNat % 16 = n) then none else some n

/-- Place in the unit vector of Table 14-2 (32 * word + bit) of an epoch unit index of Table 02-4. -/
def vecOfUnit (s : State) (u : Nat) : Nat :=
  if u < 16 then physOf s u else if u < 48 then 32 + (u - 16) else if u < 52 then 17 + (u - 48) else 21

/-- Places of single blocks in the unit vector. -/
def vecCreel : Nat := 22
def vecCtl : Nat := 23
def vecSkn (k : Nat) : Nat := 64 + k
def vecPrt (n : Nat) : Nat := 96 + n
def vecCrd (k : Nat) : Nat := 32 + k
def vecFly (f : Nat) : Nat := 17 + f
def vecPly : Nat := 21

/-- Does Table 14-2 list the place? -/
def vecUsed (v : Nat) : Bool := v < 24 || (32 ≤ v && v < 116)
/-- Units that Table 14-2 gives a reset. -/
def vecHasReset (v : Nat) : Bool := v < 22 || (32 ≤ v && v < 116)
/-- Units that Table 14-2 gives a sleep. -/
def vecHasSleep (v : Nat) : Bool := v < 22 || (32 ≤ v && v < 64)

/-- The unit is stopped: gated off, asleep or retired by its gate (R38, R407). A stop that is pending counts (R39). -/
def unitOff (s : State) (v : Nat) : Bool :=
  !s.gate.getLsbD v || s.asleep.getLsbD v || s.sleepReq.getLsbD v

/-- SOURCE code of a place in the unit vector (R378). -/
def sourceOfVec (v : Nat) : BitVec 16 :=
  if v < 17 then BitVec.ofNat 16 v
  else if v < 21 then BitVec.ofNat 16 (0x200 + (v - 17))
  else if v = 21 then 0x300
  else if v = 22 then 0xD00
  else if v = 23 then 0x400
  else if v < 64 then BitVec.ofNat 16 (0x100 + (v - 32))
  else if v < 96 then BitVec.ofNat 16 (0x500 + (v - 64))
  else BitVec.ofNat 16 (0xA00 + (v - 96))

/-- Unit vector place of a register block instance, where it has a gate (Table 14-2); TWB and HNK follow their spindle. -/
def vecOfBlock (code inst : Nat) : Option Nat :=
  match code with
  | 0 => some inst
  | 1 => some (32 + inst)
  | 2 => some (17 + inst)
  | 3 => some 21
  | 4 => some 23
  | 5 => some (64 + inst)
  | 10 => if inst < 20 then some (96 + inst) else none
  | 11 => some inst
  | 12 => some inst
  | 13 => some 22
  | _ => none

/-- SOURCE of a block instance. -/
def src (code inst : Nat) : BitVec 16 := BitVec.ofNat 16 (code * 256 + inst)

def srcSpn (n : Nat) : BitVec 16 := src 0 n
def srcCrd (k : Nat) : BitVec 16 := src 1 k
def srcFly (f : Nat) : BitVec 16 := src 2 f
def srcPly : BitVec 16 := src 3 0
def srcBob : BitVec 16 := src 4 0
def srcSkn (k : Nat) : BitVec 16 := src 5 k
def srcDst : BitVec 16 := src 6 0
def srcClk : BitVec 16 := src 7 0
def srcNdy : BitVec 16 := src 8 0
def srcWhl : BitVec 16 := src 9 0
def srcPrt (n : Nat) : BitVec 16 := src 10 n
def srcTwb (n : Nat) : BitVec 16 := src 11 n
def srcHnk (n : Nat) : BitVec 16 := src 12 n
def srcCrl : BitVec 16 := src 13 0

/-- SOURCE of the engine with epoch unit index `u`. -/
def srcOfUnit (s : State) (u : Nat) : BitVec 16 := sourceOfVec (vecOfUnit s u)

/-! ## Register store and counters -/

/-- The stored value of a register: an RW register's last value, an RC counter's count, or the reset value. -/
def State.getReg (s : State) (a : Nat) : Word := mget s.reg a (regReset a)

/-- Store a register's value. -/
def State.setReg (s : State) (a : Nat) (v : Word) : State := { s with reg := mput s.reg a v (regReset a) }

/-- Add `n` events to a 32-bit RC counter, saturating (R10). -/
def State.count (s : State) (a n : Nat) : State :=
  if n = 0 then s else s.setReg a (satAdd32 (mget s.reg a 0) n)

/-- Registers by block. -/
def rSpn (n o : Nat) : Nat := regOff 0 n o
def rCrd (k o : Nat) : Nat := regOff 1 k o
def rFly (f o : Nat) : Nat := regOff 2 f o
def rPly (o : Nat) : Nat := regOff 3 0 o
def rBob (o : Nat) : Nat := regOff 4 0 o
def rSkn (k o : Nat) : Nat := regOff 5 k o
def rDst (o : Nat) : Nat := regOff 6 0 o
def rClk (o : Nat) : Nat := regOff 7 0 o
def rNdy (o : Nat) : Nat := regOff 8 0 o
def rWhl (o : Nat) : Nat := regOff 9 0 o
def rPrt (n o : Nat) : Nat := regOff 10 n o
def rTwb (n o : Nat) : Nat := regOff 11 n o
def rHnk (n o : Nat) : Nat := regOff 12 n o
def rCrl (o : Nat) : Nat := regOff 13 0 o

/-- Clear the stored counters and RW values of a register block whose table marks them with the given types. -/
def State.clearBlock (s : State) (code inst : Nat) (p : RegRow → Bool) : State :=
  { s with reg := s.reg.filter (fun e =>
      !(e.1 / 65536 = code * 256 + inst && (match regRow e.1 with | some r => p r | none => false))) }

/-- Reset the counters (RC) of a block instance. -/
def State.clearCounters (s : State) (code inst : Nat) : State := s.clearBlock code inst RegRow.isRc

/-- Reset every stored register of a block instance. -/
def State.clearRegs (s : State) (code inst : Nat) : State := s.clearBlock code inst (fun _ => true)

/-! ## Fault messages (R378 to R380) -/

def flagParam : Byte := 1
def flagHost : Byte := 2
def flagMgmt : Byte := 4
def flagDropped : Byte := 8
def flagCharged : Byte := 16
def flagSevere : Byte := 128

/-- Put a message into its source's queue of 8 at junction 3. A message that finds the queue full is dropped, and one
that was charged then gives its command the sequence number 0xFFFF_FFFF (R380). -/
def sendMsg (m : Msg) (charge : Option Nat) (s : State) : State :=
  let k := m.source.toNat
  let q := mget s.dst.queues k []
  if q.length < 8 then
    let m' := if mget s.dst.dropped k false then { m with flags := m.flags ||| flagDropped } else m
    { s with dst := { s.dst with
        queues := mput s.dst.queues k (q ++ [{ msg := m', charge := charge }]) []
        dropped := mput s.dst.dropped k false false } }
  else
    let s1 := { s with dst := { s.dst with dropped := mput s.dst.dropped k true false } }
    match charge with
    | some id => { s1 with seqs := mset s1.seqs id 0xFFFFFFFF }
    | none => s1

/-- Flags are set on the messages of one queue from number `n` on. -/
def flagFrom (f : Byte) (n : Nat) (q : List QMsg) : List QMsg :=
  q.take n ++ (q.drop n).map (fun x => { x with msg := { x.msg with flags := x.msg.flags ||| f } })

/-- Messages that wait in `t` and did not in `s` carry the flags of the access they arose from (R379). [DEDUCED, log 18] -/
def tagNew (f : Byte) (s t : State) : State :=
  { t with dst := { t.dst with queues := t.dst.queues.map (fun e => (e.1, flagFrom f (mget s.dst.queues e.1 []).length e.2)) } }

/-- A fault whose ADDRESS is a device address. -/
def faultAddr (source : BitVec 16) (kind : Byte) (addr : Nat) (s : State) : State :=
  sendMsg { source := source, kind := kind, flags := 0, addr := BitVec.ofNat 48 addr } none s

/-- A fault whose ADDRESS holds parameters (PARAM set). -/
def faultParam (source : BitVec 16) (kind : Byte) (param : Nat) (s : State) : State :=
  sendMsg { source := source, kind := kind, flags := flagParam, addr := BitVec.ofNat 48 param } none s

/-- The same, standing for `n` events (COUNT, saturating). -/
def faultAddrN (source : BitVec 16) (kind : Byte) (addr n : Nat) (s : State) : State :=
  if n = 0 then s else
  sendMsg { source := source, kind := kind, flags := 0, addr := BitVec.ofNat 48 addr,
            count := BitVec.ofNat 16 (min n 65535) } none s

/-- One fault found by an engine for the command it works on: kind, ADDRESS, whether ADDRESS holds parameters, COUNT. -/
structure Flt where
  kind : Byte
  addr : Nat
  param : Bool := false
  count : Nat := 1
deriving DecidableEq, Repr

/-- Send a fault charged to the command `id` (R379). Only the first one of a command is charged: its number is the one the
record reports (Table 02-6). -/
def faultCharged (source : BitVec 16) (f : Flt) (id : Nat) (s : State) : State :=
  sendMsg { source := source, kind := f.kind, flags := flagCharged ||| (if f.param then flagParam else 0),
            addr := BitVec.ofNat 48 f.addr, count := BitVec.ofNat 16 (min f.count 65535) } (some id) s

/-- Send a fault that belongs to a command whose first fault is charged already. -/
def faultPlain (source : BitVec 16) (f : Flt) (s : State) : State :=
  sendMsg { source := source, kind := f.kind, flags := if f.param then flagParam else 0,
            addr := BitVec.ofNat 48 f.addr, count := BitVec.ofNat 16 (min f.count 65535) } none s

/-- The faults of one command: the first charged, the rest not. -/
def faultsOf (source : BitVec 16) (fs : List Flt) (id : Nat) (s : State) : State :=
  match fs with
  | [] => s
  | f :: r => r.foldl (fun s f => faultPlain source f s) (faultCharged source f id s)

/-! ## Kinds of Table 13-2 -/

def kACCESS_MAP : Byte := 0x01
def kACCESS_FORM : Byte := 0x02
def kACCESS_GATED : Byte := 0x03
def kACCESS_RO : Byte := 0x04
def kACCESS_REFUSED : Byte := 0x05
def kPARITY : Byte := 0x10
def kUE_READ : Byte := 0x11
def kSCRUB_UE : Byte := 0x12
def kCE_BURST : Byte := 0x13
def kPOISON_CONSUMED : Byte := 0x14
def kSKN_TRAIN : Byte := 0x15
def kUNIT_RESET : Byte := 0x16
def kBOBBIN_CFG : Byte := 0x20
def kDOORBELL_OVERRUN : Byte := 0x21
def kBAD_OPCODE : Byte := 0x22
def kBAD_TARGET : Byte := 0x23
def kCTX_MISMATCH : Byte := 0x24
def kDESC_POISON : Byte := 0x25
def kDESC_READ : Byte := 0x26
def kPHASE_LATE : Byte := 0x27
def kPHASE_COUNT : Byte := 0x28
def kCTX_BUSY : Byte := 0x29
def kRUN_WORD : Byte := 0x2A
def kPLAN_REJECT : Byte := 0x2B
def kBAD_FORMAT : Byte := 0x30
def kBAD_SHAPE : Byte := 0x31
def kBAD_FILL : Byte := 0x32
def kBAD_INDEX : Byte := 0x33
def kDESC_RANGE : Byte := 0x34
def kDESC_ALIAS : Byte := 0x35
def kOOB_ACCESS : Byte := 0x36
def kFMT_TABLE : Byte := 0x37
def kCURVE_TABLE : Byte := 0x38
def kFEED_RANGE : Byte := 0x40
def kFEED_PANEL : Byte := 0x41
def kHANK_OWNER : Byte := 0x42
def kHANK_STATE : Byte := 0x43
def kBAD_EPILOGUE : Byte := 0x44
def kCURVE_INVALID : Byte := 0x45
def kSPARE_EXHAUSTED : Byte := 0x46
def kSPARSE_FORMAT : Byte := 0x48
def kSPARSE_FIT : Byte := 0x49
def kSPARSE_OVERCOUNT : Byte := 0x4A
def kSPARSE_INDEX_OOB : Byte := 0x4B
def kSPARSE_ROW_DUP : Byte := 0x4C
def kEXP_PARAM : Byte := 0x50
def kEXP_CACHE_FULL : Byte := 0x51
def kEXP_FETCH_FAIL : Byte := 0x52
def kEXP_WB_FAIL : Byte := 0x53
def kEXP_NO_BALE : Byte := 0x54
def kSTATS_FULL : Byte := 0x58
def kSTATS_MISSING : Byte := 0x59
def kVERDICT_LATE : Byte := 0x60
def kLS_FLOOR : Byte := 0x61
def kLS_MISMATCH : Byte := 0x62
def kOPT_PARAM : Byte := 0x63
def kOPT_ALIAS : Byte := 0x64
def kOPT_NONFINITE : Byte := 0x65
def kPEER_SILENT : Byte := 0x66
def kJOURNAL_CFG : Byte := 0x67
def kJOURNAL_FULL : Byte := 0x68
def kREPLAY_ARM : Byte := 0x69
def kREPLAY_DIVERGE : Byte := 0x6A
def kREPLAY_PEER : Byte := 0x6B
def kPLY_PARAM : Byte := 0x70
def kPLY_CHECKSUM : Byte := 0x71
def kPLY_STRAY : Byte := 0x72
def kLINK_DOWN : Byte := 0x78
def kHOST_LINK_LOST : Byte := 0x79
def kPFC_STORM : Byte := 0x7A
def kQP_CFG : Byte := 0x7B
def kQP_ERROR : Byte := 0x7C
def kDEX_NO_PATH : Byte := 0x7D
def kDEX_STRAY : Byte := 0x7E
def kPORT_ID : Byte := 0x7F
def kCLK_DRIFT : Byte := 0x80
def kTHERM_DRAM : Byte := 0x81
def kTHERM_COMPUTE : Byte := 0x82
def kPOWER_CAP : Byte := 0x83
def kVR_FAULT : Byte := 0x84
def kBOOT_TABLE : Byte := 0x85
def kNVM_WRITE : Byte := 0x86

/-! ## Epochs, barriers, holds -/

/-- The epoch of a unit (Table 02-4 index). -/
def State.epoch (s : State) (u : Nat) : BitVec 16 := mget s.epochs u 0

/-- One epoch increment, 16-bit wrapping (R396). Before READY no epoch counts. -/
def State.bumpEpoch (s : State) (u : Nat) : State :=
  if s.ready then { s with epochs := mput s.epochs u (s.epoch u + 1) 0 } else s

/-- The value of barrier counter `i`. -/
def State.barrier (s : State) (i : Nat) : Word := mget s.barriers i 0

/-- Set a barrier counter (R69). The watch of R285 restarts when a counter changes. -/
def State.setBarrier (s : State) (i : Nat) (v : Word) : State :=
  { s with barriers := mput s.barriers i v 0
           barrierAt := if s.barrier i = v then s.barrierAt else mput s.barrierAt i s.wall 0 }

/-- Add one to a barrier counter, wrapping at 2^32 (R67). -/
def State.incBarrier (s : State) (i : Nat) : State := s.setBarrier i (s.barrier i + 1)

/-- The hold bit of a tag (R80). -/
def State.hold (s : State) (t : Nat) : Bool := mget s.holds t false

def State.setHold (s : State) (t : Nat) (v : Bool) : State := { s with holds := mput s.holds t v false }

/-- Queue of a command port. -/
def State.port (s : State) (u : Nat) : List Issued := mget s.ports u []

def State.setPort (s : State) (u : Nat) (l : List Issued) : State := { s with ports := mput s.ports u l [] }

/-- Is a command of unit `u` in its data phase (its report not yet taken)? -/
def State.unitBusy (s : State) (u : Nat) : Bool :=
  s.reports.any (fun r => r.unit = u && r.ran && r.away.isNone) || (16 ≤ u && u < 48 && (mget s.crds (u - 16) {}).job.isSome)
    || (u = 52 && !s.ply.isEmpty)

/-- Add a completion report. -/
def State.addReport (s : State) (r : Report) : State := { s with reports := s.reports ++ [r] }

/-- One bobbin's record. -/
def State.bob (s : State) (b : Nat) : Bob := mget s.bobs b {}

def State.setBob (s : State) (b : Nat) (x : Bob) : State := { s with bobs := mput s.bobs b x {} }

/-- One frame or response leaves the part. [DESIGN CHOICE, log 8] -/
def State.emit (s : State) (o : Out) : State := { s with out := s.out ++ [o] }

/-- A skein controller. -/
def State.skein (s : State) (k : Nat) : Skn := mget s.skn k {}

def State.setSkein (s : State) (k : Nat) (x : Skn) : State := { s with skn := mput s.skn k x {} }

end Sys2Proof.Machine
end

