-- ==== Sys2Proof/Machine/Kinds.lean ====
section
/-! DEFINITION. Table 13-2: the default classification of every fault kind, and the kinds in force (R382, R385). -/

namespace Sys2Proof.Machine

/-- Action codes of Table 13-3. -/
def actLog : BitVec 3 := 0
def actEvent : BitVec 3 := 1
def actStop : BitVec 3 := 2
def actRetire : BitVec 3 := 3
def actResetUnit : BitVec 3 := 4
def actResetDevice : BitVec 3 := 5

/-- Kinds whose normal action is L and severe action E, at 16 events. -/
def kindsLE : List Byte := [kACCESS_RO, kPOISON_CONSUMED, kOOB_ACCESS, kPOWER_CAP]
/-- Kinds with E / E, severe at every event. -/
def kindsE1 : List Byte :=
  [kSKN_TRAIN, kFMT_TABLE, kCURVE_TABLE, kSPARE_EXHAUSTED, kREPLAY_DIVERGE, kREPLAY_PEER, kHOST_LINK_LOST, kPORT_ID,
   kBOOT_TABLE, kNVM_WRITE]
/-- Kinds with S / S, severe at every event. -/
def kindsS1 : List Byte := [kVERDICT_LATE, kPEER_SILENT]

/-- Default threshold and actions of a kind (Table 13-2); every other code, listed or not, is E / E at 16. -/
def kindDefault (k : Byte) : KindCfg :=
  if k = kPARITY then ⟨16, actLog, actResetUnit⟩
  else if k = kUNIT_RESET then ⟨4, actLog, actRetire⟩
  else if k = kLINK_DOWN then ⟨16, actEvent, actResetUnit⟩
  else if k = kVR_FAULT then ⟨1, actResetDevice, actResetDevice⟩
  else if kindsLE.contains k then ⟨16, actLog, actEvent⟩
  else if kindsE1.contains k then ⟨1, actEvent, actEvent⟩
  else if kindsS1.contains k then ⟨1, actStop, actStop⟩
  else ⟨16, actEvent, actEvent⟩

/-- Default window of a kind in units of 1,024 ticks: 1.0 s, and 3,600 s for UNIT_RESET (R382). -/
def winDefault (k : Byte) : Word := if k = kUNIT_RESET then 1142578125 else 317383

/-- Threshold and actions in force. -/
def kindCfg (s : State) (k : Byte) : KindCfg := mget s.dst.cfg k.toNat (kindDefault k)

/-- Window in force. -/
def kindWin (s : State) (k : Byte) : Word := mget s.dst.win k.toNat (winDefault k)

/-- Kinds whose parameters hold a context in ADDRESS [11:0] (Table 13-2). -/
def kindHasCtx (k : Byte) : Bool :=
  [kPHASE_COUNT, kCTX_BUSY, kVERDICT_LATE, kLS_FLOOR, kLS_MISMATCH, kPEER_SILENT, kJOURNAL_CFG, kJOURNAL_FULL,
   kREPLAY_ARM, kREPLAY_PEER].contains k

/-- The message as 96 bits (Table 13-1). -/
def Msg.bits (m : Msg) : BitVec 96 :=
  BitVec.ofNat 96 (m.source.toNat + m.kind.toNat * 2 ^ 16 + m.flags.toNat * 2 ^ 24 + m.addr.toNat * 2 ^ 32
    + m.count.toNat * 2 ^ 80)

/-- A log entry or host event of Table 13-4. -/
def logRecord (seq : Word) (m : Msg) (tick : Nat) (action : BitVec 3) (fallback gen : Bool) : BitVec 256 :=
  BitVec.ofNat 256 (seq.toNat + m.bits.toNat * 2 ^ 32 + (tick % 2 ^ 48) * 2 ^ 128 + action.toNat * 2 ^ 176
    + b2n fallback * 2 ^ 179 + b2n gen * 2 ^ 255)

end Sys2Proof.Machine
end

