-- ==== Sys2Proof/Machine/Skein.lean ====
section
/-! DEFINITION. Skein memory (chapter 11): address decode, the sector code, fences, demand reads, writes and
read-modify-writes, stored poison, buckets, scrubbing. -/

namespace Sys2Proof.Machine

/-! ## Address decode (R18, R323) -/

def sknOf (a : Nat) : Nat := a / 2 ^ 35
def sknOff (a : Nat) : Nat := a % 2 ^ 35
def chanOf (a : Nat) : Nat := (bits a 8 5) ^^^ (bits a 13 5) ^^^ (bits a 18 5)
/-- Offset within the channel. -/
def chanOffOf (a : Nat) : Nat := (bits (sknOff a) 13 22) * 256 + a % 256
def dieOf (a : Nat) : Nat := bits (chanOffOf a) 26 4
def rowOf (a : Nat) : Nat := bits (chanOffOf a) 14 12
def bankOf (a : Nat) : Nat := bits (chanOffOf a) 10 4
def pageOf (a : Nat) : Nat := bits a 21 14
/-- Is the address in the populated part of a skein slot (R18)? -/
def populated (a : Nat) : Bool := a < 2 ^ 40 && sknOff a < 0x600000000

/-! ## Fences (R337) -/

def pfence (s : State) (k i : Nat) : Word := mget s.rwp (rSkn k (0x200 + 4 * i)) 0
def bfence (s : State) (k i : Nat) : Word := mget s.rwp (rSkn k (0x240 + 4 * i)) 0

/-- A page fence names the page, or the page touches a fenced bank. -/
def pageFenced (s : State) (k page : Nat) : Bool :=
  (List.range 16).any (fun i => let f := pfence s k i; f.getLsbD 31 && f.toNat % 2 ^ 14 = page)
  || (List.range 2).any (fun i => let f := bfence s k i; f.getLsbD 31 && bits f.toNat 5 4 = page / 1024)

/-- A retired page (R337): fenced, or of a FAILED skein (R340). -/
def pageRetired (s : State) (k page : Nat) : Bool :=
  (s.skein k).mode = .failed || pageFenced s k page

/-- Is `[a, a + n)` wholly inside the populated region of one skein slot? -/
def inOneSkein (a n : Nat) : Bool :=
  populated a && (n = 0 || (populated (a + n - 1) && sknOf a = sknOf (a + n - 1)))

/-- Does `[a, a + n)` cover a retired page? -/
def coversRetired (s : State) (a n : Nat) : Bool :=
  n ≠ 0 && (List.range ((a + n - 1) / 2 ^ 21 - a / 2 ^ 21 + 1)).any (fun i =>
    let p := a / 2 ^ 21 + i
    pageRetired s (p / 16384) (p % 16384))

/-- Inside the populated region of one skein and clear of retired pages. -/
def rangeOk (s : State) (a n : Nat) : Bool := inOneSkein a n && !coversRetired s a n

/-- The ACCESS kind with which the controller answers a sector, where it answers with an error response (R334, R407). -/
def sectorRefusal (s : State) (a : Nat) : Option Byte :=
  if !populated a then some kACCESS_MAP
  else
    let k := sknOf a
    let c := s.skein k
    if !s.gate.getLsbD (vecSkn k) || s.rstBusy.getLsbD (vecSkn k) then some kACCESS_GATED
    else if c.mode ≠ .ready || pageFenced s k (pageOf a) then some kACCESS_MAP
    else none

/-! ## The sector code (R327) -/

/-- Multiplication by α = 0x02 in GF(2^8) with x^8 + x^4 + x^3 + x^2 + 1. -/
def gfX (b : Byte) : Byte := if b.getLsbD 7 then (b <<< 1) ^^^ 0x1D else b <<< 1

/-- Multiplication by α^n. -/
def gfXn : Nat → Byte → Byte
  | 0, b => b
  | n + 1, b => gfXn n (gfX b)

/-- C(α^i) by Horner's rule over the bytes, the coefficient of x^35 first. -/
def syndrome (i : Nat) (e : List Byte) : Byte := e.foldl (fun acc b => gfXn i acc ^^^ b) 0

def syndromes (e : List Byte) : List Byte := [syndrome 0 e, syndrome 1 e, syndrome 2 e, syndrome 3 e]

/-- The pattern that inverting all four check bytes adds (R332). -/
def poisonPattern : List Byte := List.replicate 32 0 ++ [0xFF, 0xFF, 0xFF, 0xFF]

/-- What a read finds (R327). -/
inductive SecClass where
  | clean
  | corrected (pos : Nat) (delta : Byte)
  | poison
  | bad
deriving DecidableEq, Repr

/-- The list of R327 applied to the syndromes of the error pattern (the code is linear). -/
def classify (e : List Byte) : SecClass :=
  if e = [] then .clean
  else
    let sy := syndromes e
    if sy = [0, 0, 0, 0] then .clean
    else if sy = syndromes poisonPattern then .poison
    else
      match (List.range 36).find? (fun p =>
          let v := sy.getD 0 0
          v ≠ 0 && [v, gfXn (35 - p) v, gfXn (2 * (35 - p)) v, gfXn (3 * (35 - p)) v] = sy) with
      | some p => .corrected p (sy.getD 0 0)
      | none => .bad

/-- The stored error pattern of a sector; none where the stored codeword encodes the data. -/
def State.errOf (s : State) (sec : Nat) : List Byte := mget s.errs sec []

def State.setErr (s : State) (sec : Nat) (e : List Byte) : State :=
  { s with errs := mput s.errs sec (if e.all (· = 0) then [] else e) [] }

/-- The sum of two error patterns. -/
def addPattern (e f : List Byte) : List Byte := (List.range 36).map (fun j => e.getD j 0 ^^^ f.getD j 0)

/-- The pattern that the sector's physically faulty cells add to whatever is written to them (R328). [DEDUCED, log 110] -/
def State.stuckOf (s : State) (sec : Nat) : List Byte := mget s.pkg.stuck sec []

/-- A codeword with pattern `e` (none, or that of stored poison) is written: faulty cells stay in error. -/
def State.writeErr (s : State) (sec : Nat) (e : List Byte) : State :=
  s.setErr sec (if s.stuckOf sec = [] then e else addPattern e (s.stuckOf sec))

/-- One byte of skein memory as the fill or the last write left it. [DESIGN CHOICE, log 12] -/
def State.byte (s : State) (a : Nat) : Byte := mget s.mem a 0

def State.setByte (s : State) (a : Nat) (v : Byte) : State := { s with mem := mput s.mem a v 0 }

/-- Store a run of bytes. -/
def State.setBytes (s : State) (a : Nat) (l : List Byte) : State :=
  match l with
  | [] => s
  | b :: r => (s.setByte a b).setBytes (a + 1) r

/-- The 32 data bytes as stored (with flipped cells), before correction. -/
def storedData (s : State) (sec : Nat) : List Byte :=
  let e := s.errOf sec
  (List.range 32).map (fun j => s.byte (sec * 32 + j) ^^^ e.getD j 0)

/-- The bytes that a read of the sector delivers, its class being known: poisoned where it holds stored poison or is
uncorrectable (R330, R332). -/
def deliver (s : State) (sec : Nat) : List MByte :=
  let d := storedData s sec
  match classify (s.errOf sec) with
  | .clean => d.map (fun b => { val := b })
  | .corrected p v => (List.range 32).map (fun j => { val := d.getD j 0 ^^^ (if j = p then v else 0) })
  | .poison => d.map (fun b => { val := b, poison := true })
  | .bad => d.map (fun b => { val := b, poison := true })

/-- A byte as an engine sees it: value, poison, and whether the sector answered with an error response. -/
structure RByte where
  val : Byte := 0
  poison : Bool := false
  err : Bool := false
deriving DecidableEq, Repr

/-- Events that strike bytes named by device address on their way to a unit: creel, port, twist path of a carder, stream area. -/
def onRead (h : Hit) : Bool :=
  let c := h.src.toNat / 256
  ((c = 13 || c = 1 || c = 10) && h.part = 0) || (c = 0 && h.part = 1)

/-- Events that strike bytes on their way to memory: creel, or the SRAM of a carder in which results wait. -/
def onWrite (h : Hit) : Bool :=
  let c := h.src.toNat / 256
  (c = 13 || c = 1) && h.part = 1

/-- Is item `a` among the struck ones? -/
def strikes (h : Hit) (a : Nat) : Bool := h.at_ = a || h.also.contains a

/-- Read one byte (R324, R327, R334). [DESIGN CHOICE, log 12] -/
def rdByte (s : State) (a : Nat) : RByte :=
  match sectorRefusal s a with
  | some _ => { poison := true, err := true }
  | none =>
    let m := (deliver s (a / 32)).getD (a % 32) {}
    { val := m.val, poison := m.poison || s.struck.any (fun h => onRead h && strikes h a) }

/-- Read a run of bytes. -/
def rdBytes (s : State) (a n : Nat) : List RByte := (List.range n).map (fun i => rdByte s (a + i))

/-- Values of a run of bytes. -/
def rdVals (s : State) (a n : Nat) : List Byte := (rdBytes s a n).map (·.val)

/-- A little-endian number from memory (R5). -/
def rdNat (s : State) (a n : Nat) : Nat := leNat (rdVals s a n)

/-- Does a run hold a poisoned byte (an error response included)? -/
def rdPoison (s : State) (a n : Nat) : Bool := (rdBytes s a n).any (·.poison)

/-- Does a run meet an error response? -/
def rdErr (s : State) (a n : Nat) : Bool := (rdBytes s a n).any (·.err)

/-! ## Effects of demand accesses -/

/-- An error response to an access of unit `who`: one message of an ACCESS kind. In the skein range the controller counts and sends
it (R334); above, no controller takes part, and the message names `who` (R395). -/
def errorResponse (who : BitVec 16) (flags : Byte) (a : Nat) (kind : Byte) (s : State) : State :=
  if a < 2 ^ 40 then
    sendMsg { source := srcSkn (sknOf a), kind := kind, flags := flags, addr := BitVec.ofNat 48 a } none
      (s.count (rSkn (sknOf a) 0x18) 1)
  else sendMsg { source := who, kind := kind, flags := flags, addr := BitVec.ofNat 48 a } none s

/-- BKT_CFG and BKT_LEAK as they act in this tick: a change takes effect at the next one (R335). -/
def bucketCfg (s : State) (k : Nat) : Word × Word :=
  match (s.skein k).cfgWas with
  | some (t, c, l) => if t = s.tick then (c, l) else (s.getReg (rSkn k 0x24), s.getReg (rSkn k 0x28))
  | none => (s.getReg (rSkn k 0x24), s.getReg (rSkn k 0x28))

/-- The levels before the leak of this tick, where one has been. -/
def beforeLeak (s : State) (k : Nat) : Option (AMap Nat) :=
  match (s.skein k).leaked with
  | some (t, m) => if t = s.tick then some m else none
  | none => none

/-- One correctable error in a channel's bucket (R335): in a tick with a leak the increment is applied and checked first. -/
def bucketAdd (k c a : Nat) (s : State) : State :=
  let sk := s.skein k
  let from_ := (beforeLeak s k).getD sk.buckets
  let level := min (mget from_ c 0 + 1) 255
  let full := (bucketCfg s k).1.toNat % 256 ≤ level
  let up := if full then 0 else level
  let sk1 := match beforeLeak s k with
    | some m => { sk with buckets := mput sk.buckets c (up - 1) 0, leaked := some (s.tick, mput m c up 0) }
    | none => { sk with buckets := mput sk.buckets c up 0 }
  if full then (faultAddr (srcSkn k) kCE_BURST a (s.setSkein k sk1)).count (rSkn k 0x3C) 1 else s.setSkein k sk1

/-- A correctable error met by a read: counted, and in the bucket (R328, R335). -/
def correctable (k sec : Nat) (s : State) : State :=
  bucketAdd k (chanOf (sec * 32)) (sec * 32) (s.count (rSkn k 0x04) 1)

/-- An uncorrectable sector: counted, its address kept, fault `kind` (R330, R336). -/
def uncorrectable (kind : Byte) (k sec : Nat) (s : State) : State :=
  let s1 := s.count (rSkn k 0x08) 1
  faultAddr (srcSkn k) kind (sec * 32)
    (s1.setSkein k { s1.skein k with ueAddr := BitVec.ofNat 48 (sec * 32) })

/-- Write the corrected data back as a sound codeword (R328). -/
def repairSector (sec : Nat) (s : State) : State :=
  ((s.setBytes (sec * 32) ((deliver s sec).map (·.val))).writeErr sec []).count (rSkn (sknOf (sec * 32)) 0x14) 1

/-- What one demand read of a sector does besides delivering data (R327, R328, R330, R332, R334). -/
def touchRead (who : BitVec 16) (flags : Byte) (sec : Nat) (s : State) : State :=
  let a := sec * 32
  match sectorRefusal s a with
  | some kind => errorResponse who flags a kind s
  | none =>
    let k := sknOf a
    match classify (s.errOf sec) with
    | .clean => s
    | .corrected _ _ => repairSector sec (correctable k sec s)
    | .poison => s.count (rSkn k 0x0C) 1
    | .bad => uncorrectable kUE_READ k sec s

/-- The sectors of a run of bytes. -/
def sectorsOf (a n : Nat) : List Nat :=
  if n = 0 then [] else (List.range ((a + n - 1) / 32 - a / 32 + 1)).map (fun i => a / 32 + i)

/-- Drop repeated entries, keeping the first of each. -/
def distinct (l : List Nat) : List Nat :=
  l.foldl (fun acc x => if acc.contains x then acc else acc ++ [x]) []

/-- The demand reads of one command or request: each sector once. -/
def touchReads (who : BitVec 16) (flags : Byte) (secs : List Nat) (s : State) : State :=
  (distinct secs).foldl (fun s x => touchRead who flags x s) s

/-- Read a run of bytes with the effects of the read. -/
def demandRead (who : BitVec 16) (flags : Byte) (a n : Nat) (s : State) : List RByte × State :=
  (rdBytes s a n, touchReads who flags (sectorsOf a n) s)

/-- Bytes to store, grouped by sector: 32 slots each. A later byte for one address wins (R325). [DEDUCED, log 135] -/
def groupWrites (ws : List (Nat × MByte)) : AMap (List (Option MByte)) :=
  ws.foldl (fun m w =>
    let sec := w.1 / 32
    mset m sec ((mget m sec (List.replicate 32 none)).set (w.1 % 32) (some w.2))) []

/-- Perform the write of one sector (R324, R329, R332). The flag tells whether it was answered with an error response
(R334): the bytes are then dropped. -/
def writeSector (who : BitVec 16) (flags : Byte) (sec : Nat) (slots : List (Option MByte)) (s : State) : State × Bool :=
  let a := sec * 32
  match sectorRefusal s a with
  | some kind => (errorResponse who flags a kind s, true)
  | none =>
    let k := sknOf a
    let pois := slots.any (fun o => match o with | some m => m.poison | none => false)
    let store (old : List Byte) (p : Bool) (s : State) : State :=
      (s.setBytes a ((List.range 32).map (fun j =>
          match slots.getD j none with | some m => m.val | none => old.getD j 0))).writeErr sec
        (if p then poisonPattern else [])
    if slots.all (·.isSome) then (store [] pois s, false)
    else
      let old := (deliver s sec).map (·.val)
      let s1 := s.count (rSkn k 0x10) 1
      match classify (s.errOf sec) with
      | .clean => (store old pois s1, false)
      | .corrected _ _ => (store old pois (correctable k sec s1), false)
      | .poison => (store old true s1, false)
      | .bad => (store old true (uncorrectable kUE_READ k sec s1), false)

/-- Store bytes; the result lists the first address of each refused sector (R334). [DEDUCED, log 61] -/
def writeBytes (who : BitVec 16) (flags : Byte) (ws : List (Nat × MByte)) (s : State) : State × List Nat :=
  (groupWrites ws).foldl (fun acc g =>
    let r := writeSector who flags g.1 g.2 acc.1
    (r.1, if r.2 then acc.2 ++ [g.1 * 32] else acc.2)) (s, [])

/-- Store bytes with their poison by a unit that reports to no command. -/
def storeMarked (who : BitVec 16) (a : Nat) (l : List MByte) (s : State) : State :=
  (writeBytes who 0 ((List.range l.length).map (fun i => (a + i, l.getD i {}))) s).1

/-- Store clean bytes by a control-plane or niddy write (a record, a table), with no report to a command. [DEDUCED, log 109] -/
def storeClean (who : BitVec 16) (a : Nat) (l : List Byte) (s : State) : State :=
  (writeBytes who 0 ((List.range l.length).map (fun i => (a + i, { val := l.getD i 0 }))) s).1

/-! ## Upsets, scrubbing, leaks -/

/-- Cells flip: the pattern adds into the stored codeword (R327). -/
def applyUpset (u : Upset) (s : State) : State :=
  let sec := u.addr.toNat / 32
  let s1 := if u.stuck then
      { s with pkg := { s.pkg with stuck := mput s.pkg.stuck sec (addPattern (s.stuckOf sec) u.pattern) [] } }
    else s
  s1.setErr sec (addPattern (s.errOf sec) u.pattern)

def applyUpsets (us : List Upset) (s : State) : State := us.foldl (fun s u => applyUpset u s) s

/-- Slot offset of the first byte of granule `g` of channel `c` (the inverse of R323). -/
def granuleOff (c g : Nat) : Nat :=
  let hi := g * 8192
  hi + (c ^^^ bits hi 13 5 ^^^ bits hi 18 5) * 256

/-- The scrubber at one sector (R336). -/
def scrubSector (sec : Nat) (s : State) : State :=
  let k := sknOf (sec * 32)
  match classify (s.errOf sec) with
  | .clean => s
  | .poison => s
  | .corrected _ _ =>
    let s1 := correctable k sec s
    (s1.setBytes (sec * 32) ((deliver s sec).map (·.val))).writeErr sec []
  | .bad => uncorrectable kSCRUB_UE k sec s

/-- Does the scrubber skip the granule at `a` of skein `k`: in a fenced page, or in the fenced bank itself (R336, R337)? -/
def scrubSkips (s : State) (k a : Nat) : Bool :=
  (List.range 16).any (fun i => let f := pfence s k i; f.getLsbD 31 && f.toNat % 2 ^ 14 = pageOf a)
  || (List.range 2).any (fun i => let f := bfence s k i
      f.getLsbD 31 && bits f.toNat 0 5 = chanOf a && bits f.toNat 5 4 = dieOf a && bits f.toNat 9 4 = bankOf a)

/-- One granule of every channel of skein `k` is scrubbed and the position advances, wrapping after granule 3,145,727
(R336). -/
def scrubGranule (k : Nat) (s : State) : State :=
  let g := (s.skein k).scrubPos
  let s1 := (List.range 32).foldl (fun s c =>
      let a := k * 2 ^ 35 + granuleOff c g
      if scrubSkips s k a then s
      else (List.range 8).foldl (fun s i => scrubSector (a / 32 + i) s) s) s
  let sk := s1.skein k
  let wrap := g + 1 = 3145728
  let s2 := s1.setSkein k { sk with scrubPos := if wrap then 0 else g + 1, scrubFrom := s.tick }
  if wrap then s2.count (rSkn k 0x38) 1 else s2

/-- Every bucket of skein `k` falls by one unless it is 0 (R335). -/
def leakBuckets (k : Nat) (s : State) : State :=
  let sk := s.skein k
  s.setSkein k { sk with
    buckets := sk.buckets.foldl (fun m e => mput m e.1 (e.2 - 1) 0) []
    leaked := some (s.tick, sk.buckets)
    leakFrom := (sk.leakFrom + (bucketCfg s k).2.toNat) % 2 ^ 48 }

/-- Is the sector populated and not retired? -/
def fillsSector (s : State) (sec : Nat) : Bool :=
  !pageRetired s (sknOf (sec * 32)) (pageOf (sec * 32)) && populated (sec * 32)

/-- Every populated sector that is not retired holds zeros with valid check bytes, but for its faulty cells (R339).
[DESIGN CHOICE, log 12] -/
def zeroFill (s : State) : State :=
  s.pkg.stuck.foldl (fun t e => if fillsSector s e.1 then t.writeErr e.1 [] else t)
    { s with mem := s.mem.filter (fun c => !fillsSector s (c.1 / 32))
             errs := s.errs.filter (fun e => !fillsSector s e.1) }

end Sys2Proof.Machine
end

