-- ==== Sys2Proof/Machine/Persist.lean ====
section
/-! DEFINITION. The boot NVM and the persistent registers kept in it: the value in force, the wear count, the record that a
write appends, compaction and the scan at boot (R422, R435 to R438). -/

namespace Sys2Proof.Machine

/-! ## Bytes of the NVM -/

/-- An erased byte. -/
def erased : Byte := 0xFF

/-- The NVM's size: 512 Mbit (R421). -/
def nvmSize : Nat := 0x4000000

def State.nvmByte (s : State) (a : Nat) : Byte := mget s.nvm a erased

/-- A run of NVM bytes. -/
def nvmBytes (s : State) (a n : Nat) : List Byte := (List.range n).map (fun i => s.nvmByte (a + i))

/-- Program bytes. [DESIGN CHOICE, log 96] -/
def nvmStore (a : Nat) : List Byte → State → State
  | [], s => s
  | b :: r, s => nvmStore (a + 1) r { s with nvm := mput s.nvm a b erased }

/-- Erase `n` bytes. -/
def nvmEraseRange (a n : Nat) (s : State) : State :=
  { s with nvm := s.nvm.filter (fun e => !(a ≤ e.1 && e.1 < a + n)) }

/-! ## The persistent area (R435) -/

def halfBase (h : Nat) : Nat := 0x2000000 + h * 0x100000

/-- Records that a half holds after its 64-byte header. -/
def halfRecords : Nat := (0x100000 - 64) / 16

def recordAt (h n : Nat) : Nat := halfBase h + 64 + 16 * n

/-- The generation of a complete half. [DEDUCED, log 92] -/
def halfGen (s : State) (h : Nat) : Option Nat :=
  let x := nvmBytes s (halfBase h) 12
  if leNat (x.take 4) = 0x52455057 && leNat (x.drop 8) = 0xC0DE0001 then some (leNat ((x.drop 4).take 4)) else none

/-- The header of a complete half. [DEDUCED, log 92] -/
def halfHeader (gen : Nat) : List Byte := leBytes 4 0x52455057 ++ leBytes 4 gen ++ leBytes 4 0xC0DE0001 ++ leBytes 52 0

/-- One record: offset, value, wear count, CRC-32C. -/
def persRecord (off : Nat) (v : Word) (wear : Nat) : List Byte :=
  let b := leBytes 4 (off % 2 ^ 28) ++ leBytes 4 v.toNat ++ leBytes 4 wear
  b ++ leBytes 4 (crc32c b).toNat

/-- The stored value of a persistent register; zero on a part never written. -/
def State.pers (s : State) (off : Nat) : Word := mget s.rwp off 0

/-- The wear count of a persistent register. -/
def State.wearOf (s : State) (off : Nat) : Nat := mget s.wear off 0

/-- Write the live record of every register into half `h` from its start, with no wear. -/
def copyLive (h : Nat) : List (Nat × Nat) → Nat → State → State
  | [], _, s => s
  | (off, w) :: r, n, s => copyLive h r (n + 1) (nvmStore (recordAt h n) (persRecord off (s.pers off) w) s)

/-- The active half is full: its live records move to the other half, whose header is written last; the old one is erased later, in
the background (R438). [DEDUCED, log 91] -/
def compact (s : State) : State :=
  match s.ndy.half with
  | none => s
  | some h =>
    let o := 1 - h
    let s1 := copyLive o s.wear 0 (nvmEraseRange (halfBase o) 0x100000 s)
    let s2 := nvmStore (halfBase o) (halfHeader (s.ndy.gen + 1)) s1
    { s2 with ndy := { s2.ndy with half := some o, gen := s.ndy.gen + 1, nrec := s.wear.length, compactAt := some s.wall, eraseAt := none } }

/-- A part whose area holds no complete half starts one with its first write. -/
def openHalf (s : State) : State :=
  match s.ndy.half with
  | some _ => s
  | none =>
    let s1 := nvmStore (halfBase 0) (halfHeader 1) (nvmEraseRange (halfBase 0) 0x200000 s)
    { s1 with ndy := { s1.ndy with half := some 0, gen := 1, nrec := 0 } }

/-- Append a record to the active half. -/
def appendRecord (off : Nat) (v : Word) (wear : Nat) (s0 : State) : State :=
  let s1 := openHalf s0
  let s := if halfRecords ≤ s1.ndy.nrec then compact s1 else s1
  match s.ndy.half with
  | none => s
  | some h =>
    let s2 := nvmStore (recordAt h s.ndy.nrec) (persRecord off v wear) s
    { s2 with ndy := { s2.ndy with nrec := s.ndy.nrec + 1 } }

/-- A write-through joins those that wait; a seventeenth waits until the oldest has ended. [DESIGN CHOICE, log 130] -/
def queueWrite (s : State) : State :=
  { s with ndy := { s.ndy with nvmq := s.ndy.nvmq.drop (s.ndy.nvmq.length - 16) ++ [s.wall] } }

/-- Management ticks that a write-through takes at most, and a compaction. -/
def writeTicks : Nat := 325000
def compactTicks : Nat := 16250000

/-- The next block of the old half is erased (R438). -/
def eraseBlock (n : Nat) (s : State) : State :=
  let old := match s.ndy.half with | some h => 1 - h | none => 0
  let s1 := nvmEraseRange (halfBase old + n * 0x10000) 0x10000 s
  { s1 with ndy := { s1.ndy with eraseAt := if n + 1 < 16 then some (n + 1) else none } }

/-- One management tick of the NVM: a compaction ends, else a write-through does, else a block of the old half is erased. When each
ends within its limit the spec does not say. [DESIGN CHOICE, log 130] -/
def nvmTick (s : State) : State :=
  let now := Config.freeBool s.free
  match s.ndy.compactAt, s.ndy.nvmq, s.ndy.eraseAt with
  | some t, _, _ =>
    (if now || t + compactTicks ≤ s.wall then { s with ndy := { s.ndy with compactAt := none, eraseAt := some 0 } } else s).bumpFree
  | none, t :: r, _ => (if now || t + writeTicks ≤ s.wall then { s with ndy := { s.ndy with nvmq := r } } else s).bumpFree
  | none, [], some n => (if now then eraseBlock n s else s).bumpFree
  | none, [], none => s

/-- One write-through of a persistent register (R10, R436, R437). At 100,000 writes it is refused; a program error of the
NVM leaves the value and sends NVM_WRITE. The flag says whether the value was stored. [DEDUCED, log 36] -/
def persist (off : Nat) (v : Word) (nvmErr : Bool) (s : State) : State × Bool :=
  if 100000 ≤ s.wearOf off then (s, false)
  else if nvmErr then (faultParam srcNdy kNVM_WRITE off s, false)
  else
    let w := s.wearOf off + 1
    let s1 := appendRecord off v w s
    (queueWrite { s1 with rwp := mput s1.rwp off v 0, wear := mset s1.wear off w }, true)

/-- A write-through whose outcome at the NVM nothing in the step settles: whether it reports a program error is free. [DESIGN CHOICE, log 37] -/
def persistFree (off : Nat) (v : Word) (s : State) : State × Bool :=
  persist off v (Config.freeBool s.free) s.bumpFree

/-! ## The scan at step 3 (R435) -/

/-- Take the records of half `h` from number `n` on, up to the first erased one. A record whose CRC fails is ignored. -/
def scanRecords (h : Nat) : Nat → Nat → State → State
  | 0, _, s => s
  | fuel + 1, n, s =>
    let x := nvmBytes s (recordAt h n) 16
    if x.all (· = erased) then { s with ndy := { s.ndy with nrec := n } }
    else
      let good := decide (crc32c (x.take 12) = BitVec.ofNat 32 (leNat (x.drop 12)))
      let off := leNat (x.take 4) % 2 ^ 28
      let s1 : State := if good then
          { s with rwp := mput s.rwp off (BitVec.ofNat 32 (leNat ((x.drop 4).take 4))) 0
                   wear := mset s.wear off (leNat ((x.drop 8).take 4)) }
        else s
      scanRecords h fuel (n + 1) { s1 with ndy := { s1.ndy with nrec := n + 1 } }

/-- The half that the niddy takes. -/
def activeHalf (s : State) : Option (Nat × Nat) :=
  match halfGen s 0, halfGen s 1 with
  | some a, some b => if a < b then some (1, b) else some (0, a)
  | some a, none => some (0, a)
  | none, some b => some (1, b)
  | none, none => none

/-- Read the persistent registers from the NVM. -/
def scanPersist (s : State) : State :=
  let s1 : State := { s with rwp := [], wear := [], ndy := { s.ndy with half := none, gen := 0, nrec := 0 } }
  match activeHalf s with
  | none => s1
  | some (h, g) => scanRecords h halfRecords 0 { s1 with ndy := { s1.ndy with half := some h, gen := g } }

end Sys2Proof.Machine
end

