-- ==== Sys2Proof/Machine/Sha.lean ====
section
/-! DEFINITION. SHA-384, SHA-512 and SHA-256 over bytes, and MGF1 (R95, R135, and the digests and signatures of the boot and attestation
rules). -/

namespace Sys2Proof.Machine

/-! The 80 round constants, ten at a time. -/

def shaK0 : List (BitVec 64) := [
  0x428A2F98D728AE22, 0x7137449123EF65CD, 0xB5C0FBCFEC4D3B2F, 0xE9B5DBA58189DBBC, 0x3956C25BF348B538,
  0x59F111F1B605D019, 0x923F82A4AF194F9B, 0xAB1C5ED5DA6D8118, 0xD807AA98A3030242, 0x12835B0145706FBE]
def shaK1 : List (BitVec 64) := [
  0x243185BE4EE4B28C, 0x550C7DC3D5FFB4E2, 0x72BE5D74F27B896F, 0x80DEB1FE3B1696B1, 0x9BDC06A725C71235,
  0xC19BF174CF692694, 0xE49B69C19EF14AD2, 0xEFBE4786384F25E3, 0x0FC19DC68B8CD5B5, 0x240CA1CC77AC9C65]
def shaK2 : List (BitVec 64) := [
  0x2DE92C6F592B0275, 0x4A7484AA6EA6E483, 0x5CB0A9DCBD41FBD4, 0x76F988DA831153B5, 0x983E5152EE66DFAB,
  0xA831C66D2DB43210, 0xB00327C898FB213F, 0xBF597FC7BEEF0EE4, 0xC6E00BF33DA88FC2, 0xD5A79147930AA725]
def shaK3 : List (BitVec 64) := [
  0x06CA6351E003826F, 0x142929670A0E6E70, 0x27B70A8546D22FFC, 0x2E1B21385C26C926, 0x4D2C6DFC5AC42AED,
  0x53380D139D95B3DF, 0x650A73548BAF63DE, 0x766A0ABB3C77B2A8, 0x81C2C92E47EDAEE6, 0x92722C851482353B]
def shaK4 : List (BitVec 64) := [
  0xA2BFE8A14CF10364, 0xA81A664BBC423001, 0xC24B8B70D0F89791, 0xC76C51A30654BE30, 0xD192E819D6EF5218,
  0xD69906245565A910, 0xF40E35855771202A, 0x106AA07032BBD1B8, 0x19A4C116B8D2D0C8, 0x1E376C085141AB53]
def shaK5 : List (BitVec 64) := [
  0x2748774CDF8EEB99, 0x34B0BCB5E19B48A8, 0x391C0CB3C5C95A63, 0x4ED8AA4AE3418ACB, 0x5B9CCA4F7763E373,
  0x682E6FF3D6B2B8A3, 0x748F82EE5DEFB2FC, 0x78A5636F43172F60, 0x84C87814A1F0AB72, 0x8CC702081A6439EC]
def shaK6 : List (BitVec 64) := [
  0x90BEFFFA23631E28, 0xA4506CEBDE82BDE9, 0xBEF9A3F7B2C67915, 0xC67178F2E372532B, 0xCA273ECEEA26619C,
  0xD186B8C721C0C207, 0xEADA7DD6CDE0EB1E, 0xF57D4F7FEE6ED178, 0x06F067AA72176FBA, 0x0A637DC5A2C898A6]
def shaK7 : List (BitVec 64) := [
  0x113F9804BEF90DAE, 0x1B710B35131C471B, 0x28DB77F523047D84, 0x32CAAB7B40C72493, 0x3C9EBE0A15C9BEBC,
  0x431D67C49C100D4C, 0x4CC5D4BECB3E42B6, 0x597F299CFC657E2A, 0x5FCB6FAB3AD6FAEC, 0x6C44198C4A475817]

def shaK : List (BitVec 64) := shaK0 ++ shaK1 ++ shaK2 ++ shaK3 ++ shaK4 ++ shaK5 ++ shaK6 ++ shaK7

/-- The initial hash value. -/
def shaInit : List (BitVec 64) := [
  0xCBBB9D5DC1059ED8, 0x629A292A367CD507, 0x9159015A3070DD17, 0x152FECD8F70E5939,
  0x67332667FFC00B31, 0x8EB44A8768581511, 0xDB0C2E0D64F98FA7, 0x47B5481DBEFA4FA4]

/-- A big-endian number. -/
def beNat (l : List Byte) : Nat := l.foldl (fun a b => 256 * a + b.toNat) 0

/-- The low `n` bytes of a number, most significant first. -/
def beBytes (n x : Nat) : List Byte := (leBytes n x).reverse

/-- The padded message. -/
def shaPad (l : List Byte) : List Byte :=
  let z := (128 - (l.length + 17) % 128) % 128
  l ++ [0x80] ++ List.replicate z 0 ++ beBytes 16 (8 * l.length)

def shaSmall0 (x : BitVec 64) : BitVec 64 := x.rotateRight 1 ^^^ x.rotateRight 8 ^^^ (x >>> 7)
def shaSmall1 (x : BitVec 64) : BitVec 64 := x.rotateRight 19 ^^^ x.rotateRight 61 ^^^ (x >>> 6)
def shaBig0 (x : BitVec 64) : BitVec 64 := x.rotateRight 28 ^^^ x.rotateRight 34 ^^^ x.rotateRight 39
def shaBig1 (x : BitVec 64) : BitVec 64 := x.rotateRight 14 ^^^ x.rotateRight 18 ^^^ x.rotateRight 41

/-- The 16 words of a block. -/
def shaWords (l : List Byte) : List (BitVec 64) :=
  (List.range 16).map (fun i => BitVec.ofNat 64 (beNat ((l.drop (8 * i)).take 8)))

/-- The message schedule: `n` more words, from the last 16. -/
def shaSchedule : Nat → List (BitVec 64) → List (BitVec 64)
  | 0, _ => []
  | n + 1, w =>
    let g (i : Nat) : BitVec 64 := w.getD i 0
    g 0 :: shaSchedule n (w.drop 1 ++ [shaSmall1 (g 14) + g 9 + shaSmall0 (g 1) + g 0])

/-- One round on (a, b, c, d, e, f, g, h). -/
def shaRound (h : List (BitVec 64)) (kw : BitVec 64 × BitVec 64) : List (BitVec 64) :=
  let g (i : Nat) : BitVec 64 := h.getD i 0
  let ch := (g 4 &&& g 5) ^^^ (~~~(g 4) &&& g 6)
  let maj := (g 0 &&& g 1) ^^^ (g 0 &&& g 2) ^^^ (g 1 &&& g 2)
  let t1 := g 7 + shaBig1 (g 4) + ch + kw.1 + kw.2
  let t2 := shaBig0 (g 0) + maj
  [t1 + t2, g 0, g 1, g 2, g 3 + t1, g 4, g 5, g 6]

/-- One block. -/
def shaBlock (h : List (BitVec 64)) (b : List Byte) : List (BitVec 64) :=
  List.zipWith (· + ·) h ((List.zip shaK (shaSchedule 80 (shaWords b))).foldl shaRound h)

/-- All blocks, `n` of them. -/
def shaBlocks : Nat → List Byte → List (BitVec 64) → List (BitVec 64)
  | 0, _, h => h
  | n + 1, l, h => shaBlocks n (l.drop 128) (shaBlock h (l.take 128))

/-- SHA-384: 48 bytes. [PRESUMED, log 13] -/
def sha384 (l : List Byte) : List Byte :=
  let p := shaPad l
  ((shaBlocks (p.length / 128) p shaInit).take 6).flatMap (fun w => beBytes 8 w.toNat)

/-- The initial hash value of SHA-512. -/
def sha512Init : List (BitVec 64) := [
  0x6A09E667F3BCC908, 0xBB67AE8584CAA73B, 0x3C6EF372FE94F82B, 0xA54FF53A5F1D36F1,
  0x510E527FADE682D1, 0x9B05688C2B3E6C1F, 0x1F83D9ABFB41BD6B, 0x5BE0CD19137E2179]

/-- SHA-512: 64 bytes. [PRESUMED, log 13] -/
def sha512 (l : List Byte) : List Byte :=
  let p := shaPad l
  (shaBlocks (p.length / 128) p sha512Init).flatMap (fun w => beBytes 8 w.toNat)

/-! ## SHA-256: its constants are the upper halves of the first ones of SHA-512 -/

def upperHalf (x : BitVec 64) : Word := (x >>> 32).setWidth 32

/-- The padded message. -/
def sha256Pad (l : List Byte) : List Byte :=
  let z := (64 - (l.length + 9) % 64) % 64
  l ++ [0x80] ++ List.replicate z 0 ++ beBytes 8 (8 * l.length)

def sha256Small0 (x : Word) : Word := x.rotateRight 7 ^^^ x.rotateRight 18 ^^^ (x >>> 3)
def sha256Small1 (x : Word) : Word := x.rotateRight 17 ^^^ x.rotateRight 19 ^^^ (x >>> 10)
def sha256Big0 (x : Word) : Word := x.rotateRight 2 ^^^ x.rotateRight 13 ^^^ x.rotateRight 22
def sha256Big1 (x : Word) : Word := x.rotateRight 6 ^^^ x.rotateRight 11 ^^^ x.rotateRight 25

/-- The message schedule: `n` more words, from the last 16. -/
def sha256Schedule : Nat → List Word → List Word
  | 0, _ => []
  | n + 1, w =>
    let g (i : Nat) : Word := w.getD i 0
    g 0 :: sha256Schedule n (w.drop 1 ++ [sha256Small1 (g 14) + g 9 + sha256Small0 (g 1) + g 0])

/-- One round on (a, b, c, d, e, f, g, h). -/
def sha256Round (h : List Word) (kw : BitVec 64 × Word) : List Word :=
  let g (i : Nat) : Word := h.getD i 0
  let ch := (g 4 &&& g 5) ^^^ (~~~(g 4) &&& g 6)
  let maj := (g 0 &&& g 1) ^^^ (g 0 &&& g 2) ^^^ (g 1 &&& g 2)
  let t1 := g 7 + sha256Big1 (g 4) + ch + upperHalf kw.1 + kw.2
  [t1 + (sha256Big0 (g 0) + maj), g 0, g 1, g 2, g 3 + t1, g 4, g 5, g 6]

/-- One block. -/
def sha256Block (h : List Word) (b : List Byte) : List Word :=
  let w := (List.range 16).map (fun i => BitVec.ofNat 32 (beNat ((b.drop (4 * i)).take 4)))
  List.zipWith (· + ·) h ((List.zip shaK (sha256Schedule 64 w)).foldl sha256Round h)

/-- All blocks, `n` of them. -/
def sha256Blocks : Nat → List Byte → List Word → List Word
  | 0, _, h => h
  | n + 1, l, h => sha256Blocks n (l.drop 64) (sha256Block h (l.take 64))

/-- SHA-256: 32 bytes. [PRESUMED, log 13] -/
def sha256 (l : List Byte) : List Byte :=
  let p := sha256Pad l
  (sha256Blocks (p.length / 64) p (sha512Init.map upperHalf)).flatMap (fun w => beBytes 4 w.toNat)

/-- MGF1 of RFC 8017 over a hash of `n` bytes: `len` bytes. -/
def mgf1 (hash : List Byte → List Byte) (n : Nat) (seed : List Byte) (len : Nat) : List Byte :=
  ((List.range ((len + n - 1) / n)).flatMap (fun i => hash (seed ++ beBytes 4 i))).take len

end Sys2Proof.Machine
end

