-- ==== Sys2Proof/Machine/Pss.lean ====
section
/-! DEFINITION. RSASSA-PSS with SHA-384, MGF1 with SHA-384 and a salt of 48 bytes: the check of a signature (R429). -/

namespace Sys2Proof.Machine

/-- Repeated squaring: `x` to the power `2^k`, modulo `n`. -/
def squarings (n : Nat) : Nat → Nat → Nat
  | 0, x => x % n
  | k + 1, x => squarings n k (x * x % n)

/-- `x` to the power 65,537, modulo `n`. -/
def rsaPublic (n x : Nat) : Nat := squarings n 16 x * x % n

/-- Is `em`, of which `bits` bits count, the encoding of a message with this digest (RFC 8017, section 9.1.2)? -/
def pssOk (digest em : List Byte) (bits : Nat) : Bool :=
  let top := 8 * em.length - bits
  let dbLen := em.length - 49
  let masked := em.take dbLen
  let h := (em.drop dbLen).take 48
  let db := List.zipWith (· ^^^ ·) masked (mgf1 sha384 48 h dbLen)
  let lead : Byte := 0xFF >>> top
  let db0 := match db with | b :: r => (b &&& lead) :: r | [] => []
  98 ≤ em.length && em.getLast? = some 0xBC && (masked.headD 0) &&& ~~~lead = 0
  && (db0.take (dbLen - 49)).all (· = 0) && db0.getD (dbLen - 49) 0 = 1
  && sha384 (List.replicate 8 0 ++ digest ++ db0.drop (dbLen - 48)) = h

/-- Does the signature of 384 bytes verify under the modulus in the first 384 bytes of the key block? [PRESUMED, log 13] -/
def rsaVerify (key digest sig : List Byte) : Bool :=
  let n := beNat (key.take 384)
  let s := beNat sig
  let bits := n.log2
  sig.length = 384 && decide (s < n) && pssOk digest (beBytes ((bits + 7) / 8) (rsaPublic n s)) bits

end Sys2Proof.Machine
end

