-- ==== Sys2Proof/Machine/Slh.lean ====
section
/-! DEFINITION. SLH-DSA-SHA2-192s in pure mode with an empty context: the check of a signature (R429), by FIPS 205 with n = 24, h = 63,
d = 7, h' = 9, a = 14, k = 17, w = 16 and m = 39. -/

namespace Sys2Proof.Machine

/-- An address of a hash call, in its compressed form. -/
structure SlhAdrs where
  layer : Nat := 0
  tree : Nat := 0
  type : Nat := 0
  keyPair : Nat := 0
  /-- Chain address or tree height; hash address or tree index. -/
  chain : Nat := 0
  hash : Nat := 0
deriving DecidableEq, Repr

def SlhAdrs.bytes (x : SlhAdrs) : List Byte :=
  beBytes 1 x.layer ++ beBytes 8 x.tree ++ beBytes 1 x.type ++ beBytes 4 x.keyPair ++ beBytes 4 x.chain ++ beBytes 4 x.hash

/-- The hash F of one value, and H or T of several, under the public seed. -/
def slhF (seed : List Byte) (x : SlhAdrs) (m : List Byte) : List Byte :=
  (sha256 (seed ++ List.replicate 40 0 ++ x.bytes ++ m)).take 24
def slhH (seed : List Byte) (x : SlhAdrs) (m : List Byte) : List Byte :=
  (sha512 (seed ++ List.replicate 104 0 ++ x.bytes ++ m)).take 24

/-- Part `i` of a list of 24-byte values. -/
def slhPart (l : List Byte) (i : Nat) : List Byte := (l.drop (24 * i)).take 24

/-- `count` digits of `w` bits from the front of a byte string. -/
def slhDigits (l : List Byte) (w count : Nat) : List Nat :=
  (List.range count).map (fun i => beNat l / 2 ^ (8 * l.length - w * (i + 1)) % 2 ^ w)

/-- A chain of `n` steps of F from step `i`. -/
def slhChain (seed : List Byte) (x : SlhAdrs) : Nat → Nat → List Byte → List Byte
  | 0, _, v => v
  | n + 1, i, v => slhChain seed x n (i + 1) (slhF seed { x with hash := i } v)

/-- The WOTS+ public key that a signature of `m` leads to. -/
def slhWots (seed sig m : List Byte) (x : SlhAdrs) : List Byte :=
  let d := slhDigits m 4 48
  let sum := (d.map (15 - ·)).foldl (· + ·) 0
  let all := d ++ slhDigits (beBytes 2 (sum * 16)) 4 3
  let ends := (List.range 51).flatMap (fun i =>
    slhChain seed { x with chain := i } (15 - all.getD i 0) (all.getD i 0) (slhPart sig i))
  slhH seed { x with type := 1, chain := 0, hash := 0 } ends

/-- Climb an authentication path: levels left, level, index at level 0 and the index field's value, node. -/
def slhClimb (seed auth : List Byte) (x : SlhAdrs) (leaf : Nat) : Nat → Nat → Nat → List Byte → List Byte
  | 0, _, _, v => v
  | n + 1, j, i, v =>
    let y := { x with chain := j + 1, hash := i / 2 }
    let sib := slhPart auth j
    slhClimb seed auth x leaf n (j + 1) (i / 2) (slhH seed y (if leaf / 2 ^ j % 2 = 0 then v ++ sib else sib ++ v))

/-- The root of one XMSS tree that its part of the signature leads to. -/
def slhXmss (seed sig m : List Byte) (layer tree leaf : Nat) : List Byte :=
  let x : SlhAdrs := { layer := layer, tree := tree }
  slhClimb seed (sig.drop (24 * 51)) { x with type := 2 } leaf 9 0 leaf
    (slhWots seed (sig.take (24 * 51)) m { x with keyPair := leaf })

/-- The layers of the hypertree from `layer` up, `n` of them. -/
def slhHyper (seed sig : List Byte) : Nat → Nat → Nat → Nat → List Byte → List Byte
  | 0, _, _, _, v => v
  | n + 1, layer, tree, leaf, v =>
    slhHyper seed sig n (layer + 1) (tree / 512) (tree % 512)
      (slhXmss seed ((sig.drop (24 * 60 * layer)).take (24 * 60)) v layer tree leaf)

/-- The FORS public key that its part of the signature leads to. -/
def slhFors (seed sig md : List Byte) (tree leaf : Nat) : List Byte :=
  let x : SlhAdrs := { tree := tree, type := 3, keyPair := leaf }
  let idx := slhDigits md 14 17
  let roots := (List.range 17).flatMap (fun i =>
    let part := (sig.drop (24 * 15 * i)).take (24 * 15)
    let at_ := i * 16384 + idx.getD i 0
    slhClimb seed (part.drop 24) x (idx.getD i 0) 14 0 at_ (slhF seed { x with hash := at_ } (part.take 24)))
  slhH seed { x with type := 4 } roots

/-- Does the signature verify under the public key (seed and root)? [PRESUMED, log 13] -/
def slhVerify (key m sig : List Byte) : Bool :=
  let seed := key.take 24
  let root := key.drop 24
  let r := sig.take 24
  let m' := [0, 0] ++ m
  let digest := mgf1 sha512 64 (r ++ seed ++ sha512 (r ++ seed ++ root ++ m')) 39
  let tree := beNat ((digest.drop 30).take 7) % 2 ^ 54
  let leaf := beNat ((digest.drop 37).take 2) % 512
  let pk := slhFors seed ((sig.drop 24).take (24 * 255)) (digest.take 30) tree leaf
  key.length = 48 && sig.length = 16224 && slhHyper seed (sig.drop (24 * 256)) 7 0 tree leaf pk = root

end Sys2Proof.Machine
end

