-- ==== Sys2Proof/Machine/WhlTab.lean ====
section
/-! DEFINITION. The whorl table (Table 16-6, R463): its fields and when it is valid. -/

namespace Sys2Proof.Machine

/-- A little-endian field of `n` bytes at byte `o` of the table. -/
def tabField (t : List Byte) (o n : Nat) : Nat := leNat ((t.drop o).take n)

/-- A temperature in 1/16 °C. -/
def tabTemp (t : List Byte) (o : Nat) : Int := signed 16 (tabField t o 2)

def tabCap (t : List Byte) : Nat := tabField t 0 2
def tabHyst (t : List Byte) : Nat := tabField t 2 2
def tabHold (t : List Byte) : Nat := tabField t 4 1
def tabFlowEn (t : List Byte) : Bool := nbit (tabField t 5 1) 0
def tabInletEn (t : List Byte) : Bool := nbit (tabField t 5 1) 1
/-- The limit of class `c` (SPN, CRD, FLY, PLY) at level `l`. -/
def tabRow (t : List Byte) (l c : Nat) : Nat := tabField t (8 + 4 * l + c) 1
/-- Thresholds of level `l`, from 1. -/
def tabCt (t : List Byte) (l : Nat) : Int := tabTemp t (72 + 2 * (l - 1))
def tabChyst (t : List Byte) : Int := tabTemp t 102
def tabDt (t : List Byte) (l : Nat) : Int := tabTemp t (104 + 2 * (l - 1))
def tabDhyst (t : List Byte) : Int := tabTemp t 134
def tabRef2 (t : List Byte) : Int := tabTemp t 136
def tabRef4 (t : List Byte) : Int := tabTemp t 138
def tabRhyst (t : List Byte) : Int := tabTemp t 140
def tabCfault (t : List Byte) : Int := tabTemp t 142
def tabDfault (t : List Byte) : Int := tabTemp t 144
def tabFlowMin (t : List Byte) : Nat := tabField t 146 2
def tabKpul (t : List Byte) : Nat := tabField t 148 4
def tabInletMax (t : List Byte) : Int := tabTemp t 152

/-- A table that R463 accepts. -/
def tabOk (t : List Byte) : Bool :=
  t.length = 256
  && tabField t 5 1 < 4 && tabField t 6 2 = 0 && tabField t 154 102 = 0
  && 1500 ≤ tabCap t && tabCap t ≤ 3000 && 1 ≤ tabHyst t && tabHyst t ≤ 500 && 1 ≤ tabHold t
  && (List.range 4).all (fun c => tabRow t 0 c = 64)
  && (List.range 16).all (fun l => (List.range 4).all (fun c => 1 ≤ tabRow t l c && tabRow t l c ≤ 64))
  && (List.range 15).all (fun l => (List.range 4).all (fun c => tabRow t (l + 1) c ≤ tabRow t l c))
  && (List.range 14).all (fun l => tabCt t (l + 1) < tabCt t (l + 2) && tabDt t (l + 1) < tabDt t (l + 2))
  && tabRef2 t < tabRef4 t && tabCfault t ≤ 105 * 16 && tabRef4 t < tabDfault t && tabDfault t ≤ 95 * 16
  && (!tabFlowEn t || (tabKpul t ≠ 0 && tabFlowMin t ≠ 0))

end Sys2Proof.Machine
end

