-- ==== Sys2Proof/Machine/Image.lean ====
section
/-! DEFINITION. The Spaward image in a slot of the boot NVM: header, directory, required tables, signature block, and why an
image is turned away (R423 to R430, Table 15-5). -/

namespace Sys2Proof.Machine

def slotBase (i : Nat) : Nat := i * 0x1000000
def slotSize : Nat := 0x1000000

/-- Bytes of an image. -/
def imgBytes (s : State) (i off n : Nat) : List Byte := nvmBytes s (slotBase i + off) n

/-- A little-endian field of an image. -/
def imgNat (s : State) (i off n : Nat) : Nat := leNat (imgBytes s i off n)

/-- Bytes `lo` up to `hi` of an image are zero. -/
def imgZero (s : State) (i lo hi : Nat) : Bool := (imgBytes s i lo (hi - lo)).all (· = 0)

/-! ## The header (Table 15-2) -/

def imgKeyslot (s : State) (i : Nat) : Nat := imgNat s i 10 1
def imgSeq (s : State) (i : Nat) : Nat := imgNat s i 12 4
def imgLen (s : State) (i : Nat) : Nat := imgNat s i 16 4
def imgNtab (s : State) (i : Nat) : Nat := imgNat s i 20 2

def headerOk (s : State) (i : Nat) : Bool :=
  imgNat s i 0 4 = 0x44575053 && imgNat s i 4 2 = 1 && imgNat s i 6 2 = 0x0768 && imgNat s i 8 1 = 0x0A && imgNat s i 9 1 = 1
  && imgKeyslot s i < 4 && imgZero s i 11 12 && imgLen s i % 64 = 0 && 4096 ≤ imgLen s i && imgLen s i ≤ 4194304
  && 1 ≤ imgNtab s i && imgNtab s i ≤ 512 && imgZero s i 22 256

/-- Why a header is no candidate (R430). [DEDUCED, log 87] -/
def headerReason (s : State) (i : Nat) : Option Nat :=
  if !headerOk s i then some 0xF1
  else if imgSeq s i < (s.pers (rNdy 0xC)).toNat then some 0xF6
  else if !s.fuses.prog.getLsbD (imgKeyslot s i) || s.fuses.revoked.getLsbD (imgKeyslot s i) then some 0xF2
  else none

/-- The usable slots in order, `newer` telling whether slot 1 has the larger SEQ. -/
def slotOrder (ok0 ok1 newer : Bool) : List Nat :=
  match ok0, ok1 with
  | true, true => if newer then [1, 0] else [0, 1]
  | true, false => [0]
  | false, true => [1]
  | false, false => []

/-- Candidates in the order of R430. -/
def candidates (s : State) : List Nat :=
  slotOrder (headerReason s 0).isNone (headerReason s 1).isNone (decide (imgSeq s 0 < imgSeq s 1))

/-! ## The directory (R424, Table 15-3) -/

/-- A directory entry: TYPE, INDEX, OFFSET, SIZE. -/
structure DirEnt where
  type : Nat
  index : Nat
  off : Nat
  size : Nat
deriving DecidableEq, Repr

def dirEnt (s : State) (i k : Nat) : DirEnt :=
  let o := 256 + 16 * k
  { type := imgNat s i o 1, index := imgNat s i (o + 1) 1, off := imgNat s i (o + 4) 4, size := imgNat s i (o + 8) 4 }

def dirEnts (s : State) (i : Nat) : List DirEnt := (List.range (imgNtab s i)).map (dirEnt s i)

/-- Tables of a type that Table 15-3 lists. -/
def typeCount (t : Nat) : Nat := if t = 2 then 8 else if t = 3 then 16 else if 1 ≤ t && t ≤ 8 then 1 else 0

def pairOk (a b : DirEnt) : Bool := !rangesMeet a.off a.size b.off b.size && !(a.type = b.type && a.index = b.index)

/-- Every pair of a list. -/
def allPairs (p : DirEnt → DirEnt → Bool) : List DirEnt → Bool
  | [] => true
  | x :: r => r.all (p x) && allPairs p r

def dirOk (s : State) (i : Nat) : Bool :=
  let es := dirEnts s i
  es.all (fun e => e.off % 64 = 0 && 256 + 16 * imgNtab s i ≤ e.off && e.off + e.size ≤ imgLen s i && e.index < typeCount e.type)
  && allPairs pairOk es
  && [1, 6, 7].all (fun t => es.any (fun e => e.type = t))

/-- The table of a type and index, as bytes; none where the image holds none. -/
def imgTable (s : State) (i type index : Nat) : Option (List Byte) :=
  ((dirEnts s i).find? (fun e => e.type = type && e.index = index)).map (fun e => imgBytes s i e.off e.size)

/-! ## Required tables (R425, R428, R463) -/

/-- Bytes `lo` up to `hi` of a table are zero. -/
def tabZero (t : List Byte) (lo hi : Nat) : Bool := ((t.drop lo).take (hi - lo)).all (· = 0)

def clockTableOk (t : List Byte) : Bool :=
  t.length = 64 && tabField t 0 4 = 8 && tabField t 4 4 = 4 && tabField t 8 4 = 10 && tabField t 12 4 = 32 && tabZero t 32 64

def portTableOk (t : List Byte) : Bool :=
  t.length = 640 && (t.take 20).all (fun b => b.toNat ≤ 3) && tabZero t 20 32 && tabZero t 50 64 && tabZero t 624 640

/-! ## The signature block (R429) -/

/-- Is the key hash the fused one from word `w` of its slot on? -/
def keyHashOk (s : State) (slot w : Nat) (key : List Byte) : Bool :=
  let h := sha384 key
  (List.range 12).all (fun j => mget s.fuses.hash (24 * slot + w + j) 0 = BitVec.ofNat 32 (leNat ((h.drop (4 * j)).take 4)))

/-- Why a candidate fails, by the order of its checks; none where it passes (R430, Table 15-5). -/
def imageReason (s : State) (i : Nat) : Option Nat :=
  let len := imgLen s i
  let region := imgBytes s i 0 len
  let rsa := imgBytes s i len 388
  let slh := imgBytes s i (len + 448) 48
  let k := imgKeyslot s i
  let need (t : Nat) (ok : List Byte → Bool) : Bool := match imgTable s i t 0 with | some b => ok b | none => false
  if !keyHashOk s k 0 rsa || !keyHashOk s k 12 slh then some 0xF3
  else if !rsaVerify rsa (sha384 region) (imgBytes s i (len + 512) 384) then some 0xF4
  else if !slhVerify slh region (imgBytes s i (len + 896) 16224) then some 0xF5
  else if !dirOk s i then some 0xF7
  else if !need 1 clockTableOk then some 0x01
  else if !need 6 tabOk then some 0x06
  else if !need 7 portTableOk then some 0x07
  else none

end Sys2Proof.Machine
end

