-- ==== Sys2Proof/Machine/Num.lean ====
section
/-! DEFINITION. Exact numbers and rounding (R86 to R88, R472, R473): a value is NaN, an infinity, or a sign, a whole
number and a power of two; conversions round the exact value once. -/

namespace Sys2Proof.Machine

/-- Some NaN pattern of an IEEE format: any sign, all exponent bits set, any mantissa but zero. [DESIGN CHOICE, log 14] -/
def nanPattern (expW manW : Nat) : Nat :=
  let x := Config.nanSeed (expW + manW)
  (x % 2) * 2 ^ (expW + manW) + (2 ^ expW - 1) * 2 ^ manW + (x / 2 % (2 ^ manW - 1) + 1)

/-- The FP32 pattern of a NaN result. [DESIGN CHOICE, log 14] -/
def nan32 : Word := BitVec.ofNat 32 (nanPattern 8 23)

/-- A decoded value: NaN, a signed infinity, or ± m × 2^e exactly (a zero keeps its sign). -/
inductive Val where
  | nan
  | inf (neg : Bool)
  | fin (neg : Bool) (m : Nat) (e : Int)
deriving DecidableEq, Repr

def Val.zero : Val := .fin false 0 0

def Val.isFinite : Val → Bool
  | .fin _ _ _ => true
  | _ => false

def Val.isNan : Val → Bool
  | .nan => true
  | _ => false

def Val.isZero : Val → Bool
  | .fin _ 0 _ => true
  | _ => false

/-- An integer as a value. -/
def Val.ofInt (i : Int) : Val := .fin (decide (i < 0)) i.natAbs 0

/-- 2^e. -/
def Val.pow2 (e : Int) : Val := .fin false 1 e

def Val.neg : Val → Val
  | .nan => .nan
  | .inf n => .inf (!n)
  | .fin n m e => .fin (!n) m e

def Val.abs : Val → Val
  | .nan => .nan
  | .inf _ => .inf false
  | .fin _ m e => .fin false m e

def Val.isNeg : Val → Bool
  | .nan => false
  | .inf n => n
  | .fin n _ _ => n

/-- Exact product, with the IEEE 754 rules for infinity, zero and NaN. -/
def Val.mul : Val → Val → Val
  | .nan, _ => .nan
  | _, .nan => .nan
  | .inf a, .inf b => .inf (a != b)
  | .inf a, .fin b m _ => if m = 0 then .nan else .inf (a != b)
  | .fin a m _, .inf b => if m = 0 then .nan else .inf (a != b)
  | .fin a m e, .fin b n f => .fin (a != b) (m * n) (e + f)

/-- ± m as a signed whole number. -/
def signedMag (neg : Bool) (m : Nat) : Int := if neg then -(m : Int) else (m : Int)

/-- The value at exponent `e0`, which must not lie above its own exponent. -/
def Val.atExp (e0 : Int) : Val → Int
  | .fin n m e => signedMag n (m * 2 ^ (e - e0).toNat)
  | _ => 0

/-- Exact sum, with the IEEE 754 rules: opposite infinities give NaN, x + (−x) is +0, −0 + −0 is −0. -/
def Val.add : Val → Val → Val
  | .nan, _ => .nan
  | _, .nan => .nan
  | .inf a, .inf b => if a = b then .inf a else .nan
  | .inf a, .fin _ _ _ => .inf a
  | .fin _ _ _, .inf b => .inf b
  | .fin a m e, .fin b n f =>
    let e0 := min e f
    let s := signedMag a (m * 2 ^ (e - e0).toNat) + signedMag b (n * 2 ^ (f - e0).toNat)
    if s = 0 then .fin (a && b) 0 0 else .fin (decide (s < 0)) s.natAbs e0

def Val.sub (x y : Val) : Val := x.add y.neg

/-- Exact order of two values that are not NaN: is `x` below `y`? Zeros are equal. -/
def Val.lt : Val → Val → Bool
  | .nan, _ => false
  | _, .nan => false
  | .inf a, .inf b => a && !b
  | .inf a, .fin _ _ _ => a
  | .fin _ _ _, .inf b => !b
  | .fin a m e, .fin b n f =>
    let e0 := min e f
    decide (signedMag a (m * 2 ^ (e - e0).toNat) < signedMag b (n * 2 ^ (f - e0).toNat))

def Val.le (x y : Val) : Bool := !x.isNan && !y.isNan && !(y.lt x)

/-- Larger of two values; a NaN operand gives NaN. -/
def Val.max (x y : Val) : Val := if x.isNan || y.isNan then .nan else if x.lt y then y else x

/-! ## Rounding to an IEEE format -/

/-- floor (log2 (n / d)) for positive n and d. -/
def floorLog2 (n d : Nat) : Int :=
  let l : Int := (n.log2 : Int) - (d.log2 : Int)
  let below : Bool := if 0 ≤ l then decide (n < d * 2 ^ l.toNat) else decide (n * 2 ^ (-l).toNat < d)
  if below then l - 1 else l

/-- Code of `expW` exponent bits and `manW` mantissa bits nearest to n / d, ties to even (R87). -/
def roundCode (expW manW : Nat) (n d : Nat) : Nat :=
  if n = 0 then 0
  else
    let bias : Int := 2 ^ (expW - 1) - 1
    let e := max (floorLog2 n d) (1 - bias)
    let q := e - manW
    let (a, b) := if 0 ≤ q then (n, d * 2 ^ q.toNat) else (n * 2 ^ (-q).toNat, d)
    let r0 := a / b
    let rem := a % b
    let r := if 2 * rem < b then r0 else if b < 2 * rem then r0 + 1 else if r0 % 2 = 0 then r0 else r0 + 1
    let code := if r < 2 ^ manW then r else (e + bias).toNat * 2 ^ manW + (r - 2 ^ manW)
    let infCode := (2 ^ expW - 1) * 2 ^ manW
    min code infCode

/-- A signed quotient n / d rounded to FP32. -/
def roundRat32 (neg : Bool) (n d : Nat) : Word :=
  BitVec.ofNat 32 (b2n neg * 2 ^ 31 + roundCode 8 23 n d)

/-- ± m × 2^e as a fraction. -/
def dyadic (m : Nat) (e : Int) : Nat × Nat := if 0 ≤ e then (m * 2 ^ e.toNat, 1) else (m, 2 ^ (-e).toNat)

/-- Code of a value in an IEEE format of the given widths; `nan` is the pattern for a NaN result. -/
def roundIeee (expW manW nan : Nat) : Val → Nat
  | .nan => nan
  | .inf n => b2n n * 2 ^ (expW + manW) + (2 ^ expW - 1) * 2 ^ manW
  | .fin n m e => let p := dyadic m e; b2n n * 2 ^ (expW + manW) + roundCode expW manW p.1 p.2

/-- Round to FP32 (R87). -/
def round32 (v : Val) : Word := BitVec.ofNat 32 (roundIeee 8 23 nan32.toNat v)

/-- Decode an IEEE code of the given widths (R86). -/
def decodeIeee (expW manW code : Nat) : Val :=
  let man := code % 2 ^ manW
  let ex := code / 2 ^ manW % 2 ^ expW
  let neg := nbit code (expW + manW)
  let bias : Int := 2 ^ (expW - 1) - 1
  if ex = 2 ^ expW - 1 then (if man = 0 then .inf neg else .nan)
  else if ex = 0 then .fin neg man (1 - bias - manW)
  else .fin neg (2 ^ manW + man) ((ex : Int) - bias - manW)

/-- Decode an FP32 pattern. -/
def val32 (w : Word) : Val := decodeIeee 8 23 w.toNat

/-- FP32 arithmetic: each operation exact, then rounded once. [DEDUCED, log 15] -/
def add32 (a b : Word) : Word := round32 ((val32 a).add (val32 b))
def sub32 (a b : Word) : Word := round32 ((val32 a).sub (val32 b))
def mul32 (a b : Word) : Word := round32 ((val32 a).mul (val32 b))
/-- a × b + c with one rounding. [DEDUCED, log 15] -/
def fma32 (a b c : Word) : Word := round32 (((val32 a).mul (val32 b)).add (val32 c))

/-- Quotient rounded once to FP32, with the IEEE 754 rules. -/
def divVal32 (x y : Val) : Word :=
  match x, y with
  | .nan, _ => nan32
  | _, .nan => nan32
  | .inf _, .inf _ => nan32
  | .inf a, .fin b _ _ => round32 (.inf (a != b))
  | .fin a _ _, .inf b => round32 (.fin (a != b) 0 0)
  | .fin a m e, .fin b n f =>
    if n = 0 then (if m = 0 then nan32 else round32 (.inf (a != b)))
    else
      let p := dyadic m e
      let q := dyadic n f
      roundRat32 (a != b) (p.1 * q.2) (p.2 * q.1)

def div32 (a b : Word) : Word := divVal32 (val32 a) (val32 b)

/-- Is the FP32 pattern an infinity or a NaN? -/
def nonFinite32 (w : Word) : Bool := bits w.toNat 23 8 = 255

def isNan32 (w : Word) : Bool := bits w.toNat 23 8 = 255 && bits w.toNat 0 23 ≠ 0

/-- Largest of FP32 values, NaN if any is NaN; −infinity for none. -/
def max32 (l : List Word) : Word :=
  if l.any isNan32 then nan32
  else match l with
    | [] => 0xFF800000
    | w :: r => r.foldl (fun m x => if (val32 m).lt (val32 x) then x else m) w

/-! ## The correctly rounded functions of R472 -/

/-- floor (sqrt n) for n below 4^k, one bit at a time. -/
def isqrtAux : Nat → Nat → Nat → Nat
  | 0, _, r => r
  | k + 1, n, r => if (r + 2 ^ k) * (r + 2 ^ k) ≤ n then isqrtAux k n (r + 2 ^ k) else isqrtAux k n r

def isqrt (n : Nat) : Nat := isqrtAux (n.log2 / 2 + 1) n 0

/-- The square root of n / d rounded to FP32: a root of at least 40 bits and a sticky bit below it. -/
def sqrtRat32 (n d : Nat) : Word :=
  -- sqrt (n / d) = sqrt (n d) / d; scale by 4^k so that the root has enough bits
  let k := 200
  let x := n * d * 4 ^ k
  let r := isqrt x
  let sticky := if r * r = x then 0 else 1
  roundRat32 false (2 * r + sticky) (2 * d * 2 ^ k)

/-- sqrt32 (R472). -/
def sqrt32 (w : Word) : Word :=
  match val32 w with
  | .nan => nan32
  | .inf n => if n then nan32 else w
  | .fin n m e => if m = 0 then w else if n then nan32 else let p := dyadic m e; sqrtRat32 p.1 p.2

/-- rsqrt32 (R472): 1 / sqrt v. -/
def rsqrt32 (w : Word) : Word :=
  match val32 w with
  | .nan => nan32
  | .inf n => if n then nan32 else 0
  | .fin n m e =>
    if m = 0 then round32 (.inf n) else if n then nan32 else let p := dyadic m e; sqrtRat32 p.2 p.1

/-- Working precision of exp and log, in bits after the point. -/
def fixBits : Nat := 400

/-- Taylor series of exp at r (fixed point), `n` terms from term `i` with value `t`. -/
def expSeries : Nat → Nat → Nat → Nat → Nat → Nat
  | 0, _, _, _, acc => acc
  | n + 1, i, r, t, acc =>
    let t' := t * r / (2 ^ fixBits * (i + 1))
    expSeries n (i + 1) r t' (acc + t')

/-- Square `n` times in fixed point. -/
def squareTimes : Nat → Nat → Nat
  | 0, x => x
  | n + 1, x => squareTimes n (x * x / 2 ^ fixBits)

/-- exp (n / d) in fixed point, for 0 ≤ n / d ≤ 256. -/
def expFix (n d : Nat) : Nat :=
  let r := n * 2 ^ fixBits / (d * 65536)
  squareTimes 16 (expSeries 64 0 r (2 ^ fixBits) (2 ^ fixBits))

/-- exp of a signed rational, rounded to FP32. Beyond ±200 the result is infinity or zero under R87. -/
def expRat32 (neg : Bool) (n d : Nat) : Word :=
  if n = 0 then 0x3F800000
  else if 200 * d < n then (if neg then 0 else 0x7F800000)
  else
    let x := expFix n d
    if neg then roundRat32 false (2 ^ fixBits) x else roundRat32 false x (2 ^ fixBits)

/-- exp32 (R472). [DEDUCED, log 15] -/
def exp32 (w : Word) : Word :=
  match val32 w with
  | .nan => nan32
  | .inf n => if n then 0 else w
  | .fin n m e => let p := dyadic m e; expRat32 n p.1 p.2

/-! ### Powers with a whole exponent -/

/-- A positive number as mantissa and power of two, cut to 256 bits: downward, or upward. -/
def cut256 (up : Bool) (p : Nat × Int) : Nat × Int :=
  let k := p.1.log2 + 1 - 256
  if k = 0 then p
  else (if up then (p.1 + 2 ^ k - 1) / 2 ^ k else p.1 / 2 ^ k, p.2 + k)

/-- The power of a positive number by squaring, cut at each step; `fuel` bits of the exponent. -/
def powCut (up : Bool) (b : Nat × Int) : Nat → Nat → Nat × Int
  | 0, _ => (1, 0)
  | fuel + 1, t =>
    if t = 0 then (1, 0)
    else
      let h := powCut up b fuel (t / 2)
      let sq := cut256 up (h.1 * h.1, 2 * h.2)
      if t % 2 = 1 then cut256 up (sq.1 * b.1, sq.2 + b.2) else sq

/-- m × 2^e rounded to FP32; far below the smallest subnormal it is zero, far above the largest finite infinity. -/
def roundDyadic32 (p : Nat × Int) : Word :=
  let top : Int := (p.1.log2 : Int) + p.2
  if p.1 = 0 || top < -200 then 0 else if 200 < top then 0x7F800000
  else let q := dyadic p.1 p.2; roundRat32 false q.1 q.2

/-- pow32 (R472) of a value from 0 up to infinity and a whole exponent above 0: where the bounds round alike they settle the
result, else the exact power does. -/
def pow32 (w : Word) (t : Nat) : Word :=
  match val32 w with
  | .nan => nan32
  | .inf _ => 0x7F800000
  | .fin _ m e =>
    if m = 0 then 0
    else
      let lo := roundDyadic32 (powCut false (m, e) 64 t)
      let hi := roundDyadic32 (powCut true (m, e) 64 t)
      if lo = hi then lo else roundDyadic32 (m ^ t, e * t)

/-! ## Conversion to integers (R473) -/

/-- The integer nearest to ± n / d, ties to even. -/
def nearestInt (neg : Bool) (n d : Nat) : Int :=
  let r0 := n / d
  let rem := n % d
  let r := if 2 * rem < d then r0 else if d < 2 * rem then r0 + 1 else if r0 % 2 = 0 then r0 else r0 + 1
  signedMag neg r

/-- Conversion into INT32: pattern and whether a finite value saturated. -/
def toInt32 (v : Val) : Word × Bool :=
  match v with
  | .nan => (0, false)
  | .inf n => (if n then 0x80000000 else 0x7FFFFFFF, false)
  | .fin n m e =>
    let p := dyadic m e
    let i := nearestInt n p.1 p.2
    if i < -2147483648 then (0x80000000, true)
    else if 2147483647 < i then (0x7FFFFFFF, true)
    else (BitVec.ofInt 32 i, false)

/-- Conversion of a whole number into INT32 (R181): saturates. -/
def satInt32 (i : Int) : Word × Bool :=
  if i < -2147483648 then (0x80000000, true)
  else if 2147483647 < i then (0x7FFFFFFF, true)
  else (BitVec.ofInt 32 i, false)

/-- floor (log2 v) of a positive finite value. -/
def Val.log2 : Val → Int
  | .fin _ m e => if m = 0 then 0 else (m.log2 : Int) + e
  | _ => 0

end Sys2Proof.Machine
end

