-- ==== Sys2Proof/Machine/Formats.lean ====
section
/-! DEFINITION. Element formats, format tables, block scales and packing (R85 to R101). -/

namespace Sys2Proof.Machine

def fFP32 : Nat := 0x00
def fBF16 : Nat := 0x01
def fFP16 : Nat := 0x02
def fE4M3 : Nat := 0x03
def fE5M2 : Nat := 0x04
def fE3M2 : Nat := 0x05
def fE2M3 : Nat := 0x06
def fE2M1 : Nat := 0x07
def fINT8 : Nat := 0x08
def fINT4 : Nat := 0x09
def fINT32 : Nat := 0x0A

/-- Codes that Table 03-1 lists. -/
def fmtUsed (f : Nat) : Bool := f ≤ 0x0A || (0x12 ≤ f && f ≤ 0x17)

/-- Element width in bits. -/
def fmtBits (f : Nat) : Nat :=
  if f = fFP32 || f = fINT32 then 32
  else if f = fBF16 || f = fFP16 then 16
  else if f = fE3M2 || f = fE2M3 then 6
  else if f = fE2M1 || f = fINT4 then 4
  else 8

/-- Format table slot of an 8-bit floating-point format (R91). -/
def fmtSlot (f : Nat) : Option Nat :=
  if f = fE4M3 then some 0 else if f = fE5M2 then some 1
  else if 0x12 ≤ f && f ≤ 0x17 then some (f - 0x10) else none

/-- INT8, INT4 or INT32. -/
def fmtInt (f : Nat) : Bool := f = fINT8 || f = fINT4 || f = fINT32

/-- Formats of 8 bits or fewer: converted under R88. -/
def fmtNarrow (f : Nat) : Bool := fmtBits f ≤ 8

/-- Small float code of the given widths and bias with no special codes. -/
def decodeSmall (expW manW : Nat) (bias : Int) (code : Nat) : Val :=
  let man := code % 2 ^ manW
  let ex := code / 2 ^ manW % 2 ^ expW
  let neg := nbit code (expW + manW)
  if ex = 0 then .fin neg man (1 - bias - manW) else .fin neg (2 ^ manW + man) ((ex : Int) - bias - manW)

/-- FP8 E4M3 as Table 03-1 defines it: 0x7F and 0xFF are NaN. -/
def decodeE4M3 (code : Nat) : Val := if code % 128 = 127 then .nan else decodeSmall 4 3 7 code

/-- FP8 E5M2 as Table 03-1 defines it. -/
def decodeE5M2 (code : Nat) : Val := decodeIeee 5 2 code

/-- The format tables in force: 256 FP32 patterns for each valid slot. -/
abbrev FmtTabs := AMap (List Word)

/-- A built-in table as FP32 patterns in code order. -/
def builtinTable (dec : Nat → Val) : List Word := (List.range 256).map (fun c => round32 (dec c))

/-- Decode an element code of format `f`. -/
def decodeElem (tabs : FmtTabs) (f code : Nat) : Val :=
  if f = fFP32 then decodeIeee 8 23 code
  else if f = fBF16 then decodeIeee 8 7 code
  else if f = fFP16 then decodeIeee 5 10 code
  else if f = fE3M2 then decodeSmall 3 2 3 code
  else if f = fE2M3 then decodeSmall 2 3 1 code
  else if f = fE2M1 then decodeSmall 2 1 1 code
  else if f = fINT8 then Val.ofInt (signed 8 code)
  else if f = fINT4 then Val.ofInt (signed 4 code)
  else if f = fINT32 then Val.ofInt (signed 32 code)
  else match fmtSlot f with
    | some s => val32 ((mget tabs s []).getD code 0)
    | none => .nan

/-- Is entry `w` valid for a format table (R91): NaN, an infinity, or ±m × 2^e with m ≤ 15 and −24 ≤ e ≤ 15? -/
def entryValid (w : Word) : Bool :=
  match val32 w with
  | .nan => true
  | .inf _ => true
  | .fin _ m e => m = 0 || (List.range 40).any (fun i =>
      let x : Int := (i : Int) - 24
      -- m × 2^e = k × 2^x with k from 1 to 15
      if x ≤ e then decide (m * 2 ^ (e - x).toNat ≤ 15)
      else m % 2 ^ (x - e).toNat = 0 && decide (m / 2 ^ (x - e).toNat ≤ 15))

/-- Is a slot valid (R91)? -/
def slotValid (t : List Word) : Bool :=
  t.length = 256 && t.all entryValid && t.any (fun w => (val32 w).isZero)
    && t.any (fun w => (val32 w).isFinite && !(val32 w).isZero && !(val32 w).isNeg)

/-- All codes of a format of 8 bits or fewer with their values. -/
def codeSet (tabs : FmtTabs) (f : Nat) : List (Nat × Val) :=
  (List.range (2 ^ fmtBits f)).map (fun c => (c, decodeElem tabs f c))

/-- Is code `a` at value `x` a better choice for `v` than code `b` at `y` (R88 steps 1 and 2)? -/
def betterCode (v : Val) (a : Nat × Val) (b : Nat × Val) : Bool :=
  let da := (v.sub a.2).abs
  let db := (v.sub b.2).abs
  if da.lt db then true else if db.lt da then false
  else if a.1 % 2 ≠ b.1 % 2 then a.1 % 2 = 0 else decide (a.1 < b.1)

/-- The nearest finite code. -/
def nearestCode (cs : List (Nat × Val)) (v : Val) : Nat :=
  let fin := cs.filter (fun c => c.2.isFinite)
  match fin with
  | [] => 0
  | c :: r => (r.foldl (fun best x => if betterCode v x best then x else best) c).1

/-- Largest and smallest finite value of a code set. -/
def maxFinite (cs : List (Nat × Val)) : Val :=
  (cs.filter (fun c => c.2.isFinite)).foldl (fun b c => if b.lt c.2 then c.2 else b) Val.zero
def minFinite (cs : List (Nat × Val)) : Val :=
  (cs.filter (fun c => c.2.isFinite)).foldl (fun b c => if c.2.lt b then c.2 else b) Val.zero

/-- What a conversion produced: code, whether a finite value saturated (R90), whether a non-finite value was written or
converted (R89). -/
structure Conv where
  code : Nat := 0
  sat : Bool := false
  nonFin : Bool := false
deriving DecidableEq, Repr

/-- Conversion into a format of 8 bits or fewer (R88). -/
def convNarrow (tabs : FmtTabs) (f : Nat) (v : Val) : Conv :=
  let cs := codeSet tabs f
  match v with
  | .nan =>
    let c := match cs.find? (fun c => c.2.isNan) with
      | some c => c.1
      | none => match cs.find? (fun c => c.2.isZero) with | some c => c.1 | none => 0
    { code := c, nonFin := true }
  | .inf n =>
    let c := match cs.find? (fun c => c.2 = .inf n) with
      | some c => c.1
      | none => nearestCode cs (if n then minFinite cs else maxFinite cs)
    { code := c, nonFin := true }
  | .fin _ _ _ =>
    { code := nearestCode cs v, sat := (maxFinite cs).lt v || v.lt (minFinite cs) }

/-- Conversion into any format (R87, R88, R473). -/
def convElem (tabs : FmtTabs) (f : Nat) (v : Val) : Conv :=
  if f = fFP32 then let c := roundIeee 8 23 nan32.toNat v; { code := c, nonFin := !(decodeIeee 8 23 c).isFinite || !v.isFinite }
  else if f = fBF16 then let c := roundIeee 8 7 (nanPattern 8 7) v; { code := c, nonFin := !(decodeIeee 8 7 c).isFinite || !v.isFinite }
  else if f = fFP16 then let c := roundIeee 5 10 (nanPattern 5 10) v; { code := c, nonFin := !(decodeIeee 5 10 c).isFinite || !v.isFinite }
  else if f = fINT32 then let r := toInt32 v; { code := r.1.toNat, sat := r.2, nonFin := !v.isFinite }
  else convNarrow tabs f v

/-! ## Block scales (R97 to R99) -/

/-- Block length of a PLY code. -/
def plyLen (ply : Nat) : Nat := if ply = 1 then 32 else 16

/-- Bytes of one ply with `w`-bit elements. -/
def plyBytes (ply w : Nat) : Nat := 1 + plyLen ply * w / 8

/-- Decode a scale byte (R94, Table 03-3). -/
def decodeScale (ply : Nat) (c : Nat) : Val :=
  if ply = 1 then (if c = 255 then .nan else .fin false 1 ((c : Int) - 127)) else decodeE4M3 c

/-- PLY and FORMAT agree (R97). -/
def plyOk (f ply : Nat) : Bool :=
  ply = 0 || (ply ≤ 2 && f ≠ fFP32 && f ≠ fBF16 && f ≠ fFP16 && f ≠ fINT32)

/-- Smallest positive E4M3 code whose value is at or above `v`; the largest, 448, where none is. -/
def e4m3Up (v : Val) : Nat :=
  match (List.range 127).find? (fun c => 1 ≤ c && !((decodeE4M3 c).lt v)) with
  | some c => c
  | none => 0x7E

/-- ceil (log2 v) of a positive finite value. -/
def ceilLog2 : Val → Int
  | .fin _ m e => if m = 0 then 0 else if m = 2 ^ m.log2 then (m.log2 : Int) + e else (m.log2 : Int) + e + 1
  | _ => 0

/-- The largest magnitude of a block of finite values. -/
def blockAmax (vs : List Val) : Val := vs.foldl (fun a v => if a.lt v.abs then v.abs else a) Val.zero

/-- The scale code of a block (R99). -/
def blockScale (tabs : FmtTabs) (f ply : Nat) (vs : List Val) : Nat :=
  if vs.any (fun v => !v.isFinite) then (if ply = 1 then 0xFF else 0x7F)
  else
    let amax := blockAmax vs
    if amax.isZero then (if ply = 1 then 0x7F else 0x38)
    else
      let q : Val := if f = fINT8 then Val.ofInt 127 else if f = fINT4 then Val.ofInt 7 else maxFinite (codeSet tabs f)
      if ply = 1 then
        let x : Int :=
          if fmtInt f then
            let d := val32 (divVal32 amax q)
            if d.isZero then -127 else ceilLog2 d
          else amax.log2 - q.log2
        ((max (-127) (min 127 x)) + 127).toNat
      else e4m3Up (val32 (divVal32 amax q))

/-- Encode a block: scale code and element codes with their saturation, and whether R89 applies. -/
def encodeBlock (tabs : FmtTabs) (f ply : Nat) (vs : List Val) : Nat × List Conv × Bool :=
  let sc := blockScale tabs f ply vs
  if vs.any (fun v => !v.isFinite) then (sc, vs.map (fun _ => {}), true)
  else
    let s := decodeScale ply sc
    (sc, vs.map (fun v => convNarrow tabs f (val32 (divVal32 v s))), false)

end Sys2Proof.Machine
end

