-- ==== Sys2Proof/Machine/Sram.lean ====
section
/-! DEFINITION. The on-die SRAMs as the debug windows show them (R341, Table 11-5), and the reads by which an engine takes a
descriptor or a block. -/

namespace Sys2Proof.Machine

/-- Is the block's clock stopped (R12, R407)? A stop that is pending has not stopped it. [DEDUCED, log 35] -/
def blockGated (s : State) (a : Nat) : Bool :=
  match vecOfBlock (a / 16777216) (a / 65536 % 256) with
  | some v => (!s.gate.getLsbD v && !s.pend.getLsbD v) || s.asleep.getLsbD v
  | none => false

/-- The blocks whose SRAM shows, with the sizes of their windows. -/
def sramSize (code : Nat) : Option Nat :=
  match code with
  | 0 => some 0x800000
  | 12 => some 0x1000000
  | 11 => some 0x80000
  | 1 => some 0x200000
  | 2 => some 0x800000
  | _ => none

/-- Byte `o` of what a unit left in an area whose layout the spec does not give; an area never written reads as zero (R340).
[DESIGN CHOICE, log 84] -/
def areaByte (held : Option Nat) (o : Nat) : RByte :=
  match held with
  | some n => { val := Config.sramByte n o }
  | none => {}

/-- Byte `o` of the feed buffer: the double buffers of the A and B streams, then the panel area by lines (R119). -/
def feedByte (x : Spn) (o : Nat) : RByte :=
  if o < 0x100000 then areaByte x.strA o
  else if o < 0x200000 then areaByte x.strB (o - 0x100000)
  else
    let p := o - 0x200000
    if mget x.lineV (p / 2048) false then { val := mget x.feed p 0, poison := mget x.feedP p false } else {}

/-- Byte `o` of a hank: slot, row, column, byte of the FP32 word. -/
def hankByte (x : Spn) (o : Nat) : RByte :=
  let e := o / 4
  { val := BitVec.ofNat 8 ((mget x.hank e 0).toNat / 256 ^ (o % 4)), poison := mget x.hankP e false }

/-- Byte `o` of a twist buffer (R238). -/
def twistByte (x : Spn) (o : Nat) : RByte := { val := mget x.twb o 0, poison := mget x.twbP o false }

/-- The areas of the carder SRAM: first byte and size (Table 06-2). -/
def carderAreas : List (Nat × Nat) :=
  [(0, 1277952), (1277952, 393216), (1671168, 262144), (1933312, 65536), (1998848, 98304)]

/-- Byte `o` of a carder's SRAM. -/
def carderByte (x : Crd) (o : Nat) : RByte :=
  match carderAreas.zipIdx.find? (fun e => e.1.1 ≤ o && o < e.1.1 + e.1.2) with
  | some e => areaByte (mfind x.sram e.2) (o - e.1.1)
  | none => {}

/-- Byte `o` of a flyer's side memory: resident lines, then the directory of eight bytes an entry. A line that no entry holds and
a record never written read as zero. [DESIGN CHOICE, log 84] -/
def flyByte (x : Fly) (o : Nat) : RByte :=
  if o < 0x780000 then
    match x.dir.find? (fun e => e.2.line = some (o / 2048)) with
    | none => {}
    | some e =>
      match mfind e.2.recs (o % 2048 / 8) with
      | none => {}
      | some r =>
        let w := if o % 8 < 4 then r.a else r.b
        { val := BitVec.ofNat 8 (w.toNat / 256 ^ (o % 4)), poison := r.poison }
  else
    match mfind x.dir ((o - 0x780000) / 8) with
    | none => {}
    | some l => { val := Config.dirByte [l.ctx, l.step, l.kind, l.layer, l.rowblk, l.coltile, l.line.getD 4095] (o % 8) }

/-- The current byte `o` of the SRAM of block `code`, instance `i` (R341). -/
def sramByte (s : State) (code i o : Nat) : RByte :=
  match code with
  | 0 => feedByte (mget s.spn i {}) o
  | 11 => twistByte (mget s.spn i {}) o
  | 12 => hankByte (mget s.spn i {}) o
  | 1 => carderByte (mget s.crds i {}) o
  | 2 => flyByte (mget s.fly i {}) o
  | _ => {}

/-- Block code, instance and offset of an address in the debug windows. -/
def sramPlace (a : Nat) : Nat × Nat × Nat :=
  let x := (a - 0x010000000000) / 2 ^ 28
  (x / 256, x % 256, a % 2 ^ 28)

/-- Bytes of the window that hold SRAM. -/
def sramListed (code i : Nat) : Nat := if i < blockInstances code then (sramSize code).getD 0 else 0

/-- Why a read of byte `a` draws an error response, with the unit that refuses it; none names the unit through which the access
entered (R17, R334, R341, R395). -/
def readRefusal (s : State) (a : Nat) : Option (Byte × Option (BitVec 16)) :=
  if a < 2 ^ 40 then (sectorRefusal s a).map (fun k => (k, some (srcSkn (sknOf a))))
  else if a < 2 ^ 41 then
    let p := sramPlace a
    if sramListed p.1 p.2.1 ≤ p.2.2 then some (kACCESS_MAP, none)
    else if blockGated s (p.1 * 16777216 + p.2.1 * 65536) then some (kACCESS_GATED, some (src p.1 p.2.1))
    else none
  else some (kACCESS_MAP, none)

/-- A byte of a descriptor or block as the unit that reads it sees it: skein memory, or an SRAM by its debug window (R17, R341).
Registers are no memory: a read of one by an engine is refused. [DEDUCED, log 111] -/
def blockByte (s : State) (a : Nat) : RByte :=
  if a < 2 ^ 40 then rdByte s a
  else if (readRefusal s a).isSome then { poison := true, err := true }
  else sramByte s (sramPlace a).1 (sramPlace a).2.1 (sramPlace a).2.2

def blockBytes (s : State) (a n : Nat) : List RByte := (List.range n).map (fun i => blockByte s (a + i))

/-- What the read of one sector by unit `who` does besides delivering data. -/
def unitRead (who : BitVec 16) (sec : Nat) (s : State) : State :=
  if sec * 32 < 2 ^ 40 then touchRead who 0 sec s
  else
    match readRefusal s (sec * 32) with
    | some (kind, source) => faultAddr (source.getD who) kind (sec * 32) s
    | none => s

/-- The reads that unit `who` makes, each sector once. -/
def unitReads (who : BitVec 16) (secs : List Nat) (s : State) : State :=
  (distinct secs).foldl (fun s x => unitRead who x s) s

end Sys2Proof.Machine
end

