-- ==== Sys2Proof/Machine/Operands.lean ====
section
/-! DEFINITION. Tensor descriptors: fields, checks, addresses, element reads and writes (R103 to R111, R475). -/

namespace Sys2Proof.Machine

/-- Bits `[lo + n - 1 : lo]` of 64-bit word `w` of a block of bytes read as one number. -/
def wordBits (x w lo n : Nat) : Nat := bits x (64 * w + lo) n

/-- The fields of a 64-byte descriptor, read as one number. [DEDUCED, log 25] -/
def parseDesc (addr x : Nat) : Desc :=
  { addr := addr
    base := wordBits x 0 0 48
    fmt := wordBits x 0 48 8
    ply := wordBits x 0 56 2
    ndim := wordBits x 0 58 3
    idxEn := nbit x 61
    idxRef := wordBits x 1 0 48
    idxDim := wordBits x 1 48 3
    size := [wordBits x 2 0 32, wordBits x 2 32 32, wordBits x 3 0 32, wordBits x 3 32 32, wordBits x 4 0 32]
    fill := BitVec.ofNat 32 (wordBits x 4 32 32)
    stride := [0, signed 40 (bits x 320 40), signed 40 (bits x 360 40), signed 40 (bits x 400 40),
      signed 40 (bits x 440 40)]
    reserved := wordBits x 0 62 2 ≠ 0 || wordBits x 1 51 13 ≠ 0 || wordBits x 7 32 32 ≠ 0 }

def Desc.sz (d : Desc) (i : Nat) : Nat := d.size.getD i 0
def Desc.st (d : Desc) (i : Nat) : Int := d.stride.getD i 0
def Desc.w (d : Desc) : Nat := fmtBits d.fmt

/-- Extent of dimension `i` as an engine walks it: the index tensor's size along the indexed dimension (R104). -/
def Desc.extent (d : Desc) (i : Nat) : Nat := if d.idxEn && d.idxDim = i then d.idxSize else d.sz i

/-- Bytes of one row (the span of dimension 0). -/
def Desc.rowSpan (d : Desc) : Nat :=
  if d.ply = 0 then ceilDiv (d.sz 0 * d.w) 8 else d.sz 0 / plyLen d.ply * plyBytes d.ply d.w

def Desc.dims (d : Desc) : List Nat := List.range d.ndim
/-- Dimensions 1 to NDIM − 1. -/
def Desc.outer (d : Desc) : List Nat := d.dims.filter (0 < ·)

def Desc.hasZeroExtent (d : Desc) : Bool := d.dims.any (fun i => d.sz i = 0)

def Desc.lo (d : Desc) : Int :=
  (d.base : Int) + (d.outer.map (fun i => min 0 (((d.sz i : Int) - 1) * d.st i))).foldl (· + ·) 0
def Desc.hi (d : Desc) : Int :=
  (d.base : Int) + d.rowSpan - 1 + (d.outer.map (fun i => max 0 (((d.sz i : Int) - 1) * d.st i))).foldl (· + ·) 0

/-- The footprint lies wholly within the populated region of one skein slot; none where an extent is zero. -/
def Desc.inRange (d : Desc) : Bool :=
  d.hasZeroExtent || (0 ≤ d.lo && d.lo ≤ d.hi && inOneSkein d.lo.toNat (d.hi - d.lo + 1).toNat)

/-- Span of dimension `i` (R107): the row span, then STRIDE × (SIZE − 1) added for each dimension. -/
def Desc.span (d : Desc) : Nat → Int
  | 0 => d.rowSpan
  | i + 1 => d.st (i + 1) * ((d.sz (i + 1) : Int) - 1) + d.span i

/-- Some stride is below the span under it (DESC_ALIAS). -/
def Desc.aliases (d : Desc) : Bool := d.outer.any (fun i => d.st i < d.span (i - 1))

/-- FILL is a finite value exactly representable in the element format. -/
def fillOk (tabs : FmtTabs) (f : Nat) (fill : Word) : Bool :=
  if fmtInt f then
    let i := signed 32 fill.toNat
    if f = fINT32 then true else if f = fINT8 then (-128 ≤ i && i ≤ 127) else (-8 ≤ i && i ≤ 7)
  else
    let v := val32 fill
    v.isFinite &&
      (if f = fFP32 then true
       else
        let back := decodeElem tabs f (convElem tabs f v).code
        back.isFinite && !(back.lt v) && !(v.lt back))

/-- The value of FILL. -/
def Desc.fillVal (d : Desc) : Val := if fmtInt d.fmt then Val.ofInt (signed 32 d.fill.toNat) else val32 d.fill

/-- FORMAT is used and its slot valid (R85, R93). -/
def fmtOk (tabs : FmtTabs) (f : Nat) : Bool :=
  fmtUsed f && (match fmtSlot f with | some s => (mfind tabs s).isSome | none => true)

/-- A check of a command at acceptance: it passes or names a fault, and either way it has read sectors (R105, R107, R328). -/
abbrev Chk (α : Type) := ExceptT Flt (StateM (List Nat)) α

/-- What a check comes to, and the sectors it read. -/
def checked {α : Type} (x : Chk α) : Except Flt α × List Nat := Id.run (StateT.run (ExceptT.run x) [])

/-- What a check comes to. -/
def passes {α : Type} (x : Chk α) : Except Flt α := (checked x).1

/-- A check either passes or names a fault. -/
def require (b : Bool) (kind : Byte) (addr : Nat) : Chk Unit :=
  if b then pure () else throw { kind := kind, addr := addr }

/-- Does SIZE0 keep every byte of the stream in one row (R101)? -/
def size0Ok (d : Desc) : Bool :=
  if d.ply = 0 then
    (if d.w = 4 then d.sz 0 % 2 = 0 else if d.w = 6 then d.sz 0 % 4 = 0 else true)
  else d.sz 0 % plyLen d.ply = 0

/-- The checks of R107 that look at the descriptor alone, before its index fields. -/
def checkShape (tabs : FmtTabs) (d : Desc) : Chk Unit := do
  require (!d.reserved) kBAD_SHAPE d.addr
  require (fmtOk tabs d.fmt && plyOk d.fmt d.ply) kBAD_FORMAT d.addr
  require (1 ≤ d.ndim && d.ndim ≤ 5) kBAD_SHAPE d.addr
  require (size0Ok d) kBAD_SHAPE d.addr
  require ((List.range 5).all (fun i => i < d.ndim || (d.sz i = 0 && d.st i = 0))) kBAD_SHAPE d.addr
  let unit := d.w / 8
  require (!(d.fmt = fFP32 || d.fmt = fBF16 || d.fmt = fFP16 || d.fmt = fINT32)
    || (d.base % unit = 0 && d.outer.all (fun i => d.st i % (unit : Int) = 0))) kBAD_SHAPE d.addr
  require (fillOk tabs d.fmt d.fill) kBAD_FILL d.addr

/-- Read a descriptor or block: poison or an error response fails (DESC_POISON). -/
def readBlock (s : State) (addr n : Nat) : Chk Nat := do
  modify (fun l => l ++ sectorsOf addr n)
  require (!(blockBytes s addr n).any (·.poison)) kDESC_POISON addr
  return leNat ((blockBytes s addr n).map (·.val))

/-- The descriptor checks of R107 in the order the rule lists them. [DEDUCED, log 25] -/
def checkDesc (s : State) (dest : Bool) (addr : Nat) : Chk Desc := do
  let tabs := s.fmt
  let x ← readBlock s addr 64
  let d := parseDesc addr x
  checkShape tabs d
  require (d.idxEn || (d.idxRef = 0 && d.idxDim = 0)) kBAD_INDEX addr
  require (!d.idxEn || (d.idxRef % 64 = 0 && d.idxDim < d.ndim
    && !(d.idxDim = 0 && (d.w < 8 || d.ply ≠ 0)))) kBAD_INDEX addr
  let d ← if d.idxEn then do
      let y ← readBlock s d.idxRef 64
      let i := parseDesc d.idxRef y
      checkShape tabs i
      require (i.fmt = fINT32 && i.ply = 0 && i.ndim = 1 && !i.idxEn && i.idxRef = 0 && i.idxDim = 0) kBAD_INDEX i.addr
      require i.inRange kDESC_RANGE i.addr
      pure { d with idxBase := i.base, idxSize := i.sz 0 }
    else pure d
  require d.inRange kDESC_RANGE addr
  require (!dest || !d.aliases) kDESC_ALIAS addr
  return d

/-- Sectors of a descriptor and of its index descriptor, read at acceptance. -/
def descSectors (d : Desc) : List Nat :=
  sectorsOf d.addr 64 ++ (if d.idxEn then sectorsOf d.idxRef 64 else [])

/-! ## From coordinate to address (R105) -/

/-- Where an access lands. -/
inductive Loc where
  | oob
  /-- The index element at this address is poisoned (R111). -/
  | idxPoison (addr : Nat)
  /-- First bit of the element as a bit address, and the address of its scale byte in a scaled tensor. -/
  | at (bit : Nat) (scale : Option Nat)
deriving DecidableEq, Repr

/-- The position that coordinate `c` has in the indexed dimension: the index element's address, its poison, its value; none where
it is beyond the index tensor. -/
def idxElem (s : State) (d : Desc) (c : Nat) : Option (Nat × Bool × Int) :=
  if c < d.idxSize then
    let a := d.idxBase + 4 * c
    some (a, rdPoison s a 4, signed 32 (rdNat s a 4))
  else none

/-- The loop of R105 over the dimensions in ascending order: it ends at the first position that is out of bounds, and reads the
index element only when it comes to its dimension. -/
def walkDims (s : State) (d : Desc) (c : List Nat) : List Nat → Except Loc (List Int)
  | [] => .ok []
  | i :: r =>
    match (if d.idxEn && d.idxDim = i then idxElem s d (c.getD i 0) else some (0, false, ((c.getD i 0 : Nat) : Int))) with
    | none => .error .oob
    | some (a, true, _) => .error (.idxPoison a)
    | some (_, false, p) =>
      if p < 0 || (d.sz i : Int) ≤ p then .error .oob
      else
        match walkDims s d c r with
        | .ok q => .ok (p :: q)
        | .error e => .error e

/-- R105. -/
def locate (s : State) (d : Desc) (c : List Nat) : Loc :=
  match walkDims s d c d.dims with
  | .error e => e
  | .ok q =>
    let a : Int := d.outer.foldl (fun acc i => acc + q.getD i 0 * d.st i) d.base
    let q0 := (q.getD 0 0).toNat
    if d.ply = 0 then .at (a.toNat * 8 + q0 * d.w) none
    else
      let blk := q0 / plyLen d.ply
      let pa := a.toNat + blk * plyBytes d.ply d.w
      .at (pa * 8 + 8 + (q0 % plyLen d.ply) * d.w) (some pa)

/-- Sectors of the index element that an access at coordinate `c` reads: the walk of R105 must come to its dimension. -/
def idxSectors (d : Desc) (c : List Nat) : List Nat :=
  if d.idxEn && c.getD d.idxDim 0 < d.idxSize
      && (List.range d.idxDim).all (fun i => c.getD i 0 < d.sz i) then
    sectorsOf (d.idxBase + 4 * c.getD d.idxDim 0) 4
  else []

/-- The bytes of an element at a bit address. -/
def elemBytes (bit w : Nat) : Nat × Nat := (bit / 8, ceilDiv (bit % 8 + w) 8)

/-- What reading one element gives: its value and code, the poison mark, the bits of the code that are clean although it is set,
the address of the first poisoned byte, whether a poisoned index element was met (R111), whether the element was out of bounds, and
the sectors read. -/
structure RdElem where
  val : Val := Val.zero
  code : Nat := 0
  poison : Bool := false
  clean : Nat := 0
  pAddr : Nat := 0
  idxP : Bool := false
  oob : Bool := false
  secs : List Nat := []
deriving DecidableEq, Repr

/-- The bits of an element, `w` wide at bit address `bit`, that lie in clean bytes. -/
def cleanBits (bit w : Nat) (bs : List RByte) : Nat :=
  (leNat (bs.map (fun b => if b.poison then (0 : Byte) else 255)) >>> (bit % 8)) % 2 ^ w

/-- First poisoned byte of a run. -/
def firstPoison (s : State) (a n : Nat) : Nat :=
  match findIdx n (fun i => (rdByte s (a + i)).poison) with
  | some i => a + i
  | none => a

/-- Read one element (R98, R105, R108, R109, R111, R334). -/
def readElem (s : State) (d : Desc) (c : List Nat) : RdElem :=
  let idxSecs := idxSectors d c
  let fillCode := (convElem s.fmt d.fmt d.fillVal).code
  match locate s d c with
  | .oob => { val := d.fillVal, code := fillCode, oob := true, secs := idxSecs }
  | .idxPoison a => { val := d.fillVal, code := fillCode, poison := true, pAddr := a, idxP := true, secs := idxSecs }
  | .at bit sc =>
    let (a, n) := elemBytes bit d.w
    let bs := rdBytes s a n
    let code := (leNat (bs.map (·.val)) >>> (bit % 8)) % 2 ^ d.w
    let scb : RByte := match sc with | some p => rdByte s p | none => {}
    let err := bs.any (·.err) || scb.err
    let pois := bs.any (·.poison) || scb.poison
    let pa := match sc with
      | some p => if scb.poison then p else firstPoison s a n
      | none => firstPoison s a n
    let secs := idxSecs ++ (match sc with | some p => [p / 32] | none => []) ++ sectorsOf a n
    if err then { val := d.fillVal, code := fillCode, poison := true, pAddr := pa, secs := secs }
    else
      let v := decodeElem s.fmt d.fmt code
      let v' := match sc with | some _ => v.mul (decodeScale d.ply scb.val.toNat) | none => v
      { val := v', code := code, poison := pois, clean := cleanBits bit d.w bs, pAddr := pa, secs := secs }

/-- An FP32 operand element as its pattern (no rounding: the element is FP32). -/
def RdElem.fp32 (e : RdElem) : Word := round32 e.val

/-! ## Writing elements -/

/-- Bits to store: bit address, width, code, poison, and the bits of the code that are clean in spite of it. -/
structure WrBits where
  bit : Nat
  width : Nat
  code : Nat
  poison : Bool := false
  clean : Nat := 0
deriving DecidableEq, Repr

/-- A byte being assembled: value, the bits written, the poisoned ones among them. -/
structure ByteAcc where
  val : Nat := 0
  mask : Nat := 0
  pmask : Nat := 0
deriving DecidableEq, Repr

/-- Bits of `x` (below 256) that are not in `y`. -/
def without (x y : Nat) : Nat := x &&& (255 ^^^ y)

/-- Write `n` bits of `code` at bit address `b`, those of `pois` poisoned: a later write of a bit replaces an earlier one. -/
def addBits (m : AMap ByteAcc) (b n code pois : Nat) : AMap ByteAcc :=
  let (a, k) := elemBytes b n
  let shifted := (code % 2 ^ n) <<< (b % 8)
  let mask := (2 ^ n - 1) <<< (b % 8)
  let marks := (pois % 2 ^ n) <<< (b % 8)
  (List.range k).foldl (fun m i =>
    let old := mget m (a + i) {}
    let mk := bits mask (8 * i) 8
    mset m (a + i)
      { val := without old.val mk ||| bits shifted (8 * i) 8, mask := old.mask ||| mk,
        pmask := without old.pmask mk ||| bits marks (8 * i) 8 }) m

/-- The poisoned bits of an element to be written. -/
def WrBits.marks (w : WrBits) : Nat := if w.poison then (2 ^ w.width - 1) &&& ((2 ^ w.width - 1) ^^^ w.clean) else 0

/-- The bytes that a set of element writes stores. A byte of which only some bits are written keeps its other bits, and with them
its poison: the padding of a partly valid byte too (R102, R138).
[DEDUCED, log 62] [DESIGN CHOICE, log 113] -/
def toBytes (s : State) (ws : List WrBits) : List (Nat × MByte) :=
  (ws.foldl (fun m w => addBits m w.bit w.width w.code w.marks) []).map (fun e =>
    let old := rdByte s e.1
    (e.1, { val := BitVec.ofNat 8 (without old.val.toNat e.2.mask ||| e.2.val)
            poison := e.2.pmask ≠ 0 || (e.2.mask ≠ 255 && old.poison) }))

/-- What encoding a set of results gives: the bits to store, elements saturated, a non-finite value, elements out of
bounds, and the address of a poisoned index element met. -/
structure Encoded where
  bits : List WrBits := []
  sat : Nat := 0
  nonFin : Bool := false
  oob : Nat := 0
  idxPoison : Option Nat := none
  secs : List Nat := []
deriving DecidableEq, Repr

def Encoded.append (a b : Encoded) : Encoded :=
  { bits := a.bits ++ b.bits, sat := a.sat + b.sat, nonFin := a.nonFin || b.nonFin, oob := a.oob + b.oob,
    idxPoison := if a.idxPoison.isSome then a.idxPoison else b.idxPoison, secs := a.secs ++ b.secs }

/-- Encode one element of an unscaled destination (R87, R88, R100, R108, R111). The conversion comes before the write: an element
whose write is then dropped counts as saturated or non-finite all the same (R89, R90: the spec does not say). [DESIGN CHOICE, log 112] -/
def encodeElem (s : State) (d : Desc) (c : List Nat) (v : Val) (poison : Bool) : Encoded :=
  let k := convElem s.fmt d.fmt v
  match locate s d c with
  | .oob => { oob := 1, sat := b2n k.sat, nonFin := k.nonFin, secs := idxSectors d c }
  | .idxPoison a => { idxPoison := some a, sat := b2n k.sat, nonFin := k.nonFin, secs := idxSectors d c }
  | .at bit _ =>
    { bits := [{ bit := bit, width := d.w, code := k.code, poison := poison }], sat := b2n k.sat, nonFin := k.nonFin,
      secs := idxSectors d c }

/-- Store a code as it stands (commands that move bytes); `clean`: its clean bits where it carries poison. -/
def storeCode (s : State) (d : Desc) (c : List Nat) (code : Nat) (poison : Bool) (clean : Nat := 0) : Encoded :=
  match locate s d c with
  | .oob => { oob := 1, secs := idxSectors d c }
  | .idxPoison a => { idxPoison := some a, secs := idxSectors d c }
  | .at bit _ =>
    { bits := [{ bit := bit, width := d.w, code := code, poison := poison, clean := clean }], secs := idxSectors d c }

/-- Encode one whole block of a scaled destination (R99): `c` is the coordinate of its first element. Poison in any
element reaches the scale and with it the whole block. -/
def encodePly (s : State) (d : Desc) (c : List Nat) (vs : List (Val × Bool)) : Encoded :=
  let pois := vs.any (·.2)
  let (sc, es, nf) := encodeBlock s.fmt d.fmt d.ply (vs.map (·.1))
  let sat := (es.filter (·.sat)).length
  match locate s d c with
  | .oob => { oob := vs.length, sat := sat, nonFin := nf, secs := idxSectors d c }
  | .idxPoison a => { idxPoison := some a, sat := sat, nonFin := nf, secs := idxSectors d c }
  | .at bit sa =>
    let pa := match sa with | some p => p | none => bit / 8
    { bits := { bit := pa * 8, width := 8, code := sc, poison := pois } ::
        es.zipIdx.map (fun e => { bit := bit + e.2 * d.w, width := d.w, code := e.1.code, poison := pois })
      sat := sat, nonFin := nf, secs := idxSectors d c }

/-- Encode a block of a scaled output with invalid columns (R138): amax over the valid ones, code 0 in the others; a block
with no valid column is not written. [DEDUCED, log 62] -/
def encodePlyMasked (s : State) (d : Desc) (c : List Nat) (vs : List (Option (Val × Bool))) : Encoded :=
  let live := vs.filterMap id
  if live.isEmpty then {}
  else
    let pois := live.any (·.2)
    let (sc, es, nf) := encodeBlock s.fmt d.fmt d.ply (live.map (·.1))
    let sat := (es.filter (·.sat)).length
    let codes := (vs.foldl (fun (acc : List Nat × List Conv) v =>
      match v, acc.2 with
      | some _, k :: r => (acc.1 ++ [k.code], r)
      | some _, [] => (acc.1 ++ [0], [])
      | none, r => (acc.1 ++ [0], r)) ([], es)).1
    match locate s d c with
    | .oob => { oob := live.length, sat := sat, nonFin := nf, secs := idxSectors d c }
    | .idxPoison a => { idxPoison := some a, sat := sat, nonFin := nf, secs := idxSectors d c }
    | .at bit sa =>
      let pa := match sa with | some p => p | none => bit / 8
      { bits := { bit := pa * 8, width := 8, code := sc, poison := pois } ::
          codes.zipIdx.map (fun e => { bit := bit + e.2 * d.w, width := d.w, code := e.1, poison := pois })
        sat := sat, nonFin := nf, secs := idxSectors d c }

/-- Split a list into runs of `n` (the last may be shorter). -/
def chunksAux {α : Type} : Nat → Nat → List α → List (List α)
  | 0, _, _ => []
  | f + 1, n, l => if l.isEmpty then [] else l.take n :: chunksAux f n (l.drop n)

def chunks {α : Type} (n : Nat) (l : List α) : List (List α) := chunksAux l.length n l

/-- Encode a row: elements at dimension-0 coordinates `c0, c0 + 1, …` of the row with outer coordinates `cs`. In a scaled
destination `c0` starts a block; a last block that the row does not fill is a short block, its other codes left as they are.
[DESIGN CHOICE, log 113] -/
def encodeRow (s : State) (d : Desc) (c0 : Nat) (cs : List Nat) (vs : List (Val × Bool)) : Encoded :=
  if d.ply = 0 then
    vs.zipIdx.foldl (fun acc v => acc.append (encodeElem s d ((c0 + v.2) :: cs) v.1.1 v.1.2)) {}
  else
    (chunks (plyLen d.ply) vs).zipIdx.foldl (fun acc b =>
      acc.append (encodePly s d ((c0 + b.2 * plyLen d.ply) :: cs) b.1)) {}

/-- Read a row. -/
def readRow (s : State) (d : Desc) (c0 n : Nat) (cs : List Nat) : List RdElem :=
  (List.range n).map (fun i => readElem s d ((c0 + i) :: cs))

/-! ## Footprints (R107) -/

/-- Do two footprints share a byte? A descriptor with an extent of zero has none. -/
def Desc.meets (a b : Desc) : Bool :=
  !a.hasZeroExtent && !b.hasZeroExtent && decide (a.lo ≤ b.hi) && decide (b.lo ≤ a.hi)

/-- Does the footprint meet that of `b`'s index tensor? -/
def Desc.meetsIndex (a b : Desc) : Bool :=
  b.idxEn && !a.hasZeroExtent && decide (0 < b.idxSize)
    && decide (a.lo ≤ (b.idxBase + 4 * b.idxSize : Nat) - 1) && decide ((b.idxBase : Int) ≤ a.hi)

/-! ## Moving elements without conversion -/

/-- Read the code of one element: the poison of its own bytes alone, not of its block's scale. -/
def readCode (s : State) (d : Desc) (c : List Nat) : RdElem :=
  let idxSecs := idxSectors d c
  let fillCode := (convElem s.fmt d.fmt d.fillVal).code
  match locate s d c with
  | .oob => { code := fillCode, oob := true, secs := idxSecs }
  | .idxPoison a => { code := fillCode, poison := true, pAddr := a, idxP := true, secs := idxSecs }
  | .at bit _ =>
    let (a, n) := elemBytes bit d.w
    let bs := rdBytes s a n
    let secs := idxSecs ++ sectorsOf a n
    if bs.any (·.err) then { code := fillCode, poison := true, pAddr := a, secs := secs }
    else
      { code := (leNat (bs.map (·.val)) >>> (bit % 8)) % 2 ^ d.w, poison := bs.any (·.poison),
        clean := cleanBits bit d.w bs, pAddr := firstPoison s a n, secs := secs }

/-- The code of a scale of 1.0 (R99, R109). -/
def oneScale (ply : Nat) : Nat := if ply = 1 then 0x7F else 0x38

/-- The scale byte of the block that holds coordinate `c` (R109 where out of bounds). -/
def readScaleElem (s : State) (d : Desc) (c : List Nat) : RdElem :=
  match locate s d c with
  | .oob => { code := oneScale d.ply }
  | .idxPoison a => { code := oneScale d.ply, poison := true, pAddr := a, idxP := true }
  | .at _ none => { code := oneScale d.ply }
  | .at _ (some p) =>
    let b := rdByte s p
    if b.err then { code := oneScale d.ply, poison := true, pAddr := p, secs := [p / 32] }
    else { code := b.val.toNat, poison := b.poison, pAddr := p, secs := [p / 32] }

/-- Store the scale byte of the block that holds coordinate `c`. -/
def storeScale (s : State) (d : Desc) (c : List Nat) (code : Nat) (poison : Bool) : Encoded :=
  match locate s d c with
  | .at _ (some p) => { bits := [{ bit := p * 8, width := 8, code := code, poison := poison }] }
  | _ => {}

/-- All coordinates of the given extents, dimension 0 innermost. -/
def coords : List Nat → List (List Nat)
  | [] => [[]]
  | n :: r => (coords r).flatMap (fun cs => (List.range n).map (fun i => i :: cs))

end Sys2Proof.Machine
end

