-- ==== Sys2Proof/Machine/Envelope.lean ====
section
/-! DEFINITION. The 64-byte command: its fields (Table 02-3), opcode ranges (Table 02-4), which references and IMM bits each
opcode uses, and the envelope checks of R60. -/

namespace Sys2Proof.Machine

/-- Bits `[lo + n - 1 : lo]` of word `w` of a command. -/
def cbits (c : Cmd) (w lo n : Nat) : Nat := bits c.toNat (64 * w + lo) n

def cOp (c : Cmd) : Nat := cbits c 0 0 8
def cPhase (c : Cmd) : Nat := cbits c 0 8 2
def cStep (c : Cmd) : Nat := cbits c 0 10 2
def cStrict (c : Cmd) : Bool := cbits c 0 12 1 = 1
def cCtx (c : Cmd) : Nat := cbits c 0 16 12
def cTarget (c : Cmd) : Nat := cbits c 0 32 8
def cEpoch (c : Cmd) : BitVec 16 := BitVec.ofNat 16 (cbits c 0 48 16)
def cWaitA (c : Cmd) : Nat := cbits c 1 0 16
def cWaitB (c : Cmd) : Nat := cbits c 1 16 16
def cSignal (c : Cmd) : Nat := cbits c 1 32 16
def cWaitAEn (c : Cmd) : Bool := cbits c 1 48 1 = 1
def cWaitBEn (c : Cmd) : Bool := cbits c 1 49 1 = 1
def cSignalEn (c : Cmd) : Bool := cbits c 1 50 1 = 1
def cWaitACount (c : Cmd) : Word := BitVec.ofNat 32 (cbits c 2 0 32)
def cWaitBCount (c : Cmd) : Word := BitVec.ofNat 32 (cbits c 2 32 32)
def cRunSize (c : Cmd) : Nat := cbits c 3 0 32
def cHoldTag (c : Cmd) : Nat := cbits c 3 32 16
def cPlan (c : Cmd) : Nat := cbits c 3 48 16
/-- Descriptor reference `i`, 0 to 3. -/
def cD (c : Cmd) (i : Nat) : Nat := bits c.toNat (256 + 48 * i) 48
def cImm (c : Cmd) : Nat := cbits c 7 0 64
/-- IMM bits `[lo + n - 1 : lo]`. -/
def imm (c : Cmd) (lo n : Nat) : Nat := bits (cImm c) lo n

/-- Phase tag NONE. -/
def phNone : Nat := 3
/-- PHASE UPD. -/
def phUpd : Nat := 2

/-- Header bits that Table 02-3 reserves are zero. -/
def headerReservedOk (c : Cmd) : Bool :=
  cbits c 0 13 3 = 0 && cbits c 0 28 4 = 0 && cbits c 0 40 8 = 0 && cbits c 1 51 13 = 0

/-- Class of an opcode (Table 02-4): 0 spindle to 4 copy; none for scheduler opcodes and unused ranges. -/
def opClass (op : Nat) : Option Nat :=
  if op < 0x10 then none else if op < 0x40 then some 0 else if op < 0x80 then some 1
  else if op < 0xA0 then some 2 else if op < 0xC0 then some 3 else if op < 0xE0 then some 4 else none

/-- Units a class has. -/
def classUnits (cls : Nat) : Nat :=
  match cls with | 0 => 16 | 1 => 32 | 2 => 4 | 3 => 1 | 4 => 32 | _ => 0

/-- Epoch unit index (Table 02-4). -/
def unitIndex (cls target : Nat) : Nat :=
  match cls with | 0 => target | 1 => 16 + target | 2 => 48 + target | 3 => 52 | _ => 16 + target

/-- Unit index of a command that an engine runs. -/
def cUnit (c : Cmd) : Nat := match opClass (cOp c) with | some k => unitIndex k (cTarget c) | none => 63

/-- How an opcode uses its operands: the references it requires in every use, those it may use, and the IMM bits it
lists. -/
structure OpForm where
  need : List Nat := []
  may : List Nat := []
  immMask : Nat := 0
deriving DecidableEq, Repr

/-- A mask of IMM bits from (low bit, width) pairs. -/
def immBits (l : List (Nat × Nat)) : Nat := l.foldl (fun acc p => acc ||| ((2 ^ p.2 - 1) <<< p.1)) 0

/-- AUX of an active plying command as it stands (Table 10-2): for PLY_VERDICT the four flags. [DEDUCED, log 28] -/
def plyAux (c : PlyCmd) (s : State) : Nat :=
  if cOp c.is.cmd = 0xA2 then (mget s.trns (cCtx c.is.cmd) {}).verdict.toNat % 16 else c.aux

end Sys2Proof.Machine
end

