-- ==== Sys2Proof/Machine/Flags.lean ====
section
/-! DEFINITION. Status codes and their classes (R13 to R15), the ranking of R14 for a command that ran, and the completion
report an engine leaves. -/

namespace Sys2Proof.Machine

def stOK : Byte := 0x00
def stEMPTY : Byte := 0x01
def stERROR : Byte := 0x02
def stOVERLAP : Byte := 0x03
def stSHAPE : Byte := 0x04
def stSTALE : Byte := 0x05
def stPOISONED : Byte := 0x06
def stGATED : Byte := 0x07
def stREJECTED : Byte := 0x08
def stCHECKSUM : Byte := 0x09
def stOVERFLOW : Byte := 0x0A

def kindCHECK : Nat := 1
def kindFAULT : Nat := 2
def kindABANDONED : Nat := 3

/-- Is it an execution status (Table 00-5, R15)? -/
def isExecution (st : Byte) (kind : Nat) : Bool :=
  st = stOK || st = stCHECKSUM || st = stOVERFLOW || st = stPOISONED || (st = stERROR && kind = kindFAULT)

/-- Does a completion with this status signal its barrier (R67)? -/
def signals (st : Byte) (kind : Nat) : Bool := isExecution st kind || st = stEMPTY

/-- Does it set the hold bit (R80)? -/
def holdsTag (st : Byte) (kind : Nat) : Bool := isExecution st kind || (st = stERROR && kind = kindABANDONED)

/-- What the data phase of a command came to. [DEDUCED, log 24] -/
structure Eff where
  /-- Sectors read, each once; and the sectors of slices that are read again after that (R183). -/
  secs : List Nat := []
  again : List (List Nat) := []
  /-- Bytes to store, and elements to store (whose bits share bytes). -/
  writes : List (Nat × MByte) := []
  elems : List WrBits := []
  oobR : Nat := 0
  oobW : Nat := 0
  /-- Descriptor of the first element out of bounds. -/
  oobAddr : Option Nat := none
  /-- Poison was consumed: the address that the fault carries. -/
  poison : Option Nat := none
  /-- A result carries poison that the command itself created (R195, R216, R261). -/
  marked : Bool := false
  sat : Nat := 0
  nonFin : Bool := false
  checksum : Bool := false
  /-- Faults that give ERROR of kind FAULT. -/
  faults : List Flt := []
  /-- Faults that leave the status alone. -/
  notes : List Flt := []
  aux : Word := 0
deriving DecidableEq, Repr

/-- Poison consumed at an address; the first one counts. [DEDUCED, log 24] -/
def Eff.consume (e : Eff) (a : Nat) : Eff := { e with poison := if e.poison.isNone then some a else e.poison }

/-- Note the reads of one operand: out-of-bounds elements, sectors, and a poisoned index element, which the access itself consumes
(R111). Other poison is noted by the engine that consumes it. -/
def Eff.reads (e : Eff) (d : Desc) (rs : List RdElem) : Eff :=
  let n := (rs.filter (·.oob)).length
  let e1 := { e with secs := e.secs ++ rs.flatMap (·.secs), oobR := e.oobR + n,
                     oobAddr := if e.oobAddr.isNone && 0 < n then some d.addr else e.oobAddr }
  match rs.find? (·.idxP) with
  | some r => e1.consume r.pAddr
  | none => e1

/-- Consume the first poisoned element of a list of reads. -/
def Eff.consumeReads (e : Eff) (rs : List RdElem) : Eff :=
  match rs.find? (·.poison) with
  | some r => e.consume r.pAddr
  | none => e

/-- Add the writes of a destination. -/
def Eff.encoded (e : Eff) (_ : State) (d : Desc) (x : Encoded) : Eff :=
  let e1 := { e with elems := e.elems ++ x.bits, sat := e.sat + x.sat, nonFin := e.nonFin || x.nonFin,
                     oobW := e.oobW + x.oob, secs := e.secs ++ x.secs,
                     oobAddr := if e.oobAddr.isNone && 0 < x.oob then some d.addr else e.oobAddr }
  match x.idxPoison with
  | some a => e1.consume a
  | none => e1

/-- The status of a command that ran (R14, items 10 to 14). -/
def execStatus (checksum fault overflow poisoned : Bool) : Byte × Nat :=
  if checksum then (stCHECKSUM, 0) else if fault then (stERROR, kindFAULT)
  else if overflow then (stOVERFLOW, 0) else if poisoned then (stPOISONED, 0) else (stOK, 0)

/-- Faults of a command's data phase: those found, an out-of-bounds access in strict mode (R110), poison consumed
(R333). [DEDUCED, log 24] -/
def effFaults (c : Cmd) (e : Eff) : List Flt :=
  let oob := e.oobR + e.oobW
  e.faults ++ e.notes
    ++ (if cStrict c && 0 < oob then [{ kind := kOOB_ACCESS, addr := e.oobAddr.getD 0, count := oob }] else [])
    ++ (match e.poison with | some a => [{ kind := kPOISON_CONSUMED, addr := a }] | none => [])

/-- Bytes on their way to memory, poisoned where a parity error strikes them (R31, R171, R184). -/
def strikeWrites (s : State) (ws : List (Nat × MByte)) : List (Nat × MByte) :=
  ws.map (fun w =>
    if s.struck.any (fun h => onWrite h && strikes h w.1) then (w.1, { w.2 with poison := true }) else w)

/-- Does a parity error strike a byte that waits in the carder's SRAM to be written? The command then writes a poisoned byte of its
own (R184, R198); on a creel link the poison comes after the command's part in it. [DEDUCED, log 85] -/
def struckInSram (s : State) (ws : List (Nat × MByte)) : Bool :=
  ws.any (fun w => s.struck.any (fun h => onWrite h && h.src.toNat / 256 = 1 && strikes h w.1))

/-- The error patterns of the sectors that a set of writes changes, before and after. -/
def changedErrs (ws : List (Nat × MByte)) (s t : State) : List (Nat × List Byte × List Byte) :=
  (distinct (ws.map (·.1 / 32))).filterMap (fun x =>
    if s.errOf x = t.errOf x then none else some (x, s.errOf x, t.errOf x))

/-- Perform what a data phase came to and leave the report of unit `u`. [DEDUCED, log 59] [DEDUCED, log 61] -/
def finishCmd (u : Nat) (i : Issued) (e0 : Eff) (s : State) : State :=
  let ws0 := e0.writes ++ toBytes s e0.elems
  let e := if struckInSram s ws0 then e0.consume i.addr.toNat else e0
  let ws := strikeWrites s ws0
  let undo := ws.map (fun w => (w.1, s.byte w.1))
  let s1 := e.again.foldl (fun s l => touchReads (srcOfUnit s u) 0 l s) (touchReads (srcOfUnit s u) 0 e.secs s)
  let (s2, refused) := writeBytes (srcOfUnit s u) 0 ws s1
  let fs := effFaults i.cmd e
  let s3 := faultsOf (srcOfUnit s u) fs i.id s2
  let strictOob := cStrict i.cmd && 0 < e.oobR + e.oobW
  let (st, kind) := execStatus e.checksum (!e.faults.isEmpty || strictOob || !refused.isEmpty) e.nonFin (e.poison.isSome || e.marked)
  s3.addReport { is := i, unit := u, status := st, errKind := kind, oobReads := min e.oobR 4294967295,
                 oobWrites := min e.oobW 4294967295, aux := e.aux, charged := !fs.isEmpty, ran := true, undo := undo,
                 undoErrs := changedErrs ws s1 s2 }

/-- A refusal: no side effect (R13). -/
def refuseCmd (u : Nat) (i : Issued) (st : Byte) (s : State) : State :=
  s.addReport { is := i, unit := u, status := st }

/-- ERROR of kind CHECK with its fault (R15, R16). -/
def checkFail (u : Nat) (i : Issued) (f : Flt) (s : State) : State :=
  (faultCharged (srcOfUnit s u) f i.id s).addReport
    { is := i, unit := u, status := stERROR, errKind := kindCHECK, charged := true }

/-- The command at the front of unit `u`'s port, if it is `op`'s turn: the unit runs, is not in reset, and holds no
command in its data phase (R38, R39, R409). -/
def frontOf (s : State) (u : Nat) (op : Nat) : Option Issued :=
  match s.port u with
  | [] => none
  | i :: _ =>
    if cOp i.cmd = op && !unitOff s (vecOfUnit s u) && !s.rstBusy.getLsbD (vecOfUnit s u) && !s.unitBusy u then some i
    else none

/-- Take the front command off a port. -/
def popPort (u : Nat) (s : State) : State := s.setPort u ((s.port u).drop 1)

/-- Acceptance of one command at its port in the order of R14: STALE_EPOCH (R75), SHAPE_EXCEEDS_PLAN (R155), the engine's
checks, OVERLAP, EMPTY; then the data phase. `check` answers what the data phase needs. A check that fails has read what it looked
at, with what a read does (R328 to R334). [DEDUCED, log 59] -/
def acceptCmd {α : Type} (u : Nat) (check : Issued → State → Chk α) (overlap : Issued → α → State → Bool)
    (run : Issued → α → State → State) (i : Issued) (s : State) : State :=
  let s0 := popPort u s
  if cEpoch i.cmd ≠ s.epoch u then refuseCmd u i stSTALE s0
  else
    let exceeds := match i.res with | .run _ _ _ x => x | .none => false
    let empty := match i.res with | .run _ _ e _ => e | .none => false
    if exceeds then refuseCmd u i stSHAPE s0
    else
      match checked (check i s0) with
      | (.error f, secs) => checkFail u i f (unitReads (srcOfUnit s0 u) secs s0)
      | (.ok a, secs) =>
        if overlap i a s0 then refuseCmd u i stOVERLAP (unitReads (srcOfUnit s0 u) secs s0)
        else if empty then refuseCmd u i stEMPTY (unitReads (srcOfUnit s0 u) secs s0)
        else run i a s0

/-- The command at the front of a port is accepted, if it is `op`'s turn. [DESIGN CHOICE, log 2] -/
def accept {α : Type} (u op : Nat) (check : Issued → State → Chk α) (overlap : Issued → α → State → Bool)
    (run : Issued → α → State → State) (s : State) : State :=
  match frontOf s u op with
  | none => s
  | some i => acceptCmd u check overlap run i s

end Sys2Proof.Machine
end

