-- ==== Sys2Proof/Machine/FlyerMem.lean ====
section
/-! DEFINITION. Flyer side memory: keyed records, resident lines, spill and refill (R249 to R253, R260, R263). -/

namespace Sys2Proof.Machine

/-- A side-memory key without the row (Table 08-5). -/
structure FKey where
  ctx : Nat
  step : Nat
  kind : Nat
  layer : Nat
  rowblk : Nat
  coltile : Nat
deriving DecidableEq, Repr

def State.flyer (s : State) (f : Nat) : Fly := mget s.fly f {}
def State.setFlyer (s : State) (f : Nat) (x : Fly) : State := { s with fly := mput s.fly f x {} }

def FlyLine.key (l : FlyLine) : FKey := ⟨l.ctx, l.step, l.kind, l.layer, l.rowblk, l.coltile⟩

def dirSize : Nat := 65536
def residentLines : Nat := 3840

/-- The directory entry that holds a key. -/
def flyFind (x : Fly) (k : FKey) : Option Nat := (x.dir.find? (fun e => e.2.key = k)).map (·.1)

/-- Resident lines in use. -/
def flyResident (x : Fly) : Nat := (x.dir.filter (fun e => e.2.line.isSome)).length

/-- FLY[f]_SPILL_BASE. -/
def spillBase (s : State) (f : Nat) : Nat :=
  (s.getReg (rFly f 0x08)).toNat % 65536 * 2 ^ 32 + (s.getReg (rFly f 0x04)).toNat

/-- The resident entry used least recently, the lower line number first between equals. [DESIGN CHOICE, log 65] -/
def spillVictim (x : Fly) : Option (Nat × FlyLine) :=
  (x.dir.filter (fun e => e.2.line.isSome)).foldl (fun best e =>
    match best with
    | none => some e
    | some b =>
      if e.2.used < b.2.used || (e.2.used = b.2.used && e.2.line.getD 0 < b.2.line.getD 0) then some e else some b) none

/-- The 2 KiB of a line: the records it holds, eight bytes each with their poison; a row without a record holds zeros, as the debug
window shows it. [DESIGN CHOICE, log 84] -/
def lineBytes (l : FlyLine) : List MByte :=
  (List.range 256).flatMap (fun r =>
    match mfind l.recs r with
    | some x => (leBytes 4 x.a.toNat ++ leBytes 4 x.b.toNat).map (fun b => { val := b, poison := x.poison })
    | none => List.replicate 8 {})

/-- Spill the entry that R252 names; poison goes with it (R331, R332). -/
def spillOne (f : Nat) (s : State) : State :=
  match spillVictim (s.flyer f) with
  | none => s
  | some (e, l) =>
    let s1 := storeMarked (srcFly f) (spillBase s f + e * 2048) (lineBytes l) s
    let x := s1.flyer f
    (s1.setFlyer f { x with dir := mset x.dir e { l with line := none } }).count (rFly f 0x14) 1

/-- Bring entry `e` back into a resident line, spilling another where all are in use (R252). [DESIGN CHOICE, log 65] -/
def makeResident (f e : Nat) (s : State) : State :=
  match mfind (s.flyer f).dir e with
  | none => s
  | some l0 =>
    if l0.line.isSome then s
    else
      let s1 := if residentLines ≤ flyResident (s.flyer f) then spillOne f s else s
      let x := s1.flyer f
      let used := x.dir.filterMap (fun q => q.2.line)
      let n := (findWrap residentLines (Config.freeNat s1.free) (fun i => !used.contains i)).getD 0
      let s2 := s1.bumpFree
      if l0.recs = [] then s2.setFlyer f { x with dir := mset x.dir e { l0 with line := some n } }
      else
        let a := spillBase s f + e * 2048
        let (bs, s3) := demandRead (srcFly f) 0 a 2048 s2
        let pois := bs.any (·.poison)
        let recs := l0.recs.map (fun r =>
          (r.1, { a := BitVec.ofNat 32 (leNat (((bs.drop (r.1 * 8)).take 4).map (·.val)))
                  b := BitVec.ofNat 32 (leNat (((bs.drop (r.1 * 8 + 4)).take 4).map (·.val)))
                  poison := r.2.poison || pois : FlyRec }))
        let x3 := s3.flyer f
        (s3.setFlyer f { x3 with dir := mset x3.dir e { l0 with line := some n, recs := recs } }).count (rFly f 0x18) 1

/-- Stamp a use of entry `e`. -/
def stampEntry (f e : Nat) (s : State) : State :=
  let x := s.flyer f
  match mfind x.dir e with
  | some l => s.setFlyer f { x with stamp := x.stamp + 1, dir := mset x.dir e { l with used := x.stamp + 1 } }
  | none => s

/-- Read a record, bringing its line back where it is spilled. -/
def flyRead (f : Nat) (k : FKey) (row : Nat) (s : State) : State × Option FlyRec :=
  match flyFind (s.flyer f) k with
  | none => (s, none)
  | some e =>
    let s1 := stampEntry f e (makeResident f e s)
    (s1, (mfind (s1.flyer f).dir e).bind (fun l => mfind l.recs row))

/-- Write a record (R250, R251). False when the directory is full: the record is dropped. -/
def flyWrite (f : Nat) (k : FKey) (row : Nat) (r : FlyRec) (s : State) : State × Bool :=
  let put (e : Nat) (s : State) : State :=
    let s1 := stampEntry f e (makeResident f e s)
    let x := s1.flyer f
    match mfind x.dir e with
    | some l => s1.setFlyer f { x with dir := mset x.dir e { l with recs := mset l.recs row r } }
    | none => s1
  match flyFind (s.flyer f) k with
  | some e => (put e s, true)
  | none =>
    let x := s.flyer f
    match findWrap dirSize (Config.freeNat s.free) (fun i => (mfind x.dir i).isNone) with
    | none => (s.count (rFly f 0x20) 1, false)
    | some e =>
      let l : FlyLine := { ctx := k.ctx, step := k.step, kind := k.kind, layer := k.layer, rowblk := k.rowblk,
                           coltile := k.coltile }
      (put e (s.bumpFree.setFlyer f { x with dir := mset x.dir e l }), true)

/-- The fault of a dropped record (R251). -/
def statsFull (layer rowblk : Nat) : Flt := { kind := kSTATS_FULL, addr := layer + rowblk * 4096, param := true }

/-- The fault of an absent record (R258, R261). -/
def statsMissing (layer rowblk : Nat) : Flt := { kind := kSTATS_MISSING, addr := layer + rowblk * 4096, param := true }

/-- Free every line whose key satisfies `p`, spilled ones included. -/
def flyFree (f : Nat) (p : FKey → Bool) (s : State) : State :=
  let x := s.flyer f
  s.setFlyer f { x with dir := x.dir.filter (fun e => !p e.2.key) }

/-- Run the internal frees that wait in the flyer's port, where the flyer runs (R263). [DEDUCED, log 54] -/
def runFrees (f : Nat) (s : State) : State :=
  let x := s.flyer f
  if unitOff s (vecFly f) || s.rstBusy.getLsbD (vecFly f) then s
  else
    let s1 := x.frees.foldl (fun s q => flyFree f (fun k => k.ctx = q.1 && k.step = q.2) s) s
    s1.setFlyer f { s1.flyer f with frees := [] }

/-- The scheduler sends internal frees of context `c` for the given step values to every flyer (R263). [DEDUCED, log 54] -/
def internalFrees (c : Nat) (steps : List Nat) (s : State) : State :=
  (List.range 4).foldl (fun s f =>
    let x := s.flyer f
    runFrees f (s.setFlyer f { x with frees := x.frees ++ steps.map (fun st => (c, st)) })) s

end Sys2Proof.Machine
end

