-- ==== Sys2Proof/Machine/Parity.lean ====
section
/-! DEFINITION. Parity errors that strike while an engine works (R31, R139, R171, R243, R261, R330), and the common parts of
the engines: the effective run size, the operands of a command, the copies of a moved element. -/

namespace Sys2Proof.Machine

/-- The counter of parity errors of a block (SPN, CRD, FLY, PLY, PRT, TWB, HNK, CRL). -/
def perrReg (source : BitVec 16) : Option Nat :=
  let n := source.toNat % 256
  match source.toNat / 256 with
  | 0 => some (rSpn n 0x18)
  | 1 => some (rCrd n 0x1C)
  | 2 => some (rFly n 0x28)
  | 3 => some (rPly 0x34)
  | 10 => some (rPrt n 0x78)
  | 11 => some (rTwb n 0x10)
  | 12 => some (rHnk n 0x08)
  | 13 => some (rCrl 0x08)
  | _ => none

/-- One parity error: counted, its fault sent with the flit's address, or 0 for an on-die SRAM (Table 13-2). One event is one flit
on a creel link (R30, R31). -/
def noteHit (reg : BitVec 16 → Option Nat) (h : Hit) (s : State) : State :=
  let s1 := faultAddr h.src kPARITY (if h.src = srcCrl then h.at_ else 0) s
  match reg h.src with
  | some r => s1.count r 1
  | none => s1

/-- Note a list of parity errors. -/
def noteEvents (reg : BitVec 16 → Option Nat) (hs : List Hit) (s : State) : State := hs.foldl (fun s h => noteHit reg h s) s

/-- Note every parity error of a step; they stay in view for its reads and writes. -/
def noteHits (reg : BitVec 16 → Option Nat) (hs : List Hit) (s : State) : State := { noteEvents reg hs s with struck := hs }

/-- The step is over: no parity error is in view any more. -/
def clearStruck (s : State) : State := { s with struck := [] }

/-- Run an engine's meaning under the parity errors of the step, if the unit's port has this opcode in front. [DESIGN CHOICE, log 2] -/
def withHits (u op : Nat) (hs : List Hit) (f : State → State) (s : State) : State :=
  if (frontOf s u op).isSome then clearStruck (f (noteHits perrReg hs s)) else s

/-- The run size an engine sees (R154): the effective size where the plan resolved one, else RUN_SIZE as posted. -/
def runSize (i : Issued) : Nat := match i.res with | .run n _ _ _ => n | .none => cRunSize i.cmd

/-- Advance a counter of waiting cycles by a free amount: the spec gives what it counts, not how many cycles pass. [DESIGN CHOICE, log 16] -/
def countFree (a : Nat) (s : State) : State := (s.count a (Config.freeNat s.free)).bumpFree

/-- Carder `k` leaves data in SRAM areas of Table 06-2 (R171). -/
def useSram (k : Nat) (areas : List Nat) (s : State) : State :=
  let x := mget s.crds k {}
  { s with crds := mput s.crds k { x with sram := areas.foldl (fun m a => mset m a s.free) x.sram } {}, free := s.free + 1 }

/-- The areas that a command may leave data in where the spec does not say which it uses: all of them. [DESIGN CHOICE, log 84] -/
def anyArea : List Nat := [0, 1, 2, 3, 4]

/-- The descriptors a command names, each with whether it is a destination, and the blocks it names (address, bytes). -/
structure Opds where
  descs : List (Desc × Bool) := []
  blocks : List (Nat × Nat) := []
deriving DecidableEq, Repr

def Opds.add (o : Opds) (d : Desc) (dest : Bool) : Opds := { o with descs := o.descs ++ [(d, dest)] }

/-- Sectors read at acceptance. -/
def Opds.sectors (o : Opds) : List Nat :=
  o.descs.flatMap (fun d => descSectors d.1) ++ o.blocks.flatMap (fun b => sectorsOf b.1 b.2)

/-- A rule on FORMAT or PLY of an operand (R475). -/
def needFmt (b : Bool) (d : Desc) : Chk Unit := require b kBAD_FORMAT d.addr
/-- A rule on NDIM, extents or their agreement. -/
def needShape (b : Bool) (d : Desc) : Chk Unit := require b kBAD_SHAPE d.addr
/-- A rule on INDEX_EN. -/
def needIndex (b : Bool) (d : Desc) : Chk Unit := require b kBAD_INDEX d.addr
/-- A rule among the command's own fields (R474): BAD_OPCODE with the command's address. -/
def needCmd (b : Bool) (i : Issued) : Chk Unit := require b kBAD_OPCODE i.addr.toNat

/-- The scale byte of the block that holds coordinate `c`: code and poison (R109 where out of bounds). -/
def readScale (s : State) (d : Desc) (c : List Nat) : Nat × Bool :=
  match locate s d c with
  | .oob => (oneScale d.ply, false)
  | .idxPoison _ => (oneScale d.ply, true)
  | .at _ (some p) =>
    let b := rdByte s p
    if b.err then (oneScale d.ply, true) else (b.val.toNat, b.poison)
  | .at _ none => (oneScale d.ply, false)

end Sys2Proof.Machine
end

