-- ==== Sys2Proof/Machine/UnitClear.lean ====
section
/-! DEFINITION. What a reset, a sleep or a return from sleep clears in each unit (R29, R40, R147, R202, R237, R268, R322, R344,
R377). -/

namespace Sys2Proof.Machine

/-- Is this operation one of carder `k`? -/
def WireOp.ofCarder (k : Nat) : WireOp → Bool
  | .read _ _ _ k' _ => k' = k
  | .write _ _ _ k' _ => k' = k
  | .send _ _ => false

/-- A carder's fetches and write-backs in flight are abandoned; entries and slots stay as they are (R237). Its SRAM lines turn
invalid (R202). -/
def dropFetches (k : Nat) (s : State) : State :=
  let x := mget s.crds k {}
  { s with crds := mput s.crds k { x with fetches := [], sram := [] } {}
           qps := s.qps.map (fun q => (q.1, { q.2 with sq := q.2.sq.filter (fun o => !o.op.ofCarder k) })) }

/-- The multicast stages whose data phase is in hand and that have position `p` among their destinations. -/
def mcastTo (s : State) (p : Nat) : List Report :=
  s.reports.filter (fun r => r.ran && r.is.cmd.toNat % 256 = 0x10
    && nbit r.is.cmd.toNat (448 + 18) && nbit r.is.cmd.toNat (448 + 19 + p))

/-- Branches of a multicast in flight to a spindle that resets, its TARGET among them, are discarded; how many packets are still on
their way the spec does not say (R29). [DESIGN CHOICE, log 116] -/
def pruneMcast (v : Nat) (s : State) : State :=
  match posOf s v with
  | none => s
  | some p => if v < 17 && !(mcastTo s p).isEmpty then (s.count (rCrl 0x10) (Config.freeNat s.free)).bumpFree else s

/-- The state a unit loses at a reset or at sleep. [DEDUCED, log 69] -/
def clearUnit (v : Nat) (s : State) : State :=
  if v < 17 then { s with spn := mdel s.spn v }
  else if v < 21 then { s with fly := mput s.fly (v - 17) { frees := (mget s.fly (v - 17) {}).frees } {} }
  else if 32 ≤ v && v < 64 then dropFetches (v - 32) s
  else if 64 ≤ v && v < 96 then
    let k := v - 64
    let s1 := s.setSkein k { s.skein k with buckets := [], leakFrom := s.tick, scrubFrom := s.tick }
    s1.clearCounters 5 k
  else if 96 ≤ v && v < 116 then
    let p := mget s.prts (v - 96) {}
    { s with prts := mput s.prts (v - 96) { p with link := false, lost := p.link || p.lost, pauseD := none, pauseC := none, stormD := false, stormC := false,
                                                    xoffD := false, xoffC := false, held := [] } {} }
  else s

/-- The active commands of the plying engine are abandoned, with their unsent messages; those that are sent stay with their
queue pairs (R15, R322). [DEDUCED, log 69] -/
def abandonPly (s : State) : State :=
  let own (o : SqOp) : Bool := match o.op with
    | .send _ (some id) => s.ply.any (fun c => c.is.id = id)
    | _ => false
  { s with
    ply := []
    reports := s.reports ++ s.ply.map (fun c =>
      { is := c.is, unit := 52, status := 0x02, errKind := 3, oobReads := min c.oobReads 4294967295,
        oobWrites := min c.oobWrites 4294967295, aux := BitVec.ofNat 32 (min (plyAux c s) 4294967295), charged := c.charged,
        ran := true, lovf := c.overflow, lcsum := c.checksum })
    qps := s.qps.map (fun q => (q.1, { q.2 with
      sq := (q.2.sq.filter (fun o => o.sent || !own o)).map (fun o =>
        if own o then { o with op := match o.op with | .send b _ => .send b none | x => x } else o) })) }

/-- The expert command that carder `k` has in its data phase is abandoned; READY increments already made stand. [DEDUCED, log 69] -/
def abandonJob (k : Nat) (s : State) : State :=
  let x := mget s.crds k {}
  match x.job with
  | none => s
  | some j => { s with
      crds := mput s.crds k { x with job := none } {}
      reports := s.reports ++ [{ is := j.is, unit := 16 + k, status := 0x02, errKind := 3, oobReads := j.oobReads,
                                 charged := j.charged, ran := true }] }

end Sys2Proof.Machine
end

