-- ==== Sys2Proof/Machine/Units.lean ====
section
/-! DEFINITION. Gates, sleep, unit resets, retirement, the spare map and the device reset (R38 to R42, R396, R406 to R412,
R418). -/

namespace Sys2Proof.Machine

/-- The epoch index a physical unit carries, if it has an epoch (Table 02-4; skeins and ports have none). -/
def epochOfVec (s : State) (v : Nat) : Option Nat :=
  if v < 17 then posOf s v
  else if v < 21 then some (48 + (v - 17))
  else if v = 21 then some 52
  else if 32 ≤ v && v < 64 then some (16 + (v - 32))
  else none

/-- One epoch increment of the unit at place `v` (R396). -/
def bumpVec (v : Nat) (s : State) : State :=
  match epochOfVec s v with
  | some u => s.bumpEpoch u
  | none => s

/-- Is a command in the unit's data phase? A spindle that has left its position finishes what it holds (R39, R412). -/
def vecBusy (s : State) (v : Nat) : Bool :=
  (match epochOfVec s v with
   | some u => s.unitBusy u
   | none => false) || s.reports.any (fun r => r.away = some v)

def setBit (x : BitVec 128) (v : Nat) (b : Bool) : BitVec 128 :=
  if b then x ||| (1#128 <<< v) else x &&& ~~~(1#128 <<< v)

/-! ## Abandoning a command (R40) -/

/-- One free choice between two outcomes. -/
def eitherWay (f : State → State) (s : State) : State := (if Config.freeBool s.free then s else f s).bumpFree

/-- The error pattern of a sector as it was before the command's write, where nothing has changed it since (R332). -/
def undoErr (x : Nat × List Byte × List Byte) (s : State) : State :=
  if s.errOf x.1 = x.2.2 then s.setErr x.1 x.2.1 else s

/-- Each byte that the abandoned command had written is in memory as written or as before, and so is the stored poison of each
sector: the spec leaves which. [DESIGN CHOICE, log 60] -/
def undoBytes (r : Report) (s : State) : State :=
  r.undoErrs.foldl (fun s x => eitherWay (undoErr x) s)
    (r.undo.foldl (fun s w => eitherWay (fun s => s.setByte w.1 w.2) s) s)

/-- Is this the report of a command that still runs in the unit at place `v`, which carries the epoch index `u`? Reductions and
barriers of the plying engine report when they have ended. -/
def stillRuns (v : Nat) (u : Option Nat) (r : Report) : Bool :=
  r.ran && (match r.away with
    | some w => w = v
    | none => u = some r.unit && (r.unit ≠ 52 || 0xA4 ≤ r.is.cmd.toNat % 256))

/-- What the unit at place `v` runs becomes ERROR of kind ABANDONED (R15, R40). [DESIGN CHOICE, log 60] -/
def abandonUnit (v : Nat) (s : State) : State :=
  let u := epochOfVec s v
  let s1 := (s.reports.filter (stillRuns v u)).foldl (fun s r => undoBytes r s) s
  let s2 : State := { s1 with reports := s1.reports.map (fun r =>
      if stillRuns v u r then { r with status := 0x02, errKind := 3, undo := [], undoErrs := [], route := [] } else r) }
  if 32 ≤ v && v < 64 then abandonJob (v - 32) s2 else if v = 21 then abandonPly s2 else s2

/-! ## Accesses in flight (R334, R344) -/

/-- Sectors of skein `k` that a running command writes. -/
def writesIn (k : Nat) (r : Report) : List Nat :=
  if r.ran && r.errKind ≠ 3 then (distinct (r.undo.map (·.1 / 32))).filter (fun x => sknOf (x * 32) = k) else []

/-- A write of the report's command that meets the reset: an error response, and the sector as it was before. -/
def dropSector (who : BitVec 16) (r : Report) (sec : Nat) (s : State) : State :=
  let s1 := (r.undo.filter (fun w => w.1 / 32 = sec)).foldl (fun s w => s.setByte w.1 w.2) s
  errorResponse who 0 (sec * 32) kACCESS_GATED ((r.undoErrs.filter (fun x => x.1 = sec)).foldl (fun s x => undoErr x s) s1)

/-- The report of a command of which the writes to `lost` have been dropped (R14, R334). -/
def afterDrop (r : Report) (lost : List Nat) : Report :=
  if lost.isEmpty then r
  else if r.status = stCHECKSUM then r
  else { r with status := stERROR, errKind := kindFAULT }

/-- One command at a reset of skein `k`: which of its writes are still on their way the spec does not say. [DESIGN CHOICE, log 127] -/
def meetReset (k : Nat) (r : Report) (s : State) : Report × State :=
  let x := (writesIn k r).foldl (fun (acc : List Nat × State) sec =>
    let t := acc.2.bumpFree
    if Config.freeBool acc.2.free then (acc.1 ++ [sec], dropSector (srcOfUnit t r.unit) r sec t) else (acc.1, t)) ([], s)
  (afterDrop r x.1, x.2)

/-- Accesses in flight to skein `k` as its controller resets. -/
def dropInFlight (k : Nat) (s : State) : State :=
  let x := s.reports.foldl (fun (acc : List Report × State) r =>
    let y := meetReset k r acc.2
    (acc.1 ++ [y.1], y.2)) ([], s)
  { x.2 with reports := x.1 }

/-! ## Unit reset (R383, R391, R409) -/

/-- The reset itself: the running command is abandoned, the unit's state clears, its epoch increments. -/
def applyReset (v : Nat) (s : State) : State :=
  let s0 := pruneMcast v s
  let s1 := if 64 ≤ v && v < 96 then dropInFlight (v - 64) s0 else abandonUnit v s0
  let s2 := clearUnit v (bumpVec v s1)
  { s2 with pend := setBit s2.pend v false }

/-- A write of 1 to the unit's reset bit, or RESET_UNIT. `note`: the write enters the distaff as UNIT_RESET (R383). A reset
in progress takes it in (R391); a sleeping unit is reset at its return (R409). -/
def resetUnit (note : Bool) (v : Nat) (s : State) : State :=
  if s.rstBusy.getLsbD v then s
  else
    let s1 := if note then faultParam (sourceOfVec v) kUNIT_RESET 0 s else s
    let s2 := { s1 with rstBusy := setBit s1.rstBusy v true }
    if s2.asleep.getLsbD v then s2 else applyReset v s2

/-! ## Gates and sleep (R39, R407, R408) -/

/-- Stop a unit: it finishes the command it holds, and PEND shows the stop until then. -/
def stopUnit (v : Nat) (s : State) : State :=
  if vecBusy s v then { s with pend := setBit s.pend v true } else s

def gateOff (v : Nat) (s : State) : State :=
  if s.gate.getLsbD v then stopUnit v { s with gate := setBit s.gate v false } else s

/-- Open a gate: the unit resumes where it stopped; a stop that was pending is withdrawn unless a sleep asks for it. -/
def gateOn (v : Nat) (s : State) : State :=
  { s with gate := setBit s.gate v true
           pend := if s.sleepReq.getLsbD v then s.pend else setBit s.pend v false }

/-- A write of 1 to the sleep bit. -/
def sleepOn (v : Nat) (s : State) : State :=
  if s.sleepReq.getLsbD v then s else stopUnit v { s with sleepReq := setBit s.sleepReq v true }

/-- A write of 0 to the sleep bit: power returns to a sleeping unit; a stop not yet complete is withdrawn. -/
def sleepOff (v : Nat) (s : State) : State :=
  let s1 := { s with sleepReq := setBit s.sleepReq v false }
  if s1.asleep.getLsbD v then
    (if (mfind s1.wakeAt v).isSome then s1 else { s1 with wakeAt := mset s1.wakeAt v s1.wall })
  else { s1 with pend := if s1.gate.getLsbD v then setBit s1.pend v false else s1.pend }

/-- A stopped unit's power goes (R408): its state is lost and its epoch increments. -/
def enterSleep (v : Nat) (s : State) : State :=
  let s1 := bumpVec v s
  clearUnit v { s1 with asleep := setBit s1.asleep v true, pend := setBit s1.pend v false }

/-- A unit returns from sleep: epoch, state cleared, and a reset asked for during sleep takes effect (R408, R409). -/
def returnFromSleep (v : Nat) (s : State) : State :=
  let s1 := bumpVec v { s with asleep := setBit s.asleep v false, wakeAt := mdel s.wakeAt v }
  let s2 := clearUnit v s1
  if s2.rstBusy.getLsbD v then applyReset v s2 else s2

/-! ## Retired bits (R389, R399, R400) -/

/-- Register offset and bit of the retired bit of a unit-vector place. -/
def retiredPlace (v : Nat) : Option (Nat × Nat) :=
  if v < 17 then some (rDst 0xA0, v)
  else if v < 21 then some (rDst 0xA8, v - 17)
  else if v = 21 then some (rDst 0xA8, 4)
  else if 32 ≤ v && v < 64 then some (rDst 0xA4, v - 32)
  else if 96 ≤ v && v < 116 then some (rDst 0xAC, v - 96)
  else none

/-- Is the unit retired? -/
def isRetired (s : State) (v : Nat) : Bool :=
  match retiredPlace v with
  | some (off, b) => (s.pers off).getLsbD b
  | none => false

/-- A request for the spare on behalf of position `p` by the retirement path (R141, R142). A spare that is itself retired and serves
no position cannot take the position either: SPARE_EXHAUSTED too. [DEDUCED, log 20] [DESIGN CHOICE, log 128] -/
def requestSpare (p : Nat) (s : State) : State :=
  if s.spare.getLsbD 4 || s.spareReq.isSome || isRetired s 16 then
    faultParam srcDst kSPARE_EXHAUSTED p s
  else { s with spareReq := some (BitVec.ofNat 5 (16 + p), s.wall) }

/-- The time of a unit's retired bit: it stays that of the write which set the bit (R462). -/
def noteRetired (v : Nat) (s : State) : State :=
  if (mfind s.whl.retiredAt v).isSome then s else { s with whl := { s.whl with retiredAt := mset s.whl.retiredAt v s.wall } }

/-- A port's link goes down; the port then reports it (R364, R390). -/
def dropLink (n : Nat) (s : State) : State :=
  let p := mget s.prts n {}
  { s with prts := mput s.prts n { p with link := false, lost := p.link || p.lost } {} }

/-- What RETIRE does besides the retired bit: the gate closes; for a spindle in service the swap is requested, and a port's link goes
down. The spare itself, retired while it serves, leaves its position gated (R142). -/
def retireEffect (v : Nat) (s : State) : State :=
  let s1 := gateOff v (noteRetired v s)
  if v < 17 then
    match posOf s v with
    | some p => requestSpare p s1
    | none => s1
  else if 96 ≤ v && v < 116 then dropLink (v - 96) s1
  else s1

/-- Set the retired bit by the distaff: its write-through follows R10; the effect takes place in any case. -/
def markRetired (v : Nat) (s : State) : State :=
  match retiredPlace v with
  | some (off, b) => (persistFree off (s.pers off ||| (1#32 <<< b)) s).1
  | none => s

/-- RETIRE of a unit (R389, R391): nothing where it is retired already; after the reset where one is in progress. -/
def retireUnit (v : Nat) (s : State) : State :=
  if isRetired s v then s
  else if s.rstBusy.getLsbD v then { s with retireWait := setBit s.retireWait v true }
  else retireEffect v (markRetired v s)

/-- A unit's retired bit has been cleared: it is reset and its gate opens; one that sleeps first returns from sleep (R399,
R462). -/
def returnUnit (v : Nat) (s : State) : State :=
  let s1 := gateOn v (resetUnit false v { s with retireWait := setBit s.retireWait v false
                                                 whl := { s.whl with retiredAt := mdel s.whl.retiredAt v } })
  if s1.asleep.getLsbD v || s1.sleepReq.getLsbD v then sleepOff v s1 else s1

/-- A reset has run: the unit accepts commands again, and a retirement that waited takes effect (R391, R409). -/
def resetDone (v : Nat) (s : State) : State :=
  let s1 := { s with rstBusy := setBit s.rstBusy v false }
  if s1.retireWait.getLsbD v then
    let s2 := { s1 with retireWait := setBit s1.retireWait v false }
    retireEffect v (if isRetired s2 v then s2 else markRetired v s2)
  else s1

/-! ## The device reset (R418, R449) -/

/-- The cause that the latch takes: of two triggers in one management cycle, the lowest that is not zero. [DESIGN CHOICE, log 104] -/
def latchCause (cause : BitVec 3) (s : State) : BitVec 3 :=
  if s.pkg.resetAt = some s.wall && s.cause ≠ 0 && cause ≠ 0 && s.cause.toNat < cause.toNat then s.cause else cause

/-- Every plane restarts. Kept: what survives a reset by the spec (persistent registers, the boot NVM, fuses, the cause
latch), the time since power-on, and the model's own counters and records. -/
def deviceReset (cause : BitVec 3) (s : State) : State :=
  { State.reset with
    pending := s.pending
    wall := s.wall
    free := s.free
    ids := s.ids
    rwp := s.rwp
    wear := s.wear
    cause := latchCause cause s
    nvm := s.nvm
    fuses := s.fuses
    pkg := { s.pkg with resetAt := some s.wall }
    out := s.out }

end Sys2Proof.Machine
end

