-- ==== Sys2Proof/Machine/Distaff.lean ====
section
/-! DEFINITION. The distaff (chapter 13): accepting, numbering, classifying, latching and logging a message, its action
with any fallback, the host event ring, and the distaff's own registers. -/

namespace Sys2Proof.Machine

/-! ## Order and numbers (R381) -/

/-- The source served next: the lowest one above the last served that has a message, else the lowest of all. -/
def nextSource (s : State) : Option Nat :=
  let ks := (s.dst.queues.filter (fun q => q.2 ≠ [])).map (·.1)
  match ks.find? (fun k => s.dst.last < k) with
  | some k => some k
  | none => ks.head?

/-- The number after `n`: 0 and 0xFFFF_FFFF are skipped. -/
def nextSeq (n : Word) : Word := if n = 0xFFFFFFFE then 1 else n + 1

/-! ## Classification (R384, R400) -/

/-- Ticks from `t0` to `t` on the 48-bit count. -/
def elapsed (t t0 : Nat) : Nat := (t + 2 ^ 48 - t0) % 2 ^ 48

def ctabSize : Nat := 1024

/-- Has the window of a counting entry ended? The window is that of the entry's own kind. -/
def windowEnded (s : State) (e : CEntry) : Bool := (kindWin s e.kind).toNat * 1024 ≤ elapsed s.tick e.start

/-- The entry of the pair, if the table holds one. -/
def ctabFind (s : State) (source : BitVec 16) (kind : Byte) : Option Nat :=
  (s.dst.ctab.find? (fun e => e.2.source = source && e.2.kind = kind)).map (·.1)

/-- The lowest entry that is unused or whose window has ended. -/
def ctabFree (s : State) : Option Nat :=
  findIdx ctabSize (fun i => match mfind s.dst.ctab i with | none => true | some e => windowEnded s e)

/-- Classify one message: severe or not, and the counting table after it. -/
def classifyMsg (m : Msg) (s : State) : Bool × State :=
  let n := (kindCfg s m.kind).n.toNat
  let now := s.tick
  let place (i : Nat) (e : CEntry) : Bool × State :=
    let e1 := if (kindWin s m.kind).toNat * 1024 ≤ elapsed now e.start then { e with start := now, count := 0 } else e
    let e2 := { e1 with count := min (e1.count + 1) 65535 }
    (decide (n ≤ e2.count), { s with dst := { s.dst with ctab := mset s.dst.ctab i e2 } })
  match ctabFind s m.source m.kind with
  | some i =>
    match mfind s.dst.ctab i with
    | some e => place i e
    | none => (true, s)
  | none =>
    match ctabFree s with
    | some i => place i { source := m.source, kind := m.kind, start := now, count := 0 }
    | none => (true, { s with dst := { s.dst with status := s.dst.status ||| 16 } })

/-! ## Actions (R389, R390) -/

/-- The unit that RETIRE acts on for a source (Table 13-4A). -/
def retireTarget (source : BitVec 16) : Option Nat :=
  let c := source.toNat / 256
  let n := source.toNat % 256
  if (c = 0 || c = 11 || c = 12) && n < 17 then some n
  else if c = 1 && n < 32 then some (32 + n)
  else if c = 2 && n < 4 then some (17 + n)
  else if c = 3 && n = 0 then some 21
  else if c = 10 && n < 20 then some (96 + n)
  else none

/-- The unit that RESET_UNIT acts on for a source. -/
def resetTarget (source : BitVec 16) : Option Nat :=
  let c := source.toNat / 256
  let n := source.toNat % 256
  if c = 5 && n < 32 then some (64 + n) else retireTarget source

/-- The action taken and whether it is a fallback (R390). -/
def settleAction (source : BitVec 16) (a : BitVec 3) : BitVec 3 × Bool :=
  if a = actRetire then
    (if (retireTarget source).isSome then (actRetire, false)
     else if (resetTarget source).isSome then (actResetUnit, true) else (actResetDevice, true))
  else if a = actResetUnit then
    (if (resetTarget source).isSome then (actResetUnit, false) else (actResetDevice, true))
  else (a, false)

/-- Write the reset record (R392). [DEDUCED, log 21] -/
def writeResetRecord (m : Msg) (s : State) : State :=
  let w (i : Nat) : Word := BitVec.ofNat 32 (m.bits.toNat / 2 ^ (32 * i))
  let p (off : Nat) (v : Word) (s : State) : State := (persistFree off v s).1
  p (rDst 0xBC) 1 (p (rDst 0xB8) (w 2) (p (rDst 0xB4) (w 1) (p (rDst 0xB0) (w 0) s)))

/-- Clear a context's run bit (STOP_CTX, R41). -/
def stopCtx (c : Nat) (s : State) : State := { s with run := s.run &&& ~~~(1#4096 <<< c) }

/-- The effect of an action on the other planes, through junction 2 (R35). -/
def applyAction (a : BitVec 3) (m : Msg) (s : State) : State :=
  if a = actStop then stopCtx (m.addr.toNat % 4096) s
  else if a = actRetire then
    match retireTarget m.source with | some v => retireUnit v s | none => s
  else if a = actResetUnit then
    match resetTarget m.source with | some v => resetUnit true v s | none => s
  else s

/-! ## Latch, log, event ring (R386, R387, R394) -/

def setStatus (b : BitVec 6) (s : State) : State := { s with dst := { s.dst with status := s.dst.status ||| b } }

/-- Latch the message if the latch is free; else OVERFLOW. [DEDUCED, log 21] -/
def latchMsg (seq : Word) (m : Msg) (s : State) : State :=
  if s.dst.status.getLsbD 0 then setStatus 2 s
  else setStatus 1 { s with dst := { s.dst with latch := m.bits, latchSeq := seq, latchTick := BitVec.ofNat 48 s.tick } }

/-- Write the log entry, or count its loss when the ring of 4,096 is full. -/
def logMsg (rec : BitVec 256) (s : State) : State :=
  if (s.dst.logTail - s.getReg (rDst 0x44)).toNat ≥ 4096 then
    (setStatus 4 s).count (rDst 0x2C) 1
  else { s with dst := { s.dst with
      log := mput s.dst.log (s.dst.logTail.toNat % 4096) rec 0
      logTail := s.dst.logTail + 1 } }

/-- The event ring's base address. -/
def evrBase (s : State) : Nat := s.dst.evrBaseHi.toNat * 2 ^ 32 + s.dst.evrBaseLo.toNat

/-- Post one event record, or count its loss when the ring is full (R394). [DEDUCED, log 109] -/
def postEvent (seq : Word) (m : Msg) (action : BitVec 3) (fallback : Bool) (s : State) : State :=
  let size := 2 ^ s.dst.evrLog2.toNat
  let tail := s.dst.evrTail
  if (tail - s.getReg (rDst 0x80)).toNat = size then (setStatus 8 s).count (rDst 0x30) 1
  else
    let n := tail.toNat
    let gen := (n / size + 1) % 2 = 1
    let rec_ := logRecord seq m s.tick action fallback gen
    storeClean srcDst (evrBase s + (n % size) * 32) (leBytes 32 rec_.toNat)
      { s with dst := { s.dst with evrTail := tail + 1, evrPosted := true } }

/-- The sequence number a message took is returned to the command it is charged to, where there is one (R381). [DESIGN CHOICE, log 6] -/
def chargeSeq (charge : Option Nat) (seq : Word) (s : State) : State :=
  match charge with
  | some id => { s with seqs := mset s.seqs id seq }
  | none => s

/-- A parity error in the log (part 0) or in the counting table (part 1): the entry reads as zero, and the event is logged (R388). -/
def damageDst (h : Hit) (s : State) : State :=
  let s1 := faultAddr srcDst kPARITY 0 s
  if h.part = 0 then { s1 with dst := { s1.dst with log := mput s1.dst.log (h.at_ % 4096) 0 0 } }
  else { s1 with dst := { s1.dst with ctab := mdel s1.dst.ctab (h.at_ % ctabSize) } }

/-- One message is accepted (R381, R384 to R391, R400). [DEDUCED, log 21] -/
def acceptMsg (q : QMsg) (s : State) : State :=
  let m := q.msg
  let seq := s.dst.seq
  let s1 := { s with dst := { s.dst with seq := nextSeq seq } }
  let s2 := chargeSeq q.charge seq s1
  let s3 := (s2.count (rDst 0x20) 1).count (rDst 0x28) (if m.flags &&& flagDropped = 0 then 0 else 1)
  if s3.ready then
    let (severe, s4) := classifyMsg m s3
    let s5 := if severe then (setStatus 32 s4).count (rDst 0x24) 1 else s4
    let k := kindCfg s5 m.kind
    let (a, fb) := settleAction m.source (if severe then k.actSevere else k.actNormal)
    let ms := if severe then { m with flags := m.flags ||| flagSevere } else m
    let s6 := logMsg (logRecord seq ms s5.tick a fb false) (latchMsg seq m s5)
    if a = actResetDevice then deviceReset 1 (writeResetRecord m s6)
    else
      let s7 := applyAction a m s6
      if a = actLog then s7 else postEvent seq ms a fb s7
  else logMsg (logRecord seq m s3.tick actLog false false) (latchMsg seq m s3)

/-- The distaff takes one message from junction 3, if one waits. -/
def acceptNext (s : State) : State :=
  match nextSource s with
  | none => s
  | some k =>
    match mget s.dst.queues k [] with
    | [] => s
    | q :: r => acceptMsg q { s with dst := { s.dst with queues := mput s.dst.queues k r [], last := k } }

/-! ## Registers of the distaff -/

/-- What a register write answers: done, or refused with an ACCESS kind, nothing changed. -/
inductive WrRes where
  | done (s : State)
  | refuse (kind : Byte)
deriving DecidableEq, Repr

/-- DST[0]_STATUS: write one to clear (R386, R388). -/
def writeDstStatus (v : Word) (s : State) : WrRes :=
  .done { s with dst := { s.dst with status := s.dst.status &&& ~~~(v.setWidth 6) } }

/-- Does the event ring lie at a permitted place (R393)? -/
def evrOk (s : State) (base log2 : Nat) : Bool := base % 32 = 0 && rangeOk s base (2 ^ log2 * 32)

/-- A refused write discards any held low half (R393). -/
def dropHeld (s : State) : State := { s with dst := { s.dst with heldLo := none } }

/-- DST[0]_EVR_BASE_LO and _HI (R393). The second component is the state after a refusal. -/
def writeEvrBase (hi : Bool) (v : Word) (s : State) : WrRes × State :=
  if s.dst.evrPosted then (.refuse kACCESS_REFUSED, dropHeld s)
  else if !hi then
    if v.toNat % 32 = 0 then (.done { s with dst := { s.dst with heldLo := some v } }, s)
    else (.refuse kACCESS_REFUSED, dropHeld s)
  else
    let lo := match s.dst.heldLo with | some l => l | none => s.dst.evrBaseLo
    let h := v.setWidth 16
    if evrOk s (h.toNat * 2 ^ 32 + lo.toNat) s.dst.evrLog2.toNat then
      (.done { s with dst := { s.dst with evrBaseLo := lo, evrBaseHi := h, heldLo := none } }, s)
    else (.refuse kACCESS_REFUSED, dropHeld s)

/-- DST[0]_EVR_CFG (R393, R398). -/
def writeEvrCfg (v : Word) (s : State) : WrRes × State :=
  let l := v.toNat % 32
  if !s.dst.evrPosted && 8 ≤ l && l ≤ 20 && evrOk s (evrBase s) l then
    (.done { s with dst := { s.dst with evrLog2 := BitVec.ofNat 5 l } }, s)
  else (.refuse kACCESS_REFUSED, dropHeld s)

/-- DST[0]_KIND_CFG and KIND_WIN for the kind in KIND_SEL (R385). -/
def writeKind (win : Bool) (v : Word) (s : State) : WrRes :=
  let k : Byte := (s.getReg (rDst 0x90)).setWidth 8
  if win then
    if v = 0 then .refuse kACCESS_REFUSED
    else .done { s with dst := { s.dst with win := mset s.dst.win k.toNat v } }
  else
    let c : KindCfg := { n := v.setWidth 16, actNormal := (v >>> 16).setWidth 3, actSevere := (v >>> 19).setWidth 3 }
    let bad (a : BitVec 3) : Bool := 6#3 ≤ a || (a = actStop && !kindHasCtx k)
    if c.n = 0 || bad c.actNormal || bad c.actSevere then .refuse kACCESS_REFUSED
    else .done { s with dst := { s.dst with cfg := mset s.dst.cfg k.toNat c } }

/-- Places in the unit vector that a RETIREDw register names (Table 13-7): bit and place. -/
def retiredBits (w : Nat) : List (Nat × Nat) :=
  match w with
  | 0 => (List.range 17).map (fun n => (n, n))
  | 1 => (List.range 32).map (fun k => (k, 32 + k))
  | 2 => (List.range 5).map (fun f => (f, 17 + f))
  | _ => (List.range 20).map (fun n => (n, 96 + n))

/-- DST[0]_RETIREDw: bits set act as RETIRE, bits cleared return the unit from repair (R399). -/
def writeRetired (w : Nat) (v : Word) (nvmErr : Bool) (s : State) : WrRes × State :=
  let off := rDst (0xA0 + 4 * w)
  let bs := retiredBits w
  let newv : Word := packWord (bs.map (fun b => (b.1, 1, b2n (v.getLsbD b.1))))
  let old := s.pers off
  match persist off newv nvmErr s with
  | (s1, false) => (.refuse kACCESS_REFUSED, s1)
  | (s1, true) =>
    (.done (bs.foldl (fun s b =>
      if newv.getLsbD b.1 && !old.getLsbD b.1 then
        (if s.rstBusy.getLsbD b.2 then noteRetired b.2 { s with retireWait := setBit s.retireWait b.2 true } else retireEffect b.2 s)
      else if !newv.getLsbD b.1 && old.getLsbD b.1 then returnUnit b.2 s
      else s) s1), s)

end Sys2Proof.Machine
end

