-- ==== Sys2Proof/Machine/Wire.lean ====
section
/-! DEFINITION. Queue pairs and what leaves on them (R348 to R358): loading, sending, acknowledgement, retransmission, errors,
endpoints; what arriving packets do to marks, buffers and pauses (R349, R352). -/

namespace Sys2Proof.Machine

def State.qp (s : State) (n : Nat) : Qp := mget s.qps n {}
def State.prt (s : State) (n : Nat) : Prt := mget s.prts n {}
def State.setPrt (s : State) (n : Nat) (p : Prt) : State := { s with prts := mput s.prts n p {} }

/-- A 48-bit base from its two registers. -/
def base48 (s : State) (lo hi : Nat) : Nat := (s.getReg hi).toNat % 65536 * 2 ^ 32 + (s.getReg lo).toNat

def qptBase (s : State) : Nat := base48 s (rPrt 0 0x1000) (rPrt 0 0x1004)
def eptBase (s : State) : Nat := base48 s (rPrt 0 0x1008) (rPrt 0 0x100C)
def rgtBase (s : State) : Nat := base48 s (rPrt 0 0x1010) (rPrt 0 0x1014)

/-- Line rate of a port in Gbit/s (Table 12-1). -/
def lineRate (n : Nat) : Nat := if n < 16 then 800 else 400

/-- Does the port pass frames: enabled, link up, gate open, not in reset, device READY (R376, R377)? -/
def portUp (s : State) (n : Nat) : Bool :=
  s.ready && (s.prt n).en && (s.prt n).link && s.gate.getLsbD (vecPrt n) && !s.rstBusy.getLsbD (vecPrt n)

/-- Is the class paused by the peer (R350)? BULK is never paused. -/
def classPaused (s : State) (n cls : Nat) : Bool :=
  let p := s.prt n
  if cls = 0 then p.pauseD.isSome else if cls = 1 then p.pauseC.isSome else false

/-- Path MTU in bytes. -/
def mtuBytes (p : Nat) : Nat := 128 * 2 ^ p

/-- Packets that `n` bytes take. -/
def packetsOf (q : Qp) (n : Nat) : Nat := max 1 (ceilDiv n (mtuBytes q.pmtu))

/-- PSNs an operation takes; a READ takes one for each response packet. -/
def WireOp.psns (q : Qp) : WireOp → Nat
  | .send b _ => packetsOf q b.length
  | .read _ _ len _ _ => packetsOf q len
  | .write _ _ d _ _ => packetsOf q d.length

/-- Packets an operation puts on the wire; a READ request is one. -/
def WireOp.frames (q : Qp) : WireOp → Nat
  | .send b _ => packetsOf q b.length
  | .read _ _ _ _ _ => 1
  | .write _ _ d _ _ => packetsOf q d.length

/-! ## The entry's device fields (R354) -/

/-- The device fields of an entry with their byte offsets and widths. -/
def Qp.deviceFields (q : Qp) : List (Nat × Nat × Nat) :=
  [(16, 4, q.sqPsn), (20, 4, q.rqPsn), (80, 4, q.rate), (84, 4, q.retx.toNat), (88, 4, q.cnpRx.toNat)]

/-- Write what changed of the device fields into the entry in memory. -/
def storeQp (n : Nat) (old new : Qp) (s : State) : State :=
  let a := qptBase s + n * 128
  let s1 := if old.state ≠ new.state || old.mig ≠ new.mig then
      storeClean (srcPrt 0) a [BitVec.ofNat 8 ((s.byte a).toNat % 64 / 8 * 8 + new.state + 64 * new.mig)] s
    else s
  (List.zip old.deviceFields new.deviceFields).foldl (fun s f =>
    if f.1.2.2 = f.2.2.2 then s else storeClean (srcPrt 0) (a + f.2.1) (leBytes f.2.2.1 f.2.2.2) s) s1

/-- Set a queue pair. Its device fields in memory follow, but for a pair that is and stays in RESET. -/
def State.setQp (s : State) (n : Nat) (q : Qp) : State :=
  let old := s.qp n
  let s1 : State := { s with qps := mput s.qps n q {} }
  if old.state = 0 && q.state = 0 then s1 else storeQp n old q s1

/-! ## Sending -/

/-- Count frames sent on a port. -/
def txFrames (n k : Nat) (s : State) : State := s.count (rPrt n 0x40) k
def rxFrames (n k : Nat) (s : State) : State := s.count (rPrt n 0x44) k

/-- Priority code point of a class on a port (Table 12-8). -/
def pcpOf (s : State) (p cls : Nat) : Nat := bits (s.getReg (rPrt p 0x20)).toNat (3 * cls) 3

/-- The headers of a packet of queue pair `n` in a class (R348). With ECN_EN 0 the port sends Not-ECT. -/
def roceHdr (s : State) (n cls : Nat) : RoceHdr :=
  let q := s.qp n
  { port := q.port, udpSrc := 0xC000 + n % 16384, hops := 64, dscp := 8 * pcpOf s q.port cls
    ecn := if (s.getReg (rPrt q.port 0x20)).getLsbD 9 then 2 else 0
    v4 := q.path.1 / 2 ^ 32 = 0xFFFF, dgid := q.path.1, dmac := q.path.2.1, vlan := q.path.2.2 }

/-- An answer of `k` packets on queue pair `n` in a class: it leaves at once, or waits while the class is paused (R350). -/
def answerOn (n cls k : Nat) (o : Pkt) (s : State) : State :=
  let p := (s.qp n).port
  let h : HeldFrame := { cls := cls, frames := k, hdr := roceHdr s n cls, pkt := o }
  if classPaused s p cls then s.setPrt p { s.prt p with held := (s.prt p).held ++ [h] }
  else txFrames p k (s.emit (.roce h.hdr h.pkt))

/-- The answers that wait on a port leave, but for those of a paused class. -/
def sendHeld (p : Nat) (s : State) : State :=
  if portUp s p then
    let x := s.prt p
    (x.held.filter (fun h => !classPaused s p h.cls)).foldl (fun s h => txFrames p h.frames (s.emit (.roce h.hdr h.pkt)))
      (s.setPrt p { x with held := x.held.filter (fun h => classPaused s p h.cls) })
  else s

/-- One operation leaves on queue pair `n`. -/
def sendOp (n : Nat) (q : Qp) (o : SqOp) (s : State) : State :=
  txFrames q.port (o.op.frames q) (s.emit (.roce (roceHdr s n q.cls) (.frame (BitVec.ofNat 16 n) o.op)))

/-- Packets that a list of operations puts on the wire. -/
def framesOf (q : Qp) (l : List SqOp) : Nat := (l.map (fun o => o.op.frames q)).foldl (· + ·) 0

/-- Send what a queue pair has to send, oldest first, while its port passes frames and its class is not paused: what is due again,
from the oldest unacknowledged PSN (go-back-N), and then what waits. -/
def pumpQp (n : Nat) (s : State) : State :=
  let q := s.qp n
  if q.state = 3 && portUp s q.port && !classPaused s q.port q.cls then
    let old := if q.again then q.sq.filter (·.sent) else []
    let new := q.sq.filter (fun o => !o.sent)
    let psns := (new.map (fun o => o.op.psns q)).foldl (· + ·) 0
    if old.isEmpty && new.isEmpty then s
    else
      ((old ++ new).foldl (fun s o => sendOp n q o s) s).setQp n { q with
        sq := q.sq.map (fun o => { o with sent := true }), sqPsn := (q.sqPsn + psns) % 2 ^ 24, again := false
        retx := satAdd32 q.retx (framesOf q old)
        sentAt := if q.again || !q.sq.any (·.sent) then s.wall else q.sentAt }
  else s

/-- Issue an operation on a queue pair. -/
def postOp (n : Nat) (op : WireOp) (s : State) : State :=
  let q := s.qp n
  pumpQp n (s.setQp n { q with sq := q.sq ++ [{ op := op }] })

/-- Retransmit, as soon as the class and the port let it (go-back-N). -/
def retransmit (n : Nat) (s : State) : State :=
  let q := s.qp n
  pumpQp n (s.setQp n { q with again := q.sq.any (·.sent) })

/-- Queue pairs that use a port, by number. -/
def qpsOfPort (s : State) (n : Nat) : List Nat := (s.qps.filter (fun e => e.2.port = n)).map (·.1)

/-- Everything that waits on a port is sent. -/
def pumpPort (p : Nat) (s : State) : State := (qpsOfPort s p).foldl (fun s n => pumpQp n s) (sendHeld p s)

/-! ## What arrives: marks, buffers and pauses (R349, R352) -/

/-- `k` packets marked CE for a local queue pair: counted, and answered with a CNP to the queue pair `dest` that sent them, on the
CTRL class, where the gap has passed (R352). -/
def ceMark (n k dest : Nat) (s : State) : State :=
  let q := s.qp n
  let p := q.port
  let s1 := s.count (rPrt p 0x60) k
  let gap := (s.getReg (rPrt 0 0x1030)).toNat % 2 ^ 24
  let due := match q.cnpSent with | some t => t + gap ≤ s.wall | none => true
  if (s.getReg (rPrt p 0x20)).getLsbD 9 && due then
    (answerOn n 1 1 (.cnp (BitVec.ofNat 16 n) dest) (s1.setQp n { q with cnpSent := some s.wall })).count (rPrt p 0x64) 1
  else s1

/-- H of R349 in bytes. -/
def headroomBytes (s : State) (p : Nat) : Nat := (s.getReg (rPrt p 0x24)).toNat % 1024 * 1024

/-- This port has sent XOFF for the class (false: DATA; true: CTRL). -/
def xoffOf (s : State) (p : Nat) (ctrl : Bool) : Bool := if ctrl then (s.prt p).xoffC else (s.prt p).xoffD

/-- Pause time of an XOFF in quanta. -/
def xoffQuanta : Nat := 0xFFFF

/-- Send XOFF or XON for a class. [DEDUCED, log 77] -/
def sendPfc (p : Nat) (ctrl xoff : Bool) (s : State) : State :=
  let x := s.prt p
  let at_ (old : Nat) : Nat := if xoff then s.wall else old
  let s1 := s.setPrt p (if ctrl then { x with xoffC := xoff, xoffAtC := at_ x.xoffAtC } else { x with xoffD := xoff, xoffAtD := at_ x.xoffAtD })
  let pause := if xoff then xoffQuanta else 0
  txFrames p 1 ((s1.emit (.pfc (BitVec.ofNat 5 p) (pcpOf s p (b2n ctrl)) pause)).count (rPrt p 0x58) 1)

/-- Does the occupancy stand above the threshold of R349? -/
def occHigh (s : State) (p occ : Nat) : Bool := decide (2 ^ 20 - headroomBytes s p < occ)

/-- What the occupancy of a lossless class makes the port send. [DEDUCED, log 77] -/
def watchIngress (p : Nat) (ctrl : Bool) (occ : Nat) (s : State) : State :=
  if occHigh s p occ then (if xoffOf s p ctrl then s else sendPfc p ctrl true s)
  else if occ + 65536 + headroomBytes s p < 2 ^ 20 then (if xoffOf s p ctrl then sendPfc p ctrl false s else s)
  else s

/-- `k` packets arrive on queue pair `n` from the queue pair `src_`. The flag: they are taken in; a BULK frame that finds its buffer
full is dropped. -/
def ingressFrom (n k src_ : Nat) (ing : Ingress) (s : State) : State × Bool :=
  let q := s.qp n
  let p := q.port
  let s1 := (rxFrames p k s).count (rPrt p 0x48) ing.fec
  let s2 := if ing.ce = 0 then s1 else ceMark n (min ing.ce k) src_ s1
  if q.cls = 2 then (if 262144 < ing.occupancy then (s2.count (rPrt p 0x54) 1, false) else (s2, true))
  else (watchIngress p (decide (q.cls = 1)) ing.occupancy s2, true)

/-- Packets from the peer of a connected queue pair. -/
def ingress (n k : Nat) (ing : Ingress) (s : State) : State × Bool := ingressFrom n k (s.qp n).destQpn ing s

/-! ## Endpoints (R358) -/

/-- The queue pair of an endpoint and its NOTE bit; none where no message may be sent. -/
def resolveEndpoint (s : State) (e : Nat) : Option (Nat × Bool) :=
  let x := rdNat s (eptBase s + 4 * e) 4
  if rdPoison s (eptBase s + 4 * e) 4 then none
  else if nbit x 31 && bits x 17 14 = 0 && (s.qp (x % 65536)).state = 3 then some (x % 65536, nbit x 16) else none

/-- The entry of an endpoint is read. -/
def touchEndpoint (e : Nat) (s : State) : State := touchReads (srcPrt 0) 0 (sectorsOf (eptBase s + 4 * e) 4) s

/-- DEX_NO_PATH for an endpoint. -/
def noPath (e : Nat) (s : State) : State := faultParam (srcPrt 0) kDEX_NO_PATH (e % 65536) s

/-! ## Loading (R355, R356) -/

/-- Are the bits that Table 12-3 does not list zero, over the entry's 128 bytes read as one number? -/
def qpReservedOk (x : Nat) : Bool :=
  let b (i lo n : Nat) : Nat := bits x (8 * i + lo) n
  b 1 5 3 = 0 && b 2 5 3 = 0 && b 3 5 3 = 0 && b 7 6 2 = 0 && b 8 5 3 = 0 && b 9 3 5 = 0 && bits x 80 16 = 0
  && bits x (12 * 8 + 18) 13 = 0 && b 19 0 8 = 0 && b 23 0 8 = 0 && bits x (28 * 8) 32 = 0
  && bits x (54 * 8 + 12) 4 = 0 && bits x (78 * 8 + 12) 4 = 0 && bits x (80 * 8 + 10) 22 = 0 && bits x (92 * 8) 288 = 0

/-- The fields of an entry. -/
def parseQp (x : Nat) : Qp :=
  let b (i lo n : Nat) : Nat := bits x (8 * i + lo) n
  { state := b 0 0 3, ud := nbit x 3, dex := nbit x 4, apm := nbit x 5, mig := b 0 6 2
    port := b 1 0 5, altPort := b 2 0 5, cls := b 3 0 2, pmtu := b 3 2 3, destQpn := b 4 0 24, retry := b 7 0 3
    rnrRetry := b 7 3 3, ackTimeout := b 8 0 5, access := b 9 0 3, bobbin := BitVec.ofNat 18 (b 12 0 18)
    bobEn := nbit x (12 * 8 + 31), sqPsn := b 16 0 24, rqPsn := b 20 0 24, qkey := BitVec.ofNat 32 (b 24 0 32)
    path := (b 32 0 128, b 48 0 48, b 54 0 12), altPath := (b 56 0 128, b 72 0 48, b 78 0 12)
    rate := b 80 0 32, retx := BitVec.ofNat 32 (b 84 0 32), cnpRx := BitVec.ofNat 32 (b 88 0 32) }

/-- Every field within its values; UD excludes DEX; DEX needs RNR_RETRY 7 (R355, R366). -/
def qpFieldsOk (q : Qp) : Bool :=
  q.port < 20 && (!q.apm || (16 ≤ q.altPort && q.altPort < 20)) && q.cls < 3 && 3 ≤ q.pmtu && q.pmtu ≤ 5
  && q.destQpn < 65536 * 256 && !(q.ud && q.dex) && (!q.dex || q.rnrRetry = 7) && q.state < 5 && q.mig < 3

/-- The result register and, for an operation that is not accepted, QP_CFG (R355). -/
def qpOutcome (n : Nat) (ok : Bool) (s : State) : State :=
  let s1 : State := { s with qpResult := BitVec.ofNat 32 (n % 65536 + (if ok then 0 else 65536)) }
  if ok then s1 else faultParam (srcPrt 0) kQP_CFG (n % 65536) s1

/-- LOAD. [DEDUCED, log 20] [DEDUCED, log 75] -/
def qpLoad (n : Nat) (s0 : State) : State :=
  let a := qptBase s0 + n * 128
  if (s0.qp n).state ≠ 0 || n < 2 then qpOutcome n false s0
  else
    let x := rdNat s0 a 128
    let p := rdPoison s0 a 128
    let s := touchReads (srcPrt 0) 0 (sectorsOf a 128) s0
    let q := parseQp x
    if p || !qpReservedOk x || !qpFieldsOk q then qpOutcome n false s
    else
      qpOutcome n true ((s.setQp n { q with state := 0 }).setQp n { q with state := 3, mig := 0, rate := lineRate q.port, ccFrom := s.wall })

/-- REARM. [DEDUCED, log 75] -/
def qpRearm (n : Nat) (s : State) : State :=
  let q := s.qp n
  if q.mig = 1 || q.mig = 2 then qpOutcome n true (s.setQp n { q with mig := 0 }) else qpOutcome n false s

end Sys2Proof.Machine
end

