-- ==== Sys2Proof/Machine/Groups.lean ====
section
/-! DEFINITION. Reduction groups and Dexornian headers (R296, R317, R358, R368): the group table, a rank's queue pair, building
and sending a message. -/

namespace Sys2Proof.Machine

/-- A group table entry. -/
structure Grp where
  tag : Word
  size : Nat
  rank : Nat
  ctx : Nat
  valid : Bool
  peers : Nat
deriving DecidableEq, Repr

def gtabBase (s : State) : Nat := base48 s (rPly 0x04) (rPly 0x08)

/-- Address of group `g`'s entry. -/
def groupAddr (s : State) (g : Nat) : Nat := gtabBase s + 64 * g

/-- The entry of group `g`; none where it is not VALID, breaks its layout, or cannot be read. -/
def readGroup (s : State) (g : Nat) : Option Grp :=
  let a := groupAddr s g
  let x := rdNat s a 64
  let e : Grp := { tag := BitVec.ofNat 32 (bits x 0 32), size := bits x 32 17, rank := bits x 64 16, ctx := bits x 80 12,
                   valid := nbit x 95, peers := bits x 96 48 }
  let resOk := bits x 49 15 = 0 && bits x 92 3 = 0 && bits x 144 368 = 0
  if rdPoison s a 64 then none
  else if e.valid && resOk && 1 ≤ e.size && e.size ≤ 65536 && e.rank < e.size && e.peers % 64 = 0 then some e else none

/-- The endpoint of a rank. -/
def peerEndpoint (s : State) (e : Grp) (rank : Nat) : Nat := rdNat s (e.peers + 2 * rank) 2

/-- Groups whose TAG and context are as given. -/
def groupByTag (s : State) (tag : Word) : Option (Nat × Grp) :=
  ((List.range 256).filterMap (fun g => (readGroup s g).map (fun e => (g, e)))).find? (fun e => e.2.tag = tag)

/-- A 64-byte header from fields (byte offset, value). -/
def header64 (fs : List (Nat × Nat)) : List Byte := leBytes 64 (fs.foldl (fun a f => a + f.2 * 2 ^ (8 * f.1)) 0)

/-- Post a SEND on the queue pair that endpoint `ep` resolves to, or report that there is no path. -/
def postSend (ep : Nat) (bytes : List Byte) (owner : Option Nat) (s : State) (q : Option (Nat × Bool)) : State × Bool :=
  match q with
  | some (n, _) => (postOp n (.send bytes owner) s, true)
  | none => (noPath ep s, false)

/-- Send a message to an endpoint; false where there is no path. `owner` waits for the acknowledgement. [DEDUCED, log 73] -/
def sendEnd (ep : Nat) (bytes : List Byte) (owner : Option Nat) (s0 : State) : State × Bool :=
  let s := touchEndpoint ep s0
  postSend ep bytes owner s (resolveEndpoint s ep)

/-- Send a message to a rank of a group whose peer array is read for it. -/
def sendRank (e : Grp) (rank : Nat) (bytes : List Byte) (s : State) : State × Bool :=
  sendEnd (peerEndpoint s e rank) bytes none (touchReads srcPly 0 (sectorsOf (e.peers + 2 * rank) 2) s)

/-- The peer array as a command finds it at acceptance: each rank's endpoint and whether its entry is poisoned. The element of the
own rank is not read (R296). -/
def readPeers (s : State) (e : Grp) : List (Nat × Bool) :=
  (List.range e.size).map (fun r =>
    if r = e.rank then (0, false) else (peerEndpoint s e r, rdPoison s (e.peers + 2 * r) 2))

/-- The sectors of the peer array that hold an element to be read. -/
def peerSectors (e : Grp) : List Nat :=
  distinct (((List.range e.size).filter (fun r => r ≠ e.rank)).map (fun r => (e.peers + 2 * r) / 32))

/-- The REPLAY_HOLD message (Table 12-7). -/
def replayHoldMsg (ctx : Nat) (e : Grp) (step : Word) (reason : Nat) : List Byte :=
  header64 [(0, 0x40), (2, ctx), (4, e.tag.toNat), (8, e.rank), (12, step.toNat), (20, reason)]

/-- The BARRIER message (Table 12-7). -/
def barrierMsg (e : Grp) (step : Word) (counter : Nat) : List Byte :=
  header64 [(0, 0x30), (4, e.tag.toNat), (8, e.rank), (12, step.toNat), (16, counter)]

/-- Send REPLAY_HOLD to every other member of every VALID group of a context (R371). -/
def sendReplayHold (ctx : Nat) (step : Word) (s : State) : State :=
  (List.range 256).foldl (fun s g =>
    match readGroup s g with
    | some e =>
      if e.ctx = ctx then
        (List.range e.size).foldl (fun s k =>
          if k = e.rank then s else (sendRank e k (replayHoldMsg ctx e step 3) s).1) s
      else s
    | none => s) s

end Sys2Proof.Machine
end

