-- ==== Sys2Proof/Machine/Train.lean ====
section
/-! DEFINITION. Training words, the loss scale, the rewind journal and replay (R269 to R277, R287 to R292). -/

namespace Sys2Proof.Machine

def State.ctx (s : State) (c : Nat) : Ctx := mget s.ctxs c {}
def State.setCtx (s : State) (c : Nat) (x : Ctx) : State := { s with ctxs := mput s.ctxs c x {} }
def State.trn (s : State) (c : Nat) : Trn := mget s.trns c {}
def State.setTrn (s : State) (c : Nat) (t : Trn) : State := { s with trns := mput s.trns c t {} }

/-- Word 0, EXP. -/
def trnExpBits (s : State) (c : Nat) : BitVec 8 := match (s.trn c).exp with | some e => e | none => s.lsInit
/-- EXP as a number. -/
def trnExp (s : State) (c : Nat) : Int := signed 8 (trnExpBits s c).toNat

def vLOVF : Nat := 0
def vLCSUM : Nat := 1
def vGOVF : Nat := 2
def vGCSUM : Nat := 3
def vSENT : Nat := 4
def vSUPP : Nat := 5

/-- Set verdict bits. -/
def orVerdict (c : Nat) (v : BitVec 6) (s : State) : State :=
  let t := s.trn c
  s.setTrn c { t with verdict := t.verdict ||| v }

/-- A context's replay is under way. -/
def inReplay (s : State) (c mode : Nat) : Bool := (s.trn c).armed && (s.trn c).mode.toNat = mode

/-! ## Holds (R291, R371) -/

/-- Hold a context; one already held keeps its first REASON. REASON 3 tells the peers. [DEDUCED, log 48] -/
def holdCtx (c reason : Nat) (s : State) : State :=
  let t := s.trn c
  if t.held then s
  else
    let s1 := s.setTrn c { t with held := true, reason := BitVec.ofNat 2 reason }
    if reason = 3 then sendReplayHold c (s.ctx c).step s1 else s1

/-- The key that marks a replay as diverged in `jused`. -/
def divergedKey : Nat := 2 ^ 60

/-- The first difference of a GROUP replay (R291): the fault names the command. -/
def diverge (c addr : Nat) (s : State) : State :=
  let t := s.trn c
  if t.jused.contains divergedKey then s
  else holdCtx c 3 (faultAddr srcBob kREPLAY_DIVERGE addr (s.setTrn c { t with jused := t.jused ++ [divergedKey] }))

/-! ## The journal (R287 to R289) -/

def jrnSize (sec : Nat) : Nat := if sec = 0 then 128 else if sec = 1 then 8 else 16

def jcapOf (t : Trn) (sec : Nat) : Nat := t.jcap.getD sec 0

/-- Offset of a section in an entry. -/
def jrnOff (t : Trn) (sec : Nat) : Nat :=
  4096 + ((List.range sec).map (fun i => jcapOf t i * jrnSize i)).foldl (· + ·) 0

/-- Bytes of an entry. -/
def jrnEntry (t : Trn) : Nat := 65536 * ceilDiv (jrnOff t 4) 65536

/-- Address of entry `n`. -/
def jrnAddr (t : Trn) (n : Nat) : Nat := t.jbase.toNat + n * jrnEntry t

/-- The ring check of R287. -/
def ringOk (s : State) (t : Trn) (jlog : Nat) : Bool :=
  t.jbase.toNat % 65536 = 0 && rangeOk s t.jbase.toNat (jrnEntry t * 2 ^ jlog)

/-- Bytes, all poisoned or none. -/
def mark (p : Bool) (l : List Byte) : List MByte := l.map (fun b => { val := b, poison := p })

/-- Append a record to a section of the open entry of context `c`. -/
def jrnAppend (c sec : Nat) (rec_ : List MByte) (s : State) : State :=
  let t := s.trn c
  match t.jopen with
  | none => s
  | some n =>
    let k := t.jcnt.getD sec 0
    if k < jcapOf t sec then
      storeMarked srcBob (jrnAddr t n + jrnOff t sec + k * jrnSize sec) rec_
        (s.setTrn c { t with jcnt := t.jcnt.set sec (k + 1), jpois := t.jpois || rec_.any (·.poison) })
    else
      let s1 := (s.setTrn c { t with jtrunc := t.jtrunc.set sec true, jfull := true }).count (rBob 0x220) 1
      if t.jfull then s1 else faultParam srcBob kJOURNAL_FULL c s1

/-- A step opens: its entry is first marked not VALID (R289). No entry opens while MODE is not 0 (R290). -/
def jrnOpen (c : Nat) (s : State) : State :=
  let t := s.trn c
  let clear : Trn := { t with jopen := none, jcnt := [0, 0, 0, 0], jtrunc := [false, false, false, false], jpois := false,
                              jfull := false }
  if t.jen && t.mode = 0 then
    let n := (s.ctx c).step.toNat % 2 ^ t.jlog.toNat
    storeClean srcBob (jrnAddr t n + 6) [0, 0] (s.setTrn c { clear with jopen := some n })
  else s.setTrn c clear

/-- The kept records of an entry, as bytes of memory, given the counts. -/
def jrnBody (s : State) (t : Trn) (a : Nat) (cnt : List Nat) : List RByte :=
  (List.range 4).flatMap (fun sec => rdBytes s (a + jrnOff t sec) (cnt.getD sec 0 * jrnSize sec))

/-- Close the entry of the step that ends, with the words in force during it (R288, R289). -/
def jrnClose (c : Nat) (s : State) : State :=
  let t := s.trn c
  match t.jopen with
  | none => s
  | some n =>
    let a := jrnAddr t n
    let crc := crc32c ((jrnBody s t a t.jcnt).map (·.val))
    let flags := 1 + 2 * ((List.range 4).map (fun i => b2n (t.jtrunc.getD i false) * 2 ^ i)).foldl (· + ·) 0
      + 32 * b2n t.jpois
    let img := match mfind s.images c with | some i => i.addr | none => 0
    let h := [(0, 0x4C4E524A), (4, c), (6, flags), (8, (s.ctx c).step.toNat), (12, (trnExpBits s c).toNat),
      (16, t.clean.toNat), (20, t.optStep.toNat), (24, t.seed.toNat), (32, t.verdict.toNat), (40, img),
      (48, t.jcnt.getD 0 0), (52, t.jcnt.getD 1 0), (56, t.jcnt.getD 2 0), (60, t.jcnt.getD 3 0), (64, crc.toNat)]
    let bytes := leBytes 4096 (h.foldl (fun x f => x + f.2 * 2 ^ (8 * f.1)) 0)
    storeClean srcBob a bytes (s.setTrn c { t with jopen := none, jseq := t.jseq + 1 })

/-! ## Comparing a GROUP replay with its entry (R291) -/

/-- Record `i` of a section of the entry that the context replays, as a number. -/
def jrnRecord (s : State) (c sec i : Nat) : Nat :=
  let t := s.trn c
  rdNat s (jrnAddr t t.entry.toNat + jrnOff t sec + i * jrnSize sec) (jrnSize sec)

/-- Records a section of that entry holds. -/
def jrnCount (s : State) (c sec : Nat) : Nat :=
  let t := s.trn c
  rdNat s (jrnAddr t t.entry.toNat + 48 + 4 * sec) 4

/-- The route runs of the entry: position of the marker, marker, picks. -/
def jrnRuns (s : State) (c : Nat) : List (Nat × Nat × List Nat) :=
  ((List.range (jrnCount s c 1)).map (fun i => (i, jrnRecord s c 1 i))).foldl (fun acc r =>
    if r.2 / 2 ^ 62 = 1 then acc ++ [(r.1, r.2, [])]
    else match acc.getLast? with
      | some l => acc.dropLast ++ [(l.1, l.2.1, l.2.2 ++ [r.2])]
      | none => acc) []

/-- Compare an EXP_SELECT's marker and picks: it takes any equal run that no earlier one of the replay has taken. -/
def replayRoutes (c addr : Nat) (route : List Nat) (s : State) : State :=
  if inReplay s c 2 then
    let t := s.trn c
    match (jrnRuns s c).find? (fun r => !t.jused.contains (2 ^ 32 + r.1) && r.2.1 :: r.2.2 = route) with
    | some r => s.setTrn c { t with jused := t.jused ++ [2 ^ 32 + r.1] }
    | none => diverge c addr s
  else s

/-- Compare a checksum record. -/
def replayCsum (c addr : Nat) (rec_ : Nat) (s : State) : State :=
  if inReplay s c 2 then
    let t := s.trn c
    match (List.range (jrnCount s c 3)).find? (fun i => !t.jused.contains (3 * 2 ^ 32 + i) && jrnRecord s c 3 i = rec_) with
    | some i => s.setTrn c { t with jused := t.jused ++ [3 * 2 ^ 32 + i] }
    | none => diverge c addr s
  else s

/-! ## The step's verdict and the close of UPD (R273, R275) -/

/-- BOB[0]_LS_CFG: INIT, MIN, MAX. -/
def lsInit (s : State) : Int := signed 8 ((s.getReg (rBob 0x208)).toNat)
def lsMin (s : State) : Int := signed 8 ((s.getReg (rBob 0x208)).toNat / 256)
def lsMax (s : State) : Int := signed 8 ((s.getReg (rBob 0x208)).toNat / 65536)
def lsRaise (s : State) : Nat := (s.getReg (rBob 0x20C)).toNat

/-- At the close of BWD, SUPPRESS takes the OR of the four bits. -/
def closeBwd (c : Nat) (s : State) : State :=
  if (s.trn c).verdict.toNat % 16 = 0 then s else orVerdict c 32 s

/-- A step whose update was suppressed is counted. -/
def countSuppressed (t : Trn) (s : State) : State := if t.verdict.getLsbD vSUPP then s.count (rBob 0x21C) 1 else s

/-- The training state at the close of UPD (R275), with LS_FLOOR and the suppressed count; a replay ends, and a hold in force stays
until RESUME (R291). -/
def closeUpd (c : Nat) (s : State) : State :=
  let t := s.trn c
  let e := trnExp s c
  let ovf := t.verdict.getLsbD vLOVF || t.verdict.getLsbD vGOVF
  let csum := t.verdict.getLsbD vLCSUM || t.verdict.getLsbD vGCSUM
  let s1 := if ovf && e = lsMin s then faultParam srcBob kLS_FLOOR c s else s
  let s2 := countSuppressed t s1
  let bitsOf (x : Int) : Option (BitVec 8) := some (BitVec.ofInt 8 x)
  let t1 : Trn :=
    if ovf then { t with exp := bitsOf (max (e - 1) (lsMin s)), clean := 0 }
    else if csum then t
    else
      let n := t.clean + 1
      if lsRaise s ≠ 0 && lsRaise s ≤ n.toNat then
        { t with optStep := t.optStep + 1, clean := 0, exp := bitsOf (min (e + 1) (lsMax s)) }
      else { t with optStep := t.optStep + 1, clean := n }
  let t2 : Trn := { t1 with verdict := 0 }
  s2.setTrn c (if t.armed then { t2 with armed := false, mode := 0, jused := [] } else t2)

/-- What one completion does to the verdict (R273, R274). -/
def verdictOf (c phase : Nat) (ovf csum : Bool) (s : State) : State :=
  if (phase = 0 || phase = 1) && (ovf || csum) then
    let late := (s.trn c).verdict.getLsbD vSENT
    let s1 := orVerdict c (BitVec.ofNat 6 (b2n ovf + 2 * b2n csum)) s
    if late then faultParam srcBob kVERDICT_LATE c s1 else s1
  else s

/-! ## The training words (R269, R270) -/

/-- Commands of a context that are dispatched and not completed, over all bobbins bound to it. -/
def ctxOutstanding (s : State) (c : Nat) : Nat :=
  ((s.bobs.filter (fun b => b.2.entry.ctx.toNat = c)).map (fun b => b.2.outstanding)).foldl (· + ·) 0

def ctxIdle (s : State) (c : Nat) : Bool := ctxOutstanding s c = 0

def trnSelCtx (s : State) : Nat := (s.getReg (rBob 0x200)).toNat % 4096
def trnSelWord (s : State) : Nat := bits (s.getReg (rBob 0x200)).toNat 12 5

/-- The selected word (Table 09-1). -/
def readTrn (s : State) : Word :=
  let c := trnSelCtx s
  let t := s.trn c
  let cap (i : Nat) : Cap := t.caps.getD i {}
  match trnSelWord s with
  | 0 => (trnExpBits s c).setWidth 32
  | 1 => t.clean
  | 2 => t.optStep
  | 3 => t.verdict.setWidth 32
  | 4 => t.seed.setWidth 32
  | 5 => (t.seed >>> 32).setWidth 32
  | 6 => t.jbase.setWidth 32
  | 7 => (t.jbase >>> 32).setWidth 32
  | 8 => packWord [(0, 3, t.jlog.toNat), (3, 1, b2n t.jen)]
  | 9 => BitVec.ofNat 32 (jcapOf t 0)
  | 10 => BitVec.ofNat 32 (jcapOf t 1)
  | 11 => BitVec.ofNat 32 (jcapOf t 2)
  | 12 => BitVec.ofNat 32 (jcapOf t 3)
  | 13 => t.jseq
  | 14 => packWord [(0, 2, t.mode.toNat), (2, 4, t.entry.toNat), (8, 1, b2n t.held), (9, 2, t.reason.toNat)]
  | 15 => 0
  | w => if w % 2 = 0 then packWord [(0, 18, (cap ((w - 16) / 2)).bobbin.toNat), (31, 1, b2n (cap ((w - 16) / 2)).en)]
         else (cap ((w - 17) / 2)).seq

/-- ARM (R290): check the entry; load the training state and the step. -/
def armReplay (c : Nat) (s0 : State) : State :=
  let t := s0.trn c
  let a := jrnAddr t t.entry.toNat
  let h := rdNat s0 a 72
  let cnt := (List.range 4).map (fun i => bits h (8 * (48 + 4 * i)) 32)
  let fits := (List.range 4).all (fun i => cnt.getD i 0 ≤ jcapOf t i)
  let body := if fits then jrnBody s0 t a cnt else []
  let s := touchReads srcBob 0 (sectorsOf a 72 ++ (if fits then (List.range 4).flatMap (fun i =>
    sectorsOf (a + jrnOff t i) (cnt.getD i 0 * jrnSize i)) else [])) s0
  let ok := t.mode ≠ 0 && t.entry.toNat < 2 ^ t.jlog.toNat && !rdPoison s0 a 72 && fits && !body.any (·.poison)
    && nbit h 48 && bits h 49 5 = 0 && bits h 32 12 = c && (crc32c (body.map (·.val))).toNat = bits h 512 32
  if ok then
    let t1 : Trn := { t with
      exp := some (BitVec.ofNat 8 (bits h 96 8)), clean := BitVec.ofNat 32 (bits h 128 32),
      optStep := BitVec.ofNat 32 (bits h 160 32), seed := BitVec.ofNat 64 (bits h 192 64), verdict := 0
      armed := true, held := false, reason := 0, jused := [], jopen := none }
    (s.setTrn c t1).setCtx c { s.ctx c with step := BitVec.ofNat 32 (bits h 64 32), phase := .fwd, done := 0 }
  else faultParam srcBob kREPLAY_ARM c s

/-- A write of the REPLAY word (R290, R291). A replay that the host ends by MODE 0 is held no more. [DEDUCED, log 120] -/
def writeReplay (c : Nat) (v : Word) (s : State) : WrRes :=
  let t := s.trn c
  let mode : BitVec 2 := v.setWidth 2
  let entry : BitVec 4 := (v >>> 2).setWidth 4
  let arm := v.getLsbD 6
  if mode = 3 then .refuse kACCESS_REFUSED
  else if (mode ≠ t.mode || entry ≠ t.entry || arm) && !ctxIdle s c then .refuse kACCESS_REFUSED
  else
    -- no entry is written while MODE is not 0: one that is open stays unfinished
    let t1 : Trn := { t with mode := mode, entry := entry, jopen := if mode = 0 then t.jopen else none }
    let t2 : Trn := if mode = 0 && t.mode ≠ 0 then { t1 with armed := false, held := false, reason := 0, jused := [] } else t1
    let t3 : Trn :=
      if v.getLsbD 7 && t2.held then
        let ends := t2.reason = 2 || t2.reason = 3
        let r : Trn := { t2 with held := false, reason := 0 }
        if ends then { r with mode := 0, armed := false, jused := [] } else r
      else t2
    .done (if arm then armReplay c (s.setTrn c t3) else s.setTrn c t3)

/-- A write of JCFG: JEN 1 checks the ring (R287). [DEDUCED, log 50] -/
def writeJcfg (c : Nat) (v : Word) (s : State) : WrRes :=
  let t := s.trn c
  let jlog := v.toNat % 8
  if 4 < jlog then .refuse kACCESS_REFUSED
  else if v.getLsbD 3 && !ringOk s t jlog then
    .done (faultParam srcBob kJOURNAL_CFG c (s.setTrn c { t with jlog := BitVec.ofNat 3 jlog, jen := false }))
  else .done (s.setTrn c { t with jlog := BitVec.ofNat 3 jlog, jen := v.getLsbD 3 })

/-- A write of BOB[0]_TRN_DATA (R269). [DEDUCED, log 50] -/
def writeTrn (v : Word) (s : State) : WrRes :=
  let c := trnSelCtx s
  let w := trnSelWord s
  let t := s.trn c
  if w = 3 || w = 13 || w = 15 then .refuse kACCESS_RO
  else if w = 14 then writeReplay c v s
  else if !ctxIdle s c then .refuse kACCESS_REFUSED
  else if w = 8 then writeJcfg c v s
  else
    let cap (i : Nat) (f : Cap → Cap) : Trn := { t with caps := t.caps.set i (f (t.caps.getD i {})) }
    .done (s.setTrn c (match w with
      | 0 => { t with exp := some (v.setWidth 8) }
      | 1 => { t with clean := v }
      | 2 => { t with optStep := v }
      | 4 => { t with seed := (t.seed &&& 0xFFFFFFFF00000000) ||| v.setWidth 64 }
      | 5 => { t with seed := (t.seed &&& 0xFFFFFFFF) ||| (v.setWidth 64 <<< 32) }
      | 6 => { t with jbase := (t.jbase &&& 0xFFFF00000000) ||| v.setWidth 48 }
      | 7 => { t with jbase := (t.jbase &&& 0xFFFFFFFF) ||| ((v.setWidth 48) <<< 32) }
      | 9 => { t with jcap := t.jcap.set 0 (v.toNat % 2 ^ 24) }
      | 10 => { t with jcap := t.jcap.set 1 v.toNat }
      | 11 => { t with jcap := t.jcap.set 2 (v.toNat % 2 ^ 24) }
      | 12 => { t with jcap := t.jcap.set 3 (v.toNat % 2 ^ 24) }
      | w => if w % 2 = 0 then cap ((w - 16) / 2) (fun x => { x with bobbin := v.setWidth 18, en := v.getLsbD 31 })
             else cap ((w - 17) / 2) (fun x => { x with seq := v })))

/-- CTX_RESET clears words 3 and 14 (R270); the entry that was open is never closed. -/
def trnReset (c : Nat) (s : State) : State :=
  let t := s.trn c
  s.setTrn c { t with verdict := 0, mode := 0, entry := 0, held := false, reason := 0, armed := false, jused := [],
                      jopen := none }

/-- An unload (R270). -/
def trnUnload (c : Nat) (s : State) : State :=
  let s1 := trnReset c s
  let t := s1.trn c
  s1.setTrn c { t with exp := some (BitVec.ofInt 8 (lsInit s1)), clean := 0, optStep := 0,
                       caps := List.replicate 8 {} }

end Sys2Proof.Machine
end

