-- ==== Sys2Proof/Machine/Cache.lean ====
section
/-! DEFINITION. The expert residency table, the cache slots and fetches from the bale (R220 to R229, R369). -/

namespace Sys2Proof.Machine

def State.crd (s : State) (k : Nat) : Crd := mget s.crds k {}
def State.setCrd (s : State) (k : Nat) (x : Crd) : State := { s with crds := mput s.crds k x {} }

def stCold : Nat := 0
def stFetching : Nat := 1
def stResident : Nat := 2
def stFailed : Nat := 3

/-- A residency table entry (Table 07-4). -/
structure Resid where
  state : Nat
  pin : Bool
  dirty : Bool
  cslot : Nat
  node : Nat
  raddr : Nat
  rkey : Word
  len : Nat
  crc : Word
  fepoch : BitVec 16
  hit : Word
  miss : Word
  latMax : Word
  poison : Bool
deriving DecidableEq, Repr

def readResid (s : State) (a : Nat) : Resid :=
  let x := rdNat s a 64
  { state := bits x 0 2, pin := nbit x 2, dirty := nbit x 3, cslot := bits x 32 32, node := bits x 96 16
    raddr := bits x 128 64, rkey := BitVec.ofNat 32 (bits x 192 32), len := bits x 224 32
    crc := BitVec.ofNat 32 (bits x 256 32), fepoch := BitVec.ofNat 16 (bits x 288 16)
    hit := BitVec.ofNat 32 (bits x 320 32), miss := BitVec.ofNat 32 (bits x 352 32)
    latMax := BitVec.ofNat 32 (bits x 416 32), poison := rdPoison s a 64 }

/-- Store a little-endian number of `n` bytes. -/
def storeNat (k : Nat) (a n v : Nat) (s : State) : State := storeClean (srcCrd k) a (leBytes n v) s

/-- Write STATE and DIRTY of an entry; PIN stays the host's. -/
def setResidState (k : Nat) (a st : Nat) (dirty : Bool) (s : State) : State :=
  storeClean (srcCrd k) a [BitVec.ofNat 8 ((s.byte a).toNat / 16 * 16 + (s.byte a).toNat % 8 / 4 * 4 + st + 8 * b2n dirty)] s

/-- A cache slot table entry (R221). -/
structure SlotEnt where
  owner : Nat
  valid : Bool
  pin : Bool
  filling : Bool
  stamp : Word
  fepoch : BitVec 16
  poison : Bool
deriving DecidableEq, Repr

def readSlot (s : State) (a : Nat) : SlotEnt :=
  let x := rdNat s a 16
  { owner := bits x 0 20, valid := nbit x 20, pin := nbit x 21, filling := nbit x 22
    stamp := BitVec.ofNat 32 (bits x 32 32), fepoch := BitVec.ofNat 16 (bits x 64 16), poison := rdPoison s a 16 }

def writeSlotHead (k : Nat) (a owner : Nat) (valid pin filling : Bool) (s : State) : State :=
  storeNat k a 4 (owner + 2 ^ 20 * b2n valid + 2 ^ 21 * b2n pin + 2 ^ 22 * b2n filling) s

/-- Where a layer's cache lies: what a lookup needs of the route block. -/
structure CacheRef where
  ert : Nat
  ctab : Nat
  cache : Nat
  slotLog2 : Nat
  /-- The partition's slots: first and count. -/
  first : Nat
  count : Nat
deriving DecidableEq, Repr

def pinEn (s : State) (k : Nat) : Bool := (s.getReg (rCrd k 0x110)).getLsbD 0
def fetchMax (s : State) (k : Nat) : Nat := (s.getReg (rCrd k 0x104)).toNat % 128
def fetchRetry (s : State) (k : Nat) : Nat := (s.getReg (rCrd k 0x10C)).toNat % 8
def fetchTmo (s : State) (k : Nat) : Nat := (s.getReg (rCrd k 0x108)).toNat % 2 ^ 24
def crdEpoch (s : State) (k : Nat) : BitVec 16 := s.epoch (16 + k)

/-- The victim slot (R223, R237). A slot that a miss in hand has reserved is not free. -/
def chooseVictim (s : State) (k : Nat) (c : CacheRef) (step : Word) : Option Nat :=
  let taken := (s.crd k).fetches.map (·.slotEnt)
  let slots := ((List.range c.count).map (fun i => (c.first + i, readSlot s (c.ctab + 16 * (c.first + i))))).filter
    (fun e => !taken.contains (c.ctab + 16 * e.1) && !e.2.poison)
  match slots.find? (fun e => !e.2.valid) with
  | some e => some e.1
  | none =>
    let ok := slots.filter (fun e => !(e.2.pin && pinEn s k) && (!e.2.filling || e.2.fepoch ≠ crdEpoch s k)
      && e.2.stamp.toNat < step.toNat)
    (ok.foldl (fun (best : Option (Nat × SlotEnt)) e =>
      match best with
      | none => some e
      | some b => if e.2.stamp.toNat < b.2.stamp.toNat then some e else some b) none).map (·.1)

/-! ## Jobs that wait for fetches -/

/-- The slot map entry of the next expert, its DIRTY mark, and the READY increment on its way (R229, R230). [DEDUCED, log 68] -/
def assignOne (k : Nat) (w : Nat × Nat × Nat × Bool) (noslot waited : Bool) (s : State) : State :=
  match (s.crd k).job with
  | none => s
  | some j =>
    let ent := j.ert + 64 * w.2.1
    let r := readResid s ent
    let cslot := if w.2.2.1 = 0 || noslot then 0xFFFFFFFF else r.cslot
    let bytes := mark (w.2.2.2 || (cslot ≠ 0xFFFFFFFF && r.poison)) (leBytes 4 w.1 ++ leBytes 4 cslot ++ leBytes 4 w.2.2.1 ++ leBytes 4 0)
    let a := j.map + 16 * j.next
    let (s1, refused) := writeBytes (srcCrd k) 0 ((List.range 16).map (fun i => (a + i, bytes.getD i {}))) s
    let s2 := if j.train && 0 < w.2.2.1 then setResidState k ent r.state true s1 else s1
    let x := s2.crd k
    let j' : CrdJob := { j with next := j.next + 1, waited := j.waited + b2n waited,
                                wait := j.wait.filter (fun e => e.1 ≠ w.1),
                                status := if refused.isEmpty || j.status = stERROR then j.status else stERROR,
                                errKind := if refused.isEmpty then j.errKind else kindFAULT }
    s2.setCrd k { x with job := some j', incs := x.incs ++ [j.ready] }

/-- The job ends once nothing is left to wait for. -/
def finishJob (k : Nat) (s : State) : State :=
  match (s.crd k).job with
  | none => s
  | some j =>
    if j.wait.isEmpty then
      (s.setCrd k { s.crd k with job := none }).addReport
        { is := j.is, unit := 16 + k, status := j.status, errKind := j.errKind, oobReads := j.oobReads
          aux := if j.assign then BitVec.ofNat 32 j.waited else j.aux, charged := j.charged, ran := true }
    else s

/-- A fetch has ended: an EXP_ASSIGN that waits for it assigns its expert. -/
def jobFetchEnd (k : Nat) (f : Fetch) (s : State) : State :=
  match (s.crd k).job with
  | none => s
  | some j =>
    if j.assign then
      match j.wait.find? (fun w => w.2.1 = f.gid && j.ert + 64 * w.2.1 = f.ent) with
      | some w => finishJob k (assignOne k w false true s)
      | none => s
    else s

/-- A fetch has started: an EXP_PREFETCH that waits for it has one fewer to wait for. -/
def jobFetchStart (k : Nat) (f : Fetch) (s : State) : State :=
  match (s.crd k).job with
  | none => s
  | some j =>
    if j.assign then s
    else finishJob k (s.setCrd k { s.crd k with job := some { j with wait := j.wait.filter (fun w => !(w.2.1 = f.gid && j.ert + 64 * w.2.1 = f.ent)) } })

/-! ## Fetches -/

def setFetch (k : Nat) (f : Fetch) (s : State) : State :=
  let x := s.crd k
  s.setCrd k { x with fetches := x.fetches.map (fun g => if g.slotEnt = f.slotEnt then f else g) }

def dropFetch (k : Nat) (f : Fetch) (s : State) : State :=
  let x := s.crd k
  s.setCrd k { x with fetches := x.fetches.filter (fun g => g.slotEnt ≠ f.slotEnt) }

/-- A fetch has failed after its last retry (R227). -/
def failFetch (k : Nat) (f : Fetch) (s : State) : State :=
  let s1 := storeMarked (srcCrd k) f.slotAddr ((List.range f.slotSize).map (fun i => { val := s.byte (f.slotAddr + i), poison := true })) s
  let e := readSlot s1 f.slotEnt
  let s2 := writeSlotHead k f.slotEnt e.owner e.valid e.pin false s1
  let r := readResid s2 f.ent
  let s3 := (setResidState k f.ent stFailed r.dirty s2).count (rCrd k 0x124) 1
  jobFetchEnd k f (dropFetch k f (faultParam (srcCrd k) kEXP_FETCH_FAIL f.gid s3))

/-- FETCH_NOTE or WB_NOTE (Table 12-7). -/
def noteMsg (type ctx : Nat) (step : Word) (gid raddr len : Nat) (rkey crc : Word) : List Byte :=
  header64 [(0, type), (2, ctx), (12, step.toNat), (16, gid), (24, raddr), (32, len), (36, rkey.toNat), (40, crc.toNat)]

/-- The READ of a fetch leaves on queue pair `q.1`, after its note where `q.2` asks for one (R226). -/
def sendFetch (k : Nat) (f : Fetch) (r : Resid) (q : Nat × Bool) (wall : Nat) (s : State) : State :=
  let s2 := if q.2 then
      postOp q.1 (.send (noteMsg 0x20 f.ctx f.step f.gid r.raddr r.len r.rkey r.crc) none) s
    else s
  postOp q.1 (.read r.raddr r.rkey r.len k f.gid)
    (setFetch k { f with st := .flying, qpn := some q.1, since := wall } s2)

/-- Issue the READ of a fetch, trying again where there is no path, up to the retry limit (R226, R227, R358). -/
def issueRead (k : Nat) : Nat → Fetch → State → State
  | 0, f, s => failFetch k f s
  | n + 1, f, s =>
    let r := readResid s f.ent
    let s1 := touchEndpoint r.node s
    let q := resolveEndpoint s1 r.node
    if q.isNone then issueRead k n { f with tries := f.tries + 1 } (noPath r.node s1)
    else sendFetch k f r (q.getD (0, false)) s.wall s1

/-- An attempt failed: retry, or fail after the last one. -/
def retryFetch (k : Nat) (f : Fetch) (s : State) : State :=
  let max := fetchRetry s k
  if f.tries < max then issueRead k (max - f.tries) { f with tries := f.tries + 1 } s else failFetch k f s

/-- R226: mark the entry and the slot, and issue the READ. -/
def startFetch (k : Nat) (f : Fetch) (s : State) : State :=
  let r := readResid s f.ent
  let s1 := storeNat k (f.ent + 36) 2 (crdEpoch s k).toNat
    (storeNat k (f.ent + 4) 4 f.slot (setResidState k f.ent stFetching r.dirty (touchReads (srcCrd k) 0 (sectorsOf f.ent 64) s)))
  let s2 := storeNat k (f.slotEnt + 8) 2 (crdEpoch s k).toNat (writeSlotHead k f.slotEnt f.gid true r.pin true s1)
  let s3 := match f.stamp with | some t => storeNat k (f.slotEnt + 4) 4 t.toNat s2 | none => s2
  jobFetchStart k f (issueRead k (fetchRetry s k + 1) { f with start := s.cyc } s3)

/-- The blob has landed (R226, R227). -/
def landFetch (k : Nat) (f : Fetch) (data : List MByte) (s : State) : State :=
  let r := readResid s f.ent
  let s1 := storeMarked (srcCrd k) f.slotAddr data s
  if data.length ≠ r.len || data.any (·.poison) || crc32c (data.map (·.val)) ≠ r.crc then retryFetch k f s1
  else
    let e := readSlot s1 f.slotEnt
    let s2 := writeSlotHead k f.slotEnt e.owner e.valid r.pin false s1
    let lat := BitVec.ofNat 32 ((s.cyc + 2 ^ 48 - f.start) % 2 ^ 48)
    let s3 := storeNat k (f.ent + 52) 4 (max lat.toNat r.latMax.toNat) (storeNat k (f.ent + 48) 4 lat.toNat
      (setResidState k f.ent stResident r.dirty s2))
    jobFetchEnd k f (dropFetch k f s3)

/-! ## Write-backs (R225) -/

/-- The write-back has failed: the owner is FAILED, and the slot is reused. -/
def failWriteBack (k : Nat) (f : Fetch) (s : State) : State :=
  match f.owner with
  | none => s
  | some (gid, ent) =>
    setFetch k { f with st := .queued, owner := none, qpn := none, tries := 0 }
      (faultParam (srcCrd k) kEXP_WB_FAIL gid (setResidState k ent stFailed (readResid s ent).dirty s))

/-- The note of a write-back of `bs` where `q.2` asks for one, and the new CRC in the owner's entry (R225, R369). -/
def noteWriteBack (k : Nat) (f : Fetch) (gid ent : Nat) (r : Resid) (bs : List Byte) (q : Nat × Bool) (s : State) : State :=
  let crc := crc32c bs
  storeNat k (ent + 32) 4 crc.toNat
    (if q.2 then postOp q.1 (.send (noteMsg 0x21 f.ctx f.step gid r.raddr r.len r.rkey crc) none) s else s)

/-- The WRITE of a write-back of `bs` leaves on queue pair `q.1`, after its note (R225). -/
def sendWriteBack (k : Nat) (f : Fetch) (gid ent : Nat) (r : Resid) (bs : List Byte) (q : Nat × Bool) (wall : Nat) (s : State) :
    State :=
  postOp q.1 (.write r.raddr r.rkey bs k gid)
    (setFetch k { f with st := .writeBack, qpn := some q.1, since := wall } (noteWriteBack k f gid ent r bs q s))

/-- The carder number in the packets of a WRITE that its port has stopped: no carder waits for them any more. -/
def noCarder : Nat := 32

/-- The port stops the WRITE at the first packet that would carry a poisoned byte, the `p`th byte: the packets before it have left
(R333, R363). -/
def stopWriteBack (k : Nat) (f : Fetch) (gid ent p : Nat) (r : Resid) (bs : List Byte) (q : Nat × Bool) (s : State) : State :=
  let s1 := noteWriteBack k f gid ent r bs q s
  let mtu := mtuBytes (s1.qp q.1).pmtu
  let s2 := if p / mtu = 0 then s1
    else postOp q.1 (.write r.raddr r.rkey (bs.take (p / mtu * mtu)) noCarder gid) s1
  faultAddr (srcPrt (s2.qp q.1).port) kPOISON_CONSUMED (f.slotAddr + p) s2

/-- Issue the WRITE of a write-back, with its note; one that the port stops has ended in error, and is tried again (R227). -/
def issueWrite (k : Nat) : Nat → Fetch → State → State
  | 0, f, s => failWriteBack k f s
  | n + 1, f, s =>
    match f.owner with
    | none => s
    | some (gid, ent) =>
      let r := readResid s ent
      let bs := rdBytes s f.slotAddr r.len
      let s1 := touchEndpoint r.node s
      let p := resolveEndpoint s1 r.node
      let q := p.getD (0, false)
      if p.isNone then issueWrite k n { f with tries := f.tries + 1 } (noPath r.node s1)
      else
        match findIdx bs.length (fun i => (bs.getD i {}).poison) with
        | some p => issueWrite k n { f with tries := f.tries + 1 } (stopWriteBack k f gid ent p r (bs.map (·.val)) q s1)
        | none => sendWriteBack k f gid ent r (bs.map (·.val)) q s.wall s1

def retryWriteBack (k : Nat) (f : Fetch) (s : State) : State :=
  let max := fetchRetry s k
  if f.tries < max then issueWrite k (max - f.tries) { f with tries := f.tries + 1 } s else failWriteBack k f s

/-- The write-back is complete: the owner is COLD and clean, and the fetch into the slot may start. -/
def doneWriteBack (k : Nat) (f : Fetch) (s : State) : State :=
  match f.owner with
  | none => s
  | some (_, ent) =>
    setFetch k { f with st := .queued, owner := none, qpn := none, tries := 0 } (setResidState k ent stCold false s)

/-! ## Lookups (R222 to R224, R228) -/

/-- What a lookup came to. -/
structure Looked where
  started : Bool := false
  noslot : Bool := false
  flt : Option Flt := none
  poison : Option Nat := none
deriving DecidableEq, Repr

/-- Stamp a routed expert's slot and copy PIN. -/
def stampSlot (k slotEnt : Nat) (pin : Bool) (step : Word) (s : State) : State :=
  let x := s.crd k
  match x.fetches.find? (fun f => f.slotEnt = slotEnt && (f.st = .queued || f.st = .writeBack)) with
  | some f => setFetch k { f with stamp := some step } s
  | none =>
    let e := readSlot s slotEnt
    storeNat k (slotEnt + 4) 4 step.toNat (writeSlotHead k slotEnt e.owner e.valid pin e.filling s)

/-- Evict the owner of a slot for expert `gid` and put the miss in hand, for context `ctx` in step `step`. -/
def reserveSlot (k : Nat) (c : CacheRef) (ctx : Nat) (step : Word) (routed : Bool) (slot gid : Nat) (s : State) : State :=
  let slotEnt := c.ctab + 16 * slot
  let e := readSlot s slotEnt
  let f : Fetch := { gid := gid, ent := c.ert + 64 * gid, slotEnt := slotEnt, slot := slot
                     slotAddr := c.cache + slot * 2 ^ c.slotLog2, slotSize := 2 ^ c.slotLog2, ctx := ctx, step := step
                     stamp := if routed then some step else none }
  let add (g : Fetch) (s : State) : State := s.setCrd k { s.crd k with fetches := (s.crd k).fetches ++ [g] }
  if !e.valid then add f s
  else
    let s1 := s.count (rCrd k 0x11C) 1
    let oent := c.ert + 64 * e.owner
    let o := readResid s1 oent
    if o.dirty && !o.poison then
      let f1 := { f with st := .writeBack, owner := some (e.owner, oent) }
      issueWrite k (fetchRetry s k + 1) f1 (touchReads (srcCrd k) 0 (sectorsOf f.slotAddr o.len) ((add f1 s1).count (rCrd k 0x120) 1))
    else add f (setResidState k oent stCold false s1)

/-- The lookup meets a poisoned residency entry: handled as a fetch that has failed (R222, R227). The slot is poisoned where the
entry's CSLOT names a slot of the partition that the expert owns. [DEDUCED, log 119] -/
def failEntry (k : Nat) (c : CacheRef) (gid : Nat) (r : Resid) (s : State) : State :=
  let slotEnt := c.ctab + 16 * r.cslot
  let e := readSlot s slotEnt
  let a := c.cache + r.cslot * 2 ^ c.slotLog2
  let s1 := if c.first ≤ r.cslot && r.cslot < c.first + c.count && e.valid && e.owner = gid then
      writeSlotHead k slotEnt e.owner e.valid e.pin false
        (storeMarked (srcCrd k) a ((List.range (2 ^ c.slotLog2)).map (fun i => { val := s.byte (a + i), poison := true })) s)
    else s
  faultParam (srcCrd k) kEXP_FETCH_FAIL gid
    ((setResidState k (c.ert + 64 * gid) stFailed r.dirty s1).count (rCrd k 0x124) 1)

/-- Look up expert `gid` for context `ctx` in step `step` (R222). `routed`: LRR_STEP, STAMP and the entry's counters are written.
[DEDUCED, log 68] -/
def lookup (k : Nat) (c : CacheRef) (ctx : Nat) (step : Word) (routed : Bool) (gid : Nat) (s0 : State) : State × Looked :=
  let ent := c.ert + 64 * gid
  let s := touchReads (srcCrd k) 0 (sectorsOf ent 64) s0
  let r := readResid s0 ent
  let lrr (s : State) : State := if routed then storeNat k (ent + 8) 4 step.toNat s else s
  let missCnt (s : State) : State := if routed then storeNat k (ent + 44) 4 (satAdd32 r.miss 1).toNat s else s
  if r.poison then
    (failEntry k c gid r (lrr (missCnt (s.count (rCrd k 0x118) 1))), { poison := some (firstPoison s0 ent 64) })
  else
    let stampIf (slotEnt : Nat) (s : State) : State := if routed then stampSlot k slotEnt r.pin step s else s
    if r.state = stResident then
      let s1 := if routed then storeNat k (ent + 40) 4 (satAdd32 r.hit 1).toNat s else s
      (stampIf (c.ctab + 16 * r.cslot) (lrr (s1.count (rCrd k 0x114) 1)), {})
    else
      let s1 := lrr (missCnt (s.count (rCrd k 0x118) 1))
      match (s.crd k).fetches.find? (fun f => f.gid = gid && f.ent = ent) with
      | some f => (stampIf f.slotEnt s1, {})
      | none =>
        if r.state = stFetching && r.fepoch = crdEpoch s k then (stampIf (c.ctab + 16 * r.cslot) s1, {})
        else if r.len = 0 then
          (s1, { noslot := true, flt := some { kind := kEXP_NO_BALE, addr := gid, param := true } })
        else
          let s2 := touchReads (srcCrd k) 0 (sectorsOf (c.ctab + 16 * c.first) (16 * c.count)) s1
          match chooseVictim s1 k c step with
          | none => (s2, { noslot := true, flt := some { kind := kEXP_CACHE_FULL, addr := gid, param := true } })
          | some slot => (reserveSlot k c ctx step routed slot gid s2, { started := true })

/-! ## The rows -/

/-- Does the carder's clock run (a stop that is pending has not stopped it, R39), and is it not in reset? -/
def crdRuns (s : State) (k : Nat) : Bool := !blockGated s (rCrd k 0) && !s.rstBusy.getLsbD (vecCrd k)

/-- FETCH_START: the oldest miss whose slot is ready gains an in-flight place (R226). -/
def execFetchStart (k : BitVec 5) (s : State) : Res :=
  let n := k.toNat
  let fs := (s.crd n).fetches
  let flying := (fs.filter (fun f => f.st = .flying)).length
  .next (match fs.find? (fun f => f.st = .queued) with
    | some f => if crdRuns s n && flying < fetchMax s n then startFetch n f s else s
    | none => s)

/-- The fetch of `gid` that is in flight on carder `k`. -/
def flyingFetch (s : State) (k gid : Nat) : Option Fetch :=
  (s.crd k).fetches.find? (fun f => f.gid = gid && f.st = .flying)

/-- The write-back of owner `gid` that is in flight on carder `k`. -/
def flyingWrite (s : State) (k gid : Nat) : Option Fetch :=
  (s.crd k).fetches.find? (fun f => f.st = .writeBack && (match f.owner with | some o => o.1 = gid | none => false))

/-- Is this operation the READ of `gid` by carder `k`, or its write-back? -/
def isReadOf (k gid : Nat) : WireOp → Bool
  | .read _ _ _ k' g => k' = k && g = gid
  | _ => false
def isWriteOf (k gid : Nat) : WireOp → Bool
  | .write _ _ _ k' g => k' = k && g = gid
  | _ => false

/-- Take an operation off its queue pair. -/
def dropOp (q : Option Nat) (p : WireOp → Bool) (s : State) : State :=
  match q with
  | none => s
  | some n => let x := s.qp n; s.setQp n { x with sq := x.sq.filter (fun o => !p o.op), tries := 0, again := x.again && (x.sq.filter (fun o => !p o.op)).any (·.sent) }

/-- Has the operation left the port? -/
def opSent (s : State) (q : Option Nat) (p : WireOp → Bool) : Bool :=
  match q with
  | none => false
  | some n => (s.qp n).sq.any (fun o => o.sent && p o.op)

/-- Bytes of a response that a parity error struck in the buffer of port `p`: one event. [DEDUCED, log 125] -/
def noteArrival (p : Nat) (data : List MByte) (s : State) : State :=
  if data.any (·.poison) then noteHit perrReg { src := srcPrt p, at_ := 0 } s else s

/-- FETCH_COMPLETE: the response to the READ has arrived whole (R226, R227). -/
def execFetchComplete (k : BitVec 5) (gid : BitVec 20) (data : List MByte) (s : State) (ing : Ingress := {}) : Res :=
  let n := k.toNat
  let g := gid.toNat
  .next (match flyingFetch s n g with
    | some f =>
      if opSent s f.qpn (isReadOf n g) then
        let q := f.qpn.getD 0
        match ingress q (packetsOf (s.qp q) data.length) ing s with
        | (s1, true) => landFetch n f data (noteArrival (s1.qp q).port data (dropOp f.qpn (isReadOf n g) s1))
        | (s1, false) => s1
      else s
    | none => s)

/-- FETCH_TIMEOUT: no response within EXP_FETCH_TMO ticks (R227). -/
def execFetchTimeout (k : BitVec 5) (gid : BitVec 20) (s : State) : Res :=
  let n := k.toNat
  let g := gid.toNat
  .next (match flyingFetch s n g with
    | some f =>
      if f.since + fetchTmo s n ≤ s.wall then retryFetch n f (dropOp f.qpn (isReadOf n g) s) else s
    | none => match flyingWrite s n g with
      | some f =>
        if f.since + fetchTmo s n ≤ s.wall then retryWriteBack n f (dropOp f.qpn (isWriteOf n g) s) else s
      | none => s)

/-- WRITE_BACK_COMPLETE: the WRITE of owner `gid`'s blob is acknowledged (R225). -/
def execWriteBackComplete (k : BitVec 5) (gid : BitVec 20) (s : State) (ing : Ingress := {}) : Res :=
  let n := k.toNat
  let g := gid.toNat
  .next (match flyingWrite s n g with
    | some f =>
      if opSent s f.qpn (isWriteOf n g) then
        match ingress (f.qpn.getD 0) 1 ing s with
        | (s1, true) => doneWriteBack n f (dropOp f.qpn (isWriteOf n g) s1)
        | (s1, false) => s1
      else s
    | none => s)

end Sys2Proof.Machine
end

