-- ==== Sys2Proof/Machine/Clocks.lean ====
section
/-! DEFINITION. The clock, gate and power register file, the run mask, the frequency meters and the clock monitor (chapter 14). -/

namespace Sys2Proof.Machine

/-- Bits of word `w` of a unit vector. -/
def vecWord (x : BitVec 128) (w : Nat) : Word := (x >>> (32 * w)).setWidth 32

/-- Do something for each listed unit of word `w`. -/
def forWord (w : Nat) (f : Nat → State → State) (s : State) : State :=
  (List.range 32).foldl (fun s b => if vecUsed (32 * w + b) then f (32 * w + b) s else s) s

/-- CLK[0]_GATE[w] (R39, R407): each listed unit's gate follows its bit. -/
def writeGate (w : Nat) (v : Word) (s : State) : WrRes :=
  .done (forWord w (fun u s =>
    if v.getLsbD (u % 32) then (if s.gate.getLsbD u then s else gateOn u s) else gateOff u s) s)

/-- CLK[0]_SLEEP[w] (R407, R408): a 1 for a unit without sleep refuses the write. -/
def writeSleep (w : Nat) (v : Word) (s : State) : WrRes :=
  if (List.range 32).any (fun b => vecUsed (32 * w + b) && v.getLsbD b && !vecHasSleep (32 * w + b)) then
    .refuse kACCESS_REFUSED
  else .done (forWord w (fun u s =>
    if v.getLsbD (u % 32) then sleepOn u s else if s.sleepReq.getLsbD u then sleepOff u s else s) s)

/-- CLK[0]_RST[w] (R409): a 1 for a unit without reset refuses the write. -/
def writeRst (w : Nat) (v : Word) (s : State) : WrRes :=
  if (List.range 32).any (fun b => vecUsed (32 * w + b) && v.getLsbD b && !vecHasReset (32 * w + b)) then
    .refuse kACCESS_REFUSED
  else .done (forWord w (fun u s => if v.getLsbD (u % 32) then resetUnit true u s else s) s)

/-- The four limits of CLK[0]_ISSUE or WHL[0]_CEIL. -/
def issueFields (v : Word) : List Nat := [bits v.toNat 0 7, bits v.toNat 8 7, bits v.toNat 16 7, bits v.toNat 24 7]

/-- Bits of those four fields; the rest is reserved. -/
def issueMask : Word := 0x7F7F7F7F

/-- CLK[0]_ISSUE (R410): every limit runs from 1 to 64. -/
def writeIssue (v : Word) (s : State) : WrRes :=
  if (issueFields v).all (fun x => 1 ≤ x && x ≤ 64) then .done (s.setReg (rClk 0xA0) (v &&& issueMask))
  else .refuse kACCESS_REFUSED

/-- CLK[0]_RUN_SET[i] (R411). [DESIGN CHOICE, log 104] -/
def writeRunSet (i : Nat) (v : Word) (s : State) : WrRes :=
  .done { s with run := s.run ||| (v.setWidth 4096 <<< (32 * i)) }

/-- CLK[0]_RUN_CLR[i] (R411). [DESIGN CHOICE, log 104] -/
def writeRunClr (i : Nat) (v : Word) (s : State) : WrRes :=
  .done { s with run := s.run &&& ~~~(v.setWidth 4096 <<< (32 * i)) }

/-- Both windows read the mask. -/
def readRun (i : Nat) (s : State) : Word := (s.run >>> (32 * i)).setWidth 32

/-- CLK[0]_SPARE (R412): a request, refused, without effect, or pending. -/
def writeSpare (v : Word) (s : State) : WrRes :=
  let pos := v.toNat % 16
  if s.spareReq.isSome then .refuse kACCESS_REFUSED
  else if v.getLsbD 4 then
    if isRetired s 16 then .refuse kACCESS_REFUSED
    else if s.spare.getLsbD 4 then
      (if s.spare.toNat % 16 = pos then .done s else .refuse kACCESS_REFUSED)
    else if 100000 ≤ mget s.wear (rClk 0xB0) 0 then .refuse kACCESS_REFUSED
    else .done { s with spareReq := some (BitVec.ofNat 5 (16 + pos), s.wall) }
  else
    if !s.spare.getLsbD 4 then .done s
    else if isRetired s (s.spare.toNat % 16) then .refuse kACCESS_REFUSED
    else if 100000 ≤ mget s.wear (rClk 0xB0) 0 then .refuse kACCESS_REFUSED
    else .done { s with spareReq := some (BitVec.ofNat 5 (s.spare.toNat % 16), s.wall) }

/-- CLK[0]_DEV_RESET (R418): KEY 0x5A5A resets the device. -/
def writeDevReset (v : Word) (s : State) : WrRes :=
  if v.toNat % 65536 = 0x5A5A then .done (deviceReset 3 s) else .refuse kACCESS_REFUSED

/-- CLK[0]_FM_CTL (R413): START with a legal choice begins a measurement and abandons one that runs. -/
def writeFmCtl (v : Word) (s : State) : WrRes :=
  let keep : Word := v &&& 0x1FFF
  if v.getLsbD 13 then
    let w := bits v.toNat 8 5
    if v.toNat % 16 ≤ 7 && bits v.toNat 4 4 ≤ 7 && 10 ≤ w && w ≤ 24 then
      .done { s.setReg (rClk 0x500) keep with fmRun := true, fmDone := false }
    else .refuse kACCESS_REFUSED
  else .done (s.setReg (rClk 0x500) keep)

/-- A measurement ends (R413). -/
def fmEnd (count : Nat) (s : State) : State :=
  if s.fmRun then { s with fmRun := false, fmDone := true, fmResult := BitVec.ofNat 32 (min count 4294967295) } else s

/-- CLK[0]_DRIFT_PPM: 50 to 10,000 (R419). -/
def writeDriftPpm (v : Word) (s : State) : WrRes :=
  let p := v.toNat % 65536
  if 50 ≤ p && p ≤ 10000 then .done (s.setReg (rClk 0x510) (BitVec.ofNat 32 p)) else .refuse kACCESS_REFUSED

/-- One window of the drift monitor (R414): even windows count domain 2, odd ones domain 1. [DEDUCED, log 20] -/
def driftEnd (count : Nat) (s : State) : State :=
  if s.clocksOn then
    let expect := if s.driftOdd then 204800 else 130744
    let dom := if s.driftOdd then 1 else 2
    let diff := if expect ≤ count then count - expect else expect - count
    let ppm := (s.getReg (rClk 0x510)).toNat % 65536
    let s1 := { s with driftOdd := !s.driftOdd, monLast := BitVec.ofNat 32 (min count 4294967295) }
    if expect * ppm < diff * 1000000 then (faultParam srcNdy kCLK_DRIFT dom s1).count (rClk 0x518) 1 else s1
  else s

end Sys2Proof.Machine
end

