-- ==== Sys2Proof/Machine/Flyer.lean ====
section
/-! DEFINITION. Flyer commands (R254 to R261): normalisation, soft-maximum, the merge of column-tile partials, freeing. -/

namespace Sys2Proof.Machine

/-! ## Fields (Table 08-7) -/

def flyLayer (c : Cmd) : Nat := imm c 0 12
def flyRowblk (c : Cmd) : Nat := imm c 12 16
def flyOpt (c : Cmd) : Bool := imm c 28 1 = 1
def flyRunv (c : Cmd) : Bool := imm c 29 1 = 1
def flyAcc (c : Cmd) : Bool := imm c 30 1 = 1
def flyParam (c : Cmd) : Word := BitVec.ofNat 32 (imm c 32 32)
def flyNct (c : Cmd) : Nat := imm c 32 8 + 1
def flyNrb (c : Cmd) : Nat := imm c 40 16 + 1

/-- The references of the flyer opcodes (Table 08-6) and their IMM bits. -/
def flyForm (op : Nat) : OpForm :=
  let m := immBits [(0, 31), (32, 32)]
  if op = 0x80 then { need := [0, 1], may := [2, 3], immMask := m }
  else if op = 0x81 || op = 0x82 then { need := [0, 1, 2], may := [3], immMask := m }
  else if op = 0x84 then { need := [0, 1], immMask := m }
  else if op = 0x85 then { need := [0, 1, 2], immMask := m }
  else if op = 0x83 then { immMask := immBits [(0, 31), (32, 24)] }
  else { immMask := m }

/-- Rules among the command's own fields (R254, Table 08-7). -/
def flyFieldsOk (c : Cmd) : Bool :=
  let op := cOp c
  let p := flyParam c
  (op = 0x82 || !flyAcc c)
  && (if op = 0x80 then !nonFinite32 p && (!(p.getLsbD 31) || p = 0x80000000)
      else if op = 0x84 || op = 0x85 then !nonFinite32 p
      else if op = 0x83 then !flyOpt c
      else p = 0)
  && (op ≠ 0x86 || flyRowblk c = 0)
  && (!((op = 0x80 || op = 0x82) && flyOpt c) || cD c 3 = 0)

/-- A row tensor (R254). -/
def checkRowTensor (s : State) (dest : Bool) (a : Nat) : Chk Desc := do
  let d ← checkDesc s dest a
  needFmt (d.fmt ≠ fINT32) d
  needShape (d.ndim = 2) d
  return d

/-- A parameter vector; a gradient output is FP32 (R254). -/
def checkParamVector (s : State) (grad : Bool) (a : Nat) : Chk Desc := do
  let d ← checkDesc s grad a
  needFmt (d.fmt = fFP32 || (!grad && (d.fmt = fBF16 || d.fmt = fFP16))) d
  needShape (d.ndim = 1) d
  return d

def checkParamOpt (s : State) (grad : Bool) (a : Nat) : Chk (Option Desc) :=
  if a = 0 then pure none else do let d ← checkParamVector s grad a; return some d

/-- The operands of a flyer command: row tensors in reference order (the last of them may be the output), and the
parameter vectors. -/
structure FlyOpds where
  rows : List (Desc × Bool) := []
  v1 : Option Desc := none
  v2 : Option Desc := none
  grad : Bool := false
deriving DecidableEq, Repr

def FlyOpds.opds (o : FlyOpds) : Opds := { descs := o.rows ++ (o.v1.toList ++ o.v2.toList).map (fun d => (d, o.grad)) }

def FlyOpds.row (o : FlyOpds) (i : Nat) : Desc := ((o.rows[i]?).map (·.1)).getD {}

/-- Features per row, the SIZE0 of R254; and the rows that the flyer walks, those of the first row tensor (R104). [DEDUCED, log 121] -/
def FlyOpds.n (o : FlyOpds) : Nat := (o.row 0).sz 0
def FlyOpds.nrows (o : FlyOpds) : Nat := (o.row 0).extent 1

/-- Operand rules of the flyer opcodes (R254). -/
def flyOpds (c : Cmd) (s : State) : Chk FlyOpds := do
  let op := cOp c
  let row (i : Nat) (dest : Bool) : Chk (Desc × Bool) := do
    let d ← checkRowTensor s dest (cD c i)
    return (d, dest)
  let o ←
    if op = 0x80 then do
      let a ← row 0 false
      let b ← row 1 true
      let g ← checkParamOpt s false (cD c 2)
      let t ← checkParamOpt s false (cD c 3)
      pure ({ rows := [a, b], v1 := g, v2 := t } : FlyOpds)
    else if op = 0x81 then do
      let a ← row 0 false
      let b ← row 1 false
      let x ← row 2 true
      let g ← checkParamOpt s false (cD c 3)
      pure { rows := [a, b, x], v1 := g }
    else if op = 0x82 then do
      let a ← row 0 false
      let b ← row 1 false
      let g ← checkParamVector s true (cD c 2)
      let t ← checkParamOpt s true (cD c 3)
      pure { rows := [a, b], v1 := some g, v2 := t, grad := true }
    else if op = 0x84 then do
      let a ← row 0 false
      let b ← row 1 true
      pure { rows := [a, b] }
    else if op = 0x85 then do
      let a ← row 0 false
      let b ← row 1 false
      let x ← row 2 true
      pure { rows := [a, b, x] }
    else pure {}
  match o.rows.find? (fun d => d.1.sz 0 ≠ o.n || d.1.sz 1 ≠ (o.row 0).sz 1) with
  | some d => throw { kind := kBAD_SHAPE, addr := d.1.addr }
  | none => return o

def flyCheck (i : Issued) (s : State) : Chk FlyOpds := do
  needCmd (flyFieldsOk i.cmd) i
  flyOpds i.cmd s

/-! ## Row arithmetic (R255) -/

/-- One level of the pairwise tree. -/
def pairUp : List Word → List Word
  | a :: b :: r => add32 a b :: pairUp r
  | l => l

/-- Reduce a chunk by `n` levels. -/
def treeSum : Nat → List Word → Word
  | 0, l => l.headD 0
  | n + 1, l => treeSum n (pairUp l)

/-- The sum of one chunk of 64, filled with +0. -/
def chunkSum (l : List Word) : Word := treeSum 6 ((List.range 64).map (fun i => l.getD i 0))

/-- rowsum (R255). -/
def rowsum (l : List Word) : Word := (chunks 64 l).foldl (fun t c => add32 t (chunkSum c)) 0

/-- round32 (w / n). -/
def divCount (w : Word) (n : Nat) : Word := divVal32 (val32 w) (Val.ofInt n)

/-- Elements of a row or vector as the arithmetic takes them: FP32 patterns. -/
abbrev FRow := List Word

def patterns (rs : List RdElem) : FRow := rs.map (·.fp32)

/-- Element-wise operation. -/
def zip32 (f : Word → Word → Word) (a b : FRow) : FRow := List.zipWith f a b

/-- μ and r of a row (R256). -/
def normStats (rms : Bool) (eps : Word) (x : FRow) : Word × Word :=
  let n := x.length
  let mu : Word := if rms then 0 else divCount (rowsum x) n
  let sq := x.map (fun v => round32 (let d := (val32 v).sub (val32 mu); d.mul d))
  let var := divCount (rowsum sq) n
  (mu, rsqrt32 (add32 var eps))

/-- Soft-maximum of a row given (m, s): round32 (exp32 (round32 (z − m)) / s) (R259). -/
def smaxRow (beta m t : Word) (x : FRow) : FRow := x.map (fun v => div32 (exp32 (sub32 (mul32 beta v) m)) t)

/-! ## Keys and records -/

def flyKey (c : Cmd) (kind row : Nat) : FKey := ⟨cCtx c, cStep c, kind, flyLayer c, (flyRowblk c + row / 256) % 65536, 0⟩

/-- What a flyer command gathers as it goes: its effect, records dropped, rows without a record (each with the first one's block). -/
structure FlyAcc where
  eff : Eff := {}
  dropped : Nat := 0
  dropBlk : Nat := 0
  missing : Nat := 0
  missBlk : Nat := 0
deriving DecidableEq, Repr

def FlyAcc.miss (a : FlyAcc) (blk : Nat) : FlyAcc :=
  { a with missing := a.missing + 1, missBlk := if a.missing = 0 then blk else a.missBlk }

/-- A record of block `blk` is written, or dropped (R251). -/
def FlyAcc.put (a : FlyAcc) (ok : Bool) (blk : Nat) : FlyAcc :=
  if ok then a else { a with dropped := a.dropped + 1, dropBlk := if a.dropped = 0 then blk else a.dropBlk }

/-- Write a record, with what it adds to the status (R251, R261). -/
def putRec (f : Nat) (k : FKey) (row : Nat) (r : FlyRec) (a : FlyAcc) (s : State) : FlyAcc × State :=
  let (s', ok) := flyWrite f k (row % 256) r s
  ({ a.put ok k.rowblk with
       eff := { a.eff with nonFin := a.eff.nonFin || nonFinite32 r.a || nonFinite32 r.b } }, s')

/-- Consume the poison of inputs that a committed result depends on. -/
def FlyAcc.consume (a : FlyAcc) (written : Bool) (rs : List RdElem) : FlyAcc :=
  if written then { a with eff := a.eff.consumeReads rs } else a

/-- Consume a poisoned record, which has no device address: the command's stands for it. -/
def FlyAcc.consumeRec (a : FlyAcc) (written p : Bool) (i : Issued) : FlyAcc :=
  if written && p then { a with eff := a.eff.consume i.addr.toNat } else a

/-- Add reads of a row. -/
def FlyAcc.reads (a : FlyAcc) (d : Desc) (rs : List RdElem) : FlyAcc := { a with eff := a.eff.reads d rs }

/-- Write row `r` of `d` with values and poison; the flag tells whether anything was committed. -/
def FlyAcc.writeRow (a : FlyAcc) (s : State) (d : Desc) (r : Nat) (vs : List (Word × Bool)) : FlyAcc × Bool :=
  let e := encodeRow s d 0 [r] (vs.map (fun v => (val32 v.1, v.2)))
  ({ a with eff := a.eff.encoded s d e }, !e.bits.isEmpty)

/-- Outputs of a row without a record: +0 marked with poison (R261). -/
def FlyAcc.writeMissing (a : FlyAcc) (s : State) (d : Desc) (r n blk : Nat) : FlyAcc :=
  ((a.miss blk).writeRow s d r (List.replicate n (0, true))).1

/-- The elements of an optional vector, `n` of them; an absent one gives `dflt`. -/
def vecRow (s : State) (d : Option Desc) (n : Nat) (dflt : Word) : FRow × List RdElem :=
  match d with
  | none => (List.replicate n dflt, [])
  | some d => let rs := (List.range n).map (fun j => readElem s d [j]); (patterns rs, rs)

def FlyAcc.readsOpt (a : FlyAcc) (d : Option Desc) (rs : List RdElem) : FlyAcc :=
  match d with | some d => a.reads d rs | none => a

/-- Poison of each element of a vector, none where it is absent. [DEDUCED, log 66] -/
def poisonOf (rs : List RdElem) (j : Nat) : Bool := match rs[j]? with | some r => r.poison | none => false

/-! ## The commands, row by row -/

/-- FLY_NORM_FWD (R256). [DEDUCED, log 66] -/
def normFwdRow (f : Nat) (i : Issued) (o : FlyOpds) (r : Nat) (acc : FlyAcc × State) : FlyAcc × State :=
  let c := i.cmd
  let s := acc.2
  let n := o.n
  let xr := readRow s (o.row 0) 0 n [r]
  let (g, gr) := vecRow s o.v1 n 0x3F800000
  let (b, br) := vecRow s o.v2 n 0
  let x := patterns xr
  let (mu, rr) := normStats (flyOpt c) (flyParam c) x
  let p := xr.any (·.poison)
  let y := (List.range n).map (fun j =>
    (fma32 (mul32 (sub32 (x.getD j 0) mu) rr) (g.getD j 0) (b.getD j 0), p || poisonOf gr j || poisonOf br j))
  let a1 := ((acc.1.reads (o.row 0) xr).readsOpt o.v1 gr).readsOpt o.v2 br
  let (a2, w) := a1.writeRow s (o.row 1) r y
  let a3 := ((a2.consume true xr).consume w gr).consume w br
  putRec f (flyKey c 2 r) r { a := mu, b := rr, poison := p } a3 s

/-- FLY_NORM_BWD (R257). [DEDUCED, log 66] -/
def normBwdRow (f : Nat) (i : Issued) (o : FlyOpds) (r : Nat) (acc : FlyAcc × State) : FlyAcc × State :=
  let c := i.cmd
  let n := o.n
  let k := flyKey c 2 r
  let (s, rec_) := flyRead f k (r % 256) acc.2
  let (g, gr) := vecRow s o.v1 n 0x3F800000
  let a0 := acc.1.readsOpt o.v1 gr
  match rec_ with
  | none => (a0.writeMissing s (o.row 2) r n k.rowblk, s)
  | some q =>
    let dyr := readRow s (o.row 0) 0 n [r]
    let xr := readRow s (o.row 1) 0 n [r]
    let xh := (patterns xr).map (fun v => mul32 (sub32 v q.a) q.b)
    let gg := zip32 mul32 (patterns dyr) g
    let av : Word := if flyOpt c then 0 else divCount (rowsum gg) n
    let bv := divCount (rowsum (zip32 mul32 gg xh)) n
    let p := q.poison || dyr.any (·.poison) || xr.any (·.poison) || gr.any (·.poison)
    let dx := (List.range n).map (fun j =>
      (mul32 q.b (sub32 (sub32 (gg.getD j 0) av) (mul32 (xh.getD j 0) bv)), p))
    let (a1, w) := ((a0.reads (o.row 0) dyr).reads (o.row 1) xr).writeRow s (o.row 2) r dx
    (((((a1.consume w dyr).consume w xr).consume w gr).consumeRec w q.poison i), s)

/-- Running sums of FLY_NORM_PGRAD: value and poison by feature. -/
structure PSums where
  g : List (Word × Bool) := []
  b : List (Word × Bool) := []
deriving DecidableEq, Repr

/-- One row of FLY_NORM_PGRAD (R257, R261). A poisoned element of feature `j` poisons both gradients of `j`, a poisoned record those
of every feature. -/
def pgradRow (f : Nat) (i : Issued) (o : FlyOpds) (r : Nat) (acc : FlyAcc × State × PSums) : FlyAcc × State × PSums :=
  let n := o.n
  let k := flyKey i.cmd 2 r
  let (s, rec_) := flyRead f k (r % 256) acc.2.1
  let sums := acc.2.2
  let dyr := readRow s (o.row 0) 0 n [r]
  let dy := patterns dyr
  let a0 := acc.1.reads (o.row 0) dyr
  let beta (p : Nat → Bool) : List (Word × Bool) := (List.range n).map (fun j =>
    let t := sums.b.getD j (0, false); (add32 t.1 (dy.getD j 0), t.2 || poisonOf dyr j || p j))
  match rec_ with
  | none =>
    (if o.v2.isSome then (a0.miss k.rowblk).consume true dyr else a0.miss k.rowblk, s,
     { g := sums.g.map (fun t => (t.1, true)), b := beta (fun _ => false) })
  | some q =>
    let xr := readRow s (o.row 1) 0 n [r]
    let x := patterns xr
    let g' := (List.range n).map (fun j =>
      let t := sums.g.getD j (0, false)
      (add32 t.1 (mul32 (dy.getD j 0) (mul32 (sub32 (x.getD j 0) q.a) q.b)),
       t.2 || q.poison || poisonOf dyr j || poisonOf xr j))
    ((((a0.reads (o.row 1) xr).consume true dyr).consume true xr).consumeRec true q.poison i, s,
     { g := g', b := beta (fun j => q.poison || poisonOf xr j) })

/-- FLY_NORM_PGRAD over the rows `rows`. -/
def pgradRun (f : Nat) (i : Issued) (o : FlyOpds) (rows : List Nat) (a : FlyAcc) (s : State) : FlyAcc × State :=
  let n := o.n
  let start (d : Option Desc) : List (Word × Bool) × List RdElem :=
    if flyAcc i.cmd then
      let (v, rs) := vecRow s d n 0
      ((List.range n).map (fun j => (v.getD j 0, poisonOf rs j)), rs)
    else (List.replicate n (0, false), [])
  let (g0, gr) := start o.v1
  let (b0, br) := start o.v2
  let a0 := (((a.readsOpt o.v1 gr).readsOpt o.v2 br).consume true gr).consume true br
  let (a1, s1, sums) := rows.foldl (fun acc r => pgradRow f i o r acc) (a0, s, ({ g := g0, b := b0 } : PSums))
  let put (d : Option Desc) (vs : List (Word × Bool)) (a : FlyAcc) : FlyAcc :=
    match d with
    | none => a
    | some d => { a with eff := a.eff.encoded s1 d (encodeRow s1 d 0 [] (vs.map (fun v => (val32 v.1, v.2)))) }
  (put o.v2 sums.b (put o.v1 sums.g a1), s1)

/-- FLY_SMAX_FWD (R259). -/
def smaxFwdRow (f : Nat) (i : Issued) (o : FlyOpds) (r : Nat) (acc : FlyAcc × State) : FlyAcc × State :=
  let c := i.cmd
  let n := o.n
  let beta := flyParam c
  let k := flyKey c 1 r
  if flyOpt c then
    let s := acc.2
    let xr := readRow s (o.row 0) 0 n [r]
    let x := patterns xr
    let z := x.map (fun v => mul32 beta v)
    let m := max32 z
    let t := rowsum (z.map (fun v => exp32 (sub32 v m)))
    let p := xr.any (·.poison)
    let (a1, _) := (acc.1.reads (o.row 0) xr).writeRow s (o.row 1) r ((smaxRow beta m t x).map (fun v => (v, p)))
    putRec f k r { a := m, b := t, poison := p } (a1.consume true xr) s
  else
    let (s, rec_) := flyRead f k (r % 256) acc.2
    match rec_ with
    | none => (acc.1.writeMissing s (o.row 1) r n k.rowblk, s)
    | some q =>
      let xr := readRow s (o.row 0) 0 n [r]
      let p := q.poison || xr.any (·.poison)
      let (a1, w) := (acc.1.reads (o.row 0) xr).writeRow s (o.row 1) r
        ((smaxRow beta q.a q.b (patterns xr)).map (fun v => (v, p)))
      ((a1.consume w xr).consumeRec w q.poison i, s)

/-- FLY_SMAX_BWD given P and its poison. -/
def smaxBwdOut (o : FlyOpds) (beta : Word) (r : Nat) (pv : FRow) (pp : Bool) (a : FlyAcc) (s : State) : FlyAcc × Bool :=
  let n := o.n
  let qr := readRow s (o.row 1) 0 n [r]
  let q := patterns qr
  let dot := rowsum (zip32 mul32 pv q)
  let p := pp || qr.any (·.poison)
  let dx := zip32 (fun x y => mul32 beta (mul32 x (sub32 y dot))) pv q
  let (a1, w) := (a.reads (o.row 1) qr).writeRow s (o.row 2) r (dx.map (fun v => (v, p)))
  (a1.consume w qr, w)

/-- FLY_SMAX_BWD (R259). -/
def smaxBwdRow (f : Nat) (i : Issued) (o : FlyOpds) (r : Nat) (acc : FlyAcc × State) : FlyAcc × State :=
  let c := i.cmd
  let n := o.n
  let beta := flyParam c
  if flyOpt c then
    let s := acc.2
    let xr := readRow s (o.row 0) 0 n [r]
    let (a1, w) := smaxBwdOut o beta r (patterns xr) (xr.any (·.poison)) (acc.1.reads (o.row 0) xr) s
    (a1.consume w xr, s)
  else
    let k := flyKey c 1 r
    let (s, rec_) := flyRead f k (r % 256) acc.2
    match rec_ with
    | none => (acc.1.writeMissing s (o.row 2) r n k.rowblk, s)
    | some q =>
      let xr := readRow s (o.row 0) 0 n [r]
      let (a1, w) := smaxBwdOut o beta r (smaxRow beta q.a q.b (patterns xr)) (q.poison || xr.any (·.poison))
        (acc.1.reads (o.row 0) xr) s
      ((a1.consume w xr).consumeRec w q.poison i, s)

/-- One row of the merge: its kind 0 partials with COLTILE below `ncte` (R258). -/
def mergeRow (f : Nat) (i : Issued) (ncte blk row : Nat) (acc : FlyAcc × State) : FlyAcc × State :=
  let c := i.cmd
  let part (t : Nat) : FKey := ⟨cCtx c, cStep c, 0, flyLayer c, blk, t⟩
  let (s, parts) := (List.range ncte).foldl (fun (a : State × List (Option FlyRec)) t =>
    let (s', r) := flyRead f (part t) row a.1; (s', a.2 ++ [r])) (acc.2, [])
  let have_ := parts.filterMap id
  let key : FKey := ⟨cCtx c, cStep c, 1, flyLayer c, blk, 0⟩
  if have_.isEmpty then (acc.1, s)
  else if have_.length < ncte then
    -- the rule gives this record no value
    let r : FlyRec := { a := BitVec.ofNat 32 (Config.freeNat s.free), b := BitVec.ofNat 32 (Config.freeNat (s.free + 1)),
                        poison := true }
    let (s', ok) := flyWrite f key row r s.bumpFree.bumpFree
    ((acc.1.miss blk).put ok blk, s')
  else
    let m := max32 (have_.map (·.a))
    let t := have_.foldl (fun t q => if q.a = 0xFF800000 then t else add32 t (mul32 q.b (exp32 (sub32 q.a m)))) 0
    let p := have_.any (·.poison)
    putRec f key row { a := m, b := t, poison := p } (acc.1.consumeRec true p i) s

/-- Column tiles merged (R258). [DESIGN CHOICE, log 65] -/
def mergeTiles (i : Issued) : Nat := if flyRunv i.cmd then min (flyNct i.cmd) (ceilDiv (runSize i) 256) else flyNct i.cmd

/-- FLY_SMAX_MERGE (R258). -/
def mergeRun (f : Nat) (i : Issued) (a : FlyAcc) (s : State) : FlyAcc × State :=
  let c := i.cmd
  let n := mergeTiles i
  (List.range (flyNrb c)).foldl (fun acc b =>
    let blk := (flyRowblk c + b) % 65536
    let mine (k : FKey) : Bool :=
      k.ctx = cCtx c && k.step = cStep c && k.kind = 0 && k.layer = flyLayer c && k.rowblk = blk && k.coltile < n
    let rows := if (acc.2.flyer f).dir.any (fun e => mine e.2.key) then List.range 256 else []
    let (a', s') := rows.foldl (fun acc r => mergeRow f i n blk r acc) acc
    (a', flyFree f mine s')) (a, s)

/-! ## The data phase -/

/-- Parity errors in side memory poison the record they strike (R261). -/
def strikeFly (f : Nat) (hs : List Hit) (s : State) : State :=
  hs.foldl (fun s h =>
    if h.src = srcFly f then
      let x := s.flyer f
      s.setFlyer f { x with dir := x.dir.map (fun e =>
        if e.2.line = some (h.at_ / 256) then
          (e.1, { e.2 with recs := e.2.recs.map (fun r =>
            if r.1 = h.at_ % 256 then (r.1, { r.2 with poison := true }) else r) })
        else e) }
    else s) s

/-- The rows of a flyer command, one after another: what they come to, and the statistics memory they leave. -/
def flyWork (i : Issued) (o : FlyOpds) (s : State) : FlyAcc × State :=
  let c := i.cmd
  let f := cTarget c
  let op := cOp c
  let rows := List.range (if flyRunv c then min o.nrows (runSize i) else o.nrows)
  let go (step : Nat → FlyAcc × State → FlyAcc × State) : FlyAcc × State :=
    rows.foldl (fun acc r => step r acc) ({}, s)
  if op = 0x80 then go (normFwdRow f i o)
  else if op = 0x81 then go (normBwdRow f i o)
  else if op = 0x82 then pgradRun f i o rows {} s
  else if op = 0x83 then mergeRun f i {} s
  else if op = 0x84 then go (smaxFwdRow f i o)
  else go (smaxBwdRow f i o)

/-- What a flyer command comes to, with its faults (R251, R261). -/
def flyEff (i : Issued) (o : FlyOpds) (a : FlyAcc) : Eff :=
  let c := i.cmd
  let miss := if 0 < a.missing then [statsMissing (flyLayer c) a.missBlk] else []
  let full := if 0 < a.dropped then [{ statsFull (flyLayer c) a.dropBlk with count := a.dropped }] else []
  { a.eff with secs := o.opds.sectors ++ a.eff.secs, faults := miss ++ full }

/-- Finish a flyer command: its counters and its report. -/
def finishFly (f : Nat) (i : Issued) (o : FlyOpds) (r : FlyAcc × State) : State :=
  let e := flyEff i o r.1
  finishCmd (48 + f) i e ((r.2.count (rFly f 0x1C) r.1.missing).count (rFly f 0x24) e.sat)

/-- The statistics that FLY_STATS_FREE names (R260). -/
def statsNamed (c : Cmd) (k : FKey) : Bool := k.ctx = cCtx c && k.step = cStep c && (flyOpt c || k.layer = flyLayer c)

def flyRun (hs : List Hit) (i : Issued) (o : FlyOpds) (s0 : State) : State :=
  let c := i.cmd
  let f := cTarget c
  let s := strikeFly f hs s0
  if cOp c ≠ 0x86 && flyRunv c && runSize i = 0 then refuseCmd (48 + f) i stEMPTY s0
  else if cOp c = 0x86 then finishCmd (48 + f) i {} (flyFree f (statsNamed c) s)
  else finishFly f i o (flyWork i o s)

/-- The command at the front of flyer `f`'s port has opcode `op`. -/
def flyCommand (op : Nat) (f : BitVec 2) (hs : List Hit) (s : State) : State :=
  withHits (48 + f.toNat) op hs (accept (48 + f.toNat) op flyCheck (fun _ _ _ => false) (flyRun hs)) (runFrees f.toNat s)

/-! ## The rows -/

/-- FLY_NORM_FWD at the front of flyer `f`'s port. -/
def execFlyNormFwd (f : BitVec 2) (hs : List Hit) (s : State) : Res := .next (flyCommand 0x80 f hs s)
/-- FLY_NORM_BWD at the front of flyer `f`'s port. -/
def execFlyNormBwd (f : BitVec 2) (hs : List Hit) (s : State) : Res := .next (flyCommand 0x81 f hs s)
/-- FLY_NORM_PGRAD at the front of flyer `f`'s port. -/
def execFlyNormPgrad (f : BitVec 2) (hs : List Hit) (s : State) : Res := .next (flyCommand 0x82 f hs s)
/-- FLY_SMAX_MERGE at the front of flyer `f`'s port. -/
def execFlySmaxMerge (f : BitVec 2) (hs : List Hit) (s : State) : Res := .next (flyCommand 0x83 f hs s)
/-- FLY_SMAX_FWD at the front of flyer `f`'s port. -/
def execFlySmaxFwd (f : BitVec 2) (hs : List Hit) (s : State) : Res := .next (flyCommand 0x84 f hs s)
/-- FLY_SMAX_BWD at the front of flyer `f`'s port. -/
def execFlySmaxBwd (f : BitVec 2) (hs : List Hit) (s : State) : Res := .next (flyCommand 0x85 f hs s)
/-- FLY_STATS_FREE at the front of flyer `f`'s port. -/
def execFlyStatsFree (f : BitVec 2) (s : State) : Res := .next (flyCommand 0x86 f [] s)

end Sys2Proof.Machine
end

