-- ==== Sys2Proof/Machine/PlyCore.lean ====
section
/-! DEFINITION. What the plying commands share (R296 to R311, R317): acceptance, messages, sending and outstanding counts,
completion, abandonment, blocks of a tensor. -/

namespace Sys2Proof.Machine

/-! ## Blocks of a tensor (R299) -/

def blockSize : Nat := 2048

/-- Blocks of a tensor of `e` elements. -/
def blockCount (e : Nat) : Nat := ceilDiv e blockSize

/-- The elements of block `b`: the first, and how many. -/
def blockElems (e b : Nat) : Nat × Nat := (b * blockSize, min blockSize (e - b * blockSize))

/-- Owned elements of rank `k`. -/
def ownedElems (shard e k : Nat) : Nat := min ((k + 1) * shard) e - k * shard

/-- Owned blocks of rank `k`: the first, and how many. -/
def ownedBlocks (shard e k : Nat) : Nat × Nat := (k * shard / blockSize, ceilDiv (ownedElems shard e k) blockSize)

def PlyCmd.ownB (c : PlyCmd) : List Nat :=
  let o := ownedBlocks c.shard c.elems c.rank
  (List.range o.2).map (o.1 + ·)

def PlyCmd.owns (c : PlyCmd) (b : Nat) : Bool :=
  let o := ownedBlocks c.shard c.elems c.rank
  o.1 ≤ b && b < o.1 + o.2

def PlyCmd.nblk (c : PlyCmd) : Nat := blockCount c.elems

/-- Owner of block `b`. -/
def PlyCmd.ownerOf (c : PlyCmd) (b : Nat) : Nat := b * blockSize / c.shard

/-- Elements a descriptor holds. -/
def Desc.count (d : Desc) : Nat := (d.dims.map d.extent).foldl (· * ·) 1

/-- Coordinate of element number `e`, dimension 0 fastest. -/
def Desc.coordOf (d : Desc) (e : Nat) : List Nat :=
  (d.dims.foldl (fun (acc : List Nat × Nat) i =>
    let n := max 1 (d.extent i)
    (acc.1 ++ [acc.2 % n], acc.2 / n)) ([], e)).1

/-! ## Messages (Table 10-4) -/

/-- Fields of a reduction message. [DEDUCED, log 74] -/
structure RMsg where
  type : Nat
  poison : Bool := false
  sat : Bool := false
  ovf : Bool := false
  csum : Bool := false
  rdid : Nat := 0
  tag : Word := 0
  src_ : Nat := 0
  step : Word := 0
  exp : BitVec 8 := 0
  optStep : Word := 0
  block : Nat := 0
  n : Nat := 0
  cs : Word := 0
  maxe : Nat := 0
  scale : Nat := 0
deriving DecidableEq, Repr

def tREDUCE : Nat := 0x10
def tPRE_UP : Nat := 0x11
def tPRE_DOWN : Nat := 0x12
def tSUM : Nat := 0x13
def tGATHER : Nat := 0x14
def tV_UP : Nat := 0x15
def tV_DOWN : Nat := 0x16

def RMsg.bytes (m : RMsg) (payload : List Byte) : List Byte :=
  header64 [(0, m.type), (1, b2n m.poison + 2 * b2n m.sat + 4 * b2n m.ovf + 8 * b2n m.csum), (2, m.rdid), (4, m.tag.toNat),
    (8, m.src_), (12, m.step.toNat), (16, m.exp.toNat), (20, m.optStep.toNat), (24, m.block), (28, m.n), (32, m.cs.toNat),
    (36, m.maxe), (37, m.scale)] ++ payload

def parseRMsg (l : List Byte) : RMsg :=
  let x := leNat (l.take 64)
  let f (o n : Nat) : Nat := bits x (8 * o) n
  { type := f 0 8, poison := nbit x 8, sat := nbit x 9, ovf := nbit x 10, csum := nbit x 11, rdid := f 2 16
    tag := BitVec.ofNat 32 (f 4 32), src_ := f 8 16, step := BitVec.ofNat 32 (f 12 32), exp := BitVec.ofNat 8 (f 16 8)
    optStep := BitVec.ofNat 32 (f 20 32), block := f 24 32, n := f 28 16, cs := BitVec.ofNat 32 (f 32 32), maxe := f 36 8
    scale := f 37 8 }

/-- Reserved fields are zero, the type is used, and the payload length agrees with N (R317). The length of a GATHER's payload
is its receiver's to judge. -/
def rmsgOk (l : List Byte) : Bool :=
  let x := leNat (l.take 64)
  let f (o lo n : Nat) : Nat := bits x (8 * o + lo) n
  let m := parseRMsg l
  let p := l.length - 64
  64 ≤ l.length && 0x10 ≤ m.type && m.type ≤ 0x16
  && f 1 4 4 = 0 && f 10 0 16 = 0 && f 17 0 24 = 0 && f 30 0 16 = 0 && f 38 0 208 = 0
  && (if m.type = tV_UP || m.type = tV_DOWN then p = 0
      else 1 ≤ m.n && m.n ≤ 2048 &&
        (if m.type = tGATHER then true else if m.type = tSUM then p = 4 * m.n else p = m.n))

/-- The fields every message of a command shares. [DEDUCED, log 74] -/
def PlyCmd.msg (c : PlyCmd) (type : Nat) : RMsg :=
  { type := type, rdid := c.rdid, tag := c.tag, src_ := c.rank, step := c.step, exp := c.exp, optStep := c.optStep }

/-! ## Active commands -/

def State.plyCmd (s : State) (id : Nat) : Option PlyCmd := s.ply.find? (fun c => c.is.id = id)

def State.setPly (s : State) (c : PlyCmd) : State :=
  { s with ply := s.ply.map (fun d => if d.is.id = c.is.id then c else d) }

/-- Change an active command. -/
def plyMod (id : Nat) (f : PlyCmd → PlyCmd) (s : State) : State :=
  match s.plyCmd id with
  | some c => s.setPly (f c)
  | none => s

/-- Does an operation wait on behalf of command `id`? -/
def WireOp.ownedBy (id : Nat) : WireOp → Bool
  | .send _ (some o) => o = id
  | _ => false

/-- Messages of a command that are not acknowledged. -/
def plyOutstanding (s : State) (id : Nat) : Nat :=
  (s.qps.map (fun q => (q.2.sq.filter (fun o => o.op.ownedBy id)).length)).foldl (· + ·) 0

/-- The first byte of a SEND. -/
def WireOp.msgType : WireOp → Nat
  | .send b _ => (b.getD 0 0).toNat
  | _ => 0

/-- Must this message of a command be acknowledged before the command completes? A reduction waits for its contributions, a verdict
for what its root sends; messages that a member only forwards are not waited for (R308, R312, R315, R316). -/
def PlyCmd.waitsFor (c : PlyCmd) (o : WireOp) : Bool :=
  o.ownedBy c.is.id &&
  (if cOp c.is.cmd = 0xA0 then o.msgType = tREDUCE
   else if cOp c.is.cmd = 0xA2 then c.rank = 0 && o.msgType = tV_DOWN
   else true)

/-- Is a message on its way whose acknowledgement the command waits for? -/
def plyUnackedOps (c : PlyCmd) (s : State) : Bool := s.qps.any (fun q => q.2.sq.any (fun o => c.waitsFor o.op))

/-- Is the queue pair held back: its port or class does not let it send, something still waits on it, or its peer has asked it to
wait (R306)? -/
def qpHeld (s : State) (n : Nat) : Bool :=
  let q := s.qp n
  !portUp s q.port || classPaused s q.port q.cls || q.rnrTries ≠ 0 || q.sq.any (fun o => !o.sent)

/-- A fault against an active command: its first is charged to it. -/
def plyFault (id : Nat) (f : Flt) (s : State) : State :=
  match s.plyCmd id with
  | some c =>
    if c.charged then faultPlain srcPly f s else (faultCharged srcPly f id s).setPly { c with charged := true }
  | none => s

/-- The group of an active command, as its entry stood at acceptance. -/
def PlyCmd.grp (c : PlyCmd) : Grp :=
  { tag := c.tag, size := c.size, rank := c.rank, ctx := cCtx c.is.cmd, valid := true, peers := c.peers }

/-- Take the outstanding messages of a command from their issuer; those not yet sent are discarded. -/
def disownOps (id : Nat) (s : State) : State :=
  { s with qps := s.qps.map (fun q => (q.1, { q.2 with
      sq := (q.2.sq.filter (fun o => o.sent || !o.op.ownedBy id)).map (fun o =>
        if o.op.ownedBy id then
          { o with op := match o.op with | .send b _ => .send b none | x => x }
        else o) })) }

/-- An active command ends with a report. -/
def plyEnd (c : PlyCmd) (st : Byte) (kind : Nat) (s : State) : State :=
  ({ s with ply := s.ply.filter (fun d => d.is.id ≠ c.is.id) }).addReport
    { is := c.is, unit := 52, status := st, errKind := kind, oobReads := min c.oobReads 4294967295,
      oobWrites := min c.oobWrites 4294967295, aux := BitVec.ofNat 32 (min (plyAux c s) 4294967295), charged := c.charged, ran := true
      lovf := c.overflow, lcsum := c.checksum }

/-- ERROR of kind ABANDONED (R15): what it found of overflow and checksum still reaches the verdict. [DEDUCED, log 28] [DEDUCED, log 55] [DEDUCED, log 73] -/
def plyAbandon (id : Nat) (s : State) : State :=
  match s.plyCmd id with
  | some c => disownOps id (plyEnd c stERROR kindABANDONED s)
  | none => s

/-- Is this one of the reduction messages that PLY[0]_TX_CNT counts? -/
def isReduction (bytes : List Byte) : Bool :=
  let t := (bytes.getD 0 0).toNat
  0x10 ≤ t && t ≤ 0x16

/-- The queue pair that reaches a rank, by the endpoint that the command read at acceptance; none where there is no path. A poisoned
entry names none. [DEDUCED, log 123] -/
def PlyCmd.route (c : PlyCmd) (s : State) (rank : Nat) : Option Nat :=
  match c.ends.getD rank (0, true) with
  | (_, true) => none
  | (e, false) => (resolveEndpoint s e).map (·.1)

/-- Send one message of a command; one without a path ends the command (R358). The flag: it was sent. -/
def plyPost (id : Nat) (c : PlyCmd) (m : Nat × List Byte) (s : State) : State × Bool :=
  match c.ends.getD m.1 (0, true) with
  | (e, true) => (plyAbandon id (noPath e s), false)
  | (e, false) =>
    let x := sendEnd e m.2 (some id) s
    if x.2 then
      (plyMod id (fun c => if cOp c.is.cmd = 0xA3 then { c with aux := c.aux + 1 } else c)
        (x.1.count (rPly 0x14) (b2n (isReduction m.2))), true)
    else (plyAbandon id x.1, false)

/-- Send waiting messages in order, while fewer than 4,096 are outstanding. A queue pair that is held back holds the messages to its
rank, `keep` being those met so far, and the engine goes on with the others (R306). -/
def plyPump (id : Nat) (keep : List (Nat × List Byte)) : List (Nat × List Byte) → State → State
  | [], s => plyMod id (fun c => { c with todo := keep }) s
  | m :: r, s =>
    match s.plyCmd id with
    | none => s
    | some c =>
      if 4096 ≤ plyOutstanding s id then s.setPly { c with todo := keep ++ m :: r }
      else if (match c.route s m.1 with | some n => qpHeld s n | none => false) then plyPump id (keep ++ [m]) r s
      else
        let x := plyPost id c m s
        if x.2 then plyPump id keep r x.1 else x.1

/-- Add messages behind those that wait, and send what may be sent. -/
def plySend (id : Nat) (ms : List (Nat × List Byte)) (s : State) : State :=
  match s.plyCmd id with
  | some c => plyPump id [] (c.todo ++ ms) s
  | none => s

/-! ## Completion -/

def isReduceOp (c : PlyCmd) : Bool := cOp c.is.cmd = 0xA0
def isGatherOp (c : PlyCmd) : Bool := cOp c.is.cmd = 0xA1
def isVerdictOp (c : PlyCmd) : Bool := cOp c.is.cmd = 0xA2

/-- Has a command done everything but wait for acknowledgements (R308, R312, R315, R316)? -/
def PlyCmd.workDone (c : PlyCmd) : Bool :=
  c.todo.isEmpty && c.own.isEmpty &&
  (if isReduceOp c then !c.pre && c.closed.length = c.ownB.length && (!c.allg || c.got.length = c.nblk)
   else if isGatherOp c then c.got.length = c.nblk
   else if isVerdictOp c then c.downIn
   else true)

/-- Complete a command whose work is done and whose own messages are acknowledged. -/
def plyTry (id : Nat) (s : State) : State :=
  match s.plyCmd id with
  | none => s
  | some c =>
    if c.workDone && !plyUnackedOps c s then
      let oob := c.oobReads + c.oobWrites
      let strict := cStrict c.is.cmd && 0 < oob
      let s1 := if strict then plyFault id { kind := kOOB_ACCESS, addr := c.oobAddr.getD 0, count := oob } s else s
      let (st, kind) := execStatus c.checksum (c.failed || strict) c.overflow c.poisoned
      plyEnd { c with charged := c.charged || strict } st kind s1
    else s

/-- Poison consumed by an active command at an address (R333): the first is reported. -/
def plyPoison (id a : Nat) (s : State) : State :=
  match s.plyCmd id with
  | some c =>
    if c.consumed then s
    else plyMod id (fun c => { c with poisoned := true, consumed := true }) (plyFault id { kind := kPOISON_CONSUMED, addr := a } s)
  | none => s

/-- Note the out-of-bounds elements of a set of reads, their sectors, and the first poisoned one. -/
def plyReads (id : Nat) (d : Desc) (rs : List RdElem) (s : State) : State :=
  let n := (rs.filter (·.oob)).length
  let s1 := touchReads srcPly 0 (rs.flatMap (·.secs)) s
  let s2 := plyMod id (fun c => { c with oobReads := c.oobReads + n,
                                         oobAddr := if c.oobAddr.isNone && 0 < n then some d.addr else c.oobAddr }) s1
  match rs.find? (·.poison) with
  | some r => plyPoison id r.pAddr s2
  | none => s2

/-- Store encoded elements of a command. -/
def plyStore (id : Nat) (d : Desc) (x : Encoded) (s : State) : State :=
  let s1 := touchReads srcPly 0 x.secs s
  let (s2, refused) := writeBytes srcPly 0 (toBytes s x.bits) s1
  let s3 := plyMod id (fun c => { c with
      oobWrites := c.oobWrites + x.oob
      oobAddr := if c.oobAddr.isNone && 0 < x.oob then some d.addr else c.oobAddr
      overflow := c.overflow || x.nonFin
      poisoned := c.poisoned || x.bits.any (·.poison)
      failed := c.failed || !refused.isEmpty }) s2
  match x.idxPoison with
  | some a => plyPoison id a s3
  | none => s3

/-- Poison consumed that has no device address: the message carries the command's own (R333). It came with a message's POISON flag, or
struck an accumulator (R310). [DEDUCED, log 124] -/
def plyPoisonHere (id : Nat) (b : Bool) (s : State) : State :=
  match s.plyCmd id with
  | some c => if b then plyPoison id c.is.addr.toNat s else s
  | none => s

/-- Store one byte of a table of the command. -/
def plyByte (id a v : Nat) (poison : Bool) (s : State) : State :=
  let (s1, refused) := writeBytes srcPly 0 [(a, { val := BitVec.ofNat 8 v, poison := poison })] s
  if refused.isEmpty then s1 else plyMod id (fun c => { c with failed := true }) s1

/-! ## Acceptance -/

/-- The command at the front of the plying port, if it is `op`'s turn: fewer than 4 commands are active (R301). PLY_BARRIER
waits for every earlier one (R316). -/
def plyFront (s : State) (op : Nat) : Option Issued :=
  let active := s.ply.length + (s.reports.filter (fun r => r.unit = 52 && r.ran)).length
  match s.port 52 with
  | [] => none
  | i :: _ =>
    if cOp i.cmd = op && !unitOff s vecPly && !s.rstBusy.getLsbD vecPly && active < 4 && (op ≠ 0xA3 || active = 0)
    then some i else none

/-- Accept under the parity errors of the step. -/
def acceptPly {α : Type} (op : Nat) (hs : List Hit) (check : Issued → State → Chk α) (run : Issued → α → State → State)
    (s : State) : State :=
  match plyFront s op with
  | none => s
  | some i => clearStruck (acceptCmd 52 check (fun _ _ _ => false) run i (noteHits perrReg hs s))

/-- How the plying opcodes use their operands (Table 10-2). -/
def plyForm (op : Nat) : OpForm :=
  if op = 0xA0 then { need := [0, 3], may := [1], immMask := 1 }
  else if op = 0xA1 then { need := [1, 3], may := [0] }
  else if op = 0xA2 then { immMask := immBits [(0, 8)] }
  else if op = 0xA3 then { may := [0], immMask := immBits [(0, 25)] }
  else if op = 0xA4 then { need := [0] }
  else { need := [0], immMask := immBits [(0, 16)] }

/-- The PHASE that Table 10-2 asks for. -/
def plyPhaseOk (c : Cmd) : Bool :=
  if cOp c = 0xA0 || cOp c = 0xA2 then cPhase c = 1 else if cOp c = 0xA1 then cPhase c = 2 else cPhase c ≠ phNone

/-- A group entry that is usable by context `ctx`; else the fault of R300 with the entry's address `a`. -/
def groupFor (ctx a : Nat) (x : Option Grp) : Chk Grp :=
  match x with
  | some e => if e.ctx = ctx then pure e else throw { kind := kPLY_PARAM, addr := a }
  | none => throw { kind := kPLY_PARAM, addr := a }

/-- The group a command names (R300): VALID, and of the command's context. -/
def plyGroup (s : State) (ctx g : Nat) : Chk Grp := do
  modify (fun l => l ++ sectorsOf (groupAddr s g) 64)
  groupFor ctx (groupAddr s g) (readGroup s g)

/-- A new active command of a group. -/
def newPly (i : Issued) (g : Nat) (e : Grp) (s : State) : PlyCmd :=
  let c := cCtx i.cmd
  { is := i, group := g, tag := e.tag, size := e.size, rank := e.rank, peers := e.peers, ends := readPeers s e, step := (s.ctx c).step
    exp := trnExpBits s c, optStep := (s.trn c).optStep, since := s.wall }

/-- Parity errors that strike accumulators of the active commands poison their blocks (R310). -/
def strikeAccs (hs : List Hit) (s : State) : State :=
  { s with ply := s.ply.zipIdx.map (fun e =>
      let mine := hs.filter (fun h => h.src = srcPly && h.part = e.2 && e.1.owns h.at_)
      { e.1 with blocks := mine.foldl (fun m h => mset m h.at_ { mget m h.at_ {} with poison := true }) e.1.blocks }) }

/-- A command is accepted: the group's entry, the peer array, the block and the descriptors are read, and it is active. -/
def startPly (secs : List Nat) (c : PlyCmd) (s : State) : State :=
  let s1 := unitReads srcPly (sectorsOf (groupAddr s c.group) 64 ++ peerSectors c.grp ++ secs) s
  { s1 with ply := s1.ply ++ [c] }

/-- The ranks 1 to G − 1 after this device's own, in the rotated order of R306. -/
def PlyCmd.others (c : PlyCmd) : List Nat := (List.range (c.size - 1)).map (fun i => (c.rank + i + 1) % c.size)

end Sys2Proof.Machine
end

