-- ==== Sys2Proof/Machine/Plying.lean ====
section
/-! DEFINITION. PLY_REDUCE (R302 to R310, R318): codes and agreed scales, the pre-round, contributions, closing a block, the
sum tree; and the receiving side of its messages. -/

namespace Sys2Proof.Machine

/-! ## Codes and scales (R302, R303, R309) -/

/-- Headroom of a class (R304). -/
def headroom (s : State) (c : Nat) : Nat :=
  bits (s.getReg (rPly (if c < 8 then 0x0C else 0x10))).toNat (4 * (c % 8)) 4

/-- The code of an element at block exponent `e`; −128 where it exceeds 127 or is not finite. -/
def plyCode (v : Val) (e : Int) : Int :=
  match v with
  | .fin n m x =>
    let p := dyadic m (x - e)
    let i := nearestInt n p.1 p.2
    if i.natAbs ≤ 127 then i else -128
  | _ => -128

/-- The block maximum byte of a block's elements. -/
def plyMaxe (vs : List Val) : Nat :=
  if vs.any (fun v => !v.isFinite) then 255
  else
    let m := blockAmax vs
    if m.isZero then 0 else (max 1 (min 254 (m.log2 + 127))).toNat

/-- CS of a list of codes or sums. -/
def plyChecksum (l : List Int) : Word :=
  BitVec.ofInt 32 (l.zipIdx.foldl (fun acc x => acc + (2 * x.2 + 1) * x.1) 0)

/-- The next relative exponent a' (R303); `neg`: a contribution carried code 0x80. -/
def plyNext (a : Int) (m : Nat) (neg : Bool) (h : Nat) (exp : Int) : Int :=
  let r : Int := if neg || m = 255 then a + 2 else if m = 0 then a else (m - 127) - 6 + h - exp
  max (-127) (min 127 r)

/-- Block `b`'s scale exponent e = a + EXP. -/
def plyExp (s : State) (c : PlyCmd) (b : Nat) : Int := (rdByte s (c.scale + b)).val.toNat - 128 + signed 8 c.exp.toNat

/-- The elements of block `b` of D0. -/
def plyBlock (s : State) (c : PlyCmd) (d : Desc) (b : Nat) : List RdElem :=
  let (e0, n) := blockElems c.elems b
  (List.range n).map (fun i => readElem s d (d.coordOf (e0 + i)))

/-- Encode block `b`: a poisoned element is code 0 and takes no part in MAXE; a poisoned scale byte poisons the block. [DEDUCED, log 70] -/
def plyEncode (s : State) (c : PlyCmd) (b : Nat) (rs : List RdElem) : Contrib :=
  let e := plyExp s c b
  let codes := rs.map (fun r => if r.poison then 0 else plyCode r.val e)
  { block := b, codes := codes, cs := plyChecksum codes
    maxe := plyMaxe ((rs.filter (fun r => !r.poison)).map (·.val)), sat := codes.contains (-128)
    poison := rs.any (·.poison) || (rdByte s (c.scale + b)).poison }

/-- Codes 0x80 of a contribution. -/
def Contrib.sats (x : Contrib) : Nat := (x.codes.filter (· = -128)).length

/-- Codes as bytes. -/
def codeBytes (l : List Int) : List Byte := l.map (BitVec.ofInt 8)

/-! ## Contributions and closing (R308 to R310) -/

/-- Store the sums of a block into D1, element `e` at coordinate number `e − base`. -/
def plyStoreSums (id : Nat) (c : PlyCmd) (b base : Nat) (sums : List Int) (poison : Bool) (s : State) : State :=
  match c.d1 with
  | none => s
  | some d =>
    let e := plyExp s c b
    let e0 := b * blockSize - base
    let x := sums.zipIdx.foldl (fun (acc : Encoded) v =>
      acc.append (encodeElem s d (d.coordOf (e0 + v.2)) (.fin (decide (v.1 < 0)) v.1.natAbs e) poison)) {}
    plyStore id d x s

/-- The SUM messages of a block down the radix-16 tree rooted at its owner. -/
def plySumDown (id : Nat) (c : PlyCmd) (b : Nat) (sums : List Int) (q : Nat) (poison : Bool) (s : State) : State :=
  let o := c.ownerOf b
  let p := (c.rank + c.size - o) % c.size
  let kids := ((List.range 16).map (fun i => 16 * p + 1 + i)).filter (· < c.size)
  let m : RMsg := { c.msg tSUM with block := b, n := sums.length, scale := q, poison := poison }
  let bytes := m.bytes (sums.flatMap (fun v => leBytes 4 (unsigned 32 v)))
  plySend id (kids.map (fun k => ((o + k) % c.size, bytes))) s

/-- The checksum record of a block (Table 10-6). -/
def csumRecord (c : PlyCmd) (b : Nat) (x : OpenBlk) (ok : Bool) : List Byte :=
  leBytes 2 c.rdid ++ leBytes 4 b ++ leBytes 4 x.k.toNat ++ leBytes 4 x.count
    ++ [BitVec.ofNat 8 (b2n ok + 2 * b2n x.sat + 4 * b2n x.poison), 0]

/-- The first owned block. -/
def PlyCmd.firstB (c : PlyCmd) : Nat := (ownedBlocks c.shard c.elems c.rank).1

/-- An owned block has received its G-th contribution (R308). -/
def plyClose (id b : Nat) (s : State) : State :=
  match s.plyCmd id with
  | none => s
  | some c =>
    let x := mget c.blocks b {}
    let ctx := cCtx c.is.cmd
    let ok := x.k = plyChecksum x.sums
    let s0 := s.setPly { c with
      blocks := mdel c.blocks b, closed := mset c.closed b true, checksum := c.checksum || !ok
      overflow := c.overflow || x.sat, poisoned := c.poisoned || x.poison
      got := if c.allg then mset c.got b true else c.got }
    let s1 := if ok then s0
      else (plyFault id { kind := kPLY_CHECKSUM, addr := c.rdid + b % 2 ^ 32 * 2 ^ 16, param := true } s0).count (rPly 0x24) 1
    let y := touchReads srcPly 0 (sectorsOf (c.scale + b) 1) (plyPoisonHere id x.poison s1)
    let a : Int := (rdByte s1 (c.scale + b)).val.toNat - 128
    let q := (plyNext a x.maxe x.neg (headroom s c.hclass) (signed 8 c.exp.toNat) + 128).toNat
    let s2 := plyByte id (c.next + (b - c.firstB)) q false y
    let s3 := plyStoreSums id c b (if c.allg then 0 else c.rank * c.shard) x.sums x.poison s2
    let rec_ := csumRecord c b x ok
    let s4 := replayCsum ctx c.is.addr.toNat (leNat rec_) (jrnAppend ctx 3 (mark false rec_) s3)
    if c.allg then plySumDown id c b x.sums q x.poison (plyByte id (c.scale + b) q false s4) else s4

/-- Add a contribution to an owned block; the G-th closes it. -/
def plyContribute (id : Nat) (x : Contrib) (src_ : Nat) (s : State) : State :=
  match s.plyCmd id with
  | none => s
  | some c =>
    let o := mget c.blocks x.block {}
    let sums := if o.sums.isEmpty then x.codes else List.zipWith (· + ·) o.sums x.codes
    let o' : OpenBlk := { sums := sums, k := o.k + x.cs, count := o.count + 1, maxe := max o.maxe x.maxe, sat := o.sat || x.sat
                          poison := o.poison || x.poison, heard := o.heard ++ [src_]
                          neg := o.neg || decide (0 < x.sats) }
    let s1 := s.setPly { c with blocks := mset c.blocks x.block o' }
    if o'.count = c.size then plyClose id x.block s1 else s1

/-- L: the lowest owned block not yet closed. -/
def PlyCmd.lowest (c : PlyCmd) : Option Nat := c.ownB.find? (fun b => !mget c.closed b false)

/-- Is the block within the accumulator window (R307)? -/
def PlyCmd.inWindow (c : PlyCmd) (b : Nat) : Bool :=
  match c.lowest with | some l => b < l + 256 | none => false

/-- Add the own contributions that the window admits, in order. -/
def plyOwn (id : Nat) : List Contrib → State → State
  | [], s => plyMod id (fun c => { c with own := [] }) s
  | x :: r, s =>
    match s.plyCmd id with
    | none => s
    | some c =>
      if c.inWindow x.block then plyOwn id r (plyContribute id x c.rank s) else s.setPly { c with own := x :: r }

/-- Go on with a reduction: own contributions, waiting messages, completion. -/
def plyAdvance (id : Nat) (s : State) : State :=
  let s1 := match s.plyCmd id with | some c => plyOwn id c.own s | none => s
  plyTry id (plySend id [] s1)

/-! ## The main round (R306, R318) -/

/-- The scale records of the tensor (Table 10-6). -/
def plyScaleRecords (c : PlyCmd) (s : State) : State :=
  (List.range (ceilDiv c.nblk 8)).foldl (fun s i =>
    let b := 8 * i
    let n := min 8 (c.nblk - b)
    let q := (List.range n).map (fun j => (rdByte s (c.scale + b + j)).val)
    let rec_ := leBytes 2 c.rdid ++ leBytes 4 b ++ leBytes 2 n ++ q ++ List.replicate (8 - n) (0 : Byte)
    jrnAppend (cCtx c.is.cmd) 2 (mark false rec_) s) s

/-- Read and encode every block, note what the sender finds, queue the messages in rounds, and go on. -/
def plyMain (id : Nat) (s : State) : State :=
  match s.plyCmd id, (s.plyCmd id).bind (·.d0) with
  | some c, some d =>
    let all := (List.range c.nblk).map (fun b => let rs := plyBlock s c d b; (rs, plyEncode s c b rs))
    let badScale := (List.range c.nblk).find? (fun b => (rdByte s (c.scale + b)).poison)
    let sats := (all.map (fun x => x.2.sats)).foldl (· + ·) 0
    let s1 := plyReads id d (all.flatMap (·.1)) (touchReads srcPly 0 (sectorsOf c.scale c.nblk) s)
    let s2 := match badScale with | some b => plyPoison id (c.scale + b) s1 | none => s1
    let s3 := (plyScaleRecords c s2).count (rPly 0x20) sats
    let msg (x : Contrib) : List Byte :=
      ({ c.msg tREDUCE with block := x.block, n := x.codes.length, cs := x.cs, maxe := x.maxe, sat := x.sat,
                            poison := x.poison } : RMsg).bytes (codeBytes x.codes)
    let get (b : Nat) : Option Contrib := (all.map (·.2)).find? (fun x => x.block = b)
    let todo := (List.range (c.shard / blockSize)).flatMap (fun j => c.others.filterMap (fun o =>
      let (b0, n) := ownedBlocks c.shard c.elems o
      if j < n then (get (b0 + j)).map (fun x => (o, msg x)) else none))
    let s4 := plyMod id (fun c => { c with
      pre := false, own := c.ownB.filterMap get, todo := todo, aux := c.aux + sats, overflow := c.overflow || decide (0 < sats) }) s3
    plyAdvance id s4
  | _, _ => s

/-! ## The pre-round (R305) -/

/-- Runs of up to 2,048 blocks of an owner: first block and count. -/
def blockRuns (b0 n : Nat) : List (Nat × Nat) :=
  (List.range (ceilDiv n 2048)).map (fun i => (b0 + 2048 * i, min 2048 (n - 2048 * i)))

/-- Every block that others own has its agreed byte, and the owner's part is done: the reduction proceeds. -/
def plyPreCheck (id : Nat) (s : State) : State :=
  match s.plyCmd id with
  | some c => if c.pre && c.preOwn && c.preDown.length = c.nblk - c.ownB.length then plyMain id s else s
  | none => s

/-- The owner has heard from every member: it agrees the bytes of its blocks and sends them out. -/
def plyPreOwner (id : Nat) (s : State) : State :=
  match s.plyCmd id with
  | none => s
  | some c =>
    if !c.preOwn && c.ownB.all (fun b => (mget c.preUp b (0, [])).2.length = c.size) then
      let byte (b : Nat) : Nat :=
        (plyNext 0 (mget c.preUp b (0, [])).1 false (headroom s c.hclass) (signed 8 c.exp.toNat) + 128).toNat
      let bad (b : Nat) : Bool := mget c.preBad b false
      let s1 := c.ownB.foldl (fun s b =>
        plyByte id (c.scale + b) (byte b) (bad b) (plyByte id (c.next + (b - c.firstB)) (byte b) (bad b) s)) s
      let s2 := plyMod id (fun c => { c with preOwn := true }) s1
      let (b0, n) := ownedBlocks c.shard c.elems c.rank
      let msgs := c.others.flatMap (fun o => (blockRuns b0 n).map (fun r =>
        (o, ({ c.msg tPRE_DOWN with block := r.1, n := r.2, poison := (List.range r.2).any (fun i => bad (r.1 + i)) } : RMsg).bytes
          ((List.range r.2).map (fun i => BitVec.ofNat 8 (byte (r.1 + i)))))))
      plyPreCheck id (plySend id msgs s2)
    else plyPreCheck id s

/-- Start a pre-round. -/
def plyPreStart (id : Nat) (s : State) : State :=
  match s.plyCmd id, (s.plyCmd id).bind (·.d0) with
  | some c, some d =>
    let all := (List.range c.nblk).map (fun b => plyBlock s c d b)
    let mx := all.map (fun rs => plyMaxe ((rs.filter (fun r => !r.poison)).map (·.val)))
    let s1 := (touchReads srcPly 0 ((all.flatMap id_).flatMap (·.secs)) s).count (rPly 0x2C) 1
    let s2 := plyMod id (fun c => { c with
      pre := true, preUp := c.ownB.foldl (fun m b => mset m b (mx.getD b 0, [c.rank])) [] }) s1
    let msgs := c.others.flatMap (fun o =>
      let (b0, n) := ownedBlocks c.shard c.elems o
      (blockRuns b0 n).map (fun r =>
        (o, ({ c.msg tPRE_UP with block := r.1, n := r.2 } : RMsg).bytes
          ((List.range r.2).map (fun i => BitVec.ofNat 8 (mx.getD (r.1 + i) 0))))))
    plyPreOwner id (plySend id msgs s2)
  | _, _ => s
where id_ (l : List RdElem) : List RdElem := l

/-! ## Acceptance (R299, R300) -/

/-- The fields of a reduction block. -/
structure RBlock where
  scale : Nat
  rdid : Nat
  next : Nat
  group : Nat
  hclass : Nat
  elems : Nat
  shard : Nat
deriving DecidableEq, Repr

def parseRBlock (x : Nat) : RBlock :=
  { scale := wordBits x 0 0 48, rdid := wordBits x 0 48 16, next := wordBits x 1 0 48, group := wordBits x 1 48 8
    hclass := wordBits x 1 56 4, elems := wordBits x 2 0 40, shard := wordBits x 3 0 32 }

def rblockReservedOk (x : Nat) : Bool :=
  wordBits x 1 60 4 = 0 && wordBits x 2 40 24 = 0 && wordBits x 3 32 32 = 0 && bits x 256 256 = 0

/-- A descriptor that may be absent. -/
def optDesc (s : State) (dest : Bool) (ref : Nat) : Chk (Option Desc) :=
  if ref = 0 then pure none else do
    let d ← checkDesc s dest ref
    return some d

/-- Does an operand that may be absent hold `n` elements (where that is known) in a layout that `fmt` takes? -/
def holdsElems (d : Option Desc) (n : Option Nat) (fmt : Desc → Bool) : Bool :=
  match d, n with
  | some d, some n => n ≠ 0 && d.count = n && fmt d
  | some d, none => fmt d
  | none, some n => n = 0
  | none, none => true

/-- The operand of PLY_REDUCE or PLY_GATHER that breaks R300, for a tensor of `e` elements of which the rank owns `own`. -/
def blockOpdFails (c : Cmd) (e own : Option Nat) (d0 d1 : Option Desc) : Option Nat :=
  let allg := cOp c = 0xA0 && imm c 0 1 = 1
  let grad (d : Desc) : Bool := (d.fmt = fFP32 || d.fmt = fBF16 || d.fmt = fFP16) && d.ply = 0
  let shard (d : Desc) : Bool := (d.fmt = fFP32 || d.fmt = fBF16) && d.ply = 0
  let same (d : Desc) : Bool := match d1 with | some y => d.fmt = y.fmt && d.ply = y.ply | none => false
  if cOp c = 0xA0 then
    if !holdsElems d0 e grad then some 0 else if !holdsElems d1 (if allg then e else own) shard then some 1 else none
  else if !holdsElems d1 e (fun _ => true) then some 1 else if !holdsElems d0 own same then some 0 else none

/-- PLY_PARAM for an operand, or for the block where the operand is absent. -/
def opdFault (c : Cmd) (i : Nat) : Flt := { kind := kPLY_PARAM, addr := if cD c i = 0 then cD c 3 else cD c i }

/-- The checks of PLY_REDUCE and PLY_GATHER. [DEDUCED, log 26] -/
def blockOpCheck (i : Issued) (s : State) : Chk PlyCmd := do
  let c := i.cmd
  let allg := cOp c = 0xA0 && imm c 0 1 = 1
  needCmd (plyPhaseOk c && (!allg || cD c 1 ≠ 0)) i
  let ref := cD c 3
  let x ← readBlock s ref 64
  let b := parseRBlock x
  let d0 ← optDesc s false (cD c 0)
  let d1 ← optDesc s true (cD c 1)
  require (rblockReservedOk x && 1 ≤ b.elems && b.shard ≠ 0 && b.shard % blockSize = 0) kPLY_PARAM ref
  let e ← plyGroup s (cCtx c) b.group
  require (b.elems ≤ e.size * b.shard) kPLY_PARAM ref
  let own := ownedElems b.shard b.elems e.rank
  match blockOpdFails c (some b.elems) (some own) d0 d1 with
  | some i => throw (opdFault c i)
  | none => pure ()
  require (inOneSkein b.scale (blockCount b.elems) && inOneSkein b.next (ceilDiv own blockSize)) kPLY_PARAM ref
  return { newPly i b.group e s with
    rdid := b.rdid, scale := b.scale, next := b.next, hclass := b.hclass, elems := b.elems, shard := b.shard
    allg := allg, d0 := d0, d1 := d1 }

/-- Sectors of the block and the descriptors. -/
def blockOpSectors (c : PlyCmd) : List Nat :=
  sectorsOf (cD c.is.cmd 3) 64 ++ c.d0.toList.flatMap descSectors ++ c.d1.toList.flatMap descSectors

/-- Has a block of the tensor no agreed scale yet (R305)? -/
def freshScale (c : PlyCmd) (s : State) : Bool :=
  (List.range c.nblk).any (fun b => (rdByte s (c.scale + b)).val = 0 && !(rdByte s (c.scale + b)).err)

def reduceRun (hs : List Hit) (i : Issued) (c : PlyCmd) (s : State) : State :=
  let s1 := strikeAccs hs (startPly (blockOpSectors c) c s)
  if freshScale c s then plyPreStart i.id s1 else plyMain i.id s1

/-- PLY_REDUCE at the front of the plying port. -/
def execPlyReduce (hs : List Hit) (s : State) : Res := .next (acceptPly 0xA0 hs blockOpCheck (reduceRun hs) s)

/-! ## Its messages arrive (R305, R307, R310) -/

/-- What the engine makes of a message. -/
inductive PlyAns where
  | ack
  | rnr
  | stray
deriving DecidableEq, Repr

/-- The sender's EXP and OPT_STEP differ from this device's own (R310): reported once for each such sender. [DEDUCED, log 73] -/
def plyScales (id : Nat) (m : RMsg) (s : State) : State :=
  match s.plyCmd id with
  | none => s
  | some c =>
    if (m.exp = c.exp && m.optStep = c.optStep) || c.lsFrom.contains m.src_ then s
    else plyMod id (fun c => { c with lsFrom := c.lsFrom ++ [m.src_], checksum := true })
      (plyFault id { kind := kLS_MISMATCH, addr := cCtx c.is.cmd + m.src_ * 2 ^ 12, param := true } s)

/-- A message of type 0x10 to 0x13 for the active reduction `c`. -/
def reduceMsg (c : PlyCmd) (m : RMsg) (pay : List Byte) (s : State) : State × PlyAns :=
  let id := c.is.id
  let bl := (List.range m.n).map (m.block + ·)
  if m.type = tPRE_UP then
    if c.pre && bl.all (fun b => c.owns b && !(mget c.preUp b (0, [])).2.contains m.src_) then
      let s1 := plyScales id m s
      let s2 := plyMod id (fun c => { c with
        preUp := bl.zipIdx.foldl (fun u b =>
          let v := mget u b.1 (0, [])
          mset u b.1 (max v.1 (pay.getD b.2 0).toNat, v.2 ++ [m.src_])) c.preUp
        preBad := if m.poison then bl.foldl (fun u b => mset u b true) c.preBad else c.preBad }) (plyPoisonHere id m.poison s1)
      (plyPreOwner id s2, .ack)
    else (s, .stray)
  else if m.type = tPRE_DOWN then
    if c.pre && bl.all (fun b => b < c.nblk && c.ownerOf b = m.src_ && !mget c.preDown b false) then
      let s1 := bl.zipIdx.foldl (fun s b => plyByte id (c.scale + b.1) (pay.getD b.2 0).toNat m.poison s)
        (plyPoisonHere id m.poison s)
      let s2 := plyMod id (fun c => { c with preDown := bl.foldl (fun u b => mset u b true) c.preDown }) s1
      (plyPreCheck id s2, .ack)
    else (s, .stray)
  else if m.type = tREDUCE then
    let b := m.block
    if !c.owns b || mget c.closed b false || m.n ≠ (blockElems c.elems b).2 || (mget c.blocks b {}).heard.contains m.src_ then
      (s, .stray)
    else if !c.inWindow b then (s, .rnr)
    else
      let codes := pay.map (fun x => signed 8 x.toNat)
      let x : Contrib := { block := b, codes := codes, cs := m.cs, maxe := m.maxe, sat := m.sat, poison := m.poison }
      let s1 := plyPoisonHere id m.poison
        (plyMod id (fun c => { c with aux := c.aux + x.sats, overflow := c.overflow || m.sat }) (plyScales id m s))
      (plyAdvance id (plyContribute id x m.src_ s1), .ack)
  else
    let b := m.block
    let o := c.ownerOf b
    let p := (c.rank + c.size - o) % c.size
    if c.nblk ≤ b || mget c.got b false || p = 0 || m.src_ ≠ (o + (p - 1) / 16) % c.size
        || m.n ≠ (blockElems c.elems b).2 then (s, .stray)
    else
      let sums := (chunks 4 pay).map (fun x => signed 32 (leNat x))
      let s1 := plyStoreSums id c b 0 sums m.poison
        (touchReads srcPly 0 (sectorsOf (c.scale + b) 1) (plyPoisonHere id m.poison s))
      let s2 := plyMod id (fun c => { c with got := mset c.got b true, poisoned := c.poisoned || m.poison }) s1
      let s3 := plySumDown id c b sums m.scale m.poison (plyByte id (c.scale + b) m.scale false s2)
      (plyAdvance id s3, .ack)

end Sys2Proof.Machine
end

