-- ==== Sys2Proof/Machine/PlyColl.lean ====
section
/-! DEFINITION. PLY_GATHER, PLY_VERDICT, PLY_BARRIER, the factor commands and the watch (R311 to R316), the routing of arriving
reduction messages (R307, R309), and what a reset of the engine does (R322). -/

namespace Sys2Proof.Machine

/-! ## PLY_GATHER (R315) -/

/-- The bytes of a block in a descriptor's layout, whole plies: codes, and the scale code of each ply. -/
def packBlock (d : Desc) (codes scales : List Nat) : List Byte :=
  let pack (l : List Nat) : List Byte :=
    leBytes (ceilDiv (l.length * d.w) 8) (l.zipIdx.foldl (fun acc x => acc + x.1 * 2 ^ (d.w * x.2)) 0)
  if d.ply = 0 then pack codes
  else (chunks (plyLen d.ply) codes).zipIdx.flatMap (fun p => BitVec.ofNat 8 (scales.getD p.2 0) :: pack p.1)

/-- Bytes a block of `n` elements takes. -/
def packedBytes (d : Desc) (n : Nat) : Nat :=
  if d.ply = 0 then ceilDiv (n * d.w) 8 else ceilDiv n (plyLen d.ply) * plyBytes d.ply d.w

/-- Code of element `i` of a packed block, and the scale code of its ply. -/
def packedElem (d : Desc) (l : List Byte) (i : Nat) : Nat × Nat :=
  let x := leNat l
  if d.ply = 0 then (bits x (i * d.w) d.w, 0)
  else
    let p := 8 * (i / plyLen d.ply * plyBytes d.ply d.w)
    (bits x (p + 8 + i % plyLen d.ply * d.w) d.w, bits x p 8)

/-- Write a block's bytes to D1 and its byte to the scale table; `badQ`: the byte itself is poisoned. [DEDUCED, log 72] -/
def gatherStore (id : Nat) (c : PlyCmd) (b : Nat) (pay : List Byte) (q : Nat) (poison badQ : Bool) (s : State) : State :=
  match c.d1 with
  | none => s
  | some d =>
    let (e0, n) := blockElems c.elems b
    let x := (List.range n).foldl (fun (acc : Encoded) i =>
      let (code, sc) := packedElem d pay i
      let cs := d.coordOf (e0 + i)
      let a1 := acc.append (storeCode s d cs code poison)
      if d.ply ≠ 0 && i % plyLen d.ply = 0 then a1.append (storeScale s d cs sc poison) else a1) {}
    plyMod id (fun c => { c with got := mset c.got b true }) (plyByte id (c.scale + b) q badQ (plyStore id d x s))

/-- The codes and scales of owned block `b` of D0. -/
def gatherReads (s : State) (c : PlyCmd) (d : Desc) (b : Nat) : List RdElem × List RdElem :=
  let (e0, n) := blockElems c.elems b
  let cs := (List.range n).map (fun i => d.coordOf (e0 + i - c.rank * c.shard))
  (cs.map (readCode s d),
   if d.ply = 0 then [] else (cs.zipIdx.filter (fun x => x.2 % plyLen d.ply = 0)).map (fun x => readScaleElem s d x.1))

/-- An owned block as PLY_GATHER sends it: its codes and scales, its bytes, the address of its NEXT byte and that byte, whether the
block is poisoned, and whether a parity error struck it. -/
structure OwnBlock where
  b : Nat
  codes : List RdElem
  scales : List RdElem
  bytes : List Byte
  qAddr : Nat
  q : RByte
  bad : Bool
  struck : Bool
deriving DecidableEq, Repr

def ownBlock (hs : List Hit) (c : PlyCmd) (d : Desc) (s : State) (b : Nat) : OwnBlock :=
  let (cs, sc) : List RdElem × List RdElem := gatherReads s c d b
  let qa := c.next + (b - c.firstB)
  let hit := hs.any (fun h => h.src = srcPly && h.at_ = b)
  { b := b, codes := cs, scales := sc, bytes := packBlock d (cs.map RdElem.code) (sc.map RdElem.code), qAddr := qa, q := rdByte s qa
    bad := cs.any RdElem.poison || sc.any RdElem.poison || hit, struck := hit }

/-- The owner reads one of its blocks and copies it. -/
def gatherOwn (id : Nat) (c : PlyCmd) (d : Desc) (x : OwnBlock) (s : State) : State :=
  let s1 := plyReads id d (x.codes ++ x.scales) (touchReads srcPly 0 (sectorsOf x.qAddr 1) s)
  let s2 := if x.q.poison then plyPoison id x.qAddr s1 else s1
  gatherStore id c x.b x.bytes x.q.val.toNat x.bad x.q.poison (plyPoisonHere id x.struck s2)

def gatherRun (hs : List Hit) (i : Issued) (c : PlyCmd) (s : State) : State :=
  let id := i.id
  let d := c.d0.getD {}
  let bl := c.ownB.map (ownBlock hs c d s)
  let s1 := bl.foldl (fun s x => gatherOwn id c d x s) (startPly (blockOpSectors c) c s)
  let msgs := bl.flatMap (fun x => c.others.map (fun o =>
    (o, ({ c.msg tGATHER with block := x.b, n := x.codes.length, scale := x.q.val.toNat, poison := x.bad || x.q.poison } : RMsg).bytes
      x.bytes)))
  plyTry id (plySend id msgs s1)

/-- PLY_GATHER at the front of the plying port. -/
def execPlyGather (hs : List Hit) (s : State) : Res := .next (acceptPly 0xA1 hs blockOpCheck (gatherRun hs) s)

/-- A GATHER message for the active command `c`. -/
def gatherMsg (c : PlyCmd) (m : RMsg) (pay : List Byte) (s : State) : State × PlyAns :=
  let b := m.block
  let n := (blockElems c.elems b).2
  if c.nblk ≤ b || mget c.got b false || m.src_ ≠ c.ownerOf b || m.n ≠ n || pay.length ≠ packedBytes (c.d1.getD {}) n then
    (s, .stray)
  else (plyTry c.is.id (gatherStore c.is.id c b pay m.scale m.poison false (plyPoisonHere c.is.id m.poison s)), .ack)

/-! ## PLY_VERDICT (R312, R273) -/

/-- Children of rank `k` in the radix-16 tree. -/
def verdictKids (size k : Nat) : List Nat := ((List.range 16).map (fun i => 16 * k + 1 + i)).filter (· < size)

/-- The group verdict is in: set the group bits, send it down, complete. -/
def verdictDown (id : Nat) (ovf csum : Bool) (s : State) : State :=
  match s.plyCmd id with
  | none => s
  | some c =>
    let s1 := orVerdict (cCtx c.is.cmd) (BitVec.ofNat 6 (4 * b2n ovf + 8 * b2n csum)) s
    let m : RMsg := { c.msg tV_DOWN with ovf := ovf, csum := csum }
    plyTry id (plySend id ((verdictKids c.size c.rank).map (fun k => (k, m.bytes [])))
      (plyMod id (fun c => { c with downIn := true }) s1))

/-- Every child has been heard: SENT, and VERDICT_UP or, at the root, the verdict itself. -/
def verdictUp (id : Nat) (s : State) : State :=
  match s.plyCmd id with
  | none => s
  | some c =>
    if c.upSent || c.heard.length < (verdictKids c.size c.rank).length then s
    else
      let ctx := cCtx c.is.cmd
      let v := (s.trn ctx).verdict
      let ovf := c.ovfIn || v.getLsbD vLOVF
      let csum := c.csumIn || v.getLsbD vLCSUM
      let s1 := plyMod id (fun c => { c with upSent := true }) (orVerdict ctx 16 s)
      if c.rank = 0 then verdictDown id ovf csum s1
      else
        let m : RMsg := { c.msg tV_UP with ovf := ovf, csum := csum }
        plySend id [((c.rank - 1) / 16, m.bytes [])] s1

def groupCheck (i : Issued) (s : State) : Chk PlyCmd := do
  needCmd (plyPhaseOk i.cmd) i
  let g := imm i.cmd 0 8
  let e ← plyGroup s (cCtx i.cmd) g
  return newPly i g e s

/-- PLY_VERDICT at the front of the plying port. -/
def execPlyVerdict (s : State) : Res :=
  .next (acceptPly 0xA2 [] groupCheck (fun i c s => verdictUp i.id (startPly [] c s)) s)

/-- A verdict message for the active command `c`. -/
def verdictMsg (c : PlyCmd) (m : RMsg) (s : State) : State × PlyAns :=
  let id := c.is.id
  if m.type = tV_UP then
    if c.upSent || !(verdictKids c.size c.rank).contains m.src_ || c.heard.contains m.src_ then (s, .stray)
    else
      (verdictUp id (plyMod id (fun c => { c with
        heard := c.heard ++ [m.src_], ovfIn := c.ovfIn || m.ovf, csumIn := c.csumIn || m.csum }) s), .ack)
  else if !c.upSent || c.downIn || c.rank = 0 || m.src_ ≠ (c.rank - 1) / 16 then (s, .stray)
  else (verdictDown id m.ovf m.csum s, .ack)

/-! ## PLY_BARRIER (R316) -/

/-- The rank list (Table 10-2). -/
def barrierOpd (c : Cmd) (s : State) : Chk (Option Desc) := do
  let d ← optDesc s false (cD c 0)
  match d with
  | some d => do
    needShape (d.ndim = 1) d
    needFmt (d.fmt = fINT32 && d.ply = 0) d
  | none => pure ()
  return d

def barrierCheck (i : Issued) (s : State) : Chk PlyCmd := do
  let c := i.cmd
  let list := imm c 24 1 = 1
  needCmd (plyPhaseOk c && decide (list = (cD c 0 ≠ 0))) i
  let d ← barrierOpd c s
  let g := imm c 0 8
  let e ← plyGroup s (cCtx c) g
  return { newPly i g e s with d0 := d }

/-- Where an element of the list is out of bounds, the rank is its FILL (R108, R316). -/
def barrierRun (i : Issued) (c : PlyCmd) (s : State) : State :=
  let id := i.id
  let counter := imm i.cmd 8 16
  let s1 := startPly (c.d0.toList.flatMap descSectors) c s
  let (ranks, s2) : List Nat × State := match c.d0 with
    | none => (c.others, s1)
    | some d =>
      let rs := (List.range (d.extent 0)).map (fun j => readElem s d [j])
      let bad (r : RdElem) : Bool := !r.poison && (c.size : Int) ≤ (if r.code < 2 ^ 31 then (r.code : Int) else c.size)
      let n := (rs.filter bad).length
      let s2 := plyMod id (fun c => { c with
        oobReads := c.oobReads + n, oobAddr := if c.oobAddr.isNone && 0 < n then some d.addr else c.oobAddr })
        (plyReads id d rs s1)
      ((rs.filter (fun r => !r.poison && !bad r)).map (·.code), s2)
  let s3 := ranks.foldl (fun s r => if r = c.rank then s.incBarrier counter else s) s2
  let to_ := ranks.filter (· ≠ c.rank)
  plyTry id (plySend id (to_.map (fun r => (r, barrierMsg c.grp c.step counter))) s3)

/-- PLY_BARRIER at the front of the plying port. -/
def execPlyBarrier (s : State) : Res := .next (acceptPly 0xA3 [] barrierCheck barrierRun s)

/-! ## The factor commands (R313, R314) -/

/-- Element k of the seeded factor. -/
def seedValue (seed layer k : Nat) : Word :=
  let w := 2 ^ 64
  let z0 := (seed + (layer + 1) * 0x9E3779B97F4A7C15 + k) % w
  let z1 := ((z0 ^^^ (z0 >>> 30)) * 0xBF58476D1CE4E5B9) % w
  let z2 := ((z1 ^^^ (z1 >>> 27)) * 0x94D049BB133111EB) % w
  let z3 := z2 ^^^ (z2 >>> 31)
  round32 ((Val.fin false (z3 >>> 40) (-23)).sub (Val.ofInt 1))

/-- Column `c` made orthogonal to the columns before it and normal; whether it is a zero column. [DEDUCED, log 27] -/
def orthoColumn (done : List (List Word)) (c : List Word) : List Word × Bool :=
  let c1 := done.foldl (fun c q =>
    let d := rowsum (zip32 mul32 q c)
    zip32 (fun x y => sub32 x (mul32 d y)) c q) c
  let n := sqrt32 (rowsum (zip32 mul32 c1 c1))
  if (val32 n).isZero then (c1.map (fun _ => 0), true) else (c1.map (fun x => div32 x n), false)

/-- The columns of a factor made orthonormal, and the number of zero columns. -/
def orthonormal (cols : List (List Word)) : List (List Word) × Nat :=
  cols.foldl (fun acc c =>
    let (c1, z) := orthoColumn acc.1 c
    (acc.1 ++ [c1], acc.2 + b2n z)) ([], 0)

/-- The factor (R300). -/
def factorOpd (c : Cmd) (s : State) : Chk Desc := do
  let d ← checkDesc s true (cD c 0)
  require (d.fmt = fFP32 && d.ndim = 2 && 1 ≤ d.sz 1 && d.sz 1 ≤ 256) kPLY_PARAM d.addr
  return d

def factorCheck (i : Issued) (s : State) : Chk Desc := do
  needCmd (plyPhaseOk i.cmd) i
  factorOpd i.cmd s

/-- What PLY_ORTHO comes to, and PLY_LR_SEED where `seed` names the values to start from (R313, R314). [DEDUCED, log 27] -/
def factorEff (hs : List Hit) (seed : Option (Nat → Word)) (here : Nat) (d : Desc) (s : State) : Eff :=
  let m := d.extent 0
  let r := d.extent 1
  let struck (k : Nat) : Bool := hs.any (fun h => h.src = srcPly && h.at_ = k / blockSize)
  let cols := (List.range r).map (fun j => (List.range m).map (fun i =>
    match seed with
    | some f => ({ code := (f (j * m + i)).toNat, val := val32 (f (j * m + i)) } : RdElem)
    | none => readElem s d [i, j]))
  let all := cols.flatMap id_
  let bad := cols.zipIdx.map (fun c => c.1.any (·.poison) || (List.range m).any (fun i => struck (c.2 * m + i)))
  let (res, zeros) := orthonormal (cols.map (fun c => c.map (·.fp32)))
  let e0 : Eff := { secs := descSectors d, aux := BitVec.ofNat 32 zeros }
  let e1 := match seed with | some _ => e0 | none => (e0.reads d all).consumeReads all
  let x := res.zipIdx.foldl (fun (acc : Encoded) c => c.1.zipIdx.foldl (fun acc v =>
    acc.append (encodeElem s d [v.2, c.2] (val32 v.1) ((bad.take (c.2 + 1)).contains true))) acc) {}
  let e2 := if (List.range (m * r)).any struck then e1.consume here else e1
  { e2 with marked := bad.contains true }.encoded s d x
where id_ (l : List RdElem) : List RdElem := l

/-- The data phase of the factor commands. -/
def factorRun (hs : List Hit) (seed : Option (Nat → Word)) (i : Issued) (d : Desc) (s : State) : State :=
  finishCmd 52 i (factorEff hs seed i.addr.toNat d s) s

/-- The start values of a PLY_LR_SEED. -/
def seedOf (i : Issued) (s : State) : Nat → Word := seedValue (s.trn (cCtx i.cmd)).seed.toNat (imm i.cmd 0 16)

/-- PLY_ORTHO at the front of the plying port. -/
def execPlyOrtho (hs : List Hit) (s : State) : Res := .next (acceptPly 0xA4 hs factorCheck (factorRun hs none) s)

/-- PLY_LR_SEED at the front of the plying port. -/
def execPlyLrSeed (s : State) : Res :=
  .next (acceptPly 0xA5 [] factorCheck (fun i d s => factorRun [] (some (seedOf i s)) i d s) s)

/-! ## Arriving messages (R307, R309) -/

/-- Does an active command take messages of this type: scale agreement in its pre-round, sums after it where ALLG is set (R305, R307,
R308)? -/
def takesType (c : PlyCmd) (t : Nat) : Bool :=
  if isReduceOp c then t = tREDUCE || (c.pre && (t = tPRE_UP || t = tPRE_DOWN)) || (c.allg && !c.pre && t = tSUM)
  else if isGatherOp c then t = tGATHER
  else isVerdictOp c && (t = tV_UP || t = tV_DOWN)

/-- A stray message (R309): counted, its fault sent; the active commands of its group find a checksum mismatch. [DEDUCED, log 31] [DEDUCED, log 71] -/
def plyStray (port : Nat) (m : RMsg) (s : State) : State :=
  let s1 := faultParam srcPly kPLY_STRAY (port % 32 + m.src_ % 65536 * 32) (s.count (rPly 0x28) 1)
  { s1 with ply := s1.ply.map (fun c => if c.tag = m.tag then { c with checksum := true } else c) }

/-- Not before the current step (R307), on the wrapping count. -/
def stepNotPast (step cur : Word) : Bool := (step - cur).toNat < 2 ^ 31

/-- A message that no active command takes: its sender is ahead, or it is a stray (R307). [DEDUCED, log 31] -/
def plyUnmatched (port : Nat) (m : RMsg) (s : State) (g : Option (Nat × Grp)) : State × PlyAns :=
  match g with
  | some (_, e) =>
    if stepNotPast m.step (s.ctx e.ctx).step then (s.count (rPly 0x1C) 1, .rnr) else (plyStray port m s, .stray)
  | none => (plyStray port m s, .stray)

/-- Count the answer of the command that took a message. [DEDUCED, log 71] -/
def plyAnswered (port : Nat) (m : RMsg) (c : PlyCmd) (s : State) (r : State × PlyAns) : State × PlyAns :=
  match r.2 with
  | .ack => (plyMod c.is.id (fun c => { c with since := s.wall }) (r.1.count (rPly 0x18) 1), .ack)
  | .rnr => (r.1.count (rPly 0x1C) 1, .rnr)
  | .stray => (plyStray port m s, .stray)

/-- A reduction message arrives on a port. [DEDUCED, log 71] -/
def plyDeliver (port : Nat) (l : List Byte) (s : State) : State × PlyAns :=
  let m := parseRMsg l
  let pay := l.drop 64
  if !rmsgOk l then (plyStray port m s, .stray)
  else
    match s.ply.find? (fun c => takesType c m.type && c.tag = m.tag && c.rdid = m.rdid
        && (s.ctx (cCtx c.is.cmd)).step = m.step) with
    | none => plyUnmatched port m s (groupByTag s m.tag)
    | some c =>
      plyAnswered port m c s (if c.size ≤ m.src_ || m.src_ = c.rank then (s, PlyAns.stray)
        else if isReduceOp c then reduceMsg c m pay s
        else if isGatherOp c then gatherMsg c m pay s
        else verdictMsg c m s)

/-- A message of command `id` is acknowledged. -/
def plyAcked (id : Nat) (s : State) : State :=
  plyAdvance id (plyMod id (fun c => { c with since := s.wall }) s)

/-! ## The watch (R311) -/

/-- Ranks from which a command still needs a message. -/
def plyNeeds (c : PlyCmd) : List Nat :=
  let ranks := (List.range c.size).filter (· ≠ c.rank)
  if isReduceOp c then
    if c.pre then
      ranks.filter (fun r => c.ownB.any (fun b => !(mget c.preUp b (0, [])).2.contains r)
        || (List.range c.nblk).any (fun b => c.ownerOf b = r && !mget c.preDown b false))
    else
      ranks.filter (fun r => c.ownB.any (fun b => !mget c.closed b false && !(mget c.blocks b {}).heard.contains r)
        || (c.allg && (List.range c.nblk).any (fun b =>
          let o := c.ownerOf b
          let p := (c.rank + c.size - o) % c.size
          p ≠ 0 && !mget c.got b false && (o + (p - 1) / 16) % c.size = r)))
  else if isGatherOp c then ranks.filter (fun r => (List.range c.nblk).any (fun b => c.ownerOf b = r && !mget c.got b false))
  else if isVerdictOp c then
    (if !c.upSent then (verdictKids c.size c.rank).filter (fun r => !c.heard.contains r)
     else if !c.downIn then [(c.rank - 1) / 16] else [])
  else []

/-- Ranks from which the command still needs an acknowledgement: its message is on its way to them, or waits to be sent. -/
def plyUnacked (c : PlyCmd) (s : State) : List Nat :=
  c.others.filter (fun r => c.todo.any (fun m => m.1 = r) ||
    (match c.route s r with
     | some q => (s.qp q).sq.any (fun o => c.waitsFor o.op)
     | none => false))

/-- The lowest of a list of ranks; 0 for none. -/
def lowestRank : List Nat → Nat
  | [] => 0
  | r :: l => l.foldl min r

/-- Does the command wait for a peer? -/
def plyWaits (c : PlyCmd) (s : State) : Bool := !(plyNeeds c).isEmpty || plyUnackedOps c s || !c.todo.isEmpty

/-- PLY_WATCH_EXPIRY: active command `i` has heard from no peer for WD_TICKS (R311). [DEDUCED, log 73] -/
def execPlyWatchExpiry (i : BitVec 2) (s : State) : Res :=
  let wd := (s.getReg (rBob 0x210)).toNat
  .next (match s.ply[i.toNat]? with
    | none => s
    | some c =>
      if wd ≠ 0 && c.since + wd ≤ s.wall && plyWaits c s then
        let need := if (plyNeeds c).isEmpty then plyUnacked c s else plyNeeds c
        let f : Flt := { kind := kPEER_SILENT, addr := cCtx c.is.cmd + lowestRank need * 2 ^ 12, param := true }
        plyAbandon c.is.id ((plyFault c.is.id f s).count (rPly 0x30) 1)
      else s)

/-! ## Reset and sleep (R322) -/

end Sys2Proof.Machine
end

