-- ==== Sys2Proof/Machine/Carder.lean ====
section
/-! DEFINITION. Gather, scatter and the permuting copy (R173 to R184, R245 to R248). -/

namespace Sys2Proof.Machine

/-- One copied element: source coordinate, destination coordinate; the block scale goes along with a block's first
element. The effect of the copy is added. -/
def copyElem (s : State) (src_ dst : Desc) (cs cd : List Nat) (first : Bool) (e : Eff) : Eff :=
  let r := readCode s src_ cs
  let w := storeCode s dst cd r.code r.poison r.clean
  let e1 := ((e.reads src_ [r]).encoded s dst w)
  let e2 := if w.bits.isEmpty then e1 else e1.consumeReads [r]
  if first && src_.ply ≠ 0 then
    let q := readScaleElem s src_ cs
    let wq := storeScale s dst cd q.code q.poison
    let e3 := { e2 with secs := e2.secs ++ q.secs }
    if wq.bits.isEmpty then e3 else (e3.encoded s dst wq).consumeReads [q]
  else e2

/-! ## CRD_GATHER and CRD_SCATTER -/

def crdMoveForm : OpForm := { need := [0, 1], immMask := immBits [(0, 2)] }

def movAccum (c : Cmd) : Bool := imm c 0 1 = 1
def movRunv (c : Cmd) : Bool := imm c 1 1 = 1
def isGather (c : Cmd) : Bool := cOp c = 0x40

/-- Source and destination of a move. -/
structure MoveOpds where
  src_ : Desc := {}
  dst : Desc := {}
deriving DecidableEq, Repr

def MoveOpds.opds (m : MoveOpds) : Opds := { descs := [(m.src_, false), (m.dst, true)] }

/-- Operand rules of gather and scatter (R175, R176). [DEDUCED, log 63] -/
def moveOpds (c : Cmd) (s : State) : Chk MoveOpds := do
  let a ← checkDesc s false (cD c 0)
  let b ← checkDesc s true (cD c 1)
  let g := isGather c
  needIndex (a.idxEn = g) a
  needIndex (b.idxEn = !g) b
  let ix := if g then a else b
  let dn := if g then b else a
  needShape (ix.ndim = dn.ndim && ix.dims.all (fun i => ix.extent i = dn.sz i)) ix
  if movAccum c then
    needFmt (a.fmt = b.fmt && a.ply = 0 && b.ply = 0
      && (a.fmt = fFP32 || a.fmt = fBF16 || a.fmt = fFP16 || a.fmt = fINT32)) ix
  else needFmt (a.fmt = b.fmt && a.ply = b.ply) ix
  return { src_ := a, dst := b }

def moveCheck (i : Issued) (s : State) : Chk MoveOpds := do
  needCmd (!(isGather i.cmd && movAccum i.cmd)) i
  moveOpds i.cmd s

/-- R177. -/
def moveOverlap (_ : Issued) (m : MoveOpds) (_ : State) : Bool :=
  m.dst.meets m.src_ || m.dst.meetsIndex m.src_ || m.dst.meetsIndex m.dst

/-- The operand that carries the index, and the dense one. -/
def MoveOpds.ix (m : MoveOpds) : Desc := if m.src_.idxEn then m.src_ else m.dst
def MoveOpds.dn (m : MoveOpds) : Desc := if m.src_.idxEn then m.dst else m.src_

/-- The index value at a position, where it is in bounds and not poisoned. -/
def goodIndex (s : State) (ix : Desc) (p : Nat) : Option Int :=
  match idxElem s ix p with
  | some (_, false, v) => if 0 ≤ v && v < (ix.sz ix.idxDim : Int) then some v else none
  | _ => none

/-- Bytes of a slice (R183). -/
def sliceBytes (d : Desc) (x : Nat) : Nat :=
  if x = 0 then ceilDiv d.w 8 else (List.range (x - 1)).foldl (fun n i => n * d.sz (i + 1)) d.rowSpan

/-- Coordinates of the walk of R178, `lim` positions along the indexed dimension. -/
def moveCoords (d : Desc) (x lim : Nat) : List (List Nat) :=
  coords (d.dims.map (fun i => if i = x then lim else d.sz i))

/-- A run of ACCUM: first position and length (R181). A position whose index is out of bounds or poisoned ends a run. -/
def accumRuns (s : State) (ix : Desc) (lim : Nat) : List (Nat × Nat) :=
  (List.range lim).foldl (fun (acc : List (Nat × Nat)) p =>
    match acc.getLast? with
    | some (p0, n) =>
      if p = p0 + n && (goodIndex s ix p).isSome && goodIndex s ix p = goodIndex s ix p0 then acc.dropLast ++ [(p0, n + 1)]
      else acc ++ [(p, 1)]
    | none => [(p, 1)]) []

/-- The sum of one destination element over a run (R181): code, saturation, non-finite. -/
def accumSum (s : State) (fmt : Nat) (start : Val) (vs : List Val) : Conv :=
  if fmt = fINT32 then
    let toI (v : Val) : Int := v.atExp 0
    let r := satInt32 ((vs.map toI).foldl (· + ·) (toI start))
    { code := r.1.toNat, sat := r.2 }
  else convElem s.fmt fmt (vs.foldl (fun a v => val32 (round32 (a.add v))) start)

/-- What ACCUM has written so far: code and poison by the bit address of the destination element. -/
abbrev AccMap := AMap (Nat × Bool)

/-- One destination element of a run at position `p0` of length `n`; `c` is its coordinate at position `p0`. -/
def accumElem (s : State) (m : MoveOpds) (x n : Nat) (c : List Nat) (acc : AccMap × Eff) : AccMap × Eff :=
  let srcs := (List.range n).map (fun q => readElem s m.src_ (c.set x (c.getD x 0 + q)))
  match locate s m.dst c with
  | .at bit _ =>
    let e1 := acc.2.reads m.src_ srcs
    let old := readElem s m.dst c
    let prior := mfind acc.1 bit
    let start := match prior with | some p => decodeElem s.fmt m.dst.fmt p.1 | none => old.val
    let startP := match prior with | some p => p.2 | none => old.poison
    let k := accumSum s m.dst.fmt start (srcs.map (·.val))
    let p := startP || srcs.any (·.poison)
    let e2 := { e1 with secs := e1.secs ++ old.secs, sat := e1.sat + b2n k.sat, nonFin := e1.nonFin || k.nonFin }
    let e3 := (if prior.isNone then e2.consumeReads [old] else e2).consumeReads srcs
    (mset acc.1 bit (k.code, p), e3)
  | _ =>
    -- out of bounds or poisoned index: the slice is dropped (R111, R180)
    (acc.1, acc.2.encoded s m.dst (storeCode s m.dst c 0 false))

/-- ACCUM scatter. -/
def accumRun (s : State) (m : MoveOpds) (lim : Nat) (e : Eff) : Eff :=
  let d := m.dst
  let x := d.idxDim
  let outer := coords ((d.dims.filter (x < ·)).map (fun i => d.sz i))
  let inner := coords ((d.dims.filter (· < x)).map (fun i => d.sz i))
  let runs := accumRuns s d lim
  let (am, e1) := outer.foldl (fun acc o => runs.foldl (fun acc r => inner.foldl (fun acc i =>
    accumElem s m x r.2 (i ++ [r.1] ++ o) acc) acc) acc) (([] : AccMap), e)
  e1.encoded s d { bits := am.map (fun q => { bit := q.1, width := d.w, code := q.2.1, poison := q.2.2 }) }

/-- Positions of the indexed dimension that a move takes (R178). [DEDUCED, log 62] -/
def moveLim (i : Issued) (m : MoveOpds) : Nat :=
  if movRunv i.cmd then min (m.dn.sz m.ix.idxDim) (runSize i) else m.dn.sz m.ix.idxDim

/-- Is position `p` of a gather served from the line buffer (R183)? -/
def servedFromLine (s : State) (ix : Desc) (p : Nat) : Bool :=
  sliceBytes ix ix.idxDim ≤ 65536 && 1 ≤ p && (goodIndex s ix p).isSome && goodIndex s ix p = goodIndex s ix (p - 1)

/-- Slices that a gather reads again: a position that is not served from the line buffer names an index that an earlier one of the
same outer coordinates has named (R183). -/
def gatherAgain (s : State) (m : MoveOpds) (lim : Nat) : List (List Nat) :=
  let d := m.src_
  let x := d.idxDim
  let again := (List.range lim).filter (fun p => (goodIndex s d p).isSome && !servedFromLine s d p
    && (List.range p).any (fun q => goodIndex s d q = goodIndex s d p))
  (coords ((d.dims.filter (x < ·)).map (fun i => d.sz i))).flatMap (fun o => again.map (fun p =>
    (coords ((d.dims.filter (· < x)).map (fun i => d.sz i))).flatMap (fun i =>
      (readElem s d (i ++ [p] ++ o)).secs.drop (idxSectors d (i ++ [p] ++ o)).length)))

/-- What gather and scatter come to (R178 to R184). -/
def moveEff (i : Issued) (m : MoveOpds) (s : State) : Eff :=
  let e0 : Eff := { secs := m.opds.sectors, again := if isGather i.cmd then gatherAgain s m (moveLim i m) else [] }
  if movAccum i.cmd then accumRun s m (moveLim i m) e0
  else (moveCoords m.dn m.ix.idxDim (moveLim i m)).foldl (fun e cs =>
    copyElem s m.src_ m.dst cs cs (cs.getD 0 0 % plyLen m.src_.ply = 0) e) e0

/-- The counters of gather and scatter. -/
def moveCounted (i : Issued) (m : MoveOpds) (s : State) : State :=
  let c := i.cmd
  let k := cTarget c
  let lim := moveLim i m
  let x := m.ix.idxDim
  let outerN := ((m.dn.dims.filter (x < ·)).map (fun j => m.dn.sz j)).foldl (· * ·) 1
  let s1 := s.count (rCrd k 0x08) (outerN * lim)
  let s2 := if isGather c then
      s1.count (rCrd k 0x0C) (outerN * ((List.range lim).filter (servedFromLine s m.ix)).length)
    else s1
  let s3 := if isGather c then useSram k [3] s2 else countFree (rCrd k 0x24) (useSram k [4] s2)
  s3.count (rCrd k 0x18) (moveEff i m s).sat

/-- The data phase of gather and scatter. -/
def moveRun (i : Issued) (m : MoveOpds) (s : State) : State :=
  if movRunv i.cmd && runSize i = 0 then refuseCmd (16 + cTarget i.cmd) i stEMPTY s
  else finishCmd (16 + cTarget i.cmd) i (moveEff i m s) (moveCounted i m s)

/-! ## CPY_PERMUTE (R245 to R248) -/

def cpyForm : OpForm := { need := [0, 1], immMask := immBits [(0, 16)] }

/-- P_d. -/
def cpyP (c : Cmd) (d : Nat) : Nat := imm c (3 * d) 3
def cpyRunv (c : Cmd) : Bool := imm c 15 1 = 1

/-- Operand rules of R246. [DEDUCED, log 63] -/
def cpyOpds (c : Cmd) (s : State) : Chk MoveOpds := do
  let a ← checkDesc s false (cD c 0)
  let b ← checkDesc s true (cD c 1)
  needIndex (!a.idxEn) a
  needIndex (!b.idxEn) b
  needShape (a.ndim = b.ndim) b
  needFmt (a.fmt = b.fmt && a.ply = b.ply) b
  needShape (a.dims.all (fun q => a.dims.any (fun d => cpyP c d = q))
    && (List.range 5).all (fun d => d < a.ndim || cpyP c d = 0)) b
  needShape (a.dims.all (fun d => b.sz d = a.sz (cpyP c d))) b
  needFmt (cpyP c 0 = 0 || (a.ply = 0 && (a.w = 8 || a.w = 16 || a.w = 32))) b
  return { src_ := a, dst := b }

def cpyCheck (i : Issued) (s : State) : Chk MoveOpds := cpyOpds i.cmd s

/-- The in-place case of R247. -/
def cpyInPlace (c : Cmd) (m : MoveOpds) : Bool :=
  ({ m.src_ with addr := 0 } : Desc) = { m.dst with addr := 0 } && m.src_.ndim = 2 && cpyP c 0 = 1 && cpyP c 1 = 0
    && m.src_.sz 0 = m.src_.sz 1 && m.src_.sz 0 ≤ 256

/-- R247. -/
def cpyOverlap (i : Issued) (m : MoveOpds) (_ : State) : Bool := m.src_.meets m.dst && !cpyInPlace i.cmd m

/-- Source coordinate of destination coordinate `a`: q_Pd = a_d. -/
def cpySource (c : Cmd) (n : Nat) (a : List Nat) : List Nat :=
  (List.range n).map (fun q => match (List.range n).find? (fun d => cpyP c d = q) with | some d => a.getD d 0 | none => 0)

/-- What a CPY_PERMUTE comes to (R246). -/
def cpyEff (i : Issued) (m : MoveOpds) (s : State) : Eff :=
  let c := i.cmd
  let n := m.dst.ndim
  let ext := (List.range n).map (fun d => if cpyRunv c && d + 1 = n then min (m.dst.sz d) (runSize i) else m.dst.sz d)
  (coords ext).foldl (fun e a =>
    copyElem s m.src_ m.dst (cpySource c n a) a (a.getD 0 0 % plyLen m.src_.ply = 0) e) { secs := m.opds.sectors }

/-- The counters of CPY_PERMUTE. -/
def cpyCounted (i : Issued) (m : MoveOpds) (s : State) : State :=
  let k := cTarget i.cmd
  let s0 := s.count (rCrd k 0x200) 1
  let s1 := if cpyP i.cmd 0 = 0 then s0 else useSram k [0] s0
  if cpyInPlace i.cmd m then s1.count (rCrd k 0x204) 1 else s1

def cpyRun (i : Issued) (m : MoveOpds) (s : State) : State :=
  if cpyRunv i.cmd && runSize i = 0 then refuseCmd (16 + cTarget i.cmd) i stEMPTY s
  else finishCmd (16 + cTarget i.cmd) i (cpyEff i m s) (cpyCounted i m s)

/-- The counter of parity errors during a copy: the carder's are in the move twist (Table 08-10). -/
def moveReg (source : BitVec 16) : Option Nat :=
  if source.toNat / 256 = 1 then some (rCrd (source.toNat % 256) 0x208) else perrReg source

/-! ## The rows -/

/-- CRD_GATHER at the front of carder `k`'s port. -/
def execCrdGather (k : BitVec 5) (hs : List Hit) (s : State) : Res :=
  .next (withHits (16 + k.toNat) 0x40 hs (accept (16 + k.toNat) 0x40 moveCheck moveOverlap moveRun) s)

/-- CRD_SCATTER at the front of carder `k`'s port. -/
def execCrdScatter (k : BitVec 5) (hs : List Hit) (s : State) : Res :=
  .next (withHits (16 + k.toNat) 0x41 hs (accept (16 + k.toNat) 0x41 moveCheck moveOverlap moveRun) s)

/-- CPY_PERMUTE at the front of carder `k`'s port. -/
def execCpyPermute (k : BitVec 5) (hs : List Hit) (s : State) : Res :=
  let u := 16 + k.toNat
  .next (if (frontOf s u 0xC0).isSome then
    clearStruck (accept u 0xC0 cpyCheck cpyOverlap cpyRun (noteHits moveReg hs s)) else s)

end Sys2Proof.Machine
end

