-- ==== Sys2Proof/Machine/Optim.lean ====
section
/-! DEFINITION. The loss scale and the optimiser update (R271 to R284, R294). -/

namespace Sys2Proof.Machine

/-! ## Rows of an element-wise command -/

/-- The walk of an element-wise command over `d`: elements of a row, and the outer coordinates. Under RUNV coordinates of
the last dimension at or beyond the run size are left out (R246). -/
def runRows (d : Desc) (lim : Option Nat) : Nat × List (List Nat) :=
  let cut (i : Nat) : Nat := match lim with
    | some n => if i + 1 = d.ndim then min (d.sz i) n else d.sz i
    | none => d.sz i
  (cut 0, coords (d.outer.map cut))

/-- Same NDIM and SIZE fields (R272, R279). -/
def sameShape (a b : Desc) : Bool := a.ndim = b.ndim && (List.range 5).all (fun i => a.sz i = b.sz i)

/-- A floating-point format with any allowed PLY. -/
def fmtFloat (d : Desc) : Bool := !fmtInt d.fmt

/-! ## TRN_LSCALE (R272) -/

def lscaleForm : OpForm := { need := [0, 1], immMask := immBits [(0, 2)] }

def lsInv (c : Cmd) : Bool := imm c 0 1 = 1
def lsRunv (c : Cmd) : Bool := imm c 1 1 = 1

def lscaleOpds (c : Cmd) (s : State) : Chk MoveOpds := do
  let a ← checkDesc s false (cD c 0)
  let b ← checkDesc s true (cD c 1)
  needFmt (fmtFloat a) a
  needFmt (fmtFloat b) b
  needIndex (!a.idxEn) a
  needIndex (!b.idxEn) b
  needShape (sameShape a b) b
  return { src_ := a, dst := b }

/-- Identical or disjoint. -/
def lscaleOverlap (_ : Issued) (m : MoveOpds) (_ : State) : Bool :=
  m.src_.meets m.dst && ({ m.src_ with addr := 0 } : Desc) ≠ { m.dst with addr := 0 }

/-- Rows that a TRN_LSCALE takes: elements of a row, and the rows' outer coordinates. -/
def lscaleRows (i : Issued) (m : MoveOpds) : Nat × List (List Nat) :=
  runRows m.dst (if lsRunv i.cmd then some (runSize i) else none)

/-- What a TRN_LSCALE comes to (R272). -/
def lscaleEff (i : Issued) (m : MoveOpds) (s : State) : Eff :=
  let x := trnExp s (cCtx i.cmd)
  let factor := Val.pow2 (if lsInv i.cmd then -x else x)
  let (n, rows) := lscaleRows i m
  rows.foldl (fun (e : Eff) o =>
    let rs := readRow s m.src_ 0 n o
    ((e.reads m.src_ rs).consumeReads rs).encoded s m.dst
      (encodeRow s m.dst 0 o (rs.map (fun r => (r.val.mul factor, r.poison))))) { secs := m.opds.sectors }

def lscaleRun (i : Issued) (m : MoveOpds) (s : State) : State :=
  let k := cTarget i.cmd
  if lsRunv i.cmd && runSize i = 0 then refuseCmd (16 + k) i stEMPTY s
  else
    let e := lscaleEff i m s
    let r := lscaleRows i m
    finishCmd (16 + k) i e (useSram k anyArea ((s.count (rCrd k 0x30C) (r.1 * r.2.length)).count (rCrd k 0x18) e.sat))

/-- TRN_LSCALE at the front of carder `k`'s port. -/
def execTrnLscale (k : BitVec 5) (hs : List Hit) (s : State) : Res :=
  let u := 16 + k.toNat
  .next (withHits u 0x50 hs (accept u 0x50 (fun i s => lscaleOpds i.cmd s) lscaleOverlap lscaleRun) s)

/-! ## OPT_ADAMW and OPT_SGDM (R278 to R283) -/

def adamForm : OpForm := { need := [0, 1, 2, 3], immMask := immBits [(0, 49)] }
def sgdmForm : OpForm := { need := [0, 1, 2], immMask := immBits [(0, 49)] }

def isAdam (c : Cmd) : Bool := cOp c = 0x51
def optHp (c : Cmd) : Nat := imm c 0 48
def optRunv (c : Cmd) : Bool := imm c 48 1 = 1

/-- The hyperparameters (Table 09-4). -/
structure Hyper where
  lr : Word := 0
  wd : Word := 0
  beta1 : Word := 0
  c1 : Word := 0
  beta2 : Word := 0
  c2 : Word := 0
  eps : Word := 0
  wout : Nat := 0
deriving DecidableEq, Repr

def parseHyper (x : Nat) : Hyper :=
  let w (i lo : Nat) : Word := BitVec.ofNat 32 (wordBits x i lo 32)
  { lr := w 0 0, wd := w 0 32, beta1 := w 1 0, c1 := w 1 32, beta2 := w 2 0, c2 := w 2 32, eps := w 3 0
    wout := wordBits x 4 0 48 }

def hyperReservedOk (x : Nat) : Bool :=
  wordBits x 3 32 32 = 0 && wordBits x 4 48 16 = 0 && wordBits x 5 0 64 = 0 && wordBits x 6 0 64 = 0 && wordBits x 7 0 64 = 0

/-- The rules of Table 09-4. -/
def hyperOk (adam : Bool) (h : Hyper) : Bool :=
  let one := Val.ofInt 1
  let nonNeg (w : Word) : Bool := (val32 w).isFinite && Val.zero.le (val32 w)
  let beta (w : Word) : Bool := Val.zero.le (val32 w) && (val32 w).lt one
  let c (w : Word) : Bool := Val.zero.lt (val32 w) && (val32 w).le one
  let zero (w : Word) : Bool := (val32 w).isZero
  nonNeg h.lr && nonNeg h.wd && beta h.beta1 && c h.c1
  && (if adam then beta h.beta2 && c h.c2 && (val32 h.eps).isFinite && Val.zero.lt (val32 h.eps)
      else zero h.beta2 && zero h.c2 && zero h.eps)

/-- The operands of an update. `d3` is there for OPT_ADAMW, `wout` where the block names one. -/
structure OptOpds where
  h : Hyper := {}
  d0 : Desc := {}
  d1 : Desc := {}
  d2 : Desc := {}
  d3 : Option Desc := none
  wout : Option Desc := none
deriving DecidableEq, Repr

def OptOpds.all (o : OptOpds) : List Desc := [o.d0, o.d1, o.d2] ++ o.d3.toList ++ o.wout.toList

def OptOpds.sectors (o : OptOpds) (c : Cmd) : List Nat := sectorsOf (optHp c) 64 ++ o.all.flatMap descSectors

/-- Formats of the moments (R279). -/
def momentFmt (d : Desc) : Bool :=
  (d.fmt = 0x03 || d.fmt = 0x04 || (0x12 ≤ d.fmt && d.fmt ≤ 0x17)) && (d.ply = 1 || d.ply = 2)

/-- Formats of the gradient. -/
def gradFmt (d : Desc) : Bool :=
  d.fmt = fFP32 || d.fmt = fBF16 || d.fmt = fFP16 || d.fmt = 0x03 || d.fmt = 0x04 || (0x12 ≤ d.fmt && d.fmt ≤ 0x17)

/-- The operand rules of R279 on D0 to D3. -/
def optOpds (c : Cmd) (s : State) : Chk OptOpds := do
  let d0 ← checkDesc s true (cD c 0)
  needFmt (d0.fmt = fFP32 && d0.ply = 0) d0
  let d1 ← checkDesc s false (cD c 1)
  needFmt (gradFmt d1) d1
  let d2 ← checkDesc s true (cD c 2)
  needFmt (momentFmt d2) d2
  let d3 ← if isAdam c then do
      let d ← checkDesc s true (cD c 3)
      needFmt (momentFmt d) d
      pure (some d)
    else pure none
  let o : OptOpds := { d0 := d0, d1 := d1, d2 := d2, d3 := d3 }
  let bad := o.all.find? (fun d => !sameShape d0 d)
  match bad with | some d => needShape false d | none => pure ()
  match o.all.find? (·.idxEn) with | some d => needIndex false d | none => pure ()
  return o

/-- The WOUT operand that a hyperparameter block names (R279). -/
def woutCheck (s : State) (o : OptOpds) (a : Nat) : Chk (Option Desc) :=
  if a = 0 then pure none else do
    let d ← checkDesc s true a
    needFmt (fmtFloat d) d
    needShape (sameShape o.d0 d) d
    needIndex (!d.idxEn) d
    return some d

/-- Do any two footprints meet? -/
def anyMeet : List Desc → Bool
  | [] => false
  | d :: r => r.any (fun x => d.meets x) || anyMeet r

/-- Acceptance of OPT_ADAMW and OPT_SGDM: they carry the tag UPD (R43, R474). -/
def optCheck (i : Issued) (s : State) : Chk OptOpds := do
  let c := i.cmd
  needCmd (cPhase c = phUpd) i
  let hp := optHp c
  require (hp % 64 = 0) kOPT_PARAM hp
  let x ← readBlock s hp 64
  let h := parseHyper x
  require (hyperReservedOk x && h.wout % 64 = 0 && hyperOk (isAdam c) h) kOPT_PARAM hp
  let o ← optOpds c s
  let w ← woutCheck s o h.wout
  let o1 : OptOpds := { o with h := h, wout := w }
  require (!anyMeet o1.all) kOPT_ALIAS i.addr.toNat
  return o1

/-- One element updated: master, moments, and whether it keeps its earlier values, exactly as they were (R281, R282). -/
structure OptElem where
  w : Val
  m : Val
  v : Val
  kept : Bool
  poison : Bool

def optElem (adam : Bool) (h : Hyper) (b1t b2t : Word) (x : Int) (w g0 m v : RdElem) : OptElem :=
  let g := round32 (g0.val.mul (Val.pow2 (-x)))
  let ww := w.fp32
  let m1 := add32 (round32 ((val32 h.beta1).mul m.val)) (mul32 h.c1 g)
  let v1 := if adam then add32 (round32 ((val32 h.beta2).mul v.val)) (mul32 h.c2 (mul32 g g)) else 0
  let u := if adam then div32 (div32 m1 b1t) (add32 (sqrt32 (div32 v1 b2t)) h.eps) else m1
  let w1 := sub32 ww (mul32 h.lr (add32 u (mul32 h.wd ww)))
  let pois := w.poison || g0.poison || m.poison || v.poison
  if nonFinite32 w1 || nonFinite32 m1 || nonFinite32 v1 then { w := w.val, m := m.val, v := v.val, kept := true, poison := pois }
  else { w := val32 w1, m := val32 m1, v := val32 v1, kept := false, poison := pois }

/-- One row. -/
def optRow (s : State) (i : Issued) (o : OptOpds) (b1t b2t : Word) (n : Nat) (cs : List Nat) (acc : Eff × Nat) : Eff × Nat :=
  let adam := isAdam i.cmd
  let x := trnExp s (cCtx i.cmd)
  let ws := readRow s o.d0 0 n cs
  let gs := readRow s o.d1 0 n cs
  let ms := readRow s o.d2 0 n cs
  let vs := match o.d3 with | some d => readRow s d 0 n cs | none => List.replicate n {}
  let es := (List.range n).map (fun j =>
    optElem adam o.h b1t b2t x (ws.getD j {}) (gs.getD j {}) (ms.getD j {}) (vs.getD j {}))
  let put (f : OptElem → Val) : List (Val × Bool) := es.map (fun e => (f e, e.poison))
  let e0 := (((acc.1.reads o.d0 ws).reads o.d1 gs).reads o.d2 ms)
  let e1 := match o.d3 with | some d => e0.reads d vs | none => e0
  let e2 := ((((e1.consumeReads ws).consumeReads gs).consumeReads ms).consumeReads vs)
  let e3 := (e2.encoded s o.d0 (encodeRow s o.d0 0 cs (put (·.w)))).encoded s o.d2 (encodeRow s o.d2 0 cs (put (·.m)))
  let e4 := match o.d3 with | some d => e3.encoded s d (encodeRow s d 0 cs (put (·.v))) | none => e3
  let e5 := match o.wout with | some d => e4.encoded s d (encodeRow s d 0 cs (put (·.w))) | none => e4
  (e5, acc.2 + (es.filter (·.kept)).length)

/-- Is the update suppressed by the verdict (R280)? -/
def optSuppressed (i : Issued) (s : State) : Bool := (s.trn (cCtx i.cmd)).verdict.getLsbD vSUPP

/-- Rows that an optimizer command takes. -/
def optRows (i : Issued) (o : OptOpds) : Nat × List (List Nat) :=
  runRows o.d0 (if optRunv i.cmd then some (runSize i) else none)

/-- The elements of the rows updated, with the number of those that keep their values (R281 to R283). -/
def optAll (i : Issued) (o : OptOpds) (s : State) : Eff × Nat :=
  let c := i.cmd
  let n := (s.trn (cCtx c)).optStep.toNat + 1
  let one : Word := 0x3F800000
  let b1t := sub32 one (pow32 o.h.beta1 n)
  let b2t := if isAdam c then sub32 one (pow32 o.h.beta2 n) else one
  let (m, rows) := optRows i o
  rows.foldl (fun acc cs => optRow s i o b1t b2t m cs acc) (({ secs := o.sectors c } : Eff), 0)

/-- What an optimizer command comes to. -/
def optEff (i : Issued) (o : OptOpds) (s : State) : Eff :=
  if optSuppressed i s then
    let v := (s.trn (cCtx i.cmd)).verdict
    let csum := v.getLsbD vLCSUM || v.getLsbD vGCSUM
    { secs := o.sectors i.cmd, checksum := csum, nonFin := !csum }
  else
    let r := optAll i o s
    if r.2 = 0 then r.1
    else { r.1 with nonFin := true, notes := [{ kind := kOPT_NONFINITE, addr := i.addr.toNat }] }

/-- The counters of an optimizer command. -/
def optCounted (i : Issued) (o : OptOpds) (s : State) : State :=
  let k := cTarget i.cmd
  if optSuppressed i s then s.count (rCrd k 0x304) 1
  else
    let r := optRows i o
    let kept := (optAll i o s).2
    useSram k anyArea
      (((s.count (rCrd k 0x300) (r.1 * r.2.length - kept)).count (rCrd k 0x308) kept).count (rCrd k 0x18) (optEff i o s).sat)

def optRun (i : Issued) (o : OptOpds) (s : State) : State :=
  if optRunv i.cmd && runSize i = 0 then refuseCmd (16 + cTarget i.cmd) i stEMPTY s
  else finishCmd (16 + cTarget i.cmd) i (optEff i o s) (optCounted i o s)

/-- OPT_ADAMW at the front of carder `k`'s port. -/
def execOptAdamw (k : BitVec 5) (hs : List Hit) (s : State) : Res :=
  let u := 16 + k.toNat
  .next (withHits u 0x51 hs (accept u 0x51 optCheck (fun _ _ _ => false) optRun) s)

/-- OPT_SGDM at the front of carder `k`'s port. -/
def execOptSgdm (k : BitVec 5) (hs : List Hit) (s : State) : Res :=
  let u := 16 + k.toNat
  .next (withHits u 0x52 hs (accept u 0x52 optCheck (fun _ _ _ => false) optRun) s)

end Sys2Proof.Machine
end

