-- ==== Sys2Proof/Machine/Route.lean ====
section
/-! DEFINITION. The route block of an expert layer (R203 to R206): its fields, its checks, its areas, and what every expert
command checks at acceptance. -/

namespace Sys2Proof.Machine

/-- The fields of Table 07-2. -/
structure Route where
  addr : Nat := 0
  ert : Nat := 0
  ctab : Nat := 0
  cache : Nat := 0
  slotLog2 : Nat := 0
  route : Nat := 0
  xchg : Nat := 0
  pidx : Nat := 0
  prec_ : Nat := 0
  map : Nat := 0
  pstep : Nat := 0
  eBase : Nat := 0
  eCount : Nat := 0
  c : Nat := 1
  train : Bool := false
  floorEn : Bool := false
  t : Nat := 0
  floor : Word := 0
  epp : Nat := 0
  npart : Nat := 1
  nrange : Nat := 1
  tpr : Nat := 0
  cap : Nat := 0
  xcap : Nat := 0
  rcap : Nat := 0
  nslot : Nat := 0
deriving DecidableEq, Repr

/-- The fields of the 128 bytes at `addr`, read as one number. -/
def parseRoute (addr x : Nat) : Route :=
  let w (i lo n : Nat) : Nat := wordBits x i lo n
  { addr := addr, ert := w 0 0 48, ctab := w 1 0 48, cache := w 2 0 48, slotLog2 := w 2 48 5, route := w 3 0 48
    xchg := w 4 0 48, pidx := w 5 0 48, prec_ := w 6 0 48, map := w 7 0 48, pstep := w 8 0 48, eBase := w 9 0 20
    eCount := w 9 20 21, c := w 9 41 16 + 1, train := nbit x (64 * 9 + 57), floorEn := nbit x (64 * 9 + 58)
    t := w 10 0 32, floor := BitVec.ofNat 32 (w 10 32 32), epp := w 11 0 21, npart := w 11 21 5 + 1
    nrange := w 11 26 5 + 1, tpr := w 11 32 32, cap := w 12 0 17, xcap := w 12 32 32, rcap := w 13 0 32
    nslot := w 13 32 32 }

/-- The bits that Table 07-2 does not list are zero. -/
def routeReservedOk (x : Nat) : Bool :=
  let w (i lo n : Nat) : Bool := wordBits x i lo n = 0
  w 0 48 16 && w 1 48 16 && w 2 53 11 && w 3 48 16 && w 4 48 16 && w 5 48 16 && w 6 48 16 && w 7 48 16 && w 8 48 16
  && w 9 59 5 && w 11 31 1 && w 12 17 15 && w 14 0 64 && w 15 0 64

/-- RSTR (Table 07-3). -/
def Route.rstr (r : Route) : Nat := 32 * ceilDiv (16 + 16 * r.c) 32
/-- Cache slots of a partition. -/
def Route.spp (r : Route) : Nat := r.nslot / r.npart
/-- Experts of partition `p`. -/
def Route.experts (r : Route) (p : Nat) : Nat := min r.epp (r.eCount - p * r.epp)
/-- The tokens of range `q`: the first, and the one after the last. -/
def Route.tok0 (r : Route) (q : Nat) : Nat := q * r.tpr
def Route.tok1 (r : Route) (q : Nat) : Nat := min ((q + 1) * r.tpr) r.t
/-- Route list of expert `i` of partition `p`. -/
def Route.list_ (r : Route) (p i : Nat) : Nat := r.route + p * r.pstep + i * r.rstr
/-- Route list of the expert with layer index `l`. -/
def Route.listOf (r : Route) (l : Nat) : Nat := r.list_ (l / r.epp) (l % r.epp)
/-- Sub-list of partition `p` for range `q`. -/
def Route.sub (r : Route) (p q : Nat) : Nat := r.xchg + q * r.pstep + p * (32 + 16 * r.xcap)
/-- Pick records of range `q`. -/
def Route.precs (r : Route) (q : Nat) : Nat := r.prec_ + q * r.pstep
/-- Pick index of token `t` of range `q`. -/
def Route.pick (r : Route) (q t : Nat) : Nat := r.pidx + q * r.pstep + 8 * (t - r.tok0 q)
/-- The cache of partition `p`. -/
def Route.cacheRef (r : Route) (p : Nat) : CacheRef :=
  { ert := r.ert, ctab := r.ctab, cache := r.cache, slotLog2 := r.slotLog2, first := p * r.spp, count := r.spp }

/-- The field ranges of Table 07-2 and the sizes of R205. -/
def Route.sizesOk (r : Route) : Bool :=
  let k := if r.cap = 0 then r.eCount else r.cap
  16 ≤ r.slotLog2 && r.slotLog2 ≤ 30 && 1 ≤ r.eCount && r.eCount ≤ 2 ^ 20 && 1 ≤ r.t && r.t < 2 ^ 31 && r.cap ≤ 65536
  && r.nslot % r.npart = 0
  && r.eBase + r.eCount ≤ 2 ^ 20
  && r.eCount ≤ r.epp * r.npart && r.epp * (r.npart - 1) < r.eCount
  && r.t ≤ r.tpr * r.nrange && r.tpr * (r.nrange - 1) < r.t
  && r.epp * min r.c r.tpr ≤ r.xcap
  && min (r.eCount * r.c) (r.tpr * k) ≤ r.rcap

/-- Alignment of the bases (R205). -/
def Route.alignOk (r : Route) : Bool :=
  [r.ert, r.ctab, r.cache, r.route, r.xchg, r.pidx, r.prec_, r.map].all (fun a => a % 64 = 0)
  && r.cache % 2 ^ r.slotLog2 = 0

/-- Each share of every area lies in one skein and covers no retired page (R205). -/
def Route.areasOk (s : State) (r : Route) : Bool :=
  rangeOk s r.cache (r.nslot * 2 ^ r.slotLog2)
  && (List.range r.npart).all (fun p =>
    rangeOk s (r.ert + 64 * (r.eBase + p * r.epp)) (64 * r.experts p)
    && rangeOk s (r.ctab + 16 * (p * r.spp)) (16 * r.spp)
    && rangeOk s (r.list_ p 0) (r.epp * r.rstr)
    && rangeOk s (r.map + p * r.pstep) (16 * r.epp))
  && (List.range r.nrange).all (fun q =>
    rangeOk s (r.sub 0 q) (r.npart * (32 + 16 * r.xcap))
    && rangeOk s (r.pidx + q * r.pstep) (8 * r.tpr)
    && rangeOk s (r.precs q) (16 * r.rcap))

/-- Does the opcode name a partition (rather than a range) in IMM [4:0]? -/
def expPart (op : Nat) : Bool := op = 0x48 || op = 0x4A || op = 0x4B || op = 0x4D
/-- Must TARGET equal PART? -/
def expOwn (op : Nat) : Bool := op = 0x48 || op = 0x4B || op = 0x4D

/-- PART or RANGE. -/
def expNo (c : Cmd) : Nat := imm c 0 5
/-- LOOKUP of EXP_SELECT; MODE of EXP_DISPATCH. -/
def expBit5 (c : Cmd) : Bool := imm c 5 1 = 1
/-- MODE of EXP_COMBINE. -/
def combMode (c : Cmd) : Nat := imm c 5 2
/-- READY of EXP_ASSIGN. -/
def expReady (c : Cmd) : Nat := imm c 5 16

/-- How the expert opcodes use their operands (Table 07-1). -/
def expForm (op : Nat) : OpForm :=
  if op = 0x48 then { need := [0, 3], immMask := immBits [(0, 6)] }
  else if op = 0x49 then { need := [3], immMask := immBits [(0, 5)] }
  else if op = 0x4A then { need := [0, 1, 3], immMask := immBits [(0, 6)] }
  else if op = 0x4B then { need := [3], immMask := immBits [(0, 21)] }
  else if op = 0x4C then { need := [0, 3], may := [1, 2], immMask := immBits [(0, 7)] }
  else { need := [0, 3], immMask := immBits [(0, 5)] }

/-- Read and check the route block of a command (R204, R205). -/
def routeCheck (c : Cmd) (s : State) : Chk Route := do
  let x ← readBlock s (cD c 3) 128
  let r := parseRoute (cD c 3) x
  let n := expNo c
  require (routeReservedOk x && r.sizesOk && r.alignOk && r.areasOk s
    && (if expPart (cOp c) then n < r.npart else n < r.nrange)
    && (!expOwn (cOp c) || cTarget c = n)) kEXP_PARAM r.addr
  return r

/-- A descriptor moved to another partition: BASE + p × PSTEP (R203). -/
def Desc.moved (d : Desc) (off : Nat) : Desc := { d with base := d.base + off }

/-- Does the footprint meet a range of bytes? -/
def Desc.meetsBytes (d : Desc) (a n : Nat) : Bool :=
  !d.hasZeroExtent && decide (0 < n) && decide (d.lo ≤ (a + n : Nat) - 1) && decide ((a : Int) ≤ d.hi)

/-- What an expert command works with. -/
structure ExpOpds where
  r : Route := {}
  d0 : Desc := {}
  d1 : Option Desc := none
  d2 : Option Desc := none
deriving DecidableEq, Repr

/-- Sectors read at acceptance. -/
def ExpOpds.sectors (o : ExpOpds) : List Nat :=
  sectorsOf o.r.addr 128 ++ (if o.d0.addr = 0 then [] else descSectors o.d0)
    ++ (match o.d1 with | some d => descSectors d | none => [])
    ++ (match o.d2 with | some d => descSectors d | none => [])

/-- D0 of EXP_SELECT: what the descriptor alone shows (R207). -/
def selectOpds (c : Cmd) (s : State) : Chk Desc := do
  let d ← checkDesc s false (cD c 0)
  needShape (d.ndim = 2) d
  needFmt ((d.fmt = fFP32 || d.fmt = fBF16 || d.fmt = fFP16) && d.ply = 0) d
  return d

/-- The extents of D0 that the route block gives (R207). -/
def selectExtents (r : Route) (c : Cmd) (d : Desc) : Chk Unit := needShape (d.sz 0 = r.t && d.sz 1 = r.experts (expNo c)) d

def selectCheck (i : Issued) (s : State) : Chk ExpOpds := do
  let r ← routeCheck i.cmd s
  let d ← selectOpds i.cmd s
  selectExtents r i.cmd d
  return { r := r, d0 := d }

/-- EXP_FANOUT and EXP_ASSIGN have the route block alone. -/
def blockCheck (i : Issued) (s : State) : Chk ExpOpds := do
  let r ← routeCheck i.cmd s
  return { r := r }

/-- D0 and D1 of EXP_DISPATCH: what the descriptors alone show (R216). -/
def dispatchOpds (c : Cmd) (s : State) : Chk (Desc × Desc) := do
  let a ← checkDesc s false (cD c 0)
  let b ← checkDesc s true (cD c 1)
  needShape (a.ndim = 2) a
  needShape (b.ndim = 3) b
  needShape (a.extent 0 = b.extent 0) b
  needFmt (expBit5 c || (a.fmt = b.fmt && a.ply = b.ply)) b
  return (a, b)

/-- The extent of D1 that the route block asks for (R216). -/
def dispatchExtents (r : Route) (b : Desc) : Chk Unit := needShape (r.c ≤ b.sz 1) b

def dispatchCheck (i : Issued) (s : State) : Chk ExpOpds := do
  let r ← routeCheck i.cmd s
  let (a, b) ← dispatchOpds i.cmd s
  let b' := b.moved (expNo i.cmd * r.pstep)
  require b'.inRange kDESC_RANGE b.addr
  dispatchExtents r b
  return { r := r, d0 := a, d1 := some b' }

/-- The operands of EXP_COMBINE: what the descriptors alone show (R217, R218). -/
def combineOpds (c : Cmd) (s : State) : Chk (Desc × Option Desc × Option Desc) := do
  let a ← checkDesc s false (cD c 0)
  needShape (a.ndim = 3) a
  let one (dest : Bool) (ref : Nat) : Chk (Option Desc) :=
    if ref = 0 then pure none
    else do
      let d ← checkDesc s dest ref
      needShape (d.ndim = 2) d
      needShape (d.extent 0 = a.extent 0) d
      return some d
  let b ← one false (cD c 1)
  let d ← one true (cD c 2)
  return (a, b, d)

def combineCheck (i : Issued) (s : State) : Chk ExpOpds := do
  let c := i.cmd
  needCmd (combMode c ≠ 3 && (combMode c ≠ 2 || (cD c 2 = 0 && cD c 1 ≠ 0))) i
  let r ← routeCheck c s
  let (a, b, d) ← combineOpds c s
  return { r := r, d0 := a, d1 := b, d2 := d }

/-- D0 of EXP_PREFETCH (Table 07-1). -/
def prefetchOpds (c : Cmd) (s : State) : Chk Desc := do
  let d ← checkDesc s false (cD c 0)
  needShape (d.ndim = 1) d
  needFmt (d.fmt = fINT32 && d.ply = 0) d
  return d

def prefetchCheck (i : Issued) (s : State) : Chk ExpOpds := do
  let r ← routeCheck i.cmd s
  let d ← prefetchOpds i.cmd s
  return { r := r, d0 := d }

end Sys2Proof.Machine
end

