-- ==== Sys2Proof/Machine/Spindle.lean ====
section
/-! DEFINITION. Spindles (chapter 04) and their twist buffers (R238 to R244): staging panels, the matrix instruction, hank
slots, the epilogue. -/

namespace Sys2Proof.Machine

def State.spindle (s : State) (n : Nat) : Spn := mget s.spn n {}
def State.setSpindle (s : State) (n : Nat) (x : Spn) : State := { s with spn := mput s.spn n x {} }

def lineSize : Nat := 2048
def panelLines : Nat := 3072

/-! ## Slot claims (R130) -/

/-- Does context `c`'s image claim slot `t` at position `p`? -/
def claims (s : State) (c p t : Nat) : Bool :=
  match mfind s.images c with
  | some im => nbit (im.hank.getD p 0) t
  | none => false

/-- The context that holds slot `t` at position `p`. -/
def slotOwner (s : State) (p t : Nat) : Option Nat :=
  (s.images.find? (fun e => nbit (e.2.hank.getD p 0) t)).map (·.1)

/-! ## Panels -/

/-- Bytes of one lane's record (R122, R240): `k` elements packed, as plies where scaled and not split. -/
def laneBytes (fmt ply k : Nat) (split : Bool) : Nat :=
  if ply = 0 || split then ceilDiv (k * fmtBits fmt) 8 else k / plyLen ply * plyBytes ply (fmtBits fmt)

/-- Bytes of a panel: its lane records, and in split-ply form 256 / B scale records of K bytes (R122, R240). -/
def panelBytes (fmt ply k : Nat) (split : Bool) : Nat :=
  256 * laneBytes fmt ply k split + (if split then 256 / plyLen ply * k else 0)

/-- Lines a panel uses (R122). -/
def panelLineCount (fmt ply k : Nat) (split : Bool) : Nat := ceilDiv (panelBytes fmt ply k split) lineSize

/-- Bit offset of element `k` of lane `l` in the panel area, and the byte offset of its scale (R119, R240). -/
def panelPlace (p : Panel) (l k : Nat) : Nat × Option Nat :=
  let w := fmtBits p.fmt
  let lane := p.line * lineSize + l * laneBytes p.fmt p.ply p.k p.split
  if p.ply = 0 then (lane * 8 + k * w, none)
  else if p.split then
    (lane * 8 + k * w,
      some (p.line * lineSize + 256 * laneBytes p.fmt p.ply p.k true + l / plyLen p.ply * p.k + k))
  else
    let blk := lane + k / plyLen p.ply * plyBytes p.ply w
    (blk * 8 + 8 + k % plyLen p.ply * w, some blk)

/-- One line of the panel area as it was. -/
def Spn.oldLine (x : Spn) (o : Overlay) (l : Nat) : Spn :=
  (List.range lineSize).foldl (fun x i =>
    let a := l * lineSize + i
    { x with feed := mput x.feed a (mget o.feed a 0) 0, feedP := mput x.feedP a (mget o.feedP a false) false }) x

/-- The panel area as an instruction finds it that is not ordered behind an unfinished stage: a mixture of old and new lines, `old`
saying which (R123). -/
def Spn.mixed (x : Spn) (old : Nat → Bool) : Spn :=
  x.was.foldr (fun o x => ((List.range o.nlines).filter (fun i => old (o.line + i))).foldl (fun x i => x.oldLine o (o.line + i)) x) x

/-- Value and poison of element `k` of lane `l` of a panel (R98, R139, R243). -/
def panelElem (tabs : FmtTabs) (x : Spn) (p : Panel) (l k : Nat) : Val × Bool :=
  let w := fmtBits p.fmt
  let (bit, sc) := panelPlace p l k
  let (a, n) := elemBytes bit w
  let bs := (List.range n).map (fun i => mget x.feed (a + i) 0)
  let pois := (List.range n).any (fun i => mget x.feedP (a + i) false)
  let v := decodeElem tabs p.fmt ((leNat bs >>> (bit % 8)) % 2 ^ w)
  match sc with
  | none => (v, pois)
  | some q => (v.mul (decodeScale p.ply (mget x.feed q 0).toNat), pois || mget x.feedP q false)

/-! ## SPN_STAGE (R121, R122, R239, R240) -/

def stagePanel (c : Cmd) : Nat := imm c 0 6
def stageLine (c : Cmd) : Nat := imm c 6 12
def stageMcast (c : Cmd) : Bool := imm c 18 1 = 1
def stageMask (c : Cmd) : Nat := imm c 19 16
def stageTrans (c : Cmd) : Bool := imm c 35 1 = 1
def stageRunv (c : Cmd) : Bool := imm c 36 1 = 1

def spnStageForm : OpForm := { need := [0], immMask := immBits [(0, 37)] }

/-- Positions a stage writes. -/
def stagePositions (c : Cmd) : List Nat :=
  if stageMcast c then (List.range 16).filter (fun p => nbit (stageMask c) p) else [cTarget c]

/-- Rules on the operand of SPN_STAGE (R117, R121, R239). Dimensions beyond the two that the rules name are taken at coordinate 0.
[DESIGN CHOICE, log 114] -/
def stageOpds (c : Cmd) (s : State) : Chk Opds := do
  let d ← checkDesc s false (cD c 0)
  needFmt (d.fmt ≠ fINT32) d
  needFmt (!(stageTrans c) || (d.w ≠ 6)) d
  needShape (2 ≤ d.ndim) d
  return ({} : Opds).add d false

/-- K of the panel a stage writes: the SIZE of the k dimension (R122). -/
def stageK (c : Cmd) (d : Desc) : Nat := if stageTrans c then d.sz 1 else d.sz 0

def stageSplit (c : Cmd) (d : Desc) : Bool := stageTrans c && d.ply ≠ 0

/-- Lines a stage uses, given its source. -/
def stageLines (c : Cmd) (d : Desc) : Nat := panelLineCount d.fmt d.ply (stageK c d) (stageSplit c d)

def stageCheck (i : Issued) (s : State) : Chk Opds := do
  let c := i.cmd
  needCmd (if stageMcast c then nbit (stageMask c) (cTarget c) else stageMask c = 0) i
  let o ← stageOpds c s
  match o.descs with
  | (d, _) :: _ => require (stageLine c + stageLines c d ≤ panelLines) kFEED_RANGE i.addr.toNat
  | [] => pure ()
  return o

/-- Valid lanes of a stage. -/
def stageVlanes (i : Issued) : Nat := if stageRunv i.cmd then min 256 (runSize i) else 256

/-- Source coordinate of k-step `k` of lane `l`. -/
def stageCoord (c : Cmd) (l k : Nat) : List Nat := if stageTrans c then [l, k] else [k, l]

/-! ## The twist buffer (R238 to R243) -/

/-- Element `k` of lane `l` of a transposing transfer of elements `w` bits wide: the half it passes, counted on from the half `h0` that
the first tile takes, and its first bit in the buffer. -/
def twistPlace (w h0 l k : Nat) : Nat × Nat :=
  let u := 32 / w
  let h := h0 + k / (256 * u)
  let c := k % (256 * u) / u
  (h, ((c + l) % 256 * 2048 + (h % 2 * 256 + c) * 4) * 8 + k % u * w)

/-- Does a parity error of a bank strike the element (R243)? -/
def twistStruck (hs : List Hit) (n w h0 l k : Nat) : Bool :=
  let (h, bit) := twistPlace w h0 l k
  let (a, m) := elemBytes bit w
  hs.any (fun x => x.src = srcTwb n && (List.range m).any (fun i => strikes x (h / 2 * 524288 + a + i)))

/-- Tiles of a transposing transfer of `depth` k-steps. -/
def twistTiles (w depth : Nat) : Nat := ceilDiv depth (256 * (32 / w))

/-- Pass `depth` k-steps of lanes 0 to `lanes` − 1 through the twist buffer: the cells they take, a unit that a lane's run leaves
unfinished completed with code 0 (R239); `elem` gives code and poison. Halves alternate from tile to tile. [DEDUCED, log 115] -/
def twistFill (hs : List Hit) (n w lanes depth : Nat) (elem : Nat → Nat → Nat × Nat) (x : Spn) : Spn :=
  let u := 32 / w
  let m := (List.range lanes).foldl (fun m l => (List.range (ceilDiv depth u * u)).foldl (fun m k =>
    let e := if k < depth then elem l k else (0, 0)
    addBits m (twistPlace w x.twHalf l k).2 w e.1
      (if k < depth && twistStruck hs n w x.twHalf l k then 2 ^ w - 1 else e.2)) m) []
  { m.foldl (fun (x : Spn) e =>
      { x with twb := mput x.twb e.1 (BitVec.ofNat 8 e.2.val) 0, twbP := mput x.twbP e.1 (e.2.pmask ≠ 0) false }) x with
    twHalf := (x.twHalf + twistTiles w depth) % 2 }

/-- The poisoned bits of an element that was read. -/
def RdElem.marks (e : RdElem) (w : Nat) : Nat := WrBits.marks { bit := 0, width := w, code := 0, poison := e.poison, clean := e.clean }

/-- The panel area's bytes that one lane's elements take, poison included: where the lane passes the transposing path, a byte that its
run leaves unfinished ends in code 0 (R239). `struck`: the elements that a parity error of the twist buffer strikes. -/
def stageLane (s : State) (c : Cmd) (d : Desc) (p : Panel) (struck : Nat → Nat → Bool) (l : Nat) (m : AMap ByteAcc) : AMap ByteAcc :=
  let m1 := (List.range p.k).foldl (fun m k =>
    let e := readElem s d (stageCoord c l k)
    addBits m (panelPlace p l k).1 d.w e.code (if struck l k then 2 ^ d.w - 1 else e.marks d.w)) m
  if stageTrans c && p.k * d.w % 8 ≠ 0 then addBits m1 (panelPlace p l p.k).1 d.w 0 0 else m1

/-- The scale bytes: one for each block of a lane's k-run, or one for each lane group and k-step in split-ply form. -/
def stageScales (s : State) (c : Cmd) (d : Desc) (p : Panel) (l : Nat) (m : AMap ByteAcc) : AMap ByteAcc :=
  if p.ply = 0 then m
  else (List.range p.k).foldl (fun m k =>
    let first := if p.split then l % plyLen p.ply = 0 else k % plyLen p.ply = 0
    match (panelPlace p l k).2 with
    | some q =>
      let sc := readScale s d (stageCoord c l k)
      if first then mset m q { val := sc.1, mask := 255, pmask := if sc.2 then 255 else 0 } else m
    | none => m) m

/-- Write a panel into physical spindle `n` and record it; the transposing path leaves its tiles in the twist buffer (R122, R240). -/
def writePanel (hs : List Hit) (n : Nat) (i : Issued) (d : Desc) (p : Panel) (s : State) : State :=
  let c := i.cmd
  let x0 := s.spindle n
  let struck (l k : Nat) : Bool := stageTrans c && twistStruck hs n d.w x0.twHalf l k
  let m := (List.range p.vlanes).foldl (fun m l => stageScales s c d p l (stageLane s c d p struck l m)) []
  let x := if stageTrans c then
      twistFill hs n d.w p.vlanes p.k (fun l k => let e := readElem s d (stageCoord c l k); (e.code, e.marks d.w)) x0
    else x0
  let x1 := m.foldl (fun (x : Spn) e =>
    let old := (mget x.feed e.1 0).toNat
    { x with feed := mput x.feed e.1 (BitVec.ofNat 8 (without old e.2.mask ||| e.2.val)) 0
             feedP := mput x.feedP e.1 (e.2.pmask ≠ 0 || (e.2.mask ≠ 255 && mget x.feedP e.1 false)) false }) x
  let x2 := { x1 with
    lineV := (List.range p.nlines).foldl (fun v i => mput v (p.line + i) true false) x1.lineV
    panels := mset x1.panels (stagePanel c) p
    was := if stageMcast c then x.was ++ [{ id := i.id, line := p.line, nlines := p.nlines, feed := x.feed, feedP := x.feedP }] else x.was }
  let bytes := p.vlanes * laneBytes p.fmt p.ply p.k p.split
  let s1 := s.setSpindle n x2
  if stageTrans c then countFree (rTwb n 0x0C) (s1.count (rTwb n 0x04) (twistTiles (fmtBits p.fmt) p.k))
  else s1.count (rTwb n 0x08) (ceilDiv bytes 1024)

/-- The coordinates a stage reads. -/
def stageCoords (c : Cmd) (k vlanes : Nat) : List (List Nat) :=
  (List.range vlanes).flatMap (fun l => (List.range k).map (fun j => stageCoord c l j))

/-- The panel that a stage leaves in a feed buffer. -/
def stagedPanel (i : Issued) (d : Desc) : Panel :=
  let c := i.cmd
  { line := stageLine c, nlines := stageLines c d, fmt := d.fmt, ply := d.ply, k := stageK c d, vlanes := stageVlanes i
    split := stageSplit c d }

/-- The source of a stage. -/
def stageSource (o : Opds) : Desc := (o.descs.headD ({}, false)).1

/-- What a stage comes to: it stores nothing in skein memory. -/
def stageEff (i : Issued) (o : Opds) (s : State) : Eff :=
  let d := stageSource o
  let p := stagedPanel i d
  ({ secs := o.sectors } : Eff).reads d ((stageCoords i.cmd p.k p.vlanes).map (readElem s d))

/-- A multicast stage counts its packets where the creel sends it as a multicast. The spec does not say how many packets that is, nor
whether a multicast that MCAST_MODE turns into unicasts counts: at least one and otherwise a free number; and none.
[DESIGN CHOICE, log 116] -/
def countMcast (s : State) : State :=
  if (s.getReg (rCrl 0x14)).getLsbD 0 then (s.count (rCrl 0x0C) (Config.freeNat s.free + 1)).bumpFree else s

/-- The panel goes into the feed buffer of every position of the mask (R122). -/
def stagePanels (hs : List Hit) (i : Issued) (o : Opds) (s : State) : State :=
  let c := i.cmd
  let d := stageSource o
  let s1 := (stagePositions c).foldl (fun s q => writePanel hs (physOf s q) i d (stagedPanel i d) s) s
  clearStruck (if stageMcast c then countMcast s1 else s1)

def stageRun (hs : List Hit) (i : Issued) (o : Opds) (s : State) : State :=
  if stageRunv i.cmd && runSize i = 0 then refuseCmd (cTarget i.cmd) i stEMPTY s
  else finishCmd (cTarget i.cmd) i (stageEff i o s) (stagePanels hs i o s)

/-! ## SPN_MMA operands (R116, R117, R124) -/

def mmaASrc (c : Cmd) : Bool := imm c 0 1 = 1
def mmaAPanel (c : Cmd) : Nat := imm c 1 6
def mmaBSrc (c : Cmd) : Bool := imm c 7 1 = 1
def mmaBPanel (c : Cmd) : Nat := imm c 8 6
def mmaSlot (c : Cmd) : Nat := imm c 14 6
def mmaOpen (c : Cmd) : Bool := imm c 20 1 = 1
def mmaClose (c : Cmd) : Bool := imm c 21 1 = 1
def mmaRunv (c : Cmd) : Bool := imm c 22 1 = 1
def mmaATrans (c : Cmd) : Bool := imm c 23 1 = 1
def mmaBTrans (c : Cmd) : Bool := imm c 24 1 = 1
def mmaK0 (c : Cmd) : Nat := 32 * imm c 25 12
def mmaDepth (c : Cmd) : Nat := imm c 37 24 + 1

def spnMmaForm : OpForm := { may := [0, 1, 2, 3], immMask := immBits [(0, 61)] }

/-- k-steps per group of an operand format; 0 stands for the three-pass mode (Table 04-1). -/
def groupSize (f : Nat) : Nat :=
  if f = fFP32 then 0 else if f = fBF16 || f = fFP16 then 1 else if fmtBits f = 8 then 2 else 4

/-! ## The epilogue block (R132) -/

structure Epi where
  addr : Nat := 0
  rowScale : Option Desc := none
  colScale : Option Desc := none
  bias : Option Desc := none
  biasRow : Bool := false
  topVal : Option Desc := none
  topPos : Option Desc := none
  topK : Nat := 0
  topMode : Nat := 0
  posBase : Word := 0
  beta : Word := 0
  layer : Nat := 0
  rowblk : Nat := 0
  coltile : Nat := 0
  stats : Bool := false
  curve : Option Nat := none
deriving DecidableEq, Repr

/-- The block's own rules (BAD_EPILOGUE) over its 64 bytes. -/
def epiOk (x : Nat) : Bool :=
  let w := wordBits x
  let mode := w 3 55 2
  w 0 48 16 = 0 && w 1 48 16 = 0 && w 2 49 15 = 0 && w 3 57 7 = 0 && w 4 48 16 = 0 && w 6 42 22 = 0 && w 7 0 64 = 0
  && mode ≠ 3 && (mode = 0 || (1 ≤ w 3 48 7 && w 3 48 7 ≤ 64))
  && [w 0 0 48, w 1 0 48, w 2 0 48, w 3 0 48, w 4 0 48].all (fun r => r % 64 = 0)
  && (if mode = 0 then w 3 0 48 = 0 && w 4 0 48 = 0 else w 3 0 48 ≠ 0 && w 4 0 48 ≠ 0)

/-- A vector operand: FP32, BF16 or FP16, one dimension (R132). -/
def checkVector (s : State) (a : Nat) : Chk Desc := do
  let d ← checkDesc s false a
  needFmt (d.fmt = fFP32 || d.fmt = fBF16 || d.fmt = fFP16) d
  needShape (d.ndim = 1) d
  return d

def checkVectorOpt (s : State) (a : Nat) : Chk (Option Desc) :=
  if a = 0 then pure none else do let d ← checkVector s a; return some d

/-- Read and check the epilogue block at `a`; `live`: also the rules that depend on the part (a valid curve). -/
def checkEpi (s : State) (a : Nat) : Chk Epi := do
  if a = 0 then return {}
  else
    let x ← readBlock s a 64
    let w := wordBits x
    require (epiOk x) kBAD_EPILOGUE a
    let cur := w 6 37 4
    let curEn := w 6 41 1 = 1
    if curEn && !(mfind s.curves cur).isSome then
      throw { kind := kCURVE_INVALID, addr := cur, param := true }
    let rs ← checkVectorOpt s (w 0 0 48)
    let cs ← checkVectorOpt s (w 1 0 48)
    let bi ← checkVectorOpt s (w 2 0 48)
    let mode := w 3 55 2
    let tv ← if mode = 0 then pure none else do
      let d ← checkDesc s true (w 3 0 48)
      needShape (2 ≤ d.ndim) d
      pure (some d)
    let tp ← if mode = 0 then pure none else do
      let d ← checkDesc s true (w 4 0 48)
      needFmt (d.fmt = fINT32) d
      needShape (2 ≤ d.ndim) d
      pure (some d)
    return { addr := a, rowScale := rs, colScale := cs, bias := bi, biasRow := w 2 48 1 = 1, topVal := tv, topPos := tp,
             topK := w 3 48 7, topMode := mode, posBase := BitVec.ofNat 32 (w 5 0 32), beta := BitVec.ofNat 32 (w 5 32 32),
             layer := w 6 0 12, rowblk := w 6 12 16, coltile := w 6 28 8, stats := w 6 36 1 = 1,
             curve := if curEn then some cur else none }

def Epi.opds (e : Epi) : Opds :=
  { descs := (e.rowScale.toList ++ e.colScale.toList ++ e.bias.toList).map (fun d => (d, false))
      ++ (e.topVal.toList ++ e.topPos.toList).map (fun d => (d, true))
    blocks := if e.addr = 0 then [] else [(e.addr, 64)] }

/-- A streamed operand (R117, R124, R239): dimensions 0 and 1 are k and the lane; the rules name no NDIM, so one dimension is too few
and those beyond two are taken at coordinate 0, for D2 and the top-k outputs too. [DESIGN CHOICE, log 114] -/
def checkStream (s : State) (a : Nat) (trans : Bool) : Chk Desc := do
  let d ← checkDesc s false a
  needFmt (d.fmt ≠ fINT32) d
  needFmt (!trans || (d.w ≠ 6 && d.ply = 0)) d
  needShape (2 ≤ d.ndim) d
  return d

/-- What an SPN_MMA names in memory. -/
structure MmaOpds where
  a : Option Desc := none
  b : Option Desc := none
  out : Option Desc := none
  epi : Epi := {}
deriving DecidableEq, Repr

def MmaOpds.opds (m : MmaOpds) : Opds :=
  let o := m.epi.opds
  { o with descs := (m.a.toList ++ m.b.toList).map (fun d => (d, false)) ++ m.out.toList.map (fun d => (d, true)) ++ o.descs }

/-- References that the IMM requires or forbids (R474, R124). -/
def mmaFieldsOk (c : Cmd) : Bool :=
  (if mmaASrc c then cD c 0 = 0 && !mmaATrans c else cD c 0 ≠ 0)
  && (if mmaBSrc c then cD c 1 = 0 && !mmaBTrans c else cD c 1 ≠ 0)
  && (mmaClose c || (cD c 2 = 0 && cD c 3 = 0))

/-- Operand rules of SPN_MMA: the epilogue block first, then the descriptors (R125). -/
def mmaOpds (c : Cmd) (s : State) : Chk MmaOpds := do
  let e ← if mmaClose c then checkEpi s (cD c 3) else pure {}
  let a ← if mmaASrc c then pure none else do let d ← checkStream s (cD c 0) (mmaATrans c); pure (some d)
  let b ← if mmaBSrc c then pure none else do let d ← checkStream s (cD c 1) (mmaBTrans c); pure (some d)
  let o ← if mmaClose c && cD c 2 ≠ 0 then do
      let d ← checkDesc s true (cD c 2)
      needShape (2 ≤ d.ndim) d
      pure (some d)
    else pure none
  return { a := a, b := b, out := o, epi := e }

/-- A panel operand has an entry, and the k-range lies inside it (R125). -/
def checkPanel (x : Spn) (i : Issued) (panel : Nat) : Chk Unit :=
  match mfind x.panels panel with
  | none => throw { kind := kFEED_PANEL, addr := i.addr.toNat }
  | some p => require (mmaK0 i.cmd + mmaDepth i.cmd ≤ p.k) kFEED_RANGE i.addr.toNat

/-- The acceptance checks of R125, after the command's own fields (R474). -/
def mmaCheck (i : Issued) (s : State) : Chk MmaOpds := do
  let c := i.cmd
  let x := s.spindle (physOf s (cTarget c))
  needCmd (mmaFieldsOk c) i
  if mmaASrc c && !(mfind x.panels (mmaAPanel c)).isSome then throw { kind := kFEED_PANEL, addr := i.addr.toNat }
  if mmaBSrc c && !(mfind x.panels (mmaBPanel c)).isSome then throw { kind := kFEED_PANEL, addr := i.addr.toNat }
  if mmaASrc c then checkPanel x i (mmaAPanel c)
  if mmaBSrc c then checkPanel x i (mmaBPanel c)
  require (claims s (cCtx c) (cTarget c) (mmaSlot c)) kHANK_OWNER i.addr.toNat
  require (mmaOpen c != mget x.isOpen (mmaSlot c) false) kHANK_STATE i.addr.toNat
  mmaOpds c s

/-! ## The cells (R114 to R116) -/

/-- One operand as the cells see it: format, lanes valid, value and poison of (lane, k). -/
structure Operand where
  fmt : Nat
  lanes : Nat
  elem : Nat → Nat → Val × Bool

def panelOperand (tabs : FmtTabs) (x : Spn) (p : Panel) : Operand :=
  { fmt := p.fmt, lanes := p.vlanes, elem := panelElem tabs x p }

def streamCoord (trans : Bool) (l k : Nat) : List Nat := if trans then [l, k] else [k, l]

def streamOperand (s : State) (d : Desc) (trans : Bool) : Operand :=
  { fmt := d.fmt, lanes := 256,
    elem := fun l k => let r := readElem s d (streamCoord trans l k); (r.val, r.poison) }

/-- hi part of an FP32 value (R116). -/
def hiPart (w : Word) : Word := w &&& 0xFFFF0000

/-- lo part: a − hi rounded to BF16; zero for infinity and NaN. -/
def loPart (w : Word) : Val :=
  if nonFinite32 w then Val.zero
  else decodeIeee 8 7 (roundIeee 8 7 (nanPattern 8 7) ((val32 w).sub (val32 (hiPart w))))

def hiVal (w : Word) : Val := if nonFinite32 w then val32 w else val32 (hiPart w)

/-- The exact contribution of one k-step in three-pass mode: hi·hi + hi·lo + lo·hi, by the rules of IEEE 754 (R116). -/
def threePass (x y : Val) : Val :=
  let a := round32 x
  let b := round32 y
  (((hiVal a).mul (hiVal b)).add ((hiVal a).mul (loPart b))).add ((loPart a).mul (hiVal b))

/-- One group: the exact sum of its products and the accumulator, rounded once (R115). -/
def groupStep (three : Bool) (a b : Nat → Val) (ks : List Nat) (acc : Word) : Word :=
  round32 ((ks.foldl (fun t k => t.add (if three then threePass (a k) (b k) else (a k).mul (b k))) (val32 acc)))

/-- All groups of an instruction for one cell. -/
def cellRun (three : Bool) (g k0 depth : Nat) (a b : Nat → Val) (acc : Word) : Word :=
  (chunks g ((List.range depth).map (k0 + ·))).foldl (fun acc ks => groupStep three a b ks acc) acc

/-- Does any element the cell uses carry poison? -/
def cellPoison (k0 depth : Nat) (a b : Nat → Bool) : Bool := (List.range depth).any (fun k => a (k0 + k) || b (k0 + k))

/-! ## The curve (R134) -/

/-- Word `i` of a curve table. -/
def curveWord (t : List Word) (i : Nat) : Word := t.getD i 0

/-- floor of an FP32 value, clamped to 0 … 1023. -/
def curveIndex (u : Word) : Nat :=
  match val32 u with
  | .nan => 0
  | .inf n => if n then 0 else 1023
  | .fin n m e => if n then 0 else let p := dyadic m e; min (p.1 / p.2) 1023

/-- Step 3 of the epilogue. -/
def applyCurve (t : List Word) (v : Word) : Word :=
  match val32 v with
  | .nan => nan32
  | .inf n => if n then curveWord t 3 else curveWord t 4
  | .fin _ _ _ =>
    let u := mul32 (sub32 v (curveWord t 0)) (curveWord t 2)
    let i := curveIndex u
    fma32 (curveWord t (8 + 2 * i)) v (curveWord t (9 + 2 * i))

/-- A curve table's words are valid (R134): 8,224 bytes are 2,056 words. -/
def curveValid (t : List Word) : Bool :=
  let fin (w : Word) : Bool := !nonFinite32 w
  t.length = 2056 && fin (curveWord t 0) && fin (curveWord t 1)
  && (val32 (curveWord t 0)).lt (val32 (curveWord t 1))
  && fin (curveWord t 2) && Val.zero.lt (val32 (curveWord t 2))
  && !isNan32 (curveWord t 3) && !isNan32 (curveWord t 4)
  && (List.range 3).all (fun i => curveWord t (5 + i) = 0)
  && (t.drop 8).all fin

/-! ## The drain (R133 to R138) -/

/-- A drained cell: v3 and poison. -/
abbrev Drained := Word × Bool

/-- One vector element: pattern, poison, the read. -/
def vecElem (s : State) (d : Option Desc) (x : Nat) (dflt : Word) : Word × Bool :=
  match d with
  | none => (dflt, false)
  | some d => let r := readElem s d [x]; (round32 r.val, r.poison)

/-- Steps 1 to 3 for cell (i, j) (R133, R134). An absent scale is 1.0, an absent bias +0. -/
def drainCell (s : State) (e : Epi) (i j : Nat) (v : Word) (p : Bool) : Drained :=
  let one : Word := 0x3F800000
  let (rs, rp) := vecElem s e.rowScale i one
  let (cs, cp) := vecElem s e.colScale j one
  let (b, bp) := vecElem s e.bias (if e.biasRow then i else j) 0
  let v1 := mul32 (mul32 v rs) cs
  let v2 := add32 v1 b
  let v3 := match e.curve with | some c => applyCurve (mget s.curves c []) v2 | none => v2
  (v3, p || rp || cp || bp)

/-- The row statistics (m, s) of R136. Where −0 and +0 tie for the maximum, m has the sign of the first: the spec gives none.
[DESIGN CHOICE, log 117] -/
def rowStats (beta : Word) (vs : List Word) : Word × Word :=
  let us := vs.map (fun v => mul32 v beta)
  let m := max32 us
  (m, if m = 0xFF800000 then 0 else us.foldl (fun t u => add32 t (exp32 (sub32 u m))) 0)

/-- Rank order of R137: NaN highest, then by value. -/
def rankAbove (a b : Word) : Bool :=
  if isNan32 a then !isNan32 b else if isNan32 b then false else (val32 b).lt (val32 a)

/-- Insert a candidate (value, index) into a list ranked best first; between equals the earlier one stays first. -/
def rankInsert (c : Drained × Nat) : List (Drained × Nat) → List (Drained × Nat)
  | [] => [c]
  | x :: r => if rankAbove c.1.1 x.1.1 then c :: x :: r else x :: rankInsert c r

/-- Candidates in rank order. -/
def rankAll (cs : List (Drained × Nat)) : List (Drained × Nat) := cs.foldl (fun l c => rankInsert c l) []

/-- Top-k entries of one row or column: (value or none for FILL, position) and whether they are poisoned. -/
def topEntries (k : Nat) (base : Word) (cs : List (Drained × Nat)) : List (Option Word × Word) × Bool :=
  let r := rankAll cs
  ((List.range k).map (fun e =>
    match r[e]? with
    | some c => (some c.1.1, base + BitVec.ofNat 32 c.2)
    | none => (none, 0xFFFFFFFF)), cs.any (fun c => c.1.2))

/-- Step 6 for row `i`: `row` holds the 256 columns, none where the column is not valid. -/
def encodeOutRow (s : State) (d : Desc) (i : Nat) (row : List (Option Drained)) : Encoded :=
  if d.ply = 0 then
    row.zipIdx.foldl (fun acc v =>
      match v.1 with
      | some x => acc.append (encodeElem s d [v.2, i] (val32 x.1) x.2)
      | none => acc) {}
  else
    (chunks (plyLen d.ply) row).zipIdx.foldl (fun acc b =>
      acc.append (encodePlyMasked s d [b.2 * plyLen d.ply, i]
        (b.1.map (fun o => o.map (fun x => (val32 x.1, x.2)))))) {}

/-- The top-k writes of one row or column `x`. -/
def encodeTop (s : State) (e : Epi) (x : Nat) (cs : List (Drained × Nat)) : Encoded × Encoded :=
  let (ents, pois) := topEntries e.topK e.posBase cs
  match e.topVal, e.topPos with
  | some dv, some dp =>
    let vals := ents.map (fun t => match t.1 with | some w => val32 w | none => dv.fillVal)
    (encodeRow s dv 0 [x] (vals.map (fun v => (v, pois))),
     ents.zipIdx.foldl (fun acc t => acc.append (storeCode s dp [t.2, x] t.1.2.toNat pois)) {})
  | _, _ => ({}, {})

/-! ## Executing an SPN_MMA -/

/-- The tile that the cells begin with (R127, R128): cells and poison. -/
def loadTile (x : Spn) (slot : Nat) : AMap Word × AMap Bool :=
  if x.cellSlot = some slot then (x.cells, x.cellsP)
  else if mget x.isOpen slot false then
    ((x.hank.filter (fun e => e.1 / 65536 = slot)).map (fun e => (e.1 % 65536, e.2)),
     (x.hankP.filter (fun e => e.1 / 65536 = slot)).map (fun e => (e.1 % 65536, e.2)))
  else ([], [])

/-- Replace slot `t` of a hank table. -/
def replaceSlot {α : Type} (m : AMap α) (t : Nat) (tile : AMap α) : AMap α :=
  m.filter (fun e => e.1 / 65536 < t) ++ tile.map (fun e => (t * 65536 + e.1, e.2)) ++ m.filter (fun e => t < e.1 / 65536)

/-- Park the tile in the cells into its slot (R128). -/
def parkTile (x : Spn) : Spn :=
  match x.cellSlot with
  | some t => { x with hank := replaceSlot x.hank t x.cells, hankP := replaceSlot x.hankP t x.cellsP,
                       cellSlot := none, cells := [], cellsP := [] }
  | none => x

/-- A slot becomes FREE: its valid bits clear; its tile leaves the cells. -/
def freeSlot (t : Nat) (x : Spn) : Spn :=
  let x1 := { x with isOpen := mput x.isOpen t false false, hank := replaceSlot x.hank t [], hankP := replaceSlot x.hankP t [] }
  if x1.cellSlot = some t then { x1 with cellSlot := none, cells := [], cellsP := [] } else x1

/-- The items that the events of one part of a block strike. -/
def struckItems (hs : List Hit) (source : BitVec 16) (part : Nat) : List Nat :=
  (hs.filter (fun h => h.src = source && h.part = part)).flatMap (fun h => h.at_ :: h.also)

/-- Parity errors of this step that strike the hank or the panel area of spindle `n` (R139). -/
def strikeSpn (n : Nat) (hs : List Hit) (x : Spn) : Spn :=
  let x1 := (struckItems hs (srcHnk n) 0).foldl (fun (x : Spn) a =>
    if mget x.isOpen (a / 65536) false then
      (if x.cellSlot = some (a / 65536) then { x with cellsP := mput x.cellsP (a % 65536) true false }
       else { x with hankP := mput x.hankP a true false })
    else x) x
  (struckItems hs (srcSpn n) 0).foldl (fun (x : Spn) a => { x with feedP := mput x.feedP a true false }) x1

/-- Parity errors that strike the shadows while the tile of slot `t` passes through them (R128, R139): its elements. -/
def shadowStruck (n : Nat) (hs : List Hit) (t : Nat) : List Nat :=
  (struckItems hs (srcSpn n) 2).filterMap (fun a => if a / 65536 = t then some (a % 65536) else none)

/-- A tile with elements poisoned. -/
def poisonTile (tile : AMap Word × AMap Bool) (es : List Nat) : AMap Word × AMap Bool :=
  (tile.1, es.foldl (fun m e => mput m e true false) tile.2)

/-- The operands as the instruction takes them. -/
def mmaOperand (s : State) (x : Spn) (src_ : Bool) (panel : Nat) (d : Option Desc) (trans : Bool) : Operand :=
  if src_ then panelOperand s.fmt x (mget x.panels panel { line := 0, nlines := 0, fmt := 0, ply := 0, k := 0, vlanes := 0 })
  else match d with
    | some d => streamOperand s d trans
    | none => { fmt := 0, lanes := 0, elem := fun _ _ => (Val.zero, false) }

/-- Coordinates a stream reads. -/
def streamCoords (trans : Bool) (lanes k0 depth : Nat) : List (List Nat) :=
  (List.range lanes).flatMap (fun l => (List.range depth).map (fun k => streamCoord trans l (k0 + k)))

/-- Stream the k-steps through the tile: the cells after the instruction (R113 to R116). -/
def mmaCells (c : Cmd) (a b : Operand) (rows cols : Nat) (tile : AMap Word × AMap Bool) : AMap Word × AMap Bool :=
  let three := a.fmt = fFP32 || b.fmt = fFP32
  let g := if three then 1 else min (groupSize a.fmt) (groupSize b.fmt)
  (List.range rows).foldl (fun t i => (List.range cols).foldl (fun (t : AMap Word × AMap Bool) j =>
    let key := i * 256 + j
    let v := cellRun three g (mmaK0 c) (mmaDepth c) (fun k => (a.elem i k).1) (fun k => (b.elem j k).1) (mget t.1 key 0)
    let p := mget t.2 key false
      || cellPoison (mmaK0 c) (mmaDepth c) (fun k => (a.elem i k).2) (fun k => (b.elem j k).2)
    (mput t.1 key v 0, mput t.2 key p false)) t) tile

/-- The drain of a closing instruction (R133 to R140): the effect so far with its writes, and the state after the
statistics records. -/
def drainTile (u : Nat) (i : Issued) (m : MmaOpds) (rows cols : Nat) (tile : AMap Word × AMap Bool) (e0 : Eff) (s : State) :
    Eff × State :=
  let e := m.epi
  let c := i.cmd
  let cell (r k : Nat) : Drained := drainCell s e r k (mget tile.1 (r * 256 + k) 0) (mget tile.2 (r * 256 + k) false)
  let rowOf (r : Nat) : List Drained := (List.range cols).map (cell r)
  -- vector reads, each once
  let vreads (d : Option Desc) (n : Nat) (eff : Eff) : Eff :=
    match d with | some d => eff.reads d ((List.range n).map (fun x => readElem s d [x])) | none => eff
  let e1 := vreads e.bias (if e.biasRow then rows else cols) (vreads e.colScale cols (vreads e.rowScale rows e0))
  -- step 4
  let flyer := u / 4
  let key : FKey := ⟨cCtx c, cStep c, 0, e.layer, e.rowblk, e.coltile⟩
  let (s2, dropped, statNF, statP) :=
    if e.stats && 0 < cols then
      (List.range rows).foldl (fun (acc : State × Nat × Bool × Bool) r =>
        let row := rowOf r
        let (mm, ss) := rowStats e.beta (row.map (·.1))
        let p := row.any (·.2)
        let (s', ok) := flyWrite flyer key r { a := mm, b := ss, poison := p } acc.1
        (s', acc.2.1 + (if ok then 0 else 1), acc.2.2.1 || nonFinite32 mm || nonFinite32 ss, acc.2.2.2 || (p && ok)))
        (s, 0, false, false)
    else (s, 0, false, false)
  -- step 5
  let tops : List (Encoded × Encoded) :=
    if e.topMode = 1 then (List.range rows).map (fun r => encodeTop s e r ((rowOf r).zipIdx))
    else if e.topMode = 2 then
      (List.range cols).map (fun k => encodeTop s e k (((List.range rows).map (fun r => cell r k)).zipIdx))
    else []
  let topNF := (e.topMode ≠ 0) && (List.range rows).any (fun r => (rowOf r).any (fun x => nonFinite32 x.1)) && tops.any (fun t => t.1.nonFin)
  let e2 := match e.topVal, e.topPos with
    | some dv, some dp => tops.foldl (fun (eff : Eff) t => (eff.encoded s dv t.1).encoded s dp t.2) e1
    | _, _ => e1
  -- step 6
  let e3 := match m.out with
    | some d => (List.range rows).foldl (fun (eff : Eff) r =>
        eff.encoded s d (encodeOutRow s d r ((List.range 256).map (fun k => if k < cols then some (cell r k) else none)))) e2
    | none => e2
  let writesP := statP || e3.elems.any (·.poison)
  let e4 := if writesP then e3.consume i.addr.toNat else e3
  let e5 := { e4 with nonFin := e4.nonFin || statNF || topNF
                      faults := if 0 < dropped then [{ statsFull e.layer e.rowblk with count := dropped }] else [] }
  (e5, s2)

/-- The first poisoned element of an operand, for the address that POISON_CONSUMED carries (R333). -/
def firstPoisoned (s : State) (d : Option Desc) (cs : List (List Nat)) : Option Nat :=
  match d with
  | some d => (cs.map (readElem s d)).findSome? (fun r => if r.poison then some r.pAddr else none)
  | none => none

/-- The device address of the first poisoned byte among the operands of a closing instruction: streams, then vectors. A panel or an
accumulator has none. -/
def mmaPoison (s : State) (m : MmaOpds) (csA csB : List (List Nat)) (rows cols : Nat) : Option Nat :=
  let vec (n : Nat) : List (List Nat) := (List.range n).map (fun x => [x])
  [(m.a, csA), (m.b, csB), (m.epi.rowScale, vec rows), (m.epi.colScale, vec cols),
    (m.epi.bias, vec (if m.epi.biasRow then rows else cols))].findSome? (fun x => firstPoisoned s x.1 x.2)

/-- Bytes of a streamed operand on the straight path, its scale bytes included (R264). -/
def straightBytes (d : Option Desc) (trans : Bool) (lanes depth : Nat) : Nat :=
  match d with
  | some d => if trans then 0 else lanes * (ceilDiv (depth * d.w) 8 + (if d.ply = 0 then 0 else ceilDiv depth (plyLen d.ply)))
  | none => 0

/-- A streamed operand leaves its trace in the stream area and, where it is turned, in the twist buffer. -/
def streamInto (hs : List Hit) (n : Nat) (c : Cmd) (s : State) (d : Option Desc) (trans : Bool) (lanes : Nat) (x : Spn) : Spn :=
  match d with
  | some d =>
    if trans then
      twistFill hs n d.w lanes (mmaDepth c)
        (fun l k => let e := readElem s d (streamCoord trans l (mmaK0 c + k)); (e.code, e.marks d.w)) x
    else x
  | none => x

/-- What an SPN_MMA comes to, and the state with its slot, its counters and its statistics records. Of two turned operands the twist
buffer takes the tiles of A first. [DEDUCED, log 115] -/
def mmaWork (hs : List Hit) (i : Issued) (m : MmaOpds) (s : State) : Eff × State :=
  let c := i.cmd
  let u := cTarget c
  let n := physOf s u
  let x0 := strikeSpn n hs (s.spindle n)
  let seen := x0.mixed (fun l => Config.freeBool (s.free + l))
  let slot := mmaSlot c
  let tilesA := match m.a with | some d => if mmaATrans c then twistTiles d.w (mmaDepth c) else 0 | none => 0
  let turned (trans : Bool) (h0 w : Nat) (l k : Nat) : Bool := trans && twistStruck hs n w h0 l (k - mmaK0 c)
  let struckBy (o : Operand) (trans : Bool) (h0 : Nat) : Operand :=
    { o with elem := fun l k => let e := o.elem l k; (e.1, e.2 || turned trans h0 (fmtBits o.fmt) l k) }
  let a := struckBy (mmaOperand s seen (mmaASrc c) (mmaAPanel c) m.a (mmaATrans c)) (mmaATrans c) x0.twHalf
  let b := struckBy (mmaOperand s seen (mmaBSrc c) (mmaBPanel c) m.b (mmaBTrans c)) (mmaBTrans c) (x0.twHalf + tilesA)
  let rows := if mmaRunv c then min a.lanes (runSize i) else a.lanes
  let cols := b.lanes
  let stays := x0.cellSlot = some slot
  let tile0 := if stays then loadTile x0 slot else poisonTile (loadTile x0 slot) (shadowStruck n hs slot)
  let parked (x : Spn) : Spn := match x.cellSlot with
    | some t => parkTile { x with cellsP := (poisonTile ([], x.cellsP) (shadowStruck n hs t)).2 }
    | none => x
  let y := if stays then x0 else parked x0
  let streamed := streamInto hs n c s m.b (mmaBTrans c) cols (streamInto hs n c s m.a (mmaATrans c) rows y)
  let x1 := { streamed with
    strA := if mmaASrc c then y.strA else some (2 * s.free)
    strB := if mmaBSrc c then y.strB else some (2 * s.free + 1) }
  let tile := mmaCells c a b rows cols tile0
  let csA := if mmaASrc c then [] else streamCoords (mmaATrans c) rows (mmaK0 c) (mmaDepth c)
  let csB := if mmaBSrc c then [] else streamCoords (mmaBTrans c) cols (mmaK0 c) (mmaDepth c)
  let rd (d : Option Desc) (cs : List (List Nat)) (e : Eff) : Eff :=
    match d with | some d => e.reads d (cs.map (readElem s d)) | none => e
  let e0 := rd m.b csB (rd m.a csA { secs := m.opds.sectors })
  let three := a.fmt = fFP32 || b.fmt = fFP32
  let g := if three then 1 else min (groupSize a.fmt) (groupSize b.fmt)
  let sF : State := if x0.was.isEmpty then s else { s with free := s.free + panelLines }
  let sC := (sF.count (rSpn n 0x04) (ceilDiv (mmaDepth c) g)).count (rSpn n 0x10) (if stays then 0 else 1)
  let sT := countFree (rSpn n 0x0C) (countFree (rSpn n 0x08) sC)
  let straight := straightBytes m.a (mmaATrans c) rows (mmaDepth c) + straightBytes m.b (mmaBTrans c) cols (mmaDepth c)
  let tiles := tilesA + (match m.b with | some d => if mmaBTrans c then twistTiles d.w (mmaDepth c) else 0 | none => 0)
  let sW := (sT.count (rTwb n 0x08) (ceilDiv straight 1024)).count (rTwb n 0x04) tiles
  if mmaClose c then
    let x2 := freeSlot slot { x1 with isOpen := mput x1.isOpen slot false false }
    let (e, s2) := drainTile u i m rows cols tile e0 (sW.setSpindle n x2)
    let e' := match mmaPoison s m csA csB rows cols with
      | some p => if e.poison = some i.addr.toNat then { e with poison := some p } else e
      | none => e
    (e', s2.count (rSpn n 0x14) e'.sat)
  else
    let x2 := { x1 with isOpen := mput x1.isOpen slot true false, cellSlot := some slot, cells := tile.1, cellsP := tile.2 }
    (e0, sW.setSpindle n x2)

/-- The data phase of an SPN_MMA. A panel that an unfinished multicast stage writes over is read as a mixture (R123, R159).
[DESIGN CHOICE, log 126] -/
def mmaRun (hs : List Hit) (i : Issued) (m : MmaOpds) (s : State) : State :=
  if mmaRunv i.cmd && runSize i = 0 then refuseCmd (cTarget i.cmd) i stEMPTY s
  else
    let r := mmaWork hs i m s
    finishCmd (cTarget i.cmd) i r.1 r.2

/-! ## SPN_SLOT_DISCARD (R131) -/

def spnDiscardForm : OpForm := { immMask := immBits [(0, 6)] }

def discardCheck (i : Issued) (s : State) : Chk Opds := do
  require (claims s (cCtx i.cmd) (cTarget i.cmd) (imm i.cmd 0 6)) kHANK_OWNER i.addr.toNat
  return {}

def discardRun (i : Issued) (_o : Opds) (s : State) : State :=
  let u := cTarget i.cmd
  let n := physOf s u
  finishCmd u i {} (s.setSpindle n (freeSlot (imm i.cmd 0 6) (s.spindle n)))

/-! ## The three rows -/

/-- The command at the front of position `p`'s port is an SPN_STAGE: it is accepted, refused, or runs. -/
def execSpnStage (p : BitVec 4) (hs : List Hit) (s : State) : Res :=
  .next (withHits p.toNat 0x10 hs
    (accept p.toNat 0x10 stageCheck (fun _ _ _ => false) (stageRun hs)) s)

/-- The command at the front of position `p`'s port is an SPN_MMA. -/
def execSpnMma (p : BitVec 4) (hs : List Hit) (s : State) : Res :=
  .next (withHits p.toNat 0x11 hs
    (accept p.toNat 0x11 mmaCheck (fun _ _ _ => false) (mmaRun hs)) s)

/-- The command at the front of position `p`'s port is an SPN_SLOT_DISCARD. -/
def execSpnSlotDiscard (p : BitVec 4) (s : State) : Res :=
  .next (accept p.toNat 0x12 discardCheck (fun _ _ _ => false) discardRun s)

end Sys2Proof.Machine
end

