-- ==== Sys2Proof/Machine/Spmm.lean ====
section
/-! DEFINITION. CRD_SPMM, the row-grouped sparse product (R185 to R199). -/

namespace Sys2Proof.Machine

def spmmForm : OpForm := { need := [0, 1, 2], immMask := immBits [(0, 7)] }

def spmmTb (c : Cmd) : Nat := imm c 0 6
def spmmRunv (c : Cmd) : Bool := imm c 6 1 = 1

/-- A bucket of the directory (R186, R187): base, records, entry slots, record size. -/
structure Bucket where
  base : Nat
  nrows : Nat
  maxnz : Nat
  rb : Nat
deriving DecidableEq, Repr

/-- The operands of a CRD_SPMM. -/
structure SpmmOpds where
  hdr : Nat := 0
  dir : Nat := 0
  vfmt : Nat := 0
  ib : Nat := 2
  split : Nat := 0
  buckets : List Bucket := []
  x : Desc := {}
  y : Desc := {}
deriving DecidableEq, Repr

def SpmmOpds.opds (m : SpmmOpds) : Opds :=
  { descs := [(m.x, false), (m.y, true)], blocks := [(m.hdr, 64), (m.dir, 16 * m.buckets.length)] }

/-- Value formats of R185. -/
def spmmVfmtOk (s : State) (f : Nat) : Bool := f = fBF16 || f = fFP16 || ((fmtSlot f).isSome && fmtOk s.fmt f)

/-- Value width in bytes. -/
def valBytes (f : Nat) : Nat := if f = fBF16 || f = fFP16 then 2 else 1

/-- Record size (R187). -/
def recordSize (maxnz vb ib : Nat) : Nat := 32 * ceilDiv (8 + 4 * ceilDiv (maxnz * vb) 4 + maxnz * ib) 32

/-- One directory entry, checked (R186, R188). -/
def checkBucket (s : State) (vb ib a : Nat) : Chk Bucket := do
  let x ← readBlock s a 16
  let base := bits x 0 48
  let nrows := bits x 64 32
  let maxnz := bits x 96 32
  let rb := recordSize maxnz vb ib
  require (bits x 48 16 = 0 && base % 32 = 0 && maxnz ≠ 0 && (nrows = 0 || inOneSkein base (nrows * rb))) kSPARSE_FORMAT a
  return { base := base, nrows := nrows, maxnz := maxnz, rb := rb }

/-- Header and directory (R185, R188). [DEDUCED, log 64] -/
def checkHeader (s : State) (k a : Nat) : Chk SpmmOpds := do
  let x ← readBlock s a 64
  let w := wordBits x
  let f := w 0 48 8
  let nb := w 1 0 11
  let sp := w 1 16 15
  let dir := w 0 0 48
  require (w 0 57 7 = 0 && w 1 11 5 = 0 && w 1 31 33 = 0 && x / 2 ^ 128 = 0) kSPARSE_FORMAT a
  require (spmmVfmtOk s f) kSPARSE_FORMAT a
  require (1 ≤ nb && nb ≤ 1024 && (sp = 0 || (64 ≤ sp && sp ≤ 16384))) kSPARSE_FORMAT a
  require (dir % 64 = 0 && inOneSkein dir (16 * nb)) kSPARSE_FORMAT a
  let ib := if w 0 56 1 = 1 then 4 else 2
  require (!(blockBytes s dir (16 * nb)).any (·.poison)) kDESC_POISON dir
  let bs ← (List.range nb).mapM (fun i => checkBucket s (valBytes f) ib (dir + 16 * i))
  return { hdr := a, dir := dir, vfmt := f, ib := ib, buckets := bs,
           split := if sp = 0 then (s.getReg (rCrd k 4)).toNat % 32768 else sp }

/-- Formats of X and Y (R189). -/
def spmmXFmt (f : Nat) : Bool := f = fBF16 || f = fFP16 || fmtNarrow f
def spmmYFmt (f : Nat) : Bool := f = fFP32 || f = fBF16 || f = fFP16 || (fmtNarrow f && !fmtInt f)

/-- Bytes of `n` elements of a row. -/
def rowBytes (d : Desc) (n : Nat) : Nat :=
  if d.ply = 0 then ceilDiv (n * d.w) 8 else n / plyLen d.ply * plyBytes d.ply d.w

/-- Operand rules of CRD_SPMM on X and Y (R188, R189). -/
def spmmXY (c : Cmd) (s : State) : Chk (Desc × Desc) := do
  let x ← checkDesc s false (cD c 1)
  let y ← checkDesc s true (cD c 2)
  needFmt (spmmXFmt x.fmt) x
  needFmt (spmmYFmt y.fmt) y
  needIndex (!x.idxEn) x
  needIndex (!y.idxEn) y
  needShape (x.ndim = 2) x
  needShape (y.ndim = 2) y
  needShape (x.sz 0 = y.sz 0) y
  return (x, y)

/-- Operand rules of CRD_SPMM in the order of R188. -/
def spmmOpds (c : Cmd) (s : State) : Chk SpmmOpds := do
  let m ← checkHeader s (cTarget c) (cD c 0)
  let (x, y) ← spmmXY c s
  require (m.ib = 4 || x.sz 1 ≤ 65536) kSPARSE_FORMAT m.hdr
  return { m with x := x, y := y }

def spmmCheck (i : Issued) (s : State) : Chk SpmmOpds := do
  let tb := spmmTb i.cmd
  needCmd (1 ≤ tb && tb ≤ 32) i
  let m ← spmmOpds i.cmd s
  needCmd ((m.x.ply = 0 || tb % plyLen m.x.ply = 0) && (m.y.ply = 0 || tb % plyLen m.y.ply = 0)) i
  require (m.x.sz 1 * rowBytes m.x tb ≤ 638976 && m.y.sz 1 * tb * 4 ≤ 196608) kSPARSE_FIT m.hdr
  return m

/-! ## Records -/

/-- An entry of a record: value and column; none where it contributes nothing. -/
abbrev SpEntry := Option (Val × Nat)

/-- A record as the carder reads it. -/
structure SpRecord where
  row : Nat := 0
  nnz : Nat := 0
  maxnz : Nat := 0
  ents : List SpEntry := []
  /-- A column index is N or above. -/
  oobCol : Bool := false
  /-- A value or index is poisoned: the address. -/
  poison : Option Nat := none
  /-- ROW or NNZ is poisoned: the address. -/
  lost : Option Nat := none
  secs : List Nat := []
deriving DecidableEq, Repr

def SpRecord.n (r : SpRecord) : Nat := min r.nnz r.maxnz

/-- Read one record (R187, R196, R198). -/
def readRecord (s : State) (m : SpmmOpds) (b : Bucket) (r : Nat) : SpRecord :=
  let a := b.base + r * b.rb
  let vb := valBytes m.vfmt
  let nnz := rdNat s (a + 4) 4
  let io := 8 + 4 * ceilDiv (b.maxnz * vb) 4
  let n := min nnz b.maxnz
  let used := (List.range n).map (fun e => (a + 8 + e * vb, a + io + e * m.ib))
  let ents := used.map (fun p =>
    let col := rdNat s p.2 m.ib
    if rdPoison s p.2 m.ib || m.x.sz 1 ≤ col then none else some (decodeElem s.fmt m.vfmt (rdNat s p.1 vb), col))
  { row := rdNat s a 4, nnz := nnz, maxnz := b.maxnz, ents := ents
    oobCol := used.any (fun p => !rdPoison s p.2 m.ib && m.x.sz 1 ≤ rdNat s p.2 m.ib)
    poison := used.findSome? (fun p =>
      if rdPoison s p.1 vb then some (firstPoison s p.1 vb)
      else if rdPoison s p.2 m.ib then some (firstPoison s p.2 m.ib) else none)
    lost := if rdPoison s a 8 then some (firstPoison s a 8) else none
    secs := sectorsOf a (io + n * m.ib) }

/-- All records in processing order. -/
def allRecords (s : State) (m : SpmmOpds) : List SpRecord :=
  m.buckets.flatMap (fun b => (List.range b.nrows).map (readRecord s m b))

/-! ## Sums (R191, R192) -/

/-- Running sum over entries for one token. -/
def dotEntries (x : Nat → Val) (es : List SpEntry) : Word :=
  es.foldl (fun acc e =>
    match e with
    | some (w, col) => round32 ((val32 acc).add (w.mul (x col)))
    | none => acc) 0

/-- The sum of a record for one token: cut into segments where it is long. -/
def recordSum (split : Nat) (x : Nat → Val) (r : SpRecord) : Word :=
  if r.n ≤ split then dotEntries x r.ents
  else
    match (chunks (ceilDiv r.n 512) r.ents).map (dotEntries x) with
    | [] => 0
    | p :: q => q.foldl add32 p

/-- The state of one output row in a tile: value and poison of each valid token of the block. -/
abbrev TileRow := List (Word × Bool)

/-- The output tile of one block: rows written, and whether a record could not be placed. -/
structure Tile where
  rows : AMap TileRow := []
  lost : Bool := false
deriving DecidableEq, Repr

/-- One record in one token block (R191 to R198). [DEDUCED, log 64] -/
def tileRecord (s : State) (m : SpmmOpds) (toks : List Nat) (t : Tile) (r : SpRecord) : Tile :=
  if r.lost.isSome then { t with lost := true }
  else if m.y.sz 1 ≤ r.row then t
  else
    let bad := decide (r.maxnz < r.nnz) || r.oobCol || r.poison.isSome || (mfind t.rows r.row).isSome
    { t with rows := mset t.rows r.row (toks.map (fun k =>
        let xe (col : Nat) : RdElem := readElem s m.x [k, col]
        (recordSum m.split (fun col => (xe col).val) r,
         bad || r.ents.any (fun e => match e with | some (_, col) => (xe col).poison | none => false)))) }

/-- Does a parity error strike an output element while it waits in the tile, or its partials (R171, R198)? -/
def tileStruck (s : State) (y : Desc) (c : List Nat) : Bool :=
  match locate s y c with
  | .at bit sc =>
    let (a, n) := elemBytes bit y.w
    s.struck.any (fun h => onWrite h && h.src.toNat / 256 = 1
      && ((List.range n).any (fun j => strikes h (a + j)) || (match sc with | some p => strikes h p | none => false)))
  | _ => false

/-- Write a tile: each row that no record names as +0 (R194). -/
def writeTile (s : State) (m : SpmmOpds) (tb t0 : Nat) (toks : List Nat) (t : Tile) (e : Eff) : Eff :=
  let n := toks.length
  (List.range (m.y.sz 1)).foldl (fun (e : Eff) row =>
    let vs := ((mget t.rows row (List.replicate n (0, false))).zipIdx.map (fun v =>
      (val32 v.1.1, v.1.2 || t.lost || tileStruck s m.y [t0 + v.2, row])))
    if m.y.ply = 0 then
      vs.zipIdx.foldl (fun (e : Eff) v => e.encoded s m.y (encodeElem s m.y [t0 + v.2, row] v.1.1 v.1.2)) e
    else
      (chunks (plyLen m.y.ply) ((List.range tb).map (fun i => vs[i]?))).zipIdx.foldl (fun (e : Eff) b =>
        e.encoded s m.y (encodePlyMasked s m.y [t0 + b.2 * plyLen m.y.ply, row] b.1)) e) e

/-- Faults of the records, each kind once for a row (R195 to R197). [DEDUCED, log 64] -/
def recordFaults (m : SpmmOpds) (rs : List SpRecord) : List (Byte × Nat) :=
  (rs.foldl (fun (acc : List (Byte × Nat) × List Nat) r =>
    if r.lost.isSome then acc
    else
      let a1 := if r.maxnz < r.nnz then acc.1 ++ [(kSPARSE_OVERCOUNT, r.row)] else acc.1
      let a2 := if r.oobCol then a1 ++ [(kSPARSE_INDEX_OOB, r.row)] else a1
      if m.y.sz 1 ≤ r.row then (a2, acc.2)
      else if acc.2.contains r.row then (a2 ++ [(kSPARSE_ROW_DUP, r.row)], acc.2)
      else (a2, acc.2 ++ [r.row])) ([], [])).1.foldl (fun l x => if l.contains x then l else l ++ [x]) []

/-- Blocks of tokens of a CRD_SPMM. -/
def spmmBlocks (i : Issued) (m : SpmmOpds) : Nat := ceilDiv (m.x.sz 0) (spmmTb i.cmd)

/-- The records a CRD_SPMM walks. -/
def spmmRecords (i : Issued) (m : SpmmOpds) (s : State) : List SpRecord := if spmmBlocks i m = 0 then [] else allRecords s m

/-- What a CRD_SPMM comes to (R189 to R197). -/
def spmmEff (i : Issued) (m : SpmmOpds) (s : State) : Eff :=
  let tb := spmmTb i.cmd
  let total := m.x.sz 0
  let lim := if spmmRunv i.cmd then min total (runSize i) else total
  let rs := spmmRecords i m s
  let placed := rs.filter (fun r => r.lost.isNone)
  -- elements of X read by valid tokens
  let cols := distinct (placed.flatMap (fun r => r.ents.filterMap (fun e => e.map (·.2))))
  let xs := (List.range lim).flatMap (fun t => cols.map (fun col => readElem s m.x [t, col]))
  let dropped := (placed.filter (fun r => m.y.sz 1 ≤ r.row)).length * lim
  let e0 : Eff := ({ secs := m.opds.sectors ++ rs.flatMap (·.secs), oobW := dropped
                     oobAddr := if 0 < dropped then some m.y.addr else none } : Eff).reads m.x xs
  let e1 := (List.range (spmmBlocks i m)).foldl (fun (e : Eff) b =>
    let t0 := b * tb
    let toks := (List.range tb).map (t0 + ·) |>.filter (· < lim)
    if toks.isEmpty then e
    else writeTile s m tb t0 toks (rs.foldl (tileRecord s m toks) {}) e) e0
  let inTile := placed.filter (fun r => r.row < m.y.sz 1)
  let pois : Option Nat :=
    match rs.findSome? (·.lost), inTile.findSome? (·.poison), xs.find? (·.poison) with
    | some a, _, _ => some a
    | none, some a, _ => some a
    | none, none, some r => some r.pAddr
    | none, none, none => none
  let anyWritten := e1.elems.any (·.poison)
  let e2 := match pois with | some a => if anyWritten then e1.consume a else e1 | none => e1
  { e2 with faults := (recordFaults m rs).map (fun f => { kind := f.1, addr := f.2, param := true }) }

/-- The counters of CRD_SPMM. -/
def spmmCounted (i : Issued) (m : SpmmOpds) (s : State) : State :=
  let k := cTarget i.cmd
  let rs := spmmRecords i m s
  let placed := rs.filter (fun r => r.lost.isNone)
  let nz := (placed.map (·.n)).foldl (· + ·) 0
  let long := (placed.filter (fun r => m.split < r.n)).length
  let s0 := useSram k [0, 1, 2, 4] s
  let s1 := (s0.count (rCrd k 0x10) (nz * spmmBlocks i m)).count (rCrd k 0x14) (long * spmmBlocks i m)
  (s1.count (rCrd k 0x18) (spmmEff i m s).sat).count (rCrd k 0x20) (recordFaults m rs).length

/-- The data phase of a CRD_SPMM. -/
def spmmRun (i : Issued) (m : SpmmOpds) (s : State) : State :=
  if spmmRunv i.cmd && runSize i = 0 then refuseCmd (16 + cTarget i.cmd) i stEMPTY s
  else finishCmd (16 + cTarget i.cmd) i (spmmEff i m s) (spmmCounted i m s)

/-- CRD_SPMM at the front of carder `k`'s port. -/
def execCrdSpmm (k : BitVec 5) (hs : List Hit) (s : State) : Res :=
  .next (withHits (16 + k.toNat) 0x42 hs (accept (16 + k.toNat) 0x42 spmmCheck (fun _ _ _ => false) spmmRun) s)

end Sys2Proof.Machine
end

