-- ==== Sys2Proof/Machine/Forms.lean ====
section
/-! DEFINITION. Every opcode with its operand form, and the envelope checks of R60. -/

namespace Sys2Proof.Machine

def opNOP : Nat := 0x00
def opRELEASE : Nat := 0x01
def opBARRIER_SET : Nat := 0x02
def opPHASE_CLOSE : Nat := 0x03
def opIMAGE_START : Nat := 0x04

/-- Is it a scheduler opcode (Table 02-4)? -/
def isSched (op : Nat) : Bool := op < 0x10

/-- The form of a scheduler opcode (Table 02-5). The table lists no reserved IMM bit for them. [DEDUCED, log 39] -/
def schedForm (op : Nat) : OpForm :=
  if op = opIMAGE_START then { may := [0], immMask := 2 ^ 64 - 1 } else { immMask := 2 ^ 64 - 1 }

/-- The form of an opcode; none for one that is not used. [DEDUCED, log 39] -/
def opForm (op : Nat) : Option OpForm :=
  if op ≤ 0x04 then some (schedForm op)
  else if op = 0x10 then some spnStageForm
  else if op = 0x11 then some spnMmaForm
  else if op = 0x12 then some spnDiscardForm
  else if op = 0x40 || op = 0x41 then some crdMoveForm
  else if op = 0x42 then some spmmForm
  else if 0x48 ≤ op && op ≤ 0x4D then some (expForm op)
  else if op = 0x50 then some lscaleForm
  else if op = 0x51 then some adamForm
  else if op = 0x52 then some sgdmForm
  else if 0x80 ≤ op && op ≤ 0x86 then some (flyForm op)
  else if 0xA0 ≤ op && op ≤ 0xA5 then some (plyForm op)
  else if op = 0xC0 then some cpyForm
  else none

/-- References: aligned, used only where the opcode uses them, present where it requires them (R60). -/
def refsOk (f : OpForm) (c : Cmd) : Bool :=
  (List.range 4).all (fun i =>
    let r := cD c i
    r % 64 = 0 && (f.need.contains i || f.may.contains i || r = 0) && (!f.need.contains i || r ≠ 0))

/-- The envelope checks in the order of R60: the kind of the first that fails. `cls` and `ctx` are the bobbin's. -/
def envelopeFault (cls ctx : Nat) (c : Cmd) : Option Byte :=
  let op := cOp c
  match opForm op with
  | none => some kBAD_OPCODE
  | some f =>
    if !headerReservedOk c || cImm c &&& f.immMask ≠ cImm c then some kBAD_OPCODE
    else if !(isSched op || opClass op = some cls) then some kBAD_OPCODE
    else if isSched op && (cTarget c ≠ 0 || cEpoch c ≠ 0) then some kBAD_TARGET
    else if !isSched op && classUnits cls ≤ cTarget c then some kBAD_TARGET
    else if cCtx c ≠ ctx then some kCTX_MISMATCH
    else if cPhase c = phNone && !(op = opNOP || op = opRELEASE || op = opBARRIER_SET) then some kBAD_OPCODE
    else if cPhase c ≠ phNone && op = opRELEASE then some kBAD_OPCODE
    else if !refsOk f c then some kBAD_OPCODE
    else none

end Sys2Proof.Machine
end

