-- ==== Sys2Proof/Machine/Spare.lean ====
section
/-! DEFINITION. The spare spindle: a request takes effect (R141, R142, R412). -/

namespace Sys2Proof.Machine

/-- The map as CLK[0]_SPARE holds it: POS in [3:0], ACTIVE in [4]. It takes effect whatever becomes of its write-through,
which the endurance limit may refuse and the NVM may fail. -/
def storeSpare (m : BitVec 5) (s : State) : State :=
  let s1 := { s with spare := m, spareReq := none }
  if 100000 ≤ mget s1.wear (rClk 0xB0) 0 then faultParam srcNdy kNVM_WRITE (rClk 0xB0) s1
  else (persistFree (rClk 0xB0) (m.setWidth 32) s1).1

/-- A command that position `p` has in its data phase stays with the spindle at place `v`, which finishes it (R39). -/
def leaveWith (p v : Nat) (s : State) : State :=
  { s with reports := s.reports.map (fun r => if r.unit = p && r.ran && r.away.isNone then { r with away := some v } else r) }

/-- A swap to the spare: spindle 16 serves the position, cleared and with its gate open. -/
def swapIn (m : BitVec 5) (s : State) : State :=
  let s1 := storeSpare m (clearUnit 16 (leaveWith (m.toNat % 16) (m.toNat % 16) s))
  (gateOn 16 s1).bumpEpoch (m.toNat % 16)

/-- A return: the position's own spindle serves it again, cleared and with its gate open; spindle 16 is gated off. -/
def swapBack (m : BitVec 5) (s : State) : State :=
  let p := m.toNat % 16
  let s1 := gateOff 16 s
  let s2 := storeSpare m (clearUnit p (leaveWith p 16 s1))
  (gateOn p s2).bumpEpoch p

/-- The request that waits takes effect. [DEDUCED, log 51] -/
def swapSpare (s : State) : State :=
  match s.spareReq with
  | none => s
  | some (m, _) => if m.getLsbD 4 then swapIn m s else swapBack m s

/-- Management ticks after which a request takes effect though no phase has closed. -/
def spareLimit : Nat := 32500000

/-- SPARE_SWAP_TIMEOUT: 100 ms have passed since the request. [DEDUCED, log 51] -/
def execSpareSwapTimeout (s : State) : Res :=
  match s.spareReq with
  | some (_, t) => .next (if spareLimit ≤ s.wall - t then swapSpare s else s)
  | none => .next s

end Sys2Proof.Machine
end

