-- ==== Sys2Proof/Machine/Record.lean ====
section
/-! DEFINITION. Completions (R63, R67, R72, R73, R77, R80): the record, what a completion does to barriers, holds, counts,
journal and verdict, and the close of a phase. -/

namespace Sys2Proof.Machine

/-! ## Positions (R71) -/

def phaseNo : Phase → Nat
  | .fwd => 0
  | .bwd => 1
  | .upd => 2

/-- Position of a context. -/
def ctxPos (s : State) (c : Nat) : Nat := 3 * ((s.ctx c).step.toNat % 4) + phaseNo (s.ctx c).phase

/-- The difference d of a command from the context of its bobbin. -/
def posDiff (s : State) (ctx : Nat) (c : Cmd) : Nat := (3 * cStep c + cPhase c + 12 - ctxPos s ctx) % 12

/-! ## The ring of records (Table 02-6, R77) -/

def cwinBase (s : State) : Nat := base48 s (rBob 0x0C) (rBob 0x10)

/-- Records that a completion ring holds. -/
def cqSize (x : Bob) : Nat := 2 ^ x.entry.cqLog2

/-- Slots in use: commands dispatched and records the host has not consumed (R62). [DEDUCED, log 43] -/
def cqUsed (x : Bob) : Int := x.outstanding + (x.tail - x.head).toInt

/-- Is a completion slot free? [DEDUCED, log 43] -/
def slotFree (x : Bob) : Bool := cqUsed x < cqSize x

/-- What one record says. -/
structure Rec where
  seq : Word
  ctx : Nat
  phase : Nat
  step : Nat
  op : Nat
  status : Byte
  kind : Nat := 0
  oobR : Nat := 0
  oobW : Nat := 0
  aux : Word := 0
  faultSeq : Word := 0
deriving DecidableEq, Repr

/-- The 32 bytes of a record. -/
def Rec.bytes (r : Rec) (time gen : Nat) : List Byte :=
  leBytes 32 (r.seq.toNat + (r.ctx % 4096 + r.phase % 4 * 2 ^ 12 + r.step % 4 * 2 ^ 14) * 2 ^ 32 + r.op % 256 * 2 ^ 48
    + r.status.toNat * 2 ^ 56 + min r.oobR 4294967295 * 2 ^ 64 + min r.oobW 4294967295 * 2 ^ 96 + r.aux.toNat * 2 ^ 128
    + r.faultSeq.toNat * 2 ^ 160 + time % 2 ^ 48 * 2 ^ 192 + r.kind % 4 * 2 ^ 240 + gen % 2 * 2 ^ 255)

/-- Device address of record `n` of bobbin `b`. -/
def recordAddr (s : State) (b : Nat) (x : Bob) (n : Nat) : Nat := cwinBase s + b * 0x2000 + n % cqSize x * 32

/-- GEN of record `n`. -/
def recordGen (x : Bob) (n : Nat) : Nat := (n / cqSize x + 1) % 2

/-- Write a record into the completion ring. -/
def writeRecord (b : Nat) (r : Rec) (s : State) : State :=
  let x := s.bob b
  let n := x.tail.toNat
  (storeClean srcBob (recordAddr s b x n) (r.bytes s.cyc (recordGen x n)) s).setBob b { x with tail := x.tail + 1 }

/-! ## The journal's command record (R289) -/

/-- The command as it reached its engine: RUN_SIZE is the effective size. -/
def reachedCmd (i : Issued) : Nat :=
  match i.res with
  | .run n _ _ _ => i.cmd.toNat - cRunSize i.cmd * 2 ^ 192 + n % 2 ^ 32 * 2 ^ 192
  | .none => i.cmd.toNat

/-- The 128 bytes of a command record. -/
def cmdRecord (i : Issued) (rec_ : List Byte) : List MByte :=
  mark false (leBytes 64 (reachedCmd i) ++ rec_ ++ leBytes 4 i.bobbin.toNat ++ leBytes 28 0)

/-! ## One completion -/

/-- A completion as the scheduler sees it. -/
structure Done where
  is : Issued
  status : Byte
  kind : Nat := 0
  oobR : Nat := 0
  oobW : Nat := 0
  aux : Word := 0
  charged : Bool := false
  /-- The command had been dispatched: it counts in DB_OUTSTANDING. -/
  dispatched : Bool := true
  /-- It may count toward its phase (R72): not late, not PHASE_CLOSE. -/
  counts : Bool := true
  /-- It may set its hold bit: not RELEASE (R80). -/
  holds : Bool := true
deriving DecidableEq, Repr

/-- Context of a command's bobbin. -/
def bobCtx (s : State) (b : Nat) : Nat := (s.bob b).entry.ctx.toNat

/-- The record of a completion. -/
def Done.rec_ (d : Done) (s : State) : Rec :=
  { seq := d.is.seq, ctx := cCtx d.is.cmd, phase := cPhase d.is.cmd, step := cStep d.is.cmd, op := cOp d.is.cmd
    status := d.status, kind := d.kind, oobR := d.oobR, oobW := d.oobW, aux := d.aux
    faultSeq := if d.charged then mget s.seqs d.is.id 0 else 0 }

/-- Is the sequence number of the charged fault known? Only then is the record complete. -/
def seqKnown (s : State) (charged : Bool) (id : Nat) : Bool := !charged || (mfind s.seqs id).isSome

/-- A DRAINING bobbin with nothing outstanding is DISABLED (R50). -/
def settleDrain (b : Nat) (s : State) : State :=
  let x := s.bob b
  if x.state = .draining && x.outstanding = 0 then s.setBob b { x with state := .disabled } else s

/-- Add the completion to DONE where its position is current (R72). -/
def countDone (d : Done) (s : State) : State :=
  let c := bobCtx s d.is.bobbin.toNat
  if d.counts && cPhase d.is.cmd ≠ phNone && posDiff s c d.is.cmd = 0 then
    s.setCtx c { s.ctx c with done := (s.ctx c).done + 1 }
  else s

/-- A command named by an enabled capture point of a replay holds the context (R291). -/
def captureHold (d : Done) (s : State) : State :=
  let c := bobCtx s d.is.bobbin.toNat
  let t := s.trn c
  if t.armed && t.caps.any (fun p => p.en && p.bobbin = d.is.bobbin && p.seq = d.is.seq) then holdCtx c 1 s else s

/-- Record, outstanding count, signal, hold bit, journal, capture: everything but the phase. `jrn`: the journal records it. [DEDUCED, log 40] -/
def completeBase (jrn : Bool) (d : Done) (s : State) : State :=
  let b := d.is.bobbin.toNat
  let c := bobCtx s b
  let x := s.bob b
  let bytes := (d.rec_ s).bytes s.cyc (recordGen x x.tail.toNat)
  let s1 := writeRecord b (d.rec_ s) s
  let s2 := if d.dispatched then s1.setBob b { s1.bob b with outstanding := (s1.bob b).outstanding - 1 } else s1
  let s3 : State := { s2 with seqs := mdel s2.seqs d.is.id }
  let s4 := if cSignalEn d.is.cmd && signals d.status d.kind then s3.incBarrier (cSignal d.is.cmd) else s3
  let s5 := if d.holds && cHoldTag d.is.cmd ≠ 0 && holdsTag d.status d.kind then s4.setHold (cHoldTag d.is.cmd) true else s4
  let s6 := if jrn then jrnAppend c 0 (cmdRecord d.is bytes) s5 else s5
  settleDrain b (captureHold d s6)

/-! ## Closing a phase (R73, R263, R275, R289) -/

def nextPhase : Phase → Phase
  | .fwd => .bwd
  | .bwd => .upd
  | .upd => .fwd

/-- The phase of context `c` closes: training state, journal, internal frees, step and phase; then a spare request that waits
takes effect (R141). [DEDUCED, log 49] [DEDUCED, log 51] -/
def advancePhase (c : Nat) (s : State) : State :=
  let x := s.ctx c
  let s1 := match x.phase with
    | .fwd => s.setCtx c { x with phase := .bwd, done := 0, closer := none }
    | .bwd => (closeBwd c s).setCtx c { x with phase := .upd, done := 0, closer := none }
    | .upd =>
      let t := internalFrees c [x.step.toNat % 4] (closeUpd c (jrnClose c s))
      jrnOpen c (t.setCtx c { x with step := x.step + 1, phase := .fwd, done := 0, closer := none })
  swapSpare s1

/-- The PHASE_CLOSE that waits fires when DONE equals its COUNT. [DEDUCED, log 49] -/
def closeIfDone (c : Nat) (s : State) : State :=
  match (s.ctx c).closer with
  | some (i, n) =>
    if (s.ctx c).done = n then
      advancePhase c (completeBase (decide ((s.ctx c).phase ≠ .upd)) { is := i, status := stOK } s)
    else s
  | none => s

/-- One completion, with its effect on the phase of its bobbin's context. -/
def complete (d : Done) (s : State) : State :=
  closeIfDone (bobCtx s d.is.bobbin.toNat) (completeBase true d (countDone d s))

end Sys2Proof.Machine
end

