-- ==== Sys2Proof/Machine/Bobbin.lean ====
section
/-! DEFINITION. Bobbins: the table entry, the doorbell slot, the fetcher and the descriptor checker (R45 to R54, R60, R61, R66). -/

namespace Sys2Proof.Machine

/-- The control plane runs: READY, and its gate open. -/
def ctlRuns (s : State) : Bool := s.ready && s.gate.getLsbD vecCtl

def btabBase (s : State) : Nat := base48 s (rBob 0x04) (rBob 0x08)

/-- A bobbin table entry (Table 02-1). -/
def parseEntry (x : Nat) : BobEntry :=
  { ringBase := BitVec.ofNat 48 (bits x 0 48), log2 := bits x 48 8, cls := bits x 56 3, ctx := BitVec.ofNat 12 (bits x 64 12)
    prio := BitVec.ofNat 3 (bits x 80 3), cqLog2 := bits x 88 8 }

/-- Reserved fields of the entry are zero. -/
def entryReservedOk (x : Nat) : Bool := bits x 59 5 = 0 && bits x 76 4 = 0 && bits x 83 5 = 0 && bits x 96 160 = 0

/-- Every field within its allowed values, and the ring in a good place (R46). -/
def entryOk (s : State) (x : Nat) : Bool :=
  let e := parseEntry x
  entryReservedOk x && e.ringBase.toNat % 2048 = 0 && 5 ≤ e.log2 && e.log2 ≤ 20 && e.cls ≤ 4 && 4 ≤ e.cqLog2 && e.cqLog2 ≤ 8
  && rangeOk s e.ringBase.toNat (64 * 2 ^ e.log2)

/-- Address of the descriptor at a count. -/
def ringAddr (x : Bob) (n : Nat) : Nat := x.entry.ringBase.toNat + n % 2 ^ x.entry.log2 * 64

def faultBobbin (kind : Byte) (b : Nat) (s : State) : State := faultParam srcBob kind b s

/-- DB_CTRL ENABLE (R46, R49). The record of a stop that still waits for a completion slot is dropped with the old counts, as by
DISABLE: the spec does not say. [DEDUCED, log 42] [DEDUCED, log 45] [DESIGN CHOICE, log 53] -/
def enableBob (b : Nat) (s : State) : State :=
  let x := s.bob b
  if x.state = .disabled || (x.state = .stopped && x.outstanding = 0) then
    let a := btabBase s + 32 * b
    let v := rdNat s a 32
    let bad := rdPoison s a 32 || !entryOk s v
    let s1 := touchReads srcBob 0 (sectorsOf a 32) s
    if bad then faultBobbin kBOBBIN_CFG b s1
    else
      let e := parseEntry v
      let s2 := storeClean srcBob (cwinBase s1 + b * 0x2000) (List.replicate (32 * 2 ^ e.cqLog2) 0) s1
      s2.setBob b { state := .enabled, entry := e }
  else faultBobbin kBOBBIN_CFG b s

/-- Descriptors fetched and not dispatched are discarded, bursts in flight with them. [DESIGN CHOICE, log 53] -/
def Bob.discard (x : Bob) : Bob := { x with queue := [], bursts := [] }

/-- DB_CTRL DISABLE (R50). [DESIGN CHOICE, log 53] -/
def disableBob (b : Nat) (s : State) : State :=
  let x := s.bob b
  if x.state = .enabled || x.state = .stopped then settleDrain b (s.setBob b { x.discard with state := .draining }) else s

/-- DB_PROD (R51, R52). -/
def writeProd (b : Nat) (v : Word) (s : State) : WrRes :=
  let x := s.bob b
  if x.state ≠ .enabled then .refuse kACCESS_REFUSED
  else if 2 ^ x.entry.log2 < (v - x.fetched).toNat then
    .done (faultBobbin kDOORBELL_OVERRUN b (s.setBob b { x.discard with prod := v, state := .stopped }))
  else .done (s.setBob b { x with prod := v })

/-! ## Registers of the doorbell window -/

def dbBase : Nat := 0x020000000000
def dbAddr (b off : Nat) : Nat := dbBase + b * 64 + off

/-- Does a bobbin's head wait for a completion slot alone? Filled in by the scheduler's conditions. [DEDUCED, log 108] -/
def markSlotWait (wants : Bool) (x : Bob) : Bob :=
  match x.queue with
  | e :: r => { x with queue := { e with slotWait := e.slotWait || wants } :: r }
  | [] => x

/-! ## The fetcher (R54, R66) -/

/-- Descriptors in bursts in flight. -/
def Bob.inFlight (x : Bob) : Nat := (x.bursts.map (·.2)).foldl (· + ·) 0

/-- Length of the next burst. -/
def Bob.burstLen (x : Bob) : Nat := min (32 - x.fetched.toNat % 32) (x.prod - x.fetched).toNat

/-- Has the bobbin a burst that the fetcher may request? -/
def Bob.fetchable (x : Bob) : Bool :=
  x.state = .enabled && x.prod ≠ x.fetched && x.queue.length + x.inFlight + x.burstLen ≤ 64

/-- The candidate with the highest level. -/
def topLevel (l : List (Nat × Nat)) : Nat := lmax (l.map (·.2))

/-- The one served next on a level: the lowest above the one served last, else the lowest. `l` rises. -/
def nextTurn (last : Nat) (l : List Nat) : Option Nat :=
  match l.find? (fun b => last < b) with
  | some b => some b
  | none => l.head?

def levelOf (x : Bob) : Nat := x.entry.prio.toNat

/-- The bobbin the fetch arbiter grants, and its level. -/
def fetchChoice (s : State) : Option (Nat × Nat) :=
  let c := (s.bobs.filter (fun e => e.2.fetchable)).map (fun e => (e.1, levelOf e.2))
  let flying : Nat := (s.bobs.map (fun e => e.2.bursts.length)).foldl (· + ·) 0
  if 64 ≤ flying then none
  else
    let lv := topLevel c
    (nextTurn (mget s.fetchTurns lv {}).last ((c.filter (fun e => e.2 = lv)).map (·.1))).map (fun b => (b, lv))

/-- FETCH_BURST: the fetcher grants one burst. [DEDUCED, log 41] -/
def execFetchBurst (s : State) : Res :=
  if ctlRuns s then
    match fetchChoice s with
    | some (b, lv) =>
      let x := s.bob b
      let n := x.burstLen
      let s1 := s.setBob b { x with fetched := x.fetched + BitVec.ofNat 32 n, bursts := x.bursts ++ [(x.fetched, n)] }
      .next ({ s1 with fetchTurns := mset s1.fetchTurns lv { last := b, grants := 0 } }.count (rBob 0x60) n)
    | none => .next s
  else .next s

/-! ## The checker (R60, R61) -/

/-- The record of R61 stands at this descriptor's count; which tags it shows the spec does not say. [DESIGN CHOICE, log 44] -/
def stopEntry (i : Issued) (s : State) : QEntry :=
  let tag := Config.freeNat s.free % 16
  let c : Cmd := BitVec.ofNat 512 (0xFF + tag * 256 + (s.bob i.bobbin.toNat).entry.ctx.toNat * 2 ^ 16)
  { is := { i with cmd := c }, kind := .stop, charged := true }

/-- A poisoned or unreadable descriptor stops the bobbin (R61). [DESIGN CHOICE, log 44] -/
def stopBobbin (i : Issued) (err : Bool) (s : State) : State :=
  let b := i.bobbin.toNat
  let e := stopEntry i s
  let s1 := faultCharged srcBob { kind := if err then kDESC_READ else kDESC_POISON, addr := i.addr.toNat } i.id s.bumpFree
  s1.setBob b { (s1.bob b).discard with state := .stopped, queue := [e] }

/-- One descriptor arrives: bytes as delivered. -/
def checkArrival (i : Issued) (s : State) : State :=
  let b := i.bobbin.toNat
  let x := s.bob b
  match envelopeFault x.entry.cls x.entry.ctx.toNat i.cmd with
  | none => s.setBob b { x with queue := x.queue ++ [{ is := i }] }
  | some k =>
    let s1 := faultCharged srcBob { kind := k, addr := i.addr.toNat } i.id s
    s1.setBob b { x with queue := x.queue ++ [{ is := i, kind := .bad, charged := true }] }

/-- The descriptors of a burst, in ring order; a stop ends it. [DESIGN CHOICE, log 6] -/
def arrive (b : Bobbin) : List (Nat × List RByte) → Word → State → State
  | [], _, s => s
  | (a, l) :: r, n, s =>
    let i : Issued := { id := s.ids, bobbin := b, seq := n, addr := BitVec.ofNat 48 a, cmd := BitVec.ofNat 512 (leNat (l.map (·.val))) }
    let s1 := s.bumpId
    if l.any (·.poison) then stopBobbin i (l.any (·.err)) s1 else arrive b r (n + 1) (checkArrival i s1)

/-- BURST_ARRIVAL: the oldest burst of the bobbin arrives and its descriptors are checked. -/
def execBurstArrival (b : Bobbin) (hs : List Hit) (s : State) : Res :=
  let x := s.bob b.toNat
  match x.bursts with
  | [] => .next s
  | (n, len) :: r =>
    if ctlRuns s then
      let s1 := noteHits perrReg hs (s.setBob b.toNat { x with bursts := r })
      let as := (List.range len).map (fun j => ringAddr x (n.toNat + j))
      let ds := as.map (fun a => (a, rdBytes s1 a 64))
      let s2 := touchReads srcBob 0 (as.flatMap (fun a => sectorsOf a 64)) s1
      .next (clearStruck (arrive b ds n s2))
    else .next s

end Sys2Proof.Machine
end

