-- ==== Sys2Proof/Machine/Plan.lean ====
section
/-! DEFINITION. Plan entries, bucket sets, the plan cache and run-size resolution (R150, R151, R154 to R156, R160, R166). -/

namespace Sys2Proof.Machine

/-- A plan-table entry (Table 05-2). -/
structure PlanEnt where
  op : Nat
  variant : Nat
  allv : Bool
  runSrc : Bool
  bset : Nat
  operator : Nat
  round_ : Nat
  runAddr : Nat
  rowTile : Nat
  runOffset : Nat
  runLimit : Nat
  runOpd : Nat
  runDim : Nat
  runChk : Bool
deriving DecidableEq, Repr

def parsePlan (x : Nat) : PlanEnt :=
  { op := bits x 0 8, variant := bits x 8 3, allv := nbit x 11, runSrc := nbit x 12, bset := bits x 16 12
    operator := bits x 32 16, round_ := bits x 48 16, runAddr := bits x 64 48, rowTile := bits x 112 16
    runOffset := bits x 128 32, runLimit := bits x 160 32, runOpd := bits x 208 2, runDim := bits x 210 3, runChk := nbit x 213 }

/-- Reserved fields of an entry are zero. -/
def planReservedOk (x : Nat) : Bool := bits x 13 3 = 0 && bits x 28 4 = 0 && bits x 214 42 = 0

/-- The eight sizes of a bucket set entry. -/
def bucketRaw (x : Nat) : List Nat := (List.range 8).map (fun b => bits x (32 * b) 32)

/-- Its nonzero sizes. -/
def bucketSizes (x : Nat) : List Nat := (bucketRaw x).takeWhile (· ≠ 0)

/-- The rule of R151. -/
def bucketOk (x : Nat) : Bool :=
  let l := bucketSizes x
  !l.isEmpty && ((bucketRaw x).drop l.length).all (· = 0)
  && (List.range (l.length - 1)).all (fun i => l.getD i 0 < l.getD (i + 1) 0)

def planAddr (m : Image) (n : Nat) : Nat := m.planBase + 32 * n
def bsetAddr (m : Image) (n : Nat) : Nat := m.bsetBase + 32 * n

/-! ## The plan cache (R166) -/

def planCacheSize : Nat := 4096

/-- Read 32 bytes through the cache: the value, and whether a miss met poison or an error response. Which entry a full cache
gives up the spec leaves open. [DEDUCED, log 46] -/
def cachedRead (a : Nat) (s : State) : Nat × Bool × State :=
  match mfind s.planCache a with
  | some v => (v, false, s)
  | none =>
    let v := rdNat s a 32
    let p := rdPoison s a 32
    let s1 := touchReads srcBob 0 (sectorsOf a 32) (s.count (rBob 0x8C) 1)
    if p then (v, true, s1)
    else if s1.planCache.length < planCacheSize then (v, false, { s1 with planCache := mset s1.planCache a v })
    else
      let kept := s1.planCache.eraseIdx (Config.freeNat s1.free % s1.planCache.length)
      (v, false, { s1.bumpFree with planCache := mset kept a v })

/-! ## Images and planned commands (R160) -/

def imgOf (s : State) (c : Nat) : ImgState := mget s.imgState c .none

/-- The image of a LOADED context. -/
def loadedImage (s : State) (c : Nat) : Option Image := if imgOf s c = .loaded then mfind s.images c else none

/-- Does the command use its PLAN field? IMAGE_START does not (Table 02-5). -/
def planned (c : Cmd) : Bool := cPlan c ≠ 0 && cOp c ≠ opIMAGE_START

/-- The planned command names a plan entry that the image does not have. -/
def planOut (s : State) (c : Cmd) : Bool :=
  match loadedImage s (cCtx c) with
  | some m => m.planCount ≤ cPlan c
  | none => true

/-- Does the planned command complete with PLAN_REJECTED? -/
def planRejects (s : State) (e : QEntry) : Bool :=
  planned e.is.cmd && (planOut s e.is.cmd || e.beyond)

/-- May it dispatch, as to its plan: its context is not LOADING, and its run size is resolved where it has one? -/
def planReady (s : State) (e : QEntry) : Bool :=
  !planned e.is.cmd || (imgOf s (cCtx e.is.cmd) ≠ .loading && (planOut s e.is.cmd || e.resolved))

/-! ## Resolution (R154) -/

/-- Effective size. -/
def effSize (e : PlanEnt) (n : Nat) : Nat := min (n - e.runOffset) e.runLimit

/-- The outcome for run size `n` against the sizes of the entry's bucket set; `posted` is RUN_SIZE. -/
def resolveRun (e : PlanEnt) (sizes : List Nat) (posted n : Nat) : Resolved :=
  if e.bset = 0 then .run (effSize e n) 0 false false
  else if n = 0 then .run posted 0 true false
  else if lmax sizes < n then .run posted 0 false true
  else
    let b := sizes.findIdx (fun x => n ≤ x)
    if !e.allv && e.variant ≠ b then .run posted b true false else .run (effSize e n) b false false

/-- LAST_RUN and LAST_BUCKET (Table 05-5). -/
def noteRun (e : PlanEnt) (sizes : List Nat) (n : Nat) (s : State) : State :=
  if e.bset = 0 then s
  else
    let ok := n ≠ 0 && n ≤ lmax sizes
    { s with lastRun := BitVec.ofNat 32 n
             lastBucket := if ok then BitVec.ofNat 4 (8 + sizes.findIdx (fun x => n ≤ x)) else 0 }

/-- Change the head of a bobbin's queue. -/
def setHead (b : Nat) (f : QEntry → QEntry) (s : State) : State :=
  let x := s.bob b
  match x.queue with
  | e :: r => s.setBob b { x with queue := f e :: r }
  | [] => s

/-- A word that arrives poisoned or not at all (R156). -/
def failRunWord (b a : Nat) (e : QEntry) (s : State) : State :=
  setHead b (fun e => { e with kind := .runWord, charged := true })
    (faultCharged srcBob { kind := kRUN_WORD, addr := a } e.is.id s)

/-- Resolve the head of bobbin `b`, whose context holds image `m`. [DEDUCED, log 46] -/
def resolveHead (b : Nat) (e : QEntry) (m : Image) (s : State) : State :=
  let c := e.is.cmd
  let pa := planAddr m (cPlan c)
  let (pv, pp, s1) := cachedRead pa s
  let p := parsePlan pv
  if pp then failRunWord b pa e s1
  else if m.bsetCount ≤ p.bset then setHead b (fun e => { e with resolved := true, beyond := true }) s1
  else
    let (bv, bp, s2) := if p.bset = 0 then (0, false, s1) else cachedRead (bsetAddr m p.bset) s1
    if bp then failRunWord b (bsetAddr m p.bset) e s2
    else
      let (n, np, s3) := if p.runSrc then
          (leNat ((blockBytes s2 p.runAddr 4).map (·.val)), (blockBytes s2 p.runAddr 4).any (·.poison),
            unitReads srcBob (sectorsOf p.runAddr 4) s2)
        else (cRunSize c, false, s2)
      if np then failRunWord b p.runAddr e s3
      else
        let sizes := bucketSizes bv
        setHead b (fun e => { e with resolved := true, is := { e.is with res := resolveRun p sizes (cRunSize c) n } })
          (noteRun p sizes n s3)

end Sys2Proof.Machine
end

