-- ==== Sys2Proof/Machine/Sched.lean ====
section
/-! DEFINITION. The scheduler: dispatch conditions and arbitration (R62 to R65, R71), records without dispatch (R63), the watch
(R285), completions (R39, R67 to R73, R77) and the scheduler opcodes (R58, R69, R73, R74, R80). -/

namespace Sys2Proof.Machine

/-! ## Waits (R68) and remote counters (R285) -/

/-- A wait on a counter is satisfied. -/
def waitMet (s : State) (i : Nat) (t : Word) : Bool := (s.barrier i - t).toNat < 2 ^ 31

def rbarFirst (s : State) : Nat := (s.getReg (rBob 0x214)).toNat % 65536
def rbarLast (s : State) : Nat := (s.getReg (rBob 0x214)).toNat / 65536
def isRemote (s : State) (i : Nat) : Bool := rbarFirst s ≤ i && i ≤ rbarLast s

/-- The enabled waits of a command: counter and threshold. -/
def waitsOf (c : Cmd) : List (Nat × Word) :=
  (if cWaitAEn c then [(cWaitA c, cWaitACount c)] else []) ++ (if cWaitBEn c then [(cWaitB c, cWaitBCount c)] else [])

def waitsMet (s : State) (c : Cmd) : Bool := (waitsOf c).all (fun w => waitMet s w.1 w.2)

/-- Enabled waits on local counters are satisfied. -/
def localWaitsMet (s : State) (c : Cmd) : Bool := (waitsOf c).all (fun w => isRemote s w.1 || waitMet s w.1 w.2)

/-- Remote counters whose enabled waits are not satisfied. -/
def remoteOpen (s : State) (c : Cmd) : List Nat :=
  ((waitsOf c).filter (fun w => isRemote s w.1 && !waitMet s w.1 w.2)).map (·.1)

def remoteWait (s : State) (c : Cmd) : Bool := (waitsOf c).any (fun w => isRemote s w.1)

/-! ## Conditions of R62 -/

/-- The position of a command is current, or it has none. -/
def phaseCurrent (s : State) (ctx : Nat) (c : Cmd) : Bool := cPhase c = phNone || posDiff s ctx c = 0
/-- It belongs to a closed phase. -/
def phaseClosed (s : State) (ctx : Nat) (c : Cmd) : Bool := cPhase c ≠ phNone && 6 ≤ posDiff s ctx c
/-- It belongs to a later phase. -/
def phaseLater (s : State) (ctx : Nat) (c : Cmd) : Bool :=
  cPhase c ≠ phNone && 1 ≤ posDiff s ctx c && posDiff s ctx c ≤ 5

/-- IMAGE_START commands held or on their way to the loader (R165). -/
def loadsHeld (s : State) : Nat := s.loading.length + (s.sched.filter (fun i => cOp i.cmd = opIMAGE_START)).length

/-- Condition 6: room at the target. -/
def portFree (s : State) (c : Cmd) : Bool :=
  if isSched (cOp c) then cOp c ≠ opIMAGE_START || loadsHeld s < 4 else (s.port (cUnit c)).length < 16

/-- The context runs: its bit in the run mask is set and no replay holds it (R41, R291). -/
def ctxRuns (s : State) (c : Nat) : Bool := s.run.getLsbD c && !(s.trn c).held

/-- Every condition of R62 but the waits and the completion slot. -/
def gatesOpen (s : State) (x : Bob) (c : Cmd) : Bool :=
  x.state = .enabled && ctxRuns s x.entry.ctx.toNat && phaseCurrent s x.entry.ctx.toNat c && !s.hold (cHoldTag c) && portFree s c

/-- A LOCAL replay stops at this command (R291). -/
def localStop (s : State) (c : Cmd) : Bool :=
  inReplay s (cCtx c) 1 && (opClass (cOp c) = some 3 || remoteWait s c)

/-- The replay has come to it: all else but a peer lets it dispatch. [DEDUCED, log 48] -/
def localReached (s : State) (x : Bob) (e : QEntry) : Bool :=
  localStop s e.is.cmd && gatesOpen s x e.is.cmd && localWaitsMet s e.is.cmd

/-- Everything but a completion slot. -/
def readyButSlot (s : State) (x : Bob) (e : QEntry) : Bool :=
  e.kind = .ok && cOp e.is.cmd ≠ opRELEASE && gatesOpen s x e.is.cmd && waitsMet s e.is.cmd && planReady s e
  && !localStop s e.is.cmd

/-- The head command may dispatch. -/
def readyHead (s : State) (x : Bob) (e : QEntry) : Bool := readyButSlot s x e && slotFree x

/-! ## Arbitration (R64, R65) -/

def quantum (s : State) (lv : Nat) : Nat := max 1 ((s.getReg (rBob (0x40 + 4 * lv))).toNat % 256)

/-- Level at which the head is arbitrated. -/
def headLevel (x : Bob) (e : QEntry) : Nat := if e.aged then 7 else levelOf x

/-- Bobbins whose head is ready for unit `u`, with their levels. -/
def unitReady (s : State) (u : Nat) : List (Nat × Nat) :=
  s.bobs.filterMap (fun b =>
    match b.2.queue with
    | e :: _ => if readyHead s b.2 e && cUnit e.is.cmd = u then some (b.1, headLevel b.2 e) else none
    | [] => none)

def turnKey (u lv : Nat) : Nat := 8 * u + lv

/-- The bobbin granted at unit `u`, its level, and the grants of its turn with this one. -/
def arbiter (s : State) (u : Nat) : Option (Nat × Nat × Nat) :=
  let c := unitReady s u
  let lv := topLevel c
  let l := (c.filter (fun e => e.2 = lv)).map (·.1)
  let t := mget s.turns (turnKey u lv) {}
  if 0 < t.grants && t.grants < quantum s lv && l.contains t.last then some (t.last, lv, t.grants + 1)
  else (nextTurn t.last l).map (fun b => (b, lv, 1))

/-- Is bobbin `b` the arbiter's choice? Scheduler opcodes need no unit and are not arbitrated. -/
def granted (s : State) (b : Nat) (c : Cmd) : Bool :=
  isSched (cOp c) || (match arbiter s (cUnit c) with | some g => g.1 = b | none => false)

/-- The grant is noted. -/
def noteGrant (c : Cmd) (s : State) : State :=
  if isSched (cOp c) then s
  else match arbiter s (cUnit c) with
    | some (b, lv, n) => { s with turns := mset s.turns (turnKey (cUnit c) lv) { last := b, grants := n } }
    | none => s

/-! ## Dispatch -/

/-- Is the target gated off, or a masked position of a multicast (R29, R38)? -/
def targetGated (s : State) (c : Cmd) : Bool :=
  unitOff s (vecOfUnit s (cUnit c))
  || (cOp c = 0x10 && stageMcast c && (stagePositions c).any (fun p => unitOff s (physOf s p)))

/-- Unit number of the scheduler's own completions. -/
def unitSched : Nat := 53

/-- Hand a dispatched command to its port, or its refusal to the scheduler (R14, R38, R155, R160). [DEDUCED, log 47] -/
def sendToUnit (e : QEntry) (s : State) : State :=
  let i := e.is
  if isSched (cOp i.cmd) then
    if planRejects s e then refuseCmd unitSched i stREJECTED s
    else match i.res with
      | .run _ _ _ true => refuseCmd unitSched i stSHAPE s
      | .run _ _ true _ => refuseCmd unitSched i stEMPTY s
      | _ => { s with sched := s.sched ++ [i] }
  else
    let u := cUnit i.cmd
    if targetGated s i.cmd then refuseCmd u i stGATED s
    else if planRejects s e then refuseCmd u i stREJECTED s
    else s.setPort u (s.port u ++ [i])

/-- Take the head of a bobbin's queue. -/
def popHead (b : Nat) (s : State) : State :=
  let x := s.bob b
  s.setBob b { x with queue := x.queue.drop 1 }

/-- The head dispatches. -/
def dispatchHead (b : Nat) (e : QEntry) (s : State) : State :=
  let s1 := noteGrant e.is.cmd s
  let s2 := popHead b s1
  let s3 := s2.setBob b { s2.bob b with outstanding := (s2.bob b).outstanding + 1 }
  sendToUnit e (s3.count (rBob 0x64) 1)

/-- The head is found late (R71). [DEDUCED, log 52] -/
def lateHead (b : Nat) (e : QEntry) (s : State) : State :=
  setHead b (fun e => { e with kind := .late, charged := true })
    ((faultCharged srcBob { kind := kPHASE_LATE, addr := e.is.addr.toNat } e.is.id s).count (rBob 0x6C) 1)

/-- May a head that completes without dispatch have its record now, but for the slot (R63, R72)? [DEDUCED, log 52] -/
def recordDue (s : State) (x : Bob) (e : QEntry) : Bool :=
  seqKnown s e.charged e.is.id && !(e.kind = .bad && phaseLater s x.entry.ctx.toNat e.is.cmd)

/-- The record of a head that completes without dispatch: ERROR of kind CHECK. [DESIGN CHOICE, log 44] [DEDUCED, log 52] -/
def recordHead (b : Nat) (e : QEntry) (s : State) : State :=
  let d : Done := { is := e.is, status := stERROR, kind := kindCHECK, charged := e.charged, dispatched := false
                    counts := e.kind ≠ .late && e.kind ≠ .stop && cOp e.is.cmd ≠ opPHASE_CLOSE }
  if e.kind = .stop then completeBase false d (popHead b s) else complete d (popHead b s)

/-- DISPATCH of bobbin `b`'s head. [DEDUCED, log 48] -/
def dispatchBob (b : Nat) (s : State) : State :=
  let x := s.bob b
  match x.queue with
  | [] => s
  | e :: _ =>
    if e.kind ≠ .ok then (if recordDue s x e && slotFree x then recordHead b e s else s)
    else if cOp e.is.cmd = opRELEASE then s
    else if phaseClosed s x.entry.ctx.toNat e.is.cmd then lateHead b e s
    else if localReached s x e then holdCtx (cCtx e.is.cmd) 2 s
    else if readyHead s x e && granted s b e.is.cmd then dispatchHead b e s
    else s

def execDispatch (b : Bobbin) (s : State) : Res := .next (if ctlRuns s then dispatchBob b.toNat s else s)

/-- AGE_PROMOTION: the head has been ready for more than AGE_LIMIT cycles (R65). -/
def execAgePromotion (b : Bobbin) (s : State) : Res :=
  let x := s.bob b.toNat
  let lim := (s.getReg (rBob 0x20)).toNat % 2 ^ 24
  match x.queue with
  | e :: _ =>
    match e.readySince with
    | some t =>
      if ctlRuns s && readyHead s x e && lim ≠ 0 && lim < elapsed s.cyc t then
        .next (setHead b.toNat (fun e => { e with aged := true }) s)
      else .next s
    | none => .next s
  | [] => .next s

/-- RUN_SIZE_RESOLVE: the head's waits are satisfied (R154); its phase may be a later one. A head of a closed phase is late (R71) and
is not resolved. [DEDUCED, log 46] -/
def execRunSizeResolve (b : Bobbin) (s : State) : Res :=
  let x := s.bob b.toNat
  match x.queue with
  | e :: _ =>
    match loadedImage s (cCtx e.is.cmd) with
    | some m =>
      if ctlRuns s && e.kind = .ok && !e.resolved && planned e.is.cmd && cOp e.is.cmd ≠ opRELEASE && cPlan e.is.cmd < m.planCount
          && !phaseClosed s x.entry.ctx.toNat e.is.cmd && waitsMet s e.is.cmd then
        .next (resolveHead b.toNat e m s)
      else .next s
    | none => .next s
  | [] => .next s

/-! ## The watch (R285) -/

/-- Every condition holds but enabled waits on remote counters. -/
def watching (s : State) (x : Bob) (e : QEntry) : Bool :=
  e.kind = .ok && cOp e.is.cmd ≠ opRELEASE && gatesOpen s x e.is.cmd && slotFree x && localWaitsMet s e.is.cmd
  && !(remoteOpen s e.is.cmd).isEmpty && !localStop s e.is.cmd

/-- Start of the watch: the later of when the command began to wait and when a remote counter it waits on last changed. -/
def watchStart (s : State) (e : QEntry) (t : Nat) : Nat :=
  lmax (t :: (((waitsOf e.is.cmd).filter (fun w => isRemote s w.1)).map (fun w => mget s.barrierAt w.1 0)))

def wdTicks (s : State) : Nat := (s.getReg (rBob 0x210)).toNat

/-- The fault of an expired watch: context and counter. -/
def silentFault (s : State) (e : QEntry) : Flt :=
  { kind := kPEER_SILENT, addr := cCtx e.is.cmd + (remoteOpen s e.is.cmd).foldl min 65535 * 4096, param := true }

/-- WATCHDOG_EXPIRY of bobbin `b`'s head. -/
def execWatchdogExpiry (b : Bobbin) (s : State) : Res :=
  let x := s.bob b.toNat
  match x.queue with
  | e :: _ =>
    match e.watchSince with
    | some t =>
      if ctlRuns s && watching s x e && wdTicks s ≠ 0 && watchStart s e t + wdTicks s ≤ s.wall then
        .next (setHead b.toNat (fun e => { e with kind := .watched, charged := true })
          ((faultCharged srcBob (silentFault s e) e.is.id s).count (rBob 0x218) 1))
      else .next s
    | none => .next s
  | [] => .next s

/-- What a tick notes of one bobbin's head: since when it is ready (R65), since when it is watched (R285). -/
def noteHead (s : State) (x : Bob) : Bob :=
  match x.queue with
  | [] => x
  | e :: r =>
    let rs := if readyHead s x e then (match e.readySince with | some t => some t | none => some s.cyc) else none
    let ws := if watching s x e then (match e.watchSince with | some t => some t | none => some s.wall) else none
    { x with queue := { e with readySince := rs, watchSince := ws } :: r }

def noteHeads (s : State) : State := { s with bobs := s.bobs.map (fun b => (b.1, noteHead s b.2)) }

/-! ## Completions -/

/-- A stop that was pending is complete once the unit holds no command (R39). -/
def settlePend (s : State) : State :=
  { s with pend := (List.range 128).foldl (fun p v => if vecBusy s v then p else setBit p v false) s.pend }

/-- The first report of unit `u`. -/
def firstReport (s : State) (u : Nat) : Option Report := s.reports.find? (fun r => r.unit = u)

/-- Take the first report of unit `u` from the list. -/
def dropReport (u : Nat) : List Report → List Report
  | [] => []
  | r :: l => if r.unit = u then l else r :: dropReport u l

/-- READY increments still on their way hold back the carder's completion (R230). -/
def incsWait (s : State) (u : Nat) : Bool := 16 ≤ u && u < 48 && !(mget s.crds (u - 16) {}).incs.isEmpty

/-- Append an EXP_SELECT's run to the journal (R289). -/
def journalRoute (c : Nat) (l : List (Nat × Bool)) (s : State) : State :=
  l.foldl (fun s r => jrnAppend c 1 (mark r.2 (leBytes 8 r.1)) s) s

/-- A stage has written its last line everywhere: nothing of what was there can be found any more (R122, R123). -/
def stageDone (id : Nat) (s : State) : State :=
  { s with spn := s.spn.foldl (fun m e =>
      if e.2.was.any (fun o => o.id = id) then mput m e.1 { e.2 with was := e.2.was.filter (fun o => o.id ≠ id) } {} else m) s.spn }

/-- One report is taken: verdict, record, signal, hold, DONE, journal; a pending stop completes. [DEDUCED, log 55] -/
def takeReport (r : Report) (s0 : State) : State :=
  let s := if cOp r.is.cmd = 0x10 then stageDone r.is.id s0 else s0
  let c := bobCtx s r.is.bobbin.toNat
  let s1 : State := { s with reports := dropReport r.unit s.reports }
  let gone := r.errKind = kindABANDONED
  let s2 := verdictOf c (cPhase r.is.cmd) (r.status = stOVERFLOW || (gone && r.lovf))
    (r.status = stCHECKSUM || (gone && r.lcsum)) s1
  let s3 := s2.count (rBob 0x88) (b2n (r.status = stSHAPE))
  let s4 := journalRoute c r.route s3
  let d : Done := { is := r.is, status := r.status, kind := r.errKind, oobR := r.oobReads, oobW := r.oobWrites, aux := r.aux
                    charged := r.charged, counts := cOp r.is.cmd ≠ opPHASE_CLOSE }
  settlePend (complete d s4)

/-- ENGINE_COMPLETION of unit `u` (Table 02-4 index; 53 for the scheduler's own completions). [DEDUCED, log 59] -/
def execEngineCompletion (u : BitVec 6) (s : State) : Res :=
  guarded (.engineCompletion u) (match firstReport s u.toNat with
    | some r => if ctlRuns s && seqKnown s r.charged r.is.id && !incsWait s u.toNat then takeReport r s else s
    | none => s)

/-- READY_INCREMENT: the oldest increment of carder `k` reaches its counter (R230). -/
def execReadyIncrement (k : BitVec 5) (s : State) : Res :=
  let x := mget s.crds k.toNat {}
  match x.incs with
  | i :: r =>
    if ctlRuns s then .next ({ s with crds := mput s.crds k.toNat { x with incs := r } {} }.incBarrier i) else .next s
  | [] => .next s

/-! ## The scheduler opcodes -/

/-- The oldest dispatched scheduler command of bobbin `b` with opcode `op`. -/
def schedFront (s : State) (b op : Nat) : Option Issued := s.sched.find? (fun i => i.bobbin.toNat = b && cOp i.cmd = op)

def dropSched (id : Nat) (s : State) : State := { s with sched := s.sched.filter (fun i => i.id ≠ id) }

/-- Run one scheduler command, if the control plane runs. [DESIGN CHOICE, log 2] -/
def runSched (b : Bobbin) (op : Nat) (f : Issued → State → State) (s : State) : Res :=
  match schedFront s b.toNat op with
  | some i => if ctlRuns s then .next (f i (dropSched i.id s)) else .next s
  | none => .next s

/-- NOP: no work. -/
def execNop (b : Bobbin) (s : State) : Res := runSched b opNOP (fun i s => complete { is := i, status := stOK } s) s

/-- BARRIER_SET: the counter takes the value (R69). -/
def execBarrierSet (b : Bobbin) (s : State) : Res :=
  runSched b opBARRIER_SET (fun i s =>
    complete { is := i, status := stOK } (s.setBarrier (imm i.cmd 0 16) (BitVec.ofNat 32 (imm i.cmd 32 32)))) s

/-- A PHASE_CLOSE takes effect, or fails (R73, R74). [DEDUCED, log 49] -/
def phaseCloseRun (i : Issued) (s : State) : State :=
  let c := cCtx i.cmd
  let x := s.ctx c
  let n := imm i.cmd 0 32
  if x.closer.isSome || n < x.done || posDiff s c i.cmd ≠ 0 then
    (faultCharged srcBob { kind := kPHASE_COUNT, addr := c, param := true } i.id s).addReport
      { is := i, unit := unitSched, status := stERROR, errKind := kindCHECK, charged := true }
  else closeIfDone c (s.setCtx c { x with closer := some (i, n) })

/-- PHASE_CLOSE. -/
def execPhaseClose (b : Bobbin) (s : State) : Res := runSched b opPHASE_CLOSE phaseCloseRun s

/-- The head lacks nothing but, perhaps, a completion slot. -/
def wantsSlot (s : State) (x : Bob) (e : QEntry) : Bool := if e.kind = .ok then readyButSlot s x e else recordDue s x e

/-- Does the head need the one free slot before a RELEASE behind it (R63)? [DEDUCED, log 108] -/
def headFirst (s : State) (x : Bob) : Bool :=
  match x.queue with
  | e :: _ => e.slotWait && cqUsed x + 1 = cqSize x && wantsSlot s x e
  | [] => false

/-- The first checked RELEASE of a bobbin's queue. -/
def firstRelease (x : Bob) : Option QEntry := x.queue.find? (fun e => e.kind = .ok && cOp e.is.cmd = opRELEASE)

/-- The effect of a RELEASE on its tag (R80). [DEDUCED, log 40] -/
def releaseTag (t : Nat) (s : State) : State := if s.hold t then s.setHold t false else s.count (rBob 0x68) 1

/-- RELEASE runs in the checker, ahead of what stands before it. [DEDUCED, log 40] -/
def execRelease (b : Bobbin) (s : State) : Res :=
  let x := s.bob b.toNat
  match firstRelease x with
  | some e =>
    if ctlRuns s && slotFree x && !headFirst s x then
      let s1 := s.setBob b.toNat { x with queue := x.queue.filter (fun q => q.is.id ≠ e.is.id) }
      .next (complete { is := e.is, status := stOK, dispatched := false, holds := false } (releaseTag (cHoldTag e.is.cmd) s1))
    else .next s
  | none => .next s

/-! ## Doorbell writes that the scheduler answers to -/

/-- DB_CQ_HEAD: the count consumed. A head that waited for a slot goes before a RELEASE behind it (R63). [DEDUCED, log 108] -/
def writeCqHead (b : Nat) (v : Word) (s : State) : WrRes :=
  let x := s.bob b
  let wants := match x.queue with | e :: _ => !slotFree x && wantsSlot s x e | [] => false
  .done (s.setBob b { markSlotWait wants x with head := v })

/-- DB_CTRL. -/
def writeDbCtrl (b : Nat) (v : Word) (s : State) : WrRes :=
  let op := v.toNat % 4
  .done (if op = 1 then enableBob b s else if op = 2 then disableBob b s else s)

end Sys2Proof.Machine
end

