-- ==== Sys2Proof/Machine/Loader.lean ====
section
/-! DEFINITION. The Apind loader (R149, R151, R152, R158, R160 to R165): the image, the checks of Table 05-4 in their order,
loading and unloading. -/

namespace Sys2Proof.Machine

/-! ## Digests of the tables an image names (R95, R135) -/

/-- The first 8 bytes of the SHA-384 of a table of FP32 patterns, read little-endian. -/
def tableDigest (l : List Word) : Nat := leNat ((sha384 (l.flatMap (fun w => leBytes 4 w.toNat))).take 8)

/-- Digest of a format slot; 0 when invalid. -/
def fmtDigest (s : State) (i : Nat) : Nat := match mfind s.fmt i with | some l => tableDigest l | none => 0
/-- Digest of a curve table; 0 when invalid. -/
def curveDigest (s : State) (i : Nat) : Nat := match mfind s.curves i with | some l => tableDigest l | none => 0

/-! ## The image header (Table 05-1) -/

/-- First bytes of the header's fields. -/
def headerFields : List Nat :=
  [0, 4, 6, 8, 14, 16, 22, 24, 30, 32, 38, 40, 42, 44, 46, 48, 49, 50, 52, 54] ++ (List.range 8).map (fun i => 64 + 8 * i)
    ++ (List.range 16).map (fun i => 128 + 8 * i) ++ (List.range 16).map (fun i => 256 + 8 * i)
    ++ (List.range 16).map (fun i => 384 + 4 * i) ++ [448]

/-- The field that holds byte `o`. -/
def headerField (o : Nat) : Nat := lmax (headerFields.filter (fun f => f ≤ o))

/-- The image header: its address and its 512 bytes as a number. -/
structure Hdr where
  addr : Nat
  x : Nat
deriving DecidableEq, Repr

/-- `n` bytes at byte `o`. -/
def Hdr.at_ (h : Hdr) (o n : Nat) : Nat := bits h.x (8 * o) (8 * n)

def Hdr.planBase (h : Hdr) : Nat := h.at_ 8 6
def Hdr.planCount (h : Hdr) : Nat := h.at_ 14 2
def Hdr.bsetBase (h : Hdr) : Nat := h.at_ 16 6
def Hdr.bsetCount (h : Hdr) : Nat := h.at_ 22 2
def Hdr.streamBase (h : Hdr) : Nat := h.at_ 24 6
def Hdr.streamCount (h : Hdr) : Nat := h.at_ 30 2
def Hdr.bufBase (h : Hdr) : Nat := h.at_ 32 6
def Hdr.bufCount (h : Hdr) : Nat := h.at_ 38 2
def Hdr.barFirst (h : Hdr) : Nat := h.at_ 40 2
def Hdr.barLast (h : Hdr) : Nat := h.at_ 42 2
def Hdr.holdFirst (h : Hdr) : Nat := h.at_ 44 2
def Hdr.holdLast (h : Hdr) : Nat := h.at_ 46 2
def Hdr.fmtUsed (h : Hdr) (i : Nat) : Bool := nbit (h.at_ 48 1) i
def Hdr.curveUsed (h : Hdr) (i : Nat) : Bool := nbit (h.at_ 50 2) i
def Hdr.posUsed (h : Hdr) (p : Nat) : Bool := nbit (h.at_ 52 2) p
def Hdr.hankClaim (h : Hdr) (p : Nat) : Nat := h.at_ (256 + 8 * p) 8
/-- First line and line count. -/
def Hdr.panelClaim (h : Hdr) (p : Nat) : Nat × Nat := (bits (h.at_ (384 + 4 * p) 4) 0 12, bits (h.at_ (384 + 4 * p) 4) 12 12)

/-! ## Failures (R162) -/

/-- Reason, ITEM and address of a rejection. -/
structure LoadFail where
  reason : Nat
  item : Nat
  addr : Nat
deriving DecidableEq, Repr

/-- An item of table `t` (0 header to 5 command streams). -/
def tabItem (t i : Nat) : Nat := t * 2 ^ 20 + min i (2 ^ 20 - 1)

def Hdr.fail (h : Hdr) (reason off : Nat) : LoadFail := { reason := reason, item := tabItem 0 off, addr := h.addr + off }

/-- The first failure of a list of items. -/
def firstFail {α : Type} (l : List α) (f : α → Option LoadFail) : Except LoadFail Unit :=
  match l.findSome? f with | some e => .error e | none => .ok ()

def failUnless (b : Bool) (e : LoadFail) : Option LoadFail := if b then none else some e

/-! ## The tables as read -/

/-- A stream table entry (R152). -/
structure Stream where
  base : Nat
  cls : Nat
  count : Nat
  reserved : Bool
deriving DecidableEq, Repr

def parseStream (x : Nat) : Stream :=
  { base := bits x 0 48, cls := bits x 48 3, count := bits x 64 32, reserved := bits x 51 13 ≠ 0 || bits x 96 32 ≠ 0 }

/-- A buffer table entry (R152). -/
structure BufEnt where
  base : Nat
  align : Nat
  flags : Nat
  size : Nat
  reserved : Bool
deriving DecidableEq, Repr

def parseBuf (x : Nat) : BufEnt :=
  { base := bits x 0 48, align := bits x 48 8, flags := bits x 56 8, size := bits x 64 40, reserved := bits x 104 24 ≠ 0 }

def BufEnt.buf (b : BufEnt) : Buf := { base := b.base, size := b.size, writable := b.flags % 2 = 1 }

/-- One command of the streams. -/
structure StreamCmd where
  stream : Nat
  index : Nat
  addr : Nat
  cls : Nat
  cmd : Cmd
deriving DecidableEq, Repr

def StreamCmd.item (c : StreamCmd) : Nat := min c.index (2 ^ 24 - 1)
def StreamCmd.fail (c : StreamCmd) (reason : Nat) : LoadFail := { reason := reason, item := c.item, addr := c.addr }

/-- Everything the loader reads of an image. -/
structure ImgData where
  ctx : Nat
  hdr : Hdr
  plan : List Nat
  bset : List Nat
  streams : List Stream
  bufs : List BufEnt
  cmds : List StreamCmd
deriving DecidableEq, Repr

/-- `n` entries of `size` bytes at `a`. -/
def readTable (s : State) (a n size : Nat) : List Nat := (List.range n).map (fun i => rdNat s (a + size * i) size)

/-- The commands of the streams, in stream order, numbered across all of them. -/
def readCmds (s : State) (l : List Stream) : List StreamCmd :=
  ((l.zipIdx.flatMap (fun t => (List.range t.1.count).map (fun i => (t.2, t.1.base + 64 * i, t.1.cls)))).zipIdx).map (fun e =>
    { stream := e.1.1, index := e.2, addr := e.1.2.1, cls := e.1.2.2, cmd := BitVec.ofNat 512 (rdNat s e.1.2.1 64) })

def readImage (s : State) (ctx a : Nat) : ImgData :=
  let h : Hdr := { addr := a, x := rdNat s a 512 }
  let streams := (readTable s h.streamBase h.streamCount 16).map parseStream
  { ctx := ctx, hdr := h, plan := readTable s h.planBase h.planCount 32, bset := readTable s h.bsetBase h.bsetCount 32
    streams := streams, bufs := (readTable s h.bufBase h.bufCount 16).map parseBuf, cmds := readCmds s streams }

/-! ## The checks up to CLAIM -/

/-- READ: an entry of table `t` that cannot be read. Entry 0 of the plan and bucket set tables is never read. -/
def readFails (s : State) (t base n size from_ : Nat) : Option LoadFail :=
  (List.range n).findSome? (fun i =>
    failUnless (i < from_ || !rdPoison s (base + size * i) size) { reason := 1, item := tabItem t i, addr := base + size * i })

def checkRead (s : State) (d : ImgData) : Except LoadFail Unit := do
  let h := d.hdr
  firstFail (List.range 512) (fun o => failUnless (!rdPoison s (h.addr + o) 1) (h.fail 1 (headerField o)))
  firstFail [(1, h.planBase, h.planCount, 32, 1), (2, h.bsetBase, h.bsetCount, 32, 1), (3, h.streamBase, h.streamCount, 16, 0),
      (4, h.bufBase, h.bufCount, 16, 0)] (fun t => readFails s t.1 t.2.1 t.2.2.1 t.2.2.2.1 t.2.2.2.2)
  firstFail d.cmds (fun c => failUnless (!rdPoison s c.addr 64) { reason := 1, item := tabItem 5 c.index, addr := c.addr })

/-- HEADER, field by field. -/
def checkHdr (h : Hdr) : Except LoadFail Unit :=
  firstFail
    (([(0, h.at_ 0 4 = 0x444E5041), (4, h.at_ 4 2 = 1), (6, h.at_ 6 2 = 0), (14, 1 ≤ h.planCount),
      (22, decide (1 ≤ h.bsetCount) && decide (h.bsetCount ≤ 4095)), (30, 1 ≤ h.streamCount), (38, 1 ≤ h.bufCount),
      (42, h.barFirst ≤ h.barLast),
      (46, if h.holdFirst = 0 then decide (h.holdLast = 0) else decide (h.holdFirst ≤ h.holdLast)),
      (49, h.at_ 49 1 = 0), (54, h.at_ 54 10 = 0)] : List (Nat × Bool))
      ++ (List.range 16).map (fun p => (384 + 4 * p, decide (bits (h.at_ (384 + 4 * p) 4) 24 8 = 0)))
      ++ [(448, decide (h.at_ 448 64 = 0))])
    (fun f => failUnless f.2 (h.fail 2 f.1))

/-- RANGE. -/
def checkRange (s : State) (d : ImgData) : Except LoadFail Unit := do
  let h := d.hdr
  firstFail [(8, h.planBase, 32 * h.planCount), (16, h.bsetBase, 32 * h.bsetCount), (24, h.streamBase, 16 * h.streamCount),
      (32, h.bufBase, 16 * h.bufCount)] (fun t => failUnless (rangeOk s t.2.1 t.2.2) (h.fail 4 t.1))
  firstFail d.streams.zipIdx (fun t => failUnless (rangeOk s t.1.base (64 * t.1.count))
    { reason := 4, item := tabItem 3 t.2, addr := h.streamBase + 16 * t.2 })
  firstFail d.bufs.zipIdx (fun b => failUnless (rangeOk s b.1.base b.1.size)
    { reason := 4, item := tabItem 4 b.2, addr := h.bufBase + 16 * b.2 })

/-- ALIGN. -/
def checkAlign (d : ImgData) : Except LoadFail Unit := do
  let h := d.hdr
  firstFail [(8, h.planBase), (16, h.bsetBase), (24, h.streamBase), (32, h.bufBase)]
    (fun t => failUnless (t.2 % 64 = 0) (h.fail 5 t.1))
  firstFail d.streams.zipIdx (fun t => failUnless (!t.1.reserved && t.1.cls ≤ 4)
    { reason := 5, item := tabItem 3 t.2, addr := h.streamBase + 16 * t.2 })
  firstFail d.bufs.zipIdx (fun b => failUnless
    (!b.1.reserved && 6 ≤ b.1.align && b.1.align ≤ 21 && b.1.flags < 4 && b.1.size ≠ 0 && b.1.base % 2 ^ b.1.align = 0)
    { reason := 5, item := tabItem 4 b.2, addr := h.bufBase + 16 * b.2 })

/-- DIGEST. -/
def checkDigest (s : State) (h : Hdr) : Except LoadFail Unit := do
  firstFail (List.range 8) (fun i => failUnless
    (!h.fmtUsed i || ((mfind s.fmt i).isSome && h.at_ (64 + 8 * i) 8 = fmtDigest s i)) (h.fail 6 (64 + 8 * i)))
  firstFail (List.range 16) (fun i => failUnless
    (!h.curveUsed i || ((mfind s.curves i).isSome && h.at_ (128 + 8 * i) 8 = curveDigest s i)) (h.fail 6 (128 + 8 * i)))

/-- BUCKET. -/
def checkBuckets (d : ImgData) : Except LoadFail Unit :=
  firstFail d.bset.zipIdx (fun b => failUnless (b.2 = 0 || bucketOk b.1)
    { reason := 7, item := tabItem 2 b.2, addr := d.hdr.bsetBase + 32 * b.2 })

/-- Buffers of every LOADED image. -/
def residentBufs (s : State) : List Buf := s.images.flatMap (fun e => e.2.bufs)

/-- Free entries of the buffer register (Table 05-5). -/
def bufFree (s : State) : Nat := 262144 - (residentBufs s).length

/-- RESOURCE, in the order of the header's fields. -/
def checkResource (s : State) (h : Hdr) : Except LoadFail Unit := do
  firstFail [()] (fun _ => failUnless (h.bufCount ≤ bufFree s) (h.fail 8 38))
  firstFail (List.range 16) (fun p => failUnless (!h.posUsed p || !isRetired s (physOf s p)) (h.fail 8 52))
  firstFail (List.range 16) (fun p => failUnless ((h.panelClaim p).1 + (h.panelClaim p).2 ≤ panelLines) (h.fail 8 (384 + 4 * p)))

/-- CLAIM: against every LOADED image, in the order of the header's fields. -/
def checkClaim (s : State) (h : Hdr) : Except LoadFail Unit := do
  let ims := s.images.map (·.2)
  firstFail [()] (fun _ => failUnless (ims.all (fun m => h.barLast < m.barFirst || m.barLast < h.barFirst)) (h.fail 9 40))
  firstFail [()] (fun _ => failUnless (h.holdFirst = 0
    || ims.all (fun m => m.holdFirst = 0 || h.holdLast < m.holdFirst || m.holdLast < h.holdFirst)) (h.fail 9 44))
  firstFail (List.range 16) (fun p => failUnless (ims.all (fun m => h.hankClaim p &&& m.hank.getD p 0 = 0)) (h.fail 9 (256 + 8 * p)))
  firstFail (List.range 16) (fun p => failUnless (ims.all (fun m =>
    !rangesMeet (h.panelClaim p).1 (h.panelClaim p).2 (m.panel.getD p (0, 0)).1 (m.panel.getD p (0, 0)).2)) (h.fail 9 (384 + 4 * p)))

def Buf.meets (a b : Buf) : Bool := rangesMeet a.base a.size b.base b.size

/-- BUFFER: a WRITABLE buffer overlaps no other buffer, of this image or of a LOADED one. [DEDUCED, log 56] -/
def checkBuffers (s : State) (d : ImgData) : Except LoadFail Unit :=
  let bs := d.bufs.map BufEnt.buf
  firstFail bs.zipIdx (fun b => failUnless
    (bs.zipIdx.all (fun o => o.2 = b.2 || !b.1.writable || !b.1.meets o.1)
      && (residentBufs s).all (fun o => !(b.1.writable || o.writable) || !b.1.meets o))
    { reason := 10, item := tabItem 4 b.2, addr := d.hdr.bufBase + 16 * b.2 })

/-! ## COMMAND -/

/-- `[a, a + n)` lies inside one buffer. -/
def insideBuf (d : ImgData) (a n : Nat) : Bool := d.bufs.any (fun b => b.base ≤ a && a + n ≤ b.base + b.size)
/-- The same, a WRITABLE one. -/
def insideWritable (d : ImgData) (a n : Nat) : Bool :=
  d.bufs.any (fun b => b.flags % 2 = 1 && b.base ≤ a && a + n ≤ b.base + b.size)

/-- The command with EPOCH zero: the host sets it. -/
def noEpoch (c : Cmd) : Cmd := c &&& ~~~(0xFFFF#512 <<< 48)

/-- The plan entry that a command names, where it names one. -/
def ImgData.planOf (d : ImgData) (c : Cmd) : Option Nat := if cPlan c = 0 then none else d.plan[cPlan c]?

/-- The rules on the plan entry a command names. -/
def planEntryOk (d : ImgData) (c : Cmd) : Bool :=
  cPlan c < d.hdr.planCount &&
  (match d.planOf c with
   | none => true
   | some x =>
     let e := parsePlan x
     e.op = cOp c && e.bset < d.hdr.bsetCount && planReservedOk x && (!e.allv || e.variant = 0)
     && (if e.runSrc then e.runAddr % 4 = 0 else e.runAddr = 0) && 1 ≤ e.runLimit
     && (!e.runSrc || (cRunSize c = 0 && insideBuf d e.runAddr 4)))

def inBars (h : Hdr) (i : Nat) : Bool := h.barFirst ≤ i && i ≤ h.barLast

def countersOk (h : Hdr) (c : Cmd) : Bool :=
  (!cWaitAEn c || inBars h (cWaitA c)) && (!cWaitBEn c || inBars h (cWaitB c)) && (!cSignalEn c || inBars h (cSignal c))
  && (cOp c ≠ opBARRIER_SET || inBars h (imm c 0 16))
  && (cHoldTag c = 0 || (h.holdFirst ≤ cHoldTag c && cHoldTag c ≤ h.holdLast))

/-- Lines of a stage as the COMMAND check counts them: LINE alone where D0 cannot be read or fails R107. -/
def loadStageLines (s : State) (c : Cmd) : Nat :=
  match passes (checkDesc s false (cD c 0)) with
  | .ok d => stageLines c d
  | .error _ => 1

/-- The rules on positions, panel lines and hank slots. -/
def spindleOk (s : State) (h : Hdr) (c : Cmd) : Bool :=
  if cOp c = 0x10 then
    let n := loadStageLines s c
    h.posUsed (cTarget c) && (List.range 16).all (fun p => !nbit (stageMask c) p || h.posUsed p)
    && (stagePositions c).all (fun p =>
      (h.panelClaim p).1 ≤ stageLine c && stageLine c + n ≤ (h.panelClaim p).1 + (h.panelClaim p).2)
  else if cOp c = 0x11 then h.posUsed (cTarget c) && nbit (h.hankClaim (cTarget c)) (mmaSlot c)
  else opClass (cOp c) ≠ some 0 || h.posUsed (cTarget c)

def checkCommands (s : State) (d : ImgData) : Except LoadFail Unit :=
  firstFail d.cmds (fun c => failUnless
    ((envelopeFault c.cls d.ctx (noEpoch c.cmd)).isNone && cOp c.cmd ≠ opIMAGE_START && planEntryOk d c.cmd
      && countersOk d.hdr c.cmd && spindleOk s d.hdr c.cmd) (c.fail 11))

/-! ## DESCRIPTOR -/

/-- The operands of an optimiser command: WOUT too, where the hyperparameter block that names it passes its own checks. What is
wrong with that block acceptance answers for. [DEDUCED, log 56] -/
def loadOpt (c : Cmd) (s : State) : Chk OptOpds := do
  let o ← optOpds c s
  let hp := optHp c
  match passes (readBlock s hp 64) with
  | .ok x =>
    let h := parseHyper x
    if hp % 64 = 0 && hyperReservedOk x && h.wout % 64 = 0 && hyperOk (isAdam c) h then do
      let w ← woutCheck s o h.wout
      return { o with h := h, wout := w }
    else return o
  | .error _ => return o

/-- An operand rule that a block gives, where the block passes its own checks. [DEDUCED, log 56] -/
def byRoute (c : Cmd) (s : State) (f : Route → Chk Unit) : Chk Unit :=
  match passes (routeCheck c s) with | .ok r => f r | .error _ => pure ()

/-- The operands of PLY_REDUCE and PLY_GATHER: what R300 asks of them, but for what the rank owns, which the group entry gives at
acceptance. [DEDUCED, log 56] -/
def loadBlockOp (c : Cmd) (s : State) : Chk (Option Desc × Option Desc) := do
  let a ← optDesc s false (cD c 0)
  let b ← optDesc s true (cD c 1)
  let e := match passes (readBlock s (cD c 3) 64) with
    | .ok x => if rblockReservedOk x && 1 ≤ (parseRBlock x).elems then some (parseRBlock x).elems else none
    | .error _ => none
  match blockOpdFails c e none a b with
  | some i => throw (opdFault c i)
  | none => return (a, b)

/-- The descriptors and blocks that a command's references name, after the checks of R107, R132, R300 and R475 that need no
run-time state. -/
def loadOpds (c : Cmd) (s : State) : Chk Opds :=
  let op := cOp c
  let pair (m : MoveOpds) : Opds := m.opds
  let ds (l : List (Desc × Bool)) : Opds := { descs := l }
  if op = 0x10 then stageOpds c s
  else if op = 0x11 then do let m ← mmaOpds c s; return m.opds
  else if op = 0x40 || op = 0x41 then do let m ← moveOpds c s; return pair m
  else if op = 0x42 then do let (x, y) ← spmmXY c s; return ds [(x, false), (y, true)]
  else if op = 0x48 then do
    let a ← selectOpds c s
    byRoute c s (fun r => selectExtents r c a)
    return ds [(a, false)]
  else if op = 0x4A then do
    let (a, b) ← dispatchOpds c s
    byRoute c s (fun r => dispatchExtents r b)
    return ds [(a, false), (b, true)]
  else if op = 0x4C then do
    let (a, b, e) ← combineOpds c s
    return ds ([(a, false)] ++ b.toList.map (fun d => (d, false)) ++ e.toList.map (fun d => (d, true)))
  else if op = 0x4D then do let a ← prefetchOpds c s; return ds [(a, false)]
  else if op = 0x50 then do let m ← lscaleOpds c s; return pair m
  else if op = 0x51 || op = 0x52 then do
    let o ← loadOpt c s
    return ds ([(o.d0, true), (o.d1, false), (o.d2, true)] ++ (o.d3.toList ++ o.wout.toList).map (fun d => (d, true)))
  else if 0x80 ≤ op && op ≤ 0x86 then do let o ← flyOpds c s; return o.opds
  else if op = 0xA0 || op = 0xA1 then do
    let (a, b) ← loadBlockOp c s
    return ds (a.toList.map (fun d => (d, false)) ++ b.toList.map (fun d => (d, true)))
  else if op = 0xA3 then do let a ← barrierOpd c s; return ds (a.toList.map (fun d => (d, false)))
  else if op = 0xA4 || op = 0xA5 then do let a ← factorOpd c s; return ds [(a, true)]
  else if op = 0xC0 then do let m ← cpyOpds c s; return pair m
  else pure {}

/-- A descriptor and its footprint lie inside buffers. -/
def descInBufs (d : ImgData) (x : Desc × Bool) : Option Nat :=
  let a := x.1
  let n := (a.hi - a.lo + 1).toNat
  let whole := a.hasZeroExtent || (if x.2 then insideWritable d a.lo.toNat n else insideBuf d a.lo.toNat n)
  if !insideBuf d a.addr 64 then some a.addr
  else if a.idxEn && !(insideBuf d a.idxRef 64 && (a.idxSize = 0 || insideBuf d a.idxBase (4 * a.idxSize))) then some a.idxRef
  else if !whole then some a.addr
  else none

/-- The extent that RUN_CHK asks for. -/
def runExtent (d : ImgData) (e : PlanEnt) : Nat :=
  if e.bset = 0 then e.runLimit else min e.runLimit (lmax (bucketSizes (d.bset.getD e.bset 0)) - e.runOffset)

/-- RUN_CHK: the run dimension of the operand that carries it. -/
def runChkFails (d : ImgData) (c : Cmd) (o : Opds) : Option Nat :=
  match d.planOf c with
  | none => none
  | some x =>
    let e := parsePlan x
    if !e.runChk then none
    else
      match o.descs.find? (fun p => p.1.addr = cD c e.runOpd) with
      | some p => if runExtent d e ≤ (if e.runDim < p.1.ndim then p.1.extent e.runDim else 0) then none else some p.1.addr
      | none => if runExtent d e = 0 then none else some (cD c e.runOpd)

/-- The address of the failing descriptor or block of a command; an invalid curve is the epilogue block's failure (R162). -/
def descFails (s : State) (d : ImgData) (c : Cmd) : Option Nat :=
  match passes (loadOpds c s) with
  | .error f => some (if f.kind = kCURVE_INVALID then cD c 3 else f.addr)
  | .ok o =>
    match o.descs.findSome? (descInBufs d) with
    | some a => some a
    | none =>
      match o.blocks.find? (fun b => !insideBuf d b.1 b.2) with
      | some b => some b.1
      | none => runChkFails d c o

def checkDescriptors (s : State) (d : ImgData) : Except LoadFail Unit :=
  firstFail d.cmds (fun c => (descFails s d c.cmd).map (fun a => { reason := 12, item := c.item, addr := a }))

/-! ## COUNT and ORDER -/

/-- COUNT for one phase. A PHASE_CLOSE does not count itself (R72). -/
def countFails (d : ImgData) (ph : Nat) : Option LoadFail :=
  let n := (d.cmds.filter (fun c => cPhase c.cmd = ph && cOp c.cmd ≠ opPHASE_CLOSE)).length
  let pcs := d.cmds.filter (fun c => cPhase c.cmd = ph && cOp c.cmd = opPHASE_CLOSE)
  match pcs.zipIdx.find? (fun c => imm c.1.cmd 0 32 ≠ n || 0 < c.2) with
  | some c => some (c.1.fail 13)
  | none => if pcs.isEmpty then some { reason := 13, item := ph, addr := d.hdr.addr } else none

def checkCount (d : ImgData) : Except LoadFail Unit := firstFail [0, 1, 2] (countFails d)

/-- Operator, round and row tile of a planned SPN_MMA. -/
def visitOf (d : ImgData) (c : Cmd) : Option (Nat × Nat × Nat) :=
  if cOp c ≠ 0x11 then none
  else (d.planOf c).map (fun x => let e := parsePlan x; (e.operator, e.round_, e.rowTile))

/-- Is the pair (round, row tile) below the other one? -/
def visitBefore (a b : Nat × Nat) : Bool := a.1 < b.1 || (a.1 = b.1 && a.2 < b.2)

/-- ORDER (R158): within a stream and an operator, no command stands below an earlier one. -/
def orderFails : List StreamCmd → ImgData → AMap (Nat × Nat) → Option LoadFail
  | [], _, _ => none
  | c :: r, d, m =>
    match visitOf d c.cmd with
    | none => orderFails r d m
    | some (op, v) =>
      let k := c.stream * 65536 + op
      if visitBefore v (mget m k (0, 0)) then some (c.fail 14) else orderFails r d (mset m k v)

def checkOrder (d : ImgData) : Except LoadFail Unit :=
  match orderFails d.cmds d [] with | some e => .error e | none => .ok ()

/-! ## The load -/

/-- Every check of Table 05-4 in its order. [DEDUCED, log 56] -/
def checkImage (s : State) (d : ImgData) : Except LoadFail Unit := do
  checkRead s d
  checkHdr d.hdr
  firstFail [()] (fun _ => failUnless (imgOf s d.ctx ≠ .loaded) (d.hdr.fail 3 0))
  checkRange s d
  checkAlign d
  checkDigest s d.hdr
  checkBuckets d
  checkResource s d.hdr
  checkClaim s d.hdr
  checkBuffers s d
  checkCommands s d
  checkDescriptors s d
  checkCount d
  checkOrder d

/-- What an accepted load installs. -/
def imageOf (d : ImgData) : Image :=
  let h := d.hdr
  { addr := h.addr, planBase := h.planBase, planCount := h.planCount, bsetBase := h.bsetBase, bsetCount := h.bsetCount
    barFirst := h.barFirst, barLast := h.barLast, holdFirst := h.holdFirst, holdLast := h.holdLast
    hank := (List.range 16).map h.hankClaim, panel := (List.range 16).map h.panelClaim, bufs := d.bufs.map BufEnt.buf }

/-- Sectors the loader reads. -/
def imageSectors (d : ImgData) : List Nat :=
  let h := d.hdr
  sectorsOf h.addr 512 ++ sectorsOf (h.planBase + 32) (32 * (h.planCount - 1)) ++ sectorsOf (h.bsetBase + 32) (32 * (h.bsetCount - 1))
    ++ sectorsOf h.streamBase (16 * h.streamCount) ++ sectorsOf h.bufBase (16 * h.bufCount)
    ++ d.cmds.flatMap (fun c => sectorsOf c.addr 64)

/-- Sectors that the COMMAND and DESCRIPTOR checks read, up to the item at which they end with `r`. -/
def descReads (s : State) (d : ImgData) (r : Except LoadFail Unit) : List Nat :=
  let stages (l : List StreamCmd) : List Nat :=
    (l.filter (fun c => cOp c.cmd = 0x10)).flatMap (fun c => (checked (checkDesc s false (cD c.cmd 0))).2)
  let all (l : List StreamCmd) : List Nat := l.flatMap (fun c => (checked (loadOpds c.cmd s)).2)
  match r with
  | .ok _ => stages d.cmds ++ all d.cmds
  | .error f =>
    if f.reason < 11 then []
    else if f.reason = 11 then stages (d.cmds.take (f.item + 1))
    else if f.reason = 12 then stages d.cmds ++ all (d.cmds.take (f.item + 1))
    else stages d.cmds ++ all d.cmds

/-- The loader takes up the IMAGE_START at the front of its queue: a load leaves NONE or REJECTED for LOADING. -/
def beginLoad (s : State) : State :=
  match s.loading with
  | [] => s
  | i :: _ =>
    let c := cCtx i.cmd
    if cD i.cmd 0 = 0 then s
    else
      let s1 : State := { s with loadCtx := BitVec.ofNat 12 c }
      if imgOf s c = .none || imgOf s c = .rejected then { s1 with imgState := mput s1.imgState c .loading .none } else s1

/-- The IMAGE_START in hand is done; the next one is taken up. -/
def nextLoad (s : State) : State := beginLoad { s with loading := s.loading.drop 1 }

/-- A rejection (R162, R163). -/
def rejectLoad (i : Issued) (f : LoadFail) (s : State) : State :=
  let c := cCtx i.cmd
  let aux := BitVec.ofNat 32 (f.reason + 256 * f.item)
  let s1 : State := { s with loadResult := aux, loadAddr := BitVec.ofNat 48 f.addr
                             imgState := if imgOf s c = .loaded then s.imgState else mput s.imgState c .rejected .none }
  let s2 := faultCharged srcBob { kind := kPLAN_REJECT, addr := f.addr } i.id (s1.count (rBob 0x84) 1)
  s2.addReport { is := i, unit := unitSched, status := stREJECTED, aux := aux, charged := true }

/-- Acceptance: everything is installed in one cycle (R163). -/
def acceptLoad (i : Issued) (d : ImgData) (s : State) : State :=
  let c := cCtx i.cmd
  let s1 : State := { s with loadResult := 0, loadAddr := 0, images := mset s.images c (imageOf d)
                             imgState := mput s.imgState c .loaded .none }
  complete { is := i, status := stOK } (s1.count (rBob 0x80) 1)

/-- Is the oldest dispatched IMAGE_START that the loader does not hold one of bobbin `b`'s? It takes them in dispatch order (R165). -/
def loadTurn (s : State) (b : Bobbin) : Bool :=
  match s.sched.find? (fun i => cOp i.cmd = opIMAGE_START) with
  | some i => i.bobbin = b
  | none => false

/-- The loader holds one more IMAGE_START. -/
def holdLoad (i : Issued) (s : State) : State :=
  let s1 : State := { s with loading := s.loading ++ [i] }
  if s.loading.isEmpty then beginLoad s1 else s1

/-- IMAGE_START: the oldest dispatched one goes to the loader, if it is bobbin `b`'s. -/
def execImageStart (b : Bobbin) (s : State) : Res := if loadTurn s b then runSched b opIMAGE_START holdLoad s else .next s

/-- IMAGE_LOAD_COMPLETE: the load in hand ends. [DEDUCED, log 58] -/
def execImageLoadComplete (s : State) : Res :=
  match s.loading with
  | i :: _ =>
    if ctlRuns s && cD i.cmd 0 ≠ 0 then
      let d := readImage s (cCtx i.cmd) (cD i.cmd 0)
      let r := checkImage s d
      let s1 := unitReads srcBob (imageSectors d ++ descReads s d r) s
      .next (nextLoad (match r with
        | .error f => rejectLoad i f s1
        | .ok _ => acceptLoad i d s1))
    else .next s
  | [] => .next s

/-! ## The unload (R164) -/

/-- Every OPEN slot that the image claims becomes FREE. -/
def freeClaims (m : Image) (s : State) : State :=
  (List.range 16).foldl (fun s p =>
    let n := physOf s p
    let x := s.spindle n
    let ts := (List.range 64).filter (fun t => nbit (m.hank.getD p 0) t && mget x.isOpen t false)
    if ts.isEmpty then s else s.setSpindle n (ts.foldl (fun x t => freeSlot t x) x)) s

/-- The plan cache keeps nothing of an image that is gone. [DEDUCED, log 57] -/
def dropPlans (m : Image) (s : State) : State :=
  { s with planCache := s.planCache.filter (fun e =>
      !(rangesMeet e.1 32 m.planBase (32 * m.planCount) || rangesMeet e.1 32 m.bsetBase (32 * m.bsetCount))) }

/-- The image of a context goes, with what hangs on it (R164, R263, R270). [DEDUCED, log 57] -/
def unloadCtx (c : Nat) (s : State) : State :=
  let s1 := match mfind s.images c with
    | some m => dropPlans m (freeClaims m s)
    | none => s
  internalFrees c [0, 1, 2, 3]
    (trnUnload c { s1 with images := mdel s1.images c, imgState := mput s1.imgState c .none .none })

/-- IMAGE_UNLOAD: the IMAGE_START in hand has D0 zero. [DEDUCED, log 57] -/
def execImageUnload (s : State) : Res :=
  match s.loading with
  | i :: _ =>
    let c := cCtx i.cmd
    if ctlRuns s && cD i.cmd 0 = 0 then
      .next (nextLoad (
        if 1 < ctxOutstanding s c then
          (faultCharged srcBob { kind := kCTX_BUSY, addr := c, param := true } i.id s).addReport
            { is := i, unit := unitSched, status := stERROR, errKind := kindCHECK, charged := true }
        else complete { is := i, status := stOK } (unloadCtx c s)))
    else .next s
  | [] => .next s

end Sys2Proof.Machine
end

