-- ==== Sys2Proof/Machine/RegRead.lean ====
section
/-! DEFINITION. What a read of each register shows (R10, and the register table of each chapter): stored values, and the values
that other state gives. A read here changes nothing; what a read of an RC counter clears is in Regs. -/

namespace Sys2Proof.Machine

/-- Free entries of a command port of 16. -/
def portRoom (s : State) (u : Nat) : Nat := 16 - (s.port u).length

/-- A register of 32 bits from two halves of a wider value. -/
def half32 (x i : Nat) : Word := BitVec.ofNat 32 (x / 2 ^ (32 * i))

/-- A word whose bit `i` tells whether `p i` holds. -/
def bitsWord (p : Nat → Bool) : Word := packWord ((List.range 32).map (fun i => (i, 1, b2n (p i))))

/-! ## Blocks of the data plane -/

/-- An SPN_MMA occupies the array or the drain of physical spindle `n`; a stage or a discard occupies neither. -/
def arrayBusy (s : State) (n : Nat) : Bool :=
  s.reports.any (fun r => r.ran && cOp r.is.cmd = 0x11 && (match r.away with | some v => v = n | none => posOf s n = some r.unit))

/-- SPN[n] (Table 04-8). -/
def readSpn (n o : Nat) (s : State) : Word :=
  let x := mget s.spn n {}
  let panel := mfind x.panels ((s.getReg (rSpn n 0x20)).toNat % 64)
  if o = 0 then
    match posOf s n with
    | some p => packWord [(0, 4, p), (4, 1, 1), (5, 1, b2n (arrayBusy s n)), (6, 5, portRoom s p)]
    | none => packWord [(5, 1, b2n (arrayBusy s n)), (6, 5, 16)]
  else if o = 0x24 then
    match panel with
    | some e => packWord [(0, 12, e.line), (12, 12, e.nlines), (24, 1, 1)]
    | none => 0
  else if o = 0x28 then
    match panel with
    | some e => packWord [(0, 8, e.fmt), (8, 2, e.ply), (10, 9, e.vlanes)]
    | none => 0
  else if o = 0x2C then
    match panel with
    | some e => BitVec.ofNat 32 e.k
    | none => 0
  else s.getReg (rSpn n o)

/-- TWB[n] (Table 08-8). A tile passes within one step, so no half holds one between steps. [DEDUCED, log 34] -/
def readTwb (n o : Nat) (s : State) : Word :=
  let split (i : Nat) : Bool := match mfind (mget s.spn n {}).panels i with | some e => e.split | none => false
  if o = 0x14 then bitsWord split
  else if o = 0x18 then bitsWord (fun i => split (32 + i))
  else if o = 0 then 0
  else s.getReg (rTwb n o)

/-- The context that holds hank slot `i` of the position that physical spindle `n` serves (R130). -/
def hankOwner (s : State) (n i : Nat) : Option Nat :=
  match posOf s n with
  | none => none
  | some p => (s.images.find? (fun e => nbit (e.2.hank.getD p 0) i)).map (·.1)

/-- HNK[n] (Table 04-9). [DEDUCED, log 34] -/
def readHnk (n o : Nat) (s : State) : Word :=
  let x := mget s.spn n {}
  if o = 0 then bitsWord (fun i => mget x.isOpen i false)
  else if o = 4 then bitsWord (fun i => mget x.isOpen (32 + i) false)
  else if 0x100 ≤ o then
    match hankOwner s n ((o - 0x100) / 4) with
    | some c => packWord [(0, 12, c), (12, 1, 1)]
    | none => 0
  else s.getReg (rHnk n o)

/-- CRD[k] (Table 06-8, Table 07-6). -/
def readCrd (k o : Nat) (s : State) : Word :=
  if o = 0 then packWord [(0, 1, b2n (s.unitBusy (16 + k))), (1, 5, portRoom s (16 + k))]
  else if o = 0x100 then
    BitVec.ofNat 32 ((s.crd k).fetches.filter (fun f => f.st ≠ .queued)).length
  else s.getReg (rCrd k o)

/-- FLY[f] (Table 08-9). -/
def readFly (f o : Nat) (s : State) : Word :=
  let x := s.flyer f
  if o = 0 then packWord [(0, 1, b2n (s.unitBusy (48 + f))), (1, 5, portRoom s (48 + f))]
  else if o = 0xC then BitVec.ofNat 32 x.dir.length
  else if o = 0x10 then BitVec.ofNat 32 (flyResident x)
  else s.getReg (rFly f o)

/-- PLY[0] (Table 10-8). -/
def readPly (o : Nat) (s : State) : Word :=
  let active := s.ply.length + (s.reports.filter (fun r => r.unit = 52 && r.ran)).length
  if o = 0 then packWord [(0, 3, active), (3, 5, portRoom s 52)] else s.getReg (rPly o)

/-- SKN[k] (Table 11-6). -/
def readSkn (k o : Nat) (s : State) : Word :=
  let x := s.skein k
  let mode : Nat := match x.mode with | .off => 0 | .training => 1 | .filling => 2 | .ready => 3 | .failed => 4
  if o = 0 then packWord [(0, 3, mode), (3, 5, x.channel.toNat), (8, 2, x.refresh.toNat)]
  else if o = 0x1C then half32 x.ueAddr.toNat 0
  else if o = 0x20 then half32 x.ueAddr.toNat 1
  else if o = 0x34 then BitVec.ofNat 32 x.scrubPos
  else if 0x100 ≤ o && o < 0x180 then BitVec.ofNat 32 (mget x.buckets ((o - 0x100) / 4) 0)
  else if 0x200 ≤ o then s.pers (rSkn k o)
  else s.getReg (rSkn k o)

/-- CRL[0] (Table 01-3). -/
def readCrl (o : Nat) (s : State) : Word :=
  if o = 0 then packWord [(0, 1, b2n (s.gate.getLsbD vecCreel))]
  else if o = 4 then s.spare.setWidth 32
  else s.getReg (rCrl o)

/-- PRT[n] (Table 12-8, Table 12-9, R375). [DEDUCED, log 34] -/
def readPrt (n o : Nat) (s : State) : Word :=
  let x := s.prt n
  let mac (hi : Bool) : Word :=
    let stored := (s.pers (rPrt n 8)).toNat % 65536 * 2 ^ 32 + (s.pers (rPrt n 4)).toNat
    half32 (if n = 20 && stored = 0 then s.fuses.mac.toNat else stored) (b2n hi)
  if o = 0 then
    if n = 20 then packWord [(0, 1, 1), (1, 1, 1)]
    else packWord [(0, 1, b2n x.link), (1, 1, b2n x.link), (2, 1, b2n x.pauseD.isSome), (3, 1, b2n x.pauseC.isSome)]
  else if o = 4 then mac false
  else if o = 8 then mac true
  else if o < 0x20 then s.pers (rPrt n o)
  else if o = 0x101C then s.qpResult
  else s.getReg (rPrt n o)

/-! ## The control plane -/

/-- The 8-byte state of a context (Table 02-8). -/
def readCtx (c hi : Nat) (s : State) : Word :=
  let x := s.ctx c
  if hi = 0 then x.step
  else packWord [(0, 2, phaseNo x.phase), (2, 1, b2n x.closer.isSome), (3, 1, b2n (s.run.getLsbD c)), (4, 28, x.done)]

/-- BOB[0]_IND_DATA (R69, R80). -/
def readInd (s : State) : Word :=
  let sel := s.getReg (rBob 0x14)
  let i := sel.toNat % 65536
  if sel.getLsbD 16 then packWord [(0, 1, b2n (s.hold i))] else s.barrier i

/-- A load is being checked: the IMAGE_START in hand names an image. -/
def loadBusy (s : State) : Bool := match s.loading with | i :: _ => cD i.cmd 0 ≠ 0 | [] => false

/-- BOB[0] (Table 02-8, Table 05-5, Table 09-6). -/
def readBob (o : Nat) (s : State) : Word :=
  if o = 0 then packWord [(0, 1, b2n s.ready)]
  else if o = 0x18 then readInd s
  else if o = 0x70 then packWord [(0, 12, s.loadCtx.toNat), (12, 1, b2n (loadBusy s)), (13, 3, s.loading.length)]
  else if o = 0x74 then s.loadResult
  else if o = 0x78 then half32 s.loadAddr.toNat 0
  else if o = 0x7C then half32 s.loadAddr.toNat 1
  else if o = 0x90 then BitVec.ofNat 32 (bufFree s)
  else if o = 0x94 then s.lastRun
  else if o = 0x98 then s.lastBucket.setWidth 32
  else if 0x100 ≤ o && o < 0x1D4 then (s.epoch ((o - 0x100) / 4)).setWidth 32
  else if o = 0x204 then readTrn s
  else if 0x4000 ≤ o && o < 0x8000 then
    match imgOf s ((o - 0x4000) / 4) with
    | .none => 0
    | .loading => 1
    | .loaded => 2
    | .rejected => 3
  else if 0x8000 ≤ o then readCtx ((o - 0x8000) / 8) (o / 4 % 2) s
  else s.getReg (rBob o)

/-! ## The management plane -/

/-- Word `w` of the log entry in LOG_SEL. -/
def readLog (w : Nat) (s : State) : Word :=
  half32 (mget s.dst.log ((s.getReg (rDst 0x48)).toNat % 4096) 0).toNat w

/-- DST[0] (Table 13-7). -/
def readDst (o : Nat) (s : State) : Word :=
  let d := s.dst
  let kind : Byte := (s.getReg (rDst 0x90)).setWidth 8
  if o = 0 then d.status.setWidth 32
  else if o = 4 then d.seq
  else if 8 ≤ o && o < 0x14 then half32 d.latch.toNat ((o - 8) / 4)
  else if o = 0x14 then d.latchSeq
  else if o = 0x18 then half32 d.latchTick.toNat 0
  else if o = 0x1C then half32 d.latchTick.toNat 1
  else if o = 0x34 then BitVec.ofNat 32 (d.ctab.filter (fun e => !windowEnded s e.2)).length
  else if o = 0x40 then d.logTail
  else if 0x50 ≤ o && o < 0x70 then readLog ((o - 0x50) / 4) s
  else if o = 0x70 then d.evrBaseLo
  else if o = 0x74 then d.evrBaseHi.setWidth 32
  else if o = 0x78 then d.evrLog2.setWidth 32
  else if o = 0x7C then d.evrTail
  else if o = 0x94 then
    let k := kindCfg s kind
    packWord [(0, 16, k.n.toNat), (16, 3, k.actNormal.toNat), (19, 3, k.actSevere.toNat)]
  else if o = 0x98 then kindWin s kind
  else if 0xA0 ≤ o && o < 0xC0 then s.pers (rDst o)
  else s.getReg (rDst o)

/-- CLK[0] (Table 14-5). -/
def readClk (o : Nat) (s : State) : Word :=
  if o = 0 then packWord [(0, 1, b2n s.pllLock), (1, 1, b2n s.spread), (2, 1, b2n s.onRoot)]
  else if o = 4 then half32 s.tick 0
  else if o = 8 then half32 s.tick 1
  else if o = 0xC then s.cause.setWidth 32
  else if 0x40 ≤ o && o < 0x50 then vecWord s.gate ((o - 0x40) / 4)
  else if 0x50 ≤ o && o < 0x60 then vecWord s.pend ((o - 0x50) / 4)
  else if 0x70 ≤ o && o < 0x80 then vecWord s.rstBusy ((o - 0x70) / 4)
  else if 0x80 ≤ o && o < 0x90 then vecWord s.sleepReq ((o - 0x80) / 4)
  else if 0x90 ≤ o && o < 0xA0 then vecWord s.asleep ((o - 0x90) / 4)
  else if o = 0xB0 then s.spare.setWidth 32 ||| packWord [(5, 1, b2n s.spareReq.isSome)]
  else if 0x100 ≤ o && o < 0x300 then readRun ((o - 0x100) / 4) s
  else if 0x300 ≤ o && o < 0x500 then readRun ((o - 0x300) / 4) s
  else if o = 0x500 then s.getReg (rClk 0x500) ||| packWord [(14, 1, b2n s.fmDone)]
  else if o = 0x504 then s.fmResult
  else if o = 0x514 then s.monLast
  else s.getReg (rClk o)

/-- NDY[0]_IDENT (Table 00-1). -/
def ident : Word := 0x07680A01

/-- NDY[0]_BOOT_STATE. -/
def bootState (s : State) : Word :=
  packWord [(0, 4, s.ndy.step), (4, 8, s.ndy.reason), (12, 1, s.ndy.slot), (13, 1, b2n s.ndy.fallback)]

/-- Does the offset name a block instance that exists (R12)? -/
def blockExists (a : Nat) : Bool := a / 65536 % 256 < blockInstances (a / 16777216)

/-- Is the register at this offset persistent (R435)? The lifetime counters are stored the same way. -/
def isPersistent (a : Nat) : Bool :=
  [rNdy 0x300, rNdy 0x304, rNdy 0x308].contains a
    || (blockExists a && (match regRow a with | some r => r.isRwp | none => false))

/-- The wear count of the register that WEAR_SEL names. -/
def readWear (s : State) : Word :=
  let a := (s.getReg (rNdy 0x14)).toNat % 2 ^ 28
  if isPersistent a then packWord [(0, 17, s.wearOf a), (17, 1, 1)] else 0

/-- The entry of a format table that FMT_SEL names. -/
def readFmt (s : State) : Word :=
  let sel := (s.getReg (rNdy 0x404)).toNat
  match mfind s.fmt (sel % 8) with
  | some l => l.getD (bits sel 3 8) 0
  | none => 0

/-- Word `i` of a 48-byte digest, byte 0 in the low byte of word 0. -/
def digestWord (l : List Byte) (i : Nat) : Word := BitVec.ofNat 32 (leNat ((l.drop (4 * i)).take 4))

/-- NDY[0]_NVM_STATUS: the write-through in progress, the compaction, and the writes that wait behind (R436, R438). -/
def nvmStatus (s : State) : Word :=
  packWord [(0, 1, b2n (!s.ndy.nvmq.isEmpty)), (1, 1, b2n s.ndy.compactAt.isSome), (2, 5, s.ndy.nvmq.length - 1)]

/-- NDY[0] (Table 03-2, Table 04-10, Table 15-13). -/
def readNdy (o : Nat) (s : State) : Word :=
  let n := s.ndy
  if o = 0 then ident
  else if o = 4 then bootState s
  else if o = 8 then n.seq
  else if o = 0xC then s.pers (rNdy 0xC)
  else if o = 0x10 then nvmStatus s
  else if o = 0x18 then readWear s
  else if o = 0x1C then s.fuses.vid
  else if o = 0x20 then packWord [(0, 4, s.fuses.prog.toNat), (4, 4, s.fuses.revoked.toNat)]
  else if o = 0x28 then packWord [(0, 1, b2n n.fuseDone), (1, 1, b2n n.fuseFail)]
  else if o = 0x30 then half32 s.fuses.serial.toNat 0
  else if o = 0x34 then half32 s.fuses.serial.toNat 1
  else if 0x40 ≤ o && o < 0x70 then digestWord n.digest ((o - 0x40) / 4)
  else if 0x100 ≤ o && o < 0x280 then
    -- 0x60 bytes a slot: twelve words of the RSA hash, then twelve of the SLH-DSA hash
    mget s.fuses.hash ((o - 0x100) / 4) 0
  else if 0x300 ≤ o && o < 0x30C then s.pers (rNdy o)
  else if o = 0x310 then BitVec.ofNat 32 n.telem.length
  else if o = 0x400 then packWord ((List.range 8).map (fun i => (i, 1, b2n (mfind s.fmt i).isSome)))
  else if o = 0x408 then readFmt s
  else if 0x410 ≤ o && o < 0x450 then half32 (fmtDigest s ((o - 0x410) / 8)) (o / 4 % 2)
  else if o = 0x480 then packWord ((List.range 16).map (fun i => (i, 1, b2n (mfind s.curves i).isSome)))
  else if 0x488 ≤ o && o < 0x508 then half32 (curveDigest s ((o - 0x488) / 8)) ((o - 0x488) / 4 % 2)
  else s.getReg (rNdy o)

/-- A word of the whorl table. -/
def tabWord (l : List Byte) (w : Nat) : Word := BitVec.ofNat 32 (leNat ((l.drop (4 * w)).take 4))

/-- The larger of two readings on the signed scale, with its sensor; the lower number keeps an equal reading. -/
def hotter (a b : Nat × BitVec 16) : Nat × BitVec 16 := if a.2.toInt < b.2.toInt then b else a

/-- The hottest of a list of sensors and its number. -/
def hottest : List (Nat × BitVec 16) → Nat × BitVec 16
  | [] => (0, 0)
  | x :: r => r.foldl hotter x

/-- Sensors by number. -/
def numbered (l : List (BitVec 16)) : List (Nat × BitVec 16) := l.zipIdx.map (fun e => (e.2, e.1))

/-- WHL[0] (Table 16-8). -/
def readWhl (o : Nat) (s : State) : Word :=
  let w := s.whl
  if o = 0 then
    packWord [(0, 4, w.level), (4, 4, w.plev), (8, 4, w.clev), (12, 4, w.dlev), (16, 1, b2n w.flowLow), (17, 1, b2n w.inletHigh)]
  else if o = 0x10 then packWord [(0, 12, w.power)]
  else if o = 0x20 then let h := hottest (numbered w.die); packWord [(0, 16, h.2.toNat), (16, 6, h.1)]
  else if o = 0x24 then let h := hottest (numbered w.skn); packWord [(0, 16, h.2.toNat), (16, 5, h.1)]
  else if o = 0x28 then w.inlet.setWidth 32
  else if o = 0x2C then w.flow.setWidth 32
  else if o = 0x34 then tabWord w.table ((s.getReg (rWhl 0x30)).toNat % 64)
  else if 0x100 ≤ o && o < 0x200 then (w.die.getD ((o - 0x100) / 4) 0).setWidth 32
  else if 0x200 ≤ o && o < 0x280 then (w.skn.getD ((o - 0x200) / 4) 0).setWidth 32
  else if 0x300 ≤ o && o < 0x320 then
    let r := w.rails.getD ((o - 0x300) / 4) (0, 0)
    packWord [(0, 16, r.1.toNat), (16, 16, r.2.toNat)]
  else s.getReg (rWhl o)

/-! ## Any register -/

/-- What the register at offset `a` of the block register space shows. An offset with no register reads as zero (R9), and so
do write-only fields (R10). -/
def regValue (a : Nat) (s : State) : Word :=
  let inst := a / 65536 % 256
  let o := a % 65536
  match regRow a with
  | none => 0
  | some r =>
    r.mask (fun t => t ≠ .wo) &&&
    (match a / 16777216 with
    | 0 => readSpn inst o s
    | 1 => readCrd inst o s
    | 2 => readFly inst o s
    | 3 => readPly o s
    | 4 => readBob o s
    | 5 => readSkn inst o s
    | 6 => readDst o s
    | 7 => readClk o s
    | 8 => readNdy o s
    | 9 => readWhl o s
    | 10 => readPrt inst o s
    | 11 => readTwb inst o s
    | 12 => readHnk inst o s
    | _ => readCrl o s)

end Sys2Proof.Machine
end

