-- ==== Sys2Proof/Machine/Notice.lean ====
section
/-! DEFINITION. The management port's own addresses and the frames it originates: neighbour answers, next-hop resolution and the
NOTICE (R346, R375, R433, Table 15-8 to 15-10). -/

namespace Sys2Proof.Machine

/-- The identity that the management port takes at step 3 of the boot. -/
def takeIdentity (s : State) : State :=
  let mac := (s.pers (rPrt 20 8)).toNat % 65536 * 2 ^ 32 + (s.pers (rPrt 20 4)).toNat
  { s with ndy := { s.ndy with
      mac := if mac = 0 then s.fuses.mac.toNat else mac
      ip4 := (s.pers (rPrt 20 0xC)).toNat
      ip6 := (List.range 4).foldl (fun a i => a + (s.pers (rPrt 20 (0x10 + 4 * i))).toNat * 2 ^ (32 * i)) 0 } }

/-- The link-local address that RFC 4291 forms from a MAC address: fe80::/64 and the modified EUI-64. -/
def linkLocal (mac : Nat) : Nat :=
  let hi := mac / 2 ^ 24
  let lo := mac % 2 ^ 24
  0xFE80 * 2 ^ 112 + (hi ^^^ 0x020000) * 2 ^ 40 + 0xFFFE * 2 ^ 24 + lo

/-- Is this an address of the management port? -/
def ownAddress (v6 : Bool) (target : Nat) (s : State) : Bool :=
  if v6 then (target = s.ndy.ip6 && s.ndy.ip6 ≠ 0) || target = linkLocal s.ndy.mac
  else target % 2 ^ 32 = s.ndy.ip4 && s.ndy.ip4 ≠ 0

/-! ## The NOTICE -/

/-- Data of a NOTICE: NDY[0]_BOOT_STATE, NDY[0]_IDENT and the serial number. -/
def noticeData (s : State) : List Byte :=
  leBytes 4 (bootState s).toNat ++ leBytes 4 ident.toNat ++ leBytes 8 s.fuses.serial.toNat

/-- The frame of Table 15-9 with OP 0x07. [PRESUMED, log 94] -/
def noticeFrame (s : State) : List Byte :=
  let d := noticeData s
  leBytes 8 0x07 ++ leBytes 8 0 ++ leBytes 4 d.length ++ leBytes 4 0 ++ d

/-- Send a NOTICE to the collector, if the PORT table names one: its next hop is resolved first. -/
def sendNotice (s : State) : State :=
  if s.ndy.staged && s.ndy.collector ≠ 0 then
    let hop := if s.ndy.gateway = 0 then s.ndy.collector else s.ndy.gateway
    (txFrames 20 1 { s with ndy := { s.ndy with notice := some (noticeFrame s), noticeAt := s.wall } }).emit (.resolve hop)
  else s

end Sys2Proof.Machine
end

