-- ==== Sys2Proof/Machine/Control.lean ====
section
/-! DEFINITION. What writes of the control plane's registers and of the doorbell window do (R48, R69, R81, R82, R269, R293). -/

namespace Sys2Proof.Machine

/-- BOB[0]_CTX_RESET (R81, R270, R263): step 0 opens, with its journal entry (R289). [DEDUCED, log 54] [DEDUCED, log 120] -/
def ctxResetWrite (c : Nat) (s : State) : State :=
  let x := s.ctx c
  if ctxOutstanding s c ≠ b2n x.closer.isSome then faultParam srcBob kCTX_BUSY c s
  else
    let s1 := match x.closer with
      | some (i, _) => completeBase false { is := i, status := stERROR, kind := kindCHECK } s
      | none => s
    internalFrees c [0, 1, 2, 3] (jrnOpen c (trnReset c (s1.setCtx c {})))

/-- BOB[0]_IND_DATA: a barrier counter takes the value; a write of a hold bit is ignored (R69). -/
def indWrite (v : Word) (s : State) : State :=
  let sel := s.getReg (rBob 0x14)
  if sel.getLsbD 16 then s else s.setBarrier (sel.toNat % 65536) v

/-- Every bobbin is DISABLED. -/
def allDisabled (s : State) : Bool := s.bobs.all (fun b => b.2.state = .disabled)

/-- BOB[0]_LS_CFG (R293). -/
def lsCfgOk (v : Word) : Bool :=
  let f (i : Nat) : Int := signed 8 (v.toNat / 2 ^ (8 * i))
  [f 0, f 1, f 2].all (fun x => -100 ≤ x && x ≤ 100) && f 1 ≤ f 0 && f 0 ≤ f 2

/-! ## The doorbell window (Table 02-2) -/

/-- The field at offset `off` of a bobbin's slot. -/
def readDoorbell (b off : Nat) (s : State) : Word :=
  let x := s.bob b
  if off = 0 then x.prod
  else if off = 4 then x.fetched
  else if off = 8 then x.head
  else if off = 0xC then x.tail
  else if off = 0x14 then
    match x.state with | .disabled => 0 | .enabled => 1 | .draining => 2 | .stopped => 3
  else if off = 0x18 then packWord [(0, 16, x.outstanding)]
  else 0

/-- A write to offset `off` of a bobbin's slot. Fields that are read-only, and offsets with none, refuse it (R9, R10). -/
def writeDoorbell (b off : Nat) (v : Word) (s : State) : WrRes :=
  if off = 0 then writeProd b v s
  else if off = 8 then writeCqHead b v s
  else if off = 0x10 then writeDbCtrl b v s
  else .refuse kACCESS_RO

end Sys2Proof.Machine
end

