-- ==== Sys2Proof/Machine/Links.lean ====
section
/-! DEFINITION. What happens to queue pairs and links (R349 to R353, R357, R364, R365, R377): errors, acknowledgements, NAKs and
timeouts, pauses, rates, link loss and migration. -/

namespace Sys2Proof.Machine

/-! ## Ending operations (R355, R357) -/

/-- The issuer of an operation on queue pair `n` sees it complete in error. -/
def failOp (n : Nat) (o : SqOp) (s : State) : State :=
  match o.op with
  | .send _ none => s
  | .send _ (some id) => plyAbandon id s
  | .read _ _ _ k gid =>
    match flyingFetch s k gid with
    | some f => if f.qpn = some n then retryFetch k f s else s
    | none => s
  | .write _ _ _ k gid =>
    match flyingWrite s k gid with
    | some f => if f.qpn = some n then retryWriteBack k f s else s
    | none => s

/-- Move a queue pair to state `st`; every operation outstanding on it completes in error for its issuer. -/
def endQp (n st : Nat) (s : State) : State :=
  let q := s.qp n
  q.sq.foldl (fun s o => failOp n o s) (s.setQp n { q with state := st, sq := [], tries := 0, rnrTries := 0, again := false })

/-- An RC queue pair enters ERROR for a cause of R357: 1 retries, 2 RNR retries, 3 NAK, 4 link down. -/
def qpError (n cause : Nat) (s : State) : State :=
  endQp n 4 (faultParam (srcPrt (s.qp n).port) kQP_ERROR (n + cause * 2 ^ 16) s)

/-- The operations ERROR and RESET of PRT[0]_QP_CMD (R355). Queue pairs 0 and 1 are not used. [DEDUCED, log 75] -/
def qpToError (n : Nat) (s : State) : State := if n < 2 then qpOutcome n false s else qpOutcome n true (endQp n 4 s)
def qpToReset (n : Nat) (s : State) : State := if n < 2 then qpOutcome n false s else qpOutcome n true (endQp n 0 s)

/-! ## Answers to what the device sent -/

/-- Does the queue pair wait for an answer: RC, in RTS, its oldest operation sent? -/
def awaiting (s : State) (n : Nat) : Option WireOp :=
  let q := s.qp n
  if q.state = 3 && !q.ud then
    match q.sq with
    | o :: _ => if o.sent then some o.op else none
    | [] => none
  else none

/-- The oldest operation of a queue pair is done. -/
def popOp (n : Nat) (s : State) : State :=
  let q := s.qp n
  s.setQp n { q with sq := q.sq.drop 1, tries := 0, rnrTries := 0, sentAt := s.wall, again := q.again && (q.sq.drop 1).any (·.sent) }

/-- Every active plying command sends what it may. -/
def plyResume (s : State) : State := s.ply.foldl (fun s c => plyAdvance c.is.id s) s

/-- The answer to the oldest operation of a queue pair has arrived: the operation is done, and `f` follows. -/
def answered (n : Nat) (ing : Ingress) (f : State → State) (s : State) : State :=
  match ingress n 1 ing s with
  | (s1, true) => f (popOp n s1)
  | (s1, false) => s1

/-- ACKNOWLEDGEMENT of the oldest operation: a SEND or a WRITE. A READ is answered by its data. -/
def execAcknowledgement (qpn : BitVec 16) (s : State) (ing : Ingress := {}) : Res :=
  let n := qpn.toNat
  .next (if portUp s (s.qp n).port then
      match awaiting s n with
      | some (.send _ owner) => answered n ing (fun s => plyResume (match owner with | some id => plyAcked id s | none => s)) s
      | some (.write _ _ _ k gid) =>
        answered n ing (fun s => plyResume (match flyingWrite s k gid with | some f => doneWriteBack k f s | none => s)) s
      | _ => s
    else s)

/-- NAK_RECEIVED (R357): an RNR NAK is retried within RNR_RETRY, 7 without limit; any other NAK is an error. [DEDUCED, log 78] -/
def execNakReceived (qpn : BitVec 16) (kind : NakKind) (s : State) (ing : Ingress := {}) : Res :=
  let n := qpn.toNat
  let q := s.qp n
  .next (if portUp s q.port && (awaiting s n).isSome then
      match ingress n 1 ing s with
      | (s1, false) => s1
      | (s1, true) =>
        match kind with
        | .other => qpError n 3 s1
        | .rnr =>
          if q.rnrRetry = 7 || q.rnrTries < q.rnrRetry then
            retransmit n (s1.setQp n { s1.qp n with rnrTries := min 7 (q.rnrTries + 1) })
          else qpError n 2 s1
    else s)

/-- Has the local ACK timeout passed? 4.096 µs are 1,331.2 management ticks. [DEDUCED, log 78] -/
def ackExpired (s : State) (q : Qp) : Bool := 13312 * 2 ^ q.ackTimeout ≤ 10 * (s.wall - q.sentAt)

/-- ACK_TIMEOUT (R357): retransmit within RETRY, then ERROR. -/
def execAckTimeout (qpn : BitVec 16) (s : State) : Res :=
  let n := qpn.toNat
  let q := s.qp n
  .next (if s.ready && (awaiting s n).isSome && ackExpired s q then
      if q.tries < q.retry then retransmit n (s.setQp n { q with tries := q.tries + 1, sentAt := s.wall }) else qpError n 1 s
    else s)

/-! ## Rates and marks (R352, R353) -/

def ccPeriod (s : State) : Nat := (s.getReg (rPrt 0 0x1028)).toNat % 2 ^ 24

/-- CNP: the rate is cut and the period restarts. An increase at the same tick is not applied. [DEDUCED, log 78] -/
def execCnp (qpn : BitVec 16) (s : State) : Res :=
  let n := qpn.toNat
  let q := s.qp n
  .next (if q.state = 3 && portUp s q.port then
      let r := match q.ccOld with | some (w, r) => if w = s.wall then r else q.rate | none => q.rate
      let cut := r * ((s.getReg (rPrt 0 0x1020)).toNat % 256) / 256
      let least := (s.getReg (rPrt 0 0x102C)).toNat % 1024
      (rxFrames q.port 1 s).setQp n { q with
        rate := max least (r - cut), ccFrom := s.wall, ccOld := none, cnpRx := satAdd32 q.cnpRx 1 }
    else s)

/-- CC_PERIOD: a period without a CNP has passed. -/
def execCcPeriod (qpn : BitVec 16) (s : State) : Res :=
  let n := qpn.toNat
  let q := s.qp n
  .next (if q.state = 3 && s.ready && q.ccFrom + ccPeriod s ≤ s.wall then
      let step := (s.getReg (rPrt 0 0x1024)).toNat % 1024
      s.setQp n { q with rate := min (lineRate q.port) (q.rate + step), ccFrom := q.ccFrom + ccPeriod s
                         ccOld := some (s.wall, q.rate) }
    else s)

/-! ## Flow control (R349 to R351) -/

/-- Pause state of a class. -/
def setPause (p : Nat) (ctrl : Bool) (since : Option Nat) (storm : Bool) (s : State) : State :=
  let x := s.prt p
  s.setPrt p (if ctrl then { x with pauseC := since, stormC := storm } else { x with pauseD := since, stormD := storm })

def pauseOf (s : State) (p : Nat) (ctrl : Bool) : Option Nat := if ctrl then (s.prt p).pauseC else (s.prt p).pauseD
def stormOf (s : State) (p : Nat) (ctrl : Bool) : Bool := if ctrl then (s.prt p).stormC else (s.prt p).stormD

/-- A PFC frame arrives. [DEDUCED, log 77] -/
def pfcFrame (p : Nat) (s : State) : State := rxFrames p 1 (s.count (rPrt p 0x5C) 1)

/-- PFC_XOFF: the class pauses; a pause in force goes on. -/
def execPfcXoff (n : BitVec 5) (cls : Bool) (s : State) : Res :=
  let p := n.toNat
  guarded (.pfcXoff n cls) (if portUp s p then
      let s1 := pfcFrame p s
      match pauseOf s p cls with
      | some _ => s1
      | none => setPause p cls (some s.wall) false s1
    else s)

/-- PFC_XON: the class resumes, by a frame or as the pause lapses. -/
def execPfcXon (n : BitVec 5) (cls lapse : Bool) (s : State) : Res :=
  let p := n.toNat
  guarded (.pfcXon n cls lapse) (if portUp s p && (!lapse || (pauseOf s p cls).isSome) then
      plyResume (pumpPort p (setPause p cls none false (if lapse then s else pfcFrame p s)))
    else s)

/-- PFC_STORM: the class has been paused for PRT[0]_PFC_STORM ticks (R351). One pause is reported once. -/
def execPfcStorm (n : BitVec 5) (cls : Bool) (s : State) : Res :=
  let p := n.toNat
  guarded (.pfcStorm n cls) (match pauseOf s p cls with
    | some t =>
      if t + (s.getReg (rPrt 0 0x1034)).toNat ≤ s.wall && !stormOf s p cls then
        faultParam (srcPrt p) kPFC_STORM (p + 32 * b2n cls) (setPause p cls (some t) true s)
      else s
    | none => s)

/-- Half the pause time of the last XOFF has passed: a quantum is 512 bit times of the port. [PRESUMED, log 133] -/
def halfPause (s : State) (p : Nat) (ctrl : Bool) : Bool :=
  let at_ := if ctrl then (s.prt p).xoffAtC else (s.prt p).xoffAtD
  decide (xoffQuanta * 512 * 325 ≤ 2 * 1000 * lineRate p * (s.wall - at_))

/-- PFC_XOFF_REPEAT: half the pause time has passed and the occupancy, now `occ`, stays high; where it has fallen, XON. -/
def execPfcXoffRepeat (n : BitVec 5) (cls : Bool) (s : State) (occ : Nat := 0) : Res :=
  let p := n.toNat
  guarded (.pfcXoffRepeat n cls occ) (if portUp s p && xoffOf s p cls then
      if occHigh s p occ then (if halfPause s p cls then sendPfc p cls true s else s) else watchIngress p cls occ s
    else s)

/-! ## Links (R364, R365, R377) -/

/-- Go-back-N on every queue pair of a port. -/
def retransmitPort (p : Nat) (s : State) : State := (qpsOfPort s p).foldl (fun s n => retransmit n s) (sendHeld p s)

/-- Migration: primary and alternate paths exchange, and the queue pair retransmits (R364). -/
def migrate (n : Nat) (s : State) : State :=
  let q := s.qp n
  retransmit n (s.setQp n { q with port := q.altPort, altPort := q.port, path := q.altPath, altPath := q.path, mig := 1 })

/-- One RC queue pair of a host port that reports link down. -/
def loseHostPath (n : Nat) (s : State) : State :=
  let q := s.qp n
  if q.state ≠ 3 || q.ud then s
  else if q.apm && q.mig = 0 && portUp s q.altPort then migrate n s
  else qpError n 4 s

/-- A port reports link down. -/
def linkLost (p : Nat) (s : State) : State :=
  let s1 := faultParam (srcPrt p) kLINK_DOWN p
    ((s.setPrt p { s.prt p with link := false, lost := false }).count (rPrt p 0x68) 1)
  if p < 16 then s1
  else
    let s2 := (qpsOfPort s1 p).foldl (fun s n => loseHostPath n s) s1
    plyResume (if [16, 17, 18, 19].all (fun h => !(s2.prt h).link) then faultParam (srcPrt p) kHOST_LINK_LOST 0 s2 else s2)

/-- LINK_DOWN: alignment or FEC lock has been lost for `ticks`; the port reports it once they reach LINK_HOLD. [DEDUCED, log 77] -/
def execLinkDown (n : BitVec 5) (s : State) (ticks : Nat := 0) : Res :=
  let p := n.toNat
  let x := s.prt p
  guarded (.linkDown n ticks) (if p < 20 && (x.link || x.lost) && (s.getReg (rPrt p 0x28)).toNat % 2 ^ 24 ≤ ticks then linkLost p s else s)

/-- LINK_UP: queue pairs of the port retransmit. Migrated ones are not taken back. -/
def execLinkUp (n : BitVec 5) (s : State) : Res :=
  let p := n.toNat
  let x := s.prt p
  guarded (.linkUp n) (if p < 20 && x.en && !x.link && s.gate.getLsbD (vecPrt p) && !s.rstBusy.getLsbD (vecPrt p) then
      plyResume (retransmitPort p (s.setPrt p { x with link := true, lost := false }))
    else s)

/-- UNSUPPORTED_FRAME (R347): dropped and counted, or a NAK Invalid Request. A packet whose invariant CRC fails (R348) and a frame
whose codewords the FEC cannot correct are dropped and counted each in their own register. The management port has frame and FEC counters
alone (R375). -/
def execUnsupportedFrame (n : BitVec 5) (f : BadFrame) (s : State) : Res :=
  let p := n.toNat
  guarded (.unsupportedFrame n f) (if portUp s p then
      match f with
      | .frame => (rxFrames p 1 s).count (rPrt p 0x54) 1
      | .request qpn =>
        let q := s.qp qpn.toNat
        if q.state = 3 && q.port = p then answerOn qpn.toNat q.cls 1 (.nakInvalid qpn) (rxFrames p 1 s) else rxFrames p 1 s
      | .icrc => (rxFrames p 1 s).count (rPrt p 0x50) 1
      | .fec k => s.count (rPrt p 0x4C) k
    else if p = 20 && s.pkg.power = .on && !s.pkg.resetLow && s.ndy.phase ≠ .held then
      match f with
      | .fec k => s.count (rPrt 20 0x4C) k
      | _ => rxFrames 20 1 s
    else s)

end Sys2Proof.Machine
end

