-- ==== Sys2Proof/Machine/Regs.lean ====
section
/-! DEFINITION. Accesses to the block register space (R8 to R12, R34, R395): which are refused and how that is reported, what
each write does, what a read clears. -/

namespace Sys2Proof.Machine

/-- A write's answer: none, or the ACCESS kind of its refusal; and the state after it. -/
abbrev WrOut := Option Byte × State

def wrDone (s : State) : WrOut := (none, s)
def wrRefuse (k : Byte) (s : State) : WrOut := (some k, s)

/-- From an answer that leaves the state as it was on refusal. -/
def ofWr (r : WrRes) (s : State) : WrOut :=
  match r with
  | .done t => (none, t)
  | .refuse k => (some k, s)

/-- From an answer with its own state after a refusal. -/
def ofWr2 (r : WrRes × State) : WrOut := ofWr r.1 r.2

/-- Store the software-written fields of an RW register (R9, R10). -/
def storeRw (a : Nat) (r : RegRow) (v : Word) (s : State) : WrOut := wrDone (s.setReg a (v &&& r.mask (fun t => t = .rw)))

/-- Store where a condition on the value holds; else refuse. -/
def storeIf (c : Bool) (a : Nat) (r : RegRow) (v : Word) (s : State) : WrOut :=
  if c then storeRw a r v s else wrRefuse kACCESS_REFUSED s

/-- Store the persistent fields of a register, through to the NVM (R10, R436). [DEDUCED, log 36] -/
def storePers (a : Nat) (r : RegRow) (v : Word) (nvmErr : Bool) (s : State) : WrOut :=
  match persist a (v &&& r.mask (fun t => t = .rwp)) nvmErr s with
  | (t, true) => wrDone t
  | (t, false) => wrRefuse kACCESS_REFUSED t

/-! ## Writes by block -/

/-- CRD[k] (R200, R235). -/
def writeCrd (a : Nat) (r : RegRow) (v : Word) (s : State) : WrOut :=
  let x := (v &&& r.mask (fun t => t = .rw)).toNat
  match a % 65536 with
  | 0x04 => storeIf (64 ≤ x && x ≤ 16384) a r v s
  | 0x104 => storeIf (1 ≤ x && x ≤ 64) a r v s
  | 0x108 => storeIf (1 ≤ x) a r v s
  | _ => storeRw a r v s

/-- FLY[f]_SPILL_BASE (R253): the base that the write makes has its 128 MiB in one skein, clear of retired pages. [DEDUCED, log 32]
[DESIGN CHOICE, log 122] -/
def writeFly (f a : Nat) (r : RegRow) (v : Word) (s : State) : WrOut :=
  let base := if a % 65536 = 4 then spillBase s f / 2 ^ 32 * 2 ^ 32 + v.toNat else v.toNat % 65536 * 2 ^ 32 + spillBase s f % 2 ^ 32
  if a % 65536 = 4 || a % 65536 = 8 then
    storeIf ((s.flyer f).dir.isEmpty && base % 2048 = 0 && rangeOk s base (dirSize * 2048)) a r v s
  else storeRw a r v s

/-- Is a plying command outstanding? -/
def plyBusy (s : State) : Bool := !(s.port 52).isEmpty || !s.ply.isEmpty || s.reports.any (fun r => r.unit = 52)

/-- PLY[0] (R320). [DEDUCED, log 32] -/
def writePly (a : Nat) (r : RegRow) (v : Word) (s : State) : WrOut :=
  match a % 65536 with
  | 0x04 => storeIf (!plyBusy s && v.toNat % 64 = 0) a r v s
  | 0x08 => storeIf (!plyBusy s) a r v s
  | _ => storeIf ((List.range 8).all (fun i => let h := bits v.toNat (4 * i) 4; 1 ≤ h && h ≤ 7)) a r v s

/-- BOB[0] (R69, R76, R81, R82, R269, R293). Whether the 2 GiB behind a new CWIN_BASE lie in one skein is not asked here. [DEDUCED, log 32]
[DESIGN CHOICE, log 129] -/
def writeBob (a : Nat) (r : RegRow) (v : Word) (s : State) : WrOut :=
  match a % 65536 with
  | 0x04 => storeIf (allDisabled s && v.toNat % 4096 = 0) a r v s
  | 0x08 => storeIf (allDisabled s) a r v s
  | 0x0C => storeIf (allDisabled s && v.toNat % 8192 = 0) a r v s
  | 0x10 => storeIf (allDisabled s) a r v s
  | 0x18 => wrDone (indWrite v s)
  | 0x1C => wrDone (ctxResetWrite (v.toNat % 4096) s)
  | 0x204 => ofWr (writeTrn v s) s
  | 0x208 => storeIf (lsCfgOk v) a r v s
  | _ => storeRw a r v s

/-- Is a fence value legal (R338)? -/
def fenceOk (o : Nat) (v : Word) : Bool := if o < 0x240 then v.toNat % 2 ^ 14 < 12288 else bits v.toNat 5 4 < 12

/-- BKT_CFG and BKT_LEAK go on acting as they stand for the rest of this tick (R335). -/
def keepBucketCfg (k : Nat) (s : State) : State := s.setSkein k { s.skein k with cfgWas := some (s.tick, bucketCfg s k) }

/-- SKN[k] (R336 to R338, R342). -/
def writeSkn (k a : Nat) (r : RegRow) (v : Word) (nvmErr : Bool) (s : State) : WrOut :=
  let o := a % 65536
  if 0x200 ≤ o then (if fenceOk o v then storePers a r v nvmErr s else wrRefuse kACCESS_REFUSED s)
  else if o = 0x24 then storeIf (v.toNat % 256 ≠ 0) a r v (keepBucketCfg k s)
  else if o = 0x2C then
    -- the interval of R336 counts from the moment scrubbing is turned on
    let on_ := v.getLsbD 0 && !(s.getReg a).getLsbD 0
    storeRw a r v (if on_ then s.setSkein k { s.skein k with scrubFrom := s.tick } else s)
  else storeIf (v ≠ 0) a r v (keepBucketCfg k s)

/-- DST[0] (R385, R386, R393, R399). -/
def writeDst (a : Nat) (r : RegRow) (v : Word) (nvmErr : Bool) (s : State) : WrOut :=
  let o := a % 65536
  if o = 0 then ofWr (writeDstStatus v s) s
  else if o = 0x70 then ofWr2 (writeEvrBase false v s)
  else if o = 0x74 then ofWr2 (writeEvrBase true v s)
  else if o = 0x78 then ofWr2 (writeEvrCfg v s)
  else if o = 0x94 then ofWr (writeKind false v s) s
  else if o = 0x98 then ofWr (writeKind true v s) s
  else if 0xA0 ≤ o && o < 0xB0 then ofWr2 (writeRetired ((o - 0xA0) / 4) v nvmErr s)
  else if 0xB0 ≤ o then storePers a r v nvmErr s
  else storeRw a r v s

/-- Ports whose gate a write has opened send what waits for them. -/
def passPorts (s0 : State) (r : WrRes) : WrRes :=
  match r with
  | .refuse k => .refuse k
  | .done s =>
    .done (if (List.range 20).all (fun n => portUp s n == portUp s0 n) then s
      else plyResume ((List.range 20).foldl (fun s n => if portUp s0 n then s else pumpPort n s) s))

/-- CLK[0] (R407 to R413, R418, R419). -/
def writeClk (a : Nat) (r : RegRow) (v : Word) (s : State) : WrOut :=
  let o := a % 65536
  if o = 0x10 then ofWr (writeDevReset v s) s
  else if 0x40 ≤ o && o < 0x50 then ofWr (passPorts s (writeGate ((o - 0x40) / 4) v s)) s
  else if 0x60 ≤ o && o < 0x70 then ofWr (writeRst ((o - 0x60) / 4) v s) s
  else if 0x80 ≤ o && o < 0x90 then ofWr (writeSleep ((o - 0x80) / 4) v s) s
  else if o = 0xA0 then ofWr (writeIssue v s) s
  else if o = 0xB0 then ofWr (writeSpare v s) s
  else if 0x100 ≤ o && o < 0x300 then ofWr (writeRunSet ((o - 0x100) / 4) v s) s
  else if 0x300 ≤ o && o < 0x500 then ofWr (writeRunClr ((o - 0x300) / 4) v s) s
  else if o = 0x500 then ofWr (writeFmCtl v s) s
  else if o = 0x510 then ofWr (writeDriftPpm v s) s
  else storeRw a r v s

/-- End the fuse operation in hand (R439). [DEDUCED, log 38] -/
def endFuse (s : State) : State :=
  match s.ndy.fuse with
  | none => s
  | some op =>
    let ended (fail : Bool) (s : State) : State :=
      { s with ndy := { s.ndy with fuse := none, fuseDone := true, fuseFail := fail } }
    match op with
    | .refused => ended true s
    | .program slot data =>
      let f := s.fuses
      let h := (List.range 24).foldl (fun m w => mput m (24 * slot + w) (mget data w 0) 0) f.hash
      ended false { s with fuses := { f with prog := f.prog ||| (1#4 <<< slot), hash := h } }
    | .revoke slot => ended false { s with fuses := { s.fuses with revoked := s.fuses.revoked ||| (1#4 <<< slot) } }

/-- The operation that a FUSE_CMD from the management port starts, if any (R439). -/
def fuseOpOf (v : Word) (s : State) : Option FuseOp :=
  let f := s.fuses
  let op := v.toNat % 4
  let slot := bits v.toNat 2 2
  let live := (List.range 4).filter (fun i => f.prog.getLsbD i && !f.revoked.getLsbD i)
  if op ≠ 1 && op ≠ 2 then none
  else if bits v.toNat 16 16 ≠ 0xF05E then some .refused
  else if op = 1 then (if f.prog.getLsbD slot then some .refused else some (.program slot s.ndy.fuseData))
  else if !f.prog.getLsbD slot || live.all (· = slot) then some .refused
  else some (.revoke slot)

/-- A fuse operation begins. -/
def startFuse (op : FuseOp) (s : State) : State := { s with ndy := { s.ndy with fuse := some op, fuseDone := false, fuseFail := false } }

/-- NDY[0]_FUSE_CMD (R439): an operation that a host port asks for is refused, and its write too. An operation in hand ends first.
[DEDUCED, log 38] -/
def writeFuseCmd (o : Origin) (v : Word) (s : State) : WrOut :=
  if o = .mgmt then
    let s1 := endFuse s
    match fuseOpOf v s1 with
    | none => wrDone s1
    | some op => wrDone (startFuse op s1)
  else if v.toNat % 4 = 1 || v.toNat % 4 = 2 then wrRefuse kACCESS_REFUSED (startFuse .refused (endFuse s))
  else wrRefuse kACCESS_REFUSED s

/-- NDY[0] (R439, R440). -/
def writeNdy (org : Origin) (a : Nat) (r : RegRow) (v : Word) (nvmErr : Bool) (s : State) : WrOut :=
  let o := a % 65536
  if o = 0xC then
    if v.toNat < (s.pers a).toNat || s.ndy.seq.toNat < v.toNat then wrRefuse kACCESS_REFUSED s else storePers a r v nvmErr s
  else if o = 0x24 then writeFuseCmd org v s
  else if 0x80 ≤ o && o < 0xE0 then
    wrDone { s with ndy := { s.ndy with fuseData := mput s.ndy.fuseData ((o - 0x80) / 4) v 0 } }
  else storeRw a r v s

/-- WHL[0]_TAB_DATA (R463). -/
def writeTab (v : Word) (s : State) : WrOut :=
  let w := (s.getReg (rWhl 0x30)).toNat % 64
  let t := if s.whl.table.isEmpty then List.replicate 256 0 else s.whl.table
  let t' := t.take (4 * w) ++ leBytes 4 v.toNat ++ t.drop (4 * w + 4)
  if tabOk t' then wrDone { s with whl := { s.whl with table := t' } } else wrRefuse kACCESS_REFUSED s

/-- WHL[0] (R457, R463). [DEDUCED, log 33] -/
def writeWhl (a : Nat) (r : RegRow) (v : Word) (s : State) : WrOut :=
  match a % 65536 with
  | 0x04 => storeIf (1500 ≤ v.toNat % 4096 && v.toNat % 4096 ≤ 3000) a r v s
  | 0x34 => writeTab v s
  | _ => storeRw a r v s

/-- Every queue pair is in RESET. -/
def qpsReset (s : State) : Bool := s.qps.all (fun q => q.2.state = 0)

/-- PRT[0]_QP_CMD (R355). -/
def qpCommand (v : Word) (s : State) : State :=
  let n := v.toNat % 65536
  match bits v.toNat 16 3 with
  | 1 => qpLoad n s
  | 2 => qpToError n s
  | 3 => qpToReset n s
  | 4 => qpRearm n s
  | _ => s

/-- PRT[n] (R355, R373, R374). [DEDUCED, log 33] -/
def writePrt (a : Nat) (r : RegRow) (v : Word) (nvmErr : Bool) (s : State) : WrOut :=
  let o := a % 65536
  if o < 0x20 then storePers a r v nvmErr s
  else if o = 0x1000 then storeIf (qpsReset s && v.toNat % 128 = 0) a r v s
  else if o = 0x1008 || o = 0x1010 then storeIf (qpsReset s && v.toNat % 64 = 0) a r v s
  else if o = 0x1004 || o = 0x100C || o = 0x1014 then storeIf (qpsReset s) a r v s
  else if o = 0x1018 then wrDone (qpCommand v s)
  else if o = 0x1020 then storeIf (v.toNat % 256 ≠ 0) a r v s
  else if o = 0x1028 || o = 0x1030 then storeIf (v.toNat % 2 ^ 24 ≠ 0) a r v s
  else if o = 0x102C then storeIf (v.toNat % 1024 ≤ 800) a r v s
  else storeRw a r v s

/-- A write to the register at offset `a`, by the access types of its fields and the rules of its chapter. -/
def writeReg (org : Origin) (a : Nat) (v : Word) (nvmErr : Bool) (s : State) : WrOut :=
  match regRow a with
  | none => wrRefuse kACCESS_RO s
  | some r =>
    if r.allRo || r.isRc then wrRefuse kACCESS_RO s
    else
      let inst := a / 65536 % 256
      match a / 16777216 with
      | 1 => writeCrd a r v s
      | 2 => writeFly inst a r v s
      | 3 => writePly a r v s
      | 4 => writeBob a r v s
      | 5 => writeSkn inst a r v nvmErr s
      | 6 => writeDst a r v nvmErr s
      | 7 => writeClk a r v s
      | 8 => writeNdy org a r v nvmErr s
      | 9 => writeWhl a r v s
      | 10 => writePrt a r v nvmErr s
      | _ => storeRw a r v s

/-! ## Refusals (R12, R34, R395) -/

/-- First address of the block register space (R11). [DEDUCED, log 19] -/
def regBase : Nat := 0x020200000000

/-- An identity register of a host or fabric port, which the management plane holds (R373). -/
def portIdentity (a : Nat) : Bool :=
  let inst := a / 65536 % 256
  let o := a % 65536
  a / 16777216 = 10 && inst < 20 && 4 ≤ o && o ≤ 0x1C

/-- Registers that the management port reaches (R34, R442). -/
def mgmtReach (a : Nat) : Bool :=
  let code := a / 16777216
  let inst := a / 65536 % 256
  (6 ≤ code && code ≤ 9 && inst = 0) || (code = 10 && inst = 20) || portIdentity a

/-- The unit through which an access enters. [DEDUCED, log 17] -/
def entry (o : Origin) : BitVec 16 :=
  match o with
  | .host p => srcPrt p.toNat
  | .mgmt => srcPrt 20
  | .niddy => srcNdy

/-- HOST for the host ports, MGMT for the management port (R379). [DEDUCED, log 18] -/
def originFlags (o : Origin) : Byte :=
  match o with
  | .host p => if 16 ≤ p.toNat then flagHost else 0
  | .mgmt => flagMgmt
  | .niddy => 0

/-- The message of a refused access. [DEDUCED, log 17] [DEDUCED, log 19] -/
def raiseAccess (o : Origin) (source : BitVec 16) (kind : Byte) (addr : Nat) (s : State) : State :=
  sendMsg { source := source, kind := kind, flags := originFlags o, addr := BitVec.ofNat 48 addr } none s

/-- Why an access never reaches the register: kind, and the SOURCE of its message. [DEDUCED, log 17] -/
def reachRefusal (o : Origin) (a : Nat) (s : State) : Option (Byte × BitVec 16) :=
  if a % 4 ≠ 0 then some (kACCESS_FORM, if blockExists a then src (a / 16777216) (a / 65536 % 256) else entry o)
  else if !blockExists a || (o = .mgmt && !mgmtReach a) then some (kACCESS_MAP, entry o)
  else if blockGated s a && !(o = .mgmt && portIdentity a) then some (kACCESS_GATED, src (a / 16777216) (a / 65536 % 256))
  else none

/-- One write of one register. The flag: performed. -/
def accessWrite (o : Origin) (a : Nat) (v : Word) (nvmErr : Bool) (s : State) : Bool × State :=
  match reachRefusal o a s with
  | some (k, source) => (false, raiseAccess o source k (regBase + a) s)
  | none =>
    match writeReg o a v nvmErr s with
    | (none, t) => (true, tagNew (originFlags o) s t)
    | (some k, t) => (false, raiseAccess o (src (a / 16777216) (a / 65536 % 256)) k (regBase + a) t)

/-- What a read of a counter leaves: zero (R10). -/
def clearRc (a : Nat) (s : State) : State :=
  match regRow a with
  | some r => if r.isRc then s.setReg a 0 else s
  | none => s

/-- One read of one register; `snap` for a telemetry snapshot, which clears nothing. -/
def accessRead (o : Origin) (snap : Bool) (a : Nat) (s : State) : Option Word × State :=
  match reachRefusal o a s with
  | some (k, source) => (none, raiseAccess o source k (regBase + a) s)
  | none => (some (regValue a s), if snap then s else clearRc a s)

/-! ## Accesses of several words (R8) -/

/-- The management plane has left reset: the niddy runs (R36, R37, R418). -/
def mgmtRuns (s : State) : Bool := s.pkg.power = .on && !s.pkg.resetLow && s.ndy.phase ≠ .held

/-- Does the NVM report a program error for the write-through that a write of this register makes? Nothing in the command
says. [DESIGN CHOICE, log 37] -/
def nvmOutcome (a : Nat) (s : State) : Bool × State :=
  if isPersistent a then (Config.freeBool s.free, s.bumpFree) else (false, s)

/-- Writes word by word in ascending order, ending at the first refusal, or with a device reset. -/
def accessWrites (o : Origin) (a : Nat) : List Word → State → Bool × State
  | [], s => (true, s)
  | v :: r, s0 =>
    let (e, s) := nvmOutcome a s0
    match accessWrite o a v e s with
    | (true, t) => if mgmtRuns t then accessWrites o (a + 4) r t else (true, t)
    | (false, t) => (false, t)

/-- Reads word by word in ascending order; none where any word is refused. -/
def accessReads (o : Origin) (snap : Bool) : Nat → Nat → State → Option (List Word) × State
  | 0, _, s => (some [], s)
  | n + 1, a, s =>
    match accessRead o snap a s with
    | (none, t) => (none, t)
    | (some w, t) =>
      match accessReads o snap n (a + 4) t with
      | (none, u) => (none, u)
      | (some ws, u) => (some (w :: ws), u)

/-! ## When an origin reaches the device -/

/-- Does an access of this origin enter at all? A host's enters by a port that passes frames; the management port serves
register writes once READY or FAILED, and CLK[0]_DEV_RESET at any time (Table 15-10). -/
def enters (o : Origin) (a : Nat) (s : State) : Bool :=
  match o with
  | .host p => portUp s p.toNat
  | .mgmt => mgmtRuns s && (s.ndy.phase = .ready || s.ndy.phase = .failed || a = rClk 0x10)
  | .niddy => mgmtRuns s

/-- A write command that names one register. -/
def regWrite (o : Origin) (a : Nat) (v : Word) (nvmErr : Bool) (s : State) : State :=
  if enters o a s then (accessWrite o a v nvmErr s).2 else s

end Sys2Proof.Machine
end

