-- ==== Sys2Proof/Machine/Boot.lean ====
section
/-! DEFINITION. Start-up (R339, R340, R415, R421 to R434, R449): Table 15-6 from step 1 to READY, and its failures. -/

namespace Sys2Proof.Machine

def setNdy (f : Ndy → Ndy) (s : State) : State := { s with ndy := f s.ndy }

/-- A fault of the niddy during boot. The distaff runs meanwhile and accepts a message (R400). [DEDUCED, log 23] -/
def bootFault (kind : Byte) (x : Nat) (s : State) : State := acceptNext (faultParam srcNdy kind x s)

/-- BOOT_TABLE with a table type or a reason of Table 15-5. -/
def bootTable (x : Nat) (s : State) : State := bootFault kBOOT_TABLE x s

/-- The boot fails with a reason. -/
def failBoot (reason : Nat) (s : State) : State := setNdy (fun n => { n with phase := .failing, reason := reason }) s

/-! ## Step 3: the persistent area -/

/-- A lifetime counter adds one, where its endurance allows (R437). [DEDUCED, log 91] -/
def lifeCount (off : Nat) (s : State) : State := (persistFree off (satAdd32 (s.pers off) 1) s).1

/-- LIFE_POWERON or LIFE_RESETS, and the copy of the cause latch (R418, R431). -/
def countBoot (s : State) : State :=
  let s1 := if s.cause = 0 then lifeCount (rNdy 0x300) s else lifeCount (rNdy 0x304) s
  if 2 ≤ s.cause.toNat && s.cause.toNat ≤ 4 then (persistFree (rDst 0xBC) (s.cause.setWidth 32) s1).1 else s1

/-- Step 3. The spare map in force is the persisted one (R146, R420). [DEDUCED, log 91] -/
def bootPersist (s : State) : State :=
  let s1 := takeIdentity (countBoot (scanPersist s))
  { s1 with spare := (s1.pers (rClk 0xB0)).setWidth 5 }

/-! ## Steps 4 to 6: the image (R430) -/

/-- Headers that Table 15-2 admits but R430 excludes are reported. [DEDUCED, log 87] -/
def reportHeaders (s : State) : State :=
  [0, 1].foldl (fun t i => match headerReason s i with
    | some r => if r = 0xF1 then t else bootTable r t
    | none => t) s

/-- Try the candidates in order: the slot that passes, if any. A read error in an image (`bad`: in which slot) ends the boot (R421).
[DEDUCED, log 87] -/
def tryImages (bad : Option Nat) : List Nat → State → Option Nat × State
  | [], s => (none, s)
  | i :: r, s =>
    let s1 := setNdy (fun n => { n with slot := i, step := 1 }) s
    if bad = some i then (none, setNdy (fun n => { n with reason := 0xF0 }) s1)
    else
      match imageReason s i with
      | none => (some i, setNdy (fun n => { n with step := 2 }) s1)
      | some x => tryImages bad r (setNdy (fun n => { n with step := 2, reason := x, fallback := true }) (bootTable x s1))

/-! ## Step 7: staging -/

/-- Words of a table. -/
def tabWords (t : List Byte) : List Word := (List.range (t.length / 4)).map (tabWord t)

/-- Does a TELEMETRY entry name a register of the block register space? [DEDUCED, log 89] -/
def telemEntryOk (w : Word) : Bool := w.toNat < 2 ^ 28 && w.toNat % 4 = 0 && blockExists w.toNat

/-- The TELEMETRY table (R441): a list of register offsets. -/
def stageTelemetry (i : Nat) (s : State) : State :=
  match imgTable s i 8 0 with
  | none => s
  | some t =>
    if t.length % 4 = 0 && t.length ≤ 4096 && (tabWords t).all telemEntryOk then
      let l := (tabWords t).map (·.toNat)
      setNdy (fun n => { n with telem := l, frame := l.map (fun _ => (0, 0)) }) s
    else bootTable 0x08 s

/-- The whorl takes its table; CAP, HYST and HOLD come from it (R464, R471). -/
def takeWhorl (t : List Byte) (s : State) : State :=
  ((({ s with whl := { s.whl with table := t } }.setReg (rWhl 4) (BitVec.ofNat 32 (tabCap t))).setReg (rWhl 8)
    (BitVec.ofNat 32 (tabHyst t))).setReg (rWhl 0xC) (BitVec.ofNat 32 (tabHold t)))

/-- An address of 16 bytes in network order. -/
def addr128 (t : List Byte) (o : Nat) : Nat := beNat ((t.drop o).take 16)

/-- Interfaces, collector and gateway of the PORT table. [DEDUCED, log 88] -/
def stagePort (t : List Byte) (s : State) : State :=
  setNdy (fun n => { n with staged := true, ifaces := (t.take 20).map (·.toNat), collector := addr128 t 32
                            colPort := tabField t 48 2, gateway := addr128 t 608 }) s

/-- The image in slot `i` is the running one. -/
def stageImage (i : Nat) (s : State) : State :=
  let s1 := setNdy (fun n => { n with
    step := 3, seq := BitVec.ofNat 32 (imgSeq s i), keyslot := imgKeyslot s i, digest := sha384 (imgBytes s i 0 (imgLen s i)) }) s
  stagePort ((imgTable s i 7 0).getD []) (takeWhorl ((imgTable s i 6 0).getD []) (stageTelemetry i s1))

/-! ## Step 8: the clocks (R415) -/

/-- Step 1 of Table 14-3 waits for the core reference; with it the root PLL is enabled and locks,
and the software meter starts its first window of step 3. -/
def startClocks (ref : Bool) (s : State) : State :=
  if ref then
    { setNdy (fun n => { n with step := 4, phase := .windows, windows := 0, passes := 0 }) s with
      pllLock := true, fmRun := true, fmDone := false }
  else setNdy (fun n => { n with step := 4, phase := .waitRef }) s

/-- The slot in whose image a read error lies. -/
def badSlot (e : BootEnv) : Option Nat := match e.readError with | some (.image b) => some (b2n b) | _ => none

/-- BOOT_START: steps 1 to 7. XSPI_RST_N goes low at the start of step 2 (R468). Without a working NVM the management port takes its
factory identity (R375). [DEDUCED, log 86] -/
def bootStart (e : BootEnv) (s : State) : State :=
  let s1 := (setNdy (fun n => { n with fast := e.nvmFast, trainFail := e.trainFail, step := 0 }) s).emit .xspiReset
  if !e.nvmOk || e.readError = some .scan then failBoot 0xF0 (takeIdentity s1)
  else
    let s2 := setNdy (fun n => { n with step := 1 }) (bootPersist s1)
    if e.readError = some .headers then failBoot 0xF0 s2
    else match candidates s2 with
    | [] => failBoot 0xF1 (reportHeaders s2)
    | c =>
      match tryImages (badSlot e) c (reportHeaders s2) with
      | (some i, s3) => startClocks e.refPresent (stageImage i s3)
      | (none, s3) => setNdy (fun n => { n with phase := .failing }) s3

def execBootStart (e : BootEnv) (s : State) : Res :=
  .next (if s.pkg.power = .on && !s.pkg.resetLow && s.ndy.phase = .held then bootStart e s else s)

/-- CORE_REFERENCE_PRESENT. -/
def execCoreReferencePresent (s : State) : Res := .next (if s.ndy.phase = .waitRef then startClocks true s else s)

/-! ## Step 9: units -/

/-- Does the gate of place `v` open at boot: the CLOCK table asks for it, or the persisted spare map does for spindle 16, whose
swap boot applies (R146, R412)? [DEDUCED, log 22] -/
def gateAsked (t : List Byte) (s : State) (v : Nat) : Bool :=
  nbit (tabField t (16 + 4 * (v / 32)) 4) (v % 32) || (v = 16 && s.spare.getLsbD 4)

/-- Gates that boot opens, but for retired units. [DEDUCED, log 22] -/
def openGates (t : List Byte) (s : State) : State :=
  { s with gate := (List.range 128).foldl (fun g v =>
      if vecUsed v && gateAsked t s v && !isRetired s v then setBit g v true else g) 0 }

/-- FAULT entry `k` (R426): threshold and actions in its low word, window in its high word. -/
def setFault (k lo hi : Nat) (s : State) : State :=
  let keep := s.getReg (rDst 0x90)
  if lo = 0 && hi = 0 then s
  else
    match writeKind false (BitVec.ofNat 32 lo) (s.setReg (rDst 0x90) (BitVec.ofNat 32 k)) with
    | .refuse _ => bootTable 0x04 s
    | .done t =>
      match writeKind true (BitVec.ofNat 32 hi) t with
      | .refuse _ => bootTable 0x04 s
      | .done u => u.setReg (rDst 0x90) keep

def loadFaults (i : Nat) (s : State) : State :=
  match imgTable s i 4 0 with
  | none => s
  | some t =>
    if t.length = 2048 then (List.range 256).foldl (fun s k => setFault k (tabField t (8 * k) 4) (tabField t (8 * k + 4) 4) s) s
    else bootTable 0x04 s

/-- One REGDEF entry (R427). An entry that is skipped is reported. A device reset that an entry asks for ends the walk. [DEDUCED, log 29] [DEDUCED, log 89] -/
def writeDefault (a : Nat) (v : Word) (s : State) : State :=
  if s.ndy.phase = .held then s
  else if 2 ^ 28 ≤ a || a / 65536 = 10 * 256 + 20 then bootTable 0x05 s
  else
    match accessWrite .niddy a v (Config.freeBool s.free) s.bumpFree with
    | (true, t) => t
    | (false, t) => bootTable 0x05 (acceptNext t)

def writeDefaults (i : Nat) (s : State) : State :=
  match imgTable s i 5 0 with
  | none => s
  | some t =>
    let s1 := if t.length % 8 = 0 && t.length ≤ 32768 then s else bootTable 0x05 s
    (List.range (min t.length 32768 / 8)).foldl
      (fun s k => writeDefault (tabField t (8 * k) 4) (BitVec.ofNat 32 (tabField t (8 * k + 4) 4)) s) s1

/-- The built-in table of a format slot (R92). -/
def builtinSlot (j : Nat) : Option (List Word) :=
  if j = 0 then some (builtinTable decodeE4M3) else if j = 1 then some (builtinTable decodeE5M2) else none

def setSlot (j : Nat) (t : Option (List Word)) (s : State) : State :=
  { s with fmt := match t with | some l => mset s.fmt j l | none => mdel s.fmt j }

/-- Format slot `j` from the image (R91, R92). -/
def loadFormat (i j : Nat) (s : State) : State :=
  match imgTable s i 2 j with
  | none => setSlot j (builtinSlot j) s
  | some t =>
    if t.length = 1024 && slotValid (tabWords t) then setSlot j (some (tabWords t)) s
    else bootFault kFMT_TABLE j (setSlot j (builtinSlot j) s)

/-- Curve table `j` from the image (R134, R135). -/
def loadCurve (i j : Nat) (s : State) : State :=
  match imgTable s i 3 j with
  | none => { s with curves := mdel s.curves j }
  | some t =>
    if t.length = 8224 && curveValid (tabWords t) then { s with curves := mset s.curves j (tabWords t) }
    else bootFault kCURVE_TABLE j { s with curves := mdel s.curves j }

/-- Step 9. [DEDUCED, log 90] -/
def bootUnits (s : State) : State :=
  let i := s.ndy.slot
  let s1 := loadFaults i (openGates ((imgTable s i 1 0).getD []) (setNdy (fun n => { n with step := 5 }) s))
  let s2 := writeDefaults i s1
  if s2.ndy.phase = .held then s2
  else (List.range 16).foldl (fun s j => loadCurve i j s) ((List.range 8).foldl (fun s j => loadFormat i j s) s2)

/-! ## Step 10: skeins (R339, R340) -/

/-- The end of training: a skein that fails is FAILED, the others fill. -/
def trainSkein (k : Nat) (s : State) : State :=
  if (s.skein k).mode ≠ .training then s
  else match s.ndy.trainFail.find? (fun f => f.1.toNat = k) with
  | some f =>
    faultParam (srcSkn k) kSKN_TRAIN f.2.toNat (s.setSkein k { s.skein k with mode := .failed, channel := f.2 })
  | none => s.setSkein k { s.skein k with mode := .filling }

/-- Step 10: every skein begins to train. [DEDUCED, log 90] -/
def bootSkeins (s : State) : State :=
  (List.range 32).foldl (fun s k => s.setSkein k { s.skein k with mode := .training })
    (setNdy (fun n => { n with step := 6, phase := .placed, trainAt := s.wall }) s)

/-- The skeins that train end their training. -/
def endTraining (s : State) : State := (List.range 32).foldl (fun s k => trainSkein k s) s

/-- The skeins that fill hold zeros and are READY. -/
def endFilling (s : State) : State :=
  if (List.range 32).any (fun k => (s.skein k).mode = .filling) then
    zeroFill ((List.range 32).foldl (fun s k =>
      if (s.skein k).mode = .filling then s.setSkein k { s.skein k with mode := .ready } else s) s)
  else s

/-- Management ticks of training and of the fill: 12 ms and 9.7 ms (R339, Table 15-6). -/
def trainTicks : Nat := 3900000
def fillTicks : Nat := 3152500

/-- What a management tick brings of step 10. [DESIGN CHOICE, log 131] -/
def skeinTick (s : State) : State :=
  if s.ndy.phase ≠ .placed then s
  else if s.wall < s.ndy.trainAt + trainTicks then s
  else if s.wall < s.ndy.trainAt + trainTicks + fillTicks then endTraining s
  else if (List.range 32).any (fun k => (s.skein k).mode = .training || (s.skein k).mode = .filling) then endFilling (endTraining s)
  else s

/-! ## The end of step 8 -/

/-- Steps 4 to 6 of Table 14-3: spread, the switch to the root with TICK at 0, the dividers released. -/
def clocksUp (s : State) : State := { s with spread := true, onRoot := true, tick := 0, clocksOn := true, cyc := 0 }

def stableWindow (count : Nat) : Bool := 131046 ≤ count && count ≤ 131098

/-- One window of step 3 of Table 14-3, counted by the software meter (R413). The first is discarded; three passes in a row end the step, 64 windows without fail
it. [DEDUCED, log 86] [DEDUCED, log 100] -/
def judgeWindow (count : Nat) (s : State) : State :=
  let w := s.ndy.windows + 1
  let p := if s.ndy.windows = 0 then 0 else if stableWindow count then s.ndy.passes + 1 else 0
  let end_ := p = 3 || 64 ≤ w
  let s1 := { setNdy (fun n => { n with windows := w, passes := p }) s with
    fmResult := BitVec.ofNat 32 (min count 4294967295), fmDone := end_, fmRun := !end_ }
  if p = 3 then
    let s2 := bootUnits (clocksUp s1)
    if s2.ndy.phase = .held then s2 else bootSkeins s2
  else if 64 ≤ w then failBoot 0xF9 (faultParam srcNdy kCLK_DRIFT 2 s1)
  else s1

/-- CLOCK_STABILITY_WINDOW. -/
def execClockStabilityWindow (count : Nat) (s : State) : Res :=
  .next (if s.ndy.phase = .windows then judgeWindow count s else s)

/-! ## Steps 11 and 12 (R356, R400, R432, R433) -/

/-- Tables that the placement check names: base and size. -/
def placedTables (s : State) : List (Nat × Nat) :=
  [(btabBase s, 0x800000), (cwinBase s, 0x80000000), (evrBase s, 32 * 2 ^ s.dst.evrLog2.toNat), (gtabBase s, 0x4000),
   (qptBase s, 0x800000), (eptBase s, 0x40000), (rgtBase s, 0x2000)]
  ++ (List.range 4).map (fun f => (spillBase s f, dirSize * 2048))

/-- Is a table wholly in a READY skein? [DEDUCED, log 89] -/
def placedOk (s : State) (t : Nat × Nat) : Bool := inOneSkein t.1 t.2 && decide ((s.skein (sknOf t.1)).mode = .ready)

/-- Bootstrap queue pairs 2 to 5 and region 0, written and loaded (R356). [DEDUCED, log 88] -/
def bootQueuePairs (t : List Byte) (s : State) : State :=
  let s1 := storeClean srcNdy (qptBase s + 256) ((t.drop 64).take 512) s
  [2, 3, 4, 5].foldl (fun s n => qpLoad n s) (storeClean srcNdy (rgtBase s1) ((t.drop 576).take 32) s1)

/-- A port's persisted MAC address. [DEDUCED, log 93] -/
def portMac (s : State) (n : Nat) : Nat := (s.pers (rPrt n 8)).toNat % 65536 * 2 ^ 32 + (s.pers (rPrt n 4)).toNat

/-- A port enables where it has an identity and the PORT table gives it an interface (R373, R428). [DEDUCED, log 93] -/
def enablePort (n : Nat) (s : State) : State :=
  if portMac s n = 0 then faultParam (srcPrt n) kPORT_ID n s
  else s.setPrt n { s.prt n with en := s.ndy.ifaces.getD n 0 ≠ 0 }

/-- The distaff at READY (R400). -/
def startDistaff (s : State) : State :=
  let s1 := { s with dst := { s.dst with ctab := [], evrTail := 0, evrPosted := false } }.setReg (rDst 0x80) 0
  (List.range 116).foldl (fun s v => if isRetired s v then gateOff v s else s) s1

/-- A skein controller at READY (R343). -/
def startSkein (k : Nat) (s : State) : State :=
  (s.setSkein k { s.skein k with buckets := [], scrubPos := 0, leakFrom := s.tick, scrubFrom := s.tick }).clearCounters 5 k

/-- The whorl at READY (R471): levels from its first period, its counters at 0; the issue limits at 64 (R420). -/
def startWhorl (s : State) : State :=
  { s with whl := { s.whl with level := 0, plev := 0, clev := 0, dlev := 0, below := 0, energy := 0 } }
    |>.setReg (rWhl 0x14) 0 |>.setReg (rWhl 0x18) 0 |>.setReg (rClk 0xA0) 0x40404040

/-- The distaff accepts up to `n` messages that wait. [DEDUCED, log 23] -/
def acceptAll : Nat → State → State
  | 0, s => s
  | n + 1, s => if s.dst.queues.isEmpty then s else acceptAll n (acceptNext s)

/-- Messages that wait at junction 3. -/
def waitingMsgs (s : State) : Nat := (s.dst.queues.map (fun e => e.2.length)).foldl (· + ·) 0

/-- Step 12: READY. The faults that boot has raised are accepted before it (R400). [DEDUCED, log 23] [DEDUCED, log 90] -/
def reportReady (s0 : State) : State :=
  let s := acceptAll (waitingMsgs s0) s0
  let s1 := startWhorl (startDistaff ((List.range 32).foldl (fun s k => startSkein k s) s))
  sendNotice (setNdy (fun n => { n with step := 7, phase := .ready, telemAt := s.wall, dayAt := s.wall })
    { s1 with ready := true, run := BitVec.allOnes 4096, lsInit := BitVec.ofInt 8 (lsInit s1) })

/-- BOOT_READY: the end of step 10, and steps 11 and 12. [DEDUCED, log 86] -/
def bootReady (s : State) : State :=
  if !(placedTables s).all (placedOk s) then failBoot 0xF8 s
  else
    let t := (imgTable s s.ndy.slot 7 0).getD []
    reportReady ((List.range 20).foldl (fun s n => enablePort n s) (bootQueuePairs t s))

def execBootReady (s : State) : Res := .next (if s.ndy.phase = .placed then bootReady (endFilling (endTraining s)) else s)

/-- BOOT_FAIL (R434): the control and data planes stay gated. -/
def execBootFail (s : State) : Res :=
  .next (if s.ndy.phase = .failing then
      sendNotice (setNdy (fun n => { n with step := 8, phase := .failed }) { s with gate := 0, pend := 0 })
    else s)

end Sys2Proof.Machine
end

