-- ==== Sys2Proof/Machine/Mgmt.lean ====
section
/-! DEFINITION. The management port after the boot begins (R346, R433, R441 to R443): neighbour answers, the NOTICE, requests on
UDP port 47000, telemetry and the day count. -/

namespace Sys2Proof.Machine

/-! ## Neighbours and the NOTICE -/

/-- A frame arrives at the management port, with codewords that its FEC corrected (R375). -/
def mgmtFrame (fec : Nat) (s : State) : State := (rxFrames 20 1 s).count (rPrt 20 0x48) fec

/-- A frame leaves it. -/
def mgmtSend (o : Out) (s : State) : State := (txFrames 20 1 s).emit o

/-- ARP_REQUEST: ARP or neighbour solicitation for one of the port's addresses. -/
def execArpRequest (v6 : Bool) (target : BitVec 128) (mac : BitVec 48) (ip : BitVec 128) (s : State) (fec : Nat := 0) : Res :=
  .next (if !mgmtRuns s then s
    else
      let t := mgmtFrame fec s
      if ownAddress v6 target.toNat t then mgmtSend (.neighbour mac ip target (BitVec.ofNat 48 t.ndy.mac)) t else t)

/-- Management ticks that a NOTICE waits for its next hop: 1 s. -/
def noticeLimit : Nat := 325000000

/-- NEXT_HOP_ANSWER: the waiting NOTICE is sent, if the answer comes within its second; a later one finds it dropped. -/
def execNextHopAnswer (mac : BitVec 48) (s : State) (fec : Nat := 0) : Res :=
  .next (if !mgmtRuns s then s
    else
      let t := mgmtFrame fec s
      match t.ndy.notice with
      | some f =>
        let u := setNdy (fun n => { n with notice := none }) t
        if t.wall ≤ t.ndy.noticeAt + noticeLimit then mgmtSend (.notice mac t.ndy.collector t.ndy.colPort f) u else u
      | none => t)

/-- NOTICE_TIMEOUT: it is dropped and not repeated. -/
def execNoticeTimeout (s : State) : Res :=
  .next (if s.ndy.notice.isSome && s.ndy.noticeAt + noticeLimit ≤ s.wall then setNdy (fun n => { n with notice := none }) s else s)

/-! ## Frames (Table 15-9) -/

def mOp (f : List Byte) : Nat := tabField f 0 1
def mTag (f : List Byte) : Word := BitVec.ofNat 32 (tabField f 4 4)
def mAddr (f : List Byte) : Nat := tabField f 8 8
def mLen (f : List Byte) : Nat := tabField f 16 4
def mData (f : List Byte) : List Byte := f.drop 24

/-- Does a frame keep Table 15-9? A read may come with no data behind its header. [PRESUMED, log 94] -/
def mFrameOk (f : List Byte) : Bool :=
  let reads := mOp f = 1 || mOp f = 3 || mOp f = 4
  24 ≤ f.length && tabZero f 2 4 && tabZero f 20 24 && mLen f ≤ 1024
  && (f.length = 24 + mLen f || (reads && f.length = 24)) && (mOp f ≠ 5 || mLen f = 0)

inductive MStatus where
  | ok | refused | busy | errorResponse | badFrame
deriving DecidableEq, Repr

def MStatus.code : MStatus → Nat
  | .ok => 0
  | .refused => 1
  | .busy => 2
  | .errorResponse => 3
  | .badFrame => 4

/-- A response: OP and TAG of the request, its address, data. [PRESUMED, log 94] -/
def mResponse (f : List Byte) (st : MStatus) (d : List Byte) : List Byte :=
  leBytes 1 (mOp f) ++ leBytes 1 st.code ++ leBytes 2 0 ++ leBytes 4 (mTag f).toNat ++ leBytes 8 (mAddr f) ++ leBytes 4 d.length
    ++ leBytes 4 0 ++ d

/-- Status and data of an answer. -/
abbrev MAns := MStatus × List Byte

/-! ## Serving (Table 15-10) -/

/-- Words of a frame's data. -/
def mWords (d : List Byte) : List Word := (List.range (d.length / 4)).map (fun i => BitVec.ofNat 32 (leNat ((d.drop (4 * i)).take 4)))

/-- Why a register request meets an error response before its first word: outside the register space, or not whole words. -/
def mRegRefusal (f : List Byte) (s : State) : Option State :=
  let a := mAddr f
  let off := a - regBase
  if a < regBase || 0x02020E000000 ≤ a then some (raiseAccess .mgmt (srcPrt 20) kACCESS_MAP a s)
  else if a % 4 ≠ 0 || mLen f % 4 ≠ 0 then
    some (raiseAccess .mgmt (if blockExists off then src (off / 16777216) (off / 65536 % 256) else srcPrt 20) kACCESS_FORM a s)
  else none

/-- REG_READ. -/
def mRegRead (f : List Byte) (s : State) : MAns × State :=
  match mRegRefusal f s with
  | some t => ((.errorResponse, []), t)
  | none =>
    match accessReads .mgmt false (mLen f / 4) (mAddr f - regBase) s with
    | (some ws, t) => ((.ok, ws.flatMap (fun w => leBytes 4 w.toNat)), t)
    | (none, t) => ((.errorResponse, []), t)

/-- REG_WRITE: before READY, CLK[0]_DEV_RESET alone. -/
def mRegWrite (f : List Byte) (s : State) : MAns × State :=
  if s.ndy.phase ≠ .ready && s.ndy.phase ≠ .failed && !(mAddr f = regBase + rClk 0x10 && mLen f = 4) then ((.refused, []), s)
  else
    match mRegRefusal f s with
    | some t => ((.errorResponse, []), t)
    | none =>
      match accessWrites .mgmt (mAddr f - regBase) (mWords (mData f)) s with
      | (true, t) => ((.ok, []), t)
      | (false, t) => ((.errorResponse, []), t)

/-- TELEM_READ. -/
def mTelemRead (f : List Byte) (s : State) : MAns × State :=
  ((.ok, (List.range (mLen f)).map (fun i => Config.telemByte s.ndy.frame (mAddr f + i))), s)

/-- NVM_READ. -/
def mNvmRead (f : List Byte) (s : State) : MAns × State :=
  if mAddr f + mLen f ≤ nvmSize then ((.ok, nvmBytes s (mAddr f) (mLen f)), s) else ((.refused, []), s)

/-- May the management port change this NVM byte (Table 15-1)? -/
def nvmWritable (s : State) (a : Nat) : Bool :=
  if a < 0x2000000 then !(s.ndy.phase = .ready && s.ndy.slot = a / slotSize) else 0x2300000 ≤ a && a < nvmSize

/-- Erase and program run in FAILED and after READY. -/
def nvmOpen (s : State) : Bool := s.ndy.phase = .ready || s.ndy.phase = .failed

/-- A range of NVM that lies in writable areas: the areas' borders are multiples of 64 KiB. -/
def nvmRangeOk (s : State) (a n : Nat) : Bool :=
  n = 0 || (List.range ((a + n - 1) / 65536 - a / 65536 + 1)).all (fun i => nvmWritable s ((a / 65536 + i) * 65536))

/-- NVM_ERASE: one 64 KiB sector. -/
def mNvmErase (f : List Byte) (s : State) : MAns × State :=
  if nvmOpen s && mAddr f % 65536 = 0 && nvmRangeOk s (mAddr f) 65536 then ((.ok, []), nvmEraseRange (mAddr f) 65536 s)
  else ((.refused, []), s)

/-- Program bytes. What a byte holds that was not erased before, the spec does not say. [DESIGN CHOICE, log 96] -/
def nvmProgramBytes (a : Nat) : List Byte → State → State
  | [], s => s
  | b :: r, s =>
    let v := if s.nvmByte a = erased then b else Config.freeByte s.free
    nvmProgramBytes (a + 1) r { s with nvm := mput s.nvm a v erased, free := s.free + 1 }

/-- NVM_PROGRAM. -/
def mNvmProgram (f : List Byte) (s : State) : MAns × State :=
  if nvmOpen s && nvmRangeOk s (mAddr f) (mLen f) then ((.ok, []), nvmProgramBytes (mAddr f) (mData f) s) else ((.refused, []), s)

/-! ## Duties (Table 15-8) -/

/-- Copy one register into the telemetry frame, as a snapshot. A refused read leaves the earlier copy. [DESIGN CHOICE, log 95] -/
def copyTelem (i : Nat) (s : State) : State :=
  match accessRead .niddy true (s.ndy.telem.getD i 0) s with
  | (some v, t) => setNdy (fun n => { n with frame := n.frame.set i (v, t.tick) }) t
  | (none, t) => t

/-- The telemetry copy, 325,000 ticks after the last one. -/
def telemetryDuty (s : State) : State :=
  if s.ndy.phase = .ready && s.ndy.telemAt + 325000 ≤ s.wall then
    (List.range s.ndy.telem.length).foldl (fun s i => copyTelem i s) (setNdy (fun n => { n with telemAt := n.telemAt + 325000 }) s)
  else s

/-- LIFE_DAYS, 28,080,000,000 ticks after the last count. -/
def dayDuty (s : State) : State :=
  if s.ndy.phase = .ready && s.ndy.dayAt + 28080000000 ≤ s.wall then
    lifeCount (rNdy 0x308) (setNdy (fun n => { n with dayAt := n.dayAt + 28080000000 }) s)
  else s

/-- The duties that a request meets as due run before it, in table order. [DEDUCED, log 134] -/
def dueDuties (s : State) : State := dayDuty (telemetryDuty s)

def execTelemetryCopy (s : State) : Res := .next (telemetryDuty s)

/-- LIFE_DAYS_TICK: a telemetry copy that is due in the same cycle goes first. -/
def execLifeDaysTick (s : State) : Res := .next (dayDuty (if s.ndy.phase = .ready && s.ndy.dayAt + 28080000000 ≤ s.wall then telemetryDuty s else s))

/-! ## Answers -/

/-- Answer one request. A TAG answered before gets its stored response; the last 16 are kept (R443). A request that resets the
device is answered too, and the reset clears what it leaves. Duties that are due go first. [DEDUCED, log 30] -/
def serve (m : MgmtIn) (act : List Byte → State → MAns × State) (s0 : State) : State :=
  if !mgmtRuns s0 then s0
  else
    let s := mgmtFrame m.fec (dueDuties s0)
    let f := m.frame
    match s.ndy.tags.find? (fun e => e.1 = mTag f) with
    | some e => mgmtSend (.mgmt m.mac m.ip e.2) s
    | none =>
      let (ans, t) := if mFrameOk f then act f s else ((.badFrame, []), s)
      let r := mResponse f ans.1 ans.2
      if !mgmtRuns t then t.emit (.mgmt m.mac m.ip r)
      else
        mgmtSend (.mgmt m.mac m.ip r) (setNdy (fun n => { n with tags := (n.tags ++ [(mTag f, r)]).drop (n.tags.length + 1 - 16) }) t)

/-- A request whose OP is no row of Table 15-10, or NOTICE, which only the device sends. -/
def mOther (f : List Byte) (s : State) : MAns × State := if mOp f = 1 then mRegRead f s else ((.refused, []), s)

def execRegRead (m : MgmtIn) (s : State) : Res := guarded (.regRead m) (serve m mOther s)
def execRegWrite (m : MgmtIn) (s : State) : Res := guarded (.regWrite m) (serve m mRegWrite s)
def execTelemRead (m : MgmtIn) (s : State) : Res := guarded (.telemRead m) (serve m mTelemRead s)
def execNvmRead (m : MgmtIn) (s : State) : Res := guarded (.nvmRead m) (serve m mNvmRead s)
def execNvmErase (m : MgmtIn) (s : State) : Res := guarded (.nvmErase m) (serve m mNvmErase s)
def execNvmProgram (m : MgmtIn) (s : State) : Res := guarded (.nvmProgram m) (serve m mNvmProgram s)

end Sys2Proof.Machine
end

