-- ==== Sys2Proof/Machine/Attest.lean ====
section
/-! DEFINITION. Attestation (R444 to R447): SPDM requests on UDP port 47001 and the measurement blocks. -/

namespace Sys2Proof.Machine

/-- Answer an SPDM request, where the niddy runs: to the source of the request (R346). Duties that are due go first (R441).
[PRESUMED, log 97] -/
def spdm (r : Asker) (f : State → Spdm × State) (s : State) : Res :=
  .next (if mgmtRuns s then (let (a, t) := f (mgmtFrame r.fec (dueDuties s)); mgmtSend (.spdm r.mac r.ip a) t) else s)

/-- Bytes of a value that the spec leaves open. -/
def openBytes (n : Nat) (s : State) : List Byte := (List.range n).map (fun i => Config.freeByte (s.free + i))

def useFree (n : Nat) (s : State) : State := { s with free := s.free + n }

/-- GET_VERSION starts a connection. -/
def execGetVersion (s : State) (r : Asker := {}) : Res :=
  spdm r (fun s => (.version 0x12, setNdy (fun n => { n with transcript := none, large := none }) s)) s

/-- Bytes of one message on the wire, and of the largest response. -/
def transferSize : Nat := 1024
def messageSize : Nat := 32768

def execGetCapabilities (s : State) (r : Asker := {}) : Res := spdm r (fun s => (.capabilities transferSize messageSize, s)) s

def execNegotiateAlgorithms (s : State) (r : Asker := {}) : Res := spdm r (fun s => (.algorithms .rsapss3072 .sha384 .sha384, s)) s

/-! ## Certificates (R447, Table 15-1) -/

/-- The certificate chain of slot 0: it begins with its length in two bytes. [PRESUMED, log 97] -/
def certChain (s : State) : List Byte := nvmBytes s 0x2200000 (leNat (nvmBytes s 0x2200000 2))

def execGetDigests (s : State) (r : Asker := {}) : Res := spdm r (fun s => (.digests (sha384 (certChain s)), s)) s

/-- Largest portion of a chain that one message carries beside its header of 8 bytes. [PRESUMED, log 97] -/
def portionSize : Nat := transferSize - 8

def certificate (slot offset len : Nat) (s : State) : Spdm :=
  let chain := certChain s
  if slot ≠ 0 then .unsupported
  else if chain.length < offset then .invalid
  else
    let p := (chain.drop offset).take (min len portionSize)
    .certificate p (chain.length - offset - p.length)

def execGetCertificate (slot : BitVec 8) (offset len : BitVec 16) (s : State) (r : Asker := {}) : Res :=
  spdm r (fun s => (certificate slot.toNat offset.toNat len.toNat s, s)) s

/-! ## Signed answers -/

/-- CHALLENGE for slot 0. The bytes that SPDM signs, and the responder's nonce, are not in the spec. [DESIGN CHOICE, log 98] -/
def challenge (slot : Nat) (nonce : List Byte) (s : State) : Spdm × State :=
  if slot ≠ 0 then (.unsupported, s)
  else
    let own := openBytes 32 s
    let signed := nonce ++ openBytes 80 s
    (.challengeAuth (sha384 (certChain s)) own (Config.deviceSign signed), useFree 80 s)

def execChallenge (slot : BitVec 8) (nonce : List Byte) (s : State) (r : Asker := {}) : Res :=
  if (Instr.challenge slot nonce r).wf then spdm r (challenge slot.toNat nonce) s else .fault .malformed

/-! ## Measurements (Table 15-11) -/

/-- In FAILED the blocks of the image report zeros. -/
def orZeros (s : State) (l : List Byte) : List Byte := if s.ndy.phase = .failed then List.replicate l.length 0 else l

def stateBlock (s : State) : List Byte :=
  leBytes 4 s.ndy.seq.toNat ++ leBytes 4 (s.pers (rNdy 0xC)).toNat ++ leBytes 1 s.ndy.slot ++ leBytes 1 s.ndy.keyslot
    ++ leBytes 1 (s.fuses.prog.toNat + 16 * s.fuses.revoked.toNat) ++ leBytes 5 0

def digestBlock (s : State) : List Byte :=
  (List.range 8).flatMap (fun i => leBytes 8 (fmtDigest s i)) ++ (List.range 16).flatMap (fun i => leBytes 8 (curveDigest s i))

/-- Offsets of the persistent registers and lifetime counters, rising. -/
def persOffsets : List Nat :=
  (List.range 32).flatMap (fun k => (List.range 16).map (fun i => rSkn k (0x200 + 4 * i)) ++ [rSkn k 0x240, rSkn k 0x244])
  ++ (List.range 8).map (fun i => rDst (0xA0 + 4 * i)) ++ [rClk 0xB0, rNdy 0xC, rNdy 0x300, rNdy 0x304, rNdy 0x308]
  ++ (List.range 21).flatMap (fun n => (List.range 7).map (fun i => rPrt n (4 + 4 * i)))

def persBlock (s : State) : List Byte := sha384 (persOffsets.flatMap (fun a => leBytes 4 (s.pers a).toNat))

def identBlock (s : State) : List Byte :=
  leBytes 4 ident.toNat ++ leBytes 8 s.fuses.serial.toNat ++ leBytes 4 (bootState s).toNat ++ leBytes 4 s.cause.toNat

/-- Measurement block `i`: index, raw form, value. -/
def measureBlock (i : Nat) (s : State) : Nat × Bool × List Byte :=
  match i with
  | 1 => (1, false, Config.bootTableDigest)
  | 2 => (2, false, orZeros s ((List.range 12).flatMap (fun w => leBytes 4 (digestWord s.ndy.digest w).toNat)))
  | 3 => (3, true, orZeros s (stateBlock s))
  | 4 => (4, true, orZeros s (digestBlock s))
  | 5 => (5, false, persBlock s)
  | _ => (6, true, identBlock s)

/-- GET_MEASUREMENTS: index 0 asks how many there are, 0xFF for all. A signed response leaves the hash of its transcript. [DESIGN CHOICE, log 98] -/
def measurements (i : Nat) (sign : Bool) (nonce : List Byte) (s : State) : Spdm × State :=
  let which := if i = 0 then [] else if i = 255 then [1, 2, 3, 4, 5, 6] else [i]
  if 6 < i && i ≠ 255 then (.invalid, s)
  else
    let blocks := which.map (fun j => measureBlock j s)
    let own := openBytes 32 s
    if sign then
      let hash := openBytes 48 (useFree 32 s)
      (.measurements 6 blocks own (Config.deviceSign (nonce ++ hash)),
       setNdy (fun n => { n with transcript := some hash }) (useFree 80 s))
    else (.measurements 6 blocks own [], useFree 32 s)

def execGetMeasurements (index : BitVec 8) (signed_ : Bool) (nonce : List Byte) (s : State) (r : Asker := {}) : Res :=
  if (Instr.getMeasurements index signed_ nonce r).wf then spdm r (measurements index.toNat signed_ nonce) s else .fault .malformed

/-! ## Large responses -/

/-- CHUNK_GET. -/
def chunkOf (handle : Byte) (c : Nat) (s : State) : Spdm × State :=
  match s.ndy.large with
  | none => (.unexpected, s)
  | some g =>
    let n := ceilDiv g.bytes.length transferSize
    if g.handle ≠ handle || n ≤ c then (.invalid, s)
    else
      let last := c + 1 = n
      (.chunk handle c last ((g.bytes.drop (c * transferSize)).take transferSize),
       if last then setNdy (fun n => { n with large := none }) s else s)

def execChunkGet (handle : Byte) (chunk : BitVec 16) (s : State) (r : Asker := {}) : Res := spdm r (chunkOf handle chunk.toNat) s

/-- StandardID of IANA in the SPDM registry. -/
def idIana : BitVec 16 := 4

/-- VENDOR_DEFINED_REQUEST (R446): the transcript hash and the SLH-DSA signature over it, in chunks. -/
def vendorRequest (standard : BitVec 16) (vid : Word) (payload : List Byte) (s : State) : Spdm × State :=
  if standard ≠ idIana || vid ≠ s.fuses.vid || payload ≠ [1] then (.unsupported, s)
  else
    match s.ndy.transcript with
    | none => (.unexpected, s)
    | some h =>
      let handle := Config.freeByte s.free
      (.largeResponse handle, setNdy (fun n => { n with large := some { handle := handle, bytes := h ++ Config.slhSign h } }) (useFree 1 s))

def execVendorDefinedRequest (standard : BitVec 16) (vid : Word) (payload : List Byte) (s : State) (r : Asker := {}) : Res :=
  spdm r (vendorRequest standard vid payload) s

/-- SPDM_UNSUPPORTED_REQUEST: sessions, key exchange, mutual authentication, other certificate slots. -/
def execSpdmUnsupportedRequest (_code : Byte) (s : State) (r : Asker := {}) : Res := spdm r (fun s => (.unsupported, s)) s

end Sys2Proof.Machine
end

