-- ==== Sys2Proof/Machine/Dex.lean ====
section
/-! DEFINITION. Dexornian messages that arrive (R309, R366 to R372): the SEND front end, header layouts, and what each type
does. -/

namespace Sys2Proof.Machine

/-! ## Layout (Table 12-6, Table 12-7) -/

def tFETCH_NOTE : Nat := 0x20
def tWB_NOTE : Nat := 0x21
def tBARRIER : Nat := 0x30
def tREPLAY_HOLD : Nat := 0x40
def tECHO_REQ : Nat := 0x50
def tECHO_RSP : Nat := 0x51

def msgType (l : List Byte) : Nat := (l.getD 0 0).toNat

/-- Is this one of the reduction types, used or not (R317)? -/
def reductionType (t : Nat) : Bool := 0x10 ≤ t && t ≤ 0x1F

/-- Bytes `lo` to `hi` of a message are zero. -/
def zeroBytes (l : List Byte) (lo hi : Nat) : Bool := ((l.drop lo).take (hi + 1 - lo)).all (· = 0)

/-- A field of `n` bytes at byte `o`. -/
def dexField (l : List Byte) (o n : Nat) : Nat := leNat ((l.drop o).take n)

/-- A header of Table 12-7 keeps its layout: no payload, unused and reserved fields zero (R368). -/
def dexHeaderOk (l : List Byte) : Bool :=
  let t := msgType l
  l.length = 64 && zeroBytes l 1 1 && zeroBytes l 44 63 &&
  (if t = tFETCH_NOTE || t = tWB_NOTE then
      dexField l 2 2 < 4096 && zeroBytes l 4 11 && dexField l 16 4 < 2 ^ 20 && zeroBytes l 20 23
    else if t = tBARRIER then zeroBytes l 2 3 && zeroBytes l 10 11 && zeroBytes l 18 43
    else if t = tREPLAY_HOLD then dexField l 2 2 < 4096 && zeroBytes l 10 11 && zeroBytes l 16 19 && zeroBytes l 22 43
    else if t = tECHO_REQ || t = tECHO_RSP then zeroBytes l 1 15 && zeroBytes l 24 43
    else false)

/-- A message of a used type whose header keeps its layout (R366, R367). -/
def messageOk (l : List Byte) : Bool :=
  64 ≤ l.length && l.length ≤ 16384 && (if reductionType (msgType l) then rmsgOk l else dexHeaderOk l)

/-! ## Answers -/

/-- A stray message of a type other than the reduction types: counted and reported (R367). [DEDUCED, log 76] -/
def dexStray (p : Nat) (l : List Byte) (s : State) : State :=
  faultParam (srcPrt p) kDEX_STRAY (p + msgType l * 32) (s.count (rPrt p 0x6C) 1)

/-- One packet answers on a queue pair, in its class. -/
def answer (n : Nat) (o : Pkt) (s : State) : State := answerOn n (s.qp n).cls 1 o s

/-- The queue pair's next expected PSN advances by the packets of a message. -/
def expectPsn (n k : Nat) (s : State) : State :=
  let q := s.qp n
  s.setQp n { q with rqPsn := (q.rqPsn + k) % 2 ^ 24 }

/-! ## What each type does -/

/-- A BARRIER of the group that its TAG names. The flag: not a stray. -/
def barrierFor (l : List Byte) (g : Option (Nat × Grp)) (s : State) : State × Bool :=
  match g with
  | some (_, e) => if dexField l 8 2 < e.size then (s.incBarrier (dexField l 16 2), true) else (s, false)
  | none => (s, false)

/-- BARRIER: one more in COUNTER where the TAG names a group and SRC is a member (R370). The flag: accepted. -/
def barrierIn (l : List Byte) (s : State) : State × Bool :=
  barrierFor l (groupByTag s (BitVec.ofNat 32 (dexField l 4 4))) s

/-- A REPLAY_HOLD of the group that its TAG names. The flag: not a stray. -/
def replayHoldFor (l : List Byte) (g : Option (Nat × Grp)) (s : State) : State × Bool :=
  match g with
  | some (_, e) =>
    if inReplay s e.ctx 2 then
      (holdCtx e.ctx 3 (faultParam srcBob kREPLAY_PEER (e.ctx + dexField l 8 2 * 4096) s), true)
    else (s, false)
  | none => (s, false)

/-- REPLAY_HOLD: the context of the group is held where it is in GROUP replay (R371). -/
def replayHoldIn (l : List Byte) (s : State) : State × Bool :=
  replayHoldFor l (groupByTag s (BitVec.ofNat 32 (dexField l 4 4))) s

/-- ECHO_RSP with the cookie of a request. -/
def echoRspMsg (l : List Byte) : List Byte := header64 [(0, tECHO_RSP), (16, dexField l 16 8)]

/-- ECHO_REQ is answered on its queue pair, or to its source on UD (R372). -/
def echoAnswer (m : SendIn) (s : State) : State :=
  let q := s.qp m.qpn.toNat
  if q.ud then answer m.qpn.toNat (.udSend m.qpn m.udSource (echoRspMsg m.bytes)) s
  else postOp m.qpn.toNat (.send (echoRspMsg m.bytes) none) s

/-- Count the message as a stray where its receiver turns it away. -/
def orStray (p : Nat) (l : List Byte) (r : State × Bool) : State × PlyAns :=
  if r.2 then (r.1, .ack) else (dexStray p l r.1, .stray)

/-- The owner of the type takes a message that keeps its layout. -/
def handOver (m : SendIn) (s : State) : State × PlyAns :=
  let l := m.bytes
  let p := (s.qp m.qpn.toNat).port
  let t := msgType l
  if reductionType t then plyDeliver p l s
  else if t = tFETCH_NOTE || t = tWB_NOTE then (s.count (rPrt p 0x70) 1, .ack)
  else if t = tBARRIER then orStray p l (barrierIn l s)
  else if t = tREPLAY_HOLD then orStray p l (replayHoldIn l s)
  else if t = tECHO_REQ then (echoAnswer m s, .ack)
  else (s.count (rPrt p 0x74) 1, .ack)

/-- A message that breaks its layout or is of an unused type. [DEDUCED, log 76] -/
def brokenIn (p : Nat) (l : List Byte) (s : State) : State :=
  if reductionType (msgType l) then (plyDeliver p l (s.count (rPrt p 0x6C) 1)).1 else dexStray p l s

/-- A SEND on an RC queue pair: taken in order, acknowledged once its unit has acted, RNR-NAKed while it cannot (R366). -/
def sendRc (m : SendIn) (k : Nat) (s : State) : State :=
  let n := m.qpn.toNat
  let q := s.qp n
  if !q.dex then answer n (.nakInvalid m.qpn) s
  else
    let (s1, a) := if messageOk m.bytes then handOver m s else (brokenIn q.port m.bytes s, .stray)
    if a = .rnr then answer n (.rnrNak m.qpn) s1 else answer n (.rdmaAck m.qpn) (expectPsn n k s1)

/-- A SEND on a UD queue pair: its Q_Key must match; ECHO is handled and anything else is stray. [DEDUCED, log 76] -/
def sendUd (m : SendIn) (s : State) : State :=
  let q := s.qp m.qpn.toNat
  let t := msgType m.bytes
  if m.qkey ≠ q.qkey then s
  else if (t = tECHO_REQ || t = tECHO_RSP) && messageOk m.bytes then (handOver m s).1
  else dexStray q.port m.bytes s

/-- The message as port `p` hands it on: a parity error in the port's buffer poisons a reduction message, by its POISON flag (R330,
R363). [DEDUCED, log 125] -/
def struckMsg (p : Nat) (m : SendIn) : SendIn :=
  if reductionType (msgType m.bytes) && m.hits.any (fun h => h.src = srcPrt p) then
    { m with bytes := m.bytes.set 1 (m.bytes.getD 1 0 ||| 1) }
  else m

/-- A SEND arrives on a queue pair in RTS whose port passes frames. -/
def arriveSend (m : SendIn) (s : State) : State :=
  let n := m.qpn.toNat
  let q := s.qp n
  if q.state = 3 && portUp s q.port then
    let k := packetsOf q m.bytes.length
    match ingressFrom n k (if q.ud then m.udSource else q.destQpn) m.ing s with
    | (s1, false) => s1
    | (s1, true) =>
      let s2 := strikeAccs m.hits (noteEvents perrReg m.hits s1)
      if q.ud then sendUd (struckMsg q.port m) s2 else sendRc (struckMsg q.port m) k s2
  else s

/-! ## The rows -/

def execReduce (m : SendIn) (s : State) : Res := guarded (.reduce m) (arriveSend m s)
def execPrescaleUp (m : SendIn) (s : State) : Res := guarded (.prescaleUp m) (arriveSend m s)
def execPrescaleDown (m : SendIn) (s : State) : Res := guarded (.prescaleDown m) (arriveSend m s)
def execSum (m : SendIn) (s : State) : Res := guarded (.sum m) (arriveSend m s)
def execGather (m : SendIn) (s : State) : Res := guarded (.gather m) (arriveSend m s)
def execVerdictUp (m : SendIn) (s : State) : Res := guarded (.verdictUp m) (arriveSend m s)
def execVerdictDown (m : SendIn) (s : State) : Res := guarded (.verdictDown m) (arriveSend m s)
def execBarrier (m : SendIn) (s : State) : Res := guarded (.barrier m) (arriveSend m s)
def execFetchNote (m : SendIn) (s : State) : Res := guarded (.fetchNote m) (arriveSend m s)
def execWbNote (m : SendIn) (s : State) : Res := guarded (.wbNote m) (arriveSend m s)
def execReplayHold (m : SendIn) (s : State) : Res := guarded (.replayHold m) (arriveSend m s)
def execEchoReq (m : SendIn) (s : State) : Res := guarded (.echoReq m) (arriveSend m s)
def execEchoRsp (m : SendIn) (s : State) : Res := guarded (.echoRsp m) (arriveSend m s)
def execStrayMessage (m : SendIn) (s : State) : Res := guarded (.strayMessage m) (arriveSend m s)

end Sys2Proof.Machine
end

