-- ==== Sys2Proof/Machine/Experts.lean ====
section
/-! DEFINITION. Expert selection, fan-out cap, dispatch, assignment, combine and prefetch (R207 to R231). -/

namespace Sys2Proof.Machine

/-! ## EXP_SELECT (R207 to R211, R222) -/

/-- A candidate: key, token, score. -/
structure Cand where
  key : Nat
  tok : Nat
  score : Word
deriving DecidableEq, Repr

/-- The order-keeping key of a score, −0 taken as +0 (R207). -/
def scoreKey (w : Word) : Nat :=
  let u := if (val32 w).isZero then 0 else w.toNat
  if u < 2 ^ 31 then u + 2 ^ 31 else 2 ^ 32 - 1 - u

/-- Ranks higher: by key, then the lower token (R208). -/
def Cand.before (a b : Cand) : Bool := b.key < a.key || (a.key = b.key && a.tok < b.tok)

/-- Insert into a list ranked best first. -/
def insertBy {α : Type} (before : α → α → Bool) (x : α) : List α → List α
  | [] => [x]
  | y :: r => if before x y then x :: y :: r else y :: insertBy before x r

/-- Order a list by `before`; equal ones keep their order. -/
def orderBy {α : Type} (before : α → α → Bool) (l : List α) : List α := l.reverse.foldl (fun acc x => insertBy before x acc) []

/-- The selection of an expert in ascending token order (R208). -/
def selectTop (c : Nat) (cs : List Cand) : List Cand :=
  if cs.length ≤ c then cs
  else orderBy (fun a b => a.tok < b.tok) ((orderBy Cand.before cs).take c)

/-- The bin of a histogram over one digit that holds the boundary: entries in it, and how many of it are still needed. -/
def boundaryBin (keys : List Nat) (need shift mask : Nat) : List Nat × Nat :=
  let dig (x : Nat) : Nat := x / 2 ^ shift % mask
  -- from the key of rank `need`, the bin that holds it
  let sorted := orderBy (fun a b : Nat => b < a) keys
  let b := dig (sorted.getD (need - 1) 0)
  let above := (keys.filter (fun x => b < dig x)).length
  (keys.filter (fun x => dig x = b), need - above)

/-- Refinement passes of R209 for an expert with more candidates than C. -/
def refinePasses (c : Nat) (keys : List Nat) : Nat :=
  let (g1, n1) := boundaryBin keys c 20 4096
  if g1.length ≤ 8192 then 0
  else
    let (g2, _) := boundaryBin g1 n1 8 4096
    if g2.length ≤ 8192 then 1 else 2

/-- What the walk over the experts of a partition has come to. -/
structure SelAcc where
  s : State
  e : Eff
  /-- Sub-list records: range and bytes. -/
  subs : List (Nat × List MByte) := []
  route : List (Nat × Bool) := []
  nan : Nat := 0
  refine : Nat := 0
  fetched : Nat := 0

/-- Bytes to store at consecutive addresses. -/
def bytesAt (a : Nat) (l : List MByte) : List (Nat × MByte) := l.zipIdx.map (fun b => (a + b.2, b.1))

/-- Add what a lookup came to. -/
def Eff.looked (e : Eff) (l : Looked) : Eff :=
  let e1 := { e with faults := e.faults ++ l.flt.toList }
  match l.poison with | some a => e1.consume a | none => e1

/-- Expert `i` of partition `p`. -/
def selectOne (s0 : State) (k : Nat) (look : Bool) (r : Route) (d : Desc) (ctx : Nat) (step : Word) (p i : Nat)
    (a : SelAcc) : SelAcc :=
  let rs := (List.range r.t).map (fun t => readElem s0 d [t, i])
  let row := rs.zipIdx
  let pois := rs.any (·.poison)
  let cands := (row.filter (fun e => !e.1.val.isNan && (!r.floorEn || (val32 r.floor).le e.1.val))).map
    (fun e => let w := round32 e.1.val; { key := scoreKey w, tok := e.2, score := w : Cand })
  let sel := selectTop r.c cands
  let lexp := p * r.epp + i
  let gid := r.eBase + lexp
  let n := sel.length
  let (s1, lk) := if look && 0 < n then lookup k (r.cacheRef p) ctx step true gid a.s else (a.s, {})
  let flags := b2n lk.noslot + 2 * b2n (look && 0 < n)
  let head := mark pois (leBytes 4 n) ++ mark false (leBytes 4 flags ++ leBytes 4 gid ++ leBytes 4 0)
  let recs := sel.flatMap (fun c => mark pois (leBytes 4 c.tok ++ leBytes 4 c.score.toNat ++ leBytes 4 0xFFFFFFFF ++ leBytes 4 0))
  let e1 := (a.e.reads d rs).looked lk
  let e2 := if pois then e1.consumeReads rs else e1
  { s := s1
    e := { e2 with writes := e2.writes ++ bytesAt (r.list_ p i) (head ++ recs) }
    subs := a.subs ++ sel.zipIdx.map (fun c => (c.1.tok / r.tpr,
      mark pois (leBytes 4 c.1.tok ++ leBytes 4 lexp ++ leBytes 4 c.2 ++ leBytes 4 c.1.score.toNat)))
    route := a.route ++ sel.map (fun c => (2 * 2 ^ 62 + gid * 2 ^ 32 + c.tok, pois))
    nan := a.nan + (rs.filter (fun x => x.val.isNan)).length
    refine := a.refine + (if r.c < cands.length then refinePasses r.c (cands.map (·.key)) else 0)
    fetched := a.fetched + b2n lk.started }

/-- The sub-lists of partition `p` (R210). -/
def subWrites (r : Route) (p : Nat) (subs : List (Nat × List MByte)) : List (Nat × MByte) :=
  (List.range r.nrange).flatMap (fun q =>
    let l := subs.filter (fun x => x.1 = q)
    bytesAt (r.sub p q + 32) (l.flatMap (·.2)) ++ bytesAt (r.sub p q) (mark false (leBytes 32 l.length)))

/-- Attach route records to a command's report (R289). -/
def setRoute (id : Nat) (rs : List (Nat × Bool)) (s : State) : State :=
  { s with reports := s.reports.map (fun r => if r.is.id = id then { r with route := rs } else r) }

/-- The experts of an EXP_SELECT's partition, one after another (R207 to R211). -/
def selectAll (i : Issued) (o : ExpOpds) (s : State) : SelAcc :=
  let c := i.cmd
  let p := expNo c
  let step := (s.ctx (cCtx c)).step
  (List.range (o.r.experts p)).foldl (fun a j => selectOne s (cTarget c) (expBit5 c) o.r o.d0 (cCtx c) step p j a)
    { s := s, e := { secs := o.sectors }, route := [(2 ^ 62 + p * 2 ^ 48 + o.r.addr, false)] }

/-- What an EXP_SELECT comes to (R208, R210, R211). An infinite score is widened and ranked as an ordinary value (R207), and is no
value fed to a conversion (R89): only a NaN gives OVERFLOW. [DESIGN CHOICE, log 118] [DEDUCED, log 67] -/
def selectEff (i : Issued) (o : ExpOpds) (s : State) : Eff :=
  let a := selectAll i o s
  { a.e with writes := a.e.writes ++ subWrites o.r (expNo i.cmd) a.subs, nonFin := a.e.nonFin || decide (0 < a.nan),
             aux := BitVec.ofNat 32 a.fetched }

/-- The lookups and counters of EXP_SELECT. -/
def selectCounted (i : Issued) (o : ExpOpds) (s : State) : State :=
  let k := cTarget i.cmd
  let a := selectAll i o s
  useSram k anyArea ((a.s.count (rCrd k 0x128) a.refine).count (rCrd k 0x12C) a.nan)

def selectRun (i : Issued) (o : ExpOpds) (s : State) : State :=
  let rs := (selectAll i o s).route
  replayRoutes (cCtx i.cmd) i.addr.toNat (rs.map (·.1))
    (setRoute i.id rs (finishCmd (16 + cTarget i.cmd) i (selectEff i o s) (selectCounted i o s)))

/-! ## EXP_FANOUT (R213 to R215) -/

/-- One pick of a token as its sub-list record gives it. -/
structure Pick where
  tok : Nat
  lexp : Nat
  slot : Nat
  score : Word
  poison : Bool
deriving DecidableEq, Repr

/-- The records of a range's sub-lists in merge order, with the sectors read. A COUNT above XCAP is taken at XCAP. -/
def rangePicks (s : State) (r : Route) (q : Nat) : List Pick × List Nat :=
  (List.range r.npart).foldl (fun acc p =>
    let a := r.sub p q
    let n := min (rdNat s a 4) r.xcap
    let hp := rdPoison s a 4
    let ps := (List.range n).map (fun j =>
      let b := a + 32 + 16 * j
      let x := rdNat s b 16
      { tok := bits x 0 32, lexp := bits x 32 32, slot := bits x 64 32, score := BitVec.ofNat 32 (bits x 96 32)
        poison := hp || rdPoison s b 16 : Pick })
    (acc.1 ++ ps, acc.2 ++ sectorsOf a 32 ++ sectorsOf (a + 32) (16 * n))) ([], [])

/-- Places of the picks that the cap keeps (R214): the lowest score is dropped first, then the higher expert. -/
def keptPicks (cap : Nat) (l : List Pick) : List Nat :=
  if cap = 0 || l.length ≤ cap then List.range l.length
  else ((orderBy (fun (a b : Pick × Nat) => scoreKey b.1.score < scoreKey a.1.score
      || (scoreKey a.1.score = scoreKey b.1.score && a.1.lexp < b.1.lexp)) l.zipIdx).take cap).map (·.2)

/-- One token: its pick records, its pick index, the marks in the route lists (R215). -/
def fanoutToken (s : State) (r : Route) (q t : Nat) (l : List Pick) (acc : Nat × Nat × Eff) : Nat × Nat × Eff :=
  let (next, unrouted, e) := acc
  let pois := l.any (·.poison)
  let kept := keptPicks r.cap l
  let keep := (l.zipIdx.filter (fun x => kept.contains x.2)).map (·.1)
  let drop := (l.zipIdx.filter (fun x => !kept.contains x.2)).map (·.1)
  let recs := keep.flatMap (fun p =>
    mark pois (leBytes 4 p.lexp ++ leBytes 4 p.slot ++ leBytes 4 p.score.toNat ++ leBytes 4 0))
  let idx := mark pois (leBytes 4 next ++ leBytes 4 keep.length)
  let place (p : Pick) : Nat := r.listOf p.lexp + 16 + 16 * p.slot
  let prefs := (keep.zipIdx.filter (fun x => x.1.lexp < r.eCount)).flatMap (fun x =>
    bytesAt (place x.1 + 8) (mark false (leBytes 4 (q * 2 ^ 27 + next + x.2))))
  let drops := (drop.filter (fun p => p.lexp < r.eCount)).map (fun p =>
    let b := rdByte s (place p + 3)
    (place p + 3, { val := b.val ||| 0x80, poison := b.poison : MByte }))
  let e1 := { e with
    writes := e.writes ++ bytesAt (r.precs q + 16 * next) recs ++ bytesAt (r.pick q t) idx ++ prefs ++ drops
    secs := e.secs ++ (drop.filter (fun p => p.lexp < r.eCount)).flatMap (fun p => [(place p + 3) / 32]) }
  let e2 := if pois then e1.consume (r.pick q t) else e1
  (next + keep.length, unrouted + b2n keep.isEmpty, e2)

/-- What an EXP_FANOUT comes to (R213 to R215). -/
def fanoutEff (i : Issued) (o : ExpOpds) (s : State) : Eff :=
  let r := o.r
  let q := expNo i.cmd
  let (picks, secs) := rangePicks s r q
  let toks := (List.range (r.tok1 q - r.tok0 q)).map (r.tok0 q + ·)
  let (_, unrouted, e) := toks.foldl (fun acc t => fanoutToken s r q t (picks.filter (fun p => p.tok = t)) acc)
    (0, 0, ({ secs := o.sectors ++ secs } : Eff))
  { e with aux := BitVec.ofNat 32 unrouted }

def fanoutRun (i : Issued) (o : ExpOpds) (s : State) : State :=
  finishCmd (16 + cTarget i.cmd) i (fanoutEff i o s) (useSram (cTarget i.cmd) anyArea s)

/-! ## EXP_DISPATCH (R216) -/

/-- A record of a route list as dispatch reads it. -/
structure RouteRec where
  tok : Nat
  dropped : Bool
  pref : Nat
  poison : Bool
  addr : Nat
deriving DecidableEq, Repr

def readRouteRec (s : State) (a : Nat) : RouteRec :=
  let x := rdNat s a 16
  { tok := bits x 0 31, dropped := nbit x 31, pref := bits x 64 32, poison := rdPoison s a 16, addr := a }

/-- All poisoned. -/
def poisonAll (b : Bool) (x : Encoded) : Encoded := { x with bits := x.bits.map (fun w => { w with poison := w.poison || b }) }

/-- A token row copied without conversion into row (slot, i). -/
def copyRow (s : State) (a d : Desc) (tok : Nat) (cs : List Nat) (bad : Bool) (e : Eff) : Eff :=
  (List.range (d.extent 0)).foldl (fun e f =>
    let r := readCode s a [f, tok]
    let e1 := ((e.reads a [r]).encoded s d (poisonAll bad (storeCode s d (f :: cs) r.code r.poison))).consumeReads [r]
    if a.ply ≠ 0 && f % plyLen a.ply = 0 then
      let q := readScaleElem s a [f, tok]
      (({ e1 with secs := e1.secs ++ q.secs }).encoded s d
        (poisonAll bad (storeScale s d (f :: cs) q.code q.poison))).consumeReads [q]
    else e1) e

/-- Row (slot, i) of the expert input buffer. -/
def dispatchRow (s : State) (r : Route) (a d : Desc) (mode1 noslot hp : Bool) (slot i : Nat) (x : RouteRec) (e : Eff) : Eff :=
  let bad := hp || x.poison || noslot
  let e0 := if x.poison then e.consume x.addr else e
  let e1 := { e0 with marked := e0.marked || noslot }
  let cs := [slot, i]
  let none_ := x.dropped || (mode1 && x.pref = 0xFFFFFFFF)
  if none_ then
    e1.encoded s d (encodeRow s d 0 cs ((List.range (d.extent 0)).map (fun _ => (Val.zero, bad))))
  else if mode1 then
    let pa := r.precs (x.pref / 2 ^ 27) + 16 * (x.pref % 2 ^ 27) + 8
    let w := val32 (BitVec.ofNat 32 (rdNat s pa 4))
    let wp := rdPoison s pa 4
    let rs := readRow s a 0 (d.extent 0) [x.tok]
    let e2 := ({ e1 with secs := e1.secs ++ sectorsOf pa 4 }).reads a rs
    let e3 := (if wp then e2.consume pa else e2).consumeReads rs
    e3.encoded s d (encodeRow s d 0 cs (rs.map (fun y => (val32 (round32 (w.mul y.val)), bad || wp || y.poison))))
  else copyRow s a d x.tok cs bad e1

/-- Rows that the line buffer serves (R183): equal consecutive tokens of one expert, none out of bounds or poisoned. -/
def dispatchCoalesced (a : Desc) (mode1 : Bool) (l : List RouteRec) : Nat :=
  let live (x : RouteRec) : Bool := !x.poison && !x.dropped && !(mode1 && x.pref = 0xFFFFFFFF) && x.tok < a.sz 1
  if 65536 < a.rowSpan then 0
  else ((List.zip l (l.drop 1)).filter (fun p => live p.1 && live p.2 && p.1.tok = p.2.tok)).length

/-- What an EXP_DISPATCH comes to, and the rows its line buffer serves (R216, R183). [DEDUCED, log 67] -/
def dispatchEff (i : Issued) (o : ExpOpds) (s : State) : Eff × Nat :=
  let p := expNo i.cmd
  let r := o.r
  let d := o.d1.getD {}
  let m1 := expBit5 i.cmd
  (List.range (r.experts p)).foldl (fun (acc : Eff × Nat) j =>
    let h := r.list_ p j
    let n := min (rdNat s h 4) r.c
    let hp := rdPoison s h 8
    let noslot := nbit (rdNat s (h + 4) 4) 0
    let recs := (List.range n).map (fun q => readRouteRec s (h + 16 + 16 * q))
    let e0 := { acc.1 with secs := acc.1.secs ++ sectorsOf h (16 + 16 * n) }
    let e1 := if hp && 0 < n then e0.consume h else e0
    (recs.zipIdx.foldl (fun e x => dispatchRow s r o.d0 d m1 noslot hp x.2 j x.1 e) e1,
     acc.2 + dispatchCoalesced o.d0 m1 recs)) (({ secs := o.sectors } : Eff), 0)

def dispatchRun (i : Issued) (o : ExpOpds) (s : State) : State :=
  let k := cTarget i.cmd
  let r := dispatchEff i o s
  finishCmd (16 + k) i r.1 (useSram k anyArea ((s.count (rCrd k 0x0C) r.2).count (rCrd k 0x18) r.1.sat))

/-- R177 on D0 and D1. -/
def dispatchOverlap (_ : Issued) (o : ExpOpds) (_ : State) : Bool :=
  match o.d1 with
  | some d => d.meets o.d0 || d.meetsIndex o.d0 || d.meetsIndex d
  | none => false

/-! ## EXP_COMBINE (R217 to R219) -/

/-- A pick record as combine reads it. -/
structure PickRec where
  addr : Nat
  lexp : Nat
  slot : Nat
  weight : Word
  poison : Bool
deriving DecidableEq, Repr

def readPickRec (s : State) (a : Nat) : PickRec :=
  let x := rdNat s a 16
  { addr := a, lexp := bits x 0 32, slot := bits x 32 32, weight := BitVec.ofNat 32 (bits x 64 32), poison := rdPoison s a 16 }

/-- Element `f` of a pick's expert output row; a pick that names no expert of the layer gives +0, poisoned. -/
def pickElem (s : State) (r : Route) (d0 : Desc) (p : PickRec) (f : Nat) : RdElem :=
  if p.lexp < r.eCount then readElem s (d0.moved (p.lexp / r.epp * r.pstep)) [f, p.slot, p.lexp % r.epp]
  else { poison := true, pAddr := p.addr }

/-- Output row of a token in MODE 0 and 1 (R217, R218). Poison of the token's pick index, of a pick record or of any expert output
element used reaches the whole row (R219). -/
def combineRow (s : State) (o : ExpOpds) (unit : Bool) (t : Nat) (pp : Bool) (ps : List PickRec) (e : Eff) : Eff :=
  match o.d2 with
  | none => e
  | some d =>
    let one (f : Nat) : (Val × Bool) × List RdElem × List RdElem :=
      let res := match o.d1 with | some x => [readElem s x [f, t]] | none => []
      let start : Val := match res with | [] => Val.zero | x :: _ => x.val
      let outs := ps.map (fun p => (p, pickElem s o.r o.d0 p f))
      let acc := outs.foldl (fun (a : Val) x =>
        val32 (round32 (a.add ((if unit then Val.ofInt 1 else val32 x.1.weight).mul x.2.val)))) start
      ((acc, res.any (·.poison)), res, outs.map (·.2))
    let row := (List.range (d.extent 0)).map one
    let res := row.flatMap (fun x => x.2.1)
    let outs := row.flatMap (fun x => x.2.2)
    let bad := pp || ps.any (·.poison) || outs.any (·.poison)
    let e1 := match o.d1 with | some x => e.reads x res | none => e
    let e2 := ((e1.reads o.d0 outs).consumeReads res).consumeReads outs
    e2.encoded s d (encodeRow s d 0 [t] (row.map (fun x => (x.1.1, bad || x.1.2))))

/-- Does poison of the token's pick index, of a pick record or of an expert output element used reach its output (R219)? -/
def tokenPoison (s : State) (o : ExpOpds) (pp : Bool) (ps : List PickRec) : Bool :=
  pp || ps.any (fun p => p.poison || (List.range (o.d0.extent 0)).any (fun f => (pickElem s o.r o.d0 p f).poison))

/-- WGRAD of one kept pick (R218); `bad`: poison reaches the token's output. -/
def combineGrad (s : State) (o : ExpOpds) (t : Nat) (bad : Bool) (p : PickRec) (e : Eff) : Eff :=
  match o.d1 with
  | none => e
  | some x =>
    let n := o.d0.extent 0
    let ds := readRow s x 0 n [t]
    let outs := (List.range n).map (pickElem s o.r o.d0 p)
    let acc := (List.zip ds outs).foldl (fun (a : Val) y => val32 (round32 (a.add (y.1.val.mul y.2.val)))) Val.zero
    let pois := bad || ds.any (·.poison)
    let e1 := ((((e.reads x ds).reads o.d0 outs).consumeReads ds).consumeReads outs)
    { e1 with writes := e1.writes ++ bytesAt (p.addr + 12) (mark pois (leBytes 4 (round32 acc).toNat)),
              nonFin := e1.nonFin || !acc.isFinite }

/-- One token of the range. -/
def combineToken (s : State) (o : ExpOpds) (mode q t : Nat) (acc : Nat × Eff) : Nat × Eff :=
  let a := o.r.pick q t
  let off := rdNat s a 4
  let cnt := min (rdNat s (a + 4) 4) (o.r.rcap - off)
  let pp := rdPoison s a 8
  let ps := (List.range cnt).map (fun j => readPickRec s (o.r.precs q + 16 * (off + j)))
  let e0 := { acc.2 with secs := acc.2.secs ++ sectorsOf a 8 ++ sectorsOf (o.r.precs q + 16 * off) (16 * cnt) }
  let e1 := if pp then e0.consume a else match ps.find? (·.poison) with | some p => e0.consume p.addr | none => e0
  (acc.1 + b2n (cnt = 0),
   if mode = 2 then ps.foldl (fun e p => combineGrad s o t (tokenPoison s o pp ps) p e) e1 else combineRow s o (mode = 1) t pp ps e1)

/-- What an EXP_COMBINE comes to (R217 to R219). [DEDUCED, log 67] -/
def combineEff (i : Issued) (o : ExpOpds) (s : State) : Eff :=
  let c := i.cmd
  let q := expNo c
  let toks := (List.range (o.r.tok1 q - o.r.tok0 q)).map (o.r.tok0 q + ·)
  let (un, e) := toks.foldl (fun acc t => combineToken s o (combMode c) q t acc) (0, ({ secs := o.sectors } : Eff))
  { e with aux := if combMode c = 2 then 0 else BitVec.ofNat 32 un }

def combineRun (i : Issued) (o : ExpOpds) (s : State) : State :=
  let e := combineEff i o s
  finishCmd (16 + cTarget i.cmd) i e (useSram (cTarget i.cmd) anyArea (s.count (rCrd (cTarget i.cmd) 0x18) e.sat))

/-- R177 with the partitions of D0 and with D1; D2 or the pick records are the destination (R218). -/
def combineOverlap (i : Issued) (o : ExpOpds) (_ : State) : Bool :=
  let parts := (List.range o.r.npart).map (fun p => o.d0.moved (p * o.r.pstep))
  let srcs := parts ++ o.d1.toList
  if combMode i.cmd = 2 then
    let a := o.r.precs (expNo i.cmd)
    srcs.any (fun x => x.meetsBytes a (16 * o.r.rcap) || (x.idxEn && rangesMeet a (16 * o.r.rcap) x.idxBase (4 * x.idxSize)))
  else
    match o.d2 with
    | some d => srcs.any (fun x => d.meets x || d.meetsIndex x) || d.meetsIndex d
    | none => false

/-! ## EXP_ASSIGN (R229, R230) -/

/-- Is a looked-up expert without a fetch in hand and not yet fetched: a reset abandoned its fetch? [DEDUCED, log 68] -/
def fetchLost (s : State) (k ert gid : Nat) : Bool :=
  let r := readResid s (ert + 64 * gid)
  let held := (s.crd k).fetches.any (fun f => f.ent = ert + 64 * gid)
  !held && (r.state = stCold || (r.state = stFetching && r.fepoch ≠ crdEpoch s k))

/-- The lookups that EXP_ASSIGN makes at acceptance: for each expert (index, number, N, N poisoned) whether it has no slot. -/
def assignLookups (i : Issued) (r : Route) (p k : Nat) (s : State) :
    State × Eff × List ((Nat × Nat × Nat × Bool) × Bool) :=
  let step := (s.ctx (cCtx i.cmd)).step
  (List.range (r.experts p)).foldl (fun acc j =>
    let h := r.list_ p j
    let gid := r.eBase + p * r.epp + j
    let n := rdNat s h 4
    let flags := rdNat s (h + 4) 4
    let hp := rdPoison s h 8
    let e0 := { acc.2.1 with secs := acc.2.1.secs ++ sectorsOf h 16 }
    let e1 := if hp then e0.consume h else e0
    let noslot := nbit flags 0
    if 0 < n && (!nbit flags 1 || (!noslot && fetchLost acc.1 k r.ert gid)) then
      let (s1, l) := lookup k (r.cacheRef p) (cCtx i.cmd) step true gid acc.1
      let s2 := if l.noslot then storeClean (srcCrd k) (h + 4) [BitVec.ofNat 8 flags ||| 1] s1 else s1
      (s2, e1.looked l, acc.2.2 ++ [((j, gid, n, hp), l.noslot)])
    else (acc.1, e1, acc.2.2 ++ [((j, gid, n, hp), noslot)])) (s, ({} : Eff), [])

/-- Is the expert assigned at once: N 0, no slot, or RESIDENT or FAILED with no fetch in hand (R229)? A poisoned entry is a failed
fetch (R222). -/
def assignsAtOnce (s : State) (k : Nat) (ert : Nat) (x : (Nat × Nat × Nat × Bool) × Bool) : Bool :=
  let ent := ert + 64 * x.1.2.1
  let r := readResid s ent
  x.1.2.2.1 = 0 || x.2
    || (!(s.crd k).fetches.any (fun f => f.ent = ent) && (r.poison || r.state = stResident || r.state = stFailed))

/-- EXP_ASSIGN from its acceptance on (R229, R230). -/
def assignRun (i : Issued) (o : ExpOpds) (s : State) : State :=
  let c := i.cmd
  let k := cTarget c
  let r := o.r
  let p := expNo c
  let (s1, e, ex) := assignLookups i r p k s
  let s2 := touchReads (srcCrd k) 0 (distinct (o.sectors ++ e.secs)) s1
  let fs := effFaults c e
  let s3 := faultsOf (srcCrd k) fs i.id s2
  let (st, kind) := execStatus false (!e.faults.isEmpty) false e.poison.isSome
  let job : CrdJob := { is := i, assign := true, wait := ex.map (·.1), ert := r.ert, map := r.map + p * r.pstep
                        train := r.train, ready := expReady c, status := st, errKind := kind, charged := !fs.isEmpty }
  let s4 := s3.setCrd k { s3.crd k with job := some job }
  let s5 := ex.foldl (fun s x =>
    if assignsAtOnce s k r.ert x then assignOne k x.1 x.2 false s else s) s4
  finishJob k s5

/-! ## EXP_PREFETCH (R231) -/

/-- EXP_PREFETCH from its acceptance on. An element of the list that is itself out of bounds delivers FILL, which is then the number
(R108). [DEDUCED, log 119] -/
def prefetchRun (i : Issued) (o : ExpOpds) (s : State) : State :=
  let c := i.cmd
  let k := cTarget c
  let r := o.r
  let p := expNo c
  let step := (s.ctx (cCtx c)).step
  let lo := r.eBase + p * r.epp
  let rs := (List.range (o.d0.extent 0)).map (fun j => readElem s o.d0 [j])
  let e0 : Eff := (({ secs := o.sectors } : Eff).reads o.d0 rs).consumeReads rs
  let (s1, e1, wait) := rs.foldl (fun (acc : State × Eff × List Nat) x =>
    if x.poison then acc
    else
      let g := signed 32 x.code
      if g < (lo : Int) || ((lo + r.experts p : Nat) : Int) ≤ g then
        (acc.1, { acc.2.1 with oobR := acc.2.1.oobR + 1, oobAddr := if acc.2.1.oobAddr.isNone then some o.d0.addr else acc.2.1.oobAddr },
         acc.2.2)
      else
        let (s', l) := lookup k (r.cacheRef p) (cCtx c) step false g.toNat acc.1
        (s', acc.2.1.looked l, if l.started then acc.2.2 ++ [g.toNat] else acc.2.2)) (s, e0, [])
  let s2 := touchReads (srcCrd k) 0 e1.secs s1
  let fs := effFaults c e1
  let s3 := faultsOf (srcCrd k) fs i.id s2
  let strictOob := cStrict c && 0 < e1.oobR
  let (st, kind) := execStatus false (!e1.faults.isEmpty || strictOob) false e1.poison.isSome
  let job : CrdJob := { is := i, assign := false, wait := wait.map (fun g => (0, g, 0, false)), ert := r.ert, map := 0
                        status := st, errKind := kind, charged := !fs.isEmpty, oobReads := e1.oobR
                        aux := BitVec.ofNat 32 wait.length }
  finishJob k (s3.setCrd k { s3.crd k with job := some job })

/-! ## The rows -/

/-- EXP_SELECT at the front of carder `k`'s port. -/
def execExpSelect (k : BitVec 5) (hs : List Hit) (s : State) : Res :=
  let u := 16 + k.toNat
  .next (withHits u 0x48 hs (accept u 0x48 selectCheck (fun _ _ _ => false) selectRun) s)

/-- EXP_FANOUT at the front of carder `k`'s port. -/
def execExpFanout (k : BitVec 5) (hs : List Hit) (s : State) : Res :=
  let u := 16 + k.toNat
  .next (withHits u 0x49 hs (accept u 0x49 blockCheck (fun _ _ _ => false) fanoutRun) s)

/-- EXP_DISPATCH at the front of carder `k`'s port. -/
def execExpDispatch (k : BitVec 5) (hs : List Hit) (s : State) : Res :=
  let u := 16 + k.toNat
  .next (withHits u 0x4A hs (accept u 0x4A dispatchCheck dispatchOverlap dispatchRun) s)

/-- EXP_ASSIGN at the front of carder `k`'s port. -/
def execExpAssign (k : BitVec 5) (hs : List Hit) (s : State) : Res :=
  let u := 16 + k.toNat
  .next (withHits u 0x4B hs (accept u 0x4B blockCheck (fun _ _ _ => false) assignRun) s)

/-- EXP_COMBINE at the front of carder `k`'s port. -/
def execExpCombine (k : BitVec 5) (hs : List Hit) (s : State) : Res :=
  let u := 16 + k.toNat
  .next (withHits u 0x4C hs (accept u 0x4C combineCheck combineOverlap combineRun) s)

/-- EXP_PREFETCH at the front of carder `k`'s port. -/
def execExpPrefetch (k : BitVec 5) (hs : List Hit) (s : State) : Res :=
  let u := 16 + k.toNat
  .next (withHits u 0x4D hs (accept u 0x4D prefetchCheck (fun _ _ _ => false) prefetchRun) s)

end Sys2Proof.Machine
end

