-- ==== Sys2Proof/Machine/Windows.lean ====
section
/-! DEFINITION. The device address map (R17, Table 00-6): its windows, accesses to the doorbell window and to any register
by device address, and what the SRAM debug windows hold (R341). -/

namespace Sys2Proof.Machine

/-- The windows of Table 00-6 and the gaps between them. -/
inductive Window where
  | skein | debug | doorbell | completion | regs | unmapped
deriving DecidableEq, Repr

/-- Each with its first address and the first one after it. -/
def windowMap : List (Window × Nat × Nat) :=
  [(.skein, 0, 0x010000000000), (.debug, 0x010000000000, 0x020000000000), (.doorbell, 0x020000000000, 0x020001000000),
   (.unmapped, 0x020001000000, 0x020100000000), (.completion, 0x020100000000, 0x020200000000),
   (.regs, 0x020200000000, 0x02020E000000), (.unmapped, 0x02020E000000, 2 ^ 65)]

/-- The parts of `[a, a + n)` by window, in address order: window, address, length. -/
def partsOf (a n : Nat) : List (Window × Nat × Nat) :=
  windowMap.filterMap (fun w =>
    let lo := max a w.2.1
    let hi := min (a + n) w.2.2
    if lo < hi then some (w.1, lo, hi - lo) else none)

/-! ## The doorbell window (R8, R37, R407) -/

/-- Why an access to the doorbell window does not reach a slot. -/
def doorbellRefusal (o : Origin) (a : Nat) (s : State) : Option (Byte × BitVec 16) :=
  if o = .mgmt then some (kACCESS_MAP, entry o)
  else if a % 4 ≠ 0 then some (kACCESS_FORM, srcBob)
  else if !ctlRuns s then some (kACCESS_GATED, srcBob)
  else none

/-- What an access comes to once its slot has answered the write. [DEDUCED, log 18] -/
def endDoorbell (o : Origin) (a : Nat) (s : State) (r : WrRes) : Bool × State :=
  match r with
  | .done t => (true, tagNew (originFlags o) s t)
  | .refuse k => (false, raiseAccess o srcBob k a s)

/-- One write of one word of the doorbell window. The flag: performed. -/
def doorbellWrite (o : Origin) (a : Nat) (v : Word) (s : State) : Bool × State :=
  match doorbellRefusal o a s with
  | some (k, source) => (false, raiseAccess o source k a s)
  | none =>
    endDoorbell o a s (writeDoorbell ((a - dbBase) / 64) ((a - dbBase) % 64) v s)

/-- One read of one word of the doorbell window. -/
def doorbellRead (o : Origin) (a : Nat) (s : State) : Option Word × State :=
  match doorbellRefusal o a s with
  | some (k, source) => (none, raiseAccess o source k a s)
  | none => (some (readDoorbell ((a - dbBase) / 64) ((a - dbBase) % 64) s), s)

def doorbellWrites (o : Origin) (a : Nat) : List Word → State → Bool × State
  | [], s => (true, s)
  | v :: r, s =>
    match doorbellWrite o a v s with
    | (true, t) => doorbellWrites o (a + 4) r t
    | (false, t) => (false, t)

def doorbellReads (o : Origin) : Nat → Nat → State → Option (List Word) × State
  | 0, _, s => (some [], s)
  | n + 1, a, s =>
    match doorbellRead o a s with
    | (none, t) => (none, t)
    | (some w, t) =>
      match doorbellReads o n (a + 4) t with
      | (none, u) => (none, u)
      | (some ws, u) => (some (w :: ws), u)

/-- Kind and source of the refusal that a write of the completion window draws (R37, R76). -/
def completionRefusal (o : Origin) (s : State) : Byte × BitVec 16 :=
  if o = .mgmt then (kACCESS_MAP, entry o)
  else if !ctlRuns s then (kACCESS_GATED, srcBob)
  else (kACCESS_MAP, srcBob)

/-- Does an access of this origin enter the control plane's windows? -/
def entersWindow (o : Origin) (s : State) : Bool :=
  match o with
  | .host p => portUp s p.toNat
  | _ => mgmtRuns s

/-- A write of one word at a device address that is none of skein memory. -/
def wordWrite (o : Origin) (a : Nat) (v : Word) (nvmErr : Bool) (s : State) : State :=
  match partsOf a 1 with
  | (.regs, _, _) :: _ => regWrite o (a - regBase) v nvmErr s
  | (.doorbell, _, _) :: _ => if entersWindow o s then (doorbellWrite o a v s).2 else s
  | (.completion, _, _) :: _ =>
    if entersWindow o s then raiseAccess o (completionRefusal o s).2 (completionRefusal o s).1 a s else s
  | _ => if entersWindow o s then raiseAccess o (entry o) kACCESS_MAP a s else s

/-! ## SRAM debug windows (R341, Table 11-5) -/

/-- A read of the debug windows: its bytes, or its refusal. -/
def sramRead (o : Origin) (a n : Nat) (s : State) : Option (List RByte) × State :=
  let (code, i, off) := sramPlace a
  let size := sramListed code i
  if size < off + n then
    (none, raiseAccess o (entry o) kACCESS_MAP (if off < size then a + (size - off) else a) s)
  else if blockGated s (code * 16777216 + i * 65536) then (none, raiseAccess o (src code i) kACCESS_GATED a s)
  else (some ((List.range n).map (fun j => sramByte s code i (off + j))), s)

end Sys2Proof.Machine
end

