-- ==== Sys2Proof/Machine/HostRows.lean ====
section
/-! DEFINITION. The rows that are one access of a register or doorbell by a host or the management plane, and the rows of junction 2,
the distaff and the skeins that time or a unit raises (chapters 02, 11, 13, 14). -/

namespace Sys2Proof.Machine

/-- The host whose port a row does not name: port 16. The port shows nowhere, since the doorbell window and BOB answer for
themselves. -/
def anyHost : Origin := .host 16

/-! ## Doorbells (R48 to R52) -/

def hostDoorbell (b : Bobbin) (off : Nat) (v : Word) (s : State) : State :=
  if mgmtRuns s then (doorbellWrite anyHost (dbAddr b.toNat off) v s).2 else s

def execDbProdWrite (b : Bobbin) (v : Word) (s : State) : Res := .next (hostDoorbell b 0 v s)
def execDbCqHeadWrite (b : Bobbin) (v : Word) (s : State) : Res := .next (hostDoorbell b 8 v s)
def execEnable (b : Bobbin) (s : State) : Res := .next (hostDoorbell b 0x10 1 s)
def execDisable (b : Bobbin) (s : State) : Res := .next (hostDoorbell b 0x10 2 s)

/-! ## BOB[0] (R69, R81, R269, R287, R290 to R292) -/

def hostBob (off : Nat) (v : Word) (s : State) : State :=
  if mgmtRuns s then (accessWrite anyHost (rBob off) v false s).2 else s

def execIndDataWrite (v : Word) (s : State) : Res := .next (hostBob 0x18 v s)
def execCtxReset (c : BitVec 12) (s : State) : Res := .next (hostBob 0x1C (c.setWidth 32) s)
def execTrnDataWrite (v : Word) (s : State) : Res := .next (hostBob 0x204 v s)

/-- JOURNAL_ENABLE: the write of J_EN 1 to word 8 of the training words. -/
def execJournalEnable (v : Word) (s : State) : Res :=
  .next (if trnSelWord s = 8 && v.getLsbD 3 then hostBob 0x204 v s else s)

/-- ARM: the write of the arm bit to word 14. -/
def execArm (v : Word) (s : State) : Res := .next (if trnSelWord s = 14 && v.getLsbD 6 then hostBob 0x204 v s else s)

/-- RESUME: the write of the resume bit to word 14. -/
def execResume (v : Word) (s : State) : Res := .next (if trnSelWord s = 14 && v.getLsbD 7 then hostBob 0x204 v s else s)

/-! ## PRT[0]_QP_CMD (R355) -/

def qpCmdWord (qpn : BitVec 16) (op : Nat) : Word := packWord [(0, 16, qpn.toNat), (16, 3, op)]

def execQpLoad (o : Origin) (qpn : BitVec 16) (s : State) : Res := .next (regWrite o (rPrt 0 0x1018) (qpCmdWord qpn 1) false s)
def execQpCmdError (o : Origin) (qpn : BitVec 16) (s : State) : Res := .next (regWrite o (rPrt 0 0x1018) (qpCmdWord qpn 2) false s)
def execQpReset (o : Origin) (qpn : BitVec 16) (s : State) : Res := .next (regWrite o (rPrt 0 0x1018) (qpCmdWord qpn 3) false s)
def execQpRearm (o : Origin) (qpn : BitVec 16) (s : State) : Res := .next (regWrite o (rPrt 0 0x1018) (qpCmdWord qpn 4) false s)

/-! ## DST[0], CLK[0], WHL[0], SKN[k], NDY[0] -/

def execDstStatusClear (o : Origin) (v : Word) (s : State) : Res := .next (regWrite o (rDst 0) v false s)
def execEvrBaseWrite (o : Origin) (hi : Bool) (v : Word) (s : State) : Res :=
  .next (regWrite o (rDst (if hi then 0x74 else 0x70)) v false s)
def execEvrCfgWrite (o : Origin) (v : Word) (s : State) : Res := .next (regWrite o (rDst 0x78) v false s)
def execKindCfgWrite (o : Origin) (win : Bool) (v : Word) (s : State) : Res :=
  .next (regWrite o (rDst (if win then 0x98 else 0x94)) v false s)
def execRetire (o : Origin) (w : BitVec 2) (v : Word) (nvmErr : Bool) (s : State) : Res :=
  .next (regWrite o (rDst (0xA0 + 4 * w.toNat)) v nvmErr s)
def execReturnFromRepair (o : Origin) (w : BitVec 2) (v : Word) (nvmErr : Bool) (s : State) : Res :=
  .next (regWrite o (rDst (0xA0 + 4 * w.toNat)) v nvmErr s)
def execGateWrite (o : Origin) (w : BitVec 2) (v : Word) (s : State) : Res :=
  .next (regWrite o (rClk (0x40 + 4 * w.toNat)) v false s)
def execSleepWrite (o : Origin) (w : BitVec 2) (v : Word) (s : State) : Res :=
  .next (regWrite o (rClk (0x80 + 4 * w.toNat)) v false s)
def execUnitReset (o : Origin) (w : BitVec 2) (v : Word) (s : State) : Res :=
  .next (regWrite o (rClk (0x60 + 4 * w.toNat)) v false s)
def execIssueWrite (o : Origin) (v : Word) (s : State) : Res := .next (regWrite o (rClk 0xA0) v false s)
def execRunSet (o : Origin) (i : BitVec 7) (v : Word) (s : State) : Res := .next (regWrite o (rClk (0x100 + 4 * i.toNat)) v false s)
def execRunClr (o : Origin) (i : BitVec 7) (v : Word) (s : State) : Res := .next (regWrite o (rClk (0x300 + 4 * i.toNat)) v false s)
def execSpareWrite (o : Origin) (v : Word) (s : State) : Res := .next (regWrite o (rClk 0xB0) v false s)
def execDevReset (o : Origin) (v : Word) (s : State) : Res := .next (regWrite o (rClk 0x10) v false s)
def execFmStart (o : Origin) (v : Word) (s : State) : Res := .next (regWrite o (rClk 0x500) (v ||| 0x2000) false s)
def execTabDataWrite (o : Origin) (v : Word) (s : State) : Res := .next (regWrite o (rWhl 0x34) v false s)
def execFenceWrite (o : Origin) (k : BitVec 5) (i : BitVec 5) (v : Word) (nvmErr : Bool) (s : State) : Res :=
  guarded (.fenceWrite o k i v nvmErr)
    (regWrite o (rSkn k.toNat (if i.toNat < 16 then 0x200 + 4 * i.toNat else 0x240 + 4 * (i.toNat - 16))) v nvmErr s)

/-- FUSE_PROGRAM and FUSE_REVOKE: NDY[0]_FUSE_CMD with OP 1 and OP 2 (R439). -/
def execFuseProgram (o : Origin) (v : Word) (s : State) : Res := .next (if v.toNat % 4 = 1 then regWrite o (rNdy 0x24) v false s else s)
def execFuseRevoke (o : Origin) (v : Word) (s : State) : Res := .next (if v.toNat % 4 = 2 then regWrite o (rNdy 0x24) v false s else s)

/-- FUSE_DONE: the operation in hand ends. -/
def execFuseDone (s : State) : Res := .next (endFuse s)

/-! ## Registers with no row of their own -/

def execRwpWrite (o : Origin) (a : Addr) (v : Word) (nvmErr : Bool) (s : State) : Res :=
  guarded (.rwpWrite o a v nvmErr) (wordWrite o a.toNat v nvmErr s)

def execRegisterWrite (o : Origin) (a : Addr) (v : Word) (s : State) : Res :=
  let r := nvmOutcome (a.toNat - regBase) s
  guarded (.registerWrite o a v) (wordWrite o a.toNat v r.1 r.2)

/-- RC_COUNTER_READ: the count goes to its reader and clears (R10). -/
def execRcCounterRead (o : Origin) (a : Addr) (s : State) : Res :=
  let reg := a.toNat - regBase
  guarded (.rcCounterRead o a)
    (if (match o with | .host p => portUp s p.toNat | _ => mgmtRuns s) then
      match accessRead o false reg s with
      | (some v, t) => t.emit (.value v)
      | (none, t) => t
    else s)

/-! ## The distaff and junction 2 -/

/-- FAULT_MESSAGE: the distaff accepts the next message. Entries of its log and counting table that a parity error has damaged read as
zero first (R388). -/
def execFaultMessage (s : State) (hits : List Hit := []) : Res :=
  .next (if mgmtRuns s then acceptNext (hits.foldl (fun s h => damageDst h s) s) else s)

/-- SLEEP_ENTRY: a unit that has stopped loses its power (R408). At READY no unit is asleep (R420). -/
def execSleepEntry (u : BitVec 7) (s : State) : Res :=
  let v := u.toNat
  guarded (.sleepEntry u)
    (if s.ready && vecHasSleep v && s.sleepReq.getLsbD v && !s.asleep.getLsbD v && !s.rstBusy.getLsbD v && !vecBusy s v then enterSleep v s
     else s)

/-- Management ticks from the return of power to the restart of the clock: 2 µs. -/
def wakeTicks : Nat := 650

/-- WAKE: the unit's clock restarts (R408). [DEDUCED, log 103] [DEDUCED, log 105] -/
def execWake (u : BitVec 7) (s : State) : Res :=
  let v := u.toNat
  guarded (.wake u)
    (match mfind s.wakeAt v with
     | some t => if s.asleep.getLsbD v && t + wakeTicks ≤ s.wall then returnFromSleep v s else s
     | none => s)

/-- UNIT_RESET_DONE: the unit accepts commands again (R409). [DEDUCED, log 105] -/
def execUnitResetDone (u : BitVec 7) (s : State) : Res :=
  let v := u.toNat
  guarded (.unitResetDone u) (if s.rstBusy.getLsbD v && !s.asleep.getLsbD v then resetDone v s else s)

/-- FM_DONE (R413). The windows of the stability check end by a row of their own (R415). [DEDUCED, log 105] -/
def execFmDone (count : Nat) (s : State) : Res := .next (if s.ndy.phase = .windows then s else fmEnd count s)

/-- DRIFT_WINDOW (R414). -/
def execDriftWindow (count : Nat) (s : State) : Res := .next (driftEnd count s)

/-- CLOCK_MONITOR_RESET (R417): the monitor is armed from step 6. -/
def execClockMonitorReset (s : State) : Res := .next (if s.clocksOn then deviceReset 2 s else s)

/-! ## Skeins -/

/-- SKEIN_READ: bits flip, and the request is answered sector by sector (R327, R334). -/
def execSkeinRead (src : BitVec 16) (a : Addr) (len : Nat) (upsets : List Upset) (s : State) : Res :=
  guarded (.skeinRead src a len upsets)
    (if mgmtRuns s then
      let s1 := applyUpsets upsets s
      let (bs, s2) := demandRead src 0 a.toNat len s1
      s2.emit (.sknData src (bs.map (fun b => if b.err then none else some { val := b.val, poison := b.poison })))
    else s)

/-- SKEIN_WRITE (R329, R332, R334). -/
def execSkeinWrite (src : BitVec 16) (a : Addr) (data : List MByte) (s : State) : Res :=
  guarded (.skeinWrite src a data)
    (if mgmtRuns s then
      let r := writeBytes src 0 ((List.range data.length).map (fun i => (a.toNat + i, data.getD i {}))) s
      r.1.emit (.sknAck src r.2)
    else s)

/-- BUCKET_LEAK: SKN[k]_BKT_LEAK ticks have passed since the last leak (R335). [DEDUCED, log 103] -/
def execBucketLeak (k : BitVec 5) (s : State) : Res :=
  let n := k.toNat
  .next (if s.ready && (bucketCfg s n).2.toNat ≤ elapsed s.tick (s.skein n).leakFrom then leakBuckets n s else s)

/-- SCRUB_GRANULE: SKN[k]_SCRUB_INTERVAL ticks have passed since the last granule (R336). [DEDUCED, log 103] -/
def execScrubGranule (k : BitVec 5) (upsets : List Upset) (s : State) : Res :=
  let n := k.toNat
  guarded (.scrubGranule k upsets)
    (if (s.getReg (rSkn n 0x2C)).getLsbD 0 && (s.skein n).mode = .ready && s.gate.getLsbD (vecSkn n)
        && !s.rstBusy.getLsbD (vecSkn n) && (s.getReg (rSkn n 0x30)).toNat ≤ elapsed s.tick (s.skein n).scrubFrom then
      scrubGranule n (applyUpsets upsets s)
    else s)

end Sys2Proof.Machine
end

