-- ==== Sys2Proof/Machine/Package.lean ====
section
/-! DEFINITION. The package (chapter 16): supply and trips, the reset pin, the whorl, SMBus and JTAG. -/

namespace Sys2Proof.Machine

def setPkg (f : Pkg → Pkg) (s : State) : State := { s with pkg := f s.pkg }

/-- The supply changes; PWRGD and THERMTRIP_N follow it (Table 16-9, R460). -/
def setPower (p : Power) (s : State) : State :=
  let was := s.pkg.power
  let s1 := setPkg (fun x => { x with power := p }) s
  let s2 := if decide (was = .on) == decide (p = .on) then s1 else s1.emit (.pwrgd (decide (p = .on)))
  if decide (was = .thermal) == decide (p = .thermal) then s2 else s2.emit (.thermtrip (decide (p = .thermal)))

/-! ## Supply (R418, R452, R454, R455) -/

/-- POWER_ON: P12V has risen and every rail is in regulation. -/
def execPowerOn (s : State) : Res :=
  .next (if s.pkg.power = .off then setPower .on (deviceReset 0 s) else s)

/-- POWER_DOWN: the regulators turn off; the cause latch and the trip count clear. -/
def execPowerDown (s : State) : Res :=
  .next (if s.pkg.power ≠ .off then setPower .off (setPkg (fun p => { p with trips := [], tap := .idcode }) (deviceReset 0 s)) else s)

/-- VR_FAULT: a rail has stayed outside 5 %. -/
def execVrFault (rail : BitVec 3) (s : State) : Res :=
  .next (if s.pkg.power = .on then faultParam srcWhl kVR_FAULT rail.toNat s else s)

/-- Management ticks in 1 s, and in the 10 ms before a restart. -/
def tripWindow : Nat := 325000000
def restartTicks : Nat := 3250000

/-- POWER_TRIP: the regulators turn off, with cause 4. A third trip within 1 s latches them off. The rail shows nowhere. -/
def execPowerTrip (_rail : BitVec 3) (s : State) : Res :=
  .next (if s.pkg.power = .on || s.pkg.power = .thermal then
      let recent := s.pkg.trips.filter (fun t => s.wall < t + tripWindow)
      let third := 2 ≤ recent.length
      setPower (if third then .latched else .tripped)
        (setPkg (fun p => { p with trips := s.wall :: recent, tap := .idcode }) (deviceReset 4 s))
    else s)

/-- REGULATOR_RESTART. -/
def execRegulatorRestart (s : State) : Res :=
  .next (match s.pkg.power, s.pkg.trips with
    | .tripped, t :: _ => if t + restartTicks ≤ s.wall then setPower .on s else s
    | _, _ => s)

/-- RESET_PIN: RESET_N goes low and holds the device in reset. [DEDUCED, log 100] -/
def execResetPin (s : State) : Res :=
  .next (if s.pkg.resetLow then s
    else setPkg (fun p => { p with resetLow := true }) (if s.pkg.power = .on then deviceReset 3 s else s))

/-- An instruction that drives lands gives way to BYPASS: test never drives lands under a running device (R470). [DEDUCED, log 101] -/
def releaseTap (t : Tap) : Tap := if t = .extest || t = .clamp || t = .highz then .bypass else t

/-- RESET_PIN_RELEASE. [DEDUCED, log 101] -/
def execResetPinRelease (s : State) : Res :=
  .next (setPkg (fun p => { p with resetLow := false, tap := releaseTap p.tap }) s)

/-! ## The whorl's samples (R456, R460) -/

/-- A reading in 1/16 °C. -/
def degC (t : Int) : Int := 16 * t

/-- Two samples in a row at or above the limit on one sensor. -/
def twiceHot (limit : Int) (old new : List (BitVec 16)) : Bool :=
  (List.zip old new).any (fun e => limit ≤ e.1.toInt && limit ≤ e.2.toInt)

/-- A thermal trip. -/
def tripsNow (s : State) (m : Sample) : Bool := twiceHot (degC 115) s.whl.die m.die || twiceHot (degC 100) s.whl.skn m.skn

/-- Every sensor is 20 °C below its trip temperature. -/
def cooled (m : Sample) : Bool := m.die.all (fun t => t.toInt ≤ degC 95) && m.skn.all (fun t => t.toInt ≤ degC 80)

/-- The flow that a second's pulses stand for, in 1/16 L/min, with KPUL pulses a litre (R461). [DESIGN CHOICE, log 132] -/
def flowOf (t : List Byte) (pulses : Nat) : Nat := min (pulses * 960 / tabKpul t) 65535

/-- Since when the flow has been on its side of FLOW_MIN. -/
def watchFlow (wall : Nat) (low : Bool) (w : Whl) : Whl :=
  if low then { w with flowAbove := none, flowBelow := some (w.flowBelow.getD wall) }
  else { w with flowBelow := none, flowAbove := some (w.flowAbove.getD wall) }

/-- Keep a period's readings; those of the coolant only where their sensor is enabled (R461). -/
def keepSample (m : Sample) (s : State) : State :=
  let w := s.whl
  let t := w.table
  let w1 := { w with power := m.power, die := m.die, skn := m.skn, rails := m.rails }
  let w2 := if tabInletEn t then { w1 with inlet := m.inlet } else w1
  let f := flowOf t m.pulses
  { s with whl := if tabFlowEn t then watchFlow s.wall (decide (f < tabFlowMin t)) { w2 with flow := BitVec.ofNat 16 f }
                  else { w2 with flowBelow := none, flowAbove := none } }

/-- The trip: the device is held in reset with VMGMT and VIO alone, with cause 4. -/
def thermalTrip (s : State) : State := setPower .thermal (deviceReset 4 s)

/-- THERMTRIP_RELEASE. -/
def execThermtripRelease (m : Sample) (s : State) : Res :=
  guarded (.thermtripRelease m)
    (if s.pkg.power = .thermal && cooled m then setPower .on s else s)

/-! ## The procedure of R456 -/

/-- A threshold curve: the highest level whose threshold is reached, held until the hysteresis below. -/
def curveLevel (t : Int) (th : Nat → Int) (hy : Int) (old : Nat) : Nat :=
  let new := (((List.range 15).map (· + 1)).filter (fun l => th l ≤ t)).foldl max 0
  if new < old && th old - hy ≤ t then old else new

/-- plev and below after a period at power `p`. -/
def powerLevel (p cap hyst hold plev below : Nat) : Nat × Nat :=
  if cap < p then (min (plev + 1) 15, 0)
  else if p + hyst < cap then (if hold ≤ below + 1 then (plev - 1, 0) else (plev, below + 1))
  else (plev, 0)

/-- Refresh rate of a skein, held until RHYST below the threshold that it crossed (R460). -/
def refreshRate (t : Int) (ref2 ref4 hy : Int) (old : Nat) : Nat :=
  if ref4 ≤ t || (old = 2 && ref4 - hy ≤ t) then 2
  else if ref2 ≤ t || (1 ≤ old && ref2 - hy ≤ t) then 1
  else 0

/-- Sensors that stand at or above a limit. -/
def atLimit (limit : Int) (l : List (BitVec 16)) : List Nat := (List.range l.length).filter (fun i => decide (limit ≤ (l.getD i 0).toInt))

/-- Sensors that have reached a limit since the last evaluation, by their reading or by the limit's change. [DEDUCED, log 99] -/
def crossed (was now : List Nat) : List Nat := now.filter (fun i => !was.contains i)

/-- Faults of the junction limits and the inlet (R460, R461). [DEDUCED, log 99] -/
def heatFaults (old : Whl) (m : Sample) (s : State) : State :=
  let t := s.whl.table
  let die := atLimit (tabCfault t) m.die
  let skn := atLimit (tabDfault t) m.skn
  let s1 := (crossed old.dieHot die).foldl (fun s i => faultParam srcWhl kTHERM_COMPUTE i s) s
  let s2 := (crossed old.sknHot skn).foldl (fun s k => faultParam srcWhl kTHERM_DRAM k s) s1
  let high := tabInletEn t && decide (tabInletMax t < m.inlet.toInt)
  let s3 := if high && !old.inletHigh then faultParam srcWhl kTHERM_COMPUTE 0xF0 s2 else s2
  { s3 with whl := { s3.whl with inletHigh := high, dieHot := die, sknHot := skn } }

/-- Each skein's refresh rate follows its own sensor. -/
def setRefresh (m : Sample) (s : State) : State :=
  let t := s.whl.table
  (List.range 32).foldl (fun s k =>
    let x := s.skein k
    s.setSkein k { x with refresh := BitVec.ofNat 2 (refreshRate (m.skn.getD k 0).toInt (tabRef2 t) (tabRef4 t) (tabRhyst t) x.refresh.toNat) }) s

/-- The limits of a level under the ceilings, as CLK[0]_ISSUE holds them. -/
def issueOf (s : State) (lev : Nat) : Word :=
  let ceil := issueFields (s.getReg (rWhl 0x1C))
  packWord ((List.range 4).map (fun c => (8 * c, 7, min (tabRow s.whl.table lev c) (ceil.getD c 0))))

/-- Energy of a period of 1,024 ticks: whole joules count, the rest is kept. -/
def addEnergy (p : Nat) (s : State) : State :=
  let e := s.whl.energy + p * 1024
  { s with whl := { s.whl with energy := e % 325000000 } }.count (rWhl 0x14) (e / 325000000)

/-- A register written by the package's own controller. -/
def niddyWrite (a : Nat) (v : Word) (s : State) : State := (accessWrite .niddy a v false s).2

/-- The whorl writes CLK[0]_ISSUE for a level (R456). -/
def setIssue (lev : Nat) (s : State) : State := niddyWrite (rClk 0xA0) (issueOf s lev) s

/-- One evaluation. [DEDUCED, log 99] -/
def evaluate (m : Sample) (old : Whl) (s : State) : State :=
  let t := s.whl.table
  let reg (o : Nat) : Nat := (s.getReg (rWhl o)).toNat
  let pl := powerLevel m.power (reg 4) (reg 8) (reg 0xC) old.plev old.below
  let plev := pl.1
  let clev := curveLevel (hottest (numbered m.die)).2.toInt (tabCt t) (tabChyst t) old.clev
  let dlev := curveLevel (hottest (numbered m.skn)).2.toInt (tabDt t) (tabDhyst t) old.dlev
  let lev0 := max plev (max clev dlev)
  let lev := if old.flowLow then max lev0 8 else lev0
  let s1 := { s with whl := { s.whl with level := lev, plev := plev, clev := clev, dlev := dlev, below := pl.2 } }
  let s2 := if plev = 15 && old.plev < 15 then faultParam srcWhl kPOWER_CAP 0 s1 else s1
  let s3 := setRefresh m (heatFaults old m (addEnergy m.power s2))
  let s4 := if lev = 0 then s3 else s3.count (rWhl 0x18) 1
  setIssue lev s4

/-- WHORL_PERIOD. Until step 7 of the boot the whorl applies its trips only (R471). -/
def execWhorlPeriod (m : Sample) (s : State) : Res :=
  guarded (.whorlPeriod m)
    (if s.pkg.power = .on && !s.pkg.resetLow then
      if tripsNow s m then thermalTrip s
      else if s.whl.table.isEmpty then keepSample m s
      else evaluate m s.whl (keepSample m s)
    else s)

/-! ## Flow (R461), retired units (R462) -/

/-- Has something held for 1 s, since the `wall` given? -/
def heldFor (since : Option Nat) (wall : Nat) : Bool := match since with | some t => decide (t + tripWindow ≤ wall) | none => false

/-- FLOW_LOW: the flow has stayed below FLOW_MIN for 1 s. -/
def execFlowLow (s : State) : Res :=
  let t := s.whl.table
  .next (if tabFlowEn t && !s.whl.flowLow && heldFor s.whl.flowBelow s.wall then
      faultParam srcWhl kTHERM_COMPUTE 0xF1 { s with whl := { s.whl with flowLow := true } }
    else s)

/-- FLOW_RESTORED. -/
def execFlowRestored (s : State) : Res :=
  .next (if s.whl.flowLow && heldFor s.whl.flowAbove s.wall then { s with whl := { s.whl with flowLow := false } } else s)

/-- Management ticks in 1 ms. -/
def retiredTicks : Nat := 325000

/-- RETIRED_SLEEP: 1 ms after its retired bit was set, a unit that can sleep is put to sleep. At READY no unit is asleep (R420): the
whorl does so after it. -/
def execRetiredSleep (u : BitVec 7) (s : State) : Res :=
  let v := u.toNat
  let due := match mfind s.whl.retiredAt v with | some t => decide (t + retiredTicks ≤ s.wall) | none => true
  guarded (.retiredSleep u) (if s.ready && isRetired s v && vecHasSleep v && due then sleepOn v s else s)

/-! ## SMBus (R469) -/

/-- VMGMT and VIO are up. [PRESUMED, log 102] -/
def mgmtPower (s : State) : Bool := s.pkg.power = .on || s.pkg.power = .thermal

def execSmbSetOffset (v : Word) (s : State) : Res :=
  .next (if mgmtPower s then (setNdy (fun n => { n with smb := v }) s).emit .smbAck else s)

/-- Registers of NDY, DST, WHL and CLK. -/
def smbReach (a : Nat) : Bool := 6 ≤ a / 16777216 && a / 16777216 ≤ 9 && a / 65536 % 256 = 0

/-- The read and its status byte; what follows status 3 the spec does not say. [PRESUMED, log 102] -/
def smbRead (s : State) : List Byte × State :=
  let a := s.ndy.smb.toNat
  let failed (t : State) : List Byte × State :=
    (3 :: (List.range 4).map (fun i => Config.freeByte (t.free + i)), { t with free := t.free + 4 })
  if !smbReach a then failed (raiseAccess .niddy srcNdy kACCESS_MAP (regBase + a) s)
  else
    match accessRead .niddy true a s with
    | (some v, t) => (0 :: leBytes 4 v.toNat, t)
    | (none, t) => failed t

def execSmbBlockRead (s : State) : Res :=
  .next (if mgmtPower s then (let (b, t) := smbRead s; t.emit (.smbData b)) else s)

/-- SMB_ALERT_N is asserted. [PRESUMED, log 102] -/
def smbAlert (s : State) : Bool := s.dst.status.getLsbD 5 || s.ndy.step = 8

/-- SMB_ALERT_RESPONSE: a target that asserts SMB_ALERT_N answers with its own address. -/
def execSmbAlertResponse (s : State) : Res :=
  .next (if mgmtPower s && smbAlert s then s.emit (.smbAddress (0x58 + s.pkg.sa.toNat)) else s)

/-- SMB_OTHER_COMMAND: a NAK. -/
def execSmbOtherCommand (code : Byte) (s : State) : Res :=
  guarded (.smbOtherCommand code) (if mgmtPower s then s.emit .smbNak else s)

/-! ## JTAG (R418, R470) -/

/-- Load an instruction. [PRESUMED, log 107] -/
def loadTap (t : Tap) (s : State) : State := if mgmtPower s then setPkg (fun p => { p with tap := t }) s else s

/-- An instruction that drives lands: accepted only while RESET_N is low. [DEDUCED, log 101] -/
def driveTap (t : Tap) (s : State) : State := loadTap (if s.pkg.resetLow then t else .bypass) s

def idcodeValue : Word := 0x1076854B

def execBypass (s : State) : Res := .next (loadTap .bypass s)
def execIdcode (s : State) : Res := .next (if mgmtPower s then (loadTap .idcode s).emit (.idcode idcodeValue) else s)
def execSamplePreload (s : State) : Res := .next (loadTap .sample s)
def execExtest (s : State) : Res := .next (driveTap .extest s)
def execClamp (s : State) : Res := .next (driveTap .clamp s)
def execHighz (s : State) : Res := .next (driveTap .highz s)

/-- TEST_RESET reaches the test logic alone. -/
def execTestReset (s : State) : Res := .next (setPkg (fun p => { p with tap := .idcode }) s)

end Sys2Proof.Machine
end

