-- ==== Sys2Proof/Machine/Rdma.lean ====
section
/-! DEFINITION. What a peer may reach (R359 to R363): the region check, RDMA WRITE, WRITE with immediate, READ and
fetch-and-add, answered by window. -/

namespace Sys2Proof.Machine

/-! ## Regions (R359) -/

/-- Address of the region table entry that an RKEY names. [DEDUCED, log 81] -/
def regionEntry (s : State) (rkey : Word) : Nat := rgtBase s + 32 * (rkey.toNat / 2 ^ 24)

/-- Does the RKEY grant `[a, a + n)` for right `bit` (0 write, 1 read, 2 atomic), and the queue pair too? A poisoned entry
grants nothing. [DEDUCED, log 81] -/
def regionOk (s : State) (q : Qp) (rkey : Word) (a n bit : Nat) : Bool :=
  let e := regionEntry s rkey
  let x := rdNat s e 32
  !rdPoison s e 32 && nbit x 135 && bits x 160 24 = rkey.toNat % 2 ^ 24 && nbit x (128 + bit) && nbit q.access bit
    && (n = 0 || (bits x 0 48 ≤ a && a + n ≤ bits x 0 48 + bits x 64 64))

/-- The entry is read at each request. -/
def touchRegion (rkey : Word) (s : State) : State := touchReads (srcPrt 0) 0 (sectorsOf (regionEntry s rkey) 32) s

/-! ## Accesses by window (R360, Table 12-4) -/

/-- Is an access of `n` bytes at `a` aligned and a whole number of words (R8, R76)? -/
def formOk (a n : Nat) : Bool := a % 4 = 0 && n % 4 = 0

/-- Words of a byte run. -/
def wordsOf (l : List Byte) : List Word := (List.range (l.length / 4)).map (fun i => BitVec.ofNat 32 (leNat ((l.drop (4 * i)).take 4)))

def bytesOfWords (l : List Word) : List Byte := l.flatMap (fun w => leBytes 4 w.toNat)

/-- Write one part of a request. The flag: nothing was refused. -/
def writePart (o : Origin) (w : Window) (a : Nat) (d : List MByte) (s : State) : Bool × State :=
  let words := wordsOf (d.map (·.val))
  let no (source : BitVec 16) (k : Byte) : Bool × State := (false, raiseAccess o source k a s)
  match w with
  | .skein =>
    let r := writeBytes (entry o) (originFlags o) ((List.range d.length).map (fun i => (a + i, d.getD i {}))) s
    (r.2.isEmpty, r.1)
  | .doorbell => if formOk a d.length then doorbellWrites o a words s else no srcBob kACCESS_FORM
  | .regs =>
    if formOk a d.length then accessWrites o (a - regBase) words s
    else no (if blockExists (a - regBase) then src ((a - regBase) / 16777216) ((a - regBase) / 65536 % 256) else entry o) kACCESS_FORM
  | .completion => no (completionRefusal o s).2 (completionRefusal o s).1
  | .debug => no (entry o) kACCESS_MAP
  | .unmapped => no (entry o) kACCESS_MAP

/-- Write the parts in address order, ending at the first window that refuses. -/
def writeParts (o : Origin) (a0 : Nat) (d : List MByte) : List (Window × Nat × Nat) → State → Bool × State
  | [], s => (true, s)
  | (w, a, n) :: r, s =>
    match writePart o w a ((d.drop (a - a0)).take n) s with
    | (true, t) => writeParts o a0 d r t
    | (false, t) => (false, t)

/-- Address behind an offset of the completion window: the completion rings below 0x8000_0000 and the event ring above. [DEDUCED, log 83] -/
def completionBacking (s : State) (off n : Nat) : Option Nat :=
  if off + n ≤ 0x80000000 then some (cwinBase s + off)
  else if 0x80000000 ≤ off && off - 0x80000000 + n ≤ 32 * 2 ^ s.dst.evrLog2.toNat then some (evrBase s + (off - 0x80000000))
  else none

/-- Read `n` bytes of the completion window, whose backing in skein memory is `b`. [DEDUCED, log 83] -/
def completionRead (o : Origin) (a n : Nat) (s : State) (b : Option Nat) : Option (List RByte) × State :=
  match b with
  | some m => (some (rdBytes s m n), touchReads (entry o) (originFlags o) (sectorsOf m n) s)
  | none => (none, raiseAccess o srcBob kACCESS_MAP a s)

/-- Read one part of a request: its bytes, or nothing where the window refuses it. -/
def readPart (o : Origin) (form : Bool) (w : Window) (a n : Nat) (s : State) : Option (List RByte) × State :=
  let no (source : BitVec 16) (k : Byte) : Option (List RByte) × State := (none, raiseAccess o source k a s)
  let ofWords (r : Option (List Word) × State) : Option (List RByte) × State :=
    (r.1.map (fun ws => (bytesOfWords ws).map (fun b => { val := b })), r.2)
  match w with
  | .skein => (some (rdBytes s a n), touchReads (entry o) (originFlags o) (sectorsOf a n) s)
  | .debug => sramRead o a n s
  | .doorbell => if form then ofWords (doorbellReads o (n / 4) a s) else no srcBob kACCESS_FORM
  | .completion =>
    if !form then no srcBob kACCESS_FORM
    else if !ctlRuns s then no srcBob kACCESS_GATED
    else completionRead o a n s (completionBacking s (a - 0x020100000000) n)
  | .regs =>
    if form then ofWords (accessReads o false (n / 4) (a - regBase) s)
    else no (if blockExists (a - regBase) then src ((a - regBase) / 16777216) ((a - regBase) / 65536 % 256) else entry o) kACCESS_FORM
  | .unmapped => no (entry o) kACCESS_MAP

/-- Read the parts of one packet. [DEDUCED, log 80] -/
def readParts (o : Origin) (form : Bool) : List (Window × Nat × Nat) → State → Option (List RByte) × State
  | [], s => (some [], s)
  | (w, a, n) :: r, s =>
    match readPart o form w a n s with
    | (none, t) => (none, t)
    | (some b, t) =>
      match readParts o form r t with
      | (none, u) => (none, u)
      | (some c, u) => (some (b ++ c), u)

/-! ## Requests -/

/-- A queue pair that takes requests: RC, in RTS, its port passing frames. [DEDUCED, log 82] -/
def takesRequests (s : State) (n : Nat) : Bool := (s.qp n).state = 3 && !(s.qp n).ud && portUp s (s.qp n).port

/-- Answer a request, unless the request itself has taken the queue pair or its port out of service. [DEDUCED, log 79] -/
def reply (n : Nat) (o : Pkt) (s : State) : State := if takesRequests s n then answer n o s else s

/-- A request is done: acknowledged, with its PSNs taken. -/
def acceptReq (n k : Nat) (o : Pkt) (s : State) : State :=
  if takesRequests s n then answer n o (expectPsn n k s) else s

/-- The port through which a queue pair's accesses enter. -/
def qpOrigin (s : State) (n : Nat) : Origin := .host (BitVec.ofNat 5 (s.qp n).port)

/-- The end of a request that was taken in as `s`: what it raised carries the flag of its port (R379). [DEDUCED, log 30] [DEDUCED, log 82] -/
def endRequest (n : Nat) (s t : State) : State := clearStruck (tagNew (originFlags (qpOrigin s n)) s t)

/-- Take in the packets of a request, with the parity errors of the port's buffer. An RC operation on a UD queue pair is an
unsupported frame. [DEDUCED, log 85] -/
def takeIn (n k : Nat) (ing : Ingress) (hits : List Hit) (s : State) : Option State :=
  if takesRequests s n then
    match ingress n k ing s with
    | (s1, true) => some (noteHits perrReg hits s1)
    | (_, false) => none
  else none

/-- What is left of a request that was not taken in. [DEDUCED, log 79] -/
def turnedAway (n k : Nat) (ing : Ingress) (s : State) : State :=
  let q := s.qp n
  if takesRequests s n then (ingress n k ing s).1
  else if q.state = 3 && portUp s q.port then (rxFrames q.port k s).count (rPrt q.port 0x54) 1
  else s

/-- The data of a write, poisoned where the port's buffer was struck. -/
def arrivedBytes (s : State) (a : Nat) (d : List Byte) : List MByte :=
  (List.range d.length).map (fun i => { val := d.getD i 0, poison := s.struck.any (fun h => onRead h && strikes h (a + i)) })

/-- The region check and the write. The flag: performed whole. [DEDUCED, log 80] -/
def performWrite (n : Nat) (rkey : Word) (a : Nat) (d : List Byte) (s : State) : Bool × State :=
  let ok := regionOk s (s.qp n) rkey a d.length 0
  let s1 := touchRegion rkey s
  if ok then writeParts (qpOrigin s n) a (arrivedBytes s1 a d) (partsOf a d.length) s1 else (false, s1)

/-- What answers a write request: `done` where it was performed whole, NAK Remote Access Error otherwise (R359, R360). [DEDUCED, log 30] -/
def answerWrite (n : Nat) (done : State → State) (r : Bool × State) : State :=
  if r.1 then done r.2 else reply n (.nakAccess (BitVec.ofNat 16 n)) r.2

/-- RDMA_WRITE. -/
def execRdmaWrite (qpn : BitVec 16) (rkey : Word) (a : Addr) (data : List Byte) (ing : Ingress) (hits : List Hit)
    (s : State) : Res :=
  let n := qpn.toNat
  let k := packetsOf (s.qp n) data.length
  match takeIn n k ing hits s with
  | none => .next (turnedAway n k ing s)
  | some s1 =>
    .next (endRequest n s1 (answerWrite n (acceptReq n k (.rdmaAck qpn)) (performWrite n rkey a.toNat data s1)))

/-- The immediate is presented as a write of DB_PROD on a host queue pair that is bound to a bobbin (R362). [DEDUCED, log 82] -/
def presentImm (n k : Nat) (imm : Word) (s : State) : State :=
  let q := s.qp n
  let qpn := BitVec.ofNat 16 n
  if q.bobEn && !q.dex && 16 ≤ q.port then
    match doorbellWrite (qpOrigin s n) (dbAddr q.bobbin.toNat 0) imm s with
    | (true, t) => acceptReq n k (.rdmaAck qpn) t
    | (false, t) => reply n (.nakAccess qpn) t
  else reply n (.nakInvalid qpn) s

/-- RDMA_WRITE_IMM. -/
def execRdmaWriteImm (qpn : BitVec 16) (rkey : Word) (a : Addr) (data : List Byte) (imm : Word) (ing : Ingress)
    (hits : List Hit) (s : State) : Res :=
  let n := qpn.toNat
  let k := packetsOf (s.qp n) data.length
  match takeIn n k ing hits s with
  | none => .next (turnedAway n k ing s)
  | some s1 =>
    .next (endRequest n s1 (answerWrite n (fun t => if takesRequests t n then presentImm n k imm t else t)
      (performWrite n rkey a.toNat data s1)))

/-! ## READ (R363) -/

/-- Packets of a READ response: start and length of each. -/
def readPackets (mtu a n : Nat) : List (Nat × Nat) :=
  if n = 0 then [(a, 0)] else (List.range (ceilDiv n mtu)).map (fun i => (a + i * mtu, min mtu (n - i * mtu)))

/-- Poison that a port meets is consumed there: the message names the first poisoned byte of the packet (R333). [DEDUCED, log 81] -/
def notePoison (o : Origin) (port a : Nat) (l : List RByte) (s : State) : State :=
  match findIdx l.length (fun i => (l.getD i {}).poison && !(l.getD i {}).err) with
  | some i => sendMsg { source := srcPrt port, kind := kPOISON_CONSUMED, flags := originFlags o, addr := BitVec.ofNat 48 (a + i) } none s
  | none => s

/-- Send the packets of a READ, up to the first that would carry poison or that a window refuses. [DEDUCED, log 80] -/
def sendRead (n : Nat) (o : Origin) (form : Bool) : List (Nat × Nat) → State → State
  | [], s => s
  | (a, k) :: r, s =>
    match readParts o form (partsOf a k) s with
    | (none, t) => reply n (.nakAccess (BitVec.ofNat 16 n)) t
    | (some b, t) =>
      if b.any (·.poison) then reply n (.nakAccess (BitVec.ofNat 16 n)) (notePoison o (s.qp n).port a b t)
      else sendRead n o form r (acceptReq n 1 (.rdmaData (BitVec.ofNat 16 n) (b.map (·.val))) t)

/-- RDMA_READ. -/
def execRdmaRead (qpn : BitVec 16) (rkey : Word) (a : Addr) (len : Nat) (ing : Ingress) (hits : List Hit) (s : State) : Res :=
  let n := qpn.toNat
  match takeIn n 1 ing hits s with
  | none => .next (turnedAway n 1 ing s)
  | some s1 =>
    let q := s1.qp n
    let ok := regionOk s1 q rkey a.toNat len 1
    let s2 := touchRegion rkey s1
    .next (endRequest n s1 (
      if ok then sendRead n (qpOrigin s1 n) (formOk a.toNat len) (readPackets (mtuBytes q.pmtu) a.toNat len) s2
      else reply n (.nakAccess qpn) s2))

/-! ## Fetch-and-add (R361) -/

/-- The atomic at the controller: the old value, or none where the word may not be used. -/
def atomicAdd (f : Byte) (a : Nat) (operand : BitVec 64) (s : State) : Option (BitVec 64) × State :=
  let sec := a / 32
  match sectorRefusal s a with
  | some k => (none, errorResponse (srcPrt 0) f (sec * 32) k s)
  | none =>
    match classify (s.errOf sec) with
    | .poison => (none, s.count (rSkn (sknOf a) 0x0C) 1)
    | .bad => (none, uncorrectable kUE_READ (sknOf a) sec s)
    | _ =>
      let old := BitVec.ofNat 64 (rdNat s a 8)
      let new := leBytes 8 (old + operand).toNat
      (some old, (writeBytes (srcPrt 0) f ((List.range 8).map (fun i => (a + i, { val := new.getD i 0 }))) s).1)

/-- FETCH_AND_ADD. -/
def execFetchAndAdd (qpn : BitVec 16) (rkey : Word) (a : Addr) (operand : BitVec 64) (ing : Ingress) (s : State)
    (hits : List Hit := []) : Res :=
  let n := qpn.toNat
  match takeIn n 1 ing hits s with
  | none => .next (turnedAway n 1 ing s)
  | some s1 =>
    let ok := regionOk s1 (s1.qp n) rkey a.toNat 8 2
    let s2 := touchRegion rkey s1
    .next (endRequest n s1 (
      if !ok then reply n (.nakAccess qpn) s2
      else if !populated a.toNat || a.toNat % 8 ≠ 0 then reply n (.nakInvalid qpn) s2
      else
        match atomicAdd (originFlags (qpOrigin s2 n)) a.toNat operand s2 with
        | (some old, t) => acceptReq n 1 (.atomicAck qpn old) t
        | (none, t) => reply n (.nakAccess qpn) t))

end Sys2Proof.Machine
end

