-- ==== Sys2Proof/Machine/Dispatch.lean ====
section
/-! DEFINITION. Which meaning each command has: one arm per row of the opcode table. -/

namespace Sys2Proof.Machine

def exec (i : Instr) (s : State) : Host.Outcome State Fault Refusal :=
  match i with
  | .nop b => Sys2Proof.Machine.execNop b s
  | .release b => Sys2Proof.Machine.execRelease b s
  | .barrierSet b => Sys2Proof.Machine.execBarrierSet b s
  | .phaseClose b => Sys2Proof.Machine.execPhaseClose b s
  | .imageStart b => Sys2Proof.Machine.execImageStart b s
  | .imageUnload => Sys2Proof.Machine.execImageUnload s
  | .imageLoadComplete => Sys2Proof.Machine.execImageLoadComplete s
  | .spnStage p hits => Sys2Proof.Machine.execSpnStage p hits s
  | .spnMma p hits => Sys2Proof.Machine.execSpnMma p hits s
  | .spnSlotDiscard p => Sys2Proof.Machine.execSpnSlotDiscard p s
  | .crdGather k hits => Sys2Proof.Machine.execCrdGather k hits s
  | .crdScatter k hits => Sys2Proof.Machine.execCrdScatter k hits s
  | .crdSpmm k hits => Sys2Proof.Machine.execCrdSpmm k hits s
  | .expSelect k hits => Sys2Proof.Machine.execExpSelect k hits s
  | .expFanout k hits => Sys2Proof.Machine.execExpFanout k hits s
  | .expDispatch k hits => Sys2Proof.Machine.execExpDispatch k hits s
  | .expAssign k hits => Sys2Proof.Machine.execExpAssign k hits s
  | .expCombine k hits => Sys2Proof.Machine.execExpCombine k hits s
  | .expPrefetch k hits => Sys2Proof.Machine.execExpPrefetch k hits s
  | .trnLscale k hits => Sys2Proof.Machine.execTrnLscale k hits s
  | .optAdamw k hits => Sys2Proof.Machine.execOptAdamw k hits s
  | .optSgdm k hits => Sys2Proof.Machine.execOptSgdm k hits s
  | .flyNormFwd f hits => Sys2Proof.Machine.execFlyNormFwd f hits s
  | .flyNormBwd f hits => Sys2Proof.Machine.execFlyNormBwd f hits s
  | .flyNormPgrad f hits => Sys2Proof.Machine.execFlyNormPgrad f hits s
  | .flySmaxMerge f hits => Sys2Proof.Machine.execFlySmaxMerge f hits s
  | .flySmaxFwd f hits => Sys2Proof.Machine.execFlySmaxFwd f hits s
  | .flySmaxBwd f hits => Sys2Proof.Machine.execFlySmaxBwd f hits s
  | .flyStatsFree f => Sys2Proof.Machine.execFlyStatsFree f s
  | .plyReduce hits => Sys2Proof.Machine.execPlyReduce hits s
  | .plyGather hits => Sys2Proof.Machine.execPlyGather hits s
  | .plyVerdict => Sys2Proof.Machine.execPlyVerdict s
  | .plyBarrier => Sys2Proof.Machine.execPlyBarrier s
  | .plyOrtho hits => Sys2Proof.Machine.execPlyOrtho hits s
  | .plyLrSeed => Sys2Proof.Machine.execPlyLrSeed s
  | .cpyPermute k hits => Sys2Proof.Machine.execCpyPermute k hits s
  | .dbProdWrite b v => Sys2Proof.Machine.execDbProdWrite b v s
  | .dbCqHeadWrite b v => Sys2Proof.Machine.execDbCqHeadWrite b v s
  | .enable b => Sys2Proof.Machine.execEnable b s
  | .disable b => Sys2Proof.Machine.execDisable b s
  | .fetchBurst => Sys2Proof.Machine.execFetchBurst s
  | .burstArrival b hits => Sys2Proof.Machine.execBurstArrival b hits s
  | .dispatch b => Sys2Proof.Machine.execDispatch b s
  | .agePromotion b => Sys2Proof.Machine.execAgePromotion b s
  | .runSizeResolve b => Sys2Proof.Machine.execRunSizeResolve b s
  | .engineCompletion u => Sys2Proof.Machine.execEngineCompletion u s
  | .spareSwapTimeout => Sys2Proof.Machine.execSpareSwapTimeout s
  | .watchdogExpiry b => Sys2Proof.Machine.execWatchdogExpiry b s
  | .plyWatchExpiry j => Sys2Proof.Machine.execPlyWatchExpiry j s
  | .readyIncrement k => Sys2Proof.Machine.execReadyIncrement k s
  | .indDataWrite v => Sys2Proof.Machine.execIndDataWrite v s
  | .ctxReset c => Sys2Proof.Machine.execCtxReset c s
  | .trnDataWrite v => Sys2Proof.Machine.execTrnDataWrite v s
  | .journalEnable v => Sys2Proof.Machine.execJournalEnable v s
  | .arm v => Sys2Proof.Machine.execArm v s
  | .resume v => Sys2Proof.Machine.execResume v s
  | .skeinRead src a len upsets => Sys2Proof.Machine.execSkeinRead src a len upsets s
  | .skeinWrite src a data => Sys2Proof.Machine.execSkeinWrite src a data s
  | .bucketLeak k => Sys2Proof.Machine.execBucketLeak k s
  | .scrubGranule k upsets => Sys2Proof.Machine.execScrubGranule k upsets s
  | .fenceWrite o k j v nvmErr => Sys2Proof.Machine.execFenceWrite o k j v nvmErr s
  | .fetchStart k => Sys2Proof.Machine.execFetchStart k s
  | .fetchComplete k gid data ing => Sys2Proof.Machine.execFetchComplete k gid data s ing
  | .fetchTimeout k gid => Sys2Proof.Machine.execFetchTimeout k gid s
  | .writeBackComplete k gid ing => Sys2Proof.Machine.execWriteBackComplete k gid s ing
  | .reduce m => Sys2Proof.Machine.execReduce m s
  | .prescaleUp m => Sys2Proof.Machine.execPrescaleUp m s
  | .prescaleDown m => Sys2Proof.Machine.execPrescaleDown m s
  | .sum m => Sys2Proof.Machine.execSum m s
  | .gather m => Sys2Proof.Machine.execGather m s
  | .verdictUp m => Sys2Proof.Machine.execVerdictUp m s
  | .verdictDown m => Sys2Proof.Machine.execVerdictDown m s
  | .barrier m => Sys2Proof.Machine.execBarrier m s
  | .fetchNote m => Sys2Proof.Machine.execFetchNote m s
  | .wbNote m => Sys2Proof.Machine.execWbNote m s
  | .replayHold m => Sys2Proof.Machine.execReplayHold m s
  | .echoReq m => Sys2Proof.Machine.execEchoReq m s
  | .echoRsp m => Sys2Proof.Machine.execEchoRsp m s
  | .rdmaWrite qpn rkey a data ing hits => Sys2Proof.Machine.execRdmaWrite qpn rkey a data ing hits s
  | .rdmaWriteImm qpn rkey a data imm ing hits => Sys2Proof.Machine.execRdmaWriteImm qpn rkey a data imm ing hits s
  | .rdmaRead qpn rkey a len ing hits => Sys2Proof.Machine.execRdmaRead qpn rkey a len ing hits s
  | .fetchAndAdd qpn rkey a operand ing hits => Sys2Proof.Machine.execFetchAndAdd qpn rkey a operand ing s hits
  | .unsupportedFrame n f => Sys2Proof.Machine.execUnsupportedFrame n f s
  | .pfcXoff n cls => Sys2Proof.Machine.execPfcXoff n cls s
  | .pfcXon n cls lapse => Sys2Proof.Machine.execPfcXon n cls lapse s
  | .pfcStorm n cls => Sys2Proof.Machine.execPfcStorm n cls s
  | .cnp qpn => Sys2Proof.Machine.execCnp qpn s
  | .ccPeriod qpn => Sys2Proof.Machine.execCcPeriod qpn s
  | .ackTimeout qpn => Sys2Proof.Machine.execAckTimeout qpn s
  | .nakReceived qpn kind ing => Sys2Proof.Machine.execNakReceived qpn kind s ing
  | .qpLoad o qpn => Sys2Proof.Machine.execQpLoad o qpn s
  | .qpCmdError o qpn => Sys2Proof.Machine.execQpCmdError o qpn s
  | .qpReset o qpn => Sys2Proof.Machine.execQpReset o qpn s
  | .qpRearm o qpn => Sys2Proof.Machine.execQpRearm o qpn s
  | .linkDown n ticks => Sys2Proof.Machine.execLinkDown n s ticks
  | .linkUp n => Sys2Proof.Machine.execLinkUp n s
  | .arpRequest v6 target mac ip fec => Sys2Proof.Machine.execArpRequest v6 target mac ip s fec
  | .regRead m => Sys2Proof.Machine.execRegRead m s
  | .regWrite m => Sys2Proof.Machine.execRegWrite m s
  | .telemRead m => Sys2Proof.Machine.execTelemRead m s
  | .nvmRead m => Sys2Proof.Machine.execNvmRead m s
  | .nvmErase m => Sys2Proof.Machine.execNvmErase m s
  | .nvmProgram m => Sys2Proof.Machine.execNvmProgram m s
  | .noticeTimeout => Sys2Proof.Machine.execNoticeTimeout s
  | .getVersion r => Sys2Proof.Machine.execGetVersion s r
  | .getCapabilities r => Sys2Proof.Machine.execGetCapabilities s r
  | .negotiateAlgorithms r => Sys2Proof.Machine.execNegotiateAlgorithms s r
  | .getDigests r => Sys2Proof.Machine.execGetDigests s r
  | .getCertificate slot offset len r => Sys2Proof.Machine.execGetCertificate slot offset len s r
  | .challenge slot nonce r => Sys2Proof.Machine.execChallenge slot nonce s r
  | .getMeasurements index signed nonce r => Sys2Proof.Machine.execGetMeasurements index signed nonce s r
  | .chunkGet handle chunk r => Sys2Proof.Machine.execChunkGet handle chunk s r
  | .vendorDefinedRequest standard vid payload r => Sys2Proof.Machine.execVendorDefinedRequest standard vid payload s r
  | .smbSetOffset v => Sys2Proof.Machine.execSmbSetOffset v s
  | .smbBlockRead => Sys2Proof.Machine.execSmbBlockRead s
  | .smbAlertResponse => Sys2Proof.Machine.execSmbAlertResponse s
  | .bypass => Sys2Proof.Machine.execBypass s
  | .idcode => Sys2Proof.Machine.execIdcode s
  | .samplePreload => Sys2Proof.Machine.execSamplePreload s
  | .extest => Sys2Proof.Machine.execExtest s
  | .clamp => Sys2Proof.Machine.execClamp s
  | .highz => Sys2Proof.Machine.execHighz s
  | .testReset => Sys2Proof.Machine.execTestReset s
  | .faultMessage hits => Sys2Proof.Machine.execFaultMessage s hits
  | .dstStatusClear o v => Sys2Proof.Machine.execDstStatusClear o v s
  | .evrBaseWrite o hi v => Sys2Proof.Machine.execEvrBaseWrite o hi v s
  | .evrCfgWrite o v => Sys2Proof.Machine.execEvrCfgWrite o v s
  | .kindCfgWrite o win v => Sys2Proof.Machine.execKindCfgWrite o win v s
  | .retire o w v nvmErr => Sys2Proof.Machine.execRetire o w v nvmErr s
  | .returnFromRepair o w v nvmErr => Sys2Proof.Machine.execReturnFromRepair o w v nvmErr s
  | .gateWrite o w v => Sys2Proof.Machine.execGateWrite o w v s
  | .sleepWrite o w v => Sys2Proof.Machine.execSleepWrite o w v s
  | .sleepEntry u => Sys2Proof.Machine.execSleepEntry u s
  | .wake u => Sys2Proof.Machine.execWake u s
  | .unitReset o w v => Sys2Proof.Machine.execUnitReset o w v s
  | .unitResetDone u => Sys2Proof.Machine.execUnitResetDone u s
  | .issueWrite o v => Sys2Proof.Machine.execIssueWrite o v s
  | .runSet o j v => Sys2Proof.Machine.execRunSet o j v s
  | .runClr o j v => Sys2Proof.Machine.execRunClr o j v s
  | .spareWrite o v => Sys2Proof.Machine.execSpareWrite o v s
  | .devReset o v => Sys2Proof.Machine.execDevReset o v s
  | .fmStart o v => Sys2Proof.Machine.execFmStart o v s
  | .fmDone count => Sys2Proof.Machine.execFmDone count s
  | .driftWindow count => Sys2Proof.Machine.execDriftWindow count s
  | .clockMonitorReset => Sys2Proof.Machine.execClockMonitorReset s
  | .resetPin => Sys2Proof.Machine.execResetPin s
  | .powerOn => Sys2Proof.Machine.execPowerOn s
  | .powerDown => Sys2Proof.Machine.execPowerDown s
  | .vrFault rail => Sys2Proof.Machine.execVrFault rail s
  | .powerTrip rail => Sys2Proof.Machine.execPowerTrip rail s
  | .regulatorRestart => Sys2Proof.Machine.execRegulatorRestart s
  | .whorlPeriod m => Sys2Proof.Machine.execWhorlPeriod m s
  | .thermtripRelease m => Sys2Proof.Machine.execThermtripRelease m s
  | .flowLow => Sys2Proof.Machine.execFlowLow s
  | .flowRestored => Sys2Proof.Machine.execFlowRestored s
  | .retiredSleep u => Sys2Proof.Machine.execRetiredSleep u s
  | .tabDataWrite o v => Sys2Proof.Machine.execTabDataWrite o v s
  | .bootStart e => Sys2Proof.Machine.execBootStart e s
  | .clockStabilityWindow count => Sys2Proof.Machine.execClockStabilityWindow count s
  | .bootReady => Sys2Proof.Machine.execBootReady s
  | .bootFail => Sys2Proof.Machine.execBootFail s
  | .rwpWrite o a v nvmErr => Sys2Proof.Machine.execRwpWrite o a v nvmErr s
  | .telemetryCopy => Sys2Proof.Machine.execTelemetryCopy s
  | .lifeDaysTick => Sys2Proof.Machine.execLifeDaysTick s
  | .fuseProgram o v => Sys2Proof.Machine.execFuseProgram o v s
  | .fuseRevoke o v => Sys2Proof.Machine.execFuseRevoke o v s
  | .fuseDone => Sys2Proof.Machine.execFuseDone s
  | .rcCounterRead o a => Sys2Proof.Machine.execRcCounterRead o a s
  | .registerWrite o a v => Sys2Proof.Machine.execRegisterWrite o a v s
  | .acknowledgement qpn ing => Sys2Proof.Machine.execAcknowledgement qpn s ing
  | .pfcXoffRepeat n cls occupancy => Sys2Proof.Machine.execPfcXoffRepeat n cls s occupancy
  | .nextHopAnswer mac fec => Sys2Proof.Machine.execNextHopAnswer mac s fec
  | .strayMessage m => Sys2Proof.Machine.execStrayMessage m s
  | .spdmUnsupportedRequest code r => Sys2Proof.Machine.execSpdmUnsupportedRequest code s r
  | .smbOtherCommand code => Sys2Proof.Machine.execSmbOtherCommand code s
  | .resetPinRelease => Sys2Proof.Machine.execResetPinRelease s
  | .coreReferencePresent => Sys2Proof.Machine.execCoreReferencePresent s

end Sys2Proof.Machine
end

