-- ==== Sys2Proof/Machine/Tick.lean ====
section
/-! DEFINITION. What passes of itself: one management tick, four control-island cycles (R402, R418). -/

namespace Sys2Proof.Machine

/-- One management tick with no command: waiting heads are noted (R65, R285), flyers run their internal frees (R263), the boot
NVM and the skeins that train go on (R339, R436, R438), and the counts of time advance. TICK and TIME run from steps 5 and 6 of Table 14-3. [DESIGN CHOICE, log 1] [DESIGN CHOICE, log 7] -/
def managementTick (s0 : State) : State :=
  let s := skeinTick (nvmTick ([0, 1, 2, 3].foldl (fun s f => runFrees f s) (noteHeads s0)))
  { s with tick := if s.onRoot then (s.tick + 1) % 2 ^ 48 else s.tick
           cyc := if s.clocksOn then (s.cyc + 4) % 2 ^ 48 else s.cyc
           wall := s.wall + 1 }

end Sys2Proof.Machine
end

