-- ==== Sys2Proof/Machine/Step.lean ====
section
/-! DEFINITION. One step: the command at the front of the queue takes effect; with none waiting, one management tick
passes. -/

namespace Sys2Proof.Machine

/-- One step of the part. [DESIGN CHOICE, log 1] [DESIGN CHOICE, log 104] -/
def step (s : State) : Host.Outcome State Fault Refusal :=
  match s.pending with
  | [] => .next (managementTick s)
  | c :: r => exec c { s with pending := r }

/-- `s` with the command that the word spells at the front of its queue. [DESIGN CHOICE, log 4] -/
def State.withFetchWord (s : State) (nbits w : Nat) : State :=
  match decodeTableWord nbits w with
  | some c => { s with pending := c :: s.pending }
  | none => s

end Sys2Proof.Machine
end

