-- ==== Sys2Proof/Safety.lean ====
section
/-! DEFINITION. What a safe run is, and the words in which statements say what a command leaves unchanged. -/

namespace Sys2Proof.Machine

/-- The pieces of state, one for each field of `State`. -/
inductive Piece where
  | pending | tick | wall | cyc | free | ids | reg | mem | errs | skn | dst | gate | pend | rstBusy | sleepReq
  | asleep | wakeAt | run | spare | spareReq | ready | bobs | turns | fetchTurns | barriers | barrierAt | holds
  | epochs | ports | sched | reports | seqs | rwp | wear | retireWait | cause | pllLock | spread | onRoot | clocksOn
  | fmRun | fmDone | fmResult | driftOdd | monLast | fmt | spn | fly | curves | struck | images | imgState | loading
  | loadCtx | loadResult | loadAddr | planCache | lastRun | lastBucket | ctxs | trns | lsInit | qps | prts | qpResult
  | crds | ply | nvm | ndy | fuses | whl | pkg | out
deriving DecidableEq, Repr

/-- Two states agree on one piece. -/
def SameAt (p : Piece) (s t : State) : Prop :=
  match p with
  | .pending => t.pending = s.pending
  | .tick => t.tick = s.tick
  | .wall => t.wall = s.wall
  | .cyc => t.cyc = s.cyc
  | .free => t.free = s.free
  | .ids => t.ids = s.ids
  | .reg => t.reg = s.reg
  | .mem => t.mem = s.mem
  | .errs => t.errs = s.errs
  | .skn => t.skn = s.skn
  | .dst => t.dst = s.dst
  | .gate => t.gate = s.gate
  | .pend => t.pend = s.pend
  | .rstBusy => t.rstBusy = s.rstBusy
  | .sleepReq => t.sleepReq = s.sleepReq
  | .asleep => t.asleep = s.asleep
  | .wakeAt => t.wakeAt = s.wakeAt
  | .run => t.run = s.run
  | .spare => t.spare = s.spare
  | .spareReq => t.spareReq = s.spareReq
  | .ready => t.ready = s.ready
  | .bobs => t.bobs = s.bobs
  | .turns => t.turns = s.turns
  | .fetchTurns => t.fetchTurns = s.fetchTurns
  | .barriers => t.barriers = s.barriers
  | .barrierAt => t.barrierAt = s.barrierAt
  | .holds => t.holds = s.holds
  | .epochs => t.epochs = s.epochs
  | .ports => t.ports = s.ports
  | .sched => t.sched = s.sched
  | .reports => t.reports = s.reports
  | .seqs => t.seqs = s.seqs
  | .rwp => t.rwp = s.rwp
  | .wear => t.wear = s.wear
  | .retireWait => t.retireWait = s.retireWait
  | .cause => t.cause = s.cause
  | .pllLock => t.pllLock = s.pllLock
  | .spread => t.spread = s.spread
  | .onRoot => t.onRoot = s.onRoot
  | .clocksOn => t.clocksOn = s.clocksOn
  | .fmRun => t.fmRun = s.fmRun
  | .fmDone => t.fmDone = s.fmDone
  | .fmResult => t.fmResult = s.fmResult
  | .driftOdd => t.driftOdd = s.driftOdd
  | .monLast => t.monLast = s.monLast
  | .fmt => t.fmt = s.fmt
  | .spn => t.spn = s.spn
  | .fly => t.fly = s.fly
  | .curves => t.curves = s.curves
  | .struck => t.struck = s.struck
  | .images => t.images = s.images
  | .imgState => t.imgState = s.imgState
  | .loading => t.loading = s.loading
  | .loadCtx => t.loadCtx = s.loadCtx
  | .loadResult => t.loadResult = s.loadResult
  | .loadAddr => t.loadAddr = s.loadAddr
  | .planCache => t.planCache = s.planCache
  | .lastRun => t.lastRun = s.lastRun
  | .lastBucket => t.lastBucket = s.lastBucket
  | .ctxs => t.ctxs = s.ctxs
  | .trns => t.trns = s.trns
  | .lsInit => t.lsInit = s.lsInit
  | .qps => t.qps = s.qps
  | .prts => t.prts = s.prts
  | .qpResult => t.qpResult = s.qpResult
  | .crds => t.crds = s.crds
  | .ply => t.ply = s.ply
  | .nvm => t.nvm = s.nvm
  | .ndy => t.ndy = s.ndy
  | .fuses => t.fuses = s.fuses
  | .whl => t.whl = s.whl
  | .pkg => t.pkg = s.pkg
  | .out => t.out = s.out

/-- `t` is `s` but for the pieces listed: the frame of a command. -/
def Unchanged (except : List Piece) (s t : State) : Prop := ∀ p, p ∉ except → SameAt p s t

/-- The sector of `a` has no physically faulty cell: what is stored in it reads as it was stored (R328). -/
def Intact (s : State) (a : Nat) : Prop := s.stuckOf (a / 32) = []

/-- Every byte of skein memory outside the addresses listed, but for sectors with faulty cells, reads as before. -/
def BytesKept (stored : List Nat) (s t : State) : Prop := ∀ a, a ∉ stored → Intact s a → (rdByte t a).val = (rdByte s a).val

/-- The last of the listed bytes for an address. -/
def lastByte (ws : List (Nat × MByte)) (a : Nat) : Option MByte := ws.foldl (fun o w => if w.1 = a then some w.2 else o) none

/-- After the bytes `ws` have been stored in `s`, each of them reads as its last value where its sector answers, and every
other byte of memory reads as before (R325, R334); sectors with faulty cells are left out (R328). -/
def StoredAs (ws : List (Nat × MByte)) (s t : State) : Prop :=
  ∀ a, Intact s a → (rdByte t a).val
    = match lastByte ws a with
      | some m => if sectorRefusal s a = none then m.val else (rdByte s a).val
      | none => (rdByte s a).val

/-- The bytes that a data phase stores from `s`: whole bytes, then elements, which keep the other bits of their bytes. -/
def Eff.stores (e : Eff) (s : State) : List (Nat × MByte) := e.writes ++ toBytes s e.elems

/-- The state in which the data phase of unit `u`'s front command begins: the parity errors of the step are noted and the
command is off its port. -/
def taken (reg : BitVec 16 → Option Nat) (u : Nat) (hs : List Hit) (s : State) : State := popPort u (noteHits reg hs s)

/-- Command `i` with opcode `op` is at the front of unit `u`'s port and the unit may take it (R38, R39, R409), its epoch is
the unit's (R75), and the run size that was resolved for it fits and is not empty (R155). -/
structure Offered (u op : Nat) (i : Issued) (s : State) : Prop where
  front : frontOf s u op = some i
  epoch : cEpoch i.cmd = s.epoch u
  fits : ∀ n b e x, i.res = .run n b e x → e = false ∧ x = false

/-- Command `i` has left unit `u`'s port, the other ports are as before, and one report tells what its data phase `e` came
to: its status by R14 (POISONED too where a parity error struck a result in the unit's SRAM) and its counts (R77). `v` is the unit the
report names, `s1` the state on which the data phase stored its bytes: they are in skein memory, and every other byte is as before. -/
structure Reported (u v : Nat) (i : Issued) (e : Eff) (s s1 t : State) : Prop where
  port : t.port u = (s.port u).drop 1
  others : ∀ w, w ≠ u → t.port w = s.port w
  report : ∃ r, t.reports = s.reports ++ [r] ∧ r.is = i ∧ r.unit = v ∧ r.ran = true ∧ r.aux = e.aux
    ∧ r.oobReads = min e.oobR 4294967295 ∧ r.oobWrites = min e.oobW 4294967295
    ∧ (r.status, r.errKind) = execStatus e.checksum
        (!e.faults.isEmpty || (cStrict i.cmd && decide (0 < e.oobR + e.oobW))
          || (e.stores s1).any (fun w => (sectorRefusal s1 w.1).isSome))
        e.nonFin (e.poison.isSome || e.marked || struckInSram s1 (e.stores s1))
  memory : StoredAs (e.stores s1) s t

/-- No carder changes but carder `k`, and that one only in what lies in its SRAM (R171). -/
def OnlySram (k : Nat) (s t : State) : Prop :=
  ∀ n, t.crd n = { s.crd n with sram := (t.crd n).sram } ∧ (n ≠ k → t.crd n = s.crd n)

/-- The queues of junction 3 hold what they held, and the rest of the distaff is unchanged. -/
def SameDistaff (s t : State) : Prop :=
  t.dst = { s.dst with queues := t.dst.queues } ∧ ∀ k, mget t.dst.queues k [] = mget s.dst.queues k []

/-- The completion `d` has been made and no phase closed: the record is counted and stored at its slot (R77; where a journal entry
is open, its record is stored as well), the bobbin's outstanding count falls where the command had been dispatched and a draining
bobbin that holds none is disabled (R50), the barrier rises by R67, the hold bit is set by R80, DONE counts by R72. -/
structure Completed (d : Done) (s t : State) : Prop where
  tail : (t.bob d.is.bobbin.toNat).tail = (s.bob d.is.bobbin.toNat).tail + 1
  head : (t.bob d.is.bobbin.toNat).head = (s.bob d.is.bobbin.toNat).head
  queue : (t.bob d.is.bobbin.toNat).queue = (s.bob d.is.bobbin.toNat).queue
  outstanding : (t.bob d.is.bobbin.toNat).outstanding
    = if d.dispatched then (s.bob d.is.bobbin.toNat).outstanding - 1 else (s.bob d.is.bobbin.toNat).outstanding
  state : (t.bob d.is.bobbin.toNat).state
    = if (s.bob d.is.bobbin.toNat).state = .draining ∧ (t.bob d.is.bobbin.toNat).outstanding = 0 then .disabled
      else (s.bob d.is.bobbin.toNat).state
  others : ∀ w, w ≠ d.is.bobbin.toNat → t.bob w = s.bob w
  signal : ∀ k, t.barrier k
    = if cSignalEn d.is.cmd = true ∧ signals d.status d.kind = true ∧ k = cSignal d.is.cmd then s.barrier k + 1 else s.barrier k
  hold : ∀ g, t.hold g
    = if d.holds = true ∧ cHoldTag d.is.cmd ≠ 0 ∧ holdsTag d.status d.kind = true ∧ g = cHoldTag d.is.cmd then true else s.hold g
  done : ∀ c, (t.ctx c).done
    = if c = bobCtx s d.is.bobbin.toNat ∧ d.counts = true ∧ cPhase d.is.cmd ≠ phNone ∧ posDiff s c d.is.cmd = 0
      then (s.ctx c).done + 1 else (s.ctx c).done
  record : (s.trn (bobCtx s d.is.bobbin.toNat)).jopen = none →
    StoredAs ((List.range 32).map (fun j =>
      (recordAddr s d.is.bobbin.toNat (s.bob d.is.bobbin.toNat) (s.bob d.is.bobbin.toNat).tail.toNat + j,
       { val := ((d.rec_ s).bytes s.cyc
           (recordGen (s.bob d.is.bobbin.toNat) (s.bob d.is.bobbin.toNat).tail.toNat)).getD j 0 }))) s t

/-- The fault message `m` has entered its source's queue of eight at junction 3, with the DROPPED flag where one was lost before
it; or the queue was full and it is lost (R380). The other queues hold what they held. -/
def Sent (m : Msg) (charge : Option Nat) (s t : State) : Prop :=
  mget t.dst.queues m.source.toNat []
      = (if (mget s.dst.queues m.source.toNat []).length < 8 then
          mget s.dst.queues m.source.toNat [] ++ [{ msg := if mget s.dst.dropped m.source.toNat false then
            { m with flags := m.flags ||| flagDropped } else m, charge := charge }]
        else mget s.dst.queues m.source.toNat [])
    ∧ mget t.dst.dropped m.source.toNat false = decide (8 ≤ (mget s.dst.queues m.source.toNat []).length)
    ∧ ∀ k, k ≠ m.source.toNat →
      mget t.dst.queues k [] = mget s.dst.queues k [] ∧ mget t.dst.dropped k false = mget s.dst.dropped k false

/-- The distaff is `d`, as far as one can read it: each queue of junction 3 holds what `d`'s holds. -/
def DistaffIs (d : Distaff) (t : State) : Prop :=
  t.dst = { d with queues := t.dst.queues } ∧ ∀ k, mget t.dst.queues k [] = mget d.queues k []

/-- A write by `o` of the register at offset `a` reaches it: the access enters and the register's block answers (R8, R12, R34). -/
def Reaches (o : Origin) (a : Nat) (s : State) : Prop := enters o a s = true ∧ reachRefusal o a s = none

/-- The write of the register at offset `a` by `o` was refused with ACCESS_REFUSED: the message is sent and nothing else changes
(R9, R10, R379). -/
def Refused (o : Origin) (a : Nat) (s t : State) : Prop :=
  Sent { source := src (a / 16777216) (a / 65536 % 256), kind := kACCESS_REFUSED, flags := originFlags o
         addr := BitVec.ofNat 48 (regBase + a) } none s t ∧ Unchanged [.dst, .seqs] s t

/-- Packet `o` answers on queue pair `n`, in its class: it has left with the headers of the pair (R348), or it waits on the port
while the class is paused (R350). -/
structure Replied (n : Nat) (o : Pkt) (s t : State) : Prop where
  sent : classPaused s (s.qp n).port (s.qp n).cls = false → t.out = s.out ++ [.roce (roceHdr s n (s.qp n).cls) o]
  held : classPaused s (s.qp n).port (s.qp n).cls = true → t.out = s.out ∧ (t.prt (s.qp n).port).held
    = (s.prt (s.qp n).port).held ++ [{ cls := (s.qp n).cls, frames := 1, hdr := roceHdr s n (s.qp n).cls, pkt := o }]

/-- A device reset: every piece is as after reset, but for the persistent registers, the NVM, the fuses and the cause latch (R418,
R449), the package's own state, and the model's queue, clock, counters and record of answers, to which the package may have added. -/
structure WholeReset (cause : BitVec 3) (s t : State) : Prop where
  cleared : Unchanged [.pending, .wall, .free, .ids, .rwp, .wear, .cause, .nvm, .fuses, .pkg, .out] State.reset t
  kept : ∀ p ∈ [Piece.pending, .wall, .free, .ids, .rwp, .wear, .nvm, .fuses], SameAt p s t
  cause : t.cause = cause

/-- The management port has sent one frame and counts it; no other register changes (R375). -/
def FrameSent (s t : State) : Prop :=
  ∀ x, t.getReg x = if x = rPrt 20 0x40 then satAdd32 (s.getReg x) 1 else s.getReg x

/-- The management port has answered request `m` with status `st` and data `d`, and keeps the answer under its TAG among the last
16 (R442, R443). `s` is the state that the request met: its frame is counted and the duties due have run. -/
structure Answered (m : MgmtIn) (st : MStatus) (d : List Byte) (s t : State) : Prop where
  out : t.out = s.out ++ [.mgmt m.mac m.ip (mResponse m.frame st d)]
  tags : t.ndy.tags = (s.ndy.tags ++ [(mTag m.frame, mResponse m.frame st d)]).drop (s.ndy.tags.length + 1 - 16)

/-- Request `m` reaches a running niddy, which has not answered its TAG among the last 16, in a frame of Table 15-9. -/
structure Asked (m : MgmtIn) (s : State) : Prop where
  runs : mgmtRuns s = true
  fresh : ∀ e ∈ s.ndy.tags, e.1 ≠ mTag m.frame
  ok : mFrameOk m.frame = true

/-- The canonical form of skein memory: addresses strictly rising, and no entry that holds the zero an unlisted address
reads as. -/
def Memory.wf (m : List Host.Cell) : Bool := mapWf 0 m

/-- The canonical form of the boot NVM: no entry that holds the 0xFF of an erased byte. -/
def Nvm.wf (m : AMap Byte) : Bool := mapWf erased m

/-- What every step keeps: skein memory and NVM in canonical form, at most eight messages of a source waiting at junction 3
(R380), and the 48-bit counts of time in range (R402, R418). -/
structure Sound (s : State) : Prop where
  mem : Memory.wf s.mem = true
  nvm : Nvm.wf s.nvm = true
  queues : ∀ e ∈ s.dst.queues, e.2.length ≤ 8
  tick : s.tick < 2 ^ 48
  cyc : s.cyc < 2 ^ 48

end Sys2Proof.Machine

namespace Sys2Proof

/-- The step from `s` answers a next state. -/
def StepsOn (s : Machine.State) : Prop := ∃ t, Machine.step s = .next t

end Sys2Proof
end

