-- ==== Sys2Proof/Certificates/Slice0/Obligations.lean ====
section
/-! DEFINITION. The statements about the part, each with the rules of the spec it follows. -/

section

open Sys2Proof Sys2Proof.Machine

/-- A CRD_GATHER, CRD_SCATTER, CPY_PERMUTE or CRD_SPMM at the front of its carder's port, offered and accepted (its checks
pass, no overlap, its run size is not 0), answers a next state: the command has left the port, one report carries the status
of R14, the bytes of the copy, the permuted copy or the sparse product are in memory where their sectors answer, every other
byte of memory reads as before, no carder changes but for what lies in the SRAM of the one that runs it, and only the pieces
named change. Parity errors of CPY_PERMUTE count in the move twist's own register (Table 08-10). (R14, R75, R175, R178, R181,
R189, R190, R195, R245, R246, R247) -/
def Obligations.CarderMovesRun : Prop :=
  (∀ (k : BitVec 5) (hs : List Hit) (i : Issued) (m : MoveOpds) (c : Instr) (op : Nat) (s s0 : State),
    (c = .crdGather k hs ∧ op = 0x40) ∨ (c = .crdScatter k hs ∧ op = 0x41) →
    s0 = taken perrReg (16 + k.toNat) hs s → Offered (16 + k.toNat) op i s →
    passes (moveCheck i s0) = .ok m → moveOverlap i m s0 = false → (movRunv i.cmd = true → runSize i ≠ 0) →
    ∃ t, exec c s = .next t ∧ Reported (16 + k.toNat) (16 + cTarget i.cmd) i (moveEff i m s0) s s0 t
      ∧ OnlySram (cTarget i.cmd) s t ∧ Unchanged [.free, .reg, .mem, .errs, .skn, .dst, .ports, .reports, .seqs, .struck, .crds] s t)
  ∧ (∀ (k : BitVec 5) (hs : List Hit) (i : Issued) (m : MoveOpds) (s s0 : State),
    s0 = taken moveReg (16 + k.toNat) hs s → Offered (16 + k.toNat) 0xC0 i s →
    passes (cpyCheck i s0) = .ok m → cpyOverlap i m s0 = false → (cpyRunv i.cmd = true → runSize i ≠ 0) →
    ∃ t, exec (.cpyPermute k hs) s = .next t ∧ Reported (16 + k.toNat) (16 + cTarget i.cmd) i (cpyEff i m s0) s s0 t
      ∧ OnlySram (cTarget i.cmd) s t ∧ Unchanged [.free, .reg, .mem, .errs, .skn, .dst, .ports, .reports, .seqs, .struck, .crds] s t)
  ∧ (∀ (k : BitVec 5) (hs : List Hit) (i : Issued) (m : SpmmOpds) (s s0 : State),
    s0 = taken perrReg (16 + k.toNat) hs s → Offered (16 + k.toNat) 0x42 i s →
    passes (spmmCheck i s0) = .ok m → (spmmRunv i.cmd = true → runSize i ≠ 0) →
    ∃ t, exec (.crdSpmm k hs) s = .next t ∧ Reported (16 + k.toNat) (16 + cTarget i.cmd) i (spmmEff i m s0) s s0 t
      ∧ OnlySram (cTarget i.cmd) s t ∧ Unchanged [.free, .reg, .mem, .errs, .skn, .dst, .ports, .reports, .seqs, .struck, .crds] s t)

/-- An EXP_FANOUT, EXP_DISPATCH or EXP_COMBINE offered at its carder's port and accepted answers a next state: the records or
rows it comes to are stored, one report carries the status, every other byte of memory reads as before, and only the pieces
named change. (R14, R75, R213, R215, R216, R217, R218) -/
def Obligations.ExpertRowsRun : Prop :=
  ∀ (k : BitVec 5) (hs : List Hit) (i : Issued) (o : ExpOpds) (s s0 : State), s0 = taken perrReg (16 + k.toNat) hs s →
    (Offered (16 + k.toNat) 0x49 i s → passes (blockCheck i s0) = .ok o →
      ∃ t, exec (.expFanout k hs) s = .next t ∧ Reported (16 + k.toNat) (16 + cTarget i.cmd) i (fanoutEff i o s0) s s0 t
        ∧ OnlySram (cTarget i.cmd) s t ∧ Unchanged [.free, .reg, .mem, .errs, .skn, .dst, .ports, .reports, .seqs, .struck, .crds] s t)
    ∧ (Offered (16 + k.toNat) 0x4A i s → passes (dispatchCheck i s0) = .ok o → dispatchOverlap i o s0 = false →
      ∃ t, exec (.expDispatch k hs) s = .next t ∧ Reported (16 + k.toNat) (16 + cTarget i.cmd) i (dispatchEff i o s0).1 s s0 t
        ∧ OnlySram (cTarget i.cmd) s t ∧ Unchanged [.free, .reg, .mem, .errs, .skn, .dst, .ports, .reports, .seqs, .struck, .crds] s t)
    ∧ (Offered (16 + k.toNat) 0x4C i s → passes (combineCheck i s0) = .ok o → combineOverlap i o s0 = false →
      ∃ t, exec (.expCombine k hs) s = .next t ∧ Reported (16 + k.toNat) (16 + cTarget i.cmd) i (combineEff i o s0) s s0 t
        ∧ OnlySram (cTarget i.cmd) s t ∧ Unchanged [.free, .reg, .mem, .errs, .skn, .dst, .ports, .reports, .seqs, .struck, .crds] s t)

/-- A TRN_LSCALE, OPT_ADAMW or OPT_SGDM offered at its carder's port and accepted answers a next state: the scaled elements,
or the weights and moments of R281 to R283 (nothing where the verdict suppresses the update, R280), are stored, one report
carries the status, every other byte of memory reads as before, and only the pieces named change. (R14, R75, R280, R281,
R282, R283) -/
def Obligations.TrainingRowsRun : Prop :=
  ∀ (k : BitVec 5) (hs : List Hit) (i : Issued) (s s0 : State), s0 = taken perrReg (16 + k.toNat) hs s →
    (∀ m, Offered (16 + k.toNat) 0x50 i s → passes (lscaleOpds i.cmd s0) = .ok m → lscaleOverlap i m s0 = false →
      (lsRunv i.cmd = true → runSize i ≠ 0) →
      ∃ t, exec (.trnLscale k hs) s = .next t ∧ Reported (16 + k.toNat) (16 + cTarget i.cmd) i (lscaleEff i m s0) s s0 t
        ∧ OnlySram (cTarget i.cmd) s t ∧ Unchanged [.free, .reg, .mem, .errs, .skn, .dst, .ports, .reports, .seqs, .struck, .crds] s t)
    ∧ (∀ o c op, (c = .optAdamw k hs ∧ op = 0x51) ∨ (c = .optSgdm k hs ∧ op = 0x52) →
      Offered (16 + k.toNat) op i s → passes (optCheck i s0) = .ok o → (optRunv i.cmd = true → runSize i ≠ 0) →
      ∃ t, exec c s = .next t ∧ Reported (16 + k.toNat) (16 + cTarget i.cmd) i (optEff i o s0) s s0 t
        ∧ OnlySram (cTarget i.cmd) s t ∧ Unchanged [.free, .reg, .mem, .errs, .skn, .dst, .ports, .reports, .seqs, .struck, .crds] s t
        ∧ (optSuppressed i s0 = true → BytesKept [] s t))

/-- At a position's port, offered and accepted: SPN_STAGE answers a next state whose spindles hold the staged panels and
which stores no byte of memory; SPN_MMA one whose spindles hold the tile the instruction leaves and whose memory holds the
bytes of its drain; SPN_SLOT_DISCARD one in which the slot is FREE in the spindle that serves the position, no other spindle
and no byte of memory changes. Each leaves one report, and only the pieces named change. (R14, R75, R122, R127, R128, R131,
R133) -/
def Obligations.SpindleRowsRun : Prop :=
  ∀ (p : BitVec 4) (hs : List Hit) (i : Issued) (s s0 : State), s0 = taken perrReg p.toNat hs s →
    (∀ o, Offered p.toNat 0x10 i s → passes (stageCheck i s0) = .ok o → (stageRunv i.cmd = true → runSize i ≠ 0) →
      ∃ t, exec (.spnStage p hs) s = .next t ∧ t.spn = (stagePanels hs i o s0).spn
        ∧ Reported p.toNat (cTarget i.cmd) i (stageEff i o s0) s s0 t ∧ BytesKept [] s t ∧ Unchanged [.free, .reg, .mem, .errs, .skn, .dst, .ports,
            .reports, .seqs, .spn, .struck] s t)
    ∧ (∀ m, Offered p.toNat 0x11 i s → passes (mmaCheck i s0) = .ok m → (mmaRunv i.cmd = true → runSize i ≠ 0) →
      ∃ t, exec (.spnMma p hs) s = .next t ∧ t.spn = (mmaWork hs i m s0).2.spn ∧ t.fly = (mmaWork hs i m s0).2.fly
        ∧ Reported p.toNat (cTarget i.cmd) i (mmaWork hs i m s0).1 s (mmaWork hs i m s0).2 t ∧ Unchanged [.free, .reg, .mem, .errs, .skn, .dst,
            .ports, .reports, .seqs, .spn, .fly, .struck] s t)
    ∧ (∀ o, Offered p.toNat 0x12 i s → passes (discardCheck i (popPort p.toNat s)) = .ok o →
      ∃ t, exec (.spnSlotDiscard p) s = .next t
        ∧ mget (t.spindle (physOf s (cTarget i.cmd))).isOpen (imm i.cmd 0 6) false = false
        ∧ (∀ n, n ≠ physOf s (cTarget i.cmd) → t.spindle n = s.spindle n)
        ∧ Reported p.toNat (cTarget i.cmd) i {} s s t ∧ BytesKept [] s t ∧ Unchanged [.reg, .mem, .errs, .skn, .dst, .ports, .reports, .seqs,
            .spn] s t)

/-- A PLY_REDUCE, PLY_GATHER, PLY_VERDICT or PLY_BARRIER at the front of the plying port, of the engine's epoch, with its
checks passed, answers the next state in which the command has left the port and its data phase has begun on the rest: it is
what the active command's first messages, contributions and stores leave. Only the pieces named change, and no other port
does. (R75, R299, R302, R305, R312, R316) -/
def Obligations.PlyingCommandsStart : Prop :=
  ∀ (hs : List Hit) (i : Issued) (d : PlyCmd) (s s0 : State), s0 = taken perrReg 52 hs s →
    cEpoch i.cmd = s.epoch 52 → (∀ n b e x, i.res = .run n b e x → e = false ∧ x = false) →
    (plyFront s 0xA0 = some i → passes (blockOpCheck i s0) = .ok d →
      ∃ t, exec (.plyReduce hs) s = .next t ∧ t = clearStruck (reduceRun hs i d s0) ∧ t.port 52 = (s.port 52).drop 1
        ∧ (∀ w, w ≠ 52 → t.port w = s.port w) ∧ Unchanged [.reg, .mem, .errs, .skn, .dst, .ports, .reports, .seqs, .struck, .trns, .qps, .ply,
            .out] s t)
    ∧ (plyFront s 0xA1 = some i → passes (blockOpCheck i s0) = .ok d →
      ∃ t, exec (.plyGather hs) s = .next t ∧ t = clearStruck (gatherRun hs i d s0) ∧ t.port 52 = (s.port 52).drop 1
        ∧ (∀ w, w ≠ 52 → t.port w = s.port w) ∧ Unchanged [.reg, .mem, .errs, .skn, .dst, .ports, .reports, .seqs, .struck, .qps, .ply, .out] s t)
    ∧ (plyFront s 0xA2 = some i → hs = [] → passes (groupCheck i s0) = .ok d →
      ∃ t, exec .plyVerdict s = .next t ∧ t = clearStruck (verdictUp i.id (startPly [] d s0)) ∧ t.port 52 = (s.port 52).drop 1
        ∧ (∀ w, w ≠ 52 → t.port w = s.port w) ∧ Unchanged [.reg, .mem, .errs, .skn, .dst, .ports, .reports, .seqs, .struck, .trns, .qps, .ply,
            .out] s t)
    ∧ (plyFront s 0xA3 = some i → hs = [] → passes (barrierCheck i s0) = .ok d →
      ∃ t, exec .plyBarrier s = .next t ∧ t = clearStruck (barrierRun i d s0) ∧ t.port 52 = (s.port 52).drop 1
        ∧ (∀ w, w ≠ 52 → t.port w = s.port w) ∧ Unchanged [.reg, .mem, .errs, .skn, .dst, .barriers, .barrierAt, .ports, .reports, .seqs, .struck,
            .qps, .ply, .out] s t)

/-- A PLY_ORTHO or PLY_LR_SEED at the front of the plying port, of the engine's epoch, with its checks passed, answers a next
state: the factor tensor holds the columns made orthonormal from its elements (PLY_ORTHO) or from the seed's values
(PLY_LR_SEED); one report of the plying engine; every other byte of memory reads as before; only the pieces named change.
(R14, R75, R313, R314) -/
def Obligations.FactorCommandsRun : Prop :=
  ∀ (hs : List Hit) (i : Issued) (d : Desc) (s s0 : State), s0 = taken perrReg 52 hs s →
    cEpoch i.cmd = s.epoch 52 → (∀ n b e x, i.res = .run n b e x → e = false ∧ x = false) → passes (factorCheck i s0) = .ok d →
    (plyFront s 0xA4 = some i →
      ∃ t, exec (.plyOrtho hs) s = .next t ∧ Reported 52 52 i (factorEff hs none i.addr.toNat d s0) s s0 t ∧ Unchanged [.reg, .mem, .errs, .skn,
          .dst, .ports, .reports, .seqs, .struck] s t)
    ∧ (plyFront s 0xA5 = some i → hs = [] →
      ∃ t, exec .plyLrSeed s = .next t ∧ Reported 52 52 i (factorEff [] (some (seedOf i s0)) i.addr.toNat d s0) s s0 t
        ∧ Unchanged [.reg, .mem, .errs, .skn, .dst, .ports, .reports, .seqs, .struck] s t)

/-- An EXP_SELECT offered at its carder's port and accepted answers a next state: the command has left the port, one report
names it and carries AUX and the route, and (but in a GROUP replay, which may tell the peers) its route lists are stored on
the state that its residency lookups leave. An EXP_ASSIGN or EXP_PREFETCH so offered answers the next state in which it has
left the port and its lookups are made; where it assigns every expert at once (each has no routed token: N 0), or fetches
none (every element of its list is poisoned or names no expert of the partition), it ends with one report of the carder, AUX
0; otherwise it is the job in hand while it waits, or has ended with one report. Only the pieces named change. A carder takes
the command only where it holds no job. (R14, R75, R208, R210, R211, R229, R230, R231, R289) -/
def Obligations.ExpertSelectAndJobsRun : Prop :=
  (∀ (k : BitVec 5) (hs : List Hit) (i : Issued) (o : ExpOpds) (s s0 : State),
    s0 = taken perrReg (16 + k.toNat) hs s → Offered (16 + k.toNat) 0x48 i s → passes (selectCheck i s0) = .ok o →
    ∃ t, exec (.expSelect k hs) s = .next t ∧ t.port (16 + k.toNat) = (s.port (16 + k.toNat)).drop 1
      ∧ (∀ w, w ≠ 16 + k.toNat → t.port w = s.port w)
      ∧ (∃ l r, t.reports = l ++ [r] ∧ l.length = s.reports.length ∧ r.is = i ∧ r.unit = 16 + cTarget i.cmd ∧ r.ran = true
          ∧ r.aux = (selectEff i o s0).aux ∧ r.route = (selectAll i o s0).route)
      ∧ (inReplay s (cCtx i.cmd) 2 = false →
          StoredAs ((selectEff i o s0).stores (selectCounted i o s0)) (selectCounted i o s0) t)
      ∧ Unchanged [.free, .reg, .mem, .errs, .skn, .dst, .ports, .reports, .seqs, .struck, .trns, .qps, .crds, .out] s t)
  ∧ (∀ (k : BitVec 5) (hs : List Hit) (i : Issued) (o : ExpOpds) (s s0 : State), s0 = taken perrReg (16 + k.toNat) hs s →
    cTarget i.cmd = k.toNat → Offered (16 + k.toNat) 0x4B i s → passes (blockCheck i s0) = .ok o →
    ∃ t, exec (.expAssign k hs) s = .next t ∧ t = clearStruck (assignRun i o s0)
      ∧ t.port (16 + k.toNat) = (s.port (16 + k.toNat)).drop 1 ∧ (∀ w, w ≠ 16 + k.toNat → t.port w = s.port w)
      ∧ ((∃ j, (t.crd k.toNat).job = some j ∧ j.is = i ∧ j.assign = true ∧ j.wait ≠ [] ∧ t.reports = s.reports)
        ∨ ((t.crd k.toNat).job = none
          ∧ ∃ r, t.reports = s.reports ++ [r] ∧ r.is = i ∧ r.unit = 16 + k.toNat ∧ r.ran = true ∧ r.aux = 0))
      ∧ Unchanged [.reg, .mem, .errs, .skn, .dst, .ports, .reports, .seqs, .struck, .qps, .crds, .out] s t)
  ∧ (∀ (k : BitVec 5) (hs : List Hit) (i : Issued) (o : ExpOpds) (s s0 : State), s0 = taken perrReg (16 + k.toNat) hs s →
    cTarget i.cmd = k.toNat → Offered (16 + k.toNat) 0x4B i s → passes (blockCheck i s0) = .ok o →
    (∀ j, j < o.r.experts (expNo i.cmd) → rdNat s0 (o.r.list_ (expNo i.cmd) j) 4 = 0) →
    ∃ t, exec (.expAssign k hs) s = .next t ∧ (t.crd k.toNat).job = none
      ∧ (∃ r, t.reports = s.reports ++ [r] ∧ r.is = i ∧ r.unit = 16 + k.toNat ∧ r.ran = true ∧ r.aux = 0)
      ∧ (∀ n, n ≠ k.toNat → t.crd n = s.crd n))
  ∧ (∀ (k : BitVec 5) (hs : List Hit) (i : Issued) (o : ExpOpds) (s s0 : State), s0 = taken perrReg (16 + k.toNat) hs s →
    cTarget i.cmd = k.toNat → Offered (16 + k.toNat) 0x4D i s → passes (prefetchCheck i s0) = .ok o →
    ∃ t, exec (.expPrefetch k hs) s = .next t ∧ t = clearStruck (prefetchRun i o s0)
      ∧ t.port (16 + k.toNat) = (s.port (16 + k.toNat)).drop 1 ∧ (∀ w, w ≠ 16 + k.toNat → t.port w = s.port w)
      ∧ ((∃ j, (t.crd k.toNat).job = some j ∧ j.is = i ∧ j.assign = false ∧ j.wait ≠ [] ∧ t.reports = s.reports)
        ∨ ((t.crd k.toNat).job = none
          ∧ ∃ r, t.reports = s.reports ++ [r] ∧ r.is = i ∧ r.unit = 16 + k.toNat ∧ r.ran = true))
      ∧ Unchanged [.reg, .mem, .errs, .skn, .dst, .ports, .reports, .seqs, .struck, .qps, .crds, .out] s t)
  ∧ (∀ (k : BitVec 5) (hs : List Hit) (i : Issued) (o : ExpOpds) (s s0 : State), s0 = taken perrReg (16 + k.toNat) hs s →
    cTarget i.cmd = k.toNat → Offered (16 + k.toNat) 0x4D i s → passes (prefetchCheck i s0) = .ok o →
    (∀ j, j < o.d0.extent 0 → (readElem s0 o.d0 [j]).poison = true
      ∨ signed 32 (readElem s0 o.d0 [j]).code < (o.r.eBase + expNo i.cmd * o.r.epp : Nat)
      ∨ ((o.r.eBase + expNo i.cmd * o.r.epp + o.r.experts (expNo i.cmd) : Nat) : Int) ≤ signed 32 (readElem s0 o.d0 [j]).code) →
    ∃ t, exec (.expPrefetch k hs) s = .next t ∧ (∀ n, t.crd n = s.crd n)
      ∧ (∃ r, t.reports = s.reports ++ [r] ∧ r.is = i ∧ r.unit = 16 + k.toNat ∧ r.ran = true ∧ r.aux = 0)
      ∧ Unchanged [.reg, .mem, .errs, .skn, .dst, .ports, .reports, .seqs, .struck, .qps, .crds, .out] s t)

/-- FLY_NORM_FWD, FLY_NORM_BWD, FLY_NORM_PGRAD, FLY_SMAX_MERGE, FLY_SMAX_FWD or FLY_SMAX_BWD, offered at its flyer's port
after the internal frees that wait there (R263) and accepted, answers a next state: the statistics memory is the one the rows
leave, the rows are stored on the state they leave, one report carries the status with STATS_MISSING and STATS_FULL as
faults, and only the pieces named change. A FLY_STATS_FREE so offered leaves the flyer's directory with exactly the entries
it held but those of the command's context and step, and of its layer unless OPT is set; the other flyers keep theirs; one
report; no byte of memory changes. (R14, R75, R251, R255, R257, R258, R259, R260, R261, R263) -/
def Obligations.FlyerRowsRun : Prop :=
  (∀ (f : BitVec 2) (hs : List Hit) (i : Issued) (o : FlyOpds) (c : Instr) (op : Nat) (s s0 : State) (w : FlyAcc × State),
    (c = .flyNormFwd f hs ∧ op = 0x80) ∨ (c = .flyNormBwd f hs ∧ op = 0x81) ∨ (c = .flyNormPgrad f hs ∧ op = 0x82)
      ∨ (c = .flySmaxMerge f hs ∧ op = 0x83) ∨ (c = .flySmaxFwd f hs ∧ op = 0x84) ∨ (c = .flySmaxBwd f hs ∧ op = 0x85) →
    s0 = taken perrReg (48 + f.toNat) hs (runFrees f.toNat s) → Offered (48 + f.toNat) op i (runFrees f.toNat s) →
    passes (flyCheck i s0) = .ok o → (flyRunv i.cmd = true → runSize i ≠ 0) → w = flyWork i o (strikeFly (cTarget i.cmd) hs s0) →
    ∃ t, exec c s = .next t ∧ t.fly = w.2.fly
      ∧ Reported (48 + f.toNat) (48 + cTarget i.cmd) i (flyEff i o w.1) s w.2 t
      ∧ Unchanged [.free, .reg, .mem, .errs, .skn, .dst, .ports, .reports, .seqs, .fly, .struck] s t)
  ∧ (∀ (f : BitVec 2) (i : Issued) (o : FlyOpds) (s s1 : State), s1 = runFrees f.toNat s →
    Offered (48 + f.toNat) 0x86 i s1 → passes (flyCheck i (taken perrReg (48 + f.toNat) [] s1)) = .ok o →
    cTarget i.cmd = f.toNat →
    ∃ t, exec (.flyStatsFree f) s = .next t
      ∧ (t.flyer f.toNat).dir = (s1.flyer f.toNat).dir.filter (fun e => !statsNamed i.cmd e.2.key)
      ∧ (∀ g, g ≠ f.toNat → t.flyer g = s.flyer g)
      ∧ Reported (48 + f.toNat) (48 + f.toNat) i {} s s t ∧ BytesKept [] s t ∧ Unchanged [.free, .reg, .mem, .errs, .skn, .dst, .ports, .reports,
          .seqs, .fly, .struck] s t)

/-- Where the control plane runs and no PHASE_CLOSE waits in the bobbin's context: a dispatched NOP completes with OK; a
dispatched BARRIER_SET gives its counter the value of its IMM and completes with OK, so its own signal comes after; a checked
RELEASE for which a completion slot is free leaves the queue, clears its tag's hold bit (or counts in BOB[0] where it was
clear) and completes with OK without setting a hold bit. Only the pieces named change. Two of the events of R69 reach a
counter in this order. (R58, R63, R67, R69, R72, R77, R80) -/
def Obligations.SchedulerCommandsComplete : Prop :=
  ∀ (b : Bobbin) (s : State), ctlRuns s = true →
    (∀ i, schedFront s b.toNat opNOP = some i → (s.ctx (bobCtx s i.bobbin.toNat)).closer = none →
      ∃ t, exec (.nop b) s = .next t ∧ Completed { is := i, status := stOK } s t ∧ t.sched = s.sched.filter (fun x => x.id ≠ i.id)
        ∧ Unchanged [.sched, .ctxs, .bobs, .barriers, .barrierAt, .holds, .trns, .mem, .errs, .skn, .reg, .dst, .seqs] s t)
    ∧ (∀ i, schedFront s b.toNat opBARRIER_SET = some i → (s.ctx (bobCtx s i.bobbin.toNat)).closer = none →
      ∃ t, exec (.barrierSet b) s = .next t
        ∧ Completed { is := i, status := stOK } (s.setBarrier (imm i.cmd 0 16) (BitVec.ofNat 32 (imm i.cmd 32 32))) t
        ∧ t.sched = s.sched.filter (fun x => x.id ≠ i.id) ∧ Unchanged [.sched, .ctxs, .bobs, .barriers, .barrierAt, .holds, .trns, .mem, .errs,
            .skn, .reg, .dst, .seqs] s t)
    ∧ (∀ e, firstRelease (s.bob b.toNat) = some e → slotFree (s.bob b.toNat) = true → headFirst s (s.bob b.toNat) = false →
      e.is.bobbin = b → (s.ctx (bobCtx s b.toNat)).closer = none →
      ∃ t, exec (.release b) s = .next t ∧ t.hold (cHoldTag e.is.cmd) = false
        ∧ (t.bob b.toNat).queue = (s.bob b.toNat).queue.filter (fun q => q.is.id ≠ e.is.id)
        ∧ Completed { is := e.is, status := stOK, dispatched := false, holds := false }
            (releaseTag (cHoldTag e.is.cmd)
              (s.setBob b.toNat { s.bob b.toNat with queue := (s.bob b.toNat).queue.filter (fun q => q.is.id ≠ e.is.id) })) t
        ∧ Unchanged [.sched, .ctxs, .bobs, .barriers, .barrierAt, .holds, .trns, .mem, .errs, .skn, .reg, .dst, .seqs] s t)

/-- For every completion d and state: a command with SIGNAL_EN set raises counter SIGNAL_ID by one, mod 2^32, when it
completes with an execution status, ERROR of kind FAULT included, or with EMPTY; with any other status, and without
SIGNAL_EN, no counter changes. (R67) -/
def Obligations.CompletionSignals : Prop :=
  ∀ (jrn : Bool) (d : Done) (s : State) (k : Nat),
    ((d.status = stOK ∨ d.status = stCHECKSUM ∨ d.status = stOVERFLOW ∨ d.status = stPOISONED
        ∨ (d.status = stERROR ∧ d.kind = kindFAULT) ∨ d.status = stEMPTY) → cSignalEn d.is.cmd = true →
      (completeBase jrn d s).barrier k = if k = cSignal d.is.cmd then s.barrier k + 1 else s.barrier k)
    ∧ (¬ (d.status = stOK ∨ d.status = stCHECKSUM ∨ d.status = stOVERFLOW ∨ d.status = stPOISONED
        ∨ (d.status = stERROR ∧ d.kind = kindFAULT) ∨ d.status = stEMPTY) ∨ cSignalEn d.is.cmd = false →
      (completeBase jrn d s).barrier k = s.barrier k)

/-- A dispatched PHASE_CLOSE, where the control plane runs, no PHASE_CLOSE waits in its context and its position is current:
where DONE equals COUNT it answers the next state in which it has completed and the context's phase has advanced, DONE is
zero and no PHASE_CLOSE waits, the step count one higher when UPD closes; where DONE is below COUNT it answers the one in
which it waits in the context. Where one waits already, DONE is past COUNT or its position is not current, it is refused with
ERROR of kind CHECK and a charged PHASE_COUNT, and the context stays. (R71, R73, R74) -/
def Obligations.PhaseCloseTakesEffect : Prop :=
  ∀ (b : Bobbin) (i : Issued) (s : State), ctlRuns s = true → schedFront s b.toNat opPHASE_CLOSE = some i →
    ((s.ctx (cCtx i.cmd)).closer = none → posDiff s (cCtx i.cmd) i.cmd = 0 → (s.ctx (cCtx i.cmd)).done = imm i.cmd 0 32 →
      ∃ t, exec (.phaseClose b) s = .next t ∧ t.sched = s.sched.filter (fun x => x.id ≠ i.id)
        ∧ t.ctx (cCtx i.cmd) = { phase := nextPhase (s.ctx (cCtx i.cmd)).phase, done := 0, closer := none
                                 step := if (s.ctx (cCtx i.cmd)).phase = .upd then (s.ctx (cCtx i.cmd)).step + 1
                                   else (s.ctx (cCtx i.cmd)).step }
        ∧ (∀ c, c ≠ cCtx i.cmd → t.ctx c = s.ctx c)
        ∧ (t.bob i.bobbin.toNat).tail = (s.bob i.bobbin.toNat).tail + 1 ∧ Unchanged [.free, .reg, .mem, .errs, .skn, .dst, .gate, .pend, .spare,
            .spareReq, .bobs, .barriers, .barrierAt, .holds, .epochs, .sched, .reports, .seqs, .rwp, .wear, .spn, .fly, .ctxs, .trns, .qps, .prts,
            .crds, .nvm, .ndy, .out] s t)
    ∧ ((s.ctx (cCtx i.cmd)).closer = none → posDiff s (cCtx i.cmd) i.cmd = 0 → (s.ctx (cCtx i.cmd)).done < imm i.cmd 0 32 →
      ∃ t, exec (.phaseClose b) s = .next t ∧ t.sched = s.sched.filter (fun x => x.id ≠ i.id)
        ∧ t.ctx (cCtx i.cmd) = { s.ctx (cCtx i.cmd) with closer := some (i, imm i.cmd 0 32) }
        ∧ (∀ c, c ≠ cCtx i.cmd → t.ctx c = s.ctx c) ∧ Unchanged [.sched, .ctxs] s t)
    ∧ ((s.ctx (cCtx i.cmd)).closer.isSome = true ∨ imm i.cmd 0 32 < (s.ctx (cCtx i.cmd)).done ∨ posDiff s (cCtx i.cmd) i.cmd ≠ 0 →
      ∃ t, exec (.phaseClose b) s = .next t ∧ t.sched = s.sched.filter (fun x => x.id ≠ i.id)
        ∧ t.reports = s.reports ++ [{ is := i, unit := unitSched, status := stERROR, errKind := kindCHECK, charged := true }]
        ∧ Sent { source := srcBob, kind := kPHASE_COUNT, flags := flagCharged ||| flagParam, addr := BitVec.ofNat 48 (cCtx i.cmd) }
            (some i.id) s t
        ∧ Unchanged [.sched, .reports, .dst, .seqs] s t)

/-- Where the control plane runs and the head of the bobbin meets every condition of R62 and is the arbiter's choice:
DISPATCH answers a next state in which it is off the queue and one more command is outstanding. An engine's command has gone
to its target's port; or, for a unit that is stopped, to a report of REFUSED_GATED, else, where its plan is rejected, of
PLAN_REJECTED. A scheduler command that its plan lets run waits at the scheduler. Only the pieces named change. (R14, R38,
R62, R64) -/
def Obligations.DispatchSendsTheHead : Prop :=
  ∀ (b : Bobbin) (e : QEntry) (r : List QEntry) (s : State), ctlRuns s = true → (s.bob b.toNat).queue = e :: r →
    readyHead s (s.bob b.toNat) e = true → granted s b.toNat e.is.cmd = true →
    (isSched (cOp e.is.cmd) = false → targetGated s e.is.cmd = false → planRejects s e = false →
      ∃ t, exec (.dispatch b) s = .next t
        ∧ t.bob b.toNat = { s.bob b.toNat with queue := r, outstanding := (s.bob b.toNat).outstanding + 1 }
        ∧ (∀ w, w ≠ b.toNat → t.bob w = s.bob w) ∧ t.port (cUnit e.is.cmd) = s.port (cUnit e.is.cmd) ++ [e.is]
        ∧ (∀ w, w ≠ cUnit e.is.cmd → t.port w = s.port w) ∧ Unchanged [.bobs, .turns, .reg, .ports] s t)
    ∧ (isSched (cOp e.is.cmd) = true → planRejects s e = false → (∀ n k m x, e.is.res = .run n k m x → m = false ∧ x = false) →
      ∃ t, exec (.dispatch b) s = .next t
        ∧ t.bob b.toNat = { s.bob b.toNat with queue := r, outstanding := (s.bob b.toNat).outstanding + 1 }
        ∧ (∀ w, w ≠ b.toNat → t.bob w = s.bob w) ∧ t.sched = s.sched ++ [e.is] ∧ Unchanged [.bobs, .turns, .reg, .sched] s t)
    ∧ (isSched (cOp e.is.cmd) = false → targetGated s e.is.cmd = true →
      ∃ t, exec (.dispatch b) s = .next t
        ∧ t.bob b.toNat = { s.bob b.toNat with queue := r, outstanding := (s.bob b.toNat).outstanding + 1 }
        ∧ (∀ w, w ≠ b.toNat → t.bob w = s.bob w)
        ∧ t.reports = s.reports ++ [{ is := e.is, unit := cUnit e.is.cmd, status := stGATED }]
        ∧ Unchanged [.bobs, .turns, .reg, .reports] s t)
    ∧ ((isSched (cOp e.is.cmd) = true ∨ targetGated s e.is.cmd = false) → planRejects s e = true →
      ∃ t, exec (.dispatch b) s = .next t
        ∧ t.bob b.toNat = { s.bob b.toNat with queue := r, outstanding := (s.bob b.toNat).outstanding + 1 }
        ∧ (∀ w, w ≠ b.toNat → t.bob w = s.bob w)
        ∧ t.reports = s.reports ++ [{ is := e.is, unit := if isSched (cOp e.is.cmd) then unitSched else cUnit e.is.cmd
                                      status := stREJECTED }]
        ∧ Unchanged [.bobs, .turns, .reg, .reports] s t)

/-- If DISPATCH of a bobbin makes one more of its commands outstanding, then the head of its queue met every condition: the
bobbin was ENABLED and its context's run-mask bit set; the head's position was current or it has none; every enabled wait was
satisfied; the hold bit of its tag was clear (tag 0 has no hold bit set); DB_OUTSTANDING + (TAIL - HEAD) was below the ring
size; and the target's port held fewer than 16 commands. (R62, R68, R80) -/
def Obligations.DispatchOnlyWhenR62Holds : Prop :=
  ∀ (b : Bobbin) (s t : State), exec (.dispatch b) s = .next t → (s.bob b.toNat).outstanding < (t.bob b.toNat).outstanding →
    ∃ e r, (s.bob b.toNat).queue = e :: r ∧ (s.bob b.toNat).state = .enabled
      ∧ s.run.getLsbD (s.bob b.toNat).entry.ctx.toNat = true
      ∧ (cPhase e.is.cmd = phNone ∨ posDiff s (s.bob b.toNat).entry.ctx.toNat e.is.cmd = 0)
      ∧ (cWaitAEn e.is.cmd = true → (s.barrier (cWaitA e.is.cmd) - cWaitACount e.is.cmd).toNat < 2 ^ 31)
      ∧ (cWaitBEn e.is.cmd = true → (s.barrier (cWaitB e.is.cmd) - cWaitBCount e.is.cmd).toNat < 2 ^ 31)
      ∧ s.hold (cHoldTag e.is.cmd) = false
      ∧ ((s.bob b.toNat).outstanding : Int) + ((s.bob b.toNat).tail - (s.bob b.toNat).head).toInt
          < ((2 ^ (s.bob b.toNat).entry.cqLog2 : Nat) : Int)
      ∧ (isSched (cOp e.is.cmd) = false → (s.port (cUnit e.is.cmd)).length < 16)

/-- Where the control plane runs: a ready head that has waited more than AGE_LIMIT cycles (not zero) is marked aged; a
planned head of no closed phase whose waits are satisfied has its run size resolved from the plan it names (with no bucket
set and the size of the command, to the plan's effective size); a head that waits on remote counters alone for WD_TICKS ticks
or more is marked watched with a charged PEER_SILENT of its context and lowest counter. The rest of the queue and every other
bobbin are unchanged. (R65, R154, R285) -/
def Obligations.HeadEventsMark : Prop :=
  ∀ (b : Bobbin) (e : QEntry) (r : List QEntry) (s : State), ctlRuns s = true → (s.bob b.toNat).queue = e :: r →
    (∀ c, e.readySince = some c → readyHead s (s.bob b.toNat) e = true → (s.getReg (rBob 0x20)).toNat % 2 ^ 24 ≠ 0 →
      (s.getReg (rBob 0x20)).toNat % 2 ^ 24 < elapsed s.cyc c →
      ∃ t, exec (.agePromotion b) s = .next t ∧ t.bob b.toNat = { s.bob b.toNat with queue := { e with aged := true } :: r }
        ∧ (∀ w, w ≠ b.toNat → t.bob w = s.bob w) ∧ Unchanged [.bobs] s t)
    ∧ (∀ m, loadedImage s (cCtx e.is.cmd) = some m → e.kind = .ok → e.resolved = false → planned e.is.cmd = true →
      cOp e.is.cmd ≠ opRELEASE → cPlan e.is.cmd < m.planCount → phaseClosed s (s.bob b.toNat).entry.ctx.toNat e.is.cmd = false →
      waitsMet s e.is.cmd = true →
      ∃ t e', exec (.runSizeResolve b) s = .next t ∧ (t.bob b.toNat).queue = e' :: r ∧ (∀ w, w ≠ b.toNat → t.bob w = s.bob w)
        ∧ (e'.resolved = true ∨ (e'.kind = .runWord ∧ e'.charged = true)) ∧ { e'.is with res := e.is.res } = e.is
        ∧ (∀ q k, cachedRead (planAddr m (cPlan e.is.cmd)) s = (q, false, k) → m.bsetCount ≠ 0 → (parsePlan q).bset = 0 →
            (parsePlan q).runSrc = false →
            e' = { e with resolved := true, is := { e.is with res := .run (effSize (parsePlan q) (cRunSize e.is.cmd)) 0 false false } })
        ∧ BytesKept [] s t ∧ Unchanged [.free, .reg, .mem, .errs, .skn, .dst, .bobs, .seqs, .planCache, .lastRun, .lastBucket] s t)
    ∧ (∀ c, e.watchSince = some c → watching s (s.bob b.toNat) e = true → wdTicks s ≠ 0 → watchStart s e c + wdTicks s ≤ s.wall →
      ∃ t, exec (.watchdogExpiry b) s = .next t
        ∧ t.bob b.toNat = { s.bob b.toNat with queue := { e with kind := .watched, charged := true } :: r }
        ∧ (∀ w, w ≠ b.toNat → t.bob w = s.bob w)
        ∧ Sent { source := srcBob, kind := kPEER_SILENT, flags := flagCharged ||| flagParam
                 addr := BitVec.ofNat 48 (cCtx e.is.cmd + (remoteOpen s e.is.cmd).foldl min 65535 * 4096) } (some e.is.id) s t
        ∧ (∀ a, a ≠ rBob 0x218 → t.getReg a = s.getReg a) ∧ Unchanged [.bobs, .dst, .seqs, .reg] s t)

/-- Where the control plane runs: FETCH_BURST grants the bobbin the arbiter chooses a burst of min(32 - FETCHED mod 32, PROD
- FETCHED) descriptors, and changes that bobbin, the turn of its level and the fetch counter alone; BURST_ARRIVAL takes the
bobbin's oldest burst in flight, and where no byte of it is poisoned each descriptor joins the queue in ring order with its
count and its 64 bytes, marked unsound where it fails R60; memory is unchanged. (R54, R60, R66) -/
def Obligations.FetchAndArrival : Prop :=
  (∀ (s : State) (b lv : Nat), ctlRuns s = true → fetchChoice s = some (b, lv) →
    ∃ t, exec .fetchBurst s = .next t
      ∧ t.bob b = { s.bob b with
          fetched := (s.bob b).fetched + BitVec.ofNat 32 (min (32 - (s.bob b).fetched.toNat % 32) ((s.bob b).prod - (s.bob b).fetched).toNat)
          bursts := (s.bob b).bursts ++
            [((s.bob b).fetched, min (32 - (s.bob b).fetched.toNat % 32) ((s.bob b).prod - (s.bob b).fetched).toNat)] }
      ∧ (∀ w, w ≠ b → t.bob w = s.bob w) ∧ (mget t.fetchTurns lv {}).last = b
      ∧ (∀ a, a ≠ rBob 0x60 → t.getReg a = s.getReg a) ∧ Unchanged [.bobs, .fetchTurns, .reg] s t)
  ∧ (∀ (s s1 : State) (b : Bobbin) (hs : List Hit) (n : Word) (len : Nat) (r : List (Word × Nat)),
    ctlRuns s = true → (s.bob b.toNat).bursts = (n, len) :: r →
    s1 = noteHits perrReg hs (s.setBob b.toNat { s.bob b.toNat with bursts := r }) →
    (∀ j, j < len → (rdBytes s1 (ringAddr (s.bob b.toNat) (n.toNat + j)) 64).any (·.poison) = false) →
    ∃ t es, exec (.burstArrival b hs) s = .next t ∧ (t.bob b.toNat).bursts = r ∧ (t.bob b.toNat).queue = (s.bob b.toNat).queue ++ es
      ∧ es.map (·.is.seq) = (List.range len).map (fun j => n + BitVec.ofNat 32 j)
      ∧ es.map (·.is.cmd) = (List.range len).map (fun j =>
          BitVec.ofNat 512 (leNat ((rdBytes s1 (ringAddr (s.bob b.toNat) (n.toNat + j)) 64).map (·.val))))
      ∧ (∀ e ∈ es, e.kind = if (envelopeFault (s.bob b.toNat).entry.cls (s.bob b.toNat).entry.ctx.toNat e.is.cmd).isNone then .ok else .bad)
      ∧ (∀ w, w ≠ b.toNat → t.bob w = s.bob w) ∧ BytesKept [] s t
      ∧ Unchanged [.free, .ids, .reg, .mem, .errs, .skn, .dst, .bobs, .seqs, .struck] s t)

/-- Where the management and control planes run: a DB_PROD write to an ENABLED bobbin sets PROD where PROD - FETCHED mod 2^32
is at most the ring size, and where it is more the bobbin goes to STOPPED, its fetched descriptors are discarded and
DOORBELL_OVERRUN is sent; in any other state it is refused with ACCESS_REFUSED and changes no bobbin. A DB_CQ_HEAD write sets
HEAD. Outstanding commands stay, other bobbins and every other piece of state are unchanged. (R50, R51, R52, R379) -/
def Obligations.ProducerAndHeadDoorbells : Prop :=
  ∀ (b : Bobbin) (v : Word) (s : State), mgmtRuns s = true → ctlRuns s = true →
    ((s.bob b.toNat).state = .enabled → (v - (s.bob b.toNat).fetched).toNat ≤ 2 ^ (s.bob b.toNat).entry.log2 →
      ∃ t, exec (.dbProdWrite b v) s = .next t ∧ t.bob b.toNat = { s.bob b.toNat with prod := v }
        ∧ (∀ w, w ≠ b.toNat → t.bob w = s.bob w) ∧ SameDistaff s t ∧ Unchanged [.bobs, .dst] s t)
    ∧ ((s.bob b.toNat).state = .enabled → 2 ^ (s.bob b.toNat).entry.log2 < (v - (s.bob b.toNat).fetched).toNat →
      ∃ t, exec (.dbProdWrite b v) s = .next t
        ∧ t.bob b.toNat = { s.bob b.toNat with prod := v, state := .stopped, queue := [], bursts := [] }
        ∧ (∀ w, w ≠ b.toNat → t.bob w = s.bob w)
        ∧ Sent { source := srcBob, kind := kDOORBELL_OVERRUN, flags := flagParam ||| flagHost, addr := BitVec.ofNat 48 b.toNat } none s t
        ∧ Unchanged [.bobs, .dst, .seqs] s t)
    ∧ ((s.bob b.toNat).state ≠ .enabled →
      ∃ t, exec (.dbProdWrite b v) s = .next t ∧ (∀ w, t.bob w = s.bob w)
        ∧ Sent { source := srcBob, kind := kACCESS_REFUSED, flags := flagHost, addr := BitVec.ofNat 48 (dbAddr b.toNat 0) } none s t
        ∧ Unchanged [.bobs, .dst, .seqs] s t)
    ∧ (∃ t, exec (.dbCqHeadWrite b v) s = .next t ∧ (t.bob b.toNat).head = v
      ∧ { t.bob b.toNat with head := (s.bob b.toNat).head, queue := (s.bob b.toNat).queue } = s.bob b.toNat
      ∧ (t.bob b.toNat).queue.map (fun e => { e with slotWait := false }) = (s.bob b.toNat).queue.map (fun e => { e with slotWait := false })
      ∧ (∀ w, w ≠ b.toNat → t.bob w = s.bob w) ∧ SameDistaff s t ∧ Unchanged [.bobs, .dst] s t)

/-- Where the planes run: an ENABLE in state DISABLED, or in STOPPED with DB_OUTSTANDING zero, of a bobbin whose table entry
is sound (R46) latches the entry, sets PROD, FETCHED, HEAD and TAIL to zero, writes zero over the completion ring, and enters
ENABLED; no byte outside the ring changes. In any other state it changes no bobbin and no memory and BOBBIN_CFG is sent.
(R49) -/
def Obligations.EnableByR49 : Prop :=
  ∀ (b : Bobbin) (s : State), mgmtRuns s = true → ctlRuns s = true →
    ((s.bob b.toNat).state = .disabled ∨ ((s.bob b.toNat).state = .stopped ∧ (s.bob b.toNat).outstanding = 0) →
      rdPoison s (btabBase s + 32 * b.toNat) 32 = false → entryOk s (rdNat s (btabBase s + 32 * b.toNat) 32) = true →
      ∃ t, exec (.enable b) s = .next t
        ∧ t.bob b.toNat = { state := .enabled, prod := 0, fetched := 0, head := 0, tail := 0, outstanding := 0, queue := [], bursts := []
                            entry := parseEntry (rdNat s (btabBase s + 32 * b.toNat) 32) }
        ∧ (∀ w, w ≠ b.toNat → t.bob w = s.bob w)
        ∧ StoredAs ((List.range (32 * 2 ^ (parseEntry (rdNat s (btabBase s + 32 * b.toNat) 32)).cqLog2)).map (fun j =>
            (cwinBase s + b.toNat * 0x2000 + j, {}))) s t
        ∧ Unchanged [.bobs, .dst, .errs, .mem, .reg, .seqs, .skn] s t)
    ∧ (¬ ((s.bob b.toNat).state = .disabled ∨ ((s.bob b.toNat).state = .stopped ∧ (s.bob b.toNat).outstanding = 0)) →
      ∃ t, exec (.enable b) s = .next t
        ∧ Sent { source := srcBob, kind := kBOBBIN_CFG, flags := flagParam ||| flagHost, addr := BitVec.ofNat 48 b.toNat } none s t
        ∧ Unchanged [.dst, .seqs] s t)

/-- Where the planes run: a DISABLE of an ENABLED or STOPPED bobbin discards its fetched descriptors and bursts and moves it
to DRAINING, or to DISABLED where nothing is outstanding; in DRAINING or DISABLED it changes no bobbin and raises no fault.
(R50) -/
def Obligations.DisableDrains : Prop :=
  ∀ (b : Bobbin) (s : State), mgmtRuns s = true → ctlRuns s = true →
    ((s.bob b.toNat).state = .enabled ∨ (s.bob b.toNat).state = .stopped →
      ∃ t, exec (.disable b) s = .next t
        ∧ t.bob b.toNat = { s.bob b.toNat with queue := [], bursts := []
                                               state := if (s.bob b.toNat).outstanding = 0 then .disabled else .draining }
        ∧ (∀ w, w ≠ b.toNat → t.bob w = s.bob w) ∧ SameDistaff s t ∧ Unchanged [.bobs, .dst] s t)
    ∧ ((s.bob b.toNat).state ≠ .enabled → (s.bob b.toNat).state ≠ .stopped →
      ∃ t, exec (.disable b) s = .next t ∧ (∀ w, t.bob w = s.bob w) ∧ SameDistaff s t ∧ Unchanged [.bobs, .dst] s t)

/-- Where the control plane runs, the fault number of the unit's first report is known, no READY increment waits, and no
PHASE_CLOSE waits in the bobbin's context: ENGINE_COMPLETION takes that report alone and completes its command with the
status, counts and AUX it carries, on the state in which overflow and checksum have reached the verdict and the route records
the journal; a pending stop whose unit holds nothing more ends. (R39, R67, R72, R77, R80, R230, R273, R289) -/
def Obligations.EngineCompletionTakesReport : Prop :=
  ∀ (u : BitVec 6) (r : Report) (s s1 : State), (Instr.engineCompletion u).wf = true → ctlRuns s = true →
    firstReport s u.toNat = some r → seqKnown s r.charged r.is.id = true → incsWait s u.toNat = false →
    (s.ctx (bobCtx s r.is.bobbin.toNat)).closer = none →
    s1 = journalRoute (bobCtx s r.is.bobbin.toNat) r.route
      (verdictOf (bobCtx s r.is.bobbin.toNat) (cPhase r.is.cmd)
        (decide (r.status = stOVERFLOW) || (decide (r.errKind = kindABANDONED) && r.lovf))
        (decide (r.status = stCHECKSUM) || (decide (r.errKind = kindABANDONED) && r.lcsum)) s) →
    ∃ t, exec (.engineCompletion u) s = .next t ∧ t.reports = dropReport u.toNat s.reports
      ∧ Completed { is := r.is, status := r.status, kind := r.errKind, oobR := r.oobReads, oobW := r.oobWrites, aux := r.aux
                    charged := r.charged, counts := decide (cOp r.is.cmd ≠ opPHASE_CLOSE) } s1 t
      ∧ (∀ v, v < 128 → t.pend.getLsbD v = (s.pend.getLsbD v && vecBusy t v))
      ∧ (cOp r.is.cmd ≠ 0x10 → t.spn = s.spn)
      ∧ Unchanged [.reports, .pend, .spn, .ctxs, .bobs, .barriers, .barrierAt, .holds, .trns, .mem, .errs, .skn, .reg, .dst, .seqs] s t

/-- Where the control plane runs: the oldest dispatched IMAGE_START joins the loader's queue, and where the loader held none
its load begins. IMAGE_LOAD_COMPLETE of the load in front installs the image, LOADED, where every check of Table 05-4 passes
and no PHASE_CLOSE waits; where one fails it leaves every image as it was, with one REJECTED report with the reason, the
context's state REJECTED unless it was LOADED, and no trace beyond the loader registers, the fault and the count.
IMAGE_UNLOAD of a context with no other command outstanding leaves it with no image. Each takes its command off the loader's
queue, and the next one in it begins. (R162, R163, R164, R165) -/
def Obligations.ImageCommandsRun : Prop :=
  (∀ (b : Bobbin) (i : Issued) (s : State), ctlRuns s = true → loadTurn s b = true → schedFront s b.toNat opIMAGE_START = some i →
    ∃ t, exec (.imageStart b) s = .next t ∧ t.loading = s.loading ++ [i] ∧ t.sched = s.sched.filter (fun x => x.id ≠ i.id)
      ∧ (s.loading = [] → cD i.cmd 0 ≠ 0 → imgOf s (cCtx i.cmd) = .none → imgOf t (cCtx i.cmd) = .loading)
      ∧ (s.loading ≠ [] → Unchanged [.loading, .sched] s t) ∧ Unchanged [.sched, .imgState, .loading, .loadCtx] s t)
  ∧ (∀ (i : Issued) (l : List Issued) (s : State), ctlRuns s = true → s.loading = i :: l → cD i.cmd 0 ≠ 0 →
    checkImage s (readImage s (cCtx i.cmd) (cD i.cmd 0)) = .ok () → (s.ctx (bobCtx s i.bobbin.toNat)).closer = none →
    ∃ t, exec .imageLoadComplete s = .next t ∧ t.loading = l
      ∧ mfind t.images (cCtx i.cmd) = some (imageOf (readImage s (cCtx i.cmd) (cD i.cmd 0)))
      ∧ imgOf t (cCtx i.cmd) = .loaded ∧ t.loadResult = 0 ∧ t.loadAddr = 0
      ∧ (∀ c, c ≠ cCtx i.cmd → mfind t.images c = mfind s.images c)
      ∧ (t.bob i.bobbin.toNat).tail = (s.bob i.bobbin.toNat).tail + 1
      ∧ Unchanged [.loading, .loadCtx, .images, .imgState, .loadResult, .loadAddr, .ctxs, .bobs, .barriers, .barrierAt, .holds, .trns, .mem,
          .errs, .skn, .reg, .dst, .seqs] s t)
  ∧ (∀ (i : Issued) (l : List Issued) (f : LoadFail) (s : State), ctlRuns s = true → s.loading = i :: l → cD i.cmd 0 ≠ 0 →
    checkImage s (readImage s (cCtx i.cmd) (cD i.cmd 0)) = .error f →
    ∃ t, exec .imageLoadComplete s = .next t ∧ t.loading = l ∧ t.images = s.images
      ∧ (l = [] → t.imgState = (if imgOf s (cCtx i.cmd) = .loaded then s.imgState else mput s.imgState (cCtx i.cmd) .rejected .none))
      ∧ t.loadResult = BitVec.ofNat 32 (f.reason + 256 * f.item)
      ∧ t.reports = s.reports ++ [{ is := i, unit := unitSched, status := stREJECTED, charged := true
                                    aux := BitVec.ofNat 32 (f.reason + 256 * f.item) }]
      ∧ BytesKept [] s t
      ∧ Unchanged [.loading, .loadCtx, .imgState, .loadResult, .loadAddr, .reports, .dst, .seqs, .reg, .mem, .errs, .skn] s t)
  ∧ (∀ (i : Issued) (l : List Issued) (s : State), ctlRuns s = true → s.loading = i :: l → cD i.cmd 0 = 0 →
    ctxOutstanding s (cCtx i.cmd) ≤ 1 → (s.ctx (bobCtx s i.bobbin.toNat)).closer = none →
    ∃ t, exec .imageUnload s = .next t ∧ t.loading = l ∧ mfind t.images (cCtx i.cmd) = none
      ∧ (l = [] → imgOf t (cCtx i.cmd) = .none)
      ∧ (∀ c, c ≠ cCtx i.cmd → mfind t.images c = mfind s.images c ∧ (l = [] → imgOf t c = imgOf s c))
      ∧ (t.bob i.bobbin.toNat).tail = (s.bob i.bobbin.toNat).tail + 1
      ∧ Unchanged [.loading, .loadCtx, .images, .imgState, .planCache, .spn, .fly, .ctxs, .bobs, .barriers, .barrierAt, .holds, .trns, .mem,
          .errs, .skn, .reg, .dst, .seqs] s t)

/-- READY_INCREMENT, where the control plane runs and the carder has an increment on its way, takes the oldest and raises its
counter by one, no other counter. SPARE_SWAP_TIMEOUT, 32,500,000 ticks or more after a request, puts the requested map in
force and the request is gone. PLY_WATCH_EXPIRY of an active plying command that waits for a peer and has heard from none for
WD_TICKS, which is not 0, ends it: one report with ERROR of kind ABANDONED, charged with its fault. (R141, R230, R311, R412)
-/
def Obligations.ReadyIncrementsSwapAndWatch : Prop :=
  (∀ (k : BitVec 5) (s : State) (i : Nat) (r : List Nat), ctlRuns s = true → (s.crd k.toNat).incs = i :: r →
    ∃ t, exec (.readyIncrement k) s = .next t ∧ t.crd k.toNat = { s.crd k.toNat with incs := r }
      ∧ (∀ j, j ≠ k.toNat → t.crd j = s.crd j) ∧ t.barrier i = s.barrier i + 1 ∧ (∀ j, j ≠ i → t.barrier j = s.barrier j)
      ∧ Unchanged [.crds, .barriers, .barrierAt] s t)
  ∧ (∀ (s : State) (m : BitVec 5) (w : Nat), s.spareReq = some (m, w) → 32500000 ≤ s.wall - w →
    ∃ t, exec .spareSwapTimeout s = .next t ∧ t.spare = m ∧ t.spareReq = none
      ∧ t.epoch (m.toNat % 16) = (if s.ready then s.epoch (m.toNat % 16) + 1 else s.epoch (m.toNat % 16))
      ∧ (∀ u, u ≠ m.toNat % 16 → t.epoch u = s.epoch u)
      ∧ t.gate.getLsbD (if m.getLsbD 4 then 16 else m.toNat % 16) = true
      ∧ Unchanged [.free, .reg, .skn, .dst, .gate, .pend, .spare, .spareReq, .epochs, .reports, .seqs, .rwp, .wear, .spn, .fly, .qps, .prts, .crds,
          .nvm, .ndy] s t)
  ∧ (∀ (j : BitVec 2) (c : PlyCmd) (s : State), s.ply[j.toNat]? = some c → s.plyCmd c.is.id = some c → s.getReg (rBob 0x210) ≠ 0 →
    c.since + (s.getReg (rBob 0x210)).toNat ≤ s.wall → plyWaits c s = true →
    ∃ t r, exec (.plyWatchExpiry j) s = .next t ∧ t.reports = s.reports ++ [r] ∧ r.is = c.is ∧ r.unit = 52 ∧ r.status = stERROR
      ∧ r.errKind = kindABANDONED ∧ r.charged = true ∧ t.ply = s.ply.filter (fun d => d.is.id ≠ c.is.id)
      ∧ Unchanged [.reg, .dst, .reports, .seqs, .qps, .ply] s t)

/-- Where the management plane runs and BOB[0] answers: a write of IND_DATA gives the counter selected the value and changes
no other; with a hold bit selected it changes nothing. After a write of CTX_RESET for a context with no commands outstanding
but a PHASE_CLOSE that waits, the context is at step 0, phase FWD, DONE 0, with no PHASE_CLOSE waiting, its verdict and
replay words are clear, its journal, where enabled, has the entry of step 0 open, no other context changes, and where no
PHASE_CLOSE waited and no journal is on no bobbin, counter, hold bit or byte does. With others outstanding it changes no
context and sends CTX_BUSY. (R69, R81, R263, R270, R289) -/
def Obligations.CounterWritesAndContextReset : Prop :=
  (∀ (v : Word) (s : State), mgmtRuns s = true → blockGated s (rBob 0x18) = false →
    ∃ t, exec (.indDataWrite v) s = .next t ∧ SameDistaff s t ∧ Unchanged [.barriers, .barrierAt, .dst] s t
      ∧ ∀ i, t.barrier i = if (s.getReg (rBob 0x14)).getLsbD 16 = false ∧ i = (s.getReg (rBob 0x14)).toNat % 65536 then v else s.barrier i)
  ∧ (∀ (c : BitVec 12) (s : State), mgmtRuns s = true → blockGated s (rBob 0x1C) = false →
    (ctxOutstanding s c.toNat = (if (s.ctx c.toNat).closer.isSome then 1 else 0) →
      ∃ t, exec (.ctxReset c) s = .next t ∧ (t.ctx c.toNat).step = 0 ∧ (t.ctx c.toNat).phase = .fwd ∧ (t.ctx c.toNat).done = 0
        ∧ (t.ctx c.toNat).closer = none ∧ (t.trn c.toNat).verdict = 0 ∧ (t.trn c.toNat).mode = 0 ∧ (t.trn c.toNat).held = false
        ∧ (t.trn c.toNat).jopen = (if (s.trn c.toNat).jen then some 0 else none)
        ∧ (∀ d, d ≠ c.toNat → t.ctx d = s.ctx d ∧ t.trn d = s.trn d)
        ∧ ((s.ctx c.toNat).closer = none → (s.trn c.toNat).jen = false → Unchanged [.ctxs, .trns, .fly, .dst] s t)
        ∧ (∀ k, t.barrier k = s.barrier k) ∧ (∀ g, t.hold g = s.hold g)
        ∧ Unchanged [.ctxs, .trns, .fly, .dst, .bobs, .barriers, .barrierAt, .holds, .mem, .errs, .skn, .reg, .seqs] s t)
    ∧ (ctxOutstanding s c.toNat ≠ (if (s.ctx c.toNat).closer.isSome then 1 else 0) →
      ∃ t, exec (.ctxReset c) s = .next t
        ∧ Sent { source := srcBob, kind := kCTX_BUSY, flags := flagParam ||| flagHost, addr := BitVec.ofNat 48 c.toNat } none s t
        ∧ Unchanged [.dst, .seqs] s t))

/-- Where the management plane runs and BOB[0] answers, for the context and word that TRN_SEL names: words 3, 13 and 15 are
read-only; a write while a command of the context is outstanding is refused; else words 0 to 2 and 4 to 7 read back as
written in their fields, words 9 to 12 set the capacities and words 16 to 31 the capture points. No other context changes.
JOURNAL_ENABLE enables a journal whose ring is good, and otherwise turns it off and sends JOURNAL_CFG. (R269, R287) -/
def Obligations.TrainingWordsWritten : Prop :=
  ∀ (v : Word) (s : State), mgmtRuns s = true → blockGated s (rBob 0x204) = false →
    (trnSelWord s = 3 ∨ trnSelWord s = 13 ∨ trnSelWord s = 15 →
      ∃ t, exec (.trnDataWrite v) s = .next t ∧ Unchanged [.dst, .seqs] s t
        ∧ Sent { source := srcBob, kind := kACCESS_RO, flags := flagHost, addr := BitVec.ofNat 48 (regBase + rBob 0x204) } none s t)
    ∧ (trnSelWord s ≠ 3 ∧ trnSelWord s ≠ 13 ∧ trnSelWord s ≠ 14 ∧ trnSelWord s ≠ 15 → ctxIdle s (trnSelCtx s) = false →
      ∃ t, exec (.trnDataWrite v) s = .next t ∧ Unchanged [.dst, .seqs] s t
        ∧ Sent { source := srcBob, kind := kACCESS_REFUSED, flags := flagHost, addr := BitVec.ofNat 48 (regBase + rBob 0x204) } none s t)
    ∧ (trnSelWord s ≠ 3 ∧ trnSelWord s ≠ 8 ∧ trnSelWord s ≠ 13 ∧ trnSelWord s ≠ 14 ∧ trnSelWord s ≠ 15 →
      ctxIdle s (trnSelCtx s) = true →
      ∃ t, exec (.trnDataWrite v) s = .next t ∧ SameDistaff s t ∧ (∀ c, c ≠ trnSelCtx s → t.trn c = s.trn c) ∧ Unchanged [.trns, .dst] s t
        ∧ (trnSelWord s < 8 → readTrn t = if trnSelWord s = 0 then v &&& 0xFF else if trnSelWord s = 7 then v &&& 0xFFFF else v)
        ∧ (9 ≤ trnSelWord s ∧ trnSelWord s ≤ 12 → (t.trn (trnSelCtx s)).jcap
            = (s.trn (trnSelCtx s)).jcap.set (trnSelWord s - 9) (if trnSelWord s = 10 then v.toNat else v.toNat % 2 ^ 24))
        ∧ (16 ≤ trnSelWord s → (t.trn (trnSelCtx s)).caps = (s.trn (trnSelCtx s)).caps.set ((trnSelWord s - 16) / 2)
            (if trnSelWord s % 2 = 0 then
              { (s.trn (trnSelCtx s)).caps.getD ((trnSelWord s - 16) / 2) {} with bobbin := v.setWidth 18, en := v.getLsbD 31 }
             else { (s.trn (trnSelCtx s)).caps.getD ((trnSelWord s - 16) / 2) {} with seq := v })))
    ∧ (trnSelWord s = 8 → v.getLsbD 3 = true → v.toNat % 8 ≤ 4 → ctxIdle s (trnSelCtx s) = true →
      (ringOk s (s.trn (trnSelCtx s)) (v.toNat % 8) = true →
        ∃ t, exec (.journalEnable v) s = .next t ∧ (∀ c, c ≠ trnSelCtx s → t.trn c = s.trn c)
          ∧ t.trn (trnSelCtx s) = { s.trn (trnSelCtx s) with jlog := BitVec.ofNat 3 (v.toNat % 8), jen := true } ∧ SameDistaff s t
          ∧ Unchanged [.trns, .dst] s t)
      ∧ (ringOk s (s.trn (trnSelCtx s)) (v.toNat % 8) = false →
        ∃ t, exec (.journalEnable v) s = .next t ∧ (∀ c, c ≠ trnSelCtx s → t.trn c = s.trn c)
          ∧ t.trn (trnSelCtx s) = { s.trn (trnSelCtx s) with jlog := BitVec.ofNat 3 (v.toNat % 8), jen := false }
          ∧ Sent { source := srcBob, kind := kJOURNAL_CFG, flags := flagParam ||| flagHost
                   addr := BitVec.ofNat 48 (trnSelCtx s) } none s t
          ∧ Unchanged [.trns, .dst, .seqs] s t))

/-- Where the management plane runs, BOB[0] answers and word 14 is selected: an ARM for an idle context whose MODE is not 0
or 3 and whose entry is sound (readable, VALID, of the context, within its capacities, its CRC right) loads the loss scale,
counts and seed from the entry's header and the step, phase FWD, DONE 0; where the entry is not sound REPLAY_ARM is sent and
nothing is loaded. A RESUME (without ARM, MODE and ENTRY kept) of a held context clears the hold, and ends the replay where
it stopped for a reason other than a capture. While MODE is not 0 no journal entry is open. (R290, R291, R292) -/
def Obligations.ReplayArmsAndResumes : Prop :=
  ∀ (v : Word) (s : State) (c : Nat) (x : Trn), mgmtRuns s = true → blockGated s (rBob 0x204) = false → trnSelWord s = 14 →
    c = trnSelCtx s → x = s.trn c →
    (∀ (h : Nat) (cnt : List Nat) (sound : Bool), ctxIdle s c = true → v.getLsbD 6 = true → v.getLsbD 7 = false → v.toNat % 4 ≠ 0 →
      v.toNat % 4 ≠ 3 →
      h = rdNat s (jrnAddr x (v.toNat / 4 % 16)) 72 → cnt = (List.range 4).map (fun i => bits h (8 * (48 + 4 * i)) 32) →
      sound = (decide (v.toNat / 4 % 16 < 2 ^ x.jlog.toNat) && !rdPoison s (jrnAddr x (v.toNat / 4 % 16)) 72
        && (List.range 4).all (fun i => decide (cnt.getD i 0 ≤ jcapOf x i))
        && !(jrnBody s x (jrnAddr x (v.toNat / 4 % 16)) cnt).any (·.poison)
        && nbit h 48 && decide (bits h 49 5 = 0) && decide (bits h 32 12 = c)
        && decide ((crc32c ((jrnBody s x (jrnAddr x (v.toNat / 4 % 16)) cnt).map (·.val))).toNat = bits h 512 32)) →
      (sound = true →
        ∃ t, exec (.arm v) s = .next t ∧ (∀ d, d ≠ c → t.trn d = s.trn d ∧ t.ctx d = s.ctx d) ∧ (t.trn c).mode = v.setWidth 2
          ∧ (t.trn c).armed = true ∧ (t.trn c).exp = some (BitVec.ofNat 8 (bits h 96 8)) ∧ (t.trn c).clean = BitVec.ofNat 32 (bits h 128 32)
          ∧ (t.trn c).optStep = BitVec.ofNat 32 (bits h 160 32) ∧ (t.trn c).seed = BitVec.ofNat 64 (bits h 192 64)
          ∧ (t.trn c).verdict = 0 ∧ (t.trn c).held = false ∧ (t.trn c).jopen = none
          ∧ (t.ctx c).step = BitVec.ofNat 32 (bits h 64 32) ∧ (t.ctx c).phase = .fwd ∧ (t.ctx c).done = 0
          ∧ BytesKept [] s t ∧ Unchanged [.trns, .ctxs, .dst, .seqs, .reg, .mem, .errs, .skn] s t)
      ∧ (sound = false →
        ∃ t u, exec (.arm v) s = .next t ∧ (∀ d, d ≠ c → t.trn d = s.trn d) ∧ (t.trn c).mode = v.setWidth 2
          ∧ (t.trn c).armed = x.armed ∧ (t.trn c).exp = x.exp ∧ (t.trn c).seed = x.seed ∧ (t.trn c).jopen = none
          ∧ Unchanged [.trns, .dst, .seqs, .reg, .mem, .errs, .skn] s u
          ∧ Sent { source := srcBob, kind := kREPLAY_ARM, flags := flagParam ||| flagHost, addr := BitVec.ofNat 48 c } none u t
          ∧ BytesKept [] s t ∧ Unchanged [.trns, .dst, .seqs, .reg, .mem, .errs, .skn] s t))
    ∧ (v.getLsbD 7 = true → v.getLsbD 6 = false → v.setWidth 2 = x.mode → x.mode ≠ 3 →
      ((v >>> 2).setWidth 4 : BitVec 4) = x.entry → x.held = true →
      (x.reason ≠ 2 → x.reason ≠ 3 →
        ∃ t, exec (.resume v) s = .next t ∧ (∀ d, d ≠ c → t.trn d = s.trn d) ∧ SameDistaff s t ∧ Unchanged [.trns, .dst] s t
          ∧ t.trn c = { x with held := false, reason := 0, jopen := if x.mode = 0 then x.jopen else none })
      ∧ (x.reason = 2 ∨ x.reason = 3 →
        ∃ t, exec (.resume v) s = .next t ∧ (∀ d, d ≠ c → t.trn d = s.trn d) ∧ SameDistaff s t ∧ Unchanged [.trns, .dst] s t
          ∧ t.trn c = { x with held := false, reason := 0, mode := 0, armed := false, jused := []
                               jopen := if x.mode = 0 then x.jopen else none }))

/-- Where the management plane runs: a well-formed SKEIN_WRITE stores its bytes, the later of two for one address winning,
where their sectors answer, and answers with the sectors that did not; every other byte reads as before. A well-formed
SKEIN_READ delivers, byte for byte, what memory holds once the cells it names have flipped, with its poison, and no byte for
a sector with an error response; no byte of memory changes but by those flips. Sectors with faulty cells are left out. (R324,
R325, R328, R330, R332, R334) -/
def Obligations.SkeinAccessesAnswer : Prop :=
  (∀ (src : BitVec 16) (a : Addr) (data : List MByte) (s : State), mgmtRuns s = true → (Instr.skeinWrite src a data).wf = true →
    ∃ t l, exec (.skeinWrite src a data) s = .next t ∧ t.out = s.out ++ [.sknAck src l]
      ∧ (l = [] ↔ ∀ j, j < data.length → sectorRefusal s (a.toNat + j) = none)
      ∧ StoredAs ((List.range data.length).map (fun j => (a.toNat + j, data.getD j {}))) s t ∧ Unchanged [.reg, .mem, .errs, .skn, .dst, .seqs,
          .out] s t)
  ∧ (∀ (src : BitVec 16) (a : Addr) (len : Nat) (us : List Upset) (s s1 : State), mgmtRuns s = true →
    (Instr.skeinRead src a len us).wf = true → s1 = applyUpsets us s →
    ∃ t, exec (.skeinRead src a len us) s = .next t
      ∧ t.out = s.out ++ [.sknData src ((List.range len).map (fun j =>
          if (rdByte s1 (a.toNat + j)).err then none
          else some { val := (rdByte s1 (a.toNat + j)).val, poison := (rdByte s1 (a.toNat + j)).poison }))]
      ∧ BytesKept [] s1 t ∧ Unchanged [.reg, .mem, .errs, .skn, .dst, .seqs, .pkg, .out] s t)

/-- At READY, when the leak interval in force has passed for the skein, BUCKET_LEAK lowers every bucket of that skein by one,
not below 0, and changes no other skein and no other state; before the interval has passed it changes nothing. Where
scrubbing is on, the skein is READY, its clock runs and the scrub interval has passed: SCRUB_GRANULE scrubs the granule of
every channel, moves the position on by one, wrapping after granule 3,145,727 and counting the pass, and every byte of memory
reads as it does once the cells it names have flipped; no other skein's position moves. (R328, R335, R336) -/
def Obligations.LeakAndScrub : Prop :=
  (∀ (k : BitVec 5) (s : State), s.ready = true →
    ((bucketCfg s k.toNat).2.toNat ≤ elapsed s.tick (s.skein k.toNat).leakFrom → ((s.skein k.toNat).buckets.map (·.1)).Nodup →
      ∃ t b l f, exec (.bucketLeak k) s = .next t ∧ (∀ c, mget (t.skein k.toNat).buckets c 0 = mget (s.skein k.toNat).buckets c 0 - 1)
        ∧ t.skein k.toNat = { s.skein k.toNat with buckets := b, leaked := l, leakFrom := f }
        ∧ (∀ j, j ≠ k.toNat → t.skein j = s.skein j) ∧ Unchanged [.skn] s t)
    ∧ (elapsed s.tick (s.skein k.toNat).leakFrom < (bucketCfg s k.toNat).2.toNat → exec (.bucketLeak k) s = .next s))
  ∧ (∀ (k : BitVec 5) (us : List Upset) (s s1 : State), (Instr.scrubGranule k us).wf = true → s1 = applyUpsets us s →
    (s.getReg (rSkn k.toNat 0x2C)).getLsbD 0 = true →
    (s.skein k.toNat).mode = .ready → s.gate.getLsbD (vecSkn k.toNat) = true → s.rstBusy.getLsbD (vecSkn k.toNat) = false →
    (s.getReg (rSkn k.toNat 0x30)).toNat ≤ elapsed s.tick (s.skein k.toNat).scrubFrom →
    ∃ t, exec (.scrubGranule k us) s = .next t
      ∧ (t.skein k.toNat).scrubPos = (if (s.skein k.toNat).scrubPos + 1 = 3145728 then 0 else (s.skein k.toNat).scrubPos + 1)
      ∧ (t.skein k.toNat).scrubFrom = s.tick ∧ (∀ j, j ≠ k.toNat → (t.skein j).scrubPos = (s.skein j).scrubPos)
      ∧ BytesKept [] s1 t ∧ Unchanged [.reg, .mem, .errs, .skn, .dst, .seqs, .pkg] s t)

/-- FETCH_START, where the carder runs and has a free in-flight place, starts its oldest queued miss: it is queued no more.
FETCH_COMPLETE of a fetch in flight whose READ has left, its packets taken by the port, lands its data: a blob of the length
and CRC of the entry, free of poison, ends the fetch (it leaves the carder's list), any other is tried again or fails.
FETCH_TIMEOUT, after EXP_FETCH_TMO ticks, tries a fetch or a write-back again or fails it. WRITE_BACK_COMPLETE of a write
that has left makes the miss behind it a queued fetch. No other carder changes, and only the pieces named. (R225, R226, R227)
-/
def Obligations.ExpertFetchesProceed : Prop :=
  ∀ (k : BitVec 5) (f : Fetch) (s : State),
    ((s.crd k.toNat).fetches.find? (fun g => g.st = .queued) = some f → crdRuns s k.toNat = true →
      ((s.crd k.toNat).fetches.filter (fun g => g.st = .flying)).length < fetchMax s k.toNat →
      ∃ t, exec (.fetchStart k) s = .next t ∧ t = startFetch k.toNat f s
        ∧ (∀ g ∈ (t.crd k.toNat).fetches, g.slotEnt = f.slotEnt → g.st ≠ .queued)
        ∧ (∀ j, j ≠ k.toNat → t.crd j = s.crd j) ∧ Unchanged [.reg, .mem, .errs, .skn, .dst, .reports, .seqs, .qps, .crds, .out] s t)
    ∧ (∀ (gid : BitVec 20) (data : List MByte) (ing : Ingress), flyingFetch s k.toNat gid.toNat = some f →
      opSent s f.qpn (isReadOf k.toNat gid.toNat) = true →
      (ingress (f.qpn.getD 0) (packetsOf (s.qp (f.qpn.getD 0)) data.length) ing s).2 = true →
      ∃ t, exec (.fetchComplete k gid data ing) s = .next t ∧ (∀ j, j ≠ k.toNat → t.crd j = s.crd j)
        ∧ ((s.crd k.toNat).job = none → data.length = (readResid s f.ent).len → data.any (·.poison) = false →
            crc32c (data.map (·.val)) = (readResid s f.ent).crc →
            (t.crd k.toNat).fetches = (s.crd k.toNat).fetches.filter (fun g => g.slotEnt ≠ f.slotEnt) ∧ (t.crd k.toNat).job = none)
        ∧ Unchanged [.reg, .mem, .errs, .skn, .dst, .reports, .seqs, .qps, .prts, .crds, .out] s t)
    ∧ (∀ gid : BitVec 20, flyingFetch s k.toNat gid.toNat = some f → f.since + fetchTmo s k.toNat ≤ s.wall →
      ∃ t, exec (.fetchTimeout k gid) s = .next t ∧ t = retryFetch k.toNat f (dropOp f.qpn (isReadOf k.toNat gid.toNat) s)
        ∧ (∀ j, j ≠ k.toNat → t.crd j = s.crd j) ∧ Unchanged [.reg, .mem, .errs, .skn, .dst, .reports, .seqs, .qps, .crds, .out] s t)
    ∧ (∀ gid : BitVec 20, flyingFetch s k.toNat gid.toNat = none → flyingWrite s k.toNat gid.toNat = some f →
      f.since + fetchTmo s k.toNat ≤ s.wall →
      ∃ t, exec (.fetchTimeout k gid) s = .next t ∧ t = retryWriteBack k.toNat f (dropOp f.qpn (isWriteOf k.toNat gid.toNat) s)
        ∧ (∀ j, j ≠ k.toNat → t.crd j = s.crd j) ∧ Unchanged [.reg, .mem, .errs, .skn, .dst, .reports, .seqs, .qps, .crds, .out] s t)
    ∧ (∀ (gid : BitVec 20) (o : Nat × Nat) (ing : Ingress), flyingWrite s k.toNat gid.toNat = some f → f.owner = some o →
      opSent s f.qpn (isWriteOf k.toNat gid.toNat) = true → (ingress (f.qpn.getD 0) 1 ing s).2 = true →
      ∃ t, exec (.writeBackComplete k gid ing) s = .next t
        ∧ (t.crd k.toNat).fetches = (s.crd k.toNat).fetches.map (fun g =>
            if g.slotEnt = f.slotEnt then { f with st := .queued, owner := none, qpn := none, tries := 0 } else g)
        ∧ (∀ j, j ≠ k.toNat → t.crd j = s.crd j) ∧ BytesKept [o.2] s t
        ∧ Unchanged [.reg, .mem, .errs, .skn, .dst, .seqs, .qps, .prts, .crds, .out] s t)

/-- A PLY message of the seven reduction types, on an RC Dexornian queue pair in RTS whose port passes frames and takes its
packets in (a parity error in the port's buffer sets its POISON flag), with a sound layout, that matches an active command by
type, TAG, RDID and step and whose sender is another member: where the command takes it, the next state is the command's
after the message, with its watch restarted and the message counted, the expected PSN past it, and an acknowledgement
answered; where the command cannot yet, an RNR NAK is answered and the PSN stays. (R305, R307, R309, R310, R366) -/
def Obligations.ReductionMessagesTaken : Prop :=
  ∀ (m m1 : SendIn) (c : Instr) (s s0 s1 : State) (n k : Nat) (x : RMsg) (d : PlyCmd) (r : State × PlyAns),
    c = .reduce m ∨ c = .prescaleUp m ∨ c = .prescaleDown m ∨ c = .sum m ∨ c = .gather m ∨ c = .verdictUp m ∨ c = .verdictDown m →
    c.wf = true → n = m.qpn.toNat → k = packetsOf (s.qp n) m.bytes.length →
    (s.qp n).state = 3 → (s.qp n).ud = false → (s.qp n).dex = true → portUp s (s.qp n).port = true →
    ingress n k m.ing s = (s0, true) → s1 = strikeAccs m.hits (noteEvents perrReg m.hits s0) → m1 = struckMsg (s.qp n).port m →
    messageOk m1.bytes = true → x = parseRMsg m1.bytes →
    s1.ply.find? (fun d => takesType d x.type && d.tag = x.tag && d.rdid = x.rdid && (s1.ctx (cCtx d.is.cmd)).step = x.step) = some d →
    x.src_ < d.size → x.src_ ≠ d.rank →
    r = (if isReduceOp d then reduceMsg d x (m1.bytes.drop 64) s1 else if isGatherOp d then gatherMsg d x (m1.bytes.drop 64) s1
      else verdictMsg d x s1) →
    (r.2 = .ack →
      ∃ t, exec c s = .next t
        ∧ t = answer n (.rdmaAck m.qpn) (expectPsn n k (plyMod d.is.id (fun d => { d with since := s1.wall }) (r.1.count (rPly 0x18) 1)))
        ∧ Unchanged [.reg, .mem, .errs, .skn, .dst, .barriers, .barrierAt, .reports, .seqs, .trns, .qps, .prts, .ply, .out] s t)
    ∧ (r.2 = .rnr → ∃ t, exec c s = .next t ∧ t = answer n (.rnrNak m.qpn) (r.1.count (rPly 0x1C) 1))

/-- On an RC Dexornian queue pair in RTS whose port passes frames and takes the packets in, a sound message is acknowledged
once it has acted: FETCH_NOTE and WB_NOTE count in the port; BARRIER raises the counter it names by one where its TAG names a
group and its SRC is a member; REPLAY_HOLD holds a context in GROUP replay and sends REPLAY_PEER; ECHO_REQ posts an ECHO_RSP
with its cookie; ECHO_RSP counts. A message of no used type, and a BARRIER of no group, is stray: counted, DEX_STRAY sent,
acknowledged. On a UD queue pair a message of the right Q_Key is handed on for an ECHO and stray otherwise, and one of
another Q_Key is dropped. (R366, R367, R368, R369, R370, R371, R372) -/
def Obligations.DexornianMessagesTaken : Prop :=
  ∀ (m : SendIn) (s s0 s1 : State) (n p k : Nat), n = m.qpn.toNat → p = (s.qp n).port → k = packetsOf (s.qp n) m.bytes.length →
    (s.qp n).state = 3 → portUp s p = true → s1 = strikeAccs m.hits (noteEvents perrReg m.hits s0) →
    ((s.qp n).ud = false → (s.qp n).dex = true → ingress n k m.ing s = (s0, true) → messageOk m.bytes = true →
      (∀ c, c = .fetchNote m ∨ c = .wbNote m → c.wf = true →
        ∃ t, exec c s = .next t ∧ t = answer n (.rdmaAck m.qpn) (expectPsn n k (s1.count (rPrt p 0x70) 1))
          ∧ Unchanged [.dst, .errs, .mem, .out, .ply, .prts, .qps, .reg, .seqs, .skn] s t)
      ∧ (∀ g e, (Instr.barrier m).wf = true → groupByTag s1 (BitVec.ofNat 32 (dexField m.bytes 4 4)) = some (g, e) →
        dexField m.bytes 8 2 < e.size →
        ∃ t, exec (.barrier m) s = .next t
          ∧ (∀ i, t.barrier i = if i = dexField m.bytes 16 2 then s.barrier i + 1 else s.barrier i)
          ∧ Unchanged [.barriers, .barrierAt, .dst, .errs, .mem, .out, .ply, .prts, .qps, .reg, .seqs, .skn] s t)
      ∧ ((Instr.barrier m).wf = true → groupByTag s1 (BitVec.ofNat 32 (dexField m.bytes 4 4)) = none →
        ∃ t, exec (.barrier m) s = .next t ∧ t = answer n (.rdmaAck m.qpn) (expectPsn n k (dexStray p m.bytes s1))
          ∧ ∀ i, t.barrier i = s.barrier i)
      ∧ (∀ g e, (Instr.replayHold m).wf = true → groupByTag s1 (BitVec.ofNat 32 (dexField m.bytes 4 4)) = some (g, e) →
        inReplay s1 e.ctx 2 = true →
        ∃ t, exec (.replayHold m) s = .next t ∧ (t.trn e.ctx).held = true ∧ (∀ c, c ≠ e.ctx → t.trn c = s.trn c)
          ∧ Unchanged [.trns, .dst, .errs, .mem, .out, .ply, .prts, .qps, .reg, .seqs, .skn] s t)
      ∧ ((Instr.echoReq m).wf = true →
        ∃ t, exec (.echoReq m) s = .next t
          ∧ t = answer n (.rdmaAck m.qpn) (expectPsn n k (postOp n (.send (header64 [(0, tECHO_RSP), (16, dexField m.bytes 16 8)]) none) s1))
          ∧ Unchanged [.dst, .errs, .mem, .out, .ply, .prts, .qps, .reg, .seqs, .skn] s t)
      ∧ ((Instr.echoRsp m).wf = true →
        ∃ t, exec (.echoRsp m) s = .next t ∧ t = answer n (.rdmaAck m.qpn) (expectPsn n k (s1.count (rPrt p 0x74) 1))
          ∧ Unchanged [.dst, .errs, .mem, .out, .ply, .prts, .qps, .reg, .seqs, .skn] s t))
    ∧ ((s.qp n).ud = false → (s.qp n).dex = true → ingress n k m.ing s = (s0, true) → messageOk m.bytes = false →
        reductionType (msgType m.bytes) = false →
        ∃ t, exec (.strayMessage m) s = .next t ∧ t = answer n (.rdmaAck m.qpn) (expectPsn n k (dexStray p m.bytes s1))
          ∧ Unchanged [.dst, .errs, .mem, .out, .ply, .prts, .qps, .reg, .seqs, .skn] s t)
    ∧ ((s.qp n).ud = true → ingressFrom n k m.udSource m.ing s = (s0, true) →
        (m.qkey = (s.qp n).qkey → (Instr.echoReq m).wf = true → messageOk m.bytes = true →
          ∃ t, exec (.echoReq m) s = .next t
            ∧ t = answer n (.udSend m.qpn m.udSource (header64 [(0, tECHO_RSP), (16, dexField m.bytes 16 8)])) s1)
        ∧ (m.qkey = (s.qp n).qkey → (Instr.fetchNote m).wf = true →
          ∃ t, exec (.fetchNote m) s = .next t ∧ t = dexStray p m.bytes s1)
        ∧ (m.qkey ≠ (s.qp n).qkey → (Instr.echoReq m).wf = true → ∃ t, exec (.echoReq m) s = .next t ∧ t = s1))

/-- An RDMA WRITE taken in by a queue pair that takes requests, whose region grants it, with all its bytes in skein memory:
the bytes are stored where their sectors answer, every other byte outside the queue pair's own table entry reads as before,
and it is acknowledged where no sector refused. With immediate, on a host queue pair bound to an ENABLED bobbin, the
immediate becomes PROD where it does not overrun. A request that no region grants stores nothing and is answered with NAK
Remote Access Error. An answer waits on the port while its class is paused. (R350, R359, R360, R362) -/
def Obligations.RemoteWritesLand : Prop :=
  ∀ (qpn : BitVec 16) (rkey : Word) (a : Addr) (data : List Byte) (ing : Ingress) (hits : List Hit) (s s1 : State),
    takeIn qpn.toNat (packetsOf (s.qp qpn.toNat) data.length) ing hits s = some s1 → takesRequests s1 qpn.toNat = true →
    (regionOk s1 (s1.qp qpn.toNat) rkey a.toNat data.length 0 = true → a.toNat + data.length ≤ 0x010000000000 →
      ∃ t, exec (.rdmaWrite qpn rkey a data ing hits) s = .next t
        ∧ (∀ b, b < qptBase s1 + 128 * qpn.toNat ∨ qptBase s1 + 128 * qpn.toNat + 128 ≤ b → Intact s1 b →
            (rdByte t b).val = if a.toNat ≤ b ∧ b < a.toNat + data.length ∧ sectorRefusal s1 b = none then data.getD (b - a.toNat) 0
              else (rdByte s1 b).val)
        ∧ ((∀ b, a.toNat ≤ b → b < a.toNat + data.length → sectorRefusal s1 b = none) → Replied qpn.toNat (.rdmaAck qpn) s1 t)
        ∧ Unchanged [.dst, .errs, .mem, .out, .prts, .qps, .reg, .seqs, .skn, .struck] s t)
    ∧ (∀ imm : Word, regionOk s1 (s1.qp qpn.toNat) rkey a.toNat data.length 0 = true → a.toNat + data.length ≤ 0x010000000000 →
      (∀ b, a.toNat ≤ b → b < a.toNat + data.length → sectorRefusal s1 b = none) →
      (s1.qp qpn.toNat).bobEn = true → (s1.qp qpn.toNat).dex = false → 16 ≤ (s1.qp qpn.toNat).port → ctlRuns s1 = true →
      (s1.bob (s1.qp qpn.toNat).bobbin.toNat).state = .enabled →
      (imm - (s1.bob (s1.qp qpn.toNat).bobbin.toNat).fetched).toNat ≤ 2 ^ (s1.bob (s1.qp qpn.toNat).bobbin.toNat).entry.log2 →
      ∃ t, exec (.rdmaWriteImm qpn rkey a data imm ing hits) s = .next t ∧ Replied qpn.toNat (.rdmaAck qpn) s1 t
        ∧ t.bob (s1.qp qpn.toNat).bobbin.toNat = { s1.bob (s1.qp qpn.toNat).bobbin.toNat with prod := imm }
        ∧ (∀ b, b ≠ (s1.qp qpn.toNat).bobbin.toNat → t.bob b = s.bob b)
        ∧ (∀ b, b < qptBase s1 + 128 * qpn.toNat ∨ qptBase s1 + 128 * qpn.toNat + 128 ≤ b → Intact s1 b →
            (rdByte t b).val = if a.toNat ≤ b ∧ b < a.toNat + data.length then data.getD (b - a.toNat) 0 else (rdByte s1 b).val)
        ∧ Unchanged [.bobs, .dst, .errs, .mem, .out, .prts, .qps, .reg, .seqs, .skn, .struck] s t)
    ∧ (regionOk s1 (s1.qp qpn.toNat) rkey a.toNat data.length 0 = false → ∀ imm c,
      c = .rdmaWrite qpn rkey a data ing hits ∨ c = .rdmaWriteImm qpn rkey a data imm ing hits →
      ∃ t, exec c s = .next t ∧ Replied qpn.toNat (.nakAccess qpn) s1 t ∧ t.qps = s1.qps ∧ BytesKept [] s1 t
        ∧ Unchanged [.dst, .errs, .mem, .out, .prts, .qps, .reg, .seqs, .skn, .struck] s t)

/-- An RDMA READ taken in, whose region grants it, of bytes in skein memory without poison or error response that lie outside
the queue pair's table entry, in a class that is not paused: the packets of the answer, MTU by MTU, carry the bytes memory
holds, and every byte outside that entry reads as before. A READ that no region grants is answered with NAK Remote Access
Error. (R333, R359, R363) -/
def Obligations.RemoteReadsAnswer : Prop :=
  ∀ (qpn : BitVec 16) (rkey : Word) (a : Addr) (len : Nat) (ing : Ingress) (hits : List Hit) (s s1 : State),
    takeIn qpn.toNat 1 ing hits s = some s1 → takesRequests s1 qpn.toNat = true →
    (regionOk s1 (s1.qp qpn.toNat) rkey a.toNat len 1 = true → a.toNat + len ≤ 0x010000000000 →
      (a.toNat + len ≤ qptBase s1 + 128 * qpn.toNat ∨ qptBase s1 + 128 * qpn.toNat + 128 ≤ a.toNat) →
      (∀ b, a.toNat ≤ b → b < a.toNat + len → (rdByte s1 b).poison = false ∧ Intact s1 b) →
      classPaused s1 (s1.qp qpn.toNat).port (s1.qp qpn.toNat).cls = false →
      ∃ t, exec (.rdmaRead qpn rkey a len ing hits) s = .next t
        ∧ t.out = s1.out ++ (readPackets (mtuBytes (s1.qp qpn.toNat).pmtu) a.toNat len).map (fun p =>
            .roce (roceHdr s1 qpn.toNat (s1.qp qpn.toNat).cls) (.rdmaData qpn (rdVals s1 p.1 p.2)))
        ∧ (∀ b, b < qptBase s1 + 128 * qpn.toNat ∨ qptBase s1 + 128 * qpn.toNat + 128 ≤ b → Intact s1 b →
            (rdByte t b).val = (rdByte s1 b).val)
        ∧ Unchanged [.dst, .errs, .mem, .out, .prts, .qps, .reg, .seqs, .skn, .struck] s t)
    ∧ (regionOk s1 (s1.qp qpn.toNat) rkey a.toNat len 1 = false →
      ∃ t, exec (.rdmaRead qpn rkey a len ing hits) s = .next t ∧ Replied qpn.toNat (.nakAccess qpn) s1 t ∧ t.qps = s1.qps
        ∧ BytesKept [] s1 t ∧ Unchanged [.dst, .errs, .mem, .out, .prts, .qps, .reg, .seqs, .skn, .struck] s t)

/-- A FETCH_AND_ADD taken in: where its region grants it, its address is populated and a multiple of 8, and its sector
answers and holds neither poison nor an uncorrectable error, the 8 bytes at the address hold the old value plus the operand
mod 2^64, the old value is the answer, and every other byte outside the queue pair's table entry reads as before. Where no
region grants it the answer is NAK Remote Access Error; where the address is misaligned or not populated, NAK Invalid
Request; no byte changes. (R359, R361) -/
def Obligations.FetchAndAddAdds : Prop :=
  ∀ (qpn : BitVec 16) (rkey : Word) (a : Addr) (operand : BitVec 64) (ing : Ingress) (hits : List Hit) (s s1 : State),
    takeIn qpn.toNat 1 ing hits s = some s1 → takesRequests s1 qpn.toNat = true →
    (regionOk s1 (s1.qp qpn.toNat) rkey a.toNat 8 2 = true → populated a.toNat = true → a.toNat % 8 = 0 → sectorRefusal s1 a.toNat = none →
      Intact s1 a.toNat → classify (s1.errOf (a.toNat / 32)) ≠ .poison → classify (s1.errOf (a.toNat / 32)) ≠ .bad →
      ∃ t, exec (.fetchAndAdd qpn rkey a operand ing hits) s = .next t
        ∧ Replied qpn.toNat (.atomicAck qpn (BitVec.ofNat 64 (rdNat s1 a.toNat 8))) s1 t
        ∧ (∀ b, b < qptBase s1 + 128 * qpn.toNat ∨ qptBase s1 + 128 * qpn.toNat + 128 ≤ b → Intact s1 b →
            (rdByte t b).val = if a.toNat ≤ b ∧ b < a.toNat + 8 then
              (leBytes 8 (BitVec.ofNat 64 (rdNat s1 a.toNat 8) + operand).toNat).getD (b - a.toNat) 0 else (rdByte s1 b).val)
        ∧ Unchanged [.dst, .errs, .mem, .out, .prts, .qps, .reg, .seqs, .skn, .struck] s t)
    ∧ (regionOk s1 (s1.qp qpn.toNat) rkey a.toNat 8 2 = false →
      ∃ t, exec (.fetchAndAdd qpn rkey a operand ing hits) s = .next t ∧ Replied qpn.toNat (.nakAccess qpn) s1 t
        ∧ t.qps = s1.qps ∧ BytesKept [] s1 t ∧ Unchanged [.dst, .errs, .mem, .out, .prts, .qps, .reg, .seqs, .skn, .struck] s t)
    ∧ (regionOk s1 (s1.qp qpn.toNat) rkey a.toNat 8 2 = true → populated a.toNat = false ∨ a.toNat % 8 ≠ 0 →
      ∃ t, exec (.fetchAndAdd qpn rkey a operand ing hits) s = .next t ∧ Replied qpn.toNat (.nakInvalid qpn) s1 t
        ∧ t.qps = s1.qps ∧ BytesKept [] s1 t ∧ Unchanged [.dst, .errs, .mem, .out, .prts, .qps, .reg, .seqs, .skn, .struck] s t)

/-- On a port that passes frames: PFC_XOFF pauses the class from now (a pause in force goes on from where it began); PFC_XON
ends the pause and sends what waits; PFC_XOFF_REPEAT, where the port holds the peer off, sends XOFF again once half the pause
time has passed and the occupancy stays high, with the class's priority and pause time 0xFFFF, and XON where it has fallen 64
KiB below the threshold. PFC_STORM reports a pause of PRT[0]_PFC_STORM ticks once. The other class and the other ports keep
their pauses. (R349, R350, R351) -/
def Obligations.PausesFollowPfc : Prop :=
  ∀ (n : BitVec 5) (cls : Bool) (s : State), n.toNat < 20 →
    (portUp s n.toNat = true →
      ∃ t, exec (.pfcXoff n cls) s = .next t ∧ pauseOf t n.toNat cls = some ((pauseOf s n.toNat cls).getD s.wall)
        ∧ pauseOf t n.toNat (!cls) = pauseOf s n.toNat (!cls) ∧ (∀ q, q ≠ n.toNat → t.prt q = s.prt q)
        ∧ Unchanged [.prts, .reg] s t)
    ∧ (∀ lapse, portUp s n.toNat = true → (lapse = true → (pauseOf s n.toNat cls).isSome = true) →
      ∃ t, exec (.pfcXon n cls lapse) s = .next t ∧ pauseOf t n.toNat cls = none ∧ stormOf t n.toNat cls = false
        ∧ pauseOf t n.toNat (!cls) = pauseOf s n.toNat (!cls) ∧ (∀ q, q ≠ n.toNat → t.prt q = s.prt q)
        ∧ Unchanged [.reg, .mem, .errs, .skn, .dst, .reports, .seqs, .trns, .qps, .prts, .ply, .out] s t)
    ∧ (∀ w, pauseOf s n.toNat cls = some w → w + (s.getReg (rPrt 0 0x1034)).toNat ≤ s.wall → stormOf s n.toNat cls = false →
      ∃ t, exec (.pfcStorm n cls) s = .next t ∧ stormOf t n.toNat cls = true ∧ pauseOf t n.toNat cls = some w
        ∧ Sent { source := srcPrt n.toNat, kind := kPFC_STORM, flags := flagParam
                 addr := BitVec.ofNat 48 (n.toNat + 32 * (if cls then 1 else 0)) } none s t
        ∧ (∀ q, q ≠ n.toNat → t.prt q = s.prt q) ∧ Unchanged [.prts, .dst, .seqs] s t)
    ∧ (stormOf s n.toNat cls = true → exec (.pfcStorm n cls) s = .next s)
    ∧ (∀ occ, portUp s n.toNat = true → xoffOf s n.toNat cls = true → occHigh s n.toNat occ = true → halfPause s n.toNat cls = true →
      ∃ t, exec (.pfcXoffRepeat n cls occ) s = .next t
        ∧ t.out = s.out ++ [.pfc (BitVec.ofNat 5 n.toNat) (pcpOf s n.toNat (if cls then 1 else 0)) 0xFFFF]
        ∧ xoffOf t n.toNat cls = true ∧ (∀ q, q ≠ n.toNat → t.prt q = s.prt q) ∧ Unchanged [.out, .prts, .reg] s t)
    ∧ (∀ occ, portUp s n.toNat = true → xoffOf s n.toNat cls = true → occHigh s n.toNat occ = false →
      occ + 65536 + headroomBytes s n.toNat < 2 ^ 20 →
      ∃ t, exec (.pfcXoffRepeat n cls occ) s = .next t
        ∧ t.out = s.out ++ [.pfc (BitVec.ofNat 5 n.toNat) (pcpOf s n.toNat (if cls then 1 else 0)) 0]
        ∧ xoffOf t n.toNat cls = false ∧ (∀ q, q ≠ n.toNat → t.prt q = s.prt q) ∧ Unchanged [.out, .prts, .reg] s t)

/-- On a queue pair in RTS: a CNP that its port passes cuts the rate to max(least, rate - rate × CUT div 256), of the rate
before an increase at the same tick, restarts the period and counts; CC_PERIOD, when the period has passed, raises the rate
by the step, not beyond the line rate. No other queue pair's state changes. (R353) -/
def Obligations.RatesFollowCnp : Prop :=
  ∀ (qpn : BitVec 16) (s : State), (s.qp qpn.toNat).state = 3 →
    (∀ r, portUp s (s.qp qpn.toNat).port = true →
      r = (match (s.qp qpn.toNat).ccOld with | some (w, r) => if w = s.wall then r else (s.qp qpn.toNat).rate | none => (s.qp qpn.toNat).rate) →
      ∃ t, exec (.cnp qpn) s = .next t
        ∧ t.qp qpn.toNat = { s.qp qpn.toNat with
            rate := max ((s.getReg (rPrt 0 0x102C)).toNat % 1024) (r - r * ((s.getReg (rPrt 0 0x1020)).toNat % 256) / 256)
            ccFrom := s.wall, ccOld := none, cnpRx := satAdd32 (s.qp qpn.toNat).cnpRx 1 }
        ∧ (∀ m, m ≠ qpn.toNat → t.qp m = s.qp m) ∧ Unchanged [.reg, .mem, .errs, .skn, .dst, .seqs, .qps] s t)
    ∧ (s.ready = true → (s.qp qpn.toNat).ccFrom + (s.getReg (rPrt 0 0x1028)).toNat % 2 ^ 24 ≤ s.wall →
      ∃ t, exec (.ccPeriod qpn) s = .next t
        ∧ t.qp qpn.toNat = { s.qp qpn.toNat with
            rate := min (lineRate (s.qp qpn.toNat).port) ((s.qp qpn.toNat).rate + (s.getReg (rPrt 0 0x1024)).toNat % 1024)
            ccFrom := (s.qp qpn.toNat).ccFrom + (s.getReg (rPrt 0 0x1028)).toNat % 2 ^ 24
            ccOld := some (s.wall, (s.qp qpn.toNat).rate) }
        ∧ (∀ m, m ≠ qpn.toNat → t.qp m = s.qp m) ∧ Unchanged [.reg, .mem, .errs, .skn, .dst, .seqs, .qps] s t)

/-- On a queue pair whose oldest operation has left and which awaits its answer, the answer's packet taken in by the port: an
ACKNOWLEDGEMENT takes the operation off and clears the retry counts, its plying command or write-back goes on, and plying
commands that waited send; an RNR NAK retransmits within RNR_RETRY (7: without limit); ACK_TIMEOUT, once the timeout has
passed, retransmits within RETRY; any other NAK, and a retry beyond its limit, puts the queue pair in ERROR with an empty
send queue and sends QP_ERROR. (R357) -/
def Obligations.AnswersAndTimeouts : Prop :=
  ∀ (qpn : BitVec 16) (ing : Ingress) (s s1 : State) (q : Qp), q = s1.qp qpn.toNat → (awaiting s qpn.toNat).isSome = true →
    ingress qpn.toNat 1 ing s = (s1, true) →
    (∀ b, portUp s q.port = true → awaiting s qpn.toNat = some (.send b none) →
      ∃ t, exec (.acknowledgement qpn ing) s = .next t ∧ t = plyResume (popOp qpn.toNat s1)
        ∧ (s.ply = [] → t.qp qpn.toNat = { q with sq := q.sq.drop 1, tries := 0, rnrTries := 0, sentAt := s.wall
                                                  again := q.again && (q.sq.drop 1).any (·.sent) }
          ∧ (∀ m, m ≠ qpn.toNat → t.qp m = s.qp m) ∧ Unchanged [.dst, .errs, .mem, .out, .prts, .qps, .reg, .seqs, .skn] s t))
    ∧ (∀ b id, portUp s q.port = true → awaiting s qpn.toNat = some (.send b (some id)) →
      ∃ t, exec (.acknowledgement qpn ing) s = .next t ∧ t = plyResume (plyAcked id (popOp qpn.toNat s1)))
    ∧ (∀ ra rk d k gid f, portUp s q.port = true → awaiting s qpn.toNat = some (.write ra rk d k gid) → flyingWrite s k gid = some f →
      ∃ t, exec (.acknowledgement qpn ing) s = .next t ∧ t = plyResume (doneWriteBack k f (popOp qpn.toNat s1)))
    ∧ (portUp s q.port = true → q.rnrRetry = 7 ∨ q.rnrTries < q.rnrRetry →
      ∃ t, exec (.nakReceived qpn .rnr ing) s = .next t ∧ (t.qp qpn.toNat).state = 3 ∧ (t.qp qpn.toNat).rnrTries = min 7 (q.rnrTries + 1)
        ∧ ((t.qp qpn.toNat).sq.map (·.op)) = q.sq.map (·.op) ∧ (∀ m, m ≠ qpn.toNat → t.qp m = s.qp m)
        ∧ Unchanged [.dst, .errs, .mem, .out, .prts, .qps, .reg, .seqs, .skn] s t)
    ∧ (portUp s q.port = true → q.rnrRetry ≠ 7 → q.rnrRetry ≤ q.rnrTries →
      ∃ t, exec (.nakReceived qpn .rnr ing) s = .next t ∧ t = qpError qpn.toNat 2 s1)
    ∧ (portUp s q.port = true →
      ∃ t, exec (.nakReceived qpn .other ing) s = .next t ∧ t = qpError qpn.toNat 3 s1
        ∧ ((∀ o ∈ q.sq, ∃ b, o.op = .send b none) → (t.qp qpn.toNat).state = 4 ∧ (t.qp qpn.toNat).sq = []
            ∧ Sent { source := srcPrt q.port, kind := kQP_ERROR, flags := flagParam, addr := BitVec.ofNat 48 (qpn.toNat + 3 * 2 ^ 16) } none s1
                (faultParam (srcPrt q.port) kQP_ERROR (qpn.toNat + 3 * 2 ^ 16) s1)
            ∧ (∀ m, m ≠ qpn.toNat → t.qp m = s.qp m) ∧ Unchanged [.dst, .errs, .mem, .out, .prts, .qps, .reg, .seqs, .skn] s t))
    ∧ (s.ready = true → ackExpired s (s.qp qpn.toNat) = true → (s.qp qpn.toNat).tries < (s.qp qpn.toNat).retry →
      ∃ t, exec (.ackTimeout qpn) s = .next t ∧ (t.qp qpn.toNat).state = 3 ∧ (t.qp qpn.toNat).tries = (s.qp qpn.toNat).tries + 1
        ∧ ((t.qp qpn.toNat).sq.map (·.op)) = (s.qp qpn.toNat).sq.map (·.op) ∧ (∀ m, m ≠ qpn.toNat → t.qp m = s.qp m)
        ∧ Unchanged [.dst, .errs, .mem, .out, .qps, .reg, .seqs, .skn] s t)
    ∧ (s.ready = true → ackExpired s (s.qp qpn.toNat) = true → (s.qp qpn.toNat).retry ≤ (s.qp qpn.toNat).tries →
      ∃ t, exec (.ackTimeout qpn) s = .next t ∧ t = qpError qpn.toNat 1 s)

/-- LINK_DOWN of a port whose link is up, or was lost by a reset, once the loss has lasted LINK_HOLD, clears the link, counts
and sends LINK_DOWN, and on a fabric port changes no queue pair. LINK_UP of an enabled port that is down, clocked and not in
reset sets the link. The other ports keep theirs. On a port that passes frames, a frame that uses an unsupported feature, one
whose invariant CRC fails and codewords that the FEC cannot correct are counted and dropped; a request for an unsupported
operation on a queue pair in RTS of that port is answered with NAK Invalid Request. The management port counts. (R347, R348,
R364, R365, R373, R375, R377) -/
def Obligations.LinksComeAndGo : Prop :=
  (∀ (n : BitVec 5) (ticks : Nat) (s : State), n.toNat < 20 → (s.prt n.toNat).link = true ∨ (s.prt n.toNat).lost = true →
    (s.getReg (rPrt n.toNat 0x28)).toNat % 2 ^ 24 ≤ ticks →
    ∃ t, exec (.linkDown n ticks) s = .next t ∧ (t.prt n.toNat).link = false ∧ (t.prt n.toNat).lost = false
      ∧ (∀ p, p ≠ n.toNat → (t.prt p).link = (s.prt p).link) ∧ Unchanged [.reg, .mem, .errs, .skn, .dst, .reports, .seqs, .trns, .qps, .prts,
          .crds, .ply, .out] s t
      ∧ (n.toNat < 16 → Unchanged [.prts, .reg, .dst, .seqs] s t
          ∧ Sent { source := srcPrt n.toNat, kind := kLINK_DOWN, flags := flagParam, addr := BitVec.ofNat 48 n.toNat } none s t))
  ∧ (∀ (n : BitVec 5) (s : State), n.toNat < 20 → (s.prt n.toNat).en = true → (s.prt n.toNat).link = false →
    s.gate.getLsbD (vecPrt n.toNat) = true → s.rstBusy.getLsbD (vecPrt n.toNat) = false →
    ∃ t, exec (.linkUp n) s = .next t ∧ (t.prt n.toNat).link = true ∧ (t.prt n.toNat).lost = false
      ∧ (∀ p, p ≠ n.toNat → t.prt p = s.prt p) ∧ Unchanged [.reg, .mem, .errs, .skn, .dst, .reports, .seqs, .trns, .qps, .prts, .ply, .out] s t)
  ∧ (∀ (n : BitVec 5) (s : State), n.toNat < 20 → portUp s n.toNat = true →
    (∃ t, exec (.unsupportedFrame n .frame) s = .next t ∧ t.getReg (rPrt n.toNat 0x54) = satAdd32 (mget s.reg (rPrt n.toNat 0x54) 0) 1
      ∧ Unchanged [.reg] s t)
    ∧ (∃ t, exec (.unsupportedFrame n .icrc) s = .next t ∧ t.getReg (rPrt n.toNat 0x50) = satAdd32 (mget s.reg (rPrt n.toNat 0x50) 0) 1
      ∧ Unchanged [.reg] s t)
    ∧ (∀ k, 0 < k → ∃ t, exec (.unsupportedFrame n (.fec k)) s = .next t
      ∧ t.getReg (rPrt n.toNat 0x4C) = satAdd32 (mget s.reg (rPrt n.toNat 0x4C) 0) k ∧ Unchanged [.reg] s t)
    ∧ (∀ qpn : BitVec 16, (s.qp qpn.toNat).state = 3 → (s.qp qpn.toNat).port = n.toNat →
      ∃ t, exec (.unsupportedFrame n (.request qpn)) s = .next t ∧ Replied qpn.toNat (.nakInvalid qpn) s t ∧ Unchanged [.reg, .prts, .out] s t))
  ∧ (∀ (f : BadFrame) (s : State), portUp s 20 = false → s.pkg.power = .on → s.pkg.resetLow = false → s.ndy.phase ≠ .held →
    ∃ t, exec (.unsupportedFrame 20 f) s = .next t ∧ Unchanged [.reg] s t)

/-- A write of PRT[0]_QP_CMD that reaches the register: LOAD of a queue pair in RESET with a sound entry puts it in RTS as
the entry says; ERROR and RESET (queue pairs 2 and up, nothing in the send queue) put it in that state; REARM of a migrated
one arms it; the result register names the queue pair without the failure bit. Queue pairs 0 and 1, a LOAD outside RESET and
a REARM of one that has not migrated set the failure bit, send QP_CFG and change no queue pair. (R355, R364) -/
def Obligations.QueuePairCommands : Prop :=
  ∀ (o : Origin) (qpn : BitVec 16) (s : State), enters o (rPrt 0 0x1018) s = true → reachRefusal o (rPrt 0 0x1018) s = none →
    (2 ≤ qpn.toNat → (s.qp qpn.toNat).state = 0 → rdPoison s (qptBase s + qpn.toNat * 128) 128 = false →
      qpReservedOk (rdNat s (qptBase s + qpn.toNat * 128) 128) = true →
      qpFieldsOk (parseQp (rdNat s (qptBase s + qpn.toNat * 128) 128)) = true →
      ∃ t, exec (.qpLoad o qpn) s = .next t ∧ (t.qp qpn.toNat).state = 3 ∧ (t.qp qpn.toNat).mig = 0
        ∧ (t.qp qpn.toNat).rate = lineRate (t.qp qpn.toNat).port ∧ (t.qp qpn.toNat).port = (parseQp (rdNat s (qptBase s + qpn.toNat * 128) 128)).port
        ∧ (t.qp qpn.toNat).rqPsn = (parseQp (rdNat s (qptBase s + qpn.toNat * 128) 128)).rqPsn
        ∧ (∀ m, m ≠ qpn.toNat → t.qp m = s.qp m) ∧ t.qpResult = BitVec.ofNat 32 qpn.toNat
        ∧ Unchanged [.qps, .qpResult, .dst, .errs, .mem, .reg, .seqs, .skn] s t)
    ∧ (2 ≤ qpn.toNat → (s.qp qpn.toNat).sq = [] → ∀ c n, (c = .qpCmdError o qpn ∧ n = 4) ∨ (c = .qpReset o qpn ∧ n = 0) →
      ∃ t, exec c s = .next t ∧ t.qp qpn.toNat = { s.qp qpn.toNat with state := n, sq := [], tries := 0, rnrTries := 0, again := false }
        ∧ (∀ m, m ≠ qpn.toNat → t.qp m = s.qp m) ∧ t.qpResult = BitVec.ofNat 32 qpn.toNat
        ∧ Unchanged [.qps, .qpResult, .dst, .errs, .mem, .reg, .seqs, .skn] s t)
    ∧ ((s.qp qpn.toNat).mig = 1 ∨ (s.qp qpn.toNat).mig = 2 →
      ∃ t, exec (.qpRearm o qpn) s = .next t ∧ t.qp qpn.toNat = { s.qp qpn.toNat with mig := 0 }
        ∧ (∀ m, m ≠ qpn.toNat → t.qp m = s.qp m) ∧ t.qpResult = BitVec.ofNat 32 qpn.toNat
        ∧ Unchanged [.qps, .qpResult, .dst, .errs, .mem, .reg, .seqs, .skn] s t)
    ∧ (∀ c, (c = .qpLoad o qpn ∧ ((s.qp qpn.toNat).state ≠ 0 ∨ qpn.toNat < 2)) ∨ (c = .qpCmdError o qpn ∧ qpn.toNat < 2)
        ∨ (c = .qpReset o qpn ∧ qpn.toNat < 2) ∨ (c = .qpRearm o qpn ∧ (s.qp qpn.toNat).mig ≠ 1 ∧ (s.qp qpn.toNat).mig ≠ 2) →
      ∃ t, exec c s = .next t ∧ t.qpResult = BitVec.ofNat 32 (qpn.toNat + 65536)
        ∧ Sent { source := srcPrt 0, kind := kQP_CFG, flags := flagParam ||| originFlags o, addr := BitVec.ofNat 48 qpn.toNat } none s t
        ∧ Unchanged [.qpResult, .dst, .seqs] s t)

/-- A write that reaches the register: DST[0]_STATUS keeps the bits that the value leaves 0 of those set; while no event is
posted EVR_BASE_LO of a 32-byte boundary is held and EVR_BASE_HI puts the base in force where the ring lies at a permitted
place, EVR_CFG takes 8 to 20 where it fits; KIND_CFG with threshold not 0 and actions that its kind admits, and KIND_WIN not
0, settle the kind selected and no other; any other value is refused. Nothing else of the distaff or the device changes.
(R385, R386, R388, R393, R398) -/
def Obligations.DistaffRegistersWritten : Prop :=
  ∀ (o : Origin) (v : Word) (s : State),
    (Reaches o (rDst 0) s →
      ∃ t, exec (.dstStatusClear o v) s = .next t ∧ DistaffIs { s.dst with status := s.dst.status &&& ~~~(v.setWidth 6) } t
        ∧ Unchanged [.dst] s t)
    ∧ (Reaches o (rDst 0x70) s → s.dst.evrPosted = false → v.toNat % 32 = 0 →
      ∃ t, exec (.evrBaseWrite o false v) s = .next t ∧ DistaffIs { s.dst with heldLo := some v } t ∧ Unchanged [.dst] s t)
    ∧ (Reaches o (rDst 0x74) s → s.dst.evrPosted = false →
      evrOk s ((v.setWidth 16 : BitVec 16).toNat * 2 ^ 32 + (s.dst.heldLo.getD s.dst.evrBaseLo).toNat) s.dst.evrLog2.toNat = true →
      ∃ t, exec (.evrBaseWrite o true v) s = .next t
        ∧ DistaffIs { s.dst with evrBaseLo := s.dst.heldLo.getD s.dst.evrBaseLo, evrBaseHi := v.setWidth 16, heldLo := none } t
        ∧ Unchanged [.dst] s t)
    ∧ (Reaches o (rDst 0x78) s → s.dst.evrPosted = false → 8 ≤ v.toNat % 32 → v.toNat % 32 ≤ 20 → evrOk s (evrBase s) (v.toNat % 32) = true →
      ∃ t, exec (.evrCfgWrite o v) s = .next t ∧ DistaffIs { s.dst with evrLog2 := BitVec.ofNat 5 (v.toNat % 32) } t ∧ Unchanged [.dst] s t)
    ∧ (s.dst.evrPosted = true → ∀ a c, (a = rDst 0x70 ∧ c = .evrBaseWrite o false v) ∨ (a = rDst 0x74 ∧ c = .evrBaseWrite o true v)
        ∨ (a = rDst 0x78 ∧ c = .evrCfgWrite o v) → Reaches o a s →
      ∃ t, exec c s = .next t ∧ t.dst.evrBaseLo = s.dst.evrBaseLo ∧ t.dst.evrBaseHi = s.dst.evrBaseHi ∧ t.dst.evrLog2 = s.dst.evrLog2
        ∧ t.dst.heldLo = none ∧ Unchanged [.dst, .seqs] s t)
    ∧ (∀ k : Byte, Reaches o (rDst 0x94) s → k = (s.getReg (rDst 0x90)).setWidth 8 →
      (v.toNat % 65536 ≠ 0 → v.toNat / 65536 % 8 < 6 → v.toNat / 524288 % 8 < 6 →
        (kindHasCtx k = false → v.toNat / 65536 % 8 ≠ 2 ∧ v.toNat / 524288 % 8 ≠ 2) →
        ∃ t, exec (.kindCfgWrite o false v) s = .next t
          ∧ kindCfg t k = { n := v.setWidth 16, actNormal := (v >>> 16).setWidth 3, actSevere := (v >>> 19).setWidth 3 }
          ∧ (∀ j : Byte, j ≠ k → kindCfg t j = kindCfg s j) ∧ DistaffIs { s.dst with cfg := t.dst.cfg } t ∧ Unchanged [.dst] s t)
      ∧ (v.toNat % 65536 = 0 ∨ 6 ≤ v.toNat / 65536 % 8 ∨ 6 ≤ v.toNat / 524288 % 8
          ∨ ((v.toNat / 65536 % 8 = 2 ∨ v.toNat / 524288 % 8 = 2) ∧ kindHasCtx k = false) →
        ∃ t, exec (.kindCfgWrite o false v) s = .next t ∧ Refused o (rDst 0x94) s t))
    ∧ (∀ k : Byte, Reaches o (rDst 0x98) s → k = (s.getReg (rDst 0x90)).setWidth 8 →
      (v ≠ 0 →
        ∃ t, exec (.kindCfgWrite o true v) s = .next t ∧ kindWin t k = v ∧ (∀ j : Byte, j ≠ k → kindWin t j = kindWin s j)
          ∧ DistaffIs { s.dst with win := t.dst.win } t ∧ Unchanged [.dst] s t)
      ∧ (v = 0 → ∃ t, exec (.kindCfgWrite o true v) s = .next t ∧ Refused o (rDst 0x98) s t))

/-- Where the management plane runs and a message waits at the source whose turn it is, once the entries that a parity error
damaged read as zero: where its kind's actions in force are LOG or EVENT, or the part is not READY, FAULT_MESSAGE takes it
from its queue, the next sequence number passes 0 and 0xFFFF_FFFF by, the command the message is charged to learns its
number, the latch takes it where it was free, and it takes a log entry unless 4,096 wait; LOG posts no event. At READY:
STOP_CTX clears the run bit of the message's context and no other; RESET_UNIT puts the unit of its source in reset; RETIRE
shuts the gate of one not retired and not in reset; RESET_DEVICE resets the device with cause 1. (R381, R384, R386, R387,
R388, R389, R390, R391, R418) -/
def Obligations.FaultMessageAccepted : Prop :=
  ∀ (s s1 : State) (hits : List Hit) (k : Nat) (q : QMsg) (r : List QMsg), mgmtRuns s = true →
    s1 = hits.foldl (fun s h => damageDst h s) s → nextSource s1 = some k → mget s1.dst.queues k [] = q :: r →
    ((s.ready = false ∨ ∀ a, a = (kindCfg s q.msg.kind).actNormal ∨ a = (kindCfg s q.msg.kind).actSevere → a = actLog ∨ a = actEvent) →
      ∃ t, exec (.faultMessage hits) s = .next t ∧ t.dst.last = k ∧ (∃ l, mget t.dst.queues k [] = r ++ l)
        ∧ t.dst.seq = (if s.dst.seq = 0xFFFFFFFE then 1 else s.dst.seq + 1)
        ∧ (s.dst.status.getLsbD 0 = false → t.dst.latch = q.msg.bits ∧ t.dst.latchSeq = s.dst.seq ∧ t.dst.latchTick = BitVec.ofNat 48 s.tick)
        ∧ (s.dst.status.getLsbD 0 = true → t.dst.latch = s.dst.latch ∧ t.dst.latchSeq = s.dst.latchSeq ∧ t.dst.status.getLsbD 1 = true)
        ∧ t.dst.status.getLsbD 0 = true
        ∧ t.dst.logTail = (if 4096 ≤ (s.dst.logTail - s.getReg (rDst 0x44)).toNat then s.dst.logTail else s.dst.logTail + 1)
        ∧ (∀ id, q.charge = some id → mfind t.seqs id = some s.dst.seq)
        ∧ (s.ready = false ∨ (∀ a, a = (kindCfg s q.msg.kind).actNormal ∨ a = (kindCfg s q.msg.kind).actSevere → a = actLog) →
          t.dst.evrTail = s.dst.evrTail ∧ Unchanged [.dst, .seqs, .reg] s t)
        ∧ Unchanged [.dst, .seqs, .reg, .mem, .errs, .skn] s t)
    ∧ (s.ready = true → (∀ a, a = (kindCfg s q.msg.kind).actNormal ∨ a = (kindCfg s q.msg.kind).actSevere → a = actStop) →
      ∃ t, exec (.faultMessage hits) s = .next t
        ∧ (∀ c, c < 4096 → t.run.getLsbD c = (decide (c ≠ q.msg.addr.toNat % 4096) && s.run.getLsbD c))
        ∧ Unchanged [.run, .dst, .seqs, .reg, .mem, .errs, .skn] s t)
    ∧ (∀ v, s.ready = true → (∀ a, a = (kindCfg s q.msg.kind).actNormal ∨ a = (kindCfg s q.msg.kind).actSevere → a = actResetUnit) →
      resetTarget q.msg.source = some v → v < 128 →
      ∃ t, exec (.faultMessage hits) s = .next t
        ∧ (∀ x, x < 128 → t.rstBusy.getLsbD x = (decide (x = v) || s.rstBusy.getLsbD x)) ∧ t.gate = s.gate ∧ Unchanged [.tick, .cyc, .free, .reg,
            .mem, .errs, .skn, .dst, .gate, .pend, .rstBusy, .sleepReq, .asleep, .wakeAt, .run, .spare, .spareReq, .ready, .bobs, .turns,
            .fetchTurns, .barriers, .barrierAt, .holds, .epochs, .ports, .sched, .reports, .seqs, .rwp, .wear, .retireWait, .cause, .pllLock,
            .spread, .onRoot, .clocksOn, .fmRun, .fmDone, .fmResult, .driftOdd, .monLast, .fmt, .spn, .fly, .curves, .struck, .images, .imgState,
            .loading, .loadCtx, .loadResult, .loadAddr, .planCache, .lastRun, .lastBucket, .ctxs, .trns, .lsInit, .qps, .prts, .qpResult, .crds,
            .ply, .nvm, .ndy, .whl, .pkg] s t)
    ∧ (∀ v, s.ready = true → (∀ a, a = (kindCfg s q.msg.kind).actNormal ∨ a = (kindCfg s q.msg.kind).actSevere → a = actRetire) →
      retireTarget q.msg.source = some v → v < 128 → isRetired s v = false → s.rstBusy.getLsbD v = false →
      ∃ t, exec (.faultMessage hits) s = .next t
        ∧ (∀ x, x < 128 → t.gate.getLsbD x = (decide (x ≠ v) && s.gate.getLsbD x)) ∧ t.rstBusy = s.rstBusy ∧ Unchanged [.tick, .cyc, .free, .reg,
            .mem, .errs, .skn, .dst, .gate, .pend, .rstBusy, .sleepReq, .asleep, .wakeAt, .run, .spare, .spareReq, .ready, .bobs, .turns,
            .fetchTurns, .barriers, .barrierAt, .holds, .epochs, .ports, .sched, .reports, .seqs, .rwp, .wear, .retireWait, .cause, .pllLock,
            .spread, .onRoot, .clocksOn, .fmRun, .fmDone, .fmResult, .driftOdd, .monLast, .fmt, .spn, .fly, .curves, .struck, .images, .imgState,
            .loading, .loadCtx, .loadResult, .loadAddr, .planCache, .lastRun, .lastBucket, .ctxs, .trns, .lsInit, .qps, .prts, .qpResult, .crds,
            .ply, .nvm, .ndy, .whl, .pkg] s t)
    ∧ (s.ready = true → (∀ a, a = (kindCfg s q.msg.kind).actNormal ∨ a = (kindCfg s q.msg.kind).actSevere → a = actResetDevice) →
      ∃ t, exec (.faultMessage hits) s = .next t ∧ t.cause = 1 ∧ Unchanged [.pending, .wall, .free, .ids, .rwp, .wear, .cause, .nvm,
          .fuses, .pkg, .out] State.reset t
        ∧ ∀ p ∈ [Piece.pending, .wall, .fuses, .out], SameAt p s t)

/-- A write that reaches DST[0]_RETIREDw, of a register written fewer than 100,000 times, with no NVM error: afterwards the
retired bits are those of the value. Where no bit is cleared, each unit whose bit is newly set and which is not in reset has
its gate closed (a port's link goes down), one in reset waits for its end, and every other gate is as before. Where no bit is
set, each unit whose bit is cleared has its gate open and is in reset, and every other gate is as before. (R389, R391, R399,
R400) -/
def Obligations.RetireAndReturn : Prop :=
  ∀ (o : Origin) (w : BitVec 2) (v : Word) (s : State), Reaches o (rDst (0xA0 + 4 * w.toNat)) s →
    s.wearOf (rDst (0xA0 + 4 * w.toNat)) < 100000 →
    ((∀ b u, (b, u) ∈ retiredBits w.toNat → (s.pers (rDst (0xA0 + 4 * w.toNat))).getLsbD b = true → v.getLsbD b = true) →
      ∃ t, exec (.retire o w v false) s = .next t ∧ Unchanged [.dst, .gate, .pend, .spareReq, .seqs, .rwp, .wear, .retireWait, .prts, .nvm, .ndy,
          .whl] s t
        ∧ ∀ b u, (b, u) ∈ retiredBits w.toNat → isRetired t u = v.getLsbD b
          ∧ (v.getLsbD b = true → (s.pers (rDst (0xA0 + 4 * w.toNat))).getLsbD b = false → s.rstBusy.getLsbD u = true →
              t.retireWait.getLsbD u = true ∧ t.gate.getLsbD u = s.gate.getLsbD u)
          ∧ (v.getLsbD b = true → (s.pers (rDst (0xA0 + 4 * w.toNat))).getLsbD b = false → s.rstBusy.getLsbD u = false →
              t.gate.getLsbD u = false ∧ (96 ≤ u → (t.prt (u - 96)).link = false))
          ∧ (v.getLsbD b = (s.pers (rDst (0xA0 + 4 * w.toNat))).getLsbD b → t.gate.getLsbD u = s.gate.getLsbD u))
    ∧ ((∀ b u, (b, u) ∈ retiredBits w.toNat → v.getLsbD b = true → (s.pers (rDst (0xA0 + 4 * w.toNat))).getLsbD b = true) →
      ∃ t, exec (.returnFromRepair o w v false) s = .next t ∧ Unchanged [.free, .reg, .mem, .errs, .skn, .dst, .gate, .pend, .rstBusy, .sleepReq,
          .wakeAt, .epochs, .reports, .seqs, .rwp, .wear, .retireWait, .spn, .fly, .qps, .prts, .crds, .ply, .nvm, .ndy, .whl] s t
        ∧ ∀ b u, (b, u) ∈ retiredBits w.toNat → isRetired t u = v.getLsbD b
          ∧ (v.getLsbD b = false → (s.pers (rDst (0xA0 + 4 * w.toNat))).getLsbD b = true →
              t.gate.getLsbD u = true ∧ t.rstBusy.getLsbD u = true ∧ t.retireWait.getLsbD u = false)
          ∧ (v.getLsbD b = (s.pers (rDst (0xA0 + 4 * w.toNat))).getLsbD b → t.gate.getLsbD u = s.gate.getLsbD u))

/-- A write that reaches the register: after a GATE word, each listed unit's gate is its bit, a unit that holds a command
shows its stop as pending, and other units' gates are as before. A SLEEP word with a 1 for a unit that has no sleep, and an
RST word with a 1 for one that has no reset, is refused with no effect; otherwise each listed unit's sleep request is its
bit, and each listed unit whose RST bit is 1 is in reset, the other units as before. (R39, R407, R408, R409) -/
def Obligations.GatesSleepsAndResets : Prop :=
  ∀ (o : Origin) (w : BitVec 2) (v : Word) (s : State),
    (Reaches o (rClk (0x40 + 4 * w.toNat)) s →
      ∃ t, exec (.gateWrite o w v) s = .next t ∧ (w.toNat ≠ 3 → SameDistaff s t ∧ Unchanged [.gate, .pend, .dst] s t)
        ∧ Unchanged [.reg, .mem, .errs, .skn, .dst, .gate, .pend, .reports, .seqs, .trns, .qps, .prts, .ply, .out] s t
        ∧ ∀ u, u < 128 → t.gate.getLsbD u = (if u / 32 = w.toNat ∧ vecUsed u = true then v.getLsbD (u % 32) else s.gate.getLsbD u)
          ∧ t.pend.getLsbD u = (if u / 32 = w.toNat ∧ vecUsed u = true then
              (if v.getLsbD (u % 32) then s.pend.getLsbD u && (s.gate.getLsbD u || s.sleepReq.getLsbD u)
               else s.pend.getLsbD u || (s.gate.getLsbD u && vecBusy s u)) else s.pend.getLsbD u))
    ∧ (Reaches o (rClk (0x80 + 4 * w.toNat)) s →
      ((∃ b, b < 32 ∧ vecUsed (32 * w.toNat + b) = true ∧ v.getLsbD b = true ∧ vecHasSleep (32 * w.toNat + b) = false) →
        ∃ t, exec (.sleepWrite o w v) s = .next t ∧ Refused o (rClk (0x80 + 4 * w.toNat)) s t)
      ∧ ((∀ b, b < 32 → vecUsed (32 * w.toNat + b) = true → v.getLsbD b = true → vecHasSleep (32 * w.toNat + b) = true) →
        ∃ t, exec (.sleepWrite o w v) s = .next t ∧ SameDistaff s t ∧ Unchanged [.sleepReq, .pend, .wakeAt, .dst] s t
          ∧ ∀ u, u < 128 →
            t.sleepReq.getLsbD u = if u / 32 = w.toNat ∧ vecUsed u = true then v.getLsbD (u % 32) else s.sleepReq.getLsbD u))
    ∧ (Reaches o (rClk (0x60 + 4 * w.toNat)) s →
      ((∃ b, b < 32 ∧ vecUsed (32 * w.toNat + b) = true ∧ v.getLsbD b = true ∧ vecHasReset (32 * w.toNat + b) = false) →
        ∃ t, exec (.unitReset o w v) s = .next t ∧ Refused o (rClk (0x60 + 4 * w.toNat)) s t)
      ∧ ((∀ b, b < 32 → vecUsed (32 * w.toNat + b) = true → v.getLsbD b = true → vecHasReset (32 * w.toNat + b) = true) →
        ∃ t, exec (.unitReset o w v) s = .next t ∧ t.gate = s.gate ∧ Unchanged [.free, .reg, .mem, .errs, .skn, .dst, .pend, .rstBusy, .epochs,
            .reports, .seqs, .spn, .fly, .qps, .prts, .crds, .ply] s t
          ∧ ∀ u, u < 128 →
            t.rstBusy.getLsbD u = (s.rstBusy.getLsbD u || (decide (u / 32 = w.toNat) && vecUsed u && v.getLsbD (u % 32)))))

/-- A write that reaches the register: ISSUE takes four limits from 1 to 64; RUN_SET sets and RUN_CLR clears the run bits of
its 32 contexts that the value names, no other; SPARE notes a request where none waits, the map differs and the spindles and
the endurance allow it; the KEY 0x5A5A of DEV_RESET resets the device with cause 3; a legal FM_CTL with START begins a
measurement. Other values of ISSUE, DEV_RESET and FM_CTL are refused. (R410, R411, R412, R413, R418) -/
def Obligations.ClockFileWritten : Prop :=
  ∀ (o : Origin) (v : Word) (s : State),
    (Reaches o (rClk 0xA0) s →
      ((∀ j, j < 4 → 1 ≤ v.toNat / 2 ^ (8 * j) % 128 ∧ v.toNat / 2 ^ (8 * j) % 128 ≤ 64) →
        ∃ t, exec (.issueWrite o v) s = .next t
          ∧ (∀ a, t.getReg a = if a = rClk 0xA0 then v &&& 0x7F7F7F7F else s.getReg a) ∧ SameDistaff s t ∧ Unchanged [.reg, .dst] s t)
      ∧ (∀ j, j < 4 → v.toNat / 2 ^ (8 * j) % 128 = 0 ∨ 64 < v.toNat / 2 ^ (8 * j) % 128 →
        ∃ t, exec (.issueWrite o v) s = .next t ∧ Refused o (rClk 0xA0) s t))
    ∧ (∀ i : BitVec 7, Reaches o (rClk (0x100 + 4 * i.toNat)) s →
      ∃ t, exec (.runSet o i v) s = .next t ∧ SameDistaff s t ∧ Unchanged [.run, .dst] s t
        ∧ ∀ c, c < 4096 → t.run.getLsbD c = (s.run.getLsbD c || (decide (c / 32 = i.toNat) && v.getLsbD (c % 32))))
    ∧ (∀ i : BitVec 7, Reaches o (rClk (0x300 + 4 * i.toNat)) s →
      ∃ t, exec (.runClr o i v) s = .next t ∧ SameDistaff s t ∧ Unchanged [.run, .dst] s t
        ∧ ∀ c, c < 4096 → t.run.getLsbD c = (s.run.getLsbD c && !(decide (c / 32 = i.toNat) && v.getLsbD (c % 32))))
    ∧ (Reaches o (rClk 0xB0) s →
      (s.spareReq = none → v.getLsbD 4 = true → isRetired s 16 = false → s.spare.getLsbD 4 = false → mget s.wear (rClk 0xB0) 0 < 100000 →
        ∃ t, exec (.spareWrite o v) s = .next t ∧ t.spareReq = some (BitVec.ofNat 5 (16 + v.toNat % 16), s.wall)
          ∧ SameDistaff s t ∧ Unchanged [.spareReq, .dst] s t)
      ∧ (s.spareReq = none → v.getLsbD 4 = false → s.spare.getLsbD 4 = true → isRetired s (s.spare.toNat % 16) = false →
        mget s.wear (rClk 0xB0) 0 < 100000 →
        ∃ t, exec (.spareWrite o v) s = .next t ∧ t.spareReq = some (BitVec.ofNat 5 (s.spare.toNat % 16), s.wall)
          ∧ SameDistaff s t ∧ Unchanged [.spareReq, .dst] s t)
      ∧ (s.spareReq.isSome = true → ∃ t, exec (.spareWrite o v) s = .next t ∧ Refused o (rClk 0xB0) s t))
    ∧ (Reaches o (rClk 0x10) s →
      (v.toNat % 65536 = 0x5A5A →
        ∃ t, exec (.devReset o v) s = .next t ∧ WholeReset (latchCause 3 s) s t ∧ t.pkg = { s.pkg with resetAt := some s.wall } ∧ t.out = s.out)
      ∧ (v.toNat % 65536 ≠ 0x5A5A → ∃ t, exec (.devReset o v) s = .next t ∧ Refused o (rClk 0x10) s t))
    ∧ (Reaches o (rClk 0x500) s →
      (v.toNat % 16 ≤ 7 → v.toNat / 16 % 16 ≤ 7 → 10 ≤ v.toNat / 256 % 32 → v.toNat / 256 % 32 ≤ 24 →
        ∃ t, exec (.fmStart o v) s = .next t ∧ t.fmRun = true ∧ t.fmDone = false
          ∧ (∀ a, t.getReg a = if a = rClk 0x500 then v &&& 0x1FFF else s.getReg a)
          ∧ SameDistaff s t ∧ Unchanged [.reg, .fmRun, .fmDone, .dst] s t)
      ∧ (7 < v.toNat % 16 ∨ 7 < v.toNat / 16 % 16 ∨ v.toNat / 256 % 32 < 10 ∨ 24 < v.toNat / 256 % 32 →
        ∃ t, exec (.fmStart o v) s = .next t ∧ Refused o (rClk 0x500) s t))

/-- A stopped unit asked to sleep falls asleep and its epoch rises; a unit whose power has been back for 650 ticks wakes, its
reset applied if one was asked for; a unit's reset ends, and a retirement that waited closes its gate; 1 ms after its retired
bit was set a unit is asked to sleep; a running measurement ends with its count, saturating; a window of the drift monitor
takes its count and alternates the domain. Other units are unchanged. (R391, R408, R409, R413, R414, R462) -/
def Obligations.StopsWakesAndMeasures : Prop :=
  ∀ (s : State),
    (∀ u : BitVec 7, (Instr.sleepEntry u).wf = true → vecHasSleep u.toNat = true → s.ready = true → s.sleepReq.getLsbD u.toNat = true →
      s.asleep.getLsbD u.toNat = false → s.rstBusy.getLsbD u.toNat = false → vecBusy s u.toNat = false →
      ∃ t, exec (.sleepEntry u) s = .next t ∧ Unchanged [.reg, .skn, .pend, .asleep, .epochs, .spn, .fly, .qps, .prts, .crds] s t
        ∧ (∀ x, x < 128 → t.asleep.getLsbD x = (decide (x = u.toNat) || s.asleep.getLsbD x)) ∧ t.pend.getLsbD u.toNat = false
        ∧ (∀ x, t.epoch x = if epochOfVec s u.toNat = some x then s.epoch x + 1 else s.epoch x))
    ∧ (∀ (u : BitVec 7) (w : Nat), (Instr.wake u).wf = true → mfind s.wakeAt u.toNat = some w → s.asleep.getLsbD u.toNat = true →
      w + 650 ≤ s.wall →
      ∃ t, exec (.wake u) s = .next t ∧ Unchanged [.free, .reg, .mem, .errs, .skn, .dst, .pend, .asleep, .wakeAt, .epochs, .reports, .seqs, .spn,
          .fly, .qps, .prts, .crds, .ply] s t
        ∧ (∀ x, x < 128 → t.asleep.getLsbD x = (decide (x ≠ u.toNat) && s.asleep.getLsbD x)) ∧ mfind t.wakeAt u.toNat = none
        ∧ (s.rstBusy.getLsbD u.toNat = false →
          ∀ x, t.epoch x = if s.ready = true ∧ epochOfVec s u.toNat = some x then s.epoch x + 1 else s.epoch x))
    ∧ (∀ u : BitVec 7, (Instr.unitResetDone u).wf = true → s.rstBusy.getLsbD u.toNat = true → s.asleep.getLsbD u.toNat = false →
      ∃ t, exec (.unitResetDone u) s = .next t ∧ Unchanged [.free, .dst, .gate, .pend, .rstBusy, .spareReq, .seqs, .rwp, .wear, .retireWait, .prts,
          .nvm, .ndy, .whl] s t
        ∧ (∀ x, x < 128 → t.rstBusy.getLsbD x = (decide (x ≠ u.toNat) && s.rstBusy.getLsbD x))
        ∧ (∀ x, x < 128 → t.gate.getLsbD x = (s.gate.getLsbD x && !(decide (x = u.toNat) && s.retireWait.getLsbD u.toNat)))
        ∧ t.retireWait.getLsbD u.toNat = false)
    ∧ (∀ u : BitVec 7, (Instr.retiredSleep u).wf = true → s.ready = true → isRetired s u.toNat = true → vecHasSleep u.toNat = true →
      (∀ w, mfind s.whl.retiredAt u.toNat = some w → w + 325000 ≤ s.wall) →
      ∃ t, exec (.retiredSleep u) s = .next t ∧ Unchanged [.sleepReq, .pend] s t
        ∧ ∀ x, x < 128 → t.sleepReq.getLsbD x = (decide (x = u.toNat) || s.sleepReq.getLsbD x))
    ∧ (∀ n, s.fmRun = true → s.ndy.phase ≠ .windows →
      ∃ t, exec (.fmDone n) s = .next t ∧ t.fmRun = false ∧ t.fmDone = true ∧ t.fmResult = BitVec.ofNat 32 (min n 4294967295)
        ∧ Unchanged [.fmRun, .fmDone, .fmResult] s t)
    ∧ (∀ n, s.clocksOn = true →
      ∃ t, exec (.driftWindow n) s = .next t ∧ t.driftOdd = !s.driftOdd ∧ t.monLast = BitVec.ofNat 32 (min n 4294967295)
        ∧ Unchanged [.driftOdd, .monLast, .dst, .seqs, .reg] s t
        ∧ (((if s.driftOdd then 204800 else 130744) : Nat) * ((s.getReg (rClk 0x510)).toNat % 65536)
              < ((n - if s.driftOdd then 204800 else 130744) + ((if s.driftOdd then 204800 else 130744) - n)) * 1000000 →
            Sent { source := srcNdy, kind := kCLK_DRIFT, flags := flagParam, addr := if s.driftOdd then 1 else 2 } none s t)
        ∧ (((n - if s.driftOdd then 204800 else 130744) + ((if s.driftOdd then 204800 else 130744) - n)) * 1000000
              ≤ ((if s.driftOdd then 204800 else 130744) : Nat) * ((s.getReg (rClk 0x510)).toNat % 65536) →
            Unchanged [.driftOdd, .monLast] s t))

/-- Each source that acts resets the device: every piece of state is as after reset, but for the persistent registers, the
NVM, the fuses and the cause latch, which takes the source's cause (of two resets in one tick, the lower: the model's choice,
log 104). POWER_ON from a part with no supply, and POWER_DOWN, leave cause 0; the clock monitor, once its clocks run, cause
2; RESET_N going low, 3; a power trip, 4, and the third within 1 s leaves the regulators latched off. A rail outside 5 %
sends VR_FAULT with its code. Regulators restart 10 ms after the trip; the thermal trip ends where every sensor reads 20 °C
below its trip; RESET_N rises. The last three change the package alone, and PWRGD and THERMTRIP_N follow the supply. (R417,
R418, R449, R452, R454, R455, R460) -/
def Obligations.ResetsReachEverything : Prop :=
  ∀ s : State,
    (s.pkg.power = .off → ∃ t, exec .powerOn s = .next t ∧ WholeReset 0 s t
      ∧ t.pkg = { s.pkg with power := .on, resetAt := some s.wall } ∧ t.out = s.out ++ [.pwrgd true])
    ∧ (s.pkg.power ≠ .off →
      ∃ t, exec .powerDown s = .next t ∧ WholeReset 0 s t
        ∧ t.pkg = { s.pkg with power := .off, trips := [], tap := .idcode, resetAt := some s.wall }
        ∧ t.out = s.out ++ (if s.pkg.power = .on then [.pwrgd false] else []) ++ (if s.pkg.power = .thermal then [.thermtrip false] else []))
    ∧ (s.clocksOn = true → ∃ t, exec .clockMonitorReset s = .next t ∧ WholeReset (latchCause 2 s) s t
      ∧ t.pkg = { s.pkg with resetAt := some s.wall } ∧ t.out = s.out)
    ∧ (s.pkg.resetLow = false → s.pkg.power = .on →
      ∃ t, exec .resetPin s = .next t ∧ WholeReset (latchCause 3 s) s t
        ∧ t.pkg = { s.pkg with resetLow := true, resetAt := some s.wall } ∧ t.out = s.out)
    ∧ (∃ t, exec .resetPinRelease s = .next t ∧ t.pkg = { s.pkg with resetLow := false, tap := t.pkg.tap }
      ∧ (s.pkg.tap = .extest ∨ s.pkg.tap = .clamp ∨ s.pkg.tap = .highz → t.pkg.tap = .bypass)
      ∧ (s.pkg.tap ≠ .extest → s.pkg.tap ≠ .clamp → s.pkg.tap ≠ .highz → t.pkg.tap = s.pkg.tap) ∧ Unchanged [.pkg] s t)
    ∧ (∀ rail : BitVec 3, s.pkg.power = .on →
      ∃ t, exec (.vrFault rail) s = .next t
        ∧ Sent { source := srcWhl, kind := kVR_FAULT, flags := flagParam, addr := rail.setWidth 48 } none s t ∧ Unchanged [.dst, .seqs] s t)
    ∧ (∀ rail : BitVec 3, s.pkg.power = .on ∨ s.pkg.power = .thermal →
      ∃ t, exec (.powerTrip rail) s = .next t ∧ WholeReset (latchCause 4 s) s t
        ∧ t.pkg.power = (if 2 ≤ s.pkg.trips.countP (fun w => decide (s.wall < w + 325000000)) then .latched else .tripped)
        ∧ t.pkg.trips.head? = some s.wall ∧ t.pkg.tap = .idcode
        ∧ t.out = s.out ++ (if s.pkg.power = .on then [.pwrgd false] else [.thermtrip false]))
    ∧ (∀ (w : Nat) (r : List Nat), s.pkg.power = .tripped → s.pkg.trips = w :: r → w + 3250000 ≤ s.wall →
      ∃ t, exec .regulatorRestart s = .next t ∧ t.pkg = { s.pkg with power := .on } ∧ t.out = s.out ++ [.pwrgd true]
        ∧ Unchanged [.pkg, .out] s t)
    ∧ (∀ m : Sample, m.wf = true → s.pkg.power = .thermal → (∀ x ∈ m.die, x.toInt ≤ 16 * 95) → (∀ x ∈ m.skn, x.toInt ≤ 16 * 80) →
      ∃ t, exec (.thermtripRelease m) s = .next t ∧ t.pkg = { s.pkg with power := .on }
        ∧ t.out = s.out ++ [.pwrgd true, .thermtrip false] ∧ Unchanged [.pkg, .out] s t)

/-- In a powered part out of reset: a sensor hot in two samples running resets the device with cause 4 into the thermal
state. Otherwise, with a table taken, the power level, the two curve levels and below follow R456, the level is the largest
of the three, at least 8 while FLOW_LOW, the readings show (those of the coolant where enabled, the flow from its pulses),
each skein's refresh rate follows its sensor, and CLK[0]_ISSUE takes the row of the level under the ceilings where those
limits are legal. FLOW_LOW sets once the flow has been below FLOW_MIN for 1 s and clears once it has been at or above it for
1 s. Without a table a period keeps the readings only. A write of TAB_DATA changes the word TAB_SEL names where the table
stays valid, and is refused otherwise. (R456, R457, R460, R461, R463) -/
def Obligations.WhorlPeriodActs : Prop :=
  (∀ (m : Sample) (s : State), m.wf = true → s.pkg.power = .on → s.pkg.resetLow = false →
    (tripsNow s m = true →
      ∃ t, exec (.whorlPeriod m) s = .next t ∧ WholeReset (latchCause 4 s) s t ∧ t.pkg = { s.pkg with power := .thermal, resetAt := some s.wall }
        ∧ t.out = s.out ++ [.pwrgd false, .thermtrip true])
    ∧ (tripsNow s m = false → s.whl.table = [] →
      ∃ t, exec (.whorlPeriod m) s = .next t ∧ t.whl.power = m.power ∧ t.whl.die = m.die ∧ t.whl.skn = m.skn ∧ t.whl.rails = m.rails
        ∧ t.whl.level = s.whl.level ∧ Unchanged [.whl] s t)
    ∧ (∀ (pl : Nat × Nat) (cl dl f : Nat), tripsNow s m = false → s.whl.table ≠ [] →
      pl = powerLevel m.power (s.getReg (rWhl 4)).toNat (s.getReg (rWhl 8)).toNat (s.getReg (rWhl 0xC)).toNat s.whl.plev s.whl.below →
      cl = curveLevel (hottest (numbered m.die)).2.toInt (tabCt s.whl.table) (tabChyst s.whl.table) s.whl.clev →
      dl = curveLevel (hottest (numbered m.skn)).2.toInt (tabDt s.whl.table) (tabDhyst s.whl.table) s.whl.dlev →
      f = min (m.pulses * 960 / tabKpul s.whl.table) 65535 →
      ∃ t, exec (.whorlPeriod m) s = .next t ∧ t.whl.plev = pl.1 ∧ t.whl.below = pl.2 ∧ t.whl.clev = cl ∧ t.whl.dlev = dl
        ∧ t.whl.level = (if s.whl.flowLow then max (max pl.1 (max cl dl)) 8 else max pl.1 (max cl dl))
        ∧ t.whl.power = m.power ∧ t.whl.die = m.die ∧ t.whl.skn = m.skn ∧ t.whl.rails = m.rails
        ∧ t.whl.inlet = (if tabInletEn s.whl.table then m.inlet else s.whl.inlet)
        ∧ (tabFlowEn s.whl.table = true → t.whl.flow = BitVec.ofNat 16 f
            ∧ t.whl.flowBelow = (if f < tabFlowMin s.whl.table then some (s.whl.flowBelow.getD s.wall) else none)
            ∧ t.whl.flowAbove = (if f < tabFlowMin s.whl.table then none else some (s.whl.flowAbove.getD s.wall)))
        ∧ (tabFlowEn s.whl.table = false → t.whl.flow = s.whl.flow ∧ t.whl.flowBelow = none ∧ t.whl.flowAbove = none)
        ∧ t.whl.table = s.whl.table ∧ t.whl.flowLow = s.whl.flowLow
        ∧ (∀ k, k < 32 → t.skein k =
            { s.skein k with refresh := BitVec.ofNat 2 (refreshRate (m.skn.getD k 0).toInt (tabRef2 s.whl.table) (tabRef4 s.whl.table)
                (tabRhyst s.whl.table) (s.skein k).refresh.toNat) })
        ∧ ((List.range 4).all (fun c => 1 ≤ tabRow s.whl.table t.whl.level c && tabRow s.whl.table t.whl.level c ≤ 64
              && 1 ≤ (issueFields (s.getReg (rWhl 0x1C))).getD c 0) = true →
            issueFields (t.getReg (rClk 0xA0))
              = (List.range 4).map (fun c => min (tabRow s.whl.table t.whl.level c) ((issueFields (s.getReg (rWhl 0x1C))).getD c 0)))
        ∧ Unchanged [.whl, .reg, .skn, .dst, .seqs] s t))
  ∧ (∀ (s : State) (w : Nat), tabFlowEn s.whl.table = true → s.whl.flowLow = false → s.whl.flowBelow = some w → w + 325000000 ≤ s.wall →
    ∃ t, exec .flowLow s = .next t ∧ t.whl = { s.whl with flowLow := true }
      ∧ Sent { source := srcWhl, kind := kTHERM_COMPUTE, flags := flagParam, addr := 0xF1 } none s t ∧ Unchanged [.whl, .dst, .seqs] s t)
  ∧ (∀ (s : State) (w : Nat), s.whl.flowLow = true → s.whl.flowAbove = some w → w + 325000000 ≤ s.wall →
    ∃ t, exec .flowRestored s = .next t ∧ t.whl = { s.whl with flowLow := false } ∧ Unchanged [.whl] s t)
  ∧ (∀ (o : Origin) (v : Word) (s : State) (w : Nat) (l : List Byte), Reaches o (rWhl 0x34) s →
    w = (s.getReg (rWhl 0x30)).toNat % 64 → s.whl.table.length = 256 →
    l = s.whl.table.take (4 * w) ++ leBytes 4 v.toNat ++ s.whl.table.drop (4 * w + 4) →
    (tabOk l = true → ∃ t, exec (.tabDataWrite o v) s = .next t ∧ t.whl = { s.whl with table := l } ∧ SameDistaff s t
      ∧ Unchanged [.whl, .dst] s t)
    ∧ (tabOk l = false → ∃ t, exec (.tabDataWrite o v) s = .next t ∧ Refused o (rWhl 0x34) s t))

/-- From a held device with supply, which is not READY, BOOT_START pulls XSPI_RST_N low; it fails with 0xF0 where the NVM
does not answer or a read of it fails, with 0xF1 where no header is a candidate, with the image's own reason where the only
candidate does not pass; where an image passes it becomes the running one, and step 8 starts, locked where the core reference
is present. A stability window counts and shows its count; the third pass running puts the device on the spread root and
every skein begins to train; the 64th window without fails with 0xF9. BOOT_READY ends the training and the fill and, with
every table in a READY skein, reports READY with every context's run bit set and every limit at 64; it fails with 0xF8
otherwise. A failed boot shows step 8 with every gate shut. (R339, R340, R400, R415, R420, R421, R430, R431, R432, R433,
R434, R468) -/
def Obligations.BootProceeds : Prop :=
  ∀ s : State,
    (∀ (e : BootEnv) (s1 : State), s.pkg.power = .on → s.pkg.resetLow = false → s.ndy.phase = .held → s.ready = false →
      s1 = { setNdy (fun n => { n with fast := e.nvmFast, trainFail := e.trainFail, step := 0 }) s with out := s.out ++ [.xspiReset] } →
      (e.nvmOk = false ∨ e.readError = some .scan →
        ∃ t, exec (.bootStart e) s = .next t ∧ t.ndy.phase = .failing ∧ t.ndy.reason = 0xF0 ∧ t.ndy.step = 0
          ∧ ((s.pers (rPrt 20 4)) = 0 → s.pers (rPrt 20 8) = 0 → t.ndy.mac = s.fuses.mac.toNat) ∧ Unchanged [.ndy] s1 t)
      ∧ (∀ s2 s3 : State, e.nvmOk = true → e.readError ≠ some .scan → s2 = setNdy (fun n => { n with step := 1 }) (bootPersist s1) →
          s3 = reportHeaders s2 →
          (e.readError = some .headers →
            ∃ t, exec (.bootStart e) s = .next t ∧ t.ndy = { s2.ndy with phase := .failing, reason := 0xF0 } ∧ Unchanged [.ndy] s2 t)
          ∧ (e.readError ≠ some .headers → candidates s2 = [] →
            ∃ t, exec (.bootStart e) s = .next t ∧ t.ndy = { s3.ndy with phase := .failing, reason := 0xF1 } ∧ Unchanged [.ndy] s3 t)
          ∧ (∀ (i : Nat) (r : List Nat), e.readError ≠ some .headers → candidates s2 = i :: r →
            (badSlot e = some i → ∃ t, exec (.bootStart e) s = .next t
              ∧ t.ndy = { s3.ndy with slot := i, step := 1, phase := .failing, reason := 0xF0 } ∧ Unchanged [.ndy] s3 t)
            ∧ (∀ x, badSlot e ≠ some i → imageReason s3 i = some x → r = [] →
              ∃ t, exec (.bootStart e) s = .next t ∧ t.ndy.phase = .failing ∧ t.ndy.reason = x ∧ t.ndy.fallback = true ∧ t.ndy.slot = i)
            ∧ (badSlot e ≠ some i → imageReason s3 i = none →
              ∃ t, exec (.bootStart e) s = .next t ∧ t.ndy.slot = i ∧ t.ndy.seq = BitVec.ofNat 32 (imgSeq s2 i) ∧ t.ndy.step = 4
                ∧ t.ndy.digest = sha384 (imgBytes s2 i 0 (imgLen s2 i)) ∧ t.ndy.fallback = s.ndy.fallback
                ∧ t.ndy.phase = (if e.refPresent then .windows else .waitRef) ∧ t.pllLock = (e.refPresent || s.pllLock)
                ∧ t.fmRun = (e.refPresent || s.fmRun) ∧ t.onRoot = s.onRoot ∧ t.gate = s.gate))))
    ∧ (s.ndy.phase = .waitRef →
      ∃ t, exec .coreReferencePresent s = .next t ∧ t.ndy = { s.ndy with step := 4, phase := .windows, windows := 0, passes := 0 }
        ∧ t.pllLock = true ∧ t.fmRun = true ∧ t.fmDone = false ∧ Unchanged [.ndy, .pllLock, .fmRun, .fmDone] s t)
    ∧ (∀ (count p : Nat) (s1 : State), s.ndy.phase = .windows →
      p = (if s.ndy.windows = 0 then 0 else if 131046 ≤ count ∧ count ≤ 131098 then s.ndy.passes + 1 else 0) →
      s1 = { setNdy (fun n => { n with windows := s.ndy.windows + 1, passes := p }) s with
        fmResult := BitVec.ofNat 32 (min count 4294967295), fmDone := decide (p = 3 ∨ 64 ≤ s.ndy.windows + 1)
        fmRun := decide (p ≠ 3 ∧ s.ndy.windows + 1 < 64) } →
      (p ≠ 3 → s.ndy.windows + 1 < 64 → exec (.clockStabilityWindow count) s = .next s1)
      ∧ (p ≠ 3 → 64 ≤ s.ndy.windows + 1 →
        ∃ t, exec (.clockStabilityWindow count) s = .next t ∧ t.ndy = { s1.ndy with phase := .failing, reason := 0xF9 }
          ∧ Sent { source := srcNdy, kind := kCLK_DRIFT, flags := flagParam, addr := 2 } none s1 t ∧ Unchanged [.ndy, .dst, .seqs] s1 t)
      ∧ (p = 3 → (bootUnits (clocksUp s1)).ndy.phase ≠ .held →
        ∃ t, exec (.clockStabilityWindow count) s = .next t ∧ t.ndy.phase = .placed ∧ t.ndy.step = 6 ∧ t.ndy.trainAt = s.wall
          ∧ t.onRoot = true ∧ t.clocksOn = true ∧ t.spread = true ∧ (∀ k, k < 32 → (t.skein k).mode = .training)
          ∧ t.mem = (bootUnits (clocksUp s1)).mem))
    ∧ (∀ s1 : State, s.ndy.phase = .placed → s.ready = false → s1 = endFilling (endTraining s) →
      ((placedTables s1).all (placedOk s1) = true →
        ∃ t, exec .bootReady s = .next t ∧ t.ndy.phase = .ready ∧ t.ndy.step = 7 ∧ t.ready = true ∧ t.run = BitVec.allOnes 4096
          ∧ t.getReg (rClk 0xA0) = 0x40404040 ∧ t.whl.level = 0 ∧ t.tick = s.tick ∧ t.onRoot = s.onRoot
          ∧ (∀ k, k < 32 → (t.skein k).mode = (s1.skein k).mode)
          ∧ (∀ v, v < 116 → isRetired s v = true → t.gate.getLsbD v = false))
      ∧ ((placedTables s1).all (placedOk s1) = false →
        ∃ t, exec .bootReady s = .next t ∧ t.ndy = { s1.ndy with phase := .failing, reason := 0xF8 } ∧ Unchanged [.ndy] s1 t
          ∧ (∀ k, k < 32 → (s.skein k).mode = .training →
            (t.skein k).mode = (if s.ndy.trainFail.any (fun f => f.1.toNat = k) then .failed else .ready))
          ∧ (∀ a, populated a = true → (s.skein (sknOf a)).mode = .training → (t.skein (sknOf a)).mode = .ready → pageRetired t (sknOf a) (pageOf a) = false →
            Intact s a → mget t.mem a 0 = 0)))
    ∧ (s.ndy.phase = .failing →
      ∃ t, exec .bootFail s = .next t ∧ t.ndy.phase = .failed ∧ t.ndy.step = 8 ∧ t.ndy.reason = s.ndy.reason ∧ t.gate = 0 ∧ t.pend = 0
        ∧ Unchanged [.ndy, .gate, .pend, .reg, .out] s t)

/-- A persistent register written with a legal value takes its RWP fields and one more write of wear, and no other register
changes; with an NVM error NVM_WRITE is sent and the write refused; at 100,000 writes it is refused. A fence value past the
last page or die is refused. A register with plain RW fields takes those, the rest of it 0, and no other register changes. A
write of a register with all fields RO, of a counter or of none is answered with ACCESS_RO, a misaligned one with
ACCESS_FORM. A read of an RC counter sends its value and leaves 0. (R8, R9, R10, R337, R338, R373, R395, R436, R437) -/
def Obligations.RegisterAccessesFollowTheirTypes : Prop :=
  (∀ (o : Origin) (v x : Word) (off : Nat) (c : Bool → Instr) (s : State),
    ((∃ k i : BitVec 5, i.toNat < 18 ∧ off = rSkn k.toNat (if i.toNat < 16 then 0x200 + 4 * i.toNat else 0x240 + 4 * (i.toNat - 16))
        ∧ c = (fun e => .fenceWrite o k i v e)
        ∧ (if i.toNat < 16 then v.toNat % 16384 < 12288 ∧ x = v &&& 0x80003FFF else v.toNat / 32 % 16 < 12 ∧ x = v &&& 0x80001FFF))
      ∨ (∃ (n j : Nat) (a : Addr), n < 21 ∧ j < 7 ∧ off = rPrt n (4 + 4 * j) ∧ a.toNat = regBase + off
        ∧ c = (fun e => .rwpWrite o a v e) ∧ x = if j = 1 then v &&& 0xFFFF else v)) →
    Reaches o off s →
    (s.wearOf off < 100000 →
      ∃ t, exec (c false) s = .next t ∧ t.pers off = x ∧ t.wearOf off = s.wearOf off + 1
        ∧ (∀ a, a ≠ off → t.pers a = s.pers a ∧ t.wearOf a = s.wearOf a) ∧ SameDistaff s t ∧ Unchanged [.rwp, .wear, .nvm, .ndy, .dst] s t)
    ∧ (s.wearOf off < 100000 →
      ∃ u t, exec (c true) s = .next t
        ∧ Sent { source := srcNdy, kind := kNVM_WRITE, flags := flagParam, addr := BitVec.ofNat 48 off } none s u
        ∧ Unchanged [.dst, .seqs] s u ∧ Refused o off u t)
    ∧ (100000 ≤ s.wearOf off → ∀ e, ∃ t, exec (c e) s = .next t ∧ Refused o off s t))
  ∧ (∀ (o : Origin) (k i : BitVec 5) (v : Word) (e : Bool) (off : Nat) (s : State), i.toNat < 18 →
    off = rSkn k.toNat (if i.toNat < 16 then 0x200 + 4 * i.toNat else 0x240 + 4 * (i.toNat - 16)) →
    (if i.toNat < 16 then 12288 ≤ v.toNat % 16384 else 12 ≤ v.toNat / 32 % 16) → Reaches o off s →
    ∃ t, exec (.fenceWrite o k i v e) s = .next t ∧ Refused o off s t)
  ∧ (∀ (o : Origin) (a : Addr) (v : Word) (off : Nat) (s : State), a.toNat = regBase + off → Reaches o off s →
    (∀ r, off ∈ [rBob 0x14, rBob 0x20, rBob 0x200, rBob 0x20C, rBob 0x210, rDst 0x44, rDst 0x48, rDst 0x80, rDst 0x90, rNdy 0x14,
        rNdy 0x404, rWhl 8, rWhl 0xC, rWhl 0x1C, rWhl 0x30, rCrl 0x14] →
      regRow off = some r →
      ∃ t, exec (.registerWrite o a v) s = .next t
        ∧ (∀ x, t.getReg x = if x = off then v &&& r.mask (fun f => f = .rw) else s.getReg x)
        ∧ SameDistaff s t ∧ Unchanged [.reg, .dst] s t)
    ∧ (off < 0x0E000000 → (∀ r, regRow off = some r → r.allRo = true ∨ r.isRc = true) →
      ∃ t, exec (.registerWrite o a v) s = .next t
        ∧ Sent { source := src (off / 16777216) (off / 65536 % 256), kind := kACCESS_RO, flags := originFlags o
                 addr := BitVec.ofNat 48 (regBase + off) } none s t ∧ Unchanged [.dst, .seqs, .free] s t))
  ∧ (∀ (o : Origin) (a : Addr) (v : Word) (off : Nat) (s : State), a.toNat = regBase + off → off < 0x0E000000 → enters o off s = true →
    off % 4 ≠ 0 →
    ∃ t, exec (.registerWrite o a v) s = .next t
      ∧ Sent { source := if blockExists off then src (off / 16777216) (off / 65536 % 256) else entry o, kind := kACCESS_FORM
               flags := originFlags o, addr := BitVec.ofNat 48 (regBase + off) } none s t ∧ Unchanged [.dst, .seqs, .free] s t)
  ∧ (∀ (o : Origin) (a : Addr) (off : Nat) (r : RegRow) (s : State), a.toNat = regBase + off → off < 0x0E000000 →
    (match o with | .host p => portUp s p.toNat | _ => mgmtRuns s) = true → reachRefusal o off s = none → regRow off = some r →
    r.isRc = true →
    ∃ t, exec (.rcCounterRead o a) s = .next t ∧ t.out = s.out ++ [.value (regValue off s)]
      ∧ (∀ x, t.getReg x = if x = off then 0 else s.getReg x) ∧ Unchanged [.reg, .out] s t)

/-- With no operation in hand, a FUSE_CMD from the management port with KEY 0xF05E starts PROGRAM of a slot not programmed
with the 24 words of FUSE_DATA, or REVOKE of a programmed slot while another is live; a wrong key or any other slot starts an
operation that fails; from elsewhere the write is refused and an operation that fails starts. When it ends, DONE is set, and:
a PROGRAM has set its slot's bit and hash words, a REVOKE its slot's revocation bit, and no other bit or word; a failed one
sets FAIL and no fuse. (R439) -/
def Obligations.FusesBurnOnce : Prop :=
  ∀ s : State, s.ndy.fuse = none →
    (∀ (o : Origin) (v : Word), Reaches o (rNdy 0x24) s →
      (v.toNat % 4 = 1 →
        ∀ op : FuseOp, op = (if v.toNat / 65536 ≠ 0xF05E ∨ s.fuses.prog.getLsbD (v.toNat / 4 % 4) = true then .refused
            else .program (v.toNat / 4 % 4) s.ndy.fuseData) →
        (o = .mgmt → ∃ t, exec (.fuseProgram o v) s = .next t
          ∧ t.ndy = { s.ndy with fuse := some op, fuseDone := false, fuseFail := false } ∧ SameDistaff s t ∧ Unchanged [.ndy, .dst] s t)
        ∧ (o ≠ .mgmt → ∃ t, exec (.fuseProgram o v) s = .next t
          ∧ Refused o (rNdy 0x24) { s with ndy := { s.ndy with fuse := some .refused, fuseDone := false, fuseFail := false } } t))
      ∧ (v.toNat % 4 = 2 →
        ∀ slot, slot = v.toNat / 4 % 4 →
        (o = .mgmt → v.toNat / 65536 = 0xF05E → s.fuses.prog.getLsbD slot = true →
          (∃ i, i < 4 ∧ i ≠ slot ∧ s.fuses.prog.getLsbD i = true ∧ s.fuses.revoked.getLsbD i = false) →
          ∃ t, exec (.fuseRevoke o v) s = .next t
            ∧ t.ndy = { s.ndy with fuse := some (.revoke slot), fuseDone := false, fuseFail := false } ∧ SameDistaff s t
            ∧ Unchanged [.ndy, .dst] s t)
        ∧ (o = .mgmt → (v.toNat / 65536 ≠ 0xF05E ∨ s.fuses.prog.getLsbD slot = false
            ∨ (∀ i, i < 4 → i ≠ slot → s.fuses.prog.getLsbD i = true → s.fuses.revoked.getLsbD i = true)) →
          ∃ t, exec (.fuseRevoke o v) s = .next t
            ∧ t.ndy = { s.ndy with fuse := some .refused, fuseDone := false, fuseFail := false } ∧ SameDistaff s t
            ∧ Unchanged [.ndy, .dst] s t)
        ∧ (o ≠ .mgmt → ∃ t, exec (.fuseRevoke o v) s = .next t
          ∧ Refused o (rNdy 0x24) { s with ndy := { s.ndy with fuse := some .refused, fuseDone := false, fuseFail := false } } t)))
    ∧ (∀ op : FuseOp, ∃ t, exec .fuseDone { s with ndy := { s.ndy with fuse := some op } } = .next t
      ∧ t.ndy = { s.ndy with fuse := none, fuseDone := true, fuseFail := decide (op = .refused) } ∧ Unchanged [.ndy, .fuses] s t
      ∧ (op = .refused → t.fuses = s.fuses)
      ∧ (∀ slot data, op = .program slot data → slot < 4 →
        (∀ i, i < 4 → t.fuses.prog.getLsbD i = (decide (i = slot) || s.fuses.prog.getLsbD i)) ∧ t.fuses.revoked = s.fuses.revoked
        ∧ (∀ w, mget t.fuses.hash w 0 = if w / 24 = slot then mget data (w % 24) 0 else mget s.fuses.hash w 0))
      ∧ (∀ slot, op = .revoke slot → slot < 4 →
        (∀ i, i < 4 → t.fuses.revoked.getLsbD i = (decide (i = slot) || s.fuses.revoked.getLsbD i)) ∧ t.fuses.prog = s.fuses.prog
        ∧ t.fuses.hash = s.fuses.hash))

/-- After READY and 325,000 ticks from the last copy, where every register of the table can be read, each copy becomes the
register's value with the tick. A day after the last count LIFE_DAYS adds one where its endurance allows and the NVM reports
no error; a copy due in the same cycle goes first. A running niddy answers a neighbour request for an address of its own with
its MAC address, and counts the frames; it answers no other. A NOTICE that waits leaves with its next hop's answer, and is
dropped after 1 s. (R346, R375, R433, R437, R441) -/
def Obligations.NiddyDutiesRun : Prop :=
  ∀ s : State,
    (s.ndy.phase = .ready → s.ndy.telemAt + 325000 ≤ s.wall → s.ndy.frame.length = s.ndy.telem.length →
      (∀ a ∈ s.ndy.telem, reachRefusal .niddy a s = none) →
      ∃ t, exec .telemetryCopy s = .next t
        ∧ t.ndy = { s.ndy with telemAt := s.ndy.telemAt + 325000, frame := s.ndy.telem.map (fun a => (regValue a s, s.tick)) }
        ∧ Unchanged [.ndy] s t)
    ∧ (s.ndy.phase = .ready → s.ndy.dayAt + 28080000000 ≤ s.wall →
      ∃ t, exec .lifeDaysTick s = .next t ∧ t.ndy.frame = (telemetryDuty s).ndy.frame ∧ t.ndy.dayAt = s.ndy.dayAt + 28080000000
        ∧ t.pers (rNdy 0x308) = (if s.wearOf (rNdy 0x308) < 100000 ∧ Config.freeBool s.free = false then satAdd32 (s.pers (rNdy 0x308)) 1
            else s.pers (rNdy 0x308))
        ∧ t.wearOf (rNdy 0x308) = (if s.wearOf (rNdy 0x308) < 100000 ∧ Config.freeBool s.free = false then s.wearOf (rNdy 0x308) + 1
            else s.wearOf (rNdy 0x308))
        ∧ (∀ a, a ≠ rNdy 0x308 → t.pers a = s.pers a ∧ t.wearOf a = s.wearOf a)
        ∧ Unchanged [.ndy, .dst, .free, .nvm, .rwp, .seqs, .wear] s t)
    ∧ (∀ (v6 : Bool) (target ip : BitVec 128) (mac : BitVec 48) (fec : Nat), mgmtRuns s = true →
      ((if v6 then (target.toNat = s.ndy.ip6 ∧ s.ndy.ip6 ≠ 0) ∨ target.toNat = linkLocal s.ndy.mac
          else target.toNat % 2 ^ 32 = s.ndy.ip4 ∧ s.ndy.ip4 ≠ 0) →
        ∃ t, exec (.arpRequest v6 target mac ip fec) s = .next t
          ∧ t.out = s.out ++ [.neighbour mac ip target (BitVec.ofNat 48 s.ndy.mac)] ∧ FrameSent (mgmtFrame fec s) t ∧ Unchanged [.reg, .out] s t)
      ∧ (¬ (if v6 then (target.toNat = s.ndy.ip6 ∧ s.ndy.ip6 ≠ 0) ∨ target.toNat = linkLocal s.ndy.mac
          else target.toNat % 2 ^ 32 = s.ndy.ip4 ∧ s.ndy.ip4 ≠ 0) →
        exec (.arpRequest v6 target mac ip fec) s = .next (mgmtFrame fec s))
      ∧ (∀ f : List Byte, s.ndy.notice = some f →
        (s.wall ≤ s.ndy.noticeAt + 325000000 →
          ∃ t, exec (.nextHopAnswer mac fec) s = .next t ∧ t.ndy = { s.ndy with notice := none }
            ∧ t.out = s.out ++ [.notice mac s.ndy.collector s.ndy.colPort f] ∧ FrameSent (mgmtFrame fec s) t ∧ Unchanged [.ndy, .reg, .out] s t)
        ∧ (s.ndy.noticeAt + 325000000 < s.wall →
          ∃ t, exec (.nextHopAnswer mac fec) s = .next t ∧ t.ndy = { s.ndy with notice := none } ∧ Unchanged [.ndy, .reg] s t)))
    ∧ (∀ f : List Byte, s.ndy.notice = some f → s.ndy.noticeAt + 325000000 ≤ s.wall →
      ∃ t, exec .noticeTimeout s = .next t ∧ t.ndy = { s.ndy with notice := none } ∧ Unchanged [.ndy] s t)

/-- For a running niddy; the frame is counted and duties that are due run first: where none is due nothing else precedes. A
request whose TAG was answered among the last 16 gets the stored response and nothing else happens; a frame that breaks Table
15-9 is answered so. Otherwise REG_READ of a word answers its value, and clears a counter; REG_WRITE after READY stores the
RW fields of a plain register, and one of DEV_RESET resets the device and is answered (log 30); TELEM_READ answers the
frame's bytes; NVM_READ answers bytes inside the NVM and is refused outside; NVM_ERASE of a sector that may be changed leaves
its 64 KiB erased and every other byte as it was; NVM_PROGRAM writes its bytes where they were erased. Each response is kept
under its TAG, and its frame counted. (R375, R441, R442, R443, R418, R421, R422) -/
def Obligations.ManagementRequestsServed : Prop :=
  ∀ (m : MgmtIn) (s0 s : State), s = mgmtFrame m.fec (dueDuties s0) →
    (s0.ndy.phase ≠ .ready ∨ (s0.wall < s0.ndy.telemAt + 325000 ∧ s0.wall < s0.ndy.dayAt + 28080000000) → dueDuties s0 = s0)
    ∧ (∀ (c : Instr) (r : List Byte), c ∈ [Instr.regRead m, .regWrite m, .telemRead m, .nvmRead m, .nvmErase m, .nvmProgram m] →
      c.wf = true → mgmtRuns s0 = true →
      (s0.ndy.tags.find? (fun e => e.1 = mTag m.frame) = some (mTag m.frame, r) →
        ∃ t, exec c s0 = .next t ∧ t.out = s.out ++ [.mgmt m.mac m.ip r] ∧ FrameSent s t ∧ Unchanged [.reg, .out] s t)
      ∧ ((∀ e ∈ s0.ndy.tags, e.1 ≠ mTag m.frame) → mFrameOk m.frame = false →
        ∃ t, exec c s0 = .next t ∧ Answered m .badFrame [] s t ∧ FrameSent s t ∧ Unchanged [.ndy, .reg, .out] s t))
    ∧ (∀ off : Nat, opWf 1 m = true → Asked m s0 → mOp m.frame = 1 → mLen m.frame = 4 → mAddr m.frame = regBase + off →
      off < 0x0E000000 → off % 4 = 0 → reachRefusal .mgmt off s0 = none →
      ∃ t, exec (.regRead m) s0 = .next t ∧ Answered m .ok (leBytes 4 (regValue off s).toNat) s t
        ∧ (∀ x, x ≠ rPrt 20 0x40 → t.getReg x = if x = off ∧ (regRow off).any (·.isRc) = true then 0 else s.getReg x)
        ∧ t.getReg (rPrt 20 0x40) = satAdd32 (if off = rPrt 20 0x40 then 0 else s.getReg (rPrt 20 0x40)) 1
        ∧ Unchanged [.reg, .ndy, .out] s t)
    ∧ (∀ (off : Nat) (r : RegRow), opWf 2 m = true → Asked m s0 → s0.ndy.phase = .ready → mLen m.frame = 4 → mAddr m.frame = regBase + off →
      off ∈ [rDst 0x44, rDst 0x48, rDst 0x80, rDst 0x90, rNdy 0x14, rNdy 0x404, rWhl 8, rWhl 0xC, rWhl 0x1C, rWhl 0x30] →
      regRow off = some r →
      ∃ t, exec (.regWrite m) s0 = .next t ∧ Answered m .ok [] s t
        ∧ FrameSent (s.setReg off (BitVec.ofNat 32 (tabField m.frame 24 4) &&& r.mask (fun f => f = .rw))) t
        ∧ SameDistaff s t ∧ Unchanged [.reg, .ndy, .out, .dst] s t)
    ∧ (opWf 2 m = true → Asked m s0 → mLen m.frame = 4 → mAddr m.frame = regBase + rClk 0x10 → tabField m.frame 24 2 = 0x5A5A →
      ∃ t, exec (.regWrite m) s0 = .next t ∧ WholeReset (latchCause 3 s) s t ∧ t.pkg = { s.pkg with resetAt := some s.wall }
        ∧ t.out = s.out ++ [.mgmt m.mac m.ip (mResponse m.frame .ok [])])
    ∧ (opWf 3 m = true → Asked m s0 →
      ∃ t, exec (.telemRead m) s0 = .next t
        ∧ Answered m .ok ((List.range (mLen m.frame)).map (fun i => Config.telemByte s.ndy.frame (mAddr m.frame + i))) s t
        ∧ FrameSent s t ∧ Unchanged [.ndy, .reg, .out] s t)
    ∧ (opWf 4 m = true → Asked m s0 →
      (mAddr m.frame + mLen m.frame ≤ 0x4000000 →
        ∃ t, exec (.nvmRead m) s0 = .next t ∧ FrameSent s t ∧ Unchanged [.ndy, .reg, .out] s t
          ∧ Answered m .ok ((List.range (mLen m.frame)).map (fun i => s.nvmByte (mAddr m.frame + i))) s t)
      ∧ (0x4000000 < mAddr m.frame + mLen m.frame →
        ∃ t, exec (.nvmRead m) s0 = .next t ∧ FrameSent s t ∧ Unchanged [.ndy, .reg, .out] s t ∧ Answered m .refused [] s t))
    ∧ (opWf 5 m = true → Asked m s0 →
      ((s0.ndy.phase = .ready ∨ s0.ndy.phase = .failed) → mAddr m.frame % 65536 = 0 → nvmWritable s0 (mAddr m.frame) = true →
        ∃ t, exec (.nvmErase m) s0 = .next t ∧ Answered m .ok [] s t ∧ FrameSent s t ∧ Unchanged [.ndy, .nvm, .reg, .out] s t
          ∧ ∀ a, t.nvmByte a = if mAddr m.frame ≤ a ∧ a < mAddr m.frame + 65536 then 0xFF else s.nvmByte a)
      ∧ ((s0.ndy.phase ≠ .ready ∧ s0.ndy.phase ≠ .failed) ∨ mAddr m.frame % 65536 ≠ 0 ∨ nvmWritable s0 (mAddr m.frame) = false →
        ∃ t, exec (.nvmErase m) s0 = .next t ∧ Answered m .refused [] s t ∧ FrameSent s t ∧ Unchanged [.ndy, .reg, .out] s t))
    ∧ (opWf 6 m = true → Asked m s0 →
      ((s0.ndy.phase = .ready ∨ s0.ndy.phase = .failed) → nvmRangeOk s0 (mAddr m.frame) (mLen m.frame) = true →
        ∃ t, exec (.nvmProgram m) s0 = .next t ∧ Answered m .ok [] s t ∧ FrameSent s t ∧ Unchanged [.ndy, .nvm, .free, .reg, .out] s t
          ∧ (∀ i, i < (mData m.frame).length → s.nvmByte (mAddr m.frame + i) = 0xFF →
              t.nvmByte (mAddr m.frame + i) = (mData m.frame).getD i 0)
          ∧ (∀ a, a < mAddr m.frame ∨ mAddr m.frame + (mData m.frame).length ≤ a → t.nvmByte a = s.nvmByte a))
      ∧ ((s0.ndy.phase ≠ .ready ∧ s0.ndy.phase ≠ .failed) ∨ nvmRangeOk s0 (mAddr m.frame) (mLen m.frame) = false →
        ∃ t, exec (.nvmProgram m) s0 = .next t ∧ Answered m .refused [] s t ∧ FrameSent s t ∧ Unchanged [.ndy, .reg, .out] s t))

/-- A running niddy counts the frame, runs the duties due and answers to the request's source: version 1.2, which starts a
connection; its sizes; its algorithms; the SHA-384 digest and portions of slot 0's chain; for CHALLENGE of slot 0 its digest
and a device signature over bytes that begin with the nonce; measurement blocks, where those asked for exist, signed if
asked, which leaves the transcript's hash; for the vendor request of R446 the hash and its SLH-DSA signature of 16,224 bytes,
in chunks, and UnexpectedRequest where no transcript is; UnsupportedRequest to anything else. Nonces, signatures and
transcript bytes are free values (log 98). (R346, R375, R441, R444, R445, R446, R447) -/
def Obligations.SpdmRequestsAnswered : Prop :=
  ∀ (r : Asker) (s0 s : State), mgmtRuns s0 = true → s = mgmtFrame r.fec (dueDuties s0) →
    (∃ t, exec (.getVersion r) s0 = .next t ∧ t.out = s.out ++ [.spdm r.mac r.ip (.version 0x12)]
      ∧ t.ndy = { s.ndy with transcript := none, large := none } ∧ FrameSent s t ∧ Unchanged [.ndy, .reg, .out] s t)
    ∧ (∀ (c : Instr) (a : Spdm), (c, a) ∈ [(Instr.getCapabilities r, Spdm.capabilities 1024 32768),
          (.negotiateAlgorithms r, .algorithms .rsapss3072 .sha384 .sha384), (.getDigests r, .digests (sha384 (certChain s)))] →
      ∃ t, exec c s0 = .next t ∧ t.out = s.out ++ [.spdm r.mac r.ip a] ∧ FrameSent s t ∧ Unchanged [.reg, .out] s t)
    ∧ (∀ code : Byte, ∃ t, exec (.spdmUnsupportedRequest code r) s0 = .next t ∧ t.out = s.out ++ [.spdm r.mac r.ip .unsupported]
      ∧ FrameSent s t ∧ Unchanged [.reg, .out] s t)
    ∧ (∀ offset len : BitVec 16, offset.toNat ≤ (certChain s).length →
      ∃ t p, exec (.getCertificate 0 offset len r) s0 = .next t
        ∧ t.out = s.out ++ [.spdm r.mac r.ip (.certificate p ((certChain s).length - offset.toNat - p.length))]
        ∧ p.length ≤ 1016 ∧ p <+: (certChain s).drop offset.toNat ∧ (p.length < len.toNat → p.length < 1016 →
            p = (certChain s).drop offset.toNat)
        ∧ FrameSent s t ∧ Unchanged [.reg, .out] s t)
    ∧ (∀ nonce : List Byte, nonce.length = 32 →
      ∃ t own x, exec (.challenge 0 nonce r) s0 = .next t
        ∧ t.out = s.out ++ [.spdm r.mac r.ip (.challengeAuth (sha384 (certChain s)) own (Config.deviceSign (nonce ++ x)))]
        ∧ own.length = 32 ∧ FrameSent s t ∧ Unchanged [.free, .reg, .out] s t)
    ∧ (∀ (i : BitVec 8) (b : Bool) (nonce : List Byte), nonce.length = 32 → i.toNat ≤ 6 ∨ i.toNat = 255 →
      ∃ t own sig, exec (.getMeasurements i b nonce r) s0 = .next t
        ∧ t.out = s.out ++ [.spdm r.mac r.ip (.measurements 6
            ((if i = 0 then [] else if i = 255 then [1, 2, 3, 4, 5, 6] else [i.toNat]).map (fun j => measureBlock j s)) own sig)]
        ∧ own.length = 32
        ∧ (b = false → sig = [] ∧ t.ndy = s.ndy)
        ∧ (b = true → ∃ h : List Byte, h.length = 48 ∧ sig = Config.deviceSign (nonce ++ h) ∧ t.ndy = { s.ndy with transcript := some h })
        ∧ FrameSent s t ∧ Unchanged [.free, .ndy, .reg, .out] s t)
    ∧ (∀ h : List Byte, s0.ndy.transcript = some h →
      ∃ t handle, exec (.vendorDefinedRequest 4 s0.fuses.vid [1] r) s0 = .next t ∧ t.out = s.out ++ [.spdm r.mac r.ip (.largeResponse handle)]
        ∧ t.ndy = { s.ndy with large := some { handle := handle, bytes := h ++ Config.slhSign h } } ∧ (Config.slhSign h).length = 16224
        ∧ FrameSent s t ∧ Unchanged [.free, .ndy, .reg, .out] s t)
    ∧ (s0.ndy.transcript = none →
      ∃ t, exec (.vendorDefinedRequest 4 s0.fuses.vid [1] r) s0 = .next t ∧ t.out = s.out ++ [.spdm r.mac r.ip .unexpected]
        ∧ FrameSent s t ∧ Unchanged [.reg, .out] s t)
    ∧ (∀ (std : BitVec 16) (vid : Word) (p : List Byte), std ≠ 4 ∨ vid ≠ s0.fuses.vid ∨ p ≠ [1] →
      ∃ t, exec (.vendorDefinedRequest std vid p r) s0 = .next t ∧ t.out = s.out ++ [.spdm r.mac r.ip .unsupported]
        ∧ FrameSent s t ∧ Unchanged [.reg, .out] s t)
    ∧ (∀ (g : Large) (c : BitVec 16), s0.ndy.large = some g → c.toNat * 1024 < g.bytes.length →
      ∃ t, exec (.chunkGet g.handle c r) s0 = .next t
        ∧ t.out = s.out ++ [.spdm r.mac r.ip (.chunk g.handle c.toNat (decide (g.bytes.length ≤ (c.toNat + 1) * 1024))
            ((g.bytes.drop (c.toNat * 1024)).take 1024))]
        ∧ t.ndy = (if g.bytes.length ≤ (c.toNat + 1) * 1024 then { s.ndy with large := none } else s.ndy)
        ∧ FrameSent s t ∧ Unchanged [.ndy, .reg, .out] s t)

/-- With VMGMT and VIO up: command 0x10 sets the offset and is acknowledged; 0x11 answers status 0 and the register's value
with nothing cleared where the read is answered, else status 3 and four further bytes, with ACCESS_MAP sent for a register of
another block; any other command gets a NAK; an alert response carries the address where the alert is asserted. BYPASS,
IDCODE, which answers 0x1076854B, and SAMPLE load; EXTEST, CLAMP and HIGHZ load while RESET_N is low, and BYPASS in their
place at any other time; a test reset leaves IDCODE. Nothing else changes. (R395, R418, R469, R470) -/
def Obligations.SmbusAndJtagAnswer : Prop :=
  ∀ s : State,
    (s.pkg.power = .on ∨ s.pkg.power = .thermal →
      (∀ v : Word, ∃ t, exec (.smbSetOffset v) s = .next t ∧ t.ndy = { s.ndy with smb := v } ∧ t.out = s.out ++ [.smbAck]
        ∧ Unchanged [.ndy, .out] s t)
      ∧ (∀ a, a = s.ndy.smb.toNat → (6 ≤ a / 16777216 ∧ a / 16777216 ≤ 9 ∧ a / 65536 % 256 = 0) → reachRefusal .niddy a s = none →
        exec .smbBlockRead s = .next (s.emit (.smbData (0 :: leBytes 4 (regValue a s).toNat))))
      ∧ (∀ a, a = s.ndy.smb.toNat → ¬ (6 ≤ a / 16777216 ∧ a / 16777216 ≤ 9 ∧ a / 65536 % 256 = 0) →
        ∃ t d, exec .smbBlockRead s = .next t ∧ t.out = s.out ++ [.smbData (3 :: d)] ∧ d.length = 4
          ∧ Sent { source := srcNdy, kind := kACCESS_MAP, flags := 0, addr := BitVec.ofNat 48 (regBase + a) } none s t
          ∧ Unchanged [.dst, .seqs, .free, .out] s t)
      ∧ (∀ code : Byte, code ≠ 0x10 → code ≠ 0x11 → exec (.smbOtherCommand code) s = .next (s.emit .smbNak))
      ∧ (s.dst.status.getLsbD 5 = true ∨ s.ndy.step = 8 →
        exec .smbAlertResponse s = .next (s.emit (.smbAddress (0x58 + s.pkg.sa.toNat))))
      ∧ (∃ t, exec .bypass s = .next t ∧ t.pkg = { s.pkg with tap := .bypass } ∧ Unchanged [.pkg] s t)
      ∧ (∃ t, exec .samplePreload s = .next t ∧ t.pkg = { s.pkg with tap := .sample } ∧ Unchanged [.pkg] s t)
      ∧ (∃ t, exec .idcode s = .next t ∧ t.pkg = { s.pkg with tap := .idcode } ∧ t.out = s.out ++ [.idcode 0x1076854B]
        ∧ Unchanged [.pkg, .out] s t)
      ∧ (∀ (c : Instr) (p : Tap), (c, p) ∈ [(Instr.extest, Tap.extest), (.clamp, .clamp), (.highz, .highz)] →
        ∃ t, exec c s = .next t ∧ t.pkg = { s.pkg with tap := if s.pkg.resetLow then p else .bypass } ∧ Unchanged [.pkg] s t))
    ∧ (∃ t, exec .testReset s = .next t ∧ t.pkg = { s.pkg with tap := .idcode } ∧ Unchanged [.pkg] s t)

/-- For every command c and state s with c at the front of its queue, the step from s is exec c on s with the queue's rest,
whatever it answers. With an empty queue the block idles for one management tick (the model's choice, log 1). (spec/95,
spec/14) -/
def Obligations.StepRunsFrontCommand : Prop :=
  ∀ s : State,
    (∀ (c : Instr) (r : List Instr), s.pending = c :: r → step s = exec c { s with pending := r })
    ∧ (s.pending = [] → step s = .next (managementTick s))

/-- A step with an empty queue (log 1) answers a next state in which the model's clock is one on, TICK, once the device is on
the root clock, is one on mod 2^48, and TIME, once the clocks run, is four on mod 2^48. Where no skein trains or fills and
the boot NVM has nothing in hand the only other pieces that may change are the bobbins' notes of waiting heads and what the
flyers' internal frees change. In step 10 of the boot a skein's training ends after 3,900,000 ticks, FAILED or filling, and a
further 3,152,500 ticks on it is READY (log 131). (R65, R263, R285, R339, R402, R418) -/
def Obligations.TickAdvancesTime : Prop :=
  ∀ s : State, s.pending = [] →
    ∃ t, step s = .next t ∧ t.wall = s.wall + 1 ∧ t.tick = (if s.onRoot then (s.tick + 1) % 2 ^ 48 else s.tick)
      ∧ t.cyc = (if s.clocksOn then (s.cyc + 4) % 2 ^ 48 else s.cyc) ∧ Unchanged [.tick, .wall, .cyc, .free, .mem, .errs, .skn, .dst, .bobs, .seqs,
          .fly, .nvm, .ndy] s t
      ∧ (s.ndy.phase ≠ .placed → s.ndy.nvmq = [] → s.ndy.compactAt = none → s.ndy.eraseAt = none →
        Unchanged ([.bobs, .fly] ++ [.tick, .cyc, .wall]) s t)
      ∧ (s.ndy.phase = .placed → ∀ k, k < 32 → (s.skein k).mode = .training →
        (t.skein k).mode = (if s.wall < s.ndy.trainAt + 3900000 then .training
          else if s.ndy.trainFail.any (fun f => f.1.toNat = k) then .failed
          else if s.wall < s.ndy.trainAt + 7052500 then .filling else .ready))

/-- For every command and every state: a well-formed command answers a next state, and leaves the queue of waiting commands
and the model's clock as they were; a command that is not well formed, which the spec does not have (log 3), ends in the
fault malformed and in nothing else. (R8, R367, R442) -/
def Obligations.CommandsAnswer : Prop :=
  ∀ (c : Instr) (s : State),
    (c.wf = true → ∃ t, exec c s = .next t ∧ t.pending = s.pending ∧ t.wall = s.wall)
    ∧ (c.wf = false → exec c s = .fault .malformed)

/-- For every opcode that goes to a command port: a command at its front, when the port accepts it, whose EPOCH differs from
the unit's epoch leaves the port with one report that carries STALE_EPOCH, whatever the order of the two values, whatever its
other fields; it has not run and no byte of memory reads otherwise. (R75) -/
def Obligations.StaleEpochRefused : Prop :=
  (∀ (p : BitVec 4) (k : BitVec 5) (f : BitVec 2) (hs : List Hit) (s s0 : State) (c : Instr) (u op : Nat) (i : Issued),
    (c, u, op, s0) ∈
      [(Instr.spnStage p hs, p.toNat, 0x10, s), (.spnMma p hs, p.toNat, 0x11, s), (.spnSlotDiscard p, p.toNat, 0x12, s),
       (.crdGather k hs, 16 + k.toNat, 0x40, s), (.crdScatter k hs, 16 + k.toNat, 0x41, s), (.crdSpmm k hs, 16 + k.toNat, 0x42, s),
       (.expSelect k hs, 16 + k.toNat, 0x48, s), (.expFanout k hs, 16 + k.toNat, 0x49, s), (.expDispatch k hs, 16 + k.toNat, 0x4A, s),
       (.expAssign k hs, 16 + k.toNat, 0x4B, s), (.expCombine k hs, 16 + k.toNat, 0x4C, s), (.expPrefetch k hs, 16 + k.toNat, 0x4D, s),
       (.trnLscale k hs, 16 + k.toNat, 0x50, s), (.optAdamw k hs, 16 + k.toNat, 0x51, s), (.optSgdm k hs, 16 + k.toNat, 0x52, s),
       (.flyNormFwd f hs, 48 + f.toNat, 0x80, runFrees f.toNat s), (.flyNormBwd f hs, 48 + f.toNat, 0x81, runFrees f.toNat s),
       (.flyNormPgrad f hs, 48 + f.toNat, 0x82, runFrees f.toNat s), (.flySmaxMerge f hs, 48 + f.toNat, 0x83, runFrees f.toNat s),
       (.flySmaxFwd f hs, 48 + f.toNat, 0x84, runFrees f.toNat s), (.flySmaxBwd f hs, 48 + f.toNat, 0x85, runFrees f.toNat s),
       (.flyStatsFree f, 48 + f.toNat, 0x86, runFrees f.toNat s), (.cpyPermute k hs, 16 + k.toNat, 0xC0, s)] →
    frontOf s0 u op = some i → cEpoch i.cmd ≠ s0.epoch u →
    ∃ t, exec c s = .next t ∧ t.port u = (s0.port u).drop 1 ∧ (∀ w, w ≠ u → t.port w = s0.port w)
      ∧ t.reports = s0.reports ++ [{ is := i, unit := u, status := stSTALE }] ∧ BytesKept [] s0 t)
  ∧ (∀ (hs : List Hit) (s : State) (c : Instr) (op : Nat) (i : Issued),
    (c, op) ∈ [(Instr.plyReduce hs, 0xA0), (.plyGather hs, 0xA1), (.plyVerdict, 0xA2), (.plyBarrier, 0xA3), (.plyOrtho hs, 0xA4),
      (.plyLrSeed, 0xA5)] →
    plyFront s op = some i → cEpoch i.cmd ≠ s.epoch 52 →
    ∃ t, exec c s = .next t ∧ t.port 52 = (s.port 52).drop 1 ∧ (∀ w, w ≠ 52 → t.port w = s.port w)
      ∧ t.reports = s.reports ++ [{ is := i, unit := 52, status := stSTALE }] ∧ BytesKept [] s t)

/-- A write that reaches NDY[0]_MIN_SEQ with a value below the current one or above the running image's SEQ is refused: its
message goes to the distaff and nothing else changes. An image whose SEQ is below MIN_SEQ is no candidate of the boot; so
where MIN_SEQ has the running SEQ, no older image is. (R440) -/
def Obligations.MinSeqOnlyRises : Prop :=
  (∀ (o : Origin) (a : Addr) (v : Word) (e : Bool) (s : State), a.toNat = regBase + rNdy 0xC → Reaches o (rNdy 0xC) s →
    v.toNat < (s.pers (rNdy 0xC)).toNat ∨ s.ndy.seq.toNat < v.toNat →
    ∃ t, exec (.rwpWrite o a v e) s = .next t ∧ Refused o (rNdy 0xC) s t)
  ∧ (∀ (s : State) (i : Nat), imgSeq s i < (s.pers (rNdy 0xC)).toNat → i ∉ candidates s)

/-- For every state: where a step answers a next state, every fuse bit that was set, of the programmed slots and of the
revoked ones, is still set. Device resets and power-downs are steps too. (R439, R449) -/
def Obligations.FusesNeverClear : Prop :=
  ∀ s t : State, step s = .next t →
    ∀ i, i < 4 → (s.fuses.prog.getLsbD i = true → t.fuses.prog.getLsbD i = true)
      ∧ (s.fuses.revoked.getLsbD i = true → t.fuses.revoked.getLsbD i = true)

/-- State.reset: no command waits; IDENT reads 0x07680A01; SEQ of the distaff 1; the issue limits and ceilings 64; CAP 3000,
HYST 50, HOLD 32; BKT_CFG 32; every gate, TICK and the run mask are 0, no plane but the management plane runs, no bobbin,
report or port holds a command. What the spec gives no reset value for is the model's choice (logs 10 and 106). The state
after reset has the invariant that every step keeps (StepKeepsSound). (R37, R449) -/
def Obligations.ResetState : Prop :=
  State.reset.pending = [] ∧ regValue (rNdy 0) State.reset = 0x07680A01 ∧ regValue (rDst 4) State.reset = 1
    ∧ regValue (rClk 0xA0) State.reset = 0x40404040 ∧ regValue (rWhl 0x1C) State.reset = 0x40404040
    ∧ regValue (rWhl 4) State.reset = 3000 ∧ regValue (rWhl 8) State.reset = 50 ∧ regValue (rWhl 0xC) State.reset = 32
    ∧ regValue (rSkn 31 0x24) State.reset = 32 ∧ State.reset.gate = 0 ∧ State.reset.tick = 0 ∧ State.reset.run = 0
    ∧ State.reset.ready = false ∧ ctlRuns State.reset = false ∧ State.reset.bobs = [] ∧ State.reset.reports = [] ∧ State.reset.ports = []
    ∧ Sound State.reset

/-- For every state with the invariant and every step that answers a next state, whichever of the 177 commands it runs or a
tick: skein memory and the boot NVM stay in canonical form, no source has more than eight messages at junction 3, and TICK
and TIME stay below 2^48. (R380, R402, R418, R421) -/
def Obligations.StepKeepsSound : Prop :=
  ∀ s t : State, Sound s → step s = .next t → Sound t

end
end

