-- ==== Sys2Proof/Laws/Mask.lean ====
section
/-! SUPPORT. Masking a state: the pieces that a set selects are blanked. A function that touches only masked pieces keeps the
masked state, so one equation per function says everything that the function leaves unchanged. -/

namespace Sys2Proof.Machine

/-- The state with the selected pieces at their reset values. -/
def State.mask (L : Piece → Bool) (s : State) : State where
  pending := if L .pending then State.reset.pending else s.pending
  tick := if L .tick then State.reset.tick else s.tick
  wall := if L .wall then State.reset.wall else s.wall
  cyc := if L .cyc then State.reset.cyc else s.cyc
  free := if L .free then State.reset.free else s.free
  ids := if L .ids then State.reset.ids else s.ids
  reg := if L .reg then State.reset.reg else s.reg
  mem := if L .mem then State.reset.mem else s.mem
  errs := if L .errs then State.reset.errs else s.errs
  skn := if L .skn then State.reset.skn else s.skn
  dst := if L .dst then State.reset.dst else s.dst
  gate := if L .gate then State.reset.gate else s.gate
  pend := if L .pend then State.reset.pend else s.pend
  rstBusy := if L .rstBusy then State.reset.rstBusy else s.rstBusy
  sleepReq := if L .sleepReq then State.reset.sleepReq else s.sleepReq
  asleep := if L .asleep then State.reset.asleep else s.asleep
  wakeAt := if L .wakeAt then State.reset.wakeAt else s.wakeAt
  run := if L .run then State.reset.run else s.run
  spare := if L .spare then State.reset.spare else s.spare
  spareReq := if L .spareReq then State.reset.spareReq else s.spareReq
  ready := if L .ready then State.reset.ready else s.ready
  bobs := if L .bobs then State.reset.bobs else s.bobs
  turns := if L .turns then State.reset.turns else s.turns
  fetchTurns := if L .fetchTurns then State.reset.fetchTurns else s.fetchTurns
  barriers := if L .barriers then State.reset.barriers else s.barriers
  barrierAt := if L .barrierAt then State.reset.barrierAt else s.barrierAt
  holds := if L .holds then State.reset.holds else s.holds
  epochs := if L .epochs then State.reset.epochs else s.epochs
  ports := if L .ports then State.reset.ports else s.ports
  sched := if L .sched then State.reset.sched else s.sched
  reports := if L .reports then State.reset.reports else s.reports
  seqs := if L .seqs then State.reset.seqs else s.seqs
  rwp := if L .rwp then State.reset.rwp else s.rwp
  wear := if L .wear then State.reset.wear else s.wear
  retireWait := if L .retireWait then State.reset.retireWait else s.retireWait
  cause := if L .cause then State.reset.cause else s.cause
  pllLock := if L .pllLock then State.reset.pllLock else s.pllLock
  spread := if L .spread then State.reset.spread else s.spread
  onRoot := if L .onRoot then State.reset.onRoot else s.onRoot
  clocksOn := if L .clocksOn then State.reset.clocksOn else s.clocksOn
  fmRun := if L .fmRun then State.reset.fmRun else s.fmRun
  fmDone := if L .fmDone then State.reset.fmDone else s.fmDone
  fmResult := if L .fmResult then State.reset.fmResult else s.fmResult
  driftOdd := if L .driftOdd then State.reset.driftOdd else s.driftOdd
  monLast := if L .monLast then State.reset.monLast else s.monLast
  fmt := if L .fmt then State.reset.fmt else s.fmt
  spn := if L .spn then State.reset.spn else s.spn
  fly := if L .fly then State.reset.fly else s.fly
  curves := if L .curves then State.reset.curves else s.curves
  struck := if L .struck then State.reset.struck else s.struck
  images := if L .images then State.reset.images else s.images
  imgState := if L .imgState then State.reset.imgState else s.imgState
  loading := if L .loading then State.reset.loading else s.loading
  loadCtx := if L .loadCtx then State.reset.loadCtx else s.loadCtx
  loadResult := if L .loadResult then State.reset.loadResult else s.loadResult
  loadAddr := if L .loadAddr then State.reset.loadAddr else s.loadAddr
  planCache := if L .planCache then State.reset.planCache else s.planCache
  lastRun := if L .lastRun then State.reset.lastRun else s.lastRun
  lastBucket := if L .lastBucket then State.reset.lastBucket else s.lastBucket
  ctxs := if L .ctxs then State.reset.ctxs else s.ctxs
  trns := if L .trns then State.reset.trns else s.trns
  lsInit := if L .lsInit then State.reset.lsInit else s.lsInit
  qps := if L .qps then State.reset.qps else s.qps
  prts := if L .prts then State.reset.prts else s.prts
  qpResult := if L .qpResult then State.reset.qpResult else s.qpResult
  crds := if L .crds then State.reset.crds else s.crds
  ply := if L .ply then State.reset.ply else s.ply
  nvm := if L .nvm then State.reset.nvm else s.nvm
  ndy := if L .ndy then State.reset.ndy else s.ndy
  fuses := if L .fuses then State.reset.fuses else s.fuses
  whl := if L .whl then State.reset.whl else s.whl
  pkg := if L .pkg then State.reset.pkg else s.pkg
  out := if L .out then State.reset.out else s.out

/-- Masked states that are equal agree on every piece that is not masked. -/
theorem sameAt_of_mask {L : Piece → Bool} {s t : State} (h : t.mask L = s.mask L) (p : Piece) (hp : L p = false) :
    SameAt p s t := by
  cases p
  case pending => have := congrArg State.pending h; simpa [State.mask, hp, SameAt] using this
  case tick => have := congrArg State.tick h; simpa [State.mask, hp, SameAt] using this
  case wall => have := congrArg State.wall h; simpa [State.mask, hp, SameAt] using this
  case cyc => have := congrArg State.cyc h; simpa [State.mask, hp, SameAt] using this
  case free => have := congrArg State.free h; simpa [State.mask, hp, SameAt] using this
  case ids => have := congrArg State.ids h; simpa [State.mask, hp, SameAt] using this
  case reg => have := congrArg State.reg h; simpa [State.mask, hp, SameAt] using this
  case mem => have := congrArg State.mem h; simpa [State.mask, hp, SameAt] using this
  case errs => have := congrArg State.errs h; simpa [State.mask, hp, SameAt] using this
  case skn => have := congrArg State.skn h; simpa [State.mask, hp, SameAt] using this
  case dst => have := congrArg State.dst h; simpa [State.mask, hp, SameAt] using this
  case gate => have := congrArg State.gate h; simpa [State.mask, hp, SameAt] using this
  case pend => have := congrArg State.pend h; simpa [State.mask, hp, SameAt] using this
  case rstBusy => have := congrArg State.rstBusy h; simpa [State.mask, hp, SameAt] using this
  case sleepReq => have := congrArg State.sleepReq h; simpa [State.mask, hp, SameAt] using this
  case asleep => have := congrArg State.asleep h; simpa [State.mask, hp, SameAt] using this
  case wakeAt => have := congrArg State.wakeAt h; simpa [State.mask, hp, SameAt] using this
  case run => have := congrArg State.run h; simpa [State.mask, hp, SameAt] using this
  case spare => have := congrArg State.spare h; simpa [State.mask, hp, SameAt] using this
  case spareReq => have := congrArg State.spareReq h; simpa [State.mask, hp, SameAt] using this
  case ready => have := congrArg State.ready h; simpa [State.mask, hp, SameAt] using this
  case bobs => have := congrArg State.bobs h; simpa [State.mask, hp, SameAt] using this
  case turns => have := congrArg State.turns h; simpa [State.mask, hp, SameAt] using this
  case fetchTurns => have := congrArg State.fetchTurns h; simpa [State.mask, hp, SameAt] using this
  case barriers => have := congrArg State.barriers h; simpa [State.mask, hp, SameAt] using this
  case barrierAt => have := congrArg State.barrierAt h; simpa [State.mask, hp, SameAt] using this
  case holds => have := congrArg State.holds h; simpa [State.mask, hp, SameAt] using this
  case epochs => have := congrArg State.epochs h; simpa [State.mask, hp, SameAt] using this
  case ports => have := congrArg State.ports h; simpa [State.mask, hp, SameAt] using this
  case sched => have := congrArg State.sched h; simpa [State.mask, hp, SameAt] using this
  case reports => have := congrArg State.reports h; simpa [State.mask, hp, SameAt] using this
  case seqs => have := congrArg State.seqs h; simpa [State.mask, hp, SameAt] using this
  case rwp => have := congrArg State.rwp h; simpa [State.mask, hp, SameAt] using this
  case wear => have := congrArg State.wear h; simpa [State.mask, hp, SameAt] using this
  case retireWait => have := congrArg State.retireWait h; simpa [State.mask, hp, SameAt] using this
  case cause => have := congrArg State.cause h; simpa [State.mask, hp, SameAt] using this
  case pllLock => have := congrArg State.pllLock h; simpa [State.mask, hp, SameAt] using this
  case spread => have := congrArg State.spread h; simpa [State.mask, hp, SameAt] using this
  case onRoot => have := congrArg State.onRoot h; simpa [State.mask, hp, SameAt] using this
  case clocksOn => have := congrArg State.clocksOn h; simpa [State.mask, hp, SameAt] using this
  case fmRun => have := congrArg State.fmRun h; simpa [State.mask, hp, SameAt] using this
  case fmDone => have := congrArg State.fmDone h; simpa [State.mask, hp, SameAt] using this
  case fmResult => have := congrArg State.fmResult h; simpa [State.mask, hp, SameAt] using this
  case driftOdd => have := congrArg State.driftOdd h; simpa [State.mask, hp, SameAt] using this
  case monLast => have := congrArg State.monLast h; simpa [State.mask, hp, SameAt] using this
  case fmt => have := congrArg State.fmt h; simpa [State.mask, hp, SameAt] using this
  case spn => have := congrArg State.spn h; simpa [State.mask, hp, SameAt] using this
  case fly => have := congrArg State.fly h; simpa [State.mask, hp, SameAt] using this
  case curves => have := congrArg State.curves h; simpa [State.mask, hp, SameAt] using this
  case struck => have := congrArg State.struck h; simpa [State.mask, hp, SameAt] using this
  case images => have := congrArg State.images h; simpa [State.mask, hp, SameAt] using this
  case imgState => have := congrArg State.imgState h; simpa [State.mask, hp, SameAt] using this
  case loading => have := congrArg State.loading h; simpa [State.mask, hp, SameAt] using this
  case loadCtx => have := congrArg State.loadCtx h; simpa [State.mask, hp, SameAt] using this
  case loadResult => have := congrArg State.loadResult h; simpa [State.mask, hp, SameAt] using this
  case loadAddr => have := congrArg State.loadAddr h; simpa [State.mask, hp, SameAt] using this
  case planCache => have := congrArg State.planCache h; simpa [State.mask, hp, SameAt] using this
  case lastRun => have := congrArg State.lastRun h; simpa [State.mask, hp, SameAt] using this
  case lastBucket => have := congrArg State.lastBucket h; simpa [State.mask, hp, SameAt] using this
  case ctxs => have := congrArg State.ctxs h; simpa [State.mask, hp, SameAt] using this
  case trns => have := congrArg State.trns h; simpa [State.mask, hp, SameAt] using this
  case lsInit => have := congrArg State.lsInit h; simpa [State.mask, hp, SameAt] using this
  case qps => have := congrArg State.qps h; simpa [State.mask, hp, SameAt] using this
  case prts => have := congrArg State.prts h; simpa [State.mask, hp, SameAt] using this
  case qpResult => have := congrArg State.qpResult h; simpa [State.mask, hp, SameAt] using this
  case crds => have := congrArg State.crds h; simpa [State.mask, hp, SameAt] using this
  case ply => have := congrArg State.ply h; simpa [State.mask, hp, SameAt] using this
  case nvm => have := congrArg State.nvm h; simpa [State.mask, hp, SameAt] using this
  case ndy => have := congrArg State.ndy h; simpa [State.mask, hp, SameAt] using this
  case fuses => have := congrArg State.fuses h; simpa [State.mask, hp, SameAt] using this
  case whl => have := congrArg State.whl h; simpa [State.mask, hp, SameAt] using this
  case pkg => have := congrArg State.pkg h; simpa [State.mask, hp, SameAt] using this
  case out => have := congrArg State.out h; simpa [State.mask, hp, SameAt] using this

/-- States that agree on every piece that is not masked are equal when masked. -/
theorem mask_of_sameAt {L : Piece → Bool} {s t : State} (h : ∀ p, L p = false → SameAt p s t) : t.mask L = s.mask L := by
  unfold State.mask
  congr 1
  · cases hl : L .pending with
    | true => simp
    | false => simpa [SameAt] using h .pending hl
  · cases hl : L .tick with
    | true => simp
    | false => simpa [SameAt] using h .tick hl
  · cases hl : L .wall with
    | true => simp
    | false => simpa [SameAt] using h .wall hl
  · cases hl : L .cyc with
    | true => simp
    | false => simpa [SameAt] using h .cyc hl
  · cases hl : L .free with
    | true => simp
    | false => simpa [SameAt] using h .free hl
  · cases hl : L .ids with
    | true => simp
    | false => simpa [SameAt] using h .ids hl
  · cases hl : L .reg with
    | true => simp
    | false => simpa [SameAt] using h .reg hl
  · cases hl : L .mem with
    | true => simp
    | false => simpa [SameAt] using h .mem hl
  · cases hl : L .errs with
    | true => simp
    | false => simpa [SameAt] using h .errs hl
  · cases hl : L .skn with
    | true => simp
    | false => simpa [SameAt] using h .skn hl
  · cases hl : L .dst with
    | true => simp
    | false => simpa [SameAt] using h .dst hl
  · cases hl : L .gate with
    | true => simp
    | false => simpa [SameAt] using h .gate hl
  · cases hl : L .pend with
    | true => simp
    | false => simpa [SameAt] using h .pend hl
  · cases hl : L .rstBusy with
    | true => simp
    | false => simpa [SameAt] using h .rstBusy hl
  · cases hl : L .sleepReq with
    | true => simp
    | false => simpa [SameAt] using h .sleepReq hl
  · cases hl : L .asleep with
    | true => simp
    | false => simpa [SameAt] using h .asleep hl
  · cases hl : L .wakeAt with
    | true => simp
    | false => simpa [SameAt] using h .wakeAt hl
  · cases hl : L .run with
    | true => simp
    | false => simpa [SameAt] using h .run hl
  · cases hl : L .spare with
    | true => simp
    | false => simpa [SameAt] using h .spare hl
  · cases hl : L .spareReq with
    | true => simp
    | false => simpa [SameAt] using h .spareReq hl
  · cases hl : L .ready with
    | true => simp
    | false => simpa [SameAt] using h .ready hl
  · cases hl : L .bobs with
    | true => simp
    | false => simpa [SameAt] using h .bobs hl
  · cases hl : L .turns with
    | true => simp
    | false => simpa [SameAt] using h .turns hl
  · cases hl : L .fetchTurns with
    | true => simp
    | false => simpa [SameAt] using h .fetchTurns hl
  · cases hl : L .barriers with
    | true => simp
    | false => simpa [SameAt] using h .barriers hl
  · cases hl : L .barrierAt with
    | true => simp
    | false => simpa [SameAt] using h .barrierAt hl
  · cases hl : L .holds with
    | true => simp
    | false => simpa [SameAt] using h .holds hl
  · cases hl : L .epochs with
    | true => simp
    | false => simpa [SameAt] using h .epochs hl
  · cases hl : L .ports with
    | true => simp
    | false => simpa [SameAt] using h .ports hl
  · cases hl : L .sched with
    | true => simp
    | false => simpa [SameAt] using h .sched hl
  · cases hl : L .reports with
    | true => simp
    | false => simpa [SameAt] using h .reports hl
  · cases hl : L .seqs with
    | true => simp
    | false => simpa [SameAt] using h .seqs hl
  · cases hl : L .rwp with
    | true => simp
    | false => simpa [SameAt] using h .rwp hl
  · cases hl : L .wear with
    | true => simp
    | false => simpa [SameAt] using h .wear hl
  · cases hl : L .retireWait with
    | true => simp
    | false => simpa [SameAt] using h .retireWait hl
  · cases hl : L .cause with
    | true => simp
    | false => simpa [SameAt] using h .cause hl
  · cases hl : L .pllLock with
    | true => simp
    | false => simpa [SameAt] using h .pllLock hl
  · cases hl : L .spread with
    | true => simp
    | false => simpa [SameAt] using h .spread hl
  · cases hl : L .onRoot with
    | true => simp
    | false => simpa [SameAt] using h .onRoot hl
  · cases hl : L .clocksOn with
    | true => simp
    | false => simpa [SameAt] using h .clocksOn hl
  · cases hl : L .fmRun with
    | true => simp
    | false => simpa [SameAt] using h .fmRun hl
  · cases hl : L .fmDone with
    | true => simp
    | false => simpa [SameAt] using h .fmDone hl
  · cases hl : L .fmResult with
    | true => simp
    | false => simpa [SameAt] using h .fmResult hl
  · cases hl : L .driftOdd with
    | true => simp
    | false => simpa [SameAt] using h .driftOdd hl
  · cases hl : L .monLast with
    | true => simp
    | false => simpa [SameAt] using h .monLast hl
  · cases hl : L .fmt with
    | true => simp
    | false => simpa [SameAt] using h .fmt hl
  · cases hl : L .spn with
    | true => simp
    | false => simpa [SameAt] using h .spn hl
  · cases hl : L .fly with
    | true => simp
    | false => simpa [SameAt] using h .fly hl
  · cases hl : L .curves with
    | true => simp
    | false => simpa [SameAt] using h .curves hl
  · cases hl : L .struck with
    | true => simp
    | false => simpa [SameAt] using h .struck hl
  · cases hl : L .images with
    | true => simp
    | false => simpa [SameAt] using h .images hl
  · cases hl : L .imgState with
    | true => simp
    | false => simpa [SameAt] using h .imgState hl
  · cases hl : L .loading with
    | true => simp
    | false => simpa [SameAt] using h .loading hl
  · cases hl : L .loadCtx with
    | true => simp
    | false => simpa [SameAt] using h .loadCtx hl
  · cases hl : L .loadResult with
    | true => simp
    | false => simpa [SameAt] using h .loadResult hl
  · cases hl : L .loadAddr with
    | true => simp
    | false => simpa [SameAt] using h .loadAddr hl
  · cases hl : L .planCache with
    | true => simp
    | false => simpa [SameAt] using h .planCache hl
  · cases hl : L .lastRun with
    | true => simp
    | false => simpa [SameAt] using h .lastRun hl
  · cases hl : L .lastBucket with
    | true => simp
    | false => simpa [SameAt] using h .lastBucket hl
  · cases hl : L .ctxs with
    | true => simp
    | false => simpa [SameAt] using h .ctxs hl
  · cases hl : L .trns with
    | true => simp
    | false => simpa [SameAt] using h .trns hl
  · cases hl : L .lsInit with
    | true => simp
    | false => simpa [SameAt] using h .lsInit hl
  · cases hl : L .qps with
    | true => simp
    | false => simpa [SameAt] using h .qps hl
  · cases hl : L .prts with
    | true => simp
    | false => simpa [SameAt] using h .prts hl
  · cases hl : L .qpResult with
    | true => simp
    | false => simpa [SameAt] using h .qpResult hl
  · cases hl : L .crds with
    | true => simp
    | false => simpa [SameAt] using h .crds hl
  · cases hl : L .ply with
    | true => simp
    | false => simpa [SameAt] using h .ply hl
  · cases hl : L .nvm with
    | true => simp
    | false => simpa [SameAt] using h .nvm hl
  · cases hl : L .ndy with
    | true => simp
    | false => simpa [SameAt] using h .ndy hl
  · cases hl : L .fuses with
    | true => simp
    | false => simpa [SameAt] using h .fuses hl
  · cases hl : L .whl with
    | true => simp
    | false => simpa [SameAt] using h .whl hl
  · cases hl : L .pkg with
    | true => simp
    | false => simpa [SameAt] using h .pkg hl
  · cases hl : L .out with
    | true => simp
    | false => simpa [SameAt] using h .out hl

/-- The pieces of a list. -/
def pieces (l : List Piece) (p : Piece) : Bool := decide (p ∈ l)

/-- A frame, from the equation of masked states. -/
theorem unchanged_of_mask {l : List Piece} {s t : State} (h : t.mask (pieces l) = s.mask (pieces l)) : Unchanged l s t :=
  fun p hp => sameAt_of_mask h p (by simp [pieces, hp])

/-- The equation of masked states, from a frame. -/
theorem mask_of_unchanged {l : List Piece} {s t : State} (h : Unchanged l s t) : t.mask (pieces l) = s.mask (pieces l) :=
  mask_of_sameAt (fun p hp => h p (by simpa [pieces] using hp))

/-- Every piece outside `K` is masked. -/
def Covers (K : List Piece) (L : Piece → Bool) : Prop := ∀ p, p ∉ K → L p = true

theorem Covers.at {K : List Piece} {L : Piece → Bool} (h : Covers K L) {p : Piece} (hp : p ∉ K) : L p = true := h p hp

theorem Covers.mono {K K' : List Piece} {L : Piece → Bool} (h : Covers K L) (hs : ∀ p ∈ K, p ∈ K') : Covers K' L :=
  fun p hp => h p (fun hk => hp (hs p hk))

/-- The state after the answer to a write. -/
def WrRes.over (r : WrRes) (s : State) : State :=
  match r with
  | .done t => t
  | .refuse _ => s

@[simp] theorem over_done {s t : State} : (WrRes.done t).over s = t := rfl
@[simp] theorem over_refuse {k : Byte} {s : State} : (WrRes.refuse k).over s = s := rfl

@[simp] theorem over_ite {c : Prop} [Decidable c] {a b : WrRes} {s : State} :
    (if c then a else b).over s = if c then a.over s else b.over s := by split <;> rfl

@[simp] theorem ofWr_state {r : WrRes} {s : State} : (ofWr r s).2 = r.over s := by cases r <;> rfl
@[simp] theorem ofWr2_state {r : WrRes × State} : (ofWr2 r).2 = r.1.over r.2 := by cases r with | mk a b => cases a <;> rfl

@[simp] theorem mask_ite {L : Piece → Bool} {c : Prop} [Decidable c] {s t : State} :
    (if c then s else t).mask L = if c then s.mask L else t.mask L := by split <;> rfl

@[simp] theorem mask_set_pending {L : Piece → Bool} {s : State} {v : List Instr} (h : L .pending = true) :
    ({ s with pending := v } : State).mask L = s.mask L := by simp only [State.mask, h, if_true]
@[simp] theorem mask_set_tick {L : Piece → Bool} {s : State} {v : Nat} (h : L .tick = true) :
    ({ s with tick := v } : State).mask L = s.mask L := by simp only [State.mask, h, if_true]
@[simp] theorem mask_set_wall {L : Piece → Bool} {s : State} {v : Nat} (h : L .wall = true) :
    ({ s with wall := v } : State).mask L = s.mask L := by simp only [State.mask, h, if_true]
@[simp] theorem mask_set_cyc {L : Piece → Bool} {s : State} {v : Nat} (h : L .cyc = true) :
    ({ s with cyc := v } : State).mask L = s.mask L := by simp only [State.mask, h, if_true]
@[simp] theorem mask_set_free {L : Piece → Bool} {s : State} {v : Nat} (h : L .free = true) :
    ({ s with free := v } : State).mask L = s.mask L := by simp only [State.mask, h, if_true]
@[simp] theorem mask_set_ids {L : Piece → Bool} {s : State} {v : Nat} (h : L .ids = true) :
    ({ s with ids := v } : State).mask L = s.mask L := by simp only [State.mask, h, if_true]
@[simp] theorem mask_set_reg {L : Piece → Bool} {s : State} {v : AMap Word} (h : L .reg = true) :
    ({ s with reg := v } : State).mask L = s.mask L := by simp only [State.mask, h, if_true]
@[simp] theorem mask_set_mem {L : Piece → Bool} {s : State} {v : List Host.Cell} (h : L .mem = true) :
    ({ s with mem := v } : State).mask L = s.mask L := by simp only [State.mask, h, if_true]
@[simp] theorem mask_set_errs {L : Piece → Bool} {s : State} {v : AMap (List Byte)} (h : L .errs = true) :
    ({ s with errs := v } : State).mask L = s.mask L := by simp only [State.mask, h, if_true]
@[simp] theorem mask_set_skn {L : Piece → Bool} {s : State} {v : AMap Skn} (h : L .skn = true) :
    ({ s with skn := v } : State).mask L = s.mask L := by simp only [State.mask, h, if_true]
@[simp] theorem mask_set_dst {L : Piece → Bool} {s : State} {v : Distaff} (h : L .dst = true) :
    ({ s with dst := v } : State).mask L = s.mask L := by simp only [State.mask, h, if_true]
@[simp] theorem mask_set_gate {L : Piece → Bool} {s : State} {v : BitVec 128} (h : L .gate = true) :
    ({ s with gate := v } : State).mask L = s.mask L := by simp only [State.mask, h, if_true]
@[simp] theorem mask_set_pend {L : Piece → Bool} {s : State} {v : BitVec 128} (h : L .pend = true) :
    ({ s with pend := v } : State).mask L = s.mask L := by simp only [State.mask, h, if_true]
@[simp] theorem mask_set_rstBusy {L : Piece → Bool} {s : State} {v : BitVec 128} (h : L .rstBusy = true) :
    ({ s with rstBusy := v } : State).mask L = s.mask L := by simp only [State.mask, h, if_true]
@[simp] theorem mask_set_sleepReq {L : Piece → Bool} {s : State} {v : BitVec 128} (h : L .sleepReq = true) :
    ({ s with sleepReq := v } : State).mask L = s.mask L := by simp only [State.mask, h, if_true]
@[simp] theorem mask_set_asleep {L : Piece → Bool} {s : State} {v : BitVec 128} (h : L .asleep = true) :
    ({ s with asleep := v } : State).mask L = s.mask L := by simp only [State.mask, h, if_true]
@[simp] theorem mask_set_wakeAt {L : Piece → Bool} {s : State} {v : AMap Nat} (h : L .wakeAt = true) :
    ({ s with wakeAt := v } : State).mask L = s.mask L := by simp only [State.mask, h, if_true]
@[simp] theorem mask_set_run {L : Piece → Bool} {s : State} {v : BitVec 4096} (h : L .run = true) :
    ({ s with run := v } : State).mask L = s.mask L := by simp only [State.mask, h, if_true]
@[simp] theorem mask_set_spare {L : Piece → Bool} {s : State} {v : BitVec 5} (h : L .spare = true) :
    ({ s with spare := v } : State).mask L = s.mask L := by simp only [State.mask, h, if_true]
@[simp] theorem mask_set_spareReq {L : Piece → Bool} {s : State} {v : Option (BitVec 5 × Nat)} (h : L .spareReq = true) :
    ({ s with spareReq := v } : State).mask L = s.mask L := by simp only [State.mask, h, if_true]
@[simp] theorem mask_set_ready {L : Piece → Bool} {s : State} {v : Bool} (h : L .ready = true) :
    ({ s with ready := v } : State).mask L = s.mask L := by simp only [State.mask, h, if_true]
@[simp] theorem mask_set_bobs {L : Piece → Bool} {s : State} {v : AMap Bob} (h : L .bobs = true) :
    ({ s with bobs := v } : State).mask L = s.mask L := by simp only [State.mask, h, if_true]
@[simp] theorem mask_set_turns {L : Piece → Bool} {s : State} {v : AMap Turn} (h : L .turns = true) :
    ({ s with turns := v } : State).mask L = s.mask L := by simp only [State.mask, h, if_true]
@[simp] theorem mask_set_fetchTurns {L : Piece → Bool} {s : State} {v : AMap Turn} (h : L .fetchTurns = true) :
    ({ s with fetchTurns := v } : State).mask L = s.mask L := by simp only [State.mask, h, if_true]
@[simp] theorem mask_set_barriers {L : Piece → Bool} {s : State} {v : AMap Word} (h : L .barriers = true) :
    ({ s with barriers := v } : State).mask L = s.mask L := by simp only [State.mask, h, if_true]
@[simp] theorem mask_set_barrierAt {L : Piece → Bool} {s : State} {v : AMap Nat} (h : L .barrierAt = true) :
    ({ s with barrierAt := v } : State).mask L = s.mask L := by simp only [State.mask, h, if_true]
@[simp] theorem mask_set_holds {L : Piece → Bool} {s : State} {v : AMap Bool} (h : L .holds = true) :
    ({ s with holds := v } : State).mask L = s.mask L := by simp only [State.mask, h, if_true]
@[simp] theorem mask_set_epochs {L : Piece → Bool} {s : State} {v : AMap (BitVec 16)} (h : L .epochs = true) :
    ({ s with epochs := v } : State).mask L = s.mask L := by simp only [State.mask, h, if_true]
@[simp] theorem mask_set_ports {L : Piece → Bool} {s : State} {v : AMap (List Issued)} (h : L .ports = true) :
    ({ s with ports := v } : State).mask L = s.mask L := by simp only [State.mask, h, if_true]
@[simp] theorem mask_set_sched {L : Piece → Bool} {s : State} {v : List Issued} (h : L .sched = true) :
    ({ s with sched := v } : State).mask L = s.mask L := by simp only [State.mask, h, if_true]
@[simp] theorem mask_set_reports {L : Piece → Bool} {s : State} {v : List Report} (h : L .reports = true) :
    ({ s with reports := v } : State).mask L = s.mask L := by simp only [State.mask, h, if_true]
@[simp] theorem mask_set_seqs {L : Piece → Bool} {s : State} {v : AMap Word} (h : L .seqs = true) :
    ({ s with seqs := v } : State).mask L = s.mask L := by simp only [State.mask, h, if_true]
@[simp] theorem mask_set_rwp {L : Piece → Bool} {s : State} {v : AMap Word} (h : L .rwp = true) :
    ({ s with rwp := v } : State).mask L = s.mask L := by simp only [State.mask, h, if_true]
@[simp] theorem mask_set_wear {L : Piece → Bool} {s : State} {v : AMap Nat} (h : L .wear = true) :
    ({ s with wear := v } : State).mask L = s.mask L := by simp only [State.mask, h, if_true]
@[simp] theorem mask_set_retireWait {L : Piece → Bool} {s : State} {v : BitVec 128} (h : L .retireWait = true) :
    ({ s with retireWait := v } : State).mask L = s.mask L := by simp only [State.mask, h, if_true]
@[simp] theorem mask_set_cause {L : Piece → Bool} {s : State} {v : BitVec 3} (h : L .cause = true) :
    ({ s with cause := v } : State).mask L = s.mask L := by simp only [State.mask, h, if_true]
@[simp] theorem mask_set_pllLock {L : Piece → Bool} {s : State} {v : Bool} (h : L .pllLock = true) :
    ({ s with pllLock := v } : State).mask L = s.mask L := by simp only [State.mask, h, if_true]
@[simp] theorem mask_set_spread {L : Piece → Bool} {s : State} {v : Bool} (h : L .spread = true) :
    ({ s with spread := v } : State).mask L = s.mask L := by simp only [State.mask, h, if_true]
@[simp] theorem mask_set_onRoot {L : Piece → Bool} {s : State} {v : Bool} (h : L .onRoot = true) :
    ({ s with onRoot := v } : State).mask L = s.mask L := by simp only [State.mask, h, if_true]
@[simp] theorem mask_set_clocksOn {L : Piece → Bool} {s : State} {v : Bool} (h : L .clocksOn = true) :
    ({ s with clocksOn := v } : State).mask L = s.mask L := by simp only [State.mask, h, if_true]
@[simp] theorem mask_set_fmRun {L : Piece → Bool} {s : State} {v : Bool} (h : L .fmRun = true) :
    ({ s with fmRun := v } : State).mask L = s.mask L := by simp only [State.mask, h, if_true]
@[simp] theorem mask_set_fmDone {L : Piece → Bool} {s : State} {v : Bool} (h : L .fmDone = true) :
    ({ s with fmDone := v } : State).mask L = s.mask L := by simp only [State.mask, h, if_true]
@[simp] theorem mask_set_fmResult {L : Piece → Bool} {s : State} {v : Word} (h : L .fmResult = true) :
    ({ s with fmResult := v } : State).mask L = s.mask L := by simp only [State.mask, h, if_true]
@[simp] theorem mask_set_driftOdd {L : Piece → Bool} {s : State} {v : Bool} (h : L .driftOdd = true) :
    ({ s with driftOdd := v } : State).mask L = s.mask L := by simp only [State.mask, h, if_true]
@[simp] theorem mask_set_monLast {L : Piece → Bool} {s : State} {v : Word} (h : L .monLast = true) :
    ({ s with monLast := v } : State).mask L = s.mask L := by simp only [State.mask, h, if_true]
@[simp] theorem mask_set_fmt {L : Piece → Bool} {s : State} {v : AMap (List Word)} (h : L .fmt = true) :
    ({ s with fmt := v } : State).mask L = s.mask L := by simp only [State.mask, h, if_true]
@[simp] theorem mask_set_spn {L : Piece → Bool} {s : State} {v : AMap Spn} (h : L .spn = true) :
    ({ s with spn := v } : State).mask L = s.mask L := by simp only [State.mask, h, if_true]
@[simp] theorem mask_set_fly {L : Piece → Bool} {s : State} {v : AMap Fly} (h : L .fly = true) :
    ({ s with fly := v } : State).mask L = s.mask L := by simp only [State.mask, h, if_true]
@[simp] theorem mask_set_curves {L : Piece → Bool} {s : State} {v : AMap (List Word)} (h : L .curves = true) :
    ({ s with curves := v } : State).mask L = s.mask L := by simp only [State.mask, h, if_true]
@[simp] theorem mask_set_struck {L : Piece → Bool} {s : State} {v : List Hit} (h : L .struck = true) :
    ({ s with struck := v } : State).mask L = s.mask L := by simp only [State.mask, h, if_true]
@[simp] theorem mask_set_images {L : Piece → Bool} {s : State} {v : AMap Image} (h : L .images = true) :
    ({ s with images := v } : State).mask L = s.mask L := by simp only [State.mask, h, if_true]
@[simp] theorem mask_set_imgState {L : Piece → Bool} {s : State} {v : AMap ImgState} (h : L .imgState = true) :
    ({ s with imgState := v } : State).mask L = s.mask L := by simp only [State.mask, h, if_true]
@[simp] theorem mask_set_loading {L : Piece → Bool} {s : State} {v : List Issued} (h : L .loading = true) :
    ({ s with loading := v } : State).mask L = s.mask L := by simp only [State.mask, h, if_true]
@[simp] theorem mask_set_loadCtx {L : Piece → Bool} {s : State} {v : BitVec 12} (h : L .loadCtx = true) :
    ({ s with loadCtx := v } : State).mask L = s.mask L := by simp only [State.mask, h, if_true]
@[simp] theorem mask_set_loadResult {L : Piece → Bool} {s : State} {v : Word} (h : L .loadResult = true) :
    ({ s with loadResult := v } : State).mask L = s.mask L := by simp only [State.mask, h, if_true]
@[simp] theorem mask_set_loadAddr {L : Piece → Bool} {s : State} {v : BitVec 48} (h : L .loadAddr = true) :
    ({ s with loadAddr := v } : State).mask L = s.mask L := by simp only [State.mask, h, if_true]
@[simp] theorem mask_set_planCache {L : Piece → Bool} {s : State} {v : AMap Nat} (h : L .planCache = true) :
    ({ s with planCache := v } : State).mask L = s.mask L := by simp only [State.mask, h, if_true]
@[simp] theorem mask_set_lastRun {L : Piece → Bool} {s : State} {v : Word} (h : L .lastRun = true) :
    ({ s with lastRun := v } : State).mask L = s.mask L := by simp only [State.mask, h, if_true]
@[simp] theorem mask_set_lastBucket {L : Piece → Bool} {s : State} {v : BitVec 4} (h : L .lastBucket = true) :
    ({ s with lastBucket := v } : State).mask L = s.mask L := by simp only [State.mask, h, if_true]
@[simp] theorem mask_set_ctxs {L : Piece → Bool} {s : State} {v : AMap Ctx} (h : L .ctxs = true) :
    ({ s with ctxs := v } : State).mask L = s.mask L := by simp only [State.mask, h, if_true]
@[simp] theorem mask_set_trns {L : Piece → Bool} {s : State} {v : AMap Trn} (h : L .trns = true) :
    ({ s with trns := v } : State).mask L = s.mask L := by simp only [State.mask, h, if_true]
@[simp] theorem mask_set_lsInit {L : Piece → Bool} {s : State} {v : BitVec 8} (h : L .lsInit = true) :
    ({ s with lsInit := v } : State).mask L = s.mask L := by simp only [State.mask, h, if_true]
@[simp] theorem mask_set_qps {L : Piece → Bool} {s : State} {v : AMap Qp} (h : L .qps = true) :
    ({ s with qps := v } : State).mask L = s.mask L := by simp only [State.mask, h, if_true]
@[simp] theorem mask_set_prts {L : Piece → Bool} {s : State} {v : AMap Prt} (h : L .prts = true) :
    ({ s with prts := v } : State).mask L = s.mask L := by simp only [State.mask, h, if_true]
@[simp] theorem mask_set_qpResult {L : Piece → Bool} {s : State} {v : Word} (h : L .qpResult = true) :
    ({ s with qpResult := v } : State).mask L = s.mask L := by simp only [State.mask, h, if_true]
@[simp] theorem mask_set_crds {L : Piece → Bool} {s : State} {v : AMap Crd} (h : L .crds = true) :
    ({ s with crds := v } : State).mask L = s.mask L := by simp only [State.mask, h, if_true]
@[simp] theorem mask_set_ply {L : Piece → Bool} {s : State} {v : List PlyCmd} (h : L .ply = true) :
    ({ s with ply := v } : State).mask L = s.mask L := by simp only [State.mask, h, if_true]
@[simp] theorem mask_set_nvm {L : Piece → Bool} {s : State} {v : AMap Byte} (h : L .nvm = true) :
    ({ s with nvm := v } : State).mask L = s.mask L := by simp only [State.mask, h, if_true]
@[simp] theorem mask_set_ndy {L : Piece → Bool} {s : State} {v : Ndy} (h : L .ndy = true) :
    ({ s with ndy := v } : State).mask L = s.mask L := by simp only [State.mask, h, if_true]
@[simp] theorem mask_set_fuses {L : Piece → Bool} {s : State} {v : Fuses} (h : L .fuses = true) :
    ({ s with fuses := v } : State).mask L = s.mask L := by simp only [State.mask, h, if_true]
@[simp] theorem mask_set_whl {L : Piece → Bool} {s : State} {v : Whl} (h : L .whl = true) :
    ({ s with whl := v } : State).mask L = s.mask L := by simp only [State.mask, h, if_true]
@[simp] theorem mask_set_pkg {L : Piece → Bool} {s : State} {v : Pkg} (h : L .pkg = true) :
    ({ s with pkg := v } : State).mask L = s.mask L := by simp only [State.mask, h, if_true]
@[simp] theorem mask_set_out {L : Piece → Bool} {s : State} {v : List Out} (h : L .out = true) :
    ({ s with out := v } : State).mask L = s.mask L := by simp only [State.mask, h, if_true]

/-- Folding a function that keeps the masked state keeps it. -/
@[simp] theorem mask_foldl {L : Piece → Bool} {α : Type} {f : State → α → State} (h : ∀ s x, (f s x).mask L = s.mask L)
    (l : List α) (s : State) : (l.foldl f s).mask L = s.mask L := by
  induction l generalizing s with
  | nil => rfl
  | cons x r ih => simp [ih, h]

@[simp] theorem mask_foldl_fst {L : Piece → Bool} {α β : Type} {f : State × β → α → State × β}
    (h : ∀ a x, (f a x).1.mask L = a.1.mask L) (l : List α) (a : State × β) : (l.foldl f a).1.mask L = a.1.mask L := by
  induction l generalizing a with
  | nil => rfl
  | cons x r ih => simp [ih, h]

@[simp] theorem mask_foldl_snd {L : Piece → Bool} {α β : Type} {f : β × State → α → β × State}
    (h : ∀ a x, (f a x).2.mask L = a.2.mask L) (l : List α) (a : β × State) : (l.foldl f a).2.mask L = a.2.mask L := by
  induction l generalizing a with
  | nil => rfl
  | cons x r ih => simp [ih, h]

end Sys2Proof.Machine
end

