-- ==== Sys2Proof/Laws/FrameStorage.lean ====
section
/-! SUPPORT. What each operation leaves unchanged: the shared operations, skein memory, persistent registers, reports and the flyers' memory. -/

namespace Sys2Proof.Machine

@[simp] theorem State.bumpFree_mask {L : Piece → Bool} (s : State) (hfree : L .free = true) :
    (s.bumpFree).mask L = s.mask L := by
  unfold State.bumpFree; simp [*]

@[simp] theorem State.bumpId_mask {L : Piece → Bool} (s : State) (hids : L .ids = true) :
    (s.bumpId).mask L = s.mask L := by
  unfold State.bumpId; simp [*]

@[simp] theorem State.setReg_mask {L : Piece → Bool} (s : State) (a : Nat) (v : Word) (hreg : L .reg = true) :
    (s.setReg a v).mask L = s.mask L := by
  unfold State.setReg; simp [*]

@[simp] theorem State.count_mask {L : Piece → Bool} (s : State) (a n : Nat) (hreg : L .reg = true) :
    (s.count a n).mask L = s.mask L := by
  unfold State.count; simp [*]

@[simp] theorem State.clearBlock_mask {L : Piece → Bool} (s : State) (code inst : Nat) (p : RegRow → Bool) (hreg : L .reg = true) :
    (s.clearBlock code inst p).mask L = s.mask L := by
  unfold State.clearBlock; simp [*]

@[simp] theorem State.clearCounters_mask {L : Piece → Bool} (s : State) (code inst : Nat) (hreg : L .reg = true) :
    (s.clearCounters code inst).mask L = s.mask L := by
  unfold State.clearCounters; simp [*]

@[simp] theorem State.clearRegs_mask {L : Piece → Bool} (s : State) (code inst : Nat) (hreg : L .reg = true) :
    (s.clearRegs code inst).mask L = s.mask L := by
  unfold State.clearRegs; simp [*]

@[simp] theorem sendMsg_mask {L : Piece → Bool} (m : Msg) (charge : Option Nat) (s : State) (hdst : L .dst = true) (hseqs : L .seqs = true) :
    (sendMsg m charge s).mask L = s.mask L := by
  unfold sendMsg
  dsimp only
  split
  · simp [*]
  · split <;> simp only [State.mask, *, if_true]

@[simp] theorem tagNew_mask {L : Piece → Bool} (f : Byte) (s t : State) (hdst : L .dst = true) :
    (tagNew f s t).mask L = t.mask L := by
  unfold tagNew; simp [*]

@[simp] theorem faultAddr_mask {L : Piece → Bool} (source : BitVec 16) (kind : Byte) (addr : Nat) (s : State) (hdst : L .dst = true) (hseqs : L .seqs = true) :
    (faultAddr source kind addr s).mask L = s.mask L := by
  unfold faultAddr; simp [*]

@[simp] theorem faultParam_mask {L : Piece → Bool} (source : BitVec 16) (kind : Byte) (param : Nat) (s : State) (hdst : L .dst = true) (hseqs : L .seqs = true) :
    (faultParam source kind param s).mask L = s.mask L := by
  unfold faultParam; simp [*]

@[simp] theorem faultAddrN_mask {L : Piece → Bool} (source : BitVec 16) (kind : Byte) (addr n : Nat) (s : State) (hdst : L .dst = true) (hseqs : L .seqs = true) :
    (faultAddrN source kind addr n s).mask L = s.mask L := by
  unfold faultAddrN; simp [*]

@[simp] theorem faultCharged_mask {L : Piece → Bool} (source : BitVec 16) (f : Flt) (id : Nat) (s : State) (hdst : L .dst = true) (hseqs : L .seqs = true) :
    (faultCharged source f id s).mask L = s.mask L := by
  unfold faultCharged; simp [*]

@[simp] theorem faultPlain_mask {L : Piece → Bool} (source : BitVec 16) (f : Flt) (s : State) (hdst : L .dst = true) (hseqs : L .seqs = true) :
    (faultPlain source f s).mask L = s.mask L := by
  unfold faultPlain; simp [*]

@[simp] theorem faultsOf_mask {L : Piece → Bool} (source : BitVec 16) (fs : List Flt) (id : Nat) (s : State) (hdst : L .dst = true) (hseqs : L .seqs = true) :
    (faultsOf source fs id s).mask L = s.mask L := by
  simp only [faultsOf]; (repeat' split) <;> simp [*]

@[simp] theorem State.bumpEpoch_mask {L : Piece → Bool} (s : State) (u : Nat) (hepochs : L .epochs = true) :
    (s.bumpEpoch u).mask L = s.mask L := by
  unfold State.bumpEpoch; simp [*]

@[simp] theorem State.setBarrier_mask {L : Piece → Bool} (s : State) (i : Nat) (v : Word) (hbarriers : L .barriers = true) (hbarrierAt : L .barrierAt = true) :
    (s.setBarrier i v).mask L = s.mask L := by
  unfold State.setBarrier; simp only [State.mask, *, if_true]

@[simp] theorem State.incBarrier_mask {L : Piece → Bool} (s : State) (i : Nat) (hbarriers : L .barriers = true) (hbarrierAt : L .barrierAt = true) :
    (s.incBarrier i).mask L = s.mask L := by
  unfold State.incBarrier; simp [*]

@[simp] theorem State.setHold_mask {L : Piece → Bool} (s : State) (t : Nat) (v : Bool) (hholds : L .holds = true) :
    (s.setHold t v).mask L = s.mask L := by
  unfold State.setHold; simp [*]

@[simp] theorem State.setPort_mask {L : Piece → Bool} (s : State) (u : Nat) (l : List Issued) (hports : L .ports = true) :
    (s.setPort u l).mask L = s.mask L := by
  unfold State.setPort; simp [*]

@[simp] theorem State.addReport_mask {L : Piece → Bool} (s : State) (r : Report) (hreports : L .reports = true) :
    (s.addReport r).mask L = s.mask L := by
  unfold State.addReport; simp [*]

@[simp] theorem State.setBob_mask {L : Piece → Bool} (s : State) (b : Nat) (x : Bob) (hbobs : L .bobs = true) :
    (s.setBob b x).mask L = s.mask L := by
  unfold State.setBob; simp [*]

@[simp] theorem State.emit_mask {L : Piece → Bool} (s : State) (o : Out) (hout : L .out = true) :
    (s.emit o).mask L = s.mask L := by
  unfold State.emit; simp [*]

@[simp] theorem State.setSkein_mask {L : Piece → Bool} (s : State) (k : Nat) (x : Skn) (hskn : L .skn = true) :
    (s.setSkein k x).mask L = s.mask L := by
  unfold State.setSkein; simp [*]

@[simp] theorem State.setErr_mask {L : Piece → Bool} (s : State) (sec : Nat) (e : List Byte) (herrs : L .errs = true) :
    (s.setErr sec e).mask L = s.mask L := by
  unfold State.setErr; simp [*]

@[simp] theorem State.writeErr_mask {L : Piece → Bool} (s : State) (sec : Nat) (e : List Byte) (herrs : L .errs = true) :
    (s.writeErr sec e).mask L = s.mask L := by
  unfold State.writeErr; simp [*]

@[simp] theorem State.setByte_mask {L : Piece → Bool} (s : State) (a : Nat) (v : Byte) (hmem : L .mem = true) :
    (s.setByte a v).mask L = s.mask L := by
  unfold State.setByte; simp [*]

@[simp] theorem State.setBytes_mask {L : Piece → Bool} (s : State) (a : Nat) (l : List Byte) (hmem : L .mem = true) :
    (s.setBytes a l).mask L = s.mask L := by
  induction l generalizing s a with
  | nil => rfl
  | cons b r ih => simp [State.setBytes, ih, *]

@[simp] theorem errorResponse_mask {L : Piece → Bool} (who : BitVec 16) (flags : Byte) (a : Nat) (kind : Byte) (s : State) (hreg : L .reg = true) (hdst : L .dst = true) (hseqs : L .seqs = true) :
    (errorResponse who flags a kind s).mask L = s.mask L := by
  unfold errorResponse; simp [*]

@[simp] theorem bucketAdd_mask {L : Piece → Bool} (k c a : Nat) (s : State) (hreg : L .reg = true) (hskn : L .skn = true) (hdst : L .dst = true) (hseqs : L .seqs = true) :
    (bucketAdd k c a s).mask L = s.mask L := by
  unfold bucketAdd; simp [*]

@[simp] theorem correctable_mask {L : Piece → Bool} (k sec : Nat) (s : State) (hreg : L .reg = true) (hskn : L .skn = true) (hdst : L .dst = true) (hseqs : L .seqs = true) :
    (correctable k sec s).mask L = s.mask L := by
  unfold correctable; simp [*]

@[simp] theorem uncorrectable_mask {L : Piece → Bool} (kind : Byte) (k sec : Nat) (s : State) (hreg : L .reg = true) (hskn : L .skn = true) (hdst : L .dst = true) (hseqs : L .seqs = true) :
    (uncorrectable kind k sec s).mask L = s.mask L := by
  unfold uncorrectable; simp [*]

@[simp] theorem repairSector_mask {L : Piece → Bool} (sec : Nat) (s : State) (hreg : L .reg = true) (hmem : L .mem = true) (herrs : L .errs = true) :
    (repairSector sec s).mask L = s.mask L := by
  unfold repairSector; simp [*]

@[simp] theorem touchRead_mask {L : Piece → Bool} (who : BitVec 16) (flags : Byte) (sec : Nat) (s : State) (hreg : L .reg = true) (hmem : L .mem = true) (herrs : L .errs = true) (hskn : L .skn = true) (hdst : L .dst = true) (hseqs : L .seqs = true) :
    (touchRead who flags sec s).mask L = s.mask L := by
  simp only [touchRead]; (repeat' split) <;> simp [*]

@[simp] theorem touchReads_mask {L : Piece → Bool} (who : BitVec 16) (flags : Byte) (secs : List Nat) (s : State) (hreg : L .reg = true) (hmem : L .mem = true) (herrs : L .errs = true) (hskn : L .skn = true) (hdst : L .dst = true) (hseqs : L .seqs = true) :
    (touchReads who flags secs s).mask L = s.mask L := by
  unfold touchReads; simp [*]

@[simp] theorem demandRead_mask {L : Piece → Bool} (who : BitVec 16) (flags : Byte) (a n : Nat) (s : State) (hreg : L .reg = true) (hmem : L .mem = true) (herrs : L .errs = true) (hskn : L .skn = true) (hdst : L .dst = true) (hseqs : L .seqs = true) :
    (demandRead who flags a n s).2.mask L = s.mask L := by
  unfold demandRead; simp [*]

@[simp] theorem writeSector_mask {L : Piece → Bool} (who : BitVec 16) (flags : Byte) (sec : Nat) (slots : List (Option MByte)) (s : State) (hreg : L .reg = true) (hmem : L .mem = true) (herrs : L .errs = true) (hskn : L .skn = true) (hdst : L .dst = true) (hseqs : L .seqs = true) :
    (writeSector who flags sec slots s).1.mask L = s.mask L := by
  unfold writeSector; dsimp only; (repeat' split) <;> simp [*]

@[simp] theorem writeBytes_mask {L : Piece → Bool} (who : BitVec 16) (flags : Byte) (ws : List (Nat × MByte)) (s : State) (hreg : L .reg = true) (hmem : L .mem = true) (herrs : L .errs = true) (hskn : L .skn = true) (hdst : L .dst = true) (hseqs : L .seqs = true) :
    (writeBytes who flags ws s).1.mask L = s.mask L := by
  unfold writeBytes; simp [*]

@[simp] theorem storeMarked_mask {L : Piece → Bool} (who : BitVec 16) (a : Nat) (l : List MByte) (s : State) (hreg : L .reg = true) (hmem : L .mem = true) (herrs : L .errs = true) (hskn : L .skn = true) (hdst : L .dst = true) (hseqs : L .seqs = true) :
    (storeMarked who a l s).mask L = s.mask L := by
  unfold storeMarked; simp [*]

@[simp] theorem storeClean_mask {L : Piece → Bool} (who : BitVec 16) (a : Nat) (l : List Byte) (s : State) (hreg : L .reg = true) (hmem : L .mem = true) (herrs : L .errs = true) (hskn : L .skn = true) (hdst : L .dst = true) (hseqs : L .seqs = true) :
    (storeClean who a l s).mask L = s.mask L := by
  unfold storeClean; simp [*]

@[simp] theorem applyUpset_mask {L : Piece → Bool} (u : Upset) (s : State) (herrs : L .errs = true) (hpkg : L .pkg = true) :
    (applyUpset u s).mask L = s.mask L := by
  unfold applyUpset; simp [*]

@[simp] theorem applyUpsets_mask {L : Piece → Bool} (us : List Upset) (s : State) (herrs : L .errs = true) (hpkg : L .pkg = true) :
    (applyUpsets us s).mask L = s.mask L := by
  unfold applyUpsets; simp [*]

@[simp] theorem scrubSector_mask {L : Piece → Bool} (sec : Nat) (s : State) (hreg : L .reg = true) (hmem : L .mem = true) (herrs : L .errs = true) (hskn : L .skn = true) (hdst : L .dst = true) (hseqs : L .seqs = true) :
    (scrubSector sec s).mask L = s.mask L := by
  simp only [scrubSector]; (repeat' split) <;> simp [*]

@[simp] theorem scrubGranule_mask {L : Piece → Bool} (k : Nat) (s : State) (hreg : L .reg = true) (hmem : L .mem = true) (herrs : L .errs = true) (hskn : L .skn = true) (hdst : L .dst = true) (hseqs : L .seqs = true) :
    (scrubGranule k s).mask L = s.mask L := by
  unfold scrubGranule
  dsimp only
  split
  all_goals
    try rw [State.count_mask (hreg := hreg)]
    rw [State.setSkein_mask (hskn := hskn)]
    exact mask_foldl (fun t c => by split <;> simp [*]) _ _

@[simp] theorem leakBuckets_mask {L : Piece → Bool} (k : Nat) (s : State) (hskn : L .skn = true) :
    (leakBuckets k s).mask L = s.mask L := by
  unfold leakBuckets; simp [*]

@[simp] theorem zeroFill_mask {L : Piece → Bool} (s : State) (hmem : L .mem = true) (herrs : L .errs = true) :
    (zeroFill s).mask L = s.mask L := by
  unfold zeroFill
  refine (mask_foldl (fun t e => ?_) _ _).trans ?_
  · split <;> simp [*]
  · simp only [State.mask, *, if_true]

@[simp] theorem nvmStore_mask {L : Piece → Bool} (a : Nat) (x0 : List Byte) (s : State) (hnvm : L .nvm = true) :
    (nvmStore a x0 s).mask L = s.mask L := by
  induction x0 generalizing s a with
  | nil => rfl
  | cons b r ih => simp [nvmStore, ih, *]

@[simp] theorem nvmEraseRange_mask {L : Piece → Bool} (a n : Nat) (s : State) (hnvm : L .nvm = true) :
    (nvmEraseRange a n s).mask L = s.mask L := by
  unfold nvmEraseRange; simp [*]

@[simp] theorem copyLive_mask {L : Piece → Bool} (h : Nat) (x0 : List (Nat × Nat)) (x1 : Nat) (s : State) (hnvm : L .nvm = true) :
    (copyLive h x0 x1 s).mask L = s.mask L := by
  induction x0 generalizing s x1 with
  | nil => rfl
  | cons b r ih => simp [copyLive, ih, *]

@[simp] theorem compact_mask {L : Piece → Bool} (s : State) (hnvm : L .nvm = true) (hndy : L .ndy = true) :
    (compact s).mask L = s.mask L := by
  simp only [compact]; (repeat' split) <;> simp [*]

@[simp] theorem openHalf_mask {L : Piece → Bool} (s : State) (hnvm : L .nvm = true) (hndy : L .ndy = true) :
    (openHalf s).mask L = s.mask L := by
  simp only [openHalf]; (repeat' split) <;> simp [*]

@[simp] theorem appendRecord_mask {L : Piece → Bool} (off : Nat) (v : Word) (wear : Nat) (s0 : State) (hnvm : L .nvm = true) (hndy : L .ndy = true) :
    (appendRecord off v wear s0).mask L = s0.mask L := by
  simp only [appendRecord]; (repeat' split) <;> simp [*]

@[simp] theorem queueWrite_mask {L : Piece → Bool} (s : State) (hndy : L .ndy = true) :
    (queueWrite s).mask L = s.mask L := by
  unfold queueWrite; simp [*]

@[simp] theorem eraseBlock_mask {L : Piece → Bool} (n : Nat) (s : State) (hnvm : L .nvm = true) (hndy : L .ndy = true) :
    (eraseBlock n s).mask L = s.mask L := by
  unfold eraseBlock; simp [*]

@[simp] theorem nvmTick_mask {L : Piece → Bool} (s : State) (hfree : L .free = true) (hnvm : L .nvm = true) (hndy : L .ndy = true) :
    (nvmTick s).mask L = s.mask L := by
  simp only [nvmTick]; (repeat' split) <;> simp [*]

@[simp] theorem persist_mask {L : Piece → Bool} (off : Nat) (v : Word) (nvmErr : Bool) (s : State) (hdst : L .dst = true) (hseqs : L .seqs = true) (hrwp : L .rwp = true) (hwear : L .wear = true) (hnvm : L .nvm = true) (hndy : L .ndy = true) :
    (persist off v nvmErr s).1.mask L = s.mask L := by
  unfold persist
  dsimp only
  split
  · rfl
  · split
    · simp [*]
    · have := appendRecord_mask (L := L) off v (s.wearOf off + 1) s (by assumption) (by assumption)
      simp only [State.mask, *, if_true] at this ⊢
      exact this

@[simp] theorem persistFree_mask {L : Piece → Bool} (off : Nat) (v : Word) (s : State) (hfree : L .free = true) (hdst : L .dst = true) (hseqs : L .seqs = true) (hrwp : L .rwp = true) (hwear : L .wear = true) (hnvm : L .nvm = true) (hndy : L .ndy = true) :
    (persistFree off v s).1.mask L = s.mask L := by
  unfold persistFree; simp [*]

@[simp] theorem scanRecords_mask {L : Piece → Bool} (h : Nat) (x0 : Nat) (x1 : Nat) (s : State) (hrwp : L .rwp = true) (hwear : L .wear = true) (hndy : L .ndy = true) :
    (scanRecords h x0 x1 s).mask L = s.mask L := by
  induction x0 generalizing s x1 with
  | zero => rfl
  | succ n ih =>
    unfold scanRecords
    dsimp only
    split
    · simp [*]
    · rw [ih]
      split <;> simp only [State.mask, *, if_true]

@[simp] theorem scanPersist_mask {L : Piece → Bool} (s : State) (hrwp : L .rwp = true) (hwear : L .wear = true) (hndy : L .ndy = true) :
    (scanPersist s).mask L = s.mask L := by
  unfold scanPersist
  dsimp only
  split
  · simp only [State.mask, *, if_true]
  · rw [scanRecords_mask (hrwp := hrwp) (hwear := hwear) (hndy := hndy)]
    simp only [State.mask, *, if_true]

@[simp] theorem unitRead_mask {L : Piece → Bool} (who : BitVec 16) (sec : Nat) (s : State) (hreg : L .reg = true) (hmem : L .mem = true) (herrs : L .errs = true) (hskn : L .skn = true) (hdst : L .dst = true) (hseqs : L .seqs = true) :
    (unitRead who sec s).mask L = s.mask L := by
  simp only [unitRead]; (repeat' split) <;> simp [*]

@[simp] theorem unitReads_mask {L : Piece → Bool} (who : BitVec 16) (secs : List Nat) (s : State) (hreg : L .reg = true) (hmem : L .mem = true) (herrs : L .errs = true) (hskn : L .skn = true) (hdst : L .dst = true) (hseqs : L .seqs = true) :
    (unitReads who secs s).mask L = s.mask L := by
  unfold unitReads; simp [*]

@[simp] theorem finishCmd_mask {L : Piece → Bool} (u : Nat) (i : Issued) (e0 : Eff) (s : State) (hreg : L .reg = true) (hmem : L .mem = true) (herrs : L .errs = true) (hskn : L .skn = true) (hdst : L .dst = true) (hreports : L .reports = true) (hseqs : L .seqs = true) :
    (finishCmd u i e0 s).mask L = s.mask L := by
  unfold finishCmd; simp [*]

@[simp] theorem refuseCmd_mask {L : Piece → Bool} (u : Nat) (i : Issued) (st : Byte) (s : State) (hreports : L .reports = true) :
    (refuseCmd u i st s).mask L = s.mask L := by
  unfold refuseCmd; simp [*]

@[simp] theorem checkFail_mask {L : Piece → Bool} (u : Nat) (i : Issued) (f : Flt) (s : State) (hdst : L .dst = true) (hreports : L .reports = true) (hseqs : L .seqs = true) :
    (checkFail u i f s).mask L = s.mask L := by
  unfold checkFail; simp [*]

@[simp] theorem popPort_mask {L : Piece → Bool} (u : Nat) (s : State) (hports : L .ports = true) :
    (popPort u s).mask L = s.mask L := by
  unfold popPort; simp [*]

@[simp] theorem acceptCmd_mask {L : Piece → Bool} {α : Type} (u : Nat) (check : Issued → State → Chk α) (overlap : Issued → α → State → Bool) (run : Issued → α → State → State) (i : Issued) (s : State) (hreg : L .reg = true) (hmem : L .mem = true) (herrs : L .errs = true) (hskn : L .skn = true) (hdst : L .dst = true) (hports : L .ports = true) (hreports : L .reports = true) (hseqs : L .seqs = true) (hf : ∀ i a s, (run i a s).mask L = s.mask L) :
    (acceptCmd u check overlap run i s).mask L = s.mask L := by
  unfold acceptCmd
  dsimp only
  repeat' split
  all_goals simp [*]

@[simp] theorem accept_mask {L : Piece → Bool} {α : Type} (u op : Nat) (check : Issued → State → Chk α) (overlap : Issued → α → State → Bool) (run : Issued → α → State → State) (s : State) (hreg : L .reg = true) (hmem : L .mem = true) (herrs : L .errs = true) (hskn : L .skn = true) (hdst : L .dst = true) (hports : L .ports = true) (hreports : L .reports = true) (hseqs : L .seqs = true) (hf : ∀ i a s, (run i a s).mask L = s.mask L) :
    (accept u op check overlap run s).mask L = s.mask L := by
  unfold accept
  split <;> simp [*]

@[simp] theorem State.setFlyer_mask {L : Piece → Bool} (s : State) (f : Nat) (x : Fly) (hfly : L .fly = true) :
    (s.setFlyer f x).mask L = s.mask L := by
  unfold State.setFlyer; simp [*]

@[simp] theorem spillOne_mask {L : Piece → Bool} (f : Nat) (s : State) (hreg : L .reg = true) (hmem : L .mem = true) (herrs : L .errs = true) (hskn : L .skn = true) (hdst : L .dst = true) (hseqs : L .seqs = true) (hfly : L .fly = true) :
    (spillOne f s).mask L = s.mask L := by
  simp only [spillOne]; (repeat' split) <;> simp [*]

@[simp] theorem makeResident_mask {L : Piece → Bool} (f e : Nat) (s : State) (hfree : L .free = true) (hreg : L .reg = true) (hmem : L .mem = true) (herrs : L .errs = true) (hskn : L .skn = true) (hdst : L .dst = true) (hseqs : L .seqs = true) (hfly : L .fly = true) :
    (makeResident f e s).mask L = s.mask L := by
  simp only [makeResident]; (repeat' split) <;> simp [*]

@[simp] theorem stampEntry_mask {L : Piece → Bool} (f e : Nat) (s : State) (hfly : L .fly = true) :
    (stampEntry f e s).mask L = s.mask L := by
  simp only [stampEntry]; (repeat' split) <;> simp [*]

@[simp] theorem flyRead_mask {L : Piece → Bool} (f : Nat) (k : FKey) (row : Nat) (s : State) (hfree : L .free = true) (hreg : L .reg = true) (hmem : L .mem = true) (herrs : L .errs = true) (hskn : L .skn = true) (hdst : L .dst = true) (hseqs : L .seqs = true) (hfly : L .fly = true) :
    (flyRead f k row s).1.mask L = s.mask L := by
  simp only [flyRead]; (repeat' split) <;> simp [*]

@[simp] theorem flyWrite_mask {L : Piece → Bool} (f : Nat) (k : FKey) (row : Nat) (r : FlyRec) (s : State) (hfree : L .free = true) (hreg : L .reg = true) (hmem : L .mem = true) (herrs : L .errs = true) (hskn : L .skn = true) (hdst : L .dst = true) (hseqs : L .seqs = true) (hfly : L .fly = true) :
    (flyWrite f k row r s).1.mask L = s.mask L := by
  simp only [flyWrite]; (repeat' split) <;> simp [*]

@[simp] theorem flyFree_mask {L : Piece → Bool} (f : Nat) (p : FKey → Bool) (s : State) (hfly : L .fly = true) :
    (flyFree f p s).mask L = s.mask L := by
  unfold flyFree; simp [*]

@[simp] theorem runFrees_mask {L : Piece → Bool} (f : Nat) (s : State) (hfly : L .fly = true) :
    (runFrees f s).mask L = s.mask L := by
  unfold runFrees; simp [*]

@[simp] theorem internalFrees_mask {L : Piece → Bool} (c : Nat) (steps : List Nat) (s : State) (hfly : L .fly = true) :
    (internalFrees c steps s).mask L = s.mask L := by
  unfold internalFrees; simp [*]

@[simp] theorem noteHit_mask {L : Piece → Bool} (reg : BitVec 16 → Option Nat) (h : Hit) (s : State) (hreg : L .reg = true) (hdst : L .dst = true) (hseqs : L .seqs = true) :
    (noteHit reg h s).mask L = s.mask L := by
  simp only [noteHit]; (repeat' split) <;> simp [*]

@[simp] theorem noteEvents_mask {L : Piece → Bool} (reg : BitVec 16 → Option Nat) (hs : List Hit) (s : State) (hreg : L .reg = true) (hdst : L .dst = true) (hseqs : L .seqs = true) :
    (noteEvents reg hs s).mask L = s.mask L := by
  unfold noteEvents; simp [*]

@[simp] theorem noteHits_mask {L : Piece → Bool} (reg : BitVec 16 → Option Nat) (hs : List Hit) (s : State) (hreg : L .reg = true) (hdst : L .dst = true) (hseqs : L .seqs = true) (hstruck : L .struck = true) :
    (noteHits reg hs s).mask L = s.mask L := by
  unfold noteHits; simp [*]

@[simp] theorem clearStruck_mask {L : Piece → Bool} (s : State) (hstruck : L .struck = true) :
    (clearStruck s).mask L = s.mask L := by
  unfold clearStruck; simp [*]

@[simp] theorem withHits_mask {L : Piece → Bool} (u op : Nat) (hs : List Hit) (f : State → State) (s : State) (hreg : L .reg = true) (hdst : L .dst = true) (hseqs : L .seqs = true) (hstruck : L .struck = true) (hf : ∀ s, (f s).mask L = s.mask L) :
    (withHits u op hs f s).mask L = s.mask L := by
  unfold withHits
  split <;> simp [*]

@[simp] theorem countFree_mask {L : Piece → Bool} (a : Nat) (s : State) (hfree : L .free = true) (hreg : L .reg = true) :
    (countFree a s).mask L = s.mask L := by
  unfold countFree; simp [*]

@[simp] theorem useSram_mask {L : Piece → Bool} (k : Nat) (areas : List Nat) (s : State) (hfree : L .free = true) (hcrds : L .crds = true) :
    (useSram k areas s).mask L = s.mask L := by
  unfold useSram; simp only [State.mask, *, if_true]

end Sys2Proof.Machine
end

