-- ==== Sys2Proof/Laws/Maps.lean ====
section
/-! SUPPORT. Sparse tables: what is read after a write, and that every operation keeps the canonical form. -/

namespace Sys2Proof.Machine

@[simp] theorem mget_mset {α : Type} (m : AMap α) (k j : Nat) (v d : α) : mget (mset m k v) j d = if k = j then v else mget m j d := by
  induction m with
  | nil => simp [mset, mget]
  | cons e r ih =>
    obtain ⟨i, w⟩ := e
    unfold mset
    split
    · next h => subst h; simp only [mget]; split <;> rfl
    · split
      · simp only [mget]
      · simp only [mget, ih]
        split
        · next h1 _ h => subst h; rw [if_neg (fun e => h1 e.symm)]
        · rfl

@[simp] theorem mget_mdel {α : Type} (m : AMap α) (k j : Nat) (d : α) : mget (mdel m k) j d = if k = j then d else mget m j d := by
  induction m with
  | nil => simp [mdel, mget]
  | cons e r ih =>
    obtain ⟨i, w⟩ := e
    unfold mdel at ih ⊢
    rw [List.filter_cons]
    by_cases h : i = k
    · subst h; simp only [ne_eq, not_true_eq_false, decide_false, Bool.false_eq_true, if_false, ih, mget]; split <;> rfl
    · simp only [ne_eq, h, not_false_eq_true, decide_true, if_true, mget, ih]
      split
      · next e => subst e; rw [if_neg (fun e => h e.symm)]
      · rfl

@[simp] theorem mget_mput {α : Type} [DecidableEq α] (m : AMap α) (k j : Nat) (v d : α) :
    mget (mput m k v d) j d = if k = j then v else mget m j d := by
  unfold mput
  split
  · next h => subst h; simp
  · simp

theorem mget_mput_ne {α : Type} [DecidableEq α] (m : AMap α) {k j : Nat} (h : k ≠ j) (v d e : α) :
    mget (mput m k v d) j e = mget m j e := by
  unfold mput
  split
  · rw [mget_mdel, if_neg h]
  · rw [mget_mset, if_neg h]

@[simp] theorem mfind_mset {α : Type} (m : AMap α) (k j : Nat) (v : α) :
    mfind (mset m k v) j = if k = j then some v else mfind m j := by
  induction m with
  | nil => simp [mset, mfind]
  | cons e r ih =>
    obtain ⟨i, w⟩ := e
    unfold mset
    split
    · next h => subst h; simp only [mfind]; split <;> rfl
    · split
      · simp only [mfind]
      · simp only [mfind, ih]
        split
        · next h1 _ h => subst h; rw [if_neg (fun e => h1 e.symm)]
        · rfl

@[simp] theorem mfind_mdel {α : Type} (m : AMap α) (k j : Nat) : mfind (mdel m k) j = if k = j then none else mfind m j := by
  induction m with
  | nil => simp [mdel, mfind]
  | cons e r ih =>
    obtain ⟨i, w⟩ := e
    unfold mdel at ih ⊢
    rw [List.filter_cons]
    by_cases h : i = k
    · subst h; simp only [ne_eq, not_true_eq_false, decide_false, Bool.false_eq_true, if_false, ih, mfind]; split <;> rfl
    · simp only [ne_eq, h, not_false_eq_true, decide_true, if_true, mfind, ih]
      split
      · next e => subst e; rw [if_neg (fun e => h e.symm)]
      · rfl

theorem sortedFrom_mono {α : Type} {a b : Nat} {m : AMap α} (h : sortedFrom b m = true) (hab : a ≤ b) : sortedFrom a m = true := by
  cases m with
  | nil => rfl
  | cons e r =>
    obtain ⟨j, v⟩ := e
    simp only [sortedFrom, Bool.and_eq_true, decide_eq_true_eq] at h ⊢
    exact ⟨by omega, h.2⟩

theorem sortedFrom_filter {α : Type} {lo : Nat} {m : AMap α} (p : Nat × α → Bool) (h : sortedFrom lo m = true) :
    sortedFrom lo (m.filter p) = true := by
  induction m generalizing lo with
  | nil => rfl
  | cons e r ih =>
    obtain ⟨j, w⟩ := e
    simp only [sortedFrom, Bool.and_eq_true, decide_eq_true_eq] at h
    rw [List.filter_cons]
    split
    · simp [sortedFrom, h.1, ih h.2]
    · exact sortedFrom_mono (ih h.2) (by omega)

theorem sortedFrom_mdel {α : Type} {lo : Nat} {m : AMap α} (k : Nat) (h : sortedFrom lo m = true) : sortedFrom lo (mdel m k) = true :=
  sortedFrom_filter _ h

theorem sortedFrom_mset {α : Type} {lo : Nat} {m : AMap α} (k : Nat) (v : α) (h : sortedFrom lo m = true) (hk : lo ≤ k) :
    sortedFrom lo (mset m k v) = true := by
  induction m generalizing lo with
  | nil => simp [mset, sortedFrom, hk]
  | cons e r ih =>
    obtain ⟨j, w⟩ := e
    simp only [sortedFrom, Bool.and_eq_true, decide_eq_true_eq] at h
    unfold mset
    split
    · next hj => subst hj; simp [sortedFrom, h]
    · split
      · simp [sortedFrom, h, hk]; omega
      · next h1 h2 => simp [sortedFrom, h.1, ih h.2 (by omega)]

theorem mem_mdel {α : Type} {m : AMap α} {k : Nat} {e : Nat × α} (h : e ∈ mdel m k) : e ∈ m := List.mem_of_mem_filter h

theorem mem_mset {α : Type} {m : AMap α} {k : Nat} {v : α} {e : Nat × α} (h : e ∈ mset m k v) : e = (k, v) ∨ e ∈ m := by
  induction m with
  | nil => simpa [mset] using h
  | cons x r ih =>
    obtain ⟨j, w⟩ := x
    unfold mset at h
    split at h
    · rcases List.mem_cons.mp h with h | h
      · exact .inl h
      · exact .inr (List.mem_cons_of_mem _ h)
    · split at h
      · rcases List.mem_cons.mp h with h | h
        · exact .inl h
        · exact .inr h
      · rcases List.mem_cons.mp h with h | h
        · right; simp [h]
        · rcases ih h with h | h
          · exact .inl h
          · exact .inr (List.mem_cons_of_mem _ h)

theorem mem_mput {α : Type} [DecidableEq α] {m : AMap α} {k : Nat} {v d : α} {e : Nat × α} (h : e ∈ mput m k v d) :
    e = (k, v) ∨ e ∈ m := by
  unfold mput at h
  split at h
  · exact .inr (mem_mdel h)
  · exact mem_mset h

theorem mapWf_mput {α : Type} [DecidableEq α] {d : α} {m : AMap α} (k : Nat) (v : α) (h : mapWf d m = true) :
    mapWf d (mput m k v d) = true := by
  simp only [mapWf, Bool.and_eq_true, List.all_eq_true, decide_eq_true_eq] at h ⊢
  refine ⟨?_, fun e he => ?_⟩
  · unfold mput
    split
    · exact sortedFrom_mdel k h.1
    · exact sortedFrom_mset k v h.1 (by omega)
  · unfold mput at he
    split at he
    · exact h.2 e (mem_mdel he)
    · next hv => rcases mem_mset he with he | he
                 · subst he; exact hv
                 · exact h.2 e he

theorem mapWf_filter {α : Type} [DecidableEq α] {d : α} {m : AMap α} (p : Nat × α → Bool) (h : mapWf d m = true) :
    mapWf d (m.filter p) = true := by
  simp only [mapWf, Bool.and_eq_true, List.all_eq_true, decide_eq_true_eq] at h ⊢
  exact ⟨sortedFrom_filter p h.1, fun e he => h.2 e (List.mem_of_mem_filter he)⟩

end Sys2Proof.Machine
end

