-- ==== Sys2Proof/Laws/State.lean ====
section
/-! SUPPORT. What each named update of the state does to each field, and what the accessors read after it. -/

namespace Sys2Proof.Machine

section setReg
variable (s : State) (a : Nat) (v : Word)
@[simp] theorem State.setReg_pending : (s.setReg a v).pending = s.pending := rfl
@[simp] theorem State.setReg_tick : (s.setReg a v).tick = s.tick := rfl
@[simp] theorem State.setReg_wall : (s.setReg a v).wall = s.wall := rfl
@[simp] theorem State.setReg_cyc : (s.setReg a v).cyc = s.cyc := rfl
@[simp] theorem State.setReg_free : (s.setReg a v).free = s.free := rfl
@[simp] theorem State.setReg_ids : (s.setReg a v).ids = s.ids := rfl
@[simp] theorem State.setReg_reg : (s.setReg a v).reg = mput s.reg a v (regReset a) := rfl
@[simp] theorem State.setReg_mem : (s.setReg a v).mem = s.mem := rfl
@[simp] theorem State.setReg_errs : (s.setReg a v).errs = s.errs := rfl
@[simp] theorem State.setReg_skn : (s.setReg a v).skn = s.skn := rfl
@[simp] theorem State.setReg_dst : (s.setReg a v).dst = s.dst := rfl
@[simp] theorem State.setReg_gate : (s.setReg a v).gate = s.gate := rfl
@[simp] theorem State.setReg_pend : (s.setReg a v).pend = s.pend := rfl
@[simp] theorem State.setReg_rstBusy : (s.setReg a v).rstBusy = s.rstBusy := rfl
@[simp] theorem State.setReg_sleepReq : (s.setReg a v).sleepReq = s.sleepReq := rfl
@[simp] theorem State.setReg_asleep : (s.setReg a v).asleep = s.asleep := rfl
@[simp] theorem State.setReg_wakeAt : (s.setReg a v).wakeAt = s.wakeAt := rfl
@[simp] theorem State.setReg_run : (s.setReg a v).run = s.run := rfl
@[simp] theorem State.setReg_spare : (s.setReg a v).spare = s.spare := rfl
@[simp] theorem State.setReg_spareReq : (s.setReg a v).spareReq = s.spareReq := rfl
@[simp] theorem State.setReg_ready : (s.setReg a v).ready = s.ready := rfl
@[simp] theorem State.setReg_bobs : (s.setReg a v).bobs = s.bobs := rfl
@[simp] theorem State.setReg_turns : (s.setReg a v).turns = s.turns := rfl
@[simp] theorem State.setReg_fetchTurns : (s.setReg a v).fetchTurns = s.fetchTurns := rfl
@[simp] theorem State.setReg_barriers : (s.setReg a v).barriers = s.barriers := rfl
@[simp] theorem State.setReg_barrierAt : (s.setReg a v).barrierAt = s.barrierAt := rfl
@[simp] theorem State.setReg_holds : (s.setReg a v).holds = s.holds := rfl
@[simp] theorem State.setReg_epochs : (s.setReg a v).epochs = s.epochs := rfl
@[simp] theorem State.setReg_ports : (s.setReg a v).ports = s.ports := rfl
@[simp] theorem State.setReg_sched : (s.setReg a v).sched = s.sched := rfl
@[simp] theorem State.setReg_reports : (s.setReg a v).reports = s.reports := rfl
@[simp] theorem State.setReg_seqs : (s.setReg a v).seqs = s.seqs := rfl
@[simp] theorem State.setReg_rwp : (s.setReg a v).rwp = s.rwp := rfl
@[simp] theorem State.setReg_wear : (s.setReg a v).wear = s.wear := rfl
@[simp] theorem State.setReg_retireWait : (s.setReg a v).retireWait = s.retireWait := rfl
@[simp] theorem State.setReg_cause : (s.setReg a v).cause = s.cause := rfl
@[simp] theorem State.setReg_pllLock : (s.setReg a v).pllLock = s.pllLock := rfl
@[simp] theorem State.setReg_spread : (s.setReg a v).spread = s.spread := rfl
@[simp] theorem State.setReg_onRoot : (s.setReg a v).onRoot = s.onRoot := rfl
@[simp] theorem State.setReg_clocksOn : (s.setReg a v).clocksOn = s.clocksOn := rfl
@[simp] theorem State.setReg_fmRun : (s.setReg a v).fmRun = s.fmRun := rfl
@[simp] theorem State.setReg_fmDone : (s.setReg a v).fmDone = s.fmDone := rfl
@[simp] theorem State.setReg_fmResult : (s.setReg a v).fmResult = s.fmResult := rfl
@[simp] theorem State.setReg_driftOdd : (s.setReg a v).driftOdd = s.driftOdd := rfl
@[simp] theorem State.setReg_monLast : (s.setReg a v).monLast = s.monLast := rfl
@[simp] theorem State.setReg_fmt : (s.setReg a v).fmt = s.fmt := rfl
@[simp] theorem State.setReg_spn : (s.setReg a v).spn = s.spn := rfl
@[simp] theorem State.setReg_fly : (s.setReg a v).fly = s.fly := rfl
@[simp] theorem State.setReg_curves : (s.setReg a v).curves = s.curves := rfl
@[simp] theorem State.setReg_struck : (s.setReg a v).struck = s.struck := rfl
@[simp] theorem State.setReg_images : (s.setReg a v).images = s.images := rfl
@[simp] theorem State.setReg_imgState : (s.setReg a v).imgState = s.imgState := rfl
@[simp] theorem State.setReg_loading : (s.setReg a v).loading = s.loading := rfl
@[simp] theorem State.setReg_loadCtx : (s.setReg a v).loadCtx = s.loadCtx := rfl
@[simp] theorem State.setReg_loadResult : (s.setReg a v).loadResult = s.loadResult := rfl
@[simp] theorem State.setReg_loadAddr : (s.setReg a v).loadAddr = s.loadAddr := rfl
@[simp] theorem State.setReg_planCache : (s.setReg a v).planCache = s.planCache := rfl
@[simp] theorem State.setReg_lastRun : (s.setReg a v).lastRun = s.lastRun := rfl
@[simp] theorem State.setReg_lastBucket : (s.setReg a v).lastBucket = s.lastBucket := rfl
@[simp] theorem State.setReg_ctxs : (s.setReg a v).ctxs = s.ctxs := rfl
@[simp] theorem State.setReg_trns : (s.setReg a v).trns = s.trns := rfl
@[simp] theorem State.setReg_lsInit : (s.setReg a v).lsInit = s.lsInit := rfl
@[simp] theorem State.setReg_qps : (s.setReg a v).qps = s.qps := rfl
@[simp] theorem State.setReg_prts : (s.setReg a v).prts = s.prts := rfl
@[simp] theorem State.setReg_qpResult : (s.setReg a v).qpResult = s.qpResult := rfl
@[simp] theorem State.setReg_crds : (s.setReg a v).crds = s.crds := rfl
@[simp] theorem State.setReg_ply : (s.setReg a v).ply = s.ply := rfl
@[simp] theorem State.setReg_nvm : (s.setReg a v).nvm = s.nvm := rfl
@[simp] theorem State.setReg_ndy : (s.setReg a v).ndy = s.ndy := rfl
@[simp] theorem State.setReg_fuses : (s.setReg a v).fuses = s.fuses := rfl
@[simp] theorem State.setReg_whl : (s.setReg a v).whl = s.whl := rfl
@[simp] theorem State.setReg_pkg : (s.setReg a v).pkg = s.pkg := rfl
@[simp] theorem State.setReg_out : (s.setReg a v).out = s.out := rfl
end setReg

section setBarrier
variable (s : State) (i : Nat) (v : Word)
@[simp] theorem State.setBarrier_pending : (s.setBarrier i v).pending = s.pending := rfl
@[simp] theorem State.setBarrier_tick : (s.setBarrier i v).tick = s.tick := rfl
@[simp] theorem State.setBarrier_wall : (s.setBarrier i v).wall = s.wall := rfl
@[simp] theorem State.setBarrier_cyc : (s.setBarrier i v).cyc = s.cyc := rfl
@[simp] theorem State.setBarrier_free : (s.setBarrier i v).free = s.free := rfl
@[simp] theorem State.setBarrier_ids : (s.setBarrier i v).ids = s.ids := rfl
@[simp] theorem State.setBarrier_reg : (s.setBarrier i v).reg = s.reg := rfl
@[simp] theorem State.setBarrier_mem : (s.setBarrier i v).mem = s.mem := rfl
@[simp] theorem State.setBarrier_errs : (s.setBarrier i v).errs = s.errs := rfl
@[simp] theorem State.setBarrier_skn : (s.setBarrier i v).skn = s.skn := rfl
@[simp] theorem State.setBarrier_dst : (s.setBarrier i v).dst = s.dst := rfl
@[simp] theorem State.setBarrier_gate : (s.setBarrier i v).gate = s.gate := rfl
@[simp] theorem State.setBarrier_pend : (s.setBarrier i v).pend = s.pend := rfl
@[simp] theorem State.setBarrier_rstBusy : (s.setBarrier i v).rstBusy = s.rstBusy := rfl
@[simp] theorem State.setBarrier_sleepReq : (s.setBarrier i v).sleepReq = s.sleepReq := rfl
@[simp] theorem State.setBarrier_asleep : (s.setBarrier i v).asleep = s.asleep := rfl
@[simp] theorem State.setBarrier_wakeAt : (s.setBarrier i v).wakeAt = s.wakeAt := rfl
@[simp] theorem State.setBarrier_run : (s.setBarrier i v).run = s.run := rfl
@[simp] theorem State.setBarrier_spare : (s.setBarrier i v).spare = s.spare := rfl
@[simp] theorem State.setBarrier_spareReq : (s.setBarrier i v).spareReq = s.spareReq := rfl
@[simp] theorem State.setBarrier_ready : (s.setBarrier i v).ready = s.ready := rfl
@[simp] theorem State.setBarrier_bobs : (s.setBarrier i v).bobs = s.bobs := rfl
@[simp] theorem State.setBarrier_turns : (s.setBarrier i v).turns = s.turns := rfl
@[simp] theorem State.setBarrier_fetchTurns : (s.setBarrier i v).fetchTurns = s.fetchTurns := rfl
@[simp] theorem State.setBarrier_barriers : (s.setBarrier i v).barriers = mput s.barriers i v 0 := rfl
@[simp] theorem State.setBarrier_holds : (s.setBarrier i v).holds = s.holds := rfl
@[simp] theorem State.setBarrier_epochs : (s.setBarrier i v).epochs = s.epochs := rfl
@[simp] theorem State.setBarrier_ports : (s.setBarrier i v).ports = s.ports := rfl
@[simp] theorem State.setBarrier_sched : (s.setBarrier i v).sched = s.sched := rfl
@[simp] theorem State.setBarrier_reports : (s.setBarrier i v).reports = s.reports := rfl
@[simp] theorem State.setBarrier_seqs : (s.setBarrier i v).seqs = s.seqs := rfl
@[simp] theorem State.setBarrier_rwp : (s.setBarrier i v).rwp = s.rwp := rfl
@[simp] theorem State.setBarrier_wear : (s.setBarrier i v).wear = s.wear := rfl
@[simp] theorem State.setBarrier_retireWait : (s.setBarrier i v).retireWait = s.retireWait := rfl
@[simp] theorem State.setBarrier_cause : (s.setBarrier i v).cause = s.cause := rfl
@[simp] theorem State.setBarrier_pllLock : (s.setBarrier i v).pllLock = s.pllLock := rfl
@[simp] theorem State.setBarrier_spread : (s.setBarrier i v).spread = s.spread := rfl
@[simp] theorem State.setBarrier_onRoot : (s.setBarrier i v).onRoot = s.onRoot := rfl
@[simp] theorem State.setBarrier_clocksOn : (s.setBarrier i v).clocksOn = s.clocksOn := rfl
@[simp] theorem State.setBarrier_fmRun : (s.setBarrier i v).fmRun = s.fmRun := rfl
@[simp] theorem State.setBarrier_fmDone : (s.setBarrier i v).fmDone = s.fmDone := rfl
@[simp] theorem State.setBarrier_fmResult : (s.setBarrier i v).fmResult = s.fmResult := rfl
@[simp] theorem State.setBarrier_driftOdd : (s.setBarrier i v).driftOdd = s.driftOdd := rfl
@[simp] theorem State.setBarrier_monLast : (s.setBarrier i v).monLast = s.monLast := rfl
@[simp] theorem State.setBarrier_fmt : (s.setBarrier i v).fmt = s.fmt := rfl
@[simp] theorem State.setBarrier_spn : (s.setBarrier i v).spn = s.spn := rfl
@[simp] theorem State.setBarrier_fly : (s.setBarrier i v).fly = s.fly := rfl
@[simp] theorem State.setBarrier_curves : (s.setBarrier i v).curves = s.curves := rfl
@[simp] theorem State.setBarrier_struck : (s.setBarrier i v).struck = s.struck := rfl
@[simp] theorem State.setBarrier_images : (s.setBarrier i v).images = s.images := rfl
@[simp] theorem State.setBarrier_imgState : (s.setBarrier i v).imgState = s.imgState := rfl
@[simp] theorem State.setBarrier_loading : (s.setBarrier i v).loading = s.loading := rfl
@[simp] theorem State.setBarrier_loadCtx : (s.setBarrier i v).loadCtx = s.loadCtx := rfl
@[simp] theorem State.setBarrier_loadResult : (s.setBarrier i v).loadResult = s.loadResult := rfl
@[simp] theorem State.setBarrier_loadAddr : (s.setBarrier i v).loadAddr = s.loadAddr := rfl
@[simp] theorem State.setBarrier_planCache : (s.setBarrier i v).planCache = s.planCache := rfl
@[simp] theorem State.setBarrier_lastRun : (s.setBarrier i v).lastRun = s.lastRun := rfl
@[simp] theorem State.setBarrier_lastBucket : (s.setBarrier i v).lastBucket = s.lastBucket := rfl
@[simp] theorem State.setBarrier_ctxs : (s.setBarrier i v).ctxs = s.ctxs := rfl
@[simp] theorem State.setBarrier_trns : (s.setBarrier i v).trns = s.trns := rfl
@[simp] theorem State.setBarrier_lsInit : (s.setBarrier i v).lsInit = s.lsInit := rfl
@[simp] theorem State.setBarrier_qps : (s.setBarrier i v).qps = s.qps := rfl
@[simp] theorem State.setBarrier_prts : (s.setBarrier i v).prts = s.prts := rfl
@[simp] theorem State.setBarrier_qpResult : (s.setBarrier i v).qpResult = s.qpResult := rfl
@[simp] theorem State.setBarrier_crds : (s.setBarrier i v).crds = s.crds := rfl
@[simp] theorem State.setBarrier_ply : (s.setBarrier i v).ply = s.ply := rfl
@[simp] theorem State.setBarrier_nvm : (s.setBarrier i v).nvm = s.nvm := rfl
@[simp] theorem State.setBarrier_ndy : (s.setBarrier i v).ndy = s.ndy := rfl
@[simp] theorem State.setBarrier_fuses : (s.setBarrier i v).fuses = s.fuses := rfl
@[simp] theorem State.setBarrier_whl : (s.setBarrier i v).whl = s.whl := rfl
@[simp] theorem State.setBarrier_pkg : (s.setBarrier i v).pkg = s.pkg := rfl
@[simp] theorem State.setBarrier_out : (s.setBarrier i v).out = s.out := rfl
end setBarrier

section setHold
variable (s : State) (t : Nat) (b : Bool)
@[simp] theorem State.setHold_pending : (s.setHold t b).pending = s.pending := rfl
@[simp] theorem State.setHold_tick : (s.setHold t b).tick = s.tick := rfl
@[simp] theorem State.setHold_wall : (s.setHold t b).wall = s.wall := rfl
@[simp] theorem State.setHold_cyc : (s.setHold t b).cyc = s.cyc := rfl
@[simp] theorem State.setHold_free : (s.setHold t b).free = s.free := rfl
@[simp] theorem State.setHold_ids : (s.setHold t b).ids = s.ids := rfl
@[simp] theorem State.setHold_reg : (s.setHold t b).reg = s.reg := rfl
@[simp] theorem State.setHold_mem : (s.setHold t b).mem = s.mem := rfl
@[simp] theorem State.setHold_errs : (s.setHold t b).errs = s.errs := rfl
@[simp] theorem State.setHold_skn : (s.setHold t b).skn = s.skn := rfl
@[simp] theorem State.setHold_dst : (s.setHold t b).dst = s.dst := rfl
@[simp] theorem State.setHold_gate : (s.setHold t b).gate = s.gate := rfl
@[simp] theorem State.setHold_pend : (s.setHold t b).pend = s.pend := rfl
@[simp] theorem State.setHold_rstBusy : (s.setHold t b).rstBusy = s.rstBusy := rfl
@[simp] theorem State.setHold_sleepReq : (s.setHold t b).sleepReq = s.sleepReq := rfl
@[simp] theorem State.setHold_asleep : (s.setHold t b).asleep = s.asleep := rfl
@[simp] theorem State.setHold_wakeAt : (s.setHold t b).wakeAt = s.wakeAt := rfl
@[simp] theorem State.setHold_run : (s.setHold t b).run = s.run := rfl
@[simp] theorem State.setHold_spare : (s.setHold t b).spare = s.spare := rfl
@[simp] theorem State.setHold_spareReq : (s.setHold t b).spareReq = s.spareReq := rfl
@[simp] theorem State.setHold_ready : (s.setHold t b).ready = s.ready := rfl
@[simp] theorem State.setHold_bobs : (s.setHold t b).bobs = s.bobs := rfl
@[simp] theorem State.setHold_turns : (s.setHold t b).turns = s.turns := rfl
@[simp] theorem State.setHold_fetchTurns : (s.setHold t b).fetchTurns = s.fetchTurns := rfl
@[simp] theorem State.setHold_barriers : (s.setHold t b).barriers = s.barriers := rfl
@[simp] theorem State.setHold_barrierAt : (s.setHold t b).barrierAt = s.barrierAt := rfl
@[simp] theorem State.setHold_holds : (s.setHold t b).holds = mput s.holds t b false := rfl
@[simp] theorem State.setHold_epochs : (s.setHold t b).epochs = s.epochs := rfl
@[simp] theorem State.setHold_ports : (s.setHold t b).ports = s.ports := rfl
@[simp] theorem State.setHold_sched : (s.setHold t b).sched = s.sched := rfl
@[simp] theorem State.setHold_reports : (s.setHold t b).reports = s.reports := rfl
@[simp] theorem State.setHold_seqs : (s.setHold t b).seqs = s.seqs := rfl
@[simp] theorem State.setHold_rwp : (s.setHold t b).rwp = s.rwp := rfl
@[simp] theorem State.setHold_wear : (s.setHold t b).wear = s.wear := rfl
@[simp] theorem State.setHold_retireWait : (s.setHold t b).retireWait = s.retireWait := rfl
@[simp] theorem State.setHold_cause : (s.setHold t b).cause = s.cause := rfl
@[simp] theorem State.setHold_pllLock : (s.setHold t b).pllLock = s.pllLock := rfl
@[simp] theorem State.setHold_spread : (s.setHold t b).spread = s.spread := rfl
@[simp] theorem State.setHold_onRoot : (s.setHold t b).onRoot = s.onRoot := rfl
@[simp] theorem State.setHold_clocksOn : (s.setHold t b).clocksOn = s.clocksOn := rfl
@[simp] theorem State.setHold_fmRun : (s.setHold t b).fmRun = s.fmRun := rfl
@[simp] theorem State.setHold_fmDone : (s.setHold t b).fmDone = s.fmDone := rfl
@[simp] theorem State.setHold_fmResult : (s.setHold t b).fmResult = s.fmResult := rfl
@[simp] theorem State.setHold_driftOdd : (s.setHold t b).driftOdd = s.driftOdd := rfl
@[simp] theorem State.setHold_monLast : (s.setHold t b).monLast = s.monLast := rfl
@[simp] theorem State.setHold_fmt : (s.setHold t b).fmt = s.fmt := rfl
@[simp] theorem State.setHold_spn : (s.setHold t b).spn = s.spn := rfl
@[simp] theorem State.setHold_fly : (s.setHold t b).fly = s.fly := rfl
@[simp] theorem State.setHold_curves : (s.setHold t b).curves = s.curves := rfl
@[simp] theorem State.setHold_struck : (s.setHold t b).struck = s.struck := rfl
@[simp] theorem State.setHold_images : (s.setHold t b).images = s.images := rfl
@[simp] theorem State.setHold_imgState : (s.setHold t b).imgState = s.imgState := rfl
@[simp] theorem State.setHold_loading : (s.setHold t b).loading = s.loading := rfl
@[simp] theorem State.setHold_loadCtx : (s.setHold t b).loadCtx = s.loadCtx := rfl
@[simp] theorem State.setHold_loadResult : (s.setHold t b).loadResult = s.loadResult := rfl
@[simp] theorem State.setHold_loadAddr : (s.setHold t b).loadAddr = s.loadAddr := rfl
@[simp] theorem State.setHold_planCache : (s.setHold t b).planCache = s.planCache := rfl
@[simp] theorem State.setHold_lastRun : (s.setHold t b).lastRun = s.lastRun := rfl
@[simp] theorem State.setHold_lastBucket : (s.setHold t b).lastBucket = s.lastBucket := rfl
@[simp] theorem State.setHold_ctxs : (s.setHold t b).ctxs = s.ctxs := rfl
@[simp] theorem State.setHold_trns : (s.setHold t b).trns = s.trns := rfl
@[simp] theorem State.setHold_lsInit : (s.setHold t b).lsInit = s.lsInit := rfl
@[simp] theorem State.setHold_qps : (s.setHold t b).qps = s.qps := rfl
@[simp] theorem State.setHold_prts : (s.setHold t b).prts = s.prts := rfl
@[simp] theorem State.setHold_qpResult : (s.setHold t b).qpResult = s.qpResult := rfl
@[simp] theorem State.setHold_crds : (s.setHold t b).crds = s.crds := rfl
@[simp] theorem State.setHold_ply : (s.setHold t b).ply = s.ply := rfl
@[simp] theorem State.setHold_nvm : (s.setHold t b).nvm = s.nvm := rfl
@[simp] theorem State.setHold_ndy : (s.setHold t b).ndy = s.ndy := rfl
@[simp] theorem State.setHold_fuses : (s.setHold t b).fuses = s.fuses := rfl
@[simp] theorem State.setHold_whl : (s.setHold t b).whl = s.whl := rfl
@[simp] theorem State.setHold_pkg : (s.setHold t b).pkg = s.pkg := rfl
@[simp] theorem State.setHold_out : (s.setHold t b).out = s.out := rfl
end setHold

section setPort
variable (s : State) (u : Nat) (l : List Issued)
@[simp] theorem State.setPort_pending : (s.setPort u l).pending = s.pending := rfl
@[simp] theorem State.setPort_tick : (s.setPort u l).tick = s.tick := rfl
@[simp] theorem State.setPort_wall : (s.setPort u l).wall = s.wall := rfl
@[simp] theorem State.setPort_cyc : (s.setPort u l).cyc = s.cyc := rfl
@[simp] theorem State.setPort_free : (s.setPort u l).free = s.free := rfl
@[simp] theorem State.setPort_ids : (s.setPort u l).ids = s.ids := rfl
@[simp] theorem State.setPort_reg : (s.setPort u l).reg = s.reg := rfl
@[simp] theorem State.setPort_mem : (s.setPort u l).mem = s.mem := rfl
@[simp] theorem State.setPort_errs : (s.setPort u l).errs = s.errs := rfl
@[simp] theorem State.setPort_skn : (s.setPort u l).skn = s.skn := rfl
@[simp] theorem State.setPort_dst : (s.setPort u l).dst = s.dst := rfl
@[simp] theorem State.setPort_gate : (s.setPort u l).gate = s.gate := rfl
@[simp] theorem State.setPort_pend : (s.setPort u l).pend = s.pend := rfl
@[simp] theorem State.setPort_rstBusy : (s.setPort u l).rstBusy = s.rstBusy := rfl
@[simp] theorem State.setPort_sleepReq : (s.setPort u l).sleepReq = s.sleepReq := rfl
@[simp] theorem State.setPort_asleep : (s.setPort u l).asleep = s.asleep := rfl
@[simp] theorem State.setPort_wakeAt : (s.setPort u l).wakeAt = s.wakeAt := rfl
@[simp] theorem State.setPort_run : (s.setPort u l).run = s.run := rfl
@[simp] theorem State.setPort_spare : (s.setPort u l).spare = s.spare := rfl
@[simp] theorem State.setPort_spareReq : (s.setPort u l).spareReq = s.spareReq := rfl
@[simp] theorem State.setPort_ready : (s.setPort u l).ready = s.ready := rfl
@[simp] theorem State.setPort_bobs : (s.setPort u l).bobs = s.bobs := rfl
@[simp] theorem State.setPort_turns : (s.setPort u l).turns = s.turns := rfl
@[simp] theorem State.setPort_fetchTurns : (s.setPort u l).fetchTurns = s.fetchTurns := rfl
@[simp] theorem State.setPort_barriers : (s.setPort u l).barriers = s.barriers := rfl
@[simp] theorem State.setPort_barrierAt : (s.setPort u l).barrierAt = s.barrierAt := rfl
@[simp] theorem State.setPort_holds : (s.setPort u l).holds = s.holds := rfl
@[simp] theorem State.setPort_epochs : (s.setPort u l).epochs = s.epochs := rfl
@[simp] theorem State.setPort_ports : (s.setPort u l).ports = mput s.ports u l [] := rfl
@[simp] theorem State.setPort_sched : (s.setPort u l).sched = s.sched := rfl
@[simp] theorem State.setPort_reports : (s.setPort u l).reports = s.reports := rfl
@[simp] theorem State.setPort_seqs : (s.setPort u l).seqs = s.seqs := rfl
@[simp] theorem State.setPort_rwp : (s.setPort u l).rwp = s.rwp := rfl
@[simp] theorem State.setPort_wear : (s.setPort u l).wear = s.wear := rfl
@[simp] theorem State.setPort_retireWait : (s.setPort u l).retireWait = s.retireWait := rfl
@[simp] theorem State.setPort_cause : (s.setPort u l).cause = s.cause := rfl
@[simp] theorem State.setPort_pllLock : (s.setPort u l).pllLock = s.pllLock := rfl
@[simp] theorem State.setPort_spread : (s.setPort u l).spread = s.spread := rfl
@[simp] theorem State.setPort_onRoot : (s.setPort u l).onRoot = s.onRoot := rfl
@[simp] theorem State.setPort_clocksOn : (s.setPort u l).clocksOn = s.clocksOn := rfl
@[simp] theorem State.setPort_fmRun : (s.setPort u l).fmRun = s.fmRun := rfl
@[simp] theorem State.setPort_fmDone : (s.setPort u l).fmDone = s.fmDone := rfl
@[simp] theorem State.setPort_fmResult : (s.setPort u l).fmResult = s.fmResult := rfl
@[simp] theorem State.setPort_driftOdd : (s.setPort u l).driftOdd = s.driftOdd := rfl
@[simp] theorem State.setPort_monLast : (s.setPort u l).monLast = s.monLast := rfl
@[simp] theorem State.setPort_fmt : (s.setPort u l).fmt = s.fmt := rfl
@[simp] theorem State.setPort_spn : (s.setPort u l).spn = s.spn := rfl
@[simp] theorem State.setPort_fly : (s.setPort u l).fly = s.fly := rfl
@[simp] theorem State.setPort_curves : (s.setPort u l).curves = s.curves := rfl
@[simp] theorem State.setPort_struck : (s.setPort u l).struck = s.struck := rfl
@[simp] theorem State.setPort_images : (s.setPort u l).images = s.images := rfl
@[simp] theorem State.setPort_imgState : (s.setPort u l).imgState = s.imgState := rfl
@[simp] theorem State.setPort_loading : (s.setPort u l).loading = s.loading := rfl
@[simp] theorem State.setPort_loadCtx : (s.setPort u l).loadCtx = s.loadCtx := rfl
@[simp] theorem State.setPort_loadResult : (s.setPort u l).loadResult = s.loadResult := rfl
@[simp] theorem State.setPort_loadAddr : (s.setPort u l).loadAddr = s.loadAddr := rfl
@[simp] theorem State.setPort_planCache : (s.setPort u l).planCache = s.planCache := rfl
@[simp] theorem State.setPort_lastRun : (s.setPort u l).lastRun = s.lastRun := rfl
@[simp] theorem State.setPort_lastBucket : (s.setPort u l).lastBucket = s.lastBucket := rfl
@[simp] theorem State.setPort_ctxs : (s.setPort u l).ctxs = s.ctxs := rfl
@[simp] theorem State.setPort_trns : (s.setPort u l).trns = s.trns := rfl
@[simp] theorem State.setPort_lsInit : (s.setPort u l).lsInit = s.lsInit := rfl
@[simp] theorem State.setPort_qps : (s.setPort u l).qps = s.qps := rfl
@[simp] theorem State.setPort_prts : (s.setPort u l).prts = s.prts := rfl
@[simp] theorem State.setPort_qpResult : (s.setPort u l).qpResult = s.qpResult := rfl
@[simp] theorem State.setPort_crds : (s.setPort u l).crds = s.crds := rfl
@[simp] theorem State.setPort_ply : (s.setPort u l).ply = s.ply := rfl
@[simp] theorem State.setPort_nvm : (s.setPort u l).nvm = s.nvm := rfl
@[simp] theorem State.setPort_ndy : (s.setPort u l).ndy = s.ndy := rfl
@[simp] theorem State.setPort_fuses : (s.setPort u l).fuses = s.fuses := rfl
@[simp] theorem State.setPort_whl : (s.setPort u l).whl = s.whl := rfl
@[simp] theorem State.setPort_pkg : (s.setPort u l).pkg = s.pkg := rfl
@[simp] theorem State.setPort_out : (s.setPort u l).out = s.out := rfl
end setPort

section addReport
variable (s : State) (r : Report)
@[simp] theorem State.addReport_pending : (s.addReport r).pending = s.pending := rfl
@[simp] theorem State.addReport_tick : (s.addReport r).tick = s.tick := rfl
@[simp] theorem State.addReport_wall : (s.addReport r).wall = s.wall := rfl
@[simp] theorem State.addReport_cyc : (s.addReport r).cyc = s.cyc := rfl
@[simp] theorem State.addReport_free : (s.addReport r).free = s.free := rfl
@[simp] theorem State.addReport_ids : (s.addReport r).ids = s.ids := rfl
@[simp] theorem State.addReport_reg : (s.addReport r).reg = s.reg := rfl
@[simp] theorem State.addReport_mem : (s.addReport r).mem = s.mem := rfl
@[simp] theorem State.addReport_errs : (s.addReport r).errs = s.errs := rfl
@[simp] theorem State.addReport_skn : (s.addReport r).skn = s.skn := rfl
@[simp] theorem State.addReport_dst : (s.addReport r).dst = s.dst := rfl
@[simp] theorem State.addReport_gate : (s.addReport r).gate = s.gate := rfl
@[simp] theorem State.addReport_pend : (s.addReport r).pend = s.pend := rfl
@[simp] theorem State.addReport_rstBusy : (s.addReport r).rstBusy = s.rstBusy := rfl
@[simp] theorem State.addReport_sleepReq : (s.addReport r).sleepReq = s.sleepReq := rfl
@[simp] theorem State.addReport_asleep : (s.addReport r).asleep = s.asleep := rfl
@[simp] theorem State.addReport_wakeAt : (s.addReport r).wakeAt = s.wakeAt := rfl
@[simp] theorem State.addReport_run : (s.addReport r).run = s.run := rfl
@[simp] theorem State.addReport_spare : (s.addReport r).spare = s.spare := rfl
@[simp] theorem State.addReport_spareReq : (s.addReport r).spareReq = s.spareReq := rfl
@[simp] theorem State.addReport_ready : (s.addReport r).ready = s.ready := rfl
@[simp] theorem State.addReport_bobs : (s.addReport r).bobs = s.bobs := rfl
@[simp] theorem State.addReport_turns : (s.addReport r).turns = s.turns := rfl
@[simp] theorem State.addReport_fetchTurns : (s.addReport r).fetchTurns = s.fetchTurns := rfl
@[simp] theorem State.addReport_barriers : (s.addReport r).barriers = s.barriers := rfl
@[simp] theorem State.addReport_barrierAt : (s.addReport r).barrierAt = s.barrierAt := rfl
@[simp] theorem State.addReport_holds : (s.addReport r).holds = s.holds := rfl
@[simp] theorem State.addReport_epochs : (s.addReport r).epochs = s.epochs := rfl
@[simp] theorem State.addReport_ports : (s.addReport r).ports = s.ports := rfl
@[simp] theorem State.addReport_sched : (s.addReport r).sched = s.sched := rfl
@[simp] theorem State.addReport_reports : (s.addReport r).reports = s.reports ++ [r] := rfl
@[simp] theorem State.addReport_seqs : (s.addReport r).seqs = s.seqs := rfl
@[simp] theorem State.addReport_rwp : (s.addReport r).rwp = s.rwp := rfl
@[simp] theorem State.addReport_wear : (s.addReport r).wear = s.wear := rfl
@[simp] theorem State.addReport_retireWait : (s.addReport r).retireWait = s.retireWait := rfl
@[simp] theorem State.addReport_cause : (s.addReport r).cause = s.cause := rfl
@[simp] theorem State.addReport_pllLock : (s.addReport r).pllLock = s.pllLock := rfl
@[simp] theorem State.addReport_spread : (s.addReport r).spread = s.spread := rfl
@[simp] theorem State.addReport_onRoot : (s.addReport r).onRoot = s.onRoot := rfl
@[simp] theorem State.addReport_clocksOn : (s.addReport r).clocksOn = s.clocksOn := rfl
@[simp] theorem State.addReport_fmRun : (s.addReport r).fmRun = s.fmRun := rfl
@[simp] theorem State.addReport_fmDone : (s.addReport r).fmDone = s.fmDone := rfl
@[simp] theorem State.addReport_fmResult : (s.addReport r).fmResult = s.fmResult := rfl
@[simp] theorem State.addReport_driftOdd : (s.addReport r).driftOdd = s.driftOdd := rfl
@[simp] theorem State.addReport_monLast : (s.addReport r).monLast = s.monLast := rfl
@[simp] theorem State.addReport_fmt : (s.addReport r).fmt = s.fmt := rfl
@[simp] theorem State.addReport_spn : (s.addReport r).spn = s.spn := rfl
@[simp] theorem State.addReport_fly : (s.addReport r).fly = s.fly := rfl
@[simp] theorem State.addReport_curves : (s.addReport r).curves = s.curves := rfl
@[simp] theorem State.addReport_struck : (s.addReport r).struck = s.struck := rfl
@[simp] theorem State.addReport_images : (s.addReport r).images = s.images := rfl
@[simp] theorem State.addReport_imgState : (s.addReport r).imgState = s.imgState := rfl
@[simp] theorem State.addReport_loading : (s.addReport r).loading = s.loading := rfl
@[simp] theorem State.addReport_loadCtx : (s.addReport r).loadCtx = s.loadCtx := rfl
@[simp] theorem State.addReport_loadResult : (s.addReport r).loadResult = s.loadResult := rfl
@[simp] theorem State.addReport_loadAddr : (s.addReport r).loadAddr = s.loadAddr := rfl
@[simp] theorem State.addReport_planCache : (s.addReport r).planCache = s.planCache := rfl
@[simp] theorem State.addReport_lastRun : (s.addReport r).lastRun = s.lastRun := rfl
@[simp] theorem State.addReport_lastBucket : (s.addReport r).lastBucket = s.lastBucket := rfl
@[simp] theorem State.addReport_ctxs : (s.addReport r).ctxs = s.ctxs := rfl
@[simp] theorem State.addReport_trns : (s.addReport r).trns = s.trns := rfl
@[simp] theorem State.addReport_lsInit : (s.addReport r).lsInit = s.lsInit := rfl
@[simp] theorem State.addReport_qps : (s.addReport r).qps = s.qps := rfl
@[simp] theorem State.addReport_prts : (s.addReport r).prts = s.prts := rfl
@[simp] theorem State.addReport_qpResult : (s.addReport r).qpResult = s.qpResult := rfl
@[simp] theorem State.addReport_crds : (s.addReport r).crds = s.crds := rfl
@[simp] theorem State.addReport_ply : (s.addReport r).ply = s.ply := rfl
@[simp] theorem State.addReport_nvm : (s.addReport r).nvm = s.nvm := rfl
@[simp] theorem State.addReport_ndy : (s.addReport r).ndy = s.ndy := rfl
@[simp] theorem State.addReport_fuses : (s.addReport r).fuses = s.fuses := rfl
@[simp] theorem State.addReport_whl : (s.addReport r).whl = s.whl := rfl
@[simp] theorem State.addReport_pkg : (s.addReport r).pkg = s.pkg := rfl
@[simp] theorem State.addReport_out : (s.addReport r).out = s.out := rfl
end addReport

section setBob
variable (s : State) (b : Nat) (x : Bob)
@[simp] theorem State.setBob_pending : (s.setBob b x).pending = s.pending := rfl
@[simp] theorem State.setBob_tick : (s.setBob b x).tick = s.tick := rfl
@[simp] theorem State.setBob_wall : (s.setBob b x).wall = s.wall := rfl
@[simp] theorem State.setBob_cyc : (s.setBob b x).cyc = s.cyc := rfl
@[simp] theorem State.setBob_free : (s.setBob b x).free = s.free := rfl
@[simp] theorem State.setBob_ids : (s.setBob b x).ids = s.ids := rfl
@[simp] theorem State.setBob_reg : (s.setBob b x).reg = s.reg := rfl
@[simp] theorem State.setBob_mem : (s.setBob b x).mem = s.mem := rfl
@[simp] theorem State.setBob_errs : (s.setBob b x).errs = s.errs := rfl
@[simp] theorem State.setBob_skn : (s.setBob b x).skn = s.skn := rfl
@[simp] theorem State.setBob_dst : (s.setBob b x).dst = s.dst := rfl
@[simp] theorem State.setBob_gate : (s.setBob b x).gate = s.gate := rfl
@[simp] theorem State.setBob_pend : (s.setBob b x).pend = s.pend := rfl
@[simp] theorem State.setBob_rstBusy : (s.setBob b x).rstBusy = s.rstBusy := rfl
@[simp] theorem State.setBob_sleepReq : (s.setBob b x).sleepReq = s.sleepReq := rfl
@[simp] theorem State.setBob_asleep : (s.setBob b x).asleep = s.asleep := rfl
@[simp] theorem State.setBob_wakeAt : (s.setBob b x).wakeAt = s.wakeAt := rfl
@[simp] theorem State.setBob_run : (s.setBob b x).run = s.run := rfl
@[simp] theorem State.setBob_spare : (s.setBob b x).spare = s.spare := rfl
@[simp] theorem State.setBob_spareReq : (s.setBob b x).spareReq = s.spareReq := rfl
@[simp] theorem State.setBob_ready : (s.setBob b x).ready = s.ready := rfl
@[simp] theorem State.setBob_bobs : (s.setBob b x).bobs = mput s.bobs b x {} := rfl
@[simp] theorem State.setBob_turns : (s.setBob b x).turns = s.turns := rfl
@[simp] theorem State.setBob_fetchTurns : (s.setBob b x).fetchTurns = s.fetchTurns := rfl
@[simp] theorem State.setBob_barriers : (s.setBob b x).barriers = s.barriers := rfl
@[simp] theorem State.setBob_barrierAt : (s.setBob b x).barrierAt = s.barrierAt := rfl
@[simp] theorem State.setBob_holds : (s.setBob b x).holds = s.holds := rfl
@[simp] theorem State.setBob_epochs : (s.setBob b x).epochs = s.epochs := rfl
@[simp] theorem State.setBob_ports : (s.setBob b x).ports = s.ports := rfl
@[simp] theorem State.setBob_sched : (s.setBob b x).sched = s.sched := rfl
@[simp] theorem State.setBob_reports : (s.setBob b x).reports = s.reports := rfl
@[simp] theorem State.setBob_seqs : (s.setBob b x).seqs = s.seqs := rfl
@[simp] theorem State.setBob_rwp : (s.setBob b x).rwp = s.rwp := rfl
@[simp] theorem State.setBob_wear : (s.setBob b x).wear = s.wear := rfl
@[simp] theorem State.setBob_retireWait : (s.setBob b x).retireWait = s.retireWait := rfl
@[simp] theorem State.setBob_cause : (s.setBob b x).cause = s.cause := rfl
@[simp] theorem State.setBob_pllLock : (s.setBob b x).pllLock = s.pllLock := rfl
@[simp] theorem State.setBob_spread : (s.setBob b x).spread = s.spread := rfl
@[simp] theorem State.setBob_onRoot : (s.setBob b x).onRoot = s.onRoot := rfl
@[simp] theorem State.setBob_clocksOn : (s.setBob b x).clocksOn = s.clocksOn := rfl
@[simp] theorem State.setBob_fmRun : (s.setBob b x).fmRun = s.fmRun := rfl
@[simp] theorem State.setBob_fmDone : (s.setBob b x).fmDone = s.fmDone := rfl
@[simp] theorem State.setBob_fmResult : (s.setBob b x).fmResult = s.fmResult := rfl
@[simp] theorem State.setBob_driftOdd : (s.setBob b x).driftOdd = s.driftOdd := rfl
@[simp] theorem State.setBob_monLast : (s.setBob b x).monLast = s.monLast := rfl
@[simp] theorem State.setBob_fmt : (s.setBob b x).fmt = s.fmt := rfl
@[simp] theorem State.setBob_spn : (s.setBob b x).spn = s.spn := rfl
@[simp] theorem State.setBob_fly : (s.setBob b x).fly = s.fly := rfl
@[simp] theorem State.setBob_curves : (s.setBob b x).curves = s.curves := rfl
@[simp] theorem State.setBob_struck : (s.setBob b x).struck = s.struck := rfl
@[simp] theorem State.setBob_images : (s.setBob b x).images = s.images := rfl
@[simp] theorem State.setBob_imgState : (s.setBob b x).imgState = s.imgState := rfl
@[simp] theorem State.setBob_loading : (s.setBob b x).loading = s.loading := rfl
@[simp] theorem State.setBob_loadCtx : (s.setBob b x).loadCtx = s.loadCtx := rfl
@[simp] theorem State.setBob_loadResult : (s.setBob b x).loadResult = s.loadResult := rfl
@[simp] theorem State.setBob_loadAddr : (s.setBob b x).loadAddr = s.loadAddr := rfl
@[simp] theorem State.setBob_planCache : (s.setBob b x).planCache = s.planCache := rfl
@[simp] theorem State.setBob_lastRun : (s.setBob b x).lastRun = s.lastRun := rfl
@[simp] theorem State.setBob_lastBucket : (s.setBob b x).lastBucket = s.lastBucket := rfl
@[simp] theorem State.setBob_ctxs : (s.setBob b x).ctxs = s.ctxs := rfl
@[simp] theorem State.setBob_trns : (s.setBob b x).trns = s.trns := rfl
@[simp] theorem State.setBob_lsInit : (s.setBob b x).lsInit = s.lsInit := rfl
@[simp] theorem State.setBob_qps : (s.setBob b x).qps = s.qps := rfl
@[simp] theorem State.setBob_prts : (s.setBob b x).prts = s.prts := rfl
@[simp] theorem State.setBob_qpResult : (s.setBob b x).qpResult = s.qpResult := rfl
@[simp] theorem State.setBob_crds : (s.setBob b x).crds = s.crds := rfl
@[simp] theorem State.setBob_ply : (s.setBob b x).ply = s.ply := rfl
@[simp] theorem State.setBob_nvm : (s.setBob b x).nvm = s.nvm := rfl
@[simp] theorem State.setBob_ndy : (s.setBob b x).ndy = s.ndy := rfl
@[simp] theorem State.setBob_fuses : (s.setBob b x).fuses = s.fuses := rfl
@[simp] theorem State.setBob_whl : (s.setBob b x).whl = s.whl := rfl
@[simp] theorem State.setBob_pkg : (s.setBob b x).pkg = s.pkg := rfl
@[simp] theorem State.setBob_out : (s.setBob b x).out = s.out := rfl
end setBob

section emit
variable (s : State) (o : Out)
@[simp] theorem State.emit_pending : (s.emit o).pending = s.pending := rfl
@[simp] theorem State.emit_tick : (s.emit o).tick = s.tick := rfl
@[simp] theorem State.emit_wall : (s.emit o).wall = s.wall := rfl
@[simp] theorem State.emit_cyc : (s.emit o).cyc = s.cyc := rfl
@[simp] theorem State.emit_free : (s.emit o).free = s.free := rfl
@[simp] theorem State.emit_ids : (s.emit o).ids = s.ids := rfl
@[simp] theorem State.emit_reg : (s.emit o).reg = s.reg := rfl
@[simp] theorem State.emit_mem : (s.emit o).mem = s.mem := rfl
@[simp] theorem State.emit_errs : (s.emit o).errs = s.errs := rfl
@[simp] theorem State.emit_skn : (s.emit o).skn = s.skn := rfl
@[simp] theorem State.emit_dst : (s.emit o).dst = s.dst := rfl
@[simp] theorem State.emit_gate : (s.emit o).gate = s.gate := rfl
@[simp] theorem State.emit_pend : (s.emit o).pend = s.pend := rfl
@[simp] theorem State.emit_rstBusy : (s.emit o).rstBusy = s.rstBusy := rfl
@[simp] theorem State.emit_sleepReq : (s.emit o).sleepReq = s.sleepReq := rfl
@[simp] theorem State.emit_asleep : (s.emit o).asleep = s.asleep := rfl
@[simp] theorem State.emit_wakeAt : (s.emit o).wakeAt = s.wakeAt := rfl
@[simp] theorem State.emit_run : (s.emit o).run = s.run := rfl
@[simp] theorem State.emit_spare : (s.emit o).spare = s.spare := rfl
@[simp] theorem State.emit_spareReq : (s.emit o).spareReq = s.spareReq := rfl
@[simp] theorem State.emit_ready : (s.emit o).ready = s.ready := rfl
@[simp] theorem State.emit_bobs : (s.emit o).bobs = s.bobs := rfl
@[simp] theorem State.emit_turns : (s.emit o).turns = s.turns := rfl
@[simp] theorem State.emit_fetchTurns : (s.emit o).fetchTurns = s.fetchTurns := rfl
@[simp] theorem State.emit_barriers : (s.emit o).barriers = s.barriers := rfl
@[simp] theorem State.emit_barrierAt : (s.emit o).barrierAt = s.barrierAt := rfl
@[simp] theorem State.emit_holds : (s.emit o).holds = s.holds := rfl
@[simp] theorem State.emit_epochs : (s.emit o).epochs = s.epochs := rfl
@[simp] theorem State.emit_ports : (s.emit o).ports = s.ports := rfl
@[simp] theorem State.emit_sched : (s.emit o).sched = s.sched := rfl
@[simp] theorem State.emit_reports : (s.emit o).reports = s.reports := rfl
@[simp] theorem State.emit_seqs : (s.emit o).seqs = s.seqs := rfl
@[simp] theorem State.emit_rwp : (s.emit o).rwp = s.rwp := rfl
@[simp] theorem State.emit_wear : (s.emit o).wear = s.wear := rfl
@[simp] theorem State.emit_retireWait : (s.emit o).retireWait = s.retireWait := rfl
@[simp] theorem State.emit_cause : (s.emit o).cause = s.cause := rfl
@[simp] theorem State.emit_pllLock : (s.emit o).pllLock = s.pllLock := rfl
@[simp] theorem State.emit_spread : (s.emit o).spread = s.spread := rfl
@[simp] theorem State.emit_onRoot : (s.emit o).onRoot = s.onRoot := rfl
@[simp] theorem State.emit_clocksOn : (s.emit o).clocksOn = s.clocksOn := rfl
@[simp] theorem State.emit_fmRun : (s.emit o).fmRun = s.fmRun := rfl
@[simp] theorem State.emit_fmDone : (s.emit o).fmDone = s.fmDone := rfl
@[simp] theorem State.emit_fmResult : (s.emit o).fmResult = s.fmResult := rfl
@[simp] theorem State.emit_driftOdd : (s.emit o).driftOdd = s.driftOdd := rfl
@[simp] theorem State.emit_monLast : (s.emit o).monLast = s.monLast := rfl
@[simp] theorem State.emit_fmt : (s.emit o).fmt = s.fmt := rfl
@[simp] theorem State.emit_spn : (s.emit o).spn = s.spn := rfl
@[simp] theorem State.emit_fly : (s.emit o).fly = s.fly := rfl
@[simp] theorem State.emit_curves : (s.emit o).curves = s.curves := rfl
@[simp] theorem State.emit_struck : (s.emit o).struck = s.struck := rfl
@[simp] theorem State.emit_images : (s.emit o).images = s.images := rfl
@[simp] theorem State.emit_imgState : (s.emit o).imgState = s.imgState := rfl
@[simp] theorem State.emit_loading : (s.emit o).loading = s.loading := rfl
@[simp] theorem State.emit_loadCtx : (s.emit o).loadCtx = s.loadCtx := rfl
@[simp] theorem State.emit_loadResult : (s.emit o).loadResult = s.loadResult := rfl
@[simp] theorem State.emit_loadAddr : (s.emit o).loadAddr = s.loadAddr := rfl
@[simp] theorem State.emit_planCache : (s.emit o).planCache = s.planCache := rfl
@[simp] theorem State.emit_lastRun : (s.emit o).lastRun = s.lastRun := rfl
@[simp] theorem State.emit_lastBucket : (s.emit o).lastBucket = s.lastBucket := rfl
@[simp] theorem State.emit_ctxs : (s.emit o).ctxs = s.ctxs := rfl
@[simp] theorem State.emit_trns : (s.emit o).trns = s.trns := rfl
@[simp] theorem State.emit_lsInit : (s.emit o).lsInit = s.lsInit := rfl
@[simp] theorem State.emit_qps : (s.emit o).qps = s.qps := rfl
@[simp] theorem State.emit_prts : (s.emit o).prts = s.prts := rfl
@[simp] theorem State.emit_qpResult : (s.emit o).qpResult = s.qpResult := rfl
@[simp] theorem State.emit_crds : (s.emit o).crds = s.crds := rfl
@[simp] theorem State.emit_ply : (s.emit o).ply = s.ply := rfl
@[simp] theorem State.emit_nvm : (s.emit o).nvm = s.nvm := rfl
@[simp] theorem State.emit_ndy : (s.emit o).ndy = s.ndy := rfl
@[simp] theorem State.emit_fuses : (s.emit o).fuses = s.fuses := rfl
@[simp] theorem State.emit_whl : (s.emit o).whl = s.whl := rfl
@[simp] theorem State.emit_pkg : (s.emit o).pkg = s.pkg := rfl
@[simp] theorem State.emit_out : (s.emit o).out = s.out ++ [o] := rfl
end emit

section setSkein
variable (s : State) (k : Nat) (x : Skn)
@[simp] theorem State.setSkein_pending : (s.setSkein k x).pending = s.pending := rfl
@[simp] theorem State.setSkein_tick : (s.setSkein k x).tick = s.tick := rfl
@[simp] theorem State.setSkein_wall : (s.setSkein k x).wall = s.wall := rfl
@[simp] theorem State.setSkein_cyc : (s.setSkein k x).cyc = s.cyc := rfl
@[simp] theorem State.setSkein_free : (s.setSkein k x).free = s.free := rfl
@[simp] theorem State.setSkein_ids : (s.setSkein k x).ids = s.ids := rfl
@[simp] theorem State.setSkein_reg : (s.setSkein k x).reg = s.reg := rfl
@[simp] theorem State.setSkein_mem : (s.setSkein k x).mem = s.mem := rfl
@[simp] theorem State.setSkein_errs : (s.setSkein k x).errs = s.errs := rfl
@[simp] theorem State.setSkein_skn : (s.setSkein k x).skn = mput s.skn k x {} := rfl
@[simp] theorem State.setSkein_dst : (s.setSkein k x).dst = s.dst := rfl
@[simp] theorem State.setSkein_gate : (s.setSkein k x).gate = s.gate := rfl
@[simp] theorem State.setSkein_pend : (s.setSkein k x).pend = s.pend := rfl
@[simp] theorem State.setSkein_rstBusy : (s.setSkein k x).rstBusy = s.rstBusy := rfl
@[simp] theorem State.setSkein_sleepReq : (s.setSkein k x).sleepReq = s.sleepReq := rfl
@[simp] theorem State.setSkein_asleep : (s.setSkein k x).asleep = s.asleep := rfl
@[simp] theorem State.setSkein_wakeAt : (s.setSkein k x).wakeAt = s.wakeAt := rfl
@[simp] theorem State.setSkein_run : (s.setSkein k x).run = s.run := rfl
@[simp] theorem State.setSkein_spare : (s.setSkein k x).spare = s.spare := rfl
@[simp] theorem State.setSkein_spareReq : (s.setSkein k x).spareReq = s.spareReq := rfl
@[simp] theorem State.setSkein_ready : (s.setSkein k x).ready = s.ready := rfl
@[simp] theorem State.setSkein_bobs : (s.setSkein k x).bobs = s.bobs := rfl
@[simp] theorem State.setSkein_turns : (s.setSkein k x).turns = s.turns := rfl
@[simp] theorem State.setSkein_fetchTurns : (s.setSkein k x).fetchTurns = s.fetchTurns := rfl
@[simp] theorem State.setSkein_barriers : (s.setSkein k x).barriers = s.barriers := rfl
@[simp] theorem State.setSkein_barrierAt : (s.setSkein k x).barrierAt = s.barrierAt := rfl
@[simp] theorem State.setSkein_holds : (s.setSkein k x).holds = s.holds := rfl
@[simp] theorem State.setSkein_epochs : (s.setSkein k x).epochs = s.epochs := rfl
@[simp] theorem State.setSkein_ports : (s.setSkein k x).ports = s.ports := rfl
@[simp] theorem State.setSkein_sched : (s.setSkein k x).sched = s.sched := rfl
@[simp] theorem State.setSkein_reports : (s.setSkein k x).reports = s.reports := rfl
@[simp] theorem State.setSkein_seqs : (s.setSkein k x).seqs = s.seqs := rfl
@[simp] theorem State.setSkein_rwp : (s.setSkein k x).rwp = s.rwp := rfl
@[simp] theorem State.setSkein_wear : (s.setSkein k x).wear = s.wear := rfl
@[simp] theorem State.setSkein_retireWait : (s.setSkein k x).retireWait = s.retireWait := rfl
@[simp] theorem State.setSkein_cause : (s.setSkein k x).cause = s.cause := rfl
@[simp] theorem State.setSkein_pllLock : (s.setSkein k x).pllLock = s.pllLock := rfl
@[simp] theorem State.setSkein_spread : (s.setSkein k x).spread = s.spread := rfl
@[simp] theorem State.setSkein_onRoot : (s.setSkein k x).onRoot = s.onRoot := rfl
@[simp] theorem State.setSkein_clocksOn : (s.setSkein k x).clocksOn = s.clocksOn := rfl
@[simp] theorem State.setSkein_fmRun : (s.setSkein k x).fmRun = s.fmRun := rfl
@[simp] theorem State.setSkein_fmDone : (s.setSkein k x).fmDone = s.fmDone := rfl
@[simp] theorem State.setSkein_fmResult : (s.setSkein k x).fmResult = s.fmResult := rfl
@[simp] theorem State.setSkein_driftOdd : (s.setSkein k x).driftOdd = s.driftOdd := rfl
@[simp] theorem State.setSkein_monLast : (s.setSkein k x).monLast = s.monLast := rfl
@[simp] theorem State.setSkein_fmt : (s.setSkein k x).fmt = s.fmt := rfl
@[simp] theorem State.setSkein_spn : (s.setSkein k x).spn = s.spn := rfl
@[simp] theorem State.setSkein_fly : (s.setSkein k x).fly = s.fly := rfl
@[simp] theorem State.setSkein_curves : (s.setSkein k x).curves = s.curves := rfl
@[simp] theorem State.setSkein_struck : (s.setSkein k x).struck = s.struck := rfl
@[simp] theorem State.setSkein_images : (s.setSkein k x).images = s.images := rfl
@[simp] theorem State.setSkein_imgState : (s.setSkein k x).imgState = s.imgState := rfl
@[simp] theorem State.setSkein_loading : (s.setSkein k x).loading = s.loading := rfl
@[simp] theorem State.setSkein_loadCtx : (s.setSkein k x).loadCtx = s.loadCtx := rfl
@[simp] theorem State.setSkein_loadResult : (s.setSkein k x).loadResult = s.loadResult := rfl
@[simp] theorem State.setSkein_loadAddr : (s.setSkein k x).loadAddr = s.loadAddr := rfl
@[simp] theorem State.setSkein_planCache : (s.setSkein k x).planCache = s.planCache := rfl
@[simp] theorem State.setSkein_lastRun : (s.setSkein k x).lastRun = s.lastRun := rfl
@[simp] theorem State.setSkein_lastBucket : (s.setSkein k x).lastBucket = s.lastBucket := rfl
@[simp] theorem State.setSkein_ctxs : (s.setSkein k x).ctxs = s.ctxs := rfl
@[simp] theorem State.setSkein_trns : (s.setSkein k x).trns = s.trns := rfl
@[simp] theorem State.setSkein_lsInit : (s.setSkein k x).lsInit = s.lsInit := rfl
@[simp] theorem State.setSkein_qps : (s.setSkein k x).qps = s.qps := rfl
@[simp] theorem State.setSkein_prts : (s.setSkein k x).prts = s.prts := rfl
@[simp] theorem State.setSkein_qpResult : (s.setSkein k x).qpResult = s.qpResult := rfl
@[simp] theorem State.setSkein_crds : (s.setSkein k x).crds = s.crds := rfl
@[simp] theorem State.setSkein_ply : (s.setSkein k x).ply = s.ply := rfl
@[simp] theorem State.setSkein_nvm : (s.setSkein k x).nvm = s.nvm := rfl
@[simp] theorem State.setSkein_ndy : (s.setSkein k x).ndy = s.ndy := rfl
@[simp] theorem State.setSkein_fuses : (s.setSkein k x).fuses = s.fuses := rfl
@[simp] theorem State.setSkein_whl : (s.setSkein k x).whl = s.whl := rfl
@[simp] theorem State.setSkein_pkg : (s.setSkein k x).pkg = s.pkg := rfl
@[simp] theorem State.setSkein_out : (s.setSkein k x).out = s.out := rfl
end setSkein

section setByte
variable (s : State) (a : Nat) (v : Byte)
@[simp] theorem State.setByte_pending : (s.setByte a v).pending = s.pending := rfl
@[simp] theorem State.setByte_tick : (s.setByte a v).tick = s.tick := rfl
@[simp] theorem State.setByte_wall : (s.setByte a v).wall = s.wall := rfl
@[simp] theorem State.setByte_cyc : (s.setByte a v).cyc = s.cyc := rfl
@[simp] theorem State.setByte_free : (s.setByte a v).free = s.free := rfl
@[simp] theorem State.setByte_ids : (s.setByte a v).ids = s.ids := rfl
@[simp] theorem State.setByte_reg : (s.setByte a v).reg = s.reg := rfl
@[simp] theorem State.setByte_mem : (s.setByte a v).mem = mput s.mem a v 0 := rfl
@[simp] theorem State.setByte_errs : (s.setByte a v).errs = s.errs := rfl
@[simp] theorem State.setByte_skn : (s.setByte a v).skn = s.skn := rfl
@[simp] theorem State.setByte_dst : (s.setByte a v).dst = s.dst := rfl
@[simp] theorem State.setByte_gate : (s.setByte a v).gate = s.gate := rfl
@[simp] theorem State.setByte_pend : (s.setByte a v).pend = s.pend := rfl
@[simp] theorem State.setByte_rstBusy : (s.setByte a v).rstBusy = s.rstBusy := rfl
@[simp] theorem State.setByte_sleepReq : (s.setByte a v).sleepReq = s.sleepReq := rfl
@[simp] theorem State.setByte_asleep : (s.setByte a v).asleep = s.asleep := rfl
@[simp] theorem State.setByte_wakeAt : (s.setByte a v).wakeAt = s.wakeAt := rfl
@[simp] theorem State.setByte_run : (s.setByte a v).run = s.run := rfl
@[simp] theorem State.setByte_spare : (s.setByte a v).spare = s.spare := rfl
@[simp] theorem State.setByte_spareReq : (s.setByte a v).spareReq = s.spareReq := rfl
@[simp] theorem State.setByte_ready : (s.setByte a v).ready = s.ready := rfl
@[simp] theorem State.setByte_bobs : (s.setByte a v).bobs = s.bobs := rfl
@[simp] theorem State.setByte_turns : (s.setByte a v).turns = s.turns := rfl
@[simp] theorem State.setByte_fetchTurns : (s.setByte a v).fetchTurns = s.fetchTurns := rfl
@[simp] theorem State.setByte_barriers : (s.setByte a v).barriers = s.barriers := rfl
@[simp] theorem State.setByte_barrierAt : (s.setByte a v).barrierAt = s.barrierAt := rfl
@[simp] theorem State.setByte_holds : (s.setByte a v).holds = s.holds := rfl
@[simp] theorem State.setByte_epochs : (s.setByte a v).epochs = s.epochs := rfl
@[simp] theorem State.setByte_ports : (s.setByte a v).ports = s.ports := rfl
@[simp] theorem State.setByte_sched : (s.setByte a v).sched = s.sched := rfl
@[simp] theorem State.setByte_reports : (s.setByte a v).reports = s.reports := rfl
@[simp] theorem State.setByte_seqs : (s.setByte a v).seqs = s.seqs := rfl
@[simp] theorem State.setByte_rwp : (s.setByte a v).rwp = s.rwp := rfl
@[simp] theorem State.setByte_wear : (s.setByte a v).wear = s.wear := rfl
@[simp] theorem State.setByte_retireWait : (s.setByte a v).retireWait = s.retireWait := rfl
@[simp] theorem State.setByte_cause : (s.setByte a v).cause = s.cause := rfl
@[simp] theorem State.setByte_pllLock : (s.setByte a v).pllLock = s.pllLock := rfl
@[simp] theorem State.setByte_spread : (s.setByte a v).spread = s.spread := rfl
@[simp] theorem State.setByte_onRoot : (s.setByte a v).onRoot = s.onRoot := rfl
@[simp] theorem State.setByte_clocksOn : (s.setByte a v).clocksOn = s.clocksOn := rfl
@[simp] theorem State.setByte_fmRun : (s.setByte a v).fmRun = s.fmRun := rfl
@[simp] theorem State.setByte_fmDone : (s.setByte a v).fmDone = s.fmDone := rfl
@[simp] theorem State.setByte_fmResult : (s.setByte a v).fmResult = s.fmResult := rfl
@[simp] theorem State.setByte_driftOdd : (s.setByte a v).driftOdd = s.driftOdd := rfl
@[simp] theorem State.setByte_monLast : (s.setByte a v).monLast = s.monLast := rfl
@[simp] theorem State.setByte_fmt : (s.setByte a v).fmt = s.fmt := rfl
@[simp] theorem State.setByte_spn : (s.setByte a v).spn = s.spn := rfl
@[simp] theorem State.setByte_fly : (s.setByte a v).fly = s.fly := rfl
@[simp] theorem State.setByte_curves : (s.setByte a v).curves = s.curves := rfl
@[simp] theorem State.setByte_struck : (s.setByte a v).struck = s.struck := rfl
@[simp] theorem State.setByte_images : (s.setByte a v).images = s.images := rfl
@[simp] theorem State.setByte_imgState : (s.setByte a v).imgState = s.imgState := rfl
@[simp] theorem State.setByte_loading : (s.setByte a v).loading = s.loading := rfl
@[simp] theorem State.setByte_loadCtx : (s.setByte a v).loadCtx = s.loadCtx := rfl
@[simp] theorem State.setByte_loadResult : (s.setByte a v).loadResult = s.loadResult := rfl
@[simp] theorem State.setByte_loadAddr : (s.setByte a v).loadAddr = s.loadAddr := rfl
@[simp] theorem State.setByte_planCache : (s.setByte a v).planCache = s.planCache := rfl
@[simp] theorem State.setByte_lastRun : (s.setByte a v).lastRun = s.lastRun := rfl
@[simp] theorem State.setByte_lastBucket : (s.setByte a v).lastBucket = s.lastBucket := rfl
@[simp] theorem State.setByte_ctxs : (s.setByte a v).ctxs = s.ctxs := rfl
@[simp] theorem State.setByte_trns : (s.setByte a v).trns = s.trns := rfl
@[simp] theorem State.setByte_lsInit : (s.setByte a v).lsInit = s.lsInit := rfl
@[simp] theorem State.setByte_qps : (s.setByte a v).qps = s.qps := rfl
@[simp] theorem State.setByte_prts : (s.setByte a v).prts = s.prts := rfl
@[simp] theorem State.setByte_qpResult : (s.setByte a v).qpResult = s.qpResult := rfl
@[simp] theorem State.setByte_crds : (s.setByte a v).crds = s.crds := rfl
@[simp] theorem State.setByte_ply : (s.setByte a v).ply = s.ply := rfl
@[simp] theorem State.setByte_nvm : (s.setByte a v).nvm = s.nvm := rfl
@[simp] theorem State.setByte_ndy : (s.setByte a v).ndy = s.ndy := rfl
@[simp] theorem State.setByte_fuses : (s.setByte a v).fuses = s.fuses := rfl
@[simp] theorem State.setByte_whl : (s.setByte a v).whl = s.whl := rfl
@[simp] theorem State.setByte_pkg : (s.setByte a v).pkg = s.pkg := rfl
@[simp] theorem State.setByte_out : (s.setByte a v).out = s.out := rfl
end setByte

section setErr
variable (s : State) (a : Nat) (l : List Byte)
@[simp] theorem State.setErr_pending : (s.setErr a l).pending = s.pending := rfl
@[simp] theorem State.setErr_tick : (s.setErr a l).tick = s.tick := rfl
@[simp] theorem State.setErr_wall : (s.setErr a l).wall = s.wall := rfl
@[simp] theorem State.setErr_cyc : (s.setErr a l).cyc = s.cyc := rfl
@[simp] theorem State.setErr_free : (s.setErr a l).free = s.free := rfl
@[simp] theorem State.setErr_ids : (s.setErr a l).ids = s.ids := rfl
@[simp] theorem State.setErr_reg : (s.setErr a l).reg = s.reg := rfl
@[simp] theorem State.setErr_mem : (s.setErr a l).mem = s.mem := rfl
@[simp] theorem State.setErr_skn : (s.setErr a l).skn = s.skn := rfl
@[simp] theorem State.setErr_dst : (s.setErr a l).dst = s.dst := rfl
@[simp] theorem State.setErr_gate : (s.setErr a l).gate = s.gate := rfl
@[simp] theorem State.setErr_pend : (s.setErr a l).pend = s.pend := rfl
@[simp] theorem State.setErr_rstBusy : (s.setErr a l).rstBusy = s.rstBusy := rfl
@[simp] theorem State.setErr_sleepReq : (s.setErr a l).sleepReq = s.sleepReq := rfl
@[simp] theorem State.setErr_asleep : (s.setErr a l).asleep = s.asleep := rfl
@[simp] theorem State.setErr_wakeAt : (s.setErr a l).wakeAt = s.wakeAt := rfl
@[simp] theorem State.setErr_run : (s.setErr a l).run = s.run := rfl
@[simp] theorem State.setErr_spare : (s.setErr a l).spare = s.spare := rfl
@[simp] theorem State.setErr_spareReq : (s.setErr a l).spareReq = s.spareReq := rfl
@[simp] theorem State.setErr_ready : (s.setErr a l).ready = s.ready := rfl
@[simp] theorem State.setErr_bobs : (s.setErr a l).bobs = s.bobs := rfl
@[simp] theorem State.setErr_turns : (s.setErr a l).turns = s.turns := rfl
@[simp] theorem State.setErr_fetchTurns : (s.setErr a l).fetchTurns = s.fetchTurns := rfl
@[simp] theorem State.setErr_barriers : (s.setErr a l).barriers = s.barriers := rfl
@[simp] theorem State.setErr_barrierAt : (s.setErr a l).barrierAt = s.barrierAt := rfl
@[simp] theorem State.setErr_holds : (s.setErr a l).holds = s.holds := rfl
@[simp] theorem State.setErr_epochs : (s.setErr a l).epochs = s.epochs := rfl
@[simp] theorem State.setErr_ports : (s.setErr a l).ports = s.ports := rfl
@[simp] theorem State.setErr_sched : (s.setErr a l).sched = s.sched := rfl
@[simp] theorem State.setErr_reports : (s.setErr a l).reports = s.reports := rfl
@[simp] theorem State.setErr_seqs : (s.setErr a l).seqs = s.seqs := rfl
@[simp] theorem State.setErr_rwp : (s.setErr a l).rwp = s.rwp := rfl
@[simp] theorem State.setErr_wear : (s.setErr a l).wear = s.wear := rfl
@[simp] theorem State.setErr_retireWait : (s.setErr a l).retireWait = s.retireWait := rfl
@[simp] theorem State.setErr_cause : (s.setErr a l).cause = s.cause := rfl
@[simp] theorem State.setErr_pllLock : (s.setErr a l).pllLock = s.pllLock := rfl
@[simp] theorem State.setErr_spread : (s.setErr a l).spread = s.spread := rfl
@[simp] theorem State.setErr_onRoot : (s.setErr a l).onRoot = s.onRoot := rfl
@[simp] theorem State.setErr_clocksOn : (s.setErr a l).clocksOn = s.clocksOn := rfl
@[simp] theorem State.setErr_fmRun : (s.setErr a l).fmRun = s.fmRun := rfl
@[simp] theorem State.setErr_fmDone : (s.setErr a l).fmDone = s.fmDone := rfl
@[simp] theorem State.setErr_fmResult : (s.setErr a l).fmResult = s.fmResult := rfl
@[simp] theorem State.setErr_driftOdd : (s.setErr a l).driftOdd = s.driftOdd := rfl
@[simp] theorem State.setErr_monLast : (s.setErr a l).monLast = s.monLast := rfl
@[simp] theorem State.setErr_fmt : (s.setErr a l).fmt = s.fmt := rfl
@[simp] theorem State.setErr_spn : (s.setErr a l).spn = s.spn := rfl
@[simp] theorem State.setErr_fly : (s.setErr a l).fly = s.fly := rfl
@[simp] theorem State.setErr_curves : (s.setErr a l).curves = s.curves := rfl
@[simp] theorem State.setErr_struck : (s.setErr a l).struck = s.struck := rfl
@[simp] theorem State.setErr_images : (s.setErr a l).images = s.images := rfl
@[simp] theorem State.setErr_imgState : (s.setErr a l).imgState = s.imgState := rfl
@[simp] theorem State.setErr_loading : (s.setErr a l).loading = s.loading := rfl
@[simp] theorem State.setErr_loadCtx : (s.setErr a l).loadCtx = s.loadCtx := rfl
@[simp] theorem State.setErr_loadResult : (s.setErr a l).loadResult = s.loadResult := rfl
@[simp] theorem State.setErr_loadAddr : (s.setErr a l).loadAddr = s.loadAddr := rfl
@[simp] theorem State.setErr_planCache : (s.setErr a l).planCache = s.planCache := rfl
@[simp] theorem State.setErr_lastRun : (s.setErr a l).lastRun = s.lastRun := rfl
@[simp] theorem State.setErr_lastBucket : (s.setErr a l).lastBucket = s.lastBucket := rfl
@[simp] theorem State.setErr_ctxs : (s.setErr a l).ctxs = s.ctxs := rfl
@[simp] theorem State.setErr_trns : (s.setErr a l).trns = s.trns := rfl
@[simp] theorem State.setErr_lsInit : (s.setErr a l).lsInit = s.lsInit := rfl
@[simp] theorem State.setErr_qps : (s.setErr a l).qps = s.qps := rfl
@[simp] theorem State.setErr_prts : (s.setErr a l).prts = s.prts := rfl
@[simp] theorem State.setErr_qpResult : (s.setErr a l).qpResult = s.qpResult := rfl
@[simp] theorem State.setErr_crds : (s.setErr a l).crds = s.crds := rfl
@[simp] theorem State.setErr_ply : (s.setErr a l).ply = s.ply := rfl
@[simp] theorem State.setErr_nvm : (s.setErr a l).nvm = s.nvm := rfl
@[simp] theorem State.setErr_ndy : (s.setErr a l).ndy = s.ndy := rfl
@[simp] theorem State.setErr_fuses : (s.setErr a l).fuses = s.fuses := rfl
@[simp] theorem State.setErr_whl : (s.setErr a l).whl = s.whl := rfl
@[simp] theorem State.setErr_pkg : (s.setErr a l).pkg = s.pkg := rfl
@[simp] theorem State.setErr_out : (s.setErr a l).out = s.out := rfl
end setErr

section setCtx
variable (s : State) (c : Nat) (x : Ctx)
@[simp] theorem State.setCtx_pending : (s.setCtx c x).pending = s.pending := rfl
@[simp] theorem State.setCtx_tick : (s.setCtx c x).tick = s.tick := rfl
@[simp] theorem State.setCtx_wall : (s.setCtx c x).wall = s.wall := rfl
@[simp] theorem State.setCtx_cyc : (s.setCtx c x).cyc = s.cyc := rfl
@[simp] theorem State.setCtx_free : (s.setCtx c x).free = s.free := rfl
@[simp] theorem State.setCtx_ids : (s.setCtx c x).ids = s.ids := rfl
@[simp] theorem State.setCtx_reg : (s.setCtx c x).reg = s.reg := rfl
@[simp] theorem State.setCtx_mem : (s.setCtx c x).mem = s.mem := rfl
@[simp] theorem State.setCtx_errs : (s.setCtx c x).errs = s.errs := rfl
@[simp] theorem State.setCtx_skn : (s.setCtx c x).skn = s.skn := rfl
@[simp] theorem State.setCtx_dst : (s.setCtx c x).dst = s.dst := rfl
@[simp] theorem State.setCtx_gate : (s.setCtx c x).gate = s.gate := rfl
@[simp] theorem State.setCtx_pend : (s.setCtx c x).pend = s.pend := rfl
@[simp] theorem State.setCtx_rstBusy : (s.setCtx c x).rstBusy = s.rstBusy := rfl
@[simp] theorem State.setCtx_sleepReq : (s.setCtx c x).sleepReq = s.sleepReq := rfl
@[simp] theorem State.setCtx_asleep : (s.setCtx c x).asleep = s.asleep := rfl
@[simp] theorem State.setCtx_wakeAt : (s.setCtx c x).wakeAt = s.wakeAt := rfl
@[simp] theorem State.setCtx_run : (s.setCtx c x).run = s.run := rfl
@[simp] theorem State.setCtx_spare : (s.setCtx c x).spare = s.spare := rfl
@[simp] theorem State.setCtx_spareReq : (s.setCtx c x).spareReq = s.spareReq := rfl
@[simp] theorem State.setCtx_ready : (s.setCtx c x).ready = s.ready := rfl
@[simp] theorem State.setCtx_bobs : (s.setCtx c x).bobs = s.bobs := rfl
@[simp] theorem State.setCtx_turns : (s.setCtx c x).turns = s.turns := rfl
@[simp] theorem State.setCtx_fetchTurns : (s.setCtx c x).fetchTurns = s.fetchTurns := rfl
@[simp] theorem State.setCtx_barriers : (s.setCtx c x).barriers = s.barriers := rfl
@[simp] theorem State.setCtx_barrierAt : (s.setCtx c x).barrierAt = s.barrierAt := rfl
@[simp] theorem State.setCtx_holds : (s.setCtx c x).holds = s.holds := rfl
@[simp] theorem State.setCtx_epochs : (s.setCtx c x).epochs = s.epochs := rfl
@[simp] theorem State.setCtx_ports : (s.setCtx c x).ports = s.ports := rfl
@[simp] theorem State.setCtx_sched : (s.setCtx c x).sched = s.sched := rfl
@[simp] theorem State.setCtx_reports : (s.setCtx c x).reports = s.reports := rfl
@[simp] theorem State.setCtx_seqs : (s.setCtx c x).seqs = s.seqs := rfl
@[simp] theorem State.setCtx_rwp : (s.setCtx c x).rwp = s.rwp := rfl
@[simp] theorem State.setCtx_wear : (s.setCtx c x).wear = s.wear := rfl
@[simp] theorem State.setCtx_retireWait : (s.setCtx c x).retireWait = s.retireWait := rfl
@[simp] theorem State.setCtx_cause : (s.setCtx c x).cause = s.cause := rfl
@[simp] theorem State.setCtx_pllLock : (s.setCtx c x).pllLock = s.pllLock := rfl
@[simp] theorem State.setCtx_spread : (s.setCtx c x).spread = s.spread := rfl
@[simp] theorem State.setCtx_onRoot : (s.setCtx c x).onRoot = s.onRoot := rfl
@[simp] theorem State.setCtx_clocksOn : (s.setCtx c x).clocksOn = s.clocksOn := rfl
@[simp] theorem State.setCtx_fmRun : (s.setCtx c x).fmRun = s.fmRun := rfl
@[simp] theorem State.setCtx_fmDone : (s.setCtx c x).fmDone = s.fmDone := rfl
@[simp] theorem State.setCtx_fmResult : (s.setCtx c x).fmResult = s.fmResult := rfl
@[simp] theorem State.setCtx_driftOdd : (s.setCtx c x).driftOdd = s.driftOdd := rfl
@[simp] theorem State.setCtx_monLast : (s.setCtx c x).monLast = s.monLast := rfl
@[simp] theorem State.setCtx_fmt : (s.setCtx c x).fmt = s.fmt := rfl
@[simp] theorem State.setCtx_spn : (s.setCtx c x).spn = s.spn := rfl
@[simp] theorem State.setCtx_fly : (s.setCtx c x).fly = s.fly := rfl
@[simp] theorem State.setCtx_curves : (s.setCtx c x).curves = s.curves := rfl
@[simp] theorem State.setCtx_struck : (s.setCtx c x).struck = s.struck := rfl
@[simp] theorem State.setCtx_images : (s.setCtx c x).images = s.images := rfl
@[simp] theorem State.setCtx_imgState : (s.setCtx c x).imgState = s.imgState := rfl
@[simp] theorem State.setCtx_loading : (s.setCtx c x).loading = s.loading := rfl
@[simp] theorem State.setCtx_loadCtx : (s.setCtx c x).loadCtx = s.loadCtx := rfl
@[simp] theorem State.setCtx_loadResult : (s.setCtx c x).loadResult = s.loadResult := rfl
@[simp] theorem State.setCtx_loadAddr : (s.setCtx c x).loadAddr = s.loadAddr := rfl
@[simp] theorem State.setCtx_planCache : (s.setCtx c x).planCache = s.planCache := rfl
@[simp] theorem State.setCtx_lastRun : (s.setCtx c x).lastRun = s.lastRun := rfl
@[simp] theorem State.setCtx_lastBucket : (s.setCtx c x).lastBucket = s.lastBucket := rfl
@[simp] theorem State.setCtx_ctxs : (s.setCtx c x).ctxs = mput s.ctxs c x {} := rfl
@[simp] theorem State.setCtx_trns : (s.setCtx c x).trns = s.trns := rfl
@[simp] theorem State.setCtx_lsInit : (s.setCtx c x).lsInit = s.lsInit := rfl
@[simp] theorem State.setCtx_qps : (s.setCtx c x).qps = s.qps := rfl
@[simp] theorem State.setCtx_prts : (s.setCtx c x).prts = s.prts := rfl
@[simp] theorem State.setCtx_qpResult : (s.setCtx c x).qpResult = s.qpResult := rfl
@[simp] theorem State.setCtx_crds : (s.setCtx c x).crds = s.crds := rfl
@[simp] theorem State.setCtx_ply : (s.setCtx c x).ply = s.ply := rfl
@[simp] theorem State.setCtx_nvm : (s.setCtx c x).nvm = s.nvm := rfl
@[simp] theorem State.setCtx_ndy : (s.setCtx c x).ndy = s.ndy := rfl
@[simp] theorem State.setCtx_fuses : (s.setCtx c x).fuses = s.fuses := rfl
@[simp] theorem State.setCtx_whl : (s.setCtx c x).whl = s.whl := rfl
@[simp] theorem State.setCtx_pkg : (s.setCtx c x).pkg = s.pkg := rfl
@[simp] theorem State.setCtx_out : (s.setCtx c x).out = s.out := rfl
end setCtx

section setTrn
variable (s : State) (c : Nat) (x : Trn)
@[simp] theorem State.setTrn_pending : (s.setTrn c x).pending = s.pending := rfl
@[simp] theorem State.setTrn_tick : (s.setTrn c x).tick = s.tick := rfl
@[simp] theorem State.setTrn_wall : (s.setTrn c x).wall = s.wall := rfl
@[simp] theorem State.setTrn_cyc : (s.setTrn c x).cyc = s.cyc := rfl
@[simp] theorem State.setTrn_free : (s.setTrn c x).free = s.free := rfl
@[simp] theorem State.setTrn_ids : (s.setTrn c x).ids = s.ids := rfl
@[simp] theorem State.setTrn_reg : (s.setTrn c x).reg = s.reg := rfl
@[simp] theorem State.setTrn_mem : (s.setTrn c x).mem = s.mem := rfl
@[simp] theorem State.setTrn_errs : (s.setTrn c x).errs = s.errs := rfl
@[simp] theorem State.setTrn_skn : (s.setTrn c x).skn = s.skn := rfl
@[simp] theorem State.setTrn_dst : (s.setTrn c x).dst = s.dst := rfl
@[simp] theorem State.setTrn_gate : (s.setTrn c x).gate = s.gate := rfl
@[simp] theorem State.setTrn_pend : (s.setTrn c x).pend = s.pend := rfl
@[simp] theorem State.setTrn_rstBusy : (s.setTrn c x).rstBusy = s.rstBusy := rfl
@[simp] theorem State.setTrn_sleepReq : (s.setTrn c x).sleepReq = s.sleepReq := rfl
@[simp] theorem State.setTrn_asleep : (s.setTrn c x).asleep = s.asleep := rfl
@[simp] theorem State.setTrn_wakeAt : (s.setTrn c x).wakeAt = s.wakeAt := rfl
@[simp] theorem State.setTrn_run : (s.setTrn c x).run = s.run := rfl
@[simp] theorem State.setTrn_spare : (s.setTrn c x).spare = s.spare := rfl
@[simp] theorem State.setTrn_spareReq : (s.setTrn c x).spareReq = s.spareReq := rfl
@[simp] theorem State.setTrn_ready : (s.setTrn c x).ready = s.ready := rfl
@[simp] theorem State.setTrn_bobs : (s.setTrn c x).bobs = s.bobs := rfl
@[simp] theorem State.setTrn_turns : (s.setTrn c x).turns = s.turns := rfl
@[simp] theorem State.setTrn_fetchTurns : (s.setTrn c x).fetchTurns = s.fetchTurns := rfl
@[simp] theorem State.setTrn_barriers : (s.setTrn c x).barriers = s.barriers := rfl
@[simp] theorem State.setTrn_barrierAt : (s.setTrn c x).barrierAt = s.barrierAt := rfl
@[simp] theorem State.setTrn_holds : (s.setTrn c x).holds = s.holds := rfl
@[simp] theorem State.setTrn_epochs : (s.setTrn c x).epochs = s.epochs := rfl
@[simp] theorem State.setTrn_ports : (s.setTrn c x).ports = s.ports := rfl
@[simp] theorem State.setTrn_sched : (s.setTrn c x).sched = s.sched := rfl
@[simp] theorem State.setTrn_reports : (s.setTrn c x).reports = s.reports := rfl
@[simp] theorem State.setTrn_seqs : (s.setTrn c x).seqs = s.seqs := rfl
@[simp] theorem State.setTrn_rwp : (s.setTrn c x).rwp = s.rwp := rfl
@[simp] theorem State.setTrn_wear : (s.setTrn c x).wear = s.wear := rfl
@[simp] theorem State.setTrn_retireWait : (s.setTrn c x).retireWait = s.retireWait := rfl
@[simp] theorem State.setTrn_cause : (s.setTrn c x).cause = s.cause := rfl
@[simp] theorem State.setTrn_pllLock : (s.setTrn c x).pllLock = s.pllLock := rfl
@[simp] theorem State.setTrn_spread : (s.setTrn c x).spread = s.spread := rfl
@[simp] theorem State.setTrn_onRoot : (s.setTrn c x).onRoot = s.onRoot := rfl
@[simp] theorem State.setTrn_clocksOn : (s.setTrn c x).clocksOn = s.clocksOn := rfl
@[simp] theorem State.setTrn_fmRun : (s.setTrn c x).fmRun = s.fmRun := rfl
@[simp] theorem State.setTrn_fmDone : (s.setTrn c x).fmDone = s.fmDone := rfl
@[simp] theorem State.setTrn_fmResult : (s.setTrn c x).fmResult = s.fmResult := rfl
@[simp] theorem State.setTrn_driftOdd : (s.setTrn c x).driftOdd = s.driftOdd := rfl
@[simp] theorem State.setTrn_monLast : (s.setTrn c x).monLast = s.monLast := rfl
@[simp] theorem State.setTrn_fmt : (s.setTrn c x).fmt = s.fmt := rfl
@[simp] theorem State.setTrn_spn : (s.setTrn c x).spn = s.spn := rfl
@[simp] theorem State.setTrn_fly : (s.setTrn c x).fly = s.fly := rfl
@[simp] theorem State.setTrn_curves : (s.setTrn c x).curves = s.curves := rfl
@[simp] theorem State.setTrn_struck : (s.setTrn c x).struck = s.struck := rfl
@[simp] theorem State.setTrn_images : (s.setTrn c x).images = s.images := rfl
@[simp] theorem State.setTrn_imgState : (s.setTrn c x).imgState = s.imgState := rfl
@[simp] theorem State.setTrn_loading : (s.setTrn c x).loading = s.loading := rfl
@[simp] theorem State.setTrn_loadCtx : (s.setTrn c x).loadCtx = s.loadCtx := rfl
@[simp] theorem State.setTrn_loadResult : (s.setTrn c x).loadResult = s.loadResult := rfl
@[simp] theorem State.setTrn_loadAddr : (s.setTrn c x).loadAddr = s.loadAddr := rfl
@[simp] theorem State.setTrn_planCache : (s.setTrn c x).planCache = s.planCache := rfl
@[simp] theorem State.setTrn_lastRun : (s.setTrn c x).lastRun = s.lastRun := rfl
@[simp] theorem State.setTrn_lastBucket : (s.setTrn c x).lastBucket = s.lastBucket := rfl
@[simp] theorem State.setTrn_ctxs : (s.setTrn c x).ctxs = s.ctxs := rfl
@[simp] theorem State.setTrn_trns : (s.setTrn c x).trns = mput s.trns c x {} := rfl
@[simp] theorem State.setTrn_lsInit : (s.setTrn c x).lsInit = s.lsInit := rfl
@[simp] theorem State.setTrn_qps : (s.setTrn c x).qps = s.qps := rfl
@[simp] theorem State.setTrn_prts : (s.setTrn c x).prts = s.prts := rfl
@[simp] theorem State.setTrn_qpResult : (s.setTrn c x).qpResult = s.qpResult := rfl
@[simp] theorem State.setTrn_crds : (s.setTrn c x).crds = s.crds := rfl
@[simp] theorem State.setTrn_ply : (s.setTrn c x).ply = s.ply := rfl
@[simp] theorem State.setTrn_nvm : (s.setTrn c x).nvm = s.nvm := rfl
@[simp] theorem State.setTrn_ndy : (s.setTrn c x).ndy = s.ndy := rfl
@[simp] theorem State.setTrn_fuses : (s.setTrn c x).fuses = s.fuses := rfl
@[simp] theorem State.setTrn_whl : (s.setTrn c x).whl = s.whl := rfl
@[simp] theorem State.setTrn_pkg : (s.setTrn c x).pkg = s.pkg := rfl
@[simp] theorem State.setTrn_out : (s.setTrn c x).out = s.out := rfl
end setTrn

section setPrt
variable (s : State) (n : Nat) (x : Prt)
@[simp] theorem State.setPrt_pending : (s.setPrt n x).pending = s.pending := rfl
@[simp] theorem State.setPrt_tick : (s.setPrt n x).tick = s.tick := rfl
@[simp] theorem State.setPrt_wall : (s.setPrt n x).wall = s.wall := rfl
@[simp] theorem State.setPrt_cyc : (s.setPrt n x).cyc = s.cyc := rfl
@[simp] theorem State.setPrt_free : (s.setPrt n x).free = s.free := rfl
@[simp] theorem State.setPrt_ids : (s.setPrt n x).ids = s.ids := rfl
@[simp] theorem State.setPrt_reg : (s.setPrt n x).reg = s.reg := rfl
@[simp] theorem State.setPrt_mem : (s.setPrt n x).mem = s.mem := rfl
@[simp] theorem State.setPrt_errs : (s.setPrt n x).errs = s.errs := rfl
@[simp] theorem State.setPrt_skn : (s.setPrt n x).skn = s.skn := rfl
@[simp] theorem State.setPrt_dst : (s.setPrt n x).dst = s.dst := rfl
@[simp] theorem State.setPrt_gate : (s.setPrt n x).gate = s.gate := rfl
@[simp] theorem State.setPrt_pend : (s.setPrt n x).pend = s.pend := rfl
@[simp] theorem State.setPrt_rstBusy : (s.setPrt n x).rstBusy = s.rstBusy := rfl
@[simp] theorem State.setPrt_sleepReq : (s.setPrt n x).sleepReq = s.sleepReq := rfl
@[simp] theorem State.setPrt_asleep : (s.setPrt n x).asleep = s.asleep := rfl
@[simp] theorem State.setPrt_wakeAt : (s.setPrt n x).wakeAt = s.wakeAt := rfl
@[simp] theorem State.setPrt_run : (s.setPrt n x).run = s.run := rfl
@[simp] theorem State.setPrt_spare : (s.setPrt n x).spare = s.spare := rfl
@[simp] theorem State.setPrt_spareReq : (s.setPrt n x).spareReq = s.spareReq := rfl
@[simp] theorem State.setPrt_ready : (s.setPrt n x).ready = s.ready := rfl
@[simp] theorem State.setPrt_bobs : (s.setPrt n x).bobs = s.bobs := rfl
@[simp] theorem State.setPrt_turns : (s.setPrt n x).turns = s.turns := rfl
@[simp] theorem State.setPrt_fetchTurns : (s.setPrt n x).fetchTurns = s.fetchTurns := rfl
@[simp] theorem State.setPrt_barriers : (s.setPrt n x).barriers = s.barriers := rfl
@[simp] theorem State.setPrt_barrierAt : (s.setPrt n x).barrierAt = s.barrierAt := rfl
@[simp] theorem State.setPrt_holds : (s.setPrt n x).holds = s.holds := rfl
@[simp] theorem State.setPrt_epochs : (s.setPrt n x).epochs = s.epochs := rfl
@[simp] theorem State.setPrt_ports : (s.setPrt n x).ports = s.ports := rfl
@[simp] theorem State.setPrt_sched : (s.setPrt n x).sched = s.sched := rfl
@[simp] theorem State.setPrt_reports : (s.setPrt n x).reports = s.reports := rfl
@[simp] theorem State.setPrt_seqs : (s.setPrt n x).seqs = s.seqs := rfl
@[simp] theorem State.setPrt_rwp : (s.setPrt n x).rwp = s.rwp := rfl
@[simp] theorem State.setPrt_wear : (s.setPrt n x).wear = s.wear := rfl
@[simp] theorem State.setPrt_retireWait : (s.setPrt n x).retireWait = s.retireWait := rfl
@[simp] theorem State.setPrt_cause : (s.setPrt n x).cause = s.cause := rfl
@[simp] theorem State.setPrt_pllLock : (s.setPrt n x).pllLock = s.pllLock := rfl
@[simp] theorem State.setPrt_spread : (s.setPrt n x).spread = s.spread := rfl
@[simp] theorem State.setPrt_onRoot : (s.setPrt n x).onRoot = s.onRoot := rfl
@[simp] theorem State.setPrt_clocksOn : (s.setPrt n x).clocksOn = s.clocksOn := rfl
@[simp] theorem State.setPrt_fmRun : (s.setPrt n x).fmRun = s.fmRun := rfl
@[simp] theorem State.setPrt_fmDone : (s.setPrt n x).fmDone = s.fmDone := rfl
@[simp] theorem State.setPrt_fmResult : (s.setPrt n x).fmResult = s.fmResult := rfl
@[simp] theorem State.setPrt_driftOdd : (s.setPrt n x).driftOdd = s.driftOdd := rfl
@[simp] theorem State.setPrt_monLast : (s.setPrt n x).monLast = s.monLast := rfl
@[simp] theorem State.setPrt_fmt : (s.setPrt n x).fmt = s.fmt := rfl
@[simp] theorem State.setPrt_spn : (s.setPrt n x).spn = s.spn := rfl
@[simp] theorem State.setPrt_fly : (s.setPrt n x).fly = s.fly := rfl
@[simp] theorem State.setPrt_curves : (s.setPrt n x).curves = s.curves := rfl
@[simp] theorem State.setPrt_struck : (s.setPrt n x).struck = s.struck := rfl
@[simp] theorem State.setPrt_images : (s.setPrt n x).images = s.images := rfl
@[simp] theorem State.setPrt_imgState : (s.setPrt n x).imgState = s.imgState := rfl
@[simp] theorem State.setPrt_loading : (s.setPrt n x).loading = s.loading := rfl
@[simp] theorem State.setPrt_loadCtx : (s.setPrt n x).loadCtx = s.loadCtx := rfl
@[simp] theorem State.setPrt_loadResult : (s.setPrt n x).loadResult = s.loadResult := rfl
@[simp] theorem State.setPrt_loadAddr : (s.setPrt n x).loadAddr = s.loadAddr := rfl
@[simp] theorem State.setPrt_planCache : (s.setPrt n x).planCache = s.planCache := rfl
@[simp] theorem State.setPrt_lastRun : (s.setPrt n x).lastRun = s.lastRun := rfl
@[simp] theorem State.setPrt_lastBucket : (s.setPrt n x).lastBucket = s.lastBucket := rfl
@[simp] theorem State.setPrt_ctxs : (s.setPrt n x).ctxs = s.ctxs := rfl
@[simp] theorem State.setPrt_trns : (s.setPrt n x).trns = s.trns := rfl
@[simp] theorem State.setPrt_lsInit : (s.setPrt n x).lsInit = s.lsInit := rfl
@[simp] theorem State.setPrt_qps : (s.setPrt n x).qps = s.qps := rfl
@[simp] theorem State.setPrt_prts : (s.setPrt n x).prts = mput s.prts n x {} := rfl
@[simp] theorem State.setPrt_qpResult : (s.setPrt n x).qpResult = s.qpResult := rfl
@[simp] theorem State.setPrt_crds : (s.setPrt n x).crds = s.crds := rfl
@[simp] theorem State.setPrt_ply : (s.setPrt n x).ply = s.ply := rfl
@[simp] theorem State.setPrt_nvm : (s.setPrt n x).nvm = s.nvm := rfl
@[simp] theorem State.setPrt_ndy : (s.setPrt n x).ndy = s.ndy := rfl
@[simp] theorem State.setPrt_fuses : (s.setPrt n x).fuses = s.fuses := rfl
@[simp] theorem State.setPrt_whl : (s.setPrt n x).whl = s.whl := rfl
@[simp] theorem State.setPrt_pkg : (s.setPrt n x).pkg = s.pkg := rfl
@[simp] theorem State.setPrt_out : (s.setPrt n x).out = s.out := rfl
end setPrt

section setCrd
variable (s : State) (k : Nat) (x : Crd)
@[simp] theorem State.setCrd_pending : (s.setCrd k x).pending = s.pending := rfl
@[simp] theorem State.setCrd_tick : (s.setCrd k x).tick = s.tick := rfl
@[simp] theorem State.setCrd_wall : (s.setCrd k x).wall = s.wall := rfl
@[simp] theorem State.setCrd_cyc : (s.setCrd k x).cyc = s.cyc := rfl
@[simp] theorem State.setCrd_free : (s.setCrd k x).free = s.free := rfl
@[simp] theorem State.setCrd_ids : (s.setCrd k x).ids = s.ids := rfl
@[simp] theorem State.setCrd_reg : (s.setCrd k x).reg = s.reg := rfl
@[simp] theorem State.setCrd_mem : (s.setCrd k x).mem = s.mem := rfl
@[simp] theorem State.setCrd_errs : (s.setCrd k x).errs = s.errs := rfl
@[simp] theorem State.setCrd_skn : (s.setCrd k x).skn = s.skn := rfl
@[simp] theorem State.setCrd_dst : (s.setCrd k x).dst = s.dst := rfl
@[simp] theorem State.setCrd_gate : (s.setCrd k x).gate = s.gate := rfl
@[simp] theorem State.setCrd_pend : (s.setCrd k x).pend = s.pend := rfl
@[simp] theorem State.setCrd_rstBusy : (s.setCrd k x).rstBusy = s.rstBusy := rfl
@[simp] theorem State.setCrd_sleepReq : (s.setCrd k x).sleepReq = s.sleepReq := rfl
@[simp] theorem State.setCrd_asleep : (s.setCrd k x).asleep = s.asleep := rfl
@[simp] theorem State.setCrd_wakeAt : (s.setCrd k x).wakeAt = s.wakeAt := rfl
@[simp] theorem State.setCrd_run : (s.setCrd k x).run = s.run := rfl
@[simp] theorem State.setCrd_spare : (s.setCrd k x).spare = s.spare := rfl
@[simp] theorem State.setCrd_spareReq : (s.setCrd k x).spareReq = s.spareReq := rfl
@[simp] theorem State.setCrd_ready : (s.setCrd k x).ready = s.ready := rfl
@[simp] theorem State.setCrd_bobs : (s.setCrd k x).bobs = s.bobs := rfl
@[simp] theorem State.setCrd_turns : (s.setCrd k x).turns = s.turns := rfl
@[simp] theorem State.setCrd_fetchTurns : (s.setCrd k x).fetchTurns = s.fetchTurns := rfl
@[simp] theorem State.setCrd_barriers : (s.setCrd k x).barriers = s.barriers := rfl
@[simp] theorem State.setCrd_barrierAt : (s.setCrd k x).barrierAt = s.barrierAt := rfl
@[simp] theorem State.setCrd_holds : (s.setCrd k x).holds = s.holds := rfl
@[simp] theorem State.setCrd_epochs : (s.setCrd k x).epochs = s.epochs := rfl
@[simp] theorem State.setCrd_ports : (s.setCrd k x).ports = s.ports := rfl
@[simp] theorem State.setCrd_sched : (s.setCrd k x).sched = s.sched := rfl
@[simp] theorem State.setCrd_reports : (s.setCrd k x).reports = s.reports := rfl
@[simp] theorem State.setCrd_seqs : (s.setCrd k x).seqs = s.seqs := rfl
@[simp] theorem State.setCrd_rwp : (s.setCrd k x).rwp = s.rwp := rfl
@[simp] theorem State.setCrd_wear : (s.setCrd k x).wear = s.wear := rfl
@[simp] theorem State.setCrd_retireWait : (s.setCrd k x).retireWait = s.retireWait := rfl
@[simp] theorem State.setCrd_cause : (s.setCrd k x).cause = s.cause := rfl
@[simp] theorem State.setCrd_pllLock : (s.setCrd k x).pllLock = s.pllLock := rfl
@[simp] theorem State.setCrd_spread : (s.setCrd k x).spread = s.spread := rfl
@[simp] theorem State.setCrd_onRoot : (s.setCrd k x).onRoot = s.onRoot := rfl
@[simp] theorem State.setCrd_clocksOn : (s.setCrd k x).clocksOn = s.clocksOn := rfl
@[simp] theorem State.setCrd_fmRun : (s.setCrd k x).fmRun = s.fmRun := rfl
@[simp] theorem State.setCrd_fmDone : (s.setCrd k x).fmDone = s.fmDone := rfl
@[simp] theorem State.setCrd_fmResult : (s.setCrd k x).fmResult = s.fmResult := rfl
@[simp] theorem State.setCrd_driftOdd : (s.setCrd k x).driftOdd = s.driftOdd := rfl
@[simp] theorem State.setCrd_monLast : (s.setCrd k x).monLast = s.monLast := rfl
@[simp] theorem State.setCrd_fmt : (s.setCrd k x).fmt = s.fmt := rfl
@[simp] theorem State.setCrd_spn : (s.setCrd k x).spn = s.spn := rfl
@[simp] theorem State.setCrd_fly : (s.setCrd k x).fly = s.fly := rfl
@[simp] theorem State.setCrd_curves : (s.setCrd k x).curves = s.curves := rfl
@[simp] theorem State.setCrd_struck : (s.setCrd k x).struck = s.struck := rfl
@[simp] theorem State.setCrd_images : (s.setCrd k x).images = s.images := rfl
@[simp] theorem State.setCrd_imgState : (s.setCrd k x).imgState = s.imgState := rfl
@[simp] theorem State.setCrd_loading : (s.setCrd k x).loading = s.loading := rfl
@[simp] theorem State.setCrd_loadCtx : (s.setCrd k x).loadCtx = s.loadCtx := rfl
@[simp] theorem State.setCrd_loadResult : (s.setCrd k x).loadResult = s.loadResult := rfl
@[simp] theorem State.setCrd_loadAddr : (s.setCrd k x).loadAddr = s.loadAddr := rfl
@[simp] theorem State.setCrd_planCache : (s.setCrd k x).planCache = s.planCache := rfl
@[simp] theorem State.setCrd_lastRun : (s.setCrd k x).lastRun = s.lastRun := rfl
@[simp] theorem State.setCrd_lastBucket : (s.setCrd k x).lastBucket = s.lastBucket := rfl
@[simp] theorem State.setCrd_ctxs : (s.setCrd k x).ctxs = s.ctxs := rfl
@[simp] theorem State.setCrd_trns : (s.setCrd k x).trns = s.trns := rfl
@[simp] theorem State.setCrd_lsInit : (s.setCrd k x).lsInit = s.lsInit := rfl
@[simp] theorem State.setCrd_qps : (s.setCrd k x).qps = s.qps := rfl
@[simp] theorem State.setCrd_prts : (s.setCrd k x).prts = s.prts := rfl
@[simp] theorem State.setCrd_qpResult : (s.setCrd k x).qpResult = s.qpResult := rfl
@[simp] theorem State.setCrd_crds : (s.setCrd k x).crds = mput s.crds k x {} := rfl
@[simp] theorem State.setCrd_ply : (s.setCrd k x).ply = s.ply := rfl
@[simp] theorem State.setCrd_nvm : (s.setCrd k x).nvm = s.nvm := rfl
@[simp] theorem State.setCrd_ndy : (s.setCrd k x).ndy = s.ndy := rfl
@[simp] theorem State.setCrd_fuses : (s.setCrd k x).fuses = s.fuses := rfl
@[simp] theorem State.setCrd_whl : (s.setCrd k x).whl = s.whl := rfl
@[simp] theorem State.setCrd_pkg : (s.setCrd k x).pkg = s.pkg := rfl
@[simp] theorem State.setCrd_out : (s.setCrd k x).out = s.out := rfl
end setCrd

section setSpindle
variable (s : State) (n : Nat) (x : Spn)
@[simp] theorem State.setSpindle_pending : (s.setSpindle n x).pending = s.pending := rfl
@[simp] theorem State.setSpindle_tick : (s.setSpindle n x).tick = s.tick := rfl
@[simp] theorem State.setSpindle_wall : (s.setSpindle n x).wall = s.wall := rfl
@[simp] theorem State.setSpindle_cyc : (s.setSpindle n x).cyc = s.cyc := rfl
@[simp] theorem State.setSpindle_free : (s.setSpindle n x).free = s.free := rfl
@[simp] theorem State.setSpindle_ids : (s.setSpindle n x).ids = s.ids := rfl
@[simp] theorem State.setSpindle_reg : (s.setSpindle n x).reg = s.reg := rfl
@[simp] theorem State.setSpindle_mem : (s.setSpindle n x).mem = s.mem := rfl
@[simp] theorem State.setSpindle_errs : (s.setSpindle n x).errs = s.errs := rfl
@[simp] theorem State.setSpindle_skn : (s.setSpindle n x).skn = s.skn := rfl
@[simp] theorem State.setSpindle_dst : (s.setSpindle n x).dst = s.dst := rfl
@[simp] theorem State.setSpindle_gate : (s.setSpindle n x).gate = s.gate := rfl
@[simp] theorem State.setSpindle_pend : (s.setSpindle n x).pend = s.pend := rfl
@[simp] theorem State.setSpindle_rstBusy : (s.setSpindle n x).rstBusy = s.rstBusy := rfl
@[simp] theorem State.setSpindle_sleepReq : (s.setSpindle n x).sleepReq = s.sleepReq := rfl
@[simp] theorem State.setSpindle_asleep : (s.setSpindle n x).asleep = s.asleep := rfl
@[simp] theorem State.setSpindle_wakeAt : (s.setSpindle n x).wakeAt = s.wakeAt := rfl
@[simp] theorem State.setSpindle_run : (s.setSpindle n x).run = s.run := rfl
@[simp] theorem State.setSpindle_spare : (s.setSpindle n x).spare = s.spare := rfl
@[simp] theorem State.setSpindle_spareReq : (s.setSpindle n x).spareReq = s.spareReq := rfl
@[simp] theorem State.setSpindle_ready : (s.setSpindle n x).ready = s.ready := rfl
@[simp] theorem State.setSpindle_bobs : (s.setSpindle n x).bobs = s.bobs := rfl
@[simp] theorem State.setSpindle_turns : (s.setSpindle n x).turns = s.turns := rfl
@[simp] theorem State.setSpindle_fetchTurns : (s.setSpindle n x).fetchTurns = s.fetchTurns := rfl
@[simp] theorem State.setSpindle_barriers : (s.setSpindle n x).barriers = s.barriers := rfl
@[simp] theorem State.setSpindle_barrierAt : (s.setSpindle n x).barrierAt = s.barrierAt := rfl
@[simp] theorem State.setSpindle_holds : (s.setSpindle n x).holds = s.holds := rfl
@[simp] theorem State.setSpindle_epochs : (s.setSpindle n x).epochs = s.epochs := rfl
@[simp] theorem State.setSpindle_ports : (s.setSpindle n x).ports = s.ports := rfl
@[simp] theorem State.setSpindle_sched : (s.setSpindle n x).sched = s.sched := rfl
@[simp] theorem State.setSpindle_reports : (s.setSpindle n x).reports = s.reports := rfl
@[simp] theorem State.setSpindle_seqs : (s.setSpindle n x).seqs = s.seqs := rfl
@[simp] theorem State.setSpindle_rwp : (s.setSpindle n x).rwp = s.rwp := rfl
@[simp] theorem State.setSpindle_wear : (s.setSpindle n x).wear = s.wear := rfl
@[simp] theorem State.setSpindle_retireWait : (s.setSpindle n x).retireWait = s.retireWait := rfl
@[simp] theorem State.setSpindle_cause : (s.setSpindle n x).cause = s.cause := rfl
@[simp] theorem State.setSpindle_pllLock : (s.setSpindle n x).pllLock = s.pllLock := rfl
@[simp] theorem State.setSpindle_spread : (s.setSpindle n x).spread = s.spread := rfl
@[simp] theorem State.setSpindle_onRoot : (s.setSpindle n x).onRoot = s.onRoot := rfl
@[simp] theorem State.setSpindle_clocksOn : (s.setSpindle n x).clocksOn = s.clocksOn := rfl
@[simp] theorem State.setSpindle_fmRun : (s.setSpindle n x).fmRun = s.fmRun := rfl
@[simp] theorem State.setSpindle_fmDone : (s.setSpindle n x).fmDone = s.fmDone := rfl
@[simp] theorem State.setSpindle_fmResult : (s.setSpindle n x).fmResult = s.fmResult := rfl
@[simp] theorem State.setSpindle_driftOdd : (s.setSpindle n x).driftOdd = s.driftOdd := rfl
@[simp] theorem State.setSpindle_monLast : (s.setSpindle n x).monLast = s.monLast := rfl
@[simp] theorem State.setSpindle_fmt : (s.setSpindle n x).fmt = s.fmt := rfl
@[simp] theorem State.setSpindle_spn : (s.setSpindle n x).spn = mput s.spn n x {} := rfl
@[simp] theorem State.setSpindle_fly : (s.setSpindle n x).fly = s.fly := rfl
@[simp] theorem State.setSpindle_curves : (s.setSpindle n x).curves = s.curves := rfl
@[simp] theorem State.setSpindle_struck : (s.setSpindle n x).struck = s.struck := rfl
@[simp] theorem State.setSpindle_images : (s.setSpindle n x).images = s.images := rfl
@[simp] theorem State.setSpindle_imgState : (s.setSpindle n x).imgState = s.imgState := rfl
@[simp] theorem State.setSpindle_loading : (s.setSpindle n x).loading = s.loading := rfl
@[simp] theorem State.setSpindle_loadCtx : (s.setSpindle n x).loadCtx = s.loadCtx := rfl
@[simp] theorem State.setSpindle_loadResult : (s.setSpindle n x).loadResult = s.loadResult := rfl
@[simp] theorem State.setSpindle_loadAddr : (s.setSpindle n x).loadAddr = s.loadAddr := rfl
@[simp] theorem State.setSpindle_planCache : (s.setSpindle n x).planCache = s.planCache := rfl
@[simp] theorem State.setSpindle_lastRun : (s.setSpindle n x).lastRun = s.lastRun := rfl
@[simp] theorem State.setSpindle_lastBucket : (s.setSpindle n x).lastBucket = s.lastBucket := rfl
@[simp] theorem State.setSpindle_ctxs : (s.setSpindle n x).ctxs = s.ctxs := rfl
@[simp] theorem State.setSpindle_trns : (s.setSpindle n x).trns = s.trns := rfl
@[simp] theorem State.setSpindle_lsInit : (s.setSpindle n x).lsInit = s.lsInit := rfl
@[simp] theorem State.setSpindle_qps : (s.setSpindle n x).qps = s.qps := rfl
@[simp] theorem State.setSpindle_prts : (s.setSpindle n x).prts = s.prts := rfl
@[simp] theorem State.setSpindle_qpResult : (s.setSpindle n x).qpResult = s.qpResult := rfl
@[simp] theorem State.setSpindle_crds : (s.setSpindle n x).crds = s.crds := rfl
@[simp] theorem State.setSpindle_ply : (s.setSpindle n x).ply = s.ply := rfl
@[simp] theorem State.setSpindle_nvm : (s.setSpindle n x).nvm = s.nvm := rfl
@[simp] theorem State.setSpindle_ndy : (s.setSpindle n x).ndy = s.ndy := rfl
@[simp] theorem State.setSpindle_fuses : (s.setSpindle n x).fuses = s.fuses := rfl
@[simp] theorem State.setSpindle_whl : (s.setSpindle n x).whl = s.whl := rfl
@[simp] theorem State.setSpindle_pkg : (s.setSpindle n x).pkg = s.pkg := rfl
@[simp] theorem State.setSpindle_out : (s.setSpindle n x).out = s.out := rfl
end setSpindle

section setFlyer
variable (s : State) (f : Nat) (x : Fly)
@[simp] theorem State.setFlyer_pending : (s.setFlyer f x).pending = s.pending := rfl
@[simp] theorem State.setFlyer_tick : (s.setFlyer f x).tick = s.tick := rfl
@[simp] theorem State.setFlyer_wall : (s.setFlyer f x).wall = s.wall := rfl
@[simp] theorem State.setFlyer_cyc : (s.setFlyer f x).cyc = s.cyc := rfl
@[simp] theorem State.setFlyer_free : (s.setFlyer f x).free = s.free := rfl
@[simp] theorem State.setFlyer_ids : (s.setFlyer f x).ids = s.ids := rfl
@[simp] theorem State.setFlyer_reg : (s.setFlyer f x).reg = s.reg := rfl
@[simp] theorem State.setFlyer_mem : (s.setFlyer f x).mem = s.mem := rfl
@[simp] theorem State.setFlyer_errs : (s.setFlyer f x).errs = s.errs := rfl
@[simp] theorem State.setFlyer_skn : (s.setFlyer f x).skn = s.skn := rfl
@[simp] theorem State.setFlyer_dst : (s.setFlyer f x).dst = s.dst := rfl
@[simp] theorem State.setFlyer_gate : (s.setFlyer f x).gate = s.gate := rfl
@[simp] theorem State.setFlyer_pend : (s.setFlyer f x).pend = s.pend := rfl
@[simp] theorem State.setFlyer_rstBusy : (s.setFlyer f x).rstBusy = s.rstBusy := rfl
@[simp] theorem State.setFlyer_sleepReq : (s.setFlyer f x).sleepReq = s.sleepReq := rfl
@[simp] theorem State.setFlyer_asleep : (s.setFlyer f x).asleep = s.asleep := rfl
@[simp] theorem State.setFlyer_wakeAt : (s.setFlyer f x).wakeAt = s.wakeAt := rfl
@[simp] theorem State.setFlyer_run : (s.setFlyer f x).run = s.run := rfl
@[simp] theorem State.setFlyer_spare : (s.setFlyer f x).spare = s.spare := rfl
@[simp] theorem State.setFlyer_spareReq : (s.setFlyer f x).spareReq = s.spareReq := rfl
@[simp] theorem State.setFlyer_ready : (s.setFlyer f x).ready = s.ready := rfl
@[simp] theorem State.setFlyer_bobs : (s.setFlyer f x).bobs = s.bobs := rfl
@[simp] theorem State.setFlyer_turns : (s.setFlyer f x).turns = s.turns := rfl
@[simp] theorem State.setFlyer_fetchTurns : (s.setFlyer f x).fetchTurns = s.fetchTurns := rfl
@[simp] theorem State.setFlyer_barriers : (s.setFlyer f x).barriers = s.barriers := rfl
@[simp] theorem State.setFlyer_barrierAt : (s.setFlyer f x).barrierAt = s.barrierAt := rfl
@[simp] theorem State.setFlyer_holds : (s.setFlyer f x).holds = s.holds := rfl
@[simp] theorem State.setFlyer_epochs : (s.setFlyer f x).epochs = s.epochs := rfl
@[simp] theorem State.setFlyer_ports : (s.setFlyer f x).ports = s.ports := rfl
@[simp] theorem State.setFlyer_sched : (s.setFlyer f x).sched = s.sched := rfl
@[simp] theorem State.setFlyer_reports : (s.setFlyer f x).reports = s.reports := rfl
@[simp] theorem State.setFlyer_seqs : (s.setFlyer f x).seqs = s.seqs := rfl
@[simp] theorem State.setFlyer_rwp : (s.setFlyer f x).rwp = s.rwp := rfl
@[simp] theorem State.setFlyer_wear : (s.setFlyer f x).wear = s.wear := rfl
@[simp] theorem State.setFlyer_retireWait : (s.setFlyer f x).retireWait = s.retireWait := rfl
@[simp] theorem State.setFlyer_cause : (s.setFlyer f x).cause = s.cause := rfl
@[simp] theorem State.setFlyer_pllLock : (s.setFlyer f x).pllLock = s.pllLock := rfl
@[simp] theorem State.setFlyer_spread : (s.setFlyer f x).spread = s.spread := rfl
@[simp] theorem State.setFlyer_onRoot : (s.setFlyer f x).onRoot = s.onRoot := rfl
@[simp] theorem State.setFlyer_clocksOn : (s.setFlyer f x).clocksOn = s.clocksOn := rfl
@[simp] theorem State.setFlyer_fmRun : (s.setFlyer f x).fmRun = s.fmRun := rfl
@[simp] theorem State.setFlyer_fmDone : (s.setFlyer f x).fmDone = s.fmDone := rfl
@[simp] theorem State.setFlyer_fmResult : (s.setFlyer f x).fmResult = s.fmResult := rfl
@[simp] theorem State.setFlyer_driftOdd : (s.setFlyer f x).driftOdd = s.driftOdd := rfl
@[simp] theorem State.setFlyer_monLast : (s.setFlyer f x).monLast = s.monLast := rfl
@[simp] theorem State.setFlyer_fmt : (s.setFlyer f x).fmt = s.fmt := rfl
@[simp] theorem State.setFlyer_spn : (s.setFlyer f x).spn = s.spn := rfl
@[simp] theorem State.setFlyer_fly : (s.setFlyer f x).fly = mput s.fly f x {} := rfl
@[simp] theorem State.setFlyer_curves : (s.setFlyer f x).curves = s.curves := rfl
@[simp] theorem State.setFlyer_struck : (s.setFlyer f x).struck = s.struck := rfl
@[simp] theorem State.setFlyer_images : (s.setFlyer f x).images = s.images := rfl
@[simp] theorem State.setFlyer_imgState : (s.setFlyer f x).imgState = s.imgState := rfl
@[simp] theorem State.setFlyer_loading : (s.setFlyer f x).loading = s.loading := rfl
@[simp] theorem State.setFlyer_loadCtx : (s.setFlyer f x).loadCtx = s.loadCtx := rfl
@[simp] theorem State.setFlyer_loadResult : (s.setFlyer f x).loadResult = s.loadResult := rfl
@[simp] theorem State.setFlyer_loadAddr : (s.setFlyer f x).loadAddr = s.loadAddr := rfl
@[simp] theorem State.setFlyer_planCache : (s.setFlyer f x).planCache = s.planCache := rfl
@[simp] theorem State.setFlyer_lastRun : (s.setFlyer f x).lastRun = s.lastRun := rfl
@[simp] theorem State.setFlyer_lastBucket : (s.setFlyer f x).lastBucket = s.lastBucket := rfl
@[simp] theorem State.setFlyer_ctxs : (s.setFlyer f x).ctxs = s.ctxs := rfl
@[simp] theorem State.setFlyer_trns : (s.setFlyer f x).trns = s.trns := rfl
@[simp] theorem State.setFlyer_lsInit : (s.setFlyer f x).lsInit = s.lsInit := rfl
@[simp] theorem State.setFlyer_qps : (s.setFlyer f x).qps = s.qps := rfl
@[simp] theorem State.setFlyer_prts : (s.setFlyer f x).prts = s.prts := rfl
@[simp] theorem State.setFlyer_qpResult : (s.setFlyer f x).qpResult = s.qpResult := rfl
@[simp] theorem State.setFlyer_crds : (s.setFlyer f x).crds = s.crds := rfl
@[simp] theorem State.setFlyer_ply : (s.setFlyer f x).ply = s.ply := rfl
@[simp] theorem State.setFlyer_nvm : (s.setFlyer f x).nvm = s.nvm := rfl
@[simp] theorem State.setFlyer_ndy : (s.setFlyer f x).ndy = s.ndy := rfl
@[simp] theorem State.setFlyer_fuses : (s.setFlyer f x).fuses = s.fuses := rfl
@[simp] theorem State.setFlyer_whl : (s.setFlyer f x).whl = s.whl := rfl
@[simp] theorem State.setFlyer_pkg : (s.setFlyer f x).pkg = s.pkg := rfl
@[simp] theorem State.setFlyer_out : (s.setFlyer f x).out = s.out := rfl
end setFlyer

section setPly
variable (s : State) (c : PlyCmd)
@[simp] theorem State.setPly_pending : (s.setPly c).pending = s.pending := rfl
@[simp] theorem State.setPly_tick : (s.setPly c).tick = s.tick := rfl
@[simp] theorem State.setPly_wall : (s.setPly c).wall = s.wall := rfl
@[simp] theorem State.setPly_cyc : (s.setPly c).cyc = s.cyc := rfl
@[simp] theorem State.setPly_free : (s.setPly c).free = s.free := rfl
@[simp] theorem State.setPly_ids : (s.setPly c).ids = s.ids := rfl
@[simp] theorem State.setPly_reg : (s.setPly c).reg = s.reg := rfl
@[simp] theorem State.setPly_mem : (s.setPly c).mem = s.mem := rfl
@[simp] theorem State.setPly_errs : (s.setPly c).errs = s.errs := rfl
@[simp] theorem State.setPly_skn : (s.setPly c).skn = s.skn := rfl
@[simp] theorem State.setPly_dst : (s.setPly c).dst = s.dst := rfl
@[simp] theorem State.setPly_gate : (s.setPly c).gate = s.gate := rfl
@[simp] theorem State.setPly_pend : (s.setPly c).pend = s.pend := rfl
@[simp] theorem State.setPly_rstBusy : (s.setPly c).rstBusy = s.rstBusy := rfl
@[simp] theorem State.setPly_sleepReq : (s.setPly c).sleepReq = s.sleepReq := rfl
@[simp] theorem State.setPly_asleep : (s.setPly c).asleep = s.asleep := rfl
@[simp] theorem State.setPly_wakeAt : (s.setPly c).wakeAt = s.wakeAt := rfl
@[simp] theorem State.setPly_run : (s.setPly c).run = s.run := rfl
@[simp] theorem State.setPly_spare : (s.setPly c).spare = s.spare := rfl
@[simp] theorem State.setPly_spareReq : (s.setPly c).spareReq = s.spareReq := rfl
@[simp] theorem State.setPly_ready : (s.setPly c).ready = s.ready := rfl
@[simp] theorem State.setPly_bobs : (s.setPly c).bobs = s.bobs := rfl
@[simp] theorem State.setPly_turns : (s.setPly c).turns = s.turns := rfl
@[simp] theorem State.setPly_fetchTurns : (s.setPly c).fetchTurns = s.fetchTurns := rfl
@[simp] theorem State.setPly_barriers : (s.setPly c).barriers = s.barriers := rfl
@[simp] theorem State.setPly_barrierAt : (s.setPly c).barrierAt = s.barrierAt := rfl
@[simp] theorem State.setPly_holds : (s.setPly c).holds = s.holds := rfl
@[simp] theorem State.setPly_epochs : (s.setPly c).epochs = s.epochs := rfl
@[simp] theorem State.setPly_ports : (s.setPly c).ports = s.ports := rfl
@[simp] theorem State.setPly_sched : (s.setPly c).sched = s.sched := rfl
@[simp] theorem State.setPly_reports : (s.setPly c).reports = s.reports := rfl
@[simp] theorem State.setPly_seqs : (s.setPly c).seqs = s.seqs := rfl
@[simp] theorem State.setPly_rwp : (s.setPly c).rwp = s.rwp := rfl
@[simp] theorem State.setPly_wear : (s.setPly c).wear = s.wear := rfl
@[simp] theorem State.setPly_retireWait : (s.setPly c).retireWait = s.retireWait := rfl
@[simp] theorem State.setPly_cause : (s.setPly c).cause = s.cause := rfl
@[simp] theorem State.setPly_pllLock : (s.setPly c).pllLock = s.pllLock := rfl
@[simp] theorem State.setPly_spread : (s.setPly c).spread = s.spread := rfl
@[simp] theorem State.setPly_onRoot : (s.setPly c).onRoot = s.onRoot := rfl
@[simp] theorem State.setPly_clocksOn : (s.setPly c).clocksOn = s.clocksOn := rfl
@[simp] theorem State.setPly_fmRun : (s.setPly c).fmRun = s.fmRun := rfl
@[simp] theorem State.setPly_fmDone : (s.setPly c).fmDone = s.fmDone := rfl
@[simp] theorem State.setPly_fmResult : (s.setPly c).fmResult = s.fmResult := rfl
@[simp] theorem State.setPly_driftOdd : (s.setPly c).driftOdd = s.driftOdd := rfl
@[simp] theorem State.setPly_monLast : (s.setPly c).monLast = s.monLast := rfl
@[simp] theorem State.setPly_fmt : (s.setPly c).fmt = s.fmt := rfl
@[simp] theorem State.setPly_spn : (s.setPly c).spn = s.spn := rfl
@[simp] theorem State.setPly_fly : (s.setPly c).fly = s.fly := rfl
@[simp] theorem State.setPly_curves : (s.setPly c).curves = s.curves := rfl
@[simp] theorem State.setPly_struck : (s.setPly c).struck = s.struck := rfl
@[simp] theorem State.setPly_images : (s.setPly c).images = s.images := rfl
@[simp] theorem State.setPly_imgState : (s.setPly c).imgState = s.imgState := rfl
@[simp] theorem State.setPly_loading : (s.setPly c).loading = s.loading := rfl
@[simp] theorem State.setPly_loadCtx : (s.setPly c).loadCtx = s.loadCtx := rfl
@[simp] theorem State.setPly_loadResult : (s.setPly c).loadResult = s.loadResult := rfl
@[simp] theorem State.setPly_loadAddr : (s.setPly c).loadAddr = s.loadAddr := rfl
@[simp] theorem State.setPly_planCache : (s.setPly c).planCache = s.planCache := rfl
@[simp] theorem State.setPly_lastRun : (s.setPly c).lastRun = s.lastRun := rfl
@[simp] theorem State.setPly_lastBucket : (s.setPly c).lastBucket = s.lastBucket := rfl
@[simp] theorem State.setPly_ctxs : (s.setPly c).ctxs = s.ctxs := rfl
@[simp] theorem State.setPly_trns : (s.setPly c).trns = s.trns := rfl
@[simp] theorem State.setPly_lsInit : (s.setPly c).lsInit = s.lsInit := rfl
@[simp] theorem State.setPly_qps : (s.setPly c).qps = s.qps := rfl
@[simp] theorem State.setPly_prts : (s.setPly c).prts = s.prts := rfl
@[simp] theorem State.setPly_qpResult : (s.setPly c).qpResult = s.qpResult := rfl
@[simp] theorem State.setPly_crds : (s.setPly c).crds = s.crds := rfl
@[simp] theorem State.setPly_nvm : (s.setPly c).nvm = s.nvm := rfl
@[simp] theorem State.setPly_ndy : (s.setPly c).ndy = s.ndy := rfl
@[simp] theorem State.setPly_fuses : (s.setPly c).fuses = s.fuses := rfl
@[simp] theorem State.setPly_whl : (s.setPly c).whl = s.whl := rfl
@[simp] theorem State.setPly_pkg : (s.setPly c).pkg = s.pkg := rfl
@[simp] theorem State.setPly_out : (s.setPly c).out = s.out := rfl
end setPly

section setNdy
variable (s : State) (f : Ndy → Ndy)
@[simp] theorem setNdy_pending : (setNdy f s).pending = s.pending := rfl
@[simp] theorem setNdy_tick : (setNdy f s).tick = s.tick := rfl
@[simp] theorem setNdy_wall : (setNdy f s).wall = s.wall := rfl
@[simp] theorem setNdy_cyc : (setNdy f s).cyc = s.cyc := rfl
@[simp] theorem setNdy_free : (setNdy f s).free = s.free := rfl
@[simp] theorem setNdy_ids : (setNdy f s).ids = s.ids := rfl
@[simp] theorem setNdy_reg : (setNdy f s).reg = s.reg := rfl
@[simp] theorem setNdy_mem : (setNdy f s).mem = s.mem := rfl
@[simp] theorem setNdy_errs : (setNdy f s).errs = s.errs := rfl
@[simp] theorem setNdy_skn : (setNdy f s).skn = s.skn := rfl
@[simp] theorem setNdy_dst : (setNdy f s).dst = s.dst := rfl
@[simp] theorem setNdy_gate : (setNdy f s).gate = s.gate := rfl
@[simp] theorem setNdy_pend : (setNdy f s).pend = s.pend := rfl
@[simp] theorem setNdy_rstBusy : (setNdy f s).rstBusy = s.rstBusy := rfl
@[simp] theorem setNdy_sleepReq : (setNdy f s).sleepReq = s.sleepReq := rfl
@[simp] theorem setNdy_asleep : (setNdy f s).asleep = s.asleep := rfl
@[simp] theorem setNdy_wakeAt : (setNdy f s).wakeAt = s.wakeAt := rfl
@[simp] theorem setNdy_run : (setNdy f s).run = s.run := rfl
@[simp] theorem setNdy_spare : (setNdy f s).spare = s.spare := rfl
@[simp] theorem setNdy_spareReq : (setNdy f s).spareReq = s.spareReq := rfl
@[simp] theorem setNdy_ready : (setNdy f s).ready = s.ready := rfl
@[simp] theorem setNdy_bobs : (setNdy f s).bobs = s.bobs := rfl
@[simp] theorem setNdy_turns : (setNdy f s).turns = s.turns := rfl
@[simp] theorem setNdy_fetchTurns : (setNdy f s).fetchTurns = s.fetchTurns := rfl
@[simp] theorem setNdy_barriers : (setNdy f s).barriers = s.barriers := rfl
@[simp] theorem setNdy_barrierAt : (setNdy f s).barrierAt = s.barrierAt := rfl
@[simp] theorem setNdy_holds : (setNdy f s).holds = s.holds := rfl
@[simp] theorem setNdy_epochs : (setNdy f s).epochs = s.epochs := rfl
@[simp] theorem setNdy_ports : (setNdy f s).ports = s.ports := rfl
@[simp] theorem setNdy_sched : (setNdy f s).sched = s.sched := rfl
@[simp] theorem setNdy_reports : (setNdy f s).reports = s.reports := rfl
@[simp] theorem setNdy_seqs : (setNdy f s).seqs = s.seqs := rfl
@[simp] theorem setNdy_rwp : (setNdy f s).rwp = s.rwp := rfl
@[simp] theorem setNdy_wear : (setNdy f s).wear = s.wear := rfl
@[simp] theorem setNdy_retireWait : (setNdy f s).retireWait = s.retireWait := rfl
@[simp] theorem setNdy_cause : (setNdy f s).cause = s.cause := rfl
@[simp] theorem setNdy_pllLock : (setNdy f s).pllLock = s.pllLock := rfl
@[simp] theorem setNdy_spread : (setNdy f s).spread = s.spread := rfl
@[simp] theorem setNdy_onRoot : (setNdy f s).onRoot = s.onRoot := rfl
@[simp] theorem setNdy_clocksOn : (setNdy f s).clocksOn = s.clocksOn := rfl
@[simp] theorem setNdy_fmRun : (setNdy f s).fmRun = s.fmRun := rfl
@[simp] theorem setNdy_fmDone : (setNdy f s).fmDone = s.fmDone := rfl
@[simp] theorem setNdy_fmResult : (setNdy f s).fmResult = s.fmResult := rfl
@[simp] theorem setNdy_driftOdd : (setNdy f s).driftOdd = s.driftOdd := rfl
@[simp] theorem setNdy_monLast : (setNdy f s).monLast = s.monLast := rfl
@[simp] theorem setNdy_fmt : (setNdy f s).fmt = s.fmt := rfl
@[simp] theorem setNdy_spn : (setNdy f s).spn = s.spn := rfl
@[simp] theorem setNdy_fly : (setNdy f s).fly = s.fly := rfl
@[simp] theorem setNdy_curves : (setNdy f s).curves = s.curves := rfl
@[simp] theorem setNdy_struck : (setNdy f s).struck = s.struck := rfl
@[simp] theorem setNdy_images : (setNdy f s).images = s.images := rfl
@[simp] theorem setNdy_imgState : (setNdy f s).imgState = s.imgState := rfl
@[simp] theorem setNdy_loading : (setNdy f s).loading = s.loading := rfl
@[simp] theorem setNdy_loadCtx : (setNdy f s).loadCtx = s.loadCtx := rfl
@[simp] theorem setNdy_loadResult : (setNdy f s).loadResult = s.loadResult := rfl
@[simp] theorem setNdy_loadAddr : (setNdy f s).loadAddr = s.loadAddr := rfl
@[simp] theorem setNdy_planCache : (setNdy f s).planCache = s.planCache := rfl
@[simp] theorem setNdy_lastRun : (setNdy f s).lastRun = s.lastRun := rfl
@[simp] theorem setNdy_lastBucket : (setNdy f s).lastBucket = s.lastBucket := rfl
@[simp] theorem setNdy_ctxs : (setNdy f s).ctxs = s.ctxs := rfl
@[simp] theorem setNdy_trns : (setNdy f s).trns = s.trns := rfl
@[simp] theorem setNdy_lsInit : (setNdy f s).lsInit = s.lsInit := rfl
@[simp] theorem setNdy_qps : (setNdy f s).qps = s.qps := rfl
@[simp] theorem setNdy_prts : (setNdy f s).prts = s.prts := rfl
@[simp] theorem setNdy_qpResult : (setNdy f s).qpResult = s.qpResult := rfl
@[simp] theorem setNdy_crds : (setNdy f s).crds = s.crds := rfl
@[simp] theorem setNdy_ply : (setNdy f s).ply = s.ply := rfl
@[simp] theorem setNdy_nvm : (setNdy f s).nvm = s.nvm := rfl
@[simp] theorem setNdy_ndy : (setNdy f s).ndy = f s.ndy := rfl
@[simp] theorem setNdy_fuses : (setNdy f s).fuses = s.fuses := rfl
@[simp] theorem setNdy_whl : (setNdy f s).whl = s.whl := rfl
@[simp] theorem setNdy_pkg : (setNdy f s).pkg = s.pkg := rfl
@[simp] theorem setNdy_out : (setNdy f s).out = s.out := rfl
end setNdy

section setPkg
variable (s : State) (f : Pkg → Pkg)
@[simp] theorem setPkg_pending : (setPkg f s).pending = s.pending := rfl
@[simp] theorem setPkg_tick : (setPkg f s).tick = s.tick := rfl
@[simp] theorem setPkg_wall : (setPkg f s).wall = s.wall := rfl
@[simp] theorem setPkg_cyc : (setPkg f s).cyc = s.cyc := rfl
@[simp] theorem setPkg_free : (setPkg f s).free = s.free := rfl
@[simp] theorem setPkg_ids : (setPkg f s).ids = s.ids := rfl
@[simp] theorem setPkg_reg : (setPkg f s).reg = s.reg := rfl
@[simp] theorem setPkg_mem : (setPkg f s).mem = s.mem := rfl
@[simp] theorem setPkg_errs : (setPkg f s).errs = s.errs := rfl
@[simp] theorem setPkg_skn : (setPkg f s).skn = s.skn := rfl
@[simp] theorem setPkg_dst : (setPkg f s).dst = s.dst := rfl
@[simp] theorem setPkg_gate : (setPkg f s).gate = s.gate := rfl
@[simp] theorem setPkg_pend : (setPkg f s).pend = s.pend := rfl
@[simp] theorem setPkg_rstBusy : (setPkg f s).rstBusy = s.rstBusy := rfl
@[simp] theorem setPkg_sleepReq : (setPkg f s).sleepReq = s.sleepReq := rfl
@[simp] theorem setPkg_asleep : (setPkg f s).asleep = s.asleep := rfl
@[simp] theorem setPkg_wakeAt : (setPkg f s).wakeAt = s.wakeAt := rfl
@[simp] theorem setPkg_run : (setPkg f s).run = s.run := rfl
@[simp] theorem setPkg_spare : (setPkg f s).spare = s.spare := rfl
@[simp] theorem setPkg_spareReq : (setPkg f s).spareReq = s.spareReq := rfl
@[simp] theorem setPkg_ready : (setPkg f s).ready = s.ready := rfl
@[simp] theorem setPkg_bobs : (setPkg f s).bobs = s.bobs := rfl
@[simp] theorem setPkg_turns : (setPkg f s).turns = s.turns := rfl
@[simp] theorem setPkg_fetchTurns : (setPkg f s).fetchTurns = s.fetchTurns := rfl
@[simp] theorem setPkg_barriers : (setPkg f s).barriers = s.barriers := rfl
@[simp] theorem setPkg_barrierAt : (setPkg f s).barrierAt = s.barrierAt := rfl
@[simp] theorem setPkg_holds : (setPkg f s).holds = s.holds := rfl
@[simp] theorem setPkg_epochs : (setPkg f s).epochs = s.epochs := rfl
@[simp] theorem setPkg_ports : (setPkg f s).ports = s.ports := rfl
@[simp] theorem setPkg_sched : (setPkg f s).sched = s.sched := rfl
@[simp] theorem setPkg_reports : (setPkg f s).reports = s.reports := rfl
@[simp] theorem setPkg_seqs : (setPkg f s).seqs = s.seqs := rfl
@[simp] theorem setPkg_rwp : (setPkg f s).rwp = s.rwp := rfl
@[simp] theorem setPkg_wear : (setPkg f s).wear = s.wear := rfl
@[simp] theorem setPkg_retireWait : (setPkg f s).retireWait = s.retireWait := rfl
@[simp] theorem setPkg_cause : (setPkg f s).cause = s.cause := rfl
@[simp] theorem setPkg_pllLock : (setPkg f s).pllLock = s.pllLock := rfl
@[simp] theorem setPkg_spread : (setPkg f s).spread = s.spread := rfl
@[simp] theorem setPkg_onRoot : (setPkg f s).onRoot = s.onRoot := rfl
@[simp] theorem setPkg_clocksOn : (setPkg f s).clocksOn = s.clocksOn := rfl
@[simp] theorem setPkg_fmRun : (setPkg f s).fmRun = s.fmRun := rfl
@[simp] theorem setPkg_fmDone : (setPkg f s).fmDone = s.fmDone := rfl
@[simp] theorem setPkg_fmResult : (setPkg f s).fmResult = s.fmResult := rfl
@[simp] theorem setPkg_driftOdd : (setPkg f s).driftOdd = s.driftOdd := rfl
@[simp] theorem setPkg_monLast : (setPkg f s).monLast = s.monLast := rfl
@[simp] theorem setPkg_fmt : (setPkg f s).fmt = s.fmt := rfl
@[simp] theorem setPkg_spn : (setPkg f s).spn = s.spn := rfl
@[simp] theorem setPkg_fly : (setPkg f s).fly = s.fly := rfl
@[simp] theorem setPkg_curves : (setPkg f s).curves = s.curves := rfl
@[simp] theorem setPkg_struck : (setPkg f s).struck = s.struck := rfl
@[simp] theorem setPkg_images : (setPkg f s).images = s.images := rfl
@[simp] theorem setPkg_imgState : (setPkg f s).imgState = s.imgState := rfl
@[simp] theorem setPkg_loading : (setPkg f s).loading = s.loading := rfl
@[simp] theorem setPkg_loadCtx : (setPkg f s).loadCtx = s.loadCtx := rfl
@[simp] theorem setPkg_loadResult : (setPkg f s).loadResult = s.loadResult := rfl
@[simp] theorem setPkg_loadAddr : (setPkg f s).loadAddr = s.loadAddr := rfl
@[simp] theorem setPkg_planCache : (setPkg f s).planCache = s.planCache := rfl
@[simp] theorem setPkg_lastRun : (setPkg f s).lastRun = s.lastRun := rfl
@[simp] theorem setPkg_lastBucket : (setPkg f s).lastBucket = s.lastBucket := rfl
@[simp] theorem setPkg_ctxs : (setPkg f s).ctxs = s.ctxs := rfl
@[simp] theorem setPkg_trns : (setPkg f s).trns = s.trns := rfl
@[simp] theorem setPkg_lsInit : (setPkg f s).lsInit = s.lsInit := rfl
@[simp] theorem setPkg_qps : (setPkg f s).qps = s.qps := rfl
@[simp] theorem setPkg_prts : (setPkg f s).prts = s.prts := rfl
@[simp] theorem setPkg_qpResult : (setPkg f s).qpResult = s.qpResult := rfl
@[simp] theorem setPkg_crds : (setPkg f s).crds = s.crds := rfl
@[simp] theorem setPkg_ply : (setPkg f s).ply = s.ply := rfl
@[simp] theorem setPkg_nvm : (setPkg f s).nvm = s.nvm := rfl
@[simp] theorem setPkg_ndy : (setPkg f s).ndy = s.ndy := rfl
@[simp] theorem setPkg_fuses : (setPkg f s).fuses = s.fuses := rfl
@[simp] theorem setPkg_whl : (setPkg f s).whl = s.whl := rfl
@[simp] theorem setPkg_pkg : (setPkg f s).pkg = f s.pkg := rfl
@[simp] theorem setPkg_out : (setPkg f s).out = s.out := rfl
end setPkg

section bumpFree
variable (s : State)
@[simp] theorem State.bumpFree_pending : (s.bumpFree).pending = s.pending := rfl
@[simp] theorem State.bumpFree_tick : (s.bumpFree).tick = s.tick := rfl
@[simp] theorem State.bumpFree_wall : (s.bumpFree).wall = s.wall := rfl
@[simp] theorem State.bumpFree_cyc : (s.bumpFree).cyc = s.cyc := rfl
@[simp] theorem State.bumpFree_free : (s.bumpFree).free = s.free + 1 := rfl
@[simp] theorem State.bumpFree_ids : (s.bumpFree).ids = s.ids := rfl
@[simp] theorem State.bumpFree_reg : (s.bumpFree).reg = s.reg := rfl
@[simp] theorem State.bumpFree_mem : (s.bumpFree).mem = s.mem := rfl
@[simp] theorem State.bumpFree_errs : (s.bumpFree).errs = s.errs := rfl
@[simp] theorem State.bumpFree_skn : (s.bumpFree).skn = s.skn := rfl
@[simp] theorem State.bumpFree_dst : (s.bumpFree).dst = s.dst := rfl
@[simp] theorem State.bumpFree_gate : (s.bumpFree).gate = s.gate := rfl
@[simp] theorem State.bumpFree_pend : (s.bumpFree).pend = s.pend := rfl
@[simp] theorem State.bumpFree_rstBusy : (s.bumpFree).rstBusy = s.rstBusy := rfl
@[simp] theorem State.bumpFree_sleepReq : (s.bumpFree).sleepReq = s.sleepReq := rfl
@[simp] theorem State.bumpFree_asleep : (s.bumpFree).asleep = s.asleep := rfl
@[simp] theorem State.bumpFree_wakeAt : (s.bumpFree).wakeAt = s.wakeAt := rfl
@[simp] theorem State.bumpFree_run : (s.bumpFree).run = s.run := rfl
@[simp] theorem State.bumpFree_spare : (s.bumpFree).spare = s.spare := rfl
@[simp] theorem State.bumpFree_spareReq : (s.bumpFree).spareReq = s.spareReq := rfl
@[simp] theorem State.bumpFree_ready : (s.bumpFree).ready = s.ready := rfl
@[simp] theorem State.bumpFree_bobs : (s.bumpFree).bobs = s.bobs := rfl
@[simp] theorem State.bumpFree_turns : (s.bumpFree).turns = s.turns := rfl
@[simp] theorem State.bumpFree_fetchTurns : (s.bumpFree).fetchTurns = s.fetchTurns := rfl
@[simp] theorem State.bumpFree_barriers : (s.bumpFree).barriers = s.barriers := rfl
@[simp] theorem State.bumpFree_barrierAt : (s.bumpFree).barrierAt = s.barrierAt := rfl
@[simp] theorem State.bumpFree_holds : (s.bumpFree).holds = s.holds := rfl
@[simp] theorem State.bumpFree_epochs : (s.bumpFree).epochs = s.epochs := rfl
@[simp] theorem State.bumpFree_ports : (s.bumpFree).ports = s.ports := rfl
@[simp] theorem State.bumpFree_sched : (s.bumpFree).sched = s.sched := rfl
@[simp] theorem State.bumpFree_reports : (s.bumpFree).reports = s.reports := rfl
@[simp] theorem State.bumpFree_seqs : (s.bumpFree).seqs = s.seqs := rfl
@[simp] theorem State.bumpFree_rwp : (s.bumpFree).rwp = s.rwp := rfl
@[simp] theorem State.bumpFree_wear : (s.bumpFree).wear = s.wear := rfl
@[simp] theorem State.bumpFree_retireWait : (s.bumpFree).retireWait = s.retireWait := rfl
@[simp] theorem State.bumpFree_cause : (s.bumpFree).cause = s.cause := rfl
@[simp] theorem State.bumpFree_pllLock : (s.bumpFree).pllLock = s.pllLock := rfl
@[simp] theorem State.bumpFree_spread : (s.bumpFree).spread = s.spread := rfl
@[simp] theorem State.bumpFree_onRoot : (s.bumpFree).onRoot = s.onRoot := rfl
@[simp] theorem State.bumpFree_clocksOn : (s.bumpFree).clocksOn = s.clocksOn := rfl
@[simp] theorem State.bumpFree_fmRun : (s.bumpFree).fmRun = s.fmRun := rfl
@[simp] theorem State.bumpFree_fmDone : (s.bumpFree).fmDone = s.fmDone := rfl
@[simp] theorem State.bumpFree_fmResult : (s.bumpFree).fmResult = s.fmResult := rfl
@[simp] theorem State.bumpFree_driftOdd : (s.bumpFree).driftOdd = s.driftOdd := rfl
@[simp] theorem State.bumpFree_monLast : (s.bumpFree).monLast = s.monLast := rfl
@[simp] theorem State.bumpFree_fmt : (s.bumpFree).fmt = s.fmt := rfl
@[simp] theorem State.bumpFree_spn : (s.bumpFree).spn = s.spn := rfl
@[simp] theorem State.bumpFree_fly : (s.bumpFree).fly = s.fly := rfl
@[simp] theorem State.bumpFree_curves : (s.bumpFree).curves = s.curves := rfl
@[simp] theorem State.bumpFree_struck : (s.bumpFree).struck = s.struck := rfl
@[simp] theorem State.bumpFree_images : (s.bumpFree).images = s.images := rfl
@[simp] theorem State.bumpFree_imgState : (s.bumpFree).imgState = s.imgState := rfl
@[simp] theorem State.bumpFree_loading : (s.bumpFree).loading = s.loading := rfl
@[simp] theorem State.bumpFree_loadCtx : (s.bumpFree).loadCtx = s.loadCtx := rfl
@[simp] theorem State.bumpFree_loadResult : (s.bumpFree).loadResult = s.loadResult := rfl
@[simp] theorem State.bumpFree_loadAddr : (s.bumpFree).loadAddr = s.loadAddr := rfl
@[simp] theorem State.bumpFree_planCache : (s.bumpFree).planCache = s.planCache := rfl
@[simp] theorem State.bumpFree_lastRun : (s.bumpFree).lastRun = s.lastRun := rfl
@[simp] theorem State.bumpFree_lastBucket : (s.bumpFree).lastBucket = s.lastBucket := rfl
@[simp] theorem State.bumpFree_ctxs : (s.bumpFree).ctxs = s.ctxs := rfl
@[simp] theorem State.bumpFree_trns : (s.bumpFree).trns = s.trns := rfl
@[simp] theorem State.bumpFree_lsInit : (s.bumpFree).lsInit = s.lsInit := rfl
@[simp] theorem State.bumpFree_qps : (s.bumpFree).qps = s.qps := rfl
@[simp] theorem State.bumpFree_prts : (s.bumpFree).prts = s.prts := rfl
@[simp] theorem State.bumpFree_qpResult : (s.bumpFree).qpResult = s.qpResult := rfl
@[simp] theorem State.bumpFree_crds : (s.bumpFree).crds = s.crds := rfl
@[simp] theorem State.bumpFree_ply : (s.bumpFree).ply = s.ply := rfl
@[simp] theorem State.bumpFree_nvm : (s.bumpFree).nvm = s.nvm := rfl
@[simp] theorem State.bumpFree_ndy : (s.bumpFree).ndy = s.ndy := rfl
@[simp] theorem State.bumpFree_fuses : (s.bumpFree).fuses = s.fuses := rfl
@[simp] theorem State.bumpFree_whl : (s.bumpFree).whl = s.whl := rfl
@[simp] theorem State.bumpFree_pkg : (s.bumpFree).pkg = s.pkg := rfl
@[simp] theorem State.bumpFree_out : (s.bumpFree).out = s.out := rfl
end bumpFree

section bumpId
variable (s : State)
@[simp] theorem State.bumpId_pending : (s.bumpId).pending = s.pending := rfl
@[simp] theorem State.bumpId_tick : (s.bumpId).tick = s.tick := rfl
@[simp] theorem State.bumpId_wall : (s.bumpId).wall = s.wall := rfl
@[simp] theorem State.bumpId_cyc : (s.bumpId).cyc = s.cyc := rfl
@[simp] theorem State.bumpId_free : (s.bumpId).free = s.free := rfl
@[simp] theorem State.bumpId_ids : (s.bumpId).ids = s.ids + 1 := rfl
@[simp] theorem State.bumpId_reg : (s.bumpId).reg = s.reg := rfl
@[simp] theorem State.bumpId_mem : (s.bumpId).mem = s.mem := rfl
@[simp] theorem State.bumpId_errs : (s.bumpId).errs = s.errs := rfl
@[simp] theorem State.bumpId_skn : (s.bumpId).skn = s.skn := rfl
@[simp] theorem State.bumpId_dst : (s.bumpId).dst = s.dst := rfl
@[simp] theorem State.bumpId_gate : (s.bumpId).gate = s.gate := rfl
@[simp] theorem State.bumpId_pend : (s.bumpId).pend = s.pend := rfl
@[simp] theorem State.bumpId_rstBusy : (s.bumpId).rstBusy = s.rstBusy := rfl
@[simp] theorem State.bumpId_sleepReq : (s.bumpId).sleepReq = s.sleepReq := rfl
@[simp] theorem State.bumpId_asleep : (s.bumpId).asleep = s.asleep := rfl
@[simp] theorem State.bumpId_wakeAt : (s.bumpId).wakeAt = s.wakeAt := rfl
@[simp] theorem State.bumpId_run : (s.bumpId).run = s.run := rfl
@[simp] theorem State.bumpId_spare : (s.bumpId).spare = s.spare := rfl
@[simp] theorem State.bumpId_spareReq : (s.bumpId).spareReq = s.spareReq := rfl
@[simp] theorem State.bumpId_ready : (s.bumpId).ready = s.ready := rfl
@[simp] theorem State.bumpId_bobs : (s.bumpId).bobs = s.bobs := rfl
@[simp] theorem State.bumpId_turns : (s.bumpId).turns = s.turns := rfl
@[simp] theorem State.bumpId_fetchTurns : (s.bumpId).fetchTurns = s.fetchTurns := rfl
@[simp] theorem State.bumpId_barriers : (s.bumpId).barriers = s.barriers := rfl
@[simp] theorem State.bumpId_barrierAt : (s.bumpId).barrierAt = s.barrierAt := rfl
@[simp] theorem State.bumpId_holds : (s.bumpId).holds = s.holds := rfl
@[simp] theorem State.bumpId_epochs : (s.bumpId).epochs = s.epochs := rfl
@[simp] theorem State.bumpId_ports : (s.bumpId).ports = s.ports := rfl
@[simp] theorem State.bumpId_sched : (s.bumpId).sched = s.sched := rfl
@[simp] theorem State.bumpId_reports : (s.bumpId).reports = s.reports := rfl
@[simp] theorem State.bumpId_seqs : (s.bumpId).seqs = s.seqs := rfl
@[simp] theorem State.bumpId_rwp : (s.bumpId).rwp = s.rwp := rfl
@[simp] theorem State.bumpId_wear : (s.bumpId).wear = s.wear := rfl
@[simp] theorem State.bumpId_retireWait : (s.bumpId).retireWait = s.retireWait := rfl
@[simp] theorem State.bumpId_cause : (s.bumpId).cause = s.cause := rfl
@[simp] theorem State.bumpId_pllLock : (s.bumpId).pllLock = s.pllLock := rfl
@[simp] theorem State.bumpId_spread : (s.bumpId).spread = s.spread := rfl
@[simp] theorem State.bumpId_onRoot : (s.bumpId).onRoot = s.onRoot := rfl
@[simp] theorem State.bumpId_clocksOn : (s.bumpId).clocksOn = s.clocksOn := rfl
@[simp] theorem State.bumpId_fmRun : (s.bumpId).fmRun = s.fmRun := rfl
@[simp] theorem State.bumpId_fmDone : (s.bumpId).fmDone = s.fmDone := rfl
@[simp] theorem State.bumpId_fmResult : (s.bumpId).fmResult = s.fmResult := rfl
@[simp] theorem State.bumpId_driftOdd : (s.bumpId).driftOdd = s.driftOdd := rfl
@[simp] theorem State.bumpId_monLast : (s.bumpId).monLast = s.monLast := rfl
@[simp] theorem State.bumpId_fmt : (s.bumpId).fmt = s.fmt := rfl
@[simp] theorem State.bumpId_spn : (s.bumpId).spn = s.spn := rfl
@[simp] theorem State.bumpId_fly : (s.bumpId).fly = s.fly := rfl
@[simp] theorem State.bumpId_curves : (s.bumpId).curves = s.curves := rfl
@[simp] theorem State.bumpId_struck : (s.bumpId).struck = s.struck := rfl
@[simp] theorem State.bumpId_images : (s.bumpId).images = s.images := rfl
@[simp] theorem State.bumpId_imgState : (s.bumpId).imgState = s.imgState := rfl
@[simp] theorem State.bumpId_loading : (s.bumpId).loading = s.loading := rfl
@[simp] theorem State.bumpId_loadCtx : (s.bumpId).loadCtx = s.loadCtx := rfl
@[simp] theorem State.bumpId_loadResult : (s.bumpId).loadResult = s.loadResult := rfl
@[simp] theorem State.bumpId_loadAddr : (s.bumpId).loadAddr = s.loadAddr := rfl
@[simp] theorem State.bumpId_planCache : (s.bumpId).planCache = s.planCache := rfl
@[simp] theorem State.bumpId_lastRun : (s.bumpId).lastRun = s.lastRun := rfl
@[simp] theorem State.bumpId_lastBucket : (s.bumpId).lastBucket = s.lastBucket := rfl
@[simp] theorem State.bumpId_ctxs : (s.bumpId).ctxs = s.ctxs := rfl
@[simp] theorem State.bumpId_trns : (s.bumpId).trns = s.trns := rfl
@[simp] theorem State.bumpId_lsInit : (s.bumpId).lsInit = s.lsInit := rfl
@[simp] theorem State.bumpId_qps : (s.bumpId).qps = s.qps := rfl
@[simp] theorem State.bumpId_prts : (s.bumpId).prts = s.prts := rfl
@[simp] theorem State.bumpId_qpResult : (s.bumpId).qpResult = s.qpResult := rfl
@[simp] theorem State.bumpId_crds : (s.bumpId).crds = s.crds := rfl
@[simp] theorem State.bumpId_ply : (s.bumpId).ply = s.ply := rfl
@[simp] theorem State.bumpId_nvm : (s.bumpId).nvm = s.nvm := rfl
@[simp] theorem State.bumpId_ndy : (s.bumpId).ndy = s.ndy := rfl
@[simp] theorem State.bumpId_fuses : (s.bumpId).fuses = s.fuses := rfl
@[simp] theorem State.bumpId_whl : (s.bumpId).whl = s.whl := rfl
@[simp] theorem State.bumpId_pkg : (s.bumpId).pkg = s.pkg := rfl
@[simp] theorem State.bumpId_out : (s.bumpId).out = s.out := rfl
end bumpId

section clearStruck
variable (s : State)
@[simp] theorem clearStruck_pending : (clearStruck s).pending = s.pending := rfl
@[simp] theorem clearStruck_tick : (clearStruck s).tick = s.tick := rfl
@[simp] theorem clearStruck_wall : (clearStruck s).wall = s.wall := rfl
@[simp] theorem clearStruck_cyc : (clearStruck s).cyc = s.cyc := rfl
@[simp] theorem clearStruck_free : (clearStruck s).free = s.free := rfl
@[simp] theorem clearStruck_ids : (clearStruck s).ids = s.ids := rfl
@[simp] theorem clearStruck_reg : (clearStruck s).reg = s.reg := rfl
@[simp] theorem clearStruck_mem : (clearStruck s).mem = s.mem := rfl
@[simp] theorem clearStruck_errs : (clearStruck s).errs = s.errs := rfl
@[simp] theorem clearStruck_skn : (clearStruck s).skn = s.skn := rfl
@[simp] theorem clearStruck_dst : (clearStruck s).dst = s.dst := rfl
@[simp] theorem clearStruck_gate : (clearStruck s).gate = s.gate := rfl
@[simp] theorem clearStruck_pend : (clearStruck s).pend = s.pend := rfl
@[simp] theorem clearStruck_rstBusy : (clearStruck s).rstBusy = s.rstBusy := rfl
@[simp] theorem clearStruck_sleepReq : (clearStruck s).sleepReq = s.sleepReq := rfl
@[simp] theorem clearStruck_asleep : (clearStruck s).asleep = s.asleep := rfl
@[simp] theorem clearStruck_wakeAt : (clearStruck s).wakeAt = s.wakeAt := rfl
@[simp] theorem clearStruck_run : (clearStruck s).run = s.run := rfl
@[simp] theorem clearStruck_spare : (clearStruck s).spare = s.spare := rfl
@[simp] theorem clearStruck_spareReq : (clearStruck s).spareReq = s.spareReq := rfl
@[simp] theorem clearStruck_ready : (clearStruck s).ready = s.ready := rfl
@[simp] theorem clearStruck_bobs : (clearStruck s).bobs = s.bobs := rfl
@[simp] theorem clearStruck_turns : (clearStruck s).turns = s.turns := rfl
@[simp] theorem clearStruck_fetchTurns : (clearStruck s).fetchTurns = s.fetchTurns := rfl
@[simp] theorem clearStruck_barriers : (clearStruck s).barriers = s.barriers := rfl
@[simp] theorem clearStruck_barrierAt : (clearStruck s).barrierAt = s.barrierAt := rfl
@[simp] theorem clearStruck_holds : (clearStruck s).holds = s.holds := rfl
@[simp] theorem clearStruck_epochs : (clearStruck s).epochs = s.epochs := rfl
@[simp] theorem clearStruck_ports : (clearStruck s).ports = s.ports := rfl
@[simp] theorem clearStruck_sched : (clearStruck s).sched = s.sched := rfl
@[simp] theorem clearStruck_reports : (clearStruck s).reports = s.reports := rfl
@[simp] theorem clearStruck_seqs : (clearStruck s).seqs = s.seqs := rfl
@[simp] theorem clearStruck_rwp : (clearStruck s).rwp = s.rwp := rfl
@[simp] theorem clearStruck_wear : (clearStruck s).wear = s.wear := rfl
@[simp] theorem clearStruck_retireWait : (clearStruck s).retireWait = s.retireWait := rfl
@[simp] theorem clearStruck_cause : (clearStruck s).cause = s.cause := rfl
@[simp] theorem clearStruck_pllLock : (clearStruck s).pllLock = s.pllLock := rfl
@[simp] theorem clearStruck_spread : (clearStruck s).spread = s.spread := rfl
@[simp] theorem clearStruck_onRoot : (clearStruck s).onRoot = s.onRoot := rfl
@[simp] theorem clearStruck_clocksOn : (clearStruck s).clocksOn = s.clocksOn := rfl
@[simp] theorem clearStruck_fmRun : (clearStruck s).fmRun = s.fmRun := rfl
@[simp] theorem clearStruck_fmDone : (clearStruck s).fmDone = s.fmDone := rfl
@[simp] theorem clearStruck_fmResult : (clearStruck s).fmResult = s.fmResult := rfl
@[simp] theorem clearStruck_driftOdd : (clearStruck s).driftOdd = s.driftOdd := rfl
@[simp] theorem clearStruck_monLast : (clearStruck s).monLast = s.monLast := rfl
@[simp] theorem clearStruck_fmt : (clearStruck s).fmt = s.fmt := rfl
@[simp] theorem clearStruck_spn : (clearStruck s).spn = s.spn := rfl
@[simp] theorem clearStruck_fly : (clearStruck s).fly = s.fly := rfl
@[simp] theorem clearStruck_curves : (clearStruck s).curves = s.curves := rfl
@[simp] theorem clearStruck_struck : (clearStruck s).struck = [] := rfl
@[simp] theorem clearStruck_images : (clearStruck s).images = s.images := rfl
@[simp] theorem clearStruck_imgState : (clearStruck s).imgState = s.imgState := rfl
@[simp] theorem clearStruck_loading : (clearStruck s).loading = s.loading := rfl
@[simp] theorem clearStruck_loadCtx : (clearStruck s).loadCtx = s.loadCtx := rfl
@[simp] theorem clearStruck_loadResult : (clearStruck s).loadResult = s.loadResult := rfl
@[simp] theorem clearStruck_loadAddr : (clearStruck s).loadAddr = s.loadAddr := rfl
@[simp] theorem clearStruck_planCache : (clearStruck s).planCache = s.planCache := rfl
@[simp] theorem clearStruck_lastRun : (clearStruck s).lastRun = s.lastRun := rfl
@[simp] theorem clearStruck_lastBucket : (clearStruck s).lastBucket = s.lastBucket := rfl
@[simp] theorem clearStruck_ctxs : (clearStruck s).ctxs = s.ctxs := rfl
@[simp] theorem clearStruck_trns : (clearStruck s).trns = s.trns := rfl
@[simp] theorem clearStruck_lsInit : (clearStruck s).lsInit = s.lsInit := rfl
@[simp] theorem clearStruck_qps : (clearStruck s).qps = s.qps := rfl
@[simp] theorem clearStruck_prts : (clearStruck s).prts = s.prts := rfl
@[simp] theorem clearStruck_qpResult : (clearStruck s).qpResult = s.qpResult := rfl
@[simp] theorem clearStruck_crds : (clearStruck s).crds = s.crds := rfl
@[simp] theorem clearStruck_ply : (clearStruck s).ply = s.ply := rfl
@[simp] theorem clearStruck_nvm : (clearStruck s).nvm = s.nvm := rfl
@[simp] theorem clearStruck_ndy : (clearStruck s).ndy = s.ndy := rfl
@[simp] theorem clearStruck_fuses : (clearStruck s).fuses = s.fuses := rfl
@[simp] theorem clearStruck_whl : (clearStruck s).whl = s.whl := rfl
@[simp] theorem clearStruck_pkg : (clearStruck s).pkg = s.pkg := rfl
@[simp] theorem clearStruck_out : (clearStruck s).out = s.out := rfl
end clearStruck

section dropSched
variable (s : State) (j : Nat)
@[simp] theorem dropSched_pending : (dropSched j s).pending = s.pending := rfl
@[simp] theorem dropSched_tick : (dropSched j s).tick = s.tick := rfl
@[simp] theorem dropSched_wall : (dropSched j s).wall = s.wall := rfl
@[simp] theorem dropSched_cyc : (dropSched j s).cyc = s.cyc := rfl
@[simp] theorem dropSched_free : (dropSched j s).free = s.free := rfl
@[simp] theorem dropSched_ids : (dropSched j s).ids = s.ids := rfl
@[simp] theorem dropSched_reg : (dropSched j s).reg = s.reg := rfl
@[simp] theorem dropSched_mem : (dropSched j s).mem = s.mem := rfl
@[simp] theorem dropSched_errs : (dropSched j s).errs = s.errs := rfl
@[simp] theorem dropSched_skn : (dropSched j s).skn = s.skn := rfl
@[simp] theorem dropSched_dst : (dropSched j s).dst = s.dst := rfl
@[simp] theorem dropSched_gate : (dropSched j s).gate = s.gate := rfl
@[simp] theorem dropSched_pend : (dropSched j s).pend = s.pend := rfl
@[simp] theorem dropSched_rstBusy : (dropSched j s).rstBusy = s.rstBusy := rfl
@[simp] theorem dropSched_sleepReq : (dropSched j s).sleepReq = s.sleepReq := rfl
@[simp] theorem dropSched_asleep : (dropSched j s).asleep = s.asleep := rfl
@[simp] theorem dropSched_wakeAt : (dropSched j s).wakeAt = s.wakeAt := rfl
@[simp] theorem dropSched_run : (dropSched j s).run = s.run := rfl
@[simp] theorem dropSched_spare : (dropSched j s).spare = s.spare := rfl
@[simp] theorem dropSched_spareReq : (dropSched j s).spareReq = s.spareReq := rfl
@[simp] theorem dropSched_ready : (dropSched j s).ready = s.ready := rfl
@[simp] theorem dropSched_bobs : (dropSched j s).bobs = s.bobs := rfl
@[simp] theorem dropSched_turns : (dropSched j s).turns = s.turns := rfl
@[simp] theorem dropSched_fetchTurns : (dropSched j s).fetchTurns = s.fetchTurns := rfl
@[simp] theorem dropSched_barriers : (dropSched j s).barriers = s.barriers := rfl
@[simp] theorem dropSched_barrierAt : (dropSched j s).barrierAt = s.barrierAt := rfl
@[simp] theorem dropSched_holds : (dropSched j s).holds = s.holds := rfl
@[simp] theorem dropSched_epochs : (dropSched j s).epochs = s.epochs := rfl
@[simp] theorem dropSched_ports : (dropSched j s).ports = s.ports := rfl
@[simp] theorem dropSched_reports : (dropSched j s).reports = s.reports := rfl
@[simp] theorem dropSched_seqs : (dropSched j s).seqs = s.seqs := rfl
@[simp] theorem dropSched_rwp : (dropSched j s).rwp = s.rwp := rfl
@[simp] theorem dropSched_wear : (dropSched j s).wear = s.wear := rfl
@[simp] theorem dropSched_retireWait : (dropSched j s).retireWait = s.retireWait := rfl
@[simp] theorem dropSched_cause : (dropSched j s).cause = s.cause := rfl
@[simp] theorem dropSched_pllLock : (dropSched j s).pllLock = s.pllLock := rfl
@[simp] theorem dropSched_spread : (dropSched j s).spread = s.spread := rfl
@[simp] theorem dropSched_onRoot : (dropSched j s).onRoot = s.onRoot := rfl
@[simp] theorem dropSched_clocksOn : (dropSched j s).clocksOn = s.clocksOn := rfl
@[simp] theorem dropSched_fmRun : (dropSched j s).fmRun = s.fmRun := rfl
@[simp] theorem dropSched_fmDone : (dropSched j s).fmDone = s.fmDone := rfl
@[simp] theorem dropSched_fmResult : (dropSched j s).fmResult = s.fmResult := rfl
@[simp] theorem dropSched_driftOdd : (dropSched j s).driftOdd = s.driftOdd := rfl
@[simp] theorem dropSched_monLast : (dropSched j s).monLast = s.monLast := rfl
@[simp] theorem dropSched_fmt : (dropSched j s).fmt = s.fmt := rfl
@[simp] theorem dropSched_spn : (dropSched j s).spn = s.spn := rfl
@[simp] theorem dropSched_fly : (dropSched j s).fly = s.fly := rfl
@[simp] theorem dropSched_curves : (dropSched j s).curves = s.curves := rfl
@[simp] theorem dropSched_struck : (dropSched j s).struck = s.struck := rfl
@[simp] theorem dropSched_images : (dropSched j s).images = s.images := rfl
@[simp] theorem dropSched_imgState : (dropSched j s).imgState = s.imgState := rfl
@[simp] theorem dropSched_loading : (dropSched j s).loading = s.loading := rfl
@[simp] theorem dropSched_loadCtx : (dropSched j s).loadCtx = s.loadCtx := rfl
@[simp] theorem dropSched_loadResult : (dropSched j s).loadResult = s.loadResult := rfl
@[simp] theorem dropSched_loadAddr : (dropSched j s).loadAddr = s.loadAddr := rfl
@[simp] theorem dropSched_planCache : (dropSched j s).planCache = s.planCache := rfl
@[simp] theorem dropSched_lastRun : (dropSched j s).lastRun = s.lastRun := rfl
@[simp] theorem dropSched_lastBucket : (dropSched j s).lastBucket = s.lastBucket := rfl
@[simp] theorem dropSched_ctxs : (dropSched j s).ctxs = s.ctxs := rfl
@[simp] theorem dropSched_trns : (dropSched j s).trns = s.trns := rfl
@[simp] theorem dropSched_lsInit : (dropSched j s).lsInit = s.lsInit := rfl
@[simp] theorem dropSched_qps : (dropSched j s).qps = s.qps := rfl
@[simp] theorem dropSched_prts : (dropSched j s).prts = s.prts := rfl
@[simp] theorem dropSched_qpResult : (dropSched j s).qpResult = s.qpResult := rfl
@[simp] theorem dropSched_crds : (dropSched j s).crds = s.crds := rfl
@[simp] theorem dropSched_ply : (dropSched j s).ply = s.ply := rfl
@[simp] theorem dropSched_nvm : (dropSched j s).nvm = s.nvm := rfl
@[simp] theorem dropSched_ndy : (dropSched j s).ndy = s.ndy := rfl
@[simp] theorem dropSched_fuses : (dropSched j s).fuses = s.fuses := rfl
@[simp] theorem dropSched_whl : (dropSched j s).whl = s.whl := rfl
@[simp] theorem dropSched_pkg : (dropSched j s).pkg = s.pkg := rfl
@[simp] theorem dropSched_out : (dropSched j s).out = s.out := rfl
end dropSched

@[simp] theorem State.getReg_setReg (s : State) (k j : Nat) (v : Word) : (s.setReg k v).getReg j = if k = j then v else s.getReg j := by
  by_cases h : k = j
  · subst h; simp [State.getReg, State.setReg]
  · rw [if_neg h]; exact mget_mput_ne _ h _ _ _

@[simp] theorem State.barrier_setBarrier (s : State) (k j : Nat) (v : Word) : (s.setBarrier k v).barrier j = if k = j then v else s.barrier j := by
  by_cases h : k = j
  · subst h; simp [State.barrier, State.setBarrier]
  · rw [if_neg h]; exact mget_mput_ne _ h _ _ _

@[simp] theorem State.hold_setHold (s : State) (k j : Nat) (v : Bool) : (s.setHold k v).hold j = if k = j then v else s.hold j := by
  by_cases h : k = j
  · subst h; simp [State.hold, State.setHold]
  · rw [if_neg h]; exact mget_mput_ne _ h _ _ _

@[simp] theorem State.port_setPort (s : State) (k j : Nat) (v : List Issued) : (s.setPort k v).port j = if k = j then v else s.port j := by
  by_cases h : k = j
  · subst h; simp [State.port, State.setPort]
  · rw [if_neg h]; exact mget_mput_ne _ h _ _ _

@[simp] theorem State.bob_setBob (s : State) (k j : Nat) (v : Bob) : (s.setBob k v).bob j = if k = j then v else s.bob j := by
  by_cases h : k = j
  · subst h; simp [State.bob, State.setBob]
  · rw [if_neg h]; exact mget_mput_ne _ h _ _ _

@[simp] theorem State.skein_setSkein (s : State) (k j : Nat) (v : Skn) : (s.setSkein k v).skein j = if k = j then v else s.skein j := by
  by_cases h : k = j
  · subst h; simp [State.skein, State.setSkein]
  · rw [if_neg h]; exact mget_mput_ne _ h _ _ _

@[simp] theorem State.byte_setByte (s : State) (k j : Nat) (v : Byte) : (s.setByte k v).byte j = if k = j then v else s.byte j := by
  by_cases h : k = j
  · subst h; simp [State.byte, State.setByte]
  · rw [if_neg h]; exact mget_mput_ne _ h _ _ _

@[simp] theorem State.ctx_setCtx (s : State) (k j : Nat) (v : Ctx) : (s.setCtx k v).ctx j = if k = j then v else s.ctx j := by
  by_cases h : k = j
  · subst h; simp [State.ctx, State.setCtx]
  · rw [if_neg h]; exact mget_mput_ne _ h _ _ _

@[simp] theorem State.trn_setTrn (s : State) (k j : Nat) (v : Trn) : (s.setTrn k v).trn j = if k = j then v else s.trn j := by
  by_cases h : k = j
  · subst h; simp [State.trn, State.setTrn]
  · rw [if_neg h]; exact mget_mput_ne _ h _ _ _

@[simp] theorem State.prt_setPrt (s : State) (k j : Nat) (v : Prt) : (s.setPrt k v).prt j = if k = j then v else s.prt j := by
  by_cases h : k = j
  · subst h; simp [State.prt, State.setPrt]
  · rw [if_neg h]; exact mget_mput_ne _ h _ _ _

@[simp] theorem State.crd_setCrd (s : State) (k j : Nat) (v : Crd) : (s.setCrd k v).crd j = if k = j then v else s.crd j := by
  by_cases h : k = j
  · subst h; simp [State.crd, State.setCrd]
  · rw [if_neg h]; exact mget_mput_ne _ h _ _ _

@[simp] theorem State.spindle_setSpindle (s : State) (k j : Nat) (v : Spn) : (s.setSpindle k v).spindle j = if k = j then v else s.spindle j := by
  by_cases h : k = j
  · subst h; simp [State.spindle, State.setSpindle]
  · rw [if_neg h]; exact mget_mput_ne _ h _ _ _

@[simp] theorem State.flyer_setFlyer (s : State) (k j : Nat) (v : Fly) : (s.setFlyer k v).flyer j = if k = j then v else s.flyer j := by
  by_cases h : k = j
  · subst h; simp [State.flyer, State.setFlyer]
  · rw [if_neg h]; exact mget_mput_ne _ h _ _ _

end Sys2Proof.Machine
end

