-- ==== Sys2Proof/Laws/Memory.lean ====
section
/-! SUPPORT. Skein memory: what a demand read and a demand write leave in every byte (R325, R327 to R329, R332, R334). -/

namespace Sys2Proof.Machine

/-- The data bytes that a read of the sector delivers. -/
def dataOf (s : State) (sec : Nat) : List Byte := (deliver s sec).map (·.val)

/-- The same sectors answer, and those with no faulty cell hold the same data. -/
structure SameData (s t : State) : Prop where
  refusal : ∀ a, sectorRefusal t a = sectorRefusal s a
  stuck : ∀ sec, t.stuckOf sec = s.stuckOf sec
  data : ∀ sec, s.stuckOf sec = [] → dataOf t sec = dataOf s sec

theorem SameData.rfl' (s : State) : SameData s s := ⟨fun _ => rfl, fun _ => rfl, fun _ _ => rfl⟩

theorem SameData.trans {s t u : State} (h : SameData s t) (k : SameData t u) : SameData s u :=
  ⟨fun a => (k.refusal a).trans (h.refusal a), fun a => (k.stuck a).trans (h.stuck a),
    fun a ha => (k.data a ((h.stuck a).trans ha)).trans (h.data a ha)⟩

theorem sectorRefusal_congr {s t : State} (hg : t.gate = s.gate) (hb : t.rstBusy = s.rstBusy) (hr : t.rwp = s.rwp)
    (hm : ∀ k, (t.skein k).mode = (s.skein k).mode) (a : Nat) : sectorRefusal t a = sectorRefusal s a := by
  unfold sectorRefusal pageFenced pfence bfence
  simp only [hg, hb, hr, hm]

theorem dataOf_congr {s t : State} (hm : t.mem = s.mem) (he : t.errs = s.errs) (sec : Nat) : dataOf t sec = dataOf s sec := by
  unfold dataOf deliver storedData State.errOf State.byte
  rw [hm, he]

theorem SameData.of_fields {s t : State} (hg : t.gate = s.gate) (hb : t.rstBusy = s.rstBusy) (hr : t.rwp = s.rwp)
    (hk : ∀ k, (t.skein k).mode = (s.skein k).mode) (hm : t.mem = s.mem) (he : t.errs = s.errs)
    (hp : t.pkg.stuck = s.pkg.stuck) : SameData s t :=
  ⟨sectorRefusal_congr hg hb hr hk, fun sec => by unfold State.stuckOf; rw [hp], fun sec _ => dataOf_congr hm he sec⟩

theorem dataOf_length (s : State) (sec : Nat) : (dataOf s sec).length = 32 := by
  unfold dataOf deliver storedData
  cases classify (s.errOf sec) <;> simp

/-- The value of a byte is that of its sector's data, where the sector answers. -/
theorem rdByte_val (s : State) (a : Nat) :
    (rdByte s a).val = if (sectorRefusal s a).isSome then 0 else (dataOf s (a / 32)).getD (a % 32) 0 := by
  unfold rdByte
  cases h : sectorRefusal s a with
  | some k => rfl
  | none =>
    simp only [Option.isSome_none, Bool.false_eq_true, if_false, dataOf, List.getD_eq_getElem?_getD, List.getElem?_map]
    cases (deliver s (a / 32))[a % 32]? <;> rfl

theorem SameData.val {s t : State} (h : SameData s t) (a : Nat) (ha : Intact s a) : (rdByte t a).val = (rdByte s a).val := by
  rw [rdByte_val, rdByte_val, h.refusal, h.data _ ha]

theorem SameData.intact {s t : State} (h : SameData s t) (a : Nat) : Intact t a ↔ Intact s a := by
  unfold Intact
  rw [h.stuck]

theorem setBytes_byte (l : List Byte) : ∀ (s : State) (a b : Nat),
    (s.setBytes a l).byte b = if a ≤ b ∧ b < a + l.length then l.getD (b - a) 0 else s.byte b := by
  induction l with
  | nil =>
    intro s a b
    rw [if_neg (by simp)]
    rfl
  | cons x r ih =>
    intro s a b
    rw [State.setBytes, ih]
    by_cases h1 : a + 1 ≤ b ∧ b < a + 1 + r.length
    · rw [if_pos h1, if_pos (by simp only [List.length_cons]; omega)]
      obtain ⟨n, rfl⟩ : ∃ n, b = a + 1 + n := ⟨b - (a + 1), by omega⟩
      have e1 : a + 1 + n - (a + 1) = n := by omega
      have e2 : a + 1 + n - a = n + 1 := by omega
      rw [e1, e2]
      simp
    · rw [if_neg h1, State.byte_setByte]
      by_cases h2 : a = b
      · subst h2
        rw [if_pos rfl, if_pos (by simp)]
        simp
      · rw [if_neg h2, if_neg (by simp only [List.length_cons]; omega)]

theorem setErr_errOf (s : State) (sec k : Nat) (e : List Byte) :
    (s.setErr sec e).errOf k = if sec = k then (if e.all (· = 0) then [] else e) else s.errOf k := by
  unfold State.setErr State.errOf
  exact mget_mput _ _ _ _ _

set_option maxRecDepth 4000 in
theorem poisonPattern_stored : (if poisonPattern.all (· = 0) then ([] : List Byte) else poisonPattern) = poisonPattern := by decide

set_option maxRecDepth 4000 in
theorem classify_poisonPattern : classify poisonPattern = .poison := by decide

theorem setBytes_fields (l : List Byte) : ∀ (s : State) (a : Nat), (s.setBytes a l).errs = s.errs ∧ (s.setBytes a l).pkg = s.pkg
    ∧ (s.setBytes a l).gate = s.gate ∧ (s.setBytes a l).rstBusy = s.rstBusy ∧ (s.setBytes a l).rwp = s.rwp
    ∧ (s.setBytes a l).skn = s.skn := by
  induction l with
  | nil => intro s a; exact ⟨rfl, rfl, rfl, rfl, rfl, rfl⟩
  | cons x r ih => intro s a; rw [State.setBytes]; exact ih _ _

theorem setBytes_errOf (l : List Byte) (s : State) (a k : Nat) : (s.setBytes a l).errOf k = s.errOf k := by
  unfold State.errOf
  rw [(setBytes_fields l s a).1]

theorem setBytes_stuckOf (l : List Byte) (s : State) (a k : Nat) : (s.setBytes a l).stuckOf k = s.stuckOf k := by
  unfold State.stuckOf
  rw [(setBytes_fields l s a).2.1]

theorem writeErr_stuckOf (s : State) (sec k : Nat) (e : List Byte) : (s.writeErr sec e).stuckOf k = s.stuckOf k := rfl

/-- Storing a sector leaves the data of every other one. -/
theorem dataOf_store_ne (s : State) (sec : Nat) (l e : List Byte) (hl : l.length = 32) {k : Nat} (hk : k ≠ sec) :
    dataOf ((s.setBytes (sec * 32) l).setErr sec e) k = dataOf s k := by
  have he : ((s.setBytes (sec * 32) l).setErr sec e).errOf k = s.errOf k := by
    rw [setErr_errOf, if_neg (fun h => hk h.symm), setBytes_errOf]
  have hd : storedData ((s.setBytes (sec * 32) l).setErr sec e) k = storedData s k := by
    unfold storedData
    rw [he]
    apply List.map_congr_left
    intro j hj
    have hj' : j < 32 := by simpa using hj
    have : ((s.setBytes (sec * 32) l).setErr sec e).byte (k * 32 + j) = (s.setBytes (sec * 32) l).byte (k * 32 + j) := rfl
    rw [this, setBytes_byte, if_neg (by omega)]
  unfold dataOf deliver
  rw [he, hd]

/-- A sector stored anew: the bytes given are its data, poisoned or not. -/
theorem dataOf_store_self (s : State) (k : Nat) (l : List Byte) (hl : l.length = 32) (p : Bool) :
    dataOf ((s.setBytes (k * 32) l).setErr k (if p then poisonPattern else [])) k = l := by
  have hb : ∀ j, j < 32 → ((s.setBytes (k * 32) l).setErr k (if p then poisonPattern else [])).byte (k * 32 + j) = l.getD j 0 := by
    intro j hj
    have : ((s.setBytes (k * 32) l).setErr k (if p then poisonPattern else [])).byte (k * 32 + j)
        = (s.setBytes (k * 32) l).byte (k * 32 + j) := rfl
    rw [this, setBytes_byte, if_pos (by omega)]
    congr 1; omega
  have hd : storedData ((s.setBytes (k * 32) l).setErr k (if p then poisonPattern else [])) k = l := by
    unfold storedData
    apply List.ext_getElem
    · simp [hl]
    · intro j h1 h2
      have hj : j < 32 := by simpa using h1
      simp only [List.getElem_map, List.getElem_range, setErr_errOf, if_pos]
      rw [hb j hj]
      have hz : (if (if p then poisonPattern else ([] : List Byte)).all (· = 0) then ([] : List Byte)
          else (if p then poisonPattern else [])).getD j 0 = 0 := by
        cases p
        · simp
        · simp only [if_true, poisonPattern_stored]
          unfold poisonPattern
          rw [List.getD_append _ _ _ _ (by simpa using hj), List.getD_replicate _ (by omega)]
      rw [hz, List.getD_eq_getElem _ _ h2]
      simp
  unfold dataOf deliver
  rw [hd, setErr_errOf, if_pos rfl]
  cases p
  · simp [classify, Function.comp_def]
  · simp only [if_true, poisonPattern_stored, classify_poisonPattern]
    simp [Function.comp_def]

/-- A sector with no faulty cell stored anew holds the bytes given, poisoned or not; every other sector keeps its data. -/
theorem dataOf_store (s : State) (sec : Nat) (l : List Byte) (hl : l.length = 32) (p : Bool) (k : Nat)
    (hk : s.stuckOf k = []) :
    dataOf ((s.setBytes (sec * 32) l).writeErr sec (if p then poisonPattern else [])) k = if k = sec then l else dataOf s k := by
  unfold State.writeErr
  by_cases h : k = sec
  · subst h
    rw [setBytes_stuckOf, if_pos hk, if_pos rfl]
    exact dataOf_store_self s k l hl p
  · rw [if_neg h]
    exact dataOf_store_ne s sec l _ hl h

/-- Sending a message and counting an event leave skein memory alone. -/
theorem sameData_sendMsg (m : Msg) (c : Option Nat) (s : State) : SameData s (sendMsg m c s) := by
  unfold sendMsg
  dsimp only
  split
  · exact .of_fields rfl rfl rfl (fun _ => rfl) rfl rfl rfl
  · split <;> exact .of_fields rfl rfl rfl (fun _ => rfl) rfl rfl rfl

theorem sameData_count (s : State) (a n : Nat) : SameData s (s.count a n) := by
  unfold State.count
  split
  · exact .rfl' s
  · exact .of_fields rfl rfl rfl (fun _ => rfl) rfl rfl rfl

theorem sameData_setSkein (s : State) (k : Nat) (x : Skn) (h : x.mode = (s.skein k).mode) : SameData s (s.setSkein k x) :=
  .of_fields rfl rfl rfl (fun j => by rw [State.skein_setSkein]; split <;> simp_all) rfl rfl rfl

theorem sameData_errorResponse (who : BitVec 16) (f : Byte) (a : Nat) (kind : Byte) (s : State) :
    SameData s (errorResponse who f a kind s) := by
  unfold errorResponse
  split
  · exact (sameData_count s _ _).trans (sameData_sendMsg _ _ _)
  · exact sameData_sendMsg _ _ _

theorem sameData_bucketAdd (k c a : Nat) (s : State) : SameData s (bucketAdd k c a s) := by
  unfold bucketAdd
  extract_lets sk from_ level full up sk1
  have hm : sk1.mode = (s.skein k).mode := by
    simp only [sk1]
    cases beforeLeak s k <;> rfl
  clear_value sk1
  split
  · refine SameData.trans ?_ (sameData_count _ _ _)
    unfold faultAddr
    exact (sameData_setSkein s k sk1 hm).trans (sameData_sendMsg _ _ _)
  · exact sameData_setSkein s k sk1 hm

theorem sameData_correctable (k sec : Nat) (s : State) : SameData s (correctable k sec s) :=
  (sameData_count s _ _).trans (sameData_bucketAdd _ _ _ _)

theorem sameData_uncorrectable (kind : Byte) (k sec : Nat) (s : State) : SameData s (uncorrectable kind k sec s) := by
  unfold uncorrectable faultAddr
  refine SameData.trans ?_ (sameData_sendMsg _ _ _)
  refine (sameData_count s (rSkn k 0x08) 1).trans ?_
  exact sameData_setSkein _ k _ rfl

/-- A sector stored anew: refusals stay. -/
theorem refusal_store (s : State) (sec : Nat) (l : List Byte) (e : List Byte) (a : Nat) :
    sectorRefusal ((s.setBytes (sec * 32) l).writeErr sec e) a = sectorRefusal s a := by
  obtain ⟨-, -, h1, h2, h3, h4⟩ := setBytes_fields l s (sec * 32)
  exact sectorRefusal_congr h1 h2 h3 (fun k => by unfold State.skein; exact congrArg (fun m => (mget m k {}).mode) h4) a

theorem sameData_store (s : State) (sec : Nat) (l : List Byte) (hl : l = dataOf s sec) :
    SameData s ((s.setBytes (sec * 32) l).writeErr sec []) := by
  refine ⟨fun a => refusal_store s sec l [] a, fun k => setBytes_stuckOf l s _ k, fun k hk => ?_⟩
  have h := dataOf_store s sec l (by rw [hl, dataOf_length]) false k hk
  simp only [Bool.false_eq_true, if_false] at h
  rw [h]
  split
  · next e => rw [hl, e]
  · rfl

theorem sameData_repair (sec : Nat) (s : State) : SameData s (repairSector sec s) :=
  (sameData_store s sec _ rfl).trans (sameData_count _ _ _)

/-- A demand read of a sector leaves every sector's data as they are. -/
theorem sameData_touchRead (who : BitVec 16) (f : Byte) (sec : Nat) (s : State) : SameData s (touchRead who f sec s) := by
  unfold touchRead
  dsimp only
  split
  · exact sameData_errorResponse _ _ _ _ _
  · split
    · exact .rfl' s
    · exact (sameData_correctable _ _ _).trans (sameData_repair _ _)
    · exact sameData_count _ _ _
    · exact sameData_uncorrectable _ _ _ _

theorem sameData_foldl {α : Type} (g : State → α → State) (h : ∀ s x, SameData s (g s x)) (l : List α) :
    ∀ s, SameData s (l.foldl g s) := by
  induction l with
  | nil => exact fun s => .rfl' s
  | cons x r ih => exact fun s => (h s x).trans (ih _)

theorem sameData_touchReads (who : BitVec 16) (f : Byte) (secs : List Nat) (s : State) : SameData s (touchReads who f secs s) :=
  sameData_foldl _ (fun s x => sameData_touchRead who f x s) _ s

theorem sameData_faultsOf (source : BitVec 16) (fs : List Flt) (id : Nat) (s : State) : SameData s (faultsOf source fs id s) := by
  unfold faultsOf
  split
  · exact .rfl' s
  · exact (sameData_sendMsg _ _ _).trans (sameData_foldl _ (fun s _ => sameData_sendMsg _ _ s) _ _)

/-! ## Writes -/

/-- The data of a sector after a write of its slots. -/
def slotData (old : List Byte) (slots : List (Option MByte)) : List Byte :=
  (List.range 32).map (fun j => match slots.getD j none with | some m => m.val | none => old.getD j 0)

theorem slotData_getD (old : List Byte) (slots : List (Option MByte)) (j : Nat) (hj : j < 32) :
    (slotData old slots).getD j 0 = match slots.getD j none with | some m => m.val | none => old.getD j 0 := by
  unfold slotData
  rw [List.getD_eq_getElem _ _ (by simpa using hj)]
  simp

theorem slotData_full (old : List Byte) (slots : List (Option MByte)) (hl : slots.length = 32) (h : slots.all (·.isSome) = true) :
    slotData [] slots = slotData old slots := by
  unfold slotData
  apply List.map_congr_left
  intro j hj
  have hj' : j < slots.length := by rw [hl]; simpa using hj
  rw [List.getD_eq_getElem _ _ hj']
  have : (slots[j]).isSome = true := List.all_eq_true.mp h _ (List.getElem_mem hj')
  cases e : slots[j] with
  | some m => rfl
  | none => rw [e] at this; cases this

theorem writeSector_refused {who : BitVec 16} {f : Byte} {sec : Nat} {slots : List (Option MByte)} {s : State} {k : Byte}
    (h : sectorRefusal s (sec * 32) = some k) :
    writeSector who f sec slots s = (errorResponse who f (sec * 32) k s, true) := by
  unfold writeSector
  simp only [h]

/-- The sector stored anew with the slots over the old data. -/
def storeSlots (sec : Nat) (slots : List (Option MByte)) (old : List Byte) (p : Bool) (s : State) : State :=
  (s.setBytes (sec * 32) (slotData old slots)).writeErr sec (if p then poisonPattern else [])

theorem writeSector_answers {who : BitVec 16} {f : Byte} {sec : Nat} {slots : List (Option MByte)} {s : State}
    (h : sectorRefusal s (sec * 32) = none) : ∃ old p t, writeSector who f sec slots s = (storeSlots sec slots old p t, false)
      ∧ SameData s t ∧ (slots.length = 32 → slotData old slots = slotData (dataOf s sec) slots) := by
  unfold writeSector
  simp only [h]
  have hc := sameData_count s (rSkn (sknOf (sec * 32)) 0x10) 1
  by_cases hf : slots.all (·.isSome) = true
  · rw [if_pos hf]
    exact ⟨[], _, s, rfl, .rfl' s, fun hl => slotData_full _ _ hl hf⟩
  · rw [if_neg hf]
    cases classify (s.errOf sec) with
    | clean => exact ⟨dataOf s sec, _, _, rfl, hc, fun _ => rfl⟩
    | corrected p d => exact ⟨dataOf s sec, _, _, rfl, hc.trans (sameData_correctable _ _ _), fun _ => rfl⟩
    | poison => exact ⟨dataOf s sec, true, _, rfl, hc, fun _ => rfl⟩
    | bad => exact ⟨dataOf s sec, true, _, rfl, hc.trans (sameData_uncorrectable _ _ _ _), fun _ => rfl⟩

/-- What the write of one sector leaves: refusals and faulty cells stay; where no cell of it is faulty, its own data are the slots
given over the old ones, where it answers; every other sector keeps its data. -/
theorem writeSector_spec (who : BitVec 16) (f : Byte) (sec : Nat) (slots : List (Option MByte)) (hl : slots.length = 32) (s : State) :
    (∀ a, sectorRefusal (writeSector who f sec slots s).1 a = sectorRefusal s a)
    ∧ (∀ k, s.stuckOf k = [] → dataOf (writeSector who f sec slots s).1 k
        = if k = sec ∧ sectorRefusal s (sec * 32) = none then slotData (dataOf s sec) slots else dataOf s k)
    ∧ (writeSector who f sec slots s).2 = (sectorRefusal s (sec * 32)).isSome
    ∧ (∀ k, (writeSector who f sec slots s).1.stuckOf k = s.stuckOf k) := by
  cases hr : sectorRefusal s (sec * 32) with
  | some kind =>
    rw [writeSector_refused hr]
    have h := sameData_errorResponse who f (sec * 32) kind s
    refine ⟨h.refusal, fun k hk => ?_, rfl, h.stuck⟩
    rw [if_neg (fun e => by cases e.2)]
    exact h.data k hk
  | none =>
    obtain ⟨old, p, t, e, ht, ho⟩ := writeSector_answers (who := who) (f := f) (slots := slots) hr
    rw [e]
    refine ⟨fun a => (refusal_store _ _ _ _ a).trans (ht.refusal a), fun k hk => ?_, rfl,
      fun k => (setBytes_stuckOf _ _ _ _).trans (ht.stuck k)⟩
    have hd := dataOf_store t sec (slotData old slots) (by simp [slotData]) p k ((ht.stuck k).trans hk)
    unfold storeSlots
    rw [hd]
    by_cases hk' : k = sec
    · simp [hk', ho hl]
    · simp [hk', ht.data k hk]

/-- Whether a sector answers is a matter of the sector. -/
theorem sectorRefusal_sector (s : State) (a : Nat) : sectorRefusal s (a / 32 * 32) = sectorRefusal s a := by
  have hp : populated (a / 32 * 32) = populated a := by
    unfold populated sknOff
    congr 1 <;> (apply decide_eq_decide.mpr; omega)
  have hk : sknOf (a / 32 * 32) = sknOf a := by unfold sknOf; omega
  have hg : pageOf (a / 32 * 32) = pageOf a := by
    unfold pageOf bits
    rw [Nat.shiftRight_eq_div_pow, Nat.shiftRight_eq_div_pow]
    congr 1
    omega
  unfold sectorRefusal
  rw [hp, hk, hg]

/-! ## Runs of bytes -/

theorem lastByte_append (ws : List (Nat × MByte)) (w : Nat × MByte) (a : Nat) :
    lastByte (ws ++ [w]) a = if w.1 = a then some w.2 else lastByte ws a := by
  unfold lastByte
  rw [List.foldl_append]
  rfl

/-- The slots that a list of writes gives a sector. -/
def slotsOf (ws : List (Nat × MByte)) (sec : Nat) : List (Option MByte) :=
  mget (groupWrites ws) sec (List.replicate 32 none)

theorem groupWrites_append (ws : List (Nat × MByte)) (w : Nat × MByte) :
    groupWrites (ws ++ [w]) = mset (groupWrites ws) (w.1 / 32) ((slotsOf ws (w.1 / 32)).set (w.1 % 32) (some w.2)) := by
  unfold groupWrites slotsOf
  rw [List.foldl_append]
  rfl

theorem slotsOf_spec (ws : List (Nat × MByte)) : ∀ sec, (slotsOf ws sec).length = 32
    ∧ ∀ j, j < 32 → (slotsOf ws sec).getD j none = lastByte ws (sec * 32 + j) := by
  induction ws using List.reverseRecOn with
  | nil =>
    intro sec
    refine ⟨by simp [slotsOf, groupWrites, mget], fun j hj => ?_⟩
    have e : slotsOf [] sec = List.replicate 32 none := rfl
    rw [e, List.getD_eq_getElem?_getD, List.getElem?_replicate, if_pos hj]
    rfl
  | append_singleton ws w ih =>
    intro sec
    have e : slotsOf (ws ++ [w]) sec = if w.1 / 32 = sec then (slotsOf ws sec).set (w.1 % 32) (some w.2) else slotsOf ws sec := by
      conv_lhs => unfold slotsOf
      rw [groupWrites_append, mget_mset]
      split
      · next h => rw [h]
      · rfl
    rw [e]
    refine ⟨by split <;> simp [(ih sec).1], fun j hj => ?_⟩
    rw [lastByte_append]
    have h2 := (ih sec).2 j hj
    have hlen := (ih sec).1
    by_cases h : w.1 / 32 = sec
    · rw [if_pos h]
      by_cases hjw : w.1 % 32 = j
      · rw [if_pos (by omega), List.getD_eq_getElem _ _ (by simp [hlen, hj])]
        simp [hjw]
      · rw [if_neg (by omega), ← h2, List.getD_eq_getElem?_getD, List.getD_eq_getElem?_getD, List.getElem?_set_ne hjw]
    · rw [if_neg h, if_neg (by omega), h2]

theorem groupWrites_sorted (ws : List (Nat × MByte)) : sortedFrom 0 (groupWrites ws) = true := by
  induction ws using List.reverseRecOn with
  | nil => rfl
  | append_singleton ws w ih =>
    rw [groupWrites_append]
    exact sortedFrom_mset _ _ ih (Nat.zero_le _)

/-- One step of `writeBytes`. -/
def writeStep (who : BitVec 16) (f : Byte) (acc : State × List Nat) (g : Nat × List (Option MByte)) : State × List Nat :=
  let r := writeSector who f g.1 g.2 acc.1
  (r.1, if r.2 then acc.2 ++ [g.1 * 32] else acc.2)

theorem writeBytes_eq (who : BitVec 16) (f : Byte) (ws : List (Nat × MByte)) (s : State) :
    writeBytes who f ws s = (groupWrites ws).foldl (writeStep who f) (s, []) := rfl

/-- Writing a list of sectors, each once, in order. -/
theorem writeSteps_spec (who : BitVec 16) (f : Byte) :
    ∀ (m : AMap (List (Option MByte))) (lo : Nat) (s : State) (l : List Nat),
    sortedFrom lo m = true → (∀ e ∈ m, e.2.length = 32) →
    (∀ a, sectorRefusal (m.foldl (writeStep who f) (s, l)).1 a = sectorRefusal s a)
    ∧ (∀ k, s.stuckOf k = [] → dataOf (m.foldl (writeStep who f) (s, l)).1 k
        = match mfind m k with
          | some slots => if sectorRefusal s (k * 32) = none then slotData (dataOf s k) slots else dataOf s k
          | none => dataOf s k)
    ∧ (m.foldl (writeStep who f) (s, l)).2
        = l ++ (m.filter (fun e => (sectorRefusal s (e.1 * 32)).isSome)).map (fun e => e.1 * 32)
    ∧ (∀ k, (m.foldl (writeStep who f) (s, l)).1.stuckOf k = s.stuckOf k) := by
  intro m
  induction m with
  | nil => intro lo s l _ _; exact ⟨fun _ => rfl, fun _ _ => rfl, by simp, fun _ => rfl⟩
  | cons e r ih =>
    intro lo s l hs hl
    obtain ⟨k0, sl⟩ := e
    simp only [sortedFrom, Bool.and_eq_true, decide_eq_true_eq] at hs
    obtain ⟨h1, h2, h3, h4⟩ := writeSector_spec who f k0 sl (hl (k0, sl) (by simp)) s
    obtain ⟨i1, i2, i3, i4⟩ := ih (k0 + 1) (writeStep who f (s, l) (k0, sl)).1 (writeStep who f (s, l) (k0, sl)).2 hs.2
      (fun e he => hl e (by simp [he]))
    have hnot : mfind r k0 = none := by
      have : ∀ (m : AMap (List (Option MByte))) (lo : Nat), sortedFrom lo m = true → ∀ k, k < lo → mfind m k = none := by
        intro m
        induction m with
        | nil => intro _ _ _ _; rfl
        | cons e r ih =>
          intro lo h k hk
          obtain ⟨j, v⟩ := e
          simp only [sortedFrom, Bool.and_eq_true, decide_eq_true_eq] at h
          unfold mfind
          rw [if_neg (by omega)]
          exact ih _ h.2 k (by omega)
      exact this r (k0 + 1) hs.2 k0 (by omega)
    have hst : (writeStep who f (s, l) (k0, sl)).1 = (writeSector who f k0 sl s).1 := rfl
    rw [hst] at i1 i2 i3 i4
    have hfold : ((k0, sl) :: r).foldl (writeStep who f) (s, l)
        = r.foldl (writeStep who f) ((writeSector who f k0 sl s).1, (writeStep who f (s, l) (k0, sl)).2) := rfl
    rw [hfold]
    refine ⟨fun a => (i1 a).trans (h1 a), fun k hk => ?_, ?_, fun k => (i4 k).trans (h4 k)⟩
    · have i2' := i2 k ((h4 k).trans hk)
      rw [i2']
      by_cases hk0 : k0 = k
      · subst hk0
        rw [hnot, mfind, if_pos rfl]
        simp only [h2 _ hk]
        simp
      · have hk' : ¬ k = k0 := fun e => hk0 e.symm
        rw [mfind, if_neg hk0]
        simp only [h1, h2 _ hk, hk', false_and, if_false]
    · rw [i3]
      simp only [h1]
      have : (writeStep who f (s, l) (k0, sl)).2 = if (sectorRefusal s (k0 * 32)).isSome then l ++ [k0 * 32] else l := by
        unfold writeStep
        simp only [h3]
      rw [this, List.filter_cons]
      cases (sectorRefusal s (k0 * 32)).isSome <;> simp

theorem mfind_eq_mget {α : Type} (m : AMap α) (k : Nat) (d : α) : mget m k d = (mfind m k).getD d := by
  induction m with
  | nil => rfl
  | cons e r ih =>
    obtain ⟨j, v⟩ := e
    unfold mget mfind
    split
    · rfl
    · exact ih

theorem groupWrites_len (ws : List (Nat × MByte)) : ∀ e ∈ groupWrites ws, e.2.length = 32 := by
  induction ws using List.reverseRecOn with
  | nil => intro e he; cases he
  | append_singleton ws w ih =>
    intro e he
    rw [groupWrites_append] at he
    rcases mem_mset he with h | h
    · rw [h]
      simp [(slotsOf_spec ws (w.1 / 32)).1]
    · exact ih e h

theorem groupWrites_keys (ws : List (Nat × MByte)) :
    ∀ k, (∃ sl, (k, sl) ∈ groupWrites ws) ↔ ∃ w ∈ ws, w.1 / 32 = k := by
  have hkeys : ∀ (m : AMap (List (Option MByte))) (j : Nat) (v : List (Option MByte)) (k : Nat),
      (∃ sl, (k, sl) ∈ mset m j v) ↔ k = j ∨ ∃ sl, (k, sl) ∈ m := by
    intro m j v k
    induction m with
    | nil => simp [mset]
    | cons e r ih =>
      obtain ⟨i, w⟩ := e
      unfold mset
      split
      · next h => subst h; simp only [List.mem_cons, Prod.mk.injEq]; constructor
                  · rintro ⟨sl, ⟨rfl, -⟩ | h⟩
                    · exact .inl rfl
                    · exact .inr ⟨sl, .inr h⟩
                  · rintro (rfl | ⟨sl, ⟨rfl, -⟩ | h⟩)
                    · exact ⟨v, .inl ⟨rfl, rfl⟩⟩
                    · exact ⟨v, .inl ⟨rfl, rfl⟩⟩
                    · exact ⟨sl, .inr h⟩
      · split
        · simp only [List.mem_cons, Prod.mk.injEq]
          constructor
          · rintro ⟨sl, ⟨rfl, -⟩ | h⟩
            · exact .inl rfl
            · exact .inr ⟨sl, h⟩
          · rintro (rfl | ⟨sl, h⟩)
            · exact ⟨v, .inl ⟨rfl, rfl⟩⟩
            · exact ⟨sl, .inr h⟩
        · simp only [List.mem_cons, Prod.mk.injEq]
          constructor
          · rintro ⟨sl, ⟨rfl, rfl⟩ | h⟩
            · exact .inr ⟨sl, .inl ⟨rfl, rfl⟩⟩
            · rcases ih.mp ⟨sl, h⟩ with h | ⟨sl, h⟩
              · exact .inl h
              · exact .inr ⟨sl, .inr h⟩
          · rintro (h | ⟨sl, ⟨rfl, rfl⟩ | h⟩)
            · obtain ⟨sl, h⟩ := ih.mpr (.inl h); exact ⟨sl, .inr h⟩
            · exact ⟨sl, .inl ⟨rfl, rfl⟩⟩
            · obtain ⟨sl, h⟩ := ih.mpr (.inr ⟨sl, h⟩); exact ⟨sl, .inr h⟩
  induction ws using List.reverseRecOn with
  | nil => intro k; simp [groupWrites]
  | append_singleton ws w ih =>
    intro k
    rw [groupWrites_append, hkeys, ih]
    simp only [List.mem_append, List.mem_singleton]
    constructor
    · rintro (h | ⟨v, hv, h⟩)
      · exact ⟨w, .inr rfl, h.symm⟩
      · exact ⟨v, .inl hv, h⟩
    · rintro ⟨v, hv | rfl, h⟩
      · exact .inr ⟨v, hv, h⟩
      · exact .inl h.symm

/-- Writing a list of bytes (R325, R329, R334): refusals and faulty cells stay; in sectors with no faulty cell a byte listed reads
as the last value listed for it where its sector answers, and every other byte reads as before; some sector refuses exactly where one
of the addresses is refused. -/
theorem writeBytes_spec (who : BitVec 16) (f : Byte) (ws : List (Nat × MByte)) (s : State) :
    (∀ a, sectorRefusal (writeBytes who f ws s).1 a = sectorRefusal s a)
    ∧ (∀ a, Intact s a → (rdByte (writeBytes who f ws s).1 a).val
        = match lastByte ws a with
          | some m => if sectorRefusal s a = none then m.val else (rdByte s a).val
          | none => (rdByte s a).val)
    ∧ (writeBytes who f ws s).2.isEmpty = ws.all (fun w => (sectorRefusal s w.1).isNone)
    ∧ (∀ k, (writeBytes who f ws s).1.stuckOf k = s.stuckOf k) := by
  obtain ⟨h1, h2, h3, h4⟩ := writeSteps_spec who f (groupWrites ws) 0 s [] (groupWrites_sorted ws) (groupWrites_len ws)
  rw [← writeBytes_eq] at h1 h2 h3 h4
  refine ⟨h1, fun a ha => ?_, ?_, h4⟩
  · rw [rdByte_val, rdByte_val, h1, h2 _ ha]
    obtain ⟨g1, g2⟩ := slotsOf_spec ws (a / 32)
    have ga := g2 (a % 32) (by omega)
    have ea : a / 32 * 32 + a % 32 = a := by omega
    rw [ea] at ga
    have hsec := sectorRefusal_sector s a
    have hm : slotsOf ws (a / 32) = (mfind (groupWrites ws) (a / 32)).getD (List.replicate 32 none) := mfind_eq_mget _ _ _
    rw [hsec]
    cases hr : sectorRefusal s a with
    | some k =>
      cases lastByte ws a <;> simp
    | none =>
      simp only [Option.isSome_none, Bool.false_eq_true, if_false, if_true]
      cases hf : mfind (groupWrites ws) (a / 32) with
      | some slots =>
        rw [hf] at hm
        simp only [Option.getD_some] at hm
        rw [hm] at ga
        simp only
        rw [slotData_getD _ _ _ (by omega), ga]
      | none =>
        rw [hf] at hm
        simp only [Option.getD_none] at hm
        rw [hm] at ga
        have : lastByte ws a = none := by
          rw [← ga, List.getD_eq_getElem?_getD, List.getElem?_replicate]
          split <;> rfl
        rw [this]
  · rw [h3, List.nil_append, Bool.eq_iff_iff, List.isEmpty_iff, List.map_eq_nil_iff, List.filter_eq_nil_iff, List.all_eq_true]
    constructor
    · intro h w hw
      obtain ⟨sl, hsl⟩ := (groupWrites_keys ws (w.1 / 32)).mpr ⟨w, hw, rfl⟩
      have := h _ hsl
      rw [sectorRefusal_sector] at this
      cases hq : sectorRefusal s w.1 <;> simp_all
    · rintro h ⟨k, sl⟩ he hn
      obtain ⟨w, hw, rfl⟩ := (groupWrites_keys ws k).mp ⟨sl, he⟩
      have := h w hw
      simp only [sectorRefusal_sector] at hn
      cases hq : sectorRefusal s w.1 <;> simp_all

end Sys2Proof.Machine
end

