-- ==== Sys2Proof/Laws/Finish.lean ====
section
/-! SUPPORT. Acceptance at a command port and the end of a data phase: once, everything that `accept` and `finishCmd` do. -/

namespace Sys2Proof.Machine

theorem storedAs_right {s t t' : State} {ws : List (Nat × MByte)} (k : StoredAs ws s t) (hs : ∀ a, Intact s a → Intact t a)
    (h : SameData t t') : StoredAs ws s t' := by
  intro a ha
  rw [h.val a (hs a ha), k a ha]

theorem storedAs_left {s s' t : State} {ws : List (Nat × MByte)} (h : SameData s s') (k : StoredAs ws s' t) : StoredAs ws s t := by
  intro a ha
  rw [k a ((h.stuck _).trans ha), h.refusal, h.val a ha]

/-- Every byte reads alike, with its poison, and the same parity errors strike: the states differ in no more than counts, messages
and the contents of units. -/
structure SameMem (s t : State) : Prop where
  refusal : ∀ a, sectorRefusal t a = sectorRefusal s a
  stuck : ∀ sec, t.stuckOf sec = s.stuckOf sec
  read : ∀ a, rdByte t a = rdByte s a
  struck : t.struck = s.struck

theorem SameMem.of_fields {s t : State} (hg : t.gate = s.gate) (hb : t.rstBusy = s.rstBusy) (hr : t.rwp = s.rwp)
    (hk : ∀ k, (t.skein k).mode = (s.skein k).mode) (hm : t.mem = s.mem) (he : t.errs = s.errs)
    (hp : t.pkg.stuck = s.pkg.stuck) (hu : t.struck = s.struck) : SameMem s t := by
  have hf := sectorRefusal_congr hg hb hr hk
  have hd : ∀ sec, deliver t sec = deliver s sec := by
    intro sec
    unfold deliver storedData State.errOf State.byte
    rw [hm, he]
  refine ⟨hf, fun sec => by unfold State.stuckOf; rw [hp], fun a => ?_, hu⟩
  unfold rdByte
  rw [hf, hd, hu]

theorem SameMem.rfl' (s : State) : SameMem s s := ⟨fun _ => rfl, fun _ => rfl, fun _ => rfl, rfl⟩

theorem SameMem.trans {s t u : State} (h : SameMem s t) (k : SameMem t u) : SameMem s u :=
  ⟨fun a => (k.refusal a).trans (h.refusal a), fun a => (k.stuck a).trans (h.stuck a), fun a => (k.read a).trans (h.read a),
    k.struck.trans h.struck⟩

/-- A function that leaves every piece on which reads of memory depend. -/
theorem SameMem.of_unchanged {ps : List Piece} {s t : State} (h : Unchanged ps s t)
    (hp : ∀ p ∈ [Piece.gate, .rstBusy, .rwp, .skn, .mem, .errs, .pkg, .struck], p ∉ ps) : SameMem s t :=
  .of_fields (h .gate (hp _ (by simp))) (h .rstBusy (hp _ (by simp))) (h .rwp (hp _ (by simp)))
    (fun k => by
      have e : t.skn = s.skn := h .skn (hp _ (by simp))
      unfold State.skein
      rw [e])
    (h .mem (hp _ (by simp))) (h .errs (hp _ (by simp)))
    (by have e : t.pkg = s.pkg := h .pkg (hp _ (by simp)); rw [e]) (h .struck (hp _ (by simp)))

theorem SameMem.stores {s t : State} (h : SameMem s t) (e : Eff) : e.stores t = e.stores s := by
  unfold Eff.stores toBytes
  simp only [h.read]

theorem SameMem.struckInSram {s t : State} (h : SameMem s t) (ws : List (Nat × MByte)) : struckInSram t ws = struckInSram s ws := by
  unfold Machine.struckInSram
  rw [h.struck]

theorem SameMem.stored {s s' t : State} {ws : List (Nat × MByte)} (h : SameMem s s') (k : StoredAs ws s' t) : StoredAs ws s t := by
  intro a ha
  have ha' : Intact s' a := (h.stuck _).trans ha
  rw [k a ha', h.refusal, h.read]

theorem sameData_clearStruck (s : State) : SameData s (clearStruck s) := .of_fields rfl rfl rfl (fun _ => rfl) rfl rfl rfl

/-- Noting parity errors changes counters, messages, and the marks of the step. -/
theorem noteHits_unchanged (reg : BitVec 16 → Option Nat) (hs : List Hit) (s : State) :
    Unchanged [.reg, .dst, .seqs, .struck] s (noteHits reg hs s) :=
  unchanged_of_mask (by
    generalize hL : pieces [.reg, .dst, .seqs, .struck] = L
    have h1 : L .reg = true := by rw [← hL]; decide
    have h2 : L .dst = true := by rw [← hL]; decide
    have h3 : L .seqs = true := by rw [← hL]; decide
    have h4 : L .struck = true := by rw [← hL]; decide
    simp [*])

/-- Whose turn it is at a port depends on ports, gates, sleep, resets, the spare map and what runs. -/
theorem frontOf_congr {s t : State} (h : ∀ p ∈ [Piece.ports, .gate, .asleep, .sleepReq, .rstBusy, .spare, .reports, .crds, .ply], SameAt p s t)
    (u op : Nat) : frontOf t u op = frontOf s u op := by
  have h1 : t.ports = s.ports := h .ports (by simp)
  have h2 : t.gate = s.gate := h .gate (by simp)
  have h3 : t.asleep = s.asleep := h .asleep (by simp)
  have h4 : t.sleepReq = s.sleepReq := h .sleepReq (by simp)
  have h5 : t.rstBusy = s.rstBusy := h .rstBusy (by simp)
  have h6 : t.spare = s.spare := h .spare (by simp)
  have h7 : t.reports = s.reports := h .reports (by simp)
  have h8 : t.crds = s.crds := h .crds (by simp)
  have h9 : t.ply = s.ply := h .ply (by simp)
  unfold frontOf State.port State.unitBusy unitOff vecOfUnit physOf
  simp only [h1, h2, h3, h4, h5, h6, h7, h8, h9]

theorem noteHits_frontOf (reg : BitVec 16 → Option Nat) (hs : List Hit) (s : State) (u op : Nat) :
    frontOf (noteHits reg hs s) u op = frontOf s u op :=
  frontOf_congr (fun p hp => noteHits_unchanged reg hs s p (by revert hp; cases p <;> decide)) u op

theorem noteHits_epoch (reg : BitVec 16 → Option Nat) (hs : List Hit) (s : State) (u : Nat) :
    (noteHits reg hs s).epoch u = s.epoch u := by
  have h : (noteHits reg hs s).epochs = s.epochs := noteHits_unchanged reg hs s .epochs (by decide)
  unfold State.epoch
  rw [h]

/-- What a check comes to and the sectors it read. -/
theorem checked_passes {α : Type} {x : Chk α} {r : Except Flt α} (h : passes x = r) : ∃ secs, checked x = (r, secs) :=
  ⟨(checked x).2, by rw [← h]; rfl⟩

/-- A command that is offered, passes its checks and meets no overlap runs. -/
theorem acceptCmd_runs {α : Type} {u : Nat} {check : Issued → State → Chk α} {overlap : Issued → α → State → Bool}
    {run : Issued → α → State → State} {i : Issued} {s : State} {a : α} (he : cEpoch i.cmd = s.epoch u)
    (hf : ∀ n b e x, i.res = .run n b e x → e = false ∧ x = false) (hc : passes (check i (popPort u s)) = .ok a)
    (ho : overlap i a (popPort u s) = false) : acceptCmd u check overlap run i s = run i a (popPort u s) := by
  obtain ⟨secs, hc'⟩ := checked_passes hc
  unfold acceptCmd
  rw [if_neg (by simpa using he)]
  cases hr : i.res with
  | none => simp [hc', ho]
  | run n b e x =>
    obtain ⟨rfl, rfl⟩ := hf n b e x hr
    simp [hc', ho]

theorem withHits_runs {α : Type} {u op : Nat} {hs : List Hit} {check : Issued → State → Chk α}
    {overlap : Issued → α → State → Bool} {run : Issued → α → State → State} {i : Issued} {s : State} {a : α}
    (h : Offered u op i s) (hc : passes (check i (taken perrReg u hs s)) = .ok a) (ho : overlap i a (taken perrReg u hs s) = false) :
    withHits u op hs (accept u op check overlap run) s = clearStruck (run i a (taken perrReg u hs s)) := by
  unfold withHits accept
  rw [h.front, noteHits_frontOf, h.front]
  simp only [Option.isSome_some, if_true]
  rw [acceptCmd_runs (by rw [noteHits_epoch]; exact h.epoch) h.fits hc ho]
  rfl

theorem execStatus_refused (b : Bool) (l : List Nat) (ws : List (Nat × MByte)) (s : State)
    (h : l.isEmpty = ws.all (fun w => (sectorRefusal s w.1).isNone)) :
    (b || !l.isEmpty) = (b || ws.any (fun w => (sectorRefusal s w.1).isSome)) := by
  rw [h, List.not_all_eq_any_not]
  congr 2
  funext w
  cases sectorRefusal s w.1 <;> rfl

theorem touchReads_ports (who : BitVec 16) (f : Byte) (secs : List Nat) (s : State) :
    (touchReads who f secs s).ports = s.ports ∧ (touchReads who f secs s).reports = s.reports := by
  have h : Unchanged [.reg, .mem, .errs, .skn, .dst, .seqs] s (touchReads who f secs s) := unchanged_of_mask (by
    generalize hL : pieces [.reg, .mem, .errs, .skn, .dst, .seqs] = L
    have h1 : L .reg = true := by rw [← hL]; decide
    have h2 : L .dst = true := by rw [← hL]; decide
    have h3 : L .seqs = true := by rw [← hL]; decide
    have h4 : L .mem = true := by rw [← hL]; decide
    have h5 : L .errs = true := by rw [← hL]; decide
    have h6 : L .skn = true := by rw [← hL]; decide
    simp [*])
  exact ⟨h .ports (by decide), h .reports (by decide)⟩

theorem writeBytes_ports (who : BitVec 16) (f : Byte) (ws : List (Nat × MByte)) (s : State) :
    (writeBytes who f ws s).1.ports = s.ports ∧ (writeBytes who f ws s).1.reports = s.reports := by
  have h : Unchanged [.reg, .mem, .errs, .skn, .dst, .seqs] s (writeBytes who f ws s).1 := unchanged_of_mask (by
    generalize hL : pieces [.reg, .mem, .errs, .skn, .dst, .seqs] = L
    have h1 : L .reg = true := by rw [← hL]; decide
    have h2 : L .dst = true := by rw [← hL]; decide
    have h3 : L .seqs = true := by rw [← hL]; decide
    have h4 : L .mem = true := by rw [← hL]; decide
    have h5 : L .errs = true := by rw [← hL]; decide
    have h6 : L .skn = true := by rw [← hL]; decide
    simp [*])
  exact ⟨h .ports (by decide), h .reports (by decide)⟩

theorem faultsOf_ports (source : BitVec 16) (fs : List Flt) (id : Nat) (s : State) :
    (faultsOf source fs id s).ports = s.ports ∧ (faultsOf source fs id s).reports = s.reports := by
  have h : Unchanged [.dst, .seqs] s (faultsOf source fs id s) := unchanged_of_mask (by
    generalize hL : pieces [.dst, .seqs] = L
    have h2 : L .dst = true := by rw [← hL]; decide
    have h3 : L .seqs = true := by rw [← hL]; decide
    simp [*])
  exact ⟨h .ports (by decide), h .reports (by decide)⟩

theorem touchAgain_ports (u : Nat) (l : List (List Nat)) : ∀ s : State,
    (l.foldl (fun s x => touchReads (srcOfUnit s u) 0 x s) s).ports = s.ports
      ∧ (l.foldl (fun s x => touchReads (srcOfUnit s u) 0 x s) s).reports = s.reports := by
  induction l with
  | nil => exact fun s => ⟨rfl, rfl⟩
  | cons x r ih =>
    intro s
    rw [List.foldl_cons]
    exact ⟨(ih _).1.trans (touchReads_ports _ 0 x s).1, (ih _).2.trans (touchReads_ports _ 0 x s).2⟩

/-- Parity errors on the way to memory poison bytes; they change no value. -/
theorem strikeWrites_lastByte (s : State) (ws : List (Nat × MByte)) (a : Nat) :
    (lastByte (strikeWrites s ws) a).map (·.val) = (lastByte ws a).map (·.val) := by
  have h : ∀ (l : List (Nat × MByte)) (o o' : Option MByte), o.map (·.val) = o'.map (·.val) →
      ((strikeWrites s l).foldl (fun o w => if w.1 = a then some w.2 else o) o).map (·.val)
        = (l.foldl (fun o w => if w.1 = a then some w.2 else o) o').map (·.val) := by
    intro l
    induction l with
    | nil => intro o o' h; exact h
    | cons w r ih =>
      intro o o' h
      refine ih _ _ ?_
      show Option.map (·.val) (if (if _ then _ else w).1 = a then some (if _ then _ else w).2 else o) = _
      by_cases k : s.struck.any (fun h => onWrite h && strikes h w.1) = true
      · rw [if_pos k]
        show Option.map (·.val) (if w.1 = a then _ else o) = Option.map (·.val) (if w.1 = a then _ else o')
        split
        · rfl
        · exact h
      · rw [if_neg k]
        show Option.map (·.val) (if w.1 = a then _ else o) = Option.map (·.val) (if w.1 = a then _ else o')
        split
        · rfl
        · exact h
  exact h ws none none rfl

theorem strikeWrites_answers (s u : State) (ws : List (Nat × MByte)) :
    (strikeWrites s ws).all (fun w => (sectorRefusal u w.1).isNone) = ws.all (fun w => (sectorRefusal u w.1).isNone) := by
  unfold strikeWrites
  rw [List.all_map]
  congr 1
  funext w
  dsimp only [Function.comp]
  split <;> rfl

theorem storedAs_strike {s s' t : State} {ws : List (Nat × MByte)} (h : StoredAs (strikeWrites s' ws) s t) : StoredAs ws s t := by
  intro a ha
  rw [h a ha]
  have k := strikeWrites_lastByte s' ws a
  cases h1 : lastByte (strikeWrites s' ws) a <;> cases h2 : lastByte ws a <;> simp_all

/-- The last steps of a data phase whose effect is settled: store the bytes `ws`, send the faults of `e` and leave the report. -/
def finishWith (u : Nat) (i : Issued) (e : Eff) (ws : List (Nat × MByte)) (undo : List (Nat × Byte)) (src : BitVec 16)
    (s1 : State) : State :=
  (faultsOf src (effFaults i.cmd e) i.id (writeBytes src 0 ws s1).1).addReport
    { is := i, unit := u,
      status := (execStatus e.checksum (!e.faults.isEmpty || (cStrict i.cmd && decide (0 < e.oobR + e.oobW))
        || !(writeBytes src 0 ws s1).2.isEmpty) e.nonFin (e.poison.isSome || e.marked)).1,
      errKind := (execStatus e.checksum (!e.faults.isEmpty || (cStrict i.cmd && decide (0 < e.oobR + e.oobW))
        || !(writeBytes src 0 ws s1).2.isEmpty) e.nonFin (e.poison.isSome || e.marked)).2,
      oobReads := min e.oobR 4294967295, oobWrites := min e.oobW 4294967295, aux := e.aux,
      charged := !(effFaults i.cmd e).isEmpty, ran := true, undo := undo,
      undoErrs := changedErrs ws s1 (writeBytes src 0 ws s1).1 }

/-- The sectors a data phase reads, each with the reads it makes again. -/
def touchAll (u : Nat) (e : Eff) (s : State) : State :=
  e.again.foldl (fun s l => touchReads (srcOfUnit s u) 0 l s) (touchReads (srcOfUnit s u) 0 e.secs s)

theorem finishCmd_eq (u : Nat) (i : Issued) (e : Eff) (s : State) :
    finishCmd u i e s
      = finishWith u i (if struckInSram s (e.stores s) then e.consume i.addr.toNat else e) (strikeWrites s (e.stores s))
          ((strikeWrites s (e.stores s)).map (fun w => (w.1, s.byte w.1)))
          (srcOfUnit s u) (touchAll u (if struckInSram s (e.stores s) then e.consume i.addr.toNat else e) s) := by
  unfold finishCmd
  extract_lets ws0 e1 ws undo s1 fs strictOob
  have q1 : e1 = if struckInSram s (e.stores s) then e.consume i.addr.toNat else e := rfl
  have q2 : ws = strikeWrites s (e.stores s) := rfl
  have q3 : undo = ws.map (fun w => (w.1, s.byte w.1)) := rfl
  have q4 : s1 = touchAll u e1 s := rfl
  rw [← q1, ← q2, ← q3, ← q4]
  have hs : strictOob = (cStrict i.cmd && decide (0 < e1.oobR + e1.oobW)) := rfl
  have hf : fs = effFaults i.cmd e1 := rfl
  clear_value fs strictOob e1 ws undo s1
  subst hs hf
  unfold finishWith
  generalize writeBytes (srcOfUnit s u) 0 ws s1 = x
  obtain ⟨s2, refused⟩ := x
  dsimp only

theorem touchAll_spec (u : Nat) (e : Eff) (s : State) :
    SameData s (touchAll u e s) ∧ (touchAll u e s).ports = s.ports ∧ (touchAll u e s).reports = s.reports :=
  ⟨(sameData_touchReads _ 0 _ s).trans (sameData_foldl _ (fun s l => sameData_touchReads (srcOfUnit s u) 0 l s) _ _),
    (touchAgain_ports _ _ _).1.trans (touchReads_ports _ 0 _ s).1, (touchAgain_ports _ _ _).2.trans (touchReads_ports _ 0 _ s).2⟩

theorem finishWith_spec (u : Nat) (i : Issued) (e : Eff) (ws : List (Nat × MByte)) (undo : List (Nat × Byte))
    (src : BitVec 16) (s1 : State) :
    (finishWith u i e ws undo src s1).ports = s1.ports
    ∧ (∃ r, (finishWith u i e ws undo src s1).reports = s1.reports ++ [r] ∧ r.is = i ∧ r.unit = u ∧ r.ran = true ∧ r.aux = e.aux
        ∧ r.oobReads = min e.oobR 4294967295 ∧ r.oobWrites = min e.oobW 4294967295
        ∧ (r.status, r.errKind) = execStatus e.checksum
            (!e.faults.isEmpty || (cStrict i.cmd && decide (0 < e.oobR + e.oobW))
              || ws.any (fun w => (sectorRefusal s1 w.1).isSome))
            e.nonFin (e.poison.isSome || e.marked))
    ∧ StoredAs ws s1 (finishWith u i e ws undo src s1)
    ∧ ∀ sec, (finishWith u i e ws undo src s1).stuckOf sec = s1.stuckOf sec := by
  unfold finishWith
  obtain ⟨w1, w2, w3, w4⟩ := writeBytes_spec src 0 ws s1
  have p2 := writeBytes_ports src 0 ws s1
  generalize writeBytes src 0 ws s1 = x at w1 w2 w3 w4 p2
  have p3 := faultsOf_ports src (effFaults i.cmd e) i.id x.1
  have d3 := sameData_faultsOf src (effFaults i.cmd e) i.id x.1
  generalize faultsOf src (effFaults i.cmd e) i.id x.1 = y at p3 d3
  refine ⟨p3.1.trans p2.1, ⟨_, congrArg (· ++ [_]) (p3.2.trans p2.2), rfl, rfl, rfl, rfl, rfl, rfl, ?_⟩, ?_, fun sec => (d3.stuck sec).trans (w4 sec)⟩
  · dsimp only
    rw [execStatus_refused _ _ _ _ w3]
  · refine storedAs_right w2 (fun a ha => (w4 _).trans ha) ?_
    exact d3.trans (.of_fields rfl rfl rfl (fun _ => rfl) rfl rfl rfl)

theorem consumeIf_spec (b : Bool) (a : Nat) (e : Eff) :
    (if b then e.consume a else e).aux = e.aux ∧ (if b then e.consume a else e).oobR = e.oobR
      ∧ (if b then e.consume a else e).oobW = e.oobW ∧ (if b then e.consume a else e).checksum = e.checksum
      ∧ (if b then e.consume a else e).faults = e.faults ∧ (if b then e.consume a else e).nonFin = e.nonFin
      ∧ ((if b then e.consume a else e).poison.isSome || (if b then e.consume a else e).marked) = (e.poison.isSome || e.marked || b) := by
  cases b
  · exact ⟨rfl, rfl, rfl, rfl, rfl, rfl, by simp⟩
  · refine ⟨rfl, rfl, rfl, rfl, rfl, rfl, ?_⟩
    simp only [if_true, Eff.consume]
    cases e.poison <;> simp

/-- The end of a data phase: no port changes, one report is added, and its bytes are stored. -/
theorem finishCmd_spec (u : Nat) (i : Issued) (e : Eff) (s : State) :
    (finishCmd u i e s).ports = s.ports
    ∧ (∃ r, (finishCmd u i e s).reports = s.reports ++ [r] ∧ r.is = i ∧ r.unit = u ∧ r.ran = true ∧ r.aux = e.aux
        ∧ r.oobReads = min e.oobR 4294967295 ∧ r.oobWrites = min e.oobW 4294967295
        ∧ (r.status, r.errKind) = execStatus e.checksum
            (!e.faults.isEmpty || (cStrict i.cmd && decide (0 < e.oobR + e.oobW))
              || (e.stores s).any (fun w => (sectorRefusal s w.1).isSome))
            e.nonFin (e.poison.isSome || e.marked || struckInSram s (e.stores s)))
    ∧ StoredAs (e.stores s) s (finishCmd u i e s)
    ∧ ∀ sec, (finishCmd u i e s).stuckOf sec = s.stuckOf sec := by
  obtain ⟨c3, c4, c5, c6, c7, c8, c9⟩ := consumeIf_spec (struckInSram s (e.stores s)) i.addr.toNat e
  rw [finishCmd_eq]
  generalize (if struckInSram s (e.stores s) then e.consume i.addr.toNat else e) = e1 at c3 c4 c5 c6 c7 c8 c9
  obtain ⟨ht, p1, p2⟩ := touchAll_spec u e1 s
  generalize touchAll u e1 s = s1 at ht p1 p2
  generalize ((strikeWrites s (e.stores s)).map (fun w => (w.1, s.byte w.1))) = undo
  obtain ⟨f1, ⟨r, f2, f3, f4, f5, f6, f7, f8, f9⟩, f10, f11⟩ :=
    finishWith_spec u i e1 (strikeWrites s (e.stores s)) undo (srcOfUnit s u) s1
  refine ⟨f1.trans p1, ⟨r, by rw [f2, p2], f3, f4, f5, f6.trans c3, by rw [f7, c4], by rw [f8, c5], ?_⟩, ?_, fun sec => (f11 sec).trans (ht.stuck sec)⟩
  · have h : (strikeWrites s (e.stores s)).any (fun w => (sectorRefusal s1 w.1).isSome)
        = (e.stores s).any (fun w => (sectorRefusal s w.1).isSome) := by
      have k := strikeWrites_answers s s1 (e.stores s)
      rw [List.all_eq_not_any_not, List.all_eq_not_any_not] at k
      have k' := congrArg (fun b => !b) k
      simp only [Bool.not_not] at k'
      have q : ∀ (v : State) (w : Nat × MByte), (!(sectorRefusal v w.1).isNone) = (sectorRefusal v w.1).isSome := by
        intro v w; cases sectorRefusal v w.1 <;> rfl
      simp only [q] at k'
      rw [k']
      congr 1
      funext w
      rw [ht.refusal]
    rw [f9, c4, c5, c6, c7, c8, c9, h]
  · refine storedAs_strike (s' := s) ?_
    intro a ha
    rw [f10 a ((ht.stuck _).trans ha), ht.refusal, ht.val a ha]

/-- A data phase that ends on `s2`, which differs from `s` in no port but that of unit `u`, has left the one report and the bytes that
`Reported` speaks of. -/
theorem reported_finish {u v : Nat} {i : Issued} {e : Eff} {s s1 s2 t : State} (hp : s2.ports = (popPort u s).ports)
    (hr : s2.reports = s.reports) (h0 : SameData s s1) (hd : SameMem s1 s2)
    (ht : t = clearStruck (finishCmd v i e s2)) : Reported u v i e s s1 t := by
  obtain ⟨f1, ⟨r, f2, f3, f4, f5, f6, f7, f8, f9⟩, f10, f11⟩ := finishCmd_spec v i e s2
  have hs : e.stores s2 = e.stores s1 := hd.stores e
  have hany : (e.stores s2).any (fun w => (sectorRefusal s2 w.1).isSome) = (e.stores s1).any (fun w => (sectorRefusal s1 w.1).isSome) := by
    rw [hs]
    congr 1
    funext w
    rw [hd.refusal]
  have hstr : struckInSram s2 (e.stores s2) = struckInSram s1 (e.stores s1) := by rw [hs, hd.struckInSram]
  subst ht
  refine ⟨?_, fun w hw => ?_, ⟨r, by rw [← hr]; exact f2, f3, f4, f5, f6, f7, f8, by rw [f9, hany, hstr]⟩, ?_⟩
  · show mget (finishCmd v i e s2).ports u [] = _
    rw [f1, hp]
    simp [popPort, State.setPort, State.port]
  · show mget (finishCmd v i e s2).ports w [] = _
    rw [f1, hp]
    simp [popPort, State.setPort, State.port, Ne.symm hw]
  · rw [hs] at f10
    refine storedAs_left h0 (hd.stored (storedAs_right f10 (fun a (ha : Intact s2 a) => (f11 _).trans ha) (sameData_clearStruck _)))

end Sys2Proof.Machine
end

