-- ==== Sys2Proof/Laws/FrameUnits.lean ====
section
/-! SUPPORT. What each operation leaves unchanged: queue pairs, groups, unit resets and the distaff. -/

namespace Sys2Proof.Machine

@[simp] theorem State.setPrt_mask {L : Piece → Bool} (s : State) (n : Nat) (p : Prt) (hprts : L .prts = true) :
    (s.setPrt n p).mask L = s.mask L := by
  unfold State.setPrt; simp [*]

@[simp] theorem storeQp_mask {L : Piece → Bool} (n : Nat) (old new : Qp) (s : State) (hreg : L .reg = true) (hmem : L .mem = true) (herrs : L .errs = true) (hskn : L .skn = true) (hdst : L .dst = true) (hseqs : L .seqs = true) :
    (storeQp n old new s).mask L = s.mask L := by
  unfold storeQp; simp [*]

@[simp] theorem State.setQp_mask {L : Piece → Bool} (s : State) (n : Nat) (q : Qp) (hreg : L .reg = true) (hmem : L .mem = true) (herrs : L .errs = true) (hskn : L .skn = true) (hdst : L .dst = true) (hseqs : L .seqs = true) (hqps : L .qps = true) :
    (s.setQp n q).mask L = s.mask L := by
  unfold State.setQp; simp [*]

@[simp] theorem txFrames_mask {L : Piece → Bool} (n k : Nat) (s : State) (hreg : L .reg = true) :
    (txFrames n k s).mask L = s.mask L := by
  unfold txFrames; simp [*]

@[simp] theorem rxFrames_mask {L : Piece → Bool} (n k : Nat) (s : State) (hreg : L .reg = true) :
    (rxFrames n k s).mask L = s.mask L := by
  unfold rxFrames; simp [*]

@[simp] theorem answerOn_mask {L : Piece → Bool} (n cls k : Nat) (o : Pkt) (s : State) (hreg : L .reg = true) (hprts : L .prts = true) (hout : L .out = true) :
    (answerOn n cls k o s).mask L = s.mask L := by
  unfold answerOn; simp [*]

@[simp] theorem sendHeld_mask {L : Piece → Bool} (p : Nat) (s : State) (hreg : L .reg = true) (hprts : L .prts = true) (hout : L .out = true) :
    (sendHeld p s).mask L = s.mask L := by
  unfold sendHeld; simp [*]

@[simp] theorem sendOp_mask {L : Piece → Bool} (n : Nat) (q : Qp) (o : SqOp) (s : State) (hreg : L .reg = true) (hout : L .out = true) :
    (sendOp n q o s).mask L = s.mask L := by
  unfold sendOp; simp [*]

@[simp] theorem pumpQp_mask {L : Piece → Bool} (n : Nat) (s : State) (hreg : L .reg = true) (hmem : L .mem = true) (herrs : L .errs = true) (hskn : L .skn = true) (hdst : L .dst = true) (hseqs : L .seqs = true) (hqps : L .qps = true) (hout : L .out = true) :
    (pumpQp n s).mask L = s.mask L := by
  unfold pumpQp; simp [*]

@[simp] theorem postOp_mask {L : Piece → Bool} (n : Nat) (op : WireOp) (s : State) (hreg : L .reg = true) (hmem : L .mem = true) (herrs : L .errs = true) (hskn : L .skn = true) (hdst : L .dst = true) (hseqs : L .seqs = true) (hqps : L .qps = true) (hout : L .out = true) :
    (postOp n op s).mask L = s.mask L := by
  unfold postOp; simp [*]

@[simp] theorem retransmit_mask {L : Piece → Bool} (n : Nat) (s : State) (hreg : L .reg = true) (hmem : L .mem = true) (herrs : L .errs = true) (hskn : L .skn = true) (hdst : L .dst = true) (hseqs : L .seqs = true) (hqps : L .qps = true) (hout : L .out = true) :
    (retransmit n s).mask L = s.mask L := by
  unfold retransmit; simp [*]

@[simp] theorem pumpPort_mask {L : Piece → Bool} (p : Nat) (s : State) (hreg : L .reg = true) (hmem : L .mem = true) (herrs : L .errs = true) (hskn : L .skn = true) (hdst : L .dst = true) (hseqs : L .seqs = true) (hqps : L .qps = true) (hprts : L .prts = true) (hout : L .out = true) :
    (pumpPort p s).mask L = s.mask L := by
  unfold pumpPort; simp [*]

@[simp] theorem ceMark_mask {L : Piece → Bool} (n k dest : Nat) (s : State) (hreg : L .reg = true) (hmem : L .mem = true) (herrs : L .errs = true) (hskn : L .skn = true) (hdst : L .dst = true) (hseqs : L .seqs = true) (hqps : L .qps = true) (hprts : L .prts = true) (hout : L .out = true) :
    (ceMark n k dest s).mask L = s.mask L := by
  unfold ceMark; simp [*]

@[simp] theorem sendPfc_mask {L : Piece → Bool} (p : Nat) (ctrl xoff : Bool) (s : State) (hreg : L .reg = true) (hprts : L .prts = true) (hout : L .out = true) :
    (sendPfc p ctrl xoff s).mask L = s.mask L := by
  unfold sendPfc; simp [*]

@[simp] theorem watchIngress_mask {L : Piece → Bool} (p : Nat) (ctrl : Bool) (occ : Nat) (s : State) (hreg : L .reg = true) (hprts : L .prts = true) (hout : L .out = true) :
    (watchIngress p ctrl occ s).mask L = s.mask L := by
  unfold watchIngress; simp [*]

@[simp] theorem ingressFrom_mask {L : Piece → Bool} (n k src_ : Nat) (ing : Ingress) (s : State) (hreg : L .reg = true) (hmem : L .mem = true) (herrs : L .errs = true) (hskn : L .skn = true) (hdst : L .dst = true) (hseqs : L .seqs = true) (hqps : L .qps = true) (hprts : L .prts = true) (hout : L .out = true) :
    (ingressFrom n k src_ ing s).1.mask L = s.mask L := by
  simp only [ingressFrom]; (repeat' split) <;> simp [*]

@[simp] theorem ingress_mask {L : Piece → Bool} (n k : Nat) (ing : Ingress) (s : State) (hreg : L .reg = true) (hmem : L .mem = true) (herrs : L .errs = true) (hskn : L .skn = true) (hdst : L .dst = true) (hseqs : L .seqs = true) (hqps : L .qps = true) (hprts : L .prts = true) (hout : L .out = true) :
    (ingress n k ing s).1.mask L = s.mask L := by
  simp only [ingress]; (repeat' split) <;> simp [*]

@[simp] theorem touchEndpoint_mask {L : Piece → Bool} (e : Nat) (s : State) (hreg : L .reg = true) (hmem : L .mem = true) (herrs : L .errs = true) (hskn : L .skn = true) (hdst : L .dst = true) (hseqs : L .seqs = true) :
    (touchEndpoint e s).mask L = s.mask L := by
  unfold touchEndpoint; simp [*]

@[simp] theorem noPath_mask {L : Piece → Bool} (e : Nat) (s : State) (hdst : L .dst = true) (hseqs : L .seqs = true) :
    (noPath e s).mask L = s.mask L := by
  unfold noPath; simp [*]

@[simp] theorem qpOutcome_mask {L : Piece → Bool} (n : Nat) (ok : Bool) (s : State) (hdst : L .dst = true) (hseqs : L .seqs = true) (hqpResult : L .qpResult = true) :
    (qpOutcome n ok s).mask L = s.mask L := by
  unfold qpOutcome; simp [*]

@[simp] theorem qpLoad_mask {L : Piece → Bool} (n : Nat) (s0 : State) (hreg : L .reg = true) (hmem : L .mem = true) (herrs : L .errs = true) (hskn : L .skn = true) (hdst : L .dst = true) (hseqs : L .seqs = true) (hqps : L .qps = true) (hqpResult : L .qpResult = true) :
    (qpLoad n s0).mask L = s0.mask L := by
  unfold qpLoad; simp [*]

@[simp] theorem qpRearm_mask {L : Piece → Bool} (n : Nat) (s : State) (hreg : L .reg = true) (hmem : L .mem = true) (herrs : L .errs = true) (hskn : L .skn = true) (hdst : L .dst = true) (hseqs : L .seqs = true) (hqps : L .qps = true) (hqpResult : L .qpResult = true) :
    (qpRearm n s).mask L = s.mask L := by
  unfold qpRearm; simp [*]

@[simp] theorem postSend_mask {L : Piece → Bool} (ep : Nat) (bytes : List Byte) (owner : Option Nat) (s : State) (q : Option (Nat × Bool)) (hreg : L .reg = true) (hmem : L .mem = true) (herrs : L .errs = true) (hskn : L .skn = true) (hdst : L .dst = true) (hseqs : L .seqs = true) (hqps : L .qps = true) (hout : L .out = true) :
    (postSend ep bytes owner s q).1.mask L = s.mask L := by
  simp only [postSend]; (repeat' split) <;> simp [*]

@[simp] theorem sendEnd_mask {L : Piece → Bool} (ep : Nat) (bytes : List Byte) (owner : Option Nat) (s0 : State) (hreg : L .reg = true) (hmem : L .mem = true) (herrs : L .errs = true) (hskn : L .skn = true) (hdst : L .dst = true) (hseqs : L .seqs = true) (hqps : L .qps = true) (hout : L .out = true) :
    (sendEnd ep bytes owner s0).1.mask L = s0.mask L := by
  simp only [sendEnd]; (repeat' split) <;> simp [*]

@[simp] theorem sendRank_mask {L : Piece → Bool} (e : Grp) (rank : Nat) (bytes : List Byte) (s : State) (hreg : L .reg = true) (hmem : L .mem = true) (herrs : L .errs = true) (hskn : L .skn = true) (hdst : L .dst = true) (hseqs : L .seqs = true) (hqps : L .qps = true) (hout : L .out = true) :
    (sendRank e rank bytes s).1.mask L = s.mask L := by
  unfold sendRank
  simp [*]

@[simp] theorem sendReplayHold_mask {L : Piece → Bool} (ctx : Nat) (step : Word) (s : State) (hreg : L .reg = true) (hmem : L .mem = true) (herrs : L .errs = true) (hskn : L .skn = true) (hdst : L .dst = true) (hseqs : L .seqs = true) (hqps : L .qps = true) (hout : L .out = true) :
    (sendReplayHold ctx step s).mask L = s.mask L := by
  unfold sendReplayHold
  refine mask_foldl (fun t g => ?_) _ _
  split
  · split
    · refine mask_foldl (fun u k => ?_) _ _
      split <;> simp [*]
    · rfl
  · rfl

@[simp] theorem dropFetches_mask {L : Piece → Bool} (k : Nat) (s : State) (hqps : L .qps = true) (hcrds : L .crds = true) :
    (dropFetches k s).mask L = s.mask L := by
  unfold dropFetches; simp only [State.mask, *, if_true]

@[simp] theorem pruneMcast_mask {L : Piece → Bool} (v : Nat) (s : State) (hfree : L .free = true) (hreg : L .reg = true) :
    (pruneMcast v s).mask L = s.mask L := by
  simp only [pruneMcast]; (repeat' split) <;> simp [*]

@[simp] theorem clearUnit_mask {L : Piece → Bool} (v : Nat) (s : State) (hreg : L .reg = true) (hskn : L .skn = true) (hspn : L .spn = true) (hfly : L .fly = true) (hqps : L .qps = true) (hprts : L .prts = true) (hcrds : L .crds = true) :
    (clearUnit v s).mask L = s.mask L := by
  unfold clearUnit; simp [*]

@[simp] theorem abandonPly_mask {L : Piece → Bool} (s : State) (hreports : L .reports = true) (hqps : L .qps = true) (hply : L .ply = true) :
    (abandonPly s).mask L = s.mask L := by
  unfold abandonPly; simp only [State.mask, *, if_true]

@[simp] theorem abandonJob_mask {L : Piece → Bool} (k : Nat) (s : State) (hreports : L .reports = true) (hcrds : L .crds = true) :
    (abandonJob k s).mask L = s.mask L := by
  unfold abandonJob
  dsimp only
  split
  · rfl
  · simp only [State.mask, *, if_true]

@[simp] theorem bumpVec_mask {L : Piece → Bool} (v : Nat) (s : State) (hepochs : L .epochs = true) :
    (bumpVec v s).mask L = s.mask L := by
  simp only [bumpVec]; (repeat' split) <;> simp [*]

@[simp] theorem eitherWay_mask {L : Piece → Bool} (f : State → State) (s : State) (hfree : L .free = true) (hf : ∀ s, (f s).mask L = s.mask L) :
    (eitherWay f s).mask L = s.mask L := by
  unfold eitherWay
  rw [State.bumpFree_mask _ hfree]
  split <;> simp [*]

@[simp] theorem undoErr_mask {L : Piece → Bool} (x : Nat × List Byte × List Byte) (s : State) (herrs : L .errs = true) :
    (undoErr x s).mask L = s.mask L := by
  unfold undoErr; simp [*]

@[simp] theorem undoBytes_mask {L : Piece → Bool} (r : Report) (s : State) (hfree : L .free = true) (hmem : L .mem = true) (herrs : L .errs = true) :
    (undoBytes r s).mask L = s.mask L := by
  unfold undoBytes
  refine (mask_foldl (fun t x => ?_) _ _).trans (mask_foldl (fun t w => ?_) _ _)
  · exact eitherWay_mask _ _ hfree (fun u => by simp [*])
  · exact eitherWay_mask _ _ hfree (fun u => by simp [*])

@[simp] theorem abandonUnit_mask {L : Piece → Bool} (v : Nat) (s : State) (hfree : L .free = true) (hmem : L .mem = true) (herrs : L .errs = true) (hreports : L .reports = true) (hqps : L .qps = true) (hcrds : L .crds = true) (hply : L .ply = true) :
    (abandonUnit v s).mask L = s.mask L := by
  unfold abandonUnit; simp [*]

@[simp] theorem dropSector_mask {L : Piece → Bool} (who : BitVec 16) (r : Report) (sec : Nat) (s : State) (hreg : L .reg = true) (hmem : L .mem = true) (herrs : L .errs = true) (hdst : L .dst = true) (hseqs : L .seqs = true) :
    (dropSector who r sec s).mask L = s.mask L := by
  unfold dropSector; simp [*]

@[simp] theorem meetReset_mask {L : Piece → Bool} (k : Nat) (r : Report) (s : State) (hfree : L .free = true) (hreg : L .reg = true) (hmem : L .mem = true) (herrs : L .errs = true) (hdst : L .dst = true) (hseqs : L .seqs = true) :
    (meetReset k r s).2.mask L = s.mask L := by
  unfold meetReset
  dsimp only
  refine mask_foldl_snd (fun t sec => ?_) _ _
  split <;> simp [*]

@[simp] theorem dropInFlight_mask {L : Piece → Bool} (k : Nat) (s : State) (hfree : L .free = true) (hreg : L .reg = true) (hmem : L .mem = true) (herrs : L .errs = true) (hdst : L .dst = true) (hreports : L .reports = true) (hseqs : L .seqs = true) :
    (dropInFlight k s).mask L = s.mask L := by
  unfold dropInFlight; simp [*]

@[simp] theorem applyReset_mask {L : Piece → Bool} (v : Nat) (s : State) (hfree : L .free = true) (hreg : L .reg = true) (hmem : L .mem = true) (herrs : L .errs = true) (hskn : L .skn = true) (hdst : L .dst = true) (hpend : L .pend = true) (hepochs : L .epochs = true) (hreports : L .reports = true) (hseqs : L .seqs = true) (hspn : L .spn = true) (hfly : L .fly = true) (hqps : L .qps = true) (hprts : L .prts = true) (hcrds : L .crds = true) (hply : L .ply = true) :
    (applyReset v s).mask L = s.mask L := by
  simp only [applyReset]; (repeat' split) <;> simp [*]

@[simp] theorem resetUnit_mask {L : Piece → Bool} (note : Bool) (v : Nat) (s : State) (hfree : L .free = true) (hreg : L .reg = true) (hmem : L .mem = true) (herrs : L .errs = true) (hskn : L .skn = true) (hdst : L .dst = true) (hpend : L .pend = true) (hrstBusy : L .rstBusy = true) (hepochs : L .epochs = true) (hreports : L .reports = true) (hseqs : L .seqs = true) (hspn : L .spn = true) (hfly : L .fly = true) (hqps : L .qps = true) (hprts : L .prts = true) (hcrds : L .crds = true) (hply : L .ply = true) :
    (resetUnit note v s).mask L = s.mask L := by
  unfold resetUnit; simp [*]

@[simp] theorem stopUnit_mask {L : Piece → Bool} (v : Nat) (s : State) (hpend : L .pend = true) :
    (stopUnit v s).mask L = s.mask L := by
  unfold stopUnit; simp [*]

@[simp] theorem gateOff_mask {L : Piece → Bool} (v : Nat) (s : State) (hgate : L .gate = true) (hpend : L .pend = true) :
    (gateOff v s).mask L = s.mask L := by
  unfold gateOff; simp [*]

@[simp] theorem gateOn_mask {L : Piece → Bool} (v : Nat) (s : State) (hgate : L .gate = true) (hpend : L .pend = true) :
    (gateOn v s).mask L = s.mask L := by
  unfold gateOn; simp only [State.mask, *, if_true]

@[simp] theorem sleepOn_mask {L : Piece → Bool} (v : Nat) (s : State) (hpend : L .pend = true) (hsleepReq : L .sleepReq = true) :
    (sleepOn v s).mask L = s.mask L := by
  unfold sleepOn; simp [*]

@[simp] theorem sleepOff_mask {L : Piece → Bool} (v : Nat) (s : State) (hpend : L .pend = true) (hsleepReq : L .sleepReq = true) (hwakeAt : L .wakeAt = true) :
    (sleepOff v s).mask L = s.mask L := by
  unfold sleepOff
  dsimp only
  split
  · split <;> simp only [State.mask, *, if_true]
  · simp only [State.mask, *, if_true]

@[simp] theorem enterSleep_mask {L : Piece → Bool} (v : Nat) (s : State) (hreg : L .reg = true) (hskn : L .skn = true) (hpend : L .pend = true) (hasleep : L .asleep = true) (hepochs : L .epochs = true) (hspn : L .spn = true) (hfly : L .fly = true) (hqps : L .qps = true) (hprts : L .prts = true) (hcrds : L .crds = true) :
    (enterSleep v s).mask L = s.mask L := by
  unfold enterSleep
  dsimp only
  simp only [clearUnit_mask, *]
  rw [← bumpVec_mask v s hepochs]
  simp only [State.mask, *, if_true]

@[simp] theorem returnFromSleep_mask {L : Piece → Bool} (v : Nat) (s : State) (hfree : L .free = true) (hreg : L .reg = true) (hmem : L .mem = true) (herrs : L .errs = true) (hskn : L .skn = true) (hdst : L .dst = true) (hpend : L .pend = true) (hasleep : L .asleep = true) (hwakeAt : L .wakeAt = true) (hepochs : L .epochs = true) (hreports : L .reports = true) (hseqs : L .seqs = true) (hspn : L .spn = true) (hfly : L .fly = true) (hqps : L .qps = true) (hprts : L .prts = true) (hcrds : L .crds = true) (hply : L .ply = true) :
    (returnFromSleep v s).mask L = s.mask L := by
  unfold returnFromSleep
  dsimp only
  have h : ({ s with asleep := setBit s.asleep v false, wakeAt := mdel s.wakeAt v } : State).mask L = s.mask L := by
    simp only [State.mask, *, if_true]
  split <;> simp [*]

@[simp] theorem requestSpare_mask {L : Piece → Bool} (p : Nat) (s : State) (hdst : L .dst = true) (hspareReq : L .spareReq = true) (hseqs : L .seqs = true) :
    (requestSpare p s).mask L = s.mask L := by
  unfold requestSpare; simp [*]

@[simp] theorem noteRetired_mask {L : Piece → Bool} (v : Nat) (s : State) (hwhl : L .whl = true) :
    (noteRetired v s).mask L = s.mask L := by
  unfold noteRetired; simp [*]

@[simp] theorem dropLink_mask {L : Piece → Bool} (n : Nat) (s : State) (hprts : L .prts = true) :
    (dropLink n s).mask L = s.mask L := by
  unfold dropLink; simp [*]

@[simp] theorem retireEffect_mask {L : Piece → Bool} (v : Nat) (s : State) (hdst : L .dst = true) (hgate : L .gate = true) (hpend : L .pend = true) (hspareReq : L .spareReq = true) (hseqs : L .seqs = true) (hprts : L .prts = true) (hwhl : L .whl = true) :
    (retireEffect v s).mask L = s.mask L := by
  simp only [retireEffect]; (repeat' split) <;> simp [*]

@[simp] theorem markRetired_mask {L : Piece → Bool} (v : Nat) (s : State) (hfree : L .free = true) (hdst : L .dst = true) (hseqs : L .seqs = true) (hrwp : L .rwp = true) (hwear : L .wear = true) (hnvm : L .nvm = true) (hndy : L .ndy = true) :
    (markRetired v s).mask L = s.mask L := by
  simp only [markRetired]; (repeat' split) <;> simp [*]

@[simp] theorem retireUnit_mask {L : Piece → Bool} (v : Nat) (s : State) (hfree : L .free = true) (hdst : L .dst = true) (hgate : L .gate = true) (hpend : L .pend = true) (hspareReq : L .spareReq = true) (hseqs : L .seqs = true) (hrwp : L .rwp = true) (hwear : L .wear = true) (hretireWait : L .retireWait = true) (hprts : L .prts = true) (hnvm : L .nvm = true) (hndy : L .ndy = true) (hwhl : L .whl = true) :
    (retireUnit v s).mask L = s.mask L := by
  unfold retireUnit; simp [*]

@[simp] theorem returnUnit_mask {L : Piece → Bool} (v : Nat) (s : State) (hfree : L .free = true) (hreg : L .reg = true) (hmem : L .mem = true) (herrs : L .errs = true) (hskn : L .skn = true) (hdst : L .dst = true) (hgate : L .gate = true) (hpend : L .pend = true) (hrstBusy : L .rstBusy = true) (hsleepReq : L .sleepReq = true) (hwakeAt : L .wakeAt = true) (hepochs : L .epochs = true) (hreports : L .reports = true) (hseqs : L .seqs = true) (hretireWait : L .retireWait = true) (hspn : L .spn = true) (hfly : L .fly = true) (hqps : L .qps = true) (hprts : L .prts = true) (hcrds : L .crds = true) (hply : L .ply = true) (hwhl : L .whl = true) :
    (returnUnit v s).mask L = s.mask L := by
  unfold returnUnit
  dsimp only
  have h : ({ s with retireWait := setBit s.retireWait v false, whl := { s.whl with retiredAt := mdel s.whl.retiredAt v } } : State).mask L
      = s.mask L := by simp only [State.mask, *, if_true]
  split <;> simp [*]

@[simp] theorem resetDone_mask {L : Piece → Bool} (v : Nat) (s : State) (hfree : L .free = true) (hdst : L .dst = true) (hgate : L .gate = true) (hpend : L .pend = true) (hrstBusy : L .rstBusy = true) (hspareReq : L .spareReq = true) (hseqs : L .seqs = true) (hrwp : L .rwp = true) (hwear : L .wear = true) (hretireWait : L .retireWait = true) (hprts : L .prts = true) (hnvm : L .nvm = true) (hndy : L .ndy = true) (hwhl : L .whl = true) :
    (resetDone v s).mask L = s.mask L := by
  unfold resetDone
  dsimp only
  have h : ({ s with rstBusy := setBit s.rstBusy v false, retireWait := setBit s.retireWait v false } : State).mask L = s.mask L := by
    simp only [State.mask, *, if_true]
  split
  · split <;> simp [*]
  · simp [*]

@[simp] theorem deviceReset_mask {L : Piece → Bool} (cause : BitVec 3) (s : State) (hL : Covers [.pending, .wall, .free, .ids, .rwp, .wear, .nvm, .fuses, .out] L) :
    (deviceReset cause s).mask L = s.mask L := by
  have htick := hL.at (p := .tick) (by decide)
  have hcyc := hL.at (p := .cyc) (by decide)
  have hreg := hL.at (p := .reg) (by decide)
  have hmem := hL.at (p := .mem) (by decide)
  have herrs := hL.at (p := .errs) (by decide)
  have hskn := hL.at (p := .skn) (by decide)
  have hdst := hL.at (p := .dst) (by decide)
  have hgate := hL.at (p := .gate) (by decide)
  have hpend := hL.at (p := .pend) (by decide)
  have hrstBusy := hL.at (p := .rstBusy) (by decide)
  have hsleepReq := hL.at (p := .sleepReq) (by decide)
  have hasleep := hL.at (p := .asleep) (by decide)
  have hwakeAt := hL.at (p := .wakeAt) (by decide)
  have hrun := hL.at (p := .run) (by decide)
  have hspare := hL.at (p := .spare) (by decide)
  have hspareReq := hL.at (p := .spareReq) (by decide)
  have hready := hL.at (p := .ready) (by decide)
  have hbobs := hL.at (p := .bobs) (by decide)
  have hturns := hL.at (p := .turns) (by decide)
  have hfetchTurns := hL.at (p := .fetchTurns) (by decide)
  have hbarriers := hL.at (p := .barriers) (by decide)
  have hbarrierAt := hL.at (p := .barrierAt) (by decide)
  have hholds := hL.at (p := .holds) (by decide)
  have hepochs := hL.at (p := .epochs) (by decide)
  have hports := hL.at (p := .ports) (by decide)
  have hsched := hL.at (p := .sched) (by decide)
  have hreports := hL.at (p := .reports) (by decide)
  have hseqs := hL.at (p := .seqs) (by decide)
  have hretireWait := hL.at (p := .retireWait) (by decide)
  have hcause := hL.at (p := .cause) (by decide)
  have hpllLock := hL.at (p := .pllLock) (by decide)
  have hspread := hL.at (p := .spread) (by decide)
  have honRoot := hL.at (p := .onRoot) (by decide)
  have hclocksOn := hL.at (p := .clocksOn) (by decide)
  have hfmRun := hL.at (p := .fmRun) (by decide)
  have hfmDone := hL.at (p := .fmDone) (by decide)
  have hfmResult := hL.at (p := .fmResult) (by decide)
  have hdriftOdd := hL.at (p := .driftOdd) (by decide)
  have hmonLast := hL.at (p := .monLast) (by decide)
  have hfmt := hL.at (p := .fmt) (by decide)
  have hspn := hL.at (p := .spn) (by decide)
  have hfly := hL.at (p := .fly) (by decide)
  have hcurves := hL.at (p := .curves) (by decide)
  have hstruck := hL.at (p := .struck) (by decide)
  have himages := hL.at (p := .images) (by decide)
  have himgState := hL.at (p := .imgState) (by decide)
  have hloading := hL.at (p := .loading) (by decide)
  have hloadCtx := hL.at (p := .loadCtx) (by decide)
  have hloadResult := hL.at (p := .loadResult) (by decide)
  have hloadAddr := hL.at (p := .loadAddr) (by decide)
  have hplanCache := hL.at (p := .planCache) (by decide)
  have hlastRun := hL.at (p := .lastRun) (by decide)
  have hlastBucket := hL.at (p := .lastBucket) (by decide)
  have hctxs := hL.at (p := .ctxs) (by decide)
  have htrns := hL.at (p := .trns) (by decide)
  have hlsInit := hL.at (p := .lsInit) (by decide)
  have hqps := hL.at (p := .qps) (by decide)
  have hprts := hL.at (p := .prts) (by decide)
  have hqpResult := hL.at (p := .qpResult) (by decide)
  have hcrds := hL.at (p := .crds) (by decide)
  have hply := hL.at (p := .ply) (by decide)
  have hndy := hL.at (p := .ndy) (by decide)
  have hwhl := hL.at (p := .whl) (by decide)
  have hpkg := hL.at (p := .pkg) (by decide)
  unfold deviceReset; simp only [State.mask, *, if_true]

@[simp] theorem classifyMsg_mask {L : Piece → Bool} (m : Msg) (s : State) (hdst : L .dst = true) :
    (classifyMsg m s).2.mask L = s.mask L := by
  simp only [classifyMsg]; (repeat' split) <;> simp [*]

@[simp] theorem writeResetRecord_mask {L : Piece → Bool} (m : Msg) (s : State) (hfree : L .free = true) (hdst : L .dst = true) (hseqs : L .seqs = true) (hrwp : L .rwp = true) (hwear : L .wear = true) (hnvm : L .nvm = true) (hndy : L .ndy = true) :
    (writeResetRecord m s).mask L = s.mask L := by
  unfold writeResetRecord; simp [*]

@[simp] theorem stopCtx_mask {L : Piece → Bool} (c : Nat) (s : State) (hrun : L .run = true) :
    (stopCtx c s).mask L = s.mask L := by
  unfold stopCtx; simp [*]

@[simp] theorem applyAction_mask {L : Piece → Bool} (a : BitVec 3) (m : Msg) (s : State) (hfree : L .free = true) (hreg : L .reg = true) (hmem : L .mem = true) (herrs : L .errs = true) (hskn : L .skn = true) (hdst : L .dst = true) (hgate : L .gate = true) (hpend : L .pend = true) (hrstBusy : L .rstBusy = true) (hrun : L .run = true) (hspareReq : L .spareReq = true) (hepochs : L .epochs = true) (hreports : L .reports = true) (hseqs : L .seqs = true) (hrwp : L .rwp = true) (hwear : L .wear = true) (hretireWait : L .retireWait = true) (hspn : L .spn = true) (hfly : L .fly = true) (hqps : L .qps = true) (hprts : L .prts = true) (hcrds : L .crds = true) (hply : L .ply = true) (hnvm : L .nvm = true) (hndy : L .ndy = true) (hwhl : L .whl = true) :
    (applyAction a m s).mask L = s.mask L := by
  simp only [applyAction]; (repeat' split) <;> simp [*]

@[simp] theorem setStatus_mask {L : Piece → Bool} (b : BitVec 6) (s : State) (hdst : L .dst = true) :
    (setStatus b s).mask L = s.mask L := by
  unfold setStatus; simp [*]

@[simp] theorem latchMsg_mask {L : Piece → Bool} (seq : Word) (m : Msg) (s : State) (hdst : L .dst = true) :
    (latchMsg seq m s).mask L = s.mask L := by
  unfold latchMsg; simp [*]

@[simp] theorem logMsg_mask {L : Piece → Bool} (rec : BitVec 256) (s : State) (hreg : L .reg = true) (hdst : L .dst = true) :
    (logMsg rec s).mask L = s.mask L := by
  unfold logMsg; simp [*]

@[simp] theorem postEvent_mask {L : Piece → Bool} (seq : Word) (m : Msg) (action : BitVec 3) (fallback : Bool) (s : State) (hreg : L .reg = true) (hmem : L .mem = true) (herrs : L .errs = true) (hskn : L .skn = true) (hdst : L .dst = true) (hseqs : L .seqs = true) :
    (postEvent seq m action fallback s).mask L = s.mask L := by
  unfold postEvent; simp [*]

@[simp] theorem chargeSeq_mask {L : Piece → Bool} (charge : Option Nat) (seq : Word) (s : State) (hseqs : L .seqs = true) :
    (chargeSeq charge seq s).mask L = s.mask L := by
  simp only [chargeSeq]; (repeat' split) <;> simp [*]

@[simp] theorem damageDst_mask {L : Piece → Bool} (h : Hit) (s : State) (hdst : L .dst = true) (hseqs : L .seqs = true) :
    (damageDst h s).mask L = s.mask L := by
  unfold damageDst; simp [*]

@[simp] theorem acceptMsg_mask {L : Piece → Bool} (q : QMsg) (s : State) (hL : Covers [.pending, .wall, .ids, .fuses, .out] L) :
    (acceptMsg q s).mask L = s.mask L := by
  have htick := hL.at (p := .tick) (by decide)
  have hcyc := hL.at (p := .cyc) (by decide)
  have hfree := hL.at (p := .free) (by decide)
  have hreg := hL.at (p := .reg) (by decide)
  have hmem := hL.at (p := .mem) (by decide)
  have herrs := hL.at (p := .errs) (by decide)
  have hskn := hL.at (p := .skn) (by decide)
  have hdst := hL.at (p := .dst) (by decide)
  have hgate := hL.at (p := .gate) (by decide)
  have hpend := hL.at (p := .pend) (by decide)
  have hrstBusy := hL.at (p := .rstBusy) (by decide)
  have hsleepReq := hL.at (p := .sleepReq) (by decide)
  have hasleep := hL.at (p := .asleep) (by decide)
  have hwakeAt := hL.at (p := .wakeAt) (by decide)
  have hrun := hL.at (p := .run) (by decide)
  have hspare := hL.at (p := .spare) (by decide)
  have hspareReq := hL.at (p := .spareReq) (by decide)
  have hready := hL.at (p := .ready) (by decide)
  have hbobs := hL.at (p := .bobs) (by decide)
  have hturns := hL.at (p := .turns) (by decide)
  have hfetchTurns := hL.at (p := .fetchTurns) (by decide)
  have hbarriers := hL.at (p := .barriers) (by decide)
  have hbarrierAt := hL.at (p := .barrierAt) (by decide)
  have hholds := hL.at (p := .holds) (by decide)
  have hepochs := hL.at (p := .epochs) (by decide)
  have hports := hL.at (p := .ports) (by decide)
  have hsched := hL.at (p := .sched) (by decide)
  have hreports := hL.at (p := .reports) (by decide)
  have hseqs := hL.at (p := .seqs) (by decide)
  have hrwp := hL.at (p := .rwp) (by decide)
  have hwear := hL.at (p := .wear) (by decide)
  have hretireWait := hL.at (p := .retireWait) (by decide)
  have hcause := hL.at (p := .cause) (by decide)
  have hpllLock := hL.at (p := .pllLock) (by decide)
  have hspread := hL.at (p := .spread) (by decide)
  have honRoot := hL.at (p := .onRoot) (by decide)
  have hclocksOn := hL.at (p := .clocksOn) (by decide)
  have hfmRun := hL.at (p := .fmRun) (by decide)
  have hfmDone := hL.at (p := .fmDone) (by decide)
  have hfmResult := hL.at (p := .fmResult) (by decide)
  have hdriftOdd := hL.at (p := .driftOdd) (by decide)
  have hmonLast := hL.at (p := .monLast) (by decide)
  have hfmt := hL.at (p := .fmt) (by decide)
  have hspn := hL.at (p := .spn) (by decide)
  have hfly := hL.at (p := .fly) (by decide)
  have hcurves := hL.at (p := .curves) (by decide)
  have hstruck := hL.at (p := .struck) (by decide)
  have himages := hL.at (p := .images) (by decide)
  have himgState := hL.at (p := .imgState) (by decide)
  have hloading := hL.at (p := .loading) (by decide)
  have hloadCtx := hL.at (p := .loadCtx) (by decide)
  have hloadResult := hL.at (p := .loadResult) (by decide)
  have hloadAddr := hL.at (p := .loadAddr) (by decide)
  have hplanCache := hL.at (p := .planCache) (by decide)
  have hlastRun := hL.at (p := .lastRun) (by decide)
  have hlastBucket := hL.at (p := .lastBucket) (by decide)
  have hctxs := hL.at (p := .ctxs) (by decide)
  have htrns := hL.at (p := .trns) (by decide)
  have hlsInit := hL.at (p := .lsInit) (by decide)
  have hqps := hL.at (p := .qps) (by decide)
  have hprts := hL.at (p := .prts) (by decide)
  have hqpResult := hL.at (p := .qpResult) (by decide)
  have hcrds := hL.at (p := .crds) (by decide)
  have hply := hL.at (p := .ply) (by decide)
  have hnvm := hL.at (p := .nvm) (by decide)
  have hndy := hL.at (p := .ndy) (by decide)
  have hwhl := hL.at (p := .whl) (by decide)
  have hpkg := hL.at (p := .pkg) (by decide)
  have hK0 := hL.mono (K' := [.pending, .wall, .free, .ids, .rwp, .wear, .nvm, .fuses, .out]) (by decide)
  have key : ∀ (c : Prop) [Decidable c] (a b : State), a.mask L = s.mask L → b.mask L = s.mask L →
      (if c then a else b).mask L = s.mask L := fun c _ a b ha hb => by split <;> assumption
  unfold acceptMsg
  extract_lets m seq d s1 s2 s3
  have h1 : s1.mask L = s.mask L := mask_set_dst hdst
  have h3 : s3.mask L = s.mask L := by
    show ((s2.count _ _).count _ _).mask L = _
    rw [State.count_mask _ _ _ hreg, State.count_mask _ _ _ hreg]
    exact (chargeSeq_mask _ _ _ hseqs).trans h1
  clear_value s3
  refine key _ _ _ ?_ ?_
  · have hc := classifyMsg_mask (L := L) m s3 hdst
    generalize classifyMsg m s3 = c at hc ⊢
    obtain ⟨v, s4⟩ := c
    dsimp only at hc ⊢
    generalize settleAction _ _ = w
    obtain ⟨a, fb⟩ := w
    dsimp only
    have h5 : (if v = true then (setStatus 32 s4).count (rDst 0x24) 1 else s4).mask L = s.mask L := by
      split <;> simp [*]
    generalize (if v = true then (setStatus 32 s4).count (rDst 0x24) 1 else s4) = s5 at h5 ⊢
    refine key _ _ _ ?_ (key _ _ _ ?_ ?_) <;> simp [*]
  · simp [*]

@[simp] theorem acceptNext_mask {L : Piece → Bool} (s : State) (hL : Covers [.pending, .wall, .ids, .fuses, .out] L) :
    (acceptNext s).mask L = s.mask L := by
  have htick := hL.at (p := .tick) (by decide)
  have hcyc := hL.at (p := .cyc) (by decide)
  have hfree := hL.at (p := .free) (by decide)
  have hreg := hL.at (p := .reg) (by decide)
  have hmem := hL.at (p := .mem) (by decide)
  have herrs := hL.at (p := .errs) (by decide)
  have hskn := hL.at (p := .skn) (by decide)
  have hdst := hL.at (p := .dst) (by decide)
  have hgate := hL.at (p := .gate) (by decide)
  have hpend := hL.at (p := .pend) (by decide)
  have hrstBusy := hL.at (p := .rstBusy) (by decide)
  have hsleepReq := hL.at (p := .sleepReq) (by decide)
  have hasleep := hL.at (p := .asleep) (by decide)
  have hwakeAt := hL.at (p := .wakeAt) (by decide)
  have hrun := hL.at (p := .run) (by decide)
  have hspare := hL.at (p := .spare) (by decide)
  have hspareReq := hL.at (p := .spareReq) (by decide)
  have hready := hL.at (p := .ready) (by decide)
  have hbobs := hL.at (p := .bobs) (by decide)
  have hturns := hL.at (p := .turns) (by decide)
  have hfetchTurns := hL.at (p := .fetchTurns) (by decide)
  have hbarriers := hL.at (p := .barriers) (by decide)
  have hbarrierAt := hL.at (p := .barrierAt) (by decide)
  have hholds := hL.at (p := .holds) (by decide)
  have hepochs := hL.at (p := .epochs) (by decide)
  have hports := hL.at (p := .ports) (by decide)
  have hsched := hL.at (p := .sched) (by decide)
  have hreports := hL.at (p := .reports) (by decide)
  have hseqs := hL.at (p := .seqs) (by decide)
  have hrwp := hL.at (p := .rwp) (by decide)
  have hwear := hL.at (p := .wear) (by decide)
  have hretireWait := hL.at (p := .retireWait) (by decide)
  have hcause := hL.at (p := .cause) (by decide)
  have hpllLock := hL.at (p := .pllLock) (by decide)
  have hspread := hL.at (p := .spread) (by decide)
  have honRoot := hL.at (p := .onRoot) (by decide)
  have hclocksOn := hL.at (p := .clocksOn) (by decide)
  have hfmRun := hL.at (p := .fmRun) (by decide)
  have hfmDone := hL.at (p := .fmDone) (by decide)
  have hfmResult := hL.at (p := .fmResult) (by decide)
  have hdriftOdd := hL.at (p := .driftOdd) (by decide)
  have hmonLast := hL.at (p := .monLast) (by decide)
  have hfmt := hL.at (p := .fmt) (by decide)
  have hspn := hL.at (p := .spn) (by decide)
  have hfly := hL.at (p := .fly) (by decide)
  have hcurves := hL.at (p := .curves) (by decide)
  have hstruck := hL.at (p := .struck) (by decide)
  have himages := hL.at (p := .images) (by decide)
  have himgState := hL.at (p := .imgState) (by decide)
  have hloading := hL.at (p := .loading) (by decide)
  have hloadCtx := hL.at (p := .loadCtx) (by decide)
  have hloadResult := hL.at (p := .loadResult) (by decide)
  have hloadAddr := hL.at (p := .loadAddr) (by decide)
  have hplanCache := hL.at (p := .planCache) (by decide)
  have hlastRun := hL.at (p := .lastRun) (by decide)
  have hlastBucket := hL.at (p := .lastBucket) (by decide)
  have hctxs := hL.at (p := .ctxs) (by decide)
  have htrns := hL.at (p := .trns) (by decide)
  have hlsInit := hL.at (p := .lsInit) (by decide)
  have hqps := hL.at (p := .qps) (by decide)
  have hprts := hL.at (p := .prts) (by decide)
  have hqpResult := hL.at (p := .qpResult) (by decide)
  have hcrds := hL.at (p := .crds) (by decide)
  have hply := hL.at (p := .ply) (by decide)
  have hnvm := hL.at (p := .nvm) (by decide)
  have hndy := hL.at (p := .ndy) (by decide)
  have hwhl := hL.at (p := .whl) (by decide)
  have hpkg := hL.at (p := .pkg) (by decide)
  have hK0 := hL.mono (K' := [.pending, .wall, .free, .ids, .rwp, .wear, .nvm, .fuses, .out]) (by decide)
  unfold acceptNext; (repeat' split) <;> (first | simp [*] | simp only [State.mask, *, if_true] | (simp only [State.mask, *, if_true]; simp [*]))

@[simp] theorem writeDstStatus_mask {L : Piece → Bool} (v : Word) (s : State) (hdst : L .dst = true) :
    ((writeDstStatus v s).over s).mask L = s.mask L := by
  unfold writeDstStatus; simp [*]

@[simp] theorem dropHeld_mask {L : Piece → Bool} (s : State) (hdst : L .dst = true) :
    (dropHeld s).mask L = s.mask L := by
  unfold dropHeld; simp [*]

@[simp] theorem writeEvrBase_mask {L : Piece → Bool} (hi : Bool) (v : Word) (s : State) (hdst : L .dst = true) :
    ((writeEvrBase hi v s).1.over (writeEvrBase hi v s).2).mask L = s.mask L := by
  simp only [writeEvrBase]; (repeat' split) <;> simp [*]

@[simp] theorem writeEvrCfg_mask {L : Piece → Bool} (v : Word) (s : State) (hdst : L .dst = true) :
    ((writeEvrCfg v s).1.over (writeEvrCfg v s).2).mask L = s.mask L := by
  simp only [writeEvrCfg]; (repeat' split) <;> simp [*]

@[simp] theorem writeKind_mask {L : Piece → Bool} (win : Bool) (v : Word) (s : State) (hdst : L .dst = true) :
    ((writeKind win v s).over s).mask L = s.mask L := by
  unfold writeKind; simp [*]

@[simp] theorem writeRetired_mask {L : Piece → Bool} (w : Nat) (v : Word) (nvmErr : Bool) (s : State) (hfree : L .free = true) (hreg : L .reg = true) (hmem : L .mem = true) (herrs : L .errs = true) (hskn : L .skn = true) (hdst : L .dst = true) (hgate : L .gate = true) (hpend : L .pend = true) (hrstBusy : L .rstBusy = true) (hsleepReq : L .sleepReq = true) (hwakeAt : L .wakeAt = true) (hspareReq : L .spareReq = true) (hepochs : L .epochs = true) (hreports : L .reports = true) (hseqs : L .seqs = true) (hrwp : L .rwp = true) (hwear : L .wear = true) (hretireWait : L .retireWait = true) (hspn : L .spn = true) (hfly : L .fly = true) (hqps : L .qps = true) (hprts : L .prts = true) (hcrds : L .crds = true) (hply : L .ply = true) (hnvm : L .nvm = true) (hndy : L .ndy = true) (hwhl : L .whl = true) :
    ((writeRetired w v nvmErr s).1.over (writeRetired w v nvmErr s).2).mask L = s.mask L := by
  unfold writeRetired
  dsimp only
  have hp := persist_mask (L := L) (rDst (0xA0 + 4 * w)) (packWord (List.map (fun b => (b.1, 1, b2n (v.getLsbD b.1))) (retiredBits w)))
    nvmErr s hdst hseqs hrwp hwear hnvm hndy
  generalize persist _ _ _ _ = r at hp ⊢
  obtain ⟨s1, b⟩ := r
  cases b
  · exact hp
  · rw [over_done]
    refine (mask_foldl (fun t b => ?_) _ _).trans hp
    split
    · split
      · have h : ({ t with retireWait := setBit t.retireWait b.2 true } : State).mask L = t.mask L := by
          simp only [State.mask, *, if_true]
        simp [*]
      · simp [*]
    · split <;> simp [*]

end Sys2Proof.Machine
end

