-- ==== Sys2Proof/Laws/FrameEngines.lean ====
section
/-! SUPPORT. What each operation leaves unchanged: training state, expert fetches, clocks and the engines. -/

namespace Sys2Proof.Machine

@[simp] theorem State.setCtx_mask {L : Piece → Bool} (s : State) (c : Nat) (x : Ctx) (hctxs : L .ctxs = true) :
    (s.setCtx c x).mask L = s.mask L := by
  unfold State.setCtx; simp [*]

@[simp] theorem State.setTrn_mask {L : Piece → Bool} (s : State) (c : Nat) (t : Trn) (htrns : L .trns = true) :
    (s.setTrn c t).mask L = s.mask L := by
  unfold State.setTrn; simp [*]

@[simp] theorem orVerdict_mask {L : Piece → Bool} (c : Nat) (v : BitVec 6) (s : State) (htrns : L .trns = true) :
    (orVerdict c v s).mask L = s.mask L := by
  unfold orVerdict; simp [*]

@[simp] theorem holdCtx_mask {L : Piece → Bool} (c reason : Nat) (s : State) (hreg : L .reg = true) (hmem : L .mem = true) (herrs : L .errs = true) (hskn : L .skn = true) (hdst : L .dst = true) (hseqs : L .seqs = true) (htrns : L .trns = true) (hqps : L .qps = true) (hout : L .out = true) :
    (holdCtx c reason s).mask L = s.mask L := by
  unfold holdCtx; simp [*]

@[simp] theorem diverge_mask {L : Piece → Bool} (c addr : Nat) (s : State) (hreg : L .reg = true) (hmem : L .mem = true) (herrs : L .errs = true) (hskn : L .skn = true) (hdst : L .dst = true) (hseqs : L .seqs = true) (htrns : L .trns = true) (hqps : L .qps = true) (hout : L .out = true) :
    (diverge c addr s).mask L = s.mask L := by
  unfold diverge; simp [*]

@[simp] theorem jrnAppend_mask {L : Piece → Bool} (c sec : Nat) (rec_ : List MByte) (s : State) (hreg : L .reg = true) (hmem : L .mem = true) (herrs : L .errs = true) (hskn : L .skn = true) (hdst : L .dst = true) (hseqs : L .seqs = true) (htrns : L .trns = true) :
    (jrnAppend c sec rec_ s).mask L = s.mask L := by
  simp only [jrnAppend]; (repeat' split) <;> simp [*]

@[simp] theorem jrnOpen_mask {L : Piece → Bool} (c : Nat) (s : State) (hreg : L .reg = true) (hmem : L .mem = true) (herrs : L .errs = true) (hskn : L .skn = true) (hdst : L .dst = true) (hseqs : L .seqs = true) (htrns : L .trns = true) :
    (jrnOpen c s).mask L = s.mask L := by
  unfold jrnOpen; simp [*]

@[simp] theorem jrnClose_mask {L : Piece → Bool} (c : Nat) (s : State) (hreg : L .reg = true) (hmem : L .mem = true) (herrs : L .errs = true) (hskn : L .skn = true) (hdst : L .dst = true) (hseqs : L .seqs = true) (htrns : L .trns = true) :
    (jrnClose c s).mask L = s.mask L := by
  unfold jrnClose
  dsimp only
  split
  · rfl
  · rw [storeClean_mask (hreg := hreg) (hmem := hmem) (herrs := herrs) (hskn := hskn) (hdst := hdst) (hseqs := hseqs), State.setTrn_mask _ _ _ htrns]

@[simp] theorem replayRoutes_mask {L : Piece → Bool} (c addr : Nat) (route : List Nat) (s : State) (hreg : L .reg = true) (hmem : L .mem = true) (herrs : L .errs = true) (hskn : L .skn = true) (hdst : L .dst = true) (hseqs : L .seqs = true) (htrns : L .trns = true) (hqps : L .qps = true) (hout : L .out = true) :
    (replayRoutes c addr route s).mask L = s.mask L := by
  simp only [replayRoutes]; (repeat' split) <;> simp [*]

@[simp] theorem replayCsum_mask {L : Piece → Bool} (c addr : Nat) (rec_ : Nat) (s : State) (hreg : L .reg = true) (hmem : L .mem = true) (herrs : L .errs = true) (hskn : L .skn = true) (hdst : L .dst = true) (hseqs : L .seqs = true) (htrns : L .trns = true) (hqps : L .qps = true) (hout : L .out = true) :
    (replayCsum c addr rec_ s).mask L = s.mask L := by
  simp only [replayCsum]; (repeat' split) <;> simp [*]

@[simp] theorem closeBwd_mask {L : Piece → Bool} (c : Nat) (s : State) (htrns : L .trns = true) :
    (closeBwd c s).mask L = s.mask L := by
  unfold closeBwd; simp [*]

@[simp] theorem countSuppressed_mask {L : Piece → Bool} (t : Trn) (s : State) (hreg : L .reg = true) :
    (countSuppressed t s).mask L = s.mask L := by
  unfold countSuppressed; simp [*]

@[simp] theorem closeUpd_mask {L : Piece → Bool} (c : Nat) (s : State) (hreg : L .reg = true) (hdst : L .dst = true) (hseqs : L .seqs = true) (htrns : L .trns = true) :
    (closeUpd c s).mask L = s.mask L := by
  unfold closeUpd; simp [*]

@[simp] theorem verdictOf_mask {L : Piece → Bool} (c phase : Nat) (ovf csum : Bool) (s : State) (hdst : L .dst = true) (hseqs : L .seqs = true) (htrns : L .trns = true) :
    (verdictOf c phase ovf csum s).mask L = s.mask L := by
  unfold verdictOf; simp [*]

@[simp] theorem armReplay_mask {L : Piece → Bool} (c : Nat) (s0 : State) (hreg : L .reg = true) (hmem : L .mem = true) (herrs : L .errs = true) (hskn : L .skn = true) (hdst : L .dst = true) (hseqs : L .seqs = true) (hctxs : L .ctxs = true) (htrns : L .trns = true) :
    (armReplay c s0).mask L = s0.mask L := by
  unfold armReplay; simp [*]

@[simp] theorem writeReplay_mask {L : Piece → Bool} (c : Nat) (v : Word) (s : State) (hreg : L .reg = true) (hmem : L .mem = true) (herrs : L .errs = true) (hskn : L .skn = true) (hdst : L .dst = true) (hseqs : L .seqs = true) (hctxs : L .ctxs = true) (htrns : L .trns = true) :
    ((writeReplay c v s).over s).mask L = s.mask L := by
  unfold writeReplay; simp [*]

@[simp] theorem writeJcfg_mask {L : Piece → Bool} (c : Nat) (v : Word) (s : State) (hdst : L .dst = true) (hseqs : L .seqs = true) (htrns : L .trns = true) :
    ((writeJcfg c v s).over s).mask L = s.mask L := by
  unfold writeJcfg; simp [*]

@[simp] theorem writeTrn_mask {L : Piece → Bool} (v : Word) (s : State) (hreg : L .reg = true) (hmem : L .mem = true) (herrs : L .errs = true) (hskn : L .skn = true) (hdst : L .dst = true) (hseqs : L .seqs = true) (hctxs : L .ctxs = true) (htrns : L .trns = true) :
    ((writeTrn v s).over s).mask L = s.mask L := by
  unfold writeTrn; simp [*]

@[simp] theorem trnReset_mask {L : Piece → Bool} (c : Nat) (s : State) (htrns : L .trns = true) :
    (trnReset c s).mask L = s.mask L := by
  unfold trnReset; simp [*]

@[simp] theorem trnUnload_mask {L : Piece → Bool} (c : Nat) (s : State) (htrns : L .trns = true) :
    (trnUnload c s).mask L = s.mask L := by
  unfold trnUnload; simp [*]

@[simp] theorem State.setCrd_mask {L : Piece → Bool} (s : State) (k : Nat) (x : Crd) (hcrds : L .crds = true) :
    (s.setCrd k x).mask L = s.mask L := by
  unfold State.setCrd; simp [*]

@[simp] theorem storeNat_mask {L : Piece → Bool} (k : Nat) (a n v : Nat) (s : State) (hreg : L .reg = true) (hmem : L .mem = true) (herrs : L .errs = true) (hskn : L .skn = true) (hdst : L .dst = true) (hseqs : L .seqs = true) :
    (storeNat k a n v s).mask L = s.mask L := by
  unfold storeNat; simp [*]

@[simp] theorem setResidState_mask {L : Piece → Bool} (k : Nat) (a st : Nat) (dirty : Bool) (s : State) (hreg : L .reg = true) (hmem : L .mem = true) (herrs : L .errs = true) (hskn : L .skn = true) (hdst : L .dst = true) (hseqs : L .seqs = true) :
    (setResidState k a st dirty s).mask L = s.mask L := by
  unfold setResidState; simp [*]

@[simp] theorem writeSlotHead_mask {L : Piece → Bool} (k : Nat) (a owner : Nat) (valid pin filling : Bool) (s : State) (hreg : L .reg = true) (hmem : L .mem = true) (herrs : L .errs = true) (hskn : L .skn = true) (hdst : L .dst = true) (hseqs : L .seqs = true) :
    (writeSlotHead k a owner valid pin filling s).mask L = s.mask L := by
  unfold writeSlotHead; simp [*]

@[simp] theorem assignOne_mask {L : Piece → Bool} (k : Nat) (w : Nat × Nat × Nat × Bool) (noslot waited : Bool) (s : State) (hreg : L .reg = true) (hmem : L .mem = true) (herrs : L .errs = true) (hskn : L .skn = true) (hdst : L .dst = true) (hseqs : L .seqs = true) (hcrds : L .crds = true) :
    (assignOne k w noslot waited s).mask L = s.mask L := by
  simp only [assignOne]; (repeat' split) <;> simp [*]

@[simp] theorem finishJob_mask {L : Piece → Bool} (k : Nat) (s : State) (hreports : L .reports = true) (hcrds : L .crds = true) :
    (finishJob k s).mask L = s.mask L := by
  simp only [finishJob]; (repeat' split) <;> simp [*]

@[simp] theorem jobFetchEnd_mask {L : Piece → Bool} (k : Nat) (f : Fetch) (s : State) (hreg : L .reg = true) (hmem : L .mem = true) (herrs : L .errs = true) (hskn : L .skn = true) (hdst : L .dst = true) (hreports : L .reports = true) (hseqs : L .seqs = true) (hcrds : L .crds = true) :
    (jobFetchEnd k f s).mask L = s.mask L := by
  simp only [jobFetchEnd]; (repeat' split) <;> simp [*]

@[simp] theorem jobFetchStart_mask {L : Piece → Bool} (k : Nat) (f : Fetch) (s : State) (hreports : L .reports = true) (hcrds : L .crds = true) :
    (jobFetchStart k f s).mask L = s.mask L := by
  simp only [jobFetchStart]; (repeat' split) <;> simp [*]

@[simp] theorem setFetch_mask {L : Piece → Bool} (k : Nat) (f : Fetch) (s : State) (hcrds : L .crds = true) :
    (setFetch k f s).mask L = s.mask L := by
  unfold setFetch; simp [*]

@[simp] theorem dropFetch_mask {L : Piece → Bool} (k : Nat) (f : Fetch) (s : State) (hcrds : L .crds = true) :
    (dropFetch k f s).mask L = s.mask L := by
  unfold dropFetch; simp [*]

@[simp] theorem failFetch_mask {L : Piece → Bool} (k : Nat) (f : Fetch) (s : State) (hreg : L .reg = true) (hmem : L .mem = true) (herrs : L .errs = true) (hskn : L .skn = true) (hdst : L .dst = true) (hreports : L .reports = true) (hseqs : L .seqs = true) (hcrds : L .crds = true) :
    (failFetch k f s).mask L = s.mask L := by
  unfold failFetch; simp [*]

@[simp] theorem sendFetch_mask {L : Piece → Bool} (k : Nat) (f : Fetch) (r : Resid) (q : Nat × Bool) (wall : Nat) (s : State) (hreg : L .reg = true) (hmem : L .mem = true) (herrs : L .errs = true) (hskn : L .skn = true) (hdst : L .dst = true) (hseqs : L .seqs = true) (hqps : L .qps = true) (hcrds : L .crds = true) (hout : L .out = true) :
    (sendFetch k f r q wall s).mask L = s.mask L := by
  unfold sendFetch; simp [*]

@[simp] theorem issueRead_mask {L : Piece → Bool} (k : Nat) (x0 : Nat) (x1 : Fetch) (s : State) (hreg : L .reg = true) (hmem : L .mem = true) (herrs : L .errs = true) (hskn : L .skn = true) (hdst : L .dst = true) (hreports : L .reports = true) (hseqs : L .seqs = true) (hqps : L .qps = true) (hcrds : L .crds = true) (hout : L .out = true) :
    (issueRead k x0 x1 s).mask L = s.mask L := by
  have h : ∀ (r : Resid) (q : Nat × Bool) (w : Nat) (f : Fetch) (t : State), (sendFetch k f r q w t).mask L = t.mask L := by
    intro r q w f t
    unfold sendFetch
    dsimp only
    split <;> simp [*]
  induction x0 generalizing s x1 with
  | zero => simp [issueRead, *]
  | succ n ih =>
    rw [issueRead]
    split <;> simp [ih, h, *]

@[simp] theorem retryFetch_mask {L : Piece → Bool} (k : Nat) (f : Fetch) (s : State) (hreg : L .reg = true) (hmem : L .mem = true) (herrs : L .errs = true) (hskn : L .skn = true) (hdst : L .dst = true) (hreports : L .reports = true) (hseqs : L .seqs = true) (hqps : L .qps = true) (hcrds : L .crds = true) (hout : L .out = true) :
    (retryFetch k f s).mask L = s.mask L := by
  unfold retryFetch; simp [*]

@[simp] theorem startFetch_mask {L : Piece → Bool} (k : Nat) (f : Fetch) (s : State) (hreg : L .reg = true) (hmem : L .mem = true) (herrs : L .errs = true) (hskn : L .skn = true) (hdst : L .dst = true) (hreports : L .reports = true) (hseqs : L .seqs = true) (hqps : L .qps = true) (hcrds : L .crds = true) (hout : L .out = true) :
    (startFetch k f s).mask L = s.mask L := by
  simp only [startFetch]; (repeat' split) <;> simp [*]

@[simp] theorem landFetch_mask {L : Piece → Bool} (k : Nat) (f : Fetch) (data : List MByte) (s : State) (hreg : L .reg = true) (hmem : L .mem = true) (herrs : L .errs = true) (hskn : L .skn = true) (hdst : L .dst = true) (hreports : L .reports = true) (hseqs : L .seqs = true) (hqps : L .qps = true) (hcrds : L .crds = true) (hout : L .out = true) :
    (landFetch k f data s).mask L = s.mask L := by
  unfold landFetch; simp [*]

@[simp] theorem failWriteBack_mask {L : Piece → Bool} (k : Nat) (f : Fetch) (s : State) (hreg : L .reg = true) (hmem : L .mem = true) (herrs : L .errs = true) (hskn : L .skn = true) (hdst : L .dst = true) (hseqs : L .seqs = true) (hcrds : L .crds = true) :
    (failWriteBack k f s).mask L = s.mask L := by
  simp only [failWriteBack]; (repeat' split) <;> simp [*]

@[simp] theorem noteWriteBack_mask {L : Piece → Bool} (k : Nat) (f : Fetch) (gid ent : Nat) (r : Resid) (bs : List Byte) (q : Nat × Bool) (s : State) (hreg : L .reg = true) (hmem : L .mem = true) (herrs : L .errs = true) (hskn : L .skn = true) (hdst : L .dst = true) (hseqs : L .seqs = true) (hqps : L .qps = true) (hout : L .out = true) :
    (noteWriteBack k f gid ent r bs q s).mask L = s.mask L := by
  unfold noteWriteBack; simp [*]

@[simp] theorem sendWriteBack_mask {L : Piece → Bool} (k : Nat) (f : Fetch) (gid ent : Nat) (r : Resid) (bs : List Byte) (q : Nat × Bool) (wall : Nat) (s : State) (hreg : L .reg = true) (hmem : L .mem = true) (herrs : L .errs = true) (hskn : L .skn = true) (hdst : L .dst = true) (hseqs : L .seqs = true) (hqps : L .qps = true) (hcrds : L .crds = true) (hout : L .out = true) :
    (sendWriteBack k f gid ent r bs q wall s).mask L = s.mask L := by
  unfold sendWriteBack; simp [*]

@[simp] theorem stopWriteBack_mask {L : Piece → Bool} (k : Nat) (f : Fetch) (gid ent p : Nat) (r : Resid) (bs : List Byte) (q : Nat × Bool) (s : State) (hreg : L .reg = true) (hmem : L .mem = true) (herrs : L .errs = true) (hskn : L .skn = true) (hdst : L .dst = true) (hseqs : L .seqs = true) (hqps : L .qps = true) (hout : L .out = true) :
    (stopWriteBack k f gid ent p r bs q s).mask L = s.mask L := by
  unfold stopWriteBack; simp [*]

@[simp] theorem issueWrite_mask {L : Piece → Bool} (k : Nat) (x0 : Nat) (x1 : Fetch) (s : State) (hreg : L .reg = true) (hmem : L .mem = true) (herrs : L .errs = true) (hskn : L .skn = true) (hdst : L .dst = true) (hseqs : L .seqs = true) (hqps : L .qps = true) (hcrds : L .crds = true) (hout : L .out = true) :
    (issueWrite k x0 x1 s).mask L = s.mask L := by
  induction x0 generalizing s x1 with
  | zero => simp [issueWrite, *]
  | succ n ih =>
    rw [issueWrite]
    split
    · rfl
    · dsimp only
      split
      · simp [ih, *]
      · split <;> simp [ih, *]

@[simp] theorem retryWriteBack_mask {L : Piece → Bool} (k : Nat) (f : Fetch) (s : State) (hreg : L .reg = true) (hmem : L .mem = true) (herrs : L .errs = true) (hskn : L .skn = true) (hdst : L .dst = true) (hseqs : L .seqs = true) (hqps : L .qps = true) (hcrds : L .crds = true) (hout : L .out = true) :
    (retryWriteBack k f s).mask L = s.mask L := by
  unfold retryWriteBack; simp [*]

@[simp] theorem doneWriteBack_mask {L : Piece → Bool} (k : Nat) (f : Fetch) (s : State) (hreg : L .reg = true) (hmem : L .mem = true) (herrs : L .errs = true) (hskn : L .skn = true) (hdst : L .dst = true) (hseqs : L .seqs = true) (hcrds : L .crds = true) :
    (doneWriteBack k f s).mask L = s.mask L := by
  simp only [doneWriteBack]; (repeat' split) <;> simp [*]

@[simp] theorem stampSlot_mask {L : Piece → Bool} (k slotEnt : Nat) (pin : Bool) (step : Word) (s : State) (hreg : L .reg = true) (hmem : L .mem = true) (herrs : L .errs = true) (hskn : L .skn = true) (hdst : L .dst = true) (hseqs : L .seqs = true) (hcrds : L .crds = true) :
    (stampSlot k slotEnt pin step s).mask L = s.mask L := by
  simp only [stampSlot]; (repeat' split) <;> simp [*]

@[simp] theorem reserveSlot_mask {L : Piece → Bool} (k : Nat) (c : CacheRef) (ctx : Nat) (step : Word) (routed : Bool) (slot gid : Nat) (s : State) (hreg : L .reg = true) (hmem : L .mem = true) (herrs : L .errs = true) (hskn : L .skn = true) (hdst : L .dst = true) (hseqs : L .seqs = true) (hqps : L .qps = true) (hcrds : L .crds = true) (hout : L .out = true) :
    (reserveSlot k c ctx step routed slot gid s).mask L = s.mask L := by
  unfold reserveSlot; simp [*]

@[simp] theorem failEntry_mask {L : Piece → Bool} (k : Nat) (c : CacheRef) (gid : Nat) (r : Resid) (s : State) (hreg : L .reg = true) (hmem : L .mem = true) (herrs : L .errs = true) (hskn : L .skn = true) (hdst : L .dst = true) (hseqs : L .seqs = true) :
    (failEntry k c gid r s).mask L = s.mask L := by
  unfold failEntry; simp [*]

@[simp] theorem lookup_mask {L : Piece → Bool} (k : Nat) (c : CacheRef) (ctx : Nat) (step : Word) (routed : Bool) (gid : Nat) (s0 : State) (hreg : L .reg = true) (hmem : L .mem = true) (herrs : L .errs = true) (hskn : L .skn = true) (hdst : L .dst = true) (hseqs : L .seqs = true) (hqps : L .qps = true) (hcrds : L .crds = true) (hout : L .out = true) :
    (lookup k c ctx step routed gid s0).1.mask L = s0.mask L := by
  simp only [lookup]; (repeat' split) <;> simp [*]

@[simp] theorem dropOp_mask {L : Piece → Bool} (q : Option Nat) (p : WireOp → Bool) (s : State) (hreg : L .reg = true) (hmem : L .mem = true) (herrs : L .errs = true) (hskn : L .skn = true) (hdst : L .dst = true) (hseqs : L .seqs = true) (hqps : L .qps = true) :
    (dropOp q p s).mask L = s.mask L := by
  simp only [dropOp]; (repeat' split) <;> simp [*]

@[simp] theorem noteArrival_mask {L : Piece → Bool} (p : Nat) (data : List MByte) (s : State) (hreg : L .reg = true) (hdst : L .dst = true) (hseqs : L .seqs = true) :
    (noteArrival p data s).mask L = s.mask L := by
  unfold noteArrival; simp [*]

@[simp] theorem forWord_mask {L : Piece → Bool} (w : Nat) (f : Nat → State → State) (s : State)  (hf : ∀ v s, (f v s).mask L = s.mask L) :
    (forWord w f s).mask L = s.mask L := by
  unfold forWord
  refine mask_foldl (fun t b => ?_) _ _
  split <;> simp [*]

@[simp] theorem writeGate_mask {L : Piece → Bool} (w : Nat) (v : Word) (s : State) (hgate : L .gate = true) (hpend : L .pend = true) :
    ((writeGate w v s).over s).mask L = s.mask L := by
  unfold writeGate; simp [*]

@[simp] theorem writeSleep_mask {L : Piece → Bool} (w : Nat) (v : Word) (s : State) (hpend : L .pend = true) (hsleepReq : L .sleepReq = true) (hwakeAt : L .wakeAt = true) :
    ((writeSleep w v s).over s).mask L = s.mask L := by
  unfold writeSleep; simp [*]

@[simp] theorem writeRst_mask {L : Piece → Bool} (w : Nat) (v : Word) (s : State) (hfree : L .free = true) (hreg : L .reg = true) (hmem : L .mem = true) (herrs : L .errs = true) (hskn : L .skn = true) (hdst : L .dst = true) (hpend : L .pend = true) (hrstBusy : L .rstBusy = true) (hepochs : L .epochs = true) (hreports : L .reports = true) (hseqs : L .seqs = true) (hspn : L .spn = true) (hfly : L .fly = true) (hqps : L .qps = true) (hprts : L .prts = true) (hcrds : L .crds = true) (hply : L .ply = true) :
    ((writeRst w v s).over s).mask L = s.mask L := by
  unfold writeRst; simp [*]

@[simp] theorem writeIssue_mask {L : Piece → Bool} (v : Word) (s : State) (hreg : L .reg = true) :
    ((writeIssue v s).over s).mask L = s.mask L := by
  unfold writeIssue; simp [*]

@[simp] theorem writeRunSet_mask {L : Piece → Bool} (i : Nat) (v : Word) (s : State) (hrun : L .run = true) :
    ((writeRunSet i v s).over s).mask L = s.mask L := by
  unfold writeRunSet; simp [*]

@[simp] theorem writeRunClr_mask {L : Piece → Bool} (i : Nat) (v : Word) (s : State) (hrun : L .run = true) :
    ((writeRunClr i v s).over s).mask L = s.mask L := by
  unfold writeRunClr; simp [*]

@[simp] theorem writeSpare_mask {L : Piece → Bool} (v : Word) (s : State) (hspareReq : L .spareReq = true) :
    ((writeSpare v s).over s).mask L = s.mask L := by
  unfold writeSpare; simp [*]

@[simp] theorem writeDevReset_mask {L : Piece → Bool} (v : Word) (s : State) (hL : Covers [.pending, .wall, .free, .ids, .rwp, .wear, .nvm, .fuses, .out] L) :
    ((writeDevReset v s).over s).mask L = s.mask L := by
  have htick := hL.at (p := .tick) (by decide)
  have hcyc := hL.at (p := .cyc) (by decide)
  have hreg := hL.at (p := .reg) (by decide)
  have hmem := hL.at (p := .mem) (by decide)
  have herrs := hL.at (p := .errs) (by decide)
  have hskn := hL.at (p := .skn) (by decide)
  have hdst := hL.at (p := .dst) (by decide)
  have hgate := hL.at (p := .gate) (by decide)
  have hpend := hL.at (p := .pend) (by decide)
  have hrstBusy := hL.at (p := .rstBusy) (by decide)
  have hsleepReq := hL.at (p := .sleepReq) (by decide)
  have hasleep := hL.at (p := .asleep) (by decide)
  have hwakeAt := hL.at (p := .wakeAt) (by decide)
  have hrun := hL.at (p := .run) (by decide)
  have hspare := hL.at (p := .spare) (by decide)
  have hspareReq := hL.at (p := .spareReq) (by decide)
  have hready := hL.at (p := .ready) (by decide)
  have hbobs := hL.at (p := .bobs) (by decide)
  have hturns := hL.at (p := .turns) (by decide)
  have hfetchTurns := hL.at (p := .fetchTurns) (by decide)
  have hbarriers := hL.at (p := .barriers) (by decide)
  have hbarrierAt := hL.at (p := .barrierAt) (by decide)
  have hholds := hL.at (p := .holds) (by decide)
  have hepochs := hL.at (p := .epochs) (by decide)
  have hports := hL.at (p := .ports) (by decide)
  have hsched := hL.at (p := .sched) (by decide)
  have hreports := hL.at (p := .reports) (by decide)
  have hseqs := hL.at (p := .seqs) (by decide)
  have hretireWait := hL.at (p := .retireWait) (by decide)
  have hcause := hL.at (p := .cause) (by decide)
  have hpllLock := hL.at (p := .pllLock) (by decide)
  have hspread := hL.at (p := .spread) (by decide)
  have honRoot := hL.at (p := .onRoot) (by decide)
  have hclocksOn := hL.at (p := .clocksOn) (by decide)
  have hfmRun := hL.at (p := .fmRun) (by decide)
  have hfmDone := hL.at (p := .fmDone) (by decide)
  have hfmResult := hL.at (p := .fmResult) (by decide)
  have hdriftOdd := hL.at (p := .driftOdd) (by decide)
  have hmonLast := hL.at (p := .monLast) (by decide)
  have hfmt := hL.at (p := .fmt) (by decide)
  have hspn := hL.at (p := .spn) (by decide)
  have hfly := hL.at (p := .fly) (by decide)
  have hcurves := hL.at (p := .curves) (by decide)
  have hstruck := hL.at (p := .struck) (by decide)
  have himages := hL.at (p := .images) (by decide)
  have himgState := hL.at (p := .imgState) (by decide)
  have hloading := hL.at (p := .loading) (by decide)
  have hloadCtx := hL.at (p := .loadCtx) (by decide)
  have hloadResult := hL.at (p := .loadResult) (by decide)
  have hloadAddr := hL.at (p := .loadAddr) (by decide)
  have hplanCache := hL.at (p := .planCache) (by decide)
  have hlastRun := hL.at (p := .lastRun) (by decide)
  have hlastBucket := hL.at (p := .lastBucket) (by decide)
  have hctxs := hL.at (p := .ctxs) (by decide)
  have htrns := hL.at (p := .trns) (by decide)
  have hlsInit := hL.at (p := .lsInit) (by decide)
  have hqps := hL.at (p := .qps) (by decide)
  have hprts := hL.at (p := .prts) (by decide)
  have hqpResult := hL.at (p := .qpResult) (by decide)
  have hcrds := hL.at (p := .crds) (by decide)
  have hply := hL.at (p := .ply) (by decide)
  have hndy := hL.at (p := .ndy) (by decide)
  have hwhl := hL.at (p := .whl) (by decide)
  have hpkg := hL.at (p := .pkg) (by decide)
  unfold writeDevReset; simp [*]

@[simp] theorem writeFmCtl_mask {L : Piece → Bool} (v : Word) (s : State) (hreg : L .reg = true) (hfmRun : L .fmRun = true) (hfmDone : L .fmDone = true) :
    ((writeFmCtl v s).over s).mask L = s.mask L := by
  have h : ∀ (t : State), ({ t with fmRun := true, fmDone := false } : State).mask L = t.mask L := by
    intro t; simp only [State.mask, *, if_true]
  unfold writeFmCtl
  dsimp only
  repeat' split
  all_goals first
    | exact (h _).trans (by simp [*])
    | simp [*]

@[simp] theorem fmEnd_mask {L : Piece → Bool} (count : Nat) (s : State) (hfmRun : L .fmRun = true) (hfmDone : L .fmDone = true) (hfmResult : L .fmResult = true) :
    (fmEnd count s).mask L = s.mask L := by
  unfold fmEnd; (repeat' split) <;> simp only [State.mask, *, if_true]

@[simp] theorem writeDriftPpm_mask {L : Piece → Bool} (v : Word) (s : State) (hreg : L .reg = true) :
    ((writeDriftPpm v s).over s).mask L = s.mask L := by
  unfold writeDriftPpm; simp [*]

@[simp] theorem driftEnd_mask {L : Piece → Bool} (count : Nat) (s : State) (hreg : L .reg = true) (hdst : L .dst = true) (hseqs : L .seqs = true) (hdriftOdd : L .driftOdd = true) (hmonLast : L .monLast = true) :
    (driftEnd count s).mask L = s.mask L := by
  have key : ∀ (c : Prop) [Decidable c] (a b : State), a.mask L = s.mask L → b.mask L = s.mask L →
      (if c then a else b).mask L = s.mask L := fun c _ a b ha hb => by split <;> assumption
  unfold driftEnd
  refine key _ _ _ (key _ _ _ ?_ ?_) rfl
  · rw [State.count_mask _ _ _ hreg, faultParam_mask _ _ _ _ hdst hseqs]
    simp only [State.mask, *, if_true]
  · simp only [State.mask, *, if_true]

@[simp] theorem State.setSpindle_mask {L : Piece → Bool} (s : State) (n : Nat) (x : Spn) (hspn : L .spn = true) :
    (s.setSpindle n x).mask L = s.mask L := by
  unfold State.setSpindle; simp [*]

@[simp] theorem writePanel_mask {L : Piece → Bool} (hs : List Hit) (n : Nat) (i : Issued) (d : Desc) (p : Panel) (s : State) (hfree : L .free = true) (hreg : L .reg = true) (hspn : L .spn = true) :
    (writePanel hs n i d p s).mask L = s.mask L := by
  unfold writePanel; simp [*]

@[simp] theorem countMcast_mask {L : Piece → Bool} (s : State) (hfree : L .free = true) (hreg : L .reg = true) :
    (countMcast s).mask L = s.mask L := by
  unfold countMcast; simp [*]

@[simp] theorem stagePanels_mask {L : Piece → Bool} (hs : List Hit) (i : Issued) (o : Opds) (s : State) (hfree : L .free = true) (hreg : L .reg = true) (hspn : L .spn = true) (hstruck : L .struck = true) :
    (stagePanels hs i o s).mask L = s.mask L := by
  unfold stagePanels; simp [*]

@[simp] theorem stageRun_mask {L : Piece → Bool} (hs : List Hit) (i : Issued) (o : Opds) (s : State) (hfree : L .free = true) (hreg : L .reg = true) (hmem : L .mem = true) (herrs : L .errs = true) (hskn : L .skn = true) (hdst : L .dst = true) (hreports : L .reports = true) (hseqs : L .seqs = true) (hspn : L .spn = true) (hstruck : L .struck = true) :
    (stageRun hs i o s).mask L = s.mask L := by
  simp only [stageRun]; (repeat' split) <;> simp [*]

@[simp] theorem drainTile_mask {L : Piece → Bool} (u : Nat) (i : Issued) (m : MmaOpds) (rows cols : Nat) (tile : AMap Word × AMap Bool) (e0 : Eff) (s : State) (hfree : L .free = true) (hreg : L .reg = true) (hmem : L .mem = true) (herrs : L .errs = true) (hskn : L .skn = true) (hdst : L .dst = true) (hseqs : L .seqs = true) (hfly : L .fly = true) :
    (drainTile u i m rows cols tile e0 s).2.mask L = s.mask L := by
  simp only [drainTile]; (repeat' split) <;> simp [*]

@[simp] theorem mmaWork_mask {L : Piece → Bool} (hs : List Hit) (i : Issued) (m : MmaOpds) (s : State) (hfree : L .free = true) (hreg : L .reg = true) (hmem : L .mem = true) (herrs : L .errs = true) (hskn : L .skn = true) (hdst : L .dst = true) (hseqs : L .seqs = true) (hspn : L .spn = true) (hfly : L .fly = true) :
    (mmaWork hs i m s).2.mask L = s.mask L := by
  unfold mmaWork
  extract_lets c u n x0 seen slot tilesA turned struckBy a b rows cols stays tile0 parked y streamed x1 tile csA csB rd e0 three g sF sC sT straight tiles sW
  have hF : sF.mask L = s.mask L := by
    simp only [sF]
    split
    · rfl
    · simp only [State.mask, *, if_true]
  have hW : sW.mask L = s.mask L := by
    simp only [sW, sT, sC]
    clear_value sF
    simp [*]
  clear_value sW
  split
  · have hD : ∀ x : Spn, (drainTile u i m rows cols tile e0 (sW.setSpindle n x)).2.mask L = s.mask L := by
      intro x
      rw [drainTile_mask] <;> first | assumption | (rw [State.setSpindle_mask] <;> assumption)
    dsimp only
    have := hD (freeSlot slot { x1 with isOpen := mput x1.isOpen slot false false })
    generalize drainTile u i m rows cols tile e0 (sW.setSpindle n (freeSlot slot { x1 with isOpen := mput x1.isOpen slot false false })) = d at this ⊢
    obtain ⟨e, s2⟩ := d
    dsimp only at this ⊢
    rw [State.count_mask _ _ _ hreg]
    exact this
  · dsimp only
    rw [State.setSpindle_mask] <;> assumption

@[simp] theorem mmaRun_mask {L : Piece → Bool} (hs : List Hit) (i : Issued) (m : MmaOpds) (s : State) (hfree : L .free = true) (hreg : L .reg = true) (hmem : L .mem = true) (herrs : L .errs = true) (hskn : L .skn = true) (hdst : L .dst = true) (hreports : L .reports = true) (hseqs : L .seqs = true) (hspn : L .spn = true) (hfly : L .fly = true) :
    (mmaRun hs i m s).mask L = s.mask L := by
  unfold mmaRun; dsimp only; (repeat' split) <;> simp [*]

@[simp] theorem discardRun_mask {L : Piece → Bool} (i : Issued) (_o : Opds) (s : State) (hreg : L .reg = true) (hmem : L .mem = true) (herrs : L .errs = true) (hskn : L .skn = true) (hdst : L .dst = true) (hreports : L .reports = true) (hseqs : L .seqs = true) (hspn : L .spn = true) :
    (discardRun i _o s).mask L = s.mask L := by
  unfold discardRun; simp [*]

@[simp] theorem moveCounted_mask {L : Piece → Bool} (i : Issued) (m : MoveOpds) (s : State) (hfree : L .free = true) (hreg : L .reg = true) (hcrds : L .crds = true) :
    (moveCounted i m s).mask L = s.mask L := by
  unfold moveCounted; simp [*]

@[simp] theorem moveRun_mask {L : Piece → Bool} (i : Issued) (m : MoveOpds) (s : State) (hfree : L .free = true) (hreg : L .reg = true) (hmem : L .mem = true) (herrs : L .errs = true) (hskn : L .skn = true) (hdst : L .dst = true) (hreports : L .reports = true) (hseqs : L .seqs = true) (hcrds : L .crds = true) :
    (moveRun i m s).mask L = s.mask L := by
  unfold moveRun; simp [*]

@[simp] theorem cpyCounted_mask {L : Piece → Bool} (i : Issued) (m : MoveOpds) (s : State) (hfree : L .free = true) (hreg : L .reg = true) (hcrds : L .crds = true) :
    (cpyCounted i m s).mask L = s.mask L := by
  unfold cpyCounted; simp [*]

@[simp] theorem cpyRun_mask {L : Piece → Bool} (i : Issued) (m : MoveOpds) (s : State) (hfree : L .free = true) (hreg : L .reg = true) (hmem : L .mem = true) (herrs : L .errs = true) (hskn : L .skn = true) (hdst : L .dst = true) (hreports : L .reports = true) (hseqs : L .seqs = true) (hcrds : L .crds = true) :
    (cpyRun i m s).mask L = s.mask L := by
  unfold cpyRun; simp [*]

@[simp] theorem spmmCounted_mask {L : Piece → Bool} (i : Issued) (m : SpmmOpds) (s : State) (hfree : L .free = true) (hreg : L .reg = true) (hcrds : L .crds = true) :
    (spmmCounted i m s).mask L = s.mask L := by
  unfold spmmCounted; simp [*]

@[simp] theorem spmmRun_mask {L : Piece → Bool} (i : Issued) (m : SpmmOpds) (s : State) (hfree : L .free = true) (hreg : L .reg = true) (hmem : L .mem = true) (herrs : L .errs = true) (hskn : L .skn = true) (hdst : L .dst = true) (hreports : L .reports = true) (hseqs : L .seqs = true) (hcrds : L .crds = true) :
    (spmmRun i m s).mask L = s.mask L := by
  unfold spmmRun; simp [*]

@[simp] theorem lscaleRun_mask {L : Piece → Bool} (i : Issued) (m : MoveOpds) (s : State) (hfree : L .free = true) (hreg : L .reg = true) (hmem : L .mem = true) (herrs : L .errs = true) (hskn : L .skn = true) (hdst : L .dst = true) (hreports : L .reports = true) (hseqs : L .seqs = true) (hcrds : L .crds = true) :
    (lscaleRun i m s).mask L = s.mask L := by
  unfold lscaleRun; simp [*]

@[simp] theorem optCounted_mask {L : Piece → Bool} (i : Issued) (o : OptOpds) (s : State) (hfree : L .free = true) (hreg : L .reg = true) (hcrds : L .crds = true) :
    (optCounted i o s).mask L = s.mask L := by
  unfold optCounted; simp [*]

@[simp] theorem optRun_mask {L : Piece → Bool} (i : Issued) (o : OptOpds) (s : State) (hfree : L .free = true) (hreg : L .reg = true) (hmem : L .mem = true) (herrs : L .errs = true) (hskn : L .skn = true) (hdst : L .dst = true) (hreports : L .reports = true) (hseqs : L .seqs = true) (hcrds : L .crds = true) :
    (optRun i o s).mask L = s.mask L := by
  unfold optRun; simp [*]

@[simp] theorem putRec_mask {L : Piece → Bool} (f : Nat) (k : FKey) (row : Nat) (r : FlyRec) (a : FlyAcc) (s : State) (hfree : L .free = true) (hreg : L .reg = true) (hmem : L .mem = true) (herrs : L .errs = true) (hskn : L .skn = true) (hdst : L .dst = true) (hseqs : L .seqs = true) (hfly : L .fly = true) :
    (putRec f k row r a s).2.mask L = s.mask L := by
  unfold putRec; simp [*]

@[simp] theorem normFwdRow_mask {L : Piece → Bool} (f : Nat) (i : Issued) (o : FlyOpds) (r : Nat) (acc : FlyAcc × State) (hfree : L .free = true) (hreg : L .reg = true) (hmem : L .mem = true) (herrs : L .errs = true) (hskn : L .skn = true) (hdst : L .dst = true) (hseqs : L .seqs = true) (hfly : L .fly = true) :
    (normFwdRow f i o r acc).2.mask L = acc.2.mask L := by
  unfold normFwdRow; simp [*]

@[simp] theorem normBwdRow_mask {L : Piece → Bool} (f : Nat) (i : Issued) (o : FlyOpds) (r : Nat) (acc : FlyAcc × State) (hfree : L .free = true) (hreg : L .reg = true) (hmem : L .mem = true) (herrs : L .errs = true) (hskn : L .skn = true) (hdst : L .dst = true) (hseqs : L .seqs = true) (hfly : L .fly = true) :
    (normBwdRow f i o r acc).2.mask L = acc.2.mask L := by
  simp only [normBwdRow]; (repeat' split) <;> simp [*]

@[simp] theorem pgradRow_mask {L : Piece → Bool} (f : Nat) (i : Issued) (o : FlyOpds) (r : Nat) (acc : FlyAcc × State × PSums) (hfree : L .free = true) (hreg : L .reg = true) (hmem : L .mem = true) (herrs : L .errs = true) (hskn : L .skn = true) (hdst : L .dst = true) (hseqs : L .seqs = true) (hfly : L .fly = true) :
    (pgradRow f i o r acc).2.1.mask L = acc.2.1.mask L := by
  simp only [pgradRow]; (repeat' split) <;> simp [*]

@[simp] theorem pgradRun_mask {L : Piece → Bool} (f : Nat) (i : Issued) (o : FlyOpds) (rows : List Nat) (a : FlyAcc) (s : State) (hfree : L .free = true) (hreg : L .reg = true) (hmem : L .mem = true) (herrs : L .errs = true) (hskn : L .skn = true) (hdst : L .dst = true) (hseqs : L .seqs = true) (hfly : L .fly = true) :
    (pgradRun f i o rows a s).2.mask L = s.mask L := by
  have hr : ∀ (l : List Nat) (acc : FlyAcc × State × PSums),
      (l.foldl (fun acc r => pgradRow f i o r acc) acc).2.1.mask L = acc.2.1.mask L := by
    intro l
    induction l with
    | nil => intro acc; rfl
    | cons r l ih => intro acc; rw [List.foldl_cons, ih, pgradRow_mask f i o r acc hfree hreg hmem herrs hskn hdst hseqs hfly]
  unfold pgradRun
  exact hr rows _

@[simp] theorem smaxFwdRow_mask {L : Piece → Bool} (f : Nat) (i : Issued) (o : FlyOpds) (r : Nat) (acc : FlyAcc × State) (hfree : L .free = true) (hreg : L .reg = true) (hmem : L .mem = true) (herrs : L .errs = true) (hskn : L .skn = true) (hdst : L .dst = true) (hseqs : L .seqs = true) (hfly : L .fly = true) :
    (smaxFwdRow f i o r acc).2.mask L = acc.2.mask L := by
  simp only [smaxFwdRow]; (repeat' split) <;> simp [*]

@[simp] theorem smaxBwdRow_mask {L : Piece → Bool} (f : Nat) (i : Issued) (o : FlyOpds) (r : Nat) (acc : FlyAcc × State) (hfree : L .free = true) (hreg : L .reg = true) (hmem : L .mem = true) (herrs : L .errs = true) (hskn : L .skn = true) (hdst : L .dst = true) (hseqs : L .seqs = true) (hfly : L .fly = true) :
    (smaxBwdRow f i o r acc).2.mask L = acc.2.mask L := by
  simp only [smaxBwdRow]; (repeat' split) <;> simp [*]

@[simp] theorem mergeRow_mask {L : Piece → Bool} (f : Nat) (i : Issued) (ncte blk row : Nat) (acc : FlyAcc × State) (hfree : L .free = true) (hreg : L .reg = true) (hmem : L .mem = true) (herrs : L .errs = true) (hskn : L .skn = true) (hdst : L .dst = true) (hseqs : L .seqs = true) (hfly : L .fly = true) :
    (mergeRow f i ncte blk row acc).2.mask L = acc.2.mask L := by
  simp only [mergeRow]; (repeat' split) <;> simp [*]

@[simp] theorem mergeRun_mask {L : Piece → Bool} (f : Nat) (i : Issued) (a : FlyAcc) (s : State) (hfree : L .free = true) (hreg : L .reg = true) (hmem : L .mem = true) (herrs : L .errs = true) (hskn : L .skn = true) (hdst : L .dst = true) (hseqs : L .seqs = true) (hfly : L .fly = true) :
    (mergeRun f i a s).2.mask L = s.mask L := by
  unfold mergeRun
  refine mask_foldl_snd (a := (a, s)) (fun acc b => ?_) _
  dsimp only
  rw [flyFree_mask _ _ _ hfly]
  exact mask_foldl_snd (fun acc r => mergeRow_mask f i _ _ r acc hfree hreg hmem herrs hskn hdst hseqs hfly) _ _

@[simp] theorem strikeFly_mask {L : Piece → Bool} (f : Nat) (hs : List Hit) (s : State) (hfly : L .fly = true) :
    (strikeFly f hs s).mask L = s.mask L := by
  unfold strikeFly; simp [*]

@[simp] theorem flyWork_mask {L : Piece → Bool} (i : Issued) (o : FlyOpds) (s : State) (hfree : L .free = true) (hreg : L .reg = true) (hmem : L .mem = true) (herrs : L .errs = true) (hskn : L .skn = true) (hdst : L .dst = true) (hseqs : L .seqs = true) (hfly : L .fly = true) :
    (flyWork i o s).2.mask L = s.mask L := by
  simp only [flyWork]; (repeat' split) <;> simp [*]

@[simp] theorem finishFly_mask {L : Piece → Bool} (f : Nat) (i : Issued) (o : FlyOpds) (r : FlyAcc × State) (hreg : L .reg = true) (hmem : L .mem = true) (herrs : L .errs = true) (hskn : L .skn = true) (hdst : L .dst = true) (hreports : L .reports = true) (hseqs : L .seqs = true) :
    (finishFly f i o r).mask L = r.2.mask L := by
  unfold finishFly; simp [*]

@[simp] theorem flyRun_mask {L : Piece → Bool} (hs : List Hit) (i : Issued) (o : FlyOpds) (s0 : State) (hfree : L .free = true) (hreg : L .reg = true) (hmem : L .mem = true) (herrs : L .errs = true) (hskn : L .skn = true) (hdst : L .dst = true) (hreports : L .reports = true) (hseqs : L .seqs = true) (hfly : L .fly = true) :
    (flyRun hs i o s0).mask L = s0.mask L := by
  unfold flyRun; simp [*]

@[simp] theorem flyCommand_mask {L : Piece → Bool} (op : Nat) (f : BitVec 2) (hs : List Hit) (s : State) (hfree : L .free = true) (hreg : L .reg = true) (hmem : L .mem = true) (herrs : L .errs = true) (hskn : L .skn = true) (hdst : L .dst = true) (hports : L .ports = true) (hreports : L .reports = true) (hseqs : L .seqs = true) (hfly : L .fly = true) (hstruck : L .struck = true) :
    (flyCommand op f hs s).mask L = s.mask L := by
  unfold flyCommand
  rw [withHits_mask (hreg := hreg) (hdst := hdst) (hseqs := hseqs) (hstruck := hstruck)
    (hf := fun s => by
      apply accept_mask <;> first | assumption | (intro i a s; apply flyRun_mask <;> assumption))]
  simp [*]

@[simp] theorem State.setPly_mask {L : Piece → Bool} (s : State) (c : PlyCmd) (hply : L .ply = true) :
    (s.setPly c).mask L = s.mask L := by
  unfold State.setPly; simp [*]

@[simp] theorem plyMod_mask {L : Piece → Bool} (id : Nat) (f : PlyCmd → PlyCmd) (s : State) (hply : L .ply = true) :
    (plyMod id f s).mask L = s.mask L := by
  simp only [plyMod]; (repeat' split) <;> simp [*]

@[simp] theorem plyFault_mask {L : Piece → Bool} (id : Nat) (f : Flt) (s : State) (hdst : L .dst = true) (hseqs : L .seqs = true) (hply : L .ply = true) :
    (plyFault id f s).mask L = s.mask L := by
  simp only [plyFault]; (repeat' split) <;> simp [*]

@[simp] theorem disownOps_mask {L : Piece → Bool} (id : Nat) (s : State) (hqps : L .qps = true) :
    (disownOps id s).mask L = s.mask L := by
  unfold disownOps; simp [*]

@[simp] theorem plyEnd_mask {L : Piece → Bool} (c : PlyCmd) (st : Byte) (kind : Nat) (s : State) (hreports : L .reports = true) (hply : L .ply = true) :
    (plyEnd c st kind s).mask L = s.mask L := by
  unfold plyEnd; simp [*]

@[simp] theorem plyAbandon_mask {L : Piece → Bool} (id : Nat) (s : State) (hreports : L .reports = true) (hqps : L .qps = true) (hply : L .ply = true) :
    (plyAbandon id s).mask L = s.mask L := by
  simp only [plyAbandon]; (repeat' split) <;> simp [*]

@[simp] theorem plyPost_mask {L : Piece → Bool} (id : Nat) (c : PlyCmd) (m : Nat × List Byte) (s : State) (hreg : L .reg = true) (hmem : L .mem = true) (herrs : L .errs = true) (hskn : L .skn = true) (hdst : L .dst = true) (hreports : L .reports = true) (hseqs : L .seqs = true) (hqps : L .qps = true) (hply : L .ply = true) (hout : L .out = true) :
    (plyPost id c m s).1.mask L = s.mask L := by
  simp only [plyPost]; (repeat' split) <;> simp [*]

@[simp] theorem plyPump_mask {L : Piece → Bool} (id : Nat) (keep : List (Nat × List Byte)) (x0 : List (Nat × List Byte)) (s : State) (hreg : L .reg = true) (hmem : L .mem = true) (herrs : L .errs = true) (hskn : L .skn = true) (hdst : L .dst = true) (hreports : L .reports = true) (hseqs : L .seqs = true) (hqps : L .qps = true) (hply : L .ply = true) (hout : L .out = true) :
    (plyPump id keep x0 s).mask L = s.mask L := by
  induction x0 generalizing keep s with
  | nil => simp [plyPump, *]
  | cons m r ih =>
    rw [plyPump]
    repeat' split
    all_goals first
      | rfl
      | (rw [ih]; simp [*]; done)
      | (simp [*]; done)
      | (dsimp only; split <;> simp [ih, *])

@[simp] theorem plySend_mask {L : Piece → Bool} (id : Nat) (ms : List (Nat × List Byte)) (s : State) (hreg : L .reg = true) (hmem : L .mem = true) (herrs : L .errs = true) (hskn : L .skn = true) (hdst : L .dst = true) (hreports : L .reports = true) (hseqs : L .seqs = true) (hqps : L .qps = true) (hply : L .ply = true) (hout : L .out = true) :
    (plySend id ms s).mask L = s.mask L := by
  unfold plySend; (repeat' split) <;> simp_all

@[simp] theorem plyTry_mask {L : Piece → Bool} (id : Nat) (s : State) (hdst : L .dst = true) (hreports : L .reports = true) (hseqs : L .seqs = true) (hply : L .ply = true) :
    (plyTry id s).mask L = s.mask L := by
  simp only [plyTry]; (repeat' split) <;> simp [*]

@[simp] theorem plyPoison_mask {L : Piece → Bool} (id a : Nat) (s : State) (hdst : L .dst = true) (hseqs : L .seqs = true) (hply : L .ply = true) :
    (plyPoison id a s).mask L = s.mask L := by
  simp only [plyPoison]; (repeat' split) <;> simp [*]

@[simp] theorem plyReads_mask {L : Piece → Bool} (id : Nat) (d : Desc) (rs : List RdElem) (s : State) (hreg : L .reg = true) (hmem : L .mem = true) (herrs : L .errs = true) (hskn : L .skn = true) (hdst : L .dst = true) (hseqs : L .seqs = true) (hply : L .ply = true) :
    (plyReads id d rs s).mask L = s.mask L := by
  simp only [plyReads]; (repeat' split) <;> simp [*]

@[simp] theorem plyStore_mask {L : Piece → Bool} (id : Nat) (d : Desc) (x : Encoded) (s : State) (hreg : L .reg = true) (hmem : L .mem = true) (herrs : L .errs = true) (hskn : L .skn = true) (hdst : L .dst = true) (hseqs : L .seqs = true) (hply : L .ply = true) :
    (plyStore id d x s).mask L = s.mask L := by
  simp only [plyStore]; (repeat' split) <;> simp [*]

@[simp] theorem plyPoisonHere_mask {L : Piece → Bool} (id : Nat) (b : Bool) (s : State) (hdst : L .dst = true) (hseqs : L .seqs = true) (hply : L .ply = true) :
    (plyPoisonHere id b s).mask L = s.mask L := by
  simp only [plyPoisonHere]; (repeat' split) <;> simp [*]

@[simp] theorem plyByte_mask {L : Piece → Bool} (id a v : Nat) (poison : Bool) (s : State) (hreg : L .reg = true) (hmem : L .mem = true) (herrs : L .errs = true) (hskn : L .skn = true) (hdst : L .dst = true) (hseqs : L .seqs = true) (hply : L .ply = true) :
    (plyByte id a v poison s).mask L = s.mask L := by
  unfold plyByte; simp [*]

@[simp] theorem acceptPly_mask {L : Piece → Bool} {α : Type} (op : Nat) (hs : List Hit) (check : Issued → State → Chk α) (run : Issued → α → State → State) (s : State) (hreg : L .reg = true) (hmem : L .mem = true) (herrs : L .errs = true) (hskn : L .skn = true) (hdst : L .dst = true) (hports : L .ports = true) (hreports : L .reports = true) (hseqs : L .seqs = true) (hstruck : L .struck = true) (hf : ∀ i a s, (run i a s).mask L = s.mask L) :
    (acceptPly op hs check run s).mask L = s.mask L := by
  unfold acceptPly
  split <;> simp [*]

@[simp] theorem strikeAccs_mask {L : Piece → Bool} (hs : List Hit) (s : State) (hply : L .ply = true) :
    (strikeAccs hs s).mask L = s.mask L := by
  unfold strikeAccs; simp [*]

@[simp] theorem startPly_mask {L : Piece → Bool} (secs : List Nat) (c : PlyCmd) (s : State) (hreg : L .reg = true) (hmem : L .mem = true) (herrs : L .errs = true) (hskn : L .skn = true) (hdst : L .dst = true) (hseqs : L .seqs = true) (hply : L .ply = true) :
    (startPly secs c s).mask L = s.mask L := by
  unfold startPly; simp [*]

end Sys2Proof.Machine
end

