-- ==== Sys2Proof/Laws/FrameControl.lean ====
section
/-! SUPPORT. What each operation leaves unchanged: the control plane, the plying engine, the loader and the links. -/

namespace Sys2Proof.Machine

@[simp] theorem storeSpare_mask {L : Piece → Bool} (m : BitVec 5) (s : State) (hfree : L .free = true) (hdst : L .dst = true) (hspare : L .spare = true) (hspareReq : L .spareReq = true) (hseqs : L .seqs = true) (hrwp : L .rwp = true) (hwear : L .wear = true) (hnvm : L .nvm = true) (hndy : L .ndy = true) :
    (storeSpare m s).mask L = s.mask L := by
  unfold storeSpare
  dsimp only
  have h : ({ s with spare := m, spareReq := none } : State).mask L = s.mask L := by simp only [State.mask, *, if_true]
  split <;> simp [*]

@[simp] theorem leaveWith_mask {L : Piece → Bool} (p v : Nat) (s : State) (hreports : L .reports = true) :
    (leaveWith p v s).mask L = s.mask L := by
  unfold leaveWith; simp [*]

@[simp] theorem swapIn_mask {L : Piece → Bool} (m : BitVec 5) (s : State) (hfree : L .free = true) (hreg : L .reg = true) (hskn : L .skn = true) (hdst : L .dst = true) (hgate : L .gate = true) (hpend : L .pend = true) (hspare : L .spare = true) (hspareReq : L .spareReq = true) (hepochs : L .epochs = true) (hreports : L .reports = true) (hseqs : L .seqs = true) (hrwp : L .rwp = true) (hwear : L .wear = true) (hspn : L .spn = true) (hfly : L .fly = true) (hqps : L .qps = true) (hprts : L .prts = true) (hcrds : L .crds = true) (hnvm : L .nvm = true) (hndy : L .ndy = true) :
    (swapIn m s).mask L = s.mask L := by
  unfold swapIn; simp [*]

@[simp] theorem swapBack_mask {L : Piece → Bool} (m : BitVec 5) (s : State) (hfree : L .free = true) (hreg : L .reg = true) (hskn : L .skn = true) (hdst : L .dst = true) (hgate : L .gate = true) (hpend : L .pend = true) (hspare : L .spare = true) (hspareReq : L .spareReq = true) (hepochs : L .epochs = true) (hreports : L .reports = true) (hseqs : L .seqs = true) (hrwp : L .rwp = true) (hwear : L .wear = true) (hspn : L .spn = true) (hfly : L .fly = true) (hqps : L .qps = true) (hprts : L .prts = true) (hcrds : L .crds = true) (hnvm : L .nvm = true) (hndy : L .ndy = true) :
    (swapBack m s).mask L = s.mask L := by
  unfold swapBack; simp [*]

@[simp] theorem swapSpare_mask {L : Piece → Bool} (s : State) (hfree : L .free = true) (hreg : L .reg = true) (hskn : L .skn = true) (hdst : L .dst = true) (hgate : L .gate = true) (hpend : L .pend = true) (hspare : L .spare = true) (hspareReq : L .spareReq = true) (hepochs : L .epochs = true) (hreports : L .reports = true) (hseqs : L .seqs = true) (hrwp : L .rwp = true) (hwear : L .wear = true) (hspn : L .spn = true) (hfly : L .fly = true) (hqps : L .qps = true) (hprts : L .prts = true) (hcrds : L .crds = true) (hnvm : L .nvm = true) (hndy : L .ndy = true) :
    (swapSpare s).mask L = s.mask L := by
  simp only [swapSpare]; (repeat' split) <;> simp [*]

@[simp] theorem writeRecord_mask {L : Piece → Bool} (b : Nat) (r : Rec) (s : State) (hreg : L .reg = true) (hmem : L .mem = true) (herrs : L .errs = true) (hskn : L .skn = true) (hdst : L .dst = true) (hbobs : L .bobs = true) (hseqs : L .seqs = true) :
    (writeRecord b r s).mask L = s.mask L := by
  unfold writeRecord; simp [*]

@[simp] theorem settleDrain_mask {L : Piece → Bool} (b : Nat) (s : State) (hbobs : L .bobs = true) :
    (settleDrain b s).mask L = s.mask L := by
  unfold settleDrain; simp [*]

@[simp] theorem countDone_mask {L : Piece → Bool} (d : Done) (s : State) (hctxs : L .ctxs = true) :
    (countDone d s).mask L = s.mask L := by
  unfold countDone; simp [*]

@[simp] theorem captureHold_mask {L : Piece → Bool} (d : Done) (s : State) (hreg : L .reg = true) (hmem : L .mem = true) (herrs : L .errs = true) (hskn : L .skn = true) (hdst : L .dst = true) (hseqs : L .seqs = true) (htrns : L .trns = true) (hqps : L .qps = true) (hout : L .out = true) :
    (captureHold d s).mask L = s.mask L := by
  unfold captureHold; simp [*]

@[simp] theorem completeBase_mask {L : Piece → Bool} (jrn : Bool) (d : Done) (s : State) (hreg : L .reg = true) (hmem : L .mem = true) (herrs : L .errs = true) (hskn : L .skn = true) (hdst : L .dst = true) (hbobs : L .bobs = true) (hbarriers : L .barriers = true) (hbarrierAt : L .barrierAt = true) (hholds : L .holds = true) (hseqs : L .seqs = true) (htrns : L .trns = true) (hqps : L .qps = true) (hout : L .out = true) :
    (completeBase jrn d s).mask L = s.mask L := by
  unfold completeBase; simp [*]

@[simp] theorem advancePhase_mask {L : Piece → Bool} (c : Nat) (s : State) (hfree : L .free = true) (hreg : L .reg = true) (hmem : L .mem = true) (herrs : L .errs = true) (hskn : L .skn = true) (hdst : L .dst = true) (hgate : L .gate = true) (hpend : L .pend = true) (hspare : L .spare = true) (hspareReq : L .spareReq = true) (hepochs : L .epochs = true) (hreports : L .reports = true) (hseqs : L .seqs = true) (hrwp : L .rwp = true) (hwear : L .wear = true) (hspn : L .spn = true) (hfly : L .fly = true) (hctxs : L .ctxs = true) (htrns : L .trns = true) (hqps : L .qps = true) (hprts : L .prts = true) (hcrds : L .crds = true) (hnvm : L .nvm = true) (hndy : L .ndy = true) :
    (advancePhase c s).mask L = s.mask L := by
  simp only [advancePhase]; (repeat' split) <;> simp [*]

@[simp] theorem closeIfDone_mask {L : Piece → Bool} (c : Nat) (s : State) (hfree : L .free = true) (hreg : L .reg = true) (hmem : L .mem = true) (herrs : L .errs = true) (hskn : L .skn = true) (hdst : L .dst = true) (hgate : L .gate = true) (hpend : L .pend = true) (hspare : L .spare = true) (hspareReq : L .spareReq = true) (hbobs : L .bobs = true) (hbarriers : L .barriers = true) (hbarrierAt : L .barrierAt = true) (hholds : L .holds = true) (hepochs : L .epochs = true) (hreports : L .reports = true) (hseqs : L .seqs = true) (hrwp : L .rwp = true) (hwear : L .wear = true) (hspn : L .spn = true) (hfly : L .fly = true) (hctxs : L .ctxs = true) (htrns : L .trns = true) (hqps : L .qps = true) (hprts : L .prts = true) (hcrds : L .crds = true) (hnvm : L .nvm = true) (hndy : L .ndy = true) (hout : L .out = true) :
    (closeIfDone c s).mask L = s.mask L := by
  simp only [closeIfDone]; (repeat' split) <;> simp [*]

@[simp] theorem complete_mask {L : Piece → Bool} (d : Done) (s : State) (hfree : L .free = true) (hreg : L .reg = true) (hmem : L .mem = true) (herrs : L .errs = true) (hskn : L .skn = true) (hdst : L .dst = true) (hgate : L .gate = true) (hpend : L .pend = true) (hspare : L .spare = true) (hspareReq : L .spareReq = true) (hbobs : L .bobs = true) (hbarriers : L .barriers = true) (hbarrierAt : L .barrierAt = true) (hholds : L .holds = true) (hepochs : L .epochs = true) (hreports : L .reports = true) (hseqs : L .seqs = true) (hrwp : L .rwp = true) (hwear : L .wear = true) (hspn : L .spn = true) (hfly : L .fly = true) (hctxs : L .ctxs = true) (htrns : L .trns = true) (hqps : L .qps = true) (hprts : L .prts = true) (hcrds : L .crds = true) (hnvm : L .nvm = true) (hndy : L .ndy = true) (hout : L .out = true) :
    (complete d s).mask L = s.mask L := by
  unfold complete; simp [*]

@[simp] theorem faultBobbin_mask {L : Piece → Bool} (kind : Byte) (b : Nat) (s : State) (hdst : L .dst = true) (hseqs : L .seqs = true) :
    (faultBobbin kind b s).mask L = s.mask L := by
  unfold faultBobbin; simp [*]

@[simp] theorem enableBob_mask {L : Piece → Bool} (b : Nat) (s : State) (hreg : L .reg = true) (hmem : L .mem = true) (herrs : L .errs = true) (hskn : L .skn = true) (hdst : L .dst = true) (hbobs : L .bobs = true) (hseqs : L .seqs = true) :
    (enableBob b s).mask L = s.mask L := by
  unfold enableBob; simp [*]

@[simp] theorem disableBob_mask {L : Piece → Bool} (b : Nat) (s : State) (hbobs : L .bobs = true) :
    (disableBob b s).mask L = s.mask L := by
  unfold disableBob; simp [*]

@[simp] theorem writeProd_mask {L : Piece → Bool} (b : Nat) (v : Word) (s : State) (hdst : L .dst = true) (hbobs : L .bobs = true) (hseqs : L .seqs = true) :
    ((writeProd b v s).over s).mask L = s.mask L := by
  unfold writeProd; simp [*]

@[simp] theorem stopBobbin_mask {L : Piece → Bool} (i : Issued) (err : Bool) (s : State) (hfree : L .free = true) (hdst : L .dst = true) (hbobs : L .bobs = true) (hseqs : L .seqs = true) :
    (stopBobbin i err s).mask L = s.mask L := by
  unfold stopBobbin; simp [*]

@[simp] theorem checkArrival_mask {L : Piece → Bool} (i : Issued) (s : State) (hdst : L .dst = true) (hbobs : L .bobs = true) (hseqs : L .seqs = true) :
    (checkArrival i s).mask L = s.mask L := by
  simp only [checkArrival]; (repeat' split) <;> simp [*]

@[simp] theorem arrive_mask {L : Piece → Bool} (b : Bobbin) (x0 : List (Nat × List RByte)) (x1 : Word) (s : State) (hfree : L .free = true) (hids : L .ids = true) (hdst : L .dst = true) (hbobs : L .bobs = true) (hseqs : L .seqs = true) :
    (arrive b x0 x1 s).mask L = s.mask L := by
  induction x0 generalizing s x1 with
  | nil => rfl
  | cons q r ih =>
    unfold arrive
    dsimp only
    split <;> simp [ih, *]

@[simp] theorem cachedRead_mask {L : Piece → Bool} (a : Nat) (s : State) (hfree : L .free = true) (hreg : L .reg = true) (hmem : L .mem = true) (herrs : L .errs = true) (hskn : L .skn = true) (hdst : L .dst = true) (hseqs : L .seqs = true) (hplanCache : L .planCache = true) :
    (cachedRead a s).2.2.mask L = s.mask L := by
  have h : ∀ (t : State) x, ({ t with planCache := x } : State).mask L = t.mask L := by
    intro t x; simp only [State.mask, *, if_true]
  simp only [cachedRead]
  repeat' split
  all_goals exact (h _ _).trans (by simp [*])

@[simp] theorem noteRun_mask {L : Piece → Bool} (e : PlanEnt) (sizes : List Nat) (n : Nat) (s : State) (hlastRun : L .lastRun = true) (hlastBucket : L .lastBucket = true) :
    (noteRun e sizes n s).mask L = s.mask L := by
  unfold noteRun; (repeat' split) <;> simp only [State.mask, *, if_true]

@[simp] theorem setHead_mask {L : Piece → Bool} (b : Nat) (f : QEntry → QEntry) (s : State) (hbobs : L .bobs = true) :
    (setHead b f s).mask L = s.mask L := by
  simp only [setHead]; (repeat' split) <;> simp [*]

@[simp] theorem failRunWord_mask {L : Piece → Bool} (b a : Nat) (e : QEntry) (s : State) (hdst : L .dst = true) (hbobs : L .bobs = true) (hseqs : L .seqs = true) :
    (failRunWord b a e s).mask L = s.mask L := by
  unfold failRunWord; simp [*]

@[simp] theorem resolveHead_mask {L : Piece → Bool} (b : Nat) (e : QEntry) (m : Image) (s : State) (hfree : L .free = true) (hreg : L .reg = true) (hmem : L .mem = true) (herrs : L .errs = true) (hskn : L .skn = true) (hdst : L .dst = true) (hbobs : L .bobs = true) (hseqs : L .seqs = true) (hplanCache : L .planCache = true) (hlastRun : L .lastRun = true) (hlastBucket : L .lastBucket = true) :
    (resolveHead b e m s).mask L = s.mask L := by
  simp only [resolveHead]; (repeat' split) <;> simp [*]

@[simp] theorem noteGrant_mask {L : Piece → Bool} (c : Cmd) (s : State) (hturns : L .turns = true) :
    (noteGrant c s).mask L = s.mask L := by
  simp only [noteGrant]; (repeat' split) <;> simp [*]

@[simp] theorem sendToUnit_mask {L : Piece → Bool} (e : QEntry) (s : State) (hports : L .ports = true) (hsched : L .sched = true) (hreports : L .reports = true) :
    (sendToUnit e s).mask L = s.mask L := by
  simp only [sendToUnit]; (repeat' split) <;> simp [*]

@[simp] theorem popHead_mask {L : Piece → Bool} (b : Nat) (s : State) (hbobs : L .bobs = true) :
    (popHead b s).mask L = s.mask L := by
  unfold popHead; simp [*]

@[simp] theorem dispatchHead_mask {L : Piece → Bool} (b : Nat) (e : QEntry) (s : State) (hreg : L .reg = true) (hbobs : L .bobs = true) (hturns : L .turns = true) (hports : L .ports = true) (hsched : L .sched = true) (hreports : L .reports = true) :
    (dispatchHead b e s).mask L = s.mask L := by
  unfold dispatchHead; simp [*]

@[simp] theorem lateHead_mask {L : Piece → Bool} (b : Nat) (e : QEntry) (s : State) (hreg : L .reg = true) (hdst : L .dst = true) (hbobs : L .bobs = true) (hseqs : L .seqs = true) :
    (lateHead b e s).mask L = s.mask L := by
  unfold lateHead; simp [*]

@[simp] theorem recordHead_mask {L : Piece → Bool} (b : Nat) (e : QEntry) (s : State) (hfree : L .free = true) (hreg : L .reg = true) (hmem : L .mem = true) (herrs : L .errs = true) (hskn : L .skn = true) (hdst : L .dst = true) (hgate : L .gate = true) (hpend : L .pend = true) (hspare : L .spare = true) (hspareReq : L .spareReq = true) (hbobs : L .bobs = true) (hbarriers : L .barriers = true) (hbarrierAt : L .barrierAt = true) (hholds : L .holds = true) (hepochs : L .epochs = true) (hreports : L .reports = true) (hseqs : L .seqs = true) (hrwp : L .rwp = true) (hwear : L .wear = true) (hspn : L .spn = true) (hfly : L .fly = true) (hctxs : L .ctxs = true) (htrns : L .trns = true) (hqps : L .qps = true) (hprts : L .prts = true) (hcrds : L .crds = true) (hnvm : L .nvm = true) (hndy : L .ndy = true) (hout : L .out = true) :
    (recordHead b e s).mask L = s.mask L := by
  unfold recordHead; simp [*]

@[simp] theorem dispatchBob_mask {L : Piece → Bool} (b : Nat) (s : State) (hL : Covers [.pending, .tick, .wall, .cyc, .ids, .rstBusy, .sleepReq, .asleep, .wakeAt, .run, .ready, .fetchTurns, .retireWait, .cause, .pllLock, .spread, .onRoot, .clocksOn, .fmRun, .fmDone, .fmResult, .driftOdd, .monLast, .fmt, .curves, .struck, .images, .imgState, .loading, .loadCtx, .loadResult, .loadAddr, .planCache, .lastRun, .lastBucket, .lsInit, .qpResult, .ply, .fuses, .whl, .pkg] L) :
    (dispatchBob b s).mask L = s.mask L := by
  have hfree := hL.at (p := .free) (by decide)
  have hreg := hL.at (p := .reg) (by decide)
  have hmem := hL.at (p := .mem) (by decide)
  have herrs := hL.at (p := .errs) (by decide)
  have hskn := hL.at (p := .skn) (by decide)
  have hdst := hL.at (p := .dst) (by decide)
  have hgate := hL.at (p := .gate) (by decide)
  have hpend := hL.at (p := .pend) (by decide)
  have hspare := hL.at (p := .spare) (by decide)
  have hspareReq := hL.at (p := .spareReq) (by decide)
  have hbobs := hL.at (p := .bobs) (by decide)
  have hturns := hL.at (p := .turns) (by decide)
  have hbarriers := hL.at (p := .barriers) (by decide)
  have hbarrierAt := hL.at (p := .barrierAt) (by decide)
  have hholds := hL.at (p := .holds) (by decide)
  have hepochs := hL.at (p := .epochs) (by decide)
  have hports := hL.at (p := .ports) (by decide)
  have hsched := hL.at (p := .sched) (by decide)
  have hreports := hL.at (p := .reports) (by decide)
  have hseqs := hL.at (p := .seqs) (by decide)
  have hrwp := hL.at (p := .rwp) (by decide)
  have hwear := hL.at (p := .wear) (by decide)
  have hspn := hL.at (p := .spn) (by decide)
  have hfly := hL.at (p := .fly) (by decide)
  have hctxs := hL.at (p := .ctxs) (by decide)
  have htrns := hL.at (p := .trns) (by decide)
  have hqps := hL.at (p := .qps) (by decide)
  have hprts := hL.at (p := .prts) (by decide)
  have hcrds := hL.at (p := .crds) (by decide)
  have hnvm := hL.at (p := .nvm) (by decide)
  have hndy := hL.at (p := .ndy) (by decide)
  have hout := hL.at (p := .out) (by decide)
  simp only [dispatchBob]; (repeat' split) <;> simp [*]

@[simp] theorem noteHeads_mask {L : Piece → Bool} (s : State) (hbobs : L .bobs = true) :
    (noteHeads s).mask L = s.mask L := by
  unfold noteHeads; simp [*]

@[simp] theorem settlePend_mask {L : Piece → Bool} (s : State) (hpend : L .pend = true) :
    (settlePend s).mask L = s.mask L := by
  unfold settlePend; simp [*]

@[simp] theorem journalRoute_mask {L : Piece → Bool} (c : Nat) (l : List (Nat × Bool)) (s : State) (hreg : L .reg = true) (hmem : L .mem = true) (herrs : L .errs = true) (hskn : L .skn = true) (hdst : L .dst = true) (hseqs : L .seqs = true) (htrns : L .trns = true) :
    (journalRoute c l s).mask L = s.mask L := by
  unfold journalRoute; simp [*]

@[simp] theorem stageDone_mask {L : Piece → Bool} (id : Nat) (s : State) (hspn : L .spn = true) :
    (stageDone id s).mask L = s.mask L := by
  unfold stageDone; simp [*]

@[simp] theorem takeReport_mask {L : Piece → Bool} (r : Report) (s0 : State) (hfree : L .free = true) (hreg : L .reg = true) (hmem : L .mem = true) (herrs : L .errs = true) (hskn : L .skn = true) (hdst : L .dst = true) (hgate : L .gate = true) (hpend : L .pend = true) (hspare : L .spare = true) (hspareReq : L .spareReq = true) (hbobs : L .bobs = true) (hbarriers : L .barriers = true) (hbarrierAt : L .barrierAt = true) (hholds : L .holds = true) (hepochs : L .epochs = true) (hreports : L .reports = true) (hseqs : L .seqs = true) (hrwp : L .rwp = true) (hwear : L .wear = true) (hspn : L .spn = true) (hfly : L .fly = true) (hctxs : L .ctxs = true) (htrns : L .trns = true) (hqps : L .qps = true) (hprts : L .prts = true) (hcrds : L .crds = true) (hnvm : L .nvm = true) (hndy : L .ndy = true) (hout : L .out = true) :
    (takeReport r s0).mask L = s0.mask L := by
  unfold takeReport; simp [*]

@[simp] theorem dropSched_mask {L : Piece → Bool} (id : Nat) (s : State) (hsched : L .sched = true) :
    (dropSched id s).mask L = s.mask L := by
  unfold dropSched; simp [*]

@[simp] theorem phaseCloseRun_mask {L : Piece → Bool} (i : Issued) (s : State) (hfree : L .free = true) (hreg : L .reg = true) (hmem : L .mem = true) (herrs : L .errs = true) (hskn : L .skn = true) (hdst : L .dst = true) (hgate : L .gate = true) (hpend : L .pend = true) (hspare : L .spare = true) (hspareReq : L .spareReq = true) (hbobs : L .bobs = true) (hbarriers : L .barriers = true) (hbarrierAt : L .barrierAt = true) (hholds : L .holds = true) (hepochs : L .epochs = true) (hreports : L .reports = true) (hseqs : L .seqs = true) (hrwp : L .rwp = true) (hwear : L .wear = true) (hspn : L .spn = true) (hfly : L .fly = true) (hctxs : L .ctxs = true) (htrns : L .trns = true) (hqps : L .qps = true) (hprts : L .prts = true) (hcrds : L .crds = true) (hnvm : L .nvm = true) (hndy : L .ndy = true) (hout : L .out = true) :
    (phaseCloseRun i s).mask L = s.mask L := by
  unfold phaseCloseRun; simp [*]

@[simp] theorem releaseTag_mask {L : Piece → Bool} (t : Nat) (s : State) (hreg : L .reg = true) (hholds : L .holds = true) :
    (releaseTag t s).mask L = s.mask L := by
  unfold releaseTag; simp [*]

@[simp] theorem writeCqHead_mask {L : Piece → Bool} (b : Nat) (v : Word) (s : State) (hbobs : L .bobs = true) :
    ((writeCqHead b v s).over s).mask L = s.mask L := by
  unfold writeCqHead; simp [*]

@[simp] theorem writeDbCtrl_mask {L : Piece → Bool} (b : Nat) (v : Word) (s : State) (hreg : L .reg = true) (hmem : L .mem = true) (herrs : L .errs = true) (hskn : L .skn = true) (hdst : L .dst = true) (hbobs : L .bobs = true) (hseqs : L .seqs = true) :
    ((writeDbCtrl b v s).over s).mask L = s.mask L := by
  unfold writeDbCtrl; simp [*]

@[simp] theorem plyStoreSums_mask {L : Piece → Bool} (id : Nat) (c : PlyCmd) (b base : Nat) (sums : List Int) (poison : Bool) (s : State) (hreg : L .reg = true) (hmem : L .mem = true) (herrs : L .errs = true) (hskn : L .skn = true) (hdst : L .dst = true) (hseqs : L .seqs = true) (hply : L .ply = true) :
    (plyStoreSums id c b base sums poison s).mask L = s.mask L := by
  simp only [plyStoreSums]; (repeat' split) <;> simp [*]

@[simp] theorem plySumDown_mask {L : Piece → Bool} (id : Nat) (c : PlyCmd) (b : Nat) (sums : List Int) (q : Nat) (poison : Bool) (s : State) (hreg : L .reg = true) (hmem : L .mem = true) (herrs : L .errs = true) (hskn : L .skn = true) (hdst : L .dst = true) (hreports : L .reports = true) (hseqs : L .seqs = true) (hqps : L .qps = true) (hply : L .ply = true) (hout : L .out = true) :
    (plySumDown id c b sums q poison s).mask L = s.mask L := by
  unfold plySumDown; simp [*]

@[simp] theorem plyClose_mask {L : Piece → Bool} (id b : Nat) (s : State) (hreg : L .reg = true) (hmem : L .mem = true) (herrs : L .errs = true) (hskn : L .skn = true) (hdst : L .dst = true) (hreports : L .reports = true) (hseqs : L .seqs = true) (htrns : L .trns = true) (hqps : L .qps = true) (hply : L .ply = true) (hout : L .out = true) :
    (plyClose id b s).mask L = s.mask L := by
  simp only [plyClose]; (repeat' split) <;> simp [*]

@[simp] theorem plyContribute_mask {L : Piece → Bool} (id : Nat) (x : Contrib) (src_ : Nat) (s : State) (hreg : L .reg = true) (hmem : L .mem = true) (herrs : L .errs = true) (hskn : L .skn = true) (hdst : L .dst = true) (hreports : L .reports = true) (hseqs : L .seqs = true) (htrns : L .trns = true) (hqps : L .qps = true) (hply : L .ply = true) (hout : L .out = true) :
    (plyContribute id x src_ s).mask L = s.mask L := by
  simp only [plyContribute]; (repeat' split) <;> simp [*]

@[simp] theorem plyOwn_mask {L : Piece → Bool} (id : Nat) (x0 : List Contrib) (s : State) (hreg : L .reg = true) (hmem : L .mem = true) (herrs : L .errs = true) (hskn : L .skn = true) (hdst : L .dst = true) (hreports : L .reports = true) (hseqs : L .seqs = true) (htrns : L .trns = true) (hqps : L .qps = true) (hply : L .ply = true) (hout : L .out = true) :
    (plyOwn id x0 s).mask L = s.mask L := by
  induction x0 generalizing s with
  | nil => simp [plyOwn, *]
  | cons m r ih =>
    unfold plyOwn
    split
    · rfl
    · split <;> simp [ih, *]

@[simp] theorem plyAdvance_mask {L : Piece → Bool} (id : Nat) (s : State) (hreg : L .reg = true) (hmem : L .mem = true) (herrs : L .errs = true) (hskn : L .skn = true) (hdst : L .dst = true) (hreports : L .reports = true) (hseqs : L .seqs = true) (htrns : L .trns = true) (hqps : L .qps = true) (hply : L .ply = true) (hout : L .out = true) :
    (plyAdvance id s).mask L = s.mask L := by
  simp only [plyAdvance]; (repeat' split) <;> simp [*]

@[simp] theorem plyScaleRecords_mask {L : Piece → Bool} (c : PlyCmd) (s : State) (hreg : L .reg = true) (hmem : L .mem = true) (herrs : L .errs = true) (hskn : L .skn = true) (hdst : L .dst = true) (hseqs : L .seqs = true) (htrns : L .trns = true) :
    (plyScaleRecords c s).mask L = s.mask L := by
  unfold plyScaleRecords; simp [*]

@[simp] theorem plyMain_mask {L : Piece → Bool} (id : Nat) (s : State) (hreg : L .reg = true) (hmem : L .mem = true) (herrs : L .errs = true) (hskn : L .skn = true) (hdst : L .dst = true) (hreports : L .reports = true) (hseqs : L .seqs = true) (htrns : L .trns = true) (hqps : L .qps = true) (hply : L .ply = true) (hout : L .out = true) :
    (plyMain id s).mask L = s.mask L := by
  simp only [plyMain]; (repeat' split) <;> simp [*]

@[simp] theorem plyPreCheck_mask {L : Piece → Bool} (id : Nat) (s : State) (hreg : L .reg = true) (hmem : L .mem = true) (herrs : L .errs = true) (hskn : L .skn = true) (hdst : L .dst = true) (hreports : L .reports = true) (hseqs : L .seqs = true) (htrns : L .trns = true) (hqps : L .qps = true) (hply : L .ply = true) (hout : L .out = true) :
    (plyPreCheck id s).mask L = s.mask L := by
  simp only [plyPreCheck]; (repeat' split) <;> simp [*]

@[simp] theorem plyPreOwner_mask {L : Piece → Bool} (id : Nat) (s : State) (hreg : L .reg = true) (hmem : L .mem = true) (herrs : L .errs = true) (hskn : L .skn = true) (hdst : L .dst = true) (hreports : L .reports = true) (hseqs : L .seqs = true) (htrns : L .trns = true) (hqps : L .qps = true) (hply : L .ply = true) (hout : L .out = true) :
    (plyPreOwner id s).mask L = s.mask L := by
  simp only [plyPreOwner]; (repeat' split) <;> simp [*]

@[simp] theorem plyPreStart_mask {L : Piece → Bool} (id : Nat) (s : State) (hreg : L .reg = true) (hmem : L .mem = true) (herrs : L .errs = true) (hskn : L .skn = true) (hdst : L .dst = true) (hreports : L .reports = true) (hseqs : L .seqs = true) (htrns : L .trns = true) (hqps : L .qps = true) (hply : L .ply = true) (hout : L .out = true) :
    (plyPreStart id s).mask L = s.mask L := by
  simp only [plyPreStart]; (repeat' split) <;> simp [*]

@[simp] theorem reduceRun_mask {L : Piece → Bool} (hs : List Hit) (i : Issued) (c : PlyCmd) (s : State) (hreg : L .reg = true) (hmem : L .mem = true) (herrs : L .errs = true) (hskn : L .skn = true) (hdst : L .dst = true) (hreports : L .reports = true) (hseqs : L .seqs = true) (htrns : L .trns = true) (hqps : L .qps = true) (hply : L .ply = true) (hout : L .out = true) :
    (reduceRun hs i c s).mask L = s.mask L := by
  unfold reduceRun; simp [*]

@[simp] theorem plyScales_mask {L : Piece → Bool} (id : Nat) (m : RMsg) (s : State) (hdst : L .dst = true) (hseqs : L .seqs = true) (hply : L .ply = true) :
    (plyScales id m s).mask L = s.mask L := by
  simp only [plyScales]; (repeat' split) <;> simp [*]

@[simp] theorem reduceMsg_mask {L : Piece → Bool} (c : PlyCmd) (m : RMsg) (pay : List Byte) (s : State) (hreg : L .reg = true) (hmem : L .mem = true) (herrs : L .errs = true) (hskn : L .skn = true) (hdst : L .dst = true) (hreports : L .reports = true) (hseqs : L .seqs = true) (htrns : L .trns = true) (hqps : L .qps = true) (hply : L .ply = true) (hout : L .out = true) :
    (reduceMsg c m pay s).1.mask L = s.mask L := by
  simp only [reduceMsg]; (repeat' split) <;> simp [*]

@[simp] theorem gatherStore_mask {L : Piece → Bool} (id : Nat) (c : PlyCmd) (b : Nat) (pay : List Byte) (q : Nat) (poison badQ : Bool) (s : State) (hreg : L .reg = true) (hmem : L .mem = true) (herrs : L .errs = true) (hskn : L .skn = true) (hdst : L .dst = true) (hseqs : L .seqs = true) (hply : L .ply = true) :
    (gatherStore id c b pay q poison badQ s).mask L = s.mask L := by
  simp only [gatherStore]; (repeat' split) <;> simp [*]

@[simp] theorem gatherOwn_mask {L : Piece → Bool} (id : Nat) (c : PlyCmd) (d : Desc) (x : OwnBlock) (s : State) (hreg : L .reg = true) (hmem : L .mem = true) (herrs : L .errs = true) (hskn : L .skn = true) (hdst : L .dst = true) (hseqs : L .seqs = true) (hply : L .ply = true) :
    (gatherOwn id c d x s).mask L = s.mask L := by
  unfold gatherOwn; simp [*]

@[simp] theorem gatherRun_mask {L : Piece → Bool} (hs : List Hit) (i : Issued) (c : PlyCmd) (s : State) (hreg : L .reg = true) (hmem : L .mem = true) (herrs : L .errs = true) (hskn : L .skn = true) (hdst : L .dst = true) (hreports : L .reports = true) (hseqs : L .seqs = true) (hqps : L .qps = true) (hply : L .ply = true) (hout : L .out = true) :
    (gatherRun hs i c s).mask L = s.mask L := by
  unfold gatherRun; simp [*]

@[simp] theorem gatherMsg_mask {L : Piece → Bool} (c : PlyCmd) (m : RMsg) (pay : List Byte) (s : State) (hreg : L .reg = true) (hmem : L .mem = true) (herrs : L .errs = true) (hskn : L .skn = true) (hdst : L .dst = true) (hreports : L .reports = true) (hseqs : L .seqs = true) (hply : L .ply = true) :
    (gatherMsg c m pay s).1.mask L = s.mask L := by
  simp only [gatherMsg]; (repeat' split) <;> simp [*]

@[simp] theorem verdictDown_mask {L : Piece → Bool} (id : Nat) (ovf csum : Bool) (s : State) (hreg : L .reg = true) (hmem : L .mem = true) (herrs : L .errs = true) (hskn : L .skn = true) (hdst : L .dst = true) (hreports : L .reports = true) (hseqs : L .seqs = true) (htrns : L .trns = true) (hqps : L .qps = true) (hply : L .ply = true) (hout : L .out = true) :
    (verdictDown id ovf csum s).mask L = s.mask L := by
  simp only [verdictDown]; (repeat' split) <;> simp [*]

@[simp] theorem verdictUp_mask {L : Piece → Bool} (id : Nat) (s : State) (hreg : L .reg = true) (hmem : L .mem = true) (herrs : L .errs = true) (hskn : L .skn = true) (hdst : L .dst = true) (hreports : L .reports = true) (hseqs : L .seqs = true) (htrns : L .trns = true) (hqps : L .qps = true) (hply : L .ply = true) (hout : L .out = true) :
    (verdictUp id s).mask L = s.mask L := by
  simp only [verdictUp]; (repeat' split) <;> simp [*]

@[simp] theorem verdictMsg_mask {L : Piece → Bool} (c : PlyCmd) (m : RMsg) (s : State) (hreg : L .reg = true) (hmem : L .mem = true) (herrs : L .errs = true) (hskn : L .skn = true) (hdst : L .dst = true) (hreports : L .reports = true) (hseqs : L .seqs = true) (htrns : L .trns = true) (hqps : L .qps = true) (hply : L .ply = true) (hout : L .out = true) :
    (verdictMsg c m s).1.mask L = s.mask L := by
  simp only [verdictMsg]; (repeat' split) <;> simp [*]

@[simp] theorem barrierRun_mask {L : Piece → Bool} (i : Issued) (c : PlyCmd) (s : State) (hreg : L .reg = true) (hmem : L .mem = true) (herrs : L .errs = true) (hskn : L .skn = true) (hdst : L .dst = true) (hbarriers : L .barriers = true) (hbarrierAt : L .barrierAt = true) (hreports : L .reports = true) (hseqs : L .seqs = true) (hqps : L .qps = true) (hply : L .ply = true) (hout : L .out = true) :
    (barrierRun i c s).mask L = s.mask L := by
  simp only [barrierRun]; (repeat' split) <;> simp [*]

@[simp] theorem factorRun_mask {L : Piece → Bool} (hs : List Hit) (seed : Option (Nat → Word)) (i : Issued) (d : Desc) (s : State) (hreg : L .reg = true) (hmem : L .mem = true) (herrs : L .errs = true) (hskn : L .skn = true) (hdst : L .dst = true) (hreports : L .reports = true) (hseqs : L .seqs = true) :
    (factorRun hs seed i d s).mask L = s.mask L := by
  unfold factorRun; simp [*]

@[simp] theorem plyStray_mask {L : Piece → Bool} (port : Nat) (m : RMsg) (s : State) (hreg : L .reg = true) (hdst : L .dst = true) (hseqs : L .seqs = true) (hply : L .ply = true) :
    (plyStray port m s).mask L = s.mask L := by
  unfold plyStray; simp [*]

@[simp] theorem plyUnmatched_mask {L : Piece → Bool} (port : Nat) (m : RMsg) (s : State) (g : Option (Nat × Grp)) (hreg : L .reg = true) (hdst : L .dst = true) (hseqs : L .seqs = true) (hply : L .ply = true) :
    (plyUnmatched port m s g).1.mask L = s.mask L := by
  simp only [plyUnmatched]; (repeat' split) <;> simp [*]

@[simp] theorem plyDeliver_mask {L : Piece → Bool} (port : Nat) (l : List Byte) (s : State) (hreg : L .reg = true) (hmem : L .mem = true) (herrs : L .errs = true) (hskn : L .skn = true) (hdst : L .dst = true) (hreports : L .reports = true) (hseqs : L .seqs = true) (htrns : L .trns = true) (hqps : L .qps = true) (hply : L .ply = true) (hout : L .out = true) :
    (plyDeliver port l s).1.mask L = s.mask L := by
  have h1 : ∀ (m : RMsg) g, (plyUnmatched port m s g).1.mask L = s.mask L := by
    intro m g
    unfold plyUnmatched
    split
    · split <;> simp [*]
    · simp [*]
  have h2 : ∀ (m : RMsg) c (r : State × PlyAns), r.1.mask L = s.mask L → (plyAnswered port m c s r).1.mask L = s.mask L := by
    intro m c r hr
    unfold plyAnswered
    split <;> simp [*]
  unfold plyDeliver
  dsimp only
  split
  · simp [*]
  · split
    · exact h1 _ _
    · refine h2 _ _ _ ?_
      repeat' split
      all_goals simp [*]

@[simp] theorem plyAcked_mask {L : Piece → Bool} (id : Nat) (s : State) (hreg : L .reg = true) (hmem : L .mem = true) (herrs : L .errs = true) (hskn : L .skn = true) (hdst : L .dst = true) (hreports : L .reports = true) (hseqs : L .seqs = true) (htrns : L .trns = true) (hqps : L .qps = true) (hply : L .ply = true) (hout : L .out = true) :
    (plyAcked id s).mask L = s.mask L := by
  unfold plyAcked; simp [*]

@[simp] theorem beginLoad_mask {L : Piece → Bool} (s : State) (himgState : L .imgState = true) (hloadCtx : L .loadCtx = true) :
    (beginLoad s).mask L = s.mask L := by
  unfold beginLoad
  split
  · rfl
  · dsimp only
    split
    · rfl
    · split <;> simp only [State.mask, *, if_true]

@[simp] theorem nextLoad_mask {L : Piece → Bool} (s : State) (himgState : L .imgState = true) (hloading : L .loading = true) (hloadCtx : L .loadCtx = true) :
    (nextLoad s).mask L = s.mask L := by
  unfold nextLoad; simp [*]

@[simp] theorem rejectLoad_mask {L : Piece → Bool} (i : Issued) (f : LoadFail) (s : State) (hreg : L .reg = true) (hdst : L .dst = true) (hreports : L .reports = true) (hseqs : L .seqs = true) (himgState : L .imgState = true) (hloadResult : L .loadResult = true) (hloadAddr : L .loadAddr = true) :
    (rejectLoad i f s).mask L = s.mask L := by
  unfold rejectLoad
  simp only [State.addReport_mask, faultCharged_mask, State.count_mask, *]
  simp only [State.mask, *, if_true]

@[simp] theorem acceptLoad_mask {L : Piece → Bool} (i : Issued) (d : ImgData) (s : State) (hL : Covers [.pending, .tick, .wall, .cyc, .ids, .rstBusy, .sleepReq, .asleep, .wakeAt, .run, .ready, .turns, .fetchTurns, .ports, .sched, .retireWait, .cause, .pllLock, .spread, .onRoot, .clocksOn, .fmRun, .fmDone, .fmResult, .driftOdd, .monLast, .fmt, .curves, .struck, .loading, .loadCtx, .planCache, .lastRun, .lastBucket, .lsInit, .qpResult, .ply, .fuses, .whl, .pkg] L) :
    (acceptLoad i d s).mask L = s.mask L := by
  have hfree := hL.at (p := .free) (by decide)
  have hreg := hL.at (p := .reg) (by decide)
  have hmem := hL.at (p := .mem) (by decide)
  have herrs := hL.at (p := .errs) (by decide)
  have hskn := hL.at (p := .skn) (by decide)
  have hdst := hL.at (p := .dst) (by decide)
  have hgate := hL.at (p := .gate) (by decide)
  have hpend := hL.at (p := .pend) (by decide)
  have hspare := hL.at (p := .spare) (by decide)
  have hspareReq := hL.at (p := .spareReq) (by decide)
  have hbobs := hL.at (p := .bobs) (by decide)
  have hbarriers := hL.at (p := .barriers) (by decide)
  have hbarrierAt := hL.at (p := .barrierAt) (by decide)
  have hholds := hL.at (p := .holds) (by decide)
  have hepochs := hL.at (p := .epochs) (by decide)
  have hreports := hL.at (p := .reports) (by decide)
  have hseqs := hL.at (p := .seqs) (by decide)
  have hrwp := hL.at (p := .rwp) (by decide)
  have hwear := hL.at (p := .wear) (by decide)
  have hspn := hL.at (p := .spn) (by decide)
  have hfly := hL.at (p := .fly) (by decide)
  have himages := hL.at (p := .images) (by decide)
  have himgState := hL.at (p := .imgState) (by decide)
  have hloadResult := hL.at (p := .loadResult) (by decide)
  have hloadAddr := hL.at (p := .loadAddr) (by decide)
  have hctxs := hL.at (p := .ctxs) (by decide)
  have htrns := hL.at (p := .trns) (by decide)
  have hqps := hL.at (p := .qps) (by decide)
  have hprts := hL.at (p := .prts) (by decide)
  have hcrds := hL.at (p := .crds) (by decide)
  have hnvm := hL.at (p := .nvm) (by decide)
  have hndy := hL.at (p := .ndy) (by decide)
  have hout := hL.at (p := .out) (by decide)
  unfold acceptLoad
  dsimp only
  rw [complete_mask]
  · rw [State.count_mask _ _ _ hreg]
    simp only [State.mask, *, if_true]
  all_goals first | assumption | exact hL.mono (by decide)

@[simp] theorem holdLoad_mask {L : Piece → Bool} (i : Issued) (s : State) (himgState : L .imgState = true) (hloading : L .loading = true) (hloadCtx : L .loadCtx = true) :
    (holdLoad i s).mask L = s.mask L := by
  unfold holdLoad; simp [*]

@[simp] theorem freeClaims_mask {L : Piece → Bool} (m : Image) (s : State) (hspn : L .spn = true) :
    (freeClaims m s).mask L = s.mask L := by
  unfold freeClaims; simp [*]

@[simp] theorem dropPlans_mask {L : Piece → Bool} (m : Image) (s : State) (hplanCache : L .planCache = true) :
    (dropPlans m s).mask L = s.mask L := by
  unfold dropPlans; simp [*]

@[simp] theorem unloadCtx_mask {L : Piece → Bool} (c : Nat) (s : State) (hspn : L .spn = true) (hfly : L .fly = true) (himages : L .images = true) (himgState : L .imgState = true) (hplanCache : L .planCache = true) (htrns : L .trns = true) :
    (unloadCtx c s).mask L = s.mask L := by
  unfold unloadCtx
  dsimp only
  have h : ∀ t : State, ({ t with images := mdel t.images c, imgState := mput t.imgState c .none .none } : State).mask L
      = t.mask L := by intro t; simp only [State.mask, *, if_true]
  split <;> simp [*]

@[simp] theorem takeIdentity_mask {L : Piece → Bool} (s : State) (hndy : L .ndy = true) :
    (takeIdentity s).mask L = s.mask L := by
  unfold takeIdentity; simp [*]

@[simp] theorem sendNotice_mask {L : Piece → Bool} (s : State) (hreg : L .reg = true) (hndy : L .ndy = true) (hout : L .out = true) :
    (sendNotice s).mask L = s.mask L := by
  unfold sendNotice; simp [*]

@[simp] theorem ctxResetWrite_mask {L : Piece → Bool} (c : Nat) (s : State) (hreg : L .reg = true) (hmem : L .mem = true) (herrs : L .errs = true) (hskn : L .skn = true) (hdst : L .dst = true) (hbobs : L .bobs = true) (hbarriers : L .barriers = true) (hbarrierAt : L .barrierAt = true) (hholds : L .holds = true) (hseqs : L .seqs = true) (hfly : L .fly = true) (hctxs : L .ctxs = true) (htrns : L .trns = true) (hqps : L .qps = true) (hout : L .out = true) :
    (ctxResetWrite c s).mask L = s.mask L := by
  simp only [ctxResetWrite]; (repeat' split) <;> simp [*]

@[simp] theorem indWrite_mask {L : Piece → Bool} (v : Word) (s : State) (hbarriers : L .barriers = true) (hbarrierAt : L .barrierAt = true) :
    (indWrite v s).mask L = s.mask L := by
  unfold indWrite; simp [*]

@[simp] theorem writeDoorbell_mask {L : Piece → Bool} (b off : Nat) (v : Word) (s : State) (hreg : L .reg = true) (hmem : L .mem = true) (herrs : L .errs = true) (hskn : L .skn = true) (hdst : L .dst = true) (hbobs : L .bobs = true) (hseqs : L .seqs = true) :
    ((writeDoorbell b off v s).over s).mask L = s.mask L := by
  unfold writeDoorbell; simp [*]

@[simp] theorem failOp_mask {L : Piece → Bool} (n : Nat) (o : SqOp) (s : State) (hreg : L .reg = true) (hmem : L .mem = true) (herrs : L .errs = true) (hskn : L .skn = true) (hdst : L .dst = true) (hreports : L .reports = true) (hseqs : L .seqs = true) (hqps : L .qps = true) (hcrds : L .crds = true) (hply : L .ply = true) (hout : L .out = true) :
    (failOp n o s).mask L = s.mask L := by
  simp only [failOp]; (repeat' split) <;> simp [*]

@[simp] theorem endQp_mask {L : Piece → Bool} (n st : Nat) (s : State) (hreg : L .reg = true) (hmem : L .mem = true) (herrs : L .errs = true) (hskn : L .skn = true) (hdst : L .dst = true) (hreports : L .reports = true) (hseqs : L .seqs = true) (hqps : L .qps = true) (hcrds : L .crds = true) (hply : L .ply = true) (hout : L .out = true) :
    (endQp n st s).mask L = s.mask L := by
  unfold endQp; simp [*]

@[simp] theorem qpError_mask {L : Piece → Bool} (n cause : Nat) (s : State) (hreg : L .reg = true) (hmem : L .mem = true) (herrs : L .errs = true) (hskn : L .skn = true) (hdst : L .dst = true) (hreports : L .reports = true) (hseqs : L .seqs = true) (hqps : L .qps = true) (hcrds : L .crds = true) (hply : L .ply = true) (hout : L .out = true) :
    (qpError n cause s).mask L = s.mask L := by
  unfold qpError; simp [*]

@[simp] theorem qpToError_mask {L : Piece → Bool} (n : Nat) (s : State) (hreg : L .reg = true) (hmem : L .mem = true) (herrs : L .errs = true) (hskn : L .skn = true) (hdst : L .dst = true) (hreports : L .reports = true) (hseqs : L .seqs = true) (hqps : L .qps = true) (hqpResult : L .qpResult = true) (hcrds : L .crds = true) (hply : L .ply = true) (hout : L .out = true) :
    (qpToError n s).mask L = s.mask L := by
  unfold qpToError; simp [*]

@[simp] theorem qpToReset_mask {L : Piece → Bool} (n : Nat) (s : State) (hreg : L .reg = true) (hmem : L .mem = true) (herrs : L .errs = true) (hskn : L .skn = true) (hdst : L .dst = true) (hreports : L .reports = true) (hseqs : L .seqs = true) (hqps : L .qps = true) (hqpResult : L .qpResult = true) (hcrds : L .crds = true) (hply : L .ply = true) (hout : L .out = true) :
    (qpToReset n s).mask L = s.mask L := by
  unfold qpToReset; simp [*]

@[simp] theorem popOp_mask {L : Piece → Bool} (n : Nat) (s : State) (hreg : L .reg = true) (hmem : L .mem = true) (herrs : L .errs = true) (hskn : L .skn = true) (hdst : L .dst = true) (hseqs : L .seqs = true) (hqps : L .qps = true) :
    (popOp n s).mask L = s.mask L := by
  unfold popOp; simp [*]

@[simp] theorem plyResume_mask {L : Piece → Bool} (s : State) (hreg : L .reg = true) (hmem : L .mem = true) (herrs : L .errs = true) (hskn : L .skn = true) (hdst : L .dst = true) (hreports : L .reports = true) (hseqs : L .seqs = true) (htrns : L .trns = true) (hqps : L .qps = true) (hply : L .ply = true) (hout : L .out = true) :
    (plyResume s).mask L = s.mask L := by
  unfold plyResume; simp [*]

@[simp] theorem answered_mask {L : Piece → Bool} (n : Nat) (ing : Ingress) (f : State → State) (s : State) (hreg : L .reg = true) (hmem : L .mem = true) (herrs : L .errs = true) (hskn : L .skn = true) (hdst : L .dst = true) (hseqs : L .seqs = true) (hqps : L .qps = true) (hprts : L .prts = true) (hout : L .out = true) (hf : ∀ s, (f s).mask L = s.mask L) :
    (answered n ing f s).mask L = s.mask L := by
  unfold answered
  have h := ingress_mask (L := L) n 1 ing s (by assumption) (by assumption) (by assumption) (by assumption) (by assumption) (by assumption) (by assumption) (by assumption) (by assumption)
  generalize ingress n 1 ing s = x at h ⊢
  obtain ⟨t, b⟩ := x
  cases b
  · exact h
  · dsimp only at h ⊢
    rw [hf]
    simp [*]

@[simp] theorem setPause_mask {L : Piece → Bool} (p : Nat) (ctrl : Bool) (since : Option Nat) (storm : Bool) (s : State) (hprts : L .prts = true) :
    (setPause p ctrl since storm s).mask L = s.mask L := by
  unfold setPause; simp [*]

@[simp] theorem pfcFrame_mask {L : Piece → Bool} (p : Nat) (s : State) (hreg : L .reg = true) :
    (pfcFrame p s).mask L = s.mask L := by
  unfold pfcFrame; simp [*]

@[simp] theorem retransmitPort_mask {L : Piece → Bool} (p : Nat) (s : State) (hreg : L .reg = true) (hmem : L .mem = true) (herrs : L .errs = true) (hskn : L .skn = true) (hdst : L .dst = true) (hseqs : L .seqs = true) (hqps : L .qps = true) (hprts : L .prts = true) (hout : L .out = true) :
    (retransmitPort p s).mask L = s.mask L := by
  unfold retransmitPort; simp [*]

@[simp] theorem migrate_mask {L : Piece → Bool} (n : Nat) (s : State) (hreg : L .reg = true) (hmem : L .mem = true) (herrs : L .errs = true) (hskn : L .skn = true) (hdst : L .dst = true) (hseqs : L .seqs = true) (hqps : L .qps = true) (hout : L .out = true) :
    (migrate n s).mask L = s.mask L := by
  unfold migrate; simp [*]

@[simp] theorem loseHostPath_mask {L : Piece → Bool} (n : Nat) (s : State) (hreg : L .reg = true) (hmem : L .mem = true) (herrs : L .errs = true) (hskn : L .skn = true) (hdst : L .dst = true) (hreports : L .reports = true) (hseqs : L .seqs = true) (hqps : L .qps = true) (hcrds : L .crds = true) (hply : L .ply = true) (hout : L .out = true) :
    (loseHostPath n s).mask L = s.mask L := by
  unfold loseHostPath; simp [*]

@[simp] theorem linkLost_mask {L : Piece → Bool} (p : Nat) (s : State) (hreg : L .reg = true) (hmem : L .mem = true) (herrs : L .errs = true) (hskn : L .skn = true) (hdst : L .dst = true) (hreports : L .reports = true) (hseqs : L .seqs = true) (htrns : L .trns = true) (hqps : L .qps = true) (hprts : L .prts = true) (hcrds : L .crds = true) (hply : L .ply = true) (hout : L .out = true) :
    (linkLost p s).mask L = s.mask L := by
  unfold linkLost; simp [*]

end Sys2Proof.Machine
end

