-- ==== Sys2Proof/Laws/FrameRegisters.lean ====
section
/-! SUPPORT. What each operation leaves unchanged: register writes, boot, management, attestation and arriving messages. -/

namespace Sys2Proof.Machine

@[simp] theorem wrDone_mask {L : Piece → Bool} (s : State)  :
    (wrDone s).2.mask L = s.mask L := by
  unfold wrDone; simp [*]

@[simp] theorem wrRefuse_mask {L : Piece → Bool} (k : Byte) (s : State)  :
    (wrRefuse k s).2.mask L = s.mask L := by
  unfold wrRefuse; simp [*]

theorem ofWr_mask {L : Piece → Bool} (r : WrRes) (s : State) : (ofWr r s).2.mask L = (r.over s).mask L := by
  simp

@[simp] theorem storeRw_mask {L : Piece → Bool} (a : Nat) (r : RegRow) (v : Word) (s : State) (hreg : L .reg = true) :
    (storeRw a r v s).2.mask L = s.mask L := by
  unfold storeRw; simp [*]

@[simp] theorem storeIf_mask {L : Piece → Bool} (c : Bool) (a : Nat) (r : RegRow) (v : Word) (s : State) (hreg : L .reg = true) :
    (storeIf c a r v s).2.mask L = s.mask L := by
  simp only [storeIf]; (repeat' split) <;> simp [*]

@[simp] theorem storePers_mask {L : Piece → Bool} (a : Nat) (r : RegRow) (v : Word) (nvmErr : Bool) (s : State) (hdst : L .dst = true) (hseqs : L .seqs = true) (hrwp : L .rwp = true) (hwear : L .wear = true) (hnvm : L .nvm = true) (hndy : L .ndy = true) :
    (storePers a r v nvmErr s).2.mask L = s.mask L := by
  have h := persist_mask (L := L) a (v &&& r.mask (fun t => t = .rwp)) nvmErr s hdst hseqs hrwp hwear hnvm hndy
  unfold storePers
  generalize persist _ _ _ _ = x at h ⊢
  obtain ⟨t, b⟩ := x
  cases b <;> exact h

@[simp] theorem writeCrd_mask {L : Piece → Bool} (a : Nat) (r : RegRow) (v : Word) (s : State) (hreg : L .reg = true) :
    (writeCrd a r v s).2.mask L = s.mask L := by
  simp only [writeCrd]; (repeat' split) <;> simp [*]

@[simp] theorem writeFly_mask {L : Piece → Bool} (f a : Nat) (r : RegRow) (v : Word) (s : State) (hreg : L .reg = true) :
    (writeFly f a r v s).2.mask L = s.mask L := by
  simp only [writeFly]; (repeat' split) <;> simp [*]

@[simp] theorem writePly_mask {L : Piece → Bool} (a : Nat) (r : RegRow) (v : Word) (s : State) (hreg : L .reg = true) :
    (writePly a r v s).2.mask L = s.mask L := by
  simp only [writePly]; (repeat' split) <;> simp [*]

@[simp] theorem writeBob_mask {L : Piece → Bool} (a : Nat) (r : RegRow) (v : Word) (s : State) (hreg : L .reg = true) (hmem : L .mem = true) (herrs : L .errs = true) (hskn : L .skn = true) (hdst : L .dst = true) (hbobs : L .bobs = true) (hbarriers : L .barriers = true) (hbarrierAt : L .barrierAt = true) (hholds : L .holds = true) (hseqs : L .seqs = true) (hfly : L .fly = true) (hctxs : L .ctxs = true) (htrns : L .trns = true) (hqps : L .qps = true) (hout : L .out = true) :
    (writeBob a r v s).2.mask L = s.mask L := by
  simp only [writeBob]; (repeat' split) <;> simp [*]

@[simp] theorem keepBucketCfg_mask {L : Piece → Bool} (k : Nat) (s : State) (hskn : L .skn = true) :
    (keepBucketCfg k s).mask L = s.mask L := by
  unfold keepBucketCfg; simp [*]

@[simp] theorem writeSkn_mask {L : Piece → Bool} (k a : Nat) (r : RegRow) (v : Word) (nvmErr : Bool) (s : State) (hreg : L .reg = true) (hskn : L .skn = true) (hdst : L .dst = true) (hseqs : L .seqs = true) (hrwp : L .rwp = true) (hwear : L .wear = true) (hnvm : L .nvm = true) (hndy : L .ndy = true) :
    (writeSkn k a r v nvmErr s).2.mask L = s.mask L := by
  simp only [writeSkn]; (repeat' split) <;> simp [*]

@[simp] theorem writeDst_mask {L : Piece → Bool} (a : Nat) (r : RegRow) (v : Word) (nvmErr : Bool) (s : State) (hfree : L .free = true) (hreg : L .reg = true) (hmem : L .mem = true) (herrs : L .errs = true) (hskn : L .skn = true) (hdst : L .dst = true) (hgate : L .gate = true) (hpend : L .pend = true) (hrstBusy : L .rstBusy = true) (hsleepReq : L .sleepReq = true) (hwakeAt : L .wakeAt = true) (hspareReq : L .spareReq = true) (hepochs : L .epochs = true) (hreports : L .reports = true) (hseqs : L .seqs = true) (hrwp : L .rwp = true) (hwear : L .wear = true) (hretireWait : L .retireWait = true) (hspn : L .spn = true) (hfly : L .fly = true) (hqps : L .qps = true) (hprts : L .prts = true) (hcrds : L .crds = true) (hply : L .ply = true) (hnvm : L .nvm = true) (hndy : L .ndy = true) (hwhl : L .whl = true) :
    (writeDst a r v nvmErr s).2.mask L = s.mask L := by
  simp only [writeDst]; (repeat' split) <;> simp [*]

@[simp] theorem passPorts_mask {L : Piece → Bool} (s0 : State) (r : WrRes) (hreg : L .reg = true) (hmem : L .mem = true) (herrs : L .errs = true) (hskn : L .skn = true) (hdst : L .dst = true) (hreports : L .reports = true) (hseqs : L .seqs = true) (htrns : L .trns = true) (hqps : L .qps = true) (hprts : L .prts = true) (hply : L .ply = true) (hout : L .out = true) (hr : (r.over s0).mask L = s0.mask L) :
    ((passPorts s0 r).over s0).mask L = s0.mask L := by
  unfold passPorts
  split
  · rfl
  · rw [over_done] at hr ⊢
    split
    · exact hr
    · simp only [plyResume_mask, *]
      refine (mask_foldl (fun t n => ?_) _ _).trans hr
      split <;> simp [*]

@[simp] theorem writeClk_mask {L : Piece → Bool} (a : Nat) (r : RegRow) (v : Word) (s : State) (hL : Covers [.pending, .wall, .ids, .rwp, .wear, .nvm, .fuses] L) :
    (writeClk a r v s).2.mask L = s.mask L := by
  have htick := hL.at (p := .tick) (by decide)
  have hcyc := hL.at (p := .cyc) (by decide)
  have hfree := hL.at (p := .free) (by decide)
  have hreg := hL.at (p := .reg) (by decide)
  have hmem := hL.at (p := .mem) (by decide)
  have herrs := hL.at (p := .errs) (by decide)
  have hskn := hL.at (p := .skn) (by decide)
  have hdst := hL.at (p := .dst) (by decide)
  have hgate := hL.at (p := .gate) (by decide)
  have hpend := hL.at (p := .pend) (by decide)
  have hrstBusy := hL.at (p := .rstBusy) (by decide)
  have hsleepReq := hL.at (p := .sleepReq) (by decide)
  have hasleep := hL.at (p := .asleep) (by decide)
  have hwakeAt := hL.at (p := .wakeAt) (by decide)
  have hrun := hL.at (p := .run) (by decide)
  have hspare := hL.at (p := .spare) (by decide)
  have hspareReq := hL.at (p := .spareReq) (by decide)
  have hready := hL.at (p := .ready) (by decide)
  have hbobs := hL.at (p := .bobs) (by decide)
  have hturns := hL.at (p := .turns) (by decide)
  have hfetchTurns := hL.at (p := .fetchTurns) (by decide)
  have hbarriers := hL.at (p := .barriers) (by decide)
  have hbarrierAt := hL.at (p := .barrierAt) (by decide)
  have hholds := hL.at (p := .holds) (by decide)
  have hepochs := hL.at (p := .epochs) (by decide)
  have hports := hL.at (p := .ports) (by decide)
  have hsched := hL.at (p := .sched) (by decide)
  have hreports := hL.at (p := .reports) (by decide)
  have hseqs := hL.at (p := .seqs) (by decide)
  have hretireWait := hL.at (p := .retireWait) (by decide)
  have hcause := hL.at (p := .cause) (by decide)
  have hpllLock := hL.at (p := .pllLock) (by decide)
  have hspread := hL.at (p := .spread) (by decide)
  have honRoot := hL.at (p := .onRoot) (by decide)
  have hclocksOn := hL.at (p := .clocksOn) (by decide)
  have hfmRun := hL.at (p := .fmRun) (by decide)
  have hfmDone := hL.at (p := .fmDone) (by decide)
  have hfmResult := hL.at (p := .fmResult) (by decide)
  have hdriftOdd := hL.at (p := .driftOdd) (by decide)
  have hmonLast := hL.at (p := .monLast) (by decide)
  have hfmt := hL.at (p := .fmt) (by decide)
  have hspn := hL.at (p := .spn) (by decide)
  have hfly := hL.at (p := .fly) (by decide)
  have hcurves := hL.at (p := .curves) (by decide)
  have hstruck := hL.at (p := .struck) (by decide)
  have himages := hL.at (p := .images) (by decide)
  have himgState := hL.at (p := .imgState) (by decide)
  have hloading := hL.at (p := .loading) (by decide)
  have hloadCtx := hL.at (p := .loadCtx) (by decide)
  have hloadResult := hL.at (p := .loadResult) (by decide)
  have hloadAddr := hL.at (p := .loadAddr) (by decide)
  have hplanCache := hL.at (p := .planCache) (by decide)
  have hlastRun := hL.at (p := .lastRun) (by decide)
  have hlastBucket := hL.at (p := .lastBucket) (by decide)
  have hctxs := hL.at (p := .ctxs) (by decide)
  have htrns := hL.at (p := .trns) (by decide)
  have hlsInit := hL.at (p := .lsInit) (by decide)
  have hqps := hL.at (p := .qps) (by decide)
  have hprts := hL.at (p := .prts) (by decide)
  have hqpResult := hL.at (p := .qpResult) (by decide)
  have hcrds := hL.at (p := .crds) (by decide)
  have hply := hL.at (p := .ply) (by decide)
  have hndy := hL.at (p := .ndy) (by decide)
  have hwhl := hL.at (p := .whl) (by decide)
  have hpkg := hL.at (p := .pkg) (by decide)
  have hout := hL.at (p := .out) (by decide)
  have hK0 := hL.mono (K' := [.pending, .wall, .free, .ids, .rwp, .wear, .nvm, .fuses, .out]) (by decide)
  have key : ∀ (c : Prop) [Decidable c] (a b : WrOut), a.2.mask L = s.mask L → b.2.mask L = s.mask L →
      (if c then a else b).2.mask L = s.mask L := fun c _ a b ha hb => by split <;> assumption
  unfold writeClk
  refine key _ _ _ (by rw [ofWr_state]; apply writeDevReset_mask <;> first | exact hL.mono (by decide) | exact hL.at (by decide)) ?_
  refine key _ _ _ (by
    rw [ofWr_state]
    refine passPorts_mask (L := L) s _ (hL.at (by decide)) (hL.at (by decide)) (hL.at (by decide)) (hL.at (by decide)) (hL.at (by decide)) (hL.at (by decide)) (hL.at (by decide)) (hL.at (by decide)) (hL.at (by decide)) (hL.at (by decide)) (hL.at (by decide)) (hL.at (by decide)) ?_
    apply writeGate_mask <;> first | exact hL.mono (by decide) | exact hL.at (by decide)) ?_
  refine key _ _ _ (by rw [ofWr_state]; apply writeRst_mask <;> first | exact hL.mono (by decide) | exact hL.at (by decide)) ?_
  refine key _ _ _ (by rw [ofWr_state]; apply writeSleep_mask <;> first | exact hL.mono (by decide) | exact hL.at (by decide)) ?_
  refine key _ _ _ (by rw [ofWr_state]; apply writeIssue_mask <;> first | exact hL.mono (by decide) | exact hL.at (by decide)) ?_
  refine key _ _ _ (by rw [ofWr_state]; apply writeSpare_mask <;> first | exact hL.mono (by decide) | exact hL.at (by decide)) ?_
  refine key _ _ _ (by rw [ofWr_state]; apply writeRunSet_mask <;> first | exact hL.mono (by decide) | exact hL.at (by decide)) ?_
  refine key _ _ _ (by rw [ofWr_state]; apply writeRunClr_mask <;> first | exact hL.mono (by decide) | exact hL.at (by decide)) ?_
  refine key _ _ _ (by rw [ofWr_state]; apply writeFmCtl_mask <;> first | exact hL.mono (by decide) | exact hL.at (by decide)) ?_
  refine key _ _ _ (by rw [ofWr_state]; apply writeDriftPpm_mask <;> first | exact hL.mono (by decide) | exact hL.at (by decide)) ?_
  exact storeRw_mask a r v s (hL.at (by decide))

@[simp] theorem endFuse_mask {L : Piece → Bool} (s : State) (hndy : L .ndy = true) (hfuses : L .fuses = true) :
    (endFuse s).mask L = s.mask L := by
  unfold endFuse; (repeat' split) <;> simp only [State.mask, *, if_true]

@[simp] theorem startFuse_mask {L : Piece → Bool} (op : FuseOp) (s : State) (hndy : L .ndy = true) :
    (startFuse op s).mask L = s.mask L := by
  unfold startFuse; simp [*]

@[simp] theorem writeFuseCmd_mask {L : Piece → Bool} (o : Origin) (v : Word) (s : State) (hndy : L .ndy = true) (hfuses : L .fuses = true) :
    (writeFuseCmd o v s).2.mask L = s.mask L := by
  simp only [writeFuseCmd]; (repeat' split) <;> simp [*]

@[simp] theorem writeNdy_mask {L : Piece → Bool} (org : Origin) (a : Nat) (r : RegRow) (v : Word) (nvmErr : Bool) (s : State) (hreg : L .reg = true) (hdst : L .dst = true) (hseqs : L .seqs = true) (hrwp : L .rwp = true) (hwear : L .wear = true) (hnvm : L .nvm = true) (hndy : L .ndy = true) (hfuses : L .fuses = true) :
    (writeNdy org a r v nvmErr s).2.mask L = s.mask L := by
  simp only [writeNdy]; (repeat' split) <;> simp [*]

@[simp] theorem writeTab_mask {L : Piece → Bool} (v : Word) (s : State) (hwhl : L .whl = true) :
    (writeTab v s).2.mask L = s.mask L := by
  have h : ∀ x : Whl, ({ s with whl := x } : State).mask L = s.mask L := fun x => mask_set_whl hwhl
  have key : ∀ (c : Prop) [Decidable c] (a b : WrOut), a.2.mask L = s.mask L → b.2.mask L = s.mask L →
      (if c then a else b).2.mask L = s.mask L := fun c _ a b ha hb => by split <;> assumption
  unfold writeTab
  exact key _ _ _ (h _) rfl

@[simp] theorem writeWhl_mask {L : Piece → Bool} (a : Nat) (r : RegRow) (v : Word) (s : State) (hreg : L .reg = true) (hwhl : L .whl = true) :
    (writeWhl a r v s).2.mask L = s.mask L := by
  simp only [writeWhl]; (repeat' split) <;> simp [*]

@[simp] theorem qpCommand_mask {L : Piece → Bool} (v : Word) (s : State) (hreg : L .reg = true) (hmem : L .mem = true) (herrs : L .errs = true) (hskn : L .skn = true) (hdst : L .dst = true) (hreports : L .reports = true) (hseqs : L .seqs = true) (hqps : L .qps = true) (hqpResult : L .qpResult = true) (hcrds : L .crds = true) (hply : L .ply = true) (hout : L .out = true) :
    (qpCommand v s).mask L = s.mask L := by
  simp only [qpCommand]; (repeat' split) <;> simp [*]

@[simp] theorem writePrt_mask {L : Piece → Bool} (a : Nat) (r : RegRow) (v : Word) (nvmErr : Bool) (s : State) (hreg : L .reg = true) (hmem : L .mem = true) (herrs : L .errs = true) (hskn : L .skn = true) (hdst : L .dst = true) (hreports : L .reports = true) (hseqs : L .seqs = true) (hrwp : L .rwp = true) (hwear : L .wear = true) (hqps : L .qps = true) (hqpResult : L .qpResult = true) (hcrds : L .crds = true) (hply : L .ply = true) (hnvm : L .nvm = true) (hndy : L .ndy = true) (hout : L .out = true) :
    (writePrt a r v nvmErr s).2.mask L = s.mask L := by
  simp only [writePrt]; (repeat' split) <;> simp [*]

@[simp] theorem writeReg_mask {L : Piece → Bool} (org : Origin) (a : Nat) (v : Word) (nvmErr : Bool) (s : State) (hL : Covers [.pending, .wall, .ids] L) :
    (writeReg org a v nvmErr s).2.mask L = s.mask L := by
  have htick := hL.at (p := .tick) (by decide)
  have hcyc := hL.at (p := .cyc) (by decide)
  have hfree := hL.at (p := .free) (by decide)
  have hreg := hL.at (p := .reg) (by decide)
  have hmem := hL.at (p := .mem) (by decide)
  have herrs := hL.at (p := .errs) (by decide)
  have hskn := hL.at (p := .skn) (by decide)
  have hdst := hL.at (p := .dst) (by decide)
  have hgate := hL.at (p := .gate) (by decide)
  have hpend := hL.at (p := .pend) (by decide)
  have hrstBusy := hL.at (p := .rstBusy) (by decide)
  have hsleepReq := hL.at (p := .sleepReq) (by decide)
  have hasleep := hL.at (p := .asleep) (by decide)
  have hwakeAt := hL.at (p := .wakeAt) (by decide)
  have hrun := hL.at (p := .run) (by decide)
  have hspare := hL.at (p := .spare) (by decide)
  have hspareReq := hL.at (p := .spareReq) (by decide)
  have hready := hL.at (p := .ready) (by decide)
  have hbobs := hL.at (p := .bobs) (by decide)
  have hturns := hL.at (p := .turns) (by decide)
  have hfetchTurns := hL.at (p := .fetchTurns) (by decide)
  have hbarriers := hL.at (p := .barriers) (by decide)
  have hbarrierAt := hL.at (p := .barrierAt) (by decide)
  have hholds := hL.at (p := .holds) (by decide)
  have hepochs := hL.at (p := .epochs) (by decide)
  have hports := hL.at (p := .ports) (by decide)
  have hsched := hL.at (p := .sched) (by decide)
  have hreports := hL.at (p := .reports) (by decide)
  have hseqs := hL.at (p := .seqs) (by decide)
  have hrwp := hL.at (p := .rwp) (by decide)
  have hwear := hL.at (p := .wear) (by decide)
  have hretireWait := hL.at (p := .retireWait) (by decide)
  have hcause := hL.at (p := .cause) (by decide)
  have hpllLock := hL.at (p := .pllLock) (by decide)
  have hspread := hL.at (p := .spread) (by decide)
  have honRoot := hL.at (p := .onRoot) (by decide)
  have hclocksOn := hL.at (p := .clocksOn) (by decide)
  have hfmRun := hL.at (p := .fmRun) (by decide)
  have hfmDone := hL.at (p := .fmDone) (by decide)
  have hfmResult := hL.at (p := .fmResult) (by decide)
  have hdriftOdd := hL.at (p := .driftOdd) (by decide)
  have hmonLast := hL.at (p := .monLast) (by decide)
  have hfmt := hL.at (p := .fmt) (by decide)
  have hspn := hL.at (p := .spn) (by decide)
  have hfly := hL.at (p := .fly) (by decide)
  have hcurves := hL.at (p := .curves) (by decide)
  have hstruck := hL.at (p := .struck) (by decide)
  have himages := hL.at (p := .images) (by decide)
  have himgState := hL.at (p := .imgState) (by decide)
  have hloading := hL.at (p := .loading) (by decide)
  have hloadCtx := hL.at (p := .loadCtx) (by decide)
  have hloadResult := hL.at (p := .loadResult) (by decide)
  have hloadAddr := hL.at (p := .loadAddr) (by decide)
  have hplanCache := hL.at (p := .planCache) (by decide)
  have hlastRun := hL.at (p := .lastRun) (by decide)
  have hlastBucket := hL.at (p := .lastBucket) (by decide)
  have hctxs := hL.at (p := .ctxs) (by decide)
  have htrns := hL.at (p := .trns) (by decide)
  have hlsInit := hL.at (p := .lsInit) (by decide)
  have hqps := hL.at (p := .qps) (by decide)
  have hprts := hL.at (p := .prts) (by decide)
  have hqpResult := hL.at (p := .qpResult) (by decide)
  have hcrds := hL.at (p := .crds) (by decide)
  have hply := hL.at (p := .ply) (by decide)
  have hnvm := hL.at (p := .nvm) (by decide)
  have hndy := hL.at (p := .ndy) (by decide)
  have hfuses := hL.at (p := .fuses) (by decide)
  have hwhl := hL.at (p := .whl) (by decide)
  have hpkg := hL.at (p := .pkg) (by decide)
  have hout := hL.at (p := .out) (by decide)
  have hK0 := hL.mono (K' := [.pending, .wall, .free, .ids, .rwp, .wear, .nvm, .fuses, .out]) (by decide)
  have hK1 := hL.mono (K' := [.pending, .wall, .ids, .rwp, .wear, .nvm, .fuses]) (by decide)
  unfold writeReg; (repeat' split) <;> first | (simp [*]; done) | (rename_i heq; have hk := congrArg (fun p => p.2.mask L) heq; simp [*, -heq] at hk; simp [*]; done) | (rename_i heq; have hk := congrArg (fun p => p.2.mask L) heq; simp [*, -heq] at hk; exact hk.symm)

@[simp] theorem raiseAccess_mask {L : Piece → Bool} (o : Origin) (source : BitVec 16) (kind : Byte) (addr : Nat) (s : State) (hdst : L .dst = true) (hseqs : L .seqs = true) :
    (raiseAccess o source kind addr s).mask L = s.mask L := by
  unfold raiseAccess; simp [*]

@[simp] theorem accessWrite_mask {L : Piece → Bool} (o : Origin) (a : Nat) (v : Word) (nvmErr : Bool) (s : State) (hL : Covers [.pending, .wall, .ids] L) :
    (accessWrite o a v nvmErr s).2.mask L = s.mask L := by
  have htick := hL.at (p := .tick) (by decide)
  have hcyc := hL.at (p := .cyc) (by decide)
  have hfree := hL.at (p := .free) (by decide)
  have hreg := hL.at (p := .reg) (by decide)
  have hmem := hL.at (p := .mem) (by decide)
  have herrs := hL.at (p := .errs) (by decide)
  have hskn := hL.at (p := .skn) (by decide)
  have hdst := hL.at (p := .dst) (by decide)
  have hgate := hL.at (p := .gate) (by decide)
  have hpend := hL.at (p := .pend) (by decide)
  have hrstBusy := hL.at (p := .rstBusy) (by decide)
  have hsleepReq := hL.at (p := .sleepReq) (by decide)
  have hasleep := hL.at (p := .asleep) (by decide)
  have hwakeAt := hL.at (p := .wakeAt) (by decide)
  have hrun := hL.at (p := .run) (by decide)
  have hspare := hL.at (p := .spare) (by decide)
  have hspareReq := hL.at (p := .spareReq) (by decide)
  have hready := hL.at (p := .ready) (by decide)
  have hbobs := hL.at (p := .bobs) (by decide)
  have hturns := hL.at (p := .turns) (by decide)
  have hfetchTurns := hL.at (p := .fetchTurns) (by decide)
  have hbarriers := hL.at (p := .barriers) (by decide)
  have hbarrierAt := hL.at (p := .barrierAt) (by decide)
  have hholds := hL.at (p := .holds) (by decide)
  have hepochs := hL.at (p := .epochs) (by decide)
  have hports := hL.at (p := .ports) (by decide)
  have hsched := hL.at (p := .sched) (by decide)
  have hreports := hL.at (p := .reports) (by decide)
  have hseqs := hL.at (p := .seqs) (by decide)
  have hrwp := hL.at (p := .rwp) (by decide)
  have hwear := hL.at (p := .wear) (by decide)
  have hretireWait := hL.at (p := .retireWait) (by decide)
  have hcause := hL.at (p := .cause) (by decide)
  have hpllLock := hL.at (p := .pllLock) (by decide)
  have hspread := hL.at (p := .spread) (by decide)
  have honRoot := hL.at (p := .onRoot) (by decide)
  have hclocksOn := hL.at (p := .clocksOn) (by decide)
  have hfmRun := hL.at (p := .fmRun) (by decide)
  have hfmDone := hL.at (p := .fmDone) (by decide)
  have hfmResult := hL.at (p := .fmResult) (by decide)
  have hdriftOdd := hL.at (p := .driftOdd) (by decide)
  have hmonLast := hL.at (p := .monLast) (by decide)
  have hfmt := hL.at (p := .fmt) (by decide)
  have hspn := hL.at (p := .spn) (by decide)
  have hfly := hL.at (p := .fly) (by decide)
  have hcurves := hL.at (p := .curves) (by decide)
  have hstruck := hL.at (p := .struck) (by decide)
  have himages := hL.at (p := .images) (by decide)
  have himgState := hL.at (p := .imgState) (by decide)
  have hloading := hL.at (p := .loading) (by decide)
  have hloadCtx := hL.at (p := .loadCtx) (by decide)
  have hloadResult := hL.at (p := .loadResult) (by decide)
  have hloadAddr := hL.at (p := .loadAddr) (by decide)
  have hplanCache := hL.at (p := .planCache) (by decide)
  have hlastRun := hL.at (p := .lastRun) (by decide)
  have hlastBucket := hL.at (p := .lastBucket) (by decide)
  have hctxs := hL.at (p := .ctxs) (by decide)
  have htrns := hL.at (p := .trns) (by decide)
  have hlsInit := hL.at (p := .lsInit) (by decide)
  have hqps := hL.at (p := .qps) (by decide)
  have hprts := hL.at (p := .prts) (by decide)
  have hqpResult := hL.at (p := .qpResult) (by decide)
  have hcrds := hL.at (p := .crds) (by decide)
  have hply := hL.at (p := .ply) (by decide)
  have hnvm := hL.at (p := .nvm) (by decide)
  have hndy := hL.at (p := .ndy) (by decide)
  have hfuses := hL.at (p := .fuses) (by decide)
  have hwhl := hL.at (p := .whl) (by decide)
  have hpkg := hL.at (p := .pkg) (by decide)
  have hout := hL.at (p := .out) (by decide)
  have hK0 := hL.mono (K' := [.pending, .wall, .free, .ids, .rwp, .wear, .nvm, .fuses, .out]) (by decide)
  have hK1 := hL.mono (K' := [.pending, .wall, .ids, .rwp, .wear, .nvm, .fuses]) (by decide)
  have h := writeReg_mask (L := L) o a v nvmErr s (by first | exact hL | assumption | exact hL.mono (by decide))
  unfold accessWrite
  split
  · simp [*]
  · generalize writeReg _ _ _ _ _ = x at h ⊢
    obtain ⟨k, t⟩ := x
    cases k <;> simp_all

@[simp] theorem clearRc_mask {L : Piece → Bool} (a : Nat) (s : State) (hreg : L .reg = true) :
    (clearRc a s).mask L = s.mask L := by
  simp only [clearRc]; (repeat' split) <;> simp [*]

@[simp] theorem accessRead_mask {L : Piece → Bool} (o : Origin) (snap : Bool) (a : Nat) (s : State) (hreg : L .reg = true) (hdst : L .dst = true) (hseqs : L .seqs = true) :
    (accessRead o snap a s).2.mask L = s.mask L := by
  simp only [accessRead]; (repeat' split) <;> simp [*]

@[simp] theorem nvmOutcome_mask {L : Piece → Bool} (a : Nat) (s : State) (hfree : L .free = true) :
    (nvmOutcome a s).2.mask L = s.mask L := by
  simp only [nvmOutcome]; (repeat' split) <;> simp [*]

@[simp] theorem accessWrites_mask {L : Piece → Bool} (o : Origin) (a : Nat) (x0 : List Word) (s : State) (hL : Covers [.pending, .wall, .ids] L) :
    (accessWrites o a x0 s).2.mask L = s.mask L := by
  have htick := hL.at (p := .tick) (by decide)
  have hcyc := hL.at (p := .cyc) (by decide)
  have hfree := hL.at (p := .free) (by decide)
  have hreg := hL.at (p := .reg) (by decide)
  have hmem := hL.at (p := .mem) (by decide)
  have herrs := hL.at (p := .errs) (by decide)
  have hskn := hL.at (p := .skn) (by decide)
  have hdst := hL.at (p := .dst) (by decide)
  have hgate := hL.at (p := .gate) (by decide)
  have hpend := hL.at (p := .pend) (by decide)
  have hrstBusy := hL.at (p := .rstBusy) (by decide)
  have hsleepReq := hL.at (p := .sleepReq) (by decide)
  have hasleep := hL.at (p := .asleep) (by decide)
  have hwakeAt := hL.at (p := .wakeAt) (by decide)
  have hrun := hL.at (p := .run) (by decide)
  have hspare := hL.at (p := .spare) (by decide)
  have hspareReq := hL.at (p := .spareReq) (by decide)
  have hready := hL.at (p := .ready) (by decide)
  have hbobs := hL.at (p := .bobs) (by decide)
  have hturns := hL.at (p := .turns) (by decide)
  have hfetchTurns := hL.at (p := .fetchTurns) (by decide)
  have hbarriers := hL.at (p := .barriers) (by decide)
  have hbarrierAt := hL.at (p := .barrierAt) (by decide)
  have hholds := hL.at (p := .holds) (by decide)
  have hepochs := hL.at (p := .epochs) (by decide)
  have hports := hL.at (p := .ports) (by decide)
  have hsched := hL.at (p := .sched) (by decide)
  have hreports := hL.at (p := .reports) (by decide)
  have hseqs := hL.at (p := .seqs) (by decide)
  have hrwp := hL.at (p := .rwp) (by decide)
  have hwear := hL.at (p := .wear) (by decide)
  have hretireWait := hL.at (p := .retireWait) (by decide)
  have hcause := hL.at (p := .cause) (by decide)
  have hpllLock := hL.at (p := .pllLock) (by decide)
  have hspread := hL.at (p := .spread) (by decide)
  have honRoot := hL.at (p := .onRoot) (by decide)
  have hclocksOn := hL.at (p := .clocksOn) (by decide)
  have hfmRun := hL.at (p := .fmRun) (by decide)
  have hfmDone := hL.at (p := .fmDone) (by decide)
  have hfmResult := hL.at (p := .fmResult) (by decide)
  have hdriftOdd := hL.at (p := .driftOdd) (by decide)
  have hmonLast := hL.at (p := .monLast) (by decide)
  have hfmt := hL.at (p := .fmt) (by decide)
  have hspn := hL.at (p := .spn) (by decide)
  have hfly := hL.at (p := .fly) (by decide)
  have hcurves := hL.at (p := .curves) (by decide)
  have hstruck := hL.at (p := .struck) (by decide)
  have himages := hL.at (p := .images) (by decide)
  have himgState := hL.at (p := .imgState) (by decide)
  have hloading := hL.at (p := .loading) (by decide)
  have hloadCtx := hL.at (p := .loadCtx) (by decide)
  have hloadResult := hL.at (p := .loadResult) (by decide)
  have hloadAddr := hL.at (p := .loadAddr) (by decide)
  have hplanCache := hL.at (p := .planCache) (by decide)
  have hlastRun := hL.at (p := .lastRun) (by decide)
  have hlastBucket := hL.at (p := .lastBucket) (by decide)
  have hctxs := hL.at (p := .ctxs) (by decide)
  have htrns := hL.at (p := .trns) (by decide)
  have hlsInit := hL.at (p := .lsInit) (by decide)
  have hqps := hL.at (p := .qps) (by decide)
  have hprts := hL.at (p := .prts) (by decide)
  have hqpResult := hL.at (p := .qpResult) (by decide)
  have hcrds := hL.at (p := .crds) (by decide)
  have hply := hL.at (p := .ply) (by decide)
  have hnvm := hL.at (p := .nvm) (by decide)
  have hndy := hL.at (p := .ndy) (by decide)
  have hfuses := hL.at (p := .fuses) (by decide)
  have hwhl := hL.at (p := .whl) (by decide)
  have hpkg := hL.at (p := .pkg) (by decide)
  have hout := hL.at (p := .out) (by decide)
  have hK0 := hL.mono (K' := [.pending, .wall, .free, .ids, .rwp, .wear, .nvm, .fuses, .out]) (by decide)
  have hK1 := hL.mono (K' := [.pending, .wall, .ids, .rwp, .wear, .nvm, .fuses]) (by decide)
  induction x0 generalizing s a with
  | nil => rfl
  | cons w r ih =>
    unfold accessWrites
    have h1 := nvmOutcome_mask (L := L) a s hfree
    generalize nvmOutcome a s = x at h1 ⊢
    obtain ⟨e, s1⟩ := x
    have h2 := accessWrite_mask (L := L) o a w e s1 (by first | exact hL | assumption | exact hL.mono (by decide))
    dsimp only at h1 ⊢
    generalize accessWrite o a w e s1 = y at h2 ⊢
    obtain ⟨b, t⟩ := y
    cases b
    · exact h2.trans h1
    · dsimp only
      split
      · exact (ih _ t).trans (h2.trans h1)
      · exact h2.trans h1

@[simp] theorem accessReads_mask {L : Piece → Bool} (o : Origin) (snap : Bool) (x0 : Nat) (x1 : Nat) (s : State) (hreg : L .reg = true) (hdst : L .dst = true) (hseqs : L .seqs = true) :
    (accessReads o snap x0 x1 s).2.mask L = s.mask L := by
  induction x0 generalizing s x1 with
  | zero => rfl
  | succ n ih =>
    unfold accessReads
    have h1 := accessRead_mask (L := L) o snap x1 s hreg hdst hseqs
    generalize accessRead _ _ _ _ = r at h1 ⊢
    obtain ⟨v, t⟩ := r
    cases v with
    | none => exact h1
    | some w =>
      dsimp only
      have h2 := ih (x1 + 4) t
      generalize accessReads _ _ _ _ _ = r at h2 ⊢
      obtain ⟨v, u⟩ := r
      cases v <;> exact h2.trans h1

@[simp] theorem regWrite_mask {L : Piece → Bool} (o : Origin) (a : Nat) (v : Word) (nvmErr : Bool) (s : State) (hL : Covers [.pending, .wall, .ids] L) :
    (regWrite o a v nvmErr s).mask L = s.mask L := by
  have htick := hL.at (p := .tick) (by decide)
  have hcyc := hL.at (p := .cyc) (by decide)
  have hfree := hL.at (p := .free) (by decide)
  have hreg := hL.at (p := .reg) (by decide)
  have hmem := hL.at (p := .mem) (by decide)
  have herrs := hL.at (p := .errs) (by decide)
  have hskn := hL.at (p := .skn) (by decide)
  have hdst := hL.at (p := .dst) (by decide)
  have hgate := hL.at (p := .gate) (by decide)
  have hpend := hL.at (p := .pend) (by decide)
  have hrstBusy := hL.at (p := .rstBusy) (by decide)
  have hsleepReq := hL.at (p := .sleepReq) (by decide)
  have hasleep := hL.at (p := .asleep) (by decide)
  have hwakeAt := hL.at (p := .wakeAt) (by decide)
  have hrun := hL.at (p := .run) (by decide)
  have hspare := hL.at (p := .spare) (by decide)
  have hspareReq := hL.at (p := .spareReq) (by decide)
  have hready := hL.at (p := .ready) (by decide)
  have hbobs := hL.at (p := .bobs) (by decide)
  have hturns := hL.at (p := .turns) (by decide)
  have hfetchTurns := hL.at (p := .fetchTurns) (by decide)
  have hbarriers := hL.at (p := .barriers) (by decide)
  have hbarrierAt := hL.at (p := .barrierAt) (by decide)
  have hholds := hL.at (p := .holds) (by decide)
  have hepochs := hL.at (p := .epochs) (by decide)
  have hports := hL.at (p := .ports) (by decide)
  have hsched := hL.at (p := .sched) (by decide)
  have hreports := hL.at (p := .reports) (by decide)
  have hseqs := hL.at (p := .seqs) (by decide)
  have hrwp := hL.at (p := .rwp) (by decide)
  have hwear := hL.at (p := .wear) (by decide)
  have hretireWait := hL.at (p := .retireWait) (by decide)
  have hcause := hL.at (p := .cause) (by decide)
  have hpllLock := hL.at (p := .pllLock) (by decide)
  have hspread := hL.at (p := .spread) (by decide)
  have honRoot := hL.at (p := .onRoot) (by decide)
  have hclocksOn := hL.at (p := .clocksOn) (by decide)
  have hfmRun := hL.at (p := .fmRun) (by decide)
  have hfmDone := hL.at (p := .fmDone) (by decide)
  have hfmResult := hL.at (p := .fmResult) (by decide)
  have hdriftOdd := hL.at (p := .driftOdd) (by decide)
  have hmonLast := hL.at (p := .monLast) (by decide)
  have hfmt := hL.at (p := .fmt) (by decide)
  have hspn := hL.at (p := .spn) (by decide)
  have hfly := hL.at (p := .fly) (by decide)
  have hcurves := hL.at (p := .curves) (by decide)
  have hstruck := hL.at (p := .struck) (by decide)
  have himages := hL.at (p := .images) (by decide)
  have himgState := hL.at (p := .imgState) (by decide)
  have hloading := hL.at (p := .loading) (by decide)
  have hloadCtx := hL.at (p := .loadCtx) (by decide)
  have hloadResult := hL.at (p := .loadResult) (by decide)
  have hloadAddr := hL.at (p := .loadAddr) (by decide)
  have hplanCache := hL.at (p := .planCache) (by decide)
  have hlastRun := hL.at (p := .lastRun) (by decide)
  have hlastBucket := hL.at (p := .lastBucket) (by decide)
  have hctxs := hL.at (p := .ctxs) (by decide)
  have htrns := hL.at (p := .trns) (by decide)
  have hlsInit := hL.at (p := .lsInit) (by decide)
  have hqps := hL.at (p := .qps) (by decide)
  have hprts := hL.at (p := .prts) (by decide)
  have hqpResult := hL.at (p := .qpResult) (by decide)
  have hcrds := hL.at (p := .crds) (by decide)
  have hply := hL.at (p := .ply) (by decide)
  have hnvm := hL.at (p := .nvm) (by decide)
  have hndy := hL.at (p := .ndy) (by decide)
  have hfuses := hL.at (p := .fuses) (by decide)
  have hwhl := hL.at (p := .whl) (by decide)
  have hpkg := hL.at (p := .pkg) (by decide)
  have hout := hL.at (p := .out) (by decide)
  have hK0 := hL.mono (K' := [.pending, .wall, .free, .ids, .rwp, .wear, .nvm, .fuses, .out]) (by decide)
  have hK1 := hL.mono (K' := [.pending, .wall, .ids, .rwp, .wear, .nvm, .fuses]) (by decide)
  simp only [regWrite]; (repeat' split) <;> simp [*]

@[simp] theorem setNdy_mask {L : Piece → Bool} (f : Ndy → Ndy) (s : State) (hndy : L .ndy = true) :
    (setNdy f s).mask L = s.mask L := by
  unfold setNdy; simp [*]

@[simp] theorem bootFault_mask {L : Piece → Bool} (kind : Byte) (x : Nat) (s : State) (hL : Covers [.pending, .wall, .ids, .fuses, .out] L) :
    (bootFault kind x s).mask L = s.mask L := by
  have htick := hL.at (p := .tick) (by decide)
  have hcyc := hL.at (p := .cyc) (by decide)
  have hfree := hL.at (p := .free) (by decide)
  have hreg := hL.at (p := .reg) (by decide)
  have hmem := hL.at (p := .mem) (by decide)
  have herrs := hL.at (p := .errs) (by decide)
  have hskn := hL.at (p := .skn) (by decide)
  have hdst := hL.at (p := .dst) (by decide)
  have hgate := hL.at (p := .gate) (by decide)
  have hpend := hL.at (p := .pend) (by decide)
  have hrstBusy := hL.at (p := .rstBusy) (by decide)
  have hsleepReq := hL.at (p := .sleepReq) (by decide)
  have hasleep := hL.at (p := .asleep) (by decide)
  have hwakeAt := hL.at (p := .wakeAt) (by decide)
  have hrun := hL.at (p := .run) (by decide)
  have hspare := hL.at (p := .spare) (by decide)
  have hspareReq := hL.at (p := .spareReq) (by decide)
  have hready := hL.at (p := .ready) (by decide)
  have hbobs := hL.at (p := .bobs) (by decide)
  have hturns := hL.at (p := .turns) (by decide)
  have hfetchTurns := hL.at (p := .fetchTurns) (by decide)
  have hbarriers := hL.at (p := .barriers) (by decide)
  have hbarrierAt := hL.at (p := .barrierAt) (by decide)
  have hholds := hL.at (p := .holds) (by decide)
  have hepochs := hL.at (p := .epochs) (by decide)
  have hports := hL.at (p := .ports) (by decide)
  have hsched := hL.at (p := .sched) (by decide)
  have hreports := hL.at (p := .reports) (by decide)
  have hseqs := hL.at (p := .seqs) (by decide)
  have hrwp := hL.at (p := .rwp) (by decide)
  have hwear := hL.at (p := .wear) (by decide)
  have hretireWait := hL.at (p := .retireWait) (by decide)
  have hcause := hL.at (p := .cause) (by decide)
  have hpllLock := hL.at (p := .pllLock) (by decide)
  have hspread := hL.at (p := .spread) (by decide)
  have honRoot := hL.at (p := .onRoot) (by decide)
  have hclocksOn := hL.at (p := .clocksOn) (by decide)
  have hfmRun := hL.at (p := .fmRun) (by decide)
  have hfmDone := hL.at (p := .fmDone) (by decide)
  have hfmResult := hL.at (p := .fmResult) (by decide)
  have hdriftOdd := hL.at (p := .driftOdd) (by decide)
  have hmonLast := hL.at (p := .monLast) (by decide)
  have hfmt := hL.at (p := .fmt) (by decide)
  have hspn := hL.at (p := .spn) (by decide)
  have hfly := hL.at (p := .fly) (by decide)
  have hcurves := hL.at (p := .curves) (by decide)
  have hstruck := hL.at (p := .struck) (by decide)
  have himages := hL.at (p := .images) (by decide)
  have himgState := hL.at (p := .imgState) (by decide)
  have hloading := hL.at (p := .loading) (by decide)
  have hloadCtx := hL.at (p := .loadCtx) (by decide)
  have hloadResult := hL.at (p := .loadResult) (by decide)
  have hloadAddr := hL.at (p := .loadAddr) (by decide)
  have hplanCache := hL.at (p := .planCache) (by decide)
  have hlastRun := hL.at (p := .lastRun) (by decide)
  have hlastBucket := hL.at (p := .lastBucket) (by decide)
  have hctxs := hL.at (p := .ctxs) (by decide)
  have htrns := hL.at (p := .trns) (by decide)
  have hlsInit := hL.at (p := .lsInit) (by decide)
  have hqps := hL.at (p := .qps) (by decide)
  have hprts := hL.at (p := .prts) (by decide)
  have hqpResult := hL.at (p := .qpResult) (by decide)
  have hcrds := hL.at (p := .crds) (by decide)
  have hply := hL.at (p := .ply) (by decide)
  have hnvm := hL.at (p := .nvm) (by decide)
  have hndy := hL.at (p := .ndy) (by decide)
  have hwhl := hL.at (p := .whl) (by decide)
  have hpkg := hL.at (p := .pkg) (by decide)
  have hK0 := hL.mono (K' := [.pending, .wall, .free, .ids, .rwp, .wear, .nvm, .fuses, .out]) (by decide)
  unfold bootFault; simp [*]

@[simp] theorem bootTable_mask {L : Piece → Bool} (x : Nat) (s : State) (hL : Covers [.pending, .wall, .ids, .fuses, .out] L) :
    (bootTable x s).mask L = s.mask L := by
  have htick := hL.at (p := .tick) (by decide)
  have hcyc := hL.at (p := .cyc) (by decide)
  have hfree := hL.at (p := .free) (by decide)
  have hreg := hL.at (p := .reg) (by decide)
  have hmem := hL.at (p := .mem) (by decide)
  have herrs := hL.at (p := .errs) (by decide)
  have hskn := hL.at (p := .skn) (by decide)
  have hdst := hL.at (p := .dst) (by decide)
  have hgate := hL.at (p := .gate) (by decide)
  have hpend := hL.at (p := .pend) (by decide)
  have hrstBusy := hL.at (p := .rstBusy) (by decide)
  have hsleepReq := hL.at (p := .sleepReq) (by decide)
  have hasleep := hL.at (p := .asleep) (by decide)
  have hwakeAt := hL.at (p := .wakeAt) (by decide)
  have hrun := hL.at (p := .run) (by decide)
  have hspare := hL.at (p := .spare) (by decide)
  have hspareReq := hL.at (p := .spareReq) (by decide)
  have hready := hL.at (p := .ready) (by decide)
  have hbobs := hL.at (p := .bobs) (by decide)
  have hturns := hL.at (p := .turns) (by decide)
  have hfetchTurns := hL.at (p := .fetchTurns) (by decide)
  have hbarriers := hL.at (p := .barriers) (by decide)
  have hbarrierAt := hL.at (p := .barrierAt) (by decide)
  have hholds := hL.at (p := .holds) (by decide)
  have hepochs := hL.at (p := .epochs) (by decide)
  have hports := hL.at (p := .ports) (by decide)
  have hsched := hL.at (p := .sched) (by decide)
  have hreports := hL.at (p := .reports) (by decide)
  have hseqs := hL.at (p := .seqs) (by decide)
  have hrwp := hL.at (p := .rwp) (by decide)
  have hwear := hL.at (p := .wear) (by decide)
  have hretireWait := hL.at (p := .retireWait) (by decide)
  have hcause := hL.at (p := .cause) (by decide)
  have hpllLock := hL.at (p := .pllLock) (by decide)
  have hspread := hL.at (p := .spread) (by decide)
  have honRoot := hL.at (p := .onRoot) (by decide)
  have hclocksOn := hL.at (p := .clocksOn) (by decide)
  have hfmRun := hL.at (p := .fmRun) (by decide)
  have hfmDone := hL.at (p := .fmDone) (by decide)
  have hfmResult := hL.at (p := .fmResult) (by decide)
  have hdriftOdd := hL.at (p := .driftOdd) (by decide)
  have hmonLast := hL.at (p := .monLast) (by decide)
  have hfmt := hL.at (p := .fmt) (by decide)
  have hspn := hL.at (p := .spn) (by decide)
  have hfly := hL.at (p := .fly) (by decide)
  have hcurves := hL.at (p := .curves) (by decide)
  have hstruck := hL.at (p := .struck) (by decide)
  have himages := hL.at (p := .images) (by decide)
  have himgState := hL.at (p := .imgState) (by decide)
  have hloading := hL.at (p := .loading) (by decide)
  have hloadCtx := hL.at (p := .loadCtx) (by decide)
  have hloadResult := hL.at (p := .loadResult) (by decide)
  have hloadAddr := hL.at (p := .loadAddr) (by decide)
  have hplanCache := hL.at (p := .planCache) (by decide)
  have hlastRun := hL.at (p := .lastRun) (by decide)
  have hlastBucket := hL.at (p := .lastBucket) (by decide)
  have hctxs := hL.at (p := .ctxs) (by decide)
  have htrns := hL.at (p := .trns) (by decide)
  have hlsInit := hL.at (p := .lsInit) (by decide)
  have hqps := hL.at (p := .qps) (by decide)
  have hprts := hL.at (p := .prts) (by decide)
  have hqpResult := hL.at (p := .qpResult) (by decide)
  have hcrds := hL.at (p := .crds) (by decide)
  have hply := hL.at (p := .ply) (by decide)
  have hnvm := hL.at (p := .nvm) (by decide)
  have hndy := hL.at (p := .ndy) (by decide)
  have hwhl := hL.at (p := .whl) (by decide)
  have hpkg := hL.at (p := .pkg) (by decide)
  have hK0 := hL.mono (K' := [.pending, .wall, .free, .ids, .rwp, .wear, .nvm, .fuses, .out]) (by decide)
  unfold bootTable; simp [*]

@[simp] theorem failBoot_mask {L : Piece → Bool} (reason : Nat) (s : State) (hndy : L .ndy = true) :
    (failBoot reason s).mask L = s.mask L := by
  unfold failBoot; simp [*]

@[simp] theorem lifeCount_mask {L : Piece → Bool} (off : Nat) (s : State) (hfree : L .free = true) (hdst : L .dst = true) (hseqs : L .seqs = true) (hrwp : L .rwp = true) (hwear : L .wear = true) (hnvm : L .nvm = true) (hndy : L .ndy = true) :
    (lifeCount off s).mask L = s.mask L := by
  unfold lifeCount; simp [*]

@[simp] theorem countBoot_mask {L : Piece → Bool} (s : State) (hfree : L .free = true) (hdst : L .dst = true) (hseqs : L .seqs = true) (hrwp : L .rwp = true) (hwear : L .wear = true) (hnvm : L .nvm = true) (hndy : L .ndy = true) :
    (countBoot s).mask L = s.mask L := by
  unfold countBoot; simp [*]

@[simp] theorem bootPersist_mask {L : Piece → Bool} (s : State) (hfree : L .free = true) (hdst : L .dst = true) (hspare : L .spare = true) (hseqs : L .seqs = true) (hrwp : L .rwp = true) (hwear : L .wear = true) (hnvm : L .nvm = true) (hndy : L .ndy = true) :
    (bootPersist s).mask L = s.mask L := by
  unfold bootPersist; simp [*]

@[simp] theorem reportHeaders_mask {L : Piece → Bool} (s : State) (hL : Covers [.pending, .wall, .ids, .fuses, .out] L) :
    (reportHeaders s).mask L = s.mask L := by
  have htick := hL.at (p := .tick) (by decide)
  have hcyc := hL.at (p := .cyc) (by decide)
  have hfree := hL.at (p := .free) (by decide)
  have hreg := hL.at (p := .reg) (by decide)
  have hmem := hL.at (p := .mem) (by decide)
  have herrs := hL.at (p := .errs) (by decide)
  have hskn := hL.at (p := .skn) (by decide)
  have hdst := hL.at (p := .dst) (by decide)
  have hgate := hL.at (p := .gate) (by decide)
  have hpend := hL.at (p := .pend) (by decide)
  have hrstBusy := hL.at (p := .rstBusy) (by decide)
  have hsleepReq := hL.at (p := .sleepReq) (by decide)
  have hasleep := hL.at (p := .asleep) (by decide)
  have hwakeAt := hL.at (p := .wakeAt) (by decide)
  have hrun := hL.at (p := .run) (by decide)
  have hspare := hL.at (p := .spare) (by decide)
  have hspareReq := hL.at (p := .spareReq) (by decide)
  have hready := hL.at (p := .ready) (by decide)
  have hbobs := hL.at (p := .bobs) (by decide)
  have hturns := hL.at (p := .turns) (by decide)
  have hfetchTurns := hL.at (p := .fetchTurns) (by decide)
  have hbarriers := hL.at (p := .barriers) (by decide)
  have hbarrierAt := hL.at (p := .barrierAt) (by decide)
  have hholds := hL.at (p := .holds) (by decide)
  have hepochs := hL.at (p := .epochs) (by decide)
  have hports := hL.at (p := .ports) (by decide)
  have hsched := hL.at (p := .sched) (by decide)
  have hreports := hL.at (p := .reports) (by decide)
  have hseqs := hL.at (p := .seqs) (by decide)
  have hrwp := hL.at (p := .rwp) (by decide)
  have hwear := hL.at (p := .wear) (by decide)
  have hretireWait := hL.at (p := .retireWait) (by decide)
  have hcause := hL.at (p := .cause) (by decide)
  have hpllLock := hL.at (p := .pllLock) (by decide)
  have hspread := hL.at (p := .spread) (by decide)
  have honRoot := hL.at (p := .onRoot) (by decide)
  have hclocksOn := hL.at (p := .clocksOn) (by decide)
  have hfmRun := hL.at (p := .fmRun) (by decide)
  have hfmDone := hL.at (p := .fmDone) (by decide)
  have hfmResult := hL.at (p := .fmResult) (by decide)
  have hdriftOdd := hL.at (p := .driftOdd) (by decide)
  have hmonLast := hL.at (p := .monLast) (by decide)
  have hfmt := hL.at (p := .fmt) (by decide)
  have hspn := hL.at (p := .spn) (by decide)
  have hfly := hL.at (p := .fly) (by decide)
  have hcurves := hL.at (p := .curves) (by decide)
  have hstruck := hL.at (p := .struck) (by decide)
  have himages := hL.at (p := .images) (by decide)
  have himgState := hL.at (p := .imgState) (by decide)
  have hloading := hL.at (p := .loading) (by decide)
  have hloadCtx := hL.at (p := .loadCtx) (by decide)
  have hloadResult := hL.at (p := .loadResult) (by decide)
  have hloadAddr := hL.at (p := .loadAddr) (by decide)
  have hplanCache := hL.at (p := .planCache) (by decide)
  have hlastRun := hL.at (p := .lastRun) (by decide)
  have hlastBucket := hL.at (p := .lastBucket) (by decide)
  have hctxs := hL.at (p := .ctxs) (by decide)
  have htrns := hL.at (p := .trns) (by decide)
  have hlsInit := hL.at (p := .lsInit) (by decide)
  have hqps := hL.at (p := .qps) (by decide)
  have hprts := hL.at (p := .prts) (by decide)
  have hqpResult := hL.at (p := .qpResult) (by decide)
  have hcrds := hL.at (p := .crds) (by decide)
  have hply := hL.at (p := .ply) (by decide)
  have hnvm := hL.at (p := .nvm) (by decide)
  have hndy := hL.at (p := .ndy) (by decide)
  have hwhl := hL.at (p := .whl) (by decide)
  have hpkg := hL.at (p := .pkg) (by decide)
  have hK0 := hL.mono (K' := [.pending, .wall, .free, .ids, .rwp, .wear, .nvm, .fuses, .out]) (by decide)
  unfold reportHeaders
  refine mask_foldl (fun t i => ?_) _ _
  split
  · split <;> simp [*]
  · rfl

@[simp] theorem tryImages_mask {L : Piece → Bool} (bad : Option Nat) (x0 : List Nat) (s : State) (hL : Covers [.pending, .wall, .ids, .fuses, .out] L) :
    (tryImages bad x0 s).2.mask L = s.mask L := by
  have htick := hL.at (p := .tick) (by decide)
  have hcyc := hL.at (p := .cyc) (by decide)
  have hfree := hL.at (p := .free) (by decide)
  have hreg := hL.at (p := .reg) (by decide)
  have hmem := hL.at (p := .mem) (by decide)
  have herrs := hL.at (p := .errs) (by decide)
  have hskn := hL.at (p := .skn) (by decide)
  have hdst := hL.at (p := .dst) (by decide)
  have hgate := hL.at (p := .gate) (by decide)
  have hpend := hL.at (p := .pend) (by decide)
  have hrstBusy := hL.at (p := .rstBusy) (by decide)
  have hsleepReq := hL.at (p := .sleepReq) (by decide)
  have hasleep := hL.at (p := .asleep) (by decide)
  have hwakeAt := hL.at (p := .wakeAt) (by decide)
  have hrun := hL.at (p := .run) (by decide)
  have hspare := hL.at (p := .spare) (by decide)
  have hspareReq := hL.at (p := .spareReq) (by decide)
  have hready := hL.at (p := .ready) (by decide)
  have hbobs := hL.at (p := .bobs) (by decide)
  have hturns := hL.at (p := .turns) (by decide)
  have hfetchTurns := hL.at (p := .fetchTurns) (by decide)
  have hbarriers := hL.at (p := .barriers) (by decide)
  have hbarrierAt := hL.at (p := .barrierAt) (by decide)
  have hholds := hL.at (p := .holds) (by decide)
  have hepochs := hL.at (p := .epochs) (by decide)
  have hports := hL.at (p := .ports) (by decide)
  have hsched := hL.at (p := .sched) (by decide)
  have hreports := hL.at (p := .reports) (by decide)
  have hseqs := hL.at (p := .seqs) (by decide)
  have hrwp := hL.at (p := .rwp) (by decide)
  have hwear := hL.at (p := .wear) (by decide)
  have hretireWait := hL.at (p := .retireWait) (by decide)
  have hcause := hL.at (p := .cause) (by decide)
  have hpllLock := hL.at (p := .pllLock) (by decide)
  have hspread := hL.at (p := .spread) (by decide)
  have honRoot := hL.at (p := .onRoot) (by decide)
  have hclocksOn := hL.at (p := .clocksOn) (by decide)
  have hfmRun := hL.at (p := .fmRun) (by decide)
  have hfmDone := hL.at (p := .fmDone) (by decide)
  have hfmResult := hL.at (p := .fmResult) (by decide)
  have hdriftOdd := hL.at (p := .driftOdd) (by decide)
  have hmonLast := hL.at (p := .monLast) (by decide)
  have hfmt := hL.at (p := .fmt) (by decide)
  have hspn := hL.at (p := .spn) (by decide)
  have hfly := hL.at (p := .fly) (by decide)
  have hcurves := hL.at (p := .curves) (by decide)
  have hstruck := hL.at (p := .struck) (by decide)
  have himages := hL.at (p := .images) (by decide)
  have himgState := hL.at (p := .imgState) (by decide)
  have hloading := hL.at (p := .loading) (by decide)
  have hloadCtx := hL.at (p := .loadCtx) (by decide)
  have hloadResult := hL.at (p := .loadResult) (by decide)
  have hloadAddr := hL.at (p := .loadAddr) (by decide)
  have hplanCache := hL.at (p := .planCache) (by decide)
  have hlastRun := hL.at (p := .lastRun) (by decide)
  have hlastBucket := hL.at (p := .lastBucket) (by decide)
  have hctxs := hL.at (p := .ctxs) (by decide)
  have htrns := hL.at (p := .trns) (by decide)
  have hlsInit := hL.at (p := .lsInit) (by decide)
  have hqps := hL.at (p := .qps) (by decide)
  have hprts := hL.at (p := .prts) (by decide)
  have hqpResult := hL.at (p := .qpResult) (by decide)
  have hcrds := hL.at (p := .crds) (by decide)
  have hply := hL.at (p := .ply) (by decide)
  have hnvm := hL.at (p := .nvm) (by decide)
  have hndy := hL.at (p := .ndy) (by decide)
  have hwhl := hL.at (p := .whl) (by decide)
  have hpkg := hL.at (p := .pkg) (by decide)
  have hK0 := hL.mono (K' := [.pending, .wall, .free, .ids, .rwp, .wear, .nvm, .fuses, .out]) (by decide)
  induction x0 generalizing s with
  | nil => rfl
  | cons i r ih =>
    unfold tryImages
    dsimp only
    repeat' split
    all_goals simp [ih, *]

@[simp] theorem stageTelemetry_mask {L : Piece → Bool} (i : Nat) (s : State) (hL : Covers [.pending, .wall, .ids, .fuses, .out] L) :
    (stageTelemetry i s).mask L = s.mask L := by
  have htick := hL.at (p := .tick) (by decide)
  have hcyc := hL.at (p := .cyc) (by decide)
  have hfree := hL.at (p := .free) (by decide)
  have hreg := hL.at (p := .reg) (by decide)
  have hmem := hL.at (p := .mem) (by decide)
  have herrs := hL.at (p := .errs) (by decide)
  have hskn := hL.at (p := .skn) (by decide)
  have hdst := hL.at (p := .dst) (by decide)
  have hgate := hL.at (p := .gate) (by decide)
  have hpend := hL.at (p := .pend) (by decide)
  have hrstBusy := hL.at (p := .rstBusy) (by decide)
  have hsleepReq := hL.at (p := .sleepReq) (by decide)
  have hasleep := hL.at (p := .asleep) (by decide)
  have hwakeAt := hL.at (p := .wakeAt) (by decide)
  have hrun := hL.at (p := .run) (by decide)
  have hspare := hL.at (p := .spare) (by decide)
  have hspareReq := hL.at (p := .spareReq) (by decide)
  have hready := hL.at (p := .ready) (by decide)
  have hbobs := hL.at (p := .bobs) (by decide)
  have hturns := hL.at (p := .turns) (by decide)
  have hfetchTurns := hL.at (p := .fetchTurns) (by decide)
  have hbarriers := hL.at (p := .barriers) (by decide)
  have hbarrierAt := hL.at (p := .barrierAt) (by decide)
  have hholds := hL.at (p := .holds) (by decide)
  have hepochs := hL.at (p := .epochs) (by decide)
  have hports := hL.at (p := .ports) (by decide)
  have hsched := hL.at (p := .sched) (by decide)
  have hreports := hL.at (p := .reports) (by decide)
  have hseqs := hL.at (p := .seqs) (by decide)
  have hrwp := hL.at (p := .rwp) (by decide)
  have hwear := hL.at (p := .wear) (by decide)
  have hretireWait := hL.at (p := .retireWait) (by decide)
  have hcause := hL.at (p := .cause) (by decide)
  have hpllLock := hL.at (p := .pllLock) (by decide)
  have hspread := hL.at (p := .spread) (by decide)
  have honRoot := hL.at (p := .onRoot) (by decide)
  have hclocksOn := hL.at (p := .clocksOn) (by decide)
  have hfmRun := hL.at (p := .fmRun) (by decide)
  have hfmDone := hL.at (p := .fmDone) (by decide)
  have hfmResult := hL.at (p := .fmResult) (by decide)
  have hdriftOdd := hL.at (p := .driftOdd) (by decide)
  have hmonLast := hL.at (p := .monLast) (by decide)
  have hfmt := hL.at (p := .fmt) (by decide)
  have hspn := hL.at (p := .spn) (by decide)
  have hfly := hL.at (p := .fly) (by decide)
  have hcurves := hL.at (p := .curves) (by decide)
  have hstruck := hL.at (p := .struck) (by decide)
  have himages := hL.at (p := .images) (by decide)
  have himgState := hL.at (p := .imgState) (by decide)
  have hloading := hL.at (p := .loading) (by decide)
  have hloadCtx := hL.at (p := .loadCtx) (by decide)
  have hloadResult := hL.at (p := .loadResult) (by decide)
  have hloadAddr := hL.at (p := .loadAddr) (by decide)
  have hplanCache := hL.at (p := .planCache) (by decide)
  have hlastRun := hL.at (p := .lastRun) (by decide)
  have hlastBucket := hL.at (p := .lastBucket) (by decide)
  have hctxs := hL.at (p := .ctxs) (by decide)
  have htrns := hL.at (p := .trns) (by decide)
  have hlsInit := hL.at (p := .lsInit) (by decide)
  have hqps := hL.at (p := .qps) (by decide)
  have hprts := hL.at (p := .prts) (by decide)
  have hqpResult := hL.at (p := .qpResult) (by decide)
  have hcrds := hL.at (p := .crds) (by decide)
  have hply := hL.at (p := .ply) (by decide)
  have hnvm := hL.at (p := .nvm) (by decide)
  have hndy := hL.at (p := .ndy) (by decide)
  have hwhl := hL.at (p := .whl) (by decide)
  have hpkg := hL.at (p := .pkg) (by decide)
  have hK0 := hL.mono (K' := [.pending, .wall, .free, .ids, .rwp, .wear, .nvm, .fuses, .out]) (by decide)
  simp only [stageTelemetry]; (repeat' split) <;> simp [*]

@[simp] theorem takeWhorl_mask {L : Piece → Bool} (t : List Byte) (s : State) (hreg : L .reg = true) (hwhl : L .whl = true) :
    (takeWhorl t s).mask L = s.mask L := by
  unfold takeWhorl; simp [*]

@[simp] theorem stagePort_mask {L : Piece → Bool} (t : List Byte) (s : State) (hndy : L .ndy = true) :
    (stagePort t s).mask L = s.mask L := by
  unfold stagePort; simp [*]

@[simp] theorem stageImage_mask {L : Piece → Bool} (i : Nat) (s : State) (hL : Covers [.pending, .wall, .ids, .fuses, .out] L) :
    (stageImage i s).mask L = s.mask L := by
  have htick := hL.at (p := .tick) (by decide)
  have hcyc := hL.at (p := .cyc) (by decide)
  have hfree := hL.at (p := .free) (by decide)
  have hreg := hL.at (p := .reg) (by decide)
  have hmem := hL.at (p := .mem) (by decide)
  have herrs := hL.at (p := .errs) (by decide)
  have hskn := hL.at (p := .skn) (by decide)
  have hdst := hL.at (p := .dst) (by decide)
  have hgate := hL.at (p := .gate) (by decide)
  have hpend := hL.at (p := .pend) (by decide)
  have hrstBusy := hL.at (p := .rstBusy) (by decide)
  have hsleepReq := hL.at (p := .sleepReq) (by decide)
  have hasleep := hL.at (p := .asleep) (by decide)
  have hwakeAt := hL.at (p := .wakeAt) (by decide)
  have hrun := hL.at (p := .run) (by decide)
  have hspare := hL.at (p := .spare) (by decide)
  have hspareReq := hL.at (p := .spareReq) (by decide)
  have hready := hL.at (p := .ready) (by decide)
  have hbobs := hL.at (p := .bobs) (by decide)
  have hturns := hL.at (p := .turns) (by decide)
  have hfetchTurns := hL.at (p := .fetchTurns) (by decide)
  have hbarriers := hL.at (p := .barriers) (by decide)
  have hbarrierAt := hL.at (p := .barrierAt) (by decide)
  have hholds := hL.at (p := .holds) (by decide)
  have hepochs := hL.at (p := .epochs) (by decide)
  have hports := hL.at (p := .ports) (by decide)
  have hsched := hL.at (p := .sched) (by decide)
  have hreports := hL.at (p := .reports) (by decide)
  have hseqs := hL.at (p := .seqs) (by decide)
  have hrwp := hL.at (p := .rwp) (by decide)
  have hwear := hL.at (p := .wear) (by decide)
  have hretireWait := hL.at (p := .retireWait) (by decide)
  have hcause := hL.at (p := .cause) (by decide)
  have hpllLock := hL.at (p := .pllLock) (by decide)
  have hspread := hL.at (p := .spread) (by decide)
  have honRoot := hL.at (p := .onRoot) (by decide)
  have hclocksOn := hL.at (p := .clocksOn) (by decide)
  have hfmRun := hL.at (p := .fmRun) (by decide)
  have hfmDone := hL.at (p := .fmDone) (by decide)
  have hfmResult := hL.at (p := .fmResult) (by decide)
  have hdriftOdd := hL.at (p := .driftOdd) (by decide)
  have hmonLast := hL.at (p := .monLast) (by decide)
  have hfmt := hL.at (p := .fmt) (by decide)
  have hspn := hL.at (p := .spn) (by decide)
  have hfly := hL.at (p := .fly) (by decide)
  have hcurves := hL.at (p := .curves) (by decide)
  have hstruck := hL.at (p := .struck) (by decide)
  have himages := hL.at (p := .images) (by decide)
  have himgState := hL.at (p := .imgState) (by decide)
  have hloading := hL.at (p := .loading) (by decide)
  have hloadCtx := hL.at (p := .loadCtx) (by decide)
  have hloadResult := hL.at (p := .loadResult) (by decide)
  have hloadAddr := hL.at (p := .loadAddr) (by decide)
  have hplanCache := hL.at (p := .planCache) (by decide)
  have hlastRun := hL.at (p := .lastRun) (by decide)
  have hlastBucket := hL.at (p := .lastBucket) (by decide)
  have hctxs := hL.at (p := .ctxs) (by decide)
  have htrns := hL.at (p := .trns) (by decide)
  have hlsInit := hL.at (p := .lsInit) (by decide)
  have hqps := hL.at (p := .qps) (by decide)
  have hprts := hL.at (p := .prts) (by decide)
  have hqpResult := hL.at (p := .qpResult) (by decide)
  have hcrds := hL.at (p := .crds) (by decide)
  have hply := hL.at (p := .ply) (by decide)
  have hnvm := hL.at (p := .nvm) (by decide)
  have hndy := hL.at (p := .ndy) (by decide)
  have hwhl := hL.at (p := .whl) (by decide)
  have hpkg := hL.at (p := .pkg) (by decide)
  have hK0 := hL.mono (K' := [.pending, .wall, .free, .ids, .rwp, .wear, .nvm, .fuses, .out]) (by decide)
  unfold stageImage; simp [*]

@[simp] theorem startClocks_mask {L : Piece → Bool} (ref : Bool) (s : State) (hpllLock : L .pllLock = true) (hfmRun : L .fmRun = true) (hfmDone : L .fmDone = true) (hndy : L .ndy = true) :
    (startClocks ref s).mask L = s.mask L := by
  unfold startClocks
  split
  · have h : ∀ (t : State) a b c, ({ t with pllLock := a, fmRun := b, fmDone := c } : State).mask L = t.mask L := by
      intro t a b c; simp only [State.mask, *, if_true]
    rw [h]
    simp [*]
  · simp [*]

@[simp] theorem bootStart_mask {L : Piece → Bool} (e : BootEnv) (s : State) (hL : Covers [.pending, .wall, .ids, .fuses] L) :
    (bootStart e s).mask L = s.mask L := by
  have htick := hL.at (p := .tick) (by decide)
  have hcyc := hL.at (p := .cyc) (by decide)
  have hfree := hL.at (p := .free) (by decide)
  have hreg := hL.at (p := .reg) (by decide)
  have hmem := hL.at (p := .mem) (by decide)
  have herrs := hL.at (p := .errs) (by decide)
  have hskn := hL.at (p := .skn) (by decide)
  have hdst := hL.at (p := .dst) (by decide)
  have hgate := hL.at (p := .gate) (by decide)
  have hpend := hL.at (p := .pend) (by decide)
  have hrstBusy := hL.at (p := .rstBusy) (by decide)
  have hsleepReq := hL.at (p := .sleepReq) (by decide)
  have hasleep := hL.at (p := .asleep) (by decide)
  have hwakeAt := hL.at (p := .wakeAt) (by decide)
  have hrun := hL.at (p := .run) (by decide)
  have hspare := hL.at (p := .spare) (by decide)
  have hspareReq := hL.at (p := .spareReq) (by decide)
  have hready := hL.at (p := .ready) (by decide)
  have hbobs := hL.at (p := .bobs) (by decide)
  have hturns := hL.at (p := .turns) (by decide)
  have hfetchTurns := hL.at (p := .fetchTurns) (by decide)
  have hbarriers := hL.at (p := .barriers) (by decide)
  have hbarrierAt := hL.at (p := .barrierAt) (by decide)
  have hholds := hL.at (p := .holds) (by decide)
  have hepochs := hL.at (p := .epochs) (by decide)
  have hports := hL.at (p := .ports) (by decide)
  have hsched := hL.at (p := .sched) (by decide)
  have hreports := hL.at (p := .reports) (by decide)
  have hseqs := hL.at (p := .seqs) (by decide)
  have hrwp := hL.at (p := .rwp) (by decide)
  have hwear := hL.at (p := .wear) (by decide)
  have hretireWait := hL.at (p := .retireWait) (by decide)
  have hcause := hL.at (p := .cause) (by decide)
  have hpllLock := hL.at (p := .pllLock) (by decide)
  have hspread := hL.at (p := .spread) (by decide)
  have honRoot := hL.at (p := .onRoot) (by decide)
  have hclocksOn := hL.at (p := .clocksOn) (by decide)
  have hfmRun := hL.at (p := .fmRun) (by decide)
  have hfmDone := hL.at (p := .fmDone) (by decide)
  have hfmResult := hL.at (p := .fmResult) (by decide)
  have hdriftOdd := hL.at (p := .driftOdd) (by decide)
  have hmonLast := hL.at (p := .monLast) (by decide)
  have hfmt := hL.at (p := .fmt) (by decide)
  have hspn := hL.at (p := .spn) (by decide)
  have hfly := hL.at (p := .fly) (by decide)
  have hcurves := hL.at (p := .curves) (by decide)
  have hstruck := hL.at (p := .struck) (by decide)
  have himages := hL.at (p := .images) (by decide)
  have himgState := hL.at (p := .imgState) (by decide)
  have hloading := hL.at (p := .loading) (by decide)
  have hloadCtx := hL.at (p := .loadCtx) (by decide)
  have hloadResult := hL.at (p := .loadResult) (by decide)
  have hloadAddr := hL.at (p := .loadAddr) (by decide)
  have hplanCache := hL.at (p := .planCache) (by decide)
  have hlastRun := hL.at (p := .lastRun) (by decide)
  have hlastBucket := hL.at (p := .lastBucket) (by decide)
  have hctxs := hL.at (p := .ctxs) (by decide)
  have htrns := hL.at (p := .trns) (by decide)
  have hlsInit := hL.at (p := .lsInit) (by decide)
  have hqps := hL.at (p := .qps) (by decide)
  have hprts := hL.at (p := .prts) (by decide)
  have hqpResult := hL.at (p := .qpResult) (by decide)
  have hcrds := hL.at (p := .crds) (by decide)
  have hply := hL.at (p := .ply) (by decide)
  have hnvm := hL.at (p := .nvm) (by decide)
  have hndy := hL.at (p := .ndy) (by decide)
  have hwhl := hL.at (p := .whl) (by decide)
  have hpkg := hL.at (p := .pkg) (by decide)
  have hout := hL.at (p := .out) (by decide)
  have hK0 := hL.mono (K' := [.pending, .wall, .ids, .fuses, .out]) (by decide)
  have hK1 := hL.mono (K' := [.pending, .wall, .free, .ids, .rwp, .wear, .nvm, .fuses, .out]) (by decide)
  unfold bootStart
  dsimp only
  split
  · simp [*]
  · split
    · simp [*]
    · split
      · simp [*]
      · generalize hs3 : tryImages _ _ _ = x
        have h := congrArg (fun p => p.2.mask L) hs3
        obtain ⟨i, t⟩ := x
        simp [*, -hs3] at h
        cases i <;> simp [*]

@[simp] theorem openGates_mask {L : Piece → Bool} (t : List Byte) (s : State) (hgate : L .gate = true) :
    (openGates t s).mask L = s.mask L := by
  unfold openGates; simp [*]

@[simp] theorem setFault_mask {L : Piece → Bool} (k lo hi : Nat) (s : State) (hL : Covers [.pending, .wall, .ids, .fuses, .out] L) :
    (setFault k lo hi s).mask L = s.mask L := by
  have htick := hL.at (p := .tick) (by decide)
  have hcyc := hL.at (p := .cyc) (by decide)
  have hfree := hL.at (p := .free) (by decide)
  have hreg := hL.at (p := .reg) (by decide)
  have hmem := hL.at (p := .mem) (by decide)
  have herrs := hL.at (p := .errs) (by decide)
  have hskn := hL.at (p := .skn) (by decide)
  have hdst := hL.at (p := .dst) (by decide)
  have hgate := hL.at (p := .gate) (by decide)
  have hpend := hL.at (p := .pend) (by decide)
  have hrstBusy := hL.at (p := .rstBusy) (by decide)
  have hsleepReq := hL.at (p := .sleepReq) (by decide)
  have hasleep := hL.at (p := .asleep) (by decide)
  have hwakeAt := hL.at (p := .wakeAt) (by decide)
  have hrun := hL.at (p := .run) (by decide)
  have hspare := hL.at (p := .spare) (by decide)
  have hspareReq := hL.at (p := .spareReq) (by decide)
  have hready := hL.at (p := .ready) (by decide)
  have hbobs := hL.at (p := .bobs) (by decide)
  have hturns := hL.at (p := .turns) (by decide)
  have hfetchTurns := hL.at (p := .fetchTurns) (by decide)
  have hbarriers := hL.at (p := .barriers) (by decide)
  have hbarrierAt := hL.at (p := .barrierAt) (by decide)
  have hholds := hL.at (p := .holds) (by decide)
  have hepochs := hL.at (p := .epochs) (by decide)
  have hports := hL.at (p := .ports) (by decide)
  have hsched := hL.at (p := .sched) (by decide)
  have hreports := hL.at (p := .reports) (by decide)
  have hseqs := hL.at (p := .seqs) (by decide)
  have hrwp := hL.at (p := .rwp) (by decide)
  have hwear := hL.at (p := .wear) (by decide)
  have hretireWait := hL.at (p := .retireWait) (by decide)
  have hcause := hL.at (p := .cause) (by decide)
  have hpllLock := hL.at (p := .pllLock) (by decide)
  have hspread := hL.at (p := .spread) (by decide)
  have honRoot := hL.at (p := .onRoot) (by decide)
  have hclocksOn := hL.at (p := .clocksOn) (by decide)
  have hfmRun := hL.at (p := .fmRun) (by decide)
  have hfmDone := hL.at (p := .fmDone) (by decide)
  have hfmResult := hL.at (p := .fmResult) (by decide)
  have hdriftOdd := hL.at (p := .driftOdd) (by decide)
  have hmonLast := hL.at (p := .monLast) (by decide)
  have hfmt := hL.at (p := .fmt) (by decide)
  have hspn := hL.at (p := .spn) (by decide)
  have hfly := hL.at (p := .fly) (by decide)
  have hcurves := hL.at (p := .curves) (by decide)
  have hstruck := hL.at (p := .struck) (by decide)
  have himages := hL.at (p := .images) (by decide)
  have himgState := hL.at (p := .imgState) (by decide)
  have hloading := hL.at (p := .loading) (by decide)
  have hloadCtx := hL.at (p := .loadCtx) (by decide)
  have hloadResult := hL.at (p := .loadResult) (by decide)
  have hloadAddr := hL.at (p := .loadAddr) (by decide)
  have hplanCache := hL.at (p := .planCache) (by decide)
  have hlastRun := hL.at (p := .lastRun) (by decide)
  have hlastBucket := hL.at (p := .lastBucket) (by decide)
  have hctxs := hL.at (p := .ctxs) (by decide)
  have htrns := hL.at (p := .trns) (by decide)
  have hlsInit := hL.at (p := .lsInit) (by decide)
  have hqps := hL.at (p := .qps) (by decide)
  have hprts := hL.at (p := .prts) (by decide)
  have hqpResult := hL.at (p := .qpResult) (by decide)
  have hcrds := hL.at (p := .crds) (by decide)
  have hply := hL.at (p := .ply) (by decide)
  have hnvm := hL.at (p := .nvm) (by decide)
  have hndy := hL.at (p := .ndy) (by decide)
  have hwhl := hL.at (p := .whl) (by decide)
  have hpkg := hL.at (p := .pkg) (by decide)
  have hK0 := hL.mono (K' := [.pending, .wall, .free, .ids, .rwp, .wear, .nvm, .fuses, .out]) (by decide)
  unfold setFault
  dsimp only
  split
  · rfl
  · have h := writeKind_mask (L := L) false (BitVec.ofNat 32 lo) (s.setReg (rDst 0x90) (BitVec.ofNat 32 k)) (by assumption)
    generalize writeKind false _ _ = x at h ⊢
    cases x with
    | refuse => simp [*]
    | done t =>
      have h2 := writeKind_mask (L := L) true (BitVec.ofNat 32 hi) t (by assumption)
      dsimp only
      generalize writeKind true _ _ = y at h2 ⊢
      cases y <;> simp_all

@[simp] theorem loadFaults_mask {L : Piece → Bool} (i : Nat) (s : State) (hL : Covers [.pending, .wall, .ids, .fuses, .out] L) :
    (loadFaults i s).mask L = s.mask L := by
  have htick := hL.at (p := .tick) (by decide)
  have hcyc := hL.at (p := .cyc) (by decide)
  have hfree := hL.at (p := .free) (by decide)
  have hreg := hL.at (p := .reg) (by decide)
  have hmem := hL.at (p := .mem) (by decide)
  have herrs := hL.at (p := .errs) (by decide)
  have hskn := hL.at (p := .skn) (by decide)
  have hdst := hL.at (p := .dst) (by decide)
  have hgate := hL.at (p := .gate) (by decide)
  have hpend := hL.at (p := .pend) (by decide)
  have hrstBusy := hL.at (p := .rstBusy) (by decide)
  have hsleepReq := hL.at (p := .sleepReq) (by decide)
  have hasleep := hL.at (p := .asleep) (by decide)
  have hwakeAt := hL.at (p := .wakeAt) (by decide)
  have hrun := hL.at (p := .run) (by decide)
  have hspare := hL.at (p := .spare) (by decide)
  have hspareReq := hL.at (p := .spareReq) (by decide)
  have hready := hL.at (p := .ready) (by decide)
  have hbobs := hL.at (p := .bobs) (by decide)
  have hturns := hL.at (p := .turns) (by decide)
  have hfetchTurns := hL.at (p := .fetchTurns) (by decide)
  have hbarriers := hL.at (p := .barriers) (by decide)
  have hbarrierAt := hL.at (p := .barrierAt) (by decide)
  have hholds := hL.at (p := .holds) (by decide)
  have hepochs := hL.at (p := .epochs) (by decide)
  have hports := hL.at (p := .ports) (by decide)
  have hsched := hL.at (p := .sched) (by decide)
  have hreports := hL.at (p := .reports) (by decide)
  have hseqs := hL.at (p := .seqs) (by decide)
  have hrwp := hL.at (p := .rwp) (by decide)
  have hwear := hL.at (p := .wear) (by decide)
  have hretireWait := hL.at (p := .retireWait) (by decide)
  have hcause := hL.at (p := .cause) (by decide)
  have hpllLock := hL.at (p := .pllLock) (by decide)
  have hspread := hL.at (p := .spread) (by decide)
  have honRoot := hL.at (p := .onRoot) (by decide)
  have hclocksOn := hL.at (p := .clocksOn) (by decide)
  have hfmRun := hL.at (p := .fmRun) (by decide)
  have hfmDone := hL.at (p := .fmDone) (by decide)
  have hfmResult := hL.at (p := .fmResult) (by decide)
  have hdriftOdd := hL.at (p := .driftOdd) (by decide)
  have hmonLast := hL.at (p := .monLast) (by decide)
  have hfmt := hL.at (p := .fmt) (by decide)
  have hspn := hL.at (p := .spn) (by decide)
  have hfly := hL.at (p := .fly) (by decide)
  have hcurves := hL.at (p := .curves) (by decide)
  have hstruck := hL.at (p := .struck) (by decide)
  have himages := hL.at (p := .images) (by decide)
  have himgState := hL.at (p := .imgState) (by decide)
  have hloading := hL.at (p := .loading) (by decide)
  have hloadCtx := hL.at (p := .loadCtx) (by decide)
  have hloadResult := hL.at (p := .loadResult) (by decide)
  have hloadAddr := hL.at (p := .loadAddr) (by decide)
  have hplanCache := hL.at (p := .planCache) (by decide)
  have hlastRun := hL.at (p := .lastRun) (by decide)
  have hlastBucket := hL.at (p := .lastBucket) (by decide)
  have hctxs := hL.at (p := .ctxs) (by decide)
  have htrns := hL.at (p := .trns) (by decide)
  have hlsInit := hL.at (p := .lsInit) (by decide)
  have hqps := hL.at (p := .qps) (by decide)
  have hprts := hL.at (p := .prts) (by decide)
  have hqpResult := hL.at (p := .qpResult) (by decide)
  have hcrds := hL.at (p := .crds) (by decide)
  have hply := hL.at (p := .ply) (by decide)
  have hnvm := hL.at (p := .nvm) (by decide)
  have hndy := hL.at (p := .ndy) (by decide)
  have hwhl := hL.at (p := .whl) (by decide)
  have hpkg := hL.at (p := .pkg) (by decide)
  have hK0 := hL.mono (K' := [.pending, .wall, .free, .ids, .rwp, .wear, .nvm, .fuses, .out]) (by decide)
  unfold loadFaults; (repeat' split) <;> simp_all

@[simp] theorem writeDefault_mask {L : Piece → Bool} (a : Nat) (v : Word) (s : State) (hL : Covers [.pending, .wall, .ids] L) :
    (writeDefault a v s).mask L = s.mask L := by
  have htick := hL.at (p := .tick) (by decide)
  have hcyc := hL.at (p := .cyc) (by decide)
  have hfree := hL.at (p := .free) (by decide)
  have hreg := hL.at (p := .reg) (by decide)
  have hmem := hL.at (p := .mem) (by decide)
  have herrs := hL.at (p := .errs) (by decide)
  have hskn := hL.at (p := .skn) (by decide)
  have hdst := hL.at (p := .dst) (by decide)
  have hgate := hL.at (p := .gate) (by decide)
  have hpend := hL.at (p := .pend) (by decide)
  have hrstBusy := hL.at (p := .rstBusy) (by decide)
  have hsleepReq := hL.at (p := .sleepReq) (by decide)
  have hasleep := hL.at (p := .asleep) (by decide)
  have hwakeAt := hL.at (p := .wakeAt) (by decide)
  have hrun := hL.at (p := .run) (by decide)
  have hspare := hL.at (p := .spare) (by decide)
  have hspareReq := hL.at (p := .spareReq) (by decide)
  have hready := hL.at (p := .ready) (by decide)
  have hbobs := hL.at (p := .bobs) (by decide)
  have hturns := hL.at (p := .turns) (by decide)
  have hfetchTurns := hL.at (p := .fetchTurns) (by decide)
  have hbarriers := hL.at (p := .barriers) (by decide)
  have hbarrierAt := hL.at (p := .barrierAt) (by decide)
  have hholds := hL.at (p := .holds) (by decide)
  have hepochs := hL.at (p := .epochs) (by decide)
  have hports := hL.at (p := .ports) (by decide)
  have hsched := hL.at (p := .sched) (by decide)
  have hreports := hL.at (p := .reports) (by decide)
  have hseqs := hL.at (p := .seqs) (by decide)
  have hrwp := hL.at (p := .rwp) (by decide)
  have hwear := hL.at (p := .wear) (by decide)
  have hretireWait := hL.at (p := .retireWait) (by decide)
  have hcause := hL.at (p := .cause) (by decide)
  have hpllLock := hL.at (p := .pllLock) (by decide)
  have hspread := hL.at (p := .spread) (by decide)
  have honRoot := hL.at (p := .onRoot) (by decide)
  have hclocksOn := hL.at (p := .clocksOn) (by decide)
  have hfmRun := hL.at (p := .fmRun) (by decide)
  have hfmDone := hL.at (p := .fmDone) (by decide)
  have hfmResult := hL.at (p := .fmResult) (by decide)
  have hdriftOdd := hL.at (p := .driftOdd) (by decide)
  have hmonLast := hL.at (p := .monLast) (by decide)
  have hfmt := hL.at (p := .fmt) (by decide)
  have hspn := hL.at (p := .spn) (by decide)
  have hfly := hL.at (p := .fly) (by decide)
  have hcurves := hL.at (p := .curves) (by decide)
  have hstruck := hL.at (p := .struck) (by decide)
  have himages := hL.at (p := .images) (by decide)
  have himgState := hL.at (p := .imgState) (by decide)
  have hloading := hL.at (p := .loading) (by decide)
  have hloadCtx := hL.at (p := .loadCtx) (by decide)
  have hloadResult := hL.at (p := .loadResult) (by decide)
  have hloadAddr := hL.at (p := .loadAddr) (by decide)
  have hplanCache := hL.at (p := .planCache) (by decide)
  have hlastRun := hL.at (p := .lastRun) (by decide)
  have hlastBucket := hL.at (p := .lastBucket) (by decide)
  have hctxs := hL.at (p := .ctxs) (by decide)
  have htrns := hL.at (p := .trns) (by decide)
  have hlsInit := hL.at (p := .lsInit) (by decide)
  have hqps := hL.at (p := .qps) (by decide)
  have hprts := hL.at (p := .prts) (by decide)
  have hqpResult := hL.at (p := .qpResult) (by decide)
  have hcrds := hL.at (p := .crds) (by decide)
  have hply := hL.at (p := .ply) (by decide)
  have hnvm := hL.at (p := .nvm) (by decide)
  have hndy := hL.at (p := .ndy) (by decide)
  have hfuses := hL.at (p := .fuses) (by decide)
  have hwhl := hL.at (p := .whl) (by decide)
  have hpkg := hL.at (p := .pkg) (by decide)
  have hout := hL.at (p := .out) (by decide)
  have hK0 := hL.mono (K' := [.pending, .wall, .free, .ids, .rwp, .wear, .nvm, .fuses, .out]) (by decide)
  have hK1 := hL.mono (K' := [.pending, .wall, .ids, .rwp, .wear, .nvm, .fuses]) (by decide)
  have hK2 := hL.mono (K' := [.pending, .wall, .ids, .fuses, .out]) (by decide)
  unfold writeDefault
  split
  · rfl
  · split
    · simp [*]
    · have h := accessWrite_mask (L := L) .niddy a v (Config.freeBool s.free) s.bumpFree (by first | exact hL | assumption | exact hL.mono (by decide))
      generalize accessWrite _ _ _ _ _ = y at h ⊢
      obtain ⟨b, t⟩ := y
      cases b <;> simp_all

@[simp] theorem writeDefaults_mask {L : Piece → Bool} (i : Nat) (s : State) (hL : Covers [.pending, .wall, .ids] L) :
    (writeDefaults i s).mask L = s.mask L := by
  have htick := hL.at (p := .tick) (by decide)
  have hcyc := hL.at (p := .cyc) (by decide)
  have hfree := hL.at (p := .free) (by decide)
  have hreg := hL.at (p := .reg) (by decide)
  have hmem := hL.at (p := .mem) (by decide)
  have herrs := hL.at (p := .errs) (by decide)
  have hskn := hL.at (p := .skn) (by decide)
  have hdst := hL.at (p := .dst) (by decide)
  have hgate := hL.at (p := .gate) (by decide)
  have hpend := hL.at (p := .pend) (by decide)
  have hrstBusy := hL.at (p := .rstBusy) (by decide)
  have hsleepReq := hL.at (p := .sleepReq) (by decide)
  have hasleep := hL.at (p := .asleep) (by decide)
  have hwakeAt := hL.at (p := .wakeAt) (by decide)
  have hrun := hL.at (p := .run) (by decide)
  have hspare := hL.at (p := .spare) (by decide)
  have hspareReq := hL.at (p := .spareReq) (by decide)
  have hready := hL.at (p := .ready) (by decide)
  have hbobs := hL.at (p := .bobs) (by decide)
  have hturns := hL.at (p := .turns) (by decide)
  have hfetchTurns := hL.at (p := .fetchTurns) (by decide)
  have hbarriers := hL.at (p := .barriers) (by decide)
  have hbarrierAt := hL.at (p := .barrierAt) (by decide)
  have hholds := hL.at (p := .holds) (by decide)
  have hepochs := hL.at (p := .epochs) (by decide)
  have hports := hL.at (p := .ports) (by decide)
  have hsched := hL.at (p := .sched) (by decide)
  have hreports := hL.at (p := .reports) (by decide)
  have hseqs := hL.at (p := .seqs) (by decide)
  have hrwp := hL.at (p := .rwp) (by decide)
  have hwear := hL.at (p := .wear) (by decide)
  have hretireWait := hL.at (p := .retireWait) (by decide)
  have hcause := hL.at (p := .cause) (by decide)
  have hpllLock := hL.at (p := .pllLock) (by decide)
  have hspread := hL.at (p := .spread) (by decide)
  have honRoot := hL.at (p := .onRoot) (by decide)
  have hclocksOn := hL.at (p := .clocksOn) (by decide)
  have hfmRun := hL.at (p := .fmRun) (by decide)
  have hfmDone := hL.at (p := .fmDone) (by decide)
  have hfmResult := hL.at (p := .fmResult) (by decide)
  have hdriftOdd := hL.at (p := .driftOdd) (by decide)
  have hmonLast := hL.at (p := .monLast) (by decide)
  have hfmt := hL.at (p := .fmt) (by decide)
  have hspn := hL.at (p := .spn) (by decide)
  have hfly := hL.at (p := .fly) (by decide)
  have hcurves := hL.at (p := .curves) (by decide)
  have hstruck := hL.at (p := .struck) (by decide)
  have himages := hL.at (p := .images) (by decide)
  have himgState := hL.at (p := .imgState) (by decide)
  have hloading := hL.at (p := .loading) (by decide)
  have hloadCtx := hL.at (p := .loadCtx) (by decide)
  have hloadResult := hL.at (p := .loadResult) (by decide)
  have hloadAddr := hL.at (p := .loadAddr) (by decide)
  have hplanCache := hL.at (p := .planCache) (by decide)
  have hlastRun := hL.at (p := .lastRun) (by decide)
  have hlastBucket := hL.at (p := .lastBucket) (by decide)
  have hctxs := hL.at (p := .ctxs) (by decide)
  have htrns := hL.at (p := .trns) (by decide)
  have hlsInit := hL.at (p := .lsInit) (by decide)
  have hqps := hL.at (p := .qps) (by decide)
  have hprts := hL.at (p := .prts) (by decide)
  have hqpResult := hL.at (p := .qpResult) (by decide)
  have hcrds := hL.at (p := .crds) (by decide)
  have hply := hL.at (p := .ply) (by decide)
  have hnvm := hL.at (p := .nvm) (by decide)
  have hndy := hL.at (p := .ndy) (by decide)
  have hfuses := hL.at (p := .fuses) (by decide)
  have hwhl := hL.at (p := .whl) (by decide)
  have hpkg := hL.at (p := .pkg) (by decide)
  have hout := hL.at (p := .out) (by decide)
  have hK0 := hL.mono (K' := [.pending, .wall, .free, .ids, .rwp, .wear, .nvm, .fuses, .out]) (by decide)
  have hK1 := hL.mono (K' := [.pending, .wall, .ids, .fuses, .out]) (by decide)
  have hK2 := hL.mono (K' := [.pending, .wall, .ids, .rwp, .wear, .nvm, .fuses]) (by decide)
  unfold writeDefaults; dsimp only; (repeat' split) <;> simp [*]

@[simp] theorem setSlot_mask {L : Piece → Bool} (j : Nat) (t : Option (List Word)) (s : State) (hfmt : L .fmt = true) :
    (setSlot j t s).mask L = s.mask L := by
  unfold setSlot; simp [*]

@[simp] theorem loadFormat_mask {L : Piece → Bool} (i j : Nat) (s : State) (hL : Covers [.pending, .wall, .ids, .fuses, .out] L) :
    (loadFormat i j s).mask L = s.mask L := by
  have htick := hL.at (p := .tick) (by decide)
  have hcyc := hL.at (p := .cyc) (by decide)
  have hfree := hL.at (p := .free) (by decide)
  have hreg := hL.at (p := .reg) (by decide)
  have hmem := hL.at (p := .mem) (by decide)
  have herrs := hL.at (p := .errs) (by decide)
  have hskn := hL.at (p := .skn) (by decide)
  have hdst := hL.at (p := .dst) (by decide)
  have hgate := hL.at (p := .gate) (by decide)
  have hpend := hL.at (p := .pend) (by decide)
  have hrstBusy := hL.at (p := .rstBusy) (by decide)
  have hsleepReq := hL.at (p := .sleepReq) (by decide)
  have hasleep := hL.at (p := .asleep) (by decide)
  have hwakeAt := hL.at (p := .wakeAt) (by decide)
  have hrun := hL.at (p := .run) (by decide)
  have hspare := hL.at (p := .spare) (by decide)
  have hspareReq := hL.at (p := .spareReq) (by decide)
  have hready := hL.at (p := .ready) (by decide)
  have hbobs := hL.at (p := .bobs) (by decide)
  have hturns := hL.at (p := .turns) (by decide)
  have hfetchTurns := hL.at (p := .fetchTurns) (by decide)
  have hbarriers := hL.at (p := .barriers) (by decide)
  have hbarrierAt := hL.at (p := .barrierAt) (by decide)
  have hholds := hL.at (p := .holds) (by decide)
  have hepochs := hL.at (p := .epochs) (by decide)
  have hports := hL.at (p := .ports) (by decide)
  have hsched := hL.at (p := .sched) (by decide)
  have hreports := hL.at (p := .reports) (by decide)
  have hseqs := hL.at (p := .seqs) (by decide)
  have hrwp := hL.at (p := .rwp) (by decide)
  have hwear := hL.at (p := .wear) (by decide)
  have hretireWait := hL.at (p := .retireWait) (by decide)
  have hcause := hL.at (p := .cause) (by decide)
  have hpllLock := hL.at (p := .pllLock) (by decide)
  have hspread := hL.at (p := .spread) (by decide)
  have honRoot := hL.at (p := .onRoot) (by decide)
  have hclocksOn := hL.at (p := .clocksOn) (by decide)
  have hfmRun := hL.at (p := .fmRun) (by decide)
  have hfmDone := hL.at (p := .fmDone) (by decide)
  have hfmResult := hL.at (p := .fmResult) (by decide)
  have hdriftOdd := hL.at (p := .driftOdd) (by decide)
  have hmonLast := hL.at (p := .monLast) (by decide)
  have hfmt := hL.at (p := .fmt) (by decide)
  have hspn := hL.at (p := .spn) (by decide)
  have hfly := hL.at (p := .fly) (by decide)
  have hcurves := hL.at (p := .curves) (by decide)
  have hstruck := hL.at (p := .struck) (by decide)
  have himages := hL.at (p := .images) (by decide)
  have himgState := hL.at (p := .imgState) (by decide)
  have hloading := hL.at (p := .loading) (by decide)
  have hloadCtx := hL.at (p := .loadCtx) (by decide)
  have hloadResult := hL.at (p := .loadResult) (by decide)
  have hloadAddr := hL.at (p := .loadAddr) (by decide)
  have hplanCache := hL.at (p := .planCache) (by decide)
  have hlastRun := hL.at (p := .lastRun) (by decide)
  have hlastBucket := hL.at (p := .lastBucket) (by decide)
  have hctxs := hL.at (p := .ctxs) (by decide)
  have htrns := hL.at (p := .trns) (by decide)
  have hlsInit := hL.at (p := .lsInit) (by decide)
  have hqps := hL.at (p := .qps) (by decide)
  have hprts := hL.at (p := .prts) (by decide)
  have hqpResult := hL.at (p := .qpResult) (by decide)
  have hcrds := hL.at (p := .crds) (by decide)
  have hply := hL.at (p := .ply) (by decide)
  have hnvm := hL.at (p := .nvm) (by decide)
  have hndy := hL.at (p := .ndy) (by decide)
  have hwhl := hL.at (p := .whl) (by decide)
  have hpkg := hL.at (p := .pkg) (by decide)
  have hK0 := hL.mono (K' := [.pending, .wall, .free, .ids, .rwp, .wear, .nvm, .fuses, .out]) (by decide)
  simp only [loadFormat]; (repeat' split) <;> simp [*]

@[simp] theorem loadCurve_mask {L : Piece → Bool} (i j : Nat) (s : State) (hL : Covers [.pending, .wall, .ids, .fuses, .out] L) :
    (loadCurve i j s).mask L = s.mask L := by
  have htick := hL.at (p := .tick) (by decide)
  have hcyc := hL.at (p := .cyc) (by decide)
  have hfree := hL.at (p := .free) (by decide)
  have hreg := hL.at (p := .reg) (by decide)
  have hmem := hL.at (p := .mem) (by decide)
  have herrs := hL.at (p := .errs) (by decide)
  have hskn := hL.at (p := .skn) (by decide)
  have hdst := hL.at (p := .dst) (by decide)
  have hgate := hL.at (p := .gate) (by decide)
  have hpend := hL.at (p := .pend) (by decide)
  have hrstBusy := hL.at (p := .rstBusy) (by decide)
  have hsleepReq := hL.at (p := .sleepReq) (by decide)
  have hasleep := hL.at (p := .asleep) (by decide)
  have hwakeAt := hL.at (p := .wakeAt) (by decide)
  have hrun := hL.at (p := .run) (by decide)
  have hspare := hL.at (p := .spare) (by decide)
  have hspareReq := hL.at (p := .spareReq) (by decide)
  have hready := hL.at (p := .ready) (by decide)
  have hbobs := hL.at (p := .bobs) (by decide)
  have hturns := hL.at (p := .turns) (by decide)
  have hfetchTurns := hL.at (p := .fetchTurns) (by decide)
  have hbarriers := hL.at (p := .barriers) (by decide)
  have hbarrierAt := hL.at (p := .barrierAt) (by decide)
  have hholds := hL.at (p := .holds) (by decide)
  have hepochs := hL.at (p := .epochs) (by decide)
  have hports := hL.at (p := .ports) (by decide)
  have hsched := hL.at (p := .sched) (by decide)
  have hreports := hL.at (p := .reports) (by decide)
  have hseqs := hL.at (p := .seqs) (by decide)
  have hrwp := hL.at (p := .rwp) (by decide)
  have hwear := hL.at (p := .wear) (by decide)
  have hretireWait := hL.at (p := .retireWait) (by decide)
  have hcause := hL.at (p := .cause) (by decide)
  have hpllLock := hL.at (p := .pllLock) (by decide)
  have hspread := hL.at (p := .spread) (by decide)
  have honRoot := hL.at (p := .onRoot) (by decide)
  have hclocksOn := hL.at (p := .clocksOn) (by decide)
  have hfmRun := hL.at (p := .fmRun) (by decide)
  have hfmDone := hL.at (p := .fmDone) (by decide)
  have hfmResult := hL.at (p := .fmResult) (by decide)
  have hdriftOdd := hL.at (p := .driftOdd) (by decide)
  have hmonLast := hL.at (p := .monLast) (by decide)
  have hfmt := hL.at (p := .fmt) (by decide)
  have hspn := hL.at (p := .spn) (by decide)
  have hfly := hL.at (p := .fly) (by decide)
  have hcurves := hL.at (p := .curves) (by decide)
  have hstruck := hL.at (p := .struck) (by decide)
  have himages := hL.at (p := .images) (by decide)
  have himgState := hL.at (p := .imgState) (by decide)
  have hloading := hL.at (p := .loading) (by decide)
  have hloadCtx := hL.at (p := .loadCtx) (by decide)
  have hloadResult := hL.at (p := .loadResult) (by decide)
  have hloadAddr := hL.at (p := .loadAddr) (by decide)
  have hplanCache := hL.at (p := .planCache) (by decide)
  have hlastRun := hL.at (p := .lastRun) (by decide)
  have hlastBucket := hL.at (p := .lastBucket) (by decide)
  have hctxs := hL.at (p := .ctxs) (by decide)
  have htrns := hL.at (p := .trns) (by decide)
  have hlsInit := hL.at (p := .lsInit) (by decide)
  have hqps := hL.at (p := .qps) (by decide)
  have hprts := hL.at (p := .prts) (by decide)
  have hqpResult := hL.at (p := .qpResult) (by decide)
  have hcrds := hL.at (p := .crds) (by decide)
  have hply := hL.at (p := .ply) (by decide)
  have hnvm := hL.at (p := .nvm) (by decide)
  have hndy := hL.at (p := .ndy) (by decide)
  have hwhl := hL.at (p := .whl) (by decide)
  have hpkg := hL.at (p := .pkg) (by decide)
  have hK0 := hL.mono (K' := [.pending, .wall, .free, .ids, .rwp, .wear, .nvm, .fuses, .out]) (by decide)
  simp only [loadCurve]; (repeat' split) <;> simp [*]

@[simp] theorem bootUnits_mask {L : Piece → Bool} (s : State) (hL : Covers [.pending, .wall, .ids] L) :
    (bootUnits s).mask L = s.mask L := by
  have htick := hL.at (p := .tick) (by decide)
  have hcyc := hL.at (p := .cyc) (by decide)
  have hfree := hL.at (p := .free) (by decide)
  have hreg := hL.at (p := .reg) (by decide)
  have hmem := hL.at (p := .mem) (by decide)
  have herrs := hL.at (p := .errs) (by decide)
  have hskn := hL.at (p := .skn) (by decide)
  have hdst := hL.at (p := .dst) (by decide)
  have hgate := hL.at (p := .gate) (by decide)
  have hpend := hL.at (p := .pend) (by decide)
  have hrstBusy := hL.at (p := .rstBusy) (by decide)
  have hsleepReq := hL.at (p := .sleepReq) (by decide)
  have hasleep := hL.at (p := .asleep) (by decide)
  have hwakeAt := hL.at (p := .wakeAt) (by decide)
  have hrun := hL.at (p := .run) (by decide)
  have hspare := hL.at (p := .spare) (by decide)
  have hspareReq := hL.at (p := .spareReq) (by decide)
  have hready := hL.at (p := .ready) (by decide)
  have hbobs := hL.at (p := .bobs) (by decide)
  have hturns := hL.at (p := .turns) (by decide)
  have hfetchTurns := hL.at (p := .fetchTurns) (by decide)
  have hbarriers := hL.at (p := .barriers) (by decide)
  have hbarrierAt := hL.at (p := .barrierAt) (by decide)
  have hholds := hL.at (p := .holds) (by decide)
  have hepochs := hL.at (p := .epochs) (by decide)
  have hports := hL.at (p := .ports) (by decide)
  have hsched := hL.at (p := .sched) (by decide)
  have hreports := hL.at (p := .reports) (by decide)
  have hseqs := hL.at (p := .seqs) (by decide)
  have hrwp := hL.at (p := .rwp) (by decide)
  have hwear := hL.at (p := .wear) (by decide)
  have hretireWait := hL.at (p := .retireWait) (by decide)
  have hcause := hL.at (p := .cause) (by decide)
  have hpllLock := hL.at (p := .pllLock) (by decide)
  have hspread := hL.at (p := .spread) (by decide)
  have honRoot := hL.at (p := .onRoot) (by decide)
  have hclocksOn := hL.at (p := .clocksOn) (by decide)
  have hfmRun := hL.at (p := .fmRun) (by decide)
  have hfmDone := hL.at (p := .fmDone) (by decide)
  have hfmResult := hL.at (p := .fmResult) (by decide)
  have hdriftOdd := hL.at (p := .driftOdd) (by decide)
  have hmonLast := hL.at (p := .monLast) (by decide)
  have hfmt := hL.at (p := .fmt) (by decide)
  have hspn := hL.at (p := .spn) (by decide)
  have hfly := hL.at (p := .fly) (by decide)
  have hcurves := hL.at (p := .curves) (by decide)
  have hstruck := hL.at (p := .struck) (by decide)
  have himages := hL.at (p := .images) (by decide)
  have himgState := hL.at (p := .imgState) (by decide)
  have hloading := hL.at (p := .loading) (by decide)
  have hloadCtx := hL.at (p := .loadCtx) (by decide)
  have hloadResult := hL.at (p := .loadResult) (by decide)
  have hloadAddr := hL.at (p := .loadAddr) (by decide)
  have hplanCache := hL.at (p := .planCache) (by decide)
  have hlastRun := hL.at (p := .lastRun) (by decide)
  have hlastBucket := hL.at (p := .lastBucket) (by decide)
  have hctxs := hL.at (p := .ctxs) (by decide)
  have htrns := hL.at (p := .trns) (by decide)
  have hlsInit := hL.at (p := .lsInit) (by decide)
  have hqps := hL.at (p := .qps) (by decide)
  have hprts := hL.at (p := .prts) (by decide)
  have hqpResult := hL.at (p := .qpResult) (by decide)
  have hcrds := hL.at (p := .crds) (by decide)
  have hply := hL.at (p := .ply) (by decide)
  have hnvm := hL.at (p := .nvm) (by decide)
  have hndy := hL.at (p := .ndy) (by decide)
  have hfuses := hL.at (p := .fuses) (by decide)
  have hwhl := hL.at (p := .whl) (by decide)
  have hpkg := hL.at (p := .pkg) (by decide)
  have hout := hL.at (p := .out) (by decide)
  have hK0 := hL.mono (K' := [.pending, .wall, .free, .ids, .rwp, .wear, .nvm, .fuses, .out]) (by decide)
  have hK1 := hL.mono (K' := [.pending, .wall, .ids, .fuses, .out]) (by decide)
  have hK2 := hL.mono (K' := [.pending, .wall, .ids, .rwp, .wear, .nvm, .fuses]) (by decide)
  unfold bootUnits; simp [*]

@[simp] theorem trainSkein_mask {L : Piece → Bool} (k : Nat) (s : State) (hskn : L .skn = true) (hdst : L .dst = true) (hseqs : L .seqs = true) :
    (trainSkein k s).mask L = s.mask L := by
  simp only [trainSkein]; (repeat' split) <;> simp [*]

@[simp] theorem bootSkeins_mask {L : Piece → Bool} (s : State) (hskn : L .skn = true) (hndy : L .ndy = true) :
    (bootSkeins s).mask L = s.mask L := by
  unfold bootSkeins; simp [*]

@[simp] theorem endTraining_mask {L : Piece → Bool} (s : State) (hskn : L .skn = true) (hdst : L .dst = true) (hseqs : L .seqs = true) :
    (endTraining s).mask L = s.mask L := by
  unfold endTraining; simp [*]

@[simp] theorem endFilling_mask {L : Piece → Bool} (s : State) (hmem : L .mem = true) (herrs : L .errs = true) (hskn : L .skn = true) :
    (endFilling s).mask L = s.mask L := by
  unfold endFilling; simp [*]

@[simp] theorem skeinTick_mask {L : Piece → Bool} (s : State) (hmem : L .mem = true) (herrs : L .errs = true) (hskn : L .skn = true) (hdst : L .dst = true) (hseqs : L .seqs = true) :
    (skeinTick s).mask L = s.mask L := by
  unfold skeinTick; simp [*]

@[simp] theorem clocksUp_mask {L : Piece → Bool} (s : State) (htick : L .tick = true) (hcyc : L .cyc = true) (hspread : L .spread = true) (honRoot : L .onRoot = true) (hclocksOn : L .clocksOn = true) :
    (clocksUp s).mask L = s.mask L := by
  unfold clocksUp; simp only [State.mask, *, if_true]

@[simp] theorem judgeWindow_mask {L : Piece → Bool} (count : Nat) (s : State) (hL : Covers [.pending, .wall, .ids] L) :
    (judgeWindow count s).mask L = s.mask L := by
  have htick := hL.at (p := .tick) (by decide)
  have hcyc := hL.at (p := .cyc) (by decide)
  have hfree := hL.at (p := .free) (by decide)
  have hreg := hL.at (p := .reg) (by decide)
  have hmem := hL.at (p := .mem) (by decide)
  have herrs := hL.at (p := .errs) (by decide)
  have hskn := hL.at (p := .skn) (by decide)
  have hdst := hL.at (p := .dst) (by decide)
  have hgate := hL.at (p := .gate) (by decide)
  have hpend := hL.at (p := .pend) (by decide)
  have hrstBusy := hL.at (p := .rstBusy) (by decide)
  have hsleepReq := hL.at (p := .sleepReq) (by decide)
  have hasleep := hL.at (p := .asleep) (by decide)
  have hwakeAt := hL.at (p := .wakeAt) (by decide)
  have hrun := hL.at (p := .run) (by decide)
  have hspare := hL.at (p := .spare) (by decide)
  have hspareReq := hL.at (p := .spareReq) (by decide)
  have hready := hL.at (p := .ready) (by decide)
  have hbobs := hL.at (p := .bobs) (by decide)
  have hturns := hL.at (p := .turns) (by decide)
  have hfetchTurns := hL.at (p := .fetchTurns) (by decide)
  have hbarriers := hL.at (p := .barriers) (by decide)
  have hbarrierAt := hL.at (p := .barrierAt) (by decide)
  have hholds := hL.at (p := .holds) (by decide)
  have hepochs := hL.at (p := .epochs) (by decide)
  have hports := hL.at (p := .ports) (by decide)
  have hsched := hL.at (p := .sched) (by decide)
  have hreports := hL.at (p := .reports) (by decide)
  have hseqs := hL.at (p := .seqs) (by decide)
  have hrwp := hL.at (p := .rwp) (by decide)
  have hwear := hL.at (p := .wear) (by decide)
  have hretireWait := hL.at (p := .retireWait) (by decide)
  have hcause := hL.at (p := .cause) (by decide)
  have hpllLock := hL.at (p := .pllLock) (by decide)
  have hspread := hL.at (p := .spread) (by decide)
  have honRoot := hL.at (p := .onRoot) (by decide)
  have hclocksOn := hL.at (p := .clocksOn) (by decide)
  have hfmRun := hL.at (p := .fmRun) (by decide)
  have hfmDone := hL.at (p := .fmDone) (by decide)
  have hfmResult := hL.at (p := .fmResult) (by decide)
  have hdriftOdd := hL.at (p := .driftOdd) (by decide)
  have hmonLast := hL.at (p := .monLast) (by decide)
  have hfmt := hL.at (p := .fmt) (by decide)
  have hspn := hL.at (p := .spn) (by decide)
  have hfly := hL.at (p := .fly) (by decide)
  have hcurves := hL.at (p := .curves) (by decide)
  have hstruck := hL.at (p := .struck) (by decide)
  have himages := hL.at (p := .images) (by decide)
  have himgState := hL.at (p := .imgState) (by decide)
  have hloading := hL.at (p := .loading) (by decide)
  have hloadCtx := hL.at (p := .loadCtx) (by decide)
  have hloadResult := hL.at (p := .loadResult) (by decide)
  have hloadAddr := hL.at (p := .loadAddr) (by decide)
  have hplanCache := hL.at (p := .planCache) (by decide)
  have hlastRun := hL.at (p := .lastRun) (by decide)
  have hlastBucket := hL.at (p := .lastBucket) (by decide)
  have hctxs := hL.at (p := .ctxs) (by decide)
  have htrns := hL.at (p := .trns) (by decide)
  have hlsInit := hL.at (p := .lsInit) (by decide)
  have hqps := hL.at (p := .qps) (by decide)
  have hprts := hL.at (p := .prts) (by decide)
  have hqpResult := hL.at (p := .qpResult) (by decide)
  have hcrds := hL.at (p := .crds) (by decide)
  have hply := hL.at (p := .ply) (by decide)
  have hnvm := hL.at (p := .nvm) (by decide)
  have hndy := hL.at (p := .ndy) (by decide)
  have hfuses := hL.at (p := .fuses) (by decide)
  have hwhl := hL.at (p := .whl) (by decide)
  have hpkg := hL.at (p := .pkg) (by decide)
  have hout := hL.at (p := .out) (by decide)
  have hK0 := hL.mono (K' := [.pending, .wall, .ids, .fuses, .out]) (by decide)
  have hK1 := hL.mono (K' := [.pending, .wall, .ids, .rwp, .wear, .nvm, .fuses]) (by decide)
  have hK2 := hL.mono (K' := [.pending, .wall, .free, .ids, .rwp, .wear, .nvm, .fuses, .out]) (by decide)
  have k1 : ∀ t : State, t.mask L = s.mask L → ∀ (c1 c2 : Prop) [Decidable c1] [Decidable c2],
      (if c1 then
        let s2 := bootUnits (clocksUp t)
        if s2.ndy.phase = .held then s2 else bootSkeins s2
      else if c2 then failBoot 0xF9 (faultParam srcNdy kCLK_DRIFT 2 t) else t).mask L = s.mask L := by
    intro t ht c1 c2 _ _
    have hu : (bootUnits (clocksUp t)).mask L = s.mask L := by
      rw [bootUnits_mask _ (by first | assumption | exact hL.mono (by decide)), clocksUp_mask _ htick hcyc hspread honRoot hclocksOn]
      exact ht
    dsimp only
    split
    · split
      · exact hu
      · rw [bootSkeins_mask _ hskn hndy]; exact hu
    · split
      · rw [failBoot_mask _ _ hndy, faultParam_mask _ _ _ _ hdst hseqs]; exact ht
      · exact ht
  unfold judgeWindow
  refine k1 _ ?_ _ _
  have h : ∀ (t : State) a b c, ({ t with fmResult := a, fmDone := b, fmRun := c } : State).mask L = t.mask L := by
    intro t a b c; simp only [State.mask, *, if_true]
  rw [h]
  exact setNdy_mask _ _ hndy

@[simp] theorem bootQueuePairs_mask {L : Piece → Bool} (t : List Byte) (s : State) (hreg : L .reg = true) (hmem : L .mem = true) (herrs : L .errs = true) (hskn : L .skn = true) (hdst : L .dst = true) (hseqs : L .seqs = true) (hqps : L .qps = true) (hqpResult : L .qpResult = true) :
    (bootQueuePairs t s).mask L = s.mask L := by
  unfold bootQueuePairs; simp [*]

@[simp] theorem enablePort_mask {L : Piece → Bool} (n : Nat) (s : State) (hdst : L .dst = true) (hseqs : L .seqs = true) (hprts : L .prts = true) :
    (enablePort n s).mask L = s.mask L := by
  unfold enablePort; simp [*]

@[simp] theorem startDistaff_mask {L : Piece → Bool} (s : State) (hreg : L .reg = true) (hdst : L .dst = true) (hgate : L .gate = true) (hpend : L .pend = true) :
    (startDistaff s).mask L = s.mask L := by
  unfold startDistaff; simp [*]

@[simp] theorem startSkein_mask {L : Piece → Bool} (k : Nat) (s : State) (hreg : L .reg = true) (hskn : L .skn = true) :
    (startSkein k s).mask L = s.mask L := by
  unfold startSkein; simp [*]

@[simp] theorem startWhorl_mask {L : Piece → Bool} (s : State) (hreg : L .reg = true) (hwhl : L .whl = true) :
    (startWhorl s).mask L = s.mask L := by
  unfold startWhorl; simp [*]

@[simp] theorem acceptAll_mask {L : Piece → Bool} (x0 : Nat) (s : State) (hL : Covers [.pending, .wall, .ids, .fuses, .out] L) :
    (acceptAll x0 s).mask L = s.mask L := by
  have htick := hL.at (p := .tick) (by decide)
  have hcyc := hL.at (p := .cyc) (by decide)
  have hfree := hL.at (p := .free) (by decide)
  have hreg := hL.at (p := .reg) (by decide)
  have hmem := hL.at (p := .mem) (by decide)
  have herrs := hL.at (p := .errs) (by decide)
  have hskn := hL.at (p := .skn) (by decide)
  have hdst := hL.at (p := .dst) (by decide)
  have hgate := hL.at (p := .gate) (by decide)
  have hpend := hL.at (p := .pend) (by decide)
  have hrstBusy := hL.at (p := .rstBusy) (by decide)
  have hsleepReq := hL.at (p := .sleepReq) (by decide)
  have hasleep := hL.at (p := .asleep) (by decide)
  have hwakeAt := hL.at (p := .wakeAt) (by decide)
  have hrun := hL.at (p := .run) (by decide)
  have hspare := hL.at (p := .spare) (by decide)
  have hspareReq := hL.at (p := .spareReq) (by decide)
  have hready := hL.at (p := .ready) (by decide)
  have hbobs := hL.at (p := .bobs) (by decide)
  have hturns := hL.at (p := .turns) (by decide)
  have hfetchTurns := hL.at (p := .fetchTurns) (by decide)
  have hbarriers := hL.at (p := .barriers) (by decide)
  have hbarrierAt := hL.at (p := .barrierAt) (by decide)
  have hholds := hL.at (p := .holds) (by decide)
  have hepochs := hL.at (p := .epochs) (by decide)
  have hports := hL.at (p := .ports) (by decide)
  have hsched := hL.at (p := .sched) (by decide)
  have hreports := hL.at (p := .reports) (by decide)
  have hseqs := hL.at (p := .seqs) (by decide)
  have hrwp := hL.at (p := .rwp) (by decide)
  have hwear := hL.at (p := .wear) (by decide)
  have hretireWait := hL.at (p := .retireWait) (by decide)
  have hcause := hL.at (p := .cause) (by decide)
  have hpllLock := hL.at (p := .pllLock) (by decide)
  have hspread := hL.at (p := .spread) (by decide)
  have honRoot := hL.at (p := .onRoot) (by decide)
  have hclocksOn := hL.at (p := .clocksOn) (by decide)
  have hfmRun := hL.at (p := .fmRun) (by decide)
  have hfmDone := hL.at (p := .fmDone) (by decide)
  have hfmResult := hL.at (p := .fmResult) (by decide)
  have hdriftOdd := hL.at (p := .driftOdd) (by decide)
  have hmonLast := hL.at (p := .monLast) (by decide)
  have hfmt := hL.at (p := .fmt) (by decide)
  have hspn := hL.at (p := .spn) (by decide)
  have hfly := hL.at (p := .fly) (by decide)
  have hcurves := hL.at (p := .curves) (by decide)
  have hstruck := hL.at (p := .struck) (by decide)
  have himages := hL.at (p := .images) (by decide)
  have himgState := hL.at (p := .imgState) (by decide)
  have hloading := hL.at (p := .loading) (by decide)
  have hloadCtx := hL.at (p := .loadCtx) (by decide)
  have hloadResult := hL.at (p := .loadResult) (by decide)
  have hloadAddr := hL.at (p := .loadAddr) (by decide)
  have hplanCache := hL.at (p := .planCache) (by decide)
  have hlastRun := hL.at (p := .lastRun) (by decide)
  have hlastBucket := hL.at (p := .lastBucket) (by decide)
  have hctxs := hL.at (p := .ctxs) (by decide)
  have htrns := hL.at (p := .trns) (by decide)
  have hlsInit := hL.at (p := .lsInit) (by decide)
  have hqps := hL.at (p := .qps) (by decide)
  have hprts := hL.at (p := .prts) (by decide)
  have hqpResult := hL.at (p := .qpResult) (by decide)
  have hcrds := hL.at (p := .crds) (by decide)
  have hply := hL.at (p := .ply) (by decide)
  have hnvm := hL.at (p := .nvm) (by decide)
  have hndy := hL.at (p := .ndy) (by decide)
  have hwhl := hL.at (p := .whl) (by decide)
  have hpkg := hL.at (p := .pkg) (by decide)
  have hK0 := hL.mono (K' := [.pending, .wall, .free, .ids, .rwp, .wear, .nvm, .fuses, .out]) (by decide)
  induction x0 generalizing s with
  | zero => rfl
  | succ n ih =>
    unfold acceptAll
    split
    · rfl
    · simp [ih, *]

@[simp] theorem reportReady_mask {L : Piece → Bool} (s0 : State) (hL : Covers [.pending, .wall, .ids, .fuses] L) :
    (reportReady s0).mask L = s0.mask L := by
  have htick := hL.at (p := .tick) (by decide)
  have hcyc := hL.at (p := .cyc) (by decide)
  have hfree := hL.at (p := .free) (by decide)
  have hreg := hL.at (p := .reg) (by decide)
  have hmem := hL.at (p := .mem) (by decide)
  have herrs := hL.at (p := .errs) (by decide)
  have hskn := hL.at (p := .skn) (by decide)
  have hdst := hL.at (p := .dst) (by decide)
  have hgate := hL.at (p := .gate) (by decide)
  have hpend := hL.at (p := .pend) (by decide)
  have hrstBusy := hL.at (p := .rstBusy) (by decide)
  have hsleepReq := hL.at (p := .sleepReq) (by decide)
  have hasleep := hL.at (p := .asleep) (by decide)
  have hwakeAt := hL.at (p := .wakeAt) (by decide)
  have hrun := hL.at (p := .run) (by decide)
  have hspare := hL.at (p := .spare) (by decide)
  have hspareReq := hL.at (p := .spareReq) (by decide)
  have hready := hL.at (p := .ready) (by decide)
  have hbobs := hL.at (p := .bobs) (by decide)
  have hturns := hL.at (p := .turns) (by decide)
  have hfetchTurns := hL.at (p := .fetchTurns) (by decide)
  have hbarriers := hL.at (p := .barriers) (by decide)
  have hbarrierAt := hL.at (p := .barrierAt) (by decide)
  have hholds := hL.at (p := .holds) (by decide)
  have hepochs := hL.at (p := .epochs) (by decide)
  have hports := hL.at (p := .ports) (by decide)
  have hsched := hL.at (p := .sched) (by decide)
  have hreports := hL.at (p := .reports) (by decide)
  have hseqs := hL.at (p := .seqs) (by decide)
  have hrwp := hL.at (p := .rwp) (by decide)
  have hwear := hL.at (p := .wear) (by decide)
  have hretireWait := hL.at (p := .retireWait) (by decide)
  have hcause := hL.at (p := .cause) (by decide)
  have hpllLock := hL.at (p := .pllLock) (by decide)
  have hspread := hL.at (p := .spread) (by decide)
  have honRoot := hL.at (p := .onRoot) (by decide)
  have hclocksOn := hL.at (p := .clocksOn) (by decide)
  have hfmRun := hL.at (p := .fmRun) (by decide)
  have hfmDone := hL.at (p := .fmDone) (by decide)
  have hfmResult := hL.at (p := .fmResult) (by decide)
  have hdriftOdd := hL.at (p := .driftOdd) (by decide)
  have hmonLast := hL.at (p := .monLast) (by decide)
  have hfmt := hL.at (p := .fmt) (by decide)
  have hspn := hL.at (p := .spn) (by decide)
  have hfly := hL.at (p := .fly) (by decide)
  have hcurves := hL.at (p := .curves) (by decide)
  have hstruck := hL.at (p := .struck) (by decide)
  have himages := hL.at (p := .images) (by decide)
  have himgState := hL.at (p := .imgState) (by decide)
  have hloading := hL.at (p := .loading) (by decide)
  have hloadCtx := hL.at (p := .loadCtx) (by decide)
  have hloadResult := hL.at (p := .loadResult) (by decide)
  have hloadAddr := hL.at (p := .loadAddr) (by decide)
  have hplanCache := hL.at (p := .planCache) (by decide)
  have hlastRun := hL.at (p := .lastRun) (by decide)
  have hlastBucket := hL.at (p := .lastBucket) (by decide)
  have hctxs := hL.at (p := .ctxs) (by decide)
  have htrns := hL.at (p := .trns) (by decide)
  have hlsInit := hL.at (p := .lsInit) (by decide)
  have hqps := hL.at (p := .qps) (by decide)
  have hprts := hL.at (p := .prts) (by decide)
  have hqpResult := hL.at (p := .qpResult) (by decide)
  have hcrds := hL.at (p := .crds) (by decide)
  have hply := hL.at (p := .ply) (by decide)
  have hnvm := hL.at (p := .nvm) (by decide)
  have hndy := hL.at (p := .ndy) (by decide)
  have hwhl := hL.at (p := .whl) (by decide)
  have hpkg := hL.at (p := .pkg) (by decide)
  have hout := hL.at (p := .out) (by decide)
  have hK0 := hL.mono (K' := [.pending, .wall, .ids, .fuses, .out]) (by decide)
  have hK1 := hL.mono (K' := [.pending, .wall, .free, .ids, .rwp, .wear, .nvm, .fuses, .out]) (by decide)
  unfold reportReady
  dsimp only
  have h : ∀ (t : State) a b c, ({ t with ready := a, run := b, lsInit := c } : State).mask L = t.mask L := by
    intro t a b c; simp only [State.mask, *, if_true]
  simp only [sendNotice_mask, setNdy_mask, *]
  rw [h]
  simp [*]

@[simp] theorem bootReady_mask {L : Piece → Bool} (s : State) (hL : Covers [.pending, .wall, .ids, .fuses] L) :
    (bootReady s).mask L = s.mask L := by
  have htick := hL.at (p := .tick) (by decide)
  have hcyc := hL.at (p := .cyc) (by decide)
  have hfree := hL.at (p := .free) (by decide)
  have hreg := hL.at (p := .reg) (by decide)
  have hmem := hL.at (p := .mem) (by decide)
  have herrs := hL.at (p := .errs) (by decide)
  have hskn := hL.at (p := .skn) (by decide)
  have hdst := hL.at (p := .dst) (by decide)
  have hgate := hL.at (p := .gate) (by decide)
  have hpend := hL.at (p := .pend) (by decide)
  have hrstBusy := hL.at (p := .rstBusy) (by decide)
  have hsleepReq := hL.at (p := .sleepReq) (by decide)
  have hasleep := hL.at (p := .asleep) (by decide)
  have hwakeAt := hL.at (p := .wakeAt) (by decide)
  have hrun := hL.at (p := .run) (by decide)
  have hspare := hL.at (p := .spare) (by decide)
  have hspareReq := hL.at (p := .spareReq) (by decide)
  have hready := hL.at (p := .ready) (by decide)
  have hbobs := hL.at (p := .bobs) (by decide)
  have hturns := hL.at (p := .turns) (by decide)
  have hfetchTurns := hL.at (p := .fetchTurns) (by decide)
  have hbarriers := hL.at (p := .barriers) (by decide)
  have hbarrierAt := hL.at (p := .barrierAt) (by decide)
  have hholds := hL.at (p := .holds) (by decide)
  have hepochs := hL.at (p := .epochs) (by decide)
  have hports := hL.at (p := .ports) (by decide)
  have hsched := hL.at (p := .sched) (by decide)
  have hreports := hL.at (p := .reports) (by decide)
  have hseqs := hL.at (p := .seqs) (by decide)
  have hrwp := hL.at (p := .rwp) (by decide)
  have hwear := hL.at (p := .wear) (by decide)
  have hretireWait := hL.at (p := .retireWait) (by decide)
  have hcause := hL.at (p := .cause) (by decide)
  have hpllLock := hL.at (p := .pllLock) (by decide)
  have hspread := hL.at (p := .spread) (by decide)
  have honRoot := hL.at (p := .onRoot) (by decide)
  have hclocksOn := hL.at (p := .clocksOn) (by decide)
  have hfmRun := hL.at (p := .fmRun) (by decide)
  have hfmDone := hL.at (p := .fmDone) (by decide)
  have hfmResult := hL.at (p := .fmResult) (by decide)
  have hdriftOdd := hL.at (p := .driftOdd) (by decide)
  have hmonLast := hL.at (p := .monLast) (by decide)
  have hfmt := hL.at (p := .fmt) (by decide)
  have hspn := hL.at (p := .spn) (by decide)
  have hfly := hL.at (p := .fly) (by decide)
  have hcurves := hL.at (p := .curves) (by decide)
  have hstruck := hL.at (p := .struck) (by decide)
  have himages := hL.at (p := .images) (by decide)
  have himgState := hL.at (p := .imgState) (by decide)
  have hloading := hL.at (p := .loading) (by decide)
  have hloadCtx := hL.at (p := .loadCtx) (by decide)
  have hloadResult := hL.at (p := .loadResult) (by decide)
  have hloadAddr := hL.at (p := .loadAddr) (by decide)
  have hplanCache := hL.at (p := .planCache) (by decide)
  have hlastRun := hL.at (p := .lastRun) (by decide)
  have hlastBucket := hL.at (p := .lastBucket) (by decide)
  have hctxs := hL.at (p := .ctxs) (by decide)
  have htrns := hL.at (p := .trns) (by decide)
  have hlsInit := hL.at (p := .lsInit) (by decide)
  have hqps := hL.at (p := .qps) (by decide)
  have hprts := hL.at (p := .prts) (by decide)
  have hqpResult := hL.at (p := .qpResult) (by decide)
  have hcrds := hL.at (p := .crds) (by decide)
  have hply := hL.at (p := .ply) (by decide)
  have hnvm := hL.at (p := .nvm) (by decide)
  have hndy := hL.at (p := .ndy) (by decide)
  have hwhl := hL.at (p := .whl) (by decide)
  have hpkg := hL.at (p := .pkg) (by decide)
  have hout := hL.at (p := .out) (by decide)
  have hK0 := hL.mono (K' := [.pending, .wall, .ids, .fuses, .out]) (by decide)
  have hK1 := hL.mono (K' := [.pending, .wall, .free, .ids, .rwp, .wear, .nvm, .fuses, .out]) (by decide)
  unfold bootReady; dsimp only; (repeat' split) <;> simp [*]

@[simp] theorem mgmtFrame_mask {L : Piece → Bool} (fec : Nat) (s : State) (hreg : L .reg = true) :
    (mgmtFrame fec s).mask L = s.mask L := by
  unfold mgmtFrame; simp [*]

@[simp] theorem mgmtSend_mask {L : Piece → Bool} (o : Out) (s : State) (hreg : L .reg = true) (hout : L .out = true) :
    (mgmtSend o s).mask L = s.mask L := by
  unfold mgmtSend; simp [*]

theorem mRegRefusal_mask {L : Piece → Bool} {f : List Byte} {s t : State} (h : mRegRefusal f s = some t) (hdst : L .dst = true)
    (hseqs : L .seqs = true) : t.mask L = s.mask L := by
  unfold mRegRefusal at h
  dsimp only at h
  split at h
  · cases h; simp [*]
  · split at h
    · cases h; simp [*]
    · cases h

@[simp] theorem mRegRead_mask {L : Piece → Bool} (f : List Byte) (s : State) (hreg : L .reg = true) (hdst : L .dst = true) (hseqs : L .seqs = true) :
    (mRegRead f s).2.mask L = s.mask L := by
  have h2 := accessReads_mask (L := L) .mgmt false (mLen f / 4) (mAddr f - regBase) s hreg hdst hseqs
  unfold mRegRead
  cases hq : mRegRefusal f s with
  | some t => exact mRegRefusal_mask hq hdst hseqs
  | none =>
    dsimp only
    generalize accessReads _ _ _ _ _ = r at h2 ⊢
    obtain ⟨v, u⟩ := r
    cases v <;> exact h2

@[simp] theorem mRegWrite_mask {L : Piece → Bool} (f : List Byte) (s : State) (hL : Covers [.pending, .wall, .ids] L) :
    (mRegWrite f s).2.mask L = s.mask L := by
  have htick := hL.at (p := .tick) (by decide)
  have hcyc := hL.at (p := .cyc) (by decide)
  have hfree := hL.at (p := .free) (by decide)
  have hreg := hL.at (p := .reg) (by decide)
  have hmem := hL.at (p := .mem) (by decide)
  have herrs := hL.at (p := .errs) (by decide)
  have hskn := hL.at (p := .skn) (by decide)
  have hdst := hL.at (p := .dst) (by decide)
  have hgate := hL.at (p := .gate) (by decide)
  have hpend := hL.at (p := .pend) (by decide)
  have hrstBusy := hL.at (p := .rstBusy) (by decide)
  have hsleepReq := hL.at (p := .sleepReq) (by decide)
  have hasleep := hL.at (p := .asleep) (by decide)
  have hwakeAt := hL.at (p := .wakeAt) (by decide)
  have hrun := hL.at (p := .run) (by decide)
  have hspare := hL.at (p := .spare) (by decide)
  have hspareReq := hL.at (p := .spareReq) (by decide)
  have hready := hL.at (p := .ready) (by decide)
  have hbobs := hL.at (p := .bobs) (by decide)
  have hturns := hL.at (p := .turns) (by decide)
  have hfetchTurns := hL.at (p := .fetchTurns) (by decide)
  have hbarriers := hL.at (p := .barriers) (by decide)
  have hbarrierAt := hL.at (p := .barrierAt) (by decide)
  have hholds := hL.at (p := .holds) (by decide)
  have hepochs := hL.at (p := .epochs) (by decide)
  have hports := hL.at (p := .ports) (by decide)
  have hsched := hL.at (p := .sched) (by decide)
  have hreports := hL.at (p := .reports) (by decide)
  have hseqs := hL.at (p := .seqs) (by decide)
  have hrwp := hL.at (p := .rwp) (by decide)
  have hwear := hL.at (p := .wear) (by decide)
  have hretireWait := hL.at (p := .retireWait) (by decide)
  have hcause := hL.at (p := .cause) (by decide)
  have hpllLock := hL.at (p := .pllLock) (by decide)
  have hspread := hL.at (p := .spread) (by decide)
  have honRoot := hL.at (p := .onRoot) (by decide)
  have hclocksOn := hL.at (p := .clocksOn) (by decide)
  have hfmRun := hL.at (p := .fmRun) (by decide)
  have hfmDone := hL.at (p := .fmDone) (by decide)
  have hfmResult := hL.at (p := .fmResult) (by decide)
  have hdriftOdd := hL.at (p := .driftOdd) (by decide)
  have hmonLast := hL.at (p := .monLast) (by decide)
  have hfmt := hL.at (p := .fmt) (by decide)
  have hspn := hL.at (p := .spn) (by decide)
  have hfly := hL.at (p := .fly) (by decide)
  have hcurves := hL.at (p := .curves) (by decide)
  have hstruck := hL.at (p := .struck) (by decide)
  have himages := hL.at (p := .images) (by decide)
  have himgState := hL.at (p := .imgState) (by decide)
  have hloading := hL.at (p := .loading) (by decide)
  have hloadCtx := hL.at (p := .loadCtx) (by decide)
  have hloadResult := hL.at (p := .loadResult) (by decide)
  have hloadAddr := hL.at (p := .loadAddr) (by decide)
  have hplanCache := hL.at (p := .planCache) (by decide)
  have hlastRun := hL.at (p := .lastRun) (by decide)
  have hlastBucket := hL.at (p := .lastBucket) (by decide)
  have hctxs := hL.at (p := .ctxs) (by decide)
  have htrns := hL.at (p := .trns) (by decide)
  have hlsInit := hL.at (p := .lsInit) (by decide)
  have hqps := hL.at (p := .qps) (by decide)
  have hprts := hL.at (p := .prts) (by decide)
  have hqpResult := hL.at (p := .qpResult) (by decide)
  have hcrds := hL.at (p := .crds) (by decide)
  have hply := hL.at (p := .ply) (by decide)
  have hnvm := hL.at (p := .nvm) (by decide)
  have hndy := hL.at (p := .ndy) (by decide)
  have hfuses := hL.at (p := .fuses) (by decide)
  have hwhl := hL.at (p := .whl) (by decide)
  have hpkg := hL.at (p := .pkg) (by decide)
  have hout := hL.at (p := .out) (by decide)
  have hK0 := hL.mono (K' := [.pending, .wall, .ids, .rwp, .wear, .nvm, .fuses]) (by decide)
  have hK1 := hL.mono (K' := [.pending, .wall, .free, .ids, .rwp, .wear, .nvm, .fuses, .out]) (by decide)
  have h2 := accessWrites_mask (L := L) .mgmt (mAddr f - regBase) (mWords (mData f)) s (by first | exact hL | assumption | exact hL.mono (by decide))
  unfold mRegWrite
  split
  · rfl
  · cases hq : mRegRefusal f s with
    | some t =>
      exact mRegRefusal_mask hq hdst hseqs
    | none =>
      dsimp only
      generalize accessWrites _ _ _ _ = x at h2 ⊢
      obtain ⟨b, u⟩ := x
      cases b <;> exact h2

@[simp] theorem mTelemRead_mask {L : Piece → Bool} (f : List Byte) (s : State)  :
    (mTelemRead f s).2.mask L = s.mask L := by
  unfold mTelemRead; simp [*]

@[simp] theorem mNvmRead_mask {L : Piece → Bool} (f : List Byte) (s : State)  :
    (mNvmRead f s).2.mask L = s.mask L := by
  simp only [mNvmRead]; (repeat' split) <;> simp [*]

@[simp] theorem mNvmErase_mask {L : Piece → Bool} (f : List Byte) (s : State) (hnvm : L .nvm = true) :
    (mNvmErase f s).2.mask L = s.mask L := by
  simp only [mNvmErase]; (repeat' split) <;> simp [*]

@[simp] theorem nvmProgramBytes_mask {L : Piece → Bool} (a : Nat) (x0 : List Byte) (s : State) (hfree : L .free = true) (hnvm : L .nvm = true) :
    (nvmProgramBytes a x0 s).mask L = s.mask L := by
  induction x0 generalizing s a with
  | nil => rfl
  | cons b r ih =>
    unfold nvmProgramBytes
    dsimp only
    rw [ih]
    simp only [State.mask, *, if_true]

@[simp] theorem mNvmProgram_mask {L : Piece → Bool} (f : List Byte) (s : State) (hfree : L .free = true) (hnvm : L .nvm = true) :
    (mNvmProgram f s).2.mask L = s.mask L := by
  simp only [mNvmProgram]; (repeat' split) <;> simp [*]

@[simp] theorem copyTelem_mask {L : Piece → Bool} (i : Nat) (s : State) (hreg : L .reg = true) (hdst : L .dst = true) (hseqs : L .seqs = true) (hndy : L .ndy = true) :
    (copyTelem i s).mask L = s.mask L := by
  unfold copyTelem
  split
  · next h => have := congrArg (fun p => p.2.mask L) h; simp [*, -h] at this; simp [*]
  · next h => have := congrArg (fun p => p.2.mask L) h; simp [*, -h] at this; exact this.symm

@[simp] theorem telemetryDuty_mask {L : Piece → Bool} (s : State) (hreg : L .reg = true) (hdst : L .dst = true) (hseqs : L .seqs = true) (hndy : L .ndy = true) :
    (telemetryDuty s).mask L = s.mask L := by
  unfold telemetryDuty; simp [*]

@[simp] theorem dayDuty_mask {L : Piece → Bool} (s : State) (hfree : L .free = true) (hdst : L .dst = true) (hseqs : L .seqs = true) (hrwp : L .rwp = true) (hwear : L .wear = true) (hnvm : L .nvm = true) (hndy : L .ndy = true) :
    (dayDuty s).mask L = s.mask L := by
  unfold dayDuty; simp [*]

@[simp] theorem dueDuties_mask {L : Piece → Bool} (s : State) (hfree : L .free = true) (hreg : L .reg = true) (hdst : L .dst = true) (hseqs : L .seqs = true) (hrwp : L .rwp = true) (hwear : L .wear = true) (hnvm : L .nvm = true) (hndy : L .ndy = true) :
    (dueDuties s).mask L = s.mask L := by
  unfold dueDuties; simp [*]

@[simp] theorem serve_mask {L : Piece → Bool} (m : MgmtIn) (act : List Byte → State → MAns × State) (s0 : State) (hfree : L .free = true) (hreg : L .reg = true) (hdst : L .dst = true) (hseqs : L .seqs = true) (hrwp : L .rwp = true) (hwear : L .wear = true) (hnvm : L .nvm = true) (hndy : L .ndy = true) (hout : L .out = true) (hf : ∀ l s, (act l s).2.mask L = s.mask L) :
    (serve m act s0).mask L = s0.mask L := by
  unfold serve
  split
  · rfl
  · dsimp only
    generalize List.find? _ _ = x
    cases x with
    | some e => simp [*]
    | none =>
      have h : (if mFrameOk m.frame then act m.frame (mgmtFrame m.fec (dueDuties s0)) else ((.badFrame, []), mgmtFrame m.fec (dueDuties s0))).2.mask L = s0.mask L := by
        split <;> simp [*]
      generalize (if mFrameOk m.frame then act m.frame (mgmtFrame m.fec (dueDuties s0)) else ((MStatus.badFrame, []), mgmtFrame m.fec (dueDuties s0))) = r at h ⊢
      obtain ⟨a, t⟩ := r
      dsimp only at h ⊢
      split <;> simp [*]

@[simp] theorem mOther_mask {L : Piece → Bool} (f : List Byte) (s : State) (hreg : L .reg = true) (hdst : L .dst = true) (hseqs : L .seqs = true) :
    (mOther f s).2.mask L = s.mask L := by
  simp only [mOther]; (repeat' split) <;> simp [*]

@[simp] theorem useFree_mask {L : Piece → Bool} (n : Nat) (s : State) (hfree : L .free = true) :
    (useFree n s).mask L = s.mask L := by
  unfold useFree; simp [*]

@[simp] theorem challenge_mask {L : Piece → Bool} (slot : Nat) (nonce : List Byte) (s : State) (hfree : L .free = true) :
    (challenge slot nonce s).2.mask L = s.mask L := by
  simp only [challenge]; (repeat' split) <;> simp [*]

@[simp] theorem measurements_mask {L : Piece → Bool} (i : Nat) (sign : Bool) (nonce : List Byte) (s : State) (hfree : L .free = true) (hndy : L .ndy = true) :
    (measurements i sign nonce s).2.mask L = s.mask L := by
  simp only [measurements]; (repeat' split) <;> simp [*]

@[simp] theorem chunkOf_mask {L : Piece → Bool} (handle : Byte) (c : Nat) (s : State) (hndy : L .ndy = true) :
    (chunkOf handle c s).2.mask L = s.mask L := by
  simp only [chunkOf]; (repeat' split) <;> simp [*]

@[simp] theorem vendorRequest_mask {L : Piece → Bool} (standard : BitVec 16) (vid : Word) (payload : List Byte) (s : State) (hfree : L .free = true) (hndy : L .ndy = true) :
    (vendorRequest standard vid payload s).2.mask L = s.mask L := by
  simp only [vendorRequest]; (repeat' split) <;> simp [*]

@[simp] theorem dexStray_mask {L : Piece → Bool} (p : Nat) (l : List Byte) (s : State) (hreg : L .reg = true) (hdst : L .dst = true) (hseqs : L .seqs = true) :
    (dexStray p l s).mask L = s.mask L := by
  unfold dexStray; simp [*]

@[simp] theorem answer_mask {L : Piece → Bool} (n : Nat) (o : Pkt) (s : State) (hreg : L .reg = true) (hprts : L .prts = true) (hout : L .out = true) :
    (answer n o s).mask L = s.mask L := by
  unfold answer; simp [*]

@[simp] theorem expectPsn_mask {L : Piece → Bool} (n k : Nat) (s : State) (hreg : L .reg = true) (hmem : L .mem = true) (herrs : L .errs = true) (hskn : L .skn = true) (hdst : L .dst = true) (hseqs : L .seqs = true) (hqps : L .qps = true) :
    (expectPsn n k s).mask L = s.mask L := by
  unfold expectPsn; simp [*]

@[simp] theorem barrierFor_mask {L : Piece → Bool} (l : List Byte) (g : Option (Nat × Grp)) (s : State) (hbarriers : L .barriers = true) (hbarrierAt : L .barrierAt = true) :
    (barrierFor l g s).1.mask L = s.mask L := by
  simp only [barrierFor]; (repeat' split) <;> simp [*]

@[simp] theorem barrierIn_mask {L : Piece → Bool} (l : List Byte) (s : State) (hbarriers : L .barriers = true) (hbarrierAt : L .barrierAt = true) :
    (barrierIn l s).1.mask L = s.mask L := by
  have h : ∀ g, (barrierFor l g s).1.mask L = s.mask L := by
    intro g
    unfold barrierFor
    split
    · split <;> simp [*]
    · rfl
  exact h _

@[simp] theorem replayHoldFor_mask {L : Piece → Bool} (l : List Byte) (g : Option (Nat × Grp)) (s : State) (hreg : L .reg = true) (hmem : L .mem = true) (herrs : L .errs = true) (hskn : L .skn = true) (hdst : L .dst = true) (hseqs : L .seqs = true) (htrns : L .trns = true) (hqps : L .qps = true) (hout : L .out = true) :
    (replayHoldFor l g s).1.mask L = s.mask L := by
  simp only [replayHoldFor]; (repeat' split) <;> simp [*]

@[simp] theorem replayHoldIn_mask {L : Piece → Bool} (l : List Byte) (s : State) (hreg : L .reg = true) (hmem : L .mem = true) (herrs : L .errs = true) (hskn : L .skn = true) (hdst : L .dst = true) (hseqs : L .seqs = true) (htrns : L .trns = true) (hqps : L .qps = true) (hout : L .out = true) :
    (replayHoldIn l s).1.mask L = s.mask L := by
  have h : ∀ g, (replayHoldFor l g s).1.mask L = s.mask L := by
    intro g
    unfold replayHoldFor
    split
    · split <;> simp [*]
    · rfl
  exact h _

@[simp] theorem echoAnswer_mask {L : Piece → Bool} (m : SendIn) (s : State) (hreg : L .reg = true) (hmem : L .mem = true) (herrs : L .errs = true) (hskn : L .skn = true) (hdst : L .dst = true) (hseqs : L .seqs = true) (hqps : L .qps = true) (hprts : L .prts = true) (hout : L .out = true) :
    (echoAnswer m s).mask L = s.mask L := by
  unfold echoAnswer; simp [*]

@[simp] theorem handOver_mask {L : Piece → Bool} (m : SendIn) (s : State) (hreg : L .reg = true) (hmem : L .mem = true) (herrs : L .errs = true) (hskn : L .skn = true) (hdst : L .dst = true) (hbarriers : L .barriers = true) (hbarrierAt : L .barrierAt = true) (hreports : L .reports = true) (hseqs : L .seqs = true) (htrns : L .trns = true) (hqps : L .qps = true) (hprts : L .prts = true) (hply : L .ply = true) (hout : L .out = true) :
    (handOver m s).1.mask L = s.mask L := by
  have h1 : ∀ p l (r : State × Bool), r.1.mask L = s.mask L → (orStray p l r).1.mask L = s.mask L := by
    intro p l r hr
    unfold orStray
    split <;> simp [*]
  unfold handOver
  dsimp only
  repeat' split
  all_goals first | (simp [*]; done) | (refine h1 _ _ _ ?_; simp [*])

@[simp] theorem brokenIn_mask {L : Piece → Bool} (p : Nat) (l : List Byte) (s : State) (hreg : L .reg = true) (hmem : L .mem = true) (herrs : L .errs = true) (hskn : L .skn = true) (hdst : L .dst = true) (hreports : L .reports = true) (hseqs : L .seqs = true) (htrns : L .trns = true) (hqps : L .qps = true) (hply : L .ply = true) (hout : L .out = true) :
    (brokenIn p l s).mask L = s.mask L := by
  unfold brokenIn; simp [*]

@[simp] theorem sendRc_mask {L : Piece → Bool} (m : SendIn) (k : Nat) (s : State) (hreg : L .reg = true) (hmem : L .mem = true) (herrs : L .errs = true) (hskn : L .skn = true) (hdst : L .dst = true) (hbarriers : L .barriers = true) (hbarrierAt : L .barrierAt = true) (hreports : L .reports = true) (hseqs : L .seqs = true) (htrns : L .trns = true) (hqps : L .qps = true) (hprts : L .prts = true) (hply : L .ply = true) (hout : L .out = true) :
    (sendRc m k s).mask L = s.mask L := by
  simp only [sendRc]; (repeat' split) <;> simp [*]

@[simp] theorem sendUd_mask {L : Piece → Bool} (m : SendIn) (s : State) (hreg : L .reg = true) (hmem : L .mem = true) (herrs : L .errs = true) (hskn : L .skn = true) (hdst : L .dst = true) (hbarriers : L .barriers = true) (hbarrierAt : L .barrierAt = true) (hreports : L .reports = true) (hseqs : L .seqs = true) (htrns : L .trns = true) (hqps : L .qps = true) (hprts : L .prts = true) (hply : L .ply = true) (hout : L .out = true) :
    (sendUd m s).mask L = s.mask L := by
  unfold sendUd; simp [*]

@[simp] theorem arriveSend_mask {L : Piece → Bool} (m : SendIn) (s : State) (hreg : L .reg = true) (hmem : L .mem = true) (herrs : L .errs = true) (hskn : L .skn = true) (hdst : L .dst = true) (hbarriers : L .barriers = true) (hbarrierAt : L .barrierAt = true) (hreports : L .reports = true) (hseqs : L .seqs = true) (htrns : L .trns = true) (hqps : L .qps = true) (hprts : L .prts = true) (hply : L .ply = true) (hout : L .out = true) :
    (arriveSend m s).mask L = s.mask L := by
  unfold arriveSend
  dsimp only
  split
  · generalize (if (s.qp m.qpn.toNat).ud then m.udSource else (s.qp m.qpn.toNat).destQpn) = src
    have h := ingressFrom_mask (L := L) m.qpn.toNat (packetsOf (s.qp m.qpn.toNat) m.bytes.length) src m.ing s (by assumption) (by assumption) (by assumption) (by assumption) (by assumption) (by assumption) (by assumption) (by assumption) (by assumption)
    generalize ingressFrom _ _ _ _ _ = r at h ⊢
    obtain ⟨t, b⟩ := r
    cases b
    · exact h
    · dsimp only at h ⊢
      split <;> simp [*]
  · rfl

end Sys2Proof.Machine
end

