-- ==== Sys2Proof/Laws/FrameRows.lean ====
section
/-! SUPPORT. What each operation leaves unchanged: experts, windows, the package, host requests and the tick. -/

namespace Sys2Proof.Machine

@[simp] theorem setRoute_mask {L : Piece → Bool} (id : Nat) (rs : List (Nat × Bool)) (s : State) (hreports : L .reports = true) :
    (setRoute id rs s).mask L = s.mask L := by
  unfold setRoute; simp [*]

theorem selectOne_mask {L : Piece → Bool} (s0 : State) (k : Nat) (look : Bool) (r : Route) (d : Desc) (ctx : Nat) (step : Word)
    (p i : Nat) (a : SelAcc) (hreg : L .reg = true) (hmem : L .mem = true) (herrs : L .errs = true) (hskn : L .skn = true) (hdst : L .dst = true) (hseqs : L .seqs = true) (hqps : L .qps = true) (hcrds : L .crds = true) (hout : L .out = true) :
    (selectOne s0 k look r d ctx step p i a).s.mask L = a.s.mask L := by
  unfold selectOne
  dsimp only
  split <;> simp [*]

theorem selectAll_mask {L : Piece → Bool} (i : Issued) (o : ExpOpds) (s : State) (hreg : L .reg = true) (hmem : L .mem = true) (herrs : L .errs = true) (hskn : L .skn = true) (hdst : L .dst = true) (hseqs : L .seqs = true) (hqps : L .qps = true) (hcrds : L .crds = true) (hout : L .out = true) :
    (selectAll i o s).s.mask L = s.mask L := by
  have hr : ∀ (k : Nat) (look : Bool) (r : Route) (d : Desc) (ctx : Nat) (step : Word) (p : Nat) (l : List Nat) (a : SelAcc),
      (l.foldl (fun a j => selectOne s k look r d ctx step p j a) a).s.mask L = a.s.mask L := by
    intro k look r d ctx step p l
    induction l with
    | nil => intros; rfl
    | cons j l ih =>
      intro a
      rw [List.foldl_cons, ih]
      apply selectOne_mask <;> assumption
  unfold selectAll
  exact hr ..

@[simp] theorem selectCounted_mask {L : Piece → Bool} (i : Issued) (o : ExpOpds) (s : State) (hfree : L .free = true) (hreg : L .reg = true) (hmem : L .mem = true) (herrs : L .errs = true) (hskn : L .skn = true) (hdst : L .dst = true) (hseqs : L .seqs = true) (hqps : L .qps = true) (hcrds : L .crds = true) (hout : L .out = true) :
    (selectCounted i o s).mask L = s.mask L := by
  unfold selectCounted
  simp [selectAll_mask, *]

@[simp] theorem selectRun_mask {L : Piece → Bool} (i : Issued) (o : ExpOpds) (s : State) (hfree : L .free = true) (hreg : L .reg = true) (hmem : L .mem = true) (herrs : L .errs = true) (hskn : L .skn = true) (hdst : L .dst = true) (hreports : L .reports = true) (hseqs : L .seqs = true) (htrns : L .trns = true) (hqps : L .qps = true) (hcrds : L .crds = true) (hout : L .out = true) :
    (selectRun i o s).mask L = s.mask L := by
  unfold selectRun
  simp [*]

@[simp] theorem fanoutRun_mask {L : Piece → Bool} (i : Issued) (o : ExpOpds) (s : State) (hfree : L .free = true) (hreg : L .reg = true) (hmem : L .mem = true) (herrs : L .errs = true) (hskn : L .skn = true) (hdst : L .dst = true) (hreports : L .reports = true) (hseqs : L .seqs = true) (hcrds : L .crds = true) :
    (fanoutRun i o s).mask L = s.mask L := by
  unfold fanoutRun; simp [*]

@[simp] theorem dispatchRun_mask {L : Piece → Bool} (i : Issued) (o : ExpOpds) (s : State) (hfree : L .free = true) (hreg : L .reg = true) (hmem : L .mem = true) (herrs : L .errs = true) (hskn : L .skn = true) (hdst : L .dst = true) (hreports : L .reports = true) (hseqs : L .seqs = true) (hcrds : L .crds = true) :
    (dispatchRun i o s).mask L = s.mask L := by
  unfold dispatchRun; simp [*]

@[simp] theorem combineRun_mask {L : Piece → Bool} (i : Issued) (o : ExpOpds) (s : State) (hfree : L .free = true) (hreg : L .reg = true) (hmem : L .mem = true) (herrs : L .errs = true) (hskn : L .skn = true) (hdst : L .dst = true) (hreports : L .reports = true) (hseqs : L .seqs = true) (hcrds : L .crds = true) :
    (combineRun i o s).mask L = s.mask L := by
  unfold combineRun; simp [*]

@[simp] theorem assignLookups_mask {L : Piece → Bool} (i : Issued) (r : Route) (p k : Nat) (s : State) (hreg : L .reg = true) (hmem : L .mem = true) (herrs : L .errs = true) (hskn : L .skn = true) (hdst : L .dst = true) (hseqs : L .seqs = true) (hqps : L .qps = true) (hcrds : L .crds = true) (hout : L .out = true) :
    (assignLookups i r p k s).1.mask L = s.mask L := by
  unfold assignLookups
  dsimp only
  refine mask_foldl_fst (a := (s, (({} : Eff), ([] : List ((Nat × Nat × Nat × Bool) × Bool))))) (fun acc j => ?_) _
  split
  · split <;> simp [*]
  · rfl

@[simp] theorem assignRun_mask {L : Piece → Bool} (i : Issued) (o : ExpOpds) (s : State) (hreg : L .reg = true) (hmem : L .mem = true) (herrs : L .errs = true) (hskn : L .skn = true) (hdst : L .dst = true) (hreports : L .reports = true) (hseqs : L .seqs = true) (hqps : L .qps = true) (hcrds : L .crds = true) (hout : L .out = true) :
    (assignRun i o s).mask L = s.mask L := by
  unfold assignRun; simp [*]

@[simp] theorem prefetchRun_mask {L : Piece → Bool} (i : Issued) (o : ExpOpds) (s : State) (hreg : L .reg = true) (hmem : L .mem = true) (herrs : L .errs = true) (hskn : L .skn = true) (hdst : L .dst = true) (hreports : L .reports = true) (hseqs : L .seqs = true) (hqps : L .qps = true) (hcrds : L .crds = true) (hout : L .out = true) :
    (prefetchRun i o s).mask L = s.mask L := by
  unfold prefetchRun
  dsimp only
  simp [*]
  refine mask_foldl_fst (a := (s, _)) (fun acc x => ?_) _
  repeat' split
  all_goals simp [*]

@[simp] theorem doorbellWrite_mask {L : Piece → Bool} (o : Origin) (a : Nat) (v : Word) (s : State) (hreg : L .reg = true) (hmem : L .mem = true) (herrs : L .errs = true) (hskn : L .skn = true) (hdst : L .dst = true) (hbobs : L .bobs = true) (hseqs : L .seqs = true) :
    (doorbellWrite o a v s).2.mask L = s.mask L := by
  have h1 : ∀ r : WrRes, (r.over s).mask L = s.mask L → (endDoorbell o a s r).2.mask L = s.mask L := by
    intro r hr
    unfold endDoorbell
    cases r <;> simp_all
  unfold doorbellWrite
  split
  · simp [*]
  · exact h1 _ (by simp [*])

@[simp] theorem doorbellRead_mask {L : Piece → Bool} (o : Origin) (a : Nat) (s : State) (hdst : L .dst = true) (hseqs : L .seqs = true) :
    (doorbellRead o a s).2.mask L = s.mask L := by
  simp only [doorbellRead]; (repeat' split) <;> simp [*]

@[simp] theorem doorbellWrites_mask {L : Piece → Bool} (o : Origin) (a : Nat) (x0 : List Word) (s : State) (hreg : L .reg = true) (hmem : L .mem = true) (herrs : L .errs = true) (hskn : L .skn = true) (hdst : L .dst = true) (hbobs : L .bobs = true) (hseqs : L .seqs = true) :
    (doorbellWrites o a x0 s).2.mask L = s.mask L := by
  induction x0 generalizing s a with
  | nil => rfl
  | cons v r ih =>
    unfold doorbellWrites
    have h1 := doorbellWrite_mask (L := L) o a v s hreg hmem herrs hskn hdst hbobs hseqs
    generalize doorbellWrite _ _ _ _ = q at h1 ⊢
    obtain ⟨b, t⟩ := q
    cases b
    · exact h1
    · exact (ih _ t).trans h1

@[simp] theorem doorbellReads_mask {L : Piece → Bool} (o : Origin) (x0 : Nat) (x1 : Nat) (s : State) (hdst : L .dst = true) (hseqs : L .seqs = true) :
    (doorbellReads o x0 x1 s).2.mask L = s.mask L := by
  induction x0 generalizing s x1 with
  | zero => rfl
  | succ n ih =>
    unfold doorbellReads
    have h1 := doorbellRead_mask (L := L) o x1 s hdst hseqs
    generalize doorbellRead _ _ _ = r at h1 ⊢
    obtain ⟨v, t⟩ := r
    cases v with
    | none => exact h1
    | some w =>
      dsimp only
      have h2 := ih (x1 + 4) t
      generalize doorbellReads _ _ _ _ = r at h2 ⊢
      obtain ⟨v, u⟩ := r
      cases v <;> exact h2.trans h1

@[simp] theorem wordWrite_mask {L : Piece → Bool} (o : Origin) (a : Nat) (v : Word) (nvmErr : Bool) (s : State) (hL : Covers [.pending, .wall, .ids] L) :
    (wordWrite o a v nvmErr s).mask L = s.mask L := by
  have htick := hL.at (p := .tick) (by decide)
  have hcyc := hL.at (p := .cyc) (by decide)
  have hfree := hL.at (p := .free) (by decide)
  have hreg := hL.at (p := .reg) (by decide)
  have hmem := hL.at (p := .mem) (by decide)
  have herrs := hL.at (p := .errs) (by decide)
  have hskn := hL.at (p := .skn) (by decide)
  have hdst := hL.at (p := .dst) (by decide)
  have hgate := hL.at (p := .gate) (by decide)
  have hpend := hL.at (p := .pend) (by decide)
  have hrstBusy := hL.at (p := .rstBusy) (by decide)
  have hsleepReq := hL.at (p := .sleepReq) (by decide)
  have hasleep := hL.at (p := .asleep) (by decide)
  have hwakeAt := hL.at (p := .wakeAt) (by decide)
  have hrun := hL.at (p := .run) (by decide)
  have hspare := hL.at (p := .spare) (by decide)
  have hspareReq := hL.at (p := .spareReq) (by decide)
  have hready := hL.at (p := .ready) (by decide)
  have hbobs := hL.at (p := .bobs) (by decide)
  have hturns := hL.at (p := .turns) (by decide)
  have hfetchTurns := hL.at (p := .fetchTurns) (by decide)
  have hbarriers := hL.at (p := .barriers) (by decide)
  have hbarrierAt := hL.at (p := .barrierAt) (by decide)
  have hholds := hL.at (p := .holds) (by decide)
  have hepochs := hL.at (p := .epochs) (by decide)
  have hports := hL.at (p := .ports) (by decide)
  have hsched := hL.at (p := .sched) (by decide)
  have hreports := hL.at (p := .reports) (by decide)
  have hseqs := hL.at (p := .seqs) (by decide)
  have hrwp := hL.at (p := .rwp) (by decide)
  have hwear := hL.at (p := .wear) (by decide)
  have hretireWait := hL.at (p := .retireWait) (by decide)
  have hcause := hL.at (p := .cause) (by decide)
  have hpllLock := hL.at (p := .pllLock) (by decide)
  have hspread := hL.at (p := .spread) (by decide)
  have honRoot := hL.at (p := .onRoot) (by decide)
  have hclocksOn := hL.at (p := .clocksOn) (by decide)
  have hfmRun := hL.at (p := .fmRun) (by decide)
  have hfmDone := hL.at (p := .fmDone) (by decide)
  have hfmResult := hL.at (p := .fmResult) (by decide)
  have hdriftOdd := hL.at (p := .driftOdd) (by decide)
  have hmonLast := hL.at (p := .monLast) (by decide)
  have hfmt := hL.at (p := .fmt) (by decide)
  have hspn := hL.at (p := .spn) (by decide)
  have hfly := hL.at (p := .fly) (by decide)
  have hcurves := hL.at (p := .curves) (by decide)
  have hstruck := hL.at (p := .struck) (by decide)
  have himages := hL.at (p := .images) (by decide)
  have himgState := hL.at (p := .imgState) (by decide)
  have hloading := hL.at (p := .loading) (by decide)
  have hloadCtx := hL.at (p := .loadCtx) (by decide)
  have hloadResult := hL.at (p := .loadResult) (by decide)
  have hloadAddr := hL.at (p := .loadAddr) (by decide)
  have hplanCache := hL.at (p := .planCache) (by decide)
  have hlastRun := hL.at (p := .lastRun) (by decide)
  have hlastBucket := hL.at (p := .lastBucket) (by decide)
  have hctxs := hL.at (p := .ctxs) (by decide)
  have htrns := hL.at (p := .trns) (by decide)
  have hlsInit := hL.at (p := .lsInit) (by decide)
  have hqps := hL.at (p := .qps) (by decide)
  have hprts := hL.at (p := .prts) (by decide)
  have hqpResult := hL.at (p := .qpResult) (by decide)
  have hcrds := hL.at (p := .crds) (by decide)
  have hply := hL.at (p := .ply) (by decide)
  have hnvm := hL.at (p := .nvm) (by decide)
  have hndy := hL.at (p := .ndy) (by decide)
  have hfuses := hL.at (p := .fuses) (by decide)
  have hwhl := hL.at (p := .whl) (by decide)
  have hpkg := hL.at (p := .pkg) (by decide)
  have hout := hL.at (p := .out) (by decide)
  have hK0 := hL.mono (K' := [.pending, .wall, .free, .ids, .rwp, .wear, .nvm, .fuses, .out]) (by decide)
  have hK1 := hL.mono (K' := [.pending, .wall, .ids, .rwp, .wear, .nvm, .fuses]) (by decide)
  simp only [wordWrite]; (repeat' split) <;> simp [*]

@[simp] theorem sramRead_mask {L : Piece → Bool} (o : Origin) (a n : Nat) (s : State) (hdst : L .dst = true) (hseqs : L .seqs = true) :
    (sramRead o a n s).2.mask L = s.mask L := by
  simp only [sramRead]; (repeat' split) <;> simp [*]

@[simp] theorem hostDoorbell_mask {L : Piece → Bool} (b : Bobbin) (off : Nat) (v : Word) (s : State) (hreg : L .reg = true) (hmem : L .mem = true) (herrs : L .errs = true) (hskn : L .skn = true) (hdst : L .dst = true) (hbobs : L .bobs = true) (hseqs : L .seqs = true) :
    (hostDoorbell b off v s).mask L = s.mask L := by
  unfold hostDoorbell; simp [*]

@[simp] theorem hostBob_mask {L : Piece → Bool} (off : Nat) (v : Word) (s : State) (hL : Covers [.pending, .wall, .ids] L) :
    (hostBob off v s).mask L = s.mask L := by
  have htick := hL.at (p := .tick) (by decide)
  have hcyc := hL.at (p := .cyc) (by decide)
  have hfree := hL.at (p := .free) (by decide)
  have hreg := hL.at (p := .reg) (by decide)
  have hmem := hL.at (p := .mem) (by decide)
  have herrs := hL.at (p := .errs) (by decide)
  have hskn := hL.at (p := .skn) (by decide)
  have hdst := hL.at (p := .dst) (by decide)
  have hgate := hL.at (p := .gate) (by decide)
  have hpend := hL.at (p := .pend) (by decide)
  have hrstBusy := hL.at (p := .rstBusy) (by decide)
  have hsleepReq := hL.at (p := .sleepReq) (by decide)
  have hasleep := hL.at (p := .asleep) (by decide)
  have hwakeAt := hL.at (p := .wakeAt) (by decide)
  have hrun := hL.at (p := .run) (by decide)
  have hspare := hL.at (p := .spare) (by decide)
  have hspareReq := hL.at (p := .spareReq) (by decide)
  have hready := hL.at (p := .ready) (by decide)
  have hbobs := hL.at (p := .bobs) (by decide)
  have hturns := hL.at (p := .turns) (by decide)
  have hfetchTurns := hL.at (p := .fetchTurns) (by decide)
  have hbarriers := hL.at (p := .barriers) (by decide)
  have hbarrierAt := hL.at (p := .barrierAt) (by decide)
  have hholds := hL.at (p := .holds) (by decide)
  have hepochs := hL.at (p := .epochs) (by decide)
  have hports := hL.at (p := .ports) (by decide)
  have hsched := hL.at (p := .sched) (by decide)
  have hreports := hL.at (p := .reports) (by decide)
  have hseqs := hL.at (p := .seqs) (by decide)
  have hrwp := hL.at (p := .rwp) (by decide)
  have hwear := hL.at (p := .wear) (by decide)
  have hretireWait := hL.at (p := .retireWait) (by decide)
  have hcause := hL.at (p := .cause) (by decide)
  have hpllLock := hL.at (p := .pllLock) (by decide)
  have hspread := hL.at (p := .spread) (by decide)
  have honRoot := hL.at (p := .onRoot) (by decide)
  have hclocksOn := hL.at (p := .clocksOn) (by decide)
  have hfmRun := hL.at (p := .fmRun) (by decide)
  have hfmDone := hL.at (p := .fmDone) (by decide)
  have hfmResult := hL.at (p := .fmResult) (by decide)
  have hdriftOdd := hL.at (p := .driftOdd) (by decide)
  have hmonLast := hL.at (p := .monLast) (by decide)
  have hfmt := hL.at (p := .fmt) (by decide)
  have hspn := hL.at (p := .spn) (by decide)
  have hfly := hL.at (p := .fly) (by decide)
  have hcurves := hL.at (p := .curves) (by decide)
  have hstruck := hL.at (p := .struck) (by decide)
  have himages := hL.at (p := .images) (by decide)
  have himgState := hL.at (p := .imgState) (by decide)
  have hloading := hL.at (p := .loading) (by decide)
  have hloadCtx := hL.at (p := .loadCtx) (by decide)
  have hloadResult := hL.at (p := .loadResult) (by decide)
  have hloadAddr := hL.at (p := .loadAddr) (by decide)
  have hplanCache := hL.at (p := .planCache) (by decide)
  have hlastRun := hL.at (p := .lastRun) (by decide)
  have hlastBucket := hL.at (p := .lastBucket) (by decide)
  have hctxs := hL.at (p := .ctxs) (by decide)
  have htrns := hL.at (p := .trns) (by decide)
  have hlsInit := hL.at (p := .lsInit) (by decide)
  have hqps := hL.at (p := .qps) (by decide)
  have hprts := hL.at (p := .prts) (by decide)
  have hqpResult := hL.at (p := .qpResult) (by decide)
  have hcrds := hL.at (p := .crds) (by decide)
  have hply := hL.at (p := .ply) (by decide)
  have hnvm := hL.at (p := .nvm) (by decide)
  have hndy := hL.at (p := .ndy) (by decide)
  have hfuses := hL.at (p := .fuses) (by decide)
  have hwhl := hL.at (p := .whl) (by decide)
  have hpkg := hL.at (p := .pkg) (by decide)
  have hout := hL.at (p := .out) (by decide)
  have hK0 := hL.mono (K' := [.pending, .wall, .free, .ids, .rwp, .wear, .nvm, .fuses, .out]) (by decide)
  have hK1 := hL.mono (K' := [.pending, .wall, .ids, .rwp, .wear, .nvm, .fuses]) (by decide)
  unfold hostBob; simp [*]

@[simp] theorem setPkg_mask {L : Piece → Bool} (f : Pkg → Pkg) (s : State) (hpkg : L .pkg = true) :
    (setPkg f s).mask L = s.mask L := by
  unfold setPkg; simp [*]

@[simp] theorem setPower_mask {L : Piece → Bool} (p : Power) (s : State) (hpkg : L .pkg = true) (hout : L .out = true) :
    (setPower p s).mask L = s.mask L := by
  unfold setPower; simp [*]

@[simp] theorem keepSample_mask {L : Piece → Bool} (m : Sample) (s : State) (hwhl : L .whl = true) :
    (keepSample m s).mask L = s.mask L := by
  unfold keepSample; simp [*]

@[simp] theorem thermalTrip_mask {L : Piece → Bool} (s : State) (hL : Covers [.pending, .wall, .free, .ids, .rwp, .wear, .nvm, .fuses] L) :
    (thermalTrip s).mask L = s.mask L := by
  have htick := hL.at (p := .tick) (by decide)
  have hcyc := hL.at (p := .cyc) (by decide)
  have hreg := hL.at (p := .reg) (by decide)
  have hmem := hL.at (p := .mem) (by decide)
  have herrs := hL.at (p := .errs) (by decide)
  have hskn := hL.at (p := .skn) (by decide)
  have hdst := hL.at (p := .dst) (by decide)
  have hgate := hL.at (p := .gate) (by decide)
  have hpend := hL.at (p := .pend) (by decide)
  have hrstBusy := hL.at (p := .rstBusy) (by decide)
  have hsleepReq := hL.at (p := .sleepReq) (by decide)
  have hasleep := hL.at (p := .asleep) (by decide)
  have hwakeAt := hL.at (p := .wakeAt) (by decide)
  have hrun := hL.at (p := .run) (by decide)
  have hspare := hL.at (p := .spare) (by decide)
  have hspareReq := hL.at (p := .spareReq) (by decide)
  have hready := hL.at (p := .ready) (by decide)
  have hbobs := hL.at (p := .bobs) (by decide)
  have hturns := hL.at (p := .turns) (by decide)
  have hfetchTurns := hL.at (p := .fetchTurns) (by decide)
  have hbarriers := hL.at (p := .barriers) (by decide)
  have hbarrierAt := hL.at (p := .barrierAt) (by decide)
  have hholds := hL.at (p := .holds) (by decide)
  have hepochs := hL.at (p := .epochs) (by decide)
  have hports := hL.at (p := .ports) (by decide)
  have hsched := hL.at (p := .sched) (by decide)
  have hreports := hL.at (p := .reports) (by decide)
  have hseqs := hL.at (p := .seqs) (by decide)
  have hretireWait := hL.at (p := .retireWait) (by decide)
  have hcause := hL.at (p := .cause) (by decide)
  have hpllLock := hL.at (p := .pllLock) (by decide)
  have hspread := hL.at (p := .spread) (by decide)
  have honRoot := hL.at (p := .onRoot) (by decide)
  have hclocksOn := hL.at (p := .clocksOn) (by decide)
  have hfmRun := hL.at (p := .fmRun) (by decide)
  have hfmDone := hL.at (p := .fmDone) (by decide)
  have hfmResult := hL.at (p := .fmResult) (by decide)
  have hdriftOdd := hL.at (p := .driftOdd) (by decide)
  have hmonLast := hL.at (p := .monLast) (by decide)
  have hfmt := hL.at (p := .fmt) (by decide)
  have hspn := hL.at (p := .spn) (by decide)
  have hfly := hL.at (p := .fly) (by decide)
  have hcurves := hL.at (p := .curves) (by decide)
  have hstruck := hL.at (p := .struck) (by decide)
  have himages := hL.at (p := .images) (by decide)
  have himgState := hL.at (p := .imgState) (by decide)
  have hloading := hL.at (p := .loading) (by decide)
  have hloadCtx := hL.at (p := .loadCtx) (by decide)
  have hloadResult := hL.at (p := .loadResult) (by decide)
  have hloadAddr := hL.at (p := .loadAddr) (by decide)
  have hplanCache := hL.at (p := .planCache) (by decide)
  have hlastRun := hL.at (p := .lastRun) (by decide)
  have hlastBucket := hL.at (p := .lastBucket) (by decide)
  have hctxs := hL.at (p := .ctxs) (by decide)
  have htrns := hL.at (p := .trns) (by decide)
  have hlsInit := hL.at (p := .lsInit) (by decide)
  have hqps := hL.at (p := .qps) (by decide)
  have hprts := hL.at (p := .prts) (by decide)
  have hqpResult := hL.at (p := .qpResult) (by decide)
  have hcrds := hL.at (p := .crds) (by decide)
  have hply := hL.at (p := .ply) (by decide)
  have hndy := hL.at (p := .ndy) (by decide)
  have hwhl := hL.at (p := .whl) (by decide)
  have hpkg := hL.at (p := .pkg) (by decide)
  have hout := hL.at (p := .out) (by decide)
  have hK0 := hL.mono (K' := [.pending, .wall, .free, .ids, .rwp, .wear, .nvm, .fuses, .out]) (by decide)
  unfold thermalTrip; simp [*]

@[simp] theorem heatFaults_mask {L : Piece → Bool} (old : Whl) (m : Sample) (s : State) (hdst : L .dst = true) (hseqs : L .seqs = true) (hwhl : L .whl = true) :
    (heatFaults old m s).mask L = s.mask L := by
  unfold heatFaults; simp [*]

@[simp] theorem setRefresh_mask {L : Piece → Bool} (m : Sample) (s : State) (hskn : L .skn = true) :
    (setRefresh m s).mask L = s.mask L := by
  unfold setRefresh; simp [*]

@[simp] theorem addEnergy_mask {L : Piece → Bool} (p : Nat) (s : State) (hreg : L .reg = true) (hwhl : L .whl = true) :
    (addEnergy p s).mask L = s.mask L := by
  unfold addEnergy; simp [*]

@[simp] theorem niddyWrite_mask {L : Piece → Bool} (a : Nat) (v : Word) (s : State) (hL : Covers [.pending, .wall, .ids] L) :
    (niddyWrite a v s).mask L = s.mask L := by
  have htick := hL.at (p := .tick) (by decide)
  have hcyc := hL.at (p := .cyc) (by decide)
  have hfree := hL.at (p := .free) (by decide)
  have hreg := hL.at (p := .reg) (by decide)
  have hmem := hL.at (p := .mem) (by decide)
  have herrs := hL.at (p := .errs) (by decide)
  have hskn := hL.at (p := .skn) (by decide)
  have hdst := hL.at (p := .dst) (by decide)
  have hgate := hL.at (p := .gate) (by decide)
  have hpend := hL.at (p := .pend) (by decide)
  have hrstBusy := hL.at (p := .rstBusy) (by decide)
  have hsleepReq := hL.at (p := .sleepReq) (by decide)
  have hasleep := hL.at (p := .asleep) (by decide)
  have hwakeAt := hL.at (p := .wakeAt) (by decide)
  have hrun := hL.at (p := .run) (by decide)
  have hspare := hL.at (p := .spare) (by decide)
  have hspareReq := hL.at (p := .spareReq) (by decide)
  have hready := hL.at (p := .ready) (by decide)
  have hbobs := hL.at (p := .bobs) (by decide)
  have hturns := hL.at (p := .turns) (by decide)
  have hfetchTurns := hL.at (p := .fetchTurns) (by decide)
  have hbarriers := hL.at (p := .barriers) (by decide)
  have hbarrierAt := hL.at (p := .barrierAt) (by decide)
  have hholds := hL.at (p := .holds) (by decide)
  have hepochs := hL.at (p := .epochs) (by decide)
  have hports := hL.at (p := .ports) (by decide)
  have hsched := hL.at (p := .sched) (by decide)
  have hreports := hL.at (p := .reports) (by decide)
  have hseqs := hL.at (p := .seqs) (by decide)
  have hrwp := hL.at (p := .rwp) (by decide)
  have hwear := hL.at (p := .wear) (by decide)
  have hretireWait := hL.at (p := .retireWait) (by decide)
  have hcause := hL.at (p := .cause) (by decide)
  have hpllLock := hL.at (p := .pllLock) (by decide)
  have hspread := hL.at (p := .spread) (by decide)
  have honRoot := hL.at (p := .onRoot) (by decide)
  have hclocksOn := hL.at (p := .clocksOn) (by decide)
  have hfmRun := hL.at (p := .fmRun) (by decide)
  have hfmDone := hL.at (p := .fmDone) (by decide)
  have hfmResult := hL.at (p := .fmResult) (by decide)
  have hdriftOdd := hL.at (p := .driftOdd) (by decide)
  have hmonLast := hL.at (p := .monLast) (by decide)
  have hfmt := hL.at (p := .fmt) (by decide)
  have hspn := hL.at (p := .spn) (by decide)
  have hfly := hL.at (p := .fly) (by decide)
  have hcurves := hL.at (p := .curves) (by decide)
  have hstruck := hL.at (p := .struck) (by decide)
  have himages := hL.at (p := .images) (by decide)
  have himgState := hL.at (p := .imgState) (by decide)
  have hloading := hL.at (p := .loading) (by decide)
  have hloadCtx := hL.at (p := .loadCtx) (by decide)
  have hloadResult := hL.at (p := .loadResult) (by decide)
  have hloadAddr := hL.at (p := .loadAddr) (by decide)
  have hplanCache := hL.at (p := .planCache) (by decide)
  have hlastRun := hL.at (p := .lastRun) (by decide)
  have hlastBucket := hL.at (p := .lastBucket) (by decide)
  have hctxs := hL.at (p := .ctxs) (by decide)
  have htrns := hL.at (p := .trns) (by decide)
  have hlsInit := hL.at (p := .lsInit) (by decide)
  have hqps := hL.at (p := .qps) (by decide)
  have hprts := hL.at (p := .prts) (by decide)
  have hqpResult := hL.at (p := .qpResult) (by decide)
  have hcrds := hL.at (p := .crds) (by decide)
  have hply := hL.at (p := .ply) (by decide)
  have hnvm := hL.at (p := .nvm) (by decide)
  have hndy := hL.at (p := .ndy) (by decide)
  have hfuses := hL.at (p := .fuses) (by decide)
  have hwhl := hL.at (p := .whl) (by decide)
  have hpkg := hL.at (p := .pkg) (by decide)
  have hout := hL.at (p := .out) (by decide)
  have hK0 := hL.mono (K' := [.pending, .wall, .free, .ids, .rwp, .wear, .nvm, .fuses, .out]) (by decide)
  have hK1 := hL.mono (K' := [.pending, .wall, .ids, .rwp, .wear, .nvm, .fuses]) (by decide)
  unfold niddyWrite; simp [*]

@[simp] theorem setIssue_mask {L : Piece → Bool} (lev : Nat) (s : State) (hL : Covers [.pending, .wall, .ids] L) :
    (setIssue lev s).mask L = s.mask L := by
  have htick := hL.at (p := .tick) (by decide)
  have hcyc := hL.at (p := .cyc) (by decide)
  have hfree := hL.at (p := .free) (by decide)
  have hreg := hL.at (p := .reg) (by decide)
  have hmem := hL.at (p := .mem) (by decide)
  have herrs := hL.at (p := .errs) (by decide)
  have hskn := hL.at (p := .skn) (by decide)
  have hdst := hL.at (p := .dst) (by decide)
  have hgate := hL.at (p := .gate) (by decide)
  have hpend := hL.at (p := .pend) (by decide)
  have hrstBusy := hL.at (p := .rstBusy) (by decide)
  have hsleepReq := hL.at (p := .sleepReq) (by decide)
  have hasleep := hL.at (p := .asleep) (by decide)
  have hwakeAt := hL.at (p := .wakeAt) (by decide)
  have hrun := hL.at (p := .run) (by decide)
  have hspare := hL.at (p := .spare) (by decide)
  have hspareReq := hL.at (p := .spareReq) (by decide)
  have hready := hL.at (p := .ready) (by decide)
  have hbobs := hL.at (p := .bobs) (by decide)
  have hturns := hL.at (p := .turns) (by decide)
  have hfetchTurns := hL.at (p := .fetchTurns) (by decide)
  have hbarriers := hL.at (p := .barriers) (by decide)
  have hbarrierAt := hL.at (p := .barrierAt) (by decide)
  have hholds := hL.at (p := .holds) (by decide)
  have hepochs := hL.at (p := .epochs) (by decide)
  have hports := hL.at (p := .ports) (by decide)
  have hsched := hL.at (p := .sched) (by decide)
  have hreports := hL.at (p := .reports) (by decide)
  have hseqs := hL.at (p := .seqs) (by decide)
  have hrwp := hL.at (p := .rwp) (by decide)
  have hwear := hL.at (p := .wear) (by decide)
  have hretireWait := hL.at (p := .retireWait) (by decide)
  have hcause := hL.at (p := .cause) (by decide)
  have hpllLock := hL.at (p := .pllLock) (by decide)
  have hspread := hL.at (p := .spread) (by decide)
  have honRoot := hL.at (p := .onRoot) (by decide)
  have hclocksOn := hL.at (p := .clocksOn) (by decide)
  have hfmRun := hL.at (p := .fmRun) (by decide)
  have hfmDone := hL.at (p := .fmDone) (by decide)
  have hfmResult := hL.at (p := .fmResult) (by decide)
  have hdriftOdd := hL.at (p := .driftOdd) (by decide)
  have hmonLast := hL.at (p := .monLast) (by decide)
  have hfmt := hL.at (p := .fmt) (by decide)
  have hspn := hL.at (p := .spn) (by decide)
  have hfly := hL.at (p := .fly) (by decide)
  have hcurves := hL.at (p := .curves) (by decide)
  have hstruck := hL.at (p := .struck) (by decide)
  have himages := hL.at (p := .images) (by decide)
  have himgState := hL.at (p := .imgState) (by decide)
  have hloading := hL.at (p := .loading) (by decide)
  have hloadCtx := hL.at (p := .loadCtx) (by decide)
  have hloadResult := hL.at (p := .loadResult) (by decide)
  have hloadAddr := hL.at (p := .loadAddr) (by decide)
  have hplanCache := hL.at (p := .planCache) (by decide)
  have hlastRun := hL.at (p := .lastRun) (by decide)
  have hlastBucket := hL.at (p := .lastBucket) (by decide)
  have hctxs := hL.at (p := .ctxs) (by decide)
  have htrns := hL.at (p := .trns) (by decide)
  have hlsInit := hL.at (p := .lsInit) (by decide)
  have hqps := hL.at (p := .qps) (by decide)
  have hprts := hL.at (p := .prts) (by decide)
  have hqpResult := hL.at (p := .qpResult) (by decide)
  have hcrds := hL.at (p := .crds) (by decide)
  have hply := hL.at (p := .ply) (by decide)
  have hnvm := hL.at (p := .nvm) (by decide)
  have hndy := hL.at (p := .ndy) (by decide)
  have hfuses := hL.at (p := .fuses) (by decide)
  have hwhl := hL.at (p := .whl) (by decide)
  have hpkg := hL.at (p := .pkg) (by decide)
  have hout := hL.at (p := .out) (by decide)
  have hK0 := hL.mono (K' := [.pending, .wall, .free, .ids, .rwp, .wear, .nvm, .fuses, .out]) (by decide)
  have hK1 := hL.mono (K' := [.pending, .wall, .ids, .rwp, .wear, .nvm, .fuses]) (by decide)
  unfold setIssue; simp [*]

@[simp] theorem evaluate_mask {L : Piece → Bool} (m : Sample) (old : Whl) (s : State) (hL : Covers [.pending, .wall, .ids] L) :
    (evaluate m old s).mask L = s.mask L := by
  have htick := hL.at (p := .tick) (by decide)
  have hcyc := hL.at (p := .cyc) (by decide)
  have hfree := hL.at (p := .free) (by decide)
  have hreg := hL.at (p := .reg) (by decide)
  have hmem := hL.at (p := .mem) (by decide)
  have herrs := hL.at (p := .errs) (by decide)
  have hskn := hL.at (p := .skn) (by decide)
  have hdst := hL.at (p := .dst) (by decide)
  have hgate := hL.at (p := .gate) (by decide)
  have hpend := hL.at (p := .pend) (by decide)
  have hrstBusy := hL.at (p := .rstBusy) (by decide)
  have hsleepReq := hL.at (p := .sleepReq) (by decide)
  have hasleep := hL.at (p := .asleep) (by decide)
  have hwakeAt := hL.at (p := .wakeAt) (by decide)
  have hrun := hL.at (p := .run) (by decide)
  have hspare := hL.at (p := .spare) (by decide)
  have hspareReq := hL.at (p := .spareReq) (by decide)
  have hready := hL.at (p := .ready) (by decide)
  have hbobs := hL.at (p := .bobs) (by decide)
  have hturns := hL.at (p := .turns) (by decide)
  have hfetchTurns := hL.at (p := .fetchTurns) (by decide)
  have hbarriers := hL.at (p := .barriers) (by decide)
  have hbarrierAt := hL.at (p := .barrierAt) (by decide)
  have hholds := hL.at (p := .holds) (by decide)
  have hepochs := hL.at (p := .epochs) (by decide)
  have hports := hL.at (p := .ports) (by decide)
  have hsched := hL.at (p := .sched) (by decide)
  have hreports := hL.at (p := .reports) (by decide)
  have hseqs := hL.at (p := .seqs) (by decide)
  have hrwp := hL.at (p := .rwp) (by decide)
  have hwear := hL.at (p := .wear) (by decide)
  have hretireWait := hL.at (p := .retireWait) (by decide)
  have hcause := hL.at (p := .cause) (by decide)
  have hpllLock := hL.at (p := .pllLock) (by decide)
  have hspread := hL.at (p := .spread) (by decide)
  have honRoot := hL.at (p := .onRoot) (by decide)
  have hclocksOn := hL.at (p := .clocksOn) (by decide)
  have hfmRun := hL.at (p := .fmRun) (by decide)
  have hfmDone := hL.at (p := .fmDone) (by decide)
  have hfmResult := hL.at (p := .fmResult) (by decide)
  have hdriftOdd := hL.at (p := .driftOdd) (by decide)
  have hmonLast := hL.at (p := .monLast) (by decide)
  have hfmt := hL.at (p := .fmt) (by decide)
  have hspn := hL.at (p := .spn) (by decide)
  have hfly := hL.at (p := .fly) (by decide)
  have hcurves := hL.at (p := .curves) (by decide)
  have hstruck := hL.at (p := .struck) (by decide)
  have himages := hL.at (p := .images) (by decide)
  have himgState := hL.at (p := .imgState) (by decide)
  have hloading := hL.at (p := .loading) (by decide)
  have hloadCtx := hL.at (p := .loadCtx) (by decide)
  have hloadResult := hL.at (p := .loadResult) (by decide)
  have hloadAddr := hL.at (p := .loadAddr) (by decide)
  have hplanCache := hL.at (p := .planCache) (by decide)
  have hlastRun := hL.at (p := .lastRun) (by decide)
  have hlastBucket := hL.at (p := .lastBucket) (by decide)
  have hctxs := hL.at (p := .ctxs) (by decide)
  have htrns := hL.at (p := .trns) (by decide)
  have hlsInit := hL.at (p := .lsInit) (by decide)
  have hqps := hL.at (p := .qps) (by decide)
  have hprts := hL.at (p := .prts) (by decide)
  have hqpResult := hL.at (p := .qpResult) (by decide)
  have hcrds := hL.at (p := .crds) (by decide)
  have hply := hL.at (p := .ply) (by decide)
  have hnvm := hL.at (p := .nvm) (by decide)
  have hndy := hL.at (p := .ndy) (by decide)
  have hfuses := hL.at (p := .fuses) (by decide)
  have hwhl := hL.at (p := .whl) (by decide)
  have hpkg := hL.at (p := .pkg) (by decide)
  have hout := hL.at (p := .out) (by decide)
  have hK0 := hL.mono (K' := [.pending, .wall, .free, .ids, .rwp, .wear, .nvm, .fuses, .out]) (by decide)
  have hK1 := hL.mono (K' := [.pending, .wall, .ids, .rwp, .wear, .nvm, .fuses]) (by decide)
  unfold evaluate; simp [*]

@[simp] theorem smbRead_mask {L : Piece → Bool} (s : State) (hfree : L .free = true) (hreg : L .reg = true) (hdst : L .dst = true) (hseqs : L .seqs = true) :
    (smbRead s).2.mask L = s.mask L := by
  have h1 := accessRead_mask (L := L) .niddy true s.ndy.smb.toNat s hreg hdst hseqs
  unfold smbRead
  dsimp only
  split
  · simp [*]
  · generalize accessRead _ _ _ _ = r at h1 ⊢
    obtain ⟨v, t⟩ := r
    cases v <;> simp_all

@[simp] theorem loadTap_mask {L : Piece → Bool} (t : Tap) (s : State) (hpkg : L .pkg = true) :
    (loadTap t s).mask L = s.mask L := by
  unfold loadTap; simp [*]

@[simp] theorem driveTap_mask {L : Piece → Bool} (t : Tap) (s : State) (hpkg : L .pkg = true) :
    (driveTap t s).mask L = s.mask L := by
  unfold driveTap; simp [*]

@[simp] theorem touchRegion_mask {L : Piece → Bool} (rkey : Word) (s : State) (hreg : L .reg = true) (hmem : L .mem = true) (herrs : L .errs = true) (hskn : L .skn = true) (hdst : L .dst = true) (hseqs : L .seqs = true) :
    (touchRegion rkey s).mask L = s.mask L := by
  unfold touchRegion; simp [*]

@[simp] theorem writePart_mask {L : Piece → Bool} (o : Origin) (w : Window) (a : Nat) (d : List MByte) (s : State) (hL : Covers [.pending, .wall, .ids] L) :
    (writePart o w a d s).2.mask L = s.mask L := by
  have htick := hL.at (p := .tick) (by decide)
  have hcyc := hL.at (p := .cyc) (by decide)
  have hfree := hL.at (p := .free) (by decide)
  have hreg := hL.at (p := .reg) (by decide)
  have hmem := hL.at (p := .mem) (by decide)
  have herrs := hL.at (p := .errs) (by decide)
  have hskn := hL.at (p := .skn) (by decide)
  have hdst := hL.at (p := .dst) (by decide)
  have hgate := hL.at (p := .gate) (by decide)
  have hpend := hL.at (p := .pend) (by decide)
  have hrstBusy := hL.at (p := .rstBusy) (by decide)
  have hsleepReq := hL.at (p := .sleepReq) (by decide)
  have hasleep := hL.at (p := .asleep) (by decide)
  have hwakeAt := hL.at (p := .wakeAt) (by decide)
  have hrun := hL.at (p := .run) (by decide)
  have hspare := hL.at (p := .spare) (by decide)
  have hspareReq := hL.at (p := .spareReq) (by decide)
  have hready := hL.at (p := .ready) (by decide)
  have hbobs := hL.at (p := .bobs) (by decide)
  have hturns := hL.at (p := .turns) (by decide)
  have hfetchTurns := hL.at (p := .fetchTurns) (by decide)
  have hbarriers := hL.at (p := .barriers) (by decide)
  have hbarrierAt := hL.at (p := .barrierAt) (by decide)
  have hholds := hL.at (p := .holds) (by decide)
  have hepochs := hL.at (p := .epochs) (by decide)
  have hports := hL.at (p := .ports) (by decide)
  have hsched := hL.at (p := .sched) (by decide)
  have hreports := hL.at (p := .reports) (by decide)
  have hseqs := hL.at (p := .seqs) (by decide)
  have hrwp := hL.at (p := .rwp) (by decide)
  have hwear := hL.at (p := .wear) (by decide)
  have hretireWait := hL.at (p := .retireWait) (by decide)
  have hcause := hL.at (p := .cause) (by decide)
  have hpllLock := hL.at (p := .pllLock) (by decide)
  have hspread := hL.at (p := .spread) (by decide)
  have honRoot := hL.at (p := .onRoot) (by decide)
  have hclocksOn := hL.at (p := .clocksOn) (by decide)
  have hfmRun := hL.at (p := .fmRun) (by decide)
  have hfmDone := hL.at (p := .fmDone) (by decide)
  have hfmResult := hL.at (p := .fmResult) (by decide)
  have hdriftOdd := hL.at (p := .driftOdd) (by decide)
  have hmonLast := hL.at (p := .monLast) (by decide)
  have hfmt := hL.at (p := .fmt) (by decide)
  have hspn := hL.at (p := .spn) (by decide)
  have hfly := hL.at (p := .fly) (by decide)
  have hcurves := hL.at (p := .curves) (by decide)
  have hstruck := hL.at (p := .struck) (by decide)
  have himages := hL.at (p := .images) (by decide)
  have himgState := hL.at (p := .imgState) (by decide)
  have hloading := hL.at (p := .loading) (by decide)
  have hloadCtx := hL.at (p := .loadCtx) (by decide)
  have hloadResult := hL.at (p := .loadResult) (by decide)
  have hloadAddr := hL.at (p := .loadAddr) (by decide)
  have hplanCache := hL.at (p := .planCache) (by decide)
  have hlastRun := hL.at (p := .lastRun) (by decide)
  have hlastBucket := hL.at (p := .lastBucket) (by decide)
  have hctxs := hL.at (p := .ctxs) (by decide)
  have htrns := hL.at (p := .trns) (by decide)
  have hlsInit := hL.at (p := .lsInit) (by decide)
  have hqps := hL.at (p := .qps) (by decide)
  have hprts := hL.at (p := .prts) (by decide)
  have hqpResult := hL.at (p := .qpResult) (by decide)
  have hcrds := hL.at (p := .crds) (by decide)
  have hply := hL.at (p := .ply) (by decide)
  have hnvm := hL.at (p := .nvm) (by decide)
  have hndy := hL.at (p := .ndy) (by decide)
  have hfuses := hL.at (p := .fuses) (by decide)
  have hwhl := hL.at (p := .whl) (by decide)
  have hpkg := hL.at (p := .pkg) (by decide)
  have hout := hL.at (p := .out) (by decide)
  have hK0 := hL.mono (K' := [.pending, .wall, .free, .ids, .rwp, .wear, .nvm, .fuses, .out]) (by decide)
  have hK1 := hL.mono (K' := [.pending, .wall, .ids, .rwp, .wear, .nvm, .fuses]) (by decide)
  simp only [writePart]; (repeat' split) <;> simp [*]

@[simp] theorem writeParts_mask {L : Piece → Bool} (o : Origin) (a0 : Nat) (d : List MByte) (x0 : List (Window × Nat × Nat)) (s : State) (hL : Covers [.pending, .wall, .ids] L) :
    (writeParts o a0 d x0 s).2.mask L = s.mask L := by
  have htick := hL.at (p := .tick) (by decide)
  have hcyc := hL.at (p := .cyc) (by decide)
  have hfree := hL.at (p := .free) (by decide)
  have hreg := hL.at (p := .reg) (by decide)
  have hmem := hL.at (p := .mem) (by decide)
  have herrs := hL.at (p := .errs) (by decide)
  have hskn := hL.at (p := .skn) (by decide)
  have hdst := hL.at (p := .dst) (by decide)
  have hgate := hL.at (p := .gate) (by decide)
  have hpend := hL.at (p := .pend) (by decide)
  have hrstBusy := hL.at (p := .rstBusy) (by decide)
  have hsleepReq := hL.at (p := .sleepReq) (by decide)
  have hasleep := hL.at (p := .asleep) (by decide)
  have hwakeAt := hL.at (p := .wakeAt) (by decide)
  have hrun := hL.at (p := .run) (by decide)
  have hspare := hL.at (p := .spare) (by decide)
  have hspareReq := hL.at (p := .spareReq) (by decide)
  have hready := hL.at (p := .ready) (by decide)
  have hbobs := hL.at (p := .bobs) (by decide)
  have hturns := hL.at (p := .turns) (by decide)
  have hfetchTurns := hL.at (p := .fetchTurns) (by decide)
  have hbarriers := hL.at (p := .barriers) (by decide)
  have hbarrierAt := hL.at (p := .barrierAt) (by decide)
  have hholds := hL.at (p := .holds) (by decide)
  have hepochs := hL.at (p := .epochs) (by decide)
  have hports := hL.at (p := .ports) (by decide)
  have hsched := hL.at (p := .sched) (by decide)
  have hreports := hL.at (p := .reports) (by decide)
  have hseqs := hL.at (p := .seqs) (by decide)
  have hrwp := hL.at (p := .rwp) (by decide)
  have hwear := hL.at (p := .wear) (by decide)
  have hretireWait := hL.at (p := .retireWait) (by decide)
  have hcause := hL.at (p := .cause) (by decide)
  have hpllLock := hL.at (p := .pllLock) (by decide)
  have hspread := hL.at (p := .spread) (by decide)
  have honRoot := hL.at (p := .onRoot) (by decide)
  have hclocksOn := hL.at (p := .clocksOn) (by decide)
  have hfmRun := hL.at (p := .fmRun) (by decide)
  have hfmDone := hL.at (p := .fmDone) (by decide)
  have hfmResult := hL.at (p := .fmResult) (by decide)
  have hdriftOdd := hL.at (p := .driftOdd) (by decide)
  have hmonLast := hL.at (p := .monLast) (by decide)
  have hfmt := hL.at (p := .fmt) (by decide)
  have hspn := hL.at (p := .spn) (by decide)
  have hfly := hL.at (p := .fly) (by decide)
  have hcurves := hL.at (p := .curves) (by decide)
  have hstruck := hL.at (p := .struck) (by decide)
  have himages := hL.at (p := .images) (by decide)
  have himgState := hL.at (p := .imgState) (by decide)
  have hloading := hL.at (p := .loading) (by decide)
  have hloadCtx := hL.at (p := .loadCtx) (by decide)
  have hloadResult := hL.at (p := .loadResult) (by decide)
  have hloadAddr := hL.at (p := .loadAddr) (by decide)
  have hplanCache := hL.at (p := .planCache) (by decide)
  have hlastRun := hL.at (p := .lastRun) (by decide)
  have hlastBucket := hL.at (p := .lastBucket) (by decide)
  have hctxs := hL.at (p := .ctxs) (by decide)
  have htrns := hL.at (p := .trns) (by decide)
  have hlsInit := hL.at (p := .lsInit) (by decide)
  have hqps := hL.at (p := .qps) (by decide)
  have hprts := hL.at (p := .prts) (by decide)
  have hqpResult := hL.at (p := .qpResult) (by decide)
  have hcrds := hL.at (p := .crds) (by decide)
  have hply := hL.at (p := .ply) (by decide)
  have hnvm := hL.at (p := .nvm) (by decide)
  have hndy := hL.at (p := .ndy) (by decide)
  have hfuses := hL.at (p := .fuses) (by decide)
  have hwhl := hL.at (p := .whl) (by decide)
  have hpkg := hL.at (p := .pkg) (by decide)
  have hout := hL.at (p := .out) (by decide)
  have hK0 := hL.mono (K' := [.pending, .wall, .free, .ids, .rwp, .wear, .nvm, .fuses, .out]) (by decide)
  have hK1 := hL.mono (K' := [.pending, .wall, .ids, .rwp, .wear, .nvm, .fuses]) (by decide)
  induction x0 generalizing s with
  | nil => rfl
  | cons q r ih =>
    obtain ⟨w, a, n⟩ := q
    unfold writeParts
    have h1 := writePart_mask (L := L) o w a ((d.drop (a - a0)).take n) s (by first | exact hL | assumption | exact hL.mono (by decide))
    generalize writePart _ _ _ _ _ = x at h1 ⊢
    obtain ⟨b, t⟩ := x
    cases b
    · exact h1
    · exact (ih t).trans h1

@[simp] theorem completionRead_mask {L : Piece → Bool} (o : Origin) (a n : Nat) (s : State) (b : Option Nat) (hreg : L .reg = true) (hmem : L .mem = true) (herrs : L .errs = true) (hskn : L .skn = true) (hdst : L .dst = true) (hseqs : L .seqs = true) :
    (completionRead o a n s b).2.mask L = s.mask L := by
  simp only [completionRead]; (repeat' split) <;> simp [*]

@[simp] theorem readPart_mask {L : Piece → Bool} (o : Origin) (form : Bool) (w : Window) (a n : Nat) (s : State) (hreg : L .reg = true) (hmem : L .mem = true) (herrs : L .errs = true) (hskn : L .skn = true) (hdst : L .dst = true) (hseqs : L .seqs = true) :
    (readPart o form w a n s).2.mask L = s.mask L := by
  have h1 : ∀ b, (completionRead o a n s b).2.mask L = s.mask L := by
    intro b
    cases b <;> simp [completionRead, *]
  unfold readPart
  dsimp only
  cases w with
  | skein => simp [*]
  | debug => simp [*]
  | doorbell => dsimp only; split <;> simp [*]
  | completion =>
    dsimp only
    split
    · simp [*]
    · split
      · simp [*]
      · exact h1 _
  | regs => dsimp only; split <;> simp [*]
  | unmapped => simp [*]

@[simp] theorem readParts_mask {L : Piece → Bool} (o : Origin) (form : Bool) (x0 : List (Window × Nat × Nat)) (s : State) (hreg : L .reg = true) (hmem : L .mem = true) (herrs : L .errs = true) (hskn : L .skn = true) (hdst : L .dst = true) (hseqs : L .seqs = true) :
    (readParts o form x0 s).2.mask L = s.mask L := by
  induction x0 generalizing s with
  | nil => rfl
  | cons q r ih =>
    obtain ⟨w, a, n⟩ := q
    unfold readParts
    have h1 := readPart_mask (L := L) o form w a n s hreg hmem herrs hskn hdst hseqs
    generalize readPart _ _ _ _ _ _ = q at h1 ⊢
    obtain ⟨v, t⟩ := q
    cases v with
    | none => exact h1
    | some w =>
      dsimp only
      have h2 := ih t
      generalize readParts _ _ _ _ = q at h2 ⊢
      obtain ⟨v, u⟩ := q
      cases v <;> exact h2.trans h1

@[simp] theorem reply_mask {L : Piece → Bool} (n : Nat) (o : Pkt) (s : State) (hreg : L .reg = true) (hprts : L .prts = true) (hout : L .out = true) :
    (reply n o s).mask L = s.mask L := by
  unfold reply; simp [*]

@[simp] theorem acceptReq_mask {L : Piece → Bool} (n k : Nat) (o : Pkt) (s : State) (hreg : L .reg = true) (hmem : L .mem = true) (herrs : L .errs = true) (hskn : L .skn = true) (hdst : L .dst = true) (hseqs : L .seqs = true) (hqps : L .qps = true) (hprts : L .prts = true) (hout : L .out = true) :
    (acceptReq n k o s).mask L = s.mask L := by
  unfold acceptReq; simp [*]

@[simp] theorem endRequest_mask {L : Piece → Bool} (n : Nat) (s t : State) (hdst : L .dst = true) (hstruck : L .struck = true) :
    (endRequest n s t).mask L = t.mask L := by
  unfold endRequest; simp [*]

@[simp] theorem turnedAway_mask {L : Piece → Bool} (n k : Nat) (ing : Ingress) (s : State) (hreg : L .reg = true) (hmem : L .mem = true) (herrs : L .errs = true) (hskn : L .skn = true) (hdst : L .dst = true) (hseqs : L .seqs = true) (hqps : L .qps = true) (hprts : L .prts = true) (hout : L .out = true) :
    (turnedAway n k ing s).mask L = s.mask L := by
  unfold turnedAway; simp [*]

@[simp] theorem performWrite_mask {L : Piece → Bool} (n : Nat) (rkey : Word) (a : Nat) (d : List Byte) (s : State) (hL : Covers [.pending, .wall, .ids] L) :
    (performWrite n rkey a d s).2.mask L = s.mask L := by
  have htick := hL.at (p := .tick) (by decide)
  have hcyc := hL.at (p := .cyc) (by decide)
  have hfree := hL.at (p := .free) (by decide)
  have hreg := hL.at (p := .reg) (by decide)
  have hmem := hL.at (p := .mem) (by decide)
  have herrs := hL.at (p := .errs) (by decide)
  have hskn := hL.at (p := .skn) (by decide)
  have hdst := hL.at (p := .dst) (by decide)
  have hgate := hL.at (p := .gate) (by decide)
  have hpend := hL.at (p := .pend) (by decide)
  have hrstBusy := hL.at (p := .rstBusy) (by decide)
  have hsleepReq := hL.at (p := .sleepReq) (by decide)
  have hasleep := hL.at (p := .asleep) (by decide)
  have hwakeAt := hL.at (p := .wakeAt) (by decide)
  have hrun := hL.at (p := .run) (by decide)
  have hspare := hL.at (p := .spare) (by decide)
  have hspareReq := hL.at (p := .spareReq) (by decide)
  have hready := hL.at (p := .ready) (by decide)
  have hbobs := hL.at (p := .bobs) (by decide)
  have hturns := hL.at (p := .turns) (by decide)
  have hfetchTurns := hL.at (p := .fetchTurns) (by decide)
  have hbarriers := hL.at (p := .barriers) (by decide)
  have hbarrierAt := hL.at (p := .barrierAt) (by decide)
  have hholds := hL.at (p := .holds) (by decide)
  have hepochs := hL.at (p := .epochs) (by decide)
  have hports := hL.at (p := .ports) (by decide)
  have hsched := hL.at (p := .sched) (by decide)
  have hreports := hL.at (p := .reports) (by decide)
  have hseqs := hL.at (p := .seqs) (by decide)
  have hrwp := hL.at (p := .rwp) (by decide)
  have hwear := hL.at (p := .wear) (by decide)
  have hretireWait := hL.at (p := .retireWait) (by decide)
  have hcause := hL.at (p := .cause) (by decide)
  have hpllLock := hL.at (p := .pllLock) (by decide)
  have hspread := hL.at (p := .spread) (by decide)
  have honRoot := hL.at (p := .onRoot) (by decide)
  have hclocksOn := hL.at (p := .clocksOn) (by decide)
  have hfmRun := hL.at (p := .fmRun) (by decide)
  have hfmDone := hL.at (p := .fmDone) (by decide)
  have hfmResult := hL.at (p := .fmResult) (by decide)
  have hdriftOdd := hL.at (p := .driftOdd) (by decide)
  have hmonLast := hL.at (p := .monLast) (by decide)
  have hfmt := hL.at (p := .fmt) (by decide)
  have hspn := hL.at (p := .spn) (by decide)
  have hfly := hL.at (p := .fly) (by decide)
  have hcurves := hL.at (p := .curves) (by decide)
  have hstruck := hL.at (p := .struck) (by decide)
  have himages := hL.at (p := .images) (by decide)
  have himgState := hL.at (p := .imgState) (by decide)
  have hloading := hL.at (p := .loading) (by decide)
  have hloadCtx := hL.at (p := .loadCtx) (by decide)
  have hloadResult := hL.at (p := .loadResult) (by decide)
  have hloadAddr := hL.at (p := .loadAddr) (by decide)
  have hplanCache := hL.at (p := .planCache) (by decide)
  have hlastRun := hL.at (p := .lastRun) (by decide)
  have hlastBucket := hL.at (p := .lastBucket) (by decide)
  have hctxs := hL.at (p := .ctxs) (by decide)
  have htrns := hL.at (p := .trns) (by decide)
  have hlsInit := hL.at (p := .lsInit) (by decide)
  have hqps := hL.at (p := .qps) (by decide)
  have hprts := hL.at (p := .prts) (by decide)
  have hqpResult := hL.at (p := .qpResult) (by decide)
  have hcrds := hL.at (p := .crds) (by decide)
  have hply := hL.at (p := .ply) (by decide)
  have hnvm := hL.at (p := .nvm) (by decide)
  have hndy := hL.at (p := .ndy) (by decide)
  have hfuses := hL.at (p := .fuses) (by decide)
  have hwhl := hL.at (p := .whl) (by decide)
  have hpkg := hL.at (p := .pkg) (by decide)
  have hout := hL.at (p := .out) (by decide)
  have hK0 := hL.mono (K' := [.pending, .wall, .free, .ids, .rwp, .wear, .nvm, .fuses, .out]) (by decide)
  have hK1 := hL.mono (K' := [.pending, .wall, .ids, .rwp, .wear, .nvm, .fuses]) (by decide)
  unfold performWrite
  extract_lets ok s1
  have h1 : s1.mask L = s.mask L := by simp only [s1]; simp [*]
  clear_value s1
  split
  · rw [writeParts_mask]
    · exact h1
    · first | exact hL | assumption | exact hL.mono (by decide)
  · exact h1

@[simp] theorem presentImm_mask {L : Piece → Bool} (n k : Nat) (imm : Word) (s : State) (hreg : L .reg = true) (hmem : L .mem = true) (herrs : L .errs = true) (hskn : L .skn = true) (hdst : L .dst = true) (hbobs : L .bobs = true) (hseqs : L .seqs = true) (hqps : L .qps = true) (hprts : L .prts = true) (hout : L .out = true) :
    (presentImm n k imm s).mask L = s.mask L := by
  have hd := doorbellWrite_mask (L := L) (qpOrigin s n) (dbAddr (s.qp n).bobbin.toNat 0) imm s (by assumption) (by assumption) (by assumption) (by assumption) (by assumption) (by assumption) (by assumption)
  unfold presentImm
  dsimp only
  split
  · generalize doorbellWrite _ _ _ _ = q at hd ⊢
    obtain ⟨b, t⟩ := q
    cases b <;> (dsimp only at hd ⊢; simp [*])
  · simp [*]

@[simp] theorem notePoison_mask {L : Piece → Bool} (o : Origin) (port a : Nat) (l : List RByte) (s : State) (hdst : L .dst = true) (hseqs : L .seqs = true) :
    (notePoison o port a l s).mask L = s.mask L := by
  simp only [notePoison]; (repeat' split) <;> simp [*]

@[simp] theorem sendRead_mask {L : Piece → Bool} (n : Nat) (o : Origin) (form : Bool) (x0 : List (Nat × Nat)) (s : State) (hreg : L .reg = true) (hmem : L .mem = true) (herrs : L .errs = true) (hskn : L .skn = true) (hdst : L .dst = true) (hseqs : L .seqs = true) (hqps : L .qps = true) (hprts : L .prts = true) (hout : L .out = true) :
    (sendRead n o form x0 s).mask L = s.mask L := by
  induction x0 generalizing s with
  | nil => rfl
  | cons q r ih =>
    obtain ⟨a, k⟩ := q
    unfold sendRead
    have h1 := readParts_mask (L := L) o form (partsOf a k) s (by assumption) (by assumption) (by assumption) (by assumption) (by assumption) (by assumption)
    generalize readParts _ _ _ _ = q at h1 ⊢
    obtain ⟨v, t⟩ := q
    cases v with
    | none => dsimp only at h1 ⊢; simp [*]
    | some b =>
      dsimp only at h1 ⊢
      split <;> simp [ih, *]

@[simp] theorem atomicAdd_mask {L : Piece → Bool} (f : Byte) (a : Nat) (operand : BitVec 64) (s : State) (hreg : L .reg = true) (hmem : L .mem = true) (herrs : L .errs = true) (hskn : L .skn = true) (hdst : L .dst = true) (hseqs : L .seqs = true) :
    (atomicAdd f a operand s).2.mask L = s.mask L := by
  simp only [atomicAdd]; (repeat' split) <;> simp [*]

@[simp] theorem managementTick_mask {L : Piece → Bool} (s0 : State) (htick : L .tick = true) (hwall : L .wall = true) (hcyc : L .cyc = true) (hfree : L .free = true) (hmem : L .mem = true) (herrs : L .errs = true) (hskn : L .skn = true) (hdst : L .dst = true) (hbobs : L .bobs = true) (hseqs : L .seqs = true) (hfly : L .fly = true) (hnvm : L .nvm = true) (hndy : L .ndy = true) :
    (managementTick s0).mask L = s0.mask L := by
  unfold managementTick
  extract_lets s
  have h : s.mask L = s0.mask L := by
    simp only [s, skeinTick_mask, nvmTick_mask, *]
    simp [*]
  rw [← h]
  simp only [State.mask, *, if_true]

@[simp] theorem State.withFetchWord_mask {L : Piece → Bool} (s : State) (nbits w : Nat) (hpending : L .pending = true) :
    (s.withFetchWord nbits w).mask L = s.mask L := by
  simp only [State.withFetchWord]; (repeat' split) <;> simp [*]

end Sys2Proof.Machine
end

