-- ==== Sys2Proof/Laws/PerInstr.lean ====
section
/-! SUPPORT. The family WellFormed of per-constructor lemmas: the check `Instr.wf` of each row says exactly which operands
the row admits. -/

namespace Sys2Proof.Laws.WellFormed

/-- The bytes begin with `t`. -/
def Begins (l : List Byte) (t : Nat) : Prop := ∃ b r, l = b :: r ∧ b.toNat = t

/-- An upset of one whole sector of skein memory. -/
def SectorUpset (u : Upset) : Prop := u.addr.toNat < 2 ^ 40 ∧ u.addr.toNat % 32 = 0 ∧ u.pattern.length = 36

/-- At least one byte, all of one slot of skein memory. -/
def OneSlot (a len : Nat) : Prop := 0 < len ∧ a + len ≤ 2 ^ 40 ∧ a / 2 ^ 35 = (a + len - 1) / 2 ^ 35

/-- One reading of every sensor. -/
def FullSample (m : Sample) : Prop := m.die.length = 64 ∧ m.skn.length = 32 ∧ m.rails.length = 8

/-- A place of Table 14-2. -/
def UnitPlace (u : Nat) : Prop := u < 24 ∨ (32 ≤ u ∧ u < 116)

/-- The operands that a row admits. -/
def Admits : Instr → Prop
  | .engineCompletion u => u.toNat < 54
  | .skeinRead _ a len us => OneSlot a.toNat len ∧ ∀ u ∈ us, SectorUpset u
  | .skeinWrite _ a data => OneSlot a.toNat data.length
  | .scrubGranule _ us => ∀ u ∈ us, SectorUpset u
  | .fenceWrite _ _ i _ _ => i.toNat < 18
  | .reduce m => Begins m.bytes 0x10
  | .prescaleUp m => Begins m.bytes 0x11
  | .prescaleDown m => Begins m.bytes 0x12
  | .sum m => Begins m.bytes 0x13
  | .gather m => Begins m.bytes 0x14
  | .verdictUp m => Begins m.bytes 0x15
  | .verdictDown m => Begins m.bytes 0x16
  | .barrier m => Begins m.bytes 0x30
  | .fetchNote m => Begins m.bytes 0x20
  | .wbNote m => Begins m.bytes 0x21
  | .replayHold m => Begins m.bytes 0x40
  | .echoReq m => Begins m.bytes 0x50
  | .echoRsp m => Begins m.bytes 0x51
  | .unsupportedFrame n _ => n.toNat < 21
  | .pfcXoff n _ => n.toNat < 20
  | .pfcXon n _ _ => n.toNat < 20
  | .pfcStorm n _ => n.toNat < 20
  | .pfcXoffRepeat n _ _ => n.toNat < 20
  | .linkDown n _ => n.toNat < 20
  | .linkUp n => n.toNat < 20
  | .challenge _ nonce _ => nonce.length = 32
  | .getMeasurements _ _ nonce _ => nonce.length = 32
  | .regRead m => ∃ b r, m.frame = b :: r ∧ (b.toNat < 2 ∨ 6 < b.toNat)
  | .regWrite m => Begins m.frame 2
  | .telemRead m => Begins m.frame 3
  | .nvmRead m => Begins m.frame 4
  | .nvmErase m => Begins m.frame 5
  | .nvmProgram m => Begins m.frame 6
  | .smbOtherCommand c => c ≠ 0x10 ∧ c ≠ 0x11
  | .sleepEntry u => UnitPlace u.toNat
  | .wake u => UnitPlace u.toNat
  | .unitResetDone u => UnitPlace u.toNat
  | .retiredSleep u => UnitPlace u.toNat
  | .rwpWrite _ a _ _ => 2 ^ 40 ≤ a.toNat
  | .rcCounterRead _ a => 0x020200000000 ≤ a.toNat ∧ a.toNat < 0x02020E000000
  | .registerWrite _ a _ => 2 ^ 40 ≤ a.toNat
  | .whorlPeriod m => FullSample m
  | .thermtripRelease m => FullSample m
  | _ => True

/-- The check of row `i` accepts exactly the operands it admits. -/
def Statement (i : Instr) : Prop := i.wf = true ↔ Admits i

theorem upset_all (us : List Upset) : us.all Upset.wf = true ↔ ∀ u ∈ us, SectorUpset u := by
  simp [List.all_eq_true, Upset.wf, SectorUpset, and_assoc]

theorem typeWf_iff (t : Nat) (m : SendIn) : typeWf t m = true ↔ Begins m.bytes t := by
  unfold typeWf Begins
  cases m.bytes with
  | nil => simp
  | cons b r =>
    constructor
    · intro h
      exact ⟨b, r, rfl, by simpa using h⟩
    · rintro ⟨b', r', h, hb⟩
      obtain ⟨rfl, rfl⟩ := List.cons.inj h
      simpa using hb

theorem opWf_iff (op : Nat) (h1 : op ≠ 1) (m : MgmtIn) : opWf op m = true ↔ Begins m.frame op := by
  unfold opWf Begins
  cases m.frame with
  | nil => simp
  | cons b r =>
    simp only [h1, if_false]
    constructor
    · intro h
      exact ⟨b, r, rfl, by simpa using h⟩
    · rintro ⟨b', r', h, hb⟩
      obtain ⟨rfl, rfl⟩ := List.cons.inj h
      simpa using hb

theorem opWf_read (m : MgmtIn) : opWf 1 m = true ↔ ∃ b r, m.frame = b :: r ∧ (b.toNat < 2 ∨ 6 < b.toNat) := by
  unfold opWf
  cases m.frame with
  | nil => simp
  | cons b r =>
    constructor
    · intro h
      refine ⟨b, r, rfl, ?_⟩
      simp at h
      omega
    · rintro ⟨b', r', h, hb⟩
      obtain ⟨rfl, rfl⟩ := List.cons.inj h
      simp
      omega

theorem requestWf_iff (a len : Nat) : requestWf a len = true ↔ OneSlot a len := by
  simp [requestWf, OneSlot, and_assoc]

theorem skein_read_iff (a : Addr) (len : Nat) (us : List Upset) :
    (requestWf a.toNat len && us.all Upset.wf) = true ↔ OneSlot a.toNat len ∧ ∀ u ∈ us, SectorUpset u := by
  rw [Bool.and_eq_true, requestWf_iff, upset_all]

theorem other_iff (c : Byte) : (decide (c ≠ 0x10) && decide (c ≠ 0x11)) = true ↔ c ≠ 0x10 ∧ c ≠ 0x11 := by simp

theorem counter_iff (a : Addr) :
    (registerAddress a && decide (0x020200000000 ≤ a.toNat) && decide (a.toNat < 0x02020E000000)) = true
      ↔ 0x020200000000 ≤ a.toNat ∧ a.toNat < 0x02020E000000 := by
  simp [registerAddress]
  omega

theorem sample_iff (m : Sample) : m.wf = true ↔ FullSample m := by simp [Sample.wf, FullSample, and_assoc]

theorem unitWf_iff (u : BitVec 7) : unitWf u = true ↔ UnitPlace u.toNat := by simp [unitWf, UnitPlace]

theorem nop (b : Bobbin) : Statement (.nop b) := ⟨fun _ => trivial, fun _ => rfl⟩
theorem release (b : Bobbin) : Statement (.release b) := ⟨fun _ => trivial, fun _ => rfl⟩
theorem barrierSet (b : Bobbin) : Statement (.barrierSet b) := ⟨fun _ => trivial, fun _ => rfl⟩
theorem phaseClose (b : Bobbin) : Statement (.phaseClose b) := ⟨fun _ => trivial, fun _ => rfl⟩
theorem imageStart (b : Bobbin) : Statement (.imageStart b) := ⟨fun _ => trivial, fun _ => rfl⟩
theorem imageUnload : Statement (.imageUnload) := ⟨fun _ => trivial, fun _ => rfl⟩
theorem imageLoadComplete : Statement (.imageLoadComplete) := ⟨fun _ => trivial, fun _ => rfl⟩
theorem spnStage (p : BitVec 4) (hits : List Hit) : Statement (.spnStage p hits) := ⟨fun _ => trivial, fun _ => rfl⟩
theorem spnMma (p : BitVec 4) (hits : List Hit) : Statement (.spnMma p hits) := ⟨fun _ => trivial, fun _ => rfl⟩
theorem spnSlotDiscard (p : BitVec 4) : Statement (.spnSlotDiscard p) := ⟨fun _ => trivial, fun _ => rfl⟩
theorem crdGather (k : BitVec 5) (hits : List Hit) : Statement (.crdGather k hits) := ⟨fun _ => trivial, fun _ => rfl⟩
theorem crdScatter (k : BitVec 5) (hits : List Hit) : Statement (.crdScatter k hits) := ⟨fun _ => trivial, fun _ => rfl⟩
theorem crdSpmm (k : BitVec 5) (hits : List Hit) : Statement (.crdSpmm k hits) := ⟨fun _ => trivial, fun _ => rfl⟩
theorem expSelect (k : BitVec 5) (hits : List Hit) : Statement (.expSelect k hits) := ⟨fun _ => trivial, fun _ => rfl⟩
theorem expFanout (k : BitVec 5) (hits : List Hit) : Statement (.expFanout k hits) := ⟨fun _ => trivial, fun _ => rfl⟩
theorem expDispatch (k : BitVec 5) (hits : List Hit) : Statement (.expDispatch k hits) := ⟨fun _ => trivial, fun _ => rfl⟩
theorem expAssign (k : BitVec 5) (hits : List Hit) : Statement (.expAssign k hits) := ⟨fun _ => trivial, fun _ => rfl⟩
theorem expCombine (k : BitVec 5) (hits : List Hit) : Statement (.expCombine k hits) := ⟨fun _ => trivial, fun _ => rfl⟩
theorem expPrefetch (k : BitVec 5) (hits : List Hit) : Statement (.expPrefetch k hits) := ⟨fun _ => trivial, fun _ => rfl⟩
theorem trnLscale (k : BitVec 5) (hits : List Hit) : Statement (.trnLscale k hits) := ⟨fun _ => trivial, fun _ => rfl⟩
theorem optAdamw (k : BitVec 5) (hits : List Hit) : Statement (.optAdamw k hits) := ⟨fun _ => trivial, fun _ => rfl⟩
theorem optSgdm (k : BitVec 5) (hits : List Hit) : Statement (.optSgdm k hits) := ⟨fun _ => trivial, fun _ => rfl⟩
theorem flyNormFwd (f : BitVec 2) (hits : List Hit) : Statement (.flyNormFwd f hits) := ⟨fun _ => trivial, fun _ => rfl⟩
theorem flyNormBwd (f : BitVec 2) (hits : List Hit) : Statement (.flyNormBwd f hits) := ⟨fun _ => trivial, fun _ => rfl⟩
theorem flyNormPgrad (f : BitVec 2) (hits : List Hit) : Statement (.flyNormPgrad f hits) := ⟨fun _ => trivial, fun _ => rfl⟩
theorem flySmaxMerge (f : BitVec 2) (hits : List Hit) : Statement (.flySmaxMerge f hits) := ⟨fun _ => trivial, fun _ => rfl⟩
theorem flySmaxFwd (f : BitVec 2) (hits : List Hit) : Statement (.flySmaxFwd f hits) := ⟨fun _ => trivial, fun _ => rfl⟩
theorem flySmaxBwd (f : BitVec 2) (hits : List Hit) : Statement (.flySmaxBwd f hits) := ⟨fun _ => trivial, fun _ => rfl⟩
theorem flyStatsFree (f : BitVec 2) : Statement (.flyStatsFree f) := ⟨fun _ => trivial, fun _ => rfl⟩
theorem plyReduce (hits : List Hit) : Statement (.plyReduce hits) := ⟨fun _ => trivial, fun _ => rfl⟩
theorem plyGather (hits : List Hit) : Statement (.plyGather hits) := ⟨fun _ => trivial, fun _ => rfl⟩
theorem plyVerdict : Statement (.plyVerdict) := ⟨fun _ => trivial, fun _ => rfl⟩
theorem plyBarrier : Statement (.plyBarrier) := ⟨fun _ => trivial, fun _ => rfl⟩
theorem plyOrtho (hits : List Hit) : Statement (.plyOrtho hits) := ⟨fun _ => trivial, fun _ => rfl⟩
theorem plyLrSeed : Statement (.plyLrSeed) := ⟨fun _ => trivial, fun _ => rfl⟩
theorem cpyPermute (k : BitVec 5) (hits : List Hit) : Statement (.cpyPermute k hits) := ⟨fun _ => trivial, fun _ => rfl⟩
theorem dbProdWrite (b : Bobbin) (v : Word) : Statement (.dbProdWrite b v) := ⟨fun _ => trivial, fun _ => rfl⟩
theorem dbCqHeadWrite (b : Bobbin) (v : Word) : Statement (.dbCqHeadWrite b v) := ⟨fun _ => trivial, fun _ => rfl⟩
theorem enable (b : Bobbin) : Statement (.enable b) := ⟨fun _ => trivial, fun _ => rfl⟩
theorem disable (b : Bobbin) : Statement (.disable b) := ⟨fun _ => trivial, fun _ => rfl⟩
theorem fetchBurst : Statement (.fetchBurst) := ⟨fun _ => trivial, fun _ => rfl⟩
theorem burstArrival (b : Bobbin) (hits : List Hit) : Statement (.burstArrival b hits) := ⟨fun _ => trivial, fun _ => rfl⟩
theorem dispatch (b : Bobbin) : Statement (.dispatch b) := ⟨fun _ => trivial, fun _ => rfl⟩
theorem agePromotion (b : Bobbin) : Statement (.agePromotion b) := ⟨fun _ => trivial, fun _ => rfl⟩
theorem runSizeResolve (b : Bobbin) : Statement (.runSizeResolve b) := ⟨fun _ => trivial, fun _ => rfl⟩
theorem engineCompletion (u : BitVec 6) : Statement (.engineCompletion u) := decide_eq_true_iff
theorem spareSwapTimeout : Statement (.spareSwapTimeout) := ⟨fun _ => trivial, fun _ => rfl⟩
theorem watchdogExpiry (b : Bobbin) : Statement (.watchdogExpiry b) := ⟨fun _ => trivial, fun _ => rfl⟩
theorem plyWatchExpiry (i : BitVec 2) : Statement (.plyWatchExpiry i) := ⟨fun _ => trivial, fun _ => rfl⟩
theorem readyIncrement (k : BitVec 5) : Statement (.readyIncrement k) := ⟨fun _ => trivial, fun _ => rfl⟩
theorem indDataWrite (v : Word) : Statement (.indDataWrite v) := ⟨fun _ => trivial, fun _ => rfl⟩
theorem ctxReset (c : BitVec 12) : Statement (.ctxReset c) := ⟨fun _ => trivial, fun _ => rfl⟩
theorem trnDataWrite (v : Word) : Statement (.trnDataWrite v) := ⟨fun _ => trivial, fun _ => rfl⟩
theorem journalEnable (v : Word) : Statement (.journalEnable v) := ⟨fun _ => trivial, fun _ => rfl⟩
theorem arm (v : Word) : Statement (.arm v) := ⟨fun _ => trivial, fun _ => rfl⟩
theorem resume (v : Word) : Statement (.resume v) := ⟨fun _ => trivial, fun _ => rfl⟩
theorem skeinRead (src : BitVec 16) (a : Addr) (len : Nat) (us : List Upset) : Statement (.skeinRead src a len us) := skein_read_iff a len us
theorem skeinWrite (src : BitVec 16) (a : Addr) (data : List MByte) : Statement (.skeinWrite src a data) := requestWf_iff _ _
theorem bucketLeak (k : BitVec 5) : Statement (.bucketLeak k) := ⟨fun _ => trivial, fun _ => rfl⟩
theorem scrubGranule (k : BitVec 5) (us : List Upset) : Statement (.scrubGranule k us) := upset_all us
theorem fenceWrite (o : Origin) (k : BitVec 5) (i : BitVec 5) (v : Word) (nvmErr : Bool) : Statement (.fenceWrite o k i v nvmErr) := decide_eq_true_iff
theorem fetchStart (k : BitVec 5) : Statement (.fetchStart k) := ⟨fun _ => trivial, fun _ => rfl⟩
theorem fetchComplete (k : BitVec 5) (gid : BitVec 20) (data : List MByte) (ing : Ingress) : Statement (.fetchComplete k gid data ing) := ⟨fun _ => trivial, fun _ => rfl⟩
theorem fetchTimeout (k : BitVec 5) (gid : BitVec 20) : Statement (.fetchTimeout k gid) := ⟨fun _ => trivial, fun _ => rfl⟩
theorem writeBackComplete (k : BitVec 5) (gid : BitVec 20) (ing : Ingress) : Statement (.writeBackComplete k gid ing) := ⟨fun _ => trivial, fun _ => rfl⟩
theorem reduce (m : SendIn) : Statement (.reduce m) := typeWf_iff _ m
theorem prescaleUp (m : SendIn) : Statement (.prescaleUp m) := typeWf_iff _ m
theorem prescaleDown (m : SendIn) : Statement (.prescaleDown m) := typeWf_iff _ m
theorem sum (m : SendIn) : Statement (.sum m) := typeWf_iff _ m
theorem gather (m : SendIn) : Statement (.gather m) := typeWf_iff _ m
theorem verdictUp (m : SendIn) : Statement (.verdictUp m) := typeWf_iff _ m
theorem verdictDown (m : SendIn) : Statement (.verdictDown m) := typeWf_iff _ m
theorem barrier (m : SendIn) : Statement (.barrier m) := typeWf_iff _ m
theorem fetchNote (m : SendIn) : Statement (.fetchNote m) := typeWf_iff _ m
theorem wbNote (m : SendIn) : Statement (.wbNote m) := typeWf_iff _ m
theorem replayHold (m : SendIn) : Statement (.replayHold m) := typeWf_iff _ m
theorem echoReq (m : SendIn) : Statement (.echoReq m) := typeWf_iff _ m
theorem echoRsp (m : SendIn) : Statement (.echoRsp m) := typeWf_iff _ m
theorem rdmaWrite (qpn : BitVec 16) (rkey : Word) (a : Addr) (data : List Byte) (ing : Ingress) (hits : List Hit) : Statement (.rdmaWrite qpn rkey a data ing hits) := ⟨fun _ => trivial, fun _ => rfl⟩
theorem rdmaWriteImm (qpn : BitVec 16) (rkey : Word) (a : Addr) (data : List Byte) (imm : Word) (ing : Ingress) (hits : List Hit) : Statement (.rdmaWriteImm qpn rkey a data imm ing hits) := ⟨fun _ => trivial, fun _ => rfl⟩
theorem rdmaRead (qpn : BitVec 16) (rkey : Word) (a : Addr) (len : Nat) (ing : Ingress) (hits : List Hit) : Statement (.rdmaRead qpn rkey a len ing hits) := ⟨fun _ => trivial, fun _ => rfl⟩
theorem fetchAndAdd (qpn : BitVec 16) (rkey : Word) (a : Addr) (operand : BitVec 64) (ing : Ingress) (hits : List Hit) : Statement (.fetchAndAdd qpn rkey a operand ing hits) := ⟨fun _ => trivial, fun _ => rfl⟩
theorem unsupportedFrame (n : BitVec 5) (f : BadFrame) : Statement (.unsupportedFrame n f) := decide_eq_true_iff
theorem pfcXoff (n : BitVec 5) (cls : Bool) : Statement (.pfcXoff n cls) := decide_eq_true_iff
theorem pfcXon (n : BitVec 5) (cls lapse : Bool) : Statement (.pfcXon n cls lapse) := decide_eq_true_iff
theorem pfcStorm (n : BitVec 5) (cls : Bool) : Statement (.pfcStorm n cls) := decide_eq_true_iff
theorem cnp (qpn : BitVec 16) : Statement (.cnp qpn) := ⟨fun _ => trivial, fun _ => rfl⟩
theorem ccPeriod (qpn : BitVec 16) : Statement (.ccPeriod qpn) := ⟨fun _ => trivial, fun _ => rfl⟩
theorem ackTimeout (qpn : BitVec 16) : Statement (.ackTimeout qpn) := ⟨fun _ => trivial, fun _ => rfl⟩
theorem nakReceived (qpn : BitVec 16) (kind : NakKind) (ing : Ingress) : Statement (.nakReceived qpn kind ing) := ⟨fun _ => trivial, fun _ => rfl⟩
theorem qpLoad (o : Origin) (qpn : BitVec 16) : Statement (.qpLoad o qpn) := ⟨fun _ => trivial, fun _ => rfl⟩
theorem qpCmdError (o : Origin) (qpn : BitVec 16) : Statement (.qpCmdError o qpn) := ⟨fun _ => trivial, fun _ => rfl⟩
theorem qpReset (o : Origin) (qpn : BitVec 16) : Statement (.qpReset o qpn) := ⟨fun _ => trivial, fun _ => rfl⟩
theorem qpRearm (o : Origin) (qpn : BitVec 16) : Statement (.qpRearm o qpn) := ⟨fun _ => trivial, fun _ => rfl⟩
theorem linkDown (n : BitVec 5) (ticks : Nat) : Statement (.linkDown n ticks) := decide_eq_true_iff
theorem linkUp (n : BitVec 5) : Statement (.linkUp n) := decide_eq_true_iff
theorem arpRequest (v6 : Bool) (target : BitVec 128) (mac : BitVec 48) (ip : BitVec 128) (fec : Nat) : Statement (.arpRequest v6 target mac ip fec) := ⟨fun _ => trivial, fun _ => rfl⟩
theorem regRead (m : MgmtIn) : Statement (.regRead m) := opWf_read m
theorem regWrite (m : MgmtIn) : Statement (.regWrite m) := opWf_iff 2 (by decide) m
theorem telemRead (m : MgmtIn) : Statement (.telemRead m) := opWf_iff 3 (by decide) m
theorem nvmRead (m : MgmtIn) : Statement (.nvmRead m) := opWf_iff 4 (by decide) m
theorem nvmErase (m : MgmtIn) : Statement (.nvmErase m) := opWf_iff 5 (by decide) m
theorem nvmProgram (m : MgmtIn) : Statement (.nvmProgram m) := opWf_iff 6 (by decide) m
theorem noticeTimeout : Statement (.noticeTimeout) := ⟨fun _ => trivial, fun _ => rfl⟩
theorem getVersion (r : Asker) : Statement (.getVersion r) := ⟨fun _ => trivial, fun _ => rfl⟩
theorem getCapabilities (r : Asker) : Statement (.getCapabilities r) := ⟨fun _ => trivial, fun _ => rfl⟩
theorem negotiateAlgorithms (r : Asker) : Statement (.negotiateAlgorithms r) := ⟨fun _ => trivial, fun _ => rfl⟩
theorem getDigests (r : Asker) : Statement (.getDigests r) := ⟨fun _ => trivial, fun _ => rfl⟩
theorem getCertificate (slot : BitVec 8) (offset len : BitVec 16) (r : Asker) : Statement (.getCertificate slot offset len r) := ⟨fun _ => trivial, fun _ => rfl⟩
theorem challenge (slot : BitVec 8) (nonce : List Byte) (r : Asker) : Statement (.challenge slot nonce r) := decide_eq_true_iff
theorem getMeasurements (index : BitVec 8) (signed : Bool) (nonce : List Byte) (r : Asker) : Statement (.getMeasurements index signed nonce r) := decide_eq_true_iff
theorem chunkGet (handle : Byte) (chunk : BitVec 16) (r : Asker) : Statement (.chunkGet handle chunk r) := ⟨fun _ => trivial, fun _ => rfl⟩
theorem vendorDefinedRequest (standard : BitVec 16) (vid : Word) (payload : List Byte) (r : Asker) : Statement (.vendorDefinedRequest standard vid payload r) := ⟨fun _ => trivial, fun _ => rfl⟩
theorem smbSetOffset (v : Word) : Statement (.smbSetOffset v) := ⟨fun _ => trivial, fun _ => rfl⟩
theorem smbBlockRead : Statement (.smbBlockRead) := ⟨fun _ => trivial, fun _ => rfl⟩
theorem smbAlertResponse : Statement (.smbAlertResponse) := ⟨fun _ => trivial, fun _ => rfl⟩
theorem bypass : Statement (.bypass) := ⟨fun _ => trivial, fun _ => rfl⟩
theorem idcode : Statement (.idcode) := ⟨fun _ => trivial, fun _ => rfl⟩
theorem samplePreload : Statement (.samplePreload) := ⟨fun _ => trivial, fun _ => rfl⟩
theorem extest : Statement (.extest) := ⟨fun _ => trivial, fun _ => rfl⟩
theorem clamp : Statement (.clamp) := ⟨fun _ => trivial, fun _ => rfl⟩
theorem highz : Statement (.highz) := ⟨fun _ => trivial, fun _ => rfl⟩
theorem testReset : Statement (.testReset) := ⟨fun _ => trivial, fun _ => rfl⟩
theorem faultMessage (hits : List Hit) : Statement (.faultMessage hits) := ⟨fun _ => trivial, fun _ => rfl⟩
theorem dstStatusClear (o : Origin) (v : Word) : Statement (.dstStatusClear o v) := ⟨fun _ => trivial, fun _ => rfl⟩
theorem evrBaseWrite (o : Origin) (hi : Bool) (v : Word) : Statement (.evrBaseWrite o hi v) := ⟨fun _ => trivial, fun _ => rfl⟩
theorem evrCfgWrite (o : Origin) (v : Word) : Statement (.evrCfgWrite o v) := ⟨fun _ => trivial, fun _ => rfl⟩
theorem kindCfgWrite (o : Origin) (win : Bool) (v : Word) : Statement (.kindCfgWrite o win v) := ⟨fun _ => trivial, fun _ => rfl⟩
theorem retire (o : Origin) (w : BitVec 2) (v : Word) (nvmErr : Bool) : Statement (.retire o w v nvmErr) := ⟨fun _ => trivial, fun _ => rfl⟩
theorem returnFromRepair (o : Origin) (w : BitVec 2) (v : Word) (nvmErr : Bool) : Statement (.returnFromRepair o w v nvmErr) := ⟨fun _ => trivial, fun _ => rfl⟩
theorem gateWrite (o : Origin) (w : BitVec 2) (v : Word) : Statement (.gateWrite o w v) := ⟨fun _ => trivial, fun _ => rfl⟩
theorem sleepWrite (o : Origin) (w : BitVec 2) (v : Word) : Statement (.sleepWrite o w v) := ⟨fun _ => trivial, fun _ => rfl⟩
theorem sleepEntry (u : BitVec 7) : Statement (.sleepEntry u) := unitWf_iff u
theorem wake (u : BitVec 7) : Statement (.wake u) := unitWf_iff u
theorem unitReset (o : Origin) (w : BitVec 2) (v : Word) : Statement (.unitReset o w v) := ⟨fun _ => trivial, fun _ => rfl⟩
theorem unitResetDone (u : BitVec 7) : Statement (.unitResetDone u) := unitWf_iff u
theorem issueWrite (o : Origin) (v : Word) : Statement (.issueWrite o v) := ⟨fun _ => trivial, fun _ => rfl⟩
theorem runSet (o : Origin) (i : BitVec 7) (v : Word) : Statement (.runSet o i v) := ⟨fun _ => trivial, fun _ => rfl⟩
theorem runClr (o : Origin) (i : BitVec 7) (v : Word) : Statement (.runClr o i v) := ⟨fun _ => trivial, fun _ => rfl⟩
theorem spareWrite (o : Origin) (v : Word) : Statement (.spareWrite o v) := ⟨fun _ => trivial, fun _ => rfl⟩
theorem devReset (o : Origin) (v : Word) : Statement (.devReset o v) := ⟨fun _ => trivial, fun _ => rfl⟩
theorem fmStart (o : Origin) (v : Word) : Statement (.fmStart o v) := ⟨fun _ => trivial, fun _ => rfl⟩
theorem fmDone (count : Nat) : Statement (.fmDone count) := ⟨fun _ => trivial, fun _ => rfl⟩
theorem driftWindow (count : Nat) : Statement (.driftWindow count) := ⟨fun _ => trivial, fun _ => rfl⟩
theorem clockMonitorReset : Statement (.clockMonitorReset) := ⟨fun _ => trivial, fun _ => rfl⟩
theorem resetPin : Statement (.resetPin) := ⟨fun _ => trivial, fun _ => rfl⟩
theorem powerOn : Statement (.powerOn) := ⟨fun _ => trivial, fun _ => rfl⟩
theorem powerDown : Statement (.powerDown) := ⟨fun _ => trivial, fun _ => rfl⟩
theorem vrFault (rail : BitVec 3) : Statement (.vrFault rail) := ⟨fun _ => trivial, fun _ => rfl⟩
theorem powerTrip (rail : BitVec 3) : Statement (.powerTrip rail) := ⟨fun _ => trivial, fun _ => rfl⟩
theorem regulatorRestart : Statement (.regulatorRestart) := ⟨fun _ => trivial, fun _ => rfl⟩
theorem whorlPeriod (m : Sample) : Statement (.whorlPeriod m) := sample_iff m
theorem thermtripRelease (m : Sample) : Statement (.thermtripRelease m) := sample_iff m
theorem flowLow : Statement (.flowLow) := ⟨fun _ => trivial, fun _ => rfl⟩
theorem flowRestored : Statement (.flowRestored) := ⟨fun _ => trivial, fun _ => rfl⟩
theorem retiredSleep (u : BitVec 7) : Statement (.retiredSleep u) := unitWf_iff u
theorem tabDataWrite (o : Origin) (v : Word) : Statement (.tabDataWrite o v) := ⟨fun _ => trivial, fun _ => rfl⟩
theorem bootStart (e : BootEnv) : Statement (.bootStart e) := ⟨fun _ => trivial, fun _ => rfl⟩
theorem clockStabilityWindow (count : Nat) : Statement (.clockStabilityWindow count) := ⟨fun _ => trivial, fun _ => rfl⟩
theorem bootReady : Statement (.bootReady) := ⟨fun _ => trivial, fun _ => rfl⟩
theorem bootFail : Statement (.bootFail) := ⟨fun _ => trivial, fun _ => rfl⟩
theorem rwpWrite (o : Origin) (a : Addr) (v : Word) (nvmErr : Bool) : Statement (.rwpWrite o a v nvmErr) := decide_eq_true_iff
theorem telemetryCopy : Statement (.telemetryCopy) := ⟨fun _ => trivial, fun _ => rfl⟩
theorem lifeDaysTick : Statement (.lifeDaysTick) := ⟨fun _ => trivial, fun _ => rfl⟩
theorem fuseProgram (o : Origin) (v : Word) : Statement (.fuseProgram o v) := ⟨fun _ => trivial, fun _ => rfl⟩
theorem fuseRevoke (o : Origin) (v : Word) : Statement (.fuseRevoke o v) := ⟨fun _ => trivial, fun _ => rfl⟩
theorem fuseDone : Statement (.fuseDone) := ⟨fun _ => trivial, fun _ => rfl⟩
theorem rcCounterRead (o : Origin) (a : Addr) : Statement (.rcCounterRead o a) := counter_iff a
theorem registerWrite (o : Origin) (a : Addr) (v : Word) : Statement (.registerWrite o a v) := decide_eq_true_iff
theorem acknowledgement (qpn : BitVec 16) (ing : Ingress) : Statement (.acknowledgement qpn ing) := ⟨fun _ => trivial, fun _ => rfl⟩
theorem pfcXoffRepeat (n : BitVec 5) (cls : Bool) (occupancy : Nat) : Statement (.pfcXoffRepeat n cls occupancy) := decide_eq_true_iff
theorem nextHopAnswer (mac : BitVec 48) (fec : Nat) : Statement (.nextHopAnswer mac fec) := ⟨fun _ => trivial, fun _ => rfl⟩
theorem strayMessage (m : SendIn) : Statement (.strayMessage m) := ⟨fun _ => trivial, fun _ => rfl⟩
theorem spdmUnsupportedRequest (code : Byte) (r : Asker) : Statement (.spdmUnsupportedRequest code r) := ⟨fun _ => trivial, fun _ => rfl⟩
theorem smbOtherCommand (code : Byte) : Statement (.smbOtherCommand code) := other_iff code
theorem resetPinRelease : Statement (.resetPinRelease) := ⟨fun _ => trivial, fun _ => rfl⟩
theorem coreReferencePresent : Statement (.coreReferencePresent) := ⟨fun _ => trivial, fun _ => rfl⟩

end Sys2Proof.Laws.WellFormed
end

