-- ==== Sys2Proof/Laws/Sound.lean ====
section
/-! SUPPORT. The invariant `Sound`: how it passes through updates, folds and choices. -/

namespace Sys2Proof.Machine

/-- The pieces that `Sound` says nothing about. -/
def soundL (p : Piece) : Bool := p ≠ .mem && p ≠ .nvm && p ≠ .dst && p ≠ .tick && p ≠ .cyc

theorem sound_iff {s : State} : Sound s ↔
    Memory.wf s.mem = true ∧ Nvm.wf s.nvm = true ∧ (∀ e ∈ s.dst.queues, e.2.length ≤ 8) ∧ s.tick < 2 ^ 48 ∧ s.cyc < 2 ^ 48 :=
  ⟨fun h => ⟨h.1, h.2, h.3, h.4, h.5⟩, fun h => ⟨h.1, h.2.1, h.2.2.1, h.2.2.2.1, h.2.2.2.2⟩⟩

theorem sound_of_mask {s t : State} (h : t.mask soundL = s.mask soundL) (hs : Sound s) : Sound t := by
  have h1 := sameAt_of_mask h .mem rfl
  have h2 := sameAt_of_mask h .nvm rfl
  have h3 := sameAt_of_mask h .dst rfl
  have h4 := sameAt_of_mask h .tick rfl
  have h5 := sameAt_of_mask h .cyc rfl
  simp only [SameAt] at h1 h2 h3 h4 h5
  rw [sound_iff] at hs ⊢
  rw [h1, h2, h3, h4, h5]; exact hs

@[simp] theorem sound_foldl {α : Type} {f : State → α → State} (h : ∀ s x, Sound s → Sound (f s x)) (l : List α) (s : State)
    (hs : Sound s) : Sound (l.foldl f s) := by
  induction l generalizing s with
  | nil => exact hs
  | cons x r ih => exact ih _ (h _ _ hs)

@[simp] theorem sound_foldl_fst {α β : Type} {f : State × β → α → State × β} (h : ∀ a x, Sound a.1 → Sound (f a x).1) (l : List α)
    (a : State × β) (ha : Sound a.1) : Sound (l.foldl f a).1 := by
  induction l generalizing a with
  | nil => exact ha
  | cons x r ih => exact ih _ (h _ _ ha)

@[simp] theorem sound_foldl_snd {α β : Type} {f : β × State → α → β × State} (h : ∀ a x, Sound a.2 → Sound (f a x).2) (l : List α)
    (a : β × State) (ha : Sound a.2) : Sound (l.foldl f a).2 := by
  induction l generalizing a with
  | nil => exact ha
  | cons x r ih => exact ih _ (h _ _ ha)

@[simp] theorem sound_ite {c : Prop} [Decidable c] {s t : State} (hs : Sound s) (ht : Sound t) : Sound (if c then s else t) := by
  split <;> assumption

@[simp] theorem sound_set_pending {s : State} {v : List Instr} (h : Sound s) : Sound { s with pending := v } := by
  rw [sound_iff] at h ⊢; exact h
@[simp] theorem sound_set_wall {s : State} {v : Nat} (h : Sound s) : Sound { s with wall := v } := by
  rw [sound_iff] at h ⊢; exact h
@[simp] theorem sound_set_free {s : State} {v : Nat} (h : Sound s) : Sound { s with free := v } := by
  rw [sound_iff] at h ⊢; exact h
@[simp] theorem sound_set_ids {s : State} {v : Nat} (h : Sound s) : Sound { s with ids := v } := by
  rw [sound_iff] at h ⊢; exact h
@[simp] theorem sound_set_reg {s : State} {v : AMap Word} (h : Sound s) : Sound { s with reg := v } := by
  rw [sound_iff] at h ⊢; exact h
@[simp] theorem sound_set_errs {s : State} {v : AMap (List Byte)} (h : Sound s) : Sound { s with errs := v } := by
  rw [sound_iff] at h ⊢; exact h
@[simp] theorem sound_set_skn {s : State} {v : AMap Skn} (h : Sound s) : Sound { s with skn := v } := by
  rw [sound_iff] at h ⊢; exact h
@[simp] theorem sound_set_gate {s : State} {v : BitVec 128} (h : Sound s) : Sound { s with gate := v } := by
  rw [sound_iff] at h ⊢; exact h
@[simp] theorem sound_set_pend {s : State} {v : BitVec 128} (h : Sound s) : Sound { s with pend := v } := by
  rw [sound_iff] at h ⊢; exact h
@[simp] theorem sound_set_rstBusy {s : State} {v : BitVec 128} (h : Sound s) : Sound { s with rstBusy := v } := by
  rw [sound_iff] at h ⊢; exact h
@[simp] theorem sound_set_sleepReq {s : State} {v : BitVec 128} (h : Sound s) : Sound { s with sleepReq := v } := by
  rw [sound_iff] at h ⊢; exact h
@[simp] theorem sound_set_asleep {s : State} {v : BitVec 128} (h : Sound s) : Sound { s with asleep := v } := by
  rw [sound_iff] at h ⊢; exact h
@[simp] theorem sound_set_wakeAt {s : State} {v : AMap Nat} (h : Sound s) : Sound { s with wakeAt := v } := by
  rw [sound_iff] at h ⊢; exact h
@[simp] theorem sound_set_run {s : State} {v : BitVec 4096} (h : Sound s) : Sound { s with run := v } := by
  rw [sound_iff] at h ⊢; exact h
@[simp] theorem sound_set_spare {s : State} {v : BitVec 5} (h : Sound s) : Sound { s with spare := v } := by
  rw [sound_iff] at h ⊢; exact h
@[simp] theorem sound_set_spareReq {s : State} {v : Option (BitVec 5 × Nat)} (h : Sound s) : Sound { s with spareReq := v } := by
  rw [sound_iff] at h ⊢; exact h
@[simp] theorem sound_set_ready {s : State} {v : Bool} (h : Sound s) : Sound { s with ready := v } := by
  rw [sound_iff] at h ⊢; exact h
@[simp] theorem sound_set_bobs {s : State} {v : AMap Bob} (h : Sound s) : Sound { s with bobs := v } := by
  rw [sound_iff] at h ⊢; exact h
@[simp] theorem sound_set_turns {s : State} {v : AMap Turn} (h : Sound s) : Sound { s with turns := v } := by
  rw [sound_iff] at h ⊢; exact h
@[simp] theorem sound_set_fetchTurns {s : State} {v : AMap Turn} (h : Sound s) : Sound { s with fetchTurns := v } := by
  rw [sound_iff] at h ⊢; exact h
@[simp] theorem sound_set_barriers {s : State} {v : AMap Word} (h : Sound s) : Sound { s with barriers := v } := by
  rw [sound_iff] at h ⊢; exact h
@[simp] theorem sound_set_barrierAt {s : State} {v : AMap Nat} (h : Sound s) : Sound { s with barrierAt := v } := by
  rw [sound_iff] at h ⊢; exact h
@[simp] theorem sound_set_holds {s : State} {v : AMap Bool} (h : Sound s) : Sound { s with holds := v } := by
  rw [sound_iff] at h ⊢; exact h
@[simp] theorem sound_set_epochs {s : State} {v : AMap (BitVec 16)} (h : Sound s) : Sound { s with epochs := v } := by
  rw [sound_iff] at h ⊢; exact h
@[simp] theorem sound_set_ports {s : State} {v : AMap (List Issued)} (h : Sound s) : Sound { s with ports := v } := by
  rw [sound_iff] at h ⊢; exact h
@[simp] theorem sound_set_sched {s : State} {v : List Issued} (h : Sound s) : Sound { s with sched := v } := by
  rw [sound_iff] at h ⊢; exact h
@[simp] theorem sound_set_reports {s : State} {v : List Report} (h : Sound s) : Sound { s with reports := v } := by
  rw [sound_iff] at h ⊢; exact h
@[simp] theorem sound_set_seqs {s : State} {v : AMap Word} (h : Sound s) : Sound { s with seqs := v } := by
  rw [sound_iff] at h ⊢; exact h
@[simp] theorem sound_set_rwp {s : State} {v : AMap Word} (h : Sound s) : Sound { s with rwp := v } := by
  rw [sound_iff] at h ⊢; exact h
@[simp] theorem sound_set_wear {s : State} {v : AMap Nat} (h : Sound s) : Sound { s with wear := v } := by
  rw [sound_iff] at h ⊢; exact h
@[simp] theorem sound_set_retireWait {s : State} {v : BitVec 128} (h : Sound s) : Sound { s with retireWait := v } := by
  rw [sound_iff] at h ⊢; exact h
@[simp] theorem sound_set_cause {s : State} {v : BitVec 3} (h : Sound s) : Sound { s with cause := v } := by
  rw [sound_iff] at h ⊢; exact h
@[simp] theorem sound_set_pllLock {s : State} {v : Bool} (h : Sound s) : Sound { s with pllLock := v } := by
  rw [sound_iff] at h ⊢; exact h
@[simp] theorem sound_set_spread {s : State} {v : Bool} (h : Sound s) : Sound { s with spread := v } := by
  rw [sound_iff] at h ⊢; exact h
@[simp] theorem sound_set_onRoot {s : State} {v : Bool} (h : Sound s) : Sound { s with onRoot := v } := by
  rw [sound_iff] at h ⊢; exact h
@[simp] theorem sound_set_clocksOn {s : State} {v : Bool} (h : Sound s) : Sound { s with clocksOn := v } := by
  rw [sound_iff] at h ⊢; exact h
@[simp] theorem sound_set_fmRun {s : State} {v : Bool} (h : Sound s) : Sound { s with fmRun := v } := by
  rw [sound_iff] at h ⊢; exact h
@[simp] theorem sound_set_fmDone {s : State} {v : Bool} (h : Sound s) : Sound { s with fmDone := v } := by
  rw [sound_iff] at h ⊢; exact h
@[simp] theorem sound_set_fmResult {s : State} {v : Word} (h : Sound s) : Sound { s with fmResult := v } := by
  rw [sound_iff] at h ⊢; exact h
@[simp] theorem sound_set_driftOdd {s : State} {v : Bool} (h : Sound s) : Sound { s with driftOdd := v } := by
  rw [sound_iff] at h ⊢; exact h
@[simp] theorem sound_set_monLast {s : State} {v : Word} (h : Sound s) : Sound { s with monLast := v } := by
  rw [sound_iff] at h ⊢; exact h
@[simp] theorem sound_set_fmt {s : State} {v : AMap (List Word)} (h : Sound s) : Sound { s with fmt := v } := by
  rw [sound_iff] at h ⊢; exact h
@[simp] theorem sound_set_spn {s : State} {v : AMap Spn} (h : Sound s) : Sound { s with spn := v } := by
  rw [sound_iff] at h ⊢; exact h
@[simp] theorem sound_set_fly {s : State} {v : AMap Fly} (h : Sound s) : Sound { s with fly := v } := by
  rw [sound_iff] at h ⊢; exact h
@[simp] theorem sound_set_curves {s : State} {v : AMap (List Word)} (h : Sound s) : Sound { s with curves := v } := by
  rw [sound_iff] at h ⊢; exact h
@[simp] theorem sound_set_struck {s : State} {v : List Hit} (h : Sound s) : Sound { s with struck := v } := by
  rw [sound_iff] at h ⊢; exact h
@[simp] theorem sound_set_images {s : State} {v : AMap Image} (h : Sound s) : Sound { s with images := v } := by
  rw [sound_iff] at h ⊢; exact h
@[simp] theorem sound_set_imgState {s : State} {v : AMap ImgState} (h : Sound s) : Sound { s with imgState := v } := by
  rw [sound_iff] at h ⊢; exact h
@[simp] theorem sound_set_loading {s : State} {v : List Issued} (h : Sound s) : Sound { s with loading := v } := by
  rw [sound_iff] at h ⊢; exact h
@[simp] theorem sound_set_loadCtx {s : State} {v : BitVec 12} (h : Sound s) : Sound { s with loadCtx := v } := by
  rw [sound_iff] at h ⊢; exact h
@[simp] theorem sound_set_loadResult {s : State} {v : Word} (h : Sound s) : Sound { s with loadResult := v } := by
  rw [sound_iff] at h ⊢; exact h
@[simp] theorem sound_set_loadAddr {s : State} {v : BitVec 48} (h : Sound s) : Sound { s with loadAddr := v } := by
  rw [sound_iff] at h ⊢; exact h
@[simp] theorem sound_set_planCache {s : State} {v : AMap Nat} (h : Sound s) : Sound { s with planCache := v } := by
  rw [sound_iff] at h ⊢; exact h
@[simp] theorem sound_set_lastRun {s : State} {v : Word} (h : Sound s) : Sound { s with lastRun := v } := by
  rw [sound_iff] at h ⊢; exact h
@[simp] theorem sound_set_lastBucket {s : State} {v : BitVec 4} (h : Sound s) : Sound { s with lastBucket := v } := by
  rw [sound_iff] at h ⊢; exact h
@[simp] theorem sound_set_ctxs {s : State} {v : AMap Ctx} (h : Sound s) : Sound { s with ctxs := v } := by
  rw [sound_iff] at h ⊢; exact h
@[simp] theorem sound_set_trns {s : State} {v : AMap Trn} (h : Sound s) : Sound { s with trns := v } := by
  rw [sound_iff] at h ⊢; exact h
@[simp] theorem sound_set_lsInit {s : State} {v : BitVec 8} (h : Sound s) : Sound { s with lsInit := v } := by
  rw [sound_iff] at h ⊢; exact h
@[simp] theorem sound_set_qps {s : State} {v : AMap Qp} (h : Sound s) : Sound { s with qps := v } := by
  rw [sound_iff] at h ⊢; exact h
@[simp] theorem sound_set_prts {s : State} {v : AMap Prt} (h : Sound s) : Sound { s with prts := v } := by
  rw [sound_iff] at h ⊢; exact h
@[simp] theorem sound_set_qpResult {s : State} {v : Word} (h : Sound s) : Sound { s with qpResult := v } := by
  rw [sound_iff] at h ⊢; exact h
@[simp] theorem sound_set_crds {s : State} {v : AMap Crd} (h : Sound s) : Sound { s with crds := v } := by
  rw [sound_iff] at h ⊢; exact h
@[simp] theorem sound_set_ply {s : State} {v : List PlyCmd} (h : Sound s) : Sound { s with ply := v } := by
  rw [sound_iff] at h ⊢; exact h
@[simp] theorem sound_set_ndy {s : State} {v : Ndy} (h : Sound s) : Sound { s with ndy := v } := by
  rw [sound_iff] at h ⊢; exact h
@[simp] theorem sound_set_fuses {s : State} {v : Fuses} (h : Sound s) : Sound { s with fuses := v } := by
  rw [sound_iff] at h ⊢; exact h
@[simp] theorem sound_set_whl {s : State} {v : Whl} (h : Sound s) : Sound { s with whl := v } := by
  rw [sound_iff] at h ⊢; exact h
@[simp] theorem sound_set_pkg {s : State} {v : Pkg} (h : Sound s) : Sound { s with pkg := v } := by
  rw [sound_iff] at h ⊢; exact h
@[simp] theorem sound_set_out {s : State} {v : List Out} (h : Sound s) : Sound { s with out := v } := by
  rw [sound_iff] at h ⊢; exact h

theorem Sound.nvm_mput {s : State} (h : Sound s) (k : Nat) (v : Byte) : Nvm.wf (mput s.nvm k v erased) = true := mapWf_mput k v h.nvm

@[simp] theorem sound_set_nvm {s : State} {v : AMap Byte} (h : Sound s) (hv : Nvm.wf v = true) : Sound { s with nvm := v } :=
  ⟨h.1, hv, h.3, h.4, h.5⟩

@[simp] theorem sound_set_mem {s : State} {v : List Host.Cell} (h : Sound s) (hv : Memory.wf v = true) : Sound { s with mem := v } :=
  ⟨hv, h.2, h.3, h.4, h.5⟩

@[simp] theorem sound_set_dst {s : State} {d : Distaff} (h : Sound s) (hd : d.queues = s.dst.queues) : Sound { s with dst := d } :=
  ⟨h.1, h.2, fun e he => h.3 e (hd ▸ he), h.4, h.5⟩

end Sys2Proof.Machine
end

