-- ==== Sys2Proof/Laws/SoundStorage.lean ====
section
/-! SUPPORT. `Sound` is kept: the shared operations, skein memory, persistent registers, reports and the flyers' memory. -/

namespace Sys2Proof.Machine

@[simp] theorem State.bumpFree_sound (s : State) (hS : Sound s) :
    Sound ((s.bumpFree)) := by
  refine sound_of_mask ?_ hS
  apply State.bumpFree_mask <;> first | rfl | (intro p hp; revert hp; cases p <;> decide)

@[simp] theorem State.bumpId_sound (s : State) (hS : Sound s) :
    Sound ((s.bumpId)) := by
  refine sound_of_mask ?_ hS
  apply State.bumpId_mask <;> first | rfl | (intro p hp; revert hp; cases p <;> decide)

@[simp] theorem State.setReg_sound (s : State) (a : Nat) (v : Word) (hS : Sound s) :
    Sound ((s.setReg a v)) := by
  refine sound_of_mask ?_ hS
  apply State.setReg_mask <;> first | rfl | (intro p hp; revert hp; cases p <;> decide)

@[simp] theorem State.count_sound (s : State) (a n : Nat) (hS : Sound s) :
    Sound ((s.count a n)) := by
  refine sound_of_mask ?_ hS
  apply State.count_mask <;> first | rfl | (intro p hp; revert hp; cases p <;> decide)

@[simp] theorem State.clearBlock_sound (s : State) (code inst : Nat) (p : RegRow → Bool) (hS : Sound s) :
    Sound ((s.clearBlock code inst p)) := by
  refine sound_of_mask ?_ hS
  apply State.clearBlock_mask <;> first | rfl | (intro p hp; revert hp; cases p <;> decide)

@[simp] theorem State.clearCounters_sound (s : State) (code inst : Nat) (hS : Sound s) :
    Sound ((s.clearCounters code inst)) := by
  refine sound_of_mask ?_ hS
  apply State.clearCounters_mask <;> first | rfl | (intro p hp; revert hp; cases p <;> decide)

@[simp] theorem State.clearRegs_sound (s : State) (code inst : Nat) (hS : Sound s) :
    Sound ((s.clearRegs code inst)) := by
  refine sound_of_mask ?_ hS
  apply State.clearRegs_mask <;> first | rfl | (intro p hp; revert hp; cases p <;> decide)

@[simp] theorem sendMsg_sound (m : Msg) (charge : Option Nat) (s : State) (hS : Sound s) :
    Sound ((sendMsg m charge s)) := by
  unfold sendMsg
  dsimp only
  split
  · next hq =>
    refine ⟨hS.1, hS.2, ?_, hS.4, hS.5⟩
    intro e he
    rcases mem_mput he with he | he
    · subst he; simp; omega
    · exact hS.3 e he
  · split <;> exact ⟨hS.1, hS.2, hS.3, hS.4, hS.5⟩

@[simp] theorem tagNew_sound (f : Byte) (s t : State) (hS : Sound t) :
    Sound ((tagNew f s t)) := by
  refine ⟨hS.1, hS.2, ?_, hS.4, hS.5⟩
  intro e he
  obtain ⟨x, hx, rfl⟩ := List.mem_map.mp he
  have := hS.3 x hx
  simp only [flagFrom, List.length_append, List.length_map, List.length_take, List.length_drop]
  omega

@[simp] theorem faultAddr_sound (source : BitVec 16) (kind : Byte) (addr : Nat) (s : State) (hS : Sound s) :
    Sound ((faultAddr source kind addr s)) := by
  unfold faultAddr; simp (maxDischargeDepth := 40) +contextual [*]

@[simp] theorem faultParam_sound (source : BitVec 16) (kind : Byte) (param : Nat) (s : State) (hS : Sound s) :
    Sound ((faultParam source kind param s)) := by
  unfold faultParam; simp (maxDischargeDepth := 40) +contextual [*]

@[simp] theorem faultAddrN_sound (source : BitVec 16) (kind : Byte) (addr n : Nat) (s : State) (hS : Sound s) :
    Sound ((faultAddrN source kind addr n s)) := by
  unfold faultAddrN; simp (maxDischargeDepth := 40) +contextual [*]

@[simp] theorem faultCharged_sound (source : BitVec 16) (f : Flt) (id : Nat) (s : State) (hS : Sound s) :
    Sound ((faultCharged source f id s)) := by
  unfold faultCharged; simp (maxDischargeDepth := 40) +contextual [*]

@[simp] theorem faultPlain_sound (source : BitVec 16) (f : Flt) (s : State) (hS : Sound s) :
    Sound ((faultPlain source f s)) := by
  unfold faultPlain; simp (maxDischargeDepth := 40) +contextual [*]

@[simp] theorem faultsOf_sound (source : BitVec 16) (fs : List Flt) (id : Nat) (s : State) (hS : Sound s) :
    Sound ((faultsOf source fs id s)) := by
  simp only [faultsOf]; (repeat' split) <;> simp (maxDischargeDepth := 40) +contextual [*]

@[simp] theorem State.bumpEpoch_sound (s : State) (u : Nat) (hS : Sound s) :
    Sound ((s.bumpEpoch u)) := by
  refine sound_of_mask ?_ hS
  apply State.bumpEpoch_mask <;> first | rfl | (intro p hp; revert hp; cases p <;> decide)

@[simp] theorem State.setBarrier_sound (s : State) (i : Nat) (v : Word) (hS : Sound s) :
    Sound ((s.setBarrier i v)) := by
  refine sound_of_mask ?_ hS
  apply State.setBarrier_mask <;> first | rfl | (intro p hp; revert hp; cases p <;> decide)

@[simp] theorem State.incBarrier_sound (s : State) (i : Nat) (hS : Sound s) :
    Sound ((s.incBarrier i)) := by
  refine sound_of_mask ?_ hS
  apply State.incBarrier_mask <;> first | rfl | (intro p hp; revert hp; cases p <;> decide)

@[simp] theorem State.setHold_sound (s : State) (t : Nat) (v : Bool) (hS : Sound s) :
    Sound ((s.setHold t v)) := by
  refine sound_of_mask ?_ hS
  apply State.setHold_mask <;> first | rfl | (intro p hp; revert hp; cases p <;> decide)

@[simp] theorem State.setPort_sound (s : State) (u : Nat) (l : List Issued) (hS : Sound s) :
    Sound ((s.setPort u l)) := by
  refine sound_of_mask ?_ hS
  apply State.setPort_mask <;> first | rfl | (intro p hp; revert hp; cases p <;> decide)

@[simp] theorem State.addReport_sound (s : State) (r : Report) (hS : Sound s) :
    Sound ((s.addReport r)) := by
  refine sound_of_mask ?_ hS
  apply State.addReport_mask <;> first | rfl | (intro p hp; revert hp; cases p <;> decide)

@[simp] theorem State.setBob_sound (s : State) (b : Nat) (x : Bob) (hS : Sound s) :
    Sound ((s.setBob b x)) := by
  refine sound_of_mask ?_ hS
  apply State.setBob_mask <;> first | rfl | (intro p hp; revert hp; cases p <;> decide)

@[simp] theorem State.emit_sound (s : State) (o : Out) (hS : Sound s) :
    Sound ((s.emit o)) := by
  refine sound_of_mask ?_ hS
  apply State.emit_mask <;> first | rfl | (intro p hp; revert hp; cases p <;> decide)

@[simp] theorem State.setSkein_sound (s : State) (k : Nat) (x : Skn) (hS : Sound s) :
    Sound ((s.setSkein k x)) := by
  refine sound_of_mask ?_ hS
  apply State.setSkein_mask <;> first | rfl | (intro p hp; revert hp; cases p <;> decide)

@[simp] theorem State.setErr_sound (s : State) (sec : Nat) (e : List Byte) (hS : Sound s) :
    Sound ((s.setErr sec e)) := by
  refine sound_of_mask ?_ hS
  apply State.setErr_mask <;> first | rfl | (intro p hp; revert hp; cases p <;> decide)

@[simp] theorem State.writeErr_sound (s : State) (sec : Nat) (e : List Byte) (hS : Sound s) :
    Sound ((s.writeErr sec e)) := by
  refine sound_of_mask ?_ hS
  apply State.writeErr_mask <;> first | rfl | (intro p hp; revert hp; cases p <;> decide)

@[simp] theorem State.setByte_sound (s : State) (a : Nat) (v : Byte) (hS : Sound s) :
    Sound ((s.setByte a v)) := by
  exact ⟨mapWf_mput _ _ hS.1, hS.2, hS.3, hS.4, hS.5⟩

@[simp] theorem State.setBytes_sound (s : State) (a : Nat) (l : List Byte) (hS : Sound s) :
    Sound ((s.setBytes a l)) := by
  induction l generalizing s a with
  | nil => exact hS
  | cons b r ih => exact ih _ _ (State.setByte_sound _ _ _ hS)

@[simp] theorem errorResponse_sound (who : BitVec 16) (flags : Byte) (a : Nat) (kind : Byte) (s : State) (hS : Sound s) :
    Sound ((errorResponse who flags a kind s)) := by
  unfold errorResponse; simp (maxDischargeDepth := 40) +contextual [*]

@[simp] theorem bucketAdd_sound (k c a : Nat) (s : State) (hS : Sound s) :
    Sound ((bucketAdd k c a s)) := by
  unfold bucketAdd; simp (maxDischargeDepth := 40) +contextual [*]

@[simp] theorem correctable_sound (k sec : Nat) (s : State) (hS : Sound s) :
    Sound ((correctable k sec s)) := by
  unfold correctable; simp (maxDischargeDepth := 40) +contextual [*]

@[simp] theorem uncorrectable_sound (kind : Byte) (k sec : Nat) (s : State) (hS : Sound s) :
    Sound ((uncorrectable kind k sec s)) := by
  unfold uncorrectable; simp (maxDischargeDepth := 40) +contextual [*]

@[simp] theorem repairSector_sound (sec : Nat) (s : State) (hS : Sound s) :
    Sound ((repairSector sec s)) := by
  unfold repairSector; simp (maxDischargeDepth := 40) +contextual [*]

@[simp] theorem touchRead_sound (who : BitVec 16) (flags : Byte) (sec : Nat) (s : State) (hS : Sound s) :
    Sound ((touchRead who flags sec s)) := by
  simp only [touchRead]; (repeat' split) <;> simp (maxDischargeDepth := 40) +contextual [*]

@[simp] theorem touchReads_sound (who : BitVec 16) (flags : Byte) (secs : List Nat) (s : State) (hS : Sound s) :
    Sound ((touchReads who flags secs s)) := by
  unfold touchReads; simp (maxDischargeDepth := 40) +contextual [*]

@[simp] theorem demandRead_sound (who : BitVec 16) (flags : Byte) (a n : Nat) (s : State) (hS : Sound s) :
    Sound ((demandRead who flags a n s).2) := by
  unfold demandRead; simp (maxDischargeDepth := 40) +contextual [*]

@[simp] theorem writeSector_sound (who : BitVec 16) (flags : Byte) (sec : Nat) (slots : List (Option MByte)) (s : State) (hS : Sound s) :
    Sound ((writeSector who flags sec slots s).1) := by
  unfold writeSector; dsimp only; (repeat' split) <;> simp (maxDischargeDepth := 40) +contextual [*]

@[simp] theorem writeBytes_sound (who : BitVec 16) (flags : Byte) (ws : List (Nat × MByte)) (s : State) (hS : Sound s) :
    Sound ((writeBytes who flags ws s).1) := by
  unfold writeBytes; simp (maxDischargeDepth := 40) +contextual [*]

@[simp] theorem storeMarked_sound (who : BitVec 16) (a : Nat) (l : List MByte) (s : State) (hS : Sound s) :
    Sound ((storeMarked who a l s)) := by
  unfold storeMarked; simp (maxDischargeDepth := 40) +contextual [*]

@[simp] theorem storeClean_sound (who : BitVec 16) (a : Nat) (l : List Byte) (s : State) (hS : Sound s) :
    Sound ((storeClean who a l s)) := by
  unfold storeClean; simp (maxDischargeDepth := 40) +contextual [*]

@[simp] theorem applyUpset_sound (u : Upset) (s : State) (hS : Sound s) :
    Sound ((applyUpset u s)) := by
  refine sound_of_mask ?_ hS
  apply applyUpset_mask <;> first | rfl | (intro p hp; revert hp; cases p <;> decide)

@[simp] theorem applyUpsets_sound (us : List Upset) (s : State) (hS : Sound s) :
    Sound ((applyUpsets us s)) := by
  refine sound_of_mask ?_ hS
  apply applyUpsets_mask <;> first | rfl | (intro p hp; revert hp; cases p <;> decide)

@[simp] theorem scrubSector_sound (sec : Nat) (s : State) (hS : Sound s) :
    Sound ((scrubSector sec s)) := by
  simp only [scrubSector]; (repeat' split) <;> simp (maxDischargeDepth := 40) +contextual [*]

@[simp] theorem scrubGranule_sound (k : Nat) (s : State) (hS : Sound s) :
    Sound ((scrubGranule k s)) := by
  unfold scrubGranule; simp (maxDischargeDepth := 40) +contextual [*]

@[simp] theorem leakBuckets_sound (k : Nat) (s : State) (hS : Sound s) :
    Sound ((leakBuckets k s)) := by
  refine sound_of_mask ?_ hS
  apply leakBuckets_mask <;> first | rfl | (intro p hp; revert hp; cases p <;> decide)

@[simp] theorem zeroFill_sound (s : State) (hS : Sound s) :
    Sound ((zeroFill s)) := by
  unfold zeroFill
  refine sound_foldl (fun t e ht => ?_) _ _ ⟨mapWf_filter _ hS.1, hS.2, hS.3, hS.4, hS.5⟩
  split
  · exact State.setErr_sound _ _ _ ht
  · exact ht

@[simp] theorem nvmStore_sound (a : Nat) (x0 : List Byte) (s : State) (hS : Sound s) :
    Sound ((nvmStore a x0 s)) := by
  induction x0 generalizing s a with
  | nil => exact hS
  | cons b r ih => exact ih _ _ ⟨hS.1, hS.nvm_mput _ _, hS.3, hS.4, hS.5⟩

@[simp] theorem nvmEraseRange_sound (a n : Nat) (s : State) (hS : Sound s) :
    Sound ((nvmEraseRange a n s)) := by
  exact ⟨hS.1, mapWf_filter _ hS.2, hS.3, hS.4, hS.5⟩

@[simp] theorem copyLive_sound (h : Nat) (x0 : List (Nat × Nat)) (x1 : Nat) (s : State) (hS : Sound s) :
    Sound ((copyLive h x0 x1 s)) := by
  induction x0 generalizing s x1 with
  | nil => exact hS
  | cons e r ih => exact ih _ _ (nvmStore_sound _ _ _ hS)

@[simp] theorem compact_sound (s : State) (hS : Sound s) :
    Sound ((compact s)) := by
  simp only [compact]; (repeat' split) <;> simp (maxDischargeDepth := 40) +contextual [*]

@[simp] theorem openHalf_sound (s : State) (hS : Sound s) :
    Sound ((openHalf s)) := by
  simp only [openHalf]; (repeat' split) <;> simp (maxDischargeDepth := 40) +contextual [*]

@[simp] theorem appendRecord_sound (off : Nat) (v : Word) (wear : Nat) (s0 : State) (hS : Sound s0) :
    Sound ((appendRecord off v wear s0)) := by
  simp only [appendRecord]; (repeat' split) <;> simp (maxDischargeDepth := 40) +contextual [*]

@[simp] theorem queueWrite_sound (s : State) (hS : Sound s) :
    Sound ((queueWrite s)) := by
  refine sound_of_mask ?_ hS
  apply queueWrite_mask <;> first | rfl | (intro p hp; revert hp; cases p <;> decide)

@[simp] theorem eraseBlock_sound (n : Nat) (s : State) (hS : Sound s) :
    Sound ((eraseBlock n s)) := by
  unfold eraseBlock; simp (maxDischargeDepth := 40) +contextual [*]

@[simp] theorem nvmTick_sound (s : State) (hS : Sound s) :
    Sound ((nvmTick s)) := by
  simp only [nvmTick]; (repeat' split) <;> simp (maxDischargeDepth := 40) +contextual [*]

@[simp] theorem persist_sound (off : Nat) (v : Word) (nvmErr : Bool) (s : State) (hS : Sound s) :
    Sound ((persist off v nvmErr s).1) := by
  unfold persist
  dsimp only
  split
  · exact hS
  · split
    · exact faultParam_sound _ _ _ _ hS
    · have := appendRecord_sound off v (s.wearOf off + 1) s hS
      exact ⟨this.1, this.2, this.3, this.4, this.5⟩

@[simp] theorem persistFree_sound (off : Nat) (v : Word) (s : State) (hS : Sound s) :
    Sound ((persistFree off v s).1) := by
  unfold persistFree; simp (maxDischargeDepth := 40) +contextual [*]

@[simp] theorem scanRecords_sound (h : Nat) (x0 : Nat) (x1 : Nat) (s : State) (hS : Sound s) :
    Sound ((scanRecords h x0 x1 s)) := by
  refine sound_of_mask ?_ hS
  apply scanRecords_mask <;> first | rfl | (intro p hp; revert hp; cases p <;> decide)

@[simp] theorem scanPersist_sound (s : State) (hS : Sound s) :
    Sound ((scanPersist s)) := by
  refine sound_of_mask ?_ hS
  apply scanPersist_mask <;> first | rfl | (intro p hp; revert hp; cases p <;> decide)

@[simp] theorem unitRead_sound (who : BitVec 16) (sec : Nat) (s : State) (hS : Sound s) :
    Sound ((unitRead who sec s)) := by
  simp only [unitRead]; (repeat' split) <;> simp (maxDischargeDepth := 40) +contextual [*]

@[simp] theorem unitReads_sound (who : BitVec 16) (secs : List Nat) (s : State) (hS : Sound s) :
    Sound ((unitReads who secs s)) := by
  unfold unitReads; simp (maxDischargeDepth := 40) +contextual [*]

@[simp] theorem finishCmd_sound (u : Nat) (i : Issued) (e0 : Eff) (s : State) (hS : Sound s) :
    Sound ((finishCmd u i e0 s)) := by
  unfold finishCmd; simp (maxDischargeDepth := 40) +contextual [*]

@[simp] theorem refuseCmd_sound (u : Nat) (i : Issued) (st : Byte) (s : State) (hS : Sound s) :
    Sound ((refuseCmd u i st s)) := by
  refine sound_of_mask ?_ hS
  apply refuseCmd_mask <;> first | rfl | (intro p hp; revert hp; cases p <;> decide)

@[simp] theorem checkFail_sound (u : Nat) (i : Issued) (f : Flt) (s : State) (hS : Sound s) :
    Sound ((checkFail u i f s)) := by
  unfold checkFail; simp (maxDischargeDepth := 40) +contextual [*]

@[simp] theorem popPort_sound (u : Nat) (s : State) (hS : Sound s) :
    Sound ((popPort u s)) := by
  refine sound_of_mask ?_ hS
  apply popPort_mask <;> first | rfl | (intro p hp; revert hp; cases p <;> decide)

@[simp] theorem acceptCmd_sound {α : Type} (u : Nat) (check : Issued → State → Chk α) (overlap : Issued → α → State → Bool) (run : Issued → α → State → State) (i : Issued) (s : State) (hf : ∀ i a s, Sound s → Sound (run i a s)) (hS : Sound s) :
    Sound ((acceptCmd u check overlap run i s)) := by
  simp only [acceptCmd]; (repeat' split) <;> simp (maxDischargeDepth := 40) +contextual [*]

@[simp] theorem accept_sound {α : Type} (u op : Nat) (check : Issued → State → Chk α) (overlap : Issued → α → State → Bool) (run : Issued → α → State → State) (s : State) (hf : ∀ i a s, Sound s → Sound (run i a s)) (hS : Sound s) :
    Sound ((accept u op check overlap run s)) := by
  simp only [accept]; (repeat' split) <;> simp (maxDischargeDepth := 40) +contextual [*]

@[simp] theorem State.setFlyer_sound (s : State) (f : Nat) (x : Fly) (hS : Sound s) :
    Sound ((s.setFlyer f x)) := by
  refine sound_of_mask ?_ hS
  apply State.setFlyer_mask <;> first | rfl | (intro p hp; revert hp; cases p <;> decide)

@[simp] theorem spillOne_sound (f : Nat) (s : State) (hS : Sound s) :
    Sound ((spillOne f s)) := by
  simp only [spillOne]; (repeat' split) <;> simp (maxDischargeDepth := 40) +contextual [*]

@[simp] theorem makeResident_sound (f e : Nat) (s : State) (hS : Sound s) :
    Sound ((makeResident f e s)) := by
  simp only [makeResident]; (repeat' split) <;> simp (maxDischargeDepth := 40) +contextual [*]

@[simp] theorem stampEntry_sound (f e : Nat) (s : State) (hS : Sound s) :
    Sound ((stampEntry f e s)) := by
  refine sound_of_mask ?_ hS
  apply stampEntry_mask <;> first | rfl | (intro p hp; revert hp; cases p <;> decide)

@[simp] theorem flyRead_sound (f : Nat) (k : FKey) (row : Nat) (s : State) (hS : Sound s) :
    Sound ((flyRead f k row s).1) := by
  simp only [flyRead]; (repeat' split) <;> simp (maxDischargeDepth := 40) +contextual [*]

@[simp] theorem flyWrite_sound (f : Nat) (k : FKey) (row : Nat) (r : FlyRec) (s : State) (hS : Sound s) :
    Sound ((flyWrite f k row r s).1) := by
  simp only [flyWrite]; (repeat' split) <;> simp (maxDischargeDepth := 40) +contextual [*]

@[simp] theorem flyFree_sound (f : Nat) (p : FKey → Bool) (s : State) (hS : Sound s) :
    Sound ((flyFree f p s)) := by
  refine sound_of_mask ?_ hS
  apply flyFree_mask <;> first | rfl | (intro p hp; revert hp; cases p <;> decide)

@[simp] theorem runFrees_sound (f : Nat) (s : State) (hS : Sound s) :
    Sound ((runFrees f s)) := by
  refine sound_of_mask ?_ hS
  apply runFrees_mask <;> first | rfl | (intro p hp; revert hp; cases p <;> decide)

@[simp] theorem internalFrees_sound (c : Nat) (steps : List Nat) (s : State) (hS : Sound s) :
    Sound ((internalFrees c steps s)) := by
  refine sound_of_mask ?_ hS
  apply internalFrees_mask <;> first | rfl | (intro p hp; revert hp; cases p <;> decide)

@[simp] theorem noteHit_sound (reg : BitVec 16 → Option Nat) (h : Hit) (s : State) (hS : Sound s) :
    Sound ((noteHit reg h s)) := by
  simp only [noteHit]; (repeat' split) <;> simp (maxDischargeDepth := 40) +contextual [*]

@[simp] theorem noteEvents_sound (reg : BitVec 16 → Option Nat) (hs : List Hit) (s : State) (hS : Sound s) :
    Sound ((noteEvents reg hs s)) := by
  unfold noteEvents; simp (maxDischargeDepth := 40) +contextual [*]

@[simp] theorem noteHits_sound (reg : BitVec 16 → Option Nat) (hs : List Hit) (s : State) (hS : Sound s) :
    Sound ((noteHits reg hs s)) := by
  unfold noteHits
  simp (maxDischargeDepth := 40) [*]

@[simp] theorem clearStruck_sound (s : State) (hS : Sound s) :
    Sound ((clearStruck s)) := by
  refine sound_of_mask ?_ hS
  apply clearStruck_mask <;> first | rfl | (intro p hp; revert hp; cases p <;> decide)

@[simp] theorem withHits_sound (u op : Nat) (hs : List Hit) (f : State → State) (s : State) (hf : ∀ s, Sound s → Sound (f s)) (hS : Sound s) :
    Sound ((withHits u op hs f s)) := by
  unfold withHits
  split
  · exact clearStruck_sound _ (hf _ (noteHits_sound _ _ _ hS))
  · exact hS

@[simp] theorem countFree_sound (a : Nat) (s : State) (hS : Sound s) :
    Sound ((countFree a s)) := by
  refine sound_of_mask ?_ hS
  apply countFree_mask <;> first | rfl | (intro p hp; revert hp; cases p <;> decide)

@[simp] theorem useSram_sound (k : Nat) (areas : List Nat) (s : State) (hS : Sound s) :
    Sound ((useSram k areas s)) := by
  refine sound_of_mask ?_ hS
  apply useSram_mask <;> first | rfl | (intro p hp; revert hp; cases p <;> decide)

end Sys2Proof.Machine
end

