-- ==== Sys2Proof/Laws/SoundUnits.lean ====
section
/-! SUPPORT. `Sound` is kept: queue pairs, groups, unit resets and the distaff. -/

namespace Sys2Proof.Machine

@[simp] theorem State.setPrt_sound (s : State) (n : Nat) (p : Prt) (hS : Sound s) :
    Sound ((s.setPrt n p)) := by
  refine sound_of_mask ?_ hS
  apply State.setPrt_mask <;> first | rfl | (intro p hp; revert hp; cases p <;> decide)

@[simp] theorem storeQp_sound (n : Nat) (old new : Qp) (s : State) (hS : Sound s) :
    Sound ((storeQp n old new s)) := by
  unfold storeQp; simp (maxDischargeDepth := 40) +contextual [*]

@[simp] theorem State.setQp_sound (s : State) (n : Nat) (q : Qp) (hS : Sound s) :
    Sound ((s.setQp n q)) := by
  unfold State.setQp; simp (maxDischargeDepth := 40) +contextual [*]

@[simp] theorem txFrames_sound (n k : Nat) (s : State) (hS : Sound s) :
    Sound ((txFrames n k s)) := by
  refine sound_of_mask ?_ hS
  apply txFrames_mask <;> first | rfl | (intro p hp; revert hp; cases p <;> decide)

@[simp] theorem rxFrames_sound (n k : Nat) (s : State) (hS : Sound s) :
    Sound ((rxFrames n k s)) := by
  refine sound_of_mask ?_ hS
  apply rxFrames_mask <;> first | rfl | (intro p hp; revert hp; cases p <;> decide)

@[simp] theorem answerOn_sound (n cls k : Nat) (o : Pkt) (s : State) (hS : Sound s) :
    Sound ((answerOn n cls k o s)) := by
  refine sound_of_mask ?_ hS
  apply answerOn_mask <;> first | rfl | (intro p hp; revert hp; cases p <;> decide)

@[simp] theorem sendHeld_sound (p : Nat) (s : State) (hS : Sound s) :
    Sound ((sendHeld p s)) := by
  refine sound_of_mask ?_ hS
  apply sendHeld_mask <;> first | rfl | (intro p hp; revert hp; cases p <;> decide)

@[simp] theorem sendOp_sound (n : Nat) (q : Qp) (o : SqOp) (s : State) (hS : Sound s) :
    Sound ((sendOp n q o s)) := by
  refine sound_of_mask ?_ hS
  apply sendOp_mask <;> first | rfl | (intro p hp; revert hp; cases p <;> decide)

@[simp] theorem pumpQp_sound (n : Nat) (s : State) (hS : Sound s) :
    Sound ((pumpQp n s)) := by
  unfold pumpQp; simp (maxDischargeDepth := 40) +contextual [*]

@[simp] theorem postOp_sound (n : Nat) (op : WireOp) (s : State) (hS : Sound s) :
    Sound ((postOp n op s)) := by
  unfold postOp; simp (maxDischargeDepth := 40) +contextual [*]

@[simp] theorem retransmit_sound (n : Nat) (s : State) (hS : Sound s) :
    Sound ((retransmit n s)) := by
  unfold retransmit; simp (maxDischargeDepth := 40) +contextual [*]

@[simp] theorem pumpPort_sound (p : Nat) (s : State) (hS : Sound s) :
    Sound ((pumpPort p s)) := by
  unfold pumpPort; simp (maxDischargeDepth := 40) +contextual [*]

@[simp] theorem ceMark_sound (n k dest : Nat) (s : State) (hS : Sound s) :
    Sound ((ceMark n k dest s)) := by
  simp only [ceMark]; (repeat' split) <;> simp (maxDischargeDepth := 40) +contextual [*]

@[simp] theorem sendPfc_sound (p : Nat) (ctrl xoff : Bool) (s : State) (hS : Sound s) :
    Sound ((sendPfc p ctrl xoff s)) := by
  refine sound_of_mask ?_ hS
  apply sendPfc_mask <;> first | rfl | (intro p hp; revert hp; cases p <;> decide)

@[simp] theorem watchIngress_sound (p : Nat) (ctrl : Bool) (occ : Nat) (s : State) (hS : Sound s) :
    Sound ((watchIngress p ctrl occ s)) := by
  refine sound_of_mask ?_ hS
  apply watchIngress_mask <;> first | rfl | (intro p hp; revert hp; cases p <;> decide)

@[simp] theorem ingressFrom_sound (n k src_ : Nat) (ing : Ingress) (s : State) (hS : Sound s) :
    Sound ((ingressFrom n k src_ ing s).1) := by
  simp only [ingressFrom]; (repeat' split) <;> simp (maxDischargeDepth := 40) +contextual [*]

@[simp] theorem ingress_sound (n k : Nat) (ing : Ingress) (s : State) (hS : Sound s) :
    Sound ((ingress n k ing s).1) := by
  simp only [ingress]; (repeat' split) <;> simp (maxDischargeDepth := 40) +contextual [*]

@[simp] theorem touchEndpoint_sound (e : Nat) (s : State) (hS : Sound s) :
    Sound ((touchEndpoint e s)) := by
  unfold touchEndpoint; simp (maxDischargeDepth := 40) +contextual [*]

@[simp] theorem noPath_sound (e : Nat) (s : State) (hS : Sound s) :
    Sound ((noPath e s)) := by
  unfold noPath; simp (maxDischargeDepth := 40) +contextual [*]

@[simp] theorem qpOutcome_sound (n : Nat) (ok : Bool) (s : State) (hS : Sound s) :
    Sound ((qpOutcome n ok s)) := by
  unfold qpOutcome; simp (maxDischargeDepth := 40) +contextual [*]

@[simp] theorem qpLoad_sound (n : Nat) (s0 : State) (hS : Sound s0) :
    Sound ((qpLoad n s0)) := by
  unfold qpLoad; simp (maxDischargeDepth := 40) +contextual [*]

@[simp] theorem qpRearm_sound (n : Nat) (s : State) (hS : Sound s) :
    Sound ((qpRearm n s)) := by
  unfold qpRearm; simp (maxDischargeDepth := 40) +contextual [*]

@[simp] theorem postSend_sound (ep : Nat) (bytes : List Byte) (owner : Option Nat) (s : State) (q : Option (Nat × Bool)) (hS : Sound s) :
    Sound ((postSend ep bytes owner s q).1) := by
  simp only [postSend]; (repeat' split) <;> simp (maxDischargeDepth := 40) +contextual [*]

@[simp] theorem sendEnd_sound (ep : Nat) (bytes : List Byte) (owner : Option Nat) (s0 : State) (hS : Sound s0) :
    Sound ((sendEnd ep bytes owner s0).1) := by
  unfold sendEnd; simp (maxDischargeDepth := 40) +contextual [*]

@[simp] theorem sendRank_sound (e : Grp) (rank : Nat) (bytes : List Byte) (s : State) (hS : Sound s) :
    Sound ((sendRank e rank bytes s).1) := by
  unfold sendRank; simp (maxDischargeDepth := 40) +contextual [*]

@[simp] theorem sendReplayHold_sound (ctx : Nat) (step : Word) (s : State) (hS : Sound s) :
    Sound ((sendReplayHold ctx step s)) := by
  unfold sendReplayHold
  refine sound_foldl (fun t g ht => ?_) _ _ hS
  split
  · split
    · refine sound_foldl (fun u k hu => ?_) _ _ ht
      split
      · exact hu
      · exact sendRank_sound _ _ _ _ hu
    · exact ht
  · exact ht

@[simp] theorem dropFetches_sound (k : Nat) (s : State) (hS : Sound s) :
    Sound ((dropFetches k s)) := by
  refine sound_of_mask ?_ hS
  apply dropFetches_mask <;> first | rfl | (intro p hp; revert hp; cases p <;> decide)

@[simp] theorem pruneMcast_sound (v : Nat) (s : State) (hS : Sound s) :
    Sound ((pruneMcast v s)) := by
  refine sound_of_mask ?_ hS
  apply pruneMcast_mask <;> first | rfl | (intro p hp; revert hp; cases p <;> decide)

@[simp] theorem clearUnit_sound (v : Nat) (s : State) (hS : Sound s) :
    Sound ((clearUnit v s)) := by
  refine sound_of_mask ?_ hS
  apply clearUnit_mask <;> first | rfl | (intro p hp; revert hp; cases p <;> decide)

@[simp] theorem abandonPly_sound (s : State) (hS : Sound s) :
    Sound ((abandonPly s)) := by
  refine sound_of_mask ?_ hS
  apply abandonPly_mask <;> first | rfl | (intro p hp; revert hp; cases p <;> decide)

@[simp] theorem abandonJob_sound (k : Nat) (s : State) (hS : Sound s) :
    Sound ((abandonJob k s)) := by
  refine sound_of_mask ?_ hS
  apply abandonJob_mask <;> first | rfl | (intro p hp; revert hp; cases p <;> decide)

@[simp] theorem bumpVec_sound (v : Nat) (s : State) (hS : Sound s) :
    Sound ((bumpVec v s)) := by
  refine sound_of_mask ?_ hS
  apply bumpVec_mask <;> first | rfl | (intro p hp; revert hp; cases p <;> decide)

@[simp] theorem eitherWay_sound (f : State → State) (s : State) (hf : ∀ s, Sound s → Sound (f s)) (hS : Sound s) :
    Sound ((eitherWay f s)) := by
  unfold eitherWay
  refine State.bumpFree_sound _ ?_
  split
  · exact hS
  · exact hf _ hS

@[simp] theorem undoErr_sound (x : Nat × List Byte × List Byte) (s : State) (hS : Sound s) :
    Sound ((undoErr x s)) := by
  refine sound_of_mask ?_ hS
  apply undoErr_mask <;> first | rfl | (intro p hp; revert hp; cases p <;> decide)

@[simp] theorem undoBytes_sound (r : Report) (s : State) (hS : Sound s) :
    Sound ((undoBytes r s)) := by
  unfold undoBytes; simp (maxDischargeDepth := 40) +contextual [*]

@[simp] theorem abandonUnit_sound (v : Nat) (s : State) (hS : Sound s) :
    Sound ((abandonUnit v s)) := by
  unfold abandonUnit; simp (maxDischargeDepth := 40) +contextual [*]

@[simp] theorem dropSector_sound (who : BitVec 16) (r : Report) (sec : Nat) (s : State) (hS : Sound s) :
    Sound ((dropSector who r sec s)) := by
  unfold dropSector; simp (maxDischargeDepth := 40) +contextual [*]

@[simp] theorem meetReset_sound (k : Nat) (r : Report) (s : State) (hS : Sound s) :
    Sound ((meetReset k r s).2) := by
  unfold meetReset
  dsimp only
  refine sound_foldl_snd (fun t sec ht => ?_) _ _ hS
  split
  · exact dropSector_sound _ _ _ _ (State.bumpFree_sound _ ht)
  · exact State.bumpFree_sound _ ht

@[simp] theorem dropInFlight_sound (k : Nat) (s : State) (hS : Sound s) :
    Sound ((dropInFlight k s)) := by
  unfold dropInFlight; simp (maxDischargeDepth := 40) +contextual [*]

@[simp] theorem applyReset_sound (v : Nat) (s : State) (hS : Sound s) :
    Sound ((applyReset v s)) := by
  simp only [applyReset]; (repeat' split) <;> simp (maxDischargeDepth := 40) +contextual [*]

@[simp] theorem resetUnit_sound (note : Bool) (v : Nat) (s : State) (hS : Sound s) :
    Sound ((resetUnit note v s)) := by
  unfold resetUnit; simp (maxDischargeDepth := 40) +contextual [*]

@[simp] theorem stopUnit_sound (v : Nat) (s : State) (hS : Sound s) :
    Sound ((stopUnit v s)) := by
  refine sound_of_mask ?_ hS
  apply stopUnit_mask <;> first | rfl | (intro p hp; revert hp; cases p <;> decide)

@[simp] theorem gateOff_sound (v : Nat) (s : State) (hS : Sound s) :
    Sound ((gateOff v s)) := by
  refine sound_of_mask ?_ hS
  apply gateOff_mask <;> first | rfl | (intro p hp; revert hp; cases p <;> decide)

@[simp] theorem gateOn_sound (v : Nat) (s : State) (hS : Sound s) :
    Sound ((gateOn v s)) := by
  refine sound_of_mask ?_ hS
  apply gateOn_mask <;> first | rfl | (intro p hp; revert hp; cases p <;> decide)

@[simp] theorem sleepOn_sound (v : Nat) (s : State) (hS : Sound s) :
    Sound ((sleepOn v s)) := by
  refine sound_of_mask ?_ hS
  apply sleepOn_mask <;> first | rfl | (intro p hp; revert hp; cases p <;> decide)

@[simp] theorem sleepOff_sound (v : Nat) (s : State) (hS : Sound s) :
    Sound ((sleepOff v s)) := by
  refine sound_of_mask ?_ hS
  apply sleepOff_mask <;> first | rfl | (intro p hp; revert hp; cases p <;> decide)

@[simp] theorem enterSleep_sound (v : Nat) (s : State) (hS : Sound s) :
    Sound ((enterSleep v s)) := by
  refine sound_of_mask ?_ hS
  apply enterSleep_mask <;> first | rfl | (intro p hp; revert hp; cases p <;> decide)

@[simp] theorem returnFromSleep_sound (v : Nat) (s : State) (hS : Sound s) :
    Sound ((returnFromSleep v s)) := by
  unfold returnFromSleep
  dsimp only
  have h : Sound (clearUnit v (bumpVec v { s with asleep := setBit s.asleep v false, wakeAt := mdel s.wakeAt v })) :=
    clearUnit_sound _ _ (bumpVec_sound _ _ ⟨hS.1, hS.2, hS.3, hS.4, hS.5⟩)
  split
  · exact applyReset_sound _ _ h
  · exact h

@[simp] theorem requestSpare_sound (p : Nat) (s : State) (hS : Sound s) :
    Sound ((requestSpare p s)) := by
  simp only [requestSpare]; (repeat' split) <;> simp (maxDischargeDepth := 40) +contextual [*]

@[simp] theorem noteRetired_sound (v : Nat) (s : State) (hS : Sound s) :
    Sound ((noteRetired v s)) := by
  refine sound_of_mask ?_ hS
  apply noteRetired_mask <;> first | rfl | (intro p hp; revert hp; cases p <;> decide)

@[simp] theorem dropLink_sound (n : Nat) (s : State) (hS : Sound s) :
    Sound ((dropLink n s)) := by
  refine sound_of_mask ?_ hS
  apply dropLink_mask <;> first | rfl | (intro p hp; revert hp; cases p <;> decide)

@[simp] theorem retireEffect_sound (v : Nat) (s : State) (hS : Sound s) :
    Sound ((retireEffect v s)) := by
  simp only [retireEffect]; (repeat' split) <;> simp (maxDischargeDepth := 40) +contextual [*]

@[simp] theorem markRetired_sound (v : Nat) (s : State) (hS : Sound s) :
    Sound ((markRetired v s)) := by
  simp only [markRetired]; (repeat' split) <;> simp (maxDischargeDepth := 40) +contextual [*]

@[simp] theorem retireUnit_sound (v : Nat) (s : State) (hS : Sound s) :
    Sound ((retireUnit v s)) := by
  unfold retireUnit; simp (maxDischargeDepth := 40) +contextual [*]

@[simp] theorem returnUnit_sound (v : Nat) (s : State) (hS : Sound s) :
    Sound ((returnUnit v s)) := by
  unfold returnUnit
  dsimp only
  have h : Sound (gateOn v (resetUnit false v { s with retireWait := setBit s.retireWait v false, whl := { s.whl with retiredAt := mdel s.whl.retiredAt v } })) :=
    gateOn_sound _ _ (resetUnit_sound _ _ _ ⟨hS.1, hS.2, hS.3, hS.4, hS.5⟩)
  split
  · exact sleepOff_sound _ _ h
  · exact h

@[simp] theorem resetDone_sound (v : Nat) (s : State) (hS : Sound s) :
    Sound ((resetDone v s)) := by
  unfold resetDone
  dsimp only
  have h : Sound ({ s with rstBusy := setBit s.rstBusy v false, retireWait := setBit s.retireWait v false } : State) :=
    ⟨hS.1, hS.2, hS.3, hS.4, hS.5⟩
  split
  · split
    · exact retireEffect_sound _ _ h
    · exact retireEffect_sound _ _ (markRetired_sound _ _ h)
  · exact ⟨hS.1, hS.2, hS.3, hS.4, hS.5⟩

@[simp] theorem deviceReset_sound (cause : BitVec 3) (s : State) (hS : Sound s) :
    Sound ((deviceReset cause s)) := by
  refine ⟨rfl, hS.2, ?_, ?_, ?_⟩
  · intro e he
    cases he
  · show 0 < 2 ^ 48
    decide
  · show 0 < 2 ^ 48
    decide

@[simp] theorem classifyMsg_sound (m : Msg) (s : State) (hS : Sound s) :
    Sound ((classifyMsg m s).2) := by
  unfold classifyMsg; (repeat' split) <;> first | exact hS | (simp (maxDischargeDepth := 40) +contextual [*]; done) | (rw [sound_iff] at hS ⊢; exact hS)

@[simp] theorem writeResetRecord_sound (m : Msg) (s : State) (hS : Sound s) :
    Sound ((writeResetRecord m s)) := by
  unfold writeResetRecord; simp (maxDischargeDepth := 40) +contextual [*]

@[simp] theorem stopCtx_sound (c : Nat) (s : State) (hS : Sound s) :
    Sound ((stopCtx c s)) := by
  refine sound_of_mask ?_ hS
  apply stopCtx_mask <;> first | rfl | (intro p hp; revert hp; cases p <;> decide)

@[simp] theorem applyAction_sound (a : BitVec 3) (m : Msg) (s : State) (hS : Sound s) :
    Sound ((applyAction a m s)) := by
  simp only [applyAction]; (repeat' split) <;> simp (maxDischargeDepth := 40) +contextual [*]

@[simp] theorem setStatus_sound (b : BitVec 6) (s : State) (hS : Sound s) :
    Sound ((setStatus b s)) := by
  unfold setStatus; (repeat' split) <;> first | exact hS | (simp (maxDischargeDepth := 40) +contextual [*]; done) | (rw [sound_iff] at hS ⊢; exact hS)

@[simp] theorem latchMsg_sound (seq : Word) (m : Msg) (s : State) (hS : Sound s) :
    Sound ((latchMsg seq m s)) := by
  simp only [latchMsg]; (repeat' split) <;> simp (maxDischargeDepth := 40) +contextual [*]

@[simp] theorem logMsg_sound (rec : BitVec 256) (s : State) (hS : Sound s) :
    Sound ((logMsg rec s)) := by
  unfold logMsg; (repeat' split) <;> first | exact hS | (simp (maxDischargeDepth := 40) +contextual [*]; done) | (rw [sound_iff] at hS ⊢; exact hS)

@[simp] theorem postEvent_sound (seq : Word) (m : Msg) (action : BitVec 3) (fallback : Bool) (s : State) (hS : Sound s) :
    Sound ((postEvent seq m action fallback s)) := by
  unfold postEvent; simp (maxDischargeDepth := 40) +contextual [*]

@[simp] theorem chargeSeq_sound (charge : Option Nat) (seq : Word) (s : State) (hS : Sound s) :
    Sound ((chargeSeq charge seq s)) := by
  refine sound_of_mask ?_ hS
  apply chargeSeq_mask <;> first | rfl | (intro p hp; revert hp; cases p <;> decide)

@[simp] theorem damageDst_sound (h : Hit) (s : State) (hS : Sound s) :
    Sound ((damageDst h s)) := by
  unfold damageDst; simp (maxDischargeDepth := 40) +contextual [*]

@[simp] theorem acceptMsg_sound (q : QMsg) (s : State) (hS : Sound s) :
    Sound ((acceptMsg q s)) := by
  have key : ∀ (c : Prop) [Decidable c] (a b : State), Sound a → Sound b → Sound (if c then a else b) := fun c _ a b ha hb => by
    split <;> assumption
  unfold acceptMsg
  extract_lets m seq d s1 s2 s3
  have h3 : Sound s3 := State.count_sound _ _ _ (State.count_sound _ _ _ (chargeSeq_sound _ _ _ ⟨hS.1, hS.2, hS.3, hS.4, hS.5⟩))
  clear_value s3
  refine key _ _ _ ?_ (logMsg_sound _ _ (latchMsg_sound _ _ _ h3))
  have hc := classifyMsg_sound m s3 h3
  generalize classifyMsg m s3 = c at hc ⊢
  obtain ⟨v, s4⟩ := c
  dsimp only at hc ⊢
  generalize settleAction _ _ = w
  obtain ⟨a, fb⟩ := w
  dsimp only
  have h5 : Sound (if v = true then (setStatus 32 s4).count (rDst 0x24) 1 else s4) :=
    key _ _ _ (State.count_sound _ _ _ (setStatus_sound _ _ hc)) hc
  generalize (if v = true then (setStatus 32 s4).count (rDst 0x24) 1 else s4) = s5 at h5 ⊢
  have h6 : ∀ r m, Sound (logMsg r (latchMsg seq m s5)) := fun r m => logMsg_sound _ _ (latchMsg_sound _ _ _ h5)
  refine key _ _ _ (deviceReset_sound _ _ (writeResetRecord_sound _ _ (h6 _ _)))
    (key _ _ _ (applyAction_sound _ _ _ (h6 _ _)) (postEvent_sound _ _ _ _ _ (applyAction_sound _ _ _ (h6 _ _))))

@[simp] theorem acceptNext_sound (s : State) (hS : Sound s) :
    Sound ((acceptNext s)) := by
  unfold acceptNext
  split
  · exact hS
  · split
    · exact hS
    · rename_i k hk _ q r hq
      refine acceptMsg_sound _ _ ⟨hS.1, hS.2, ?_, hS.4, hS.5⟩
      intro e he
      rcases mem_mput he with he | he
      · subst he
        have : ∀ (m : AMap (List QMsg)), (∀ e ∈ m, e.2.length ≤ 8) → (mget m k []).length ≤ 8 := by
          intro m
          induction m with
          | nil => intro _; exact Nat.zero_le _
          | cons x t ih =>
            intro h
            obtain ⟨j, v⟩ := x
            unfold mget
            split
            · exact h _ (List.mem_cons_self ..)
            · exact ih (fun e he => h e (List.mem_cons_of_mem _ he))
        have h8 := this _ hS.3
        rw [hq] at h8
        simp at h8 ⊢
        omega
      · exact hS.3 e he

@[simp] theorem writeDstStatus_sound (v : Word) (s : State) (hS : Sound s) :
    Sound (((writeDstStatus v s).over s)) := by
  unfold writeDstStatus; (repeat' split) <;> first | exact hS | (simp (maxDischargeDepth := 40) +contextual [*]; done) | (rw [sound_iff] at hS ⊢; exact hS)

@[simp] theorem dropHeld_sound (s : State) (hS : Sound s) :
    Sound ((dropHeld s)) := by
  unfold dropHeld; (repeat' split) <;> first | exact hS | (simp (maxDischargeDepth := 40) +contextual [*]; done) | (rw [sound_iff] at hS ⊢; exact hS)

@[simp] theorem writeEvrBase_sound (hi : Bool) (v : Word) (s : State) (hS : Sound s) :
    Sound (((writeEvrBase hi v s).1.over (writeEvrBase hi v s).2)) := by
  simp only [writeEvrBase]; (repeat' split) <;> simp (maxDischargeDepth := 40) +contextual [*]

@[simp] theorem writeEvrCfg_sound (v : Word) (s : State) (hS : Sound s) :
    Sound (((writeEvrCfg v s).1.over (writeEvrCfg v s).2)) := by
  simp only [writeEvrCfg]; (repeat' split) <;> simp (maxDischargeDepth := 40) +contextual [*]

@[simp] theorem writeKind_sound (win : Bool) (v : Word) (s : State) (hS : Sound s) :
    Sound (((writeKind win v s).over s)) := by
  unfold writeKind; simp (maxDischargeDepth := 40) +contextual [*]

@[simp] theorem writeRetired_sound (w : Nat) (v : Word) (nvmErr : Bool) (s : State) (hS : Sound s) :
    Sound (((writeRetired w v nvmErr s).1.over (writeRetired w v nvmErr s).2)) := by
  unfold writeRetired
  extract_lets off bs newv old
  have hp := persist_sound off newv nvmErr s hS
  generalize persist off newv nvmErr s = r at hp ⊢
  obtain ⟨s1, b⟩ := r
  cases b
  · exact hp
  · refine sound_foldl (fun t x ht => ?_) _ _ hp
    split
    · split
      · exact noteRetired_sound _ _ ⟨ht.1, ht.2, ht.3, ht.4, ht.5⟩
      · exact retireEffect_sound _ _ ht
    · split
      · exact returnUnit_sound _ _ ht
      · exact ht

end Sys2Proof.Machine
end

