-- ==== Sys2Proof/Laws/SoundEngines.lean ====
section
/-! SUPPORT. `Sound` is kept: training state, expert fetches, clocks and the engines. -/

namespace Sys2Proof.Machine

@[simp] theorem State.setCtx_sound (s : State) (c : Nat) (x : Ctx) (hS : Sound s) :
    Sound ((s.setCtx c x)) := by
  refine sound_of_mask ?_ hS
  apply State.setCtx_mask <;> first | rfl | (intro p hp; revert hp; cases p <;> decide)

@[simp] theorem State.setTrn_sound (s : State) (c : Nat) (t : Trn) (hS : Sound s) :
    Sound ((s.setTrn c t)) := by
  refine sound_of_mask ?_ hS
  apply State.setTrn_mask <;> first | rfl | (intro p hp; revert hp; cases p <;> decide)

@[simp] theorem orVerdict_sound (c : Nat) (v : BitVec 6) (s : State) (hS : Sound s) :
    Sound ((orVerdict c v s)) := by
  refine sound_of_mask ?_ hS
  apply orVerdict_mask <;> first | rfl | (intro p hp; revert hp; cases p <;> decide)

@[simp] theorem holdCtx_sound (c reason : Nat) (s : State) (hS : Sound s) :
    Sound ((holdCtx c reason s)) := by
  unfold holdCtx; simp (maxDischargeDepth := 40) +contextual [*]

@[simp] theorem diverge_sound (c addr : Nat) (s : State) (hS : Sound s) :
    Sound ((diverge c addr s)) := by
  unfold diverge; simp (maxDischargeDepth := 40) +contextual [*]

@[simp] theorem jrnAppend_sound (c sec : Nat) (rec_ : List MByte) (s : State) (hS : Sound s) :
    Sound ((jrnAppend c sec rec_ s)) := by
  simp only [jrnAppend]; (repeat' split) <;> simp (maxDischargeDepth := 40) +contextual [*]

@[simp] theorem jrnOpen_sound (c : Nat) (s : State) (hS : Sound s) :
    Sound ((jrnOpen c s)) := by
  unfold jrnOpen; simp (maxDischargeDepth := 40) +contextual [*]

@[simp] theorem jrnClose_sound (c : Nat) (s : State) (hS : Sound s) :
    Sound ((jrnClose c s)) := by
  unfold jrnClose
  dsimp only
  split
  · exact hS
  · exact storeClean_sound _ _ _ _ (State.setTrn_sound _ _ _ hS)

@[simp] theorem replayRoutes_sound (c addr : Nat) (route : List Nat) (s : State) (hS : Sound s) :
    Sound ((replayRoutes c addr route s)) := by
  simp only [replayRoutes]; (repeat' split) <;> simp (maxDischargeDepth := 40) +contextual [*]

@[simp] theorem replayCsum_sound (c addr : Nat) (rec_ : Nat) (s : State) (hS : Sound s) :
    Sound ((replayCsum c addr rec_ s)) := by
  simp only [replayCsum]; (repeat' split) <;> simp (maxDischargeDepth := 40) +contextual [*]

@[simp] theorem closeBwd_sound (c : Nat) (s : State) (hS : Sound s) :
    Sound ((closeBwd c s)) := by
  refine sound_of_mask ?_ hS
  apply closeBwd_mask <;> first | rfl | (intro p hp; revert hp; cases p <;> decide)

@[simp] theorem countSuppressed_sound (t : Trn) (s : State) (hS : Sound s) :
    Sound ((countSuppressed t s)) := by
  refine sound_of_mask ?_ hS
  apply countSuppressed_mask <;> first | rfl | (intro p hp; revert hp; cases p <;> decide)

@[simp] theorem closeUpd_sound (c : Nat) (s : State) (hS : Sound s) :
    Sound ((closeUpd c s)) := by
  unfold closeUpd; simp (maxDischargeDepth := 40) +contextual [*]

@[simp] theorem verdictOf_sound (c phase : Nat) (ovf csum : Bool) (s : State) (hS : Sound s) :
    Sound ((verdictOf c phase ovf csum s)) := by
  unfold verdictOf; simp (maxDischargeDepth := 40) +contextual [*]

@[simp] theorem armReplay_sound (c : Nat) (s0 : State) (hS : Sound s0) :
    Sound ((armReplay c s0)) := by
  unfold armReplay; simp (maxDischargeDepth := 40) +contextual [*]

@[simp] theorem writeReplay_sound (c : Nat) (v : Word) (s : State) (hS : Sound s) :
    Sound (((writeReplay c v s).over s)) := by
  simp only [writeReplay]; (repeat' split) <;> simp (maxDischargeDepth := 40) +contextual [*]

@[simp] theorem writeJcfg_sound (c : Nat) (v : Word) (s : State) (hS : Sound s) :
    Sound (((writeJcfg c v s).over s)) := by
  simp only [writeJcfg]; (repeat' split) <;> simp (maxDischargeDepth := 40) +contextual [*]

@[simp] theorem writeTrn_sound (v : Word) (s : State) (hS : Sound s) :
    Sound (((writeTrn v s).over s)) := by
  unfold writeTrn; simp (maxDischargeDepth := 40) +contextual [*]

@[simp] theorem trnReset_sound (c : Nat) (s : State) (hS : Sound s) :
    Sound ((trnReset c s)) := by
  refine sound_of_mask ?_ hS
  apply trnReset_mask <;> first | rfl | (intro p hp; revert hp; cases p <;> decide)

@[simp] theorem trnUnload_sound (c : Nat) (s : State) (hS : Sound s) :
    Sound ((trnUnload c s)) := by
  refine sound_of_mask ?_ hS
  apply trnUnload_mask <;> first | rfl | (intro p hp; revert hp; cases p <;> decide)

@[simp] theorem State.setCrd_sound (s : State) (k : Nat) (x : Crd) (hS : Sound s) :
    Sound ((s.setCrd k x)) := by
  refine sound_of_mask ?_ hS
  apply State.setCrd_mask <;> first | rfl | (intro p hp; revert hp; cases p <;> decide)

@[simp] theorem storeNat_sound (k : Nat) (a n v : Nat) (s : State) (hS : Sound s) :
    Sound ((storeNat k a n v s)) := by
  unfold storeNat; simp (maxDischargeDepth := 40) +contextual [*]

@[simp] theorem setResidState_sound (k : Nat) (a st : Nat) (dirty : Bool) (s : State) (hS : Sound s) :
    Sound ((setResidState k a st dirty s)) := by
  unfold setResidState; simp (maxDischargeDepth := 40) +contextual [*]

@[simp] theorem writeSlotHead_sound (k : Nat) (a owner : Nat) (valid pin filling : Bool) (s : State) (hS : Sound s) :
    Sound ((writeSlotHead k a owner valid pin filling s)) := by
  unfold writeSlotHead; simp (maxDischargeDepth := 40) +contextual [*]

@[simp] theorem assignOne_sound (k : Nat) (w : Nat × Nat × Nat × Bool) (noslot waited : Bool) (s : State) (hS : Sound s) :
    Sound ((assignOne k w noslot waited s)) := by
  simp only [assignOne]; (repeat' split) <;> simp (maxDischargeDepth := 40) +contextual [*]

@[simp] theorem finishJob_sound (k : Nat) (s : State) (hS : Sound s) :
    Sound ((finishJob k s)) := by
  refine sound_of_mask ?_ hS
  apply finishJob_mask <;> first | rfl | (intro p hp; revert hp; cases p <;> decide)

@[simp] theorem jobFetchEnd_sound (k : Nat) (f : Fetch) (s : State) (hS : Sound s) :
    Sound ((jobFetchEnd k f s)) := by
  simp only [jobFetchEnd]; (repeat' split) <;> simp (maxDischargeDepth := 40) +contextual [*]

@[simp] theorem jobFetchStart_sound (k : Nat) (f : Fetch) (s : State) (hS : Sound s) :
    Sound ((jobFetchStart k f s)) := by
  refine sound_of_mask ?_ hS
  apply jobFetchStart_mask <;> first | rfl | (intro p hp; revert hp; cases p <;> decide)

@[simp] theorem setFetch_sound (k : Nat) (f : Fetch) (s : State) (hS : Sound s) :
    Sound ((setFetch k f s)) := by
  refine sound_of_mask ?_ hS
  apply setFetch_mask <;> first | rfl | (intro p hp; revert hp; cases p <;> decide)

@[simp] theorem dropFetch_sound (k : Nat) (f : Fetch) (s : State) (hS : Sound s) :
    Sound ((dropFetch k f s)) := by
  refine sound_of_mask ?_ hS
  apply dropFetch_mask <;> first | rfl | (intro p hp; revert hp; cases p <;> decide)

@[simp] theorem failFetch_sound (k : Nat) (f : Fetch) (s : State) (hS : Sound s) :
    Sound ((failFetch k f s)) := by
  unfold failFetch; simp (maxDischargeDepth := 40) +contextual [*]

@[simp] theorem sendFetch_sound (k : Nat) (f : Fetch) (r : Resid) (q : Nat × Bool) (wall : Nat) (s : State) (hS : Sound s) :
    Sound ((sendFetch k f r q wall s)) := by
  unfold sendFetch; simp (maxDischargeDepth := 40) +contextual [*]

@[simp] theorem issueRead_sound (k : Nat) (x0 : Nat) (x1 : Fetch) (s : State) (hS : Sound s) :
    Sound ((issueRead k x0 x1 s)) := by
  induction x0 generalizing s x1 with
  | zero => exact failFetch_sound _ _ _ hS
  | succ n ih =>
    rw [issueRead]
    split
    · exact ih _ _ (noPath_sound _ _ (touchEndpoint_sound _ _ hS))
    · exact sendFetch_sound _ _ _ _ _ _ (touchEndpoint_sound _ _ hS)

@[simp] theorem retryFetch_sound (k : Nat) (f : Fetch) (s : State) (hS : Sound s) :
    Sound ((retryFetch k f s)) := by
  unfold retryFetch; simp (maxDischargeDepth := 40) +contextual [*]

@[simp] theorem startFetch_sound (k : Nat) (f : Fetch) (s : State) (hS : Sound s) :
    Sound ((startFetch k f s)) := by
  simp only [startFetch]; (repeat' split) <;> simp (maxDischargeDepth := 40) +contextual [*]

@[simp] theorem landFetch_sound (k : Nat) (f : Fetch) (data : List MByte) (s : State) (hS : Sound s) :
    Sound ((landFetch k f data s)) := by
  unfold landFetch; simp (maxDischargeDepth := 40) +contextual [*]

@[simp] theorem failWriteBack_sound (k : Nat) (f : Fetch) (s : State) (hS : Sound s) :
    Sound ((failWriteBack k f s)) := by
  simp only [failWriteBack]; (repeat' split) <;> simp (maxDischargeDepth := 40) +contextual [*]

@[simp] theorem noteWriteBack_sound (k : Nat) (f : Fetch) (gid ent : Nat) (r : Resid) (bs : List Byte) (q : Nat × Bool) (s : State) (hS : Sound s) :
    Sound ((noteWriteBack k f gid ent r bs q s)) := by
  unfold noteWriteBack; simp (maxDischargeDepth := 40) +contextual [*]

@[simp] theorem sendWriteBack_sound (k : Nat) (f : Fetch) (gid ent : Nat) (r : Resid) (bs : List Byte) (q : Nat × Bool) (wall : Nat) (s : State) (hS : Sound s) :
    Sound ((sendWriteBack k f gid ent r bs q wall s)) := by
  unfold sendWriteBack; simp (maxDischargeDepth := 40) +contextual [*]

@[simp] theorem stopWriteBack_sound (k : Nat) (f : Fetch) (gid ent p : Nat) (r : Resid) (bs : List Byte) (q : Nat × Bool) (s : State) (hS : Sound s) :
    Sound ((stopWriteBack k f gid ent p r bs q s)) := by
  unfold stopWriteBack; simp (maxDischargeDepth := 40) +contextual [*]

@[simp] theorem issueWrite_sound (k : Nat) (x0 : Nat) (x1 : Fetch) (s : State) (hS : Sound s) :
    Sound ((issueWrite k x0 x1 s)) := by
  induction x0 generalizing s x1 with
  | zero => exact failWriteBack_sound _ _ _ hS
  | succ n ih =>
    rw [issueWrite]
    split
    · exact hS
    · dsimp only
      have ht := fun n => touchEndpoint_sound n s hS
      split
      · exact ih _ _ (noPath_sound _ _ (ht _))
      · split
        · refine ih _ _ ?_
          simp (maxDischargeDepth := 40) [*]
        · simp (maxDischargeDepth := 40) [*]

@[simp] theorem retryWriteBack_sound (k : Nat) (f : Fetch) (s : State) (hS : Sound s) :
    Sound ((retryWriteBack k f s)) := by
  unfold retryWriteBack; simp (maxDischargeDepth := 40) +contextual [*]

@[simp] theorem doneWriteBack_sound (k : Nat) (f : Fetch) (s : State) (hS : Sound s) :
    Sound ((doneWriteBack k f s)) := by
  simp only [doneWriteBack]; (repeat' split) <;> simp (maxDischargeDepth := 40) +contextual [*]

@[simp] theorem stampSlot_sound (k slotEnt : Nat) (pin : Bool) (step : Word) (s : State) (hS : Sound s) :
    Sound ((stampSlot k slotEnt pin step s)) := by
  simp only [stampSlot]; (repeat' split) <;> simp (maxDischargeDepth := 40) +contextual [*]

@[simp] theorem reserveSlot_sound (k : Nat) (c : CacheRef) (ctx : Nat) (step : Word) (routed : Bool) (slot gid : Nat) (s : State) (hS : Sound s) :
    Sound ((reserveSlot k c ctx step routed slot gid s)) := by
  unfold reserveSlot; simp (maxDischargeDepth := 40) +contextual [*]

@[simp] theorem failEntry_sound (k : Nat) (c : CacheRef) (gid : Nat) (r : Resid) (s : State) (hS : Sound s) :
    Sound ((failEntry k c gid r s)) := by
  unfold failEntry; simp (maxDischargeDepth := 40) +contextual [*]

@[simp] theorem lookup_sound (k : Nat) (c : CacheRef) (ctx : Nat) (step : Word) (routed : Bool) (gid : Nat) (s0 : State) (hS : Sound s0) :
    Sound ((lookup k c ctx step routed gid s0).1) := by
  simp only [lookup]; (repeat' split) <;> simp (maxDischargeDepth := 40) +contextual [*]

@[simp] theorem dropOp_sound (q : Option Nat) (p : WireOp → Bool) (s : State) (hS : Sound s) :
    Sound ((dropOp q p s)) := by
  simp only [dropOp]; (repeat' split) <;> simp (maxDischargeDepth := 40) +contextual [*]

@[simp] theorem noteArrival_sound (p : Nat) (data : List MByte) (s : State) (hS : Sound s) :
    Sound ((noteArrival p data s)) := by
  unfold noteArrival; simp (maxDischargeDepth := 40) +contextual [*]

@[simp] theorem forWord_sound (w : Nat) (f : Nat → State → State) (s : State) (hf : ∀ v s, Sound s → Sound (f v s)) (hS : Sound s) :
    Sound ((forWord w f s)) := by
  unfold forWord
  refine sound_foldl (fun t b ht => ?_) _ _ hS
  split
  · exact hf _ _ ht
  · exact ht

@[simp] theorem writeGate_sound (w : Nat) (v : Word) (s : State) (hS : Sound s) :
    Sound (((writeGate w v s).over s)) := by
  refine sound_of_mask ?_ hS
  apply writeGate_mask <;> first | rfl | (intro p hp; revert hp; cases p <;> decide)

@[simp] theorem writeSleep_sound (w : Nat) (v : Word) (s : State) (hS : Sound s) :
    Sound (((writeSleep w v s).over s)) := by
  refine sound_of_mask ?_ hS
  apply writeSleep_mask <;> first | rfl | (intro p hp; revert hp; cases p <;> decide)

@[simp] theorem writeRst_sound (w : Nat) (v : Word) (s : State) (hS : Sound s) :
    Sound (((writeRst w v s).over s)) := by
  unfold writeRst; simp (maxDischargeDepth := 40) +contextual [*]

@[simp] theorem writeIssue_sound (v : Word) (s : State) (hS : Sound s) :
    Sound (((writeIssue v s).over s)) := by
  refine sound_of_mask ?_ hS
  apply writeIssue_mask <;> first | rfl | (intro p hp; revert hp; cases p <;> decide)

@[simp] theorem writeRunSet_sound (i : Nat) (v : Word) (s : State) (hS : Sound s) :
    Sound (((writeRunSet i v s).over s)) := by
  refine sound_of_mask ?_ hS
  apply writeRunSet_mask <;> first | rfl | (intro p hp; revert hp; cases p <;> decide)

@[simp] theorem writeRunClr_sound (i : Nat) (v : Word) (s : State) (hS : Sound s) :
    Sound (((writeRunClr i v s).over s)) := by
  refine sound_of_mask ?_ hS
  apply writeRunClr_mask <;> first | rfl | (intro p hp; revert hp; cases p <;> decide)

@[simp] theorem writeSpare_sound (v : Word) (s : State) (hS : Sound s) :
    Sound (((writeSpare v s).over s)) := by
  refine sound_of_mask ?_ hS
  apply writeSpare_mask <;> first | rfl | (intro p hp; revert hp; cases p <;> decide)

@[simp] theorem writeDevReset_sound (v : Word) (s : State) (hS : Sound s) :
    Sound (((writeDevReset v s).over s)) := by
  unfold writeDevReset; simp (maxDischargeDepth := 40) +contextual [*]

@[simp] theorem writeFmCtl_sound (v : Word) (s : State) (hS : Sound s) :
    Sound (((writeFmCtl v s).over s)) := by
  refine sound_of_mask ?_ hS
  apply writeFmCtl_mask <;> first | rfl | (intro p hp; revert hp; cases p <;> decide)

@[simp] theorem fmEnd_sound (count : Nat) (s : State) (hS : Sound s) :
    Sound ((fmEnd count s)) := by
  refine sound_of_mask ?_ hS
  apply fmEnd_mask <;> first | rfl | (intro p hp; revert hp; cases p <;> decide)

@[simp] theorem writeDriftPpm_sound (v : Word) (s : State) (hS : Sound s) :
    Sound (((writeDriftPpm v s).over s)) := by
  refine sound_of_mask ?_ hS
  apply writeDriftPpm_mask <;> first | rfl | (intro p hp; revert hp; cases p <;> decide)

@[simp] theorem driftEnd_sound (count : Nat) (s : State) (hS : Sound s) :
    Sound ((driftEnd count s)) := by
  have key : ∀ (c : Prop) [Decidable c] (a b : State), Sound a → Sound b → Sound (if c then a else b) := fun c _ a b ha hb => by
    split <;> assumption
  unfold driftEnd
  refine key _ _ _ (key _ _ _ ?_ ?_) hS
  · exact State.count_sound _ _ _ (faultParam_sound _ _ _ _ ⟨hS.1, hS.2, hS.3, hS.4, hS.5⟩)
  · exact ⟨hS.1, hS.2, hS.3, hS.4, hS.5⟩

@[simp] theorem State.setSpindle_sound (s : State) (n : Nat) (x : Spn) (hS : Sound s) :
    Sound ((s.setSpindle n x)) := by
  refine sound_of_mask ?_ hS
  apply State.setSpindle_mask <;> first | rfl | (intro p hp; revert hp; cases p <;> decide)

@[simp] theorem writePanel_sound (hs : List Hit) (n : Nat) (i : Issued) (d : Desc) (p : Panel) (s : State) (hS : Sound s) :
    Sound ((writePanel hs n i d p s)) := by
  refine sound_of_mask ?_ hS
  apply writePanel_mask <;> first | rfl | (intro p hp; revert hp; cases p <;> decide)

@[simp] theorem countMcast_sound (s : State) (hS : Sound s) :
    Sound ((countMcast s)) := by
  refine sound_of_mask ?_ hS
  apply countMcast_mask <;> first | rfl | (intro p hp; revert hp; cases p <;> decide)

@[simp] theorem stagePanels_sound (hs : List Hit) (i : Issued) (o : Opds) (s : State) (hS : Sound s) :
    Sound ((stagePanels hs i o s)) := by
  refine sound_of_mask ?_ hS
  apply stagePanels_mask <;> first | rfl | (intro p hp; revert hp; cases p <;> decide)

@[simp] theorem stageRun_sound (hs : List Hit) (i : Issued) (o : Opds) (s : State) (hS : Sound s) :
    Sound ((stageRun hs i o s)) := by
  unfold stageRun; simp (maxDischargeDepth := 40) +contextual [*]

@[simp] theorem drainTile_sound (u : Nat) (i : Issued) (m : MmaOpds) (rows cols : Nat) (tile : AMap Word × AMap Bool) (e0 : Eff) (s : State) (hS : Sound s) :
    Sound ((drainTile u i m rows cols tile e0 s).2) := by
  simp only [drainTile]; (repeat' split) <;> simp (maxDischargeDepth := 40) +contextual [*]

@[simp] theorem mmaWork_sound (hs : List Hit) (i : Issued) (m : MmaOpds) (s : State) (hS : Sound s) :
    Sound ((mmaWork hs i m s).2) := by
  unfold mmaWork
  extract_lets c u n x0 seen slot tilesA turned struckBy a b rows cols stays tile0 parked y streamed x1 tile csA csB rd e0 three g sF sC sT straight tiles sW
  have hF : Sound sF := by
    simp only [sF]
    split
    · exact hS
    · exact ⟨hS.1, hS.2, hS.3, hS.4, hS.5⟩
  have hW : Sound sW := by
    simp only [sW, sT, sC]
    clear_value sF
    simp (maxDischargeDepth := 40) [hF]
  clear_value sW
  split
  · have hD : ∀ x : Spn, Sound (drainTile u i m rows cols tile e0 (sW.setSpindle n x)).2 := fun x => by
      apply drainTile_sound
      exact State.setSpindle_sound _ _ _ hW
    dsimp only
    have := hD (freeSlot slot { x1 with isOpen := mput x1.isOpen slot false false })
    generalize drainTile u i m rows cols tile e0 (sW.setSpindle n (freeSlot slot { x1 with isOpen := mput x1.isOpen slot false false })) = d at this ⊢
    obtain ⟨e, s2⟩ := d
    dsimp only at this ⊢
    exact State.count_sound _ _ _ this
  · exact State.setSpindle_sound _ _ _ hW

@[simp] theorem mmaRun_sound (hs : List Hit) (i : Issued) (m : MmaOpds) (s : State) (hS : Sound s) :
    Sound ((mmaRun hs i m s)) := by
  unfold mmaRun; simp (maxDischargeDepth := 40) +contextual [*]

@[simp] theorem discardRun_sound (i : Issued) (_o : Opds) (s : State) (hS : Sound s) :
    Sound ((discardRun i _o s)) := by
  unfold discardRun; simp (maxDischargeDepth := 40) +contextual [*]

@[simp] theorem moveCounted_sound (i : Issued) (m : MoveOpds) (s : State) (hS : Sound s) :
    Sound ((moveCounted i m s)) := by
  refine sound_of_mask ?_ hS
  apply moveCounted_mask <;> first | rfl | (intro p hp; revert hp; cases p <;> decide)

@[simp] theorem moveRun_sound (i : Issued) (m : MoveOpds) (s : State) (hS : Sound s) :
    Sound ((moveRun i m s)) := by
  unfold moveRun; simp (maxDischargeDepth := 40) +contextual [*]

@[simp] theorem cpyCounted_sound (i : Issued) (m : MoveOpds) (s : State) (hS : Sound s) :
    Sound ((cpyCounted i m s)) := by
  refine sound_of_mask ?_ hS
  apply cpyCounted_mask <;> first | rfl | (intro p hp; revert hp; cases p <;> decide)

@[simp] theorem cpyRun_sound (i : Issued) (m : MoveOpds) (s : State) (hS : Sound s) :
    Sound ((cpyRun i m s)) := by
  unfold cpyRun; simp (maxDischargeDepth := 40) +contextual [*]

@[simp] theorem spmmCounted_sound (i : Issued) (m : SpmmOpds) (s : State) (hS : Sound s) :
    Sound ((spmmCounted i m s)) := by
  refine sound_of_mask ?_ hS
  apply spmmCounted_mask <;> first | rfl | (intro p hp; revert hp; cases p <;> decide)

@[simp] theorem spmmRun_sound (i : Issued) (m : SpmmOpds) (s : State) (hS : Sound s) :
    Sound ((spmmRun i m s)) := by
  unfold spmmRun; simp (maxDischargeDepth := 40) +contextual [*]

@[simp] theorem lscaleRun_sound (i : Issued) (m : MoveOpds) (s : State) (hS : Sound s) :
    Sound ((lscaleRun i m s)) := by
  unfold lscaleRun; simp (maxDischargeDepth := 40) +contextual [*]

@[simp] theorem optCounted_sound (i : Issued) (o : OptOpds) (s : State) (hS : Sound s) :
    Sound ((optCounted i o s)) := by
  refine sound_of_mask ?_ hS
  apply optCounted_mask <;> first | rfl | (intro p hp; revert hp; cases p <;> decide)

@[simp] theorem optRun_sound (i : Issued) (o : OptOpds) (s : State) (hS : Sound s) :
    Sound ((optRun i o s)) := by
  unfold optRun; simp (maxDischargeDepth := 40) +contextual [*]

@[simp] theorem putRec_sound (f : Nat) (k : FKey) (row : Nat) (r : FlyRec) (a : FlyAcc) (s : State) (hS : Sound s) :
    Sound ((putRec f k row r a s).2) := by
  unfold putRec; simp (maxDischargeDepth := 40) +contextual [*]

@[simp] theorem normFwdRow_sound (f : Nat) (i : Issued) (o : FlyOpds) (r : Nat) (acc : FlyAcc × State) (hS : Sound acc.2) :
    Sound ((normFwdRow f i o r acc).2) := by
  unfold normFwdRow; simp (maxDischargeDepth := 40) +contextual [*]

@[simp] theorem normBwdRow_sound (f : Nat) (i : Issued) (o : FlyOpds) (r : Nat) (acc : FlyAcc × State) (hS : Sound acc.2) :
    Sound ((normBwdRow f i o r acc).2) := by
  simp only [normBwdRow]; (repeat' split) <;> simp (maxDischargeDepth := 40) +contextual [*]

@[simp] theorem pgradRow_sound (f : Nat) (i : Issued) (o : FlyOpds) (r : Nat) (acc : FlyAcc × State × PSums) (hS : Sound acc.2.1) :
    Sound ((pgradRow f i o r acc).2.1) := by
  simp only [pgradRow]; (repeat' split) <;> simp (maxDischargeDepth := 40) +contextual [*]

@[simp] theorem pgradRun_sound (f : Nat) (i : Issued) (o : FlyOpds) (rows : List Nat) (a : FlyAcc) (s : State) (hS : Sound s) :
    Sound ((pgradRun f i o rows a s).2) := by
  have hr : ∀ (l : List Nat) (acc : FlyAcc × State × PSums), Sound acc.2.1 →
      Sound (l.foldl (fun acc r => pgradRow f i o r acc) acc).2.1 := by
    intro l
    induction l with
    | nil => intro acc h; exact h
    | cons r l ih => intro acc h; exact ih _ (pgradRow_sound f i o r acc h)
  unfold pgradRun
  exact hr rows _ hS

@[simp] theorem smaxFwdRow_sound (f : Nat) (i : Issued) (o : FlyOpds) (r : Nat) (acc : FlyAcc × State) (hS : Sound acc.2) :
    Sound ((smaxFwdRow f i o r acc).2) := by
  simp only [smaxFwdRow]; (repeat' split) <;> simp (maxDischargeDepth := 40) +contextual [*]

@[simp] theorem smaxBwdRow_sound (f : Nat) (i : Issued) (o : FlyOpds) (r : Nat) (acc : FlyAcc × State) (hS : Sound acc.2) :
    Sound ((smaxBwdRow f i o r acc).2) := by
  simp only [smaxBwdRow]; (repeat' split) <;> simp (maxDischargeDepth := 40) +contextual [*]

@[simp] theorem mergeRow_sound (f : Nat) (i : Issued) (ncte blk row : Nat) (acc : FlyAcc × State) (hS : Sound acc.2) :
    Sound ((mergeRow f i ncte blk row acc).2) := by
  simp only [mergeRow]; (repeat' split) <;> simp (maxDischargeDepth := 40) +contextual [*]

@[simp] theorem mergeRun_sound (f : Nat) (i : Issued) (a : FlyAcc) (s : State) (hS : Sound s) :
    Sound ((mergeRun f i a s).2) := by
  unfold mergeRun; simp (maxDischargeDepth := 40) +contextual [*]

@[simp] theorem strikeFly_sound (f : Nat) (hs : List Hit) (s : State) (hS : Sound s) :
    Sound ((strikeFly f hs s)) := by
  refine sound_of_mask ?_ hS
  apply strikeFly_mask <;> first | rfl | (intro p hp; revert hp; cases p <;> decide)

@[simp] theorem flyWork_sound (i : Issued) (o : FlyOpds) (s : State) (hS : Sound s) :
    Sound ((flyWork i o s).2) := by
  simp only [flyWork]; (repeat' split) <;> simp (maxDischargeDepth := 40) +contextual [*]

@[simp] theorem finishFly_sound (f : Nat) (i : Issued) (o : FlyOpds) (r : FlyAcc × State) (hS : Sound r.2) :
    Sound ((finishFly f i o r)) := by
  unfold finishFly; simp (maxDischargeDepth := 40) +contextual [*]

@[simp] theorem flyRun_sound (hs : List Hit) (i : Issued) (o : FlyOpds) (s0 : State) (hS : Sound s0) :
    Sound ((flyRun hs i o s0)) := by
  unfold flyRun; simp (maxDischargeDepth := 40) +contextual [*]

@[simp] theorem flyCommand_sound (op : Nat) (f : BitVec 2) (hs : List Hit) (s : State) (hS : Sound s) :
    Sound ((flyCommand op f hs s)) := by
  unfold flyCommand; simp (maxDischargeDepth := 40) +contextual [*]

@[simp] theorem State.setPly_sound (s : State) (c : PlyCmd) (hS : Sound s) :
    Sound ((s.setPly c)) := by
  refine sound_of_mask ?_ hS
  apply State.setPly_mask <;> first | rfl | (intro p hp; revert hp; cases p <;> decide)

@[simp] theorem plyMod_sound (id : Nat) (f : PlyCmd → PlyCmd) (s : State) (hS : Sound s) :
    Sound ((plyMod id f s)) := by
  refine sound_of_mask ?_ hS
  apply plyMod_mask <;> first | rfl | (intro p hp; revert hp; cases p <;> decide)

@[simp] theorem plyFault_sound (id : Nat) (f : Flt) (s : State) (hS : Sound s) :
    Sound ((plyFault id f s)) := by
  simp only [plyFault]; (repeat' split) <;> simp (maxDischargeDepth := 40) +contextual [*]

@[simp] theorem disownOps_sound (id : Nat) (s : State) (hS : Sound s) :
    Sound ((disownOps id s)) := by
  refine sound_of_mask ?_ hS
  apply disownOps_mask <;> first | rfl | (intro p hp; revert hp; cases p <;> decide)

@[simp] theorem plyEnd_sound (c : PlyCmd) (st : Byte) (kind : Nat) (s : State) (hS : Sound s) :
    Sound ((plyEnd c st kind s)) := by
  refine sound_of_mask ?_ hS
  apply plyEnd_mask <;> first | rfl | (intro p hp; revert hp; cases p <;> decide)

@[simp] theorem plyAbandon_sound (id : Nat) (s : State) (hS : Sound s) :
    Sound ((plyAbandon id s)) := by
  refine sound_of_mask ?_ hS
  apply plyAbandon_mask <;> first | rfl | (intro p hp; revert hp; cases p <;> decide)

@[simp] theorem plyPost_sound (id : Nat) (c : PlyCmd) (m : Nat × List Byte) (s : State) (hS : Sound s) :
    Sound ((plyPost id c m s).1) := by
  simp only [plyPost]; (repeat' split) <;> simp (maxDischargeDepth := 40) +contextual [*]

@[simp] theorem plyPump_sound (id : Nat) (keep : List (Nat × List Byte)) (x0 : List (Nat × List Byte)) (s : State) (hS : Sound s) :
    Sound ((plyPump id keep x0 s)) := by
  induction x0 generalizing keep s with
  | nil => exact plyMod_sound _ _ _ hS
  | cons m r ih =>
    rw [plyPump]
    split
    · exact hS
    · split
      · exact State.setPly_sound _ _ hS
      · have key : ∀ (c : Prop) [Decidable c] (a b : State), Sound a → Sound b → Sound (if c then a else b) :=
          fun c _ a b ha hb => by split <;> assumption
        refine key _ _ _ (ih _ _ hS) ?_
        dsimp only
        exact key _ _ _ (ih _ _ (plyPost_sound _ _ _ _ hS)) (plyPost_sound _ _ _ _ hS)

@[simp] theorem plySend_sound (id : Nat) (ms : List (Nat × List Byte)) (s : State) (hS : Sound s) :
    Sound ((plySend id ms s)) := by
  unfold plySend; (repeat' split) <;> first | exact hS | (simp (maxDischargeDepth := 40) +contextual [*]; done) | (rw [sound_iff] at hS ⊢; exact hS)

@[simp] theorem plyTry_sound (id : Nat) (s : State) (hS : Sound s) :
    Sound ((plyTry id s)) := by
  simp only [plyTry]; (repeat' split) <;> simp (maxDischargeDepth := 40) +contextual [*]

@[simp] theorem plyPoison_sound (id a : Nat) (s : State) (hS : Sound s) :
    Sound ((plyPoison id a s)) := by
  simp only [plyPoison]; (repeat' split) <;> simp (maxDischargeDepth := 40) +contextual [*]

@[simp] theorem plyReads_sound (id : Nat) (d : Desc) (rs : List RdElem) (s : State) (hS : Sound s) :
    Sound ((plyReads id d rs s)) := by
  simp only [plyReads]; (repeat' split) <;> simp (maxDischargeDepth := 40) +contextual [*]

@[simp] theorem plyStore_sound (id : Nat) (d : Desc) (x : Encoded) (s : State) (hS : Sound s) :
    Sound ((plyStore id d x s)) := by
  simp only [plyStore]; (repeat' split) <;> simp (maxDischargeDepth := 40) +contextual [*]

@[simp] theorem plyPoisonHere_sound (id : Nat) (b : Bool) (s : State) (hS : Sound s) :
    Sound ((plyPoisonHere id b s)) := by
  simp only [plyPoisonHere]; (repeat' split) <;> simp (maxDischargeDepth := 40) +contextual [*]

@[simp] theorem plyByte_sound (id a v : Nat) (poison : Bool) (s : State) (hS : Sound s) :
    Sound ((plyByte id a v poison s)) := by
  unfold plyByte; simp (maxDischargeDepth := 40) +contextual [*]

@[simp] theorem acceptPly_sound {α : Type} (op : Nat) (hs : List Hit) (check : Issued → State → Chk α) (run : Issued → α → State → State) (s : State) (hf : ∀ i a s, Sound s → Sound (run i a s)) (hS : Sound s) :
    Sound ((acceptPly op hs check run s)) := by
  simp only [acceptPly]; (repeat' split) <;> simp (maxDischargeDepth := 40) +contextual [*]

@[simp] theorem strikeAccs_sound (hs : List Hit) (s : State) (hS : Sound s) :
    Sound ((strikeAccs hs s)) := by
  refine sound_of_mask ?_ hS
  apply strikeAccs_mask <;> first | rfl | (intro p hp; revert hp; cases p <;> decide)

@[simp] theorem startPly_sound (secs : List Nat) (c : PlyCmd) (s : State) (hS : Sound s) :
    Sound ((startPly secs c s)) := by
  unfold startPly; simp (maxDischargeDepth := 40) +contextual [*]

end Sys2Proof.Machine
end

