-- ==== Sys2Proof/Laws/SoundControl.lean ====
section
/-! SUPPORT. `Sound` is kept: the control plane, the plying engine, the loader and the links. -/

namespace Sys2Proof.Machine

@[simp] theorem storeSpare_sound (m : BitVec 5) (s : State) (hS : Sound s) :
    Sound ((storeSpare m s)) := by
  unfold storeSpare
  dsimp only
  have h : Sound ({ s with spare := m, spareReq := none } : State) := ⟨hS.1, hS.2, hS.3, hS.4, hS.5⟩
  split
  · exact faultParam_sound _ _ _ _ h
  · exact persistFree_sound _ _ _ h

@[simp] theorem leaveWith_sound (p v : Nat) (s : State) (hS : Sound s) :
    Sound ((leaveWith p v s)) := by
  refine sound_of_mask ?_ hS
  apply leaveWith_mask <;> first | rfl | (intro p hp; revert hp; cases p <;> decide)

@[simp] theorem swapIn_sound (m : BitVec 5) (s : State) (hS : Sound s) :
    Sound ((swapIn m s)) := by
  unfold swapIn; simp (maxDischargeDepth := 40) +contextual [*]

@[simp] theorem swapBack_sound (m : BitVec 5) (s : State) (hS : Sound s) :
    Sound ((swapBack m s)) := by
  unfold swapBack; simp (maxDischargeDepth := 40) +contextual [*]

@[simp] theorem swapSpare_sound (s : State) (hS : Sound s) :
    Sound ((swapSpare s)) := by
  simp only [swapSpare]; (repeat' split) <;> simp (maxDischargeDepth := 40) +contextual [*]

@[simp] theorem writeRecord_sound (b : Nat) (r : Rec) (s : State) (hS : Sound s) :
    Sound ((writeRecord b r s)) := by
  unfold writeRecord; simp (maxDischargeDepth := 40) +contextual [*]

@[simp] theorem settleDrain_sound (b : Nat) (s : State) (hS : Sound s) :
    Sound ((settleDrain b s)) := by
  refine sound_of_mask ?_ hS
  apply settleDrain_mask <;> first | rfl | (intro p hp; revert hp; cases p <;> decide)

@[simp] theorem countDone_sound (d : Done) (s : State) (hS : Sound s) :
    Sound ((countDone d s)) := by
  refine sound_of_mask ?_ hS
  apply countDone_mask <;> first | rfl | (intro p hp; revert hp; cases p <;> decide)

@[simp] theorem captureHold_sound (d : Done) (s : State) (hS : Sound s) :
    Sound ((captureHold d s)) := by
  unfold captureHold; simp (maxDischargeDepth := 40) +contextual [*]

@[simp] theorem completeBase_sound (jrn : Bool) (d : Done) (s : State) (hS : Sound s) :
    Sound ((completeBase jrn d s)) := by
  unfold completeBase; simp (maxDischargeDepth := 40) +contextual [*]

@[simp] theorem advancePhase_sound (c : Nat) (s : State) (hS : Sound s) :
    Sound ((advancePhase c s)) := by
  simp only [advancePhase]; (repeat' split) <;> simp (maxDischargeDepth := 40) +contextual [*]

@[simp] theorem closeIfDone_sound (c : Nat) (s : State) (hS : Sound s) :
    Sound ((closeIfDone c s)) := by
  simp only [closeIfDone]; (repeat' split) <;> simp (maxDischargeDepth := 40) +contextual [*]

@[simp] theorem complete_sound (d : Done) (s : State) (hS : Sound s) :
    Sound ((complete d s)) := by
  unfold complete; simp (maxDischargeDepth := 40) +contextual [*]

@[simp] theorem faultBobbin_sound (kind : Byte) (b : Nat) (s : State) (hS : Sound s) :
    Sound ((faultBobbin kind b s)) := by
  unfold faultBobbin; simp (maxDischargeDepth := 40) +contextual [*]

@[simp] theorem enableBob_sound (b : Nat) (s : State) (hS : Sound s) :
    Sound ((enableBob b s)) := by
  unfold enableBob; simp (maxDischargeDepth := 40) +contextual [*]

@[simp] theorem disableBob_sound (b : Nat) (s : State) (hS : Sound s) :
    Sound ((disableBob b s)) := by
  refine sound_of_mask ?_ hS
  apply disableBob_mask <;> first | rfl | (intro p hp; revert hp; cases p <;> decide)

@[simp] theorem writeProd_sound (b : Nat) (v : Word) (s : State) (hS : Sound s) :
    Sound (((writeProd b v s).over s)) := by
  unfold writeProd; simp (maxDischargeDepth := 40) +contextual [*]

@[simp] theorem stopBobbin_sound (i : Issued) (err : Bool) (s : State) (hS : Sound s) :
    Sound ((stopBobbin i err s)) := by
  unfold stopBobbin; simp (maxDischargeDepth := 40) +contextual [*]

@[simp] theorem checkArrival_sound (i : Issued) (s : State) (hS : Sound s) :
    Sound ((checkArrival i s)) := by
  simp only [checkArrival]; (repeat' split) <;> simp (maxDischargeDepth := 40) +contextual [*]

@[simp] theorem arrive_sound (b : Bobbin) (x0 : List (Nat × List RByte)) (x1 : Word) (s : State) (hS : Sound s) :
    Sound ((arrive b x0 x1 s)) := by
  induction x0 generalizing s x1 with
  | nil => exact hS
  | cons q r ih =>
    unfold arrive
    dsimp only
    split
    · exact stopBobbin_sound _ _ _ (State.bumpId_sound _ hS)
    · exact ih _ _ (checkArrival_sound _ _ (State.bumpId_sound _ hS))

@[simp] theorem cachedRead_sound (a : Nat) (s : State) (hS : Sound s) :
    Sound ((cachedRead a s).2.2) := by
  have h : ∀ (t : State) x, Sound t → Sound { t with planCache := x } :=
    fun t x k => ⟨k.mem, k.nvm, k.queues, k.tick, k.cyc⟩
  simp only [cachedRead]
  repeat' split
  all_goals exact h _ _ (by simp (maxDischargeDepth := 40) +contextual [*])

@[simp] theorem noteRun_sound (e : PlanEnt) (sizes : List Nat) (n : Nat) (s : State) (hS : Sound s) :
    Sound ((noteRun e sizes n s)) := by
  refine sound_of_mask ?_ hS
  apply noteRun_mask <;> first | rfl | (intro p hp; revert hp; cases p <;> decide)

@[simp] theorem setHead_sound (b : Nat) (f : QEntry → QEntry) (s : State) (hS : Sound s) :
    Sound ((setHead b f s)) := by
  refine sound_of_mask ?_ hS
  apply setHead_mask <;> first | rfl | (intro p hp; revert hp; cases p <;> decide)

@[simp] theorem failRunWord_sound (b a : Nat) (e : QEntry) (s : State) (hS : Sound s) :
    Sound ((failRunWord b a e s)) := by
  unfold failRunWord; simp (maxDischargeDepth := 40) +contextual [*]

@[simp] theorem resolveHead_sound (b : Nat) (e : QEntry) (m : Image) (s : State) (hS : Sound s) :
    Sound ((resolveHead b e m s)) := by
  simp only [resolveHead]; (repeat' split) <;> simp (maxDischargeDepth := 40) +contextual [*]

@[simp] theorem noteGrant_sound (c : Cmd) (s : State) (hS : Sound s) :
    Sound ((noteGrant c s)) := by
  refine sound_of_mask ?_ hS
  apply noteGrant_mask <;> first | rfl | (intro p hp; revert hp; cases p <;> decide)

@[simp] theorem sendToUnit_sound (e : QEntry) (s : State) (hS : Sound s) :
    Sound ((sendToUnit e s)) := by
  refine sound_of_mask ?_ hS
  apply sendToUnit_mask <;> first | rfl | (intro p hp; revert hp; cases p <;> decide)

@[simp] theorem popHead_sound (b : Nat) (s : State) (hS : Sound s) :
    Sound ((popHead b s)) := by
  refine sound_of_mask ?_ hS
  apply popHead_mask <;> first | rfl | (intro p hp; revert hp; cases p <;> decide)

@[simp] theorem dispatchHead_sound (b : Nat) (e : QEntry) (s : State) (hS : Sound s) :
    Sound ((dispatchHead b e s)) := by
  refine sound_of_mask ?_ hS
  apply dispatchHead_mask <;> first | rfl | (intro p hp; revert hp; cases p <;> decide)

@[simp] theorem lateHead_sound (b : Nat) (e : QEntry) (s : State) (hS : Sound s) :
    Sound ((lateHead b e s)) := by
  unfold lateHead; simp (maxDischargeDepth := 40) +contextual [*]

@[simp] theorem recordHead_sound (b : Nat) (e : QEntry) (s : State) (hS : Sound s) :
    Sound ((recordHead b e s)) := by
  unfold recordHead; simp (maxDischargeDepth := 40) +contextual [*]

@[simp] theorem dispatchBob_sound (b : Nat) (s : State) (hS : Sound s) :
    Sound ((dispatchBob b s)) := by
  simp only [dispatchBob]; (repeat' split) <;> simp (maxDischargeDepth := 40) +contextual [*]

@[simp] theorem noteHeads_sound (s : State) (hS : Sound s) :
    Sound ((noteHeads s)) := by
  refine sound_of_mask ?_ hS
  apply noteHeads_mask <;> first | rfl | (intro p hp; revert hp; cases p <;> decide)

@[simp] theorem settlePend_sound (s : State) (hS : Sound s) :
    Sound ((settlePend s)) := by
  refine sound_of_mask ?_ hS
  apply settlePend_mask <;> first | rfl | (intro p hp; revert hp; cases p <;> decide)

@[simp] theorem journalRoute_sound (c : Nat) (l : List (Nat × Bool)) (s : State) (hS : Sound s) :
    Sound ((journalRoute c l s)) := by
  unfold journalRoute; simp (maxDischargeDepth := 40) +contextual [*]

@[simp] theorem stageDone_sound (id : Nat) (s : State) (hS : Sound s) :
    Sound ((stageDone id s)) := by
  refine sound_of_mask ?_ hS
  apply stageDone_mask <;> first | rfl | (intro p hp; revert hp; cases p <;> decide)

@[simp] theorem takeReport_sound (r : Report) (s0 : State) (hS : Sound s0) :
    Sound ((takeReport r s0)) := by
  unfold takeReport; simp (maxDischargeDepth := 40) +contextual [*]

@[simp] theorem dropSched_sound (id : Nat) (s : State) (hS : Sound s) :
    Sound ((dropSched id s)) := by
  refine sound_of_mask ?_ hS
  apply dropSched_mask <;> first | rfl | (intro p hp; revert hp; cases p <;> decide)

@[simp] theorem phaseCloseRun_sound (i : Issued) (s : State) (hS : Sound s) :
    Sound ((phaseCloseRun i s)) := by
  unfold phaseCloseRun; simp (maxDischargeDepth := 40) +contextual [*]

@[simp] theorem releaseTag_sound (t : Nat) (s : State) (hS : Sound s) :
    Sound ((releaseTag t s)) := by
  refine sound_of_mask ?_ hS
  apply releaseTag_mask <;> first | rfl | (intro p hp; revert hp; cases p <;> decide)

@[simp] theorem writeCqHead_sound (b : Nat) (v : Word) (s : State) (hS : Sound s) :
    Sound (((writeCqHead b v s).over s)) := by
  refine sound_of_mask ?_ hS
  apply writeCqHead_mask <;> first | rfl | (intro p hp; revert hp; cases p <;> decide)

@[simp] theorem writeDbCtrl_sound (b : Nat) (v : Word) (s : State) (hS : Sound s) :
    Sound (((writeDbCtrl b v s).over s)) := by
  unfold writeDbCtrl; simp (maxDischargeDepth := 40) +contextual [*]

@[simp] theorem plyStoreSums_sound (id : Nat) (c : PlyCmd) (b base : Nat) (sums : List Int) (poison : Bool) (s : State) (hS : Sound s) :
    Sound ((plyStoreSums id c b base sums poison s)) := by
  simp only [plyStoreSums]; (repeat' split) <;> simp (maxDischargeDepth := 40) +contextual [*]

@[simp] theorem plySumDown_sound (id : Nat) (c : PlyCmd) (b : Nat) (sums : List Int) (q : Nat) (poison : Bool) (s : State) (hS : Sound s) :
    Sound ((plySumDown id c b sums q poison s)) := by
  unfold plySumDown; simp (maxDischargeDepth := 40) +contextual [*]

@[simp] theorem plyClose_sound (id b : Nat) (s : State) (hS : Sound s) :
    Sound ((plyClose id b s)) := by
  simp only [plyClose]; (repeat' split) <;> simp (maxDischargeDepth := 40) +contextual [*]

@[simp] theorem plyContribute_sound (id : Nat) (x : Contrib) (src_ : Nat) (s : State) (hS : Sound s) :
    Sound ((plyContribute id x src_ s)) := by
  simp only [plyContribute]; (repeat' split) <;> simp (maxDischargeDepth := 40) +contextual [*]

@[simp] theorem plyOwn_sound (id : Nat) (x0 : List Contrib) (s : State) (hS : Sound s) :
    Sound ((plyOwn id x0 s)) := by
  induction x0 generalizing s with
  | nil => exact plyMod_sound _ _ _ hS
  | cons m r ih =>
    unfold plyOwn
    split
    · exact hS
    · split
      · exact ih _ (plyContribute_sound _ _ _ _ hS)
      · exact State.setPly_sound _ _ hS

@[simp] theorem plyAdvance_sound (id : Nat) (s : State) (hS : Sound s) :
    Sound ((plyAdvance id s)) := by
  simp only [plyAdvance]; (repeat' split) <;> simp (maxDischargeDepth := 40) +contextual [*]

@[simp] theorem plyScaleRecords_sound (c : PlyCmd) (s : State) (hS : Sound s) :
    Sound ((plyScaleRecords c s)) := by
  unfold plyScaleRecords; simp (maxDischargeDepth := 40) +contextual [*]

@[simp] theorem plyMain_sound (id : Nat) (s : State) (hS : Sound s) :
    Sound ((plyMain id s)) := by
  simp only [plyMain]; (repeat' split) <;> simp (maxDischargeDepth := 40) +contextual [*]

@[simp] theorem plyPreCheck_sound (id : Nat) (s : State) (hS : Sound s) :
    Sound ((plyPreCheck id s)) := by
  simp only [plyPreCheck]; (repeat' split) <;> simp (maxDischargeDepth := 40) +contextual [*]

@[simp] theorem plyPreOwner_sound (id : Nat) (s : State) (hS : Sound s) :
    Sound ((plyPreOwner id s)) := by
  simp only [plyPreOwner]; (repeat' split) <;> simp (maxDischargeDepth := 40) +contextual [*]

@[simp] theorem plyPreStart_sound (id : Nat) (s : State) (hS : Sound s) :
    Sound ((plyPreStart id s)) := by
  simp only [plyPreStart]; (repeat' split) <;> simp (maxDischargeDepth := 40) +contextual [*]

@[simp] theorem reduceRun_sound (hs : List Hit) (i : Issued) (c : PlyCmd) (s : State) (hS : Sound s) :
    Sound ((reduceRun hs i c s)) := by
  unfold reduceRun; simp (maxDischargeDepth := 40) +contextual [*]

@[simp] theorem plyScales_sound (id : Nat) (m : RMsg) (s : State) (hS : Sound s) :
    Sound ((plyScales id m s)) := by
  simp only [plyScales]; (repeat' split) <;> simp (maxDischargeDepth := 40) +contextual [*]

@[simp] theorem reduceMsg_sound (c : PlyCmd) (m : RMsg) (pay : List Byte) (s : State) (hS : Sound s) :
    Sound ((reduceMsg c m pay s).1) := by
  simp only [reduceMsg]; (repeat' split) <;> simp (maxDischargeDepth := 40) +contextual [*]

@[simp] theorem gatherStore_sound (id : Nat) (c : PlyCmd) (b : Nat) (pay : List Byte) (q : Nat) (poison badQ : Bool) (s : State) (hS : Sound s) :
    Sound ((gatherStore id c b pay q poison badQ s)) := by
  simp only [gatherStore]; (repeat' split) <;> simp (maxDischargeDepth := 40) +contextual [*]

@[simp] theorem gatherOwn_sound (id : Nat) (c : PlyCmd) (d : Desc) (x : OwnBlock) (s : State) (hS : Sound s) :
    Sound ((gatherOwn id c d x s)) := by
  unfold gatherOwn; simp (maxDischargeDepth := 40) +contextual [*]

@[simp] theorem gatherRun_sound (hs : List Hit) (i : Issued) (c : PlyCmd) (s : State) (hS : Sound s) :
    Sound ((gatherRun hs i c s)) := by
  unfold gatherRun; simp (maxDischargeDepth := 40) +contextual [*]

@[simp] theorem gatherMsg_sound (c : PlyCmd) (m : RMsg) (pay : List Byte) (s : State) (hS : Sound s) :
    Sound ((gatherMsg c m pay s).1) := by
  simp only [gatherMsg]; (repeat' split) <;> simp (maxDischargeDepth := 40) +contextual [*]

@[simp] theorem verdictDown_sound (id : Nat) (ovf csum : Bool) (s : State) (hS : Sound s) :
    Sound ((verdictDown id ovf csum s)) := by
  simp only [verdictDown]; (repeat' split) <;> simp (maxDischargeDepth := 40) +contextual [*]

@[simp] theorem verdictUp_sound (id : Nat) (s : State) (hS : Sound s) :
    Sound ((verdictUp id s)) := by
  simp only [verdictUp]; (repeat' split) <;> simp (maxDischargeDepth := 40) +contextual [*]

@[simp] theorem verdictMsg_sound (c : PlyCmd) (m : RMsg) (s : State) (hS : Sound s) :
    Sound ((verdictMsg c m s).1) := by
  simp only [verdictMsg]; (repeat' split) <;> simp (maxDischargeDepth := 40) +contextual [*]

@[simp] theorem barrierRun_sound (i : Issued) (c : PlyCmd) (s : State) (hS : Sound s) :
    Sound ((barrierRun i c s)) := by
  simp only [barrierRun]; (repeat' split) <;> simp (maxDischargeDepth := 40) +contextual [*]

@[simp] theorem factorRun_sound (hs : List Hit) (seed : Option (Nat → Word)) (i : Issued) (d : Desc) (s : State) (hS : Sound s) :
    Sound ((factorRun hs seed i d s)) := by
  unfold factorRun; simp (maxDischargeDepth := 40) +contextual [*]

@[simp] theorem plyStray_sound (port : Nat) (m : RMsg) (s : State) (hS : Sound s) :
    Sound ((plyStray port m s)) := by
  unfold plyStray; simp (maxDischargeDepth := 40) +contextual [*]

@[simp] theorem plyUnmatched_sound (port : Nat) (m : RMsg) (s : State) (g : Option (Nat × Grp)) (hS : Sound s) :
    Sound ((plyUnmatched port m s g).1) := by
  simp only [plyUnmatched]; (repeat' split) <;> simp (maxDischargeDepth := 40) +contextual [*]

@[simp] theorem plyDeliver_sound (port : Nat) (l : List Byte) (s : State) (hS : Sound s) :
    Sound ((plyDeliver port l s).1) := by
  unfold plyDeliver
  dsimp only
  split
  · exact plyStray_sound _ _ _ hS
  · split
    · exact plyUnmatched_sound _ _ _ _ hS
    · have hr : ∀ m c (r : State × PlyAns), Sound r.1 → Sound (plyAnswered port m c s r).1 := by
        intro m c r hr
        unfold plyAnswered
        split
        · dsimp only; exact plyMod_sound _ _ _ (State.count_sound _ _ _ hr)
        · dsimp only; exact State.count_sound _ _ _ hr
        · dsimp only; exact plyStray_sound _ _ _ hS
      refine hr _ _ _ ?_
      repeat' split
      · exact hS
      · exact reduceMsg_sound _ _ _ _ hS
      · exact gatherMsg_sound _ _ _ _ hS
      · exact verdictMsg_sound _ _ _ hS

@[simp] theorem plyAcked_sound (id : Nat) (s : State) (hS : Sound s) :
    Sound ((plyAcked id s)) := by
  unfold plyAcked; simp (maxDischargeDepth := 40) +contextual [*]

@[simp] theorem beginLoad_sound (s : State) (hS : Sound s) :
    Sound ((beginLoad s)) := by
  refine sound_of_mask ?_ hS
  apply beginLoad_mask <;> first | rfl | (intro p hp; revert hp; cases p <;> decide)

@[simp] theorem nextLoad_sound (s : State) (hS : Sound s) :
    Sound ((nextLoad s)) := by
  refine sound_of_mask ?_ hS
  apply nextLoad_mask <;> first | rfl | (intro p hp; revert hp; cases p <;> decide)

@[simp] theorem rejectLoad_sound (i : Issued) (f : LoadFail) (s : State) (hS : Sound s) :
    Sound ((rejectLoad i f s)) := by
  unfold rejectLoad
  exact State.addReport_sound _ _ (faultCharged_sound _ _ _ _ (State.count_sound _ _ _ ⟨hS.1, hS.2, hS.3, hS.4, hS.5⟩))

@[simp] theorem acceptLoad_sound (i : Issued) (d : ImgData) (s : State) (hS : Sound s) :
    Sound ((acceptLoad i d s)) := by
  unfold acceptLoad
  exact complete_sound _ _ (State.count_sound _ _ _ ⟨hS.1, hS.2, hS.3, hS.4, hS.5⟩)

@[simp] theorem holdLoad_sound (i : Issued) (s : State) (hS : Sound s) :
    Sound ((holdLoad i s)) := by
  refine sound_of_mask ?_ hS
  apply holdLoad_mask <;> first | rfl | (intro p hp; revert hp; cases p <;> decide)

@[simp] theorem freeClaims_sound (m : Image) (s : State) (hS : Sound s) :
    Sound ((freeClaims m s)) := by
  refine sound_of_mask ?_ hS
  apply freeClaims_mask <;> first | rfl | (intro p hp; revert hp; cases p <;> decide)

@[simp] theorem dropPlans_sound (m : Image) (s : State) (hS : Sound s) :
    Sound ((dropPlans m s)) := by
  refine sound_of_mask ?_ hS
  apply dropPlans_mask <;> first | rfl | (intro p hp; revert hp; cases p <;> decide)

@[simp] theorem unloadCtx_sound (c : Nat) (s : State) (hS : Sound s) :
    Sound ((unloadCtx c s)) := by
  refine sound_of_mask ?_ hS
  apply unloadCtx_mask <;> first | rfl | (intro p hp; revert hp; cases p <;> decide)

@[simp] theorem takeIdentity_sound (s : State) (hS : Sound s) :
    Sound ((takeIdentity s)) := by
  refine sound_of_mask ?_ hS
  apply takeIdentity_mask <;> first | rfl | (intro p hp; revert hp; cases p <;> decide)

@[simp] theorem sendNotice_sound (s : State) (hS : Sound s) :
    Sound ((sendNotice s)) := by
  refine sound_of_mask ?_ hS
  apply sendNotice_mask <;> first | rfl | (intro p hp; revert hp; cases p <;> decide)

@[simp] theorem ctxResetWrite_sound (c : Nat) (s : State) (hS : Sound s) :
    Sound ((ctxResetWrite c s)) := by
  simp only [ctxResetWrite]; (repeat' split) <;> simp (maxDischargeDepth := 40) +contextual [*]

@[simp] theorem indWrite_sound (v : Word) (s : State) (hS : Sound s) :
    Sound ((indWrite v s)) := by
  refine sound_of_mask ?_ hS
  apply indWrite_mask <;> first | rfl | (intro p hp; revert hp; cases p <;> decide)

@[simp] theorem writeDoorbell_sound (b off : Nat) (v : Word) (s : State) (hS : Sound s) :
    Sound (((writeDoorbell b off v s).over s)) := by
  unfold writeDoorbell; simp (maxDischargeDepth := 40) +contextual [*]

@[simp] theorem failOp_sound (n : Nat) (o : SqOp) (s : State) (hS : Sound s) :
    Sound ((failOp n o s)) := by
  simp only [failOp]; (repeat' split) <;> simp (maxDischargeDepth := 40) +contextual [*]

@[simp] theorem endQp_sound (n st : Nat) (s : State) (hS : Sound s) :
    Sound ((endQp n st s)) := by
  unfold endQp; simp (maxDischargeDepth := 40) +contextual [*]

@[simp] theorem qpError_sound (n cause : Nat) (s : State) (hS : Sound s) :
    Sound ((qpError n cause s)) := by
  unfold qpError; simp (maxDischargeDepth := 40) +contextual [*]

@[simp] theorem qpToError_sound (n : Nat) (s : State) (hS : Sound s) :
    Sound ((qpToError n s)) := by
  unfold qpToError; simp (maxDischargeDepth := 40) +contextual [*]

@[simp] theorem qpToReset_sound (n : Nat) (s : State) (hS : Sound s) :
    Sound ((qpToReset n s)) := by
  unfold qpToReset; simp (maxDischargeDepth := 40) +contextual [*]

@[simp] theorem popOp_sound (n : Nat) (s : State) (hS : Sound s) :
    Sound ((popOp n s)) := by
  unfold popOp; simp (maxDischargeDepth := 40) +contextual [*]

@[simp] theorem plyResume_sound (s : State) (hS : Sound s) :
    Sound ((plyResume s)) := by
  unfold plyResume; simp (maxDischargeDepth := 40) +contextual [*]

@[simp] theorem answered_sound (n : Nat) (ing : Ingress) (f : State → State) (s : State) (hf : ∀ s, Sound s → Sound (f s)) (hS : Sound s) :
    Sound ((answered n ing f s)) := by
  unfold answered
  have h := ingress_sound n 1 ing s hS
  generalize ingress n 1 ing s = x at h ⊢
  obtain ⟨t, b⟩ := x
  cases b
  · exact h
  · exact hf _ (popOp_sound _ _ h)

@[simp] theorem setPause_sound (p : Nat) (ctrl : Bool) (since : Option Nat) (storm : Bool) (s : State) (hS : Sound s) :
    Sound ((setPause p ctrl since storm s)) := by
  refine sound_of_mask ?_ hS
  apply setPause_mask <;> first | rfl | (intro p hp; revert hp; cases p <;> decide)

@[simp] theorem pfcFrame_sound (p : Nat) (s : State) (hS : Sound s) :
    Sound ((pfcFrame p s)) := by
  refine sound_of_mask ?_ hS
  apply pfcFrame_mask <;> first | rfl | (intro p hp; revert hp; cases p <;> decide)

@[simp] theorem retransmitPort_sound (p : Nat) (s : State) (hS : Sound s) :
    Sound ((retransmitPort p s)) := by
  unfold retransmitPort; simp (maxDischargeDepth := 40) +contextual [*]

@[simp] theorem migrate_sound (n : Nat) (s : State) (hS : Sound s) :
    Sound ((migrate n s)) := by
  unfold migrate; simp (maxDischargeDepth := 40) +contextual [*]

@[simp] theorem loseHostPath_sound (n : Nat) (s : State) (hS : Sound s) :
    Sound ((loseHostPath n s)) := by
  unfold loseHostPath; simp (maxDischargeDepth := 40) +contextual [*]

@[simp] theorem linkLost_sound (p : Nat) (s : State) (hS : Sound s) :
    Sound ((linkLost p s)) := by
  unfold linkLost; simp (maxDischargeDepth := 40) +contextual [*]

end Sys2Proof.Machine
end

