-- ==== Sys2Proof/Laws/SoundRegisters.lean ====
section
/-! SUPPORT. `Sound` is kept: register writes, boot, management, attestation and arriving messages. -/

namespace Sys2Proof.Machine

@[simp] theorem wrDone_sound (s : State) (hS : Sound s) :
    Sound ((wrDone s).2) := by
  refine sound_of_mask ?_ hS
  apply wrDone_mask <;> first | rfl | (intro p hp; revert hp; cases p <;> decide)

@[simp] theorem wrRefuse_sound (k : Byte) (s : State) (hS : Sound s) :
    Sound ((wrRefuse k s).2) := by
  refine sound_of_mask ?_ hS
  apply wrRefuse_mask <;> first | rfl | (intro p hp; revert hp; cases p <;> decide)

theorem ofWr_sound (r : WrRes) (s : State) (hS : Sound (r.over s)) : Sound (ofWr r s).2 := by rw [ofWr_state]; exact hS

@[simp] theorem storeRw_sound (a : Nat) (r : RegRow) (v : Word) (s : State) (hS : Sound s) :
    Sound ((storeRw a r v s).2) := by
  refine sound_of_mask ?_ hS
  apply storeRw_mask <;> first | rfl | (intro p hp; revert hp; cases p <;> decide)

@[simp] theorem storeIf_sound (c : Bool) (a : Nat) (r : RegRow) (v : Word) (s : State) (hS : Sound s) :
    Sound ((storeIf c a r v s).2) := by
  refine sound_of_mask ?_ hS
  apply storeIf_mask <;> first | rfl | (intro p hp; revert hp; cases p <;> decide)

@[simp] theorem storePers_sound (a : Nat) (r : RegRow) (v : Word) (nvmErr : Bool) (s : State) (hS : Sound s) :
    Sound ((storePers a r v nvmErr s).2) := by
  unfold storePers; (repeat' split) <;> first | (simp (maxDischargeDepth := 40) +contextual [*]; done) | (rename_i heq; have hk := congrArg (fun p => Sound p.1) heq; simp (maxDischargeDepth := 40) [*, -heq] at hk; simp (maxDischargeDepth := 40) +contextual [*]; done) | (rename_i heq; have hk := congrArg (fun p => Sound p.1) heq; simp (maxDischargeDepth := 40) [*, -heq] at hk; exact hk)

@[simp] theorem writeCrd_sound (a : Nat) (r : RegRow) (v : Word) (s : State) (hS : Sound s) :
    Sound ((writeCrd a r v s).2) := by
  refine sound_of_mask ?_ hS
  apply writeCrd_mask <;> first | rfl | (intro p hp; revert hp; cases p <;> decide)

@[simp] theorem writeFly_sound (f a : Nat) (r : RegRow) (v : Word) (s : State) (hS : Sound s) :
    Sound ((writeFly f a r v s).2) := by
  refine sound_of_mask ?_ hS
  apply writeFly_mask <;> first | rfl | (intro p hp; revert hp; cases p <;> decide)

@[simp] theorem writePly_sound (a : Nat) (r : RegRow) (v : Word) (s : State) (hS : Sound s) :
    Sound ((writePly a r v s).2) := by
  refine sound_of_mask ?_ hS
  apply writePly_mask <;> first | rfl | (intro p hp; revert hp; cases p <;> decide)

@[simp] theorem writeBob_sound (a : Nat) (r : RegRow) (v : Word) (s : State) (hS : Sound s) :
    Sound ((writeBob a r v s).2) := by
  simp only [writeBob]; (repeat' split) <;> simp (maxDischargeDepth := 40) +contextual [*]

@[simp] theorem keepBucketCfg_sound (k : Nat) (s : State) (hS : Sound s) :
    Sound ((keepBucketCfg k s)) := by
  refine sound_of_mask ?_ hS
  apply keepBucketCfg_mask <;> first | rfl | (intro p hp; revert hp; cases p <;> decide)

@[simp] theorem writeSkn_sound (k a : Nat) (r : RegRow) (v : Word) (nvmErr : Bool) (s : State) (hS : Sound s) :
    Sound ((writeSkn k a r v nvmErr s).2) := by
  simp only [writeSkn]; (repeat' split) <;> simp (maxDischargeDepth := 40) +contextual [*]

@[simp] theorem writeDst_sound (a : Nat) (r : RegRow) (v : Word) (nvmErr : Bool) (s : State) (hS : Sound s) :
    Sound ((writeDst a r v nvmErr s).2) := by
  simp only [writeDst]; (repeat' split) <;> simp (maxDischargeDepth := 40) +contextual [*]

@[simp] theorem passPorts_sound (s0 : State) (r : WrRes) (hr : Sound (r.over s0)) (hS : Sound s0) :
    Sound (((passPorts s0 r).over s0)) := by
  unfold passPorts
  split
  · exact hS
  · rw [over_done] at hr ⊢
    split
    · exact hr
    · refine plyResume_sound _ (sound_foldl (fun t n ht => ?_) _ _ hr)
      split
      · exact ht
      · exact pumpPort_sound _ _ ht

@[simp] theorem writeClk_sound (a : Nat) (r : RegRow) (v : Word) (s : State) (hS : Sound s) :
    Sound ((writeClk a r v s).2) := by
  simp only [writeClk]; (repeat' split) <;> simp (maxDischargeDepth := 40) +contextual [*]

@[simp] theorem endFuse_sound (s : State) (hS : Sound s) :
    Sound ((endFuse s)) := by
  refine sound_of_mask ?_ hS
  apply endFuse_mask <;> first | rfl | (intro p hp; revert hp; cases p <;> decide)

@[simp] theorem startFuse_sound (op : FuseOp) (s : State) (hS : Sound s) :
    Sound ((startFuse op s)) := by
  refine sound_of_mask ?_ hS
  apply startFuse_mask <;> first | rfl | (intro p hp; revert hp; cases p <;> decide)

@[simp] theorem writeFuseCmd_sound (o : Origin) (v : Word) (s : State) (hS : Sound s) :
    Sound ((writeFuseCmd o v s).2) := by
  refine sound_of_mask ?_ hS
  apply writeFuseCmd_mask <;> first | rfl | (intro p hp; revert hp; cases p <;> decide)

@[simp] theorem writeNdy_sound (org : Origin) (a : Nat) (r : RegRow) (v : Word) (nvmErr : Bool) (s : State) (hS : Sound s) :
    Sound ((writeNdy org a r v nvmErr s).2) := by
  simp only [writeNdy]; (repeat' split) <;> simp (maxDischargeDepth := 40) +contextual [*]

@[simp] theorem writeTab_sound (v : Word) (s : State) (hS : Sound s) :
    Sound ((writeTab v s).2) := by
  refine sound_of_mask ?_ hS
  apply writeTab_mask <;> first | rfl | (intro p hp; revert hp; cases p <;> decide)

@[simp] theorem writeWhl_sound (a : Nat) (r : RegRow) (v : Word) (s : State) (hS : Sound s) :
    Sound ((writeWhl a r v s).2) := by
  refine sound_of_mask ?_ hS
  apply writeWhl_mask <;> first | rfl | (intro p hp; revert hp; cases p <;> decide)

@[simp] theorem qpCommand_sound (v : Word) (s : State) (hS : Sound s) :
    Sound ((qpCommand v s)) := by
  simp only [qpCommand]; (repeat' split) <;> simp (maxDischargeDepth := 40) +contextual [*]

@[simp] theorem writePrt_sound (a : Nat) (r : RegRow) (v : Word) (nvmErr : Bool) (s : State) (hS : Sound s) :
    Sound ((writePrt a r v nvmErr s).2) := by
  simp only [writePrt]; (repeat' split) <;> simp (maxDischargeDepth := 40) +contextual [*]

@[simp] theorem writeReg_sound (org : Origin) (a : Nat) (v : Word) (nvmErr : Bool) (s : State) (hS : Sound s) :
    Sound ((writeReg org a v nvmErr s).2) := by
  simp only [writeReg]; (repeat' split) <;> simp (maxDischargeDepth := 40) +contextual [*]

@[simp] theorem raiseAccess_sound (o : Origin) (source : BitVec 16) (kind : Byte) (addr : Nat) (s : State) (hS : Sound s) :
    Sound ((raiseAccess o source kind addr s)) := by
  unfold raiseAccess; simp (maxDischargeDepth := 40) +contextual [*]

@[simp] theorem accessWrite_sound (o : Origin) (a : Nat) (v : Word) (nvmErr : Bool) (s : State) (hS : Sound s) :
    Sound ((accessWrite o a v nvmErr s).2) := by
  unfold accessWrite; (repeat' split) <;> first | (simp (maxDischargeDepth := 40) +contextual [*]; done) | (rename_i heq; have hk := congrArg (fun p => Sound p.2) heq; simp (maxDischargeDepth := 40) [*, -heq] at hk; simp (maxDischargeDepth := 40) +contextual [*]; done) | (rename_i heq; have hk := congrArg (fun p => Sound p.2) heq; simp (maxDischargeDepth := 40) [*, -heq] at hk; exact hk)

@[simp] theorem clearRc_sound (a : Nat) (s : State) (hS : Sound s) :
    Sound ((clearRc a s)) := by
  refine sound_of_mask ?_ hS
  apply clearRc_mask <;> first | rfl | (intro p hp; revert hp; cases p <;> decide)

@[simp] theorem accessRead_sound (o : Origin) (snap : Bool) (a : Nat) (s : State) (hS : Sound s) :
    Sound ((accessRead o snap a s).2) := by
  simp only [accessRead]; (repeat' split) <;> simp (maxDischargeDepth := 40) +contextual [*]

@[simp] theorem nvmOutcome_sound (a : Nat) (s : State) (hS : Sound s) :
    Sound ((nvmOutcome a s).2) := by
  refine sound_of_mask ?_ hS
  apply nvmOutcome_mask <;> first | rfl | (intro p hp; revert hp; cases p <;> decide)

@[simp] theorem accessWrites_sound (o : Origin) (a : Nat) (x0 : List Word) (s : State) (hS : Sound s) :
    Sound ((accessWrites o a x0 s).2) := by
  induction x0 generalizing s a with
  | nil => exact hS
  | cons v r ih =>
    rw [accessWrites]
    have hn := nvmOutcome_sound a s hS
    generalize nvmOutcome a s = q at hn ⊢
    obtain ⟨e, s1⟩ := q
    dsimp only at hn ⊢
    have hw := accessWrite_sound o a v e s1 hn
    generalize accessWrite o a v e s1 = p at hw ⊢
    obtain ⟨b, t⟩ := p
    cases b
    · exact hw
    · dsimp only
      split
      · exact ih _ _ hw
      · exact hw

@[simp] theorem accessReads_sound (o : Origin) (snap : Bool) (x0 : Nat) (x1 : Nat) (s : State) (hS : Sound s) :
    Sound ((accessReads o snap x0 x1 s).2) := by
  induction x0 generalizing s x1 with
  | zero => exact hS
  | succ n ih =>
    rw [accessReads]
    have hr := accessRead_sound o snap x1 s hS
    generalize accessRead o snap x1 s = q at hr ⊢
    obtain ⟨w, t⟩ := q
    cases w
    · exact hr
    · dsimp only
      have h2 := ih (x1 + 4) t hr
      generalize accessReads o snap n (x1 + 4) t = p at h2 ⊢
      obtain ⟨ws, u⟩ := p
      cases ws <;> exact h2

@[simp] theorem regWrite_sound (o : Origin) (a : Nat) (v : Word) (nvmErr : Bool) (s : State) (hS : Sound s) :
    Sound ((regWrite o a v nvmErr s)) := by
  unfold regWrite; simp (maxDischargeDepth := 40) +contextual [*]

@[simp] theorem setNdy_sound (f : Ndy → Ndy) (s : State) (hS : Sound s) :
    Sound ((setNdy f s)) := by
  refine sound_of_mask ?_ hS
  apply setNdy_mask <;> first | rfl | (intro p hp; revert hp; cases p <;> decide)

@[simp] theorem bootFault_sound (kind : Byte) (x : Nat) (s : State) (hS : Sound s) :
    Sound ((bootFault kind x s)) := by
  unfold bootFault; simp (maxDischargeDepth := 40) +contextual [*]

@[simp] theorem bootTable_sound (x : Nat) (s : State) (hS : Sound s) :
    Sound ((bootTable x s)) := by
  unfold bootTable; simp (maxDischargeDepth := 40) +contextual [*]

@[simp] theorem failBoot_sound (reason : Nat) (s : State) (hS : Sound s) :
    Sound ((failBoot reason s)) := by
  refine sound_of_mask ?_ hS
  apply failBoot_mask <;> first | rfl | (intro p hp; revert hp; cases p <;> decide)

@[simp] theorem lifeCount_sound (off : Nat) (s : State) (hS : Sound s) :
    Sound ((lifeCount off s)) := by
  unfold lifeCount; simp (maxDischargeDepth := 40) +contextual [*]

@[simp] theorem countBoot_sound (s : State) (hS : Sound s) :
    Sound ((countBoot s)) := by
  unfold countBoot; simp (maxDischargeDepth := 40) +contextual [*]

@[simp] theorem bootPersist_sound (s : State) (hS : Sound s) :
    Sound ((bootPersist s)) := by
  unfold bootPersist; simp (maxDischargeDepth := 40) +contextual [*]

@[simp] theorem reportHeaders_sound (s : State) (hS : Sound s) :
    Sound ((reportHeaders s)) := by
  refine sound_foldl (fun t i ht => ?_) _ _ hS
  split
  · split
    · exact ht
    · exact bootTable_sound _ _ ht
  · exact ht

@[simp] theorem tryImages_sound (bad : Option Nat) (x0 : List Nat) (s : State) (hS : Sound s) :
    Sound ((tryImages bad x0 s).2) := by
  induction x0 generalizing s with
  | nil => exact hS
  | cons i r ih =>
    rw [tryImages]
    split
    · simp (maxDischargeDepth := 40) [*]
    · split
      · simp (maxDischargeDepth := 40) [*]
      · apply ih
        simp (maxDischargeDepth := 40) [*]

@[simp] theorem stageTelemetry_sound (i : Nat) (s : State) (hS : Sound s) :
    Sound ((stageTelemetry i s)) := by
  simp only [stageTelemetry]; (repeat' split) <;> simp (maxDischargeDepth := 40) +contextual [*]

@[simp] theorem takeWhorl_sound (t : List Byte) (s : State) (hS : Sound s) :
    Sound ((takeWhorl t s)) := by
  refine sound_of_mask ?_ hS
  apply takeWhorl_mask <;> first | rfl | (intro p hp; revert hp; cases p <;> decide)

@[simp] theorem stagePort_sound (t : List Byte) (s : State) (hS : Sound s) :
    Sound ((stagePort t s)) := by
  refine sound_of_mask ?_ hS
  apply stagePort_mask <;> first | rfl | (intro p hp; revert hp; cases p <;> decide)

@[simp] theorem stageImage_sound (i : Nat) (s : State) (hS : Sound s) :
    Sound ((stageImage i s)) := by
  unfold stageImage; simp (maxDischargeDepth := 40) +contextual [*]

@[simp] theorem startClocks_sound (ref : Bool) (s : State) (hS : Sound s) :
    Sound ((startClocks ref s)) := by
  refine sound_of_mask ?_ hS
  apply startClocks_mask <;> first | rfl | (intro p hp; revert hp; cases p <;> decide)

@[simp] theorem bootStart_sound (e : BootEnv) (s : State) (hS : Sound s) :
    Sound ((bootStart e s)) := by
  unfold bootStart
  extract_lets s1 s2
  have h1 : Sound s1 := State.emit_sound _ _ (setNdy_sound _ _ hS)
  have h2 : Sound s2 := setNdy_sound _ _ (bootPersist_sound _ h1)
  clear_value s1 s2
  split
  · exact failBoot_sound _ _ (takeIdentity_sound _ h1)
  · split
    · exact failBoot_sound _ _ h2
    · split
      · exact failBoot_sound _ _ (reportHeaders_sound _ h2)
      · have h3 := tryImages_sound (badSlot e) (candidates s2) (reportHeaders s2) (reportHeaders_sound _ h2)
        generalize tryImages (badSlot e) (candidates s2) _ = q at h3 ⊢
        obtain ⟨i, s3⟩ := q
        cases i
        · exact setNdy_sound _ _ h3
        · exact startClocks_sound _ _ (stageImage_sound _ _ h3)

@[simp] theorem openGates_sound (t : List Byte) (s : State) (hS : Sound s) :
    Sound ((openGates t s)) := by
  refine sound_of_mask ?_ hS
  apply openGates_mask <;> first | rfl | (intro p hp; revert hp; cases p <;> decide)

@[simp] theorem setFault_sound (k lo hi : Nat) (s : State) (hS : Sound s) :
    Sound ((setFault k lo hi s)) := by
  unfold setFault
  extract_lets keep
  split
  · exact hS
  · have h1 := writeKind_sound false (BitVec.ofNat 32 lo) _ (State.setReg_sound s (rDst 0x90) (BitVec.ofNat 32 k) hS)
    generalize writeKind false _ _ = r at h1 ⊢
    cases r with
    | refuse _ => exact bootTable_sound _ _ hS
    | done t =>
      dsimp only
      have h2 := writeKind_sound true (BitVec.ofNat 32 hi) t h1
      generalize writeKind true _ _ = q at h2 ⊢
      cases q with
      | refuse _ => exact bootTable_sound _ _ hS
      | done u => exact State.setReg_sound _ _ _ h2

@[simp] theorem loadFaults_sound (i : Nat) (s : State) (hS : Sound s) :
    Sound ((loadFaults i s)) := by
  simp only [loadFaults]; (repeat' split) <;> simp (maxDischargeDepth := 40) +contextual [*]

@[simp] theorem writeDefault_sound (a : Nat) (v : Word) (s : State) (hS : Sound s) :
    Sound ((writeDefault a v s)) := by
  unfold writeDefault; (repeat' split) <;> first | (simp (maxDischargeDepth := 40) +contextual [*]; done) | (rename_i heq; have hk := congrArg (fun p => Sound p.2) heq; simp (maxDischargeDepth := 40) [*, -heq] at hk; simp (maxDischargeDepth := 40) +contextual [*]; done) | (rename_i heq; have hk := congrArg (fun p => Sound p.2) heq; simp (maxDischargeDepth := 40) [*, -heq] at hk; exact hk)

@[simp] theorem writeDefaults_sound (i : Nat) (s : State) (hS : Sound s) :
    Sound ((writeDefaults i s)) := by
  simp only [writeDefaults]; (repeat' split) <;> simp (maxDischargeDepth := 40) +contextual [*]

@[simp] theorem setSlot_sound (j : Nat) (t : Option (List Word)) (s : State) (hS : Sound s) :
    Sound ((setSlot j t s)) := by
  refine sound_of_mask ?_ hS
  apply setSlot_mask <;> first | rfl | (intro p hp; revert hp; cases p <;> decide)

@[simp] theorem loadFormat_sound (i j : Nat) (s : State) (hS : Sound s) :
    Sound ((loadFormat i j s)) := by
  simp only [loadFormat]; (repeat' split) <;> simp (maxDischargeDepth := 40) +contextual [*]

@[simp] theorem loadCurve_sound (i j : Nat) (s : State) (hS : Sound s) :
    Sound ((loadCurve i j s)) := by
  simp only [loadCurve]; (repeat' split) <;> simp (maxDischargeDepth := 40) +contextual [*]

@[simp] theorem bootUnits_sound (s : State) (hS : Sound s) :
    Sound ((bootUnits s)) := by
  unfold bootUnits; simp (maxDischargeDepth := 40) +contextual [*]

@[simp] theorem trainSkein_sound (k : Nat) (s : State) (hS : Sound s) :
    Sound ((trainSkein k s)) := by
  simp only [trainSkein]; (repeat' split) <;> simp (maxDischargeDepth := 40) +contextual [*]

@[simp] theorem bootSkeins_sound (s : State) (hS : Sound s) :
    Sound ((bootSkeins s)) := by
  refine sound_of_mask ?_ hS
  apply bootSkeins_mask <;> first | rfl | (intro p hp; revert hp; cases p <;> decide)

@[simp] theorem endTraining_sound (s : State) (hS : Sound s) :
    Sound ((endTraining s)) := by
  unfold endTraining; simp (maxDischargeDepth := 40) +contextual [*]

@[simp] theorem endFilling_sound (s : State) (hS : Sound s) :
    Sound ((endFilling s)) := by
  unfold endFilling; simp (maxDischargeDepth := 40) +contextual [*]

@[simp] theorem skeinTick_sound (s : State) (hS : Sound s) :
    Sound ((skeinTick s)) := by
  unfold skeinTick; simp (maxDischargeDepth := 40) +contextual [*]

@[simp] theorem clocksUp_sound (s : State) (hS : Sound s) :
    Sound ((clocksUp s)) := by
  exact ⟨hS.1, hS.2, hS.3, by show 0 < 2 ^ 48; decide, by show 0 < 2 ^ 48; decide⟩

@[simp] theorem judgeWindow_sound (count : Nat) (s : State) (hS : Sound s) :
    Sound ((judgeWindow count s)) := by
  have k1 : ∀ t : State, Sound t → ∀ (c1 c2 : Prop) [Decidable c1] [Decidable c2],
      Sound (if c1 then
        let s2 := bootUnits (clocksUp t)
        if s2.ndy.phase = .held then s2 else bootSkeins s2
      else if c2 then failBoot 0xF9 (faultParam srcNdy kCLK_DRIFT 2 t) else t) := by
    intro t ht c1 c2 _ _
    have hu : Sound (bootUnits (clocksUp t)) := bootUnits_sound _ (clocksUp_sound _ ht)
    dsimp only
    split
    · split
      · exact hu
      · exact bootSkeins_sound _ hu
    · split
      · exact failBoot_sound _ _ (faultParam_sound _ _ _ _ ht)
      · exact ht
  unfold judgeWindow
  refine k1 _ ?_ _ _
  have h := setNdy_sound (fun n => { n with windows := s.ndy.windows + 1, passes := if s.ndy.windows = 0 then 0 else if stableWindow count then s.ndy.passes + 1 else 0 }) s hS
  exact ⟨h.1, h.2, h.3, h.4, h.5⟩

@[simp] theorem bootQueuePairs_sound (t : List Byte) (s : State) (hS : Sound s) :
    Sound ((bootQueuePairs t s)) := by
  unfold bootQueuePairs; simp (maxDischargeDepth := 40) +contextual [*]

@[simp] theorem enablePort_sound (n : Nat) (s : State) (hS : Sound s) :
    Sound ((enablePort n s)) := by
  unfold enablePort; simp (maxDischargeDepth := 40) +contextual [*]

@[simp] theorem startDistaff_sound (s : State) (hS : Sound s) :
    Sound ((startDistaff s)) := by
  unfold startDistaff; simp (maxDischargeDepth := 40) +contextual [*]

@[simp] theorem startSkein_sound (k : Nat) (s : State) (hS : Sound s) :
    Sound ((startSkein k s)) := by
  refine sound_of_mask ?_ hS
  apply startSkein_mask <;> first | rfl | (intro p hp; revert hp; cases p <;> decide)

@[simp] theorem startWhorl_sound (s : State) (hS : Sound s) :
    Sound ((startWhorl s)) := by
  refine sound_of_mask ?_ hS
  apply startWhorl_mask <;> first | rfl | (intro p hp; revert hp; cases p <;> decide)

@[simp] theorem acceptAll_sound (x0 : Nat) (s : State) (hS : Sound s) :
    Sound ((acceptAll x0 s)) := by
  induction x0 generalizing s with
  | zero => exact hS
  | succ n ih =>
    rw [acceptAll]
    split
    · exact hS
    · exact ih _ (acceptNext_sound _ hS)

@[simp] theorem reportReady_sound (s0 : State) (hS : Sound s0) :
    Sound ((reportReady s0)) := by
  unfold reportReady
  extract_lets s s1
  have h1 : Sound s1 := startWhorl_sound _ (startDistaff_sound _ (sound_foldl (fun t k ht => startSkein_sound _ _ ht) _ _ (acceptAll_sound _ _ hS)))
  exact sendNotice_sound _ (setNdy_sound _ _ ⟨h1.1, h1.2, h1.3, h1.4, h1.5⟩)

@[simp] theorem bootReady_sound (s : State) (hS : Sound s) :
    Sound ((bootReady s)) := by
  unfold bootReady; simp (maxDischargeDepth := 40) +contextual [*]

@[simp] theorem mgmtFrame_sound (fec : Nat) (s : State) (hS : Sound s) :
    Sound ((mgmtFrame fec s)) := by
  refine sound_of_mask ?_ hS
  apply mgmtFrame_mask <;> first | rfl | (intro p hp; revert hp; cases p <;> decide)

@[simp] theorem mgmtSend_sound (o : Out) (s : State) (hS : Sound s) :
    Sound ((mgmtSend o s)) := by
  refine sound_of_mask ?_ hS
  apply mgmtSend_mask <;> first | rfl | (intro p hp; revert hp; cases p <;> decide)

theorem mRegRefusal_sound {f : List Byte} {s t : State} (h : mRegRefusal f s = some t) (hS : Sound s) : Sound t := by
  unfold mRegRefusal at h
  dsimp only at h
  split at h
  · cases h; exact raiseAccess_sound _ _ _ _ _ hS
  · split at h
    · cases h; exact raiseAccess_sound _ _ _ _ _ hS
    · cases h

@[simp] theorem mRegRead_sound (f : List Byte) (s : State) (hS : Sound s) :
    Sound ((mRegRead f s).2) := by
  have h2 := accessReads_sound .mgmt false (mLen f / 4) (mAddr f - regBase) s hS
  unfold mRegRead
  cases hq : mRegRefusal f s with
  | some t => exact mRegRefusal_sound hq hS
  | none =>
    dsimp only
    generalize accessReads _ _ _ _ _ = r at h2 ⊢
    obtain ⟨v, u⟩ := r
    cases v <;> exact h2

@[simp] theorem mRegWrite_sound (f : List Byte) (s : State) (hS : Sound s) :
    Sound ((mRegWrite f s).2) := by
  have h2 := accessWrites_sound .mgmt (mAddr f - regBase) (mWords (mData f)) s hS
  unfold mRegWrite
  split
  · exact hS
  · cases hq : mRegRefusal f s with
    | some t => exact mRegRefusal_sound hq hS
    | none =>
      dsimp only
      generalize accessWrites _ _ _ _ = x at h2 ⊢
      obtain ⟨b, u⟩ := x
      cases b <;> exact h2

@[simp] theorem mTelemRead_sound (f : List Byte) (s : State) (hS : Sound s) :
    Sound ((mTelemRead f s).2) := by
  refine sound_of_mask ?_ hS
  apply mTelemRead_mask <;> first | rfl | (intro p hp; revert hp; cases p <;> decide)

@[simp] theorem mNvmRead_sound (f : List Byte) (s : State) (hS : Sound s) :
    Sound ((mNvmRead f s).2) := by
  refine sound_of_mask ?_ hS
  apply mNvmRead_mask <;> first | rfl | (intro p hp; revert hp; cases p <;> decide)

@[simp] theorem mNvmErase_sound (f : List Byte) (s : State) (hS : Sound s) :
    Sound ((mNvmErase f s).2) := by
  simp only [mNvmErase]; (repeat' split) <;> simp (maxDischargeDepth := 40) +contextual [*]

@[simp] theorem nvmProgramBytes_sound (a : Nat) (x0 : List Byte) (s : State) (hS : Sound s) :
    Sound ((nvmProgramBytes a x0 s)) := by
  induction x0 generalizing s a with
  | nil => exact hS
  | cons b r ih => exact ih _ _ ⟨hS.1, hS.nvm_mput _ _, hS.3, hS.4, hS.5⟩

@[simp] theorem mNvmProgram_sound (f : List Byte) (s : State) (hS : Sound s) :
    Sound ((mNvmProgram f s).2) := by
  simp only [mNvmProgram]; (repeat' split) <;> simp (maxDischargeDepth := 40) +contextual [*]

@[simp] theorem copyTelem_sound (i : Nat) (s : State) (hS : Sound s) :
    Sound ((copyTelem i s)) := by
  unfold copyTelem; (repeat' split) <;> first | (simp (maxDischargeDepth := 40) +contextual [*]; done) | (rename_i heq; have hk := congrArg (fun p => Sound p.2) heq; simp (maxDischargeDepth := 40) [*, -heq] at hk; simp (maxDischargeDepth := 40) +contextual [*]; done) | (rename_i heq; have hk := congrArg (fun p => Sound p.2) heq; simp (maxDischargeDepth := 40) [*, -heq] at hk; exact hk)

@[simp] theorem telemetryDuty_sound (s : State) (hS : Sound s) :
    Sound ((telemetryDuty s)) := by
  unfold telemetryDuty; simp (maxDischargeDepth := 40) +contextual [*]

@[simp] theorem dayDuty_sound (s : State) (hS : Sound s) :
    Sound ((dayDuty s)) := by
  unfold dayDuty; simp (maxDischargeDepth := 40) +contextual [*]

@[simp] theorem dueDuties_sound (s : State) (hS : Sound s) :
    Sound ((dueDuties s)) := by
  unfold dueDuties; simp (maxDischargeDepth := 40) +contextual [*]

@[simp] theorem serve_sound (m : MgmtIn) (act : List Byte → State → MAns × State) (s0 : State) (hf : ∀ f s, Sound s → Sound (act f s).2) (hS : Sound s0) :
    Sound ((serve m act s0)) := by
  unfold serve
  split
  · exact hS
  · dsimp only
    have h0 : Sound (mgmtFrame m.fec (dueDuties s0)) := mgmtFrame_sound _ _ (dueDuties_sound _ hS)
    generalize mgmtFrame m.fec (dueDuties s0) = s at h0 ⊢
    generalize List.find? _ _ = x
    cases x with
    | some e => exact mgmtSend_sound _ _ h0
    | none =>
      have h : Sound (if mFrameOk m.frame then act m.frame s else ((.badFrame, []), s)).2 := by
        split
        · exact hf _ _ h0
        · exact h0
      generalize (if mFrameOk m.frame then act m.frame s else ((MStatus.badFrame, []), s)) = r at h ⊢
      obtain ⟨a, t⟩ := r
      dsimp only at h ⊢
      split
      · exact State.emit_sound _ _ h
      · exact mgmtSend_sound _ _ (setNdy_sound _ _ h)

@[simp] theorem mOther_sound (f : List Byte) (s : State) (hS : Sound s) :
    Sound ((mOther f s).2) := by
  simp only [mOther]; (repeat' split) <;> simp (maxDischargeDepth := 40) +contextual [*]

@[simp] theorem useFree_sound (n : Nat) (s : State) (hS : Sound s) :
    Sound ((useFree n s)) := by
  refine sound_of_mask ?_ hS
  apply useFree_mask <;> first | rfl | (intro p hp; revert hp; cases p <;> decide)

@[simp] theorem challenge_sound (slot : Nat) (nonce : List Byte) (s : State) (hS : Sound s) :
    Sound ((challenge slot nonce s).2) := by
  refine sound_of_mask ?_ hS
  apply challenge_mask <;> first | rfl | (intro p hp; revert hp; cases p <;> decide)

@[simp] theorem measurements_sound (i : Nat) (sign : Bool) (nonce : List Byte) (s : State) (hS : Sound s) :
    Sound ((measurements i sign nonce s).2) := by
  refine sound_of_mask ?_ hS
  apply measurements_mask <;> first | rfl | (intro p hp; revert hp; cases p <;> decide)

@[simp] theorem chunkOf_sound (handle : Byte) (c : Nat) (s : State) (hS : Sound s) :
    Sound ((chunkOf handle c s).2) := by
  refine sound_of_mask ?_ hS
  apply chunkOf_mask <;> first | rfl | (intro p hp; revert hp; cases p <;> decide)

@[simp] theorem vendorRequest_sound (standard : BitVec 16) (vid : Word) (payload : List Byte) (s : State) (hS : Sound s) :
    Sound ((vendorRequest standard vid payload s).2) := by
  refine sound_of_mask ?_ hS
  apply vendorRequest_mask <;> first | rfl | (intro p hp; revert hp; cases p <;> decide)

@[simp] theorem dexStray_sound (p : Nat) (l : List Byte) (s : State) (hS : Sound s) :
    Sound ((dexStray p l s)) := by
  unfold dexStray; simp (maxDischargeDepth := 40) +contextual [*]

@[simp] theorem answer_sound (n : Nat) (o : Pkt) (s : State) (hS : Sound s) :
    Sound ((answer n o s)) := by
  refine sound_of_mask ?_ hS
  apply answer_mask <;> first | rfl | (intro p hp; revert hp; cases p <;> decide)

@[simp] theorem expectPsn_sound (n k : Nat) (s : State) (hS : Sound s) :
    Sound ((expectPsn n k s)) := by
  unfold expectPsn; simp (maxDischargeDepth := 40) +contextual [*]

@[simp] theorem barrierFor_sound (l : List Byte) (g : Option (Nat × Grp)) (s : State) (hS : Sound s) :
    Sound ((barrierFor l g s).1) := by
  refine sound_of_mask ?_ hS
  apply barrierFor_mask <;> first | rfl | (intro p hp; revert hp; cases p <;> decide)

@[simp] theorem barrierIn_sound (l : List Byte) (s : State) (hS : Sound s) :
    Sound ((barrierIn l s).1) := by
  refine sound_of_mask ?_ hS
  apply barrierIn_mask <;> first | rfl | (intro p hp; revert hp; cases p <;> decide)

@[simp] theorem replayHoldFor_sound (l : List Byte) (g : Option (Nat × Grp)) (s : State) (hS : Sound s) :
    Sound ((replayHoldFor l g s).1) := by
  simp only [replayHoldFor]; (repeat' split) <;> simp (maxDischargeDepth := 40) +contextual [*]

@[simp] theorem replayHoldIn_sound (l : List Byte) (s : State) (hS : Sound s) :
    Sound ((replayHoldIn l s).1) := by
  unfold replayHoldIn; simp (maxDischargeDepth := 40) +contextual [*]

@[simp] theorem echoAnswer_sound (m : SendIn) (s : State) (hS : Sound s) :
    Sound ((echoAnswer m s)) := by
  unfold echoAnswer; simp (maxDischargeDepth := 40) +contextual [*]

@[simp] theorem handOver_sound (m : SendIn) (s : State) (hS : Sound s) :
    Sound ((handOver m s).1) := by
  have h1 : ∀ p l (r : State × Bool), Sound r.1 → Sound (orStray p l r).1 := by
    intro p l r hr
    unfold orStray
    split <;> simp (maxDischargeDepth := 40) [*]
  unfold handOver
  dsimp only
  repeat' split
  all_goals first | (simp (maxDischargeDepth := 40) [*]; done) | (refine h1 _ _ _ ?_; simp (maxDischargeDepth := 40) [*])

@[simp] theorem brokenIn_sound (p : Nat) (l : List Byte) (s : State) (hS : Sound s) :
    Sound ((brokenIn p l s)) := by
  unfold brokenIn; simp (maxDischargeDepth := 40) +contextual [*]

@[simp] theorem sendRc_sound (m : SendIn) (k : Nat) (s : State) (hS : Sound s) :
    Sound ((sendRc m k s)) := by
  simp only [sendRc]; (repeat' split) <;> simp (maxDischargeDepth := 40) +contextual [*]

@[simp] theorem sendUd_sound (m : SendIn) (s : State) (hS : Sound s) :
    Sound ((sendUd m s)) := by
  unfold sendUd; simp (maxDischargeDepth := 40) +contextual [*]

@[simp] theorem arriveSend_sound (m : SendIn) (s : State) (hS : Sound s) :
    Sound ((arriveSend m s)) := by
  unfold arriveSend
  extract_lets n q k
  split
  · generalize (if q.ud then m.udSource else q.destQpn) = src
    have h := ingressFrom_sound n k src m.ing s hS
    generalize ingressFrom n k src m.ing s = r at h ⊢
    obtain ⟨s1, b⟩ := r
    cases b
    · exact h
    · have h2 : Sound (strikeAccs m.hits (noteEvents perrReg m.hits s1)) := by simp (maxDischargeDepth := 40) [*]
      dsimp only
      split
      · exact sendUd_sound _ _ h2
      · exact sendRc_sound _ _ _ h2
  · exact hS

end Sys2Proof.Machine
end

