-- ==== Sys2Proof/Laws/SoundRows.lean ====
section
/-! SUPPORT. `Sound` is kept: experts, windows, the package, host requests and the tick. -/

namespace Sys2Proof.Machine

@[simp] theorem setRoute_sound (id : Nat) (rs : List (Nat × Bool)) (s : State) (hS : Sound s) :
    Sound ((setRoute id rs s)) := by
  refine sound_of_mask ?_ hS
  apply setRoute_mask <;> first | rfl | (intro p hp; revert hp; cases p <;> decide)

theorem selectOne_sound (s0 : State) (k : Nat) (look : Bool) (r : Route) (d : Desc) (ctx : Nat) (step : Word) (p i : Nat) (a : SelAcc)
    (hS : Sound a.s) : Sound (selectOne s0 k look r d ctx step p i a).s := by
  unfold selectOne
  dsimp only
  split <;> simp (maxDischargeDepth := 40) [*]

theorem selectAll_sound (i : Issued) (o : ExpOpds) (s : State) (hS : Sound s) : Sound (selectAll i o s).s := by
  have hr : ∀ (k : Nat) (look : Bool) (r : Route) (d : Desc) (ctx : Nat) (step : Word) (p : Nat) (l : List Nat) (a : SelAcc),
      Sound a.s → Sound (l.foldl (fun a j => selectOne s k look r d ctx step p j a) a).s := by
    intro k look r d ctx step p l
    induction l with
    | nil => intro a h; exact h
    | cons j l ih => intro a h; exact ih _ (selectOne_sound s k look r d ctx step p j a h)
  unfold selectAll
  exact hr _ _ _ _ _ _ _ _ _ hS

@[simp] theorem selectCounted_sound (i : Issued) (o : ExpOpds) (s : State) (hS : Sound s) :
    Sound ((selectCounted i o s)) := by
  exact useSram_sound _ _ _ (State.count_sound _ _ _ (State.count_sound _ _ _ (selectAll_sound _ _ _ hS)))

@[simp] theorem selectRun_sound (i : Issued) (o : ExpOpds) (s : State) (hS : Sound s) :
    Sound ((selectRun i o s)) := by
  unfold selectRun; simp (maxDischargeDepth := 40) +contextual [*]

@[simp] theorem fanoutRun_sound (i : Issued) (o : ExpOpds) (s : State) (hS : Sound s) :
    Sound ((fanoutRun i o s)) := by
  unfold fanoutRun; simp (maxDischargeDepth := 40) +contextual [*]

@[simp] theorem dispatchRun_sound (i : Issued) (o : ExpOpds) (s : State) (hS : Sound s) :
    Sound ((dispatchRun i o s)) := by
  unfold dispatchRun; simp (maxDischargeDepth := 40) +contextual [*]

@[simp] theorem combineRun_sound (i : Issued) (o : ExpOpds) (s : State) (hS : Sound s) :
    Sound ((combineRun i o s)) := by
  unfold combineRun; simp (maxDischargeDepth := 40) +contextual [*]

@[simp] theorem assignLookups_sound (i : Issued) (r : Route) (p k : Nat) (s : State) (hS : Sound s) :
    Sound ((assignLookups i r p k s).1) := by
  unfold assignLookups
  dsimp only
  refine sound_foldl_fst (a := (s, (({} : Eff), ([] : List ((Nat × Nat × Nat × Bool) × Bool))))) (fun acc j ha => ?_) _ hS
  split
  · split <;> simp (maxDischargeDepth := 40) [*]
  · exact ha

@[simp] theorem assignRun_sound (i : Issued) (o : ExpOpds) (s : State) (hS : Sound s) :
    Sound ((assignRun i o s)) := by
  unfold assignRun; simp (maxDischargeDepth := 40) +contextual [*]

@[simp] theorem prefetchRun_sound (i : Issued) (o : ExpOpds) (s : State) (hS : Sound s) :
    Sound ((prefetchRun i o s)) := by
  unfold prefetchRun
  dsimp only
  refine finishJob_sound _ _ (State.setCrd_sound _ _ _ (faultsOf_sound _ _ _ _ (touchReads_sound _ _ _ _ ?_)))
  refine sound_foldl_fst (a := (s, _)) (fun acc x ha => ?_) _ hS
  repeat' split
  all_goals simp (maxDischargeDepth := 40) [*]

@[simp] theorem doorbellWrite_sound (o : Origin) (a : Nat) (v : Word) (s : State) (hS : Sound s) :
    Sound ((doorbellWrite o a v s).2) := by
  have h1 : ∀ r : WrRes, Sound (r.over s) → Sound (endDoorbell o a s r).2 := by
    intro r hr
    unfold endDoorbell
    cases r
    · exact tagNew_sound _ _ _ hr
    · exact raiseAccess_sound _ _ _ _ _ hS
  unfold doorbellWrite
  split
  · exact raiseAccess_sound _ _ _ _ _ hS
  · exact h1 _ (writeDoorbell_sound _ _ _ _ hS)

@[simp] theorem doorbellRead_sound (o : Origin) (a : Nat) (s : State) (hS : Sound s) :
    Sound ((doorbellRead o a s).2) := by
  simp only [doorbellRead]; (repeat' split) <;> simp (maxDischargeDepth := 40) +contextual [*]

@[simp] theorem doorbellWrites_sound (o : Origin) (a : Nat) (x0 : List Word) (s : State) (hS : Sound s) :
    Sound ((doorbellWrites o a x0 s).2) := by
  induction x0 generalizing s a with
  | nil => exact hS
  | cons v r ih =>
    rw [doorbellWrites]
    have hw := doorbellWrite_sound o a v s hS
    generalize doorbellWrite o a v s = p at hw ⊢
    obtain ⟨b, t⟩ := p
    cases b
    · exact hw
    · exact ih _ _ hw

@[simp] theorem doorbellReads_sound (o : Origin) (x0 : Nat) (x1 : Nat) (s : State) (hS : Sound s) :
    Sound ((doorbellReads o x0 x1 s).2) := by
  induction x0 generalizing s x1 with
  | zero => exact hS
  | succ n ih =>
    rw [doorbellReads]
    have hr := doorbellRead_sound o x1 s hS
    generalize doorbellRead o x1 s = q at hr ⊢
    obtain ⟨w, t⟩ := q
    cases w
    · exact hr
    · dsimp only
      have h2 := ih (x1 + 4) t hr
      generalize doorbellReads o n (x1 + 4) t = p at h2 ⊢
      obtain ⟨ws, u⟩ := p
      cases ws <;> exact h2

@[simp] theorem wordWrite_sound (o : Origin) (a : Nat) (v : Word) (nvmErr : Bool) (s : State) (hS : Sound s) :
    Sound ((wordWrite o a v nvmErr s)) := by
  simp only [wordWrite]; (repeat' split) <;> simp (maxDischargeDepth := 40) +contextual [*]

@[simp] theorem sramRead_sound (o : Origin) (a n : Nat) (s : State) (hS : Sound s) :
    Sound ((sramRead o a n s).2) := by
  simp only [sramRead]; (repeat' split) <;> simp (maxDischargeDepth := 40) +contextual [*]

@[simp] theorem hostDoorbell_sound (b : Bobbin) (off : Nat) (v : Word) (s : State) (hS : Sound s) :
    Sound ((hostDoorbell b off v s)) := by
  unfold hostDoorbell; simp (maxDischargeDepth := 40) +contextual [*]

@[simp] theorem hostBob_sound (off : Nat) (v : Word) (s : State) (hS : Sound s) :
    Sound ((hostBob off v s)) := by
  unfold hostBob; simp (maxDischargeDepth := 40) +contextual [*]

@[simp] theorem setPkg_sound (f : Pkg → Pkg) (s : State) (hS : Sound s) :
    Sound ((setPkg f s)) := by
  refine sound_of_mask ?_ hS
  apply setPkg_mask <;> first | rfl | (intro p hp; revert hp; cases p <;> decide)

@[simp] theorem setPower_sound (p : Power) (s : State) (hS : Sound s) :
    Sound ((setPower p s)) := by
  refine sound_of_mask ?_ hS
  apply setPower_mask <;> first | rfl | (intro p hp; revert hp; cases p <;> decide)

@[simp] theorem keepSample_sound (m : Sample) (s : State) (hS : Sound s) :
    Sound ((keepSample m s)) := by
  refine sound_of_mask ?_ hS
  apply keepSample_mask <;> first | rfl | (intro p hp; revert hp; cases p <;> decide)

@[simp] theorem thermalTrip_sound (s : State) (hS : Sound s) :
    Sound ((thermalTrip s)) := by
  unfold thermalTrip; simp (maxDischargeDepth := 40) +contextual [*]

@[simp] theorem heatFaults_sound (old : Whl) (m : Sample) (s : State) (hS : Sound s) :
    Sound ((heatFaults old m s)) := by
  unfold heatFaults; simp (maxDischargeDepth := 40) +contextual [*]

@[simp] theorem setRefresh_sound (m : Sample) (s : State) (hS : Sound s) :
    Sound ((setRefresh m s)) := by
  refine sound_of_mask ?_ hS
  apply setRefresh_mask <;> first | rfl | (intro p hp; revert hp; cases p <;> decide)

@[simp] theorem addEnergy_sound (p : Nat) (s : State) (hS : Sound s) :
    Sound ((addEnergy p s)) := by
  refine sound_of_mask ?_ hS
  apply addEnergy_mask <;> first | rfl | (intro p hp; revert hp; cases p <;> decide)

@[simp] theorem niddyWrite_sound (a : Nat) (v : Word) (s : State) (hS : Sound s) :
    Sound ((niddyWrite a v s)) := by
  unfold niddyWrite; simp (maxDischargeDepth := 40) +contextual [*]

@[simp] theorem setIssue_sound (lev : Nat) (s : State) (hS : Sound s) :
    Sound ((setIssue lev s)) := by
  unfold setIssue; simp (maxDischargeDepth := 40) +contextual [*]

@[simp] theorem evaluate_sound (m : Sample) (old : Whl) (s : State) (hS : Sound s) :
    Sound ((evaluate m old s)) := by
  unfold evaluate; simp (maxDischargeDepth := 40) +contextual [*]

@[simp] theorem smbRead_sound (s : State) (hS : Sound s) :
    Sound ((smbRead s).2) := by
  have h1 := accessRead_sound .niddy true s.ndy.smb.toNat s hS
  unfold smbRead
  dsimp only
  split
  · have h := raiseAccess_sound .niddy srcNdy kACCESS_MAP (regBase + s.ndy.smb.toNat) s hS
    exact ⟨h.1, h.2, h.3, h.4, h.5⟩
  · generalize accessRead _ _ _ _ = r at h1 ⊢
    obtain ⟨v, t⟩ := r
    cases v
    · exact ⟨h1.1, h1.2, h1.3, h1.4, h1.5⟩
    · exact h1

@[simp] theorem loadTap_sound (t : Tap) (s : State) (hS : Sound s) :
    Sound ((loadTap t s)) := by
  refine sound_of_mask ?_ hS
  apply loadTap_mask <;> first | rfl | (intro p hp; revert hp; cases p <;> decide)

@[simp] theorem driveTap_sound (t : Tap) (s : State) (hS : Sound s) :
    Sound ((driveTap t s)) := by
  refine sound_of_mask ?_ hS
  apply driveTap_mask <;> first | rfl | (intro p hp; revert hp; cases p <;> decide)

@[simp] theorem touchRegion_sound (rkey : Word) (s : State) (hS : Sound s) :
    Sound ((touchRegion rkey s)) := by
  unfold touchRegion; simp (maxDischargeDepth := 40) +contextual [*]

@[simp] theorem writePart_sound (o : Origin) (w : Window) (a : Nat) (d : List MByte) (s : State) (hS : Sound s) :
    Sound ((writePart o w a d s).2) := by
  simp only [writePart]; (repeat' split) <;> simp (maxDischargeDepth := 40) +contextual [*]

@[simp] theorem writeParts_sound (o : Origin) (a0 : Nat) (d : List MByte) (x0 : List (Window × Nat × Nat)) (s : State) (hS : Sound s) :
    Sound ((writeParts o a0 d x0 s).2) := by
  induction x0 generalizing s with
  | nil => exact hS
  | cons x r ih =>
    obtain ⟨w, a, n⟩ := x
    rw [writeParts]
    have hw := writePart_sound o w a ((d.drop (a - a0)).take n) s hS
    generalize writePart _ _ _ _ _ = p at hw ⊢
    obtain ⟨b, t⟩ := p
    cases b
    · exact hw
    · exact ih _ hw

@[simp] theorem completionRead_sound (o : Origin) (a n : Nat) (s : State) (b : Option Nat) (hS : Sound s) :
    Sound ((completionRead o a n s b).2) := by
  simp only [completionRead]; (repeat' split) <;> simp (maxDischargeDepth := 40) +contextual [*]

@[simp] theorem readPart_sound (o : Origin) (form : Bool) (w : Window) (a n : Nat) (s : State) (hS : Sound s) :
    Sound ((readPart o form w a n s).2) := by
  simp only [readPart]; (repeat' split) <;> simp (maxDischargeDepth := 40) +contextual [*]

@[simp] theorem readParts_sound (o : Origin) (form : Bool) (x0 : List (Window × Nat × Nat)) (s : State) (hS : Sound s) :
    Sound ((readParts o form x0 s).2) := by
  induction x0 generalizing s with
  | nil => exact hS
  | cons x r ih =>
    obtain ⟨w, a, n⟩ := x
    rw [readParts]
    have hw := readPart_sound o form w a n s hS
    generalize readPart _ _ _ _ _ _ = p at hw ⊢
    obtain ⟨b, t⟩ := p
    cases b
    · exact hw
    · dsimp only
      have h2 := ih _ hw
      generalize readParts o form r t = q at h2 ⊢
      obtain ⟨c, u⟩ := q
      cases c <;> exact h2

@[simp] theorem reply_sound (n : Nat) (o : Pkt) (s : State) (hS : Sound s) :
    Sound ((reply n o s)) := by
  refine sound_of_mask ?_ hS
  apply reply_mask <;> first | rfl | (intro p hp; revert hp; cases p <;> decide)

@[simp] theorem acceptReq_sound (n k : Nat) (o : Pkt) (s : State) (hS : Sound s) :
    Sound ((acceptReq n k o s)) := by
  unfold acceptReq; simp (maxDischargeDepth := 40) +contextual [*]

@[simp] theorem endRequest_sound (n : Nat) (s t : State) (hS : Sound t) :
    Sound ((endRequest n s t)) := by
  unfold endRequest; simp (maxDischargeDepth := 40) +contextual [*]

@[simp] theorem turnedAway_sound (n k : Nat) (ing : Ingress) (s : State) (hS : Sound s) :
    Sound ((turnedAway n k ing s)) := by
  unfold turnedAway; simp (maxDischargeDepth := 40) +contextual [*]

@[simp] theorem performWrite_sound (n : Nat) (rkey : Word) (a : Nat) (d : List Byte) (s : State) (hS : Sound s) :
    Sound ((performWrite n rkey a d s).2) := by
  simp only [performWrite]; (repeat' split) <;> simp (maxDischargeDepth := 40) +contextual [*]

@[simp] theorem presentImm_sound (n k : Nat) (imm : Word) (s : State) (hS : Sound s) :
    Sound ((presentImm n k imm s)) := by
  have hd := doorbellWrite_sound (qpOrigin s n) (dbAddr (s.qp n).bobbin.toNat 0) imm s hS
  unfold presentImm
  dsimp only
  split
  · generalize doorbellWrite _ _ _ _ = q at hd ⊢
    obtain ⟨b, t⟩ := q
    cases b <;> simp_all
  · simp (maxDischargeDepth := 40) [*]

@[simp] theorem notePoison_sound (o : Origin) (port a : Nat) (l : List RByte) (s : State) (hS : Sound s) :
    Sound ((notePoison o port a l s)) := by
  simp only [notePoison]; (repeat' split) <;> simp (maxDischargeDepth := 40) +contextual [*]

@[simp] theorem sendRead_sound (n : Nat) (o : Origin) (form : Bool) (x0 : List (Nat × Nat)) (s : State) (hS : Sound s) :
    Sound ((sendRead n o form x0 s)) := by
  induction x0 generalizing s with
  | nil => exact hS
  | cons x r ih =>
    obtain ⟨a, k⟩ := x
    rw [sendRead]
    have hw := readParts_sound o form (partsOf a k) s hS
    generalize readParts _ _ _ _ = p at hw ⊢
    obtain ⟨b, t⟩ := p
    cases b
    · exact reply_sound _ _ _ hw
    · dsimp only
      split
      · exact reply_sound _ _ _ (notePoison_sound _ _ _ _ _ hw)
      · exact ih _ (acceptReq_sound _ _ _ _ hw)

@[simp] theorem atomicAdd_sound (f : Byte) (a : Nat) (operand : BitVec 64) (s : State) (hS : Sound s) :
    Sound ((atomicAdd f a operand s).2) := by
  simp only [atomicAdd]; (repeat' split) <;> simp (maxDischargeDepth := 40) +contextual [*]

@[simp] theorem managementTick_sound (s0 : State) (hS : Sound s0) :
    Sound ((managementTick s0)) := by
  unfold managementTick
  extract_lets s
  have h : Sound s := skeinTick_sound _ (nvmTick_sound _ (sound_foldl (fun t f ht => runFrees_sound _ _ ht) _ _ (noteHeads_sound _ hS)))
  clear_value s
  refine ⟨h.1, h.2, h.3, ?_, ?_⟩
  · show (if _ then _ else _) < _
    split
    · exact Nat.mod_lt _ (by decide)
    · exact h.4
  · show (if _ then _ else _) < _
    split
    · exact Nat.mod_lt _ (by decide)
    · exact h.5

@[simp] theorem State.withFetchWord_sound (s : State) (nbits w : Nat) (hS : Sound s) :
    Sound ((s.withFetchWord nbits w)) := by
  refine sound_of_mask ?_ hS
  apply State.withFetchWord_mask <;> first | rfl | (intro p hp; revert hp; cases p <;> decide)

end Sys2Proof.Machine
end

