-- ==== Sys2Proof/Laws/Rows.lean ====
section
/-! SUPPORT. The forms in which a row answers: what is known of the state where it answers a next one. -/

namespace Sys2Proof.Machine

theorem guarded_next {i : Instr} {s t : State} (h : guarded i s = .next t) : s = t := by
  unfold guarded at h
  split at h
  · cases h; rfl
  · cases h

theorem next_inj {s t : State} (h : (Host.Outcome.next s : Res) = .next t) : s = t := by cases h; rfl

theorem runSched_next {b : Bobbin} {op : Nat} {f : Issued → State → State} {s t : State} (h : runSched b op f s = .next t) :
    t = s ∨ ∃ i, schedFront s b.toNat op = some i ∧ t = f i (dropSched i.id s) := by
  unfold runSched at h
  split at h
  · next i hi =>
    split at h
    · cases h; exact .inr ⟨i, hi, rfl⟩
    · cases h; exact .inl rfl
  · cases h; exact .inl rfl

theorem spdm_next {r : Asker} {f : State → Spdm × State} {s t : State} (h : spdm r f s = .next t) :
    t = s ∨ t = mgmtSend (.spdm r.mac r.ip (f (mgmtFrame r.fec (dueDuties s))).1) (f (mgmtFrame r.fec (dueDuties s))).2 := by
  unfold spdm at h
  cases h
  split
  · exact .inr rfl
  · exact .inl rfl

theorem takeIn_some {n k : Nat} {ing : Ingress} {hits : List Hit} {s s1 : State} (h : takeIn n k ing hits s = some s1) :
    s1 = noteHits perrReg hits (ingress n k ing s).1 := by
  unfold takeIn at h
  split at h
  · generalize ingress n k ing s = r at h ⊢
    obtain ⟨u, b⟩ := r
    cases b
    · cases h
    · cases h; rfl
  · cases h

end Sys2Proof.Machine
end

