-- ==== Sys2Proof/Tests/Slice0.lean ====
section
/-! SUPPORT. For each statement, states and operands that meet its hypotheses (`witness_…`, one for each clause that has its
own, at the ends of its ranges); for each check of WellFormed a command that it refuses; and single steps whose results are the
spec's. Each theorem is evaluated by the kernel, one after the other. -/

namespace Sys2Proof.Tests

open Sys2Proof Sys2Proof.Machine

set_option Elab.async false

/-! ## States and operands the witnesses share -/

/-- A part at READY: supply on, every gate open, skein 0 READY, the clocks running. -/
def up : State :=
  { State.reset with
    ndy := { phase := .ready, step := 7 }, ready := true, gate := 0xFFFFFFFFFFFFFFFFFFFFFFFFFFFFFFFF, run := 0xFFFFFFFF
    clocksOn := true, onRoot := true, skn := [(0, { mode := .ready })] }

/-- Memory cells that hold the bytes of `x`, little-endian, from address `a`. -/
def cells (a : Nat) : Nat → Nat → List Host.Cell
  | 0, _ => []
  | n + 1, x => if x % 256 = 0 then cells (a + 1) n (x / 256) else (a, BitVec.ofNat 8 x) :: cells (a + 1) n (x / 256)

/-- A 512-bit command: opcode, PHASE, TARGET, the descriptor addresses D0 to D3 and the IMM word. -/
def cmd (op phase target : Nat) (d : List Nat) (im : Nat := 0) : Cmd :=
  BitVec.ofNat 512 (op + phase * 2 ^ 8 + target * 2 ^ 32 + d.getD 0 0 * 2 ^ 256 + d.getD 1 0 * 2 ^ 304 + d.getD 2 0 * 2 ^ 352
    + d.getD 3 0 * 2 ^ 400 + im * 2 ^ 448)

/-- A command of bobbin 3, the second of its ring. -/
def issued (c : Cmd) : Issued := { cmd := c, bobbin := 3, seq := 1, addr := 0x10040, id := 9 }

/-- A tensor descriptor: base, format, number of dimensions, sizes of the first two, the stride of dimension 1. -/
def desc (base fmt ndim s0 s1 st1 : Nat) : Nat :=
  base + fmt * 2 ^ 48 + ndim * 2 ^ 58 + s0 * 2 ^ 128 + s1 * 2 ^ 160 + st1 * 2 ^ 320

/-- The same with dimension 1 indexed by the list at `ref`. -/
def descX (base fmt ndim s0 s1 st1 ref : Nat) : Nat := desc base fmt ndim s0 s1 st1 + 2 ^ 61 + ref * 2 ^ 64 + 2 ^ 112

/-- A descriptor with E8M0 plies of 32. -/
def descP (base fmt s0 s1 st1 : Nat) : Nat := desc base fmt 2 s0 s1 st1 + 2 ^ 56

/-- A READY part with command `c` alone at unit `u`'s port, and memory `m`. -/
def at_ (u : Nat) (c : Cmd) (m : List Host.Cell) : State := { up with ports := [(u, [issued c])], mem := m }

/-- The command passes its checks, and what they read has the property `p`. -/
def accepts {α : Type} (x : Chk α) (p : α → Bool := fun _ => true) : Bool :=
  match passes x with | .ok a => p a | .error _ => false

theorem of_accepts {α : Type} {x : Chk α} {p : α → Bool} (h : accepts x p = true) : ∃ a, passes x = .ok a ∧ p a = true := by
  unfold accepts at h
  cases hx : passes x with
  | error e => rw [hx] at h; cases h
  | ok a => rw [hx] at h; exact ⟨a, rfl, h⟩

theorem offered_of {u op : Nat} {i : Issued} {s : State} (h1 : frontOf s u op = some i) (h2 : cEpoch i.cmd = s.epoch u)
    (h3 : i.res = .none) : Offered u op i s :=
  ⟨h1, h2, fun n b e x h => by rw [h3] at h; cases h⟩

/-! ## Engines -/

/-- D0 an INT32 tensor indexed by the list at 0x1080, D1 the same shape without index. -/
def moveMem : List Host.Cell :=
  cells 0x1000 64 (descX 0x4000 0x0A 2 2 2 8 0x1080) ++ cells 0x1040 64 (desc 0x5000 0x0A 2 2 2 8) ++ cells 0x1080 64 (desc 0x3000 0x0A 1 2 0 0)
def gatherC : Cmd := cmd 0x40 0 1 [0x1000, 0x1040]
def gatherS : State := at_ 17 gatherC moveMem
def scatterC : Cmd := cmd 0x41 0 1 [0x1040, 0x1000]
def scatterS : State := at_ 17 scatterC moveMem

theorem witness_CarderMovesRun_gather : Offered 17 0x40 (issued gatherC) gatherS ∧ movRunv gatherC = false
    ∧ ∃ m, passes (moveCheck (issued gatherC) (taken perrReg 17 [] gatherS)) = .ok m
      ∧ !moveOverlap (issued gatherC) m (taken perrReg 17 [] gatherS) :=
  ⟨offered_of (by decide +kernel) (by decide +kernel) rfl, by decide +kernel, of_accepts (by decide +kernel)⟩

theorem witness_CarderMovesRun_scatter : Offered 17 0x41 (issued scatterC) scatterS ∧ movRunv scatterC = false
    ∧ ∃ m, passes (moveCheck (issued scatterC) (taken perrReg 17 [] scatterS)) = .ok m
      ∧ !moveOverlap (issued scatterC) m (taken perrReg 17 [] scatterS) :=
  ⟨offered_of (by decide +kernel) (by decide +kernel) rfl, by decide +kernel, of_accepts (by decide +kernel)⟩

/-- Two FP32 tensors of one shape. -/
def twoMem : List Host.Cell := cells 0x1000 64 (desc 0x4000 0 2 2 2 8) ++ cells 0x1040 64 (desc 0x5000 0 2 2 2 8)
def permuteC : Cmd := cmd 0xC0 0 1 [0x1000, 0x1040] 1
def permuteS : State := at_ 17 permuteC twoMem

theorem witness_CarderMovesRun_permute : Offered 17 0xC0 (issued permuteC) permuteS ∧ cpyRunv permuteC = false
    ∧ ∃ m, passes (cpyCheck (issued permuteC) (taken moveReg 17 [] permuteS)) = .ok m
      ∧ !cpyOverlap (issued permuteC) m (taken moveReg 17 [] permuteS) :=
  ⟨offered_of (by decide +kernel) (by decide +kernel) rfl, by decide +kernel, of_accepts (by decide +kernel)⟩

/-- A sparse matrix of one bucket without rows, in BF16, against two FP32-wide operands. -/
def spmmC : Cmd := cmd 0x42 0 1 [0x1000, 0x1040, 0x1080] 1
def spmmS : State :=
  at_ 17 spmmC (cells 0x1000 64 (0x3000 + 2 ^ 48 + 1 * 2 ^ 64) ++ cells 0x1040 64 (desc 0x4000 1 2 2 2 8)
    ++ cells 0x1080 64 (desc 0x5000 0 2 2 2 8) ++ cells 0x3000 16 (0x6000 + 2 ^ 96))

theorem witness_CarderMovesRun_spmm : Offered 17 0x42 (issued spmmC) spmmS ∧ spmmRunv spmmC = false
    ∧ ∃ m, passes (spmmCheck (issued spmmC) (taken perrReg 17 [] spmmS)) = .ok m ∧ true :=
  ⟨offered_of (by decide +kernel) (by decide +kernel) rfl, by decide +kernel, of_accepts (by decide +kernel)⟩

/-- A route block: one partition, one range, one expert, one token, at 0x1000, and a tensor at 0x1080. -/
def routeMem (d : Nat) : List Host.Cell :=
  cells 0x1000 128 (16 * 2 ^ 176 + 2 ^ 596 + 2 ^ 640 + 2 ^ 704 + 2 ^ 736 + 2 ^ 800 + 2 ^ 832) ++ cells 0x1080 64 d
def fanoutC : Cmd := cmd 0x49 0 0 [0, 0, 0, 0x1000]
def dispatchC : Cmd := cmd 0x4A 0 0 [0x1080, 0x10C0, 0, 0x1000]
def combineC : Cmd := cmd 0x4C 0 0 [0x1080, 0, 0, 0x1000]
def selectC : Cmd := cmd 0x48 0 0 [0x1080, 0, 0, 0x1000]
def assignC : Cmd := cmd 0x4B 0 0 [0, 0, 0, 0x1000]
def prefetchC : Cmd := cmd 0x4D 0 0 [0x1080, 0, 0, 0x1000]
def fanoutS : State := at_ 16 fanoutC (routeMem 0)
def dispatchS : State := at_ 16 dispatchC (routeMem (desc 0x4000 0 2 2 1 8) ++ cells 0x10C0 64 (desc 0x5000 0 3 2 1 8 + 2 ^ 192 + 16 * 2 ^ 360))
def combineS : State := at_ 16 combineC (routeMem (desc 0x4000 0 3 2 1 8 + 2 ^ 192))
def selectS : State := at_ 16 selectC (routeMem (desc 0x4000 0 2 1 1 4))
def assignS : State := at_ 16 assignC (routeMem 0)
/-- Its list names expert 5, which the partition does not hold. -/
def prefetchS : State := at_ 16 prefetchC (routeMem (desc 0x4000 0x0A 1 1 0 0) ++ cells 0x4000 4 5)

theorem witness_ExpertRowsRun_fanout : Offered 16 0x49 (issued fanoutC) fanoutS
    ∧ ∃ o, passes (blockCheck (issued fanoutC) (taken perrReg 16 [] fanoutS)) = .ok o ∧ true :=
  ⟨offered_of (by decide +kernel) (by decide +kernel) rfl, of_accepts (by decide +kernel)⟩
theorem witness_ExpertRowsRun_dispatch : Offered 16 0x4A (issued dispatchC) dispatchS
    ∧ ∃ o, passes (dispatchCheck (issued dispatchC) (taken perrReg 16 [] dispatchS)) = .ok o
      ∧ !dispatchOverlap (issued dispatchC) o (taken perrReg 16 [] dispatchS) :=
  ⟨offered_of (by decide +kernel) (by decide +kernel) rfl, of_accepts (by decide +kernel)⟩
theorem witness_ExpertRowsRun_combine : Offered 16 0x4C (issued combineC) combineS
    ∧ ∃ o, passes (combineCheck (issued combineC) (taken perrReg 16 [] combineS)) = .ok o
      ∧ !combineOverlap (issued combineC) o (taken perrReg 16 [] combineS) :=
  ⟨offered_of (by decide +kernel) (by decide +kernel) rfl, of_accepts (by decide +kernel)⟩
theorem witness_ExpertSelectAndJobsRun_select : Offered 16 0x48 (issued selectC) selectS ∧ inReplay selectS (cCtx selectC) 2 = false
    ∧ ∃ o, passes (selectCheck (issued selectC) (taken perrReg 16 [] selectS)) = .ok o ∧ true :=
  ⟨offered_of (by decide +kernel) (by decide +kernel) rfl, by decide +kernel, of_accepts (by decide +kernel)⟩
/-- The one expert has no routed token. -/
theorem witness_ExpertSelectAndJobsRun_assign : Offered 16 0x4B (issued assignC) assignS ∧ cTarget assignC = 0
    ∧ ∃ o, passes (blockCheck (issued assignC) (taken perrReg 16 [] assignS)) = .ok o
      ∧ (List.range (o.r.experts (expNo assignC))).all
          (fun j => decide (rdNat (taken perrReg 16 [] assignS) (o.r.list_ (expNo assignC) j) 4 = 0)) :=
  ⟨offered_of (by decide +kernel) (by decide +kernel) rfl, by decide +kernel, of_accepts (by decide +kernel)⟩
theorem witness_ExpertSelectAndJobsRun_prefetch : Offered 16 0x4D (issued prefetchC) prefetchS ∧ cTarget prefetchC = 0
    ∧ ∃ o, passes (prefetchCheck (issued prefetchC) (taken perrReg 16 [] prefetchS)) = .ok o
      ∧ (List.range (o.d0.extent 0)).all (fun j =>
          decide (((o.r.eBase + expNo prefetchC * o.r.epp + o.r.experts (expNo prefetchC) : Nat) : Int)
            ≤ signed 32 (readElem (taken perrReg 16 [] prefetchS) o.d0 [j]).code)) :=
  ⟨offered_of (by decide +kernel) (by decide +kernel) rfl, by decide +kernel, of_accepts (by decide +kernel)⟩

def lscaleC : Cmd := cmd 0x50 0 0 [0x1000, 0x1040]
def lscaleS : State := at_ 16 lscaleC (cells 0x1000 64 (desc 0x4000 0 2 2 2 8) ++ cells 0x1040 64 (desc 0x5000 0 2 2 2 8))
/-- Master weights, gradient and moments of one ply, with β1 = c1 = 1/2 (and β2 = c2 = 1/2, ε = 1 for AdamW). -/
def optMem (x : Nat) : List Host.Cell :=
  cells 0x1000 64 (desc 0x4000 0 2 32 1 128) ++ cells 0x1040 64 (desc 0x5000 0 2 32 1 128) ++ cells 0x1080 64 (descP 0x6000 3 32 1 33)
    ++ cells 0x10C0 64 (descP 0x7000 3 32 1 33) ++ cells 0x1100 64 x
/-- E4M3 has its table. -/
def e4m3 (s : State) : State := { s with fmt := [(0, [0, 0x3F800000])] }
def adamC : Cmd := cmd 0x51 2 0 [0x1000, 0x1040, 0x1080, 0x10C0] 0x1100
def adamS : State :=
  e4m3 (at_ 16 adamC (optMem (0x3F000000 * 2 ^ 64 + 0x3F000000 * 2 ^ 96 + 0x3F000000 * 2 ^ 128 + 0x3F000000 * 2 ^ 160
    + 0x3F800000 * 2 ^ 192)))
def sgdC : Cmd := cmd 0x52 2 0 [0x1000, 0x1040, 0x1080] 0x1100
def sgdS : State := e4m3 (at_ 16 sgdC (optMem (0x3F000000 * 2 ^ 64 + 0x3F000000 * 2 ^ 96)))

theorem witness_TrainingRowsRun_lscale : Offered 16 0x50 (issued lscaleC) lscaleS ∧ lsRunv lscaleC = false
    ∧ ∃ m, passes (lscaleOpds lscaleC (taken perrReg 16 [] lscaleS)) = .ok m
      ∧ !lscaleOverlap (issued lscaleC) m (taken perrReg 16 [] lscaleS) :=
  ⟨offered_of (by decide +kernel) (by decide +kernel) rfl, by decide +kernel, of_accepts (by decide +kernel)⟩
theorem witness_TrainingRowsRun_adam : Offered 16 0x51 (issued adamC) adamS ∧ optRunv adamC = false
    ∧ ∃ o, passes (optCheck (issued adamC) (taken perrReg 16 [] adamS)) = .ok o ∧ true :=
  ⟨offered_of (by decide +kernel) (by decide +kernel) rfl, by decide +kernel, of_accepts (by decide +kernel)⟩
theorem witness_TrainingRowsRun_sgd : Offered 16 0x52 (issued sgdC) sgdS ∧ optRunv sgdC = false
    ∧ ∃ o, passes (optCheck (issued sgdC) (taken perrReg 16 [] sgdS)) = .ok o ∧ true :=
  ⟨offered_of (by decide +kernel) (by decide +kernel) rfl, by decide +kernel, of_accepts (by decide +kernel)⟩

/-- An update that the verdict suppresses (R280). -/
theorem witness_TrainingRowsRun_suppressed :
    optSuppressed (issued sgdC) { sgdS with trns := [(0, { verdict := 0x20 })] } = true := by decide +kernel

def stageC : Cmd := cmd 0x10 0 2 [0x1000]
def stageS : State := at_ 2 stageC (cells 0x1000 64 (desc 0x4000 1 2 32 256 64))
/-- Position 2's spindle with panel 0 staged, and an image that claims slot 0 there. -/
def mmaC : Cmd := cmd 0x11 0 2 [] (1 + 2 ^ 7 + 2 ^ 20 + 31 * 2 ^ 37)
def claims2 : Image :=
  { planBase := 0, planCount := 0, bsetBase := 0, bsetCount := 0, barFirst := 0, barLast := 0, holdFirst := 0, holdLast := 0
    hank := [0, 0, 1], panel := [], bufs := [] }
def claimS (s : State) : State := { s with images := [(0, claims2)] }
def mmaS : State :=
  claimS { at_ 2 mmaC [] with spn := [(2, { panels := [(0, { line := 0, nlines := 1, fmt := 1, ply := 0, k := 32, vlanes := 256 })] })] }
def discardC : Cmd := cmd 0x12 0 2 []
def discardS : State := claimS (at_ 2 discardC [])

theorem witness_SpindleRowsRun_stage : Offered 2 0x10 (issued stageC) stageS ∧ stageRunv stageC = false
    ∧ ∃ o, passes (stageCheck (issued stageC) (taken perrReg 2 [] stageS)) = .ok o ∧ true :=
  ⟨offered_of (by decide +kernel) (by decide +kernel) rfl, by decide +kernel, of_accepts (by decide +kernel)⟩
theorem witness_SpindleRowsRun_mma : Offered 2 0x11 (issued mmaC) mmaS ∧ mmaRunv mmaC = false
    ∧ ∃ m, passes (mmaCheck (issued mmaC) (taken perrReg 2 [] mmaS)) = .ok m ∧ true :=
  ⟨offered_of (by decide +kernel) (by decide +kernel) rfl, by decide +kernel, of_accepts (by decide +kernel)⟩
theorem witness_SpindleRowsRun_discard : Offered 2 0x12 (issued discardC) discardS
    ∧ ∃ o, passes (discardCheck (issued discardC) (popPort 2 discardS)) = .ok o ∧ true :=
  ⟨offered_of (by decide +kernel) (by decide +kernel) rfl, of_accepts (by decide +kernel)⟩

/-- Three FP32 row tensors of one shape and a vector of its row length. -/
def rowMem : List Host.Cell :=
  cells 0x1000 64 (desc 0x4000 0 2 2 2 8) ++ cells 0x1040 64 (desc 0x5000 0 2 2 2 8) ++ cells 0x1080 64 (desc 0x6000 0 2 2 2 8)
    ++ cells 0x10C0 64 (desc 0x7000 0 1 2 0 0)
/-- A flyer command at flyer 0's port, once the internal frees that wait there have run. -/
def flown (c : Cmd) : State := runFrees 0 (at_ 48 c rowMem)
def normFwdC : Cmd := cmd 0x80 0 0 [0x1000, 0x1040]
def normBwdC : Cmd := cmd 0x81 1 0 [0x1000, 0x1040, 0x1080]
def pgradC : Cmd := cmd 0x82 1 0 [0x1000, 0x1040, 0x10C0]
def mergeC : Cmd := cmd 0x83 0 0 []
def smaxFwdC : Cmd := cmd 0x84 0 0 [0x1000, 0x1040]
def smaxBwdC : Cmd := cmd 0x85 1 0 [0x1000, 0x1040, 0x1080]
def freeC : Cmd := cmd 0x86 0 0 []

theorem witness_FlyerRowsRun_normFwd : Offered 48 0x80 (issued normFwdC) (flown normFwdC) ∧ flyRunv normFwdC = false
    ∧ ∃ o, passes (flyCheck (issued normFwdC) (taken perrReg 48 [] (flown normFwdC))) = .ok o ∧ true :=
  ⟨offered_of (by decide +kernel) (by decide +kernel) rfl, by decide +kernel, of_accepts (by decide +kernel)⟩
theorem witness_FlyerRowsRun_normBwd : Offered 48 0x81 (issued normBwdC) (flown normBwdC) ∧ flyRunv normBwdC = false
    ∧ ∃ o, passes (flyCheck (issued normBwdC) (taken perrReg 48 [] (flown normBwdC))) = .ok o ∧ true :=
  ⟨offered_of (by decide +kernel) (by decide +kernel) rfl, by decide +kernel, of_accepts (by decide +kernel)⟩
theorem witness_FlyerRowsRun_pgrad : Offered 48 0x82 (issued pgradC) (flown pgradC) ∧ flyRunv pgradC = false
    ∧ ∃ o, passes (flyCheck (issued pgradC) (taken perrReg 48 [] (flown pgradC))) = .ok o ∧ true :=
  ⟨offered_of (by decide +kernel) (by decide +kernel) rfl, by decide +kernel, of_accepts (by decide +kernel)⟩
theorem witness_FlyerRowsRun_merge : Offered 48 0x83 (issued mergeC) (flown mergeC) ∧ flyRunv mergeC = false
    ∧ ∃ o, passes (flyCheck (issued mergeC) (taken perrReg 48 [] (flown mergeC))) = .ok o ∧ true :=
  ⟨offered_of (by decide +kernel) (by decide +kernel) rfl, by decide +kernel, of_accepts (by decide +kernel)⟩
theorem witness_FlyerRowsRun_smaxFwd : Offered 48 0x84 (issued smaxFwdC) (flown smaxFwdC) ∧ flyRunv smaxFwdC = false
    ∧ ∃ o, passes (flyCheck (issued smaxFwdC) (taken perrReg 48 [] (flown smaxFwdC))) = .ok o ∧ true :=
  ⟨offered_of (by decide +kernel) (by decide +kernel) rfl, by decide +kernel, of_accepts (by decide +kernel)⟩
theorem witness_FlyerRowsRun_smaxBwd : Offered 48 0x85 (issued smaxBwdC) (flown smaxBwdC) ∧ flyRunv smaxBwdC = false
    ∧ ∃ o, passes (flyCheck (issued smaxBwdC) (taken perrReg 48 [] (flown smaxBwdC))) = .ok o ∧ true :=
  ⟨offered_of (by decide +kernel) (by decide +kernel) rfl, by decide +kernel, of_accepts (by decide +kernel)⟩
theorem witness_FlyerRowsRun_free : Offered 48 0x86 (issued freeC) (flown freeC) ∧ cTarget freeC = 0
    ∧ ∃ o, passes (flyCheck (issued freeC) (taken perrReg 48 [] (flown freeC))) = .ok o ∧ true :=
  ⟨offered_of (by decide +kernel) (by decide +kernel) rfl, by decide +kernel, of_accepts (by decide +kernel)⟩

/-- Group 0 (TAG 7, two members, rank 0, context 0), a reduction block of one element, and its tensors. -/
def groupMem : List Host.Cell := cells 0 64 (7 + 2 * 2 ^ 32 + 2 ^ 95 + 0x2000 * 2 ^ 96)
def blockMem : List Host.Cell :=
  groupMem ++ cells 0x1000 64 (0x3000 + 0x3800 * 2 ^ 64 + 2 ^ 128 + 2048 * 2 ^ 192) ++ cells 0x1040 64 (desc 0x4000 0 1 1 0 0)
    ++ cells 0x1080 64 (desc 0x5000 0 1 1 0 0)
def reduceC : Cmd := cmd 0xA0 1 0 [0x1040, 0x1080, 0, 0x1000]
def gatherPlyC : Cmd := cmd 0xA1 2 0 [0x1040, 0x1080, 0, 0x1000]
def verdictC : Cmd := cmd 0xA2 1 0 []
def barrierC : Cmd := cmd 0xA3 0 0 []
def orthoC : Cmd := cmd 0xA4 1 0 [0x1000]
def seedC : Cmd := cmd 0xA5 1 0 [0x1000]
def factorMem : List Host.Cell := cells 0x1000 64 (desc 0x4000 0 2 2 2 8)

theorem witness_PlyingCommandsStart_reduce : plyFront (at_ 52 reduceC blockMem) 0xA0 = some (issued reduceC)
    ∧ cEpoch reduceC = (at_ 52 reduceC blockMem).epoch 52
    ∧ ∃ d, passes (blockOpCheck (issued reduceC) (taken perrReg 52 [] (at_ 52 reduceC blockMem))) = .ok d ∧ true :=
  ⟨by decide +kernel, by decide +kernel, of_accepts (by decide +kernel)⟩
theorem witness_PlyingCommandsStart_gather : plyFront (at_ 52 gatherPlyC blockMem) 0xA1 = some (issued gatherPlyC)
    ∧ cEpoch gatherPlyC = (at_ 52 gatherPlyC blockMem).epoch 52
    ∧ ∃ d, passes (blockOpCheck (issued gatherPlyC) (taken perrReg 52 [] (at_ 52 gatherPlyC blockMem))) = .ok d ∧ true :=
  ⟨by decide +kernel, by decide +kernel, of_accepts (by decide +kernel)⟩
theorem witness_PlyingCommandsStart_verdict : plyFront (at_ 52 verdictC groupMem) 0xA2 = some (issued verdictC)
    ∧ cEpoch verdictC = (at_ 52 verdictC groupMem).epoch 52
    ∧ ∃ d, passes (groupCheck (issued verdictC) (taken perrReg 52 [] (at_ 52 verdictC groupMem))) = .ok d ∧ true :=
  ⟨by decide +kernel, by decide +kernel, of_accepts (by decide +kernel)⟩
theorem witness_PlyingCommandsStart_barrier : plyFront (at_ 52 barrierC groupMem) 0xA3 = some (issued barrierC)
    ∧ cEpoch barrierC = (at_ 52 barrierC groupMem).epoch 52
    ∧ ∃ d, passes (barrierCheck (issued barrierC) (taken perrReg 52 [] (at_ 52 barrierC groupMem))) = .ok d ∧ true :=
  ⟨by decide +kernel, by decide +kernel, of_accepts (by decide +kernel)⟩
theorem witness_FactorCommandsRun_ortho : plyFront (at_ 52 orthoC factorMem) 0xA4 = some (issued orthoC)
    ∧ cEpoch orthoC = (at_ 52 orthoC factorMem).epoch 52
    ∧ ∃ d, passes (factorCheck (issued orthoC) (taken perrReg 52 [] (at_ 52 orthoC factorMem))) = .ok d ∧ true :=
  ⟨by decide +kernel, by decide +kernel, of_accepts (by decide +kernel)⟩
theorem witness_FactorCommandsRun_seed : plyFront (at_ 52 seedC factorMem) 0xA5 = some (issued seedC)
    ∧ cEpoch seedC = (at_ 52 seedC factorMem).epoch 52
    ∧ ∃ d, passes (factorCheck (issued seedC) (taken perrReg 52 [] (at_ 52 seedC factorMem))) = .ok d ∧ true :=
  ⟨by decide +kernel, by decide +kernel, of_accepts (by decide +kernel)⟩

/-! ## Control plane -/

def reg (a : Nat) (v : Word) (s : State) : State := { s with reg := mset s.reg a v }
/-- Bobbin 3 ENABLED with the queue `q`. -/
def bob3 (q : List QEntry) : State := { up with bobs := [(3, { state := .enabled, queue := q })] }
def schedS (c : Cmd) : State := { up with sched := [issued c] }
def nopC : Cmd := cmd 0 3 0 []
def setC : Cmd := cmd 2 3 0 [] 7
def releaseC : Cmd := cmd 1 3 0 []
def closeC : Cmd := cmd 3 0 0 []
/-- A NOP that waits for counter 5 to reach 1, and one that raises it. -/
def waitC : Cmd := nopC + BitVec.ofNat 512 (5 * 2 ^ 64 + 2 ^ 112 + 2 ^ 128)
def signalC : Cmd := nopC + BitVec.ofNat 512 (2 ^ 114)

theorem witness_SchedulerCommandsComplete_nop : ctlRuns (schedS nopC) = true ∧ schedFront (schedS nopC) 3 opNOP = some (issued nopC)
    ∧ ((schedS nopC).ctx (bobCtx (schedS nopC) 3)).closer = none := by decide +kernel
theorem witness_SchedulerCommandsComplete_barrierSet : schedFront (schedS setC) 3 opBARRIER_SET = some (issued setC)
    ∧ ((schedS setC).ctx (bobCtx (schedS setC) 3)).closer = none := by decide +kernel
/-- One slot is left of sixteen. -/
def releaseS : State := { up with bobs := [(3, { state := .enabled, outstanding := 15, queue := [{ is := issued releaseC }] })] }
theorem witness_SchedulerCommandsComplete_release : firstRelease (releaseS.bob 3) = some { is := issued releaseC }
    ∧ slotFree (releaseS.bob 3) = true ∧ headFirst releaseS (releaseS.bob 3) = false ∧ (issued releaseC).bobbin = 3
    ∧ (releaseS.ctx (bobCtx releaseS 3)).closer = none := by decide +kernel
/-- ERROR of kind FAULT signals, of kind CHECK does not; nor does a command without SIGNAL_EN. -/
theorem witness_CompletionSignals : cSignalEn signalC = true ∧ stERROR = stERROR ∧ kindFAULT = kindFAULT
    ∧ ¬(stERROR = stOK ∨ stERROR = stCHECKSUM ∨ stERROR = stOVERFLOW ∨ stERROR = stPOISONED ∨ (stERROR = stERROR ∧ kindCHECK = kindFAULT)
      ∨ stERROR = stEMPTY) ∧ cSignalEn nopC = false := by decide +kernel
theorem witness_PhaseCloseTakesEffect_closes : schedFront (schedS closeC) 3 opPHASE_CLOSE = some (issued closeC)
    ∧ ((schedS closeC).ctx 0).closer = none ∧ posDiff (schedS closeC) 0 closeC = 0 ∧ ((schedS closeC).ctx 0).done = imm closeC 0 32
    ∧ cCtx closeC = 0 := by decide +kernel
theorem witness_PhaseCloseTakesEffect_waits :
    schedFront (schedS (cmd 3 0 0 [] 1)) 3 opPHASE_CLOSE = some (issued (cmd 3 0 0 [] 1))
    ∧ ((schedS (cmd 3 0 0 [] 1)).ctx 0).closer = none ∧ posDiff (schedS (cmd 3 0 0 [] 1)) 0 (cmd 3 0 0 [] 1) = 0
    ∧ ((schedS (cmd 3 0 0 [] 1)).ctx 0).done < imm (cmd 3 0 0 [] 1) 0 32 := by decide +kernel
/-- Its position is one ahead. -/
theorem witness_PhaseCloseTakesEffect_refused :
    schedFront (schedS (cmd 3 1 0 [])) 3 opPHASE_CLOSE = some (issued (cmd 3 1 0 [])) ∧ posDiff (schedS (cmd 3 1 0 [])) 0 (cmd 3 1 0 []) ≠ 0 := by
  decide +kernel
def headE (c : Cmd) : QEntry := { is := issued c }
def headS (c : Cmd) : State := bob3 [headE c]
theorem witness_DispatchSendsTheHead_engine : readyHead (headS gatherC) ((headS gatherC).bob 3) (headE gatherC) = true
    ∧ granted (headS gatherC) 3 gatherC = true ∧ isSched (cOp gatherC) = false ∧ targetGated (headS gatherC) gatherC = false
    ∧ planRejects (headS gatherC) (headE gatherC) = false := by decide +kernel
theorem witness_DispatchSendsTheHead_scheduler : readyHead (headS nopC) ((headS nopC).bob 3) (headE nopC) = true
    ∧ granted (headS nopC) 3 nopC = true ∧ isSched (cOp nopC) = true ∧ planRejects (headS nopC) (headE nopC) = false
    ∧ (headE nopC).is.res = .none := by decide +kernel
/-- Carder 1 is gated. -/
def gatedS : State := { headS gatherC with gate := ~~~(2 ^ 33) }
theorem witness_DispatchSendsTheHead_gated : readyHead gatedS (gatedS.bob 3) (headE gatherC) = true ∧ granted gatedS 3 gatherC = true
    ∧ targetGated gatedS gatherC = true := by decide +kernel
/-- A planned command of a context without image. -/
def plannedC : Cmd := gatherC + BitVec.ofNat 512 (1 * 2 ^ 240)
theorem witness_DispatchSendsTheHead_rejected : readyHead (headS plannedC) ((headS plannedC).bob 3) (headE plannedC) = true
    ∧ granted (headS plannedC) 3 plannedC = true ∧ targetGated (headS plannedC) plannedC = false
    ∧ planRejects (headS plannedC) (headE plannedC) = true := by decide +kernel
theorem witness_DispatchOnlyWhenR62Holds :
    (match exec (.dispatch 3) (headS nopC) with
      | .next t => decide (((headS nopC).bob 3).outstanding < (t.bob 3).outstanding) | _ => false) = true := by decide +kernel
/-- AGE_LIMIT 4, and a head ready for five cycles. -/
def ageE : QEntry := { is := issued nopC, readySince := some 0 }
def ageS : State := reg (rBob 0x20) 4 { bob3 [ageE] with cyc := 5 }
theorem witness_HeadEventsMark_age : readyHead ageS (ageS.bob 3) ageE = true ∧ (ageS.getReg (rBob 0x20)).toNat % 2 ^ 24 ≠ 0
    ∧ (ageS.getReg (rBob 0x20)).toNat % 2 ^ 24 < elapsed ageS.cyc 0 := by decide +kernel
def resolveS : State :=
  { headS plannedC with images := [(0, { claims2 with planBase := 0x1000, planCount := 2, bsetCount := 1 })], imgState := [(0, .loaded)] }
theorem witness_HeadEventsMark_resolve : loadedImage resolveS 0 = some { claims2 with planBase := 0x1000, planCount := 2, bsetCount := 1 }
    ∧ cCtx plannedC = 0 ∧ (headE plannedC).kind = .ok ∧ (headE plannedC).resolved = false ∧ planned plannedC = true
    ∧ cOp plannedC ≠ opRELEASE ∧ cPlan plannedC = 1 ∧ phaseClosed resolveS 0 plannedC = false ∧ waitsMet resolveS plannedC = true
    ∧ (cachedRead 0x1020 resolveS).2.1 = false ∧ (parsePlan (cachedRead 0x1020 resolveS).1).bset = 0
    ∧ (parsePlan (cachedRead 0x1020 resolveS).1).runSrc = false := by decide +kernel
/-- Counter 5 is remote; WD_TICKS 2 have passed. -/
def watchE : QEntry := { is := issued waitC, watchSince := some 0 }
def watchS : State := reg (rBob 0x214) 0x50005 (reg (rBob 0x210) 2 { bob3 [watchE] with wall := 2 })
theorem witness_HeadEventsMark_watch : watching watchS (watchS.bob 3) watchE = true ∧ wdTicks watchS ≠ 0
    ∧ watchStart watchS watchE 0 + wdTicks watchS ≤ watchS.wall := by decide +kernel
def fetchS : State := { up with bobs := [(3, { state := .enabled, prod := 33, fetched := 31 })] }
theorem witness_FetchAndArrival_burst : ctlRuns fetchS = true ∧ (fetchChoice fetchS).map (·.1) = some 3 := by decide +kernel
def arriveS : State := { up with bobs := [(3, { state := .enabled, fetched := 1, bursts := [(0, 1)] })] }
theorem witness_FetchAndArrival_arrival : ctlRuns arriveS = true ∧ (arriveS.bob 3).bursts = [(0, 1)]
    ∧ (rdBytes (noteHits perrReg [] (arriveS.setBob 3 { arriveS.bob 3 with bursts := [] })) (ringAddr (arriveS.bob 3) 0) 64).any
        (·.poison) = false := by decide +kernel
theorem witness_ProducerAndHeadDoorbells : mgmtRuns (bob3 []) = true ∧ ctlRuns (bob3 []) = true ∧ ((bob3 []).bob 3).state = .enabled
    ∧ ((32 : Word) - ((bob3 []).bob 3).fetched).toNat = 2 ^ ((bob3 []).bob 3).entry.log2
    ∧ 2 ^ ((bob3 []).bob 3).entry.log2 < ((33 : Word) - ((bob3 []).bob 3).fetched).toNat ∧ (up.bob 3).state ≠ .enabled := by decide +kernel
/-- A sound table entry of bobbin 3: ring at 0x800 of 32 descriptors, 16 records. -/
def entryS : State := { up with mem := cells 96 32 (0x800 + 5 * 2 ^ 48 + 4 * 2 ^ 88) }
theorem witness_EnableByR49 : (entryS.bob 3).state = .disabled ∧ rdPoison entryS (btabBase entryS + 32 * 3) 32 = false
    ∧ entryOk entryS (rdNat entryS (btabBase entryS + 32 * 3) 32) = true ∧ ((bob3 []).bob 3).state = .enabled := by decide +kernel
theorem witness_DisableDrains : ((bob3 []).bob 3).state = .enabled ∧ (up.bob 3).state ≠ .enabled ∧ (up.bob 3).state ≠ .stopped := by
  decide +kernel
def reportS : State :=
  { up with reports := [{ is := issued gatherC, unit := 17, status := stOK, ran := true }], bobs := [(3, { state := .enabled, outstanding := 1 })] }
theorem witness_EngineCompletionTakesReport :
    (Instr.engineCompletion 17).wf = true ∧ ctlRuns reportS = true
      ∧ firstReport reportS 17 = some { is := issued gatherC, unit := 17, status := stOK, ran := true }
      ∧ seqKnown reportS false 9 = true ∧ incsWait reportS 17 = false ∧ (reportS.ctx (bobCtx reportS 3)).closer = none := by decide +kernel
/-- IMAGE_START with an image at 0x1000, and without one: an unload. -/
def startC : Cmd := cmd 4 3 0 [0x1000]
def unloadC : Cmd := cmd 4 3 0 []
theorem witness_ImageCommandsRun_start : loadTurn (schedS startC) 3 = true ∧ schedFront (schedS startC) 3 opIMAGE_START = some (issued startC)
    ∧ (schedS startC).loading = [] ∧ cD startC 0 ≠ 0 ∧ imgOf (schedS startC) 0 = .none := by decide +kernel
/-- An image of three PHASE_CLOSE commands: plan and bucket set tables of one entry at 0x2000, the stream table at 0x2040, the buffer
table at 0x2080, the commands at 0x3000. -/
def imageMem : List Host.Cell :=
  cells 0x1000 64 (0x444E5041 + 2 ^ 32 + 0x2000 * 2 ^ 64 + 2 ^ 112 + 0x2000 * 2 ^ 128 + 2 ^ 176 + 0x2040 * 2 ^ 192 + 2 ^ 240 + 0x2080 * 2 ^ 256
      + 2 ^ 304)
    ++ cells 0x2040 16 (0x3000 + 3 * 2 ^ 64) ++ cells 0x2080 16 (0x4000 + 6 * 2 ^ 48 + 64 * 2 ^ 64)
    ++ cells 0x3000 64 (cmd 3 0 0 []).toNat ++ cells 0x3040 64 (cmd 3 1 0 []).toNat ++ cells 0x3080 64 (cmd 3 2 0 []).toNat
def loadS (c : Cmd) (m : List Host.Cell) : State := { up with loading := [issued c], mem := m }
theorem witness_ImageCommandsRun_load : (match checkImage (loadS startC imageMem) (readImage (loadS startC imageMem) 0 0x1000) with
    | .ok _ => true | .error _ => false) = true := by decide +kernel
/-- The block cannot be read: its skein is off. -/
theorem witness_ImageCommandsRun_reject : (match checkImage { loadS startC [] with skn := [] } (readImage { loadS startC [] with skn := [] } 0 0x1000) with
    | .ok _ => false | .error _ => true) = true := by decide +kernel
theorem witness_ImageCommandsRun_unload : cD unloadC 0 = 0 ∧ ctxOutstanding (loadS unloadC []) 0 ≤ 1
    ∧ ((loadS unloadC []).ctx (bobCtx (loadS unloadC []) 3)).closer = none := by decide +kernel
def incS : State := { up with crds := [(1, { incs := [5] })] }
theorem witness_ReadyIncrementsSwapAndWatch_ready : ctlRuns incS = true ∧ (incS.crd 1).incs = [5] := by decide +kernel
theorem witness_ReadyIncrementsSwapAndWatch_swap :
    (32500000 : Nat) ≤ { up with spareReq := some (0x13, 0), wall := 32500000 : State }.wall - 0 := by decide +kernel
/-- A verdict of two members that has heard from no one; WD_TICKS 2 have passed. -/
def activeC : PlyCmd := { is := issued verdictC, size := 2, rank := 0, tag := 7 }
def activeS : State := reg (rBob 0x210) 2 { up with ply := [activeC], wall := 2 }
theorem witness_ReadyIncrementsSwapAndWatch_watch : activeS.ply[0]? = some activeC ∧ activeS.plyCmd 9 = some activeC
    ∧ activeS.getReg (rBob 0x210) ≠ 0 ∧ activeC.since + (activeS.getReg (rBob 0x210)).toNat ≤ activeS.wall
    ∧ plyWaits activeC activeS = true := by decide +kernel

/-! ## Counters, contexts and training words -/

def selected (bobReg : Nat) (v : Word) (s : State) : State := reg (rBob bobReg) v s
/-- Counter 65535 is selected, and then a hold bit. -/
theorem witness_CounterWritesAndContextReset_counter :
    mgmtRuns (selected 0x14 65535 up) = true ∧ blockGated (selected 0x14 65535 up) (rBob 0x18) = false
    ∧ ((selected 0x14 65535 up).getReg (rBob 0x14)).getLsbD 16 = false ∧ ((selected 0x14 65536 up).getReg (rBob 0x14)).getLsbD 16 = true := by
  decide +kernel
/-- Context 0 with its PHASE_CLOSE waiting, and with a command outstanding. -/
def closingS : State := { up with bobs := [(3, { state := .enabled, outstanding := 1 })], ctxs := [(0, { closer := some (issued closeC, 0) })] }
theorem witness_CounterWritesAndContextReset_reset : mgmtRuns closingS = true ∧ blockGated closingS (rBob 0x1C) = false
    ∧ ctxOutstanding closingS 0 = (if (closingS.ctx 0).closer.isSome then 1 else 0) ∧ (up.ctx 4095).closer = none
    ∧ (up.trn 4095).jen = false ∧ ctxOutstanding up 4095 = 0 := by decide +kernel
theorem witness_CounterWritesAndContextReset_busy :
    ctxOutstanding reportS 0 ≠ (if (reportS.ctx 0).closer.isSome then 1 else 0) := by decide +kernel

/-- TRN_SEL names word `w` of context `c`. -/
def trnS (c w : Nat) (s : State) : State := selected 0x200 (BitVec.ofNat 32 (c + w * 2 ^ 12)) s
theorem witness_TrainingWordsWritten_readOnly : mgmtRuns (trnS 0 3 up) = true ∧ blockGated (trnS 0 3 up) (rBob 0x204) = false
    ∧ trnSelWord (trnS 0 3 up) = 3 ∧ trnSelWord (trnS 0 13 up) = 13 ∧ trnSelWord (trnS 0 15 up) = 15 := by decide +kernel
theorem witness_TrainingWordsWritten_busy : trnSelWord (trnS 0 2 reportS) = 2 ∧ ctxIdle (trnS 0 2 reportS) 0 = false := by decide +kernel
theorem witness_TrainingWordsWritten_written : trnSelCtx (trnS 4095 31 up) = 4095 ∧ trnSelWord (trnS 4095 31 up) = 31
    ∧ ctxIdle (trnS 4095 31 up) 4095 = true ∧ trnSelWord (trnS 4095 0 up) = 0 ∧ trnSelWord (trnS 4095 12 up) = 12 := by decide +kernel
/-- Context 0 with a ring at 0x10000, and with one that is not aligned. -/
def ringS (base : Nat) (m : List Host.Cell) (x : Trn) : State :=
  { up with trns := [(0, { x with jbase := BitVec.ofNat 48 base })], mem := m }
theorem witness_TrainingWordsWritten_journal : (8 : Word).getLsbD 3 = true ∧ trnSelWord (trnS 0 8 (ringS 0x10000 [] {})) = 8
    ∧ ctxIdle (trnS 0 8 (ringS 0x10000 [] {})) 0 = true ∧ ringOk (trnS 0 8 (ringS 0x10000 [] {})) ((ringS 0x10000 [] {}).trn 0) 0 = true
    ∧ ringOk (trnS 0 8 (ringS 0x8000 [] {})) ((ringS 0x8000 [] {}).trn 0) 0 = false := by decide +kernel
/-- A VALID entry without records, whose CRC is that of no bytes, and a ring without one. -/
def armS (valid : Nat) : State := trnS 0 14 (ringS 0x10000 (cells 0x10000 72 (valid * 2 ^ 48)) {})
def soundArm (s : State) (v : Word) : Bool :=
  let x := s.trn 0
  let h := rdNat s (jrnAddr x (v.toNat / 4 % 16)) 72
  let cnt := (List.range 4).map (fun i => bits h (8 * (48 + 4 * i)) 32)
  decide (v.toNat / 4 % 16 < 2 ^ x.jlog.toNat) && !rdPoison s (jrnAddr x (v.toNat / 4 % 16)) 72
    && (List.range 4).all (fun i => decide (cnt.getD i 0 ≤ jcapOf x i)) && !(jrnBody s x (jrnAddr x (v.toNat / 4 % 16)) cnt).any (·.poison)
    && nbit h 48 && decide (bits h 49 5 = 0) && decide (bits h 32 12 = 0)
    && decide ((crc32c ((jrnBody s x (jrnAddr x (v.toNat / 4 % 16)) cnt).map (·.val))).toNat = bits h 512 32)
theorem witness_ReplayArmsAndResumes_sound : mgmtRuns (armS 1) = true ∧ blockGated (armS 1) (rBob 0x204) = false ∧ trnSelWord (armS 1) = 14
    ∧ ctxIdle (armS 1) 0 = true ∧ (0x41 : Word).getLsbD 6 = true ∧ (0x41 : Word).getLsbD 7 = false ∧ (0x41 : Word).toNat % 4 = 1
    ∧ soundArm (armS 1) 0x41 = true := by decide +kernel
theorem witness_ReplayArmsAndResumes_unsound : soundArm (armS 0) 0x41 = false ∧ trnSelWord (armS 0) = 14 ∧ ctxIdle (armS 0) 0 = true := by
  decide +kernel
/-- A context held by a mismatch in mode 1, and one held by a capture point. -/
def heldS (reason : BitVec 2) : State := trnS 0 14 (ringS 0x10000 [] { mode := 1, held := true, reason })
theorem witness_ReplayArmsAndResumes_resume : (0x81 : Word).getLsbD 7 = true ∧ (0x81 : Word).getLsbD 6 = false
    ∧ ((heldS 2).trn 0).mode = (0x81 : Word).setWidth 2 ∧ ((heldS 2).trn 0).mode ≠ 3 ∧ ((0x81 : Word) >>> 2).setWidth 4 = ((heldS 2).trn 0).entry
    ∧ ((heldS 2).trn 0).held = true ∧ ((heldS 2).trn 0).reason = 2 ∧ ((heldS 1).trn 0).reason ≠ 2 ∧ ((heldS 1).trn 0).reason ≠ 3
    ∧ trnSelWord (heldS 2) = 14 := by decide +kernel

/-! ## Skeins and expert fetches -/

/-- A write of the last byte of skein 0, and a read of it whose cells flip. -/
theorem witness_SkeinAccessesAnswer : mgmtRuns up = true ∧ (Instr.skeinWrite 0x100 0x7FFFFFFFF [{ val := 5 }]).wf = true
    ∧ (Instr.skeinRead 0x100 0x7FFFFFFFF 1 [{ addr := 0x7FFFFFFE0, pattern := List.replicate 36 1 }]).wf = true := by decide +kernel
/-- Bucket 2 of skein 0 holds 1; the leak interval is none, and then one tick. -/
def bucketS : State := reg (rSkn 0 0x28) 0 { up with skn := [(0, { mode := .ready, buckets := [(2, 1)] })] }
theorem witness_LeakAndScrub_leak : bucketS.ready = true ∧ (bucketCfg bucketS 0).2.toNat ≤ elapsed bucketS.tick (bucketS.skein 0).leakFrom
    ∧ ((bucketS.skein 0).buckets.map (·.1)).Nodup := by decide +kernel
theorem witness_LeakAndScrub_noLeak :
    elapsed (reg (rSkn 0 0x28) 1 bucketS).tick ((reg (rSkn 0 0x28) 1 bucketS).skein 0).leakFrom < (bucketCfg (reg (rSkn 0 0x28) 1 bucketS) 0).2.toNat := by
  decide +kernel
/-- The last granule. -/
def scrubS : State := reg (rSkn 0 0x2C) 1 (reg (rSkn 0 0x30) 0 { up with skn := [(0, { mode := .ready, scrubPos := 3145727 })] })
theorem witness_LeakAndScrub_scrub : (Instr.scrubGranule 0 []).wf = true ∧ (scrubS.getReg (rSkn 0 0x2C)).getLsbD 0 = true
    ∧ (scrubS.skein 0).mode = .ready ∧ scrubS.gate.getLsbD (vecSkn 0) = true ∧ scrubS.rstBusy.getLsbD (vecSkn 0) = false
    ∧ (scrubS.getReg (rSkn 0 0x30)).toNat ≤ elapsed scrubS.tick (scrubS.skein 0).scrubFrom := by decide +kernel

/-- A fetch of expert 6 into slot 1 by carder 2. -/
def fetch6 (st : FetchSt) (owner : Option (Nat × Nat) := none) : Fetch :=
  { gid := 6, ent := 0x1000, slotEnt := 0x1040, slot := 1, slotAddr := 0x4000, slotSize := 64, st, owner, qpn := some 9 }
def crdS (f : Fetch) (op : List SqOp) : State := { up with crds := [(2, { fetches := [f] })], qps := [(9, { sq := op })] }
theorem witness_ExpertFetchesProceed_start :
    ((crdS (fetch6 .queued) []).crd 2).fetches.find? (fun g => g.st = .queued) = some (fetch6 .queued) ∧ crdRuns (crdS (fetch6 .queued) []) 2 = true
    ∧ (((crdS (fetch6 .queued) []).crd 2).fetches.filter (fun g => g.st = .flying)).length < fetchMax (crdS (fetch6 .queued) []) 2 := by decide +kernel
/-- Its entry names a blob of one byte, 0x61, with that byte's CRC-32C, 0xC1D04330. -/
def landS : State :=
  { crdS (fetch6 .flying) [{ op := .read 0 0 1 2 6, sent := true }] with mem := cells 0x1000 64 (2 ^ 224 + 0xC1D04330 * 2 ^ 256) }
theorem witness_ExpertFetchesProceed_complete : flyingFetch landS 2 6 = some (fetch6 .flying) ∧ opSent landS (some 9) (isReadOf 2 6) = true
    ∧ (ingress 9 (packetsOf (landS.qp 9) 1) {} landS).2 = true ∧ (landS.crd 2).job = none ∧ (readResid landS 0x1000).len = 1
    ∧ crc32c [0x61] = (readResid landS 0x1000).crc := by decide +kernel
theorem witness_ExpertFetchesProceed_timeout :
    flyingFetch { landS with wall := fetchTmo landS 2 } 2 6 = some (fetch6 .flying)
    ∧ (fetch6 .flying).since + fetchTmo { landS with wall := fetchTmo landS 2 } 2 ≤ fetchTmo landS 2 := by decide +kernel
def writeBackS : State :=
  { crdS (fetch6 .writeBack (some (5, 0x2000))) [{ op := .write 0 0 [] 2 5, sent := true }] with wall := 2 ^ 24 }
theorem witness_ExpertFetchesProceed_writeBack : flyingFetch writeBackS 2 5 = none
    ∧ flyingWrite writeBackS 2 5 = some (fetch6 .writeBack (some (5, 0x2000))) ∧ fetchTmo writeBackS 2 ≤ writeBackS.wall
    ∧ opSent writeBackS (some 9) (isWriteOf 2 5) = true ∧ (ingress 9 1 {} writeBackS).2 = true := by decide +kernel

/-! ## Ports and queue pairs -/

/-- Ports 0 and 16 pass frames; queue pair 9 is Dexornian on port 0, 10 is UD there, 12 is a host's on port 16. -/
def linked : State :=
  { up with
    prts := [(0, { en := true, link := true }), (16, { en := true, link := true })]
    qps := [(9, { state := 3, dex := true, rnrRetry := 7 }), (10, { state := 3, ud := true, qkey := 4 }),
      (12, { state := 3, port := 16, access := 7, bobEn := true, bobbin := 3 })] }
/-- A message on queue pair 9 of the header fields `fs`. -/
def msg (fs : List (Nat × Nat)) (pay : List Byte := []) : SendIn := { qpn := 9, bytes := header64 fs ++ pay }
def upM : SendIn := msg [(0, 0x15), (4, 7), (8, 1)]
def takeS : State := { linked with ply := [activeC] }
theorem witness_ReductionMessagesTaken_ack : (Instr.verdictUp upM).wf = true ∧ (takeS.qp 9).state = 3 ∧ (takeS.qp 9).ud = false
    ∧ (takeS.qp 9).dex = true ∧ portUp takeS 0 = true ∧ (ingress 9 1 {} takeS).2 = true ∧ messageOk upM.bytes = true
    ∧ (ingress 9 1 {} takeS).1.ply.find? (fun d => takesType d 0x15 && d.tag = 7 && d.rdid = 0
        && ((ingress 9 1 {} takeS).1.ctx (cCtx d.is.cmd)).step = 0) = some activeC
    ∧ (parseRMsg upM.bytes).src_ = 1 ∧ (verdictMsg activeC (parseRMsg upM.bytes) (ingress 9 1 {} takeS).1).2 = .ack := by decide +kernel
/-- A reduction of 257 blocks, the last of one element, and a contribution to that one: it lies one block beyond the accumulators. -/
def farC : PlyCmd := { is := issued reduceC, size := 2, tag := 7, elems := 524289, shard := 526336 }
def farM : SendIn := msg [(0, 0x10), (4, 7), (8, 1), (24, 256), (28, 1)] [5]
theorem witness_ReductionMessagesTaken_rnr : (Instr.reduce farM).wf = true ∧ messageOk farM.bytes = true ∧ takesType farC 0x10 = true
    ∧ (parseRMsg farM.bytes).tag = farC.tag ∧ (parseRMsg farM.bytes).rdid = farC.rdid
    ∧ (reduceMsg farC (parseRMsg farM.bytes) (farM.bytes.drop 64) { linked with ply := [farC] }).2 = .rnr := by decide +kernel
def noteM (t : Nat) : SendIn := msg [(0, t), (2, 4095), (16, 6)]
theorem witness_DexornianMessagesTaken_notes : (Instr.fetchNote (noteM 0x20)).wf = true ∧ (Instr.wbNote (noteM 0x21)).wf = true
    ∧ messageOk (noteM 0x20).bytes = true ∧ messageOk (noteM 0x21).bytes = true ∧ (ingress 9 1 {} linked).2 = true := by decide +kernel
def barrierM : SendIn := msg [(0, 0x30), (4, 7), (8, 1), (16, 65535)]
theorem witness_DexornianMessagesTaken_barrier : (Instr.barrier barrierM).wf = true ∧ messageOk barrierM.bytes = true
    ∧ groupByTag { linked with mem := groupMem } (BitVec.ofNat 32 (dexField barrierM.bytes 4 4))
        = some (0, { tag := 7, size := 2, rank := 0, ctx := 0, valid := true, peers := 0x2000 })
    ∧ dexField barrierM.bytes 8 2 = 1 := by decide +kernel
def holdM : SendIn := msg [(0, 0x40), (4, 7), (8, 1)]
theorem witness_DexornianMessagesTaken_hold : (Instr.replayHold holdM).wf = true ∧ messageOk holdM.bytes = true
    ∧ inReplay { linked with trns := [(0, { mode := 2, armed := true })] } 0 2 = true := by decide +kernel
def echoM (t : Nat) : SendIn := msg [(0, t), (16, 0xABCD)]
theorem witness_DexornianMessagesTaken_echo : (Instr.echoReq (echoM 0x50)).wf = true ∧ (Instr.echoRsp (echoM 0x51)).wf = true
    ∧ messageOk (echoM 0x50).bytes = true ∧ messageOk (echoM 0x51).bytes = true := by decide +kernel
theorem witness_DexornianMessagesTaken_stray : messageOk (msg [(0, 0x7F)]).bytes = false ∧ reductionType (msgType (msg [(0, 0x7F)]).bytes) = false := by
  decide +kernel
def udM (t : Nat) (key : Word) : SendIn := { qpn := 10, bytes := header64 [(0, t), (16, 0xABCD)], qkey := key, udSource := 77 }
theorem witness_DexornianMessagesTaken_ud : (linked.qp 10).ud = true ∧ (linked.qp 10).state = 3 ∧ portUp linked (linked.qp 10).port = true
    ∧ (ingressFrom 10 1 77 {} linked).2 = true ∧ (udM 0x50 4).qkey = (linked.qp 10).qkey ∧ (udM 0x50 5).qkey ≠ (linked.qp 10).qkey
    ∧ (Instr.echoReq (udM 0x50 4)).wf = true ∧ messageOk (udM 0x50 4).bytes = true ∧ (Instr.fetchNote (udM 0x20 4)).wf = true := by decide +kernel

/-- Region 0: the 64 KiB from 0x20000, every right. -/
def regionS : State := { linked with mem := cells 0 32 (0x20000 + 2 ^ 80 + 7 * 2 ^ 128 + 2 ^ 135), bobs := [(3, { state := .enabled })] }
def takenIn (k : Nat) : State := (ingress 12 k {} regionS).1
theorem witness_RemoteWritesLand_granted : takesRequests regionS 12 = true ∧ (ingress 12 1 {} regionS).2 = true
    ∧ takesRequests (takenIn 1) 12 = true ∧ regionOk (takenIn 1) ((takenIn 1).qp 12) 0 0x2FFFF 1 0 = true ∧ 0x2FFFF + 1 ≤ 0x010000000000
    ∧ sectorRefusal (takenIn 1) 0x2FFFF = none := by decide +kernel
theorem witness_RemoteWritesLand_immediate : ((takenIn 1).qp 12).bobEn = true ∧ ((takenIn 1).qp 12).dex = false ∧ 16 ≤ ((takenIn 1).qp 12).port
    ∧ ctlRuns (takenIn 1) = true ∧ ((takenIn 1).bob ((takenIn 1).qp 12).bobbin.toNat).state = .enabled
    ∧ ((32 : Word) - ((takenIn 1).bob 3).fetched).toNat ≤ 2 ^ ((takenIn 1).bob 3).entry.log2 := by decide +kernel
/-- One byte beyond the region. -/
theorem witness_RemoteWritesLand_refused : regionOk (takenIn 1) ((takenIn 1).qp 12) 0 0x2FFFF 2 0 = false := by decide +kernel
theorem witness_RemoteReadsAnswer : regionOk (takenIn 1) ((takenIn 1).qp 12) 0 0x2FFFE 2 1 = true ∧ Intact (takenIn 1) 0x2FFFE
    ∧ (rdByte (takenIn 1) 0x2FFFE).poison = false ∧ (rdByte (takenIn 1) 0x2FFFF).poison = false ∧ Intact (takenIn 1) 0x2FFFF
    ∧ classPaused (takenIn 1) ((takenIn 1).qp 12).port ((takenIn 1).qp 12).cls = false ∧ qptBase (takenIn 1) + 128 * 12 + 128 ≤ 0x2FFFE
    ∧ regionOk (takenIn 1) ((takenIn 1).qp 12) 0 0x2FFFE 3 1 = false := ⟨by decide +kernel, rfl, by decide +kernel, by decide +kernel, rfl,
      by decide +kernel, by decide +kernel, by decide +kernel⟩
theorem witness_FetchAndAddAdds : regionOk (takenIn 1) ((takenIn 1).qp 12) 0 0x2FFF8 8 2 = true ∧ populated 0x2FFF8 = true
    ∧ sectorRefusal (takenIn 1) 0x2FFF8 = none ∧ Intact (takenIn 1) 0x2FFF8 ∧ classify ((takenIn 1).errOf (0x2FFF8 / 32)) = .clean :=
  ⟨by decide +kernel, by decide +kernel, by decide +kernel, rfl, by decide +kernel⟩
theorem witness_FetchAndAddAdds_refused : regionOk (takenIn 1) ((takenIn 1).qp 12) 0 0x2FFF9 8 2 = false
    ∧ regionOk (takenIn 1) ((takenIn 1).qp 12) 0 0x2FFF7 8 2 = true ∧ 0x2FFF7 % 8 ≠ 0 := by decide +kernel

/-- Port 0 whose DATA class the peer has paused since tick 3, and to which this port has sent XOFF. -/
def pausedS (storm : Bool) (wall : Nat) : State :=
  reg (rPrt 0 0x1034) 8 { linked with prts := [(0, { en := true, link := true, pauseD := some 3, stormD := storm, xoffD := true })], wall }
theorem witness_PausesFollowPfc_xoffXon : portUp linked 0 = true ∧ (pauseOf (pausedS false 5) 0 false).isSome = true
    ∧ portUp (pausedS false 5) 0 = true := by decide +kernel
theorem witness_PausesFollowPfc_storm : pauseOf (pausedS false 11) 0 false = some 3
    ∧ 3 + ((pausedS false 11).getReg (rPrt 0 0x1034)).toNat = (pausedS false 11).wall ∧ stormOf (pausedS false 11) 0 false = false
    ∧ stormOf (pausedS true 11) 0 false = true := by decide +kernel
theorem witness_PausesFollowPfc_repeat : xoffOf (pausedS false 20000) 0 false = true ∧ occHigh (pausedS false 20000) 0 (2 ^ 20 + 1) = true
    ∧ halfPause (pausedS false 20000) 0 false = true ∧ occHigh (pausedS false 20000) 0 0 = false
    ∧ 0 + 65536 + headroomBytes (pausedS false 20000) 0 < 2 ^ 20 := by decide +kernel
/-- Its period ended at this tick, and its rate was 7 before. -/
def ratedS : State := { linked with qps := [(9, { state := 3, rate := 9, ccFrom := 6, ccOld := some (6, 7) })], wall := 2 ^ 24 + 6 }
theorem witness_RatesFollowCnp : (ratedS.qp 9).state = 3 ∧ portUp ratedS (ratedS.qp 9).port = true ∧ ratedS.ready = true
    ∧ (ratedS.qp 9).ccFrom + (ratedS.getReg (rPrt 0 0x1028)).toNat % 2 ^ 24 ≤ ratedS.wall := by decide +kernel
/-- Queue pair 9 awaits the answer to its operation `op`, after `t` retries of each kind. -/
def sentS (op : WireOp) (rnr t : Nat) : State :=
  { linked with
    qps := [(9, { state := 3, rnrRetry := rnr, rnrTries := t, retry := 3, tries := t, sq := [{ op, sent := true }] })], wall := 1332 }
theorem witness_AnswersAndTimeouts_ack : awaiting (sentS (.send [] none) 7 7) 9 = some (.send [] none)
    ∧ (ingress 9 1 {} (sentS (.send [] none) 7 7)).2 = true ∧ portUp (sentS (.send [] none) 7 7) 0 = true
    ∧ (sentS (.send [] none) 7 7).ply = [] ∧ awaiting (sentS (.send [] (some 9)) 7 0) 9 = some (.send [] (some 9)) := by decide +kernel
def backS : State := { sentS (.write 0 0 [] 2 5) 7 0 with crds := [(2, { fetches := [fetch6 .writeBack (some (5, 0x2000))] })] }
theorem witness_AnswersAndTimeouts_writeBack : awaiting backS 9 = some (.write 0 0 [] 2 5)
    ∧ flyingWrite backS 2 5 = some (fetch6 .writeBack (some (5, 0x2000))) := by decide +kernel
theorem witness_AnswersAndTimeouts_nak : (((sentS (.send [] none) 3 2).qp 9).rnrTries < ((sentS (.send [] none) 3 2).qp 9).rnrRetry)
    ∧ ((sentS (.send [] none) 3 3).qp 9).rnrRetry ≠ 7 ∧ ((sentS (.send [] none) 3 3).qp 9).rnrRetry ≤ ((sentS (.send [] none) 3 3).qp 9).rnrTries := by
  decide +kernel
theorem witness_AnswersAndTimeouts_timeout : ackExpired (sentS (.send [] none) 7 2) ((sentS (.send [] none) 7 2).qp 9) = true
    ∧ ((sentS (.send [] none) 7 2).qp 9).tries < ((sentS (.send [] none) 7 2).qp 9).retry
    ∧ ((sentS (.send [] none) 7 3).qp 9).retry ≤ ((sentS (.send [] none) 7 3).qp 9).tries := by decide +kernel
/-- Port 19 is up, port 0 was lost by a reset, port 16 is down. -/
def linksS : State :=
  reg (rPrt 0 0x28) 5 { linked with prts := [(0, { en := true, lost := true }), (16, { en := true }), (19, { en := true, link := true })] }
theorem witness_LinksComeAndGo_down : (linksS.prt 19).link = true ∧ (linksS.prt 0).lost = true ∧ (linksS.getReg (rPrt 0 0x28)).toNat % 2 ^ 24 = 5 := by
  decide +kernel
theorem witness_LinksComeAndGo_up : (linksS.prt 16).en = true ∧ (linksS.prt 16).link = false ∧ linksS.gate.getLsbD (vecPrt 16) = true
    ∧ linksS.rstBusy.getLsbD (vecPrt 16) = false := by decide +kernel
theorem witness_LinksComeAndGo_frames : portUp linked 16 = true ∧ (linked.qp 12).state = 3 ∧ (linked.qp 12).port = 16 ∧ portUp linked 20 = false
    ∧ linked.pkg.power = .on ∧ linked.pkg.resetLow = false ∧ linked.ndy.phase ≠ .held := by decide +kernel
/-- A sound entry of queue pair 2 at 256: port 19, MTU code 5. -/
def qpS : State := { linked with mem := cells 256 128 (19 * 2 ^ 8 + 5 * 2 ^ 26) }
theorem witness_QueuePairCommands_load : enters (.host 16) (rPrt 0 0x1018) qpS = true ∧ reachRefusal (.host 16) (rPrt 0 0x1018) qpS = none
    ∧ (qpS.qp 2).state = 0 ∧ rdPoison qpS (qptBase qpS + 2 * 128) 128 = false ∧ qpReservedOk (rdNat qpS (qptBase qpS + 2 * 128) 128) = true
    ∧ qpFieldsOk (parseQp (rdNat qpS (qptBase qpS + 2 * 128) 128)) = true := by decide +kernel
theorem witness_QueuePairCommands_states : (qpS.qp 9).sq = [] ∧ (qpS.qp 9).state ≠ 0
    ∧ (({ qpS with qps := [(9, { mig := 2 })] } : State).qp 9).mig = 2 ∧ (qpS.qp 9).mig ≠ 1 ∧ (qpS.qp 9).mig ≠ 2 := by decide +kernel

/-- No skein answers, so no group can be read. -/
def darkS : State := { linked with skn := [] }
theorem dark_poisons (a : Nat) : rdPoison darkS a 64 = true := by
  have h : (sectorRefusal darkS a).isSome = true := by
    unfold sectorRefusal
    simp only [show ∀ k, (darkS.skein k).mode = .off from fun _ => rfl]
    repeat' split
    all_goals simp_all
  obtain ⟨k, hk⟩ := Option.isSome_iff_exists.1 h
  simp only [rdPoison, rdBytes, List.any_map, List.any_eq_true]
  exact ⟨0, by simp, by simp [rdByte, hk]⟩
theorem witness_DexornianMessagesTaken_noGroup (t : Word) : groupByTag darkS t = none := by
  simp [groupByTag, readGroup, dark_poisons]

/-! ## Distaff and clock block -/

/-- Port 16 may write them. -/
theorem witness_DistaffRegistersWritten_reach : Reaches (.host 16) (rDst 0) linked ∧ Reaches (.host 16) (rDst 0x70) linked
    ∧ Reaches (.host 16) (rDst 0x74) linked ∧ Reaches (.host 16) (rDst 0x78) linked ∧ Reaches (.host 16) (rDst 0x94) linked
    ∧ Reaches (.host 16) (rDst 0x98) linked := by unfold Reaches; decide +kernel
def postedS : State := { linked with dst := { evrPosted := true } }
theorem witness_DistaffRegistersWritten_ring : linked.dst.evrPosted = false ∧ (0x20 : Word).toNat % 32 = 0
    ∧ evrOk linked (((0 : Word).setWidth 16 : BitVec 16).toNat * 2 ^ 32 + (linked.dst.heldLo.getD linked.dst.evrBaseLo).toNat)
        linked.dst.evrLog2.toNat = true ∧ evrOk linked (evrBase linked) 8 = true ∧ evrOk linked (evrBase linked) 20 = true
    ∧ postedS.dst.evrPosted = true ∧ Reaches (.host 16) (rDst 0x70) postedS ∧ Reaches (.host 16) (rDst 0x74) postedS
    ∧ Reaches (.host 16) (rDst 0x78) postedS := by unfold Reaches; decide +kernel
/-- Threshold 1, STOP_CTX and RESET_DEVICE, for PHASE_COUNT, and STOP_CTX for a kind without a context. -/
theorem witness_DistaffRegistersWritten_kind : (0x2A0001 : Word).toNat % 65536 ≠ 0 ∧ (0x2A0001 : Word).toNat / 65536 % 8 = 2
    ∧ (0x2A0001 : Word).toNat / 524288 % 8 = 5 ∧ kindHasCtx kPHASE_COUNT = true ∧ kindHasCtx kPARITY = false
    ∧ (0x2A0000 : Word).toNat % 65536 = 0 ∧ 6 ≤ (0x60001 : Word).toNat / 65536 % 8 ∧ 6 ≤ (0x300001 : Word).toNat / 524288 % 8 := by decide +kernel

def qmsg (k : Byte) (source : BitVec 16) : QMsg := { msg := { source, kind := k, flags := 0, addr := 5 }, charge := some 9 }
/-- One message waits, of kind PARITY from position 16, whose actions are `a`. -/
def waitingS (a : BitVec 3) : State :=
  { up with
    dst := { queues := [(0x10, [qmsg kPARITY 0x10])], cfg := [(kPARITY.toNat, { n := 1, actNormal := a, actSevere := a })] } }
theorem witness_FaultMessageAccepted_waits (a : BitVec 3) : mgmtRuns (waitingS a) = true ∧ nextSource (waitingS a) = some 0x10
    ∧ mget (waitingS a).dst.queues 0x10 [] = [qmsg kPARITY 0x10] := ⟨by rfl, by rfl, by rfl⟩
theorem witness_FaultMessageAccepted_actions : (kindCfg (waitingS actLog) kPARITY).actNormal = actLog
    ∧ (kindCfg (waitingS actEvent) kPARITY).actSevere = actEvent ∧ (kindCfg (waitingS actStop) kPARITY).actNormal = actStop
    ∧ (kindCfg (waitingS actStop) kPARITY).actSevere = actStop ∧ (kindCfg (waitingS actResetUnit) kPARITY).actNormal = actResetUnit
    ∧ (kindCfg (waitingS actResetUnit) kPARITY).actSevere = actResetUnit ∧ (kindCfg (waitingS actRetire) kPARITY).actNormal = actRetire
    ∧ (kindCfg (waitingS actRetire) kPARITY).actSevere = actRetire ∧ (kindCfg (waitingS actResetDevice) kPARITY).actNormal = actResetDevice
    ∧ (kindCfg (waitingS actResetDevice) kPARITY).actSevere = actResetDevice := by decide +kernel
theorem witness_FaultMessageAccepted_unit : resetTarget 0x10 = some 16 ∧ resetTarget 0x51F = some 95 ∧ retireTarget 0x10 = some 16
    ∧ isRetired (waitingS actRetire) 16 = false ∧ (waitingS actRetire).rstBusy.getLsbD 16 = false ∧ (waitingS actRetire).ready = true := by
  decide +kernel

theorem witness_RetireAndReturn_retire : Reaches (.host 16) (rDst 0xA0) linked ∧ linked.wearOf (rDst 0xA0) < 100000
    ∧ (linked.pers (rDst 0xA0)).getLsbD 16 = false ∧ linked.rstBusy.getLsbD 16 = false ∧ (16, 16) ∈ retiredBits 0 ∧ (19, 115) ∈ retiredBits 3
    ∧ ({ linked with rstBusy := 0x10000 } : State).rstBusy.getLsbD 16 = true := by unfold Reaches; decide +kernel
def retiredS : State := { linked with rwp := [(rDst 0xA0, 0x10000)], gate := linked.gate &&& ~~~0x10000 }
theorem witness_RetireAndReturn_return : Reaches (.host 16) (rDst 0xA0) retiredS ∧ retiredS.wearOf (rDst 0xA0) < 100000
    ∧ (∀ e ∈ retiredBits 0, (0 : Word).getLsbD e.1 = true → (retiredS.pers (rDst 0xA0)).getLsbD e.1 = true)
    ∧ (retiredS.pers (rDst 0xA0)).getLsbD 16 = true := by unfold Reaches; decide +kernel

theorem witness_GatesSleepsAndResets_reach (w : BitVec 2) : Reaches (.host 16) (rClk (0x40 + 4 * w.toNat)) linked
    ∧ Reaches (.host 16) (rClk (0x60 + 4 * w.toNat)) linked ∧ Reaches (.host 16) (rClk (0x80 + 4 * w.toNat)) linked := by
  unfold Reaches; revert w; decide +kernel
/-- The first and last places, one without a sleep and one without a reset. -/
theorem witness_GatesSleepsAndResets_bits : vecUsed 0 = true ∧ vecUsed 115 = true ∧ vecUsed 116 = false
    ∧ (∃ b, b < 32 ∧ vecUsed (32 * 2 + b) = true ∧ vecHasSleep (32 * 2 + b) = false)
    ∧ (∃ b, b < 32 ∧ vecUsed (32 * 0 + b) = true ∧ vecHasReset (32 * 0 + b) = false)
    ∧ vecHasSleep 21 = true ∧ vecHasReset 115 = true := by decide +kernel

theorem witness_ClockFileWritten_reach : Reaches (.host 16) (rClk 0xA0) linked ∧ Reaches (.host 16) (rClk 0xB0) linked
    ∧ Reaches (.host 16) (rClk 0x10) linked ∧ Reaches (.host 16) (rClk 0x500) linked := by unfold Reaches; decide +kernel
theorem witness_ClockFileWritten_run (i : BitVec 7) : Reaches (.host 16) (rClk (0x100 + 4 * i.toNat)) linked
    ∧ Reaches (.host 16) (rClk (0x300 + 4 * i.toNat)) linked := by unfold Reaches; revert i; decide +kernel
/-- Each limit of ISSUE at 1, at 64, at 0 and at 65; a meter window of 10, 24, 9 and 25 bits, counters 7 and 8. -/
theorem witness_ClockFileWritten_values : (∀ j, j < 4 → (0x40014001 : Word).toNat / 2 ^ (8 * j) % 128 = 1 ∨ (0x40014001 : Word).toNat / 2 ^ (8 * j) % 128 = 64)
    ∧ (0x40414000 : Word).toNat / 2 ^ (8 * 0) % 128 = 0 ∧ 64 < (0x40414000 : Word).toNat / 2 ^ (8 * 2) % 128
    ∧ (0x5A5A : Word).toNat % 65536 = 0x5A5A ∧ (0x5A5B : Word).toNat % 65536 ≠ 0x5A5A
    ∧ (0xA77 : Word).toNat % 16 = 7 ∧ (0xA77 : Word).toNat / 16 % 16 = 7 ∧ (0xA77 : Word).toNat / 256 % 32 = 10
    ∧ (0x1800 : Word).toNat / 256 % 32 = 24 ∧ (0x900 : Word).toNat / 256 % 32 < 10 ∧ 24 < (0x1900 : Word).toNat / 256 % 32
    ∧ 7 < (0xA08 : Word).toNat % 16 ∧ 7 < (0xA80 : Word).toNat / 16 % 16 := by decide +kernel
def spareS : State := { linked with spare := 0x13 }
theorem witness_ClockFileWritten_spare : linked.spareReq = none ∧ (0x13 : Word).getLsbD 4 = true ∧ isRetired linked 16 = false
    ∧ linked.spare.getLsbD 4 = false ∧ mget linked.wear (rClk 0xB0) 0 < 100000 ∧ (3 : Word).getLsbD 4 = false ∧ spareS.spare.getLsbD 4 = true
    ∧ isRetired spareS (spareS.spare.toNat % 16) = false ∧ ({ linked with spareReq := some (3, 0) } : State).spareReq.isSome = true := by
  decide +kernel

/-- Position 16 is asked to sleep, and sleeps since `wall` 10. -/
def sleepyS : State := { linked with sleepReq := 0x10000, gate := linked.gate &&& ~~~0x10000 }
def sleepsS : State := { linked with asleep := 0x10000, wakeAt := [(16, 10)], wall := 660 }
theorem witness_StopsWakesAndMeasures_sleep : (Instr.sleepEntry 16).wf = true ∧ vecHasSleep 16 = true ∧ sleepyS.ready = true
    ∧ sleepyS.sleepReq.getLsbD 16 = true ∧ sleepyS.asleep.getLsbD 16 = false ∧ sleepyS.rstBusy.getLsbD 16 = false ∧ vecBusy sleepyS 16 = false := by
  decide +kernel
theorem witness_StopsWakesAndMeasures_wake : (Instr.wake 16).wf = true ∧ mfind sleepsS.wakeAt 16 = some 10 ∧ sleepsS.asleep.getLsbD 16 = true
    ∧ 10 + 650 ≤ sleepsS.wall ∧ sleepsS.rstBusy.getLsbD 16 = false := by decide +kernel
def resettingS : State := { linked with rstBusy := 0x10000, retireWait := 0x10000 }
theorem witness_StopsWakesAndMeasures_reset : (Instr.unitResetDone 16).wf = true ∧ resettingS.rstBusy.getLsbD 16 = true
    ∧ resettingS.asleep.getLsbD 16 = false := by decide +kernel
def agedS : State := { retiredS with whl := { retiredAt := [(16, 7)] }, wall := 325007 }
theorem witness_StopsWakesAndMeasures_retired : (Instr.retiredSleep 16).wf = true ∧ agedS.ready = true ∧ isRetired agedS 16 = true
    ∧ vecHasSleep 16 = true ∧ mfind agedS.whl.retiredAt 16 = some 7 ∧ 7 + 325000 ≤ agedS.wall := by decide +kernel
/-- A count one beyond what DRIFT_PPM of 100 allows, and one at it. -/
def driftS : State := reg (rClk 0x510) 100 { linked with fmRun := true }
theorem witness_StopsWakesAndMeasures_measure : driftS.fmRun = true ∧ driftS.ndy.phase ≠ .windows ∧ driftS.clocksOn = true
    ∧ driftS.driftOdd = false ∧ 130744 * ((driftS.getReg (rClk 0x510)).toNat % 65536) < ((130758 - 130744) + (130744 - 130758)) * 1000000
    ∧ ((130757 - 130744) + (130744 - 130757)) * 1000000 ≤ 130744 * ((driftS.getReg (rClk 0x510)).toNat % 65536) := by decide +kernel

/-! ## Package and boot -/

def pkgS (k : Pkg) (w : Nat := 0) : State := { up with pkg := k, wall := w }
theorem witness_ResetsReachEverything_power : (pkgS { power := .off }).pkg.power = .off ∧ up.pkg.power = .on ∧ up.clocksOn = true
    ∧ up.pkg.resetLow = false ∧ (pkgS { tap := .extest }).pkg.tap = .extest ∧ up.pkg.tap = .idcode := by decide +kernel
/-- Two trips within the last second, and 10 ms since the last. -/
theorem witness_ResetsReachEverything_trips : (pkgS { power := .thermal }).pkg.power = .thermal
    ∧ 2 ≤ (pkgS { trips := [9, 1] } 325000000).pkg.trips.countP (fun w => decide (325000000 < w + 325000000))
    ∧ (pkgS { power := .tripped, trips := [9] } 3250009).pkg.power = .tripped ∧ 9 + 3250000 ≤ (pkgS { power := .tripped, trips := [9] } 3250009).wall := by
  decide +kernel
/-- Every die sensor at `d`, every skein at `k`. -/
def sample (d k : BitVec 16) (p : Nat := 100) : Sample :=
  { power := p, die := List.replicate 64 d, skn := List.replicate 32 k, rails := List.replicate 8 (0, 0) }
theorem witness_ResetsReachEverything_release : (sample (16 * 95) (16 * 80)).wf = true
    ∧ (∀ x ∈ (sample (16 * 95) (16 * 80)).die, x.toInt ≤ 16 * 95) ∧ (∀ x ∈ (sample (16 * 95) (16 * 80)).skn, x.toInt ≤ 16 * 80) :=
  ⟨by decide +kernel, fun x h => by rw [List.eq_of_mem_replicate h]; decide, fun x h => by rw [List.eq_of_mem_replicate h]; decide⟩
/-- A table with every threshold one step above the one before. -/
def wtab : List Byte :=
  leBytes 8 (1500 + 2 ^ 16 + 2 ^ 32 + 3 * 2 ^ 40) ++ List.replicate 64 64 ++ (List.range 15).flatMap (fun i => leBytes 2 (16 * (60 + i)))
    ++ leBytes 2 16 ++ (List.range 15).flatMap (fun i => leBytes 2 (16 * (60 + i))) ++ leBytes 2 16
    ++ leBytes 2 (16 * 85) ++ leBytes 2 (16 * 90) ++ leBytes 2 16 ++ leBytes 2 (16 * 105) ++ leBytes 2 (16 * 95) ++ leBytes 2 10
    ++ leBytes 4 960 ++ leBytes 2 (16 * 40) ++ List.replicate 102 0
def tabledS : State := { linked with whl := { table := wtab, die := List.replicate 64 (16 * 115), skn := List.replicate 32 0, flowBelow := some 5 }, wall := 325000005 }
theorem witness_WhorlPeriodActs_trip : (sample (16 * 115) 0).wf = true ∧ tabledS.pkg.power = .on ∧ tabledS.pkg.resetLow = false
    ∧ tripsNow tabledS (sample (16 * 115) 0) = true := by decide +kernel
theorem witness_WhorlPeriodActs_period : tripsNow tabledS (sample (16 * 114) 0) = false ∧ tripsNow up (sample (16 * 115) 0) = false
    ∧ up.whl.table = [] ∧ tabledS.whl.table ≠ [] ∧ tabFlowEn tabledS.whl.table = true := by decide +kernel
theorem witness_WhorlPeriodActs_flow : tabFlowEn tabledS.whl.table = true ∧ tabledS.whl.flowLow = false ∧ tabledS.whl.flowBelow = some 5
    ∧ 5 + 325000000 ≤ tabledS.wall ∧ ({ tabledS with whl := { flowLow := true, flowAbove := some 5 } } : State).whl.flowAbove = some 5 := by
  decide +kernel
/-- Word 0 may get a cap of 3000, not of 3001. -/
theorem witness_WhorlPeriodActs_table : Reaches (.host 16) (rWhl 0x34) tabledS ∧ (tabledS.getReg (rWhl 0x30)).toNat % 64 = 0
    ∧ tabledS.whl.table.length = 256 ∧ tabOk (leBytes 4 (3000 + 2 ^ 16) ++ wtab.drop 4) = true ∧ tabOk (leBytes 4 (3001 + 2 ^ 16) ++ wtab.drop 4) = false := by
  unfold Reaches; decide +kernel

def heldDev : State := { State.reset with pkg := {} }
def started (s : State) : State :=
  { setNdy (fun n => { n with fast := true, trainFail := [], step := 0 }) s with out := s.out ++ [.xspiReset] }
theorem witness_BootProceeds_start : heldDev.pkg.power = .on ∧ heldDev.pkg.resetLow = false ∧ heldDev.ndy.phase = .held ∧ heldDev.ready = false
    ∧ heldDev.pers (rPrt 20 4) = 0 ∧ heldDev.pers (rPrt 20 8) = 0 := by decide +kernel
/-- The header of image slot 0: KEYSLOT 0, SEQ 5, 4,096 bytes, one table. -/
def headerNvm : AMap Byte :=
  (List.range 256).map (fun j => (slotBase 0 + j, BitVec.ofNat 8
    ((0x44575053 + 2 ^ 32 + 0x0768 * 2 ^ 48 + 0x0A * 2 ^ 64 + 2 ^ 72 + 5 * 2 ^ 96 + 4096 * 2 ^ 128 + 2 ^ 160) / 256 ^ j)))
def imagedDev : State := { heldDev with nvm := headerNvm, fuses := { prog := 1 } }
def scanned (s : State) : State := setNdy (fun n => { n with step := 1 }) (bootPersist (started s))
/-- Whether the NVM takes the count of this boot or not (a free value). -/
theorem witness_BootProceeds_noImage : candidates (scanned heldDev) = [] := by
  unfold scanned bootPersist countBoot lifeCount persistFree
  generalize Config.freeBool _ = b
  revert b; decide +kernel
theorem witness_BootProceeds_badImage : candidates (scanned imagedDev) = [0] := by
  unfold scanned bootPersist countBoot lifeCount persistFree
  generalize Config.freeBool _ = b
  revert b; decide +kernel
theorem witness_BootProceeds_readError : badSlot { readError := some (.image false) } = some 0 ∧ badSlot {} ≠ some 0 := by decide +kernel
/-- The 63rd window is over, two passes running before it. -/
def windowS (w p : Nat) : State := { State.reset with nvm := headerNvm, ndy := { phase := .windows, windows := w, passes := p } }
theorem witness_BootProceeds_windows : (windowS 63 2).ndy.phase = .windows ∧ 64 ≤ (windowS 63 2).ndy.windows + 1 ∧ (windowS 62 2).ndy.windows + 1 < 64
    ∧ (bootUnits (clocksUp (windowS 63 2))).ndy.phase ≠ .held
    ∧ ({ State.reset with ndy := { phase := .waitRef } } : State).ndy.phase = .waitRef := by decide +kernel
/-- Step 10, every skein in training, its last tick before READY and with skein 31 failed. -/
def placedDev (fail : List (BitVec 5 × BitVec 5)) : State :=
  { State.reset with ndy := { phase := .placed, trainFail := fail }, skn := (List.range 32).map (fun k => (k, { mode := .training })), wall := 7052500 }
theorem witness_BootProceeds_ready : (placedDev []).ndy.phase = .placed ∧ (placedDev []).ready = false
    ∧ (placedTables (endFilling (endTraining (placedDev [])))).all (placedOk (endFilling (endTraining (placedDev [])))) = true
    ∧ (placedTables (endFilling (endTraining (placedDev [(0, 0)])))).all (placedOk (endFilling (endTraining (placedDev [(0, 0)])))) = false := by
  decide +kernel
theorem witness_BootProceeds_fail : ({ State.reset with ndy := { phase := .failing, reason := 0xF0 } } : State).ndy.phase = .failing := rfl
theorem witness_BootProceeds_reason : imageReason imagedDev 0 = some 0xF3 := by decide +kernel

/-! ## Registers, fuses and the management port -/

theorem witness_RegisterAccessesFollowTheirTypes_fence : (17 : BitVec 5).toNat < 18 ∧ Reaches (.host 16) (rSkn 31 0x23C) linked
    ∧ Reaches (.host 16) (rSkn 31 0x244) linked ∧ (0x80002FFF : Word).toNat % 16384 < 12288 ∧ 12288 ≤ (0x3000 : Word).toNat % 16384
    ∧ (0x80001F6F : Word).toNat / 32 % 16 = 11 ∧ 12 ≤ (0x180 : Word).toNat / 32 % 16 ∧ linked.wearOf (rSkn 31 0x244) < 100000 := by
  unfold Reaches; decide +kernel
def wornS : State := { linked with wear := [(rPrt 19 0x1C, 100000)] }
theorem witness_RegisterAccessesFollowTheirTypes_identity : Reaches (.host 16) (rPrt 19 0x1C) linked
    ∧ (BitVec.ofNat 48 (regBase + rPrt 19 0x1C) : Addr).toNat = regBase + rPrt 19 0x1C ∧ linked.wearOf (rPrt 19 0x1C) < 100000
    ∧ Reaches (.host 16) (rPrt 19 0x1C) wornS ∧ 100000 ≤ wornS.wearOf (rPrt 19 0x1C) := by unfold Reaches; decide +kernel
/-- IND_SEL, a plain register; IDENT, which is read-only; a misaligned offset. -/
theorem witness_RegisterAccessesFollowTheirTypes_plain : Reaches (.host 16) (rBob 0x14) linked ∧ (regRow (rBob 0x14)).isSome = true
    ∧ Reaches (.host 16) (rNdy 0) linked ∧ rNdy 0 < 0x0E000000 ∧ (regRow (rNdy 0)).all (fun r => r.allRo || r.isRc) = true
    ∧ enters (.host 16) (rNdy 2) linked = true ∧ rNdy 2 % 4 ≠ 0
    ∧ (BitVec.ofNat 48 (regBase + rBob 0x14) : Addr).toNat = regBase + rBob 0x14 := by unfold Reaches; decide +kernel
theorem witness_RegisterAccessesFollowTheirTypes_counter : portUp linked 16 = true ∧ reachRefusal (.host 16) (rPrt 0 0x50) linked = none
    ∧ (regRow (rPrt 0 0x50)).any (·.isRc) = true := by decide +kernel

def fuseS (prog revoked : BitVec 4) : State := { up with fuses := { prog, revoked } }
/-- Slots 0 and 3 are programmed, and slot 0 is revoked. -/
theorem witness_FusesBurnOnce : Reaches .mgmt (rNdy 0x24) (fuseS 9 0) ∧ (fuseS 9 0).ndy.fuse = none ∧ (0xF05E0001 : Word).toNat % 4 = 1
    ∧ (0xF05E0001 : Word).toNat / 65536 = 0xF05E ∧ (0xF05E000E : Word).toNat % 4 = 2 ∧ (0xF05E000E : Word).toNat / 4 % 4 = 3
    ∧ (fuseS 9 0).fuses.prog.getLsbD 3 = true ∧ (∃ i, i < 4 ∧ i ≠ 3 ∧ (fuseS 9 0).fuses.prog.getLsbD i = true ∧ (fuseS 9 0).fuses.revoked.getLsbD i = false)
    ∧ (∀ i, i < 4 → i ≠ 3 → (fuseS 9 1).fuses.prog.getLsbD i = true → (fuseS 9 1).fuses.revoked.getLsbD i = true)
    ∧ Reaches (.host 16) (rNdy 0x24) linked ∧ linked.ndy.fuse = none := by unfold Reaches; decide +kernel

/-- READY at its first telemetry copy and its first day, with one register in the frame and a NOTICE that waits. -/
def dutyS : State :=
  { up with
    ndy := { up.ndy with telem := [rDst 4], frame := [(0, 0)], ip4 := 0x0A000001, notice := some [] }, wall := 28080000000 }
theorem witness_NiddyDutiesRun_copy : dutyS.ndy.phase = .ready ∧ dutyS.ndy.telemAt + 325000 ≤ dutyS.wall
    ∧ dutyS.ndy.frame.length = dutyS.ndy.telem.length ∧ (∀ a ∈ dutyS.ndy.telem, reachRefusal .niddy a dutyS = none)
    ∧ dutyS.ndy.dayAt + 28080000000 ≤ dutyS.wall := by decide +kernel
theorem witness_NiddyDutiesRun_neighbour : mgmtRuns dutyS = true ∧ (0x0A000001 : BitVec 128).toNat % 2 ^ 32 = dutyS.ndy.ip4 ∧ dutyS.ndy.ip4 ≠ 0
    ∧ (0x0A000002 : BitVec 128).toNat % 2 ^ 32 ≠ dutyS.ndy.ip4 ∧ (BitVec.ofNat 128 (linkLocal 7)).toNat = linkLocal 7 := by decide +kernel
theorem witness_NiddyDutiesRun_notice : dutyS.ndy.notice = some [] ∧ ({ dutyS with wall := 325000000 } : State).wall ≤ dutyS.ndy.noticeAt + 325000000
    ∧ dutyS.ndy.noticeAt + 325000000 < dutyS.wall := by decide +kernel

/-- A management request: OP, TAG, address, LENGTH and data. -/
def req (op tag addr len : Nat) (d : List Byte := []) : MgmtIn :=
  { mac := 5, ip := 6, frame := leBytes 24 (op + tag * 2 ^ 32 + addr * 2 ^ 64 + len * 2 ^ 128) ++ d }
theorem witness_ManagementRequestsServed_frames :
    mgmtRuns up = true ∧ (Instr.regRead (req 1 5 0 4)).wf = true ∧ (Instr.regWrite (req 2 5 0 4)).wf = true ∧ (Instr.telemRead (req 3 5 0 4)).wf = true
    ∧ (Instr.nvmRead (req 4 5 0 4)).wf = true ∧ (Instr.nvmErase (req 5 5 0 0)).wf = true ∧ (Instr.nvmProgram (req 6 5 0 0)).wf = true
    ∧ mFrameOk (req 1 5 0 1025).frame = false ∧ ([(5, [])] : List (Word × List Byte)).find? (fun e => e.1 = mTag (req 1 5 0 4).frame) = some (5, [])
    ∧ up.wall < up.ndy.telemAt + 325000 ∧ up.wall < up.ndy.dayAt + 28080000000 := by decide +kernel
theorem asked_of {m : MgmtIn} {s : State} (h1 : mgmtRuns s = true) (h2 : s.ndy.tags = []) (h3 : mFrameOk m.frame = true) : Asked m s :=
  ⟨h1, by rw [h2]; exact (fun _ h => by cases h), h3⟩
def readReq : MgmtIn := req 1 5 (regBase + rNdy 0) 4
theorem witness_ManagementRequestsServed_read : Asked readReq up ∧ opWf 1 readReq = true ∧ mOp readReq.frame = 1 ∧ mLen readReq.frame = 4
    ∧ mAddr readReq.frame = regBase + rNdy 0 ∧ reachRefusal .mgmt (rNdy 0) up = none ∧ rNdy 0 % 4 = 0 :=
  ⟨asked_of (by decide +kernel) rfl (by decide +kernel), by decide +kernel⟩
def writeReq (off v : Nat) : MgmtIn := req 2 5 (regBase + off) 4 (leBytes 4 v)
theorem witness_ManagementRequestsServed_write : Asked (writeReq (rDst 0x44) 7) up ∧ opWf 2 (writeReq (rDst 0x44) 7) = true
    ∧ mAddr (writeReq (rDst 0x44) 7).frame = regBase + rDst 0x44 ∧ mLen (writeReq (rDst 0x44) 7).frame = 4 ∧ (regRow (rDst 0x44)).isSome = true :=
  ⟨asked_of (by decide +kernel) rfl (by decide +kernel), by decide +kernel⟩
theorem witness_ManagementRequestsServed_reset : Asked (writeReq (rClk 0x10) 0x5A5A) up ∧ mAddr (writeReq (rClk 0x10) 0x5A5A).frame = regBase + rClk 0x10
    ∧ tabField (writeReq (rClk 0x10) 0x5A5A).frame 24 2 = 0x5A5A :=
  ⟨asked_of (by decide +kernel) rfl (by decide +kernel), by decide +kernel⟩
/-- The last byte of the NVM, and one beyond it. -/
theorem witness_ManagementRequestsServed_nvmRead : Asked (req 4 5 0x3FFFFFF 1) up ∧ mAddr (req 4 5 0x3FFFFFF 1).frame + mLen (req 4 5 0x3FFFFFF 1).frame = 0x4000000
    ∧ Asked (req 4 5 0x3FFFFFF 2) up ∧ 0x4000000 < mAddr (req 4 5 0x3FFFFFF 2).frame + mLen (req 4 5 0x3FFFFFF 2).frame :=
  ⟨asked_of (by decide +kernel) rfl (by decide +kernel), by decide +kernel, asked_of (by decide +kernel) rfl (by decide +kernel), by decide +kernel⟩
/-- Slot 1, not running, may be erased and programmed; the running slot 0 may not. -/
theorem witness_ManagementRequestsServed_nvmErase : Asked (req 5 5 0x1000000 0) up ∧ mAddr (req 5 5 0x1000000 0).frame % 65536 = 0
    ∧ nvmWritable up 0x1000000 = true ∧ nvmWritable up 0 = false ∧ mAddr (req 5 5 0x1000100 0).frame % 65536 ≠ 0 :=
  ⟨asked_of (by decide +kernel) rfl (by decide +kernel), by decide +kernel⟩
theorem witness_ManagementRequestsServed_nvmProgram : Asked (req 6 5 0x1FFFFFF 1 [7]) up ∧ nvmRangeOk up 0x1FFFFFF 1 = true
    ∧ nvmRangeOk up 0 1 = false ∧ up.nvmByte 0x1FFFFFF = 0xFF ∧ (mData (req 6 5 0x1FFFFFF 1 [7]).frame).length = 1 :=
  ⟨asked_of (by decide +kernel) rfl (by decide +kernel), by decide +kernel⟩
theorem witness_ManagementRequestsServed_telemetry : Asked (req 3 5 0 8) up ∧ opWf 3 (req 3 5 0 8) = true :=
  ⟨asked_of (by decide +kernel) rfl (by decide +kernel), by decide +kernel⟩
/-- An empty chain, a transcript, and 1,025 bytes to fetch. -/
def spdmS : State :=
  { up with
    nvm := [(0x2200000, 0), (0x2200001, 0)]
    ndy := { up.ndy with transcript := some [7], large := some { handle := 3, bytes := List.replicate 1025 1 } } }
theorem witness_SpdmRequestsAnswered : mgmtRuns spdmS = true ∧ (0 : BitVec 16).toNat ≤ (certChain spdmS).length ∧ (List.replicate 32 (0 : Byte)).length = 32
    ∧ (6 : BitVec 8).toNat ≤ 6 ∧ (255 : BitVec 8).toNat = 255 ∧ spdmS.ndy.transcript = some [7] ∧ up.ndy.transcript = none
    ∧ spdmS.ndy.large = some { handle := 3, bytes := List.replicate 1025 1 } ∧ (1 : BitVec 16).toNat * 1024 < (List.replicate 1025 (1 : Byte)).length := by
  decide +kernel
/-- The offset registers of block 6 can be read; those of block 5 cannot. -/
def smbS (off : Nat) : State := { up with ndy := { up.ndy with smb := BitVec.ofNat 32 off, step := 8 } }
theorem witness_SmbusAndJtagAnswer : (smbS (rDst 0)).pkg.power = .on ∧ (6 ≤ (smbS (rDst 0)).ndy.smb.toNat / 16777216 ∧ (smbS (rDst 0)).ndy.smb.toNat / 16777216 ≤ 9
      ∧ (smbS (rDst 0)).ndy.smb.toNat / 65536 % 256 = 0) ∧ reachRefusal .niddy (rDst 0) (smbS (rDst 0)) = none
    ∧ ¬ (6 ≤ (smbS (rPrt 0 0)).ndy.smb.toNat / 16777216 ∧ (smbS (rPrt 0 0)).ndy.smb.toNat / 16777216 ≤ 9
      ∧ (smbS (rPrt 0 0)).ndy.smb.toNat / 65536 % 256 = 0) ∧ (smbS 0).ndy.step = 8 := by decide +kernel

/-! ## The machine -/

theorem witness_StepRunsFrontCommand : ({ up with pending := [.testReset] } : State).pending = Instr.testReset :: [] ∧ up.pending = [] := by
  decide +kernel
/-- A skein in its last tick of training, in its first of the fill, and in its first of READY. -/
theorem witness_TickAdvancesTime : (placedDev []).pending = [] ∧ (placedDev []).ndy.phase = .placed
    ∧ ((placedDev []).skein 31).mode = .training ∧ up.ndy.phase ≠ .placed ∧ up.ndy.nvmq = [] ∧ up.ndy.compactAt = none ∧ up.ndy.eraseAt = none := by
  decide +kernel
theorem witness_CommandsAnswer : (Instr.testReset).wf = true ∧ (Instr.engineCompletion 54).wf = false := by decide +kernel
/-- The epochs differ by one. -/
def staleS (u : Nat) (c : Cmd) : State := { at_ u c [] with epochs := [(u, 1)] }
theorem witness_StaleEpochRefused : frontOf (staleS 17 gatherC) 17 0x40 = some (issued gatherC) ∧ cEpoch (issued gatherC).cmd ≠ (staleS 17 gatherC).epoch 17
    ∧ frontOf (runFrees 0 (staleS 48 normFwdC)) 48 0x80 = some (issued normFwdC)
    ∧ cEpoch (issued normFwdC).cmd ≠ (runFrees 0 (staleS 48 normFwdC)).epoch 48
    ∧ plyFront (staleS 52 verdictC) 0xA2 = some (issued verdictC) ∧ cEpoch (issued verdictC).cmd ≠ (staleS 52 verdictC).epoch 52 := by decide +kernel
def seqS : State := { linked with ndy := { up.ndy with seq := 5 }, rwp := [(rNdy 0xC, 4)] }
theorem witness_MinSeqOnlyRises : (BitVec.ofNat 48 (regBase + rNdy 0xC) : Addr).toNat = regBase + rNdy 0xC ∧ Reaches (.host 16) (rNdy 0xC) seqS
    ∧ (3 : Word).toNat < (seqS.pers (rNdy 0xC)).toNat ∧ seqS.ndy.seq.toNat < (6 : Word).toNat
    ∧ imgSeq { imagedDev with rwp := [(rNdy 0xC, 6)] } 0 < (({ imagedDev with rwp := [(rNdy 0xC, 6)] } : State).pers (rNdy 0xC)).toNat := by
  unfold Reaches; decide +kernel
theorem witness_FusesNeverClear : ∃ t, step { fuseS 9 1 with pending := [.powerDown] } = .next t ∧ t.fuses.prog = 9 := ⟨_, rfl, by decide +kernel⟩
theorem witness_StepKeepsSound : Sound State.reset ∧ ∃ t, step State.reset = .next t :=
  ⟨⟨by decide +kernel, by decide +kernel, (fun _ h => by cases h), by decide +kernel, by decide +kernel⟩, _, rfl⟩

/-! ## Well-formedness: one ill-formed command for each check -/

theorem wf_refuses_reporter : (Instr.engineCompletion 54).wf = false := by decide
theorem wf_refuses_empty_read : (Instr.skeinRead 0x100 0 0 []).wf = false := by decide
theorem wf_refuses_read_over_slot : (Instr.skeinRead 0x100 0x7FFFFFFFF 2 []).wf = false := by decide
theorem wf_refuses_write_over_memory : (Instr.skeinWrite 0x100 0xFFFFFFFFFF [{}, {}]).wf = false := by decide
theorem wf_refuses_upset_inside_sector : (Instr.scrubGranule 0 [{ addr := 1, pattern := List.replicate 36 0 }]).wf = false := by decide
theorem wf_refuses_short_upset : (Instr.scrubGranule 0 [{ addr := 32, pattern := List.replicate 35 0 }]).wf = false := by decide
theorem wf_refuses_upset_of_read : (Instr.skeinRead 0x100 0 1 [{ addr := 0x010000000000, pattern := List.replicate 36 0 }]).wf = false := by decide
theorem wf_refuses_fence : (Instr.fenceWrite .mgmt 0 18 0 false).wf = false := by decide
theorem wf_refuses_type (m : SendIn) (h : m.bytes = [0x17]) :
    (Instr.reduce m).wf = false ∧ (Instr.prescaleUp m).wf = false ∧ (Instr.prescaleDown m).wf = false ∧ (Instr.sum m).wf = false
    ∧ (Instr.gather m).wf = false ∧ (Instr.verdictUp m).wf = false ∧ (Instr.verdictDown m).wf = false ∧ (Instr.barrier m).wf = false
    ∧ (Instr.fetchNote m).wf = false ∧ (Instr.wbNote m).wf = false ∧ (Instr.replayHold m).wf = false ∧ (Instr.echoReq m).wf = false
    ∧ (Instr.echoRsp m).wf = false := by
  simp [Instr.wf, typeWf, h]
theorem wf_refuses_empty_message : (Instr.reduce { qpn := 9, bytes := [] }).wf = false := by decide
theorem wf_refuses_port : (Instr.pfcXoff 20 false).wf = false ∧ (Instr.pfcXon 20 false false).wf = false ∧ (Instr.pfcStorm 20 false).wf = false
    ∧ (Instr.pfcXoffRepeat 20 false 0).wf = false ∧ (Instr.linkDown 20 0).wf = false ∧ (Instr.linkUp 20).wf = false
    ∧ (Instr.unsupportedFrame 21 .frame).wf = false := by decide
theorem wf_refuses_nonce : (Instr.challenge 0 [1] { mac := 5, ip := 6 }).wf = false
    ∧ (Instr.getMeasurements 0 true (List.replicate 33 1) { mac := 5, ip := 6 }).wf = false := by decide
theorem wf_refuses_op (m : MgmtIn) (h : m.frame = [7]) : (Instr.regWrite m).wf = false ∧ (Instr.telemRead m).wf = false ∧ (Instr.nvmRead m).wf = false
    ∧ (Instr.nvmErase m).wf = false ∧ (Instr.nvmProgram m).wf = false := by
  simp [Instr.wf, opWf, h]
theorem wf_refuses_op_of_read : (Instr.regRead { mac := 5, ip := 6, frame := [2] }).wf = false ∧ (Instr.regRead { mac := 5, ip := 6, frame := [] }).wf = false := by
  decide
theorem wf_refuses_smbus : (Instr.smbOtherCommand 0x10).wf = false ∧ (Instr.smbOtherCommand 0x11).wf = false := by decide
theorem wf_refuses_unit : (Instr.sleepEntry 24).wf = false ∧ (Instr.wake 31).wf = false ∧ (Instr.unitResetDone 116).wf = false
    ∧ (Instr.retiredSleep 127).wf = false := by decide
theorem wf_refuses_address : (Instr.rwpWrite .mgmt 0xFFFFFFFFFF 0 false).wf = false ∧ (Instr.registerWrite .mgmt 0xFFFFFFFFFF 0).wf = false
    ∧ (Instr.rcCounterRead .mgmt 0x02020E000000).wf = false ∧ (Instr.rcCounterRead .mgmt 0x0201FFFFFFFC).wf = false := by decide
theorem wf_refuses_sample : (Instr.whorlPeriod { sample 0 0 with die := [] }).wf = false ∧ (Instr.thermtripRelease { sample 0 0 with skn := [] }).wf = false
    ∧ (Instr.whorlPeriod { sample 0 0 with rails := [] }).wf = false := by decide +kernel

/-! ## Steps -/

/-- One field of the next state of a command. -/
def after {α : Type} (c : Instr) (s : State) (f : State → α) : Option α := match exec c s with | .next t => some (f t) | _ => none

/-- R469: another SMBus command gets a NAK. R470: the ID register. -/
theorem test_smbus_nak : after (.smbOtherCommand 0x12) up (·.out) = some [.smbNak] := by decide +kernel
theorem test_idcode : after .idcode up (·.out) = some [.idcode 0x1076854B] := by decide +kernel
/-- R411: RUN_CLR clears the bits of its 32 contexts that the value names. -/
theorem test_run_clr : after (.runClr (.host 16) 0 0xFFFFFFFE) linked (·.run) = some 1 := by decide +kernel
/-- R418: a wrong key resets nothing; the key latches cause 3. -/
theorem test_dev_reset_key : after (.devReset (.host 16) 0x5A5A) linked (·.cause) = some 3
    ∧ after (.devReset (.host 16) 0x5A5B) linked (·.cause) = some linked.cause := by decide +kernel
/-- R335: a bucket of 1 leaks to 0. -/
theorem test_leak : after (.bucketLeak 0) bucketS (fun t => mget (t.skein 0).buckets 2 0) = some 0 := by decide +kernel
/-- R353: CUT 128 halves the rate the queue pair had before this tick's increase, 7 - 3 = 4. -/
theorem test_cnp : after (.cnp 9) (reg (rPrt 0 0x1020) 128 (reg (rPrt 0 0x102C) 1 { ratedS with wall := 6 })) (fun t => (t.qp 9).rate) = some 4 := by
  decide +kernel
/-- R439: a revocation sets its bit when it ends. -/
theorem test_revoke : after .fuseDone { fuseS 9 0 with ndy := { up.ndy with fuse := some (.revoke 3) } } (·.fuses.revoked) = some 8 := by decide +kernel
/-- R69: IND_DATA writes the counter that IND_SEL names. -/
theorem test_ind_data : after (.indDataWrite 0xFFFFFFFF) (reg (rBob 0x14) 65535 up) (fun t => t.barrier 65535) = some 0xFFFFFFFF := by decide +kernel
/-- R72: a NOP completes and DONE rises; R67: its signal raises its counter by one, wrapping. -/
theorem test_nop_signals : after (.nop 3) { schedS signalC with barriers := [(0, 0xFFFFFFFF)] } (fun t => t.barrier 0) = some 0 := by decide +kernel
/-- R179: GATHER writes row 1 of D1 from the row of D0 that the list names, row 0. -/
theorem test_gather : after (.crdGather 1 []) { gatherS with mem := moveMem ++ cells 0x4000 8 0x1100000022 } (fun t => (rdByte t 0x500C).val) = some 0x11 := by
  decide +kernel

end Sys2Proof.Tests
end

section
/-! SUPPORT. Rows that end with a report: what a command at its port leaves once its data phase has ended. -/

namespace Sys2Proof.Machine

theorem SameAt.trans {p : Piece} {s t u : State} (h : SameAt p s t) (k : SameAt p t u) : SameAt p s u := by
  cases p <;> exact Eq.trans k h

/-- Frames of two functions, one after the other. -/
theorem Unchanged.trans {l m n : List Piece} {s t u : State} (h : Unchanged l s t) (k : Unchanged m t u)
    (hl : l ⊆ n) (hm : m ⊆ n) : Unchanged n s u := fun p hp =>
  (h p (fun h => hp (hl h))).trans (k p (fun h => hp (hm h)))

theorem Unchanged.mono {l m : List Piece} {s t : State} (h : Unchanged l s t) (hs : l ⊆ m) : Unchanged m s t :=
  fun p hp => h p (fun hl => hp (hs hl))

/-- A function that leaves the pieces on which the data of memory depend. -/
theorem SameData.of_unchanged {ps : List Piece} {s t : State} (h : Unchanged ps s t)
    (hp : ∀ p ∈ [Piece.gate, .rstBusy, .rwp, .skn, .mem, .errs, .pkg], p ∉ ps) : SameData s t :=
  have hk : t.skn = s.skn := h .skn (hp _ (by simp))
  have hs : t.pkg = s.pkg := h .pkg (hp _ (by simp))
  .of_fields (h .gate (hp _ (by simp))) (h .rstBusy (hp _ (by simp))) (h .rwp (hp _ (by simp)))
    (fun k => by unfold State.skein; rw [hk]) (h .mem (hp _ (by simp))) (h .errs (hp _ (by simp))) (by rw [hs])

/-! ## The state in which a data phase begins -/

theorem popPort_unchanged (u : Nat) (s : State) : Unchanged [.ports] s (popPort u s) :=
  unchanged_of_mask (by unfold popPort; simp [pieces])

theorem taken_unchanged (reg : BitVec 16 → Option Nat) (u : Nat) (hs : List Hit) (s : State) :
    Unchanged [.reg, .dst, .seqs, .struck, .ports] s (taken reg u hs s) :=
  (noteHits_unchanged reg hs s).trans (popPort_unchanged u _) (by decide) (by decide)

theorem taken_ports (reg : BitVec 16 → Option Nat) (u : Nat) (hs : List Hit) (s : State) :
    (taken reg u hs s).ports = (popPort u s).ports := by
  have h : (noteHits reg hs s).ports = s.ports := noteHits_unchanged reg hs s .ports (by decide)
  simp [taken, popPort, State.setPort, State.port, h]

theorem taken_reports (reg : BitVec 16 → Option Nat) (u : Nat) (hs : List Hit) (s : State) :
    (taken reg u hs s).reports = s.reports := taken_unchanged reg u hs s .reports (by decide)

theorem taken_sameData (reg : BitVec 16 → Option Nat) (u : Nat) (hs : List Hit) (s : State) : SameData s (taken reg u hs s) :=
  .of_unchanged (taken_unchanged reg u hs s) (by decide)

/-! ## A data phase that counts, uses SRAM, and ends -/

theorem crd_of_crds {s t : State} (h : t.crds = s.crds) (n : Nat) : t.crd n = s.crd n := by
  unfold State.crd
  rw [h]

/-- What a data phase may do beside its bytes and its report: count, take free values and leave data in the SRAM of carder `k`. -/
structure Counts (k : Nat) (s t : State) : Prop where
  frame : Unchanged [.free, .reg, .crds] s t
  sram : OnlySram k s t

theorem Counts.refl (k : Nat) (s : State) : Counts k s s := ⟨fun p _ => by cases p <;> rfl, fun _ => ⟨rfl, fun _ => rfl⟩⟩

theorem Counts.trans {k : Nat} {s t u : State} (h : Counts k s t) (h' : Counts k t u) : Counts k s u :=
  ⟨h.frame.trans h'.frame (by decide) (by decide), fun n => by
    obtain ⟨a, b⟩ := h.sram n
    obtain ⟨a', b'⟩ := h'.sram n
    exact ⟨by rw [a', a], fun hn => (b' hn).trans (b hn)⟩⟩

theorem counts_count (k a n : Nat) (s : State) : Counts k s (s.count a n) :=
  ⟨unchanged_of_mask (by simp [pieces]), fun n' => by
    have h := crd_of_crds (s := s) (t := s.count a n) (by unfold State.count; split <;> rfl) n'
    exact ⟨by rw [h], fun _ => h⟩⟩

theorem counts_useSram (k : Nat) (l : List Nat) (s : State) : Counts k s (useSram k l s) :=
  ⟨unchanged_of_mask (by simp [pieces]), fun n => by
    simp only [useSram, State.crd, mget_mput]
    split
    · next h => subst h; simp
    · next h => exact ⟨rfl, fun _ => rfl⟩⟩

theorem counts_countFree (k a : Nat) (s : State) : Counts k s (countFree a s) :=
  ⟨unchanged_of_mask (by simp [pieces]), fun n => by
    have h := crd_of_crds (s := s) (t := countFree a s) (by unfold countFree State.bumpFree State.count; split <;> rfl) n
    exact ⟨by rw [h], fun _ => h⟩⟩

/-- A command whose data phase stores, and beside that only counts and uses SRAM: its completion and its frame. -/
theorem row_ends {reg : BitVec 16 → Option Nat} {u v k : Nat} {hs : List Hit} {i : Issued} {e : Eff} {s s0 s2 : State}
    (h0 : s0 = taken reg u hs s) (hc : Counts k s0 s2) :
    Reported u v i e s s0 (clearStruck (finishCmd v i e s2)) ∧ OnlySram k s (clearStruck (finishCmd v i e s2))
      ∧ Unchanged [.free, .reg, .mem, .errs, .skn, .dst, .ports, .reports, .seqs, .struck, .crds] s
          (clearStruck (finishCmd v i e s2)) := by
  subst h0
  have hend : Unchanged [.reg, .mem, .errs, .skn, .dst, .reports, .seqs, .struck] s2 (clearStruck (finishCmd v i e s2)) :=
    unchanged_of_mask (by simp [pieces])
  have hcrd : ∀ n, (taken reg u hs s).crd n = s.crd n := crd_of_crds (taken_unchanged reg u hs s .crds (by decide))
  have hend' : ∀ n, (clearStruck (finishCmd v i e s2)).crd n = s2.crd n := crd_of_crds (hend .crds (by decide))
  have hports : s2.ports = (taken reg u hs s).ports := hc.frame .ports (by decide)
  have hreports : s2.reports = (taken reg u hs s).reports := hc.frame .reports (by decide)
  refine ⟨reported_finish (hports.trans (taken_ports reg u hs s)) (hreports.trans (taken_reports reg u hs s))
    (taken_sameData reg u hs s) (.of_unchanged hc.frame (by decide)) rfl, fun n => ?_, ?_⟩
  · obtain ⟨a, b⟩ := hc.sram n
    rw [hend', ← hcrd n]
    exact ⟨a, b⟩
  · exact (taken_unchanged reg u hs s).trans (hc.frame.trans hend (fun _ => List.mem_append_left _) (fun _ => List.mem_append_right _))
      (by decide) (by decide)

/-- The parity errors of the step noted, a command that is offered, passes its checks and meets no overlap runs. -/
theorem accept_runs {α : Type} {reg : BitVec 16 → Option Nat} {u op : Nat} {hs : List Hit} {check : Issued → State → Chk α}
    {overlap : Issued → α → State → Bool} {run : Issued → α → State → State} {i : Issued} {s : State} {a : α}
    (h : Offered u op i s) (hc : passes (check i (taken reg u hs s)) = .ok a) (ho : overlap i a (taken reg u hs s) = false) :
    accept u op check overlap run (noteHits reg hs s) = run i a (taken reg u hs s) := by
  unfold accept
  rw [noteHits_frontOf, h.front]
  exact acceptCmd_runs (by rw [noteHits_epoch]; exact h.epoch) h.fits hc ho

/-! ## CRD_GATHER, CRD_SCATTER, CPY_PERMUTE and CRD_SPMM -/

theorem counts_moveCounted (i : Issued) (m : MoveOpds) (s : State) : Counts (cTarget i.cmd) s (moveCounted i m s) := by
  unfold moveCounted
  extract_lets c k lim x outerN s1 s2 s3
  have h1 : Counts k s s1 := counts_count k _ _ s
  have h2 : Counts k s s2 := by
    simp only [s2]
    split
    · exact h1.trans (counts_count k _ _ s1)
    · exact h1
  have h3 : Counts k s s3 := by
    simp only [s3]
    split
    · exact h2.trans (counts_useSram k _ s2)
    · exact h2.trans ((counts_useSram k _ s2).trans (counts_countFree k _ _))
  exact h3.trans (counts_count k _ _ s3)

theorem counts_cpyCounted (i : Issued) (m : MoveOpds) (s : State) : Counts (cTarget i.cmd) s (cpyCounted i m s) := by
  unfold cpyCounted
  extract_lets k s0 s1
  have h0 : Counts k s s0 := counts_count k _ _ s
  have h1 : Counts k s s1 := by
    simp only [s1]
    split
    · exact h0
    · exact h0.trans (counts_useSram k _ s0)
  split
  · exact h1.trans (counts_count k _ _ s1)
  · exact h1

theorem counts_spmmCounted (i : Issued) (m : SpmmOpds) (s : State) : Counts (cTarget i.cmd) s (spmmCounted i m s) :=
  (counts_useSram _ _ s).trans ((counts_count _ _ _ _).trans ((counts_count _ _ _ _).trans
    ((counts_count _ _ _ _).trans (counts_count _ _ _ _))))

theorem and_eq_zero_of_imp {b : Bool} {n : Nat} (h : b = true → n ≠ 0) : ¬ ((b && decide (n = 0)) = true) := by
  cases b <;> simp_all

theorem moveRun_eq {i : Issued} {m : MoveOpds} {s : State} (h : movRunv i.cmd = true → runSize i ≠ 0) :
    moveRun i m s = finishCmd (16 + cTarget i.cmd) i (moveEff i m s) (moveCounted i m s) := if_neg (and_eq_zero_of_imp h)

theorem cpyRun_eq {i : Issued} {m : MoveOpds} {s : State} (h : cpyRunv i.cmd = true → runSize i ≠ 0) :
    cpyRun i m s = finishCmd (16 + cTarget i.cmd) i (cpyEff i m s) (cpyCounted i m s) := if_neg (and_eq_zero_of_imp h)

theorem spmmRun_eq {i : Issued} {m : SpmmOpds} {s : State} (h : spmmRunv i.cmd = true → runSize i ≠ 0) :
    spmmRun i m s = finishCmd (16 + cTarget i.cmd) i (spmmEff i m s) (spmmCounted i m s) := if_neg (and_eq_zero_of_imp h)

theorem execCpyPermute_runs {k : BitVec 5} {hs : List Hit} {i : Issued} {m : MoveOpds} {s : State}
    (h : Offered (16 + k.toNat) 0xC0 i s) (hc : passes (cpyCheck i (taken moveReg (16 + k.toNat) hs s)) = .ok m)
    (ho : cpyOverlap i m (taken moveReg (16 + k.toNat) hs s) = false) :
    exec (.cpyPermute k hs) s = .next (clearStruck (cpyRun i m (taken moveReg (16 + k.toNat) hs s))) := by
  show execCpyPermute k hs s = _
  unfold execCpyPermute
  extract_lets u
  rw [if_pos (by rw [h.front]; rfl), accept_runs h hc ho]

/-- Settles O1. -/
theorem carderMovesRun : Obligations.CarderMovesRun := by
  refine ⟨?_, ?_, ?_⟩
  · rintro k hs i m c op s s0 hop h0 hoff hc ho hrun
    have hexec : exec c s = .next (clearStruck (moveRun i m s0)) := by
      subst h0
      rcases hop with ⟨rfl, rfl⟩ | ⟨rfl, rfl⟩ <;> exact congrArg _ (withHits_runs hoff hc ho)
    rw [moveRun_eq hrun] at hexec
    exact ⟨_, hexec, row_ends h0 (counts_moveCounted i m s0)⟩
  · rintro k hs i m s s0 h0 hoff hc ho hrun
    have hexec : exec (.cpyPermute k hs) s = .next (clearStruck (cpyRun i m s0)) := by
      subst h0
      exact execCpyPermute_runs hoff hc ho
    rw [cpyRun_eq hrun] at hexec
    exact ⟨_, hexec, row_ends h0 (counts_cpyCounted i m s0)⟩
  · rintro k hs i m s s0 h0 hoff hc hrun
    have hexec : exec (.crdSpmm k hs) s = .next (clearStruck (spmmRun i m s0)) := by
      subst h0
      exact congrArg _ (withHits_runs hoff hc rfl)
    rw [spmmRun_eq hrun] at hexec
    exact ⟨_, hexec, row_ends h0 (counts_spmmCounted i m s0)⟩

/-! ## EXP_FANOUT, EXP_DISPATCH and EXP_COMBINE -/

/-- Settles O2. -/
theorem expertRowsRun : Obligations.ExpertRowsRun := by
  rintro k hs i o s s0 h0
  refine ⟨fun hoff hc => ?_, fun hoff hc ho => ?_, fun hoff hc ho => ?_⟩
  · have hexec : exec (.expFanout k hs) s = .next (clearStruck (fanoutRun i o s0)) := by
      subst h0
      exact congrArg _ (withHits_runs hoff hc rfl)
    exact ⟨_, hexec, row_ends h0 (counts_useSram _ anyArea s0)⟩
  · have hexec : exec (.expDispatch k hs) s = .next (clearStruck (dispatchRun i o s0)) := by
      subst h0
      exact congrArg _ (withHits_runs hoff hc ho)
    exact ⟨_, hexec, row_ends h0 ((counts_count _ _ _ s0).trans ((counts_count _ _ _ _).trans (counts_useSram _ anyArea _)))⟩
  · have hexec : exec (.expCombine k hs) s = .next (clearStruck (combineRun i o s0)) := by
      subst h0
      exact congrArg _ (withHits_runs hoff hc ho)
    exact ⟨_, hexec, row_ends h0 ((counts_count _ _ _ s0).trans (counts_useSram _ anyArea _))⟩

/-! ## TRN_LSCALE, OPT_ADAMW and OPT_SGDM -/

theorem lscaleRun_eq {i : Issued} {m : MoveOpds} {s : State} (h : lsRunv i.cmd = true → runSize i ≠ 0) :
    lscaleRun i m s = finishCmd (16 + cTarget i.cmd) i (lscaleEff i m s)
      (useSram (cTarget i.cmd) anyArea
        ((s.count (rCrd (cTarget i.cmd) 0x30C) ((lscaleRows i m).1 * (lscaleRows i m).2.length)).count
          (rCrd (cTarget i.cmd) 0x18) (lscaleEff i m s).sat)) := if_neg (and_eq_zero_of_imp h)

theorem optRun_eq {i : Issued} {o : OptOpds} {s : State} (h : optRunv i.cmd = true → runSize i ≠ 0) :
    optRun i o s = finishCmd (16 + cTarget i.cmd) i (optEff i o s) (optCounted i o s) := if_neg (and_eq_zero_of_imp h)

theorem counts_optCounted (i : Issued) (o : OptOpds) (s : State) : Counts (cTarget i.cmd) s (optCounted i o s) := by
  unfold optCounted
  extract_lets k r kept
  split
  · exact counts_count k _ _ s
  · exact (counts_count k _ _ s).trans ((counts_count k _ _ _).trans ((counts_count k _ _ _).trans (counts_useSram k _ _)))

theorem optEff_stores_suppressed {i : Issued} {s : State} (o : OptOpds) (h : optSuppressed i s = true) :
    (optEff i o s).stores s = [] := by
  unfold optEff
  rw [if_pos h]
  rfl

/-- A row that stores nothing keeps every byte. -/
theorem StoredAs.kept {s t : State} (h : StoredAs [] s t) : BytesKept [] s t := fun a _ ha => h a ha

/-- Settles O3. -/
theorem trainingRowsRun : Obligations.TrainingRowsRun := by
  rintro k hs i s s0 h0
  refine ⟨fun m hoff hc ho hrun => ?_, fun o c op hop hoff hc hrun => ?_⟩
  · have hexec : exec (.trnLscale k hs) s = .next (clearStruck (lscaleRun i m s0)) := by
      subst h0
      exact congrArg _ (withHits_runs hoff hc ho)
    rw [lscaleRun_eq hrun] at hexec
    exact ⟨_, hexec, row_ends h0 ((counts_count _ _ _ s0).trans ((counts_count _ _ _ _).trans (counts_useSram _ anyArea _)))⟩
  · have hexec : exec c s = .next (clearStruck (optRun i o s0)) := by
      subst h0
      rcases hop with ⟨rfl, rfl⟩ | ⟨rfl, rfl⟩ <;> exact congrArg _ (withHits_runs hoff hc rfl)
    rw [optRun_eq hrun] at hexec
    obtain ⟨hrep, hsram, hframe⟩ := row_ends h0 (counts_optCounted i o s0) (v := 16 + cTarget i.cmd) (i := i) (e := optEff i o s0)
    exact ⟨_, hexec, hrep, hsram, hframe, fun hsup => (optEff_stores_suppressed o hsup ▸ hrep.memory).kept⟩

end Sys2Proof.Machine
end

section
/-! SUPPORT. The factor commands of the plying engine (R313, R314). -/

namespace Sys2Proof.Machine

/-! ## PLY_ORTHO and PLY_LR_SEED -/

/-- Whose turn it is at the plying port depends on ports, gates, sleep, resets and what runs. -/
theorem noteHits_plyFront (reg : BitVec 16 → Option Nat) (hs : List Hit) (s : State) (op : Nat) :
    plyFront (noteHits reg hs s) op = plyFront s op := by
  have h := noteHits_unchanged reg hs s
  have h1 : (noteHits reg hs s).ply = s.ply := h .ply (by decide)
  have h2 : (noteHits reg hs s).reports = s.reports := h .reports (by decide)
  have h3 : (noteHits reg hs s).ports = s.ports := h .ports (by decide)
  have h4 : (noteHits reg hs s).gate = s.gate := h .gate (by decide)
  have h5 : (noteHits reg hs s).asleep = s.asleep := h .asleep (by decide)
  have h6 : (noteHits reg hs s).sleepReq = s.sleepReq := h .sleepReq (by decide)
  have h7 : (noteHits reg hs s).rstBusy = s.rstBusy := h .rstBusy (by decide)
  unfold plyFront State.port unitOff
  rw [h1, h2, h3, h4, h5, h6, h7]

/-- A plying command at the front of its port, of the engine's epoch, with its checks passed, runs. -/
theorem acceptPly_runs {α : Type} {op : Nat} {hs : List Hit} {check : Issued → State → Chk α}
    {run : Issued → α → State → State} {i : Issued} {s : State} {a : α} (hf : plyFront s op = some i)
    (he : cEpoch i.cmd = s.epoch 52) (hr : ∀ n b e x, i.res = .run n b e x → e = false ∧ x = false)
    (hc : passes (check i (taken perrReg 52 hs s)) = .ok a) :
    acceptPly op hs check run s = clearStruck (run i a (taken perrReg 52 hs s)) := by
  unfold acceptPly
  rw [hf]
  exact congrArg clearStruck (acceptCmd_runs (by rw [noteHits_epoch]; exact he) hr hc rfl)

theorem factorRun_ends {hs : List Hit} (hs' : List Hit) (seed : Option (Nat → Word)) (i : Issued) (d : Desc) {s s0 : State}
    (h0 : s0 = taken perrReg 52 hs s) :
    Reported 52 52 i (factorEff hs' seed i.addr.toNat d s0) s s0 (clearStruck (factorRun hs' seed i d s0))
      ∧ Unchanged [.reg, .mem, .errs, .skn, .dst, .ports, .reports, .seqs, .struck] s (clearStruck (factorRun hs' seed i d s0)) := by
  subst h0
  have hend : Unchanged [.reg, .mem, .errs, .skn, .dst, .reports, .seqs, .struck] (taken perrReg 52 hs s)
      (clearStruck (factorRun hs' seed i d (taken perrReg 52 hs s))) :=
    unchanged_of_mask (by unfold factorRun; simp [pieces])
  exact ⟨reported_finish (taken_ports perrReg 52 hs s) (taken_reports perrReg 52 hs s) (taken_sameData perrReg 52 hs s)
    (.rfl' _) rfl, (taken_unchanged perrReg 52 hs s).trans hend (by decide) (by decide)⟩

/-- Settles O6. -/
theorem factorCommandsRun : Obligations.FactorCommandsRun := by
  rintro hs i d s s0 h0 he hr hc
  refine ⟨fun hf => ?_, fun hf hnil => ?_⟩
  · have hexec : exec (.plyOrtho hs) s = .next (clearStruck (factorRun hs none i d s0)) := by
      subst h0
      exact congrArg _ (acceptPly_runs hf he hr hc)
    exact ⟨_, hexec, factorRun_ends hs none i d h0⟩
  · subst hnil
    have hexec : exec .plyLrSeed s = .next (clearStruck (factorRun [] (some (seedOf i s0)) i d s0)) := by
      subst h0
      exact congrArg _ (acceptPly_runs hf he hr hc)
    exact ⟨_, hexec, factorRun_ends [] (some (seedOf i s0)) i d h0⟩

/-! ## DISPATCH -/

/-- The grant of a dispatch: the turn that the arbiter notes and the head it hands over touch nothing else. -/
theorem noteGrant_unchanged (c : Cmd) (s : State) : Unchanged [.turns] s (noteGrant c s) := by
  unfold noteGrant
  split
  · exact fun p _ => by cases p <;> rfl
  · split
    · exact unchanged_of_mask (by simp [pieces])
    · exact fun p _ => by cases p <;> rfl

/-- The state in which the dispatched head is handed over. -/
def handedOver (b : Nat) (e : QEntry) (s : State) : State :=
  let s2 := popHead b (noteGrant e.is.cmd s)
  (s2.setBob b { s2.bob b with outstanding := (s2.bob b).outstanding + 1 }).count (rBob 0x64) 1

theorem dispatchHead_eq (b : Nat) (e : QEntry) (s : State) : dispatchHead b e s = sendToUnit e (handedOver b e s) := rfl

theorem handedOver_unchanged (b : Nat) (e : QEntry) (s : State) : Unchanged [.bobs, .turns, .reg] s (handedOver b e s) :=
  (noteGrant_unchanged e.is.cmd s).trans (m := [.bobs, .reg]) (unchanged_of_mask (by unfold handedOver popHead; simp [pieces]))
    (by decide) (by decide)

theorem bob_of_bobs {s t : State} (h : t.bobs = s.bobs) (b : Nat) : t.bob b = s.bob b := by
  unfold State.bob
  rw [h]

theorem handedOver_bob {b : Nat} {e : QEntry} {r : List QEntry} {s : State} (hq : (s.bob b).queue = e :: r) (w : Nat) :
    (handedOver b e s).bob w
      = if w = b then { s.bob b with queue := r, outstanding := (s.bob b).outstanding + 1 } else s.bob w := by
  have hg : ∀ w, (noteGrant e.is.cmd s).bob w = s.bob w := bob_of_bobs (noteGrant_unchanged e.is.cmd s .bobs (by decide))
  have hc : ∀ t : State, (t.count (rBob 0x64) 1).bob w = t.bob w := fun t => rfl
  unfold handedOver popHead
  simp only [hc, State.bob_setBob, hg, hq, List.drop_one, List.tail_cons, if_true]
  by_cases h : w = b
  · rw [if_pos h.symm, if_pos h]
  · rw [if_neg (Ne.symm h), if_neg (Ne.symm h), if_neg h]

/-- Whether a target is gated depends on gates, sleep and the spare map; whether a plan rejects, on the images. -/
theorem handedOver_targetGated (b : Nat) (e : QEntry) (s : State) (c : Cmd) : targetGated (handedOver b e s) c = targetGated s c := by
  have h := handedOver_unchanged b e s
  have h1 : (handedOver b e s).gate = s.gate := h .gate (by decide)
  have h2 : (handedOver b e s).asleep = s.asleep := h .asleep (by decide)
  have h3 : (handedOver b e s).sleepReq = s.sleepReq := h .sleepReq (by decide)
  have h4 : (handedOver b e s).spare = s.spare := h .spare (by decide)
  unfold targetGated unitOff vecOfUnit physOf
  simp only [h1, h2, h3, h4]

theorem handedOver_planRejects (b : Nat) (e : QEntry) (s : State) : planRejects (handedOver b e s) e = planRejects s e := by
  have h := handedOver_unchanged b e s
  have h1 : (handedOver b e s).images = s.images := h .images (by decide)
  have h2 : (handedOver b e s).imgState = s.imgState := h .imgState (by decide)
  unfold planRejects planOut loadedImage imgOf
  rw [h1, h2]

/-- A ready head that the arbiter grants leaves its queue: it is no closed phase's, and no replay stops at it. -/
theorem execDispatch_ready {b : Bobbin} {e : QEntry} {r : List QEntry} {s : State} (hctl : ctlRuns s = true)
    (hq : (s.bob b.toNat).queue = e :: r) (hready : readyHead s (s.bob b.toNat) e = true)
    (hgrant : granted s b.toNat e.is.cmd = true) :
    exec (.dispatch b) s = .next (sendToUnit e (handedOver b.toNat e s)) := by
  have hready' := hready
  simp only [readyHead, readyButSlot, gatesOpen, Bool.and_eq_true, decide_eq_true_eq, Bool.not_eq_true'] at hready'
  obtain ⟨⟨⟨⟨⟨⟨hok, hop⟩, ⟨⟨⟨-, hphase⟩, -⟩, -⟩⟩, -⟩, -⟩, hstop⟩, -⟩ := hready'
  have hclosed : phaseClosed s (s.bob b.toNat).entry.ctx.toNat e.is.cmd = false := by
    unfold phaseCurrent at hphase
    unfold phaseClosed
    simp only [Bool.or_eq_true, decide_eq_true_eq] at hphase
    rcases hphase with h | h <;> simp [h]
  have hlocal : localReached s (s.bob b.toNat) e = false := by simp [localReached, hstop]
  show Host.Outcome.next (if ctlRuns s = true then dispatchBob b.toNat s else s) = _
  rw [if_pos hctl, ← dispatchHead_eq]
  unfold dispatchBob
  simp only [hq]
  rw [if_neg (by simp [hok]), if_neg hop, if_neg (by simp [hclosed]), if_neg (by simp [hlocal]), if_pos (by simp [hready, hgrant])]

/-- A refusal adds its report. -/
theorem refuseCmd_unchanged (u : Nat) (i : Issued) (st : Byte) (s : State) : Unchanged [.reports] s (refuseCmd u i st s) :=
  unchanged_of_mask (by simp [pieces])

/-- What leaves of a dispatched head the bobbins alone: the queue without its head, and one more command outstanding. -/
theorem dispatched_bobs {b : Nat} {e : QEntry} {r : List QEntry} {s t : State} (hq : (s.bob b).queue = e :: r)
    (ht : t.bobs = (handedOver b e s).bobs) :
    t.bob b = { s.bob b with queue := r, outstanding := (s.bob b).outstanding + 1 } ∧ ∀ w, w ≠ b → t.bob w = s.bob w := by
  refine ⟨?_, fun w hw => ?_⟩ <;> rw [bob_of_bobs ht, handedOver_bob hq]
  · rw [if_pos rfl]
  · rw [if_neg hw]

/-- A dispatched head that is refused: what the refusal `st` of unit `u` leaves. -/
theorem dispatch_refused {b : Nat} {e : QEntry} {r : List QEntry} {s : State} (u : Nat) (st : Byte) (hq : (s.bob b).queue = e :: r) :
    (refuseCmd u e.is st (handedOver b e s)).bob b = { s.bob b with queue := r, outstanding := (s.bob b).outstanding + 1 }
      ∧ (∀ w, w ≠ b → (refuseCmd u e.is st (handedOver b e s)).bob w = s.bob w)
      ∧ (refuseCmd u e.is st (handedOver b e s)).reports = s.reports ++ [{ is := e.is, unit := u, status := st }]
      ∧ Unchanged [.bobs, .turns, .reg, .reports] s (refuseCmd u e.is st (handedOver b e s)) := by
  obtain ⟨h1, h2⟩ := dispatched_bobs (t := refuseCmd u e.is st (handedOver b e s)) hq rfl
  have h3 : (handedOver b e s).reports = s.reports := handedOver_unchanged b e s .reports (by decide)
  exact ⟨h1, h2, by simp [refuseCmd, h3],
    (handedOver_unchanged b e s).trans (refuseCmd_unchanged u e.is st _) (by decide) (by decide)⟩

theorem sendToUnit_port {e : QEntry} {s : State} (h1 : isSched (cOp e.is.cmd) = false) (h2 : targetGated s e.is.cmd = false)
    (h3 : planRejects s e = false) :
    sendToUnit e s = s.setPort (cUnit e.is.cmd) (s.port (cUnit e.is.cmd) ++ [e.is]) := by
  simp [sendToUnit, h1, h2, h3]

theorem sendToUnit_sched {e : QEntry} {s : State} (h1 : isSched (cOp e.is.cmd) = true) (h2 : planRejects s e = false)
    (h3 : ∀ n k m x, e.is.res = .run n k m x → m = false ∧ x = false) :
    sendToUnit e s = { s with sched := s.sched ++ [e.is] } := by
  unfold sendToUnit
  dsimp only
  rw [if_pos h1, if_neg (by simp [h2])]
  cases hr : e.is.res with
  | none => rfl
  | run n k m x =>
    obtain ⟨rfl, rfl⟩ := h3 n k m x hr
    rfl

theorem sendToUnit_gated {e : QEntry} {s : State} (h1 : isSched (cOp e.is.cmd) = false) (h2 : targetGated s e.is.cmd = true) :
    sendToUnit e s = refuseCmd (cUnit e.is.cmd) e.is stGATED s := by
  simp [sendToUnit, h1, h2]

theorem sendToUnit_rejected {e : QEntry} {s : State} (h1 : isSched (cOp e.is.cmd) = true ∨ targetGated s e.is.cmd = false)
    (h2 : planRejects s e = true) :
    sendToUnit e s = refuseCmd (if isSched (cOp e.is.cmd) then unitSched else cUnit e.is.cmd) e.is stREJECTED s := by
  cases h : isSched (cOp e.is.cmd)
  · have hg : targetGated s e.is.cmd = false := h1.resolve_left (by simp [h])
    simp [sendToUnit, h, hg, h2]
  · simp [sendToUnit, h, h2]

/-- Settles O12. -/
theorem dispatchSendsTheHead : Obligations.DispatchSendsTheHead := by
  rintro b e r s hctl hq hready hgrant
  have hexec := execDispatch_ready hctl hq hready hgrant
  have hun := handedOver_unchanged b.toNat e s
  refine ⟨fun hs hg hp => ?_, fun hs hp hr => ?_, fun hs hg => ?_, fun hs hp => ?_⟩
  · rw [sendToUnit_port hs (by rw [handedOver_targetGated]; exact hg) (by rw [handedOver_planRejects]; exact hp)] at hexec
    obtain ⟨h1, h2⟩ := dispatched_bobs
        (t := (handedOver b.toNat e s).setPort (cUnit e.is.cmd) ((handedOver b.toNat e s).port (cUnit e.is.cmd) ++ [e.is])) hq rfl
    have hport : ∀ w, (handedOver b.toNat e s).port w = s.port w := fun w => by
      have h : (handedOver b.toNat e s).ports = s.ports := hun .ports (by decide)
      unfold State.port
      rw [h]
    exact ⟨_, hexec, h1, h2, by simp [hport], fun w hw => by simp [hport, Ne.symm hw],
      hun.trans (m := [.ports]) (unchanged_of_mask (by simp [pieces])) (by decide) (by decide)⟩
  · rw [sendToUnit_sched hs (by rw [handedOver_planRejects]; exact hp) hr] at hexec
    obtain ⟨h1, h2⟩ := dispatched_bobs (t := { handedOver b.toNat e s with sched := (handedOver b.toNat e s).sched ++ [e.is] }) hq rfl
    have hsched : (handedOver b.toNat e s).sched = s.sched := hun .sched (by decide)
    exact ⟨_, hexec, h1, h2, by rw [hsched],
      hun.trans (m := [.sched]) (unchanged_of_mask (by simp [pieces])) (by decide) (by decide)⟩
  · rw [sendToUnit_gated hs (by rw [handedOver_targetGated]; exact hg)] at hexec
    exact ⟨_, hexec, dispatch_refused _ _ hq⟩
  · rw [sendToUnit_rejected (by rw [handedOver_targetGated]; exact hs) (by rw [handedOver_planRejects]; exact hp)] at hexec
    exact ⟨_, hexec, dispatch_refused _ _ hq⟩

end Sys2Proof.Machine
end

section
/-! SUPPORT. Every command answers, and leaves the queue of waiting commands and the model's clock as they were. -/

namespace Sys2Proof.Machine

/-- Every piece but the queue of waiting commands and the model's clock. -/
def others (p : Piece) : Bool := p ≠ .pending && p ≠ .wall

@[simp] theorem others_eq_true {p : Piece} (hp : p ≠ .pending) (hw : p ≠ .wall) : others p = true := by simp [others, hp, hw]

@[simp] theorem covers_others {K : List Piece} (hp : Piece.pending ∈ K) (hw : Piece.wall ∈ K) : Covers K others :=
  fun _ hK => others_eq_true (fun h => hK (h ▸ hp)) (fun h => hK (h ▸ hw))

/-- The result of a row: a next state with the queue and the clock as they were where the command is well formed, the fault
malformed where it is not. -/
def Answers (i : Instr) (s : State) (r : Res) : Prop :=
  (i.wf = true → ∃ t, r = .next t ∧ t.mask others = s.mask others) ∧ (i.wf = false → r = .fault .malformed)

section
variable {i : Instr} {s t : State}

theorem Answers.ofNext (hw : i.wf = true) (h : t.mask others = s.mask others) : Answers i s (.next t) :=
  ⟨fun _ => ⟨t, rfl, h⟩, fun hf => absurd hw (by simp [hf])⟩

theorem Answers.ofGuarded (h : t.mask others = s.mask others) : Answers i s (guarded i t) :=
  ⟨fun hw => ⟨t, by simp [guarded, hw], h⟩, fun hf => by simp [guarded, hf]⟩

theorem Answers.ofSched {b : Bobbin} {op : Nat} {f : Issued → State → State} (hw : i.wf = true)
    (h : ∀ j t, (f j t).mask others = t.mask others) : Answers i s (runSched b op f s) := by
  unfold runSched
  split
  · split
    · exact .ofNext hw (by simp [h])
    · exact .ofNext hw rfl
  · exact .ofNext hw rfl

theorem Answers.ofSpdm {r : Asker} {f : State → Spdm × State} (hw : i.wf = true)
    (h : ∀ t, (f t).2.mask others = t.mask others) : Answers i s (spdm r f s) := by
  refine .ofNext hw ?_
  split
  · simp [h]
  · rfl

theorem Answers.ofGuardedSpdm {r : Asker} {f : State → Spdm × State} (h : ∀ t, (f t).2.mask others = t.mask others) :
    Answers i s (if i.wf then spdm r f s else .fault .malformed) := by
  cases hw : i.wf with
  | true => exact .ofSpdm hw h
  | false => exact ⟨fun ht => by simp [hw] at ht, fun _ => rfl⟩

end

section
variable {α : Type} {u op : Nat} {hs : List Hit} {chk : Issued → State → Chk α} {ov : Issued → α → State → Bool}
  {run : Issued → α → State → State} {s : State}

theorem accept_stays (h : ∀ i a t, (run i a t).mask others = t.mask others) :
    (accept u op chk ov run s).mask others = s.mask others :=
  accept_mask (hf := h) (hreg := rfl) (hmem := rfl) (herrs := rfl) (hskn := rfl) (hdst := rfl) (hports := rfl)
    (hreports := rfl) (hseqs := rfl) ..

theorem offered_stays (h : ∀ i a t, (run i a t).mask others = t.mask others) :
    (withHits u op hs (accept u op chk ov run) s).mask others = s.mask others :=
  withHits_mask (hf := fun _ => accept_stays h) (hreg := rfl) (hdst := rfl) (hseqs := rfl) (hstruck := rfl) ..

theorem acceptPly_stays (h : ∀ i a t, (run i a t).mask others = t.mask others) :
    (acceptPly op hs chk run s).mask others = s.mask others :=
  acceptPly_mask (hf := h) (hreg := rfl) (hmem := rfl) (herrs := rfl) (hskn := rfl) (hdst := rfl) (hports := rfl)
    (hreports := rfl) (hseqs := rfl) (hstruck := rfl) ..

end

theorem serve_stays {m : MgmtIn} {act : List Byte → State → MAns × State} {s : State}
    (h : ∀ l t, (act l t).2.mask others = t.mask others) : (serve m act s).mask others = s.mask others :=
  serve_mask (hf := h) (hfree := rfl) (hreg := rfl) (hdst := rfl) (hseqs := rfl) (hrwp := rfl) (hwear := rfl) (hnvm := rfl)
    (hndy := rfl) (hout := rfl) ..

theorem takeIn_stays {n k : Nat} {ing : Ingress} {hits : List Hit} {s s1 : State} (h : takeIn n k ing hits s = some s1) :
    s1.mask others = s.mask others := by
  rw [takeIn_some h]
  simp

theorem ite_stays {p : Prop} [Decidable p] {s t : State} (h : t.mask others = s.mask others) :
    (if p then t else s).mask others = s.mask others := by
  split
  · exact h
  · rfl

theorem regWrite_stays (o : Origin) (a : Nat) (v : Word) (nvmErr : Bool) (s : State) :
    (regWrite o a v nvmErr s).mask others = s.mask others := by simp

theorem hostDoorbell_stays (b : Bobbin) (off : Nat) (v : Word) (s : State) :
    (hostDoorbell b off v s).mask others = s.mask others := by simp

theorem hostBob_stays (off : Nat) (v : Word) (s : State) : (hostBob off v s).mask others = s.mask others := by simp

theorem flyCommand_stays (op : Nat) (f : BitVec 2) (hs : List Hit) (s : State) :
    (flyCommand op f hs s).mask others = s.mask others := by simp

theorem arriveSend_stays (m : SendIn) (s : State) : (arriveSend m s).mask others = s.mask others := by simp

theorem answerWrite_stays {n : Nat} {f : State → State} {r : Bool × State} (h : ∀ t, (f t).mask others = t.mask others) :
    (answerWrite n f r).mask others = r.2.mask others := by
  unfold answerWrite
  split <;> simp [h]

theorem damages_stay (hits : List Hit) (s : State) :
    (hits.foldl (fun s h => damageDst h s) s).mask others = s.mask others := by
  induction hits generalizing s with
  | nil => rfl
  | cons h hits ih => rw [List.foldl_cons, ih, damageDst_mask (hdst := rfl) (hseqs := rfl)]

theorem answered_stays {n : Nat} {ing : Ingress} {f : State → State} {s : State}
    (h : ∀ t, (f t).mask others = t.mask others) : (answered n ing f s).mask others = s.mask others := by
  simp [h]

theorem cpyPermute_stays (u : Nat) (hs : List Hit) (s : State) :
    (if (frontOf s u 0xC0).isSome then clearStruck (accept u 0xC0 cpyCheck cpyOverlap cpyRun (noteHits moveReg hs s)) else s).mask
      others = s.mask others := by
  split
  · rw [clearStruck_mask (hstruck := rfl), accept_stays (by simp)]
    simp
  · rfl

/-! ## The scheduler's rows -/

theorem nop_answers (b : Bobbin) (s : State) : Answers (.nop b) s (execNop b s) := by
  unfold execNop
  exact .ofSched rfl (by simp)

theorem barrierSet_answers (b : Bobbin) (s : State) : Answers (.barrierSet b) s (execBarrierSet b s) := by
  unfold execBarrierSet
  exact .ofSched rfl (by simp)

theorem phaseClose_answers (b : Bobbin) (s : State) : Answers (.phaseClose b) s (execPhaseClose b s) := by
  unfold execPhaseClose
  exact .ofSched rfl (by simp)

/-! ## SPDM's rows -/

theorem getVersion_answers (r : Asker) (s : State) : Answers (.getVersion r) s (execGetVersion s r) := by
  unfold execGetVersion
  exact .ofSpdm rfl (by simp)

theorem getCapabilities_answers (r : Asker) (s : State) : Answers (.getCapabilities r) s (execGetCapabilities s r) := by
  unfold execGetCapabilities
  exact .ofSpdm rfl (by simp)

theorem negotiateAlgorithms_answers (r : Asker) (s : State) :
    Answers (.negotiateAlgorithms r) s (execNegotiateAlgorithms s r) := by
  unfold execNegotiateAlgorithms
  exact .ofSpdm rfl (by simp)

theorem getDigests_answers (r : Asker) (s : State) : Answers (.getDigests r) s (execGetDigests s r) := by
  unfold execGetDigests
  exact .ofSpdm rfl (by simp)

theorem getCertificate_answers (slot : BitVec 8) (offset len : BitVec 16) (r : Asker) (s : State) :
    Answers (.getCertificate slot offset len r) s (execGetCertificate slot offset len s r) := by
  unfold execGetCertificate
  exact .ofSpdm rfl (by simp)

theorem chunkGet_answers (handle : Byte) (chunk : BitVec 16) (r : Asker) (s : State) :
    Answers (.chunkGet handle chunk r) s (execChunkGet handle chunk s r) := by
  unfold execChunkGet
  exact .ofSpdm rfl (by simp)

theorem vendorDefinedRequest_answers (standard : BitVec 16) (vid : Word) (payload : List Byte) (r : Asker) (s : State) :
    Answers (.vendorDefinedRequest standard vid payload r) s (execVendorDefinedRequest standard vid payload s r) := by
  unfold execVendorDefinedRequest
  exact .ofSpdm rfl (by simp)

theorem spdmUnsupportedRequest_answers (code : Byte) (r : Asker) (s : State) :
    Answers (.spdmUnsupportedRequest code r) s (execSpdmUnsupportedRequest code s r) := by
  unfold execSpdmUnsupportedRequest
  exact .ofSpdm rfl (by simp)

theorem challenge_answers (slot : BitVec 8) (nonce : List Byte) (r : Asker) (s : State) :
    Answers (.challenge slot nonce r) s (execChallenge slot nonce s r) := by
  unfold execChallenge
  exact .ofGuardedSpdm (by simp)

theorem getMeasurements_answers (index : BitVec 8) (signed : Bool) (nonce : List Byte) (r : Asker) (s : State) :
    Answers (.getMeasurements index signed nonce r) s (execGetMeasurements index signed nonce s r) := by
  unfold execGetMeasurements
  exact .ofGuardedSpdm (by simp)

/-! ## Rows that first look at the state -/

theorem release_answers (b : Bobbin) (s : State) : Answers (.release b) s (execRelease b s) := by
  unfold execRelease
  dsimp only
  repeat' split
  all_goals exact .ofNext rfl (by simp)

theorem imageStart_answers (b : Bobbin) (s : State) : Answers (.imageStart b) s (execImageStart b s) := by
  unfold execImageStart
  split
  · exact .ofSched rfl (by simp)
  · exact .ofNext rfl rfl

theorem imageUnload_answers (s : State) : Answers .imageUnload s (execImageUnload s) := by
  unfold execImageUnload
  dsimp only
  repeat' split
  all_goals exact .ofNext rfl (by simp)

theorem imageLoadComplete_answers (s : State) : Answers .imageLoadComplete s (execImageLoadComplete s) := by
  unfold execImageLoadComplete
  dsimp only
  split
  · split
    · refine .ofNext rfl ?_
      split <;> simp
    · exact .ofNext rfl rfl
  · exact .ofNext rfl rfl

theorem fetchBurst_answers (s : State) : Answers .fetchBurst s (execFetchBurst s) := by
  unfold execFetchBurst
  split
  · split
    · exact .ofNext rfl ((State.count_mask (hreg := rfl) ..).trans
        ((mask_set_fetchTurns rfl).trans (State.setBob_mask (hbobs := rfl) ..)))
    · exact .ofNext rfl rfl
  · exact .ofNext rfl rfl

theorem burstArrival_answers (b : Bobbin) (hits : List Hit) (s : State) :
    Answers (.burstArrival b hits) s (execBurstArrival b hits s) := by
  unfold execBurstArrival
  dsimp only
  repeat' split
  all_goals exact .ofNext rfl (by simp)

theorem agePromotion_answers (b : Bobbin) (s : State) : Answers (.agePromotion b) s (execAgePromotion b s) := by
  unfold execAgePromotion
  dsimp only
  repeat' split
  all_goals exact .ofNext rfl (by simp)

theorem runSizeResolve_answers (b : Bobbin) (s : State) : Answers (.runSizeResolve b) s (execRunSizeResolve b s) := by
  unfold execRunSizeResolve
  dsimp only
  repeat' split
  all_goals exact .ofNext rfl (by simp)

theorem spareSwapTimeout_answers (s : State) : Answers .spareSwapTimeout s (execSpareSwapTimeout s) := by
  unfold execSpareSwapTimeout
  split
  all_goals exact .ofNext rfl (by simp)

theorem watchdogExpiry_answers (b : Bobbin) (s : State) : Answers (.watchdogExpiry b) s (execWatchdogExpiry b s) := by
  unfold execWatchdogExpiry
  dsimp only
  repeat' split
  all_goals exact .ofNext rfl (by simp)

theorem readyIncrement_answers (k : BitVec 5) (s : State) : Answers (.readyIncrement k) s (execReadyIncrement k s) := by
  unfold execReadyIncrement
  dsimp only
  repeat' split
  all_goals exact .ofNext rfl (by simp)

theorem fetchComplete_answers (k : BitVec 5) (gid : BitVec 20) (data : List MByte) (ing : Ingress) (s : State) :
    Answers (.fetchComplete k gid data ing) s (execFetchComplete k gid data s ing) := by
  refine .ofNext rfl ?_
  split
  · next f hf =>
    dsimp only
    split
    · have hi := ingress_mask (L := others) (f.qpn.getD 0) (packetsOf (s.qp (f.qpn.getD 0)) data.length) ing s
        rfl rfl rfl rfl rfl rfl rfl rfl rfl
      generalize ingress _ _ _ _ = r at hi ⊢
      obtain ⟨t, b⟩ := r
      cases b with
      | false => exact hi
      | true => simpa using hi
    · rfl
  · rfl

theorem writeBackComplete_answers (k : BitVec 5) (gid : BitVec 20) (ing : Ingress) (s : State) :
    Answers (.writeBackComplete k gid ing) s (execWriteBackComplete k gid s ing) := by
  refine .ofNext rfl ?_
  split
  · next f hf =>
    split
    · have hi := ingress_mask (L := others) (f.qpn.getD 0) 1 ing s rfl rfl rfl rfl rfl rfl rfl rfl rfl
      generalize ingress _ _ _ _ = r at hi ⊢
      obtain ⟨t, b⟩ := r
      cases b with
      | false => exact hi
      | true => simpa using hi
    · rfl
  · rfl

theorem nakReceived_answers (qpn : BitVec 16) (kind : NakKind) (ing : Ingress) (s : State) :
    Answers (.nakReceived qpn kind ing) s (execNakReceived qpn kind s ing) := by
  refine .ofNext rfl ?_
  split
  · have hi := ingress_mask (L := others) qpn.toNat 1 ing s rfl rfl rfl rfl rfl rfl rfl rfl rfl
    generalize ingress _ _ _ _ = r at hi ⊢
    obtain ⟨t, b⟩ := r
    cases b with
    | false => exact hi
    | true =>
      cases kind
      · dsimp only
        split <;> simpa using hi
      · simpa using hi
  · rfl

theorem rdmaWrite_answers (qpn : BitVec 16) (rkey : Word) (a : Addr) (data : List Byte) (ing : Ingress) (hits : List Hit)
    (s : State) : Answers (.rdmaWrite qpn rkey a data ing hits) s (execRdmaWrite qpn rkey a data ing hits s) := by
  have hok : ∀ n k t, (acceptReq n k (.rdmaAck qpn) t).mask others = t.mask others := by simp
  unfold execRdmaWrite
  dsimp only
  split
  · exact .ofNext rfl (by simp)
  · next h => exact .ofNext rfl (by simp [answerWrite_stays (hok _ _), takeIn_stays h])

theorem rdmaWriteImm_answers (qpn : BitVec 16) (rkey : Word) (a : Addr) (data : List Byte) (imm : Word) (ing : Ingress)
    (hits : List Hit) (s : State) :
    Answers (.rdmaWriteImm qpn rkey a data imm ing hits) s (execRdmaWriteImm qpn rkey a data imm ing hits s) := by
  have himm : ∀ n k t, (if takesRequests t n then presentImm n k imm t else t).mask others = t.mask others := by
    intro n k t
    split <;> simp
  unfold execRdmaWriteImm
  dsimp only
  split
  · exact .ofNext rfl (by simp)
  · next h => exact .ofNext rfl (by simp [answerWrite_stays (himm _ _), takeIn_stays h])

theorem rdmaRead_answers (qpn : BitVec 16) (rkey : Word) (a : Addr) (len : Nat) (ing : Ingress) (hits : List Hit) (s : State) :
    Answers (.rdmaRead qpn rkey a len ing hits) s (execRdmaRead qpn rkey a len ing hits s) := by
  unfold execRdmaRead
  dsimp only
  split
  · exact .ofNext rfl (by simp)
  · next h => exact .ofNext rfl (by simp [takeIn_stays h])

theorem fetchAndAdd_answers (qpn : BitVec 16) (rkey : Word) (a : Addr) (operand : BitVec 64) (ing : Ingress) (hits : List Hit)
    (s : State) : Answers (.fetchAndAdd qpn rkey a operand ing hits) s (execFetchAndAdd qpn rkey a operand ing s hits) := by
  unfold execFetchAndAdd
  dsimp only
  split
  · exact .ofNext rfl (by simp)
  · next s1 h =>
    refine .ofNext rfl ((endRequest_mask (hdst := rfl) (hstruck := rfl) ..).trans ?_)
    split
    · simp [takeIn_stays h]
    · split
      · simp [takeIn_stays h]
      · have hm := atomicAdd_mask (L := others) (originFlags (qpOrigin (touchRegion rkey s1) qpn.toNat)) a.toNat operand
          (touchRegion rkey s1) rfl rfl rfl rfl rfl rfl
        generalize atomicAdd _ _ _ _ = r at hm ⊢
        obtain ⟨_ | old, t⟩ := r <;> simpa [takeIn_stays h] using hm

theorem faultMessage_answers (hits : List Hit) (s : State) : Answers (.faultMessage hits) s (execFaultMessage s hits) := by
  refine .ofNext rfl ?_
  split
  · simp [damages_stay]
  · rfl

theorem acknowledgement_answers (qpn : BitVec 16) (ing : Ingress) (s : State) :
    Answers (.acknowledgement qpn ing) s (execAcknowledgement qpn s ing) := by
  refine .ofNext rfl ?_
  split
  · split
    · refine answered_stays fun t => ?_
      split <;> simp
    · refine answered_stays fun t => ?_
      split <;> simp
    · rfl
  · rfl

theorem rcCounterRead_answers (o : Origin) (a : Addr) (s : State) : Answers (.rcCounterRead o a) s (execRcCounterRead o a s) := by
  refine .ofGuarded (ite_stays ?_)
  have hr := accessRead_mask (L := others) o false (a.toNat - regBase) s rfl rfl rfl
  generalize accessRead _ _ _ _ = r at hr ⊢
  obtain ⟨_ | v, t⟩ := r <;> simpa using hr

theorem bootFail_answers (s : State) : Answers .bootFail s (execBootFail s) := by
  refine .ofNext rfl (ite_stays ?_)
  rw [sendNotice_mask (hreg := rfl) (hndy := rfl) (hout := rfl), setNdy_mask (hndy := rfl)]
  exact (mask_set_pend (s := { s with gate := 0 }) rfl).trans (mask_set_gate rfl)

theorem nextHopAnswer_answers (mac : BitVec 48) (fec : Nat) (s : State) :
    Answers (.nextHopAnswer mac fec) s (execNextHopAnswer mac s fec) := by
  refine .ofNext rfl ?_
  split
  · rfl
  · dsimp only
    split
    · split <;> simp
    · simp

/-- Every command answers as `Answers` says: the rows that answer a next state outright, the guarded ones, those of the scheduler, of
a command port and of SPDM each by their form, the rows that first look at the state by a lemma of their own. -/
theorem exec_answers (c : Instr) (s : State) : Answers c s (exec c s) := by
  cases c with
  | qpLoad _ _ | qpCmdError _ _ | qpReset _ _ | qpRearm _ _ | dstStatusClear _ _ | evrBaseWrite _ _ _
  | evrCfgWrite _ _ | kindCfgWrite _ _ _ | retire _ _ _ _ | returnFromRepair _ _ _ _ | gateWrite _ _ _
  | sleepWrite _ _ _ | unitReset _ _ _ | issueWrite _ _ | runSet _ _ _ | runClr _ _ _ | spareWrite _ _ | devReset _ _
  | fmStart _ _ | tabDataWrite _ _ => exact .ofNext rfl (regWrite_stays ..)
  | dbProdWrite _ _ | dbCqHeadWrite _ _ | enable _ | disable _ => exact .ofNext rfl (hostDoorbell_stays ..)
  | indDataWrite _ | ctxReset _ | trnDataWrite _ => exact .ofNext rfl (hostBob_stays ..)
  | flyNormFwd _ _ | flyNormBwd _ _ | flyNormPgrad _ _ | flySmaxMerge _ _ | flySmaxFwd _ _ | flySmaxBwd _ _
  | flyStatsFree _ => exact .ofNext rfl (flyCommand_stays ..)
  | journalEnable _ | arm _ | resume _ => exact .ofNext rfl (ite_stays (hostBob_stays ..))
  | fuseProgram _ _ | fuseRevoke _ _ => exact .ofNext rfl (ite_stays (regWrite_stays ..))
  | dispatch _ | bucketLeak _ | cnp _ | ccPeriod _ | ackTimeout _ | arpRequest _ _ _ _ _ | noticeTimeout
  | smbSetOffset _ | smbBlockRead | smbAlertResponse | bypass | idcode | samplePreload | extest | clamp | highz
  | testReset | fmDone _ | driftWindow _ | clockMonitorReset | resetPin | powerOn | powerDown | vrFault _
  | powerTrip _ | flowLow | flowRestored | bootStart _ | clockStabilityWindow _ | bootReady | telemetryCopy
  | lifeDaysTick | fuseDone | resetPinRelease | coreReferencePresent =>
    exact .ofNext rfl (by simp)
  | plyWatchExpiry _ | fetchStart _ | fetchTimeout _ _ | regulatorRestart =>
    refine .ofNext rfl ?_
    repeat' split
    all_goals simp
  | reduce _ | prescaleUp _ | prescaleDown _ | sum _ | gather _ | verdictUp _ | verdictDown _ | barrier _
  | fetchNote _ | wbNote _ | replayHold _ | echoReq _ | echoRsp _ | strayMessage _ => exact .ofGuarded (arriveSend_stays ..)
  | skeinRead _ _ _ _ | skeinWrite _ _ _ | scrubGranule _ _ | fenceWrite _ _ _ _ _ | pfcXon _ _ _ | linkDown _ _
  | linkUp _ | telemRead _ | nvmRead _ | sleepEntry _ | unitResetDone _ | whorlPeriod _ | thermtripRelease _
  | retiredSleep _ | rwpWrite _ _ _ _ | registerWrite _ _ _ | pfcXoffRepeat _ _ _ | smbOtherCommand _ =>
    exact .ofGuarded (by simp)
  | engineCompletion _ | unsupportedFrame _ _ | pfcXoff _ _ | pfcStorm _ _ | wake _ =>
    refine .ofGuarded ?_
    repeat' split
    all_goals simp
  | regRead _ | regWrite _ | nvmErase _ | nvmProgram _ =>
    exact .ofGuarded (serve_stays (by simp))
  | spnStage _ _ | spnMma _ _ | crdGather _ _ | crdScatter _ _ | crdSpmm _ _ | expSelect _ _ | expFanout _ _
  | expDispatch _ _ | expAssign _ _ | expCombine _ _ | expPrefetch _ _ | trnLscale _ _ | optAdamw _ _ | optSgdm _ _ =>
    exact .ofNext rfl (offered_stays (by simp))
  | spnSlotDiscard _ =>
    exact .ofNext rfl (accept_stays (by simp))
  | plyReduce _ | plyGather _ | plyVerdict | plyBarrier | plyOrtho _ | plyLrSeed =>
    exact .ofNext rfl (acceptPly_stays (by simp))
  | bootFail => exact bootFail_answers s
  | nextHopAnswer _ _ => exact nextHopAnswer_answers _ _ s
  | faultMessage _ => exact faultMessage_answers _ s
  | acknowledgement _ _ => exact acknowledgement_answers _ _ s
  | rcCounterRead _ _ => exact rcCounterRead_answers _ _ s
  | release _ => exact release_answers _ s
  | imageStart _ => exact imageStart_answers _ s
  | imageUnload => exact imageUnload_answers s
  | imageLoadComplete => exact imageLoadComplete_answers s
  | fetchBurst => exact fetchBurst_answers s
  | burstArrival _ _ => exact burstArrival_answers _ _ s
  | agePromotion _ => exact agePromotion_answers _ s
  | runSizeResolve _ => exact runSizeResolve_answers _ s
  | spareSwapTimeout => exact spareSwapTimeout_answers s
  | watchdogExpiry _ => exact watchdogExpiry_answers _ s
  | readyIncrement _ => exact readyIncrement_answers _ s
  | cpyPermute _ _ => exact .ofNext rfl (cpyPermute_stays ..)
  | fetchComplete _ _ _ _ => exact fetchComplete_answers _ _ _ _ s
  | writeBackComplete _ _ _ => exact writeBackComplete_answers _ _ _ s
  | nakReceived _ _ _ => exact nakReceived_answers _ _ _ s
  | rdmaWrite _ _ _ _ _ _ => exact rdmaWrite_answers _ _ _ _ _ _ s
  | rdmaWriteImm _ _ _ _ _ _ _ => exact rdmaWriteImm_answers _ _ _ _ _ _ _ s
  | rdmaRead _ _ _ _ _ _ => exact rdmaRead_answers _ _ _ _ _ _ s
  | fetchAndAdd _ _ _ _ _ _ => exact fetchAndAdd_answers _ _ _ _ _ _ s
  | nop _ => exact nop_answers _ s
  | barrierSet _ => exact barrierSet_answers _ s
  | phaseClose _ => exact phaseClose_answers _ s
  | getVersion _ => exact getVersion_answers _ s
  | getCapabilities _ => exact getCapabilities_answers _ s
  | negotiateAlgorithms _ => exact negotiateAlgorithms_answers _ s
  | getDigests _ => exact getDigests_answers _ s
  | getCertificate _ _ _ _ => exact getCertificate_answers _ _ _ _ s
  | chunkGet _ _ _ => exact chunkGet_answers _ _ _ s
  | vendorDefinedRequest _ _ _ _ => exact vendorDefinedRequest_answers _ _ _ _ s
  | spdmUnsupportedRequest _ _ => exact spdmUnsupportedRequest_answers _ _ s
  | challenge _ _ _ => exact challenge_answers _ _ _ s
  | getMeasurements _ _ _ _ => exact getMeasurements_answers _ _ _ _ s

/-- Settles O55: the form of each row gives its answer, and the lemmas of what each operation leaves unchanged give the frame. -/
theorem commandsAnswer : Obligations.CommandsAnswer := by
  intro c s
  obtain ⟨hnext, hfault⟩ := exec_answers c s
  refine ⟨fun hw => ?_, hfault⟩
  obtain ⟨t, ht, hm⟩ := hnext hw
  exact ⟨t, ht, sameAt_of_mask hm .pending rfl, sameAt_of_mask hm .wall rfl⟩

end Sys2Proof.Machine
end

section
/-! SUPPORT. EXP_SELECT, and the jobs of EXP_ASSIGN and EXP_PREFETCH: the job a carder holds, and how it ends. -/

namespace Sys2Proof.Machine

/-! ## EXP_SELECT -/

theorem replayRoutes_none {c addr : Nat} {rs : List Nat} {s : State} (h : inReplay s c 2 = false) :
    replayRoutes c addr rs s = s := by
  unfold replayRoutes
  rw [if_neg (by simp [h])]

theorem replayRoutes_reports (c addr : Nat) (rs : List Nat) (s : State) : (replayRoutes c addr rs s).reports = s.reports :=
  sameAt_of_mask (L := pieces [.reg, .mem, .errs, .skn, .dst, .seqs, .trns, .qps, .out]) (by simp [pieces]) .reports rfl

theorem inReplay_of_trns {s t : State} (h : t.trns = s.trns) (c m : Nat) : inReplay t c m = inReplay s c m := by
  unfold inReplay State.trn
  rw [h]

theorem selectCounted_unchanged (i : Issued) (o : ExpOpds) (s : State) :
    Unchanged [.free, .reg, .mem, .errs, .skn, .dst, .seqs, .qps, .crds, .out] s (selectCounted i o s) :=
  unchanged_of_mask (by simp [pieces])

/-- The report of an EXP_SELECT is that of its data phase, with the route attached. -/
theorem selectRun_report (i : Issued) (o : ExpOpds) (s : State) :
    ∃ l r, (selectRun i o s).reports = l ++ [r] ∧ l.length = s.reports.length ∧ r.is = i ∧ r.unit = 16 + cTarget i.cmd
      ∧ r.ran = true ∧ r.aux = (selectEff i o s).aux ∧ r.route = (selectAll i o s).route := by
  obtain ⟨-, ⟨r, hr, his, hu, hran, haux, -⟩, -⟩ := finishCmd_spec (16 + cTarget i.cmd) i (selectEff i o s) (selectCounted i o s)
  have hl : (selectCounted i o s).reports = s.reports := selectCounted_unchanged i o s .reports (by decide)
  unfold selectRun
  rw [replayRoutes_reports]
  unfold setRoute
  rw [hr, hl]
  refine ⟨_, { r with route := (selectAll i o s).route }, by rw [List.map_append, List.map_singleton, if_pos (by rw [his])],
    List.length_map .., his, hu, hran, haux, rfl⟩

/-- Outside a GROUP replay an EXP_SELECT stores its route lists on the state that its lookups leave. -/
theorem selectRun_stored {i : Issued} {o : ExpOpds} {s : State} (h : inReplay s (cCtx i.cmd) 2 = false) :
    StoredAs ((selectEff i o s).stores (selectCounted i o s)) (selectCounted i o s) (clearStruck (selectRun i o s)) := by
  obtain ⟨-, -, hst, hstuck⟩ := finishCmd_spec (16 + cTarget i.cmd) i (selectEff i o s) (selectCounted i o s)
  unfold selectRun
  extract_lets rs
  generalize hf : finishCmd (16 + cTarget i.cmd) i (selectEff i o s) (selectCounted i o s) = f at hst hstuck
  have hfin : Unchanged [.reg, .mem, .errs, .skn, .dst, .reports, .seqs] (selectCounted i o s) f :=
    hf ▸ unchanged_of_mask (by simp [pieces])
  have hset : Unchanged [.reports, .struck] f (clearStruck (setRoute i.id rs f)) := unchanged_of_mask (by simp [pieces])
  have htrns : (setRoute i.id rs f).trns = s.trns :=
    (show f.trns = _ from hfin .trns (by decide)).trans (selectCounted_unchanged i o s .trns (by decide))
  rw [replayRoutes_none ((inReplay_of_trns htrns ..).trans h)]
  exact storedAs_right hst (fun a ha => (hstuck _).trans ha) (.of_unchanged hset (by decide))

theorem selectRun_unchanged (i : Issued) (o : ExpOpds) (s : State) :
    Unchanged [.free, .reg, .mem, .errs, .skn, .dst, .reports, .seqs, .trns, .qps, .crds, .out] s (selectRun i o s) :=
  unchanged_of_mask (by simp [pieces])

/-! ## The port -/

/-- What runs on the state in which a command's data phase begins leaves every port but that command's as it was. -/
theorem ports_after {u : Nat} {hs : List Hit} {s t : State} (h : t.ports = (taken perrReg u hs s).ports) :
    t.port u = (s.port u).drop 1 ∧ ∀ w, w ≠ u → t.port w = s.port w := by
  have hp : t.ports = (popPort u s).ports := h.trans (taken_ports perrReg u hs s)
  have hport : ∀ w, t.port w = (popPort u s).port w := fun w => by unfold State.port; rw [hp]
  refine ⟨?_, fun w hw => ?_⟩
  · rw [hport]
    unfold popPort State.setPort State.port
    rw [mget_mput, if_pos rfl]
  · rw [hport]
    unfold popPort State.setPort State.port
    rw [mget_mput_ne _ (Ne.symm hw)]

/-- A carder takes a command only where it holds no job. -/
theorem Offered.no_job {k : BitVec 5} {op : Nat} {i : Issued} {s : State} (h : Offered (16 + k.toNat) op i s) :
    (s.crd k.toNat).job = none := by
  have hf := h.front
  unfold frontOf at hf
  split at hf
  · cases hf
  · split at hf
    · next hc =>
      have hk := k.isLt
      have hb : (mget s.crds k.toNat {}).job.isSome = false := by
        simp only [Bool.and_eq_true, Bool.not_eq_true', State.unitBusy, Bool.or_eq_false_iff, Bool.and_eq_false_iff,
          decide_eq_false_iff_not, Nat.add_sub_cancel_left] at hc
        obtain ⟨-, ⟨-, hj⟩, -⟩ := hc
        rcases hj with h1 | h1
        · omega
        · exact h1
      exact Option.isSome_eq_false_iff.mp hb |> Option.isNone_iff_eq_none.mp
    · cases hf

/-! ## Jobs -/

theorem setCrd_crd (s : State) (k n : Nat) (x : Crd) : (s.setCrd k x).crd n = if k = n then x else s.crd n := by
  unfold State.setCrd State.crd
  rw [mget_mput]

theorem finishJob_waits {k : Nat} {s : State} {j : CrdJob} (hj : (s.crd k).job = some j) (hw : j.wait ≠ []) : finishJob k s = s := by
  unfold finishJob
  rw [hj]
  exact if_neg (by simpa using hw)

/-- A job that waits for nothing ends with one report, and the carder holds none. -/
theorem finishJob_ends {k : Nat} {s : State} {j : CrdJob} (hj : (s.crd k).job = some j) (hw : j.wait = []) :
    (finishJob k s).crd k = { s.crd k with job := none } ∧ (∀ n, n ≠ k → (finishJob k s).crd n = s.crd n)
      ∧ ∃ r, (finishJob k s).reports = s.reports ++ [r] ∧ r.is = j.is ∧ r.unit = 16 + k ∧ r.ran = true
        ∧ r.aux = if j.assign then BitVec.ofNat 32 j.waited else j.aux := by
  unfold finishJob
  rw [hj]
  dsimp only
  rw [if_pos (by rw [hw]; rfl)]
  refine ⟨(setCrd_crd ..).trans (if_pos rfl), fun n hn => (setCrd_crd ..).trans (if_neg (Ne.symm hn)), _, rfl, rfl, rfl, rfl, rfl⟩

/-- The carder holds the EXP_ASSIGN `i`, of whose experts those of `w` wait and none has waited for a fetch; beside that only memory has
been stored since `s0`. -/
structure Assigning (k : Nat) (i : Issued) (w : List (Nat × Nat × Nat × Bool)) (s0 s : State) : Prop where
  job : ∃ j, (s.crd k).job = some j ∧ j.is = i ∧ j.assign = true ∧ j.waited = 0 ∧ j.wait = w
  others : ∀ n, n ≠ k → s.crd n = s0.crd n
  reports : s.reports = s0.reports

/-- Assigning an expert stores its slot map entry, marks it dirty, and then only changes what the carder holds. -/
theorem assignOne_eq {k : Nat} {s : State} {j : CrdJob} (hj : (s.crd k).job = some j) (x : Nat × Nat × Nat × Bool) (noslot : Bool) :
    ∃ (s2 : State) (y : Crd) (j' : CrdJob), assignOne k x noslot false s = s2.setCrd k y ∧ s2.crds = s.crds
      ∧ s2.reports = s.reports ∧ y.job = some j' ∧ j'.is = j.is ∧ j'.assign = j.assign ∧ j'.waited = j.waited
      ∧ j'.wait = j.wait.filter (fun e => e.1 ≠ x.1) := by
  unfold assignOne
  rw [hj]
  dsimp only
  have hw : ∀ ws, ((writeBytes (srcCrd k) 0 ws s).1).mask (pieces [.reg, .mem, .errs, .skn, .dst, .seqs])
      = s.mask (pieces [.reg, .mem, .errs, .skn, .dst, .seqs]) := by simp [pieces]
  generalize List.map _ (List.range 16) = ws
  have hs : ∀ (b : Bool) (e st : Nat), ((if b then setResidState k e st true (writeBytes (srcCrd k) 0 ws s).1
      else (writeBytes (srcCrd k) 0 ws s).1)).mask (pieces [.reg, .mem, .errs, .skn, .dst, .seqs])
      = s.mask (pieces [.reg, .mem, .errs, .skn, .dst, .seqs]) := by
    intro b e st
    cases b <;> simp [pieces]
  exact ⟨_, _, _, rfl, sameAt_of_mask (hs ..) .crds rfl, sameAt_of_mask (hs ..) .reports rfl, rfl, rfl, rfl, rfl, rfl⟩

/-- An expert that is assigned no longer waits. -/
theorem Assigning.afterOne {k : Nat} {i : Issued} {w : List (Nat × Nat × Nat × Bool)} {s0 s : State} (h : Assigning k i w s0 s)
    (x : Nat × Nat × Nat × Bool) (noslot : Bool) :
    Assigning k i (w.filter (fun e => e.1 ≠ x.1)) s0 (assignOne k x noslot false s) := by
  obtain ⟨⟨j, hj, rfl, ha, hz, rfl⟩, ho, hr⟩ := h
  obtain ⟨s2, y, j', he, hc, hrep, hy, his, ha', hz', hw⟩ := assignOne_eq hj x noslot
  rw [he]
  refine ⟨⟨j', by rw [setCrd_crd, if_pos rfl, hy], his, ha'.trans ha, hz'.trans hz, hw⟩, fun n hn => ?_, hrep.trans hr⟩
  rw [setCrd_crd, if_neg (Ne.symm hn), crd_of_crds hc, ho n hn]

/-- The experts of an EXP_ASSIGN at its acceptance: those that need no fetch are assigned, one after another. -/
def assignReady (k ert : Nat) (ex : List ((Nat × Nat × Nat × Bool) × Bool)) (s : State) : State :=
  ex.foldl (fun s x => if assignsAtOnce s k ert x then assignOne k x.1 x.2 false s else s) s

theorem Assigning.afterReady {k : Nat} {i : Issued} (ert : Nat) (ex : List ((Nat × Nat × Nat × Bool) × Bool)) {s0 s : State} :
    ∀ {w}, Assigning k i w s0 s → ∃ w', Assigning k i w' s0 (assignReady k ert ex s) := by
  induction ex generalizing s with
  | nil => exact fun h => ⟨_, h⟩
  | cons x ex ih =>
    intro w h
    unfold assignReady
    rw [List.foldl_cons]
    split
    · exact ih (h.afterOne x.1 x.2)
    · exact ih h

/-- Where no expert has a routed token, every one is assigned at once and none waits. -/
theorem Assigning.afterAll {k : Nat} {i : Issued} {ert : Nat} {ex : List ((Nat × Nat × Nat × Bool) × Bool)} {s0 s : State} :
    ∀ {w}, Assigning k i w s0 s → (∀ x ∈ ex, x.1.2.2.1 = 0) → (∀ e ∈ w, ∃ x ∈ ex, x.1.1 = e.1) →
      Assigning k i [] s0 (assignReady k ert ex s) := by
  induction ex generalizing s with
  | nil =>
    intro w h _ hall
    have hw : w = [] := List.eq_nil_iff_forall_not_mem.mpr fun e he => by simpa using hall e he
    exact hw ▸ h
  | cons x ex ih =>
    intro w h hz hall
    have hx : assignsAtOnce s k ert x = true := by
      unfold assignsAtOnce
      simp [hz x (.head _)]
    unfold assignReady
    rw [List.foldl_cons, if_pos hx]
    refine ih (h.afterOne x.1 x.2) (fun y hy => hz y (.tail _ hy)) fun e he => ?_
    obtain ⟨he1, he2⟩ := List.mem_filter.mp he
    obtain ⟨y, hy, hye⟩ := hall e he1
    rcases List.mem_cons.mp hy with rfl | hy
    · simp [hye] at he2
    · exact ⟨y, hy, hye⟩

/-! ## EXP_ASSIGN -/

/-- Without a routed token no expert is looked up: the state is as it was. -/
theorem assignLookups_none {i : Issued} {r : Route} {p k : Nat} {s : State}
    (h : ∀ j, j < r.experts p → rdNat s (r.list_ p j) 4 = 0) :
    (assignLookups i r p k s).1 = s ∧ ∀ x ∈ (assignLookups i r p k s).2.2, x.1.2.2.1 = 0 := by
  unfold assignLookups
  refine List.foldlRecOn (motive := fun acc : State × Eff × List ((Nat × Nat × Nat × Bool) × Bool) =>
    acc.1 = s ∧ ∀ x ∈ acc.2.2, x.1.2.2.1 = 0) _ _ ⟨rfl, by simp⟩ ?_
  rintro acc ⟨hs, hx⟩ j hj
  have hn := h j (List.mem_range.mp hj)
  dsimp only
  rw [hn, if_neg (by simp)]
  refine ⟨hs, fun x hm => ?_⟩
  rcases List.mem_append.mp hm with hm | hm
  · exact hx x hm
  · rw [List.mem_singleton.mp hm]

/-- The job of an EXP_ASSIGN waits for every expert, then those that need no fetch are assigned, and the job may end. -/
theorem assignRun_eq (i : Issued) (o : ExpOpds) (s : State) :
    ∃ s4, assignRun i o s
        = finishJob (cTarget i.cmd) (assignReady (cTarget i.cmd) o.r.ert
            (assignLookups i o.r (expNo i.cmd) (cTarget i.cmd) s).2.2 s4)
      ∧ Assigning (cTarget i.cmd) i ((assignLookups i o.r (expNo i.cmd) (cTarget i.cmd) s).2.2.map (·.1))
          (assignLookups i o.r (expNo i.cmd) (cTarget i.cmd) s).1 s4 := by
  unfold assignRun assignReady
  dsimp only
  generalize assignLookups i o.r (expNo i.cmd) (cTarget i.cmd) s = a
  obtain ⟨s1, e, ex⟩ := a
  dsimp only
  generalize execStatus _ _ _ _ = st
  obtain ⟨st, kind⟩ := st
  have hu : ∀ l fs, Unchanged [.reg, .mem, .errs, .skn, .dst, .seqs] s1
      (faultsOf (srcCrd (cTarget i.cmd)) fs i.id (touchReads (srcCrd (cTarget i.cmd)) 0 l s1)) :=
    fun l fs => unchanged_of_mask (by simp [pieces])
  refine ⟨_, rfl, ⟨_, by rw [setCrd_crd, if_pos rfl], rfl, rfl, rfl, rfl⟩, fun n hn => ?_, ?_⟩
  · rw [setCrd_crd, if_neg (Ne.symm hn)]
    exact crd_of_crds (hu _ _ .crds (by decide)) n
  · exact hu _ _ .reports (by decide)

/-- The lookups of an EXP_ASSIGN make no report. -/
theorem assignLookups_reports (i : Issued) (r : Route) (p k : Nat) (s : State) :
    (assignLookups i r p k s).1.reports = s.reports :=
  sameAt_of_mask (L := pieces [.reg, .mem, .errs, .skn, .dst, .seqs, .qps, .crds, .out]) (by simp [pieces]) .reports rfl

/-- An EXP_ASSIGN waits, or has ended with one report. -/
theorem assignRun_waits_or_ends {i : Issued} {k : Nat} (hk : cTarget i.cmd = k) (o : ExpOpds) (s : State) :
    (∃ j, ((assignRun i o s).crd k).job = some j ∧ j.is = i ∧ j.assign = true ∧ j.wait ≠ []
        ∧ (assignRun i o s).reports = s.reports)
      ∨ (((assignRun i o s).crd k).job = none
        ∧ ∃ r, (assignRun i o s).reports = s.reports ++ [r] ∧ r.is = i ∧ r.unit = 16 + k ∧ r.ran = true ∧ r.aux = 0) := by
  subst hk
  obtain ⟨s4, he, h4⟩ := assignRun_eq i o s
  obtain ⟨w, ⟨j, hj, his, ha, hz, hw⟩, -, hrep⟩ := h4.afterReady o.r.ert (assignLookups i o.r (expNo i.cmd) (cTarget i.cmd) s).2.2
  rw [he]
  rw [assignLookups_reports] at hrep
  by_cases hwait : j.wait = []
  · obtain ⟨hnone, -, r, hr, hri, hru, hrr, hra⟩ := finishJob_ends hj hwait
    exact .inr ⟨by rw [hnone], r, by rw [hr, hrep], hri.trans his, hru, hrr, by rw [hra, ha, hz]; rfl⟩
  · rw [finishJob_waits hj hwait]
    exact .inl ⟨j, hj, his, ha, hwait, hrep⟩

/-- An EXP_ASSIGN without a routed token ends at once; the other carders are as they were. -/
theorem assignRun_ends {i : Issued} {o : ExpOpds} {s : State} {k : Nat} (hk : cTarget i.cmd = k)
    (hn : ∀ j, j < o.r.experts (expNo i.cmd) → rdNat s (o.r.list_ (expNo i.cmd) j) 4 = 0) :
    ((assignRun i o s).crd k).job = none
      ∧ (∃ r, (assignRun i o s).reports = s.reports ++ [r] ∧ r.is = i ∧ r.unit = 16 + k ∧ r.ran = true ∧ r.aux = 0)
      ∧ ∀ n, n ≠ k → (assignRun i o s).crd n = s.crd n := by
  subst hk
  obtain ⟨s4, he, h4⟩ := assignRun_eq i o s
  obtain ⟨hs, hz0⟩ := assignLookups_none (i := i) (k := cTarget i.cmd) hn
  obtain ⟨⟨j, hj, his, ha, hz, hw⟩, ho, hrep⟩ := h4.afterAll (ert := o.r.ert) hz0 (fun e he => by
    obtain ⟨x, hx, rfl⟩ := List.mem_map.mp he
    exact ⟨x, hx, rfl⟩)
  obtain ⟨hnone, hothers, r, hr, hri, hru, hrr, hra⟩ := finishJob_ends hj hw
  rw [he]
  refine ⟨by rw [hnone], ⟨r, by rw [hr, hrep, hs], hri.trans his, hru, hrr, by rw [hra, ha, hz]; rfl⟩, fun n hne => ?_⟩
  rw [hothers n hne, ho n hne, hs]

/-! ## EXP_PREFETCH -/

/-- An element of the list of an EXP_PREFETCH that fetches nothing: poisoned, or no expert of the partition. -/
def SkipsFetch (i : Issued) (o : ExpOpds) (x : RdElem) : Prop :=
  x.poison = true ∨ signed 32 x.code < (o.r.eBase + expNo i.cmd * o.r.epp : Nat)
    ∨ ((o.r.eBase + expNo i.cmd * o.r.epp + o.r.experts (expNo i.cmd) : Nat) : Int) ≤ signed 32 x.code

/-- An EXP_PREFETCH puts in hand a job that waits for the fetches its lookups have started, and the job may end. Where its list
fetches nothing it waits for none, and nothing but reads and faults has come before. -/
theorem prefetchRun_eq (i : Issued) (o : ExpOpds) (s : State) :
    ∃ (s3 : State) (j : CrdJob), prefetchRun i o s = finishJob (cTarget i.cmd)
        (s3.setCrd (cTarget i.cmd) { s3.crd (cTarget i.cmd) with job := some j })
      ∧ j.is = i ∧ j.assign = false ∧ s3.reports = s.reports
      ∧ ((∀ n, n < o.d0.extent 0 → SkipsFetch i o (readElem s o.d0 [n])) → s3.crds = s.crds ∧ j.wait = [] ∧ j.aux = 0) := by
  unfold prefetchRun
  extract_lets c k r p step lo rs e0
  generalize hf : List.foldl _ _ rs = acc
  have hrep : acc.1.reports = s.reports := by
    rw [← hf]
    refine sameAt_of_mask (L := pieces [.reg, .mem, .errs, .skn, .dst, .seqs, .qps, .crds, .out]) ?_ .reports rfl
    refine mask_foldl_fst (a := (s, _)) (fun acc x => ?_) _
    split
    · rfl
    · dsimp only
      split
      · rfl
      · simp [pieces]
  have hskip : (∀ n, n < o.d0.extent 0 → SkipsFetch i o (readElem s o.d0 [n])) → acc.1 = s ∧ acc.2.2 = [] := by
    intro hall
    rw [← hf]
    refine List.foldlRecOn (motive := fun acc : State × Eff × List Nat => acc.1 = s ∧ acc.2.2 = []) _ _ ⟨rfl, rfl⟩ ?_
    rintro a ⟨ha, hl⟩ x hx
    obtain ⟨n, hn, rfl⟩ := List.mem_map.mp hx
    split
    · exact ⟨ha, hl⟩
    · next hp =>
      have ho := (hall n (List.mem_range.mp hn)).resolve_left hp
      rw [if_pos (by simpa only [Bool.or_eq_true, decide_eq_true_eq] using ho)]
      exact ⟨ha, hl⟩
  obtain ⟨s1, e1, wait⟩ := acc
  dsimp only at hrep hskip ⊢
  generalize execStatus _ _ _ _ = st
  obtain ⟨st, kind⟩ := st
  have hu : ∀ fs, Unchanged [.reg, .mem, .errs, .skn, .dst, .seqs] s1
      (faultsOf (srcCrd k) fs i.id (touchReads (srcCrd k) 0 e1.secs s1)) := fun fs => unchanged_of_mask (by simp [pieces])
  refine ⟨_, _, rfl, rfl, rfl, (show _ = s1.reports from hu _ .reports (by decide)).trans hrep, fun hall => ?_⟩
  obtain ⟨rfl, rfl⟩ := hskip hall
  exact ⟨hu _ .crds (by decide), rfl, rfl⟩

/-- An EXP_PREFETCH waits, or has ended with one report. -/
theorem prefetchRun_waits_or_ends {i : Issued} {k : Nat} (hk : cTarget i.cmd = k) (o : ExpOpds) (s : State) :
    (∃ j, ((prefetchRun i o s).crd k).job = some j ∧ j.is = i ∧ j.assign = false ∧ j.wait ≠ []
        ∧ (prefetchRun i o s).reports = s.reports)
      ∨ (((prefetchRun i o s).crd k).job = none
        ∧ ∃ r, (prefetchRun i o s).reports = s.reports ++ [r] ∧ r.is = i ∧ r.unit = 16 + k ∧ r.ran = true) := by
  subst hk
  obtain ⟨s3, j, he, his, ha, hrep, -⟩ := prefetchRun_eq i o s
  have hj : ((s3.setCrd (cTarget i.cmd) { s3.crd (cTarget i.cmd) with job := some j }).crd (cTarget i.cmd)).job = some j := by
    rw [setCrd_crd, if_pos rfl]
  rw [he]
  by_cases hwait : j.wait = []
  · obtain ⟨hnone, -, r, hr, hri, hru, hrr, -⟩ := finishJob_ends hj hwait
    exact .inr ⟨by rw [hnone], r, hr.trans (congrArg (· ++ [r]) hrep), hri.trans his, hru, hrr⟩
  · rw [finishJob_waits hj hwait]
    exact .inl ⟨j, hj, his, ha, hwait, hrep⟩

/-- An EXP_PREFETCH whose list fetches nothing ends at once, and every carder holds what it held. -/
theorem prefetchRun_ends {i : Issued} {o : ExpOpds} {s : State} {k : Nat} (hk : cTarget i.cmd = k) (hnone : (s.crd k).job = none)
    (hall : ∀ n, n < o.d0.extent 0 → SkipsFetch i o (readElem s o.d0 [n])) :
    (∀ n, (prefetchRun i o s).crd n = s.crd n)
      ∧ ∃ r, (prefetchRun i o s).reports = s.reports ++ [r] ∧ r.is = i ∧ r.unit = 16 + k ∧ r.ran = true ∧ r.aux = 0 := by
  subst hk
  obtain ⟨s3, j, he, his, ha, hrep, hrest⟩ := prefetchRun_eq i o s
  obtain ⟨hcrds, hwait, haux⟩ := hrest hall
  have hj : ((s3.setCrd (cTarget i.cmd) { s3.crd (cTarget i.cmd) with job := some j }).crd (cTarget i.cmd)).job = some j := by
    rw [setCrd_crd, if_pos rfl]
  obtain ⟨hown, hothers, r, hr, hri, hru, hrr, hra⟩ := finishJob_ends hj hwait
  rw [he]
  refine ⟨fun n => ?_, r, hr.trans (congrArg (· ++ [r]) hrep), hri.trans his, hru, hrr, by rw [hra, ha, haux]; rfl⟩
  by_cases hn : n = cTarget i.cmd
  · subst hn
    rw [hown, setCrd_crd, if_pos rfl, crd_of_crds hcrds]
    generalize s.crd (cTarget i.cmd) = x at hnone
    cases x
    subst hnone
    rfl
  · rw [hothers n hn, setCrd_crd, if_neg (Ne.symm hn), crd_of_crds hcrds]

/-! ## The rows -/

section
variable {k : BitVec 5} {hs : List Hit} {s s0 t : State}

theorem taken_trns_eq (h0 : s0 = taken perrReg (16 + k.toNat) hs s) : s0.trns = s.trns :=
  h0 ▸ taken_unchanged perrReg (16 + k.toNat) hs s .trns (by decide)

/-- The frame of a row of the expert family, from that of what it runs. -/
theorem row_unchanged {ps qs : List Piece} (h0 : s0 = taken perrReg (16 + k.toNat) hs s) (h : Unchanged ps s0 t)
    (hq : Piece.struck :: Piece.ports :: .reg :: .dst :: .seqs :: ps ⊆ qs) : Unchanged qs s (clearStruck t) := by
  have hc : Unchanged [.struck] t (clearStruck t) := unchanged_of_mask (by simp [pieces])
  have h1 : Unchanged qs s s0 := h0 ▸ (taken_unchanged perrReg (16 + k.toNat) hs s).mono (fun p hp => hq (by
    simp only [List.mem_cons, List.not_mem_nil, or_false] at hp ⊢
    tauto))
  have h2 : Unchanged qs s0 t := h.mono (fun p hp => hq (by simp [hp]))
  have h3 : Unchanged qs t (clearStruck t) := hc.mono (fun p hp => hq (by simp_all))
  exact (h1.trans h2 (List.Subset.refl _) (List.Subset.refl _)).trans h3 (List.Subset.refl _) (List.Subset.refl _)

theorem row_ports (h0 : s0 = taken perrReg (16 + k.toNat) hs s) (h : t.ports = s0.ports) :
    (clearStruck t).port (16 + k.toNat) = (s.port (16 + k.toNat)).drop 1
      ∧ ∀ w, w ≠ 16 + k.toNat → (clearStruck t).port w = s.port w :=
  ports_after ((clearStruck_ports ..).trans (h0 ▸ h))

theorem taken_reports_eq (h0 : s0 = taken perrReg (16 + k.toNat) hs s) : s0.reports = s.reports := h0 ▸ taken_reports ..

theorem taken_crd_eq (h0 : s0 = taken perrReg (16 + k.toNat) hs s) (n : Nat) : s0.crd n = s.crd n :=
  crd_of_crds (h0 ▸ taken_unchanged perrReg (16 + k.toNat) hs s .crds (by decide)) n

end

theorem assignRun_unchanged (i : Issued) (o : ExpOpds) (s : State) :
    Unchanged [.reg, .mem, .errs, .skn, .dst, .reports, .seqs, .qps, .crds, .out] s (assignRun i o s) :=
  unchanged_of_mask (by simp [pieces])

theorem prefetchRun_unchanged (i : Issued) (o : ExpOpds) (s : State) :
    Unchanged [.reg, .mem, .errs, .skn, .dst, .reports, .seqs, .qps, .crds, .out] s (prefetchRun i o s) :=
  unchanged_of_mask (by simp [pieces])

theorem clearStruck_crd (s : State) (n : Nat) : (clearStruck s).crd n = s.crd n := crd_of_crds (clearStruck_crds s) n

theorem execExpAssign_runs {k : BitVec 5} {hs : List Hit} {i : Issued} {o : ExpOpds} {s s0 : State}
    (h0 : s0 = taken perrReg (16 + k.toNat) hs s) (hoff : Offered (16 + k.toNat) 0x4B i s) (hc : passes (blockCheck i s0) = .ok o) :
    exec (.expAssign k hs) s = .next (clearStruck (assignRun i o s0)) := by
  subst h0
  exact congrArg _ (withHits_runs hoff hc rfl)

theorem execExpPrefetch_runs {k : BitVec 5} {hs : List Hit} {i : Issued} {o : ExpOpds} {s s0 : State}
    (h0 : s0 = taken perrReg (16 + k.toNat) hs s) (hoff : Offered (16 + k.toNat) 0x4D i s)
    (hc : passes (prefetchCheck i s0) = .ok o) : exec (.expPrefetch k hs) s = .next (clearStruck (prefetchRun i o s0)) := by
  subst h0
  exact congrArg _ (withHits_runs hoff hc rfl)

/-- Settles O7: the job that a carder holds is followed through the assignments and its end. -/
theorem expertSelectAndJobsRun : Obligations.ExpertSelectAndJobsRun := by
  refine ⟨?_, ?_, ?_, ?_, ?_⟩
  · intro k hs i o s s0 h0 hoff hc
    have hexec : exec (.expSelect k hs) s = .next (clearStruck (selectRun i o s0)) := by
      subst h0
      exact congrArg _ (withHits_runs hoff hc rfl)
    have hu := selectRun_unchanged i o s0
    obtain ⟨hport, hothers⟩ := row_ports h0 (hu .ports (by decide))
    obtain ⟨l, r, hr, hl, hrest⟩ := selectRun_report i o s0
    exact ⟨_, hexec, hport, hothers, ⟨l, r, (clearStruck_reports ..).trans hr, hl.trans (congrArg _ (taken_reports_eq h0)), hrest⟩,
      fun hrep => selectRun_stored ((inReplay_of_trns (taken_trns_eq h0) ..).trans hrep), row_unchanged h0 hu (by decide)⟩
  · intro k hs i o s s0 h0 hk hoff hc
    have hexec := execExpAssign_runs h0 hoff hc
    have hu := assignRun_unchanged i o s0
    obtain ⟨hport, hothers⟩ := row_ports h0 (hu .ports (by decide))
    have hend := assignRun_waits_or_ends hk o s0
    rw [taken_reports_eq h0] at hend
    refine ⟨_, hexec, rfl, hport, hothers, ?_, row_unchanged h0 hu (by decide)⟩
    rw [clearStruck_crd, clearStruck_reports]
    exact hend
  · intro k hs i o s s0 h0 hk hoff hc hn
    have hexec := execExpAssign_runs h0 hoff hc
    obtain ⟨hnone, hrep, hothers⟩ := assignRun_ends hk hn
    rw [taken_reports_eq h0] at hrep
    refine ⟨_, hexec, by rw [clearStruck_crd, hnone], by rw [clearStruck_reports]; exact hrep, fun n hne => ?_⟩
    rw [clearStruck_crd, hothers n hne, taken_crd_eq h0]
  · intro k hs i o s s0 h0 hk hoff hc
    have hexec := execExpPrefetch_runs h0 hoff hc
    have hu := prefetchRun_unchanged i o s0
    obtain ⟨hport, hothers⟩ := row_ports h0 (hu .ports (by decide))
    have hend := prefetchRun_waits_or_ends hk o s0
    rw [taken_reports_eq h0] at hend
    refine ⟨_, hexec, rfl, hport, hothers, ?_, row_unchanged h0 hu (by decide)⟩
    rw [clearStruck_crd, clearStruck_reports]
    exact hend
  · intro k hs i o s s0 h0 hk hoff hc hall
    have hexec := execExpPrefetch_runs h0 hoff hc
    have hnone : (s0.crd k.toNat).job = none := by rw [taken_crd_eq h0, hoff.no_job]
    obtain ⟨hcrd, hrep⟩ := prefetchRun_ends hk hnone hall
    rw [taken_reports_eq h0] at hrep
    refine ⟨_, hexec, fun n => ?_, by rw [clearStruck_reports]; exact hrep,
      row_unchanged h0 (prefetchRun_unchanged i o s0) (by decide)⟩
    rw [clearStruck_crd, hcrd, taken_crd_eq h0]

end Sys2Proof.Machine
end

section
/-! SUPPORT. Messages sent, register rows, and what one access of a register comes to. -/

namespace Sys2Proof.Machine

/-! ## Messages -/

/-- A message that is sent has entered its source's queue, or was lost to a full one. -/
theorem sent_sendMsg (m : Msg) (s : State) : Sent m none s (sendMsg m none s) := by
  unfold Sent sendMsg
  dsimp only
  split
  · next h => exact ⟨by simp, by simp; omega, fun k hk => by simp [Ne.symm hk]⟩
  · next h => exact ⟨rfl, by simp; omega, fun k hk => by simp [Ne.symm hk]⟩

theorem sendMsg_unchanged (m : Msg) (c : Option Nat) (s : State) : Unchanged [.dst, .seqs] s (sendMsg m c s) :=
  unchanged_of_mask (by simp [pieces])

theorem flagFrom_self (f : Byte) (q : List QMsg) : flagFrom f q.length q = q := by simp [flagFrom]

/-- A table whose lists grow by nothing: each key still reads as it did. -/
theorem mget_map_flagFrom (f : Byte) (g : Nat → Nat) (l : AMap (List QMsg)) (k : Nat) (hg : g k = (mget l k []).length) :
    mget (l.map (fun e => (e.1, flagFrom f (g e.1) e.2))) k [] = mget l k [] := by
  induction l with
  | nil => rfl
  | cons e l ih =>
    obtain ⟨j, q⟩ := e
    simp only [List.map_cons, mget] at hg ⊢
    split
    · next h =>
      subst h
      rw [if_pos rfl] at hg
      rw [hg, flagFrom_self]
    · next h =>
      rw [if_neg h] at hg
      exact ih hg

/-- Where no message has been sent, flagging the new ones changes no queue. -/
theorem tagNew_sameDistaff {f : Byte} {s t : State} (h : t.dst = s.dst) : SameDistaff s (tagNew f s t) := by
  unfold SameDistaff tagNew
  rw [h]
  exact ⟨rfl, fun k => mget_map_flagFrom f (fun k => (mget s.dst.queues k []).length) s.dst.queues k rfl⟩

theorem tagNew_unchanged (f : Byte) (s t : State) : Unchanged [.dst] t (tagNew f s t) := unchanged_of_mask (by simp [pieces])

/-! ## One access -/

theorem accessWrite_unreached {o : Origin} {a : Nat} {v : Word} {e : Bool} {s : State} {k : Byte} {source : BitVec 16}
    (h : reachRefusal o a s = some (k, source)) :
    (accessWrite o a v e s).2 = raiseAccess o source k (regBase + a) s := by
  unfold accessWrite
  rw [h]

/-- A write that reaches its register and is stored. -/
theorem regWrite_stored {o : Origin} {a : Nat} {v : Word} {e : Bool} {s t : State} (hr : Reaches o a s)
    (hw : writeReg o a v e s = wrDone t) : regWrite o a v e s = tagNew (originFlags o) s t := by
  obtain ⟨hin, hreach⟩ := hr
  unfold regWrite accessWrite
  rw [if_pos hin, hreach]
  dsimp only
  rw [hw]
  rfl

/-- A write that reaches its register and is refused. -/
theorem regWrite_refused {o : Origin} {a : Nat} {v : Word} {e : Bool} {k : Byte} {s t : State} (hr : Reaches o a s)
    (hw : writeReg o a v e s = wrRefuse k t) :
    regWrite o a v e s = raiseAccess o (src (a / 16777216) (a / 65536 % 256)) k (regBase + a) t := by
  obtain ⟨hin, hreach⟩ := hr
  unfold regWrite accessWrite
  rw [if_pos hin, hreach]
  dsimp only
  rw [hw]
  rfl

theorem refused_raiseAccess (o : Origin) (a : Nat) (s : State) :
    Refused o a s (raiseAccess o (src (a / 16777216) (a / 65536 % 256)) kACCESS_REFUSED (regBase + a) s) :=
  ⟨sent_sendMsg _ s, sendMsg_unchanged _ none s⟩

/-! ## Persistent writes -/

theorem appendRecord_unchanged (off : Nat) (v : Word) (wear : Nat) (s : State) :
    Unchanged [.nvm, .ndy] s (appendRecord off v wear s) := unchanged_of_mask (by simp [pieces])

theorem persist_full {off : Nat} {s : State} (h : 100000 ≤ s.wearOf off) (v : Word) (e : Bool) : persist off v e s = (s, false) :=
  if_pos h

theorem persist_error {off : Nat} {s : State} (h : s.wearOf off < 100000) (v : Word) :
    persist off v true s = (faultParam srcNdy kNVM_WRITE off s, false) := by
  unfold persist
  rw [if_neg (by omega), if_pos rfl]

/-- The state after a write-through that the NVM takes. -/
def persisted (off : Nat) (v : Word) (s : State) : State :=
  queueWrite { appendRecord off v (s.wearOf off + 1) s with
    rwp := mput (appendRecord off v (s.wearOf off + 1) s).rwp off v 0
    wear := mset (appendRecord off v (s.wearOf off + 1) s).wear off (s.wearOf off + 1) }

theorem persist_stored {off : Nat} {s : State} (h : s.wearOf off < 100000) (v : Word) :
    persist off v false s = (persisted off v s, true) := by
  unfold persist
  rw [if_neg (by omega), if_neg (by simp)]
  rfl

theorem persisted_unchanged (off : Nat) (v : Word) (s : State) : Unchanged [.rwp, .wear, .nvm, .ndy] s (persisted off v s) :=
  (appendRecord_unchanged off v (s.wearOf off + 1) s).trans (m := [.rwp, .wear, .ndy]) (unchanged_of_mask (by
    unfold persisted
    rw [queueWrite_mask (hndy := rfl)]
    exact (mask_set_wear (s := { appendRecord off v (s.wearOf off + 1) s with
      rwp := mput (appendRecord off v (s.wearOf off + 1) s).rwp off v 0 }) rfl).trans (mask_set_rwp rfl)))
    (by decide) (by decide)

theorem persisted_pers (off : Nat) (v : Word) (s : State) (a : Nat) :
    (persisted off v s).pers a = if off = a then v else s.pers a := by
  have h : (appendRecord off v (s.wearOf off + 1) s).rwp = s.rwp := appendRecord_unchanged _ _ _ _ .rwp (by decide)
  unfold persisted queueWrite State.pers
  dsimp only
  rw [mget_mput, h]

theorem persisted_wearOf (off : Nat) (v : Word) (s : State) (a : Nat) :
    (persisted off v s).wearOf a = if off = a then s.wearOf off + 1 else s.wearOf a := by
  have h : (appendRecord off v (s.wearOf off + 1) s).wear = s.wear := appendRecord_unchanged _ _ _ _ .wear (by decide)
  have hm : (persisted off v s).wear = mset s.wear off (s.wearOf off + 1) := by
    unfold persisted queueWrite
    dsimp only
    rw [h]
  conv_lhs => unfold State.wearOf
  rw [hm, mget_mset]
  rfl

/-- The register at offset `off` stores its persistent fields, `x` of the value `v`. -/
def StoresPers (off : Nat) (v x : Word) : Prop :=
  ∃ r : RegRow, v &&& r.mask (fun t => t = .rwp) = x ∧ ∀ o e s, writeReg o off v e s = storePers off r v e s

section
variable {o : Origin} {off : Nat} {v x : Word} {s : State}

theorem StoresPers.stored (h : StoresPers off v x) (hr : Reaches o off s) (hw : s.wearOf off < 100000) :
    ∃ t, regWrite o off v false s = t ∧ t.pers off = x ∧ t.wearOf off = s.wearOf off + 1
      ∧ (∀ a, a ≠ off → t.pers a = s.pers a ∧ t.wearOf a = s.wearOf a) ∧ SameDistaff s t
      ∧ Unchanged [.rwp, .wear, .nvm, .ndy, .dst] s t := by
  obtain ⟨r, hx, hwr⟩ := h
  have hst : writeReg o off v false s = wrDone (persisted off x s) := by
    rw [hwr]
    unfold storePers
    rw [hx, persist_stored hw]
  refine ⟨_, regWrite_stored hr hst, ?_, ?_, fun a ha => ⟨?_, ?_⟩,
    tagNew_sameDistaff (persisted_unchanged off x s .dst (by decide)),
    (persisted_unchanged off x s).trans (tagNew_unchanged _ s _) (by decide) (by decide)⟩
  · exact (persisted_pers off x s off).trans (if_pos rfl)
  · exact (persisted_wearOf off x s off).trans (if_pos rfl)
  · exact (persisted_pers off x s a).trans (if_neg (Ne.symm ha))
  · exact (persisted_wearOf off x s a).trans (if_neg (Ne.symm ha))

theorem StoresPers.error (h : StoresPers off v x) (hr : Reaches o off s) (hw : s.wearOf off < 100000) :
    ∃ u, Sent { source := srcNdy, kind := kNVM_WRITE, flags := flagParam, addr := BitVec.ofNat 48 off } none s u
      ∧ Unchanged [.dst, .seqs] s u ∧ Refused o off u (regWrite o off v true s) := by
  obtain ⟨r, hx, hwr⟩ := h
  have hst : writeReg o off v true s = wrRefuse kACCESS_REFUSED (faultParam srcNdy kNVM_WRITE off s) := by
    rw [hwr]
    unfold storePers
    rw [persist_error hw]
  rw [regWrite_refused hr hst]
  exact ⟨_, sent_sendMsg _ s, sendMsg_unchanged _ none s, refused_raiseAccess ..⟩

theorem StoresPers.full (h : StoresPers off v x) (hr : Reaches o off s) (hw : 100000 ≤ s.wearOf off) (e : Bool) :
    Refused o off s (regWrite o off v e s) := by
  obtain ⟨r, hx, hwr⟩ := h
  have hst : writeReg o off v e s = wrRefuse kACCESS_REFUSED s := by
    rw [hwr]
    unfold storePers
    rw [persist_full hw]
  rw [regWrite_refused hr hst]
  exact refused_raiseAccess ..

end

/-! ## Rows -/

theorem regOff_parts {code inst o : Nat} (hi : inst < 256) (ho : o < 65536) :
    regOff code inst o / 16777216 = code ∧ regOff code inst o / 65536 % 256 = inst ∧ regOff code inst o % 65536 = o := by
  unfold regOff
  omega

/-- The row of a register of any block but a port. -/
theorem regRow_regOff {code inst o : Nat} (hi : inst < 256) (ho : o < 65536) (hc : code ≠ 10 ∨ o < 0x20) :
    regRow (regOff code inst o) = (regRows code).find? (fun r => r.has o && (!r.only0 || decide (inst = 0))) := by
  obtain ⟨h1, h2, h3⟩ := regOff_parts (code := code) hi ho
  unfold regRow
  rw [h1, h2, h3]
  exact if_neg (by simp; omega)

/-- The offset of fence register `i` within its skein's block. -/
def fenceOff (i : Nat) : Nat := if i < 16 then 0x200 + 4 * i else 0x240 + 4 * (i - 16)

/-- The fields of a fence register. -/
def fenceRow (i : Nat) : RegRow :=
  if i < 16 then { off := 0x0200, fields := [⟨0, 14, .rwp, 0⟩, ⟨31, 1, .rwp, 0⟩], stride := 4, count := 16 }
  else { off := 0x0240, fields := [⟨0, 5, .rwp, 0⟩, ⟨5, 4, .rwp, 0⟩, ⟨9, 4, .rwp, 0⟩, ⟨31, 1, .rwp, 0⟩]
         stride := 4, count := 2 }

theorem fence_find : ∀ (b : Bool) (i : Fin 18),
    (regRows 5).find? (fun r => r.has (fenceOff i) && (!r.only0 || b)) = some (fenceRow i) := by decide

theorem fenceOff_lt {i : Nat} (hi : i < 18) : 0x200 ≤ fenceOff i ∧ fenceOff i < 0x248 := by
  unfold fenceOff
  split <;> omega

theorem regRow_fence {k i : Nat} (hk : k < 32) (hi : i < 18) : regRow (rSkn k (fenceOff i)) = some (fenceRow i) := by
  obtain ⟨-, h⟩ := fenceOff_lt hi
  unfold rSkn
  rw [regRow_regOff (by omega) (by omega) (by omega)]
  exact fence_find _ ⟨i, hi⟩

theorem writeReg_fence {k i : Nat} (hk : k < 32) (hi : i < 18) (o : Origin) (v : Word) (e : Bool) (s : State) :
    writeReg o (rSkn k (fenceOff i)) v e s
      = if fenceOk (fenceOff i) v then storePers (rSkn k (fenceOff i)) (fenceRow i) v e s else wrRefuse kACCESS_REFUSED s := by
  obtain ⟨h1, h2⟩ := fenceOff_lt hi
  obtain ⟨hc, hinst, ho⟩ := regOff_parts (code := 5) (inst := k) (o := fenceOff i) (by omega) (by omega)
  have hrw : (fenceRow i).allRo = false ∧ (fenceRow i).isRc = false := by
    unfold fenceRow
    split <;> decide
  unfold writeReg
  rw [regRow_fence hk hi]
  dsimp only
  rw [hrw.1, hrw.2]
  unfold rSkn
  rw [hc, hinst]
  show writeSkn k (regOff 5 k (fenceOff i)) (fenceRow i) v e s = _
  unfold writeSkn
  rw [ho]
  exact if_pos h1

/-- A legal fence value is stored, in its fields (R338). -/
theorem storesPers_fence {k i : Nat} (hk : k < 32) (hi : i < 18) {v : Word} (h : fenceOk (fenceOff i) v = true) :
    StoresPers (rSkn k (fenceOff i)) v (v &&& (fenceRow i).mask (fun t => t = .rwp)) :=
  ⟨fenceRow i, rfl, fun o e s => by rw [writeReg_fence hk hi, if_pos h]⟩

theorem fenceOk_page {i : Nat} (hi : i < 16) (v : Word) : fenceOk (fenceOff i) v = decide (v.toNat % 16384 < 12288) := by
  unfold fenceOk fenceOff
  rw [if_pos hi, if_pos (by omega)]
  rfl

theorem fenceOk_die {i : Nat} (hi : ¬ i < 16) (v : Word) : fenceOk (fenceOff i) v = decide (v.toNat / 32 % 16 < 12) := by
  unfold fenceOk fenceOff bits
  rw [if_neg hi, if_neg (by omega), Nat.shiftRight_eq_div_pow]
  rfl

theorem fenceMask_page {i : Nat} (hi : i < 16) : (fenceRow i).mask (fun t => t = .rwp) = 0x80003FFF := by
  unfold fenceRow
  rw [if_pos hi]
  decide

theorem fenceMask_die {i : Nat} (hi : ¬ i < 16) : (fenceRow i).mask (fun t => t = .rwp) = 0x80001FFF := by
  unfold fenceRow
  rw [if_neg hi]
  decide

/-- The fields of an identity register of a port (R373). -/
def identityRow (j : Nat) : RegRow :=
  if j = 0 then { off := 0x0004, fields := [⟨0, 32, .rwp, 0⟩] }
  else if j = 1 then { off := 0x0008, fields := [⟨0, 16, .rwp, 0⟩] }
  else if j = 2 then { off := 0x000C, fields := [⟨0, 32, .rwp, 0⟩] }
  else { off := 0x0010, fields := [⟨0, 32, .rwp, 0⟩], stride := 4, count := 4 }

theorem identity_find : ∀ (b : Bool) (j : Fin 7),
    (regRows 10).find? (fun r => r.has (4 + 4 * j) && (!r.only0 || b)) = some (identityRow j) := by decide

theorem regRow_identity {n j : Nat} (hn : n < 21) (hj : j < 7) : regRow (rPrt n (4 + 4 * j)) = some (identityRow j) := by
  unfold rPrt
  rw [regRow_regOff (by omega) (by omega) (by omega)]
  exact identity_find _ ⟨j, hj⟩

theorem identityRow_facts : ∀ j : Fin 7, (identityRow j).allRo = false ∧ (identityRow j).isRc = false
    ∧ (identityRow j).mask (fun t => t = .rwp) = if j.val = 1 then 0xFFFF else 0xFFFFFFFF := by decide

/-- An identity register of a port stores every value, in its fields. -/
theorem storesPers_identity {n j : Nat} (hn : n < 21) (hj : j < 7) (v : Word) :
    StoresPers (rPrt n (4 + 4 * j)) v (if j = 1 then v &&& 0xFFFF else v) := by
  obtain ⟨hro, hrc, hm⟩ := identityRow_facts ⟨j, hj⟩
  dsimp only at hro hrc hm
  obtain ⟨hc, -, ho⟩ := regOff_parts (code := 10) (inst := n) (o := 4 + 4 * j) (by omega) (by omega)
  refine ⟨identityRow j, ?_, fun o e s => ?_⟩
  · rw [hm]
    split
    · rfl
    · exact BitVec.and_allOnes
  · unfold writeReg
    rw [regRow_identity hn hj]
    dsimp only
    rw [hro, hrc]
    unfold rPrt
    rw [hc]
    show writePrt (regOff 10 n (4 + 4 * j)) (identityRow j) v e s = _
    unfold writePrt
    rw [ho]
    exact if_pos (by omega)

/-! ## Writes by device address -/

theorem partsOf_regs {a : Nat} (h1 : 0x020200000000 ≤ a) (h2 : a < 0x02020E000000) : partsOf a 1 = [(.regs, a, 1)] := by
  have below : ∀ lo hi : Nat, hi ≤ a → ¬ max a lo < min (a + 1) hi := by omega
  have above : ∀ lo hi : Nat, a < lo → ¬ max a lo < min (a + 1) hi := by omega
  unfold partsOf windowMap
  simp only [List.filterMap_cons, List.filterMap_nil]
  rw [if_neg (below 0 0x010000000000 (by omega)), if_neg (below _ 0x020000000000 (by omega)),
    if_neg (below _ 0x020001000000 (by omega)), if_neg (below _ 0x020100000000 (by omega)),
    if_neg (below _ 0x020200000000 (by omega)), if_pos (by omega), if_neg (above 0x02020E000000 _ (by omega))]
  have hlo : max a 0x020200000000 = a := by omega
  have hlen : min (a + 1) 0x02020E000000 - a = 1 := by omega
  rw [hlo, hlen]

/-- A word written at a register's device address is a write of that register. -/
theorem wordWrite_regs {a off : Nat} (ha : a = regBase + off) (h : off < 0x0E000000) (o : Origin) (v : Word) (e : Bool) (s : State) :
    wordWrite o a v e s = regWrite o off v e s := by
  subst ha
  unfold wordWrite
  rw [partsOf_regs (by unfold regBase; omega) (by unfold regBase; omega)]
  dsimp only
  rw [Nat.add_sub_cancel_left]

theorem registerAddress_of {a : Addr} {off : Nat} (ha : a.toNat = regBase + off) : registerAddress a = true := by
  unfold registerAddress
  rw [ha]
  exact decide_eq_true (by unfold regBase; omega)

theorem guarded_runs {i : Instr} (h : i.wf = true) (s : State) : guarded i s = .next s := if_pos h

theorem exec_rwpWrite {a : Addr} {off : Nat} (ha : a.toNat = regBase + off) (h : off < 0x0E000000) (o : Origin) (v : Word) (e : Bool)
    (s : State) : exec (.rwpWrite o a v e) s = .next (regWrite o off v e s) := by
  show guarded (.rwpWrite o a v e) (wordWrite o a.toNat v e s) = _
  rw [guarded_runs (i := .rwpWrite o a v e) (registerAddress_of ha), wordWrite_regs ha h]

theorem exec_fenceWrite {i : BitVec 5} (hi : i.toNat < 18) (k : BitVec 5) (o : Origin) (v : Word) (e : Bool) (s : State) :
    exec (.fenceWrite o k i v e) s = .next (regWrite o (rSkn k.toNat (fenceOff i.toNat)) v e s) :=
  guarded_runs (i := .fenceWrite o k i v e) (decide_eq_true hi) _

/-- A register write, with what the NVM reports where the register is persistent. -/
theorem exec_registerWrite {a : Addr} {off : Nat} (ha : a.toNat = regBase + off) (h : off < 0x0E000000) (o : Origin) (v : Word)
    (s : State) : exec (.registerWrite o a v) s = .next (regWrite o off v (nvmOutcome off s).1 (nvmOutcome off s).2) := by
  have hoff : a.toNat - regBase = off := by omega
  show guarded (.registerWrite o a v)
    (wordWrite o a.toNat v (nvmOutcome (a.toNat - regBase) s).1 (nvmOutcome (a.toNat - regBase) s).2) = _
  rw [hoff, guarded_runs (i := .registerWrite o a v) (registerAddress_of ha), wordWrite_regs ha h]

theorem nvmOutcome_unchanged (off : Nat) (s : State) : Unchanged [.free] s (nvmOutcome off s).2 := unchanged_of_mask (by simp [pieces])

theorem nvmOutcome_plain {off : Nat} (h : isPersistent off = false) (s : State) : nvmOutcome off s = (false, s) := by
  unfold nvmOutcome
  rw [if_neg (by simp [h])]

/-- Whether an access enters and reaches its register does not depend on the model's free choices. -/
theorem enters_nvmOutcome (o : Origin) (off a : Nat) (s : State) : enters o off (nvmOutcome a s).2 = enters o off s := by
  unfold nvmOutcome
  split <;> rfl

theorem reachRefusal_nvmOutcome (o : Origin) (off a : Nat) (s : State) :
    reachRefusal o off (nvmOutcome a s).2 = reachRefusal o off s := by
  unfold nvmOutcome
  split <;> rfl

theorem nvmOutcome_dst (a : Nat) (s : State) : (nvmOutcome a s).2.dst = s.dst := nvmOutcome_unchanged a s .dst (by decide)

/-- The message that an access raises after the free choice counts from the state before it. -/
theorem raiseAccess_nvmOutcome (o : Origin) (source : BitVec 16) (k : Byte) (addr a : Nat) (s : State) :
    Sent { source := source, kind := k, flags := originFlags o, addr := BitVec.ofNat 48 addr } none s
        (raiseAccess o source k addr (nvmOutcome a s).2)
      ∧ Unchanged [.dst, .seqs, .free] s (raiseAccess o source k addr (nvmOutcome a s).2) := by
  refine ⟨?_, (nvmOutcome_unchanged a s).trans (sendMsg_unchanged _ none _) (by decide) (by decide)⟩
  have h := sent_sendMsg { source := source, kind := k, flags := originFlags o, addr := BitVec.ofNat 48 addr } (nvmOutcome a s).2
  unfold Sent at h ⊢
  rwa [nvmOutcome_dst] at h

/-- The registers with plain RW fields. -/
def plainRegs : List Nat :=
  [rBob 0x14, rBob 0x20, rBob 0x200, rBob 0x20C, rBob 0x210, rDst 0x44, rDst 0x48, rDst 0x80, rDst 0x90, rNdy 0x14,
        rNdy 0x404, rWhl 8, rWhl 0xC, rWhl 0x1C, rWhl 0x30, rCrl 0x14]

theorem plainRegs_facts : ∀ off ∈ plainRegs, off < 0x0E000000 ∧ isPersistent off = false
    ∧ (regRow off).any (fun r => !r.allRo && !r.isRc) = true := by decide

theorem writeReg_plain {off : Nat} (h : off ∈ plainRegs) {r : RegRow} (hr : regRow off = some r) (o : Origin) (v : Word) (e : Bool)
    (s : State) : writeReg o off v e s = storeRw off r v s := by
  obtain ⟨-, -, hrow⟩ := plainRegs_facts off h
  rw [hr] at hrow
  have hro : (r.allRo || r.isRc) = false := by simpa using hrow
  unfold writeReg
  rw [hr]
  dsimp only
  rw [hro]
  simp only [plainRegs, List.mem_cons, List.not_mem_nil, or_false] at h
  rcases h with rfl | rfl | rfl | rfl | rfl | rfl | rfl | rfl | rfl | rfl | rfl | rfl | rfl | rfl | rfl | rfl <;> rfl

theorem getReg_setReg (s : State) (a x : Nat) (v : Word) : (s.setReg a v).getReg x = if x = a then v else s.getReg x := by
  unfold State.setReg State.getReg
  split
  · next h =>
    subst h
    rw [mget_mput, if_pos rfl]
  · next h => exact mget_mput_ne _ (Ne.symm h) _ _ _

theorem setReg_unchanged (a : Nat) (v : Word) (s : State) : Unchanged [.reg] s (s.setReg a v) := unchanged_of_mask (by simp [pieces])

/-- A register of which no field is written answers with ACCESS_RO. -/
theorem writeReg_ro {off : Nat} (h : ∀ r, regRow off = some r → r.allRo = true ∨ r.isRc = true) (o : Origin) (v : Word) (e : Bool)
    (s : State) : writeReg o off v e s = wrRefuse kACCESS_RO s := by
  unfold writeReg
  split
  · rfl
  · next r hr => exact if_pos (by simpa using h r hr)

theorem regWrite_plain {o : Origin} {a : Addr} {v : Word} {off : Nat} {s : State} (ha : a.toNat = regBase + off)
    (hreach : Reaches o off s) (h : off ∈ plainRegs) {r : RegRow} (hr : regRow off = some r) :
    ∃ t, exec (.registerWrite o a v) s = .next t
      ∧ (∀ x, t.getReg x = if x = off then v &&& r.mask (fun f => f = .rw) else s.getReg x)
      ∧ SameDistaff s t ∧ Unchanged [.reg, .dst] s t := by
  obtain ⟨hoff, hpers, -⟩ := plainRegs_facts off h
  have hst := regWrite_stored hreach (writeReg_plain h hr o v false s)
  refine ⟨_, exec_registerWrite ha hoff o v s, ?_⟩
  rw [nvmOutcome_plain hpers]
  dsimp only
  rw [hst]
  exact ⟨fun x => getReg_setReg s off x _, tagNew_sameDistaff rfl,
    (setReg_unchanged off _ s).trans (tagNew_unchanged _ s _) (by decide) (by decide)⟩

theorem regWrite_ro {o : Origin} {a : Addr} {v : Word} {off : Nat} {s : State} (ha : a.toNat = regBase + off)
    (hreach : Reaches o off s) (hoff : off < 0x0E000000) (h : ∀ r, regRow off = some r → r.allRo = true ∨ r.isRc = true) :
    ∃ t, exec (.registerWrite o a v) s = .next t
      ∧ Sent { source := src (off / 16777216) (off / 65536 % 256), kind := kACCESS_RO, flags := originFlags o
               addr := BitVec.ofNat 48 (regBase + off) } none s t ∧ Unchanged [.dst, .seqs, .free] s t := by
  obtain ⟨hin, href⟩ := hreach
  have hreach' : Reaches o off (nvmOutcome off s).2 :=
    ⟨(enters_nvmOutcome ..).trans hin, (reachRefusal_nvmOutcome ..).trans href⟩
  refine ⟨_, exec_registerWrite ha hoff o v s, ?_⟩
  rw [regWrite_refused hreach' (writeReg_ro h ..)]
  exact raiseAccess_nvmOutcome ..

theorem regWrite_misaligned {o : Origin} {a : Addr} {v : Word} {off : Nat} {s : State} (ha : a.toNat = regBase + off)
    (hoff : off < 0x0E000000) (hin : enters o off s = true) (h : off % 4 ≠ 0) :
    ∃ t, exec (.registerWrite o a v) s = .next t
      ∧ Sent { source := if blockExists off then src (off / 16777216) (off / 65536 % 256) else entry o, kind := kACCESS_FORM
               flags := originFlags o, addr := BitVec.ofNat 48 (regBase + off) } none s t ∧ Unchanged [.dst, .seqs, .free] s t := by
  refine ⟨_, exec_registerWrite ha hoff o v s, ?_⟩
  have href : ∀ t, reachRefusal o off t
      = some (kACCESS_FORM, if blockExists off then src (off / 16777216) (off / 65536 % 256) else entry o) := fun t => if_pos h
  unfold regWrite
  rw [if_pos ((enters_nvmOutcome ..).trans hin), accessWrite_unreached (href _)]
  exact raiseAccess_nvmOutcome ..

/-! ## Reads of counters -/

theorem clearRc_counter {off : Nat} {r : RegRow} (hr : regRow off = some r) (hrc : r.isRc = true) (s : State) :
    clearRc off s = s.setReg off 0 := by
  unfold clearRc
  rw [hr]
  exact if_pos hrc

theorem counter_read {o : Origin} {a : Addr} {off : Nat} {r : RegRow} {s : State} (ha : a.toNat = regBase + off)
    (hoff : off < 0x0E000000) (hin : entersWindow o s = true) (href : reachRefusal o off s = none) (hr : regRow off = some r)
    (hrc : r.isRc = true) :
    ∃ t, exec (.rcCounterRead o a) s = .next t ∧ t.out = s.out ++ [.value (regValue off s)]
      ∧ (∀ x, t.getReg x = if x = off then 0 else s.getReg x) ∧ Unchanged [.reg, .out] s t := by
  have hwf : (Instr.rcCounterRead o a).wf = true := by
    unfold regBase at ha
    simp [Instr.wf, registerAddress, ha]
    omega
  have hread : accessRead o false off s = (some (regValue off s), s.setReg off 0) := by
    unfold accessRead
    rw [href, clearRc_counter hr hrc]
    rfl
  refine ⟨(s.setReg off 0).emit (.value (regValue off s)), ?_, rfl, fun x => getReg_setReg s off x 0,
    (setReg_unchanged off 0 s).trans (m := [.out]) (unchanged_of_mask (by simp [pieces])) (by decide) (by decide)⟩
  show execRcCounterRead o a s = _
  unfold execRcCounterRead
  dsimp only
  rw [guarded_runs hwf, show a.toNat - regBase = off by omega, hread]
  exact congrArg _ (if_pos (by cases o <;> exact hin))

/-! ## The obligation -/

/-- A persistent register written with a legal value, by a fence write or by a write of a port's identity register. -/
theorem storesPers_of_legal {o : Origin} {v x : Word} {off : Nat} {c : Bool → Instr}
    (h : (∃ k i : BitVec 5, i.toNat < 18 ∧ off = rSkn k.toNat (fenceOff i.toNat) ∧ c = (fun e => .fenceWrite o k i v e)
        ∧ (if i.toNat < 16 then v.toNat % 16384 < 12288 ∧ x = v &&& 0x80003FFF else v.toNat / 32 % 16 < 12 ∧ x = v &&& 0x80001FFF))
      ∨ (∃ (n j : Nat) (a : Addr), n < 21 ∧ j < 7 ∧ off = rPrt n (4 + 4 * j) ∧ a.toNat = regBase + off
        ∧ c = (fun e => .rwpWrite o a v e) ∧ x = if j = 1 then v &&& 0xFFFF else v)) :
    StoresPers off v x ∧ ∀ e s, exec (c e) s = .next (regWrite o off v e s) := by
  rcases h with ⟨k, i, hi, rfl, rfl, hx⟩ | ⟨n, j, a, hn, hj, rfl, ha, rfl, rfl⟩
  · refine ⟨?_, fun e s => exec_fenceWrite hi k o v e s⟩
    by_cases hp : i.toNat < 16
    · rw [if_pos hp] at hx
      obtain ⟨hv, rfl⟩ := hx
      exact fenceMask_page hp ▸ storesPers_fence k.isLt hi ((fenceOk_page hp v).trans (decide_eq_true hv))
    · rw [if_neg hp] at hx
      obtain ⟨hv, rfl⟩ := hx
      exact fenceMask_die hp ▸ storesPers_fence k.isLt hi ((fenceOk_die hp v).trans (decide_eq_true hv))
  · exact ⟨storesPers_identity hn hj v, fun e s => exec_rwpWrite ha (by unfold rPrt regOff; omega) o v e s⟩

/-- A fence value past the last page or die is refused (R338). -/
theorem fence_refused {o : Origin} {k i : BitVec 5} {v : Word} {s : State} (hi : i.toNat < 18)
    (hv : if i.toNat < 16 then 12288 ≤ v.toNat % 16384 else 12 ≤ v.toNat / 32 % 16)
    (hr : Reaches o (rSkn k.toNat (fenceOff i.toNat)) s) (e : Bool) :
    Refused o (rSkn k.toNat (fenceOff i.toNat)) s (regWrite o (rSkn k.toNat (fenceOff i.toNat)) v e s) := by
  have hbad : fenceOk (fenceOff i.toNat) v = false := by
    by_cases hp : i.toNat < 16
    · rw [if_pos hp] at hv
      rw [fenceOk_page hp]
      exact decide_eq_false (by omega)
    · rw [if_neg hp] at hv
      rw [fenceOk_die hp]
      exact decide_eq_false (by omega)
  have hw : writeReg o (rSkn k.toNat (fenceOff i.toNat)) v e s = wrRefuse kACCESS_REFUSED s := by
    rw [writeReg_fence k.isLt hi, hbad]
    rfl
  rw [regWrite_refused hr hw]
  exact refused_raiseAccess ..

/-- Settles O47. -/
theorem registerAccessesFollowTheirTypes : Obligations.RegisterAccessesFollowTheirTypes := by
  refine ⟨?_, ?_, ?_, ?_, ?_⟩
  · intro o v x off c s hc hr
    obtain ⟨hpers, hexec⟩ := storesPers_of_legal hc
    refine ⟨fun hw => ?_, fun hw => ?_, fun hw e => ⟨_, hexec e s, hpers.full hr hw e⟩⟩
    · obtain ⟨t, rfl, ht⟩ := hpers.stored hr hw
      exact ⟨_, hexec false s, ht⟩
    · obtain ⟨u, hsent, hu, href⟩ := hpers.error hr hw
      exact ⟨u, _, hexec true s, hsent, hu, href⟩
  · rintro o k i v e off s hi rfl hv hr
    exact ⟨_, exec_fenceWrite hi k o v e s, fence_refused hi hv hr e⟩
  · exact fun o a v off s ha hr => ⟨fun r h hrow => regWrite_plain ha hr h hrow, fun hoff h => regWrite_ro ha hr hoff h⟩
  · exact fun o a v off s ha hoff hin h => regWrite_misaligned ha hoff hin h
  · exact fun o a off r s ha hoff hin href hrow hrc => counter_read ha hoff (by cases o <;> exact hin) href hrow hrc

end Sys2Proof.Machine
end

section
/-! SUPPORT. What a spill leaves in memory (R252), and the statements that it refutes: the bytes of a spilled line are stored in
skein memory while a command uses the statistics, and they are no bytes of the command's own data phase. -/

namespace Sys2Proof.Machine

/-! ## The bytes of a spilled line -/

/-- The bytes that a spill of entry `e`, line `l`, stores: the line at the entry's place behind the spill base. -/
def spillBytes (s : State) (f e : Nat) (l : FlyLine) : List (Nat × MByte) :=
  (List.range (lineBytes l).length).map (fun i => (spillBase s f + e * 2048 + i, (lineBytes l).getD i {}))

theorem setFlyer_sameData (f : Nat) (x : Fly) (s : State) : SameData s (s.setFlyer f x) :=
  .of_fields rfl rfl rfl (fun _ => rfl) rfl rfl rfl

theorem count_sameData (a n : Nat) (s : State) : SameData s (s.count a n) :=
  .of_unchanged (ps := [.reg]) (unchanged_of_mask (by simp [pieces])) (by decide)

theorem stampEntry_sameData (f e : Nat) (s : State) : SameData s (stampEntry f e s) :=
  .of_unchanged (ps := [.fly]) (unchanged_of_mask (by simp [pieces])) (by decide)

theorem spillOne_sameData {f e : Nat} {l : FlyLine} {s : State} (hv : spillVictim (s.flyer f) = some (e, l)) :
    SameData (writeBytes (srcFly f) 0 (spillBytes s f e l) s).1 (spillOne f s) := by
  unfold spillOne
  rw [hv]
  exact (setFlyer_sameData f _ _).trans (count_sameData _ _ _)

/-- A spilled entry takes a line again: where all lines are in use, the data of memory are those that the spill of another leaves. -/
theorem makeResident_sameData {f e : Nat} {l0 : FlyLine} {s : State} (hf : mfind (s.flyer f).dir e = some l0)
    (hl : l0.line = none) (hfull : residentLines ≤ flyResident (s.flyer f)) : SameData (spillOne f s) (makeResident f e s) := by
  unfold makeResident
  simp only [hf, hl, if_pos hfull, Option.isSome_none, Bool.false_eq_true, if_false]
  have hfree : SameData (spillOne f s) (spillOne f s).bumpFree := .of_fields rfl rfl rfl (fun _ => rfl) rfl rfl rfl
  split
  · exact hfree.trans (setFlyer_sameData f _ _)
  · exact hfree.trans ((sameData_touchReads _ _ _ _).trans ((setFlyer_sameData f _ _).trans (count_sameData _ _ _)))

/-- Flyer `f` has every line in use, and the entry that `k` names has none: its use spills entry `v`, whose byte for address `a`,
where memory answers, is `m`. -/
structure SpillsAt (f : Nat) (k : FKey) (v : Nat) (l : FlyLine) (a : Nat) (m : MByte) (s : State) : Prop where
  full : residentLines ≤ flyResident (s.flyer f)
  entry : ∃ e l0, flyFind (s.flyer f) k = some e ∧ mfind (s.flyer f).dir e = some l0 ∧ l0.line = none
  victim : spillVictim (s.flyer f) = some (v, l)
  byte : lastByte (spillBytes s f v l) a = some m
  answers : sectorRefusal s a = none
  intact : Intact s a

/-- The spilled byte is in memory once the entry has been used. -/
theorem SpillsAt.stamped {f v a : Nat} {k : FKey} {l : FlyLine} {m : MByte} {s : State} (h : SpillsAt f k v l a m s) :
    ∃ e, flyFind (s.flyer f) k = some e ∧ Intact (stampEntry f e (makeResident f e s)) a
      ∧ (rdByte (stampEntry f e (makeResident f e s)) a).val = m.val := by
  obtain ⟨e, l0, hk, he, hl⟩ := h.entry
  obtain ⟨-, hval, -, hstuck⟩ := writeBytes_spec (srcFly f) 0 (spillBytes s f v l) s
  have hi : Intact (writeBytes (srcFly f) 0 (spillBytes s f v l) s).1 a := (hstuck _).trans h.intact
  have hd := (spillOne_sameData h.victim).trans ((makeResident_sameData he hl h.full).trans (stampEntry_sameData f e _))
  refine ⟨e, hk, (hd.intact a).mpr hi, ?_⟩
  rw [hd.val a hi, hval a h.intact, h.byte]
  exact if_pos h.answers

theorem SpillsAt.flyRead {f v a : Nat} {k : FKey} {l : FlyLine} {m : MByte} {s : State} (row : Nat)
    (h : SpillsAt f k v l a m s) :
    Intact (flyRead f k row s).1 a ∧ (rdByte (flyRead f k row s).1 a).val = m.val := by
  obtain ⟨e, hk, h⟩ := h.stamped
  unfold Machine.flyRead
  rw [hk]
  exact h

/-! ## FLY_SMAX_FWD on a row without elements -/

/-- What a command has gathered so far holds no byte to store. -/
def FlyAcc.Silent (a : FlyAcc) : Prop := a.eff.writes = [] ∧ a.eff.elems = []

theorem FlyAcc.Silent.reads {a : FlyAcc} (h : a.Silent) (d : Desc) (rs : List RdElem) : (a.reads d rs).Silent := by
  unfold FlyAcc.reads Eff.reads
  simp only
  split <;> exact h

theorem FlyAcc.Silent.consume {a : FlyAcc} (h : a.Silent) (w : Bool) (rs : List RdElem) : (a.consume w rs).Silent := by
  unfold FlyAcc.consume Eff.consumeReads
  repeat' split
  all_goals exact h

theorem FlyAcc.Silent.consumeRec {a : FlyAcc} (h : a.Silent) (w p : Bool) (i : Issued) : (a.consumeRec w p i).Silent := by
  unfold FlyAcc.consumeRec
  split <;> exact h

theorem encodeRow_nil (s : State) (d : Desc) (c : Nat) (cs : List Nat) : encodeRow s d c cs [] = {} := by
  unfold encodeRow
  split
  · rfl
  · rfl

/-- A row of no values adds no byte. -/
theorem FlyAcc.Silent.writeRow_nil {a : FlyAcc} (h : a.Silent) (s : State) (d : Desc) (r : Nat) : (a.writeRow s d r []).1.Silent := by
  unfold FlyAcc.writeRow
  simp only [List.map_nil, encodeRow_nil]
  obtain ⟨hw, he⟩ := h
  exact ⟨hw, by simp [Eff.encoded, he]⟩

/-- Without OPT the row reads its record, and does nothing else to the state. -/
theorem smaxFwdRow_state {f r : Nat} {i : Issued} {o : FlyOpds} {acc : FlyAcc × State} (h : flyOpt i.cmd = false) :
    (smaxFwdRow f i o r acc).2 = (flyRead f (flyKey i.cmd 1 r) (r % 256) acc.2).1 := by
  unfold smaxFwdRow
  simp only [h, Bool.false_eq_true, if_false]
  split <;> rfl

/-- A row of no elements stores none. -/
theorem smaxFwdRow_silent {f r : Nat} {i : Issued} {o : FlyOpds} {acc : FlyAcc × State} (h : flyOpt i.cmd = false) (hn : o.n = 0)
    (ha : acc.1.Silent) : (smaxFwdRow f i o r acc).1.Silent := by
  unfold smaxFwdRow
  simp only [h, hn, Bool.false_eq_true, if_false]
  split
  · exact FlyAcc.Silent.writeRow_nil ha _ _ _
  · exact (((ha.reads _ _).writeRow_nil _ _ _).consume _ _).consumeRec _ _ _

/-- FLY_SMAX_FWD over one row. -/
theorem flyWork_smaxFwd {i : Issued} {o : FlyOpds} (s : State) (hop : cOp i.cmd = 0x84) (hv : flyRunv i.cmd = false)
    (hr : o.nrows = 1) : flyWork i o s = smaxFwdRow (cTarget i.cmd) i o 0 ({}, s) := by
  unfold flyWork
  simp [hop, hv, hr, List.range_one]

theorem strikeFly_nil (f : Nat) (s : State) : strikeFly f [] s = s := rfl

theorem flyRun_rows {hs : List Hit} {i : Issued} {o : FlyOpds} {s : State} (hop : cOp i.cmd ≠ 0x86)
    (hv : flyRunv i.cmd = true → runSize i ≠ 0) :
    flyRun hs i o s = finishFly (cTarget i.cmd) i o (flyWork i o (strikeFly (cTarget i.cmd) hs s)) := by
  unfold flyRun
  simp only [hop, if_false]
  exact if_neg (by simpa [hop] using hv)

theorem stores_of_empty {e : Eff} (hw : e.writes = []) (he : e.elems = []) (s : State) : e.stores s = [] := by
  simp [Eff.stores, hw, he, toBytes]

/-- The end of a command that stores no byte leaves memory as its data phase left it. -/
theorem finishCmd_val {u a : Nat} {i : Issued} {e : Eff} {s : State} (h : e.stores s = []) (ha : Intact s a) :
    (rdByte (clearStruck (finishCmd u i e s)) a).val = (rdByte s a).val := by
  obtain ⟨-, -, hst, hstuck⟩ := finishCmd_spec u i e s
  rw [h] at hst
  rw [(sameData_clearStruck _).val a ((hstuck _).trans ha)]
  exact hst a ha

theorem flyEff_stores {i : Issued} {o : FlyOpds} {a : FlyAcc} (h : a.Silent) (s : State) : (flyEff i o a).stores s = [] :=
  stores_of_empty h.1 h.2 s

theorem finishFly_val {f a : Nat} {i : Issued} {o : FlyOpds} {w : FlyAcc × State} (h : w.1.Silent) (ha : Intact w.2 a) :
    (rdByte (clearStruck (finishFly f i o w)) a).val = (rdByte w.2 a).val := by
  have hc : SameData w.2 ((w.2.count (rFly f 0x1C) w.1.missing).count (rFly f 0x24) (flyEff i o w.1).sat) :=
    (count_sameData _ _ _).trans (count_sameData _ _ _)
  exact (finishCmd_val (flyEff_stores h _) ((hc.intact a).mpr ha)).trans (hc.val a ha)

/-- FLY_SMAX_FWD over one row of no elements, whose entry's use spills a line: it stores no byte of its own, and the spilled byte is
in memory at its end. -/
theorem smaxFwd_spills {v a : Nat} {l : FlyLine} {m : MByte} {i : Issued} {o : FlyOpds} {s : State} (hop : cOp i.cmd = 0x84)
    (hv : flyRunv i.cmd = false) (hopt : flyOpt i.cmd = false) (hn : o.n = 0) (hr : o.nrows = 1)
    (hs : SpillsAt (cTarget i.cmd) (flyKey i.cmd 1 0) v l a m s) :
    (flyWork i o s).1.Silent ∧ (rdByte (clearStruck (finishFly (cTarget i.cmd) i o (flyWork i o s))) a).val = m.val := by
  obtain ⟨hint, hval⟩ := hs.flyRead 0
  have hsil : (flyWork i o s).1.Silent := by
    rw [flyWork_smaxFwd s hop hv hr]
    exact smaxFwdRow_silent hopt hn ⟨rfl, rfl⟩
  have hst : (flyWork i o s).2 = (Machine.flyRead (cTarget i.cmd) (flyKey i.cmd 1 0) 0 s).1 := by
    rw [flyWork_smaxFwd s hop hv hr, smaxFwdRow_state hopt]
  rw [← hst] at hint hval
  exact ⟨hsil, (finishFly_val hsil hint).trans hval⟩

theorem execFlySmaxFwd_runs {f : BitVec 2} {hs : List Hit} {i : Issued} {o : FlyOpds} {s : State}
    (h : Offered (48 + f.toNat) 0x84 i (runFrees f.toNat s))
    (hc : passes (flyCheck i (taken perrReg (48 + f.toNat) hs (runFrees f.toNat s))) = .ok o) :
    exec (.flySmaxFwd f hs) s = .next (clearStruck (flyRun hs i o (taken perrReg (48 + f.toNat) hs (runFrees f.toNat s)))) := by
  show execFlySmaxFwd f hs s = _
  unfold execFlySmaxFwd flyCommand
  rw [withHits_runs h hc rfl]

theorem passes_of_any {α : Type} {x : Chk α} {p : α → Bool} (h : (passes x).toOption.any p = true) :
    ∃ o, passes x = .ok o ∧ p o = true := by
  obtain ⟨o, ho, hp⟩ := (Option.any_eq_true _ _).mp h
  cases hx : passes x with
  | error e => rw [hx] at ho; cases ho
  | ok b => rw [hx] at ho; cases ho; exact ⟨_, rfl, hp⟩

/-! ## The concrete state -/

/-- An entry of key `k` without a line, with a record of row 0. -/
def spilledLine (k : FKey) : FlyLine :=
  { ctx := k.ctx, step := k.step, kind := k.kind, layer := k.layer, rowblk := k.rowblk, coltile := k.coltile,
    recs := [(0, { a := 0, b := 1 })] }

/-- A flyer whose 3,840 lines are in use, each by a row block of context 1; the first line holds one record. The directory has one
more entry, of key `k`, whose line was spilled. -/
def fullFlyer (k : FKey) : Fly :=
  { dir := (List.range 3840).map (fun n => (n, { ctx := 1, step := 0, kind := 0, layer := 0, rowblk := n, coltile := 0,
                                                  recs := if n = 0 then [(0, { a := 1, b := 0 })] else [], line := some n }))
      ++ [(3840, spilledLine k)] }

/-- A READY part with command `i` alone at unit `u`'s port, memory `m`, and flyer 0 full but for key `k`. -/
def fullState (u : Nat) (i : Issued) (m : List Host.Cell) (k : FKey) : State :=
  { State.reset with
    ndy := { phase := .ready, step := 7 }, ready := true, gate := BitVec.allOnes _, run := BitVec.allOnes _
    clocksOn := true, onRoot := true, skn := [(0, { mode := .ready })], ports := [(u, [i])], mem := m, fly := [(0, fullFlyer k)] }

/-- FLY_SMAX_FWD with D0 0x1000 and D1 0x1040, of step 0. -/
def smaxIssued : Issued :=
  { cmd := BitVec.ofNat 512 (0x84 + 0x1000 * 2 ^ 256 + 0x1040 * 2 ^ 304), bobbin := 3, seq := 1, addr := 0x10040, id := 9 }

/-- Two FP32 row tensors at 0x4000 and 0x5000, of one row and no columns. -/
def smaxMem : List Host.Cell :=
  [(0x1001, 0x40), (0x1007, 0x08), (0x1014, 1), (0x1041, 0x50), (0x1047, 0x08), (0x1054, 1)]

def smaxState : State := fullState 48 smaxIssued smaxMem (flyKey smaxIssued.cmd 1 0)

/-- The first line of the full flyer. -/
def firstLine : FlyLine :=
  { ctx := 1, step := 0, kind := 0, layer := 0, rowblk := 0, coltile := 0, recs := [(0, { a := 1, b := 0 })], line := some 0 }

/-- The state in which the command's rows begin. -/
def smaxTaken : State := taken perrReg 48 [] (runFrees 0 smaxState)

theorem smaxTaken_spills : SpillsAt (cTarget smaxIssued.cmd) (flyKey smaxIssued.cmd 1 0) 0 firstLine 0 { val := 1 } smaxTaken where
  full := by decide +kernel
  entry := ⟨3840, spilledLine (flyKey smaxIssued.cmd 1 0), by decide +kernel, by decide +kernel, rfl⟩
  victim := by decide +kernel
  byte := by decide +kernel
  answers := by decide +kernel
  intact := show _ = [] by decide +kernel

/-- Refutes O8: FLY_SMAX_FWD uses a spilled entry of a flyer whose lines are all in use, so another line is spilled (R252),
and its 2 KiB in skein memory change, which the command's own stores do not name. -/
theorem not_flyerRowsRun : ¬ Obligations.FlyerRowsRun := by
  rintro ⟨h, -⟩
  have hoff : Offered 48 0x84 smaxIssued (runFrees 0 smaxState) :=
    ⟨by decide +kernel, by decide +kernel, fun _ _ _ _ hr => by cases hr⟩
  obtain ⟨o, ho, hp⟩ := passes_of_any (x := flyCheck smaxIssued smaxTaken) (p := fun o => o.n = 0 && o.nrows = 1)
    (by decide +kernel)
  obtain ⟨hn, hr⟩ : o.n = 0 ∧ o.nrows = 1 := by simpa using hp
  have hop : cOp smaxIssued.cmd = 0x84 := by decide +kernel
  have hopt : flyOpt smaxIssued.cmd = false := by decide +kernel
  have hrunv : flyRunv smaxIssued.cmd = false := by decide +kernel
  obtain ⟨t, hexec, -, hrep, -⟩ := h 0 [] smaxIssued o (.flySmaxFwd 0 []) 0x84 smaxState smaxTaken
    (flyWork smaxIssued o smaxTaken) (by simp) rfl hoff ho (fun hv => by rw [hrunv] at hv; cases hv) rfl
  have ht : exec (.flySmaxFwd 0 []) smaxState = .next (clearStruck (flyRun [] smaxIssued o smaxTaken)) :=
    execFlySmaxFwd_runs (f := 0) hoff ho
  rw [flyRun_rows (by simp [hop]) (by simp [hrunv]), strikeFly_nil, hexec] at ht
  injection ht with ht
  subst ht
  obtain ⟨hsil, hval⟩ := smaxFwd_spills hop hrunv hopt hn hr smaxTaken_spills
  have hmem := hrep.memory 0 (show _ = [] by decide +kernel)
  rw [flyEff_stores hsil, hval] at hmem
  have hold : (rdByte smaxState 0).val = 0 := by decide +kernel
  exact absurd (hmem.trans hold) (by decide)

end Sys2Proof.Machine
end

section
/-! SUPPORT. The drain of an SPN_MMA writes statistics records (R136), so it may spill a line (R252): the bytes of the spilled line
are in memory at the end, and the instruction's own stores do not name them. -/

namespace Sys2Proof.Machine

/-! ## States that differ in counts and spindles only -/

/-- Flyer `f` and its spill base are the same, and memory reads alike. -/
structure SameFlyer (f : Nat) (s t : State) : Prop where
  fly : t.fly = s.fly
  base : spillBase t f = spillBase s f
  data : SameData s t

theorem SameFlyer.refl (f : Nat) (s : State) : SameFlyer f s s := ⟨rfl, rfl, .rfl' s⟩

theorem SameFlyer.trans {f : Nat} {s t u : State} (h : SameFlyer f s t) (k : SameFlyer f t u) : SameFlyer f s u :=
  ⟨k.fly.trans h.fly, k.base.trans h.base, h.data.trans k.data⟩

/-- A counter that is no register of the spill base. -/
theorem SameFlyer.count {f a : Nat} (h4 : a ≠ rFly f 0x04) (h8 : a ≠ rFly f 0x08) (n : Nat) (s : State) :
    SameFlyer f s (s.count a n) where
  fly := by unfold State.count; split <;> rfl
  base := by
    unfold State.count
    split
    · rfl
    · unfold spillBase
      rw [getReg_setReg, getReg_setReg, if_neg (Ne.symm h4), if_neg (Ne.symm h8)]
  data := count_sameData a n s

theorem SameFlyer.countFree {f a : Nat} (h4 : a ≠ rFly f 0x04) (h8 : a ≠ rFly f 0x08) (s : State) :
    SameFlyer f s (countFree a s) :=
  (SameFlyer.count h4 h8 _ s).trans ⟨rfl, rfl, .of_fields rfl rfl rfl (fun _ => rfl) rfl rfl rfl⟩

theorem SameFlyer.setSpindle (f n : Nat) (x : Spn) (s : State) : SameFlyer f s (s.setSpindle n x) :=
  ⟨rfl, rfl, .of_fields rfl rfl rfl (fun _ => rfl) rfl rfl rfl⟩

theorem SpillsAt.of_same {f v a : Nat} {k : FKey} {l : FlyLine} {m : MByte} {s t : State} (h : SpillsAt f k v l a m s)
    (hs : SameFlyer f s t) : SpillsAt f k v l a m t := by
  obtain ⟨hf, hb, hd⟩ := hs
  have hx : t.flyer f = s.flyer f := by unfold State.flyer; rw [hf]
  have hbytes : spillBytes t f v l = spillBytes s f v l := by unfold spillBytes; rw [hb]
  exact ⟨by rw [hx]; exact h.full, by rw [hx]; exact h.entry, by rw [hx]; exact h.victim, by rw [hbytes]; exact h.byte,
    (hd.refusal a).trans h.answers, (hd.intact a).mpr h.intact⟩

theorem SpillsAt.flyWrite {f v a : Nat} {k : FKey} {l : FlyLine} {m : MByte} {s : State} (row : Nat) (r : FlyRec)
    (h : SpillsAt f k v l a m s) :
    Intact (flyWrite f k row r s).1 a ∧ (rdByte (flyWrite f k row r s).1 a).val = m.val := by
  obtain ⟨e, hk, hi, hv⟩ := h.stamped
  unfold Machine.flyWrite
  simp only [hk]
  split
  · exact ⟨((setFlyer_sameData f _ _).intact a).mpr hi, ((setFlyer_sameData f _ _).val a hi).trans hv⟩
  · exact ⟨hi, hv⟩

/-! ## An SPN_MMA that leaves one record of statistics and nothing else -/

/-- An SPN_MMA of two panels, without D2, whose epilogue block asks for the statistics alone. -/
def statsOnly (e : Epi) : MmaOpds := { epi := { addr := e.addr, stats := true } }

theorem drainTile_stats {u cols a : Nat} {i : Issued} {e : Epi} {tile : AMap Word × AMap Bool} {e0 : Eff} {s : State} (hc : 0 < cols)
    {v : Nat} {l : FlyLine} {m : MByte} (h : SpillsAt (u / 4) ⟨cCtx i.cmd, cStep i.cmd, 0, 0, 0, 0⟩ v l a m s) :
    Intact (drainTile u i (statsOnly e) 1 cols tile e0 s).2 a
      ∧ (rdByte (drainTile u i (statsOnly e) 1 cols tile e0 s).2 a).val = m.val := by
  unfold drainTile
  simp only [statsOnly, hc, decide_true, Bool.and_true, if_true, List.range_one, List.foldl_cons, List.foldl_nil]
  exact h.flyWrite 0 _

theorem consumeIf_writes (p : Prop) [Decidable p] (e : Eff) (a : Nat) : (if p then e.consume a else e).writes = e.writes := by
  split <;> rfl

theorem consumeIf_elems (p : Prop) [Decidable p] (e : Eff) (a : Nat) : (if p then e.consume a else e).elems = e.elems := by
  split <;> rfl

theorem drainTile_stores {u rows cols : Nat} {i : Issued} {e : Epi} {tile : AMap Word × AMap Bool} {e0 : Eff} {s : State}
    (hw : e0.writes = []) (he : e0.elems = []) :
    (drainTile u i (statsOnly e) rows cols tile e0 s).1.writes = []
      ∧ (drainTile u i (statsOnly e) rows cols tile e0 s).1.elems = [] := by
  unfold drainTile
  exact ⟨(consumeIf_writes _ e0 _).trans hw, (consumeIf_elems _ e0 _).trans he⟩

/-- The address under which poison is consumed is no byte to store. -/
theorem consumedAt_stores (e : Eff) (p a : Nat) (s : State) :
    (if e.poison = some a then { e with poison := some p } else e).stores s = e.stores s := by
  split <;> rfl

theorem rSpn_ne_rFly {n f o o' : Nat} (hn : n < 256) (ho : o < 65536) (ho' : o' < 65536) : rSpn n o ≠ rFly f o' := by
  unfold rSpn rFly regOff
  omega

theorem rTwb_ne_rFly {n f o o' : Nat} (hf : f < 256) (ho : o < 65536) (ho' : o' < 65536) : rTwb n o ≠ rFly f o' := by
  unfold rTwb rFly regOff
  omega

theorem SameFlyer.countSpn {f n o : Nat} (hn : n < 256) (ho : o < 65536) (k : Nat) (s : State) :
    SameFlyer f s (s.count (rSpn n o) k) :=
  .count (rSpn_ne_rFly hn ho (by decide)) (rSpn_ne_rFly hn ho (by decide)) k s

theorem SameFlyer.countTwb {f n o : Nat} (hf : f < 256) (ho : o < 65536) (k : Nat) (s : State) :
    SameFlyer f s (s.count (rTwb n o) k) :=
  .count (rTwb_ne_rFly hf ho (by decide)) (rTwb_ne_rFly hf ho (by decide)) k s

theorem SameFlyer.countFreeSpn {f n o : Nat} (hn : n < 256) (ho : o < 65536) (s : State) :
    SameFlyer f s (Machine.countFree (rSpn n o) s) :=
  .countFree (rSpn_ne_rFly hn ho (by decide)) (rSpn_ne_rFly hn ho (by decide)) s

/-- An SPN_MMA that closes its slot on two panels of spindle `x`, which no unfinished stage writes over, panel A of one lane. -/
structure ClosesOnPanels (i : Issued) (x : Spn) : Prop where
  aSrc : mmaASrc i.cmd = true
  bSrc : mmaBSrc i.cmd = true
  close : mmaClose i.cmd = true
  runv : mmaRunv i.cmd = false
  was : x.was = []
  lanesA : (mget x.panels (mmaAPanel i.cmd) { line := 0, nlines := 0, fmt := 0, ply := 0, k := 0, vlanes := 0 }).vlanes = 1
  lanesB : 0 < (mget x.panels (mmaBPanel i.cmd) { line := 0, nlines := 0, fmt := 0, ply := 0, k := 0, vlanes := 0 }).vlanes

/-- Such an instruction with `statsOnly`, whose record spills a line, stores no byte of its own, and the spilled byte is in memory. -/
theorem mmaWork_stats {i : Issued} {e : Epi} {a v : Nat} {s : State} {l : FlyLine} {m : MByte}
    (hi : ClosesOnPanels i (s.spindle (physOf s (cTarget i.cmd)))) (hn : physOf s (cTarget i.cmd) < 256) (hf : cTarget i.cmd / 4 < 256)
    (h : SpillsAt (cTarget i.cmd / 4) ⟨cCtx i.cmd, cStep i.cmd, 0, 0, 0, 0⟩ v l a m s) :
    (∀ s', (mmaWork [] i (statsOnly e) s).1.stores s' = [])
      ∧ Intact (mmaWork [] i (statsOnly e) s).2 a ∧ (rdByte (mmaWork [] i (statsOnly e) s).2 a).val = m.val := by
  obtain ⟨ha, hb, hc, hr, hw, hla, hlb⟩ := hi
  unfold mmaWork
  extract_lets c u n x0 seen slot tilesA turned struckBy a' b' rows cols stays tile0 parked y streamed x1 tile csA csB rd e0 three g
    sF sC sT straight tiles sW x2
  have hseen : seen = s.spindle n := by
    show (s.spindle n).mixed _ = s.spindle n
    unfold Spn.mixed
    rw [hw]
    rfl
  have hrows : rows = 1 := by
    show (if mmaRunv c then _ else a'.lanes) = 1
    rw [if_neg (by rw [hr]; decide)]
    show (mmaOperand s seen (mmaASrc c) _ none _).lanes = 1
    rw [ha, hseen]
    exact hla
  have hcols : 0 < cols := by
    show 0 < (mmaOperand s seen (mmaBSrc c) _ none _).lanes
    rw [hb, hseen]
    exact hlb
  have hF : SameFlyer (u / 4) s sF := by
    show SameFlyer _ s (if x0.was.isEmpty = true then s else _)
    rw [if_pos (by rw [show x0.was = [] from hw]; rfl)]
    exact .refl _ s
  have hT : SameFlyer (u / 4) s sT :=
    hF.trans ((SameFlyer.countSpn hn (by decide) _ _).trans ((SameFlyer.countSpn hn (by decide) _ _).trans
      ((SameFlyer.countFreeSpn hn (by decide) _).trans (SameFlyer.countFreeSpn hn (by decide) _))))
  have hW : SameFlyer (u / 4) s sW :=
    hT.trans ((SameFlyer.countTwb hf (by decide) _ _).trans (SameFlyer.countTwb hf (by decide) _ _))
  rw [if_pos hc, hrows]
  obtain ⟨hint, hval⟩ := drainTile_stats (u := u) (e := e) (tile := tile) (e0 := e0) hcols
    (h.of_same (hW.trans (SameFlyer.setSpindle _ n x2 _)))
  obtain ⟨hws, hes⟩ := drainTile_stores (u := u) (rows := 1) (cols := cols) (i := i) (e := e) (tile := tile) (e0 := e0)
    (s := sW.setSpindle n x2) rfl rfl
  generalize drainTile u i (statsOnly e) 1 cols tile e0 (sW.setSpindle n x2) = w at hint hval hws hes ⊢
  obtain ⟨e1, s2⟩ := w
  refine ⟨fun s' => ?_, ((count_sameData _ _ s2).intact a).mpr hint, ((count_sameData _ _ s2).val a hint).trans hval⟩
  rcases mmaPoison s (statsOnly e) csA csB 1 cols with - | p
  · exact stores_of_empty hws hes s'
  · exact (consumedAt_stores e1 p _ s').trans (stores_of_empty hws hes s')

/-! ## The concrete state -/

/-- A spindle whose panel 0 has one lane and one k-step. -/
def onePanel : Spn := { panels := [(0, { line := 0, nlines := 1, fmt := 1, ply := 0, k := 1, vlanes := 1 })] }

/-- SPN_MMA at position 2 on panel 0 twice, which opens and closes slot 0, with the epilogue block at 0x1000. -/
def mmaIssued : Issued :=
  { cmd := BitVec.ofNat 512 (0x11 + 2 * 2 ^ 32 + 0x1000 * 2 ^ 400 + (1 + 2 ^ 7 + 2 ^ 20 + 2 ^ 21) * 2 ^ 448), bobbin := 3, seq := 1,
    addr := 0x10040, id := 9 }

/-- The epilogue block asks for the statistics (word 6, bit 36) and nothing else; the image claims slot 0 at position 2. -/
def mmaState : State :=
  { fullState 2 mmaIssued [(0x1034, 0x10)] ⟨0, 0, 0, 0, 0, 0⟩ with
    spn := [(2, onePanel)]
    images := [(0, { planBase := 0, planCount := 0, bsetBase := 0, bsetCount := 0, barFirst := 0, barLast := 0, holdFirst := 0,
                     holdLast := 0, hank := [0, 0, 1], panel := [], bufs := [] })] }

/-- The state in which the instruction begins. -/
def mmaTaken : State := taken perrReg 2 [] mmaState

theorem mmaTaken_spills : SpillsAt (cTarget mmaIssued.cmd / 4) ⟨cCtx mmaIssued.cmd, cStep mmaIssued.cmd, 0, 0, 0, 0⟩ 0 firstLine 0
    { val := 1 } mmaTaken where
  full := by decide +kernel
  entry := ⟨3840, spilledLine ⟨0, 0, 0, 0, 0, 0⟩, by decide +kernel, by decide +kernel, rfl⟩
  victim := by decide +kernel
  byte := by decide +kernel
  answers := by decide +kernel
  intact := show _ = [] by decide +kernel

theorem mmaIssued_closes : ClosesOnPanels mmaIssued (mmaTaken.spindle (physOf mmaTaken (cTarget mmaIssued.cmd))) where
  aSrc := by decide +kernel
  bSrc := by decide +kernel
  close := by decide +kernel
  runv := by decide +kernel
  was := by decide +kernel
  lanesA := by decide +kernel
  lanesB := by decide +kernel

theorem mmaCheck_passes : passes (mmaCheck mmaIssued mmaTaken) = .ok (statsOnly { addr := 0x1000 }) := by
  obtain ⟨m, hm, he⟩ := passes_of_any (x := mmaCheck mmaIssued mmaTaken) (p := fun m => m = statsOnly { addr := 0x1000 })
    (by decide +kernel)
  exact hm.trans (congrArg _ (of_decide_eq_true he))

theorem mmaRun_rows {hs : List Hit} {i : Issued} {m : MmaOpds} {s : State} (h : mmaRunv i.cmd = true → runSize i ≠ 0) :
    mmaRun hs i m s = finishCmd (cTarget i.cmd) i (mmaWork hs i m s).1 (mmaWork hs i m s).2 := if_neg (and_eq_zero_of_imp h)

theorem execSpnMma_runs {p : BitVec 4} {hs : List Hit} {i : Issued} {m : MmaOpds} {s : State} (h : Offered p.toNat 0x11 i s)
    (hc : passes (mmaCheck i (taken perrReg p.toNat hs s)) = .ok m) :
    exec (.spnMma p hs) s = .next (clearStruck (mmaRun hs i m (taken perrReg p.toNat hs s))) := by
  show execSpnMma p hs s = _
  unfold execSpnMma
  rw [withHits_runs h hc rfl]

/-- Refutes O4: the drain of an SPN_MMA writes a statistics record into a flyer whose lines are all in use, so another line is
spilled (R252), and its 2 KiB in skein memory change, which the instruction's own stores do not name. -/
theorem not_spindleRowsRun : ¬ Obligations.SpindleRowsRun := by
  intro h
  obtain ⟨-, h, -⟩ := h 2 [] mmaIssued mmaState mmaTaken rfl
  have hoff : Offered 2 0x11 mmaIssued mmaState :=
    ⟨by decide +kernel, by decide +kernel, fun _ _ _ _ hr => by cases hr⟩
  have hrunv : mmaRunv mmaIssued.cmd = true → runSize mmaIssued ≠ 0 := fun hv => by rw [mmaIssued_closes.runv] at hv; cases hv
  obtain ⟨t, hexec, -, -, hrep, -⟩ := h _ hoff mmaCheck_passes hrunv
  have ht : exec (.spnMma 2 []) mmaState = .next (clearStruck (mmaRun [] mmaIssued (statsOnly { addr := 0x1000 }) mmaTaken)) :=
    execSpnMma_runs (p := 2) hoff mmaCheck_passes
  rw [mmaRun_rows hrunv, hexec] at ht
  injection ht with ht
  subst ht
  obtain ⟨hst, hint, hval⟩ := mmaWork_stats (e := { addr := 0x1000 }) mmaIssued_closes (by decide +kernel) (by decide +kernel)
    mmaTaken_spills
  have hmem := hrep.memory 0 (show _ = [] by decide +kernel)
  rw [hst, finishCmd_val (hst _) hint, hval] at hmem
  have hold : (rdByte mmaState 0).val = 0 := by decide +kernel
  exact absurd (hmem.trans hold) (by decide)

end Sys2Proof.Machine
end

section
/-! SUPPORT. The state after reset (R37, R449). -/

namespace Sys2Proof.Machine

/-- After reset nothing is in memory, in the NVM or at junction 3, and no time has passed. -/
theorem sound_reset : Sound State.reset where
  mem := rfl
  nvm := rfl
  queues := fun _ h => absurd h List.not_mem_nil
  tick := by decide
  cyc := by decide

/-- Before READY the control plane does not run (R37). -/
theorem ctlRuns_of_notReady {s : State} (h : s.ready = false) : ctlRuns s = false := by
  unfold ctlRuns
  rw [h, Bool.false_and]

/-- Settles O59: the registers one by one, and the rest by what the reset state is. -/
theorem resetState : Obligations.ResetState :=
  ⟨rfl, by decide, by decide, by decide, by decide, by decide, by decide, by decide, by decide, rfl, rfl, rfl, rfl,
    ctlRuns_of_notReady rfl, rfl, rfl, rfl, sound_reset⟩

end Sys2Proof.Machine
end

section
/-! SUPPORT. One completion (R50, R67, R72, R77, R80): what the record, the signal, the journal and the drain leave,
and from them the whole of a completion that closes no phase. -/

namespace Sys2Proof.Machine

/-! ## Holding a context -/

/-- A hold that tells no peer notes the context alone. -/
theorem holdCtx_mask_trns {L : Piece → Bool} {c reason : Nat} (hr : reason ≠ 3) (s : State) (htrns : L .trns = true) :
    (holdCtx c reason s).mask L = s.mask L := by
  unfold holdCtx
  simp [hr, htrns]

theorem captureHold_unchanged (d : Done) (s : State) : Unchanged [.trns] s (captureHold d s) :=
  unchanged_of_mask (by unfold captureHold; simp [pieces, holdCtx_mask_trns])

/-! ## The steps of a completion -/

theorem storeClean_storedAs (who : BitVec 16) (a : Nat) (l : List Byte) (s : State) :
    StoredAs ((List.range l.length).map (fun j => (a + j, { val := l.getD j 0 }))) s (storeClean who a l s) := by
  obtain ⟨-, hval, -⟩ := writeBytes_spec who 0 ((List.range l.length).map (fun j => (a + j, { val := l.getD j 0 }))) s
  exact hval

theorem storeClean_intact {a : Nat} {s : State} (h : Intact s a) (who : BitVec 16) (b : Nat) (l : List Byte) :
    Intact (storeClean who b l s) a := by
  obtain ⟨-, -, -, hst⟩ := writeBytes_spec who 0 ((List.range l.length).map (fun j => (b + j, { val := l.getD j 0 }))) s
  exact (hst _).trans h

/-- The record is written, the outstanding count falls, and the number of the charged fault is used up. -/
def recordTaken (d : Done) (s : State) : State :=
  let b := d.is.bobbin.toNat
  let s1 := writeRecord b (d.rec_ s) s
  let s2 := if d.dispatched then s1.setBob b { s1.bob b with outstanding := (s1.bob b).outstanding - 1 } else s1
  { s2 with seqs := mdel s2.seqs d.is.id }

/-- The barrier counts the signal, and the tag is held. -/
def signalGiven (d : Done) (s : State) : State :=
  let s1 := if cSignalEn d.is.cmd && signals d.status d.kind then s.incBarrier (cSignal d.is.cmd) else s
  if d.holds && cHoldTag d.is.cmd ≠ 0 && holdsTag d.status d.kind then s1.setHold (cHoldTag d.is.cmd) true else s1

/-- The journal records a completed command, with its completion record (R289). -/
def recordJournalled (jrn : Bool) (d : Done) (rec_ : List Byte) (c : Nat) (s : State) : State :=
  if jrn then jrnAppend c 0 (cmdRecord d.is rec_) s else s

/-- The bytes of the completion record of `d`. -/
def doneBytes (d : Done) (s : State) : List Byte :=
  (d.rec_ s).bytes s.cyc (recordGen (s.bob d.is.bobbin.toNat) (s.bob d.is.bobbin.toNat).tail.toNat)

/-- The state of a completion before the drain of its bobbin. -/
def beforeDrain (jrn : Bool) (d : Done) (s : State) : State :=
  captureHold d (recordJournalled jrn d (doneBytes d s) (bobCtx s d.is.bobbin.toNat) (signalGiven d (recordTaken d s)))

theorem completeBase_eq (jrn : Bool) (d : Done) (s : State) :
    completeBase jrn d s = settleDrain d.is.bobbin.toNat (beforeDrain jrn d s) := rfl

theorem recordTaken_unchanged (d : Done) (s : State) :
    Unchanged [.reg, .mem, .errs, .skn, .dst, .bobs, .seqs] s (recordTaken d s) :=
  unchanged_of_mask (by unfold recordTaken; simp [pieces])

theorem signalGiven_unchanged (d : Done) (s : State) : Unchanged [.barriers, .barrierAt, .holds] s (signalGiven d s) :=
  unchanged_of_mask (by unfold signalGiven; simp [pieces])

theorem recordJournalled_unchanged (jrn : Bool) (d : Done) (l : List Byte) (c : Nat) (s : State) :
    Unchanged [.reg, .mem, .errs, .skn, .dst, .seqs, .trns] s (recordJournalled jrn d l c s) :=
  unchanged_of_mask (by unfold recordJournalled; simp [pieces])

theorem settleDrain_unchanged (b : Nat) (s : State) : Unchanged [.bobs] s (settleDrain b s) :=
  unchanged_of_mask (by simp [pieces])

theorem storeClean_unchanged (who : BitVec 16) (a : Nat) (l : List Byte) (s : State) :
    Unchanged [.reg, .mem, .errs, .skn, .dst, .seqs] s (storeClean who a l s) := unchanged_of_mask (by simp [pieces])

theorem writeRecord_bob (b : Nat) (r : Rec) (s : State) (w : Nat) :
    (writeRecord b r s).bob w = if b = w then { s.bob b with tail := (s.bob b).tail + 1 } else s.bob w := by
  unfold writeRecord
  dsimp only
  rw [State.bob_setBob, bob_of_bobs (storeClean_unchanged _ _ _ s .bobs (by decide))]

/-- A bobbin with one record more, and one command fewer outstanding where that command had been dispatched. -/
def Bob.recorded (dispatched : Bool) (x : Bob) : Bob :=
  { x with tail := x.tail + 1, outstanding := if dispatched then x.outstanding - 1 else x.outstanding }

/-- A bobbin that drains and holds no command any more is disabled (R50). -/
def Bob.drained (x : Bob) : Bob := if x.state = .draining ∧ x.outstanding = 0 then { x with state := .disabled } else x

@[simp] theorem Bob.drained_tail (x : Bob) : x.drained.tail = x.tail := by unfold Bob.drained; split <;> rfl
@[simp] theorem Bob.drained_head (x : Bob) : x.drained.head = x.head := by unfold Bob.drained; split <;> rfl
@[simp] theorem Bob.drained_queue (x : Bob) : x.drained.queue = x.queue := by unfold Bob.drained; split <;> rfl
@[simp] theorem Bob.drained_outstanding (x : Bob) : x.drained.outstanding = x.outstanding := by unfold Bob.drained; split <;> rfl
@[simp] theorem Bob.drained_state (x : Bob) :
    x.drained.state = if x.state = .draining ∧ x.outstanding = 0 then .disabled else x.state := by unfold Bob.drained; split <;> rfl

theorem recordTaken_bob (d : Done) (s : State) (w : Nat) :
    (recordTaken d s).bob w
      = if d.is.bobbin.toNat = w then (s.bob d.is.bobbin.toNat).recorded d.dispatched else s.bob w := by
  show (if d.dispatched then _ else _ : State).bob w = _
  unfold Bob.recorded
  split
  · simp only [State.bob_setBob, writeRecord_bob, if_true]
    split <;> rfl
  · exact writeRecord_bob ..

theorem settleDrain_bob (b : Nat) (s : State) (w : Nat) :
    (settleDrain b s).bob w = if b = w then (s.bob b).drained else s.bob w := by
  unfold settleDrain Bob.drained
  by_cases h : (s.bob b).state = .draining ∧ (s.bob b).outstanding = 0
  · simp [h]
  · rw [if_neg (by simpa using h), if_neg h]
    split
    · next e => rw [e]
    · rfl

theorem signalGiven_barrier (d : Done) (s : State) (k : Nat) :
    (signalGiven d s).barrier k
      = if cSignalEn d.is.cmd = true ∧ signals d.status d.kind = true ∧ k = cSignal d.is.cmd then s.barrier k + 1 else s.barrier k := by
  have hhold (t : State) (g : Nat) : (t.setHold g true).barrier k = t.barrier k := rfl
  have hinc (t : State) (j : Nat) : (t.incBarrier j).barrier k = if k = j then t.barrier k + 1 else t.barrier k := by
    unfold State.incBarrier
    rw [State.barrier_setBarrier]
    by_cases h : j = k
    · subst h; simp
    · rw [if_neg h, if_neg (Ne.symm h)]
  unfold signalGiven
  dsimp only
  simp only [apply_ite (fun t : State => t.barrier k), hhold, hinc, ite_self, Bool.and_eq_true, ite_and]

theorem signalGiven_hold (d : Done) (s : State) (g : Nat) :
    (signalGiven d s).hold g
      = if d.holds = true ∧ cHoldTag d.is.cmd ≠ 0 ∧ holdsTag d.status d.kind = true ∧ g = cHoldTag d.is.cmd then true else s.hold g := by
  have hinc (t : State) (j : Nat) : (t.incBarrier j).hold g = t.hold g := rfl
  unfold signalGiven
  dsimp only
  simp only [apply_ite (fun t : State => t.hold g), State.hold_setHold, hinc, ite_self, Bool.and_eq_true, decide_eq_true_eq, ite_and,
    eq_comm (a := g)]

theorem bobCtx_of_bobs {s t : State} (h : t.bobs = s.bobs) (b : Nat) : bobCtx t b = bobCtx s b := by
  unfold bobCtx
  rw [bob_of_bobs h]

/-- Behind the record and the signal, a completion may journal the command and hold its context. -/
theorem beforeDrain_unchanged (jrn : Bool) (d : Done) (s : State) :
    Unchanged [.reg, .mem, .errs, .skn, .dst, .seqs, .trns] (signalGiven d (recordTaken d s)) (beforeDrain jrn d s) :=
  (recordJournalled_unchanged jrn d _ _ _).trans (captureHold_unchanged d _) (by decide) (by decide)

/-- Behind the record and the signal, a completion may journal the command, hold its context and drain its bobbin. -/
theorem completeBase_after (jrn : Bool) (d : Done) (s : State) :
    Unchanged [.reg, .mem, .errs, .skn, .dst, .seqs, .trns, .bobs] (signalGiven d (recordTaken d s)) (completeBase jrn d s) :=
  (beforeDrain_unchanged jrn d s).trans (settleDrain_unchanged d.is.bobbin.toNat _) (by decide) (by decide)

theorem completeBase_unchanged (jrn : Bool) (d : Done) (s : State) :
    Unchanged [.reg, .mem, .errs, .skn, .dst, .bobs, .barriers, .barrierAt, .holds, .seqs, .trns] s (completeBase jrn d s) :=
  ((recordTaken_unchanged d s).trans (signalGiven_unchanged d _)
      (n := [.reg, .mem, .errs, .skn, .dst, .bobs, .barriers, .barrierAt, .holds, .seqs]) (by decide) (by decide)).trans
    (completeBase_after jrn d s) (by decide) (by decide)

theorem completeBase_bob (jrn : Bool) (d : Done) (s : State) (w : Nat) :
    (completeBase jrn d s).bob w
      = if d.is.bobbin.toNat = w then ((s.bob d.is.bobbin.toNat).recorded d.dispatched).drained else s.bob w := by
  have hb (v : Nat) : (beforeDrain jrn d s).bob v = (recordTaken d s).bob v :=
    bob_of_bobs ((signalGiven_unchanged d (recordTaken d s) .bobs (by decide)).trans (beforeDrain_unchanged jrn d s .bobs (by decide))) v
  rw [completeBase_eq, settleDrain_bob, hb, hb, recordTaken_bob, recordTaken_bob, if_pos rfl]
  split <;> rfl

theorem completeBase_barrier (jrn : Bool) (d : Done) (s : State) (k : Nat) :
    (completeBase jrn d s).barrier k
      = if cSignalEn d.is.cmd = true ∧ signals d.status d.kind = true ∧ k = cSignal d.is.cmd then s.barrier k + 1 else s.barrier k := by
  have hafter : (completeBase jrn d s).barriers = _ := completeBase_after jrn d s .barriers (by decide)
  have hbefore : (recordTaken d s).barriers = s.barriers := recordTaken_unchanged d s .barriers (by decide)
  have h := signalGiven_barrier d (recordTaken d s) k
  unfold State.barrier at h ⊢
  rw [hafter, h, hbefore]

theorem completeBase_hold (jrn : Bool) (d : Done) (s : State) (g : Nat) :
    (completeBase jrn d s).hold g
      = if d.holds = true ∧ cHoldTag d.is.cmd ≠ 0 ∧ holdsTag d.status d.kind = true ∧ g = cHoldTag d.is.cmd then true else s.hold g := by
  have hafter : (completeBase jrn d s).holds = _ := completeBase_after jrn d s .holds (by decide)
  have hbefore : (recordTaken d s).holds = s.holds := recordTaken_unchanged d s .holds (by decide)
  have h := signalGiven_hold d (recordTaken d s) g
  unfold State.hold at h ⊢
  rw [hafter, h, hbefore]

/-! ## The record in memory -/

theorem length_leBytes (n x : Nat) : (leBytes n x).length = n := by
  induction n generalizing x with
  | zero => rfl
  | succ n ih => rw [leBytes, List.length_cons, ih]

theorem jrnAppend_closed {c : Nat} {s : State} (h : (s.trn c).jopen = none) (sec : Nat) (l : List MByte) : jrnAppend c sec l s = s := by
  unfold jrnAppend
  dsimp only
  rw [h]

/-- The bytes of the record of `d`, at the slot of the bobbin's TAIL. -/
def recordWrites (d : Done) (s : State) : List (Nat × MByte) :=
  (List.range 32).map (fun j =>
    (recordAddr s d.is.bobbin.toNat (s.bob d.is.bobbin.toNat) (s.bob d.is.bobbin.toNat).tail.toNat + j,
     { val := (doneBytes d s).getD j 0 }))

theorem recordTaken_storedAs (d : Done) (s : State) : StoredAs (recordWrites d s) s (recordTaken d s) := by
  have hlen : (doneBytes d s).length = 32 := length_leBytes ..
  have hst := storeClean_storedAs srcBob
    (recordAddr s d.is.bobbin.toNat (s.bob d.is.bobbin.toNat) (s.bob d.is.bobbin.toNat).tail.toNat) (doneBytes d s) s
  rw [hlen] at hst
  refine storedAs_right hst (fun a ha => storeClean_intact ha ..)
    (.of_unchanged (ps := [.bobs, .seqs]) (unchanged_of_mask ?_) (by decide))
  unfold recordTaken writeRecord
  simp [pieces, doneBytes]

theorem recordTaken_intact {a : Nat} {s : State} (h : Intact s a) (d : Done) : Intact (recordTaken d s) a := by
  have hp : (recordTaken d s).pkg = s.pkg := recordTaken_unchanged d s .pkg (by decide)
  unfold Intact State.stuckOf at h ⊢
  rwa [hp]

/-- Where the journal of the context has no entry open, a completion stores its record and nothing else. -/
theorem completeBase_storedAs {d : Done} {s : State} (jrn : Bool) (h : (s.trn (bobCtx s d.is.bobbin.toNat)).jopen = none) :
    StoredAs (recordWrites d s) s (completeBase jrn d s) := by
  have htrn : ((signalGiven d (recordTaken d s)).trn (bobCtx s d.is.bobbin.toNat)).jopen = none := by
    have ht : (signalGiven d (recordTaken d s)).trns = s.trns :=
      (recordTaken_unchanged d s .trns (by decide)).trans (signalGiven_unchanged d _ .trns (by decide))
    unfold State.trn at h ⊢
    rwa [ht]
  have hjrn : recordJournalled jrn d (doneBytes d s) (bobCtx s d.is.bobbin.toNat) (signalGiven d (recordTaken d s))
      = signalGiven d (recordTaken d s) := by
    unfold recordJournalled
    rw [jrnAppend_closed htrn, ite_self]
  refine storedAs_right (recordTaken_storedAs d s) (fun a ha => recordTaken_intact ha d)
    (.of_unchanged (ps := [.barriers, .barrierAt, .holds, .trns, .bobs]) ?_ (by decide))
  rw [completeBase_eq, beforeDrain, hjrn]
  exact (signalGiven_unchanged d _).trans
    ((captureHold_unchanged d _).trans (settleDrain_unchanged _ _) (n := [.trns, .bobs]) (by decide) (by decide)) (by decide) (by decide)

/-! ## One completion -/

theorem countDone_unchanged (d : Done) (s : State) : Unchanged [.ctxs] s (countDone d s) := unchanged_of_mask (by simp [pieces])

theorem countDone_ctx (d : Done) (s : State) (c : Nat) :
    (countDone d s).ctx c
      = if c = bobCtx s d.is.bobbin.toNat ∧ d.counts = true ∧ cPhase d.is.cmd ≠ phNone ∧ posDiff s c d.is.cmd = 0
        then { s.ctx c with done := (s.ctx c).done + 1 } else s.ctx c := by
  unfold countDone
  dsimp only
  by_cases hc : c = bobCtx s d.is.bobbin.toNat
  · subst hc
    simp only [Bool.and_eq_true, decide_eq_true_eq, true_and, and_assoc]
    rw [apply_ite (State.ctx · _), State.ctx_setCtx, if_pos rfl]
  · rw [apply_ite (State.ctx · _), State.ctx_setCtx, if_neg (Ne.symm hc), ite_self, if_neg (fun h => hc h.1)]

theorem ctx_of_ctxs {s t : State} (h : t.ctxs = s.ctxs) (c : Nat) : t.ctx c = s.ctx c := by
  unfold State.ctx
  rw [h]

theorem trn_of_trns {s t : State} (h : t.trns = s.trns) (c : Nat) : t.trn c = s.trn c := by
  unfold State.trn
  rw [h]

theorem closeIfDone_unclosed {c : Nat} {s : State} (h : (s.ctx c).closer = none) : closeIfDone c s = s := by
  unfold closeIfDone
  rw [h]

/-- With no PHASE_CLOSE waiting in the context, a completion closes no phase. -/
theorem complete_eq {d : Done} {s : State} (h : (s.ctx (bobCtx s d.is.bobbin.toNat)).closer = none) :
    complete d s = completeBase true d (countDone d s) := by
  refine closeIfDone_unclosed ?_
  rw [ctx_of_ctxs (completeBase_unchanged true d _ .ctxs (by decide)), countDone_ctx]
  split <;> exact h

theorem complete_unchanged {d : Done} {s : State} (h : (s.ctx (bobCtx s d.is.bobbin.toNat)).closer = none) :
    Unchanged [.reg, .mem, .errs, .skn, .dst, .bobs, .barriers, .barrierAt, .holds, .seqs, .trns, .ctxs] s (complete d s) := by
  rw [complete_eq h]
  exact (countDone_unchanged d s).trans (completeBase_unchanged true d _) (by decide) (by decide)

theorem recordWrites_congr {d : Done} {s t : State} (hb : t.bobs = s.bobs) (hc : t.cyc = s.cyc) (hq : t.seqs = s.seqs)
    (hw : cwinBase t = cwinBase s) : recordWrites d t = recordWrites d s := by
  unfold recordWrites recordAddr doneBytes Done.rec_
  rw [bob_of_bobs hb, hc, hq, hw]

/-- A completion that closes no phase (R67, R72, R77, R80). -/
theorem completed_complete {d : Done} {s : State} (h : (s.ctx (bobCtx s d.is.bobbin.toNat)).closer = none) :
    Completed d s (complete d s) := by
  rw [complete_eq h]
  have hcount := countDone_unchanged d s
  have hbobs : (countDone d s).bobs = s.bobs := hcount .bobs (by decide)
  have hbarriers : (countDone d s).barriers = s.barriers := hcount .barriers (by decide)
  have hholds : (countDone d s).holds = s.holds := hcount .holds (by decide)
  have hbob : (completeBase true d (countDone d s)).bob d.is.bobbin.toNat
      = ((s.bob d.is.bobbin.toNat).recorded d.dispatched).drained := by
    rw [completeBase_bob, if_pos rfl, bob_of_bobs hbobs]
  refine ⟨?_, ?_, ?_, ?_, ?_, fun w hw => ?_, fun k => ?_, fun g => ?_, fun c => ?_, fun hj => ?_⟩
  · rw [hbob, Bob.drained_tail]; rfl
  · rw [hbob, Bob.drained_head]; rfl
  · rw [hbob, Bob.drained_queue]; rfl
  · rw [hbob, Bob.drained_outstanding]; rfl
  · rw [hbob, Bob.drained_state, Bob.drained_outstanding]; rfl
  · rw [completeBase_bob, if_neg (Ne.symm hw), bob_of_bobs hbobs]
  · rw [completeBase_barrier, State.barrier, hbarriers]; rfl
  · rw [completeBase_hold, State.hold, hholds]; rfl
  · rw [ctx_of_ctxs (completeBase_unchanged true d _ .ctxs (by decide)), countDone_ctx]; split <;> rfl
  · have hst := completeBase_storedAs (d := d) (s := countDone d s) true
      (by rwa [bobCtx_of_bobs hbobs, trn_of_trns (hcount .trns (by decide))])
    have hreg : (countDone d s).reg = s.reg := hcount .reg (by decide)
    have hdata : SameData s (countDone d s) := .of_unchanged hcount (by decide)
    rw [recordWrites_congr hbobs (hcount .cyc (by decide)) (hcount .seqs (by decide))
      (by unfold cwinBase base48 State.getReg; rw [hreg])] at hst
    exact storedAs_left hdata hst

end Sys2Proof.Machine
end

section
/-! SUPPORT. A report is taken (R39, R273, R289): the verdict and the route it brings, the completion of its command, and
the stop that ends. -/

namespace Sys2Proof.Machine

theorem SameAt.symm {p : Piece} {s t : State} (h : SameAt p s t) : SameAt p t s := by
  cases p <;> exact Eq.symm h

theorem SameData.symm {s t : State} (h : SameData s t) : SameData t s :=
  ⟨fun a => (h.refusal a).symm, fun a => (h.stuck a).symm, fun a ha => (h.data a ((h.stuck a).symm.trans ha)).symm⟩

/-- A completion of a state that differs in nothing on which a completion depends. -/
theorem Completed.of_start {d : Done} {s s' t : State} (h : Completed d s' t)
    (hsame : ∀ p ∈ [Piece.bobs, .barriers, .holds, .ctxs], SameAt p s s')
    (hrec : (s.trn (bobCtx s d.is.bobbin.toNat)).jopen = none →
      (s'.trn (bobCtx s' d.is.bobbin.toNat)).jopen = none ∧ recordWrites d s' = recordWrites d s ∧ SameData s s') :
    Completed d s t := by
  have hbobs : s'.bobs = s.bobs := hsame .bobs (by simp)
  have hbarriers : s'.barriers = s.barriers := hsame .barriers (by simp)
  have hholds : s'.holds = s.holds := hsame .holds (by simp)
  have hctxs : s'.ctxs = s.ctxs := hsame .ctxs (by simp)
  have hb := bob_of_bobs hbobs
  have hbarrier : s'.barrier = s.barrier := by unfold State.barrier; rw [hbarriers]
  have hhold : s'.hold = s.hold := by unfold State.hold; rw [hholds]
  have hctx : s'.ctx = s.ctx := by unfold State.ctx; rw [hctxs]
  obtain ⟨htail, hhead, hqueue, hout, hstate, hoth, hsig, hh, hdone, hr⟩ := h
  rw [hb] at htail hhead hqueue hout hstate
  refine ⟨htail, hhead, hqueue, hout, hstate, fun w hw => (hoth w hw).trans (hb w), fun k => hbarrier ▸ hsig k,
    fun g => hhold ▸ hh g, fun c => ?_, fun hj => ?_⟩
  · have h := hdone c
    unfold posDiff ctxPos at h ⊢
    rwa [bobCtx_of_bobs hbobs, hctx] at h
  · obtain ⟨hj', hw, hdata⟩ := hrec hj
    exact storedAs_left hdata (show StoredAs (recordWrites d s) s' t from hw ▸ hr hj')

/-! ## The verdict and the route -/

/-- A message that no command is charged with reaches the distaff alone. -/
theorem sendMsg_uncharged_unchanged (m : Msg) (s : State) : Unchanged [.dst] s (sendMsg m none s) :=
  unchanged_of_mask (by unfold sendMsg; dsimp only; split <;> simp [pieces])

theorem orVerdict_unchanged (c : Nat) (v : BitVec 6) (s : State) : Unchanged [.trns] s (orVerdict c v s) :=
  unchanged_of_mask (by simp [pieces])

theorem verdictOf_unchanged (c phase : Nat) (ovf csum : Bool) (s : State) :
    Unchanged [.dst, .trns] s (verdictOf c phase ovf csum s) := by
  unfold verdictOf
  split
  · have h := orVerdict_unchanged c (BitVec.ofNat 6 (b2n ovf + 2 * b2n csum)) s
    dsimp only
    split
    · exact h.trans (sendMsg_uncharged_unchanged _ _) (by decide) (by decide)
    · exact h.mono (by decide)
  · exact fun p _ => by cases p <;> rfl

/-- A context's training state with the same entry of the journal open. -/
theorem setTrn_jopen {c : Nat} {t : Trn} {s : State} (h : t.jopen = (s.trn c).jopen) (w : Nat) :
    ((s.setTrn c t).trn w).jopen = (s.trn w).jopen := by
  rw [State.trn_setTrn]
  split
  · next e => rw [← e, h]
  · rfl

theorem verdictOf_jopen (c phase : Nat) (ovf csum : Bool) (s : State) (w : Nat) :
    ((verdictOf c phase ovf csum s).trn w).jopen = (s.trn w).jopen := by
  have hor : ((orVerdict c (BitVec.ofNat 6 (b2n ovf + 2 * b2n csum)) s).trn w).jopen = (s.trn w).jopen := setTrn_jopen (by rfl) w
  unfold verdictOf
  split
  · dsimp only
    split
    · exact (congrArg Trn.jopen (trn_of_trns (sendMsg_uncharged_unchanged _ _ .trns (by decide)) w)).trans hor
    · exact hor
  · rfl

theorem storeMarked_unchanged (who : BitVec 16) (a : Nat) (l : List MByte) (s : State) :
    Unchanged [.reg, .mem, .errs, .skn, .dst, .seqs] s (storeMarked who a l s) := unchanged_of_mask (by simp [pieces])

theorem jrnAppend_jopen (c sec : Nat) (l : List MByte) (s : State) (w : Nat) : ((jrnAppend c sec l s).trn w).jopen = (s.trn w).jopen := by
  have hof {u t : State} (h : u.trns = t.trns) : (u.trn w).jopen = (t.trn w).jopen := congrArg Trn.jopen (trn_of_trns h w)
  unfold jrnAppend
  dsimp only
  split
  · rfl
  · split
    · exact (hof (storeMarked_unchanged _ _ _ _ .trns (by decide))).trans (setTrn_jopen (by rfl) w)
    · refine Eq.trans ?_ (setTrn_jopen (c := c) (t := { s.trn c with jtrunc := (s.trn c).jtrunc.set sec true, jfull := true }) (by rfl) w)
      split
      · exact hof rfl
      · exact hof (sendMsg_uncharged_unchanged _ _ .trns (by decide))

theorem journalRoute_jopen (c : Nat) (l : List (Nat × Bool)) (s : State) (w : Nat) :
    ((journalRoute c l s).trn w).jopen = (s.trn w).jopen := by
  unfold journalRoute
  induction l generalizing s with
  | nil => rfl
  | cons r l ih => rw [List.foldl_cons, ih, jrnAppend_jopen]

theorem journalRoute_closed {c : Nat} {s : State} (h : (s.trn c).jopen = none) (l : List (Nat × Bool)) : journalRoute c l s = s := by
  unfold journalRoute
  induction l with
  | nil => rfl
  | cons r l ih => rw [List.foldl_cons, jrnAppend_closed h, ih]

/-! ## A report is taken -/

/-- The stage of the report has written its last line, and the report is off the list. -/
def reportOff (r : Report) (s : State) : State :=
  let s1 := if cOp r.is.cmd = 0x10 then stageDone r.is.id s else s
  { s1 with reports := dropReport r.unit s1.reports }

/-- Overflow and checksum of a report reach the verdict of context `c`. -/
def reportVerdict (r : Report) (c : Nat) (s : State) : State :=
  verdictOf c (cPhase r.is.cmd) (decide (r.status = stOVERFLOW) || (decide (r.errKind = kindABANDONED) && r.lovf))
    (decide (r.status = stCHECKSUM) || (decide (r.errKind = kindABANDONED) && r.lcsum)) s

/-- The completion that a report tells. -/
def Report.done (r : Report) : Done :=
  { is := r.is, status := r.status, kind := r.errKind, oobR := r.oobReads, oobW := r.oobWrites, aux := r.aux
    charged := r.charged, counts := decide (cOp r.is.cmd ≠ opPHASE_CLOSE) }

/-- What a report does before its command completes, the journal aside. -/
def reportCounted (r : Report) (s : State) : State :=
  (reportVerdict r (bobCtx s r.is.bobbin.toNat) (reportOff r s)).count (rBob 0x88) (b2n (r.status = stSHAPE))

/-- The state in which the command of a report completes. -/
def reportNoted (r : Report) (s : State) : State := journalRoute (bobCtx s r.is.bobbin.toNat) r.route (reportCounted r s)

theorem reportOff_unchanged (r : Report) (s : State) : Unchanged [.spn, .reports] s (reportOff r s) :=
  unchanged_of_mask (by unfold reportOff; simp [pieces])

theorem takeReport_eq (r : Report) (s : State) : takeReport r s = settlePend (complete r.done (reportNoted r s)) := by
  have hc : bobCtx s r.is.bobbin.toNat = bobCtx (reportOff r s) r.is.bobbin.toNat :=
    (bobCtx_of_bobs (reportOff_unchanged r s .bobs (by decide)) _).symm
  unfold reportNoted reportCounted
  rw [hc]
  rfl

theorem reportVerdict_unchanged (r : Report) (c : Nat) (s : State) : Unchanged [.dst, .trns] s (reportVerdict r c s) :=
  verdictOf_unchanged _ _ _ _ s

theorem journalRoute_unchanged (c : Nat) (l : List (Nat × Bool)) (s : State) :
    Unchanged [.reg, .mem, .errs, .skn, .dst, .seqs, .trns] s (journalRoute c l s) := unchanged_of_mask (by simp [pieces])

theorem count_unchanged (a n : Nat) (s : State) : Unchanged [.reg] s (s.count a n) := unchanged_of_mask (by simp [pieces])

theorem reportCounted_after (r : Report) (s : State) : Unchanged [.dst, .trns, .reg] (reportOff r s) (reportCounted r s) :=
  (reportVerdict_unchanged r _ _).trans (count_unchanged _ _ _) (by decide) (by decide)

theorem reportNoted_after (r : Report) (s : State) :
    Unchanged [.reg, .mem, .errs, .skn, .dst, .seqs, .trns] (reportOff r s) (reportNoted r s) :=
  (reportCounted_after r s).trans (journalRoute_unchanged _ r.route _) (by decide) (by decide)

theorem reportCounted_unchanged (r : Report) (s : State) : Unchanged [.spn, .reports, .dst, .trns, .reg] s (reportCounted r s) :=
  (reportOff_unchanged r s).trans (reportCounted_after r s) (by decide) (by decide)

theorem reportNoted_unchanged (r : Report) (s : State) :
    Unchanged [.spn, .reports, .reg, .mem, .errs, .skn, .dst, .seqs, .trns] s (reportNoted r s) :=
  (reportOff_unchanged r s).trans (reportNoted_after r s) (by decide) (by decide)

theorem getReg_count_ne {a b : Nat} (h : a ≠ b) (n : Nat) (s : State) : (s.count a n).getReg b = s.getReg b := by
  unfold State.count
  split
  · rfl
  · rw [State.getReg_setReg, if_neg h]

theorem reportCounted_cwinBase (r : Report) (s : State) : cwinBase (reportCounted r s) = cwinBase s := by
  have hreg : (reportVerdict r (bobCtx s r.is.bobbin.toNat) (reportOff r s)).reg = s.reg :=
    (reportOff_unchanged r s .reg (by decide)).trans (reportVerdict_unchanged r _ _ .reg (by decide))
  unfold cwinBase base48 reportCounted
  rw [getReg_count_ne (by decide), getReg_count_ne (by decide), State.getReg, State.getReg, hreg]
  rfl

theorem reportCounted_jopen (r : Report) (s : State) (w : Nat) : ((reportCounted r s).trn w).jopen = (s.trn w).jopen := by
  have hoff : (reportOff r s).trns = s.trns := reportOff_unchanged r s .trns (by decide)
  have hv : ((reportVerdict r (bobCtx s r.is.bobbin.toNat) (reportOff r s)).trn w).jopen = ((reportOff r s).trn w).jopen :=
    verdictOf_jopen ..
  rw [trn_of_trns hoff] at hv
  exact (congrArg Trn.jopen (trn_of_trns (count_unchanged _ _ _ .trns (by decide)) w)).trans hv

/-- The state in which the verdict and the route of a report are known, as in `reportNoted`, its report still on the list. -/
def reportKnown (r : Report) (s : State) : State :=
  journalRoute (bobCtx s r.is.bobbin.toNat) r.route (reportVerdict r (bobCtx s r.is.bobbin.toNat) s)

theorem reportKnown_unchanged (r : Report) (s : State) :
    Unchanged [.reg, .mem, .errs, .skn, .dst, .seqs, .trns] s (reportKnown r s) :=
  (reportVerdict_unchanged r _ s).trans (journalRoute_unchanged _ _ _) (by decide) (by decide)

theorem reportKnown_jopen (r : Report) (s : State) (w : Nat) : ((reportKnown r s).trn w).jopen = (s.trn w).jopen :=
  (journalRoute_jopen ..).trans (verdictOf_jopen ..)

/-- Where the journal has no entry open, the route is not recorded. -/
theorem reportKnown_closed {r : Report} {s : State} (h : (s.trn (bobCtx s r.is.bobbin.toNat)).jopen = none) :
    reportKnown r s = reportVerdict r (bobCtx s r.is.bobbin.toNat) s := journalRoute_closed ((verdictOf_jopen ..).trans h) _

theorem reportNoted_closed {r : Report} {s : State} (h : (s.trn (bobCtx s r.is.bobbin.toNat)).jopen = none) :
    reportNoted r s = reportCounted r s := journalRoute_closed ((reportCounted_jopen ..).trans h) _

/-- The completion of a report's command, on the state in which the verdict and the route of its report are known. -/
theorem completed_of_report {r : Report} {s t : State} (h : Completed r.done (reportNoted r s) t) :
    Completed r.done (reportKnown r s) t := by
  have hknown := reportKnown_unchanged r s
  have hnoted := reportNoted_unchanged r s
  have hb := bobCtx_of_bobs (hknown .bobs (by decide)) r.is.bobbin.toNat
  have hb' := bobCtx_of_bobs (hnoted .bobs (by decide)) r.is.bobbin.toNat
  refine h.of_start (fun p hp => ?_) (fun hj => ?_)
  · have hout : ∀ p ∈ [Piece.bobs, .barriers, .holds, .ctxs],
        p ∉ [Piece.reg, .mem, .errs, .skn, .dst, .seqs, .trns]
        ∧ p ∉ [Piece.spn, .reports, .reg, .mem, .errs, .skn, .dst, .seqs, .trns] := by decide
    obtain ⟨h1, h2⟩ := hout p hp
    exact (hknown p h1).symm.trans (hnoted p h2)
  · have hopen : (s.trn (bobCtx s r.is.bobbin.toNat)).jopen = none :=
      (reportKnown_jopen r s _).symm.trans (hb ▸ hj)
    have hverd := reportVerdict_unchanged r (bobCtx s r.is.bobbin.toNat) s
    have hcount := reportCounted_unchanged r s
    refine ⟨?_, ?_, ?_⟩
    · show (State.trn _ (bobCtx (reportNoted r s) r.is.bobbin.toNat)).jopen = none
      rw [hb', reportNoted_closed hopen, reportCounted_jopen, hopen]
    · have hreg : (reportVerdict r (bobCtx s r.is.bobbin.toNat) s).reg = s.reg := hverd .reg (by decide)
      rw [reportNoted_closed hopen, reportKnown_closed hopen]
      exact (recordWrites_congr (hcount .bobs (by decide)) (hcount .cyc (by decide)) (hcount .seqs (by decide))
          (reportCounted_cwinBase r s)).trans
        (recordWrites_congr (hverd .bobs (by decide)) (hverd .cyc (by decide)) (hverd .seqs (by decide))
          (by unfold cwinBase base48 State.getReg; rw [hreg])).symm
    · rw [reportNoted_closed hopen, reportKnown_closed hopen]
      have hv : SameData s (reportVerdict r (bobCtx s r.is.bobbin.toNat) s) := .of_unchanged hverd (by decide)
      exact hv.symm.trans (.of_unchanged hcount (by decide))

/-! ## Pending stops -/

theorem getLsbD_setBit (x : BitVec 128) (v u : Nat) (b : Bool) (hu : u < 128) :
    (setBit x v b).getLsbD u = if u = v then b else x.getLsbD u := by
  have hbit : (1#128 <<< v).getLsbD u = decide (u = v) := by
    rw [← BitVec.twoPow_eq, BitVec.getLsbD_twoPow, Bool.eq_iff_iff]
    simp only [Bool.and_eq_true, decide_eq_true_eq]
    omega
  unfold setBit
  split
  · next hb =>
    rw [BitVec.getLsbD_or, hbit, hb]
    by_cases h : u = v <;> simp only [h, decide_true, decide_false, Bool.or_true, Bool.or_false, if_true, if_false]
  · next hb =>
    rw [BitVec.getLsbD_and, BitVec.getLsbD_not, hbit, Bool.eq_false_of_not_eq_true hb, decide_eq_true hu]
    by_cases h : u = v <;>
      simp only [h, decide_true, decide_false, Bool.not_true, Bool.not_false, Bool.and_true, Bool.and_false, if_true, if_false]

/-- Stops end at the places of a list whose unit holds no command. -/
theorem getLsbD_foldl_settle (busy : Nat → Bool) (l : List Nat) (p : BitVec 128) {v : Nat} (hv : v < 128) :
    (l.foldl (fun p w => if busy w then p else setBit p w false) p).getLsbD v = (p.getLsbD v && (busy v || decide (v ∉ l))) := by
  induction l generalizing p with
  | nil => simp
  | cons w l ih =>
    rw [List.foldl_cons, ih]
    simp only [List.mem_cons]
    by_cases hb : busy w = true
    · rw [if_pos hb]
      by_cases h : v = w
      · rw [h, hb, Bool.true_or, Bool.true_or]
      · simp only [h, false_or]
    · rw [if_neg hb, getLsbD_setBit _ _ _ _ hv]
      by_cases h : v = w
      · simp [h, hb]
      · simp only [h, false_or, if_false]

theorem settlePend_pend (s : State) {v : Nat} (hv : v < 128) : (settlePend s).pend.getLsbD v = (s.pend.getLsbD v && vecBusy s v) := by
  refine (getLsbD_foldl_settle (vecBusy s) (List.range 128) s.pend hv).trans ?_
  simp [hv]

theorem vecBusy_settlePend (s : State) (v : Nat) : vecBusy (settlePend s) v = vecBusy s v := rfl

theorem settlePend_unchanged (s : State) : Unchanged [.pend] s (settlePend s) := unchanged_of_mask (by simp [pieces])

/-- No piece of a completion's description is that of the stops. -/
theorem Completed.settled {d : Done} {s t : State} (h : Completed d s t) : Completed d s (settlePend t) :=
  ⟨h.tail, h.head, h.queue, h.outstanding, h.state, h.others, h.signal, h.hold, h.done, h.record⟩

theorem reportOff_reports (r : Report) (s : State) : (reportOff r s).reports = dropReport r.unit s.reports := by
  unfold reportOff
  dsimp only
  split <;> rfl

theorem reportOff_spn {r : Report} (h : cOp r.is.cmd ≠ 0x10) (s : State) : (reportOff r s).spn = s.spn := by
  unfold reportOff
  rw [if_neg h]

theorem execEngineCompletion_takes {u : BitVec 6} {r : Report} {s : State} (hw : (Instr.engineCompletion u).wf = true)
    (hctl : ctlRuns s = true) (hr : firstReport s u.toNat = some r) (hseq : seqKnown s r.charged r.is.id = true) (hinc : incsWait s u.toNat = false) :
    exec (.engineCompletion u) s = .next (takeReport r s) := by
  show execEngineCompletion u s = _
  unfold execEngineCompletion
  rw [guarded_runs hw, hr]
  dsimp only
  rw [hctl, hseq, hinc]
  rfl

theorem firstReport_unit {u : Nat} {r : Report} {s : State} (h : firstReport s u = some r) : r.unit = u :=
  of_decide_eq_true (List.find?_some (p := fun r : Report => decide (r.unit = u)) h)

/-- Settles O19: the completion, on the state with the report's verdict and route, and then the stop that ends. -/
theorem engineCompletionTakesReport : Obligations.EngineCompletionTakesReport := by
  rintro u r s _ hw hctl hr hseq hinc hcl rfl
  have hnoted := reportNoted_unchanged r s
  have hcl' : ((reportNoted r s).ctx (bobCtx (reportNoted r s) r.is.bobbin.toNat)).closer = none := by
    rw [bobCtx_of_bobs (hnoted .bobs (by decide)), ctx_of_ctxs (hnoted .ctxs (by decide)), hcl]
  have hcomp := complete_unchanged (d := r.done) hcl'
  have hafter := hcomp.trans (settlePend_unchanged _)
    (n := [.reg, .mem, .errs, .skn, .dst, .bobs, .barriers, .barrierAt, .holds, .seqs, .trns, .ctxs, .pend]) (by decide) (by decide)
  refine ⟨takeReport r s, execEngineCompletion_takes hw hctl hr hseq hinc, ?_, ?_, fun v hv => ?_, fun hop => ?_, ?_⟩ <;>
    rw [takeReport_eq]
  · have hoff : (settlePend (complete r.done (reportNoted r s))).reports = (reportOff r s).reports :=
      (reportNoted_after r s .reports (by decide)).trans (hafter .reports (by decide))
    rw [hoff, reportOff_reports, firstReport_unit hr]
  · exact (completed_of_report (completed_complete hcl')).settled
  · have hpend : (complete r.done (reportNoted r s)).pend = s.pend := (hnoted .pend (by decide)).trans (hcomp .pend (by decide))
    rw [settlePend_pend _ hv, hpend, vecBusy_settlePend]
  · have hoff : (settlePend (complete r.done (reportNoted r s))).spn = (reportOff r s).spn :=
      (reportNoted_after r s .spn (by decide)).trans (hafter .spn (by decide))
    rw [hoff, reportOff_spn hop]
  · exact hnoted.trans hafter (by decide) (by decide)

end Sys2Proof.Machine
end

section
/-! SUPPORT. The GATE, SLEEP and RST words of CLK[0] (R39, R407 to R409): what a pass over the units of a word does to each of them. -/

namespace Sys2Proof.Machine

/-! ## The words of the unit vector -/

section
variable {α : Type} {obs : State → Nat → α} {f : Nat → State → State} {F : Nat → α → α} {keep : State → Prop}
  (hkeep : ∀ v t, keep t → keep (f v t))
  (hf : ∀ v u t, keep t → u < 128 → obs (f v t) u = if u = v then F u (obs t u) else obs t u)
include hkeep hf

/-- A pass over places of word `w`, each once: what is seen of a listed place changes by `F`, of every other place not at all. -/
theorem foldl_word_at (w : Nat) {u : Nat} (hu : u < 128) (l : List Nat) (hl : l.Nodup) (s : State) (hs : keep s) :
    obs (l.foldl (fun s b => if vecUsed (32 * w + b) then f (32 * w + b) s else s) s) u
      = if (∃ b ∈ l, 32 * w + b = u) ∧ vecUsed u = true then F u (obs s u) else obs s u := by
  induction l generalizing s with
  | nil => simp
  | cons b l ih =>
    obtain ⟨hb, hl⟩ := List.nodup_cons.mp hl
    have hs' : keep (if vecUsed (32 * w + b) then f (32 * w + b) s else s) := by split <;> simp [hkeep, hs]
    rw [List.foldl_cons, ih hl _ hs']
    by_cases h : u = 32 * w + b
    · have hnot : ¬ ∃ c ∈ l, 32 * w + c = u := by
        rintro ⟨c, hc, e⟩
        exact hb ((show c = b by omega) ▸ hc)
      rw [if_neg (fun h => hnot h.1), ← h]
      by_cases hv : vecUsed u = true
      · rw [if_pos hv, hf u u s hs hu, if_pos rfl, if_pos ⟨⟨b, List.mem_cons_self, h.symm⟩, hv⟩]
      · rw [if_neg hv, if_neg (fun h => hv h.2)]
    · have hobs : obs (if vecUsed (32 * w + b) then f (32 * w + b) s else s) u = obs s u := by
        split
        · rw [hf _ u s hs hu, if_neg h]
        · rfl
      simp [hobs, Ne.symm h]

/-- What `forWord` does, place by place. -/
theorem forWord_at {s : State} (hs : keep s) (w : Nat) {u : Nat} (hu : u < 128) :
    obs (forWord w f s) u = if u / 32 = w ∧ vecUsed u = true then F u (obs s u) else obs s u := by
  have hword : (∃ b ∈ List.range 32, 32 * w + b = u) ↔ u / 32 = w := by
    constructor
    · rintro ⟨b, hb, rfl⟩
      have := List.mem_range.mp hb
      omega
    · exact fun h => ⟨u % 32, List.mem_range.mpr (by omega), by omega⟩
  have h := foldl_word_at hkeep hf w hu (List.range 32) List.nodup_range s hs
  simp only [hword] at h
  exact h

end

/-! ## Gates -/

theorem vecBusy_congr {s t : State} (hsp : t.spare = s.spare) (hr : t.reports = s.reports) (hc : t.crds = s.crds) (hp : t.ply = s.ply)
    (v : Nat) : vecBusy t v = vecBusy s v := by
  unfold vecBusy epochOfVec posOf State.unitBusy
  rw [hsp, hr, hc, hp]

/-- The gate of a unit, and whether its stop is pending. -/
def gateSeen (s : State) (u : Nat) : Bool × Bool := (s.gate.getLsbD u, s.pend.getLsbD u)

/-- What a GATE bit makes of them, for a unit that has a sleep request or not and holds a command or not (R39, R407). -/
def gateMade (bit asks busy : Bool) (x : Bool × Bool) : Bool × Bool :=
  (bit, if bit then x.2 && (x.1 || asks) else x.2 || (x.1 && busy))

theorem gateOn_seen (v u : Nat) (s : State) (hu : u < 128) :
    gateSeen (gateOn v s) u = if u = v then (true, s.pend.getLsbD v && s.sleepReq.getLsbD v) else gateSeen s u := by
  unfold gateSeen gateOn
  dsimp only
  rw [apply_ite (BitVec.getLsbD · u), getLsbD_setBit _ _ _ _ hu, getLsbD_setBit _ _ _ _ hu]
  by_cases h : u = v
  · subst h
    cases s.sleepReq.getLsbD u <;> simp
  · simp [h]

theorem stopUnit_seen (v u : Nat) (s : State) (hu : u < 128) :
    gateSeen (stopUnit v s) u = if u = v then (s.gate.getLsbD v, s.pend.getLsbD v || vecBusy s v) else gateSeen s u := by
  unfold stopUnit gateSeen
  by_cases h : u = v
  · subst h
    cases vecBusy s u <;> simp [getLsbD_setBit, hu, -BitVec.getLsbD_eq_getElem]
  · cases vecBusy s v <;> simp [getLsbD_setBit, hu, h, -BitVec.getLsbD_eq_getElem]

theorem gateOff_seen (v u : Nat) (s : State) (hu : u < 128) :
    gateSeen (gateOff v s) u = if u = v then (false, s.pend.getLsbD v || (s.gate.getLsbD v && vecBusy s v)) else gateSeen s u := by
  unfold gateOff
  split
  · next hg =>
    have hgate : (setBit s.gate v false).getLsbD u = if u = v then false else s.gate.getLsbD u := getLsbD_setBit _ _ _ _ hu
    rw [stopUnit_seen _ _ _ hu]
    by_cases h : u = v
    · subst h
      rw [if_pos rfl, if_pos rfl, hgate, if_pos rfl, hg, Bool.true_and]
      rfl
    · rw [if_neg h, if_neg h, gateSeen, hgate, if_neg h]
      rfl
  · next hg =>
    by_cases h : u = v
    · subst h
      rw [if_pos rfl, gateSeen, Bool.eq_false_of_not_eq_true hg, Bool.false_and, Bool.or_false]
    · rw [if_neg h]

/-- One unit of a GATE word. -/
def gateStep (v : Word) (u : Nat) (s : State) : State :=
  if v.getLsbD (u % 32) then (if s.gate.getLsbD u then s else gateOn u s) else gateOff u s

theorem gateStep_unchanged (v : Word) (u : Nat) (s : State) : Unchanged [.gate, .pend] s (gateStep v u s) :=
  unchanged_of_mask (by unfold gateStep; simp [pieces])

theorem gateStep_seen (v : Word) (w u : Nat) (s : State) (hu : u < 128) :
    gateSeen (gateStep v w s) u
      = if u = w then gateMade (v.getLsbD (u % 32)) (s.sleepReq.getLsbD u) (vecBusy s u) (gateSeen s u) else gateSeen s u := by
  unfold gateStep
  by_cases h : u = w
  · subst h
    rw [if_pos rfl]
    cases v.getLsbD (u % 32)
    · show gateSeen (gateOff u s) u = _
      rw [gateOff_seen _ _ _ hu, if_pos rfl]
      rfl
    · cases hg : s.gate.getLsbD u
      · show gateSeen (gateOn u s) u = _
        rw [gateOn_seen _ _ _ hu, if_pos rfl]
        simp [gateMade, gateSeen, hg, -BitVec.getLsbD_eq_getElem]
      · simp [gateMade, gateSeen, hg, -BitVec.getLsbD_eq_getElem]
  · rw [if_neg h, apply_ite (gateSeen · u), apply_ite (gateSeen · u), gateOn_seen _ _ _ hu, gateOff_seen _ _ _ hu, if_neg h, if_neg h,
      ite_self, ite_self]

/-- A GATE word, unit by unit (R39, R407). -/
theorem gateWord_seen (w : Nat) (v : Word) (s : State) {u : Nat} (hu : u < 128) :
    gateSeen (forWord w (gateStep v) s) u
      = if u / 32 = w ∧ vecUsed u = true then gateMade (v.getLsbD (u % 32)) (s.sleepReq.getLsbD u) (vecBusy s u) (gateSeen s u)
        else gateSeen s u := by
  refine forWord_at (obs := gateSeen) (keep := Unchanged [.gate, .pend] s)
    (F := fun u => gateMade (v.getLsbD (u % 32)) (s.sleepReq.getLsbD u) (vecBusy s u))
    (fun x t ht => ht.trans (gateStep_unchanged v x t) (by decide) (by decide)) (fun x y t ht hy => ?_)
    (fun p _ => by cases p <;> rfl) w hu
  have hbusy : vecBusy t y = vecBusy s y :=
    vecBusy_congr (ht .spare (by decide)) (ht .reports (by decide)) (ht .crds (by decide)) (ht .ply (by decide)) y
  have hasks : t.sleepReq = s.sleepReq := ht .sleepReq (by decide)
  rw [gateStep_seen v x y t hy, hbusy, hasks]

theorem gateWord_gate (w : Nat) (v : Word) (s : State) {u : Nat} (hu : u < 128) :
    (forWord w (gateStep v) s).gate.getLsbD u = if u / 32 = w ∧ vecUsed u = true then v.getLsbD (u % 32) else s.gate.getLsbD u := by
  have h := congrArg Prod.fst (gateWord_seen w v s hu)
  rwa [apply_ite Prod.fst] at h

theorem gateWord_pend (w : Nat) (v : Word) (s : State) {u : Nat} (hu : u < 128) :
    (forWord w (gateStep v) s).pend.getLsbD u = if u / 32 = w ∧ vecUsed u = true then
        (if v.getLsbD (u % 32) then s.pend.getLsbD u && (s.gate.getLsbD u || s.sleepReq.getLsbD u)
          else s.pend.getLsbD u || (s.gate.getLsbD u && vecBusy s u))
      else s.pend.getLsbD u := by
  have h := congrArg Prod.snd (gateWord_seen w v s hu)
  rwa [apply_ite Prod.snd] at h

theorem gateWord_unchanged (w : Nat) (v : Word) (s : State) : Unchanged [.gate, .pend] s (forWord w (gateStep v) s) :=
  unchanged_of_mask (by unfold gateStep; simp [pieces])

/-! ## Sleep -/

/-- One unit of a SLEEP word. -/
def sleepStep (v : Word) (u : Nat) (s : State) : State :=
  if v.getLsbD (u % 32) then sleepOn u s else if s.sleepReq.getLsbD u then sleepOff u s else s

theorem stopUnit_sleepReq (v : Nat) (s : State) : (stopUnit v s).sleepReq = s.sleepReq := by
  unfold stopUnit
  split <;> rfl

theorem sleepOff_sleepReq (v : Nat) (s : State) : (sleepOff v s).sleepReq = setBit s.sleepReq v false := by
  unfold sleepOff
  dsimp only
  split
  · split <;> rfl
  · rfl

theorem sleepOn_req (v u : Nat) (s : State) (hu : u < 128) :
    (sleepOn v s).sleepReq.getLsbD u = if u = v then true else s.sleepReq.getLsbD u := by
  unfold sleepOn
  split
  · next hs =>
    split
    · next h => rw [h, hs]
    · rfl
  · rw [stopUnit_sleepReq, getLsbD_setBit _ _ _ _ hu]

theorem sleepStep_req (v : Word) (w u : Nat) (s : State) (hu : u < 128) :
    (sleepStep v w s).sleepReq.getLsbD u = if u = w then v.getLsbD (u % 32) else s.sleepReq.getLsbD u := by
  unfold sleepStep
  by_cases h : u = w
  · subst h
    rw [if_pos rfl]
    cases v.getLsbD (u % 32)
    · cases hs : s.sleepReq.getLsbD u
      · simp [hs, -BitVec.getLsbD_eq_getElem]
      · simp [sleepOff_sleepReq, getLsbD_setBit, hu, -BitVec.getLsbD_eq_getElem]
    · simp [sleepOn_req, hu, -BitVec.getLsbD_eq_getElem]
  · rw [if_neg h]
    split
    · rw [sleepOn_req _ _ _ hu, if_neg h]
    · split
      · rw [sleepOff_sleepReq, getLsbD_setBit _ _ _ _ hu, if_neg h]
      · rfl

theorem sleepWord_req (w : Nat) (v : Word) (s : State) {u : Nat} (hu : u < 128) :
    (forWord w (sleepStep v) s).sleepReq.getLsbD u
      = if u / 32 = w ∧ vecUsed u = true then v.getLsbD (u % 32) else s.sleepReq.getLsbD u :=
  forWord_at (obs := fun t u => t.sleepReq.getLsbD u) (keep := fun _ => True) (F := fun u _ => v.getLsbD (u % 32))
    (fun _ _ _ => trivial) (fun x y t _ hy => sleepStep_req v x y t hy) trivial w hu

theorem sleepWord_unchanged (w : Nat) (v : Word) (s : State) : Unchanged [.sleepReq, .pend, .wakeAt] s (forWord w (sleepStep v) s) :=
  unchanged_of_mask (by unfold sleepStep; simp [pieces])

/-! ## Resets -/

/-- One unit of an RST word. -/
def rstStep (v : Word) (u : Nat) (s : State) : State := if v.getLsbD (u % 32) then resetUnit true u s else s

theorem applyReset_rstBusy (v : Nat) (s : State) : (applyReset v s).rstBusy = s.rstBusy :=
  unchanged_of_mask (l := [.free, .reg, .mem, .errs, .skn, .dst, .pend, .epochs, .reports, .seqs, .spn, .fly, .qps, .prts, .crds, .ply])
    (by simp [pieces]) .rstBusy (by decide)

theorem resetUnit_rstBusy (v u : Nat) (s : State) (hu : u < 128) :
    (resetUnit true v s).rstBusy.getLsbD u = if u = v then true else s.rstBusy.getLsbD u := by
  unfold resetUnit
  split
  · next hb =>
    split
    · next h => rw [h, hb]
    · rfl
  · have hset (t : State) (ht : t.rstBusy = s.rstBusy) :
        (setBit t.rstBusy v true).getLsbD u = if u = v then true else s.rstBusy.getLsbD u := ht ▸ getLsbD_setBit _ _ _ _ hu
    have hmsg : (faultParam (sourceOfVec v) kUNIT_RESET 0 s).rstBusy = s.rstBusy := sendMsg_unchanged _ none s .rstBusy (by decide)
    dsimp only
    rw [if_pos rfl]
    split
    · exact hset _ hmsg
    · rw [applyReset_rstBusy]
      exact hset _ hmsg

theorem rstStep_busy (v : Word) (w u : Nat) (s : State) (hu : u < 128) :
    (rstStep v w s).rstBusy.getLsbD u = if u = w then s.rstBusy.getLsbD u || v.getLsbD (u % 32) else s.rstBusy.getLsbD u := by
  unfold rstStep
  by_cases h : u = w
  · subst h
    cases v.getLsbD (u % 32) <;> simp [resetUnit_rstBusy, hu, -BitVec.getLsbD_eq_getElem]
  · rw [if_neg h]
    split
    · rw [resetUnit_rstBusy _ _ _ hu, if_neg h]
    · rfl

theorem rstWord_busy (w : Nat) (v : Word) (s : State) {u : Nat} (hu : u < 128) :
    (forWord w (rstStep v) s).rstBusy.getLsbD u
      = (s.rstBusy.getLsbD u || (decide (u / 32 = w) && vecUsed u && v.getLsbD (u % 32))) := by
  refine (forWord_at (obs := fun t u => t.rstBusy.getLsbD u) (keep := fun _ => True) (F := fun u b => b || v.getLsbD (u % 32))
    (fun _ _ _ => trivial) (fun x y t _ hy => rstStep_busy v x y t hy) trivial w hu).trans ?_
  by_cases h : u / 32 = w <;> cases vecUsed u <;> simp [h, -BitVec.getLsbD_eq_getElem]

theorem rstWord_unchanged (w : Nat) (v : Word) (s : State) :
    Unchanged [.free, .reg, .mem, .errs, .skn, .dst, .pend, .rstBusy, .epochs, .reports, .seqs, .spn, .fly, .qps, .prts, .crds, .ply] s
      (forWord w (rstStep v) s) :=
  unchanged_of_mask (by unfold rstStep; simp [pieces])

/-! ## The words as registers of CLK[0] -/

/-- A register of CLK[0] that is neither read-only nor a counter takes its write. -/
theorem writeReg_clk {o : Nat} (ho : o < 65536) (h : (regRow (rClk o)).any (fun r => !r.allRo && !r.isRc) = true) :
    ∃ r, ∀ org v e s, writeReg org (rClk o) v e s = writeClk (rClk o) r v s := by
  obtain ⟨hc, -, -⟩ := regOff_parts (code := 7) (inst := 0) (by omega) ho
  cases hr : regRow (rClk o) with
  | none => rw [hr] at h; cases h
  | some r =>
  rw [hr] at h
  have hro : (r.allRo || r.isRc) = false := by simpa using h
  refine ⟨r, fun org v e s => ?_⟩
  unfold writeReg
  rw [hr]
  dsimp only
  rw [hro]
  unfold rClk
  rw [hc]
  rfl

theorem unitWords_written : ∀ w : Fin 4, (regRow (rClk (0x40 + 4 * w))).any (fun r => !r.allRo && !r.isRc) = true
    ∧ (regRow (rClk (0x60 + 4 * w))).any (fun r => !r.allRo && !r.isRc) = true
    ∧ (regRow (rClk (0x80 + 4 * w))).any (fun r => !r.allRo && !r.isRc) = true := by decide

theorem clk_offset {o : Nat} (ho : o < 65536) : rClk o % 65536 = o := (regOff_parts (code := 7) (inst := 0) (by omega) ho).2.2

theorem writeReg_gate {w : Nat} (hw : w < 4) (org : Origin) (v : Word) (e : Bool) (s : State) :
    writeReg org (rClk (0x40 + 4 * w)) v e s = ofWr (passPorts s (.done (forWord w (gateStep v) s))) s := by
  obtain ⟨r, hr⟩ := writeReg_clk (o := 0x40 + 4 * w) (by omega) (unitWords_written ⟨w, hw⟩).1
  rw [hr]
  unfold writeClk
  rw [clk_offset (by omega)]
  dsimp only
  rw [if_neg (by omega), if_pos (by simp; omega), show (0x40 + 4 * w - 0x40) / 4 = w by omega]
  rfl

theorem writeReg_rst {w : Nat} (hw : w < 4) (org : Origin) (v : Word) (e : Bool) (s : State) :
    writeReg org (rClk (0x60 + 4 * w)) v e s = ofWr (writeRst w v s) s := by
  obtain ⟨r, hr⟩ := writeReg_clk (o := 0x60 + 4 * w) (by omega) (unitWords_written ⟨w, hw⟩).2.1
  rw [hr]
  unfold writeClk
  rw [clk_offset (by omega)]
  dsimp only
  rw [if_neg (by omega), if_neg (by simp; omega), if_pos (by simp; omega), show (0x60 + 4 * w - 0x60) / 4 = w by omega]

theorem writeReg_sleep {w : Nat} (hw : w < 4) (org : Origin) (v : Word) (e : Bool) (s : State) :
    writeReg org (rClk (0x80 + 4 * w)) v e s = ofWr (writeSleep w v s) s := by
  obtain ⟨r, hr⟩ := writeReg_clk (o := 0x80 + 4 * w) (by omega) (unitWords_written ⟨w, hw⟩).2.2
  rw [hr]
  unfold writeClk
  rw [clk_offset (by omega)]
  dsimp only
  rw [if_neg (by omega), if_neg (by simp; omega), if_neg (by simp; omega), if_pos (by simp; omega),
    show (0x80 + 4 * w - 0x80) / 4 = w by omega]

/-- Does a word have a 1 for a listed unit that lacks what the word asks for? -/
def asksInVain (has : Nat → Bool) (w : Nat) (v : Word) : Bool :=
  (List.range 32).any (fun b => vecUsed (32 * w + b) && v.getLsbD b && !has (32 * w + b))

theorem asksInVain_of {has : Nat → Bool} {w : Nat} {v : Word}
    (h : ∃ b, b < 32 ∧ vecUsed (32 * w + b) = true ∧ v.getLsbD b = true ∧ has (32 * w + b) = false) : asksInVain has w v = true := by
  obtain ⟨b, hb, hu, hv, hh⟩ := h
  exact List.any_eq_true.mpr ⟨b, List.mem_range.mpr hb, by rw [hu, hv, hh]; rfl⟩

theorem not_asksInVain_of {has : Nat → Bool} {w : Nat} {v : Word}
    (h : ∀ b, b < 32 → vecUsed (32 * w + b) = true → v.getLsbD b = true → has (32 * w + b) = true) : asksInVain has w v = false := by
  refine List.any_eq_false.mpr fun b hb hbad => ?_
  simp only [Bool.and_eq_true, Bool.not_eq_true'] at hbad
  obtain ⟨⟨hu, hv⟩, hh⟩ := hbad
  rw [h b (List.mem_range.mp hb) hu hv] at hh
  cases hh

theorem writeSleep_eq (w : Nat) (v : Word) (s : State) :
    writeSleep w v s = if asksInVain vecHasSleep w v then .refuse kACCESS_REFUSED else .done (forWord w (sleepStep v) s) := rfl

theorem writeRst_eq (w : Nat) (v : Word) (s : State) :
    writeRst w v s = if asksInVain vecHasReset w v then .refuse kACCESS_REFUSED else .done (forWord w (rstStep v) s) := rfl

/-- Ports whose gate opened send what waits; where no port came up, nothing happens. -/
theorem passPorts_done (s0 t : State) : ∃ t', passPorts s0 (.done t) = .done t'
    ∧ Unchanged [.reg, .mem, .errs, .skn, .dst, .reports, .seqs, .trns, .qps, .prts, .ply, .out] t t'
    ∧ ((∀ n, n < 20 → portUp t n = portUp s0 n) → t' = t) := by
  refine ⟨_, rfl, ?_, fun h => if_pos (List.all_eq_true.mpr fun n hn => by simp [h n (List.mem_range.mp hn)])⟩
  refine unchanged_of_mask ?_
  split
  · rfl
  · exact (plyResume_mask _ rfl rfl rfl rfl rfl rfl rfl rfl rfl rfl rfl).trans (mask_foldl (fun t n => by split <;> simp [pieces]) _ _)

/-- A word of gates below those of the ports leaves every port as it is. -/
theorem gateWord_portUp {w : Nat} (hw : w ≠ 3) (v : Word) (s : State) {n : Nat} (hn : n < 20) :
    portUp (forWord w (gateStep v) s) n = portUp s n := by
  have hstep := gateWord_unchanged w v s
  have hready : (forWord w (gateStep v) s).ready = s.ready := hstep .ready (by decide)
  have hprts : (forWord w (gateStep v) s).prts = s.prts := hstep .prts (by decide)
  have hrst : (forWord w (gateStep v) s).rstBusy = s.rstBusy := hstep .rstBusy (by decide)
  have hgate : (forWord w (gateStep v) s).gate.getLsbD (vecPrt n) = s.gate.getLsbD (vecPrt n) := by
    rw [gateWord_gate w v s (by unfold vecPrt; omega), if_neg (by unfold vecPrt; omega)]
  unfold portUp State.prt
  rw [hready, hprts, hrst, hgate]

theorem refused_regWrite {o : Origin} {a : Nat} {v : Word} {e : Bool} {s : State} (hr : Reaches o a s)
    (hw : writeReg o a v e s = wrRefuse kACCESS_REFUSED s) : Refused o a s (regWrite o a v e s) := by
  rw [regWrite_refused hr hw]
  exact refused_raiseAccess ..

theorem exec_gateWrite (o : Origin) (w : BitVec 2) (v : Word) (s : State) :
    exec (.gateWrite o w v) s = .next (regWrite o (rClk (0x40 + 4 * w.toNat)) v false s) := rfl

theorem exec_sleepWrite (o : Origin) (w : BitVec 2) (v : Word) (s : State) :
    exec (.sleepWrite o w v) s = .next (regWrite o (rClk (0x80 + 4 * w.toNat)) v false s) := rfl

theorem exec_unitReset (o : Origin) (w : BitVec 2) (v : Word) (s : State) :
    exec (.unitReset o w v) s = .next (regWrite o (rClk (0x60 + 4 * w.toNat)) v false s) := rfl

/-- Settles O41: each word is a pass over its units, and what it does to a unit depends on that unit alone. -/
theorem gatesSleepsAndResets : Obligations.GatesSleepsAndResets := by
  intro o w v s
  rw [exec_gateWrite, exec_sleepWrite, exec_unitReset]
  refine ⟨fun hr => ⟨_, rfl, ?_⟩, fun hr => ⟨fun hbad => ⟨_, rfl, ?_⟩, fun hok => ⟨_, rfl, ?_⟩⟩,
    fun hr => ⟨fun hbad => ⟨_, rfl, ?_⟩, fun hok => ⟨_, rfl, ?_⟩⟩⟩
  · obtain ⟨t, hpass, hframe, hsame⟩ := passPorts_done s (forWord w.toNat (gateStep v) s)
    have hw : writeReg o (rClk (0x40 + 4 * w.toNat)) v false s = wrDone t := by
      rw [writeReg_gate w.isLt, hpass]
      rfl
    have hstep := gateWord_unchanged w.toNat v s
    rw [regWrite_stored hr hw]
    refine ⟨fun h3 => ?_, ?_, fun u hu => ?_⟩
    · have ht : t = forWord w.toNat (gateStep v) s := hsame fun n hn => gateWord_portUp h3 v s hn
      subst ht
      exact ⟨tagNew_sameDistaff (hstep .dst (by decide)), hstep.trans (tagNew_unchanged _ s _) (by decide) (by decide)⟩
    · exact (hstep.trans hframe (n := [.gate, .pend, .reg, .mem, .errs, .skn, .dst, .reports, .seqs, .trns, .qps, .prts, .ply, .out])
        (by decide) (by decide)).trans (tagNew_unchanged _ s _) (by decide) (by decide)
    · have hgate : (tagNew (originFlags o) s t).gate = (forWord w.toNat (gateStep v) s).gate :=
        (hframe .gate (by decide)).trans (tagNew_unchanged _ s t .gate (by decide))
      have hpend : (tagNew (originFlags o) s t).pend = (forWord w.toNat (gateStep v) s).pend :=
        (hframe .pend (by decide)).trans (tagNew_unchanged _ s t .pend (by decide))
      rw [hgate, hpend]
      exact ⟨gateWord_gate _ v s hu, gateWord_pend _ v s hu⟩
  · have hw : writeReg o (rClk (0x80 + 4 * w.toNat)) v false s = wrRefuse kACCESS_REFUSED s := by
      rw [writeReg_sleep w.isLt, writeSleep_eq, if_pos (asksInVain_of hbad)]
      rfl
    exact refused_regWrite hr hw
  · have hw : writeReg o (rClk (0x80 + 4 * w.toNat)) v false s = wrDone (forWord w.toNat (sleepStep v) s) := by
      rw [writeReg_sleep w.isLt, writeSleep_eq, not_asksInVain_of hok]
      rfl
    have hstep := sleepWord_unchanged w.toNat v s
    have htag := tagNew_unchanged (originFlags o) s (forWord w.toNat (sleepStep v) s)
    have hreq : (tagNew (originFlags o) s (forWord w.toNat (sleepStep v) s)).sleepReq = (forWord w.toNat (sleepStep v) s).sleepReq :=
      htag .sleepReq (by decide)
    rw [regWrite_stored hr hw]
    refine ⟨tagNew_sameDistaff (hstep .dst (by decide)), hstep.trans htag (by decide) (by decide), fun u hu => ?_⟩
    rw [hreq, sleepWord_req _ _ _ hu]
  · have hw : writeReg o (rClk (0x60 + 4 * w.toNat)) v false s = wrRefuse kACCESS_REFUSED s := by
      rw [writeReg_rst w.isLt, writeRst_eq, if_pos (asksInVain_of hbad)]
      rfl
    exact refused_regWrite hr hw
  · have hw : writeReg o (rClk (0x60 + 4 * w.toNat)) v false s = wrDone (forWord w.toNat (rstStep v) s) := by
      rw [writeReg_rst w.isLt, writeRst_eq, not_asksInVain_of hok]
      rfl
    have hstep := (rstWord_unchanged w.toNat v s).trans (tagNew_unchanged (originFlags o) s _)
      (n := [.free, .reg, .mem, .errs, .skn, .dst, .pend, .rstBusy, .epochs, .reports, .seqs, .spn, .fly, .qps, .prts, .crds, .ply])
      (by decide) (by decide)
    have hbusy : (tagNew (originFlags o) s (forWord w.toNat (rstStep v) s)).rstBusy = (forWord w.toNat (rstStep v) s).rstBusy :=
      tagNew_unchanged _ s _ .rstBusy (by decide)
    rw [regWrite_stored hr hw]
    refine ⟨hstep .gate (by decide), hstep, fun u hu => ?_⟩
    rw [hbusy, rstWord_busy _ _ _ hu]

end Sys2Proof.Machine
end

section
/-! SUPPORT. The scheduler's own commands (R58, R67, R69, R73, R74, R80): NOP, BARRIER_SET, RELEASE and PHASE_CLOSE. -/

namespace Sys2Proof.Machine

/-! ## Signals -/

theorem signals_iff (st : Byte) (kind : Nat) :
    signals st kind = true ↔ st = stOK ∨ st = stCHECKSUM ∨ st = stOVERFLOW ∨ st = stPOISONED ∨ (st = stERROR ∧ kind = kindFAULT)
      ∨ st = stEMPTY := by
  simp [signals, isExecution, or_assoc]

/-- Settles O10. -/
theorem completionSignals : Obligations.CompletionSignals := by
  intro jrn d s k
  rw [completeBase_barrier, ← signals_iff]
  refine ⟨fun hsig hen => ?_, fun hnot => if_neg fun ⟨hen, hsig, _⟩ => ?_⟩
  · simp [hsig, hen]
  · rcases hnot with h | h
    · exact h hsig
    · exact absurd hen (by simp [h])

/-! ## A dispatched scheduler command leaves the scheduler -/

theorem runSched_front {b : Bobbin} {op : Nat} {i : Issued} {s : State} (hi : schedFront s b.toNat op = some i) (hctl : ctlRuns s = true)
    (f : Issued → State → State) : runSched b op f s = .next (f i (dropSched i.id s)) := by
  unfold runSched
  simp only [hi, hctl, if_true]

theorem dropSched_unchanged (id : Nat) (s : State) : Unchanged [.sched] s (dropSched id s) := unchanged_of_mask (by simp [pieces])

/-- What waits at the scheduler is no part of a completion's description. -/
theorem Completed.of_dropSched {d : Done} {id : Nat} {s t : State} (h : Completed d (dropSched id s) t) : Completed d s t :=
  have hdrop := dropSched_unchanged id s
  h.of_start (fun p hp => hdrop p (by revert hp; cases p <;> decide))
    (fun hj => ⟨hj, recordWrites_congr rfl rfl rfl rfl, .of_unchanged hdrop (by decide)⟩)

theorem setBarrier_unchanged (k : Nat) (v : Word) (s : State) : Unchanged [.barriers, .barrierAt] s (s.setBarrier k v) :=
  unchanged_of_mask (by simp [pieces])

/-- The pieces that the commands of SchedulerCommandsComplete may change. -/
abbrev schedPieces : List Piece :=
  [.sched, .ctxs, .bobs, .barriers, .barrierAt, .holds, .trns, .mem, .errs, .skn, .reg, .dst, .seqs]

/-- A command that has left the scheduler completes, on a state that differs in nothing but counters from the one it left. -/
theorem sched_completes {i : Issued} {s s1 : State} (hs : Unchanged [.barriers, .barrierAt] s s1)
    (hcl : (s.ctx (bobCtx s i.bobbin.toNat)).closer = none) :
    Completed { is := i, status := stOK } s1 (complete { is := i, status := stOK } (dropSched i.id s1))
      ∧ (complete { is := i, status := stOK } (dropSched i.id s1)).sched = s.sched.filter (fun x => x.id ≠ i.id)
      ∧ Unchanged schedPieces s (complete { is := i, status := stOK } (dropSched i.id s1)) := by
  have hdrop := hs.trans (dropSched_unchanged i.id s1) (n := [.barriers, .barrierAt, .sched]) (by decide) (by decide)
  have hcl' : ((dropSched i.id s1).ctx (bobCtx (dropSched i.id s1) i.bobbin.toNat)).closer = none := by
    rw [bobCtx_of_bobs (hdrop .bobs (by decide)), ctx_of_ctxs (hdrop .ctxs (by decide)), hcl]
  have hcomp := complete_unchanged (d := { is := i, status := stOK }) hcl'
  have hsched : s1.sched = s.sched := hs .sched (by decide)
  have hleft : (complete { is := i, status := stOK } (dropSched i.id s1)).sched = s1.sched.filter (fun x => x.id ≠ i.id) :=
    hcomp .sched (by decide)
  exact ⟨(completed_complete hcl').of_dropSched, by rw [hleft, hsched], hdrop.trans hcomp (by decide) (by decide)⟩

theorem execNop_runs {b : Bobbin} {i : Issued} {s : State} (hi : schedFront s b.toNat opNOP = some i) (hctl : ctlRuns s = true) :
    exec (.nop b) s = .next (complete { is := i, status := stOK } (dropSched i.id s)) := by
  show execNop b s = _
  unfold execNop
  exact runSched_front hi hctl _

theorem execBarrierSet_runs {b : Bobbin} {i : Issued} {s : State} (hi : schedFront s b.toNat opBARRIER_SET = some i)
    (hctl : ctlRuns s = true) :
    exec (.barrierSet b) s = .next (complete { is := i, status := stOK }
      (dropSched i.id (s.setBarrier (imm i.cmd 0 16) (BitVec.ofNat 32 (imm i.cmd 32 32))))) := by
  show execBarrierSet b s = _
  unfold execBarrierSet
  exact runSched_front hi hctl _

theorem execPhaseClose_runs {b : Bobbin} {i : Issued} {s : State} (hi : schedFront s b.toNat opPHASE_CLOSE = some i)
    (hctl : ctlRuns s = true) : exec (.phaseClose b) s = .next (phaseCloseRun i (dropSched i.id s)) := by
  show execPhaseClose b s = _
  unfold execPhaseClose
  exact runSched_front hi hctl _

/-! ## RELEASE -/

theorem releaseTag_unchanged (g : Nat) (s : State) : Unchanged [.holds, .reg] s (releaseTag g s) :=
  unchanged_of_mask (by unfold releaseTag; simp [pieces])

theorem releaseTag_hold (g : Nat) (s : State) : (releaseTag g s).hold g = false := by
  unfold releaseTag
  split
  · rw [State.hold_setHold, if_pos rfl]
  · next h => exact (show ((s.count (rBob 0x68) 1).hold g) = s.hold g from rfl).trans (Bool.eq_false_of_not_eq_true h)

/-- The state in which a checked RELEASE completes: it has left the queue and its tag is clear. -/
def released (b : Nat) (e : QEntry) (s : State) : State :=
  releaseTag (cHoldTag e.is.cmd) (s.setBob b { s.bob b with queue := (s.bob b).queue.filter (fun q => q.is.id ≠ e.is.id) })

theorem released_unchanged (b : Nat) (e : QEntry) (s : State) : Unchanged [.bobs, .holds, .reg] s (released b e s) :=
  Unchanged.trans (l := [.bobs]) (unchanged_of_mask (by simp [pieces])) (releaseTag_unchanged _ _) (by decide) (by decide)

theorem released_bob (b : Nat) (e : QEntry) (s : State) :
    (released b e s).bob b = { s.bob b with queue := (s.bob b).queue.filter (fun q => q.is.id ≠ e.is.id) } := by
  unfold released
  rw [bob_of_bobs (releaseTag_unchanged _ _ .bobs (by decide)), State.bob_setBob, if_pos rfl]

theorem execRelease_runs {b : Bobbin} {e : QEntry} {s : State} (hctl : ctlRuns s = true) (he : firstRelease (s.bob b.toNat) = some e)
    (hfree : slotFree (s.bob b.toNat) = true) (hhead : headFirst s (s.bob b.toNat) = false) :
    exec (.release b) s = .next (complete { is := e.is, status := stOK, dispatched := false, holds := false } (released b.toNat e s)) := by
  show execRelease b s = _
  unfold execRelease
  simp only [he]
  rw [if_pos (by simp [hctl, hfree, hhead])]
  rfl

/-- Settles O9. -/
theorem schedulerCommandsComplete : Obligations.SchedulerCommandsComplete := by
  intro b s hctl
  refine ⟨fun i hi hcl => ?_, fun i hi hcl => ?_, fun e he hfree hhead hb hcl => ?_⟩
  · obtain ⟨hc, hsched, hun⟩ := sched_completes (s1 := s) (fun p _ => by cases p <;> rfl) hcl
    exact ⟨_, execNop_runs hi hctl, hc, hsched, hun⟩
  · obtain ⟨hc, hsched, hun⟩ :=
      sched_completes (setBarrier_unchanged (imm i.cmd 0 16) (BitVec.ofNat 32 (imm i.cmd 32 32)) s) hcl
    exact ⟨_, execBarrierSet_runs hi hctl, hc, hsched, hun⟩
  · subst hb
    have hrel := released_unchanged e.is.bobbin.toNat e s
    have hbob := released_bob e.is.bobbin.toNat e s
    have hcl' : ((released e.is.bobbin.toNat e s).ctx (bobCtx (released e.is.bobbin.toNat e s) e.is.bobbin.toNat)).closer = none := by
      rw [ctx_of_ctxs (hrel .ctxs (by decide)), bobCtx, hbob]
      exact hcl
    have hc := completed_complete (d := { is := e.is, status := stOK, dispatched := false, holds := false }) hcl'
    refine ⟨_, execRelease_runs hctl he hfree hhead, ?_, ?_, hc, hrel.trans (complete_unchanged hcl') (by decide) (by decide)⟩
    · rw [hc.hold, if_neg (by simp)]
      exact releaseTag_hold _ _
    · rw [hc.queue, hbob]

/-! ## Charged messages -/

/-- A message charged to a command enters its queue as any other. -/
theorem sent_sendMsg_charged (m : Msg) (id : Nat) (s : State) : Sent m (some id) s (sendMsg m (some id) s) := by
  unfold Sent sendMsg
  dsimp only
  split
  · next h => exact ⟨by simp, by simp; omega, fun k hk => by simp [Ne.symm hk]⟩
  · next h => exact ⟨rfl, by simp; omega, fun k hk => by simp [Ne.symm hk]⟩

/-- A message is sent, whatever else differs, where the distaff is the same. -/
theorem Sent.of_dst {m : Msg} {c : Option Nat} {s s' t t' : State} (h : Sent m c s t) (hs : s'.dst = s.dst) (ht : t'.dst = t.dst) :
    Sent m c s' t' := by
  unfold Sent at h ⊢
  rwa [hs, ht]

/-! ## PHASE_CLOSE -/

theorem closeIfDone_below {c n : Nat} {i : Issued} {s : State} (h : (s.ctx c).closer = some (i, n)) (hn : (s.ctx c).done ≠ n) :
    closeIfDone c s = s := by
  unfold closeIfDone
  rw [h]
  exact if_neg hn

theorem closeIfDone_done {c n : Nat} {i : Issued} {s : State} (h : (s.ctx c).closer = some (i, n)) (hn : (s.ctx c).done = n) :
    closeIfDone c s
      = advancePhase c (completeBase (decide ((s.ctx c).phase ≠ .upd)) { is := i, status := stOK } s) := by
  unfold closeIfDone
  rw [h]
  exact if_pos hn

/-- A context whose phase closes. -/
def Ctx.closed (x : Ctx) : Ctx :=
  { phase := nextPhase x.phase, done := 0, closer := none, step := if x.phase = .upd then x.step + 1 else x.step }

theorem advancePhase_ctx (c : Nat) (s : State) (w : Nat) :
    (advancePhase c s).ctx w = if w = c then (s.ctx c).closed else s.ctx w := by
  have hspare (t : State) : (swapSpare t).ctx w = t.ctx w :=
    ctx_of_ctxs (unchanged_of_mask (l := [.free, .reg, .skn, .dst, .gate, .pend, .spare, .spareReq, .epochs, .reports, .seqs, .rwp, .wear,
      .spn, .fly, .qps, .prts, .crds, .nvm, .ndy]) (by simp [pieces]) .ctxs (by decide)) w
  have hset (t : State) (ht : t.ctxs = s.ctxs) (x : Ctx) : (t.setCtx c x).ctx w = if w = c then x else s.ctx w := by
    rw [State.ctx_setCtx, ctx_of_ctxs ht]
    by_cases h : w = c
    · rw [if_pos h, if_pos h.symm]
    · rw [if_neg h, if_neg (Ne.symm h)]
  have hopen (t : State) : (jrnOpen c t).ctx w = t.ctx w :=
    ctx_of_ctxs (unchanged_of_mask (l := [.reg, .mem, .errs, .skn, .dst, .seqs, .trns]) (by simp [pieces]) .ctxs (by decide)) w
  unfold advancePhase Ctx.closed
  dsimp only
  rw [hspare]
  cases hp : (s.ctx c).phase with
  | fwd => exact hset s rfl _
  | bwd => exact hset _ (unchanged_of_mask (l := [.trns]) (by simp [pieces]) .ctxs (by decide)) _
  | upd =>
    refine (hopen _).trans (hset _ ?_ _)
    exact unchanged_of_mask (l := [.reg, .mem, .errs, .skn, .dst, .seqs, .trns, .fly]) (by simp [pieces]) .ctxs (by decide)

theorem advancePhase_unchanged (c : Nat) (s : State) :
    Unchanged [.free, .reg, .mem, .errs, .skn, .dst, .gate, .pend, .spare, .spareReq, .epochs, .reports, .seqs, .rwp, .wear, .spn, .fly,
      .ctxs, .trns, .qps, .prts, .crds, .nvm, .ndy] s (advancePhase c s) := unchanged_of_mask (by simp [pieces])

/-! A completion that closes the phase of context `c`. -/

section
variable (c : Nat) (jrn : Bool) (d : Done) (s : State)

theorem closes_ctx (w : Nat) :
    (advancePhase c (completeBase jrn d s)).ctx w = if w = c then (s.ctx c).closed else s.ctx w := by
  have h := ctx_of_ctxs (completeBase_unchanged jrn d s .ctxs (by decide))
  rw [advancePhase_ctx, h, h]

theorem closes_tail : ((advancePhase c (completeBase jrn d s)).bob d.is.bobbin.toNat).tail = (s.bob d.is.bobbin.toNat).tail + 1 := by
  rw [bob_of_bobs (advancePhase_unchanged c _ .bobs (by decide)), completeBase_bob, if_pos rfl, Bob.drained_tail]
  rfl

theorem closes_unchanged :
    Unchanged [.free, .reg, .mem, .errs, .skn, .dst, .gate, .pend, .spare, .spareReq, .bobs, .barriers, .barrierAt, .holds, .epochs,
      .reports, .seqs, .rwp, .wear, .spn, .fly, .ctxs, .trns, .qps, .prts, .crds, .nvm, .ndy] s
      (advancePhase c (completeBase jrn d s)) :=
  (completeBase_unchanged jrn d s).trans (advancePhase_unchanged c _) (by decide) (by decide)

end

/-- The state in which a PHASE_CLOSE that has left the scheduler waits in its context. -/
def closerSet (i : Issued) (s : State) : State :=
  (dropSched i.id s).setCtx (cCtx i.cmd) { s.ctx (cCtx i.cmd) with closer := some (i, imm i.cmd 0 32) }

theorem closerSet_unchanged (i : Issued) (s : State) : Unchanged [.sched, .ctxs] s (closerSet i s) :=
  unchanged_of_mask (by unfold closerSet; simp [pieces])

theorem closerSet_ctx (i : Issued) (s : State) (w : Nat) :
    (closerSet i s).ctx w
      = if w = cCtx i.cmd then { s.ctx (cCtx i.cmd) with closer := some (i, imm i.cmd 0 32) } else s.ctx w := by
  unfold closerSet
  rw [State.ctx_setCtx]
  by_cases h : w = cCtx i.cmd
  · rw [if_pos h, if_pos h.symm]
  · rw [if_neg h, if_neg (Ne.symm h)]; rfl

/-- A PHASE_CLOSE of the current position, with DONE not past its COUNT and none waiting, waits in its context. -/
theorem phaseCloseRun_waits {i : Issued} {s : State} (hcl : (s.ctx (cCtx i.cmd)).closer = none)
    (hpos : posDiff s (cCtx i.cmd) i.cmd = 0) (hn : (s.ctx (cCtx i.cmd)).done ≤ imm i.cmd 0 32) :
    phaseCloseRun i (dropSched i.id s) = closeIfDone (cCtx i.cmd) (closerSet i s) :=
  if_neg (by
    show ¬ ((s.ctx (cCtx i.cmd)).closer.isSome || decide (imm i.cmd 0 32 < (s.ctx (cCtx i.cmd)).done)
      || decide (posDiff s (cCtx i.cmd) i.cmd ≠ 0)) = true
    simp [hcl, hpos]
    exact hn)

/-- The message of a PHASE_CLOSE that fails (R74). -/
abbrev phaseCountMsg (i : Issued) : Msg :=
  { source := srcBob, kind := kPHASE_COUNT, flags := flagCharged ||| flagParam, addr := BitVec.ofNat 48 (cCtx i.cmd) }

/-- The report of a PHASE_CLOSE that fails. -/
abbrev phaseCountReport (i : Issued) : Report :=
  { is := i, unit := unitSched, status := stERROR, errKind := kindCHECK, charged := true }

theorem phaseCloseRun_fails {i : Issued} {s : State}
    (h : (s.ctx (cCtx i.cmd)).closer.isSome = true ∨ imm i.cmd 0 32 < (s.ctx (cCtx i.cmd)).done ∨ posDiff s (cCtx i.cmd) i.cmd ≠ 0) :
    phaseCloseRun i (dropSched i.id s) = (sendMsg (phaseCountMsg i) (some i.id) (dropSched i.id s)).addReport (phaseCountReport i) :=
  if_pos (by
    show ((s.ctx (cCtx i.cmd)).closer.isSome || decide (imm i.cmd 0 32 < (s.ctx (cCtx i.cmd)).done)
      || decide (posDiff s (cCtx i.cmd) i.cmd ≠ 0)) = true
    simpa [or_assoc] using h)

/-- Settles O11. -/
theorem phaseCloseTakesEffect : Obligations.PhaseCloseTakesEffect := by
  intro b i s hctl hi
  have hexec := execPhaseClose_runs hi hctl
  have hset := closerSet_unchanged i s
  have hctx := closerSet_ctx i s
  have hself := (hctx (cCtx i.cmd)).trans (if_pos rfl)
  have hcloser : ((closerSet i s).ctx (cCtx i.cmd)).closer = some (i, imm i.cmd 0 32) := by rw [hself]
  have hdone : ((closerSet i s).ctx (cCtx i.cmd)).done = (s.ctx (cCtx i.cmd)).done := by rw [hself]
  refine ⟨fun hcl hpos hn => ?_, fun hcl hpos hn => ?_, fun hbad => ?_⟩
  · rw [phaseCloseRun_waits hcl hpos hn.le, closeIfDone_done hcloser (hdone.trans hn)] at hexec
    generalize decide (((closerSet i s).ctx (cCtx i.cmd)).phase ≠ .upd) = jrn at hexec
    have hclose := closes_unchanged (cCtx i.cmd) jrn { is := i, status := stOK } (closerSet i s)
    have hcx := closes_ctx (cCtx i.cmd) jrn { is := i, status := stOK } (closerSet i s)
    have htail := closes_tail (cCtx i.cmd) jrn { is := i, status := stOK } (closerSet i s)
    refine ⟨_, hexec, hclose .sched (by decide), ?_, fun c hc => ?_, ?_, hset.trans hclose (by decide) (by decide)⟩
    · rw [hcx, if_pos rfl, hself]
      rfl
    · rw [hcx, if_neg hc, hctx, if_neg hc]
    · rw [htail, bob_of_bobs (hset .bobs (by decide))]
  · rw [phaseCloseRun_waits hcl hpos hn.le, closeIfDone_below hcloser (by rw [hdone]; exact hn.ne)] at hexec
    exact ⟨_, hexec, rfl, hself, fun c hc => (hctx c).trans (if_neg hc), hset⟩
  · rw [phaseCloseRun_fails hbad] at hexec
    have hsend := sendMsg_unchanged (phaseCountMsg i) (some i.id) (dropSched i.id s)
    refine ⟨_, hexec, hsend .sched (by decide), ?_, Sent.of_dst (sent_sendMsg_charged (phaseCountMsg i) i.id (dropSched i.id s)) rfl rfl, ?_⟩
    · exact congrArg (· ++ [phaseCountReport i]) (hsend .reports (by decide))
    · exact ((dropSched_unchanged i.id s).trans hsend (n := [.sched, .dst, .seqs]) (by decide) (by decide)).trans
        (m := [.reports]) (unchanged_of_mask (by simp [pieces])) (by decide) (by decide)

end Sys2Proof.Machine
end

section
/-! SUPPORT. Heads of bobbins: what a dispatch needs (R62, R68, R80), and the events that mark a head (R65, R154, R285). -/

namespace Sys2Proof.Machine

/-! ## Only a ready head becomes outstanding -/

theorem completeBase_outstanding (jrn : Bool) (d : Done) (s : State) (b : Nat) :
    ((completeBase jrn d s).bob b).outstanding ≤ (s.bob b).outstanding := by
  rw [completeBase_bob]
  split
  · next h =>
    subst h
    rw [Bob.drained_outstanding]
    show (if d.dispatched = true then _ else _) ≤ _
    split <;> omega
  · exact le_rfl

theorem closeIfDone_outstanding (c : Nat) (s : State) (b : Nat) : ((closeIfDone c s).bob b).outstanding ≤ (s.bob b).outstanding := by
  unfold closeIfDone
  split
  · split
    · rw [bob_of_bobs (advancePhase_unchanged c _ .bobs (by decide))]
      exact completeBase_outstanding ..
    · exact le_rfl
  · exact le_rfl

theorem complete_outstanding (d : Done) (s : State) (b : Nat) : ((complete d s).bob b).outstanding ≤ (s.bob b).outstanding :=
  calc ((complete d s).bob b).outstanding
    _ ≤ ((completeBase true d (countDone d s)).bob b).outstanding := closeIfDone_outstanding ..
    _ ≤ ((countDone d s).bob b).outstanding := completeBase_outstanding ..
    _ = (s.bob b).outstanding := by rw [bob_of_bobs (countDone_unchanged d s .bobs (by decide))]

theorem popHead_outstanding (b : Nat) (s : State) (w : Nat) : ((popHead b s).bob w).outstanding = (s.bob w).outstanding := by
  unfold popHead
  rw [State.bob_setBob]
  split
  · next h => rw [h]
  · rfl

theorem recordHead_outstanding (b : Nat) (e : QEntry) (s : State) (w : Nat) :
    ((recordHead b e s).bob w).outstanding ≤ (s.bob w).outstanding := by
  rw [← popHead_outstanding b s w]
  unfold recordHead
  dsimp only
  split
  · exact completeBase_outstanding ..
  · exact complete_outstanding ..

theorem setHead_outstanding (b : Nat) (f : QEntry → QEntry) (s : State) (w : Nat) :
    ((setHead b f s).bob w).outstanding = (s.bob w).outstanding := by
  unfold setHead
  dsimp only
  split
  · rw [State.bob_setBob]
    split
    · next h => rw [← h]
    · rfl
  · rfl

theorem lateHead_outstanding (b : Nat) (e : QEntry) (s : State) (w : Nat) :
    ((lateHead b e s).bob w).outstanding = (s.bob w).outstanding := by
  have hfault : Unchanged [.reg, .dst, .seqs] s
      ((faultCharged srcBob { kind := kPHASE_LATE, addr := e.is.addr.toNat } e.is.id s).count (rBob 0x6C) 1) :=
    unchanged_of_mask (by simp [pieces])
  unfold lateHead
  rw [setHead_outstanding, bob_of_bobs (hfault .bobs (by decide))]

theorem holdCtx_unchanged (c : Nat) {reason : Nat} (hr : reason ≠ 3) (s : State) : Unchanged [.trns] s (holdCtx c reason s) :=
  unchanged_of_mask (holdCtx_mask_trns hr s (by decide))

/-- Where DISPATCH makes one command more outstanding, the head was ready. -/
theorem dispatchBob_ready {b : Nat} {s : State} (h : (s.bob b).outstanding < ((dispatchBob b s).bob b).outstanding) :
    ∃ e r, (s.bob b).queue = e :: r ∧ readyHead s (s.bob b) e = true := by
  unfold dispatchBob at h
  dsimp only at h
  split at h
  · exact absurd h (lt_irrefl _)
  · next e r hq =>
    refine ⟨e, r, hq, ?_⟩
    split at h
    · split at h
      · exact absurd (recordHead_outstanding b e s b) (not_le.mpr h)
      · exact absurd h (lt_irrefl _)
    · split at h
      · exact absurd h (lt_irrefl _)
      · split at h
        · exact absurd (lateHead_outstanding b e s b).le (not_le.mpr h)
        · split at h
          · rw [bob_of_bobs (holdCtx_unchanged (cCtx e.is.cmd) (by decide : 2 ≠ 3) s .bobs (by decide))] at h
            exact absurd h (lt_irrefl _)
          · split at h
            · next hr => exact (Bool.and_eq_true_iff.mp hr).1
            · exact absurd h (lt_irrefl _)

theorem execDispatch_outstanding {b : Bobbin} {s t : State} (h : exec (.dispatch b) s = .next t)
    (hout : (s.bob b.toNat).outstanding < (t.bob b.toNat).outstanding) :
    (s.bob b.toNat).outstanding < ((dispatchBob b.toNat s).bob b.toNat).outstanding := by
  obtain rfl : (if ctlRuns s = true then dispatchBob b.toNat s else s) = t := next_inj h
  split at hout
  · exact hout
  · exact absurd hout (lt_irrefl _)

/-- An enabled wait that is met is satisfied by the window of R68. -/
theorem waitsMet_iff (s : State) (c : Cmd) :
    waitsMet s c = true ↔ (cWaitAEn c = true → (s.barrier (cWaitA c) - cWaitACount c).toNat < 2 ^ 31)
      ∧ (cWaitBEn c = true → (s.barrier (cWaitB c) - cWaitBCount c).toNat < 2 ^ 31) := by
  unfold waitsMet waitsOf waitMet
  cases cWaitAEn c <;> cases cWaitBEn c <;> simp

/-- Settles O13. -/
theorem dispatchOnlyWhenR62Holds : Obligations.DispatchOnlyWhenR62Holds := by
  intro b s t hexec hout
  obtain ⟨e, r, hq, hready⟩ := dispatchBob_ready (execDispatch_outstanding hexec hout)
  simp only [readyHead, readyButSlot, gatesOpen, ctxRuns, Bool.and_eq_true, decide_eq_true_eq, Bool.not_eq_true'] at hready
  obtain ⟨⟨⟨⟨⟨-, ⟨⟨⟨hen, hrun, -⟩, hphase⟩, hhold⟩, hport⟩, hwaits⟩, -⟩, -⟩, hslot⟩ := hready
  obtain ⟨hwaitA, hwaitB⟩ := (waitsMet_iff s e.is.cmd).mp hwaits
  refine ⟨e, r, hq, hen, hrun, ?_, hwaitA, hwaitB, hhold, of_decide_eq_true hslot, fun hsch => ?_⟩
  · simpa [phaseCurrent] using hphase
  · simpa [portFree, hsch] using hport

/-! ## The head is changed -/

theorem setHead_head {b : Nat} {e : QEntry} {r : List QEntry} {s : State} (hq : (s.bob b).queue = e :: r) (f : QEntry → QEntry) :
    setHead b f s = s.setBob b { s.bob b with queue := f e :: r } := by
  unfold setHead
  dsimp only
  rw [hq]

theorem setHead_unchanged (b : Nat) (f : QEntry → QEntry) (s : State) : Unchanged [.bobs] s (setHead b f s) :=
  unchanged_of_mask (by simp [pieces])

theorem setHead_bob_ne {b w : Nat} (h : w ≠ b) (f : QEntry → QEntry) (s : State) : (setHead b f s).bob w = s.bob w := by
  unfold setHead
  dsimp only
  split
  · rw [State.bob_setBob, if_neg (Ne.symm h)]
  · rfl

theorem setHead_bob {b : Nat} {e : QEntry} {r : List QEntry} {s : State} (hq : (s.bob b).queue = e :: r) (f : QEntry → QEntry) :
    (setHead b f s).bob b = { s.bob b with queue := f e :: r } := by
  rw [setHead_head hq, State.bob_setBob, if_pos rfl]

/-! ## AGE_PROMOTION -/

theorem execAgePromotion_marks {b : Bobbin} {e : QEntry} {r : List QEntry} {c : Nat} {s : State} (hctl : ctlRuns s = true)
    (hq : (s.bob b.toNat).queue = e :: r) (hc : e.readySince = some c) (hready : readyHead s (s.bob b.toNat) e = true)
    (hlim : (s.getReg (rBob 0x20)).toNat % 2 ^ 24 ≠ 0) (hpast : (s.getReg (rBob 0x20)).toNat % 2 ^ 24 < elapsed s.cyc c) :
    exec (.agePromotion b) s = .next (setHead b.toNat (fun e => { e with aged := true }) s) := by
  show execAgePromotion b s = _
  unfold execAgePromotion
  simp only [hq, hc]
  exact if_pos (by simp only [hctl, hready, hlim, hpast, ne_eq, not_false_eq_true, decide_true, Bool.and_self])

/-! ## RUN_SIZE_RESOLVE -/

/-- What a resolution has read leaves the bobbins and every byte of memory alone. -/
structure OnlyRead (s t : State) : Prop where
  bobs : t.bobs = s.bobs
  data : SameData s t

theorem OnlyRead.refl (s : State) : OnlyRead s s := ⟨rfl, .rfl' s⟩

theorem OnlyRead.trans {s t u : State} (h : OnlyRead s t) (k : OnlyRead t u) : OnlyRead s u :=
  ⟨k.bobs.trans h.bobs, h.data.trans k.data⟩

theorem OnlyRead.of_unchanged {ps : List Piece} {s t : State} (h : Unchanged ps s t)
    (hp : ∀ p ∈ [Piece.bobs, .gate, .rstBusy, .rwp, .skn, .mem, .errs, .pkg], p ∉ ps) : OnlyRead s t :=
  ⟨h .bobs (hp _ (by simp)), .of_unchanged h (fun p hm => hp p (List.mem_cons_of_mem _ hm))⟩

theorem onlyRead_touchReads (who : BitVec 16) (f : Byte) (l : List Nat) (s : State) : OnlyRead s (touchReads who f l s) :=
  have h : Unchanged [.reg, .mem, .errs, .skn, .dst, .seqs] s (touchReads who f l s) := unchanged_of_mask (by simp [pieces])
  ⟨h .bobs (by decide), sameData_touchReads who f l s⟩

theorem sameData_unitReads (who : BitVec 16) (l : List Nat) (s : State) : SameData s (unitReads who l s) := by
  refine sameData_foldl _ (fun s x => ?_) _ s
  unfold unitRead
  split
  · exact sameData_touchRead ..
  · split
    · exact sameData_sendMsg ..
    · exact .rfl' s

theorem onlyRead_unitReads (who : BitVec 16) (l : List Nat) (s : State) : OnlyRead s (unitReads who l s) :=
  have h : Unchanged [.reg, .mem, .errs, .skn, .dst, .seqs] s (unitReads who l s) := unchanged_of_mask (by simp [pieces])
  ⟨h .bobs (by decide), sameData_unitReads who l s⟩

theorem onlyRead_cachedRead (a : Nat) (s : State) : OnlyRead s (cachedRead a s).2.2 := by
  have hread : OnlyRead s (touchReads srcBob 0 (sectorsOf a 32) (s.count (rBob 0x8C) 1)) :=
    (OnlyRead.of_unchanged (count_unchanged (rBob 0x8C) 1 s) (by decide)).trans (onlyRead_touchReads ..)
  have hcache (t : State) (m : AMap Nat) (n : Nat) : OnlyRead t { t with planCache := m, free := n } :=
    ⟨rfl, .of_fields rfl rfl rfl (fun _ => rfl) rfl rfl rfl⟩
  unfold cachedRead
  split
  · exact .refl s
  · dsimp only
    split
    · exact hread
    · split
      · exact hread.trans (hcache _ _ _)
      · exact hread.trans (hcache _ _ _)

/-- How bobbin `b`, whose queue on `s` was `e :: r`, stands after the resolution of its head: only that has changed, and it is resolved
or has failed with its fault charged. -/
structure HeadResolved (b : Nat) (e : QEntry) (r : List QEntry) (s t : State) : Prop where
  head : ∃ e', (t.bob b).queue = e' :: r ∧ (e'.resolved = true ∨ (e'.kind = .runWord ∧ e'.charged = true))
    ∧ { e'.is with res := e.is.res } = e.is
  others : ∀ w, w ≠ b → t.bob w = s.bob w
  data : SameData s t

section
variable {b : Nat} {e : QEntry} {r : List QEntry} {s u : State}

theorem OnlyRead.setHead {f : QEntry → QEntry} (h : OnlyRead s u) (hq : (s.bob b).queue = e :: r)
    (hf : (f e).resolved = true ∨ ((f e).kind = .runWord ∧ (f e).charged = true)) (his : { (f e).is with res := e.is.res } = e.is) :
    HeadResolved b e r s (setHead b f u) where
  head := ⟨f e, by rw [setHead_bob ((bob_of_bobs h.bobs b).symm ▸ hq)], hf, his⟩
  others w hw := (setHead_bob_ne hw f u).trans (bob_of_bobs h.bobs w)
  data := h.data.trans (.of_unchanged (setHead_unchanged b f u) (by decide))

theorem OnlyRead.failRunWord (h : OnlyRead s u) (hq : (s.bob b).queue = e :: r) (a : Nat) :
    HeadResolved b e r s (failRunWord b a e u) :=
  (h.trans (.of_unchanged (sendMsg_unchanged _ (some e.is.id) u) (by decide))).setHead hq (.inr ⟨rfl, rfl⟩) rfl

/-! The parts of a resolution, in the order in which it reads: the bucket set that plan entry `p` names, the run size, and what the head
comes to. -/

def sizesRead (m : Image) (p : PlanEnt) (s : State) : Nat × Bool × State :=
  if p.bset = 0 then (0, false, s) else cachedRead (bsetAddr m p.bset) s

def runRead (p : PlanEnt) (c : Cmd) (s : State) : Nat × Bool × State :=
  if p.runSrc then
    (leNat ((blockBytes s p.runAddr 4).map (·.val)), (blockBytes s p.runAddr 4).any (·.poison),
      unitReads srcBob (sectorsOf p.runAddr 4) s)
  else (cRunSize c, false, s)

/-- The head with its run size resolved to `n` against the bucket set `sizes`. -/
def QEntry.sized (p : PlanEnt) (sizes : List Nat) (posted n : Nat) (e : QEntry) : QEntry :=
  { e with resolved := true, is := { e.is with res := resolveRun p sizes posted n } }

def headSized (b : Nat) (e : QEntry) (p : PlanEnt) (sizes : List Nat) (x : Nat × Bool × State) : State :=
  if x.2.1 then failRunWord b p.runAddr e x.2.2
  else setHead b (QEntry.sized p sizes (cRunSize e.is.cmd) x.1) (noteRun p sizes x.1 x.2.2)

def planTaken (b : Nat) (e : QEntry) (m : Image) (p : PlanEnt) (x : Nat × Bool × State) : State :=
  if x.2.1 then failRunWord b (bsetAddr m p.bset) e x.2.2
  else headSized b e p (bucketSizes x.1) (runRead p e.is.cmd x.2.2)

theorem resolveHead_eq (b : Nat) (e : QEntry) (m : Image) (s : State) {x : Nat × Bool × State}
    (hx : cachedRead (planAddr m (cPlan e.is.cmd)) s = x) :
    resolveHead b e m s
      = if x.2.1 then failRunWord b (planAddr m (cPlan e.is.cmd)) e x.2.2
        else if m.bsetCount ≤ (parsePlan x.1).bset then setHead b (fun e => { e with resolved := true, beyond := true }) x.2.2
        else planTaken b e m (parsePlan x.1) (sizesRead m (parsePlan x.1) x.2.2) := by
  subst hx
  rfl

theorem onlyRead_sizesRead (m : Image) (p : PlanEnt) (s : State) : OnlyRead s (sizesRead m p s).2.2 := by
  unfold sizesRead
  split
  · exact .refl s
  · exact onlyRead_cachedRead ..

theorem onlyRead_runRead (p : PlanEnt) (c : Cmd) (s : State) : OnlyRead s (runRead p c s).2.2 := by
  unfold runRead
  split
  · exact onlyRead_unitReads ..
  · exact .refl s

theorem onlyRead_noteRun (p : PlanEnt) (sizes : List Nat) (n : Nat) (s : State) : OnlyRead s (noteRun p sizes n s) :=
  .of_unchanged (unchanged_of_mask (l := [.lastRun, .lastBucket]) (by simp [pieces])) (by decide)

/-- A resolution reads the plan entry, its bucket set and the run-size word, and marks the head alone. -/
theorem headResolved_resolveHead (m : Image) (hq : (s.bob b).queue = e :: r) : HeadResolved b e r s (resolveHead b e m s) := by
  rw [resolveHead_eq b e m s rfl]
  have hplan := onlyRead_cachedRead (planAddr m (cPlan e.is.cmd)) s
  generalize cachedRead (planAddr m (cPlan e.is.cmd)) s = x at hplan ⊢
  split
  · exact hplan.failRunWord hq _
  split
  · exact hplan.setHead hq (.inl rfl) rfl
  have hsizes := hplan.trans (onlyRead_sizesRead m (parsePlan x.1) x.2.2)
  generalize sizesRead m (parsePlan x.1) x.2.2 = y at hsizes ⊢
  unfold planTaken
  split
  · exact hsizes.failRunWord hq _
  have hrun := hsizes.trans (onlyRead_runRead (parsePlan x.1) e.is.cmd y.2.2)
  generalize runRead (parsePlan x.1) e.is.cmd y.2.2 = z at hrun ⊢
  unfold headSized
  split
  · exact hrun.failRunWord hq _
  · exact (hrun.trans (onlyRead_noteRun ..)).setHead hq (.inl rfl) rfl

/-- With no bucket set and the size of the command, the head runs with the effective size of its plan entry (R154). -/
theorem resolveHead_posted {m : Image} {q : Nat} {k : State} (hq : (s.bob b).queue = e :: r)
    (hread : cachedRead (planAddr m (cPlan e.is.cmd)) s = (q, false, k)) (hm : m.bsetCount ≠ 0) (hbset : (parsePlan q).bset = 0)
    (hsrc : (parsePlan q).runSrc = false) :
    ((resolveHead b e m s).bob b).queue
      = { e with resolved := true, is := { e.is with res := .run (effSize (parsePlan q) (cRunSize e.is.cmd)) 0 false false } } :: r := by
  have hk : k.bobs = s.bobs := by
    have h := (onlyRead_cachedRead (planAddr m (cPlan e.is.cmd)) s).bobs
    rwa [hread] at h
  have hmark : resolveHead b e m s
      = setHead b (QEntry.sized (parsePlan q) (bucketSizes 0) (cRunSize e.is.cmd) (cRunSize e.is.cmd)) k := by
    have hin : ¬ m.bsetCount ≤ (parsePlan q).bset := by omega
    rw [resolveHead_eq b e m s hread, if_neg (by simp), if_neg hin]
    unfold planTaken sizesRead
    rw [if_pos hbset, if_neg (by simp)]
    unfold headSized runRead
    simp only [hsrc, Bool.false_eq_true, if_false]
    unfold noteRun
    rw [if_pos hbset]
  rw [hmark, setHead_bob ((bob_of_bobs hk b).symm ▸ hq)]
  unfold QEntry.sized resolveRun
  rw [if_pos hbset]

end

theorem execRunSizeResolve_resolves {b : Bobbin} {e : QEntry} {r : List QEntry} {m : Image} {s : State} (hctl : ctlRuns s = true)
    (hq : (s.bob b.toNat).queue = e :: r) (hm : loadedImage s (cCtx e.is.cmd) = some m) (hok : e.kind = .ok)
    (hres : e.resolved = false) (hplan : planned e.is.cmd = true) (hop : cOp e.is.cmd ≠ opRELEASE) (hin : cPlan e.is.cmd < m.planCount)
    (hopen : phaseClosed s (s.bob b.toNat).entry.ctx.toNat e.is.cmd = false) (hwait : waitsMet s e.is.cmd = true) :
    exec (.runSizeResolve b) s = .next (resolveHead b.toNat e m s) := by
  show execRunSizeResolve b s = _
  unfold execRunSizeResolve
  simp only [hq, hm]
  exact if_pos (by simp [hctl, hok, hres, hplan, hop, hin, hopen, hwait])

theorem SameData.kept {s t : State} (h : SameData s t) : BytesKept [] s t := fun a _ ha => h.val a ha

/-! ## WATCHDOG_EXPIRY -/

/-- The message of an expired watch (R285). -/
abbrev peerSilentMsg (s : State) (e : QEntry) : Msg :=
  { source := srcBob, kind := kPEER_SILENT, flags := flagCharged ||| flagParam
    addr := BitVec.ofNat 48 (cCtx e.is.cmd + (remoteOpen s e.is.cmd).foldl min 65535 * 4096) }

/-- The watch of a head has expired: the message is sent and counted, and the head is to complete. -/
def watchExpired (b : Nat) (e : QEntry) (s : State) : State :=
  setHead b (fun e => { e with kind := .watched, charged := true })
    ((sendMsg (peerSilentMsg s e) (some e.is.id) s).count (rBob 0x218) 1)

theorem execWatchdogExpiry_expires {b : Bobbin} {e : QEntry} {r : List QEntry} {c : Nat} {s : State} (hctl : ctlRuns s = true)
    (hq : (s.bob b.toNat).queue = e :: r) (hc : e.watchSince = some c) (hw : watching s (s.bob b.toNat) e = true) (hwd : wdTicks s ≠ 0)
    (hpast : watchStart s e c + wdTicks s ≤ s.wall) : exec (.watchdogExpiry b) s = .next (watchExpired b.toNat e s) := by
  show execWatchdogExpiry b s = _
  unfold execWatchdogExpiry
  simp only [hq, hc]
  exact if_pos (by simp [hctl, hw, hwd, hpast])

/-- Settles O14. -/
theorem headEventsMark : Obligations.HeadEventsMark := by
  intro b e r s hctl hq
  refine ⟨fun c hc hready hlim hpast => ?_, fun m hm hok hres hplan hop hin hopen hwait => ?_, fun c hc hw hwd hpast => ?_⟩
  · exact ⟨_, execAgePromotion_marks hctl hq hc hready hlim hpast, setHead_bob hq _, fun w hne => setHead_bob_ne hne _ s,
      setHead_unchanged _ _ s⟩
  · obtain ⟨⟨e', he', hmark, his⟩, hothers, hdata⟩ := headResolved_resolveHead m hq
    refine ⟨_, e', execRunSizeResolve_resolves hctl hq hm hok hres hplan hop hin hopen hwait, he', hothers, hmark, his,
      fun q k hread hcount hbset hsrc => ?_, hdata.kept, unchanged_of_mask (by simp [pieces])⟩
    exact (List.cons.inj (he'.symm.trans (resolveHead_posted hq hread hcount hbset hsrc))).1
  · have hsend := (sendMsg_unchanged (peerSilentMsg s e) (some e.is.id) s).trans (count_unchanged (rBob 0x218) 1 _)
      (n := [.dst, .seqs, .reg]) (by decide) (by decide)
    have hmark := setHead_unchanged b.toNat (fun e => { e with kind := .watched, charged := true })
      ((sendMsg (peerSilentMsg s e) (some e.is.id) s).count (rBob 0x218) 1)
    have hbob := bob_of_bobs (hsend .bobs (by decide))
    refine ⟨_, execWatchdogExpiry_expires hctl hq hc hw hwd hpast, ?_, fun w hne => (setHead_bob_ne hne _ _).trans (hbob w), ?_,
      fun a ha => ?_, hsend.trans hmark (by decide) (by decide)⟩
    · unfold watchExpired
      rw [setHead_bob ((hbob b.toNat).symm ▸ hq), hbob]
    · exact Sent.of_dst (sent_sendMsg_charged (peerSilentMsg s e) e.is.id s) rfl (hmark .dst (by decide))
    · have hreg : (watchExpired b.toNat e s).getReg a = ((sendMsg (peerSilentMsg s e) (some e.is.id) s).count (rBob 0x218) 1).getReg a :=
        congrArg (fun m => mget m a (regReset a)) (hmark .reg (by decide))
      have hsent : (sendMsg (peerSilentMsg s e) (some e.is.id) s).getReg a = s.getReg a :=
        congrArg (fun m => mget m a (regReset a)) (sendMsg_unchanged (peerSilentMsg s e) (some e.is.id) s .reg (by decide))
      rw [hreg, getReg_count_ne (Ne.symm ha), hsent]

end Sys2Proof.Machine
end

section
/-! SUPPORT. Commands at a port: the plying commands that start a data phase (R299 to R316), and the refusal of a stale epoch (R75). -/

namespace Sys2Proof.Machine

/-! ## The plying commands that become active -/

/-- A plying command with its checks passed: what its start leaves, and of the pieces its start may change the ports are none. -/
theorem plyCommand_starts {α : Type} {op : Nat} {hs : List Hit} {check : Issued → State → Chk α} {run : Issued → α → State → State}
    {i : Issued} {d : α} {s : State} {c : Instr} {ps all : List Piece} (hrow : exec c s = .next (acceptPly op hs check run s))
    (hf : plyFront s op = some i) (he : cEpoch i.cmd = s.epoch 52) (hr : ∀ n b e x, i.res = .run n b e x → e = false ∧ x = false)
    (hc : passes (check i (taken perrReg 52 hs s)) = .ok d)
    (hstart : Unchanged ps (taken perrReg 52 hs s) (clearStruck (run i d (taken perrReg 52 hs s)))) (hports : Piece.ports ∉ ps)
    (hnoted : ∀ p ∈ [Piece.reg, .dst, .seqs, .struck, .ports], p ∈ all) (hall : ∀ p ∈ ps, p ∈ all) :
    ∃ t, exec c s = .next t ∧ t = clearStruck (run i d (taken perrReg 52 hs s)) ∧ t.port 52 = (s.port 52).drop 1
      ∧ (∀ w, w ≠ 52 → t.port w = s.port w) ∧ Unchanged all s t := by
  obtain ⟨hfront, hothers⟩ := ports_after (hstart .ports hports)
  exact ⟨_, by rw [hrow, acceptPly_runs hf he hr hc], rfl, hfront, hothers, (taken_unchanged perrReg 52 hs s).trans hstart hnoted hall⟩

/-- Settles O5. -/
theorem plyingCommandsStart : Obligations.PlyingCommandsStart := by
  rintro hs i d s s0 rfl he hr
  refine ⟨fun hf hc => ?_, fun hf hc => ?_, ?_, ?_⟩
  · exact plyCommand_starts (ps := [.reg, .mem, .errs, .skn, .dst, .reports, .seqs, .struck, .trns, .qps, .ply, .out]) rfl hf he hr hc
      (unchanged_of_mask (by simp [pieces])) (by decide) (by decide) (by decide)
  · exact plyCommand_starts (ps := [.reg, .mem, .errs, .skn, .dst, .reports, .seqs, .struck, .qps, .ply, .out]) rfl hf he hr hc
      (unchanged_of_mask (by simp [pieces])) (by decide) (by decide) (by decide)
  · rintro hf rfl hc
    exact plyCommand_starts (run := fun i d s => verdictUp i.id (startPly [] d s))
      (ps := [.reg, .mem, .errs, .skn, .dst, .reports, .seqs, .struck, .trns, .qps, .ply, .out]) rfl hf he hr hc
      (unchanged_of_mask (by simp [pieces])) (by decide) (by decide) (by decide)
  · rintro hf rfl hc
    exact plyCommand_starts (ps := [.reg, .mem, .errs, .skn, .dst, .barriers, .barrierAt, .reports, .seqs, .struck, .qps, .ply, .out])
      rfl hf he hr hc (unchanged_of_mask (by simp [pieces])) (by decide) (by decide) (by decide)

/-! ## A stale epoch -/

/-- From `s` to `t` command `i` left unit `u`'s port with STALE_EPOCH, and nothing else was done to ports, reports and memory. -/
def StaleRefused (u : Nat) (i : Issued) (s t : State) : Prop :=
  t.port u = (s.port u).drop 1 ∧ (∀ w, w ≠ u → t.port w = s.port w)
    ∧ t.reports = s.reports ++ [{ is := i, unit := u, status := stSTALE }] ∧ BytesKept [] s t

section

variable {u op : Nat} {i : Issued} {s s' : State} {α : Type} {check : Issued → State → Chk α} {overlap : Issued → α → State → Bool}
  {run : Issued → α → State → State}

theorem acceptCmd_stale (he : cEpoch i.cmd ≠ s.epoch u) :
    acceptCmd u check overlap run i s = refuseCmd u i stSTALE (popPort u s) := if_pos he

theorem refuseCmd_ports (st : Byte) (h : s'.ports = s.ports) :
    (refuseCmd u i st (popPort u s')).ports = (taken perrReg u [] s).ports := by
  rw [taken_ports]
  simp [refuseCmd, State.addReport, popPort, State.setPort, State.port, h]

theorem refuseCmd_sameData (st : Byte) : SameData s (refuseCmd u i st (popPort u s)) :=
  .of_unchanged (ps := [.reports, .ports])
    ((popPort_unchanged u s).trans (m := [.reports]) (unchanged_of_mask (by simp [pieces])) (by decide) (by decide)) (by decide)

theorem staleRefused_refuseCmd : StaleRefused u i s (refuseCmd u i stSTALE (popPort u s)) := by
  obtain ⟨hfront, hothers⟩ := ports_after (refuseCmd_ports (i := i) stSTALE rfl)
  exact ⟨hfront, hothers, rfl, (refuseCmd_sameData stSTALE).kept⟩

theorem staleRefused_noted (reg : BitVec 16 → Option Nat) (hs : List Hit) (he : cEpoch i.cmd ≠ s.epoch u) :
    StaleRefused u i s (clearStruck (acceptCmd u check overlap run i (noteHits reg hs s))) := by
  have h := noteHits_unchanged reg hs s
  have hreports : (noteHits reg hs s).reports = s.reports := h .reports (by decide)
  obtain ⟨hfront, hothers⟩ := ports_after (refuseCmd_ports (u := u) (i := i) stSTALE (h .ports (by decide)))
  rw [acceptCmd_stale (by rwa [noteHits_epoch])]
  exact ⟨hfront, hothers, congrArg (· ++ _) hreports,
    ((SameData.of_unchanged h (by decide)).trans ((refuseCmd_sameData stSTALE).trans (sameData_clearStruck _))).kept⟩

theorem staleRefused_accept (hf : frontOf s u op = some i) (he : cEpoch i.cmd ≠ s.epoch u) :
    StaleRefused u i s (accept u op check overlap run s) := by
  unfold accept
  simp only [hf, acceptCmd_stale he]
  exact staleRefused_refuseCmd

theorem staleRefused_withHits (hs : List Hit) (hf : frontOf s u op = some i) (he : cEpoch i.cmd ≠ s.epoch u) :
    StaleRefused u i s (withHits u op hs (accept u op check overlap run) s) := by
  unfold withHits accept
  rw [hf, noteHits_frontOf, hf]
  exact staleRefused_noted perrReg hs he

theorem staleRefused_copy {k : BitVec 5} (hs : List Hit) (hf : frontOf s (16 + k.toNat) 0xC0 = some i)
    (he : cEpoch i.cmd ≠ s.epoch (16 + k.toNat)) : ∃ t, exec (.cpyPermute k hs) s = .next t ∧ StaleRefused (16 + k.toNat) i s t := by
  refine ⟨clearStruck (accept (16 + k.toNat) 0xC0 cpyCheck cpyOverlap cpyRun (noteHits moveReg hs s)),
    congrArg Host.Outcome.next (if_pos (by rw [hf]; rfl)), ?_⟩
  unfold accept
  rw [noteHits_frontOf, hf]
  exact staleRefused_noted moveReg hs he

theorem staleRefused_acceptPly (hs : List Hit) (hf : plyFront s op = some i) (he : cEpoch i.cmd ≠ s.epoch 52) :
    StaleRefused 52 i s (acceptPly op hs check run s) := by
  unfold acceptPly
  rw [hf]
  exact staleRefused_noted perrReg hs he

end

/-- Settles O56. -/
theorem staleEpochRefused : Obligations.StaleEpochRefused := by
  refine ⟨fun p k f hs s s0 c u op i hrow hf he => ?_, fun hs s c op i hrow hf he => ?_⟩
  · simp only [List.mem_cons, List.not_mem_nil, or_false, Prod.mk.injEq] at hrow
    rcases hrow with h | h | h | h | h | h | h | h | h | h | h | h | h | h | h | h | h | h | h | h | h | h | h <;>
      obtain ⟨rfl, rfl, rfl, rfl⟩ := h
    pick_goal 23
    · exact staleRefused_copy hs hf he
    pick_goal 3
    · exact ⟨_, rfl, staleRefused_accept hf he⟩
    all_goals exact ⟨_, rfl, staleRefused_withHits _ hf he⟩
  · simp only [List.mem_cons, List.not_mem_nil, or_false, Prod.mk.injEq] at hrow
    rcases hrow with ⟨rfl, rfl⟩ | ⟨rfl, rfl⟩ | ⟨rfl, rfl⟩ | ⟨rfl, rfl⟩ | ⟨rfl, rfl⟩ | ⟨rfl, rfl⟩ <;>
      exact ⟨_, rfl, staleRefused_acceptPly _ hf he⟩

end Sys2Proof.Machine
end

section
/-! SUPPORT. A management tick (R402, R418) and what it brings of the training of skeins (R339, R340). -/

namespace Sys2Proof.Machine

/-! ## The modes of the skeins -/

/-- A pass over skeins of which each step maps the mode of its own skein alone, by a map that a second pass does not change: under an
invariant `P` of the pass, the skeins named have the mapped mode and the others their own. -/
theorem foldl_skeinMode {P : State → Prop} {f : Nat → State → State} {g : Nat → SknMode → SknMode} (hg : ∀ k m, g k (g k m) = g k m)
    (hP : ∀ k s, P s → P (f k s))
    (hf : ∀ k s, P s → ∀ j, ((f k s).skein j).mode = if k = j then g k (s.skein j).mode else (s.skein j).mode) (j : Nat) :
    ∀ (l : List Nat) (s : State), P s →
      ((l.foldl (fun s k => f k s) s).skein j).mode = if j ∈ l then g j (s.skein j).mode else (s.skein j).mode
  | [], _, _ => rfl
  | k :: l, s, hs => by
    rw [List.foldl_cons, foldl_skeinMode hg hP hf j l _ (hP k s hs), hf k s hs j]
    by_cases hk : k = j
    · subst hk
      simp [hg]
    · simp [hk, Ne.symm hk]

/-- The mode in which the training of skein `k` ends, by the failures that the boot found. -/
def trainedMode (fail : List (BitVec 5 × BitVec 5)) (k : Nat) (m : SknMode) : SknMode :=
  if m ≠ .training then m else if fail.any (fun f => f.1.toNat = k) then .failed else .filling

theorem trainedMode_idem (fail : List (BitVec 5 × BitVec 5)) (k : Nat) (m : SknMode) :
    trainedMode fail k (trainedMode fail k m) = trainedMode fail k m := by
  unfold trainedMode
  split
  · next h => rfl
  · split <;> rfl

theorem trainedMode_training (fail : List (BitVec 5 × BitVec 5)) (k : Nat) :
    trainedMode fail k .training = if fail.any (fun f => f.1.toNat = k) then .failed else .filling := if_neg (not_not.mpr rfl)

theorem trainSkein_unchanged (k : Nat) (s : State) : Unchanged [.skn, .dst, .seqs] s (trainSkein k s) :=
  unchanged_of_mask (by simp [pieces])

theorem faultParam_skein (src : BitVec 16) (kind : Byte) (param : Nat) (s : State) (j : Nat) :
    (faultParam src kind param s).skein j = s.skein j := by
  have h : (faultParam src kind param s).mask (pieces [.dst, .seqs]) = s.mask (pieces [.dst, .seqs]) := by simp [pieces]
  have hskn : (faultParam src kind param s).skn = s.skn := unchanged_of_mask h .skn (by decide)
  unfold State.skein
  rw [hskn]

theorem trainSkein_mode (k : Nat) (s : State) (j : Nat) :
    ((trainSkein k s).skein j).mode = if k = j then trainedMode s.ndy.trainFail k (s.skein j).mode else (s.skein j).mode := by
  unfold trainSkein trainedMode
  split
  · next h =>
    by_cases hk : k = j
    · subst hk; simp [h]
    · rw [if_neg hk]
  · next h =>
    have hany : ∀ {o}, s.ndy.trainFail.find? (fun f => f.1.toNat = k) = o → s.ndy.trainFail.any (fun f => f.1.toNat = k) = o.isSome := by
      rintro _ rfl
      rw [List.isSome_find?]
    by_cases hk : k = j
    · subst hk
      split
      · next f hf => simp [faultParam_skein, h, hany hf]
      · next hf => simp [h, hany hf]
    · split <;> simp [faultParam_skein, hk]

theorem endTraining_mode (s : State) {k : Nat} (hk : k < 32) :
    ((endTraining s).skein k).mode = trainedMode s.ndy.trainFail k (s.skein k).mode := by
  have h := foldl_skeinMode (P := fun t => t.ndy = s.ndy) (f := trainSkein) (g := trainedMode s.ndy.trainFail) (trainedMode_idem _)
    (fun k t ht => Eq.trans (b := t.ndy) (trainSkein_unchanged k t .ndy (by decide)) ht)
    (fun k t ht j => ht ▸ trainSkein_mode k t j) k (List.range 32) s rfl
  rwa [if_pos (List.mem_range.mpr hk)] at h

/-- One step of the pass in which the skeins that fill become READY. -/
def fillSkein (k : Nat) (s : State) : State :=
  if (s.skein k).mode = .filling then s.setSkein k { s.skein k with mode := .ready } else s

def filledMode (m : SknMode) : SknMode := if m = .filling then .ready else m

theorem endFilling_eq (s : State) :
    endFilling s = if (List.range 32).any (fun k => (s.skein k).mode = .filling)
      then zeroFill ((List.range 32).foldl (fun s k => fillSkein k s) s) else s := rfl

theorem fillSkein_mode (k : Nat) (s : State) (j : Nat) :
    ((fillSkein k s).skein j).mode = if k = j then filledMode (s.skein j).mode else (s.skein j).mode := by
  unfold fillSkein filledMode
  by_cases hk : k = j
  · subst hk
    split <;> simp [*]
  · split <;> simp [hk]

theorem zeroFill_skein (s : State) (j : Nat) : (zeroFill s).skein j = s.skein j := by
  have h : (zeroFill s).mask (pieces [.mem, .errs]) = s.mask (pieces [.mem, .errs]) := by simp [pieces]
  have hskn : (zeroFill s).skn = s.skn := unchanged_of_mask h .skn (by decide)
  unfold State.skein
  rw [hskn]

theorem endFilling_mode (s : State) {k : Nat} (hk : k < 32) : ((endFilling s).skein k).mode = filledMode (s.skein k).mode := by
  rw [endFilling_eq]
  split
  · have h := foldl_skeinMode (P := fun _ => True) (f := fillSkein) (g := fun _ => filledMode)
      (fun _ m => by cases m <;> rfl) (fun _ _ _ => trivial) (fun k t _ j => fillSkein_mode k t j) k (List.range 32) s trivial
    rw [zeroFill_skein, h, if_pos (List.mem_range.mpr hk)]
  · next h =>
    have hno : (s.skein k).mode ≠ .filling := fun hm => h (List.any_eq_true.mpr ⟨k, List.mem_range.mpr hk, by simp [hm]⟩)
    exact (if_neg hno).symm

/-- What a tick brings of a skein that trains (R339). -/
theorem skeinTick_mode {s : State} (hp : s.ndy.phase = .placed) {k : Nat} (hk : k < 32) (hm : (s.skein k).mode = .training) :
    ((skeinTick s).skein k).mode = (if s.wall < s.ndy.trainAt + 3900000 then .training
      else if s.ndy.trainFail.any (fun f => f.1.toNat = k) then .failed
      else if s.wall < s.ndy.trainAt + 7052500 then .filling else .ready) := by
  have hany : (List.range 32).any (fun k => (s.skein k).mode = .training || (s.skein k).mode = .filling) = true :=
    List.any_eq_true.mpr ⟨k, List.mem_range.mpr hk, by simp [hm]⟩
  have htrained := endTraining_mode s hk
  have hfilled := endFilling_mode (endTraining s) hk
  rw [htrained] at hfilled
  rw [hm, trainedMode_training] at htrained hfilled
  have hsum : s.ndy.trainAt + trainTicks + fillTicks = s.ndy.trainAt + 7052500 := by unfold trainTicks fillTicks; omega
  unfold skeinTick
  rw [if_neg (by simp [hp]), hsum]
  unfold trainTicks
  by_cases h1 : s.wall < s.ndy.trainAt + 3900000
  · rw [if_pos h1, if_pos h1, hm]
  rw [if_neg h1, if_neg h1]
  by_cases h2 : s.wall < s.ndy.trainAt + 7052500
  · rw [if_pos h2, htrained, if_pos h2]
  · rw [if_neg h2, if_pos hany, hfilled, if_neg h2]
    exact apply_ite filledMode ..

/-! ## The tick -/

/-- The state at a tick when the waiting heads are noted and the flyers have made their internal frees. -/
def headsNoted (s : State) : State := [0, 1, 2, 3].foldl (fun s f => runFrees f s) (noteHeads s)

theorem headsNoted_unchanged (s : State) : Unchanged [.bobs, .fly] s (headsNoted s) :=
  unchanged_of_mask (by simp [headsNoted, pieces])

/-- What a tick brings of the NVM's work leaves where the boot stands and the training. -/
theorem nvmTick_ndy (s : State) : (nvmTick s).ndy.phase = s.ndy.phase ∧ (nvmTick s).ndy.trainAt = s.ndy.trainAt
    ∧ (nvmTick s).ndy.trainFail = s.ndy.trainFail := by
  unfold nvmTick
  split
  · dsimp only; split <;> exact ⟨rfl, rfl, rfl⟩
  · dsimp only; split <;> exact ⟨rfl, rfl, rfl⟩
  · dsimp only; split <;> exact ⟨rfl, rfl, rfl⟩
  · exact ⟨rfl, rfl, rfl⟩

theorem nvmTick_unchanged (s : State) : Unchanged [.free, .nvm, .ndy] s (nvmTick s) := unchanged_of_mask (by simp [pieces])

theorem nvmTick_idle {s : State} (hq : s.ndy.nvmq = []) (hc : s.ndy.compactAt = none) (he : s.ndy.eraseAt = none) :
    nvmTick s = s := by
  unfold nvmTick
  rw [hq, hc, he]

theorem skeinTick_idle {s : State} (h : s.ndy.phase ≠ .placed) : skeinTick s = s := if_pos h

/-- The counts of time a management tick further. -/
def ticked (s : State) : State :=
  { s with tick := if s.onRoot then (s.tick + 1) % 2 ^ 48 else s.tick
           cyc := if s.clocksOn then (s.cyc + 4) % 2 ^ 48 else s.cyc
           wall := s.wall + 1 }

theorem managementTick_eq (s : State) : managementTick s = ticked (skeinTick (nvmTick (headsNoted s))) := rfl

theorem ticked_unchanged (s : State) : Unchanged [.tick, .cyc, .wall] s (ticked s) := unchanged_of_mask (by simp [ticked, State.mask, pieces])

/-- Settles O54. -/
theorem tickAdvancesTime : Obligations.TickAdvancesTime := by
  intro s hs
  have hstep : step s = .next (managementTick s) := by unfold step; rw [hs]
  have hheads := headsNoted_unchanged s
  have hndy : (headsNoted s).ndy = s.ndy := hheads .ndy (by decide)
  have hnvm := hheads.trans (nvmTick_unchanged (headsNoted s)) (n := [.bobs, .fly, .free, .nvm, .ndy]) (by decide) (by decide)
  have hskn : Unchanged [.mem, .errs, .skn, .dst, .seqs] (nvmTick (headsNoted s)) (skeinTick (nvmTick (headsNoted s))) :=
    unchanged_of_mask (by simp [pieces])
  have hall := hnvm.trans hskn (n := [.bobs, .fly, .free, .nvm, .ndy, .mem, .errs, .skn, .dst, .seqs]) (by decide) (by decide)
  have hwall : (skeinTick (nvmTick (headsNoted s))).wall = s.wall := hall .wall (by decide)
  have htick : (skeinTick (nvmTick (headsNoted s))).tick = s.tick := hall .tick (by decide)
  have hcyc : (skeinTick (nvmTick (headsNoted s))).cyc = s.cyc := hall .cyc (by decide)
  have hroot : (skeinTick (nvmTick (headsNoted s))).onRoot = s.onRoot := hall .onRoot (by decide)
  have hclocks : (skeinTick (nvmTick (headsNoted s))).clocksOn = s.clocksOn := hall .clocksOn (by decide)
  refine ⟨managementTick s, hstep, ?_, ?_, ?_, ?_, ?_, ?_⟩
  · rw [managementTick_eq, ← hwall]; rfl
  · rw [managementTick_eq, ← htick, ← hroot]; rfl
  · rw [managementTick_eq, ← hcyc, ← hclocks]; rfl
  · exact hall.trans (ticked_unchanged _) (by decide) (by decide)
  · intro hphase hq hc he
    rw [managementTick_eq, nvmTick_idle (by rw [hndy, hq]) (by rw [hndy, hc]) (by rw [hndy, he]), skeinTick_idle (by rwa [hndy])]
    exact hheads.trans (ticked_unchanged _) (by decide) (by decide)
  · intro hphase k hk hm
    obtain ⟨hp, hat, hfail⟩ := nvmTick_ndy (headsNoted s)
    have hwall' : (nvmTick (headsNoted s)).wall = s.wall := hnvm .wall (by decide)
    have hskn' : (nvmTick (headsNoted s)).skn = s.skn := hnvm .skn (by decide)
    have hskein : (nvmTick (headsNoted s)).skein k = s.skein k := by unfold State.skein; rw [hskn']
    have hmode := skeinTick_mode (s := nvmTick (headsNoted s)) (by rw [hp, hndy, hphase]) hk (by rw [hskein, hm])
    rw [hwall', hat, hfail, hndy] at hmode
    exact hmode

end Sys2Proof.Machine
end

section
/-! SUPPORT. The fetcher and the checker of descriptors (R54, R60, R66). -/

namespace Sys2Proof.Machine

/-! ## A burst is requested -/

theorem execFetchBurst_grants {s : State} {b lv : Nat} (hctl : ctlRuns s = true) (hchoice : fetchChoice s = some (b, lv)) :
    ∃ t, exec .fetchBurst s = .next t
      ∧ t.bob b = { s.bob b with fetched := (s.bob b).fetched + BitVec.ofNat 32 (s.bob b).burstLen
                                 bursts := (s.bob b).bursts ++ [((s.bob b).fetched, (s.bob b).burstLen)] }
      ∧ (∀ w, w ≠ b → t.bob w = s.bob w) ∧ (mget t.fetchTurns lv {}).last = b
      ∧ (∀ a, a ≠ rBob 0x60 → t.getReg a = s.getReg a) ∧ Unchanged [.bobs, .fetchTurns, .reg] s t := by
  let x : Bob := { s.bob b with fetched := (s.bob b).fetched + BitVec.ofNat 32 (s.bob b).burstLen
                                bursts := (s.bob b).bursts ++ [((s.bob b).fetched, (s.bob b).burstLen)] }
  let s1 : State := { s.setBob b x with fetchTurns := mset s.fetchTurns lv { last := b, grants := 0 } }
  have hexec : exec .fetchBurst s = .next (s1.count (rBob 0x60) (s.bob b).burstLen) := by
    show execFetchBurst s = _
    unfold execFetchBurst
    rw [if_pos hctl, hchoice]
    rfl
  have hcount := count_unchanged (rBob 0x60) (s.bob b).burstLen s1
  have hbob : ∀ w, (s1.count (rBob 0x60) (s.bob b).burstLen).bob w = if b = w then x else s.bob w := fun w => by
    rw [bob_of_bobs (hcount .bobs (by decide)) w]
    exact State.bob_setBob s b w x
  have hturns : (s1.count (rBob 0x60) (s.bob b).burstLen).fetchTurns = s1.fetchTurns := hcount .fetchTurns (by decide)
  refine ⟨_, hexec, by rw [hbob, if_pos rfl], fun w hw => by rw [hbob, if_neg (Ne.symm hw)], ?_, fun a ha => ?_, ?_⟩
  · rw [hturns]
    simp [s1]
  · exact getReg_count_ne (Ne.symm ha) _ s1
  · have h1 : Unchanged [.bobs, .fetchTurns] s s1 := unchanged_of_mask (by simp [s1, State.mask, State.setBob, pieces])
    exact h1.trans hcount (by decide) (by decide)

/-! ## A burst arrives -/

/-- The queue entry of a descriptor that has arrived: sound, or marked where it fails R60. -/
def arrivedEntry (x : Bob) (i : Issued) : QEntry :=
  match envelopeFault x.entry.cls x.entry.ctx.toNat i.cmd with
  | none => { is := i }
  | some _ => { is := i, kind := .bad, charged := true }

/-- `x` with more of its descriptors in the queue. -/
def Bob.arrived (x : Bob) (es : List QEntry) : Bob := { x with queue := x.queue ++ es }

theorem arrivedEntry_is (x : Bob) (i : Issued) : (arrivedEntry x i).is = i := by
  unfold arrivedEntry
  split <;> rfl

theorem arrivedEntry_kind (x : Bob) (i : Issued) :
    (arrivedEntry x i).kind = if (envelopeFault x.entry.cls x.entry.ctx.toNat i.cmd).isNone then .ok else .bad := by
  unfold arrivedEntry
  split <;> simp [*]

theorem faultCharged_bob (src : BitVec 16) (f : Flt) (id : Nat) (s : State) (w : Nat) : (faultCharged src f id s).bob w = s.bob w := by
  have h : Unchanged [.dst, .seqs] s (faultCharged src f id s) := unchanged_of_mask (by simp [pieces])
  exact bob_of_bobs (h .bobs (by decide)) w

/-- A checked descriptor joins its bobbin's queue, after its fault where it has one. -/
theorem checkArrival_eq (i : Issued) (s : State) : ∃ s' : State, (∀ w, s'.bob w = s.bob w) ∧
    checkArrival i s = s'.setBob i.bobbin.toNat ((s.bob i.bobbin.toNat).arrived [arrivedEntry (s.bob i.bobbin.toNat) i]) := by
  unfold checkArrival arrivedEntry
  dsimp only
  cases envelopeFault (s.bob i.bobbin.toNat).entry.cls (s.bob i.bobbin.toNat).entry.ctx.toNat i.cmd with
  | none => exact ⟨s, fun _ => rfl, rfl⟩
  | some k => exact ⟨_, faultCharged_bob srcBob { kind := k, addr := i.addr.toNat } i.id s, rfl⟩

theorem checkArrival_bob (i : Issued) (s : State) (w : Nat) :
    (checkArrival i s).bob w = if i.bobbin.toNat = w then (s.bob w).arrived [arrivedEntry (s.bob w) i] else s.bob w := by
  obtain ⟨s', hbob, hcheck⟩ := checkArrival_eq i s
  rw [hcheck, State.bob_setBob, hbob]
  split
  · next h => rw [h]
  · rfl

/-- The descriptors of a burst without poison join the queue in ring order, each with its count, its bytes and its verdict (R60). -/
theorem arrive_unpoisoned (b : Bobbin) : ∀ (ds : List (Nat × List RByte)) (n : Word) (s : State), (∀ d ∈ ds, d.2.any (·.poison) = false) →
    ∃ es, (arrive b ds n s).bob b.toNat = (s.bob b.toNat).arrived es
      ∧ es.map (·.is.seq) = (List.range ds.length).map (fun j => n + BitVec.ofNat 32 j)
      ∧ es.map (·.is.cmd) = ds.map (fun d => BitVec.ofNat 512 (leNat (d.2.map (·.val))))
      ∧ (∀ e ∈ es, e.kind = if (envelopeFault (s.bob b.toNat).entry.cls (s.bob b.toNat).entry.ctx.toNat e.is.cmd).isNone then .ok else .bad)
      ∧ ∀ w, w ≠ b.toNat → (arrive b ds n s).bob w = s.bob w
  | [], _, _, _ => ⟨[], by simp [arrive, Bob.arrived]⟩
  | (a, l) :: r, n, s, h => by
    obtain ⟨hl, hr⟩ := List.forall_mem_cons.mp h
    let i : Issued := { id := s.ids, bobbin := b, seq := n, addr := BitVec.ofNat 48 a, cmd := BitVec.ofNat 512 (leNat (l.map (·.val))) }
    have harrive : arrive b ((a, l) :: r) n s = arrive b r (n + 1) (checkArrival i s.bumpId) :=
      if_neg (c := l.any (·.poison) = true) (by rw [hl]; decide)
    have hbob : ∀ w, (checkArrival i s.bumpId).bob w
        = if b.toNat = w then (s.bob w).arrived [arrivedEntry (s.bob w) i] else s.bob w := checkArrival_bob i s.bumpId
    obtain ⟨es, hq, hseq, hcmd, hkind, hothers⟩ := arrive_unpoisoned b r (n + 1) (checkArrival i s.bumpId) hr
    rw [hbob, if_pos rfl] at hq hkind
    refine ⟨arrivedEntry (s.bob b.toNat) i :: es, ?_, ?_, ?_, ?_, fun w hw => ?_⟩
    · rw [harrive, hq]
      simp [Bob.arrived]
    · rw [List.map_cons, hseq, arrivedEntry_is, List.length_cons, List.range_succ_eq_map, List.map_cons, List.map_map]
      congr 1
      · simp [i]
      · refine List.map_congr_left fun j _ => ?_
        simp only [Function.comp_apply, Nat.succ_eq_add_one]
        bv_omega
    · rw [List.map_cons, hcmd, arrivedEntry_is, List.map_cons]
    · intro e he
      rcases List.mem_cons.mp he with rfl | he
      · rw [arrivedEntry_kind, arrivedEntry_is]
      · exact hkind e he
    · rw [harrive, hothers w hw, hbob, if_neg (Ne.symm hw)]

theorem arrive_unchanged (b : Bobbin) (ds : List (Nat × List RByte)) (n : Word) (s : State) :
    Unchanged [.free, .ids, .dst, .bobs, .seqs] s (arrive b ds n s) := unchanged_of_mask (by simp [pieces])

/-- The bytes of the first `len` descriptors from count `n` of a bobbin's ring. -/
def burstBytes (x : Bob) (n len : Nat) (s : State) : List (Nat × List RByte) :=
  ((List.range len).map (fun j => ringAddr x (n + j))).map (fun a => (a, rdBytes s a 64))

/-- The state in which a burst's descriptors are checked: its bytes are read. -/
def burstRead (x : Bob) (n len : Nat) (s : State) : State :=
  touchReads srcBob 0 (((List.range len).map (fun j => ringAddr x (n + j))).flatMap (fun a => sectorsOf a 64)) s

theorem execBurstArrival_arrives {s s1 : State} {b : Bobbin} {hs : List Hit} {n : Word} {len : Nat} {r : List (Word × Nat)}
    (hctl : ctlRuns s = true) (hb : (s.bob b.toNat).bursts = (n, len) :: r)
    (h1 : s1 = noteHits perrReg hs (s.setBob b.toNat { s.bob b.toNat with bursts := r })) :
    exec (.burstArrival b hs) s = .next (clearStruck (arrive b (burstBytes (s.bob b.toNat) n.toNat len s1) n
      (burstRead (s.bob b.toNat) n.toNat len s1))) := by
  subst h1
  show execBurstArrival b hs s = _
  unfold execBurstArrival
  extract_lets x
  have hx : x.bursts = (n, len) :: r := hb
  rw [hx]
  exact if_pos hctl

/-- Settles O15. -/
theorem fetchAndArrival : Obligations.FetchAndArrival := by
  refine ⟨fun s b lv hctl hchoice => execFetchBurst_grants hctl hchoice, fun s s1 b hs n len r hctl hb h1 hclean => ?_⟩
  have hexec := execBurstArrival_arrives hctl hb h1
  have hset : Unchanged [.bobs] s (s.setBob b.toNat { s.bob b.toNat with bursts := r }) := unchanged_of_mask (by simp [pieces])
  have hnote : Unchanged [.reg, .dst, .seqs, .struck] (s.setBob b.toNat { s.bob b.toNat with bursts := r }) s1 :=
    h1 ▸ noteHits_unchanged perrReg hs _
  have hread : Unchanged [.reg, .mem, .errs, .skn, .dst, .seqs] s1 (burstRead (s.bob b.toNat) n.toNat len s1) :=
    unchanged_of_mask (by simp [burstRead, pieces])
  have hbob : ∀ w, (burstRead (s.bob b.toNat) n.toNat len s1).bob w
      = if b.toNat = w then { s.bob b.toNat with bursts := r } else s.bob w := fun w => by
    rw [bob_of_bobs (hread .bobs (by decide)), bob_of_bobs (hnote .bobs (by decide)), State.bob_setBob]
  have hclean' : ∀ d ∈ burstBytes (s.bob b.toNat) n.toNat len s1, d.2.any (·.poison) = false := by
    intro d hd
    simp only [burstBytes, List.map_map, List.mem_map, List.mem_range, Function.comp_apply] at hd
    obtain ⟨j, hj, rfl⟩ := hd
    exact hclean j hj
  obtain ⟨es, hq, hseq, hcmd, hkind, hothers⟩ := arrive_unpoisoned b (burstBytes (s.bob b.toNat) n.toNat len s1) n
    (burstRead (s.bob b.toNat) n.toNat len s1) hclean'
  rw [hbob, if_pos rfl] at hq hkind
  have harrive := arrive_unchanged b (burstBytes (s.bob b.toNat) n.toNat len s1) n (burstRead (s.bob b.toNat) n.toNat len s1)
  have hdata : SameData s (clearStruck (arrive b (burstBytes (s.bob b.toNat) n.toNat len s1) n
      (burstRead (s.bob b.toNat) n.toNat len s1))) :=
    (((SameData.of_unchanged hset (by decide)).trans (.of_unchanged hnote (by decide))).trans (sameData_touchReads ..)).trans
      ((SameData.of_unchanged harrive (by decide)).trans (sameData_clearStruck _))
  have hframe := ((hset.trans hnote (n := [.bobs, .reg, .dst, .seqs, .struck]) (by decide) (by decide)).trans hread
    (n := [.bobs, .reg, .dst, .seqs, .struck, .mem, .errs, .skn]) (by decide) (by decide)).trans harrive
    (n := [.free, .ids, .reg, .mem, .errs, .skn, .dst, .bobs, .seqs, .struck]) (by decide) (by decide)
  generalize hk : arrive b (burstBytes (s.bob b.toNat) n.toNat len s1) n (burstRead (s.bob b.toNat) n.toNat len s1) = k at *
  have hlen : (burstBytes (s.bob b.toNat) n.toNat len s1).length = len := by simp [burstBytes]
  have hclear : Unchanged [.struck] k (clearStruck k) := unchanged_of_mask (by simp [pieces])
  refine ⟨clearStruck k, es, hexec, congrArg Bob.bursts hq, congrArg Bob.queue hq, by rw [hseq, hlen], ?_, hkind, fun w hw => ?_,
    hdata.kept, hframe.trans hclear (by decide) (by decide)⟩
  · rw [hcmd]
    simp [burstBytes, Function.comp_def]
  · exact (hothers w hw).trans (by rw [hbob, if_neg (Ne.symm hw)])

end Sys2Proof.Machine
end

section
/-! SUPPORT. The doorbell window (R49 to R52, R379): DB_PROD, DB_CQ_HEAD, ENABLE and DISABLE. -/

namespace Sys2Proof.Machine

/-! ## Messages that arise from an access -/

/-- A table whose entries are mapped by their key reads as mapped, where the map keeps the empty list. -/
theorem mget_map_entries {α : Type} (F : Nat → List α → List α) (hF : ∀ k, F k [] = []) (l : AMap (List α)) (k : Nat) :
    mget (l.map (fun e => (e.1, F e.1 e.2))) k [] = F k (mget l k []) := by
  induction l with
  | nil => exact (hF k).symm
  | cons e l ih =>
    obtain ⟨j, q⟩ := e
    simp only [List.map_cons, mget]
    split
    · next h => rw [h]
    · exact ih

theorem tagNew_queue (f : Byte) (s t : State) (k : Nat) :
    mget (tagNew f s t).dst.queues k [] = flagFrom f (mget s.dst.queues k []).length (mget t.dst.queues k []) :=
  mget_map_entries (fun k q => flagFrom f (mget s.dst.queues k []).length q) (fun k => by simp [flagFrom]) t.dst.queues k

theorem flagFrom_append (f : Byte) (q : List QMsg) (x : QMsg) :
    flagFrom f q.length (q ++ [x]) = q ++ [{ x with msg := { x.msg with flags := x.msg.flags ||| f } }] := by simp [flagFrom]

/-- A message sent within an access carries the flags of the access (R379). -/
theorem Sent.tagged {m : Msg} {charge : Option Nat} {s t : State} (h : Sent m charge s t) (f : Byte) :
    Sent { m with flags := m.flags ||| f } charge s (tagNew f s t) := by
  obtain ⟨hq, hd, hother⟩ := h
  refine ⟨?_, hd, fun k hk => ⟨?_, (hother k hk).2⟩⟩
  · rw [tagNew_queue, hq]
    split
    · rw [flagFrom_append]
      split
      · simp only [BitVec.or_assoc, BitVec.or_comm flagDropped f]
      · rfl
    · exact flagFrom_self ..
  · rw [tagNew_queue, (hother k hk).1, flagFrom_self]

/-! ## One write of the doorbell window -/

theorem dbAddr_slot {b off : Nat} (h : off < 64) : (dbAddr b off - dbBase) / 64 = b ∧ (dbAddr b off - dbBase) % 64 = off := by
  have hsub : dbAddr b off - dbBase = b * 64 + off := by unfold dbAddr; omega
  omega

/-- A host's write that reaches the window is answered by the slot it names. -/
theorem hostDoorbell_answers {b : Bobbin} {off : Nat} {s : State} (hmgmt : mgmtRuns s = true) (hctl : ctlRuns s = true) (hoff : off < 64)
    (halign : off % 4 = 0) (v : Word) :
    hostDoorbell b off v s = (endDoorbell anyHost (dbAddr b.toNat off) s (writeDoorbell b.toNat off v s)).2 := by
  have hform : dbAddr b.toNat off % 4 = 0 := by unfold dbAddr dbBase; omega
  have hreach : doorbellRefusal anyHost (dbAddr b.toNat off) s = none := by
    unfold doorbellRefusal
    rw [if_neg (by decide), if_neg (by simp [hform]), if_neg (by simp [hctl])]
  obtain ⟨hslot, hfield⟩ := dbAddr_slot (b := b.toNat) hoff
  unfold hostDoorbell doorbellWrite
  rw [if_pos hmgmt, hreach, hslot, hfield]

section

variable {b : Bobbin} {off : Nat} {v : Word} {s t : State} {k : Byte} (hmgmt : mgmtRuns s = true) (hctl : ctlRuns s = true) (hoff : off < 64)
  (halign : off % 4 = 0)

include hmgmt hctl hoff halign

theorem hostDoorbell_done (h : writeDoorbell b.toNat off v s = .done t) : hostDoorbell b off v s = tagNew flagHost s t := by
  rw [hostDoorbell_answers hmgmt hctl hoff halign, h]
  rfl

theorem hostDoorbell_refused (h : writeDoorbell b.toNat off v s = .refuse k) :
    hostDoorbell b off v s = sendMsg { source := srcBob, kind := k, flags := flagHost, addr := BitVec.ofNat 48 (dbAddr b.toNat off) } none s := by
  rw [hostDoorbell_answers hmgmt hctl hoff halign, h]
  rfl

end

theorem tagNew_bob (f : Byte) (s t : State) (w : Nat) : (tagNew f s t).bob w = t.bob w :=
  bob_of_bobs (tagNew_unchanged f s t .bobs (by decide)) w

/-! ## A write that changes one bobbin, and one that sends a message as well -/

/-- A slot's write that changes bobbins alone sends nothing. -/
theorem quiet_tagged {s t : State} (h : Unchanged [.bobs] s t) :
    SameDistaff s (tagNew flagHost s t) ∧ Unchanged [.bobs, .dst] s (tagNew flagHost s t) :=
  ⟨tagNew_sameDistaff (h .dst (by decide)), h.trans (tagNew_unchanged _ s _) (by decide) (by decide)⟩

theorem setBob_tagged (b : Nat) (x : Bob) (s : State) :
    (tagNew flagHost s (s.setBob b x)).bob b = x ∧ (∀ w, w ≠ b → (tagNew flagHost s (s.setBob b x)).bob w = s.bob w)
      ∧ SameDistaff s (tagNew flagHost s (s.setBob b x)) ∧ Unchanged [.bobs, .dst] s (tagNew flagHost s (s.setBob b x)) := by
  refine ⟨?_, fun w hw => ?_, quiet_tagged (unchanged_of_mask (by simp [pieces]))⟩
  · rw [tagNew_bob, State.bob_setBob, if_pos rfl]
  · rw [tagNew_bob, State.bob_setBob, if_neg (Ne.symm hw)]

/-- The message of a bobbin's fault, sent within a host's access. -/
theorem sent_faultBobbin (kind : Byte) (b : Nat) {s s' : State} (h : s'.dst = s.dst) :
    Sent { source := srcBob, kind := kind, flags := flagParam ||| flagHost, addr := BitVec.ofNat 48 b } none s
      (tagNew flagHost s (faultBobbin kind b s')) := by
  have hsent := sent_sendMsg { source := srcBob, kind := kind, flags := flagParam, addr := BitVec.ofNat 48 b } s'
  exact (hsent.of_dst h.symm rfl).tagged flagHost

theorem faultBobbin_unchanged (kind : Byte) (b : Nat) (s : State) : Unchanged [.dst, .seqs] s (faultBobbin kind b s) :=
  sendMsg_unchanged _ none s

theorem setBob_fault_tagged (kind : Byte) (b : Nat) (x : Bob) (s : State) :
    (tagNew flagHost s (faultBobbin kind b (s.setBob b x))).bob b = x
      ∧ (∀ w, w ≠ b → (tagNew flagHost s (faultBobbin kind b (s.setBob b x))).bob w = s.bob w)
      ∧ Sent { source := srcBob, kind := kind, flags := flagParam ||| flagHost, addr := BitVec.ofNat 48 b } none s
        (tagNew flagHost s (faultBobbin kind b (s.setBob b x)))
      ∧ Unchanged [.bobs, .dst, .seqs] s (tagNew flagHost s (faultBobbin kind b (s.setBob b x))) := by
  have hset : Unchanged [.bobs] s (s.setBob b x) := unchanged_of_mask (by simp [pieces])
  have hfault := faultBobbin_unchanged kind b (s.setBob b x)
  have hbob : ∀ w, (tagNew flagHost s (faultBobbin kind b (s.setBob b x))).bob w = if b = w then x else s.bob w := fun w => by
    rw [tagNew_bob, bob_of_bobs (hfault .bobs (by decide)), State.bob_setBob]
  exact ⟨by rw [hbob, if_pos rfl], fun w hw => by rw [hbob, if_neg (Ne.symm hw)], sent_faultBobbin kind b (hset .dst (by decide)),
    (hset.trans hfault (n := [.bobs, .dst, .seqs]) (by decide) (by decide)).trans (tagNew_unchanged _ s _) (by decide) (by decide)⟩

/-! ## DB_PROD and DB_CQ_HEAD -/

theorem writeProd_posts {b : Nat} {v : Word} {s : State} (hen : (s.bob b).state = .enabled)
    (hfit : (v - (s.bob b).fetched).toNat ≤ 2 ^ (s.bob b).entry.log2) :
    writeProd b v s = .done (s.setBob b { s.bob b with prod := v }) := by
  unfold writeProd
  rw [if_neg (by simp [hen]), if_neg (by omega)]

theorem writeProd_overruns {b : Nat} {v : Word} {s : State} (hen : (s.bob b).state = .enabled)
    (hover : 2 ^ (s.bob b).entry.log2 < (v - (s.bob b).fetched).toNat) :
    writeProd b v s = .done (faultBobbin kDOORBELL_OVERRUN b (s.setBob b { (s.bob b).discard with prod := v, state := .stopped })) := by
  unfold writeProd
  rw [if_neg (by simp [hen]), if_pos hover]

theorem writeProd_refused {b : Nat} {v : Word} {s : State} (hen : (s.bob b).state ≠ .enabled) :
    writeProd b v s = .refuse kACCESS_REFUSED := if_pos hen

theorem markSlotWait_queue (wants : Bool) (x : Bob) :
    (markSlotWait wants x).queue.map (fun e => { e with slotWait := false }) = x.queue.map (fun e => { e with slotWait := false }) := by
  unfold markSlotWait
  split <;> simp [*]

theorem markSlotWait_rest (wants : Bool) (x : Bob) (h : Word) :
    { markSlotWait wants x with head := h, queue := x.queue } = { x with head := h } := by
  unfold markSlotWait
  split <;> rfl

theorem writeCqHead_eq (b : Nat) (v : Word) (s : State) :
    ∃ wants, writeCqHead b v s = .done (s.setBob b { markSlotWait wants (s.bob b) with head := v }) := ⟨_, rfl⟩

/-- Settles O16. -/
theorem producerAndHeadDoorbells : Obligations.ProducerAndHeadDoorbells := by
  intro b v s hmgmt hctl
  have hprod : ∀ r, writeProd b.toNat v s = r → writeDoorbell b.toNat 0 v s = r := fun _ h => h
  refine ⟨fun hen hfit => ?_, fun hen hover => ?_, fun hen => ?_, ?_⟩
  · have hdone := hostDoorbell_done hmgmt hctl (by decide) (by decide) (hprod _ (writeProd_posts hen hfit))
    exact ⟨_, congrArg Host.Outcome.next hdone, setBob_tagged ..⟩
  · have hdone := hostDoorbell_done hmgmt hctl (by decide) (by decide) (hprod _ (writeProd_overruns hen hover))
    exact ⟨_, congrArg Host.Outcome.next hdone, setBob_fault_tagged ..⟩
  · have hrefused := hostDoorbell_refused hmgmt hctl (by decide) (by decide) (hprod _ (writeProd_refused hen))
    have hsend := sendMsg_unchanged { source := srcBob, kind := kACCESS_REFUSED, flags := flagHost, addr := BitVec.ofNat 48 (dbAddr b.toNat 0) }
      none s
    exact ⟨_, congrArg Host.Outcome.next hrefused, bob_of_bobs (hsend .bobs (by decide)), sent_sendMsg _ s, hsend.mono (by decide)⟩
  · obtain ⟨wants, hhead⟩ := writeCqHead_eq b.toNat v s
    have hdone := hostDoorbell_done hmgmt hctl (off := 8) (by decide) (by decide) hhead
    obtain ⟨hbob, hrest⟩ := setBob_tagged b.toNat { markSlotWait wants (s.bob b.toNat) with head := v } s
    refine ⟨_, congrArg Host.Outcome.next hdone, by rw [hbob], ?_, ?_, hrest⟩
    · rw [hbob]
      exact markSlotWait_rest wants (s.bob b.toNat) _
    · rw [hbob]
      exact markSlotWait_queue wants (s.bob b.toNat)

/-! ## DISABLE -/

theorem disableBob_drains {b : Nat} {s : State} (h : (s.bob b).state = .enabled ∨ (s.bob b).state = .stopped) :
    disableBob b s = settleDrain b (s.setBob b { (s.bob b).discard with state := .draining }) :=
  if_pos (by simpa using h)

theorem disableBob_bob {b : Nat} {s : State} (h : (s.bob b).state = .enabled ∨ (s.bob b).state = .stopped) (w : Nat) :
    (disableBob b s).bob w = if b = w then { s.bob b with queue := [], bursts := []
                                                          state := if (s.bob b).outstanding = 0 then .disabled else .draining }
      else s.bob w := by
  rw [disableBob_drains h, settleDrain_bob, State.bob_setBob, State.bob_setBob, if_pos rfl]
  unfold Bob.drained Bob.discard
  split
  · by_cases hout : (s.bob b).outstanding = 0 <;> simp [hout]
  · rfl

theorem disableBob_idle {b : Nat} {s : State} (hen : (s.bob b).state ≠ .enabled) (hstop : (s.bob b).state ≠ .stopped) :
    disableBob b s = s := if_neg (by simp [hen, hstop])

/-- Settles O18. -/
theorem disableDrains : Obligations.DisableDrains := by
  intro b s hmgmt hctl
  have hwrite : writeDoorbell b.toNat 0x10 2 s = .done (disableBob b.toNat s) := rfl
  have hexec : exec (.disable b) s = .next (tagNew flagHost s (disableBob b.toNat s)) :=
    congrArg Host.Outcome.next (hostDoorbell_done hmgmt hctl (by decide) (by decide) hwrite)
  refine ⟨fun h => ?_, fun hen hstop => ?_⟩
  · have hframe : Unchanged [.bobs] s (disableBob b.toNat s) := unchanged_of_mask (by simp [pieces])
    refine ⟨_, hexec, ?_, fun w hw => ?_, quiet_tagged hframe⟩
    · rw [tagNew_bob, disableBob_bob h, if_pos rfl]
    · rw [tagNew_bob, disableBob_bob h, if_neg (Ne.symm hw)]
  · rw [disableBob_idle hen hstop] at hexec
    exact ⟨_, hexec, tagNew_bob _ s s, quiet_tagged (fun p _ => by cases p <;> rfl)⟩

/-! ## ENABLE -/

/-- The registers below those of the skeins read alike. -/
structure SameLowRegs (s t : State) : Prop where
  getReg : ∀ a, a < regOff 5 0 0 → t.getReg a = s.getReg a

theorem SameLowRegs.trans {s t u : State} (h : SameLowRegs s t) (k : SameLowRegs t u) : SameLowRegs s u :=
  ⟨fun a ha => (k.getReg a ha).trans (h.getReg a ha)⟩

theorem SameLowRegs.of_reg {s t : State} (h : t.reg = s.reg) : SameLowRegs s t := ⟨fun a _ => by
  unfold State.getReg
  rw [h]⟩

theorem sameLowRegs_count (k o n : Nat) (s : State) : SameLowRegs s (s.count (rSkn k o) n) := ⟨fun a ha => by
  refine getReg_count_ne ?_ n s
  unfold rSkn regOff at *
  omega⟩

theorem sameLowRegs_sendMsg (m : Msg) (c : Option Nat) (s : State) : SameLowRegs s (sendMsg m c s) :=
  .of_reg (sendMsg_unchanged m c s .reg (by decide))

theorem sameLowRegs_errorResponse (who : BitVec 16) (f : Byte) (a : Nat) (kind : Byte) (s : State) :
    SameLowRegs s (errorResponse who f a kind s) := by
  unfold errorResponse
  split
  · exact (sameLowRegs_count _ _ 1 s).trans (sameLowRegs_sendMsg ..)
  · exact sameLowRegs_sendMsg ..

theorem sameLowRegs_bucketAdd (k c a : Nat) (s : State) : SameLowRegs s (bucketAdd k c a s) := by
  unfold bucketAdd
  extract_lets sk from_ level full up sk1
  split
  · exact (SameLowRegs.of_reg (s := s) (t := s.setSkein k sk1) rfl).trans ((sameLowRegs_sendMsg ..).trans (sameLowRegs_count ..))
  · exact .of_reg rfl

theorem sameLowRegs_repairSector (sec : Nat) (s : State) : SameLowRegs s (repairSector sec s) := by
  have h : Unchanged [.mem, .errs] s ((s.setBytes (sec * 32) ((deliver s sec).map (·.val))).writeErr sec []) :=
    unchanged_of_mask (by simp [pieces])
  exact (SameLowRegs.of_reg (h .reg (by decide))).trans (sameLowRegs_count ..)

theorem sameLowRegs_uncorrectable (kind : Byte) (k sec : Nat) (s : State) : SameLowRegs s (uncorrectable kind k sec s) := by
  unfold uncorrectable
  extract_lets s1
  have hcount : SameLowRegs s s1 := sameLowRegs_count ..
  have hset : SameLowRegs s1 (s1.setSkein k { s1.skein k with ueAddr := BitVec.ofNat 48 (sec * 32) }) := .of_reg rfl
  exact (hcount.trans hset).trans (sameLowRegs_sendMsg ..)

/-- What reading a sector does counts in registers of skeins alone. -/
theorem sameLowRegs_touchRead (who : BitVec 16) (f : Byte) (sec : Nat) (s : State) : SameLowRegs s (touchRead who f sec s) := by
  unfold touchRead
  dsimp only
  split
  · exact sameLowRegs_errorResponse ..
  · split
    · exact .of_reg rfl
    · exact ((sameLowRegs_count _ _ 1 s).trans (sameLowRegs_bucketAdd ..)).trans (sameLowRegs_repairSector ..)
    · exact sameLowRegs_count ..
    · exact sameLowRegs_uncorrectable ..

theorem sameLowRegs_touchReads (who : BitVec 16) (f : Byte) (secs : List Nat) (s : State) :
    SameLowRegs s (touchReads who f secs s) := by
  unfold touchReads
  induction distinct secs generalizing s with
  | nil => exact .of_reg rfl
  | cons x r ih => exact (sameLowRegs_touchRead who f x s).trans (ih _)

theorem SameLowRegs.cwinBase {s t : State} (h : SameLowRegs s t) : cwinBase t = cwinBase s := by
  unfold Machine.cwinBase base48
  rw [h.getReg _ (by decide), h.getReg _ (by decide)]

/-- The state in which a bobbin's table entry has been read, and the one in which its completion ring is zero. -/
def entryRead (b : Nat) (s : State) : State := touchReads srcBob 0 (sectorsOf (btabBase s + 32 * b) 32) s
def ringZeroed (b log2 : Nat) (s : State) : State := storeClean srcBob (cwinBase s + b * 0x2000) (List.replicate (32 * 2 ^ log2) 0) s

theorem enableBob_latches {b : Nat} {s : State} (h : (s.bob b).state = .disabled ∨ ((s.bob b).state = .stopped ∧ (s.bob b).outstanding = 0))
    (hpoison : rdPoison s (btabBase s + 32 * b) 32 = false) (hok : entryOk s (rdNat s (btabBase s + 32 * b) 32) = true) :
    enableBob b s = (ringZeroed b (parseEntry (rdNat s (btabBase s + 32 * b) 32)).cqLog2 (entryRead b s)).setBob b
      { state := .enabled, entry := parseEntry (rdNat s (btabBase s + 32 * b) 32) } := by
  unfold enableBob
  dsimp only
  rw [if_pos (by simpa using h), if_neg (by simp [hpoison, hok])]
  rfl

theorem enableBob_refused {b : Nat} {s : State}
    (h : ¬ ((s.bob b).state = .disabled ∨ ((s.bob b).state = .stopped ∧ (s.bob b).outstanding = 0))) :
    enableBob b s = faultBobbin kBOBBIN_CFG b s := if_neg (by simpa using h)

theorem ringZeroed_storedAs (b log2 : Nat) (s : State) :
    StoredAs ((List.range (32 * 2 ^ log2)).map (fun j => (cwinBase s + b * 0x2000 + j, {}))) s (ringZeroed b log2 s) := by
  have h := storeClean_storedAs srcBob (cwinBase s + b * 0x2000) (List.replicate (32 * 2 ^ log2) 0) s
  have hzero : ∀ j, (List.replicate (32 * 2 ^ log2) (0 : Byte)).getD j 0 = 0 := fun j => by
    simp only [List.getD_eq_getElem?_getD, List.getElem?_replicate]
    split <;> rfl
  simp only [hzero, List.length_replicate] at h
  exact h

/-- Settles O17. -/
theorem enableByR49 : Obligations.EnableByR49 := by
  intro b s hmgmt hctl
  have hwrite : writeDoorbell b.toNat 0x10 1 s = .done (enableBob b.toNat s) := rfl
  have hexec : exec (.enable b) s = .next (tagNew flagHost s (enableBob b.toNat s)) :=
    congrArg Host.Outcome.next (hostDoorbell_done hmgmt hctl (by decide) (by decide) hwrite)
  refine ⟨fun h hpoison hok => ?_, fun h => ?_⟩
  · rw [enableBob_latches h hpoison hok] at hexec
    generalize hentry : parseEntry (rdNat s (btabBase s + 32 * b.toNat) 32) = e at hexec ⊢
    have hread : Unchanged [.errs, .mem, .dst, .reg, .seqs, .skn] s (entryRead b.toNat s) :=
      unchanged_of_mask (by simp [entryRead, pieces])
    have hzero : Unchanged [.errs, .mem, .dst, .reg, .seqs, .skn] (entryRead b.toNat s) (ringZeroed b.toNat e.cqLog2 (entryRead b.toNat s)) :=
      unchanged_of_mask (by simp [ringZeroed, pieces])
    have hstored := ringZeroed_storedAs b.toNat e.cqLog2 (entryRead b.toNat s)
    have hintact : ∀ a, Intact s a → Intact (ringZeroed b.toNat e.cqLog2 (entryRead b.toNat s)) a := fun a ha =>
      storeClean_intact (((sameData_touchReads ..).intact a).mpr ha) ..
    have hlow : SameLowRegs s (entryRead b.toNat s) := sameLowRegs_touchReads ..
    rw [hlow.cwinBase] at hstored
    generalize ringZeroed b.toNat e.cqLog2 (entryRead b.toNat s) = z at *
    have hboth := hread.trans hzero (n := [.errs, .mem, .dst, .reg, .seqs, .skn]) (by decide) (by decide)
    have hset : Unchanged [.bobs] z (z.setBob b.toNat { state := .enabled, entry := e }) := unchanged_of_mask (by simp [pieces])
    have htag := hset.trans (tagNew_unchanged flagHost s _) (n := [.bobs, .dst]) (by decide) (by decide)
    refine ⟨_, hexec, by rw [tagNew_bob, State.bob_setBob, if_pos rfl], fun w hw => ?_, ?_, hboth.trans htag (by decide) (by decide)⟩
    · rw [tagNew_bob, State.bob_setBob, if_neg (Ne.symm hw), bob_of_bobs (hboth .bobs (by decide))]
    · exact storedAs_right (storedAs_left (sameData_touchReads ..) hstored) hintact (.of_unchanged htag (by decide))
  · rw [enableBob_refused h] at hexec
    exact ⟨_, hexec, sent_faultBobbin _ _ rfl,
      (faultBobbin_unchanged kBOBBIN_CFG b.toNat s).trans (tagNew_unchanged _ s _) (by decide) (by decide)⟩

end Sys2Proof.Machine
end

section
/-! SUPPORT. The reset of a context whose waiting PHASE_CLOSE came from a bobbin of another context (R81, R291). -/

namespace Sys2Proof.Machine

/-- The PHASE_CLOSE that waits: command 0 of bobbin 1. -/
def strayClose : Issued := { id := 0, bobbin := 1, seq := 0, addr := 0, cmd := 0 }

/-- Context 0 holds a PHASE_CLOSE of bobbin 1, which belongs to context 5; a replay of context 5 is armed to stop at that command. -/
def strayCloseS : State :=
  { State.reset with
    pkg := { State.reset.pkg with power := .on, resetLow := false }
    ndy := { State.reset.ndy with phase := .placed }
    gate := State.reset.gate ||| (1 <<< vecCtl)
    bobs := [(0, { outstanding := 1 }), (1, { entry := { ctx := 5 } })]
    ctxs := [(0, { closer := some (strayClose, 0) })]
    trns := [(5, { armed := true, caps := [{ bobbin := 1, en := true, seq := 0 }] })] }

theorem strayCloseS_answers : mgmtRuns strayCloseS = true ∧ blockGated strayCloseS (rBob 0x1C) = false
    ∧ ctxOutstanding strayCloseS 0 = (if (strayCloseS.ctx 0).closer.isSome then 1 else 0) := by decide +kernel

/-- The record of the PHASE_CLOSE stops the replay of context 5, which was not held before. -/
theorem strayCloseS_holds : (strayCloseS.trn 5).held = false
    ∧ (match exec (.ctxReset 0) strayCloseS with | .next t => (t.trn 5).held | _ => false) = true := by decide +kernel

/-- Refutes O22: the PHASE_CLOSE that the reset completes names a bobbin of another context, whose replay stops at it. -/
theorem not_counterWritesAndContextReset : ¬ Obligations.CounterWritesAndContextReset := by
  unfold Obligations.CounterWritesAndContextReset
  rintro ⟨-, hreset⟩
  obtain ⟨hmgmt, hgate, hwaits⟩ := strayCloseS_answers
  obtain ⟨hfree, hheld⟩ := strayCloseS_holds
  obtain ⟨t, hexec, -, -, -, -, -, -, -, -, hothers, -⟩ := (hreset 0 strayCloseS hmgmt hgate).1 hwaits
  have hkept : t.trn 5 = strayCloseS.trn 5 := (hothers 5 (by decide)).2
  rw [hexec] at hheld
  have hnow : (t.trn 5).held = true := hheld
  rw [hkept, hfree] at hnow
  exact Bool.false_ne_true hnow

end Sys2Proof.Machine
end

section
/-! SUPPORT. Events of the carders, of the spare spindle and of the plying watch (R141, R230, R311, R412). -/

namespace Sys2Proof.Machine

/-! ## READY_INCREMENT -/

theorem State.barrier_incBarrier (s : State) (i j : Nat) : (s.incBarrier i).barrier j = if i = j then s.barrier i + 1 else s.barrier j :=
  State.barrier_setBarrier s i j (s.barrier i + 1)

theorem incBarrier_unchanged (i : Nat) (s : State) : Unchanged [.barriers, .barrierAt] s (s.incBarrier i) :=
  unchanged_of_mask (by simp [pieces])

theorem setCrd_unchanged (k : Nat) (x : Crd) (s : State) : Unchanged [.crds] s (s.setCrd k x) := unchanged_of_mask (by simp [pieces])

theorem execReadyIncrement_takes {k : BitVec 5} {s : State} {i : Nat} {r : List Nat} (hctl : ctlRuns s = true)
    (hincs : (s.crd k.toNat).incs = i :: r) :
    exec (.readyIncrement k) s = .next ((s.setCrd k.toNat { s.crd k.toNat with incs := r }).incBarrier i) := by
  show execReadyIncrement k s = _
  unfold execReadyIncrement
  unfold State.crd at hincs
  dsimp only
  rw [hincs]
  exact if_pos hctl

/-! ## The spare spindle -/

theorem State.epoch_bumpEpoch (s : State) (u w : Nat) :
    (s.bumpEpoch u).epoch w = if u = w ∧ s.ready = true then s.epoch w + 1 else s.epoch w := by
  unfold State.bumpEpoch
  by_cases hr : s.ready = true
  · rw [if_pos hr]
    unfold State.epoch
    dsimp only
    rw [mget_mput]
    by_cases h : u = w
    · rw [if_pos h, if_pos ⟨h, hr⟩, h]
    · rw [if_neg h, if_neg (fun e => h e.1)]
  · rw [if_neg hr, if_neg (fun e => hr e.2)]

theorem bumpEpoch_unchanged (u : Nat) (s : State) : Unchanged [.epochs] s (s.bumpEpoch u) := unchanged_of_mask (by simp [pieces])

theorem gateOn_unchanged (v : Nat) (s : State) : Unchanged [.gate, .pend] s (gateOn v s) := unchanged_of_mask (by simp [pieces])

/-- Behind the new map in force, storing it is only its write-through. -/
theorem storeSpare_unchanged (m : BitVec 5) (s : State) :
    Unchanged [.free, .dst, .seqs, .rwp, .wear, .nvm, .ndy] { s with spare := m, spareReq := none } (storeSpare m s) := by
  apply unchanged_of_mask
  unfold storeSpare
  dsimp only
  split <;> simp [pieces]

/-- The place that serves under the map `m`: spindle 16 where the map is ACTIVE, else the position's own. -/
def servingPlace (m : BitVec 5) : Nat := if m.getLsbD 4 then 16 else m.toNat % 16

theorem servingPlace_lt (m : BitVec 5) : servingPlace m < 128 := by
  unfold servingPlace
  split <;> omega

/-- What a swap does to the units before it stores the map: the spindle that served is left with its command and, at a return, gated off;
the spindle that will serve is cleared. -/
def swapCleared (m : BitVec 5) (s : State) : State :=
  if m.getLsbD 4 then clearUnit 16 (leaveWith (m.toNat % 16) (m.toNat % 16) s)
  else clearUnit (m.toNat % 16) (leaveWith (m.toNat % 16) 16 (gateOff 16 s))

/-- The state in which the map is in force and the gate of the place that serves is open; the position's epoch has yet to rise. -/
def swapOpened (m : BitVec 5) (s : State) : State := gateOn (servingPlace m) (storeSpare m (swapCleared m s))

theorem swapOpened_unchanged (m : BitVec 5) (s : State) :
    Unchanged [.free, .reg, .skn, .dst, .gate, .pend, .spare, .spareReq, .reports, .seqs, .rwp, .wear, .spn, .fly, .qps, .prts, .crds, .nvm, .ndy]
      s (swapOpened m s) := by
  apply unchanged_of_mask
  unfold swapOpened swapCleared
  split <;> simp [pieces]

/-- Both directions end alike: the map is stored, the gate of the place that serves opens, the position's epoch rises. -/
theorem swapSpare_eq {s : State} {m : BitVec 5} {w : Nat} (h : s.spareReq = some (m, w)) :
    swapSpare s = (swapOpened m s).bumpEpoch (m.toNat % 16) := by
  unfold swapSpare swapOpened servingPlace swapCleared
  rw [h]
  dsimp only
  split <;> rfl

theorem execSpareSwapTimeout_swaps {s : State} {m : BitVec 5} {w : Nat} (h : s.spareReq = some (m, w)) (hwall : 32500000 ≤ s.wall - w) :
    exec .spareSwapTimeout s = .next (swapSpare s) := by
  show execSpareSwapTimeout s = _
  unfold execSpareSwapTimeout
  rw [h]
  exact congrArg _ (if_pos hwall)

section
variable {s : State} {m : BitVec 5} {w : Nat}

theorem swapSpare_unchanged (h : s.spareReq = some (m, w)) :
    Unchanged [.free, .reg, .skn, .dst, .gate, .pend, .spare, .spareReq, .epochs, .reports, .seqs, .rwp, .wear, .spn, .fly, .qps, .prts,
      .crds, .nvm, .ndy] s (swapSpare s) := by
  rw [swapSpare_eq h]
  exact (swapOpened_unchanged m s).trans (bumpEpoch_unchanged _ _) (by decide) (by decide)

theorem swapSpare_map (h : s.spareReq = some (m, w)) : (swapSpare s).spare = m ∧ (swapSpare s).spareReq = none := by
  have hstored : Unchanged [.free, .dst, .seqs, .rwp, .wear, .nvm, .ndy, .gate, .pend, .epochs]
      { swapCleared m s with spare := m, spareReq := none } (swapSpare s) := by
    rw [swapSpare_eq h]
    exact (storeSpare_unchanged m _).trans ((gateOn_unchanged _ _).trans (bumpEpoch_unchanged _ _) (n := [.gate, .pend, .epochs])
      (by decide) (by decide)) (by decide) (by decide)
  exact ⟨hstored .spare (by decide), hstored .spareReq (by decide)⟩

theorem swapSpare_epoch (h : s.spareReq = some (m, w)) (u : Nat) :
    (swapSpare s).epoch u = if m.toNat % 16 = u ∧ s.ready = true then s.epoch u + 1 else s.epoch u := by
  have hready : (swapOpened m s).ready = s.ready := swapOpened_unchanged m s .ready (by decide)
  have hepochs : (swapOpened m s).epochs = s.epochs := swapOpened_unchanged m s .epochs (by decide)
  rw [swapSpare_eq h, State.epoch_bumpEpoch, hready]
  unfold State.epoch
  rw [hepochs]

theorem swapSpare_gate (h : s.spareReq = some (m, w)) : (swapSpare s).gate.getLsbD (servingPlace m) = true := by
  have hbump : (swapSpare s).gate = (swapOpened m s).gate := by
    rw [swapSpare_eq h]
    exact bumpEpoch_unchanged _ _ .gate (by decide)
  rw [hbump]
  exact (getLsbD_setBit _ _ _ _ (servingPlace_lt m)).trans (if_pos rfl)

end

/-! ## PLY_WATCH_EXPIRY -/

/-- The command as its first fault leaves it. -/
def PlyCmd.faulted (c : PlyCmd) : PlyCmd := { c with charged := true }

/-- Setting the faulted form of a command in a list changes no command with another number. -/
theorem filter_map_faulted (c : PlyCmd) (l : List PlyCmd) :
    (l.map (fun d => if d.is.id = c.is.id then c.faulted else d)).filter (fun d => d.is.id ≠ c.is.id)
      = l.filter (fun d => d.is.id ≠ c.is.id) := by
  induction l with
  | nil => rfl
  | cons d l ih =>
    by_cases h : d.is.id = c.is.id
    · simpa [h, PlyCmd.faulted] using ih
    · simpa [h] using ih

theorem find_map_faulted {c : PlyCmd} (l : List PlyCmd) (h : l.find? (fun d => d.is.id = c.is.id) = some c) :
    (l.map (fun d => if d.is.id = c.is.id then c.faulted else d)).find? (fun d => d.is.id = c.is.id) = some c.faulted := by
  induction l with
  | nil => cases h
  | cons d l ih =>
    by_cases hd : d.is.id = c.is.id
    · simp [hd, PlyCmd.faulted]
    · simp only [List.find?_cons, hd, decide_false] at h
      simpa [hd] using ih h

theorem State.plyCmd_of_ply {s t : State} (h : t.ply = s.ply) (id : Nat) : t.plyCmd id = s.plyCmd id := by
  unfold State.plyCmd
  rw [h]

theorem plyFault_unchanged (id : Nat) (f : Flt) (s : State) : Unchanged [.dst, .seqs, .ply] s (plyFault id f s) :=
  unchanged_of_mask (by simp [pieces])

theorem plyAbandon_unchanged (id : Nat) (s : State) : Unchanged [.reports, .qps, .ply] s (plyAbandon id s) :=
  unchanged_of_mask (by simp [pieces])

section
variable {s : State} {c : PlyCmd}

/-- A fault against an active command leaves it charged, and the other active commands as they were. -/
theorem plyFault_charges (f : Flt) (h : s.plyCmd c.is.id = some c) :
    (plyFault c.is.id f s).plyCmd c.is.id = some c.faulted
      ∧ (plyFault c.is.id f s).ply.filter (fun d => d.is.id ≠ c.is.id) = s.ply.filter (fun d => d.is.id ≠ c.is.id) := by
  unfold plyFault
  rw [h]
  dsimp only
  split
  · next hc =>
    have hsame : c.faulted = c := by unfold PlyCmd.faulted; rw [← hc]
    have hplain : Unchanged [.dst] s (faultPlain srcPly f s) := sendMsg_uncharged_unchanged _ s
    have hply : (faultPlain srcPly f s).ply = s.ply := hplain .ply (by decide)
    rw [State.plyCmd_of_ply hply, hply, hsame]
    exact ⟨h, rfl⟩
  · have hcharged : Unchanged [.dst, .seqs] s (faultCharged srcPly f c.is.id s) := unchanged_of_mask (by simp [pieces])
    have hply : ((faultCharged srcPly f c.is.id s).setPly c.faulted).ply
        = s.ply.map (fun d => if d.is.id = c.is.id then c.faulted else d) :=
      congrArg (List.map _) (hcharged .ply (by decide))
    exact ⟨(congrArg (List.find? _) hply).trans (find_map_faulted s.ply h),
      (congrArg (List.filter _) hply).trans (filter_map_faulted c s.ply)⟩

/-- The report that tells of an abandoned command. -/
def abandonReport (c : PlyCmd) (s : State) : Report :=
  { is := c.is, unit := 52, status := stERROR, errKind := kindABANDONED, oobReads := min c.oobReads 4294967295,
    oobWrites := min c.oobWrites 4294967295, aux := BitVec.ofNat 32 (min (plyAux c s) 4294967295), charged := c.charged, ran := true
    lovf := c.overflow, lcsum := c.checksum }

theorem plyAbandon_ends {id : Nat} (h : s.plyCmd id = some c) :
    (plyAbandon id s).reports = s.reports ++ [abandonReport c s]
      ∧ (plyAbandon id s).ply = s.ply.filter (fun d => d.is.id ≠ c.is.id) := by
  unfold plyAbandon
  rw [h]
  exact ⟨rfl, rfl⟩

/-- The fault of a silent peer: the lowest rank that still owes the command something. -/
def silentPeer (c : PlyCmd) (s : State) : Flt :=
  { kind := kPEER_SILENT
    addr := cCtx c.is.cmd + lowestRank (if (plyNeeds c).isEmpty then plyUnacked c s else plyNeeds c) * 2 ^ 12
    param := true }

/-- The fault is sent and counted. -/
def watchFaulted (c : PlyCmd) (s : State) : State := (plyFault c.is.id (silentPeer c s) s).count (rPly 0x30) 1

theorem watchFaulted_unchanged : Unchanged [.reg, .dst, .seqs, .ply] s (watchFaulted c s) :=
  (plyFault_unchanged c.is.id (silentPeer c s) s).trans (count_unchanged _ _ _) (by decide) (by decide)

theorem watchFaulted_charges (h : s.plyCmd c.is.id = some c) :
    (watchFaulted c s).plyCmd c.is.id = some c.faulted
      ∧ (watchFaulted c s).ply.filter (fun d => d.is.id ≠ c.is.id) = s.ply.filter (fun d => d.is.id ≠ c.is.id) := by
  have hply : (watchFaulted c s).ply = (plyFault c.is.id (silentPeer c s) s).ply := count_unchanged _ _ _ .ply (by decide)
  rw [State.plyCmd_of_ply hply, hply]
  exact plyFault_charges (silentPeer c s) h

theorem execPlyWatchExpiry_abandons {j : BitVec 2} (hj : s.ply[j.toNat]? = some c) (hwd : s.getReg (rBob 0x210) ≠ 0)
    (hsince : c.since + (s.getReg (rBob 0x210)).toNat ≤ s.wall) (hwaits : plyWaits c s = true) :
    exec (.plyWatchExpiry j) s = .next (plyAbandon c.is.id (watchFaulted c s)) := by
  have hwd' : (s.getReg (rBob 0x210)).toNat ≠ 0 := fun e => hwd (BitVec.eq_of_toNat_eq e)
  have hexpired : (decide ((s.getReg (rBob 0x210)).toNat ≠ 0) && decide (c.since + (s.getReg (rBob 0x210)).toNat ≤ s.wall)
      && plyWaits c s) = true := by
    rw [decide_eq_true hwd', decide_eq_true hsince, hwaits]
    rfl
  show execPlyWatchExpiry j s = _
  unfold execPlyWatchExpiry
  dsimp only
  rw [hj]
  exact congrArg _ (if_pos hexpired)

end

/-! ## The obligation -/

/-- Settles O21, clause by clause: an increment at its counter, the two directions of the swap by the place that serves, and the silent
peer's fault that charges the command before it is abandoned. -/
theorem readyIncrementsSwapAndWatch : Obligations.ReadyIncrementsSwapAndWatch := by
  unfold Obligations.ReadyIncrementsSwapAndWatch
  refine ⟨fun k s i r hctl hincs => ?_, fun s m w hreq hwall => ?_, fun j c s hj hcmd hwd hsince hwaits => ?_⟩
  · have hinc := incBarrier_unchanged i (s.setCrd k.toNat { s.crd k.toNat with incs := r })
    have hcrd (n : Nat) := crd_of_crds (hinc .crds (by decide)) n
    refine ⟨_, execReadyIncrement_takes hctl hincs, ?_, fun n hn => ?_, ?_, fun n hn => ?_,
      (setCrd_unchanged _ _ s).trans hinc (by decide) (by decide)⟩
    · rw [hcrd, setCrd_crd, if_pos rfl]
    · rw [hcrd, setCrd_crd, if_neg (Ne.symm hn)]
    · rw [State.barrier_incBarrier, if_pos rfl]
      rfl
    · rw [State.barrier_incBarrier, if_neg (Ne.symm hn)]
      rfl
  · obtain ⟨hmap, hnone⟩ := swapSpare_map hreq
    refine ⟨_, execSpareSwapTimeout_swaps hreq hwall, hmap, hnone, ?_, fun u hu => ?_, swapSpare_gate hreq, swapSpare_unchanged hreq⟩
    · rw [swapSpare_epoch hreq]
      simp only [true_and]
    · rw [swapSpare_epoch hreq, if_neg (fun e => hu e.1.symm)]
  · obtain ⟨hfaulted, hrest⟩ := watchFaulted_charges hcmd
    obtain ⟨hreports, hply⟩ := plyAbandon_ends hfaulted
    have hkept := watchFaulted_unchanged (s := s) (c := c)
    refine ⟨_, abandonReport c.faulted (watchFaulted c s), execPlyWatchExpiry_abandons hj hwd hsince hwaits, ?_, rfl, rfl, rfl, rfl, rfl,
      hply.trans hrest, hkept.trans (plyAbandon_unchanged _ _) (by decide) (by decide)⟩
    rw [hreports, hkept .reports (by decide)]

end Sys2Proof.Machine
end

section
/-! SUPPORT. The loader (R162 to R165): how it takes up an IMAGE_START, what an accepted load, a rejected load and an unload leave. -/

namespace Sys2Proof.Machine

theorem imgOf_of_imgState {s t : State} (h : t.imgState = s.imgState) (c : Nat) : imgOf t c = imgOf s c := by
  unfold imgOf
  rw [h]

/-- The image states read where that of one context is stored. -/
theorem imgOf_of_mput {s : State} {m : AMap ImgState} {c : Nat} {x : ImgState} (h : s.imgState = mput m c x .none) (w : Nat) :
    imgOf s w = if c = w then x else mget m w .none := by
  unfold imgOf
  rw [h, mget_mput]

/-! ## The next IMAGE_START is taken up -/

theorem beginLoad_unchanged (s : State) : Unchanged [.imgState, .loadCtx] s (beginLoad s) := unchanged_of_mask (by simp [pieces])

theorem beginLoad_idle {s : State} (h : s.loading = []) : beginLoad s = s := by
  unfold beginLoad
  rw [h]

/-- A load leaves NONE for LOADING. -/
theorem beginLoad_begins {s : State} {i : Issued} {l : List Issued} (hl : s.loading = i :: l) (hd : cD i.cmd 0 ≠ 0)
    (hi : imgOf s (cCtx i.cmd) = .none) : imgOf (beginLoad s) (cCtx i.cmd) = .loading := by
  unfold beginLoad
  rw [hl]
  simp only [hd, hi, if_false, decide_true, Bool.true_or, if_true]
  exact (imgOf_of_mput rfl _).trans (if_pos rfl)

/-- A load that begins leaves a LOADED image as it is. -/
theorem beginLoad_loaded {s : State} {c : Nat} (h : imgOf s c = .loaded) : imgOf (beginLoad s) c = .loaded := by
  unfold beginLoad
  split
  · exact h
  · next i _ _ =>
    dsimp only
    split
    · exact h
    · split
      · next hfree =>
        have hne : cCtx i.cmd ≠ c := fun e => by simp [e, h] at hfree
        exact (imgOf_of_mput (x := .loading) rfl c).trans ((if_neg hne).trans h)
      · exact h

theorem nextLoad_unchanged (s : State) : Unchanged [.loading, .imgState, .loadCtx] s (nextLoad s) := unchanged_of_mask (by simp [pieces])

theorem nextLoad_loading {s : State} {i : Issued} {l : List Issued} (h : s.loading = i :: l) : (nextLoad s).loading = l := by
  have hdrop : (nextLoad s).loading = s.loading.drop 1 := beginLoad_unchanged _ .loading (by decide)
  rw [hdrop, h]
  rfl

/-- With none behind the command in hand, the loader begins none. -/
theorem nextLoad_last_imgState {s : State} {i : Issued} (h : s.loading = [i]) : (nextLoad s).imgState = s.imgState := by
  unfold nextLoad
  rw [beginLoad_idle (by rw [h]; rfl)]

theorem nextLoad_loaded {s : State} {c : Nat} (h : imgOf s c = .loaded) : imgOf (nextLoad s) c = .loaded := beginLoad_loaded h

/-! ## IMAGE_START -/

theorem holdLoad_loading (i : Issued) (s : State) : (holdLoad i s).loading = s.loading ++ [i] := by
  unfold holdLoad
  dsimp only
  split
  · exact beginLoad_unchanged _ .loading (by decide)
  · rfl

/-- Where the loader holds one already, an IMAGE_START only waits. -/
theorem holdLoad_waits_unchanged {i : Issued} {s : State} (h : s.loading ≠ []) : Unchanged [.loading] s (holdLoad i s) := by
  have hwaits : holdLoad i s = { s with loading := s.loading ++ [i] } := if_neg (by simpa using h)
  rw [hwaits]
  exact unchanged_of_mask (by simp [State.mask, pieces])

theorem holdLoad_begins {i : Issued} {s : State} (h : s.loading = []) (hd : cD i.cmd 0 ≠ 0) (hi : imgOf s (cCtx i.cmd) = .none) :
    imgOf (holdLoad i s) (cCtx i.cmd) = .loading := by
  have hidle : holdLoad i s = beginLoad { s with loading := s.loading ++ [i] } := if_pos (by simp [h])
  rw [hidle]
  exact beginLoad_begins (l := []) (by rw [h]; rfl) hd hi

theorem holdLoad_unchanged (i : Issued) (s : State) : Unchanged [.imgState, .loading, .loadCtx] s (holdLoad i s) :=
  unchanged_of_mask (by simp [pieces])

theorem execImageStart_runs {b : Bobbin} {i : Issued} {s : State} (hctl : ctlRuns s = true) (ht : loadTurn s b = true)
    (hi : schedFront s b.toNat opIMAGE_START = some i) : exec (.imageStart b) s = .next (holdLoad i (dropSched i.id s)) := by
  show execImageStart b s = _
  unfold execImageStart
  rw [if_pos ht, runSched_front hi hctl]

/-! ## A completion of the loader -/

theorem closer_of_unchanged {ps : List Piece} {s t : State} {b : Nat} (h : Unchanged ps s t) (hb : Piece.bobs ∉ ps)
    (hc : Piece.ctxs ∉ ps) (hcl : (s.ctx (bobCtx s b)).closer = none) : (t.ctx (bobCtx t b)).closer = none := by
  rw [bobCtx_of_bobs (h _ hb), ctx_of_ctxs (h _ hc), hcl]

/-- The IMAGE_START in hand completes, and the next one is taken up. -/
def loaderDone (i : Issued) (s : State) : State := nextLoad (complete { is := i, status := stOK } s)

section
variable {i : Issued} {s : State} (hcl : (s.ctx (bobCtx s i.bobbin.toNat)).closer = none)
include hcl

theorem complete_keeps_loader :
    (complete { is := i, status := stOK } s).loading = s.loading ∧ (complete { is := i, status := stOK } s).imgState = s.imgState :=
  have hcomp := complete_unchanged (d := { is := i, status := stOK }) hcl
  ⟨hcomp .loading (by decide), hcomp .imgState (by decide)⟩

/-- The IMAGE_START in hand leaves the loader's queue, and its bobbin's TAIL rises. -/
theorem loaderDone_completes {l : List Issued} (hl : s.loading = i :: l) :
    (loaderDone i s).loading = l ∧ ((loaderDone i s).bob i.bobbin.toNat).tail = (s.bob i.bobbin.toNat).tail + 1 := by
  have hbobs : (loaderDone i s).bobs = (complete { is := i, status := stOK } s).bobs := nextLoad_unchanged _ .bobs (by decide)
  refine ⟨nextLoad_loading ((complete_keeps_loader hcl).1.trans hl), ?_⟩
  rw [bob_of_bobs hbobs]
  exact (completed_complete (d := { is := i, status := stOK }) hcl).tail

theorem loaderDone_unchanged :
    Unchanged [.loading, .imgState, .loadCtx, .reg, .mem, .errs, .skn, .dst, .bobs, .barriers, .barrierAt, .holds, .seqs, .trns, .ctxs]
      s (loaderDone i s) :=
  (complete_unchanged (d := { is := i, status := stOK }) hcl).trans (nextLoad_unchanged _) (by decide) (by decide)

theorem loaderDone_loaded {c : Nat} (h : imgOf s c = .loaded) : imgOf (loaderDone i s) c = .loaded :=
  nextLoad_loaded ((imgOf_of_imgState (complete_keeps_loader hcl).2 c).trans h)

/-- With none behind the command in hand, every context's image keeps its state. -/
theorem loaderDone_last (hl : s.loading = [i]) (c : Nat) : imgOf (loaderDone i s) c = imgOf s c := by
  obtain ⟨hqueue, hstates⟩ := complete_keeps_loader hcl
  exact imgOf_of_imgState ((nextLoad_last_imgState (hqueue.trans hl)).trans hstates) c

end

/-! ## IMAGE_LOAD_COMPLETE -/

/-- The state after the reads of a load that ends. -/
def loadRead (i : Issued) (s : State) : State :=
  let d := readImage s (cCtx i.cmd) (cD i.cmd 0)
  unitReads srcBob (imageSectors d ++ descReads s d (checkImage s d)) s

/-- The state in which an accepted IMAGE_START completes: the image `d` is installed. -/
def installed (i : Issued) (d : ImgData) (s : State) : State :=
  { s with loadResult := 0, loadAddr := 0, images := mset s.images (cCtx i.cmd) (imageOf d)
           imgState := mput s.imgState (cCtx i.cmd) .loaded .none }.count (rBob 0x80) 1

theorem loadRead_unchanged (i : Issued) (s : State) : Unchanged [.reg, .mem, .errs, .skn, .dst, .seqs] s (loadRead i s) :=
  unchanged_of_mask (by unfold loadRead; simp [pieces])

theorem loadRead_sameData (i : Issued) (s : State) : SameData s (loadRead i s) := sameData_unitReads ..

section
variable {i : Issued} {l : List Issued} {s : State}

theorem execImageLoadComplete_accepts (hctl : ctlRuns s = true) (hl : s.loading = i :: l) (hd : cD i.cmd 0 ≠ 0)
    (hok : checkImage s (readImage s (cCtx i.cmd) (cD i.cmd 0)) = .ok ()) :
    exec .imageLoadComplete s = .next (loaderDone i (installed i (readImage s (cCtx i.cmd) (cD i.cmd 0)) (loadRead i s))) := by
  show execImageLoadComplete s = _
  unfold execImageLoadComplete loadRead
  rw [hl]
  dsimp only
  rw [if_pos (by simp [hctl, hd]), hok]
  rfl

theorem execImageLoadComplete_rejects {f : LoadFail} (hctl : ctlRuns s = true) (hl : s.loading = i :: l) (hd : cD i.cmd 0 ≠ 0)
    (hfail : checkImage s (readImage s (cCtx i.cmd) (cD i.cmd 0)) = .error f) :
    exec .imageLoadComplete s = .next (nextLoad (rejectLoad i f (loadRead i s))) := by
  show execImageLoadComplete s = _
  unfold execImageLoadComplete loadRead
  rw [hl]
  simp [hctl, hd, hfail]

end

theorem installed_unchanged (i : Issued) (d : ImgData) (s : State) :
    Unchanged [.images, .imgState, .loadResult, .loadAddr, .reg] s (installed i d s) :=
  unchanged_of_mask (by unfold installed; rw [State.count_mask _ _ _ (by decide)]; simp [State.mask, pieces])

section
variable (i : Issued) (d : ImgData) (s : State)

theorem installed_image (c : Nat) :
    mfind (installed i d s).images c = if cCtx i.cmd = c then some (imageOf d) else mfind s.images c := mfind_mset ..

theorem installed_loaded : imgOf (installed i d s) (cCtx i.cmd) = .loaded :=
  (imgOf_of_mput rfl _).trans (if_pos rfl)

end

/-- The result word of a failed check, which is also the AUX of its report (R162). -/
abbrev LoadFail.word (f : LoadFail) : Word := BitVec.ofNat 32 (f.reason + 256 * f.item)

/-- The report of a rejected load. -/
abbrev rejectReport (i : Issued) (f : LoadFail) : Report :=
  { is := i, unit := unitSched, status := stREJECTED, charged := true, aux := f.word }

/-- The state of a rejected load before its fault and its report. -/
def rejectNoted (i : Issued) (f : LoadFail) (s : State) : State :=
  { s with loadResult := f.word, loadAddr := BitVec.ofNat 48 f.addr
           imgState := if imgOf s (cCtx i.cmd) = .loaded then s.imgState else mput s.imgState (cCtx i.cmd) .rejected .none : State }.count
    (rBob 0x84) 1

theorem rejectNoted_unchanged (i : Issued) (f : LoadFail) (s : State) :
    Unchanged [.imgState, .loadResult, .loadAddr, .reg] s (rejectNoted i f s) :=
  unchanged_of_mask (by unfold rejectNoted; rw [State.count_mask _ _ _ (by decide)]; simp [State.mask, pieces])

theorem rejectLoad_after (i : Issued) (f : LoadFail) (s : State) :
    Unchanged [.dst, .seqs, .reports] (rejectNoted i f s) (rejectLoad i f s) :=
  unchanged_of_mask (by
    have heq : rejectLoad i f s = (faultCharged srcBob { kind := kPLAN_REJECT, addr := f.addr } i.id (rejectNoted i f s)).addReport
      (rejectReport i f) := rfl
    rw [heq]
    simp [pieces])

theorem rejectLoad_unchanged (i : Issued) (f : LoadFail) (s : State) :
    Unchanged [.imgState, .loadResult, .loadAddr, .reg, .dst, .seqs, .reports] s (rejectLoad i f s) :=
  (rejectNoted_unchanged i f s).trans (rejectLoad_after i f s) (by decide) (by decide)

theorem rejectLoad_imgState (i : Issued) (f : LoadFail) (s : State) :
    (rejectLoad i f s).imgState
      = if imgOf s (cCtx i.cmd) = .loaded then s.imgState else mput s.imgState (cCtx i.cmd) .rejected .none := by
  have hafter : (rejectLoad i f s).imgState = (rejectNoted i f s).imgState := rejectLoad_after i f s .imgState (by decide)
  rw [hafter]
  rfl

theorem rejectLoad_result (i : Issued) (f : LoadFail) (s : State) : (rejectLoad i f s).loadResult = f.word := by
  have hafter : (rejectLoad i f s).loadResult = (rejectNoted i f s).loadResult := rejectLoad_after i f s .loadResult (by decide)
  rw [hafter]
  rfl

theorem rejectLoad_reports (i : Issued) (f : LoadFail) (s : State) :
    (rejectLoad i f s).reports = s.reports ++ [rejectReport i f] := by
  have hsent : Unchanged [.dst, .seqs] (rejectNoted i f s)
      (faultCharged srcBob { kind := kPLAN_REJECT, addr := f.addr } i.id (rejectNoted i f s)) := sendMsg_unchanged _ _ _
  exact congrArg (· ++ [rejectReport i f]) (hsent .reports (by decide))

/-! ## IMAGE_UNLOAD -/

/-- The state in which the claims and the cached plan entries of a context's image are gone. -/
def claimsGone (c : Nat) (s : State) : State :=
  match mfind s.images c with
  | some m => dropPlans m (freeClaims m s)
  | none => s

/-- The state in which the context has no image; the internal frees and the training state have yet to follow. -/
def imageGone (c : Nat) (s : State) : State :=
  { claimsGone c s with images := mdel (claimsGone c s).images c, imgState := mput (claimsGone c s).imgState c .none .none }

theorem claimsGone_unchanged (c : Nat) (s : State) : Unchanged [.spn, .planCache] s (claimsGone c s) := by
  unfold claimsGone
  split <;> exact unchanged_of_mask (by simp [pieces])

theorem unloadCtx_after (c : Nat) (s : State) : Unchanged [.fly, .trns] (imageGone c s) (unloadCtx c s) := by
  have heq : unloadCtx c s = internalFrees c [0, 1, 2, 3] (trnUnload c (imageGone c s)) := rfl
  rw [heq]
  exact unchanged_of_mask (by simp [pieces])

theorem unloadCtx_unchanged (c : Nat) (s : State) :
    Unchanged [.images, .imgState, .planCache, .spn, .fly, .trns] s (unloadCtx c s) := unchanged_of_mask (by simp [pieces])

theorem unloadCtx_images (c : Nat) (s : State) (w : Nat) :
    mfind (unloadCtx c s).images w = if c = w then none else mfind s.images w := by
  have hgone : (unloadCtx c s).images = mdel (claimsGone c s).images c := unloadCtx_after c s .images (by decide)
  have hkept : (claimsGone c s).images = s.images := claimsGone_unchanged c s .images (by decide)
  rw [hgone, hkept, mfind_mdel]

theorem unloadCtx_imgOf (c : Nat) (s : State) (w : Nat) :
    imgOf (unloadCtx c s) w = if c = w then .none else imgOf s w := by
  have hgone : (unloadCtx c s).imgState = mput (claimsGone c s).imgState c .none .none := unloadCtx_after c s .imgState (by decide)
  have hkept : (claimsGone c s).imgState = s.imgState := claimsGone_unchanged c s .imgState (by decide)
  exact imgOf_of_mput (hkept ▸ hgone) w

theorem execImageUnload_unloads {i : Issued} {l : List Issued} {s : State} (hctl : ctlRuns s = true) (hl : s.loading = i :: l)
    (hd : cD i.cmd 0 = 0) (hfew : ctxOutstanding s (cCtx i.cmd) ≤ 1) :
    exec .imageUnload s = .next (loaderDone i (unloadCtx (cCtx i.cmd) s)) := by
  show execImageUnload s = _
  unfold execImageUnload
  rw [hl]
  dsimp only
  rw [if_pos (by simp [hctl, hd]), if_neg (Nat.not_lt.mpr hfew)]
  rfl

/-! ## The obligation -/

/-- Settles O20, clause by clause. In the second and the fourth, the completion on the state with the image installed or gone keeps the
images, and the next load that begins keeps a LOADED context and, where none waits, every context. -/
theorem imageCommandsRun : Obligations.ImageCommandsRun := by
  unfold Obligations.ImageCommandsRun
  refine ⟨fun b i s hctl ht hi => ?_, fun i l s hctl hl hd hok hcl => ?_, fun i l f s hctl hl hd hfail => ?_,
    fun i l s hctl hl hd hfew hcl => ?_⟩
  · have hdrop := dropSched_unchanged i.id s
    have hhold := holdLoad_unchanged i (dropSched i.id s)
    refine ⟨_, execImageStart_runs hctl ht hi, holdLoad_loading i _, hhold .sched (by decide),
      fun hidle hd hnone => holdLoad_begins hidle hd hnone, fun hbusy => ?_, hdrop.trans hhold (by decide) (by decide)⟩
    exact hdrop.trans (holdLoad_waits_unchanged (s := dropSched i.id s) hbusy) (by decide) (by decide)
  · have hexec := execImageLoadComplete_accepts hctl hl hd hok
    generalize readImage s (cCtx i.cmd) (cD i.cmd 0) = d at hexec ⊢
    have hread := loadRead_unchanged i s
    have hinst : Unchanged [.reg, .mem, .errs, .skn, .dst, .seqs, .images, .imgState, .loadResult, .loadAddr] s
        (installed i d (loadRead i s)) := hread.trans (installed_unchanged i d _) (by decide) (by decide)
    have hqueue : (installed i d (loadRead i s)).loading = s.loading := hinst .loading (by decide)
    have hcl1 := closer_of_unchanged hinst (by decide) (by decide) hcl
    have hdone := loaderDone_unchanged hcl1
    obtain ⟨hleft, htail⟩ := loaderDone_completes hcl1 (hqueue.trans hl)
    have himages : (loaderDone i (installed i d (loadRead i s))).images = (installed i d (loadRead i s)).images := hdone .images (by decide)
    have hkept : (loadRead i s).images = s.images := hread .images (by decide)
    refine ⟨_, hexec, hleft, ?_, loaderDone_loaded hcl1 (installed_loaded i d _), hdone .loadResult (by decide),
      hdone .loadAddr (by decide), fun c hc => ?_, ?_, hinst.trans hdone (by decide) (by decide)⟩
    · rw [himages, installed_image, if_pos rfl]
    · rw [himages, installed_image, if_neg (Ne.symm hc), hkept]
    · rw [htail, bob_of_bobs (hinst .bobs (by decide))]
  · have hread := loadRead_unchanged i s
    have hrej := hread.trans (rejectLoad_unchanged i f (loadRead i s))
      (n := [.mem, .errs, .skn, .imgState, .loadResult, .loadAddr, .reg, .dst, .seqs, .reports]) (by decide) (by decide)
    have hnext := nextLoad_unchanged (rejectLoad i f (loadRead i s))
    have hqueue : (rejectLoad i f (loadRead i s)).loading = s.loading := hrej .loading (by decide)
    have hstates : (loadRead i s).imgState = s.imgState := hread .imgState (by decide)
    have hkept : (loadRead i s).reports = s.reports := hread .reports (by decide)
    have hreports : (nextLoad (rejectLoad i f (loadRead i s))).reports = (rejectLoad i f (loadRead i s)).reports :=
      hnext .reports (by decide)
    have hresult : (nextLoad (rejectLoad i f (loadRead i s))).loadResult = (rejectLoad i f (loadRead i s)).loadResult :=
      hnext .loadResult (by decide)
    refine ⟨_, execImageLoadComplete_rejects hctl hl hd hfail, nextLoad_loading (hqueue.trans hl),
      (hrej.trans hnext (List.subset_append_left _ _) (List.subset_append_right _ _)) .images (by decide), fun hlast => ?_,
      hresult.trans (rejectLoad_result i f _), ?_, ?_, hrej.trans hnext (by decide) (by decide)⟩
    · rw [nextLoad_last_imgState (hqueue.trans (hlast ▸ hl)), rejectLoad_imgState, imgOf_of_imgState hstates, hstates]
    · rw [hreports, rejectLoad_reports, hkept]
    · have hrej_data : SameData (loadRead i s) (rejectLoad i f (loadRead i s)) := .of_unchanged (rejectLoad_unchanged i f _) (by decide)
      exact ((loadRead_sameData i s).trans (hrej_data.trans (.of_unchanged hnext (by decide)))).kept
  · have hgone := unloadCtx_unchanged (cCtx i.cmd) s
    have hqueue : (unloadCtx (cCtx i.cmd) s).loading = s.loading := hgone .loading (by decide)
    have hcl1 := closer_of_unchanged hgone (by decide) (by decide) hcl
    have hdone := loaderDone_unchanged hcl1
    obtain ⟨hleft, htail⟩ := loaderDone_completes hcl1 (hqueue.trans hl)
    have himages : (loaderDone i (unloadCtx (cCtx i.cmd) s)).images = (unloadCtx (cCtx i.cmd) s).images := hdone .images (by decide)
    have hstates (hlast : l = []) := loaderDone_last hcl1 (hqueue.trans (hlast ▸ hl))
    refine ⟨_, execImageUnload_unloads hctl hl hd hfew, hleft, ?_, fun hlast => ?_, fun c hc => ⟨?_, fun hlast => ?_⟩, ?_,
      hgone.trans hdone (by decide) (by decide)⟩
    · rw [himages, unloadCtx_images, if_pos rfl]
    · rw [hstates hlast, unloadCtx_imgOf, if_pos rfl]
    · rw [himages, unloadCtx_images, if_neg (Ne.symm hc)]
    · rw [hstates hlast, unloadCtx_imgOf, if_neg (Ne.symm hc)]
    · rw [htail, bob_of_bobs (hgone .bobs (by decide))]

end Sys2Proof.Machine
end

section
/-! SUPPORT. Fetches and write-backs of the carders (R225 to R227): what each step of one leaves of the carders, and what a packet
that is taken in leaves of memory. -/

namespace Sys2Proof.Machine

/-! ## What a step leaves of the carders -/

/-- No carder but `k` changes. -/
structure OnlyCarder (k : Nat) (s t : State) : Prop where
  crd : ∀ n, n ≠ k → t.crd n = s.crd n

/-- No carder but `k` changes, and that one keeps its list of misses: a step of its job. -/
structure OnlyJob (k : Nat) (s t : State) : Prop where
  others : OnlyCarder k s t
  fetches : (t.crd k).fetches = (s.crd k).fetches

/-- No carder but `k` changes, and no miss of that one into the slot of table entry `e` is queued any more. -/
structure Starts (k e : Nat) (s t : State) : Prop where
  others : OnlyCarder k s t
  queued : ∀ g ∈ (t.crd k).fetches, g.slotEnt = e → g.st ≠ .queued

theorem OnlyCarder.trans {k : Nat} {s t u : State} (h : OnlyCarder k s t) (h' : OnlyCarder k t u) : OnlyCarder k s u :=
  ⟨fun n hn => (h'.crd n hn).trans (h.crd n hn)⟩

theorem OnlyJob.trans {k : Nat} {s t u : State} (h : OnlyJob k s t) (h' : OnlyJob k t u) : OnlyJob k s u :=
  ⟨h.others.trans h'.others, h'.fetches.trans h.fetches⟩

theorem OnlyCarder.of_crds {s t : State} (h : t.crds = s.crds) (k : Nat) : OnlyCarder k s t := ⟨fun n _ => crd_of_crds h n⟩

theorem OnlyJob.of_crds {s t : State} (h : t.crds = s.crds) (k : Nat) : OnlyJob k s t :=
  ⟨.of_crds h k, congrArg Crd.fetches (crd_of_crds h k)⟩

theorem OnlyCarder.starts {k e : Nat} {s t u : State} (h : OnlyCarder k s t) (h' : Starts k e t u) : Starts k e s u :=
  ⟨h.trans h'.others, h'.queued⟩

theorem Starts.job {k e : Nat} {s t u : State} (h : Starts k e s t) (h' : OnlyJob k t u) : Starts k e s u :=
  ⟨h.others.trans h'.others, fun g hg => h.queued g (h'.fetches ▸ hg)⟩

/-- Memory, reports and links are not the carders: a step that changes only these keeps every carder. -/
theorem crds_of_mask {s t : State}
    (h : t.mask (pieces [.reg, .mem, .errs, .skn, .dst, .seqs, .qps, .prts, .out])
      = s.mask (pieces [.reg, .mem, .errs, .skn, .dst, .seqs, .qps, .prts, .out])) : t.crds = s.crds :=
  sameAt_of_mask h .crds rfl

theorem onlyCarder_setCrd (k : Nat) (x : Crd) (s : State) : OnlyCarder k s (s.setCrd k x) :=
  ⟨fun n hn => (setCrd_crd s k n x).trans (if_neg (Ne.symm hn))⟩

theorem onlyJob_setCrd {k : Nat} {x : Crd} {s : State} (h : x.fetches = (s.crd k).fetches) : OnlyJob k s (s.setCrd k x) :=
  ⟨onlyCarder_setCrd k x s, by rw [setCrd_crd, if_pos rfl, h]⟩

theorem onlyCarder_setFetch (k : Nat) (f : Fetch) (s : State) : OnlyCarder k s (setFetch k f s) := onlyCarder_setCrd ..

theorem onlyCarder_dropFetch (k : Nat) (f : Fetch) (s : State) : OnlyCarder k s (dropFetch k f s) := onlyCarder_setCrd ..

theorem setFetch_fetches (k : Nat) (f : Fetch) (s : State) :
    ((setFetch k f s).crd k).fetches = (s.crd k).fetches.map (fun g => if g.slotEnt = f.slotEnt then f else g) := by
  unfold setFetch
  rw [setCrd_crd, if_pos rfl]

theorem dropFetch_crd (k : Nat) (f : Fetch) (s : State) :
    (dropFetch k f s).crd k = { s.crd k with fetches := (s.crd k).fetches.filter (fun g => g.slotEnt ≠ f.slotEnt) } := by
  unfold dropFetch
  rw [setCrd_crd, if_pos rfl]

theorem setFetch_starts (k : Nat) {f : Fetch} (s : State) (h : f.st ≠ .queued) : Starts k f.slotEnt s (setFetch k f s) := by
  refine ⟨onlyCarder_setFetch k f s, fun g hg he => ?_⟩
  rw [setFetch_fetches] at hg
  obtain ⟨x, -, rfl⟩ := List.mem_map.mp hg
  split at he
  next hx => rwa [if_pos hx]
  next hx => exact absurd he hx

theorem dropFetch_starts (k : Nat) (f : Fetch) (s : State) : Starts k f.slotEnt s (dropFetch k f s) := by
  refine ⟨onlyCarder_dropFetch k f s, fun g hg he => ?_⟩
  rw [dropFetch_crd] at hg
  exact absurd he (by simpa using (List.mem_filter.mp hg).2)

/-! ## Jobs that wait for fetches -/

theorem onlyJob_finishJob (k : Nat) (s : State) : OnlyJob k s (finishJob k s) := by
  cases hj : (s.crd k).job with
  | none =>
    unfold finishJob
    rw [hj]
    exact .of_crds rfl k
  | some j =>
    by_cases hw : j.wait = []
    · obtain ⟨hk, ho, -⟩ := finishJob_ends hj hw
      exact ⟨⟨ho⟩, by rw [hk]⟩
    · rw [finishJob_waits hj hw]
      exact .of_crds rfl k

theorem onlyJob_assignOne (k : Nat) (w : Nat × Nat × Nat × Bool) (noslot waited : Bool) (s : State) :
    OnlyJob k s (assignOne k w noslot waited s) := by
  unfold assignOne
  split
  · exact .of_crds rfl k
  · extract_lets ent r cslot bytes a
    split
    next s1 refused hw =>
    extract_lets s2 x j'
    have h1 : s1.crds = s.crds := (congrArg (fun w => w.1.crds) hw).symm.trans (crds_of_mask (by simp [pieces]))
    have h2 : s2.crds = s1.crds := crds_of_mask (by simp only [s2]; split <;> simp [pieces])
    exact (OnlyJob.of_crds (h2.trans h1) k).trans (onlyJob_setCrd rfl)

theorem onlyJob_jobFetchEnd (k : Nat) (f : Fetch) (s : State) : OnlyJob k s (jobFetchEnd k f s) := by
  unfold jobFetchEnd
  split
  · exact .of_crds rfl k
  · split
    · split
      · exact (onlyJob_assignOne ..).trans (onlyJob_finishJob ..)
      · exact .of_crds rfl k
    · exact .of_crds rfl k

theorem onlyJob_jobFetchStart (k : Nat) (f : Fetch) (s : State) : OnlyJob k s (jobFetchStart k f s) := by
  unfold jobFetchStart
  split
  · exact .of_crds rfl k
  · split
    · exact .of_crds rfl k
    · exact (onlyJob_setCrd (by rfl)).trans (onlyJob_finishJob ..)

theorem jobFetchEnd_of_no_job {k : Nat} {s : State} (f : Fetch) (h : (s.crd k).job = none) : jobFetchEnd k f s = s := by
  unfold jobFetchEnd
  rw [h]

/-! ## A READ is issued, and tried again (R226, R227) -/

theorem failFetch_starts (k : Nat) (f : Fetch) (s : State) : Starts k f.slotEnt s (failFetch k f s) := by
  unfold failFetch
  exact (OnlyCarder.of_crds (crds_of_mask (by simp [pieces])) k).starts ((dropFetch_starts k f _).job (onlyJob_jobFetchEnd ..))

theorem postOp_crds (n : Nat) (op : WireOp) (s : State) : (postOp n op s).crds = s.crds := crds_of_mask (by simp [pieces])

theorem sendFetch_starts (k : Nat) (f : Fetch) (r : Resid) (q : Nat × Bool) (wall : Nat) (s : State) :
    Starts k f.slotEnt s (sendFetch k f r q wall s) := by
  unfold sendFetch
  extract_lets s2
  have h2 : s2.crds = s.crds := crds_of_mask (by simp only [s2]; split <;> simp [pieces])
  have hset := setFetch_starts k (f := { f with st := .flying, qpn := some q.1, since := wall }) s2 FetchSt.noConfusion
  exact (OnlyCarder.of_crds h2 k).starts (hset.job (.of_crds (postOp_crds ..) k))

/-- However the attempts to issue a READ come out, the miss is queued no more. -/
theorem issueRead_starts (k : Nat) : ∀ (n : Nat) (f : Fetch) (s : State), Starts k f.slotEnt s (issueRead k n f s) := by
  intro n
  induction n with
  | zero => exact failFetch_starts k
  | succ n ih =>
    intro f s
    rw [issueRead]
    generalize readResid s f.ent = r
    have h1 : (touchEndpoint r.node s).crds = s.crds := crds_of_mask (by simp [pieces])
    refine (OnlyCarder.of_crds h1 k).starts ?_
    split
    · exact (OnlyCarder.of_crds (crds_of_mask (by simp [pieces])) k).starts (ih { f with tries := f.tries + 1 } _)
    · exact sendFetch_starts ..

theorem onlyCarder_retryFetch (k : Nat) (f : Fetch) (s : State) : OnlyCarder k s (retryFetch k f s) := by
  unfold retryFetch
  dsimp only
  split
  · exact (issueRead_starts ..).others
  · exact (failFetch_starts ..).others

theorem startFetch_starts (k : Nat) (f : Fetch) (s : State) : Starts k f.slotEnt s (startFetch k f s) := by
  unfold startFetch
  extract_lets r s1 s2 s3
  have h1 : s1.crds = s.crds := crds_of_mask (by simp [s1, pieces])
  have h2 : s2.crds = s1.crds := crds_of_mask (by simp [s2, pieces])
  have h3 : s3.crds = s2.crds := crds_of_mask (by simp only [s3]; split <;> simp [pieces])
  have hread := issueRead_starts k (fetchRetry s k + 1) { f with start := s.cyc } s3
  exact (OnlyCarder.of_crds (h3.trans (h2.trans h1)) k).starts (hread.job (onlyJob_jobFetchStart ..))

/-! ## The blob lands (R226, R227) -/

theorem onlyCarder_landFetch (k : Nat) (f : Fetch) (data : List MByte) (s : State) : OnlyCarder k s (landFetch k f data s) := by
  unfold landFetch
  extract_lets r s1 e s2 lat s3
  have h1 : s1.crds = s.crds := crds_of_mask (by simp [s1, pieces])
  split
  · exact (OnlyCarder.of_crds h1 k).trans (onlyCarder_retryFetch ..)
  · have h3 : s3.crds = s1.crds := crds_of_mask (by simp [s3, s2, pieces])
    exact (OnlyCarder.of_crds (h3.trans h1) k).trans ((onlyCarder_dropFetch ..).trans (onlyJob_jobFetchEnd ..).others)

/-- A blob of the length and CRC of the entry, free of poison, ends the fetch of a carder that holds no job. -/
theorem landFetch_lands {k : Nat} {f : Fetch} {data : List MByte} {s : State} (hjob : (s.crd k).job = none)
    (hlen : data.length = (readResid s f.ent).len) (hclean : data.any (·.poison) = false)
    (hcrc : crc32c (data.map (·.val)) = (readResid s f.ent).crc) :
    ((landFetch k f data s).crd k).fetches = (s.crd k).fetches.filter (fun g => g.slotEnt ≠ f.slotEnt)
      ∧ ((landFetch k f data s).crd k).job = none := by
  unfold landFetch
  extract_lets r s1 e s2 lat s3
  rw [if_neg (by simp [r, hlen, hclean, hcrc])]
  have h3 : s3.crd k = s.crd k := crd_of_crds (crds_of_mask (by simp [s3, s2, s1, pieces])) k
  have hdrop := dropFetch_crd k f s3
  rw [h3] at hdrop
  rw [jobFetchEnd_of_no_job f (by rw [hdrop, hjob]), hdrop]
  exact ⟨rfl, hjob⟩

/-! ## Write-backs (R225, R227) -/

theorem onlyCarder_failWriteBack (k : Nat) (f : Fetch) (s : State) : OnlyCarder k s (failWriteBack k f s) := by
  unfold failWriteBack
  split
  · exact .of_crds rfl k
  · exact (OnlyCarder.of_crds (crds_of_mask (by simp [pieces])) k).trans (onlyCarder_setFetch ..)

theorem onlyCarder_sendWriteBack (k : Nat) (f : Fetch) (gid ent : Nat) (r : Resid) (bs : List Byte) (q : Nat × Bool) (wall : Nat)
    (s : State) : OnlyCarder k s (sendWriteBack k f gid ent r bs q wall s) := by
  unfold sendWriteBack
  exact (OnlyCarder.of_crds (crds_of_mask (by simp [pieces])) k).trans
    ((onlyCarder_setFetch ..).trans (.of_crds (postOp_crds ..) k))

theorem onlyCarder_issueWrite (k : Nat) : ∀ (n : Nat) (f : Fetch) (s : State), OnlyCarder k s (issueWrite k n f s) := by
  intro n
  induction n with
  | zero => exact fun f s => onlyCarder_failWriteBack k f s
  | succ n ih =>
    intro f s
    rw [issueWrite]
    split
    · exact .of_crds rfl k
    · extract_lets r bs s1 p q
      have h1 : s1.crds = s.crds := crds_of_mask (by simp [s1, pieces])
      refine (OnlyCarder.of_crds h1 k).trans ?_
      split
      · exact (OnlyCarder.of_crds (crds_of_mask (by simp [pieces])) k).trans (ih ..)
      · split
        · exact (OnlyCarder.of_crds (crds_of_mask (by simp [pieces])) k).trans (ih ..)
        · exact onlyCarder_sendWriteBack ..

theorem onlyCarder_retryWriteBack (k : Nat) (f : Fetch) (s : State) : OnlyCarder k s (retryWriteBack k f s) := by
  unfold retryWriteBack
  dsimp only
  split
  · exact onlyCarder_issueWrite ..
  · exact onlyCarder_failWriteBack ..

theorem setResidState_crds (k a st : Nat) (dirty : Bool) (s : State) : (setResidState k a st dirty s).crds = s.crds :=
  crds_of_mask (by simp [pieces])

/-- A store of one byte changes no other. -/
theorem storeClean_kept (who : BitVec 16) (a : Nat) (v : Byte) (s : State) : BytesKept [a] s (storeClean who a [v] s) := by
  intro b hb hint
  have hne : a ≠ b := fun he => hb (by simp [he])
  have h := storeClean_storedAs who a [v] s b hint
  simpa [lastByte, hne] using h

/-- The miss behind a write-back that is complete becomes a queued fetch. -/
theorem doneWriteBack_queues {k : Nat} {f : Fetch} {o : Nat × Nat} {s : State} (ho : f.owner = some o) :
    ((doneWriteBack k f s).crd k).fetches = (s.crd k).fetches.map (fun g =>
        if g.slotEnt = f.slotEnt then { f with st := .queued, owner := none, qpn := none, tries := 0 } else g)
      ∧ OnlyCarder k s (doneWriteBack k f s) ∧ BytesKept [o.2] s (doneWriteBack k f s) := by
  obtain ⟨gid, ent⟩ := o
  unfold doneWriteBack
  rw [ho]
  dsimp only
  generalize hu : setResidState k ent stCold false s = u
  have hcrds : u.crds = s.crds := hu ▸ setResidState_crds ..
  have hset : SameData u (setFetch k { f with st := .queued, owner := none, qpn := none, tries := 0 } u) :=
    .of_unchanged (setCrd_unchanged k _ u) (by decide)
  refine ⟨?_, (OnlyCarder.of_crds hcrds k).trans (onlyCarder_setFetch ..), fun a ha hint => ?_⟩
  · rw [setFetch_fetches, crd_of_crds hcrds]
  · have hint' : Intact u a := hu ▸ storeClean_intact hint _ _ _
    have hkept : (rdByte u a).val = (rdByte s a).val := hu ▸ storeClean_kept _ ent _ s a ha hint
    exact (hset.val a hint').trans hkept

/-! ## Packets are taken in (R349, R352, R354) -/

/-- A queue pair whose device fields stay as they are writes nothing into its entry. -/
theorem storeQp_same {n : Nat} {old new : Qp} {s : State} (hst : new.state = old.state) (hmig : new.mig = old.mig)
    (hdev : new.deviceFields = old.deviceFields) : storeQp n old new s = s := by
  unfold storeQp
  extract_lets a s1
  have h1 : s1 = s := if_neg (by simp [hst, hmig])
  rw [hdev, h1]
  simp [Qp.deviceFields]

theorem setQp_same_unchanged {n : Nat} {q : Qp} {s : State} (hst : q.state = (s.qp n).state) (hmig : q.mig = (s.qp n).mig)
    (hdev : q.deviceFields = (s.qp n).deviceFields) : Unchanged [.qps] s (s.setQp n q) := by
  unfold State.setQp
  dsimp only
  rw [storeQp_same hst hmig hdev, ite_self]
  exact unchanged_of_mask (by simp [pieces])

theorem dropOp_unchanged (q : Option Nat) (p : WireOp → Bool) (s : State) : Unchanged [.qps] s (dropOp q p s) := by
  cases q with
  | none => exact unchanged_of_mask rfl
  | some n => exact setQp_same_unchanged rfl rfl rfl

theorem ceMark_unchanged (n k dest : Nat) (s : State) : Unchanged [.reg, .qps, .prts, .out] s (ceMark n k dest s) := by
  unfold ceMark
  extract_lets q p s1 gap due
  have h1 : Unchanged [.reg] s s1 := unchanged_of_mask (by simp [s1, pieces])
  split
  · have hq : s1.qp n = q := congrArg (fun m : AMap Qp => mget m n {}) (h1 .qps (by decide))
    have h2 : Unchanged [.qps] s1 (s1.setQp n { q with cnpSent := some s.wall }) :=
      setQp_same_unchanged (by rw [hq]) (by rw [hq]) (by rw [hq]; rfl)
    exact (h1.trans h2 (n := [.reg, .qps]) (by decide) (by decide)).trans
      (m := [.reg, .prts, .out]) (unchanged_of_mask (by simp [pieces])) (by decide) (by decide)
  · exact h1.mono (by decide)

/-- Packets that arrive are counted, marked and watched: no byte of memory changes. -/
theorem ingressFrom_unchanged (n k src_ : Nat) (ing : Ingress) (s : State) :
    Unchanged [.reg, .qps, .prts, .out] s (ingressFrom n k src_ ing s).1 := by
  unfold ingressFrom
  extract_lets q p s1 s2
  have h1 : Unchanged [.reg] s s1 := unchanged_of_mask (by simp [s1, pieces])
  have h2 : Unchanged [.reg, .qps, .prts, .out] s s2 := by
    simp only [s2]
    split
    · exact h1.mono (by decide)
    · exact h1.trans (ceMark_unchanged n _ _ s1) (by decide) (by decide)
  split
  · split
    · exact h2.trans (m := [.reg]) (unchanged_of_mask (by simp [pieces])) (by decide) (by decide)
    · exact h2
  · exact h2.trans (m := [.reg, .prts, .out]) (unchanged_of_mask (by simp [pieces])) (by decide) (by decide)

/-- The packets are taken in and their operation leaves its queue pair. -/
theorem takenIn_unchanged (n k : Nat) (ing : Ingress) (q : Option Nat) (p : WireOp → Bool) (s : State) :
    Unchanged [.reg, .qps, .prts, .out] s (dropOp q p (ingress n k ing s).1) :=
  (ingressFrom_unchanged n k _ ing s).trans (dropOp_unchanged q p _) (by decide) (by decide)

theorem noteArrival_unchanged (p : Nat) (data : List MByte) (s : State) : Unchanged [.reg, .dst, .seqs] s (noteArrival p data s) :=
  unchanged_of_mask (by simp [pieces])

theorem readResid_congr {s t : State} (h : SameMem s t) (a : Nat) : readResid t a = readResid s a := by
  unfold readResid rdNat rdPoison rdVals rdBytes
  simp only [h.read]

/-! ## The rows -/

theorem execFetchStart_starts {k : BitVec 5} {f : Fetch} {s : State}
    (hf : (s.crd k.toNat).fetches.find? (fun g => g.st = .queued) = some f) (hrun : crdRuns s k.toNat = true)
    (hfree : ((s.crd k.toNat).fetches.filter (fun g => g.st = .flying)).length < fetchMax s k.toNat) :
    exec (.fetchStart k) s = .next (startFetch k.toNat f s) := by
  show execFetchStart k s = _
  unfold execFetchStart
  dsimp only
  rw [hf]
  exact congrArg _ (if_pos (by simp [hrun, hfree]))

/-- The state in which the data of a READ lands. -/
def arrived (k gid : Nat) (f : Fetch) (data : List MByte) (ing : Ingress) (s : State) : State :=
  let s1 := (ingress (f.qpn.getD 0) (packetsOf (s.qp (f.qpn.getD 0)) data.length) ing s).1
  noteArrival (s1.qp (f.qpn.getD 0)).port data (dropOp f.qpn (isReadOf k gid) s1)

theorem arrived_unchanged (k gid : Nat) (f : Fetch) (data : List MByte) (ing : Ingress) (s : State) :
    Unchanged [.reg, .dst, .seqs, .qps, .prts, .out] s (arrived k gid f data ing s) :=
  (takenIn_unchanged _ _ ing _ _ s).trans (noteArrival_unchanged _ data _) (by decide) (by decide)

theorem execFetchComplete_lands {k : BitVec 5} {gid : BitVec 20} {f : Fetch} {data : List MByte} {ing : Ingress} {s : State}
    (hf : flyingFetch s k.toNat gid.toNat = some f) (hsent : opSent s f.qpn (isReadOf k.toNat gid.toNat) = true)
    (hin : (ingress (f.qpn.getD 0) (packetsOf (s.qp (f.qpn.getD 0)) data.length) ing s).2 = true) :
    exec (.fetchComplete k gid data ing) s
      = .next (landFetch k.toNat f data (arrived k.toNat gid.toNat f data ing s)) := by
  show execFetchComplete k gid data s ing = _
  unfold execFetchComplete arrived
  dsimp only
  rw [hf]
  dsimp only
  rw [if_pos hsent]
  generalize ingress (f.qpn.getD 0) (packetsOf (s.qp (f.qpn.getD 0)) data.length) ing s = r at hin ⊢
  obtain ⟨s1, taken⟩ := r
  subst hin
  rfl

theorem execFetchTimeout_fetch {k : BitVec 5} {gid : BitVec 20} {f : Fetch} {s : State}
    (hf : flyingFetch s k.toNat gid.toNat = some f) (hdue : f.since + fetchTmo s k.toNat ≤ s.wall) :
    exec (.fetchTimeout k gid) s = .next (retryFetch k.toNat f (dropOp f.qpn (isReadOf k.toNat gid.toNat) s)) := by
  show execFetchTimeout k gid s = _
  unfold execFetchTimeout
  dsimp only
  rw [hf]
  exact congrArg _ (if_pos hdue)

theorem execFetchTimeout_writeBack {k : BitVec 5} {gid : BitVec 20} {f : Fetch} {s : State}
    (hnone : flyingFetch s k.toNat gid.toNat = none) (hf : flyingWrite s k.toNat gid.toNat = some f)
    (hdue : f.since + fetchTmo s k.toNat ≤ s.wall) :
    exec (.fetchTimeout k gid) s = .next (retryWriteBack k.toNat f (dropOp f.qpn (isWriteOf k.toNat gid.toNat) s)) := by
  show execFetchTimeout k gid s = _
  unfold execFetchTimeout
  dsimp only
  rw [hnone, hf]
  exact congrArg _ (if_pos hdue)

theorem execWriteBackComplete_done {k : BitVec 5} {gid : BitVec 20} {f : Fetch} {ing : Ingress} {s : State}
    (hf : flyingWrite s k.toNat gid.toNat = some f) (hsent : opSent s f.qpn (isWriteOf k.toNat gid.toNat) = true)
    (hin : (ingress (f.qpn.getD 0) 1 ing s).2 = true) :
    exec (.writeBackComplete k gid ing) s
      = .next (doneWriteBack k.toNat f
          (dropOp f.qpn (isWriteOf k.toNat gid.toNat) (ingress (f.qpn.getD 0) 1 ing s).1)) := by
  show execWriteBackComplete k gid s ing = _
  unfold execWriteBackComplete
  dsimp only
  rw [hf]
  dsimp only
  rw [if_pos hsent]
  generalize ingress (f.qpn.getD 0) 1 ing s = r at hin ⊢
  obtain ⟨s1, taken⟩ := r
  subst hin
  rfl

/-! ## The obligation -/

theorem dropOp_crds (q : Option Nat) (p : WireOp → Bool) (s : State) : (dropOp q p s).crds = s.crds :=
  dropOp_unchanged q p s .crds (by decide)

/-- Settles O27, event by event: the row answers with the step named, and what that step leaves of the carders and of memory is its
lemma above. -/
theorem expertFetchesProceed : Obligations.ExpertFetchesProceed := by
  unfold Obligations.ExpertFetchesProceed
  refine fun k f s => ⟨fun hf hrun hfree => ?_, fun gid data ing hf hsent hin => ?_, fun gid hf hdue => ?_,
    fun gid hnone hf hdue => ?_, fun gid o ing hf ho hsent hin => ?_⟩
  · obtain ⟨hothers, hqueued⟩ := startFetch_starts k.toNat f s
    exact ⟨_, execFetchStart_starts hf hrun hfree, rfl, hqueued, hothers.crd, unchanged_of_mask (by simp [pieces])⟩
  · have hexec := execFetchComplete_lands hf hsent hin
    have harr := arrived_unchanged k.toNat gid.toNat f data ing s
    generalize arrived k.toNat gid.toNat f data ing s = u at hexec harr
    have hcrds : u.crds = s.crds := harr .crds (by decide)
    have hres : readResid u f.ent = readResid s f.ent := readResid_congr (.of_unchanged harr (by decide)) _
    have hland : Unchanged [.reg, .mem, .errs, .skn, .dst, .reports, .seqs, .qps, .crds, .out] u (landFetch k.toNat f data u) :=
      unchanged_of_mask (by simp [pieces])
    refine ⟨_, hexec, ((OnlyCarder.of_crds hcrds _).trans (onlyCarder_landFetch ..)).crd, fun hjob hlen hclean hcrc => ?_,
      harr.trans hland (by decide) (by decide)⟩
    have hcrd : u.crd k.toNat = s.crd k.toNat := crd_of_crds hcrds _
    rw [← hres] at hlen hcrc
    rw [← hcrd] at hjob ⊢
    exact landFetch_lands hjob hlen hclean hcrc
  · exact ⟨_, execFetchTimeout_fetch hf hdue, rfl,
      ((OnlyCarder.of_crds (dropOp_crds ..) _).trans (onlyCarder_retryFetch ..)).crd, unchanged_of_mask (by simp [pieces])⟩
  · exact ⟨_, execFetchTimeout_writeBack hnone hf hdue, rfl,
      ((OnlyCarder.of_crds (dropOp_crds ..) _).trans (onlyCarder_retryWriteBack ..)).crd, unchanged_of_mask (by simp [pieces])⟩
  · have hexec := execWriteBackComplete_done hf hsent hin
    have htaken := takenIn_unchanged (f.qpn.getD 0) 1 ing f.qpn (isWriteOf k.toNat gid.toNat) s
    generalize dropOp f.qpn (isWriteOf k.toNat gid.toNat) (ingress (f.qpn.getD 0) 1 ing s).1 = u at hexec htaken
    have hcrds : u.crds = s.crds := htaken .crds (by decide)
    have hdata : SameData s u := .of_unchanged htaken (by decide)
    have hdone : Unchanged [.reg, .mem, .errs, .skn, .dst, .seqs, .crds] u (doneWriteBack k.toNat f u) :=
      unchanged_of_mask (by simp [pieces])
    obtain ⟨hlist, hothers, hkept⟩ := doneWriteBack_queues (k := k.toNat) (s := u) ho
    refine ⟨_, hexec, by rw [hlist, crd_of_crds hcrds], ((OnlyCarder.of_crds hcrds _).trans hothers).crd, fun a ha hint => ?_,
      htaken.trans hdone (by decide) (by decide)⟩
    exact (hkept a ha ((hdata.intact a).mpr hint)).trans (hdata.val a hint)

end Sys2Proof.Machine
end

section
/-! SUPPORT. The training words of a context (R269, R287): a host's write of BOB[0]_TRN_DATA, word by word. -/

namespace Sys2Proof.Machine

/-! ## One write of BOB[0]_TRN_DATA -/

theorem regRow_trnData : ∃ r, regRow (rBob 0x204) = some r ∧ (r.allRo || r.isRc) = false := ⟨_, rfl, rfl⟩

theorem writeReg_trnData (o : Origin) (v : Word) (e : Bool) (s : State) : writeReg o (rBob 0x204) v e s = ofWr (writeTrn v s) s := by
  obtain ⟨r, hrow, hrw⟩ := regRow_trnData
  unfold writeReg
  rw [hrow]
  dsimp only
  rw [hrw]
  rfl

theorem reachRefusal_trnData {s : State} (hgate : blockGated s (rBob 0x204) = false) :
    reachRefusal anyHost (rBob 0x204) s = none := by
  unfold reachRefusal
  rw [if_neg (by decide), if_neg (by decide), if_neg (by simp [hgate])]

section

variable {v : Word} {s t : State} {k : Byte} (hmgmt : mgmtRuns s = true) (hgate : blockGated s (rBob 0x204) = false)

include hmgmt hgate

theorem hostBob_trnData_done (h : writeTrn v s = .done t) : hostBob 0x204 v s = tagNew flagHost s t := by
  unfold hostBob accessWrite
  rw [if_pos hmgmt, reachRefusal_trnData hgate]
  dsimp only
  rw [writeReg_trnData, h]
  rfl

theorem hostBob_trnData_refused (h : writeTrn v s = .refuse k) :
    hostBob 0x204 v s = sendMsg { source := srcBob, kind := k, flags := flagHost, addr := BitVec.ofNat 48 (regBase + rBob 0x204) } none s := by
  unfold hostBob accessWrite
  rw [if_pos hmgmt, reachRefusal_trnData hgate]
  dsimp only
  rw [writeReg_trnData, h]
  rfl

/-- A refused write of TRN_DATA sends its message and changes nothing else. -/
theorem execTrnDataWrite_refused (h : writeTrn v s = .refuse k) :
    ∃ t, exec (.trnDataWrite v) s = .next t ∧ Unchanged [.dst, .seqs] s t
      ∧ Sent { source := srcBob, kind := k, flags := flagHost, addr := BitVec.ofNat 48 (regBase + rBob 0x204) } none s t :=
  ⟨_, congrArg Host.Outcome.next (hostBob_trnData_refused hmgmt hgate h), sendMsg_unchanged _ none s, sent_sendMsg _ s⟩

end

/-! ## A write that changes the training state of one context -/

theorem tagNew_trn (f : Byte) (s t : State) (c : Nat) : (tagNew f s t).trn c = t.trn c :=
  trn_of_trns (tagNew_unchanged f s t .trns (by decide)) c

theorem setTrn_unchanged (c : Nat) (x : Trn) (s : State) : Unchanged [.trns] s (s.setTrn c x) := unchanged_of_mask (by simp [pieces])

theorem setTrn_tagged (c : Nat) (x : Trn) (s : State) :
    (tagNew flagHost s (s.setTrn c x)).trn c = x ∧ (∀ d, d ≠ c → (tagNew flagHost s (s.setTrn c x)).trn d = s.trn d)
      ∧ SameDistaff s (tagNew flagHost s (s.setTrn c x)) ∧ Unchanged [.trns, .dst] s (tagNew flagHost s (s.setTrn c x)) := by
  refine ⟨?_, fun d hd => ?_, tagNew_sameDistaff rfl, (setTrn_unchanged c x s).trans (tagNew_unchanged _ s _) (by decide) (by decide)⟩
  · rw [tagNew_trn, State.trn_setTrn, if_pos rfl]
  · rw [tagNew_trn, State.trn_setTrn, if_neg (Ne.symm hd)]

/-! ## The words that are stored as written -/

/-- Training state `t` once word `w`, which is neither read-only nor JCFG nor REPLAY, has been written with `v` (Table 09-1). -/
def trnWritten (w : Nat) (v : Word) (t : Trn) : Trn :=
  match w with
  | 0 => { t with exp := some (v.setWidth 8) }
  | 1 => { t with clean := v }
  | 2 => { t with optStep := v }
  | 4 => { t with seed := (t.seed &&& 0xFFFFFFFF00000000) ||| v.setWidth 64 }
  | 5 => { t with seed := (t.seed &&& 0xFFFFFFFF) ||| (v.setWidth 64 <<< 32) }
  | 6 => { t with jbase := (t.jbase &&& 0xFFFF00000000) ||| v.setWidth 48 }
  | 7 => { t with jbase := (t.jbase &&& 0xFFFFFFFF) ||| ((v.setWidth 48) <<< 32) }
  | 9 => { t with jcap := t.jcap.set 0 (v.toNat % 2 ^ 24) }
  | 10 => { t with jcap := t.jcap.set 1 v.toNat }
  | 11 => { t with jcap := t.jcap.set 2 (v.toNat % 2 ^ 24) }
  | 12 => { t with jcap := t.jcap.set 3 (v.toNat % 2 ^ 24) }
  | w => if w % 2 = 0 then
      { t with caps := t.caps.set ((w - 16) / 2) { t.caps.getD ((w - 16) / 2) {} with bobbin := v.setWidth 18, en := v.getLsbD 31 } }
    else { t with caps := t.caps.set ((w - 17) / 2) { t.caps.getD ((w - 17) / 2) {} with seq := v } }

theorem writeTrn_readOnly {v : Word} {s : State} (h : trnSelWord s = 3 ∨ trnSelWord s = 13 ∨ trnSelWord s = 15) :
    writeTrn v s = .refuse kACCESS_RO := if_pos (by simpa [or_assoc] using h)

theorem trnSelWord_lt (s : State) : trnSelWord s < 32 := Nat.mod_lt _ (by decide)

section

variable {v : Word} {s : State} (hw : trnSelWord s ≠ 3 ∧ trnSelWord s ≠ 13 ∧ trnSelWord s ≠ 15)

include hw

theorem writeTrn_replay (h14 : trnSelWord s = 14) : writeTrn v s = writeReplay (trnSelCtx s) v s := by
  obtain ⟨h3, h13, h15⟩ := hw
  unfold writeTrn
  dsimp only
  rw [if_neg (by simp [h3, h13, h15]), if_pos h14]

theorem writeTrn_busy (h14 : trnSelWord s ≠ 14) (hbusy : ctxIdle s (trnSelCtx s) = false) : writeTrn v s = .refuse kACCESS_REFUSED := by
  obtain ⟨h3, h13, h15⟩ := hw
  unfold writeTrn
  dsimp only
  rw [if_neg (by simp [h3, h13, h15]), if_neg h14, if_pos (by simp [hbusy])]

theorem writeTrn_jcfg (h8 : trnSelWord s = 8) (hidle : ctxIdle s (trnSelCtx s) = true) :
    writeTrn v s = writeJcfg (trnSelCtx s) v s := by
  obtain ⟨h3, h13, h15⟩ := hw
  unfold writeTrn
  dsimp only
  rw [if_neg (by simp [h3, h13, h15]), if_neg (by omega), if_neg (by simp [hidle]), if_pos h8]

theorem writeTrn_stored (h8 : trnSelWord s ≠ 8) (h14 : trnSelWord s ≠ 14) (hidle : ctxIdle s (trnSelCtx s) = true) :
    writeTrn v s = .done (s.setTrn (trnSelCtx s) (trnWritten (trnSelWord s) v (s.trn (trnSelCtx s)))) := by
  obtain ⟨h3, h13, h15⟩ := hw
  unfold writeTrn
  dsimp only
  rw [if_neg (by simp [h3, h13, h15]), if_neg h14, if_neg (by simp [hidle]), if_neg h8]
  rfl

end

/-! ## What a written word reads -/

/-- The half of a pair of words that was written reads as written. -/
theorem setWidth_lowWord {n : Nat} (x : BitVec n) (v : Word) (hn : 32 ≤ n) :
    ((x &&& (BitVec.allOnes n <<< 32)) ||| v.setWidth n).setWidth 32 = v := by
  ext i hi
  have hin : i < n := by omega
  simp [hi, hin]

/-- The upper half of a pair of words, which may have fewer bits, reads as written in those. -/
theorem setWidth_highWord {n : Nat} (x : BitVec n) (v : Word) (hn : 32 ≤ n) :
    (((x &&& (BitVec.allOnes 32).setWidth n) ||| (v.setWidth n <<< 32)) >>> 32).setWidth 32 = v &&& (BitVec.allOnes (n - 32)).setWidth 32 := by
  ext i hi
  by_cases hin : 32 + i < n
  · have hi' : i < n - 32 := by omega
    have hin' : i < n := by omega
    simp [hi, hi', hin, hin']
  · have hi' : ¬ i < n - 32 := by omega
    simp [hi, hi', hin]

theorem setWidth_setWidth_and (n : Nat) (v : Word) : (v.setWidth n).setWidth 32 = v &&& (BitVec.allOnes n).setWidth 32 := by
  ext i hi
  simp [hi, Bool.and_comm]

theorem readTrn_tagNew (f : Byte) (s t : State) : readTrn (tagNew f s t) = readTrn t := by
  unfold readTrn
  rfl

theorem readTrn_trnWritten {v : Word} {s : State} (h : trnSelWord s < 8) (h3 : trnSelWord s ≠ 3) :
    readTrn (s.setTrn (trnSelCtx s) (trnWritten (trnSelWord s) v (s.trn (trnSelCtx s))))
      = if trnSelWord s = 0 then v &&& 0xFF else if trnSelWord s = 7 then v &&& 0xFFFF else v := by
  have hword : ∀ x, trnSelWord (s.setTrn (trnSelCtx s) x) = trnSelWord s := fun _ => rfl
  have hctx : ∀ x, trnSelCtx (s.setTrn (trnSelCtx s) x) = trnSelCtx s := fun _ => rfl
  have hcases : trnSelWord s = 0 ∨ trnSelWord s = 1 ∨ trnSelWord s = 2 ∨ trnSelWord s = 4 ∨ trnSelWord s = 5 ∨ trnSelWord s = 6
      ∨ trnSelWord s = 7 := by omega
  unfold readTrn trnExpBits
  dsimp only
  rw [hword, hctx, State.trn_setTrn, if_pos rfl]
  generalize s.trn (trnSelCtx s) = t
  generalize trnSelWord s = w at *
  rcases hcases with rfl | rfl | rfl | rfl | rfl | rfl | rfl
  · exact setWidth_setWidth_and 8 v
  · rfl
  · rfl
  · exact setWidth_lowWord t.seed v (by decide)
  · exact (setWidth_highWord t.seed v (by decide)).trans (BitVec.and_allOnes ..)
  · exact setWidth_lowWord t.jbase v (by decide)
  · exact setWidth_highWord t.jbase v (by decide)

theorem trnWritten_jcap {w : Nat} (h9 : 9 ≤ w) (h12 : w ≤ 12) (v : Word) (t : Trn) :
    (trnWritten w v t).jcap = t.jcap.set (w - 9) (if w = 10 then v.toNat else v.toNat % 2 ^ 24) := by
  have hcases : w = 9 ∨ w = 10 ∨ w = 11 ∨ w = 12 := by omega
  rcases hcases with rfl | rfl | rfl | rfl <;> rfl

theorem trnWritten_caps {w : Nat} (h : 16 ≤ w) (v : Word) (t : Trn) :
    (trnWritten w v t).caps = t.caps.set ((w - 16) / 2)
      (if w % 2 = 0 then { t.caps.getD ((w - 16) / 2) {} with bobbin := v.setWidth 18, en := v.getLsbD 31 }
       else { t.caps.getD ((w - 16) / 2) {} with seq := v }) := by
  unfold trnWritten
  split
  case h_12 =>
    split
    · rfl
    · next hodd =>
      have hsame : (w - 17) / 2 = (w - 16) / 2 := by omega
      rw [hsame]
  all_goals omega

/-! ## JCFG (R287) -/

theorem sent_tagged_faultParam (kind : Byte) (c : Nat) {s s' : State} (h : s'.dst = s.dst) :
    Sent { source := srcBob, kind := kind, flags := flagParam ||| flagHost, addr := BitVec.ofNat 48 c } none s
      (tagNew flagHost s (faultParam srcBob kind c s')) := sent_faultBobbin kind c h

theorem setTrn_fault_tagged (kind : Byte) (c : Nat) (x : Trn) (s : State) :
    (tagNew flagHost s (faultParam srcBob kind c (s.setTrn c x))).trn c = x
      ∧ (∀ d, d ≠ c → (tagNew flagHost s (faultParam srcBob kind c (s.setTrn c x))).trn d = s.trn d)
      ∧ Sent { source := srcBob, kind := kind, flags := flagParam ||| flagHost, addr := BitVec.ofNat 48 c } none s
        (tagNew flagHost s (faultParam srcBob kind c (s.setTrn c x)))
      ∧ Unchanged [.trns, .dst, .seqs] s (tagNew flagHost s (faultParam srcBob kind c (s.setTrn c x))) := by
  have hset := setTrn_unchanged c x s
  have hfault : Unchanged [.dst, .seqs] (s.setTrn c x) (faultParam srcBob kind c (s.setTrn c x)) := sendMsg_unchanged _ none _
  have htrn : ∀ d, (tagNew flagHost s (faultParam srcBob kind c (s.setTrn c x))).trn d = if c = d then x else s.trn d := fun d => by
    rw [tagNew_trn, trn_of_trns (hfault .trns (by decide)), State.trn_setTrn]
  exact ⟨by rw [htrn, if_pos rfl], fun d hd => by rw [htrn, if_neg (Ne.symm hd)], sent_tagged_faultParam kind c (hset .dst (by decide)),
    (hset.trans hfault (n := [.trns, .dst, .seqs]) (by decide) (by decide)).trans (tagNew_unchanged _ s _) (by decide) (by decide)⟩

section

variable {c : Nat} {v : Word} {s : State} (hen : v.getLsbD 3 = true) (hlog : v.toNat % 8 ≤ 4)

include hen hlog

theorem writeJcfg_enables (hring : ringOk s (s.trn c) (v.toNat % 8) = true) :
    writeJcfg c v s = .done (s.setTrn c { s.trn c with jlog := BitVec.ofNat 3 (v.toNat % 8), jen := true }) := by
  unfold writeJcfg
  dsimp only
  rw [if_neg (by omega), if_neg (by simp [hring]), hen]

theorem writeJcfg_unsound (hring : ringOk s (s.trn c) (v.toNat % 8) = false) :
    writeJcfg c v s = .done (faultParam srcBob kJOURNAL_CFG c
      (s.setTrn c { s.trn c with jlog := BitVec.ofNat 3 (v.toNat % 8), jen := false })) := by
  unfold writeJcfg
  dsimp only
  rw [if_neg (by omega), if_pos (by simp [hen, hring])]

end

theorem execJournalEnable_writes {v : Word} {s t : State} (hmgmt : mgmtRuns s = true) (hgate : blockGated s (rBob 0x204) = false)
    (h8 : trnSelWord s = 8) (hen : v.getLsbD 3 = true) (hidle : ctxIdle s (trnSelCtx s) = true)
    (h : writeJcfg (trnSelCtx s) v s = .done t) : exec (.journalEnable v) s = .next (tagNew flagHost s t) := by
  have hdone : writeTrn v s = .done t := (writeTrn_jcfg (by omega) h8 hidle).trans h
  have hcond : (if trnSelWord s = 8 && v.getLsbD 3 then hostBob 0x204 v s else s) = hostBob 0x204 v s := if_pos (by simp [h8, hen])
  exact congrArg Host.Outcome.next (hcond.trans (hostBob_trnData_done hmgmt hgate hdone))

/-! ## The obligation -/

/-- Settles O23, by the kind of word that TRN_SEL names: a read-only one, one of a context at work, one stored as written, and JCFG. -/
theorem trainingWordsWritten : Obligations.TrainingWordsWritten := by
  unfold Obligations.TrainingWordsWritten
  intro v s hmgmt hgate
  refine ⟨fun hro => execTrnDataWrite_refused hmgmt hgate (writeTrn_readOnly hro),
    fun ⟨h3, h13, h14, h15⟩ hbusy => execTrnDataWrite_refused hmgmt hgate (writeTrn_busy ⟨h3, h13, h15⟩ h14 hbusy),
    fun ⟨h3, h8, h13, h14, h15⟩ hidle => ?_, fun h8 hen hlog hidle => ⟨fun hring => ?_, fun hring => ?_⟩⟩
  · have hdone := hostBob_trnData_done hmgmt hgate (writeTrn_stored (v := v) ⟨h3, h13, h15⟩ h8 h14 hidle)
    obtain ⟨htrn, hothers, hdst, hframe⟩ := setTrn_tagged (trnSelCtx s) (trnWritten (trnSelWord s) v (s.trn (trnSelCtx s))) s
    refine ⟨_, congrArg Host.Outcome.next hdone, hdst, hothers, hframe, fun hlt => (readTrn_tagNew ..).trans (readTrn_trnWritten hlt h3), fun ⟨h9, h12⟩ => ?_,
      fun h16 => ?_⟩
    · rw [htrn]
      exact trnWritten_jcap h9 h12 v _
    · rw [htrn]
      exact trnWritten_caps h16 v _
  · obtain ⟨htrn, hothers, hdst, hframe⟩ := setTrn_tagged (trnSelCtx s)
      { s.trn (trnSelCtx s) with jlog := BitVec.ofNat 3 (v.toNat % 8), jen := true } s
    exact ⟨_, execJournalEnable_writes hmgmt hgate h8 hen hidle (writeJcfg_enables hen hlog hring), hothers, htrn, hdst, hframe⟩
  · obtain ⟨htrn, hothers, hsent, hframe⟩ := setTrn_fault_tagged kJOURNAL_CFG (trnSelCtx s)
      { s.trn (trnSelCtx s) with jlog := BitVec.ofNat 3 (v.toNat % 8), jen := false } s
    exact ⟨_, execJournalEnable_writes hmgmt hgate h8 hen hidle (writeJcfg_unsound hen hlog hring), hothers, htrn, hsent, hframe⟩

end Sys2Proof.Machine
end

section
/-! SUPPORT. Replay (R290, R291): what ARM and RESUME, written to the REPLAY word, leave of a context. -/

namespace Sys2Proof.Machine

/-! ## Messages sent after reads -/

/-- No queue of junction 3 has lost a message. -/
structure QueuesGrow (s t : State) : Prop where
  le : ∀ k, (mget s.dst.queues k []).length ≤ (mget t.dst.queues k []).length

theorem QueuesGrow.trans {s t u : State} (h : QueuesGrow s t) (k : QueuesGrow t u) : QueuesGrow s u :=
  ⟨fun q => (h.le q).trans (k.le q)⟩

theorem QueuesGrow.of_dst {s t : State} (h : t.dst = s.dst) : QueuesGrow s t := ⟨fun k => by rw [h]⟩

theorem queuesGrow_sendMsg (m : Msg) (s : State) : QueuesGrow s (sendMsg m none s) := by
  obtain ⟨hq, -, hother⟩ := sent_sendMsg m s
  refine ⟨fun k => ?_⟩
  by_cases hk : k = m.source.toNat
  · rw [hk, hq]
    split <;> simp
  · rw [(hother k hk).1]

theorem queuesGrow_count (a n : Nat) (s : State) : QueuesGrow s (s.count a n) := .of_dst (count_unchanged a n s .dst (by decide))

theorem queuesGrow_errorResponse (who : BitVec 16) (f : Byte) (a : Nat) (kind : Byte) (s : State) :
    QueuesGrow s (errorResponse who f a kind s) := by
  unfold errorResponse
  split
  · exact (queuesGrow_count ..).trans (queuesGrow_sendMsg ..)
  · exact queuesGrow_sendMsg ..

theorem queuesGrow_bucketAdd (k c a : Nat) (s : State) : QueuesGrow s (bucketAdd k c a s) := by
  unfold bucketAdd
  extract_lets sk from_ level full up sk1
  split
  · exact (QueuesGrow.of_dst (s := s) (t := s.setSkein k sk1) rfl).trans ((queuesGrow_sendMsg ..).trans (queuesGrow_count ..))
  · exact .of_dst rfl

theorem queuesGrow_repairSector (sec : Nat) (s : State) : QueuesGrow s (repairSector sec s) := by
  have h : Unchanged [.reg, .mem, .errs] s (repairSector sec s) := unchanged_of_mask (by simp [pieces])
  exact .of_dst (h .dst (by decide))

theorem queuesGrow_uncorrectable (kind : Byte) (k sec : Nat) (s : State) : QueuesGrow s (uncorrectable kind k sec s) := by
  unfold uncorrectable
  extract_lets s1
  have hset : QueuesGrow s1 (s1.setSkein k { s1.skein k with ueAddr := BitVec.ofNat 48 (sec * 32) }) :=
    .of_dst (State.setSkein_dst ..)
  exact ((queuesGrow_count ..).trans hset).trans (queuesGrow_sendMsg ..)

/-- What reading a sector reports joins the queues. -/
theorem queuesGrow_touchRead (who : BitVec 16) (f : Byte) (sec : Nat) (s : State) : QueuesGrow s (touchRead who f sec s) := by
  unfold touchRead
  dsimp only
  split
  · exact queuesGrow_errorResponse ..
  · split
    · exact .of_dst rfl
    · exact ((queuesGrow_count ..).trans (queuesGrow_bucketAdd ..)).trans (queuesGrow_repairSector ..)
    · exact queuesGrow_count ..
    · exact queuesGrow_uncorrectable ..

theorem queuesGrow_touchReads (who : BitVec 16) (f : Byte) (secs : List Nat) (s : State) : QueuesGrow s (touchReads who f secs s) := by
  unfold touchReads
  induction distinct secs generalizing s with
  | nil => exact .of_dst rfl
  | cons x r ih => exact (queuesGrow_touchRead who f x s).trans (ih _)

theorem flagFrom_append_of_le {f : Byte} {n : Nat} {q : List QMsg} (h : n ≤ q.length) (x : QMsg) :
    flagFrom f n (q ++ [x]) = flagFrom f n q ++ [{ x with msg := { x.msg with flags := x.msg.flags ||| f } }] := by
  unfold flagFrom
  rw [List.take_append_of_le_length h, List.drop_append_of_le_length h, List.map_append, List.append_assoc]
  rfl

theorem length_flagFrom (f : Byte) (n : Nat) (q : List QMsg) : (flagFrom f n q).length = q.length := by
  unfold flagFrom
  simp
  omega

/-- A message sent behind others of the same access carries the access's flags as they do (R379). -/
theorem Sent.tagged_after {m : Msg} {charge : Option Nat} {s u t : State} (h : Sent m charge u t) (hgrow : QueuesGrow s u) (f : Byte) :
    Sent { m with flags := m.flags ||| f } charge (tagNew f s u) (tagNew f s t) := by
  obtain ⟨hq, hd, hother⟩ := h
  have hdropped : ∀ w : State, (tagNew f s w).dst.dropped = w.dst.dropped := fun _ => rfl
  unfold Sent
  simp only [hdropped, tagNew_queue, length_flagFrom]
  refine ⟨?_, hd, fun k hk => ⟨?_, (hother k hk).2⟩⟩
  · rw [hq]
    split
    · rw [flagFrom_append_of_le (hgrow.le _)]
      split
      · simp only [BitVec.or_assoc, BitVec.or_comm flagDropped f]
      · rfl
    · rfl
  · rw [(hother k hk).1]

/-! ## The entry that a replay reads (R290) -/

/-- The header of the entry that `t` selects. -/
def replayHeader (s : State) (t : Trn) : Nat := rdNat s (jrnAddr t t.entry.toNat) 72

/-- The counts of records that a header gives, by section. -/
def replayCounts (h : Nat) : List Nat := (List.range 4).map (fun i => bits h (8 * (48 + 4 * i)) 32)

def countsFit (t : Trn) (cnt : List Nat) : Bool := (List.range 4).all (fun i => decide (cnt.getD i 0 ≤ jcapOf t i))

/-- The entry with header `h` is readable, VALID, of context `c`, within its capacities, and its CRC is right. -/
def entrySound (s : State) (c : Nat) (t : Trn) (h : Nat) : Bool :=
  let a := jrnAddr t t.entry.toNat
  let cnt := replayCounts h
  decide (t.entry.toNat < 2 ^ t.jlog.toNat) && !rdPoison s a 72 && countsFit t cnt && !(jrnBody s t a cnt).any (·.poison)
    && nbit h 48 && decide (bits h 49 5 = 0) && decide (bits h 32 12 = c)
    && decide ((crc32c ((jrnBody s t a cnt).map (·.val))).toNat = bits h 512 32)

/-- The state in which the header `h` has been read, and the records where their counts fit. -/
def replayRead (t : Trn) (h : Nat) (s : State) : State :=
  let a := jrnAddr t t.entry.toNat
  touchReads srcBob 0 (sectorsOf a 72 ++ (if countsFit t (replayCounts h) then (List.range 4).flatMap (fun i =>
    sectorsOf (a + jrnOff t i) ((replayCounts h).getD i 0 * jrnSize i)) else [])) s

/-- Training state `t` with the words of the entry whose header is `h`. -/
def trnArmed (h : Nat) (t : Trn) : Trn :=
  { t with
    exp := some (BitVec.ofNat 8 (bits h 96 8)), clean := BitVec.ofNat 32 (bits h 128 32), optStep := BitVec.ofNat 32 (bits h 160 32)
    seed := BitVec.ofNat 64 (bits h 192 64), verdict := 0, armed := true, held := false, reason := 0, jused := [], jopen := none }

def ctxArmed (h : Nat) (x : Ctx) : Ctx := { x with step := BitVec.ofNat 32 (bits h 64 32), phase := .fwd, done := 0 }

theorem armReplay_eq {c h : Nat} {t : Trn} {s : State} (ht : s.trn c = t) (hh : replayHeader s t = h) :
    armReplay c s = if decide (t.mode ≠ 0) && entrySound s c t h then
        ((replayRead t h s).setTrn c (trnArmed h t)).setCtx c (ctxArmed h ((replayRead t h s).ctx c))
      else faultParam srcBob kREPLAY_ARM c (replayRead t h s) := by
  subst ht
  unfold armReplay
  extract_lets t a hdr cnt fits body u ok t1
  have hhdr : hdr = h := hh
  -- the header is a large number from memory: nothing below depends on which
  clear_value hdr
  subst hhdr
  have hok : ok = (decide (t.mode ≠ 0) && entrySound s c t hdr) := by
    have hfits : countsFit t (replayCounts hdr) = fits := rfl
    unfold entrySound
    dsimp only
    rw [hfits]
    cases hf : fits
    · simp [ok, hf]
    · have hbody : body = jrnBody s t a cnt := if_pos hf
      simp only [ok, hf, hbody, Bool.and_assoc]
      rfl
  rw [← hok]
  rfl

theorem replayRead_unchanged (t : Trn) (h : Nat) (s : State) : Unchanged [.reg, .mem, .errs, .skn, .dst, .seqs] s (replayRead t h s) :=
  unchanged_of_mask (by simp [pieces, replayRead])

theorem sameData_replayRead (t : Trn) (h : Nat) (s : State) : SameData s (replayRead t h s) := sameData_touchReads ..

theorem queuesGrow_replayRead (t : Trn) (h : Nat) (s : State) : QueuesGrow s (replayRead t h s) := queuesGrow_touchReads ..

theorem tagNew_ctx (f : Byte) (s t : State) (c : Nat) : (tagNew f s t).ctx c = t.ctx c :=
  ctx_of_ctxs (tagNew_unchanged f s t .ctxs (by decide)) c

theorem sameData_setTrn (c : Nat) (x : Trn) (s : State) : SameData s (s.setTrn c x) :=
  .of_unchanged (setTrn_unchanged c x s) (by decide)

/-! ## A write of the REPLAY word (R290, R291) -/

/-- Training state `t` with the MODE and ENTRY that the word `v` gives. -/
def replaySelected (v : Word) (t : Trn) : Trn :=
  { t with mode := v.setWidth 2, entry := (v >>> 2).setWidth 4, jopen := if (v.setWidth 2 : BitVec 2) = 0 then t.jopen else none }

/-- The hold of `t` ends, and its replay where it was held for another reason than a capture. -/
def trnResumed (t : Trn) : Trn :=
  let r : Trn := { t with held := false, reason := 0, jopen := if t.mode = 0 then t.jopen else none }
  if t.reason = 2 ∨ t.reason = 3 then { r with mode := 0, armed := false, jused := [] } else r

section

variable {c : Nat} {v : Word} {s : State}

theorem writeReplay_arms (hidle : ctxIdle s c = true) (harm : v.getLsbD 6 = true) (hresume : v.getLsbD 7 = false)
    (h0 : (v.setWidth 2 : BitVec 2) ≠ 0) (h3 : (v.setWidth 2 : BitVec 2) ≠ 3) :
    writeReplay c v s = .done (armReplay c (s.setTrn c (replaySelected v (s.trn c)))) := by
  unfold writeReplay
  dsimp only
  rw [if_neg h3, if_neg (by simp [hidle]), harm, hresume]
  simp only [h0, decide_false, Bool.false_and, Bool.false_eq_true, if_false, if_true]
  rw [replaySelected, if_neg h0]

theorem writeReplay_resumes (hresume : v.getLsbD 7 = true) (harm : v.getLsbD 6 = false) (hmode : v.setWidth 2 = (s.trn c).mode)
    (h3 : (s.trn c).mode ≠ 3) (hentry : (v >>> 2).setWidth 4 = (s.trn c).entry) (hheld : (s.trn c).held = true) :
    writeReplay c v s = .done (s.setTrn c (trnResumed (s.trn c))) := by
  unfold writeReplay
  dsimp only
  rw [hmode, hentry, harm, hresume, if_neg h3, if_neg (by simp)]
  have hkeeps : ¬ ((decide ((s.trn c).mode = 0) && decide ((s.trn c).mode ≠ 0)) = true) := by simp
  rw [if_neg Bool.false_ne_true, if_neg hkeeps, if_pos (by simp [hheld])]
  simp only [trnResumed, Bool.or_eq_true, decide_eq_true_eq]

end

section

variable {v : Word} {s t : State} (hmgmt : mgmtRuns s = true) (hgate : blockGated s (rBob 0x204) = false) (h14 : trnSelWord s = 14)
  (h : writeReplay (trnSelCtx s) v s = .done t)

include hmgmt hgate h14 h

theorem hostBob_replay : hostBob 0x204 v s = tagNew flagHost s t :=
  hostBob_trnData_done hmgmt hgate ((writeTrn_replay (by omega) h14).trans h)

theorem execArm_writes (harm : v.getLsbD 6 = true) : exec (.arm v) s = .next (tagNew flagHost s t) := by
  have hcond : (if trnSelWord s = 14 && v.getLsbD 6 then hostBob 0x204 v s else s) = hostBob 0x204 v s := if_pos (by simp [h14, harm])
  exact congrArg Host.Outcome.next (hcond.trans (hostBob_replay hmgmt hgate h14 h))

theorem execResume_writes (hresume : v.getLsbD 7 = true) : exec (.resume v) s = .next (tagNew flagHost s t) := by
  have hcond : (if trnSelWord s = 14 && v.getLsbD 7 then hostBob 0x204 v s else s) = hostBob 0x204 v s :=
    if_pos (by simp [h14, hresume])
  exact congrArg Host.Outcome.next (hcond.trans (hostBob_replay hmgmt hgate h14 h))

end

/-! ## What ARM leaves -/

theorem BytesKept.of_sameData {s t : State} (h : SameData s t) : BytesKept [] s t := fun a _ hint => h.val a hint

theorem rdBytes_setTrn (c : Nat) (y : Trn) (s : State) (a n : Nat) : rdBytes (s.setTrn c y) a n = rdBytes s a n := rfl

theorem replayHeader_setTrn (c : Nat) (y t : Trn) (s : State) : replayHeader (s.setTrn c y) t = replayHeader s t := by
  unfold replayHeader rdNat rdVals
  rw [rdBytes_setTrn]

theorem rdPoison_setTrn (c : Nat) (y : Trn) (s : State) (a n : Nat) : rdPoison (s.setTrn c y) a n = rdPoison s a n := by
  unfold rdPoison
  rw [rdBytes_setTrn]

theorem jrnBody_setTrn (c : Nat) (y : Trn) (s : State) (t : Trn) (a : Nat) (cnt : List Nat) :
    jrnBody (s.setTrn c y) t a cnt = jrnBody s t a cnt := by
  unfold jrnBody
  simp only [rdBytes_setTrn]

theorem entrySound_setTrn (c : Nat) (y : Trn) (s : State) (d : Nat) (t : Trn) (h : Nat) :
    entrySound (s.setTrn c y) d t h = entrySound s d t h := by
  unfold entrySound
  dsimp only
  rw [rdPoison_setTrn, jrnBody_setTrn]

section

variable (c h : Nat) (y : Trn) (s : State)

/-- The state in which a context's REPLAY word stands and the entry with header `h` has been read. -/
def armRead : State := replayRead y h (s.setTrn c y)

theorem armRead_unchanged : Unchanged [.trns, .reg, .mem, .errs, .skn, .dst, .seqs] s (armRead c h y s) :=
  (setTrn_unchanged c y s).trans (replayRead_unchanged y h _) (by decide) (by decide)

theorem sameData_armRead : SameData s (armRead c h y s) := (sameData_setTrn c y s).trans (sameData_replayRead y h _)

theorem queuesGrow_armRead : QueuesGrow s (armRead c h y s) :=
  (QueuesGrow.of_dst (State.setTrn_dst ..)).trans (queuesGrow_replayRead y h (s.setTrn c y))

theorem armRead_trn (d : Nat) : (armRead c h y s).trn d = if c = d then y else s.trn d :=
  (trn_of_trns (replayRead_unchanged y h _ .trns (by decide)) d).trans (State.trn_setTrn ..)

end

section

variable {c h : Nat} {y : Trn} {s : State} (hh : replayHeader s y = h)

include hh

/-- An ARM whose entry is sound. -/
theorem armReplay_loads (hmode : y.mode ≠ 0) (hsound : entrySound s c y h = true) :
    armReplay c (s.setTrn c y) = ((armRead c h y s).setTrn c (trnArmed h y)).setCtx c (ctxArmed h ((armRead c h y s).ctx c)) := by
  rw [armReplay_eq (by rw [State.trn_setTrn, if_pos rfl]) ((replayHeader_setTrn ..).trans hh), entrySound_setTrn,
    if_pos (by rw [decide_eq_true hmode, hsound]; rfl)]
  rfl

/-- An ARM whose entry is not sound. -/
theorem armReplay_refuses (hsound : entrySound s c y h = false) :
    armReplay c (s.setTrn c y) = faultParam srcBob kREPLAY_ARM c (armRead c h y s) := by
  rw [armReplay_eq (by rw [State.trn_setTrn, if_pos rfl]) ((replayHeader_setTrn ..).trans hh), entrySound_setTrn,
    if_neg (by simp [hsound])]
  rfl

theorem armReplay_loads_leaves (hmode : y.mode ≠ 0) (hsound : entrySound s c y h = true) :
    (∀ d, (tagNew flagHost s (armReplay c (s.setTrn c y))).trn d = if c = d then trnArmed h y else s.trn d)
      ∧ (∀ d, (tagNew flagHost s (armReplay c (s.setTrn c y))).ctx d
        = if c = d then ctxArmed h (s.ctx c) else s.ctx d)
      ∧ BytesKept [] s (tagNew flagHost s (armReplay c (s.setTrn c y)))
      ∧ Unchanged [.trns, .ctxs, .dst, .seqs, .reg, .mem, .errs, .skn] s (tagNew flagHost s (armReplay c (s.setTrn c y))) := by
  rw [armReplay_loads hh hmode hsound]
  have hread := armRead_unchanged c h y s
  have hctx : ∀ d, (armRead c h y s).ctx d = s.ctx d := ctx_of_ctxs (hread .ctxs (by decide))
  have hload : Unchanged [.trns, .ctxs, .dst] (armRead c h y s) (tagNew flagHost s
      (((armRead c h y s).setTrn c (trnArmed h y)).setCtx c (ctxArmed h ((armRead c h y s).ctx c)))) :=
    unchanged_of_mask (by simp [pieces])
  refine ⟨fun d => ?_, fun d => ?_, .of_sameData ((sameData_armRead c h y s).trans (.of_unchanged hload (by decide))),
    hread.trans hload (by decide) (by decide)⟩
  · rw [tagNew_trn, trn_of_trns (State.setCtx_trns ..), State.trn_setTrn, armRead_trn]
    split <;> rfl
  · rw [tagNew_ctx, State.ctx_setCtx, ctx_of_ctxs (State.setTrn_ctxs ..), hctx c, hctx d]

theorem armReplay_refuses_leaves (hsound : entrySound s c y h = false) :
    (∀ d, (tagNew flagHost s (armReplay c (s.setTrn c y))).trn d = if c = d then y else s.trn d)
      ∧ Unchanged [.trns, .dst, .seqs, .reg, .mem, .errs, .skn] s (tagNew flagHost s (armRead c h y s))
      ∧ Sent { source := srcBob, kind := kREPLAY_ARM, flags := flagParam ||| flagHost, addr := BitVec.ofNat 48 c } none
        (tagNew flagHost s (armRead c h y s)) (tagNew flagHost s (armReplay c (s.setTrn c y)))
      ∧ BytesKept [] s (tagNew flagHost s (armReplay c (s.setTrn c y)))
      ∧ Unchanged [.trns, .dst, .seqs, .reg, .mem, .errs, .skn] s (tagNew flagHost s (armReplay c (s.setTrn c y))) := by
  rw [armReplay_refuses hh hsound]
  have hread := armRead_unchanged c h y s
  have hfault : Unchanged [.dst, .seqs] (armRead c h y s) (tagNew flagHost s (faultParam srcBob kREPLAY_ARM c (armRead c h y s))) :=
    unchanged_of_mask (by simp [pieces])
  exact ⟨fun d => (trn_of_trns (hfault .trns (by decide)) d).trans (armRead_trn c h y s d),
    hread.trans (tagNew_unchanged _ s _) (by decide) (by decide),
    Sent.tagged_after (sent_sendMsg _ _) (queuesGrow_armRead c h y s) flagHost,
    .of_sameData ((sameData_armRead c h y s).trans (.of_unchanged hfault (by decide))), hread.trans hfault (by decide) (by decide)⟩

end

/-! ## The obligation -/

theorem setWidth_two_ne {v : Word} {n : Nat} (hn : n < 4) (h : v.toNat % 4 ≠ n) : (v.setWidth 2 : BitVec 2) ≠ BitVec.ofNat 2 n := by
  intro heq
  have hval := congrArg BitVec.toNat heq
  simp only [BitVec.toNat_setWidth, BitVec.toNat_ofNat] at hval
  omega

theorem replaySelected_entry (v : Word) (t : Trn) : (replaySelected v t).entry.toNat = v.toNat / 4 % 16 := by
  simp [replaySelected, BitVec.toNat_ushiftRight, Nat.shiftRight_eq_div_pow]

theorem jrnAddr_replaySelected (v : Word) (t : Trn) (n : Nat) : jrnAddr (replaySelected v t) n = jrnAddr t n := rfl

/-- Settles O24: an ARM by whether its entry is sound, and a RESUME by why its context is held. -/
theorem replayArmsAndResumes : Obligations.ReplayArmsAndResumes := by
  unfold Obligations.ReplayArmsAndResumes
  rintro v s c x hmgmt hgate h14 rfl rfl
  refine ⟨fun h cnt sound hidle harm hnoresume h0 h3 hh hcnt hsound => ?_,
    fun hresume hnoarm hmode h3 hentry hheld => ?_⟩
  · have hm0 : (v.setWidth 2 : BitVec 2) ≠ 0 := setWidth_two_ne (by decide) h0
    have hjopen : (replaySelected v (s.trn (trnSelCtx s))).jopen = none := if_neg hm0
    have hexec := execArm_writes hmgmt hgate h14 (writeReplay_arms hidle harm hnoresume hm0 (setWidth_two_ne (by decide) h3)) harm
    have hheader : replayHeader s (replaySelected v (s.trn (trnSelCtx s))) = h := by
      rw [hh, replayHeader, replaySelected_entry, jrnAddr_replaySelected]
    have hentry : entrySound s (trnSelCtx s) (replaySelected v (s.trn (trnSelCtx s))) h = sound := by
      rw [hsound, hcnt, entrySound, replaySelected_entry]
      rfl
    refine ⟨fun hok => ?_, fun hbad => ?_⟩
    · obtain ⟨htrn, hctx, hkept, hframe⟩ := armReplay_loads_leaves hheader hm0 (hentry.trans hok)
      refine ⟨_, hexec, fun d hd => ⟨by rw [htrn, if_neg (Ne.symm hd)], by rw [hctx, if_neg (Ne.symm hd)]⟩, ?_⟩
      rw [htrn, hctx, if_pos rfl, if_pos rfl]
      exact ⟨rfl, rfl, rfl, rfl, rfl, rfl, rfl, rfl, rfl, rfl, rfl, rfl, hkept, hframe⟩
    · obtain ⟨htrn, hread, hsent, hkept, hframe⟩ := armReplay_refuses_leaves hheader (hentry.trans hbad)
      refine ⟨_, tagNew flagHost s (armRead (trnSelCtx s) h (replaySelected v (s.trn (trnSelCtx s))) s), hexec, fun d hd => by rw [htrn, if_neg (Ne.symm hd)], ?_⟩
      rw [htrn, if_pos rfl]
      exact ⟨rfl, rfl, rfl, rfl, hjopen, hread, hsent, hkept, hframe⟩
  · have hexec := execResume_writes hmgmt hgate h14 (writeReplay_resumes hresume hnoarm hmode h3 hentry hheld) hresume
    obtain ⟨htrn, hothers, hdst, hframe⟩ := setTrn_tagged (trnSelCtx s) (trnResumed (s.trn (trnSelCtx s))) s
    exact ⟨fun h2 h3 => ⟨_, hexec, hothers, hdst, hframe, htrn.trans (if_neg (not_or.mpr ⟨h2, h3⟩))⟩,
      fun hends => ⟨_, hexec, hothers, hdst, hframe, htrn.trans (if_pos hends)⟩⟩

end Sys2Proof.Machine
end

section
/-! SUPPORT. Reduction messages (R305 to R310, R366): how a SEND on an RC Dexornian queue pair reaches the command that takes it, and
what answers it. -/

namespace Sys2Proof.Machine

/-! ## Packets that are taken in leave the queue pair's kind -/

theorem qp_of_qps {s t : State} (h : t.qps = s.qps) (n : Nat) : t.qp n = s.qp n := congrArg (fun m : AMap Qp => mget m n {}) h

theorem qp_setQp (s : State) (n : Nat) (q : Qp) : (s.setQp n q).qp n = q := by
  have hset : (({ s with qps := mput s.qps n q {} } : State)).qp n = q := by simp [State.qp]
  unfold State.setQp
  extract_lets old s1
  split
  · exact hset
  · have hkept : Unchanged [.reg, .mem, .errs, .skn, .dst, .seqs] s1 (storeQp n old q s1) := unchanged_of_mask (by simp [pieces])
    exact (qp_of_qps (hkept .qps (by decide)) n).trans hset

theorem ceMark_dex (n k dest : Nat) (s : State) : ((ceMark n k dest s).qp n).dex = (s.qp n).dex := by
  unfold ceMark
  extract_lets q p s1 gap due
  split
  · have hkept (u : State) : Unchanged [.reg, .prts, .out] u ((answerOn n 1 1 (.cnp (BitVec.ofNat 16 n) dest) u).count (rPrt p 0x64) 1) :=
      unchanged_of_mask (by simp [pieces])
    rw [qp_of_qps (hkept _ .qps (by decide)), qp_setQp]
  · have hkept : Unchanged [.reg] s s1 := unchanged_of_mask (by simp [s1, pieces])
    rw [qp_of_qps (hkept .qps (by decide))]

theorem ingressFrom_dex (n k src_ : Nat) (ing : Ingress) (s : State) :
    ((ingressFrom n k src_ ing s).1.qp n).dex = (s.qp n).dex := by
  unfold ingressFrom
  extract_lets q p s1 s2
  have h1 : Unchanged [.reg] s s1 := unchanged_of_mask (by simp [s1, pieces])
  have hdex1 : (s1.qp n).dex = (s.qp n).dex := by rw [qp_of_qps (h1 .qps (by decide))]
  have hdex2 : (s2.qp n).dex = (s.qp n).dex := by
    simp only [s2]
    split
    · exact hdex1
    · exact (ceMark_dex ..).trans hdex1
  have hcount : Unchanged [.reg] s2 (s2.count (rPrt p 0x54) 1) := unchanged_of_mask (by simp [pieces])
  have hwatch (c : Bool) : Unchanged [.reg, .prts, .out] s2 (watchIngress p c ing.occupancy s2) := unchanged_of_mask (by simp [pieces])
  split
  · split
    · rw [qp_of_qps (hcount .qps (by decide)), hdex2]
    · exact hdex2
  · rw [qp_of_qps (hwatch _ .qps (by decide)), hdex2]

theorem dex_of_ingress {n k : Nat} {ing : Ingress} {s s0 : State} {b : Bool} (h : ingress n k ing s = (s0, b)) :
    (s0.qp n).dex = (s.qp n).dex := by
  have hkept := ingressFrom_dex n k (s.qp n).destQpn ing s
  rwa [← ingress, h] at hkept

theorem qp_strikeAccs_noteEvents (hs : List Hit) (s : State) (n : Nat) :
    (strikeAccs hs (noteEvents perrReg hs s)).qp n = s.qp n := by
  have hkept : Unchanged [.reg, .dst, .seqs, .ply] s (strikeAccs hs (noteEvents perrReg hs s)) := unchanged_of_mask (by simp [pieces])
  exact qp_of_qps (hkept .qps (by decide)) n

/-! ## The message that a port hands on -/

theorem msgType_set_one (l : List Byte) (b : Byte) : msgType (l.set 1 b) = msgType l := by
  cases l <;> rfl

@[simp] theorem struckMsg_qpn (p : Nat) (m : SendIn) : (struckMsg p m).qpn = m.qpn := by
  unfold struckMsg
  split <;> rfl

@[simp] theorem msgType_struckMsg (p : Nat) (m : SendIn) : msgType (struckMsg p m).bytes = msgType m.bytes := by
  unfold struckMsg
  split
  · exact msgType_set_one ..
  · rfl

theorem msgType_of_typeWf {t : Nat} {m : SendIn} (h : typeWf t m = true) : msgType m.bytes = t := by
  unfold typeWf at h
  split at h
  · next hbytes => simpa [msgType, hbytes] using h
  · cases h

/-- A well-formed row of the seven reduction types is an arrival of a message of a reduction type. -/
theorem exec_reductionRow {m : SendIn} {c : Instr}
    (hc : c = .reduce m ∨ c = .prescaleUp m ∨ c = .prescaleDown m ∨ c = .sum m ∨ c = .gather m ∨ c = .verdictUp m ∨ c = .verdictDown m)
    (hwf : c.wf = true) (s : State) : exec c s = .next (arriveSend m s) ∧ reductionType (msgType m.bytes) = true := by
  have hrow : exec c s = guarded c (arriveSend m s) := by
    rcases hc with rfl | rfl | rfl | rfl | rfl | rfl | rfl <;> rfl
  refine ⟨hrow.trans (guarded_runs hwf _), ?_⟩
  rcases hc with rfl | rfl | rfl | rfl | rfl | rfl | rfl <;> rw [msgType_of_typeWf hwf] <;> rfl

theorem rmsgOk_of_messageOk {l : List Byte} (h : messageOk l = true) (ht : reductionType (msgType l) = true) : rmsgOk l = true := by
  simp only [messageOk, ht, if_true, Bool.and_eq_true] at h
  exact h.2

/-! ## From the queue pair to the plying engine, and the answer (R309, R366) -/

/-- The message as its port hands it on, in the state after its packets are taken in and its parity errors noted. -/
theorem arriveSend_takenIn {m : SendIn} {s s0 : State} (hst : (s.qp m.qpn.toNat).state = 3) (hud : (s.qp m.qpn.toNat).ud = false)
    (hup : portUp s (s.qp m.qpn.toNat).port = true)
    (hin : ingress m.qpn.toNat (packetsOf (s.qp m.qpn.toNat) m.bytes.length) m.ing s = (s0, true)) :
    arriveSend m s = sendRc (struckMsg (s.qp m.qpn.toNat).port m) (packetsOf (s.qp m.qpn.toNat) m.bytes.length)
      (strikeAccs m.hits (noteEvents perrReg m.hits s0)) := by
  simp only [ingress] at hin
  simp [arriveSend, hst, hud, hup, hin]

theorem sendRc_answers {m : SendIn} {k : Nat} {s t : State} {a : PlyAns} (hdex : (s.qp m.qpn.toNat).dex = true)
    (hok : messageOk m.bytes = true) (hover : handOver m s = (t, a)) :
    sendRc m k s = if a = .rnr then answer m.qpn.toNat (.rnrNak m.qpn) t
      else answer m.qpn.toNat (.rdmaAck m.qpn) (expectPsn m.qpn.toNat k t) := by
  simp [sendRc, hdex, hok, hover]

theorem handOver_reduction {m : SendIn} (ht : reductionType (msgType m.bytes) = true) (s : State) :
    handOver m s = plyDeliver (s.qp m.qpn.toNat).port m.bytes s := if_pos ht

/-- What the active command `d` makes of a message of another member that matches it. -/
def plyTaken (d : PlyCmd) (x : RMsg) (pay : List Byte) (s : State) : State × PlyAns :=
  if isReduceOp d then reduceMsg d x pay s else if isGatherOp d then gatherMsg d x pay s else verdictMsg d x s

theorem plyDeliver_matched {p : Nat} {l : List Byte} {s : State} {d : PlyCmd} (hok : rmsgOk l = true)
    (hfind : s.ply.find? (fun d => takesType d (parseRMsg l).type && d.tag = (parseRMsg l).tag && d.rdid = (parseRMsg l).rdid
      && (s.ctx (cCtx d.is.cmd)).step = (parseRMsg l).step) = some d)
    (hsrc : (parseRMsg l).src_ < d.size) (hother : (parseRMsg l).src_ ≠ d.rank) :
    plyDeliver p l s = plyAnswered p (parseRMsg l) d s (plyTaken d (parseRMsg l) (l.drop 64) s) := by
  simp [plyDeliver, hok, hfind, Nat.not_le.mpr hsrc, hother, plyTaken]

theorem plyAnswered_of_ack {p : Nat} {x : RMsg} {d : PlyCmd} {s : State} {r : State × PlyAns} (h : r.2 = .ack) :
    plyAnswered p x d s r = (plyMod d.is.id (fun d => { d with since := s.wall }) (r.1.count (rPly 0x18) 1), .ack) := by
  simp only [plyAnswered, h]

theorem plyAnswered_of_rnr {p : Nat} {x : RMsg} {d : PlyCmd} {s : State} {r : State × PlyAns} (h : r.2 = .rnr) :
    plyAnswered p x d s r = (r.1.count (rPly 0x1C) 1, .rnr) := by
  simp only [plyAnswered, h]

theorem arriveSend_unchanged (m : SendIn) (s : State) :
    Unchanged [.reg, .mem, .errs, .skn, .dst, .barriers, .barrierAt, .reports, .seqs, .trns, .qps, .prts, .ply, .out] s
      (arriveSend m s) := unchanged_of_mask (by simp [pieces])

/-- Settles O28: the row is the arrival of the message, which its queue pair hands to the command that matches it. -/
theorem reductionMessagesTaken : Obligations.ReductionMessagesTaken := by
  unfold Obligations.ReductionMessagesTaken
  rintro m m1 c s s0 s1 n k x d r hc hwf rfl rfl hst hud hdex hup hin hs1 hm1 hok rfl hfind hsrc hother hr
  obtain ⟨hexec, htype⟩ := exec_reductionRow hc hwf s
  have hqpn : m1.qpn = m.qpn := by rw [hm1, struckMsg_qpn]
  have htype1 : reductionType (msgType m1.bytes) = true := by rwa [hm1, msgType_struckMsg]
  have hdex1 : (s1.qp m1.qpn.toNat).dex = true := by
    rw [hs1, qp_strikeAccs_noteEvents, hqpn, dex_of_ingress hin, hdex]
  have htaken : r = plyTaken d (parseRMsg m1.bytes) (m1.bytes.drop 64) s1 := hr
  have hover : handOver m1 s1 = plyAnswered (s1.qp m1.qpn.toNat).port (parseRMsg m1.bytes) d s1 r := by
    rw [handOver_reduction htype1, plyDeliver_matched (rmsgOk_of_messageOk hok htype1) hfind hsrc hother, htaken]
  have harrive := arriveSend_takenIn hst hud hup hin
  rw [← hm1, ← hs1] at harrive
  refine ⟨fun hack => ⟨_, hexec, ?_, arriveSend_unchanged m s⟩, fun hrnr => ⟨_, hexec, ?_⟩⟩
  · rw [harrive, sendRc_answers hdex1 hok (hover.trans (plyAnswered_of_ack hack)), if_neg (by decide), hqpn]
  · rw [harrive, sendRc_answers hdex1 hok (hover.trans (plyAnswered_of_rnr hrnr)), if_pos rfl, hqpn]

end Sys2Proof.Machine
end

section
/-! SUPPORT. Skein memory through the management port's windows, the leak and the scrubber (R324, R328, R335, R336). -/

namespace Sys2Proof.Machine

/-! ## SKEIN_WRITE and SKEIN_READ -/

theorem writeBytes_unchanged (who : BitVec 16) (f : Byte) (ws : List (Nat × MByte)) (s : State) :
    Unchanged [.reg, .mem, .errs, .skn, .dst, .seqs] s (writeBytes who f ws s).1 := unchanged_of_mask (by simp [pieces])

theorem touchReads_unchanged (who : BitVec 16) (f : Byte) (l : List Nat) (s : State) :
    Unchanged [.reg, .mem, .errs, .skn, .dst, .seqs] s (touchReads who f l s) := unchanged_of_mask (by simp [pieces])

theorem applyUpsets_unchanged (us : List Upset) (s : State) : Unchanged [.errs, .pkg] s (applyUpsets us s) :=
  unchanged_of_mask (by simp [pieces])

theorem emit_unchanged (s : State) (o : Out) : Unchanged [.out] s (s.emit o) := unchanged_of_mask (by simp [pieces])

theorem sameData_emit (s : State) (o : Out) : SameData s (s.emit o) := .of_unchanged (emit_unchanged s o) (by decide)

/-- The bytes of a run, each with its address. -/
def runWrites (a : Nat) (l : List MByte) : List (Nat × MByte) := (List.range l.length).map (fun j => (a + j, l.getD j {}))

/-- No sector refuses exactly where every byte's sector answers. -/
theorem writeBytes_whole (who : BitVec 16) (f : Byte) (a : Nat) (l : List MByte) (s : State) :
    (writeBytes who f (runWrites a l) s).2 = [] ↔ ∀ j, j < l.length → sectorRefusal s (a + j) = none := by
  obtain ⟨-, -, hwhole, -⟩ := writeBytes_spec who f (runWrites a l) s
  rw [← List.isEmpty_iff, hwhole]
  simp [runWrites]

theorem exec_skeinWrite {src : BitVec 16} {a : Addr} {data : List MByte} {s : State} (hrun : mgmtRuns s = true)
    (hwf : (Instr.skeinWrite src a data).wf = true) :
    exec (.skeinWrite src a data) s = .next ((writeBytes src 0 (runWrites a.toNat data) s).1.emit
      (.sknAck src (writeBytes src 0 (runWrites a.toNat data) s).2)) := by
  show execSkeinWrite src a data s = _
  unfold execSkeinWrite
  rw [guarded_runs hwf, if_pos hrun]
  rfl

theorem exec_skeinRead {src : BitVec 16} {a : Addr} {len : Nat} {us : List Upset} {s : State} (hrun : mgmtRuns s = true)
    (hwf : (Instr.skeinRead src a len us).wf = true) :
    exec (.skeinRead src a len us) s
      = .next ((touchReads src 0 (sectorsOf a.toNat len) (applyUpsets us s)).emit
          (.sknData src ((rdBytes (applyUpsets us s) a.toNat len).map
            (fun b => if b.err then none else some { val := b.val, poison := b.poison })))) := by
  show execSkeinRead src a len us s = _
  unfold execSkeinRead
  rw [guarded_runs hwf, if_pos hrun]
  rfl

/-- Settles O25: the bytes go through `writeBytes` and `touchReads`, whose laws give what memory holds. -/
theorem skeinAccessesAnswer : Obligations.SkeinAccessesAnswer := by
  refine ⟨fun src a data s hrun hwf => ?_, fun src a len us s s1 hrun hwf hs1 => ?_⟩
  · obtain ⟨-, hstored, -, hintact⟩ := writeBytes_spec src 0 (runWrites a.toNat data) s
    have hun := writeBytes_unchanged src 0 (runWrites a.toNat data) s
    refine ⟨_, _, exec_skeinWrite hrun hwf, ?_, writeBytes_whole src 0 a.toNat data s,
      storedAs_right hstored (fun b hb => (hintact _).trans hb) (sameData_emit ..),
      hun.trans (emit_unchanged _ _) (by decide) (by decide)⟩
    rw [State.emit_out, hun .out (by decide)]
  · subst hs1
    have hups := applyUpsets_unchanged us s
    have hread := touchReads_unchanged src 0 (sectorsOf a.toNat len) (applyUpsets us s)
    refine ⟨_, exec_skeinRead hrun hwf, ?_, ?_, (hups.trans hread (n := [.reg, .mem, .errs, .skn, .dst, .seqs, .pkg])
      (by decide) (by decide)).trans (emit_unchanged _ _) (by decide) (by decide)⟩
    · rw [State.emit_out, hread .out (by decide), hups .out (by decide), rdBytes, List.map_map]
      rfl
    · exact ((sameData_touchReads ..).trans (sameData_emit ..)).kept

/-! ## BUCKET_LEAK -/

/-- Every entry of a table with one entry for each key, taken down by one. -/
theorem mget_foldl_lowered (l : AMap Nat) (hl : (l.map (·.1)).Nodup) (m : AMap Nat) (c : Nat) :
    mget (l.foldl (fun m e => mput m e.1 (e.2 - 1) 0) m) c 0 = if c ∈ l.map (·.1) then mget l c 0 - 1 else mget m c 0 := by
  induction l generalizing m with
  | nil => rfl
  | cons e r ih =>
    obtain ⟨k, v⟩ := e
    obtain ⟨hk, hr⟩ := List.nodup_cons.mp hl
    rw [List.foldl_cons, ih hr, mget_mput]
    simp only [List.map_cons, List.mem_cons, mget]
    by_cases hc : c ∈ r.map (·.1)
    · have hne : k ≠ c := fun h => hk (h ▸ hc)
      simp [hc, hne]
    · by_cases hkc : k = c
      · simp [hkc, hc]
      · simp [hkc, hc, Ne.symm hkc]

theorem mget_of_not_mem {α : Type} {l : AMap α} {c : Nat} (h : c ∉ l.map (·.1)) (d : α) : mget l c d = d := by
  induction l with
  | nil => rfl
  | cons e r ih =>
    obtain ⟨hne, hr⟩ : c ≠ e.1 ∧ c ∉ r.map (·.1) := by simpa using h
    rw [mget, if_neg (Ne.symm hne), ih hr]

/-- A leak lowers every bucket by one, not below 0. -/
theorem mget_lowered {l : AMap Nat} (hl : (l.map (·.1)).Nodup) (c : Nat) :
    mget (l.foldl (fun m e => mput m e.1 (e.2 - 1) 0) []) c 0 = mget l c 0 - 1 := by
  rw [mget_foldl_lowered l hl]
  split
  next hc => rfl
  next hc => rw [mget_of_not_mem hc]; rfl

/-! ## SCRUB_GRANULE -/

/-- Each skein stands where it stood in its scrub pass, and in its training. -/
structure SkeinsStay (s t : State) : Prop where
  mode : ∀ k, (t.skein k).mode = (s.skein k).mode
  scrubPos : ∀ k, (t.skein k).scrubPos = (s.skein k).scrubPos

theorem SkeinsStay.trans {s t u : State} (h : SkeinsStay s t) (k : SkeinsStay t u) : SkeinsStay s u :=
  ⟨fun n => (k.mode n).trans (h.mode n), fun n => (k.scrubPos n).trans (h.scrubPos n)⟩

theorem SkeinsStay.of_skn {s t : State} (h : t.skn = s.skn) : SkeinsStay s t :=
  have hk (k : Nat) : t.skein k = s.skein k := congrArg (fun m : AMap Skn => mget m k {}) h
  ⟨fun k => by rw [hk], fun k => by rw [hk]⟩

theorem SkeinsStay.of_unchanged {ps : List Piece} {s t : State} (h : Unchanged ps s t) (hp : Piece.skn ∉ ps) : SkeinsStay s t :=
  .of_skn (h .skn hp)

theorem skeinsStay_setSkein {k : Nat} {x : Skn} {s : State} (hm : x.mode = (s.skein k).mode)
    (hp : x.scrubPos = (s.skein k).scrubPos) : SkeinsStay s (s.setSkein k x) :=
  ⟨fun j => by rw [State.skein_setSkein]; split <;> simp_all, fun j => by rw [State.skein_setSkein]; split <;> simp_all⟩

theorem skeinsStay_foldl {α : Type} {g : State → α → State} (h : ∀ s x, SkeinsStay s (g s x)) (l : List α) (s : State) :
    SkeinsStay s (l.foldl g s) := by
  induction l generalizing s with
  | nil => exact .of_skn rfl
  | cons x r ih => exact (h s x).trans (ih _)

theorem skeinsStay_count (a n : Nat) (s : State) : SkeinsStay s (s.count a n) := .of_unchanged (count_unchanged a n s) (by decide)

theorem skeinsStay_sendMsg (m : Msg) (c : Option Nat) (s : State) : SkeinsStay s (sendMsg m c s) :=
  .of_unchanged (sendMsg_unchanged m c s) (by decide)

theorem skeinsStay_bucketAdd (k c a : Nat) (s : State) : SkeinsStay s (bucketAdd k c a s) := by
  unfold bucketAdd
  extract_lets sk from_ level full up sk1
  have hset : SkeinsStay s (s.setSkein k sk1) := by
    apply skeinsStay_setSkein <;> (simp only [sk1]; cases beforeLeak s k <;> rfl)
  split
  · exact (hset.trans (skeinsStay_sendMsg ..)).trans (skeinsStay_count ..)
  · exact hset

theorem skeinsStay_correctable (k sec : Nat) (s : State) : SkeinsStay s (correctable k sec s) :=
  (skeinsStay_count ..).trans (skeinsStay_bucketAdd ..)

theorem skeinsStay_uncorrectable (kind : Byte) (k sec : Nat) (s : State) : SkeinsStay s (uncorrectable kind k sec s) := by
  unfold uncorrectable faultAddr
  exact ((skeinsStay_count (rSkn k 0x08) 1 s).trans (skeinsStay_setSkein (by rfl) (by rfl))).trans (skeinsStay_sendMsg ..)

theorem skeinsStay_store (sec : Nat) (l e : List Byte) (s : State) :
    SkeinsStay s ((s.setBytes (sec * 32) l).writeErr sec e) :=
  .of_unchanged (ps := [.mem, .errs]) (unchanged_of_mask (by simp [pieces])) (by decide)

theorem skeinsStay_scrubSector (sec : Nat) (s : State) : SkeinsStay s (scrubSector sec s) := by
  unfold scrubSector
  dsimp only
  split
  · exact .of_skn rfl
  · exact .of_skn rfl
  · exact (skeinsStay_correctable ..).trans (skeinsStay_store ..)
  · exact skeinsStay_uncorrectable ..

theorem dataOf_correctable (k sec x : Nat) (s : State) : dataOf (correctable k sec s) x = dataOf s x := by
  have h : Unchanged [.reg, .skn, .dst, .seqs] s (correctable k sec s) := unchanged_of_mask (by simp [pieces])
  exact dataOf_congr (h .mem (by decide)) (h .errs (by decide)) x

/-- The scrubber writes back what the sector delivers. -/
theorem sameData_scrubSector (sec : Nat) (s : State) : SameData s (scrubSector sec s) := by
  unfold scrubSector
  dsimp only
  split
  · exact .rfl' s
  · exact .rfl' s
  · exact (sameData_correctable (sknOf (sec * 32)) sec s).trans (sameData_store _ _ _ (dataOf_correctable ..).symm)
  · exact sameData_uncorrectable ..

/-- One granule of every channel, sector by sector, but for those the scrubber skips. -/
def scrubChannels (k g : Nat) (s : State) : State :=
  (List.range 32).foldl (fun s c =>
    let a := k * 2 ^ 35 + granuleOff c g
    if scrubSkips s k a then s else (List.range 8).foldl (fun s i => scrubSector (a / 32 + i) s) s) s

theorem skeinsStay_scrubChannels (k g : Nat) (s : State) : SkeinsStay s (scrubChannels k g s) :=
  skeinsStay_foldl (fun s c => by
    dsimp only
    split
    · exact .of_skn rfl
    · exact skeinsStay_foldl (fun s i => skeinsStay_scrubSector _ s) _ s) _ s

theorem sameData_scrubChannels (k g : Nat) (s : State) : SameData s (scrubChannels k g s) :=
  sameData_foldl _ (fun s c => by
    dsimp only
    split
    · exact .rfl' s
    · exact sameData_foldl _ (fun s i => sameData_scrubSector _ s) _ s) _ s

/-- The position after granule `g` (R336). -/
def nextGranule (g : Nat) : Nat := if g + 1 = 3145728 then 0 else g + 1

/-- The scrubber of skein `k` has scrubbed granule `g` and moves on. -/
def scrubMoved (k g from_ : Nat) (s : State) : State :=
  s.setSkein k { s.skein k with scrubPos := nextGranule g, scrubFrom := from_ }

theorem scrubGranule_eq (k : Nat) (s : State) :
    scrubGranule k s
      = if (s.skein k).scrubPos + 1 = 3145728 then
          (scrubMoved k (s.skein k).scrubPos s.tick (scrubChannels k (s.skein k).scrubPos s)).count (rSkn k 0x38) 1
        else scrubMoved k (s.skein k).scrubPos s.tick (scrubChannels k (s.skein k).scrubPos s) := by
  unfold scrubGranule scrubMoved nextGranule
  rfl

theorem scrubGranule_skein (k j : Nat) (s : State) :
    (scrubGranule k s).skein j = (scrubMoved k (s.skein k).scrubPos s.tick (scrubChannels k (s.skein k).scrubPos s)).skein j := by
  rw [scrubGranule_eq]
  split
  · exact congrArg (fun m : AMap Skn => mget m j {}) (count_unchanged _ _ _ .skn (by decide))
  · rfl

theorem sameData_scrubGranule (k : Nat) (s : State) : SameData s (scrubGranule k s) := by
  have h : SameData s (scrubMoved k (s.skein k).scrubPos s.tick (scrubChannels k (s.skein k).scrubPos s)) :=
    (sameData_scrubChannels ..).trans (sameData_setSkein _ k _ rfl)
  rw [scrubGranule_eq]
  split
  · exact h.trans (sameData_count ..)
  · exact h

/-- Where the skein is READY and scrubs, and the interval has passed, the row is the scrub of one granule. -/
theorem exec_scrubGranule {k : BitVec 5} {us : List Upset} {s : State} (hwf : (Instr.scrubGranule k us).wf = true)
    (hon : (s.getReg (rSkn k.toNat 0x2C)).getLsbD 0 = true) (hready : (s.skein k.toNat).mode = .ready)
    (hgate : s.gate.getLsbD (vecSkn k.toNat) = true) (hbusy : s.rstBusy.getLsbD (vecSkn k.toNat) = false)
    (hdue : (s.getReg (rSkn k.toNat 0x30)).toNat ≤ elapsed s.tick (s.skein k.toNat).scrubFrom) :
    exec (.scrubGranule k us) s = .next (scrubGranule k.toNat (applyUpsets us s)) := by
  show execScrubGranule k us s = _
  unfold execScrubGranule
  dsimp only
  rw [guarded_runs hwf, if_pos (by simp [hon, hready, hgate, hbusy, hdue])]

theorem exec_bucketLeak {k : BitVec 5} {s : State} (hready : s.ready = true) :
    exec (.bucketLeak k) s = .next (if (bucketCfg s k.toNat).2.toNat ≤ elapsed s.tick (s.skein k.toNat).leakFrom then
      leakBuckets k.toNat s else s) := by
  show execBucketLeak k s = _
  simp [execBucketLeak, hready]

/-- Settles O26: a leak is one update of its skein, and a scrub writes back what each sector delivers. -/
theorem leakAndScrub : Obligations.LeakAndScrub := by
  refine ⟨fun k s hready => ⟨fun hdue hnodup => ?_, fun hearly => ?_⟩,
    fun k us s s1 hwf hs1 hon hmode hgate hbusy hdue => ?_⟩
  · have hexec := exec_bucketLeak (k := k) hready
    rw [if_pos hdue] at hexec
    have hskein (j : Nat) : (leakBuckets k.toNat s).skein j = _ := State.skein_setSkein ..
    refine ⟨_, _, _, _, hexec, fun c => ?_, (hskein _).trans (if_pos rfl), fun j hj => (hskein j).trans (if_neg (Ne.symm hj)),
      unchanged_of_mask (by simp [pieces])⟩
    rw [hskein, if_pos rfl]
    exact mget_lowered hnodup c
  · rw [exec_bucketLeak hready, if_neg (by omega)]
  · subst hs1
    have hups := applyUpsets_unchanged us s
    have htick : (applyUpsets us s).tick = s.tick := hups .tick (by decide)
    have hscan := skeinsStay_scrubChannels k.toNat ((applyUpsets us s).skein k.toNat).scrubPos (applyUpsets us s)
    have hstay := (SkeinsStay.of_unchanged hups (by decide)).trans hscan
    have hrun : Unchanged [.reg, .mem, .errs, .skn, .dst, .seqs] (applyUpsets us s) (scrubGranule k.toNat (applyUpsets us s)) :=
      unchanged_of_mask (by simp [pieces])
    have hpos : ((applyUpsets us s).skein k.toNat).scrubPos = (s.skein k.toNat).scrubPos :=
      (SkeinsStay.of_unchanged hups (by decide)).scrubPos _
    refine ⟨_, exec_scrubGranule hwf hon hmode hgate hbusy hdue, ?_, ?_, fun j hj => ?_, (sameData_scrubGranule ..).kept,
      hups.trans hrun (by decide) (by decide)⟩
    · rw [scrubGranule_skein, scrubMoved, State.skein_setSkein, if_pos rfl, hpos]
      rfl
    · rw [scrubGranule_skein, scrubMoved, State.skein_setSkein, if_pos rfl, htick]
    · rw [scrubGranule_skein, scrubMoved, State.skein_setSkein, if_neg (Ne.symm hj), hstay.scrubPos]

end Sys2Proof.Machine
end

section
/-! SUPPORT. A READ of a peer (R359, R363): what reading and answering leave of the bytes that later packets carry, and of what their
headers are made of. -/

namespace Sys2Proof.Machine

/-! ## Registers above those of the skeins -/

/-- The registers above those of the skeins read alike. -/
structure SameHighRegs (s t : State) : Prop where
  getReg : ∀ a, regOff 6 0 0 ≤ a → t.getReg a = s.getReg a

theorem SameHighRegs.trans {s t u : State} (h : SameHighRegs s t) (k : SameHighRegs t u) : SameHighRegs s u :=
  ⟨fun a ha => (k.getReg a ha).trans (h.getReg a ha)⟩

theorem SameHighRegs.of_unchanged {ps : List Piece} {s t : State} (h : Unchanged ps s t) (hp : Piece.reg ∉ ps) : SameHighRegs s t :=
  ⟨fun a _ => congrArg (fun m => mget m a (regReset a)) (h .reg hp)⟩

theorem sameHighRegs_count {k o : Nat} (hk : k < 256) (ho : o < 65536) (n : Nat) (s : State) :
    SameHighRegs s (s.count (rSkn k o) n) := ⟨fun a ha => by
  refine getReg_count_ne ?_ n s
  unfold rSkn regOff at *
  omega⟩

theorem sameHighRegs_sendMsg (m : Msg) (c : Option Nat) (s : State) : SameHighRegs s (sendMsg m c s) :=
  .of_unchanged (sendMsg_unchanged m c s) (by decide)

theorem sameHighRegs_setSkein (k : Nat) (x : Skn) (s : State) : SameHighRegs s (s.setSkein k x) :=
  .of_unchanged (ps := [.skn]) (unchanged_of_mask (by simp [pieces])) (by decide)

theorem sameHighRegs_store (sec : Nat) (l e : List Byte) (s : State) :
    SameHighRegs s ((s.setBytes (sec * 32) l).writeErr sec e) :=
  .of_unchanged (ps := [.mem, .errs]) (unchanged_of_mask (by simp [pieces])) (by decide)

theorem sknOf_lt {a : Nat} (h : a < 2 ^ 40) : sknOf a < 256 := by
  unfold sknOf
  omega

/-- A sector that answers is populated, so its skein is one of the 32. -/
theorem sknOf_lt_of_answers {s : State} {a : Nat} (h : sectorRefusal s a = none) : sknOf a < 256 := by
  refine sknOf_lt ?_
  unfold sectorRefusal at h
  split at h
  next => cases h
  next hp =>
    have hp : populated a = true := by simpa using hp
    simp only [populated, Bool.and_eq_true, decide_eq_true_eq] at hp
    exact hp.1

theorem sameHighRegs_errorResponse (who : BitVec 16) (f : Byte) (a : Nat) (kind : Byte) (s : State) :
    SameHighRegs s (errorResponse who f a kind s) := by
  unfold errorResponse
  split
  next h => exact (sameHighRegs_count (sknOf_lt h) (by decide) 1 s).trans (sameHighRegs_sendMsg ..)
  next => exact sameHighRegs_sendMsg ..

theorem sameHighRegs_correctable {k : Nat} (hk : k < 256) (sec : Nat) (s : State) : SameHighRegs s (correctable k sec s) := by
  unfold correctable bucketAdd
  refine (sameHighRegs_count hk (o := 0x04) (by decide) 1 s).trans ?_
  extract_lets sk from_ level full up sk1
  split
  · exact (sameHighRegs_setSkein k sk1 _).trans ((sameHighRegs_sendMsg ..).trans (sameHighRegs_count hk (by decide) ..))
  · exact sameHighRegs_setSkein ..

theorem sameHighRegs_uncorrectable (kind : Byte) {k : Nat} (hk : k < 256) (sec : Nat) (s : State) :
    SameHighRegs s (uncorrectable kind k sec s) := by
  unfold uncorrectable faultAddr
  exact ((sameHighRegs_count hk (by decide) 1 s).trans (sameHighRegs_setSkein ..)).trans (sameHighRegs_sendMsg ..)

theorem sameHighRegs_touchRead (who : BitVec 16) (f : Byte) (sec : Nat) (s : State) : SameHighRegs s (touchRead who f sec s) := by
  unfold touchRead
  dsimp only
  split
  next => exact sameHighRegs_errorResponse ..
  next h =>
    have hk := sknOf_lt_of_answers h
    split
    · exact ⟨fun _ _ => rfl⟩
    · exact (sameHighRegs_correctable hk sec s).trans ((sameHighRegs_store ..).trans (sameHighRegs_count hk (by decide) ..))
    · exact sameHighRegs_count hk (by decide) ..
    · exact sameHighRegs_uncorrectable _ hk ..

theorem sameHighRegs_touchReads (who : BitVec 16) (f : Byte) (secs : List Nat) (s : State) :
    SameHighRegs s (touchReads who f secs s) := by
  unfold touchReads
  induction distinct secs generalizing s with
  | nil => exact ⟨fun _ _ => rfl⟩
  | cons x r ih => exact (sameHighRegs_touchRead who f x s).trans (ih _)

theorem sameHighRegs_writeSector (who : BitVec 16) (f : Byte) (sec : Nat) (slots : List (Option MByte)) (s : State) :
    SameHighRegs s (writeSector who f sec slots s).1 := by
  unfold writeSector
  dsimp only
  split
  next => exact sameHighRegs_errorResponse ..
  next h =>
    have hk := sknOf_lt_of_answers h
    have hc := sameHighRegs_count hk (o := 0x10) (by decide) 1 s
    split
    · exact sameHighRegs_store ..
    · split
      · exact hc.trans (sameHighRegs_store ..)
      · exact (hc.trans (sameHighRegs_correctable hk ..)).trans (sameHighRegs_store ..)
      · exact hc.trans (sameHighRegs_store ..)
      · exact (hc.trans (sameHighRegs_uncorrectable _ hk ..)).trans (sameHighRegs_store ..)

theorem sameHighRegs_writeBytes (who : BitVec 16) (f : Byte) (ws : List (Nat × MByte)) (s : State) :
    SameHighRegs s (writeBytes who f ws s).1 := by
  rw [writeBytes_eq]
  suffices h : ∀ (m : AMap (List (Option MByte))) (acc : State × List Nat), SameHighRegs acc.1 (m.foldl (writeStep who f) acc).1 from
    h _ (s, [])
  intro m
  induction m with
  | nil => exact fun acc => ⟨fun _ _ => rfl⟩
  | cons g r ih => exact fun acc => (sameHighRegs_writeSector who f g.1 g.2 acc.1).trans (ih (writeStep who f acc g))

/-! ## Sectors without poison -/

/-- An error pattern that is neither that of stored poison nor beyond what the code corrects. -/
def patternClean (e : List Byte) : Bool :=
  match classify e with
  | .clean => true
  | .corrected _ _ => true
  | .poison => false
  | .bad => false

/-- The sector holds neither stored poison nor more errors than its code corrects. -/
def sectorClean (s : State) (sec : Nat) : Bool := patternClean (s.errOf sec)

theorem rdByte_poison {s : State} {a : Nat} (h : sectorRefusal s a = none) :
    (rdByte s a).poison = (!sectorClean s (a / 32) || s.struck.any (fun h => onRead h && strikes h a)) := by
  have hm : a % 32 < 32 := Nat.mod_lt _ (by decide)
  unfold rdByte sectorClean patternClean deliver
  simp only [h]
  cases classify (s.errOf (a / 32)) <;> simp [storedData, hm]

/-- The same cells are faulty, and a sector with none that was without poison still is. -/
structure StaysClean (s t : State) : Prop where
  stuck : ∀ sec, t.stuckOf sec = s.stuckOf sec
  clean : ∀ sec, s.stuckOf sec = [] → sectorClean s sec = true → sectorClean t sec = true

theorem StaysClean.rfl' (s : State) : StaysClean s s := ⟨fun _ => rfl, fun _ _ h => h⟩

theorem StaysClean.trans {s t u : State} (h : StaysClean s t) (k : StaysClean t u) : StaysClean s u :=
  ⟨fun sec => (k.stuck sec).trans (h.stuck sec),
    fun sec hs hc => k.clean sec ((h.stuck sec).trans hs) (h.clean sec hs hc)⟩

theorem StaysClean.of_unchanged {ps : List Piece} {s t : State} (h : Unchanged ps s t) (he : Piece.errs ∉ ps) (hp : Piece.pkg ∉ ps) :
    StaysClean s t :=
  ⟨fun sec => congrArg (fun p : Pkg => mget p.stuck sec []) (h .pkg hp), fun sec _ hc => by
    have e : t.errOf sec = s.errOf sec := congrArg (fun m : AMap (List Byte) => mget m sec []) (h .errs he)
    rwa [sectorClean, e]⟩

/-- A sector is stored, with poison only where it held some in `s`; every other one is as before. -/
theorem staysClean_store {s u : State} (h : StaysClean s u) (sec : Nat) (l : List Byte) (p : Bool)
    (hp : p = true → sectorClean s sec = false) :
    StaysClean s ((u.setBytes (sec * 32) l).writeErr sec (if p then poisonPattern else [])) := by
  refine ⟨fun k => (setBytes_stuckOf l u _ k).trans (h.stuck k), fun k hk hc => ?_⟩
  have hu : u.stuckOf k = [] := (h.stuck k).trans hk
  have he : ((u.setBytes (sec * 32) l).writeErr sec (if p then poisonPattern else [])).errOf k
      = if sec = k then (if p then poisonPattern else []) else u.errOf k := by
    unfold State.writeErr
    rw [setErr_errOf, setBytes_errOf, setBytes_stuckOf]
    split
    next hsec =>
      subst hsec
      rw [if_pos hu]
      cases p
      · rfl
      · exact poisonPattern_stored
    next => rfl
  rw [sectorClean, he]
  split
  next hsec =>
    subst hsec
    cases p
    · rfl
    · rw [hp rfl] at hc
      cases hc
  next => exact h.clean k hk hc

theorem staysClean_count (a n : Nat) (s : State) : StaysClean s (s.count a n) :=
  .of_unchanged (count_unchanged a n s) (by decide) (by decide)

theorem staysClean_correctable (k sec : Nat) (s : State) : StaysClean s (correctable k sec s) :=
  .of_unchanged (ps := [.reg, .skn, .dst, .seqs]) (unchanged_of_mask (by simp [pieces])) (by decide) (by decide)

theorem staysClean_touchRead (who : BitVec 16) (f : Byte) (sec : Nat) (s : State) : StaysClean s (touchRead who f sec s) := by
  unfold touchRead
  dsimp only
  split
  · exact .of_unchanged (ps := [.reg, .dst, .seqs]) (unchanged_of_mask (by simp [pieces])) (by decide) (by decide)
  · split
    · exact .rfl' s
    · exact (staysClean_store (staysClean_correctable ..) sec _ false Bool.noConfusion).trans (staysClean_count ..)
    · exact staysClean_count ..
    · exact .of_unchanged (ps := [.reg, .skn, .dst, .seqs]) (unchanged_of_mask (by simp [pieces])) (by decide) (by decide)

theorem staysClean_touchReads (who : BitVec 16) (f : Byte) (secs : List Nat) (s : State) : StaysClean s (touchReads who f secs s) := by
  unfold touchReads
  induction distinct secs generalizing s with
  | nil => exact .rfl' s
  | cons x r ih => exact (staysClean_touchRead who f x s).trans (ih _)

/-- Slots that bring no poison. -/
def SlotsClean (slots : List (Option MByte)) : Prop := ∀ m, some m ∈ slots → m.poison = false

/-- A write without poison leaves a sector that was without poison so. -/
theorem staysClean_writeSector (who : BitVec 16) (f : Byte) {sec : Nat} {slots : List (Option MByte)} (hslots : SlotsClean slots)
    (s : State) : StaysClean s (writeSector who f sec slots s).1 := by
  unfold writeSector
  dsimp only
  split
  next => exact .of_unchanged (ps := [.reg, .dst, .seqs]) (unchanged_of_mask (by simp [pieces])) (by decide) (by decide)
  next =>
    have hc := staysClean_count (rSkn (sknOf (sec * 32)) 0x10) 1 s
    have hpois {P : Prop} (hp : slots.any (fun o => match o with | some m => m.poison | none => false) = true) : P := by
      obtain ⟨o, ho, hop⟩ := List.any_eq_true.mp hp
      cases o with
      | none => cases hop
      | some m => exact absurd (hslots m ho) (by simpa using hop)
    split
    · exact staysClean_store (.rfl' s) sec _ _ hpois
    · split
      · exact staysClean_store hc sec _ _ hpois
      · exact staysClean_store (hc.trans (staysClean_correctable ..)) sec _ _ hpois
      next hcls => exact staysClean_store hc sec _ true fun _ => by rw [sectorClean, patternClean, hcls]
      next hcls =>
        refine staysClean_store (hc.trans ?_) sec _ true fun _ => by rw [sectorClean, patternClean, hcls]
        exact .of_unchanged (ps := [.reg, .skn, .dst, .seqs]) (unchanged_of_mask (by simp [pieces])) (by decide) (by decide)

theorem mem_of_lastByte {ws : List (Nat × MByte)} {a : Nat} {m : MByte} (h : lastByte ws a = some m) : (a, m) ∈ ws := by
  induction ws using List.reverseRecOn with
  | nil => cases h
  | append_singleton ws w ih =>
    rw [lastByte_append] at h
    split at h
    next hw => exact List.mem_append_right _ (by rw [← hw, ← Option.some.inj h]; exact List.mem_singleton_self w)
    next => exact List.mem_append_left _ (ih h)

theorem lastByte_of_not_mem {ws : List (Nat × MByte)} {a : Nat} (h : ∀ w ∈ ws, w.1 ≠ a) : lastByte ws a = none :=
  Option.eq_none_iff_forall_ne_some.mpr fun _ hm => h _ (mem_of_lastByte hm) rfl

theorem slotsOf_clean {ws : List (Nat × MByte)} (h : ∀ w ∈ ws, w.2.poison = false) (sec : Nat) : SlotsClean (slotsOf ws sec) := by
  intro m hm
  obtain ⟨j, hj, hjm⟩ := List.mem_iff_getElem.mp hm
  obtain ⟨hlen, hslot⟩ := slotsOf_spec ws sec
  have hlast : lastByte ws (sec * 32 + j) = some m := by
    rw [← hslot j (hlen ▸ hj), List.getD_eq_getElem _ _ hj, hjm]
  exact h _ (mem_of_lastByte hlast)

theorem groupWrites_clean {ws : List (Nat × MByte)} (h : ∀ w ∈ ws, w.2.poison = false) :
    ∀ e ∈ groupWrites ws, SlotsClean e.2 := by
  induction ws using List.reverseRecOn with
  | nil => exact fun e he => absurd he List.not_mem_nil
  | append_singleton ws w ih =>
    have hws : ∀ v ∈ ws, v.2.poison = false := fun v hv => h v (List.mem_append_left _ hv)
    intro e he
    rw [groupWrites_append] at he
    rcases mem_mset he with rfl | he
    · intro m hm
      rcases List.mem_or_eq_of_mem_set hm with hm | hm
      · exact slotsOf_clean hws _ m hm
      · exact Option.some.inj hm ▸ h w (by simp)
    · exact ih hws e he

theorem staysClean_writeBytes (who : BitVec 16) (f : Byte) {ws : List (Nat × MByte)} (h : ∀ w ∈ ws, w.2.poison = false) (s : State) :
    StaysClean s (writeBytes who f ws s).1 := by
  rw [writeBytes_eq]
  suffices hall : ∀ (m : AMap (List (Option MByte))) (acc : State × List Nat), (∀ e ∈ m, SlotsClean e.2) →
      StaysClean acc.1 (m.foldl (writeStep who f) acc).1 from hall _ (s, []) (groupWrites_clean h)
  intro m
  induction m with
  | nil => exact fun acc _ => .rfl' _
  | cons g r ih =>
    exact fun acc hm => (staysClean_writeSector who f (hm g List.mem_cons_self) acc.1).trans
      (ih (writeStep who f acc g) fun e he => hm e (List.mem_cons_of_mem _ he))

/-! ## What serving a request leaves for the next packet -/

/-- The byte lies outside the table entry of queue pair `n`. -/
def OutsideEntry (s : State) (n b : Nat) : Prop := b < qptBase s + 128 * n ∨ qptBase s + 128 * n + 128 ≤ b

/-- Between `s` and `t` packets have been read and answered on queue pair `n`: the pair expects a later PSN, its port has sent frames,
and every byte outside the pair's table entry reads as before, without poison where it was without. -/
structure Serves (n : Nat) (s t : State) : Prop where
  frame : Unchanged [.reg, .mem, .errs, .skn, .dst, .seqs, .qps, .out] s t
  pair : t.qp n = { s.qp n with rqPsn := (t.qp n).rqPsn }
  regs : ∀ a, regOff 6 0 0 ≤ a → a ≠ rPrt (s.qp n).port 0x40 → t.getReg a = s.getReg a
  refusal : ∀ a, sectorRefusal t a = sectorRefusal s a
  clean : StaysClean s t
  bytes : ∀ b, OutsideEntry s n b → Intact s b → (rdByte t b).val = (rdByte s b).val

theorem rPrt_high (p o : Nat) : regOff 6 0 0 ≤ rPrt p o := by
  unfold rPrt regOff
  omega

theorem rPrt_ne {o o' : Nat} (h : o ≠ o') (ho : o < 65536) (ho' : o' < 65536) (p p' : Nat) : rPrt p o ≠ rPrt p' o' := by
  unfold rPrt regOff
  omega

theorem Serves.rfl' (n : Nat) (s : State) : Serves n s s :=
  ⟨fun p _ => by cases p <;> rfl, rfl, fun _ _ _ => rfl, fun _ => rfl, .rfl' s, fun _ _ _ => rfl⟩

theorem Serves.port {n : Nat} {s t : State} (h : Serves n s t) : (t.qp n).port = (s.qp n).port := by rw [h.pair]
theorem Serves.cls {n : Nat} {s t : State} (h : Serves n s t) : (t.qp n).cls = (s.qp n).cls := by rw [h.pair]

theorem Serves.portReg {n : Nat} {s t : State} (h : Serves n s t) (p : Nat) {o : Nat} (ho : o < 65536) (hne : o ≠ 0x40) :
    t.getReg (rPrt p o) = s.getReg (rPrt p o) := h.regs _ (rPrt_high p o) (rPrt_ne hne ho (by decide) _ _)

theorem Serves.outside {n : Nat} {s t : State} (h : Serves n s t) (b : Nat) : OutsideEntry t n b ↔ OutsideEntry s n b := by
  unfold OutsideEntry qptBase base48
  rw [h.portReg 0 (by decide) (by decide), h.portReg 0 (by decide) (by decide)]

theorem Serves.trans {n : Nat} {s t u : State} (h : Serves n s t) (k : Serves n t u) : Serves n s u where
  frame := h.frame.trans k.frame (by decide) (by decide)
  pair := by
    have hk := k.pair
    rw [h.pair] at hk
    exact hk
  regs a ha hne := (k.regs a ha (by rwa [h.port])).trans (h.regs a ha hne)
  refusal a := (k.refusal a).trans (h.refusal a)
  clean := h.clean.trans k.clean
  bytes b hb hint := (k.bytes b ((h.outside b).mpr hb) ((h.clean.stuck _).trans hint)).trans (h.bytes b hb hint)

theorem Serves.takesRequests {n : Nat} {s t : State} (h : Serves n s t) : takesRequests t n = takesRequests s n := by
  have hprts : t.prts = s.prts := h.frame .prts (by decide)
  have hready : t.ready = s.ready := h.frame .ready (by decide)
  have hgate : t.gate = s.gate := h.frame .gate (by decide)
  have hbusy : t.rstBusy = s.rstBusy := h.frame .rstBusy (by decide)
  unfold Machine.takesRequests portUp State.prt
  rw [h.pair, hprts, hready, hgate, hbusy]

theorem Serves.classPaused {n : Nat} {s t : State} (h : Serves n s t) (p cls : Nat) : classPaused t p cls = classPaused s p cls := by
  have hprts : t.prts = s.prts := h.frame .prts (by decide)
  unfold Machine.classPaused State.prt
  rw [hprts]

theorem Serves.roceHdr {n : Nat} {s t : State} (h : Serves n s t) (cls : Nat) : roceHdr t n cls = roceHdr s n cls := by
  unfold Machine.roceHdr pcpOf
  dsimp only
  rw [h.portReg _ (by decide) (by decide), h.pair]

/-- A byte without poison outside the entry of the pair, in a sector that answers and has no faulty cell, is read alike. -/
theorem Serves.reads {n b : Nat} {s t : State} (h : Serves n s t) (hb : OutsideEntry s n b) (hint : Intact s b)
    (hp : (rdByte s b).poison = false) : (rdByte t b).val = (rdByte s b).val ∧ (rdByte t b).poison = false := by
  refine ⟨h.bytes b hb hint, ?_⟩
  have hs : sectorRefusal s b = none := by
    cases hr : sectorRefusal s b with
    | none => rfl
    | some k => simp [rdByte, hr] at hp
  have hstruck : t.struck = s.struck := h.frame .struck (by decide)
  rw [rdByte_poison hs, Bool.or_eq_false_iff] at hp
  rw [rdByte_poison ((h.refusal b).trans hs), hstruck, hp.2, h.clean.clean _ hint (by simpa using hp.1)]
  rfl

theorem Serves.of_data {n : Nat} {s t : State} (hf : Unchanged [.reg, .mem, .errs, .skn, .dst, .seqs] s t) (hd : SameData s t)
    (hc : StaysClean s t) (hr : SameHighRegs s t) : Serves n s t where
  frame := hf.mono (by decide)
  pair := by rw [qp_of_qps (hf .qps (by decide))]
  regs a ha _ := hr.getReg a ha
  refusal := hd.refusal
  clean := hc
  bytes b _ hint := hd.val b hint

theorem serves_touchReads (n : Nat) (who : BitVec 16) (f : Byte) (l : List Nat) (s : State) : Serves n s (touchReads who f l s) :=
  .of_data (touchReads_unchanged who f l s) (sameData_touchReads ..) (staysClean_touchReads ..) (sameHighRegs_touchReads ..)

/-! ## The queue pair's next expected PSN -/

/-- The pair expects PSN `x`: so far only in the port. -/
def expecting (n x : Nat) (s : State) : State := { s with qps := mput s.qps n { s.qp n with rqPsn := x } {} }

theorem expectPsn_eq {n : Nat} {s : State} (h : (s.qp n).state ≠ 0) (k : Nat) :
    expectPsn n k s = if (s.qp n).rqPsn = ((s.qp n).rqPsn + k) % 2 ^ 24 then expecting n (((s.qp n).rqPsn + k) % 2 ^ 24) s
      else storeClean (srcPrt 0) (qptBase s + n * 128 + 20) (leBytes 4 (((s.qp n).rqPsn + k) % 2 ^ 24))
        (expecting n (((s.qp n).rqPsn + k) % 2 ^ 24) s) := by
  unfold expectPsn State.setQp storeQp
  simp [Qp.deviceFields, h]
  rfl

theorem serves_expecting (n x : Nat) (s : State) : Serves n s (expecting n x s) := by
  have hf : Unchanged [.qps] s (expecting n x s) := unchanged_of_mask (by simp [expecting, State.mask, pieces])
  have hd : SameData s (expecting n x s) := .of_unchanged hf (by decide)
  exact { frame := hf.mono (by decide), pair := by simp [expecting, State.qp], regs := fun _ _ _ => rfl, refusal := hd.refusal,
          clean := .of_unchanged hf (by decide) (by decide), bytes := fun b _ hint => hd.val b hint }

/-- A store of clean bytes inside the pair's table entry. -/
theorem serves_storeClean {n o : Nat} {l : List Byte} (ho : o + l.length ≤ 128) (who : BitVec 16) (s : State) :
    Serves n s (storeClean who (qptBase s + n * 128 + o) l s) := by
  have hf := storeClean_unchanged who (qptBase s + n * 128 + o) l s
  have hspec := writeBytes_spec who 0 ((List.range l.length).map (fun i => (qptBase s + n * 128 + o + i, { val := l.getD i 0 }))) s
  refine { frame := hf.mono (by decide), pair := by rw [qp_of_qps (hf .qps (by decide))]
           regs := fun a ha _ => (sameHighRegs_writeBytes who 0 _ s).getReg a ha, refusal := hspec.1
           clean := staysClean_writeBytes who 0 (by simp) s, bytes := fun b hb hint => ?_ }
  have hstored := storeClean_storedAs who (qptBase s + n * 128 + o) l s b hint
  rw [lastByte_of_not_mem] at hstored
  · exact hstored
  · intro w hw
    obtain ⟨j, hj, rfl⟩ := List.mem_map.mp hw
    have hj := List.mem_range.mp hj
    unfold OutsideEntry at hb
    dsimp only
    omega

theorem serves_expectPsn {n : Nat} {s : State} (h : (s.qp n).state ≠ 0) (k : Nat) : Serves n s (expectPsn n k s) := by
  rw [expectPsn_eq h]
  have hx := serves_expecting n (((s.qp n).rqPsn + k) % 2 ^ 24) s
  split
  · exact hx
  · exact hx.trans (serves_storeClean (o := 20) (by rw [length_leBytes]; decide) (srcPrt 0) _)

/-! ## Answers -/

/-- An answer in a class that is not paused leaves at once. -/
theorem answer_sent {n : Nat} {o : Pkt} {s : State} (h : classPaused s (s.qp n).port (s.qp n).cls = false) :
    answer n o s = txFrames (s.qp n).port 1 (s.emit (.roce (roceHdr s n (s.qp n).cls) o)) := by
  unfold answer answerOn
  dsimp only
  rw [if_neg (by simp [h])]

theorem answer_held {n : Nat} {o : Pkt} {s : State} (h : classPaused s (s.qp n).port (s.qp n).cls = true) :
    answer n o s = s.setPrt (s.qp n).port { s.prt (s.qp n).port with held := (s.prt (s.qp n).port).held
      ++ [{ cls := (s.qp n).cls, frames := 1, hdr := roceHdr s n (s.qp n).cls, pkt := o }] } := by
  unfold answer answerOn
  dsimp only
  rw [if_pos h]

theorem answer_out {n : Nat} {o : Pkt} {s : State} (h : classPaused s (s.qp n).port (s.qp n).cls = false) :
    (answer n o s).out = s.out ++ [.roce (roceHdr s n (s.qp n).cls) o] := by
  rw [answer_sent h, txFrames, count_unchanged _ _ _ .out (by decide), State.emit_out]

theorem replied_answer (n : Nat) (o : Pkt) (s : State) : Replied n o s (answer n o s) where
  sent h := answer_out h
  held h := by
    rw [answer_held h]
    exact ⟨rfl, by rw [State.prt_setPrt, if_pos rfl]⟩

theorem answer_unchanged (n : Nat) (o : Pkt) (s : State) : Unchanged [.reg, .prts, .out] s (answer n o s) :=
  unchanged_of_mask (by simp [pieces])

theorem serves_answer {n : Nat} {s : State} (o : Pkt) (h : classPaused s (s.qp n).port (s.qp n).cls = false) :
    Serves n s (answer n o s) := by
  have hf : Unchanged [.reg, .out] s (answer n o s) := by
    rw [answer_sent h]
    exact unchanged_of_mask (by simp [pieces])
  have hd : SameData s (answer n o s) := .of_unchanged hf (by decide)
  exact { frame := hf.mono (by decide), pair := by rw [qp_of_qps (hf .qps (by decide))]
          regs := fun a _ hne => by rw [answer_sent h, txFrames, getReg_count_ne hne.symm]; rfl
          refusal := hd.refusal, clean := .of_unchanged hf (by decide) (by decide), bytes := fun b _ hint => hd.val b hint }

/-! ## The packets of a READ -/

/-- A part in skein memory is the only one of its request. -/
theorem partsOf_skein {a k : Nat} (h : a + k ≤ 0x010000000000) : partsOf a k = if k = 0 then [] else [(.skein, a, k)] := by
  have above : ∀ lo hi : Nat, 0x010000000000 ≤ lo → ¬ max a lo < min (a + k) hi := by omega
  unfold partsOf windowMap
  simp only [List.filterMap_cons, List.filterMap_nil]
  rw [if_neg (above 0x010000000000 _ (by omega)), if_neg (above 0x020000000000 _ (by omega)),
    if_neg (above 0x020001000000 _ (by omega)), if_neg (above 0x020100000000 _ (by omega)),
    if_neg (above 0x020200000000 _ (by omega)), if_neg (above 0x02020E000000 _ (by omega))]
  by_cases hk : k = 0
  · rw [if_pos hk, if_neg (by omega)]
  · have hlo : max a 0 = a := by omega
    have hlen : min (a + k) 0x010000000000 - a = k := by omega
    rw [if_neg hk, if_pos (by omega), hlo, hlen]

theorem readParts_skein {a k : Nat} (h : a + k ≤ 0x010000000000) (o : Origin) (form : Bool) (s : State) :
    readParts o form (partsOf a k) s = (some (rdBytes s a k), touchReads (entry o) (originFlags o) (sectorsOf a k) s) := by
  rw [partsOf_skein h]
  split
  next hk => subst hk; rfl
  next => simp [readParts, readPart]

/-- The bytes of packet `p` are in skein memory, outside the entry of pair `n`, without poison, and in no sector with faulty cells. -/
structure CleanPacket (s : State) (n : Nat) (p : Nat × Nat) : Prop where
  skein : p.1 + p.2 ≤ 0x010000000000
  outside : ∀ b, p.1 ≤ b → b < p.1 + p.2 → OutsideEntry s n b
  clean : ∀ b, p.1 ≤ b → b < p.1 + p.2 → (rdByte s b).poison = false ∧ Intact s b

theorem CleanPacket.reads {n : Nat} {p : Nat × Nat} {s u : State} (hp : CleanPacket s n p) (h : Serves n s u) :
    (rdBytes u p.1 p.2).any (·.poison) = false ∧ (rdBytes u p.1 p.2).map (·.val) = rdVals s p.1 p.2 := by
  have hread (i : Nat) (hi : i < p.2) := h.reads (hp.outside (p.1 + i) (by omega) (by omega)) (hp.clean _ (by omega) (by omega)).2
    (hp.clean _ (by omega) (by omega)).1
  constructor
  · simp only [rdBytes, List.any_eq_false, List.mem_map, List.mem_range]
    rintro _ ⟨i, hi, rfl⟩
    simp [(hread i hi).2]
  · simp only [rdVals, rdBytes, List.map_map]
    exact List.map_congr_left fun i hi => (hread i (List.mem_range.mp hi)).1

theorem state_of_takesRequests {s : State} {n : Nat} (h : takesRequests s n = true) : (s.qp n).state = 3 := by
  simp only [takesRequests, Bool.and_eq_true, decide_eq_true_eq] at h
  exact h.1.1

/-- Packet by packet, each carries what memory held when the request was taken in. -/
theorem sendRead_serves {n : Nat} {s : State} (ht : takesRequests s n = true)
    (hclass : classPaused s (s.qp n).port (s.qp n).cls = false) (o : Origin) (form : Bool) (l : List (Nat × Nat))
    (hl : ∀ p ∈ l, CleanPacket s n p) (u : State) (hu : Serves n s u) :
    Serves n s (sendRead n o form l u)
      ∧ (sendRead n o form l u).out = u.out
          ++ l.map (fun p => .roce (roceHdr s n (s.qp n).cls) (.rdmaData (BitVec.ofNat 16 n) (rdVals s p.1 p.2))) := by
  induction l generalizing u with
  | nil => exact ⟨hu, by simp [sendRead]⟩
  | cons p r ih =>
    obtain ⟨a, k⟩ := p
    have hp := hl (a, k) List.mem_cons_self
    obtain ⟨hpoison, hvals⟩ := hp.reads hu
    let v := touchReads (entry o) (originFlags o) (sectorsOf a k) u
    have hv : Serves n s v := hu.trans (serves_touchReads ..)
    have hvt : takesRequests v n = true := hv.takesRequests.trans ht
    have hw : Serves n s (expectPsn n 1 v) := hv.trans (serves_expectPsn (by rw [state_of_takesRequests hvt]; decide) 1)
    have hwc : classPaused (expectPsn n 1 v) ((expectPsn n 1 v).qp n).port ((expectPsn n 1 v).qp n).cls = false := by
      rw [hw.classPaused, hw.port, hw.cls, hclass]
    have hsend : sendRead n o form ((a, k) :: r) u
        = sendRead n o form r (answer n (.rdmaData (BitVec.ofNat 16 n) (rdVals s a k)) (expectPsn n 1 v)) := by
      rw [sendRead, readParts_skein hp.skein]
      dsimp only
      rw [if_neg (by simp [hpoison]), hvals, acceptReq, if_pos hvt]
    obtain ⟨hserves, hout⟩ := ih (fun q hq => hl q (List.mem_cons_of_mem _ hq)) _
      (hw.trans (serves_answer (.rdmaData (BitVec.ofNat 16 n) (rdVals s a k)) hwc))
    have hvout : v.out = u.out := touchReads_unchanged _ _ _ u .out (by decide)
    have hwout : (expectPsn n 1 v).out = v.out := (show Unchanged [.reg, .mem, .errs, .skn, .dst, .seqs, .qps] v (expectPsn n 1 v) from
      unchanged_of_mask (by simp [pieces])) .out (by decide)
    refine ⟨hsend ▸ hserves, ?_⟩
    rw [hsend, hout, answer_out hwc, hwout, hvout, hw.roceHdr, hw.cls]
    simp

theorem readPackets_inside {mtu a n : Nat} (hm : 0 < mtu) {p : Nat × Nat} (hp : p ∈ readPackets mtu a n) :
    a ≤ p.1 ∧ p.1 + p.2 ≤ a + n := by
  unfold readPackets at hp
  split at hp
  next hn => simp_all
  next =>
    obtain ⟨i, hi, rfl⟩ := List.mem_map.mp hp
    have hi : i < ceilDiv n mtu := List.mem_range.mp hi
    have hstart : i * mtu < n := by
      unfold ceilDiv at hi
      have := Nat.mul_le_of_le_div _ _ _ (show i + 1 ≤ (n + mtu - 1) / mtu from hi)
      rw [Nat.add_mul] at this
      omega
    dsimp only
    omega

/-! ## RDMA_READ -/

theorem takeIn_unchanged {n k : Nat} {ing : Ingress} {hits : List Hit} {s s1 : State} (h : takeIn n k ing hits s = some s1) :
    Unchanged [.reg, .qps, .prts, .out, .dst, .seqs, .struck] s s1 := by
  rw [takeIn_some h]
  exact (ingressFrom_unchanged n k _ ing s).trans (noteHits_unchanged perrReg hits _) (by decide) (by decide)

theorem exec_rdmaRead {qpn : BitVec 16} {rkey : Word} {a : Addr} {len : Nat} {ing : Ingress} {hits : List Hit} {s s1 : State}
    (hin : takeIn qpn.toNat 1 ing hits s = some s1) :
    exec (.rdmaRead qpn rkey a len ing hits) s = .next (endRequest qpn.toNat s1
      (if regionOk s1 (s1.qp qpn.toNat) rkey a.toNat len 1 then
        sendRead qpn.toNat (qpOrigin s1 qpn.toNat) (formOk a.toNat len)
          (readPackets (mtuBytes (s1.qp qpn.toNat).pmtu) a.toNat len) (touchRegion rkey s1)
      else reply qpn.toNat (.nakAccess qpn) (touchRegion rkey s1))) := by
  show execRdmaRead qpn rkey a len ing hits s = _
  unfold execRdmaRead
  dsimp only
  rw [hin]

theorem endRequest_unchanged (n : Nat) (s t : State) : Unchanged [.struck, .dst] t (endRequest n s t) :=
  unchanged_of_mask (by unfold endRequest; simp [pieces])

theorem endRequest_out (n : Nat) (s t : State) : (endRequest n s t).out = t.out := endRequest_unchanged n s t .out (by decide)

theorem sameData_endRequest (n : Nat) (s t : State) : SameData t (endRequest n s t) :=
  .of_unchanged (endRequest_unchanged n s t) (by decide)

/-- What reading the region table leaves is what serving leaves: nothing that an answer is made of. -/
theorem serves_touchRegion (n : Nat) (rkey : Word) (s : State) : Serves n s (touchRegion rkey s) := serves_touchReads ..

theorem touchRegion_unchanged (rkey : Word) (s : State) : Unchanged [.reg, .mem, .errs, .skn, .dst, .seqs] s (touchRegion rkey s) :=
  touchReads_unchanged _ _ _ s

/-- An answer made after reads of memory is the answer of the state before them. -/
theorem Replied.of_serves {n : Nat} {o : Pkt} {s t u : State} (h : Serves n s t) (hout : t.out = s.out) (hr : Replied n o t u) :
    Replied n o s u := by
  have hprts : t.prts = s.prts := h.frame .prts (by decide)
  have hprt (p : Nat) : t.prt p = s.prt p := by unfold State.prt; rw [hprts]
  have hclass : classPaused t (t.qp n).port (t.qp n).cls = classPaused s (s.qp n).port (s.qp n).cls := by
    rw [h.classPaused, h.port, h.cls]
  have hhdr : roceHdr t n (t.qp n).cls = roceHdr s n (s.qp n).cls := by rw [h.roceHdr, h.cls]
  refine ⟨fun hc => ?_, fun hc => ?_⟩
  · rw [hr.sent (hclass.trans hc), hout, hhdr]
  · have hheld := hr.held (hclass.trans hc)
    rwa [hout, hhdr, h.port, h.cls, hprt] at hheld

theorem Replied.of_end {n : Nat} {o : Pkt} {s t u : State} (hr : Replied n o s t) (hout : u.out = t.out) (hprts : u.prts = t.prts) :
    Replied n o s u := by
  have hprt (p : Nat) : u.prt p = t.prt p := by unfold State.prt; rw [hprts]
  exact ⟨fun hc => hout.trans (hr.sent hc), fun hc => by rw [hout, hprt]; exact hr.held hc⟩

/-- Settles O31: packet by packet what serving leaves is what the next packet needs, and a refused READ only reads the region table. -/
theorem remoteReadsAnswer : Obligations.RemoteReadsAnswer := by
  intro qpn rkey a len ing hits s s1 hin ht
  have hexec := exec_rdmaRead (rkey := rkey) (a := a) (len := len) hin
  have hun := takeIn_unchanged hin
  have hregion := serves_touchRegion qpn.toNat rkey s1
  have hout2 : (touchRegion rkey s1).out = s1.out := touchRegion_unchanged rkey s1 .out (by decide)
  refine ⟨fun hok hend hentry hclean hclass => ?_, fun hok => ?_⟩
  · rw [if_pos hok] at hexec
    have hpackets : ∀ p ∈ readPackets (mtuBytes (s1.qp qpn.toNat).pmtu) a.toNat len, CleanPacket s1 qpn.toNat p := by
      intro p hp
      obtain ⟨hlo, hhi⟩ := readPackets_inside (by unfold mtuBytes; positivity) hp
      exact ⟨by omega, fun b _ _ => by unfold OutsideEntry; omega, fun b _ _ => hclean b (by omega) (by omega)⟩
    obtain ⟨hserves, hout⟩ := sendRead_serves ht hclass (qpOrigin s1 qpn.toNat) (formOk a.toNat len) _ hpackets _ hregion
    have hkept := hserves.bytes
    refine ⟨_, hexec, ?_, fun b hb hint => ?_, (hun.trans hserves.frame (n := [.dst, .errs, .mem, .out, .prts, .qps, .reg, .seqs, .skn, .struck])
      (by decide) (by decide)).trans (endRequest_unchanged _ _ _) (by decide) (by decide)⟩
    · rw [endRequest_out, hout, hout2, BitVec.ofNat_toNat, BitVec.setWidth_eq]
    · rw [(sameData_endRequest ..).val b ((hserves.clean.stuck _).trans hint)]
      exact hkept b hb hint
  · rw [if_neg (by simp [hok]), reply, if_pos (hregion.takesRequests.trans ht)] at hexec
    have hanswer := answer_unchanged qpn.toNat (.nakAccess qpn) (touchRegion rkey s1)
    have hend := endRequest_unchanged qpn.toNat s1 (answer qpn.toNat (.nakAccess qpn) (touchRegion rkey s1))
    have hreplied := (replied_answer qpn.toNat (.nakAccess qpn) (touchRegion rkey s1)).of_serves hregion hout2
    have hrest := (touchRegion_unchanged rkey s1).trans (hanswer.trans hend (n := [.reg, .prts, .out, .struck, .dst]) (by decide) (by decide))
      (n := [.dst, .errs, .mem, .out, .prts, .reg, .seqs, .skn, .struck]) (by decide) (by decide)
    refine ⟨_, hexec, hreplied.of_end (hend .out (by decide)) (hend .prts (by decide)), hrest .qps (by decide), ?_,
      hun.trans hrest (by decide) (by decide)⟩
    exact ((sameData_touchReads ..).trans ((SameData.of_unchanged hanswer (by decide)).trans (sameData_endRequest ..))).kept

end Sys2Proof.Machine
end

section
/-! SUPPORT. The boot up to step 8 (R421, R422, R430): what the niddy's faults leave before READY, the scan of the persistent area,
and the image that is taken or turned away. -/

namespace Sys2Proof.Machine

/-! ## Before READY the distaff only logs (R400) -/

/-- The message takes its number, and is counted (R381). -/
def msgNumbered (q : QMsg) (s : State) : State :=
  ((chargeSeq q.charge s.dst.seq { s with dst := { s.dst with seq := nextSeq s.dst.seq } }).count (rDst 0x20) 1).count (rDst 0x28)
    (if q.msg.flags &&& flagDropped = 0 then 0 else 1)

/-- The message is latched and logged, with no action. -/
def msgLogged (q : QMsg) (seq : Word) (s : State) : State :=
  logMsg (logRecord seq q.msg s.tick actLog false false) (latchMsg seq q.msg s)

theorem msgNumbered_unchanged (q : QMsg) (s : State) : Unchanged [.reg, .dst, .seqs] s (msgNumbered q s) :=
  unchanged_of_mask (by simp [msgNumbered, pieces])

theorem msgLogged_unchanged (q : QMsg) (seq : Word) (s : State) : Unchanged [.reg, .dst] s (msgLogged q seq s) :=
  unchanged_of_mask (by simp [msgLogged, pieces])

theorem acceptMsg_unready {q : QMsg} {s : State} (h : s.ready = false) :
    acceptMsg q s = msgLogged q s.dst.seq (msgNumbered q s) := by
  have hready : (msgNumbered q s).ready = false := Eq.trans (msgNumbered_unchanged q s .ready (by decide)) h
  exact if_neg (c := (msgNumbered q s).ready = true) (by rw [hready]; decide)

/-- The message that the distaff takes, off its queue. -/
def msgTaken (k : Nat) (r : List QMsg) (s : State) : State :=
  { s with dst := { s.dst with queues := mput s.dst.queues k r [], last := k } }

theorem msgTaken_unchanged (k : Nat) (r : List QMsg) (s : State) : Unchanged [.dst] s (msgTaken k r s) :=
  unchanged_of_mask (by simp [msgTaken, pieces])

/-- The distaff takes no message, or the first of a queue. -/
theorem acceptNext_cases (s : State) : acceptNext s = s ∨ ∃ k q r, acceptNext s = acceptMsg q (msgTaken k r s) := by
  unfold acceptNext
  split
  · exact .inl rfl
  · split
    · exact .inl rfl
    · exact .inr ⟨_, _, _, rfl⟩

theorem acceptNext_unready {s : State} (h : s.ready = false) : Unchanged [.reg, .dst, .seqs] s (acceptNext s) := by
  rcases acceptNext_cases s with he | ⟨k, q, r, he⟩ <;> rw [he]
  · exact fun p _ => by cases p <;> rfl
  · have htaken := msgTaken_unchanged k r s
    rw [acceptMsg_unready (Eq.trans (htaken .ready (by decide)) h)]
    exact htaken.trans ((msgNumbered_unchanged q _).trans (msgLogged_unchanged q _ _) (n := [.reg, .dst, .seqs]) (by decide) (by decide))
      (by decide) (by decide)

theorem bootFault_unready (kind : Byte) (x : Nat) {s : State} (h : s.ready = false) :
    Unchanged [.reg, .dst, .seqs] s (bootFault kind x s) := by
  have hsend : Unchanged [.dst, .seqs] s (faultParam srcNdy kind x s) := sendMsg_unchanged _ none s
  exact hsend.trans (acceptNext_unready (Eq.trans (hsend .ready (by decide)) h)) (by decide) (by decide)

theorem bootTable_unready (x : Nat) {s : State} (h : s.ready = false) : Unchanged [.reg, .dst, .seqs] s (bootTable x s) :=
  bootFault_unready _ x h

/-- Headers that are no candidates are reported, and nothing else (R430). -/
theorem reportHeaders_unready {s : State} (h : s.ready = false) : Unchanged [.reg, .dst, .seqs] s (reportHeaders s) := by
  have hstep (i : Nat) {t : State} (ht : t.ready = false) : Unchanged [.reg, .dst, .seqs] t (match headerReason s i with
      | some r => if r = 0xF1 then t else bootTable r t
      | none => t) := by
    split
    · split
      · exact fun p _ => by cases p <;> rfl
      · exact bootTable_unready _ ht
    · exact fun p _ => by cases p <;> rfl
  have h0 := hstep 0 h
  exact h0.trans (hstep 1 (Eq.trans (h0 .ready (by decide)) h)) (by decide) (by decide)

/-! ## The persistent area (R422, R435) -/

/-- Between `s` and `t` the niddy has changed no more than its account of the NVM. -/
structure NvmAccount (s t : State) : Prop where
  ndy : t.ndy = { s.ndy with half := t.ndy.half, gen := t.ndy.gen, nrec := t.ndy.nrec, nvmq := t.ndy.nvmq
                             compactAt := t.ndy.compactAt, eraseAt := t.ndy.eraseAt }

theorem NvmAccount.of_ndy {s t : State} (h : t.ndy = s.ndy) : NvmAccount s t := ⟨by rw [h]⟩

theorem NvmAccount.of_unchanged {ps : List Piece} {s t : State} (h : Unchanged ps s t) (hp : Piece.ndy ∉ ps) : NvmAccount s t :=
  .of_ndy (h .ndy hp)

theorem NvmAccount.trans {s t u : State} (h : NvmAccount s t) (k : NvmAccount t u) : NvmAccount s u :=
  ⟨k.ndy.trans (by rw [h.ndy])⟩

theorem NvmAccount.after {s t u : State} (k : NvmAccount t u) (h : NvmAccount s t) : NvmAccount s u := h.trans k

theorem nvmStore_ndy (a : Nat) (l : List Byte) (s : State) : (nvmStore a l s).ndy = s.ndy :=
  (unchanged_of_mask (l := [.nvm]) (by simp [pieces]) : Unchanged [.nvm] s (nvmStore a l s)) .ndy (by decide)

theorem copyLive_ndy (h : Nat) (l : List (Nat × Nat)) (n : Nat) (s : State) : (copyLive h l n s).ndy = s.ndy :=
  (unchanged_of_mask (l := [.nvm]) (by simp [pieces]) : Unchanged [.nvm] s (copyLive h l n s)) .ndy (by decide)

theorem nvmAccount_openHalf (s : State) : NvmAccount s (openHalf s) := by
  unfold openHalf
  split
  · exact .of_ndy rfl
  · exact ⟨by dsimp only; rw [nvmStore_ndy]; rfl⟩

theorem nvmAccount_compact (s : State) : NvmAccount s (compact s) := by
  unfold compact
  split
  · exact .of_ndy rfl
  · exact ⟨by dsimp only; rw [nvmStore_ndy, copyLive_ndy]; rfl⟩

theorem nvmAccount_appendRecord (off : Nat) (v : Word) (wear : Nat) (s : State) : NvmAccount s (appendRecord off v wear s) := by
  unfold appendRecord
  extract_lets s1 t
  have ht : NvmAccount s t := by
    simp only [t]
    split
    · exact (nvmAccount_openHalf s).trans (nvmAccount_compact s1)
    · exact nvmAccount_openHalf s
  split
  · exact ht
  · exact ht.trans ⟨by dsimp only; rw [nvmStore_ndy]⟩

theorem nvmAccount_persist (off : Nat) (v : Word) (e : Bool) (s : State) : NvmAccount s (persist off v e s).1 := by
  unfold persist
  split
  · exact .of_ndy rfl
  · split
    · exact .of_unchanged (sendMsg_unchanged _ none s) (by decide)
    · exact (nvmAccount_appendRecord off v _ s).trans ⟨rfl⟩

theorem nvmAccount_persistFree (off : Nat) (v : Word) (s : State) : NvmAccount s (persistFree off v s).1 :=
  NvmAccount.trans (t := s.bumpFree) (.of_ndy rfl) (nvmAccount_persist ..)

theorem nvmAccount_scanRecords (h fuel n : Nat) (s : State) : NvmAccount s (scanRecords h fuel n s) := by
  induction fuel generalizing n s with
  | zero => exact .of_ndy rfl
  | succ fuel ih =>
    rw [scanRecords]
    extract_lets x good off s1
    have h1 : NvmAccount s s1 := .of_ndy (by simp only [s1]; split <;> rfl)
    clear_value s1
    split
    · exact ⟨rfl⟩
    · exact h1.trans ((ih (n + 1) _).after ⟨rfl⟩)

theorem nvmAccount_scanPersist (s : State) : NvmAccount s (scanPersist s) := by
  unfold scanPersist
  split
  · exact ⟨rfl⟩
  · exact (nvmAccount_scanRecords _ halfRecords 0 _).after ⟨rfl⟩

theorem nvmAccount_countBoot (s : State) : NvmAccount s (countBoot s) := by
  unfold countBoot lifeCount
  extract_lets s1
  have h1 : NvmAccount s s1 := by
    simp only [s1]
    split <;> exact nvmAccount_persistFree ..
  split
  · exact h1.trans (nvmAccount_persistFree ..)
  · exact h1

/-- The management port's identity is all that `takeIdentity` sets. -/
theorem takeIdentity_ndy (s : State) : (takeIdentity s).ndy
    = { s.ndy with mac := (takeIdentity s).ndy.mac, ip4 := (takeIdentity s).ndy.ip4, ip6 := (takeIdentity s).ndy.ip6 } := rfl

theorem bootPersist_fallback (s : State) : (bootPersist s).ndy.fallback = s.ndy.fallback := by
  have h := (nvmAccount_scanPersist s).trans (nvmAccount_countBoot (scanPersist s))
  unfold bootPersist
  dsimp only
  rw [takeIdentity_ndy, h.ndy]

/-! ## The image (R430) -/

theorem nvmBytes_congr {s t : State} (h : t.nvm = s.nvm) (a n : Nat) : nvmBytes t a n = nvmBytes s a n := by
  unfold nvmBytes State.nvmByte
  rw [h]

theorem imgBytes_congr {s t : State} (h : t.nvm = s.nvm) (i off n : Nat) : imgBytes t i off n = imgBytes s i off n :=
  nvmBytes_congr h _ n

theorem imgSeq_congr {s t : State} (h : t.nvm = s.nvm) (i : Nat) : imgSeq t i = imgSeq s i :=
  congrArg leNat (imgBytes_congr h i 12 4)

theorem imgLen_congr {s t : State} (h : t.nvm = s.nvm) (i : Nat) : imgLen t i = imgLen s i :=
  congrArg leNat (imgBytes_congr h i 16 4)

theorem stageTelemetry_unready {i : Nat} {s : State} (h : s.ready = false) :
    Unchanged [.reg, .dst, .seqs, .ndy] s (stageTelemetry i s)
      ∧ (stageTelemetry i s).ndy = { s.ndy with telem := (stageTelemetry i s).ndy.telem, frame := (stageTelemetry i s).ndy.frame } := by
  unfold stageTelemetry
  split
  · exact ⟨fun p _ => by cases p <;> rfl, rfl⟩
  · dsimp only
    split
    · exact ⟨unchanged_of_mask (by simp [pieces]), rfl⟩
    · have hb := bootTable_unready 0x08 h
      exact ⟨hb.mono (by decide), by rw [hb .ndy (by decide)]⟩

/-- The image staged: the niddy keeps where the boot stands. -/
theorem stageImage_unready {i : Nat} {s : State} (h : s.ready = false) :
    Unchanged [.reg, .dst, .seqs, .ndy, .whl] s (stageImage i s) ∧ (stageImage i s).ndy.slot = s.ndy.slot
      ∧ (stageImage i s).ndy.fallback = s.ndy.fallback ∧ (stageImage i s).ndy.seq = BitVec.ofNat 32 (imgSeq s i)
      ∧ (stageImage i s).ndy.digest = sha384 (imgBytes s i 0 (imgLen s i)) := by
  unfold stageImage
  extract_lets s1
  have h1 : Unchanged [.ndy] s s1 := unchanged_of_mask (by simp [s1, pieces])
  obtain ⟨htel, hndy⟩ := stageTelemetry_unready (i := i) (Eq.trans (h1 .ready (by decide)) h)
  have hrest (w p : List Byte) (t : State) : Unchanged [.reg, .whl, .ndy] t (stagePort p (takeWhorl w t)) :=
    unchanged_of_mask (by simp [pieces])
  have hport (w p : List Byte) (t : State) : (stagePort p (takeWhorl w t)).ndy = { t.ndy with
      staged := true, ifaces := (p.take 20).map (·.toNat), collector := addr128 p 32, colPort := tabField p 48 2
      gateway := addr128 p 608 } := rfl
  refine ⟨(h1.trans htel (n := [.reg, .dst, .seqs, .ndy]) (by decide) (by decide)).trans (hrest _ _ _) (by decide) (by decide), ?_, ?_, ?_, ?_⟩
    <;> rw [hport, hndy] <;> rfl

/-- Step 8 begins: the niddy waits for windows, or for the core reference. -/
theorem startClocks_facts (ref : Bool) (s : State) :
    (startClocks ref s).ndy = { s.ndy with step := 4, phase := if ref then .windows else .waitRef
                                           windows := if ref then 0 else s.ndy.windows, passes := if ref then 0 else s.ndy.passes }
      ∧ (startClocks ref s).pllLock = (ref || s.pllLock) ∧ (startClocks ref s).fmRun = (ref || s.fmRun)
      ∧ Unchanged [.ndy, .pllLock, .fmRun, .fmDone] s (startClocks ref s) := by
  cases ref
  · exact ⟨rfl, rfl, rfl, unchanged_of_mask (by simp [pieces])⟩
  · exact ⟨rfl, rfl, rfl, unchanged_of_mask (by simp [pieces])⟩

/-! ## BOOT_START -/

theorem setNdy_unchanged (f : Ndy → Ndy) (s : State) : Unchanged [.ndy] s (setNdy f s) := unchanged_of_mask (by simp [pieces])

theorem failBoot_unchanged (x : Nat) (s : State) : Unchanged [.ndy] s (failBoot x s) := setNdy_unchanged _ s

theorem failBoot_ndy (x : Nat) (s : State) : (failBoot x s).ndy = { s.ndy with phase := .failing, reason := x } := rfl

section
variable {e : BootEnv} {s s1 s2 s3 : State} {i : Nat} {r : List Nat}

/-- The device is held and has supply, and `s1` is the state in which XSPI_RST_N has gone low. -/
structure BootBegins (e : BootEnv) (s s1 : State) : Prop where
  power : s.pkg.power = .on
  reset : s.pkg.resetLow = false
  held : s.ndy.phase = .held
  low : s1 = { setNdy (fun n => { n with fast := e.nvmFast, trainFail := e.trainFail, step := 0 }) s with out := s.out ++ [.xspiReset] }

theorem exec_bootStart (h : BootBegins e s s1) : exec (.bootStart e) s = .next (bootStart e s) := by
  show execBootStart e s = _
  unfold execBootStart
  rw [if_pos (by simp [h.power, h.reset, h.held])]

theorem BootBegins.emit (h : BootBegins e s s1) :
    s1 = (setNdy (fun n => { n with fast := e.nvmFast, trainFail := e.trainFail, step := 0 }) s).emit .xspiReset := h.low

theorem bootStart_noNvm (h : BootBegins e s s1) (hnvm : e.nvmOk = false ∨ e.readError = some .scan) :
    bootStart e s = failBoot 0xF0 (takeIdentity s1) := by
  rw [h.emit]
  exact if_pos (by simpa using hnvm)

/-- The NVM answers, and `s2` is the state in which the persistent area has been read. -/
structure BootScans (e : BootEnv) (s1 s2 : State) : Prop where
  nvm : e.nvmOk = true
  scan : e.readError ≠ some .scan
  persist : s2 = setNdy (fun n => { n with step := 1 }) (bootPersist s1)

theorem BootScans.goesOn (hs : BootScans e s1 s2) : ¬ (!e.nvmOk || decide (e.readError = some .scan)) = true := by
  simp [hs.nvm, hs.scan]

theorem bootStart_badHeaders (h : BootBegins e s s1) (hs : BootScans e s1 s2) (hbad : e.readError = some .headers) :
    bootStart e s = failBoot 0xF0 s2 := by
  unfold bootStart
  rw [← h.emit]
  dsimp only
  rw [if_neg hs.goesOn, if_pos hbad, ← hs.persist]

theorem bootStart_noCandidate (h : BootBegins e s s1) (hs : BootScans e s1 s2) (hgood : e.readError ≠ some .headers)
    (hc : candidates s2 = []) : bootStart e s = failBoot 0xF1 (reportHeaders s2) := by
  unfold bootStart
  rw [← h.emit]
  dsimp only
  rw [if_neg hs.goesOn, if_neg hgood, ← hs.persist]
  simp only [hc]

theorem bootStart_fails (h : BootBegins e s s1) (hs : BootScans e s1 s2) (hgood : e.readError ≠ some .headers)
    (hc : candidates s2 = i :: r) (htry : tryImages (badSlot e) (i :: r) (reportHeaders s2) = (none, s3)) :
    bootStart e s = setNdy (fun n => { n with phase := .failing }) s3 := by
  unfold bootStart
  rw [← h.emit]
  dsimp only
  rw [if_neg hs.goesOn, if_neg hgood, ← hs.persist]
  simp only [hc, htry]

theorem bootStart_passes (h : BootBegins e s s1) (hs : BootScans e s1 s2) (hgood : e.readError ≠ some .headers)
    (hc : candidates s2 = i :: r) {j : Nat} (htry : tryImages (badSlot e) (i :: r) (reportHeaders s2) = (some j, s3)) :
    bootStart e s = startClocks e.refPresent (stageImage j s3) := by
  unfold bootStart
  rw [← h.emit]
  dsimp only
  rw [if_neg hs.goesOn, if_neg hgood, ← hs.persist]
  simp only [hc, htry]

/-- Before READY stays before READY through the scan and the reports of headers. -/
theorem unready_of_scan (h : BootBegins e s s1) (hs : BootScans e s1 s2) (hready : s.ready = false) :
    s2.ready = false ∧ Unchanged [.free, .dst, .spare, .seqs, .rwp, .wear, .nvm, .ndy, .out] s s2 := by
  have h1 : Unchanged [.ndy, .out] s s1 := by rw [h.emit]; exact unchanged_of_mask (by simp [pieces])
  have h2 : Unchanged [.free, .dst, .spare, .seqs, .rwp, .wear, .nvm, .ndy] s1 s2 := by
    rw [hs.persist]; exact unchanged_of_mask (by simp [pieces])
  have h12 := h1.trans h2 (n := [.free, .dst, .spare, .seqs, .rwp, .wear, .nvm, .ndy, .out]) (by decide) (by decide)
  exact ⟨Eq.trans (h12 .ready (by decide)) hready, h12⟩

end

/-! ## The first candidate -/

theorem tryImages_bad {i : Nat} {r : List Nat} (s : State) :
    tryImages (some i) (i :: r) s = (none, setNdy (fun n => { n with slot := i, step := 1, reason := 0xF0 }) s) := by
  rw [tryImages]
  exact if_pos rfl

theorem tryImages_passes {bad : Option Nat} {i : Nat} {r : List Nat} {s : State} (hbad : bad ≠ some i) (h : imageReason s i = none) :
    tryImages bad (i :: r) s = (some i, setNdy (fun n => { n with slot := i, step := 2 }) s) := by
  rw [tryImages]
  rw [if_neg hbad]
  simp only [h]
  rfl

/-- The only candidate does not pass. -/
theorem tryImages_turnedAway {bad : Option Nat} {i x : Nat} {s : State} (hbad : bad ≠ some i) (h : imageReason s i = some x) :
    tryImages bad [i] s = (none, setNdy (fun n => { n with step := 2, reason := x, fallback := true })
      (bootTable x (setNdy (fun n => { n with slot := i, step := 1 }) s))) := by
  rw [tryImages]
  rw [if_neg hbad]
  simp only [h]
  rfl

/-! ## What BOOT_START leaves -/

section
variable {e : BootEnv} {s s1 s2 s3 : State} {i : Nat} {r : List Nat}

theorem bootStart_noNvm_leaves (h : BootBegins e s s1) (hnvm : e.nvmOk = false ∨ e.readError = some .scan) :
    ∃ t, exec (.bootStart e) s = .next t ∧ t.ndy.phase = .failing ∧ t.ndy.reason = 0xF0 ∧ t.ndy.step = 0
      ∧ (s.pers (rPrt 20 4) = 0 → s.pers (rPrt 20 8) = 0 → t.ndy.mac = s.fuses.mac.toNat) ∧ Unchanged [.ndy] s1 t := by
  have hexec := exec_bootStart h
  rw [bootStart_noNvm h hnvm] at hexec
  have hstep : s1.ndy.step = 0 := by rw [h.low]; rfl
  have hpers (a : Nat) : s1.pers a = s.pers a := by rw [h.low]; rfl
  have hfuses : s1.fuses = s.fuses := by rw [h.low]; rfl
  have hid : Unchanged [.ndy] s1 (takeIdentity s1) := unchanged_of_mask (by simp [pieces])
  have hfail := failBoot_unchanged 0xF0 (takeIdentity s1)
  refine ⟨_, hexec, ?_, ?_, ?_, fun h4 h8 => ?_, hid.trans hfail (by decide) (by decide)⟩ <;> rw [failBoot_ndy]
  · rw [takeIdentity_ndy, hstep]
  · simp [takeIdentity, hpers, h4, h8, hfuses]

theorem bootStart_badHeaders_leaves (h : BootBegins e s s1) (hs : BootScans e s1 s2) (hbad : e.readError = some .headers) :
    ∃ t, exec (.bootStart e) s = .next t ∧ t.ndy = { s2.ndy with phase := .failing, reason := 0xF0 } ∧ Unchanged [.ndy] s2 t := by
  have hexec := exec_bootStart h
  rw [bootStart_badHeaders h hs hbad] at hexec
  exact ⟨_, hexec, failBoot_ndy _ _, failBoot_unchanged _ _⟩

theorem bootStart_noCandidate_leaves (h : BootBegins e s s1) (hs : BootScans e s1 s2) (hs3 : s3 = reportHeaders s2)
    (hgood : e.readError ≠ some .headers) (hc : candidates s2 = []) :
    ∃ t, exec (.bootStart e) s = .next t ∧ t.ndy = { s3.ndy with phase := .failing, reason := 0xF1 } ∧ Unchanged [.ndy] s3 t := by
  have hexec := exec_bootStart h
  rw [bootStart_noCandidate h hs hgood hc, ← hs3] at hexec
  exact ⟨_, hexec, failBoot_ndy _ _, failBoot_unchanged _ _⟩

theorem bootStart_badSlot_leaves (h : BootBegins e s s1) (hs : BootScans e s1 s2) (hs3 : s3 = reportHeaders s2)
    (hgood : e.readError ≠ some .headers) (hc : candidates s2 = i :: r) (hbad : badSlot e = some i) :
    ∃ t, exec (.bootStart e) s = .next t ∧ t.ndy = { s3.ndy with slot := i, step := 1, phase := .failing, reason := 0xF0 }
      ∧ Unchanged [.ndy] s3 t := by
  have hexec := exec_bootStart h
  have htry := tryImages_bad (i := i) (r := r) (reportHeaders s2)
  rw [← hbad] at htry
  rw [bootStart_fails h hs hgood hc htry, ← hs3] at hexec
  clear htry
  exact ⟨_, hexec, rfl, (setNdy_unchanged _ s3).trans (setNdy_unchanged _ _) (by decide) (by decide)⟩

theorem bootStart_turnedAway_leaves (h : BootBegins e s s1) (hs : BootScans e s1 s2) (hs3 : s3 = reportHeaders s2)
    (hready : s.ready = false) (hgood : e.readError ≠ some .headers) (hc : candidates s2 = [i]) (hbad : badSlot e ≠ some i) {x : Nat}
    (hx : imageReason s3 i = some x) :
    ∃ t, exec (.bootStart e) s = .next t ∧ t.ndy.phase = .failing ∧ t.ndy.reason = x ∧ t.ndy.fallback = true ∧ t.ndy.slot = i := by
  have hexec := exec_bootStart h
  rw [hs3] at hx
  rw [bootStart_fails h hs hgood hc (tryImages_turnedAway hbad hx), ← hs3] at hexec
  have hr3 : s3.ready = false := by
    rw [hs3, (reportHeaders_unready (unready_of_scan h hs hready).1 .ready (by decide) : (reportHeaders s2).ready = s2.ready)]
    exact (unready_of_scan h hs hready).1
  have hr4 : (setNdy (fun n => { n with slot := i, step := 1 }) s3).ready = false := hr3
  have hndy : (bootTable x (setNdy (fun n => { n with slot := i, step := 1 }) s3)).ndy = _ := bootTable_unready x hr4 .ndy (by decide)
  refine ⟨_, hexec, ?_, ?_, ?_, ?_⟩ <;> rw [setNdy_ndy, setNdy_ndy]
  rw [hndy]
  rfl

theorem bootStart_passes_leaves (h : BootBegins e s s1) (hs : BootScans e s1 s2) (hready : s.ready = false)
    (hgood : e.readError ≠ some .headers) (hc : candidates s2 = i :: r) (hbad : badSlot e ≠ some i)
    (hx : imageReason (reportHeaders s2) i = none) :
    ∃ t, exec (.bootStart e) s = .next t ∧ t.ndy.slot = i ∧ t.ndy.seq = BitVec.ofNat 32 (imgSeq s2 i) ∧ t.ndy.step = 4
      ∧ t.ndy.digest = sha384 (imgBytes s2 i 0 (imgLen s2 i)) ∧ t.ndy.fallback = s.ndy.fallback
      ∧ t.ndy.phase = (if e.refPresent then .windows else .waitRef) ∧ t.pllLock = (e.refPresent || s.pllLock)
      ∧ t.fmRun = (e.refPresent || s.fmRun) ∧ t.onRoot = s.onRoot ∧ t.gate = s.gate := by
  have hexec := exec_bootStart h
  rw [bootStart_passes h hs hgood hc (tryImages_passes hbad hx)] at hexec
  obtain ⟨hr2, hscan⟩ := unready_of_scan h hs hready
  have hhead := reportHeaders_unready hr2
  have hfall2 : s2.ndy.fallback = s.ndy.fallback := by
    have hlow : s1.ndy.fallback = s.ndy.fallback := by rw [h.low]; rfl
    rw [← hlow, ← bootPersist_fallback s1, hs.persist, setNdy_ndy]
  generalize reportHeaders s2 = s3 at *
  have hset := setNdy_unchanged (fun n => { n with slot := i, step := 2 }) s3
  have hslot : (setNdy (fun n => { n with slot := i, step := 2 }) s3).ndy.slot = i := rfl
  have hfall : (setNdy (fun n => { n with slot := i, step := 2 }) s3).ndy.fallback = s2.ndy.fallback := by
    rw [setNdy_ndy, (hhead .ndy (by decide) : s3.ndy = s2.ndy)]
  have hboth := hhead.trans hset (n := [.reg, .dst, .seqs, .ndy]) (by decide) (by decide)
  generalize setNdy (fun n => { n with slot := i, step := 2 }) s3 = u at *
  have hnvm : u.nvm = s2.nvm := hboth .nvm (by decide)
  obtain ⟨hstage, hsslot, hsfall, hsseq, hsdig⟩ := stageImage_unready (i := i) (Eq.trans (hboth .ready (by decide)) hr2)
  have hall := (hscan.trans hboth (n := [.free, .dst, .spare, .seqs, .rwp, .wear, .nvm, .ndy, .out, .reg]) (by decide) (by decide)).trans hstage
    (n := [.free, .dst, .spare, .seqs, .rwp, .wear, .nvm, .ndy, .out, .reg, .whl]) (by decide) (by decide)
  obtain ⟨hndy, hpll, hfm, hclk⟩ := startClocks_facts e.refPresent (stageImage i u)
  refine ⟨_, hexec, ?_, ?_, ?_, ?_, ?_, ?_, ?_, ?_, ?_, ?_⟩
  · rw [hndy, hsslot, hslot]
  · rw [hndy, hsseq, imgSeq_congr hnvm]
  · rw [hndy]
  · rw [hndy, hsdig, imgLen_congr hnvm, imgBytes_congr hnvm]
  · rw [hndy, hsfall, hfall, hfall2]
  · rw [hndy]
  · rw [hpll, hall .pllLock (by decide)]
  · rw [hfm, hall .fmRun (by decide)]
  · exact Eq.trans (hclk .onRoot (by decide)) (hall .onRoot (by decide))
  · exact Eq.trans (hclk .gate (by decide)) (hall .gate (by decide))

end

end Sys2Proof.Machine
end

section
/-! SUPPORT. The stability windows (R415): what a device reset alone undoes while boot releases the units (R418), namely the switch
to the root clock and the boot's place; and what each window leaves. -/

namespace Sys2Proof.Machine

/-- From `s` to `t` the device keeps its clocks and the boot its phase, or a device reset has held it. -/
def ClocksOrHeld (s t : State) : Prop :=
  t.ndy.phase = .held ∨ (t.ndy.phase = s.ndy.phase ∧ t.onRoot = s.onRoot ∧ t.clocksOn = s.clocksOn ∧ t.spread = s.spread)

theorem ClocksOrHeld.rfl' (s : State) : ClocksOrHeld s s := .inr ⟨rfl, rfl, rfl, rfl⟩

theorem ClocksOrHeld.trans {s t u : State} (h : ClocksOrHeld s t) (k : ClocksOrHeld t u) : ClocksOrHeld s u := by
  rcases k with hheld | ⟨hphase, hroot, hon, hspread⟩
  · exact .inl hheld
  · rcases h with hheld | ⟨hphase', hroot', hon', hspread'⟩
    · exact .inl (hphase.trans hheld)
    · exact .inr ⟨hphase.trans hphase', hroot.trans hroot', hon.trans hon', hspread.trans hspread'⟩

/-- All that is neither a clock nor the niddy's. -/
def notClocks : Piece → Bool := fun p => !([.ndy, .onRoot, .clocksOn, .spread].contains p)

/-- All that is no clock. -/
def notSwitches : Piece → Bool := fun p => !([.onRoot, .clocksOn, .spread].contains p)

theorem clocksOrHeld_of_phase {s t : State} (h : t.mask notSwitches = s.mask notSwitches) (hphase : t.ndy.phase = s.ndy.phase) :
    ClocksOrHeld s t :=
  .inr ⟨hphase, sameAt_of_mask h .onRoot rfl, sameAt_of_mask h .clocksOn rfl, sameAt_of_mask h .spread rfl⟩

theorem clocksOrHeld_of_mask {s t : State} (h : t.mask notClocks = s.mask notClocks) : ClocksOrHeld s t :=
  .inr ⟨congrArg Ndy.phase (sameAt_of_mask h .ndy rfl : t.ndy = s.ndy), sameAt_of_mask h .onRoot rfl,
    sameAt_of_mask h .clocksOn rfl, sameAt_of_mask h .spread rfl⟩

theorem clocksOrHeld_of_account {s t : State} (h : t.mask notSwitches = s.mask notSwitches) (hndy : NvmAccount s t) :
    ClocksOrHeld s t :=
  clocksOrHeld_of_phase h (by rw [hndy.ndy])

theorem clocksOrHeld_foldl {α : Type} {g : State → α → State} (h : ∀ s x, ClocksOrHeld s (g s x)) (l : List α) (s : State) :
    ClocksOrHeld s (l.foldl g s) := by
  induction l generalizing s with
  | nil => exact .rfl' s
  | cons x r ih => exact (h s x).trans (ih _)

theorem clocksOrHeld_deviceReset (cause : BitVec 3) (s u : State) : ClocksOrHeld u (deviceReset cause s) := .inl rfl

theorem clocksOrHeld_persist (off : Nat) (v : Word) (e : Bool) (s : State) : ClocksOrHeld s (persist off v e s).1 :=
  clocksOrHeld_of_account (by simp [notSwitches]) (nvmAccount_persist off v e s)

theorem clocksOrHeld_persistFree (off : Nat) (v : Word) (s : State) : ClocksOrHeld s (persistFree off v s).1 :=
  clocksOrHeld_of_account (by simp [notSwitches]) (nvmAccount_persistFree off v s)

/-! ## A message accepted (R389) -/

theorem clocksOrHeld_markRetired (v : Nat) (s : State) : ClocksOrHeld s (markRetired v s) := by
  unfold markRetired
  split
  · exact clocksOrHeld_persistFree _ _ s
  · exact .rfl' s

theorem clocksOrHeld_retireEffect (v : Nat) (s : State) : ClocksOrHeld s (retireEffect v s) :=
  clocksOrHeld_of_mask (by simp [notClocks])

theorem clocksOrHeld_retireUnit (v : Nat) (s : State) : ClocksOrHeld s (retireUnit v s) := by
  unfold retireUnit
  split
  · exact .rfl' s
  · split
    · exact .inr ⟨rfl, rfl, rfl, rfl⟩
    · exact (clocksOrHeld_markRetired v s).trans (clocksOrHeld_retireEffect v _)

theorem clocksOrHeld_applyAction (a : BitVec 3) (m : Msg) (s : State) : ClocksOrHeld s (applyAction a m s) := by
  unfold applyAction
  split
  · exact .inr ⟨rfl, rfl, rfl, rfl⟩
  · split
    · split
      · exact clocksOrHeld_retireUnit _ s
      · exact .rfl' s
    · split
      · split
        · exact clocksOrHeld_of_mask (by simp [notClocks])
        · exact .rfl' s
      · exact .rfl' s

theorem clocksOrHeld_acceptMsg (q : QMsg) (s : State) : ClocksOrHeld s (acceptMsg q s) := by
  unfold acceptMsg
  extract_lets m seq d s1 s2 s3
  have h3 : ClocksOrHeld s s3 := clocksOrHeld_of_mask (by simp [s3, s2, s1, d, notClocks])
  clear_value s3
  split
  · have hclass : ClocksOrHeld s3 (classifyMsg m s3).2 := clocksOrHeld_of_mask (by simp [notClocks])
    generalize classifyMsg m s3 = c at hclass ⊢
    obtain ⟨severe, s4⟩ := c
    dsimp only at hclass ⊢
    have h5 : ClocksOrHeld s4 (if severe = true then (setStatus 32 s4).count (rDst 0x24) 1 else s4) :=
      clocksOrHeld_of_mask (by simp [notClocks])
    replace h5 := (h3.trans hclass).trans h5
    generalize (if severe = true then (setStatus 32 s4).count (rDst 0x24) 1 else s4) = s5 at h5 ⊢
    generalize settleAction _ _ = act
    obtain ⟨a, fb⟩ := act
    dsimp only
    generalize (if severe = true then { m with flags := m.flags ||| flagSevere } else m) = ms
    have h6 : ClocksOrHeld s (logMsg (logRecord seq ms s5.tick a fb false) (latchMsg seq m s5)) :=
      h5.trans (clocksOrHeld_of_mask (by simp [notClocks]))
    have h7 := h6.trans (clocksOrHeld_applyAction a m _)
    split
    · exact clocksOrHeld_deviceReset ..
    · split
      · exact h7
      · exact h7.trans (clocksOrHeld_of_mask (by simp [notClocks]))
  · exact h3.trans (clocksOrHeld_of_mask (by simp [notClocks]))

theorem clocksOrHeld_acceptNext (s : State) : ClocksOrHeld s (acceptNext s) := by
  rcases acceptNext_cases s with he | ⟨k, q, r, he⟩ <;> rw [he]
  · exact .rfl' s
  · exact ClocksOrHeld.trans (t := msgTaken k r s) (.inr ⟨rfl, rfl, rfl, rfl⟩) (clocksOrHeld_acceptMsg q _)

theorem clocksOrHeld_bootFault (kind : Byte) (x : Nat) (s : State) : ClocksOrHeld s (bootFault kind x s) :=
  ClocksOrHeld.trans (clocksOrHeld_of_mask (by simp [notClocks])) (clocksOrHeld_acceptNext (faultParam srcNdy kind x s))

theorem clocksOrHeld_bootTable (x : Nat) (s : State) : ClocksOrHeld s (bootTable x s) := clocksOrHeld_bootFault _ x s

/-! ## A register written (R427) -/

theorem clocksOrHeld_storePers (a : Nat) (r : RegRow) (v : Word) (e : Bool) (s : State) : ClocksOrHeld s (storePers a r v e s).2 := by
  have h := clocksOrHeld_persist a (v &&& r.mask (fun t => t = .rwp)) e s
  unfold storePers
  split <;> rename_i heq <;> rw [heq] at h <;> exact h

theorem clocksOrHeld_writeSkn (k a : Nat) (r : RegRow) (v : Word) (e : Bool) (s : State) : ClocksOrHeld s (writeSkn k a r v e s).2 := by
  unfold writeSkn
  dsimp only
  split
  · split
    · exact clocksOrHeld_storePers a r v e s
    · exact .rfl' s
  · exact clocksOrHeld_of_mask (by simp [apply_ite Prod.snd, notClocks])

theorem clocksOrHeld_writeRetired (w : Nat) (v : Word) (e : Bool) (s : State) :
    ClocksOrHeld s ((writeRetired w v e s).1.over (writeRetired w v e s).2) := by
  unfold writeRetired
  extract_lets off bs newv old
  have h := clocksOrHeld_persist off newv e s
  generalize persist off newv e s = q at h ⊢
  obtain ⟨s1, ok⟩ := q
  cases ok
  · exact h
  · exact h.trans (clocksOrHeld_of_mask (by simp [notClocks]))

theorem clocksOrHeld_writeDst (a : Nat) (r : RegRow) (v : Word) (e : Bool) (s : State) : ClocksOrHeld s (writeDst a r v e s).2 := by
  unfold writeDst
  extract_lets o
  iterate 6 (split; · exact clocksOrHeld_of_mask (by simp [notClocks]))
  split
  · rw [ofWr2_state]
    exact clocksOrHeld_writeRetired ..
  · split
    · exact clocksOrHeld_storePers a r v e s
    · exact clocksOrHeld_of_mask (by simp [notClocks])

theorem clocksOrHeld_writeClk (a : Nat) (r : RegRow) (v : Word) (s : State) : ClocksOrHeld s (writeClk a r v s).2 := by
  unfold writeClk
  extract_lets o
  split
  · unfold writeDevReset
    split
    · exact clocksOrHeld_deviceReset ..
    · exact .rfl' s
  · exact clocksOrHeld_of_mask (by simp [apply_ite Prod.snd, notClocks])

theorem writeFuseCmd_phase (o : Origin) (v : Word) (s : State) : (writeFuseCmd o v s).2.ndy.phase = s.ndy.phase := by
  have hend : (endFuse s).ndy.phase = s.ndy.phase := by
    unfold endFuse
    split
    · rfl
    · dsimp only
      split <;> rfl
  unfold writeFuseCmd
  split
  · dsimp only
    split <;> exact hend
  · split
    · exact hend
    · rfl

theorem clocksOrHeld_writeNdy (org : Origin) (a : Nat) (r : RegRow) (v : Word) (e : Bool) (s : State) :
    ClocksOrHeld s (writeNdy org a r v e s).2 := by
  unfold writeNdy
  extract_lets o
  split
  · split
    · exact .rfl' s
    · exact clocksOrHeld_storePers a r v e s
  · split
    · exact clocksOrHeld_of_phase (by simp [notSwitches]) (writeFuseCmd_phase org v s)
    · split
      · exact .inr ⟨rfl, rfl, rfl, rfl⟩
      · exact .inr ⟨rfl, rfl, rfl, rfl⟩

theorem clocksOrHeld_writePrt (a : Nat) (r : RegRow) (v : Word) (e : Bool) (s : State) : ClocksOrHeld s (writePrt a r v e s).2 := by
  unfold writePrt
  extract_lets o
  split
  · exact clocksOrHeld_storePers a r v e s
  · exact clocksOrHeld_of_mask (by simp [apply_ite Prod.snd, notClocks])

theorem clocksOrHeld_writeReg (org : Origin) (a : Nat) (v : Word) (e : Bool) (s : State) : ClocksOrHeld s (writeReg org a v e s).2 := by
  unfold writeReg
  split
  · exact .rfl' s
  · rename_i r _
    split
    · exact .rfl' s
    · extract_lets inst
      split
      iterate 4 exact clocksOrHeld_of_mask (by simp [notClocks])
      · exact clocksOrHeld_writeSkn inst a r v e s
      · exact clocksOrHeld_writeDst a r v e s
      · exact clocksOrHeld_writeClk a r v s
      · exact clocksOrHeld_writeNdy org a r v e s
      · exact clocksOrHeld_of_mask (by simp [notClocks])
      · exact clocksOrHeld_writePrt a r v e s
      · exact clocksOrHeld_of_mask (by simp [notClocks])

theorem clocksOrHeld_accessWrite (o : Origin) (a : Nat) (v : Word) (e : Bool) (s : State) : ClocksOrHeld s (accessWrite o a v e s).2 := by
  have h := clocksOrHeld_writeReg o a v e s
  unfold accessWrite
  split
  · exact clocksOrHeld_of_mask (by simp [notClocks])
  · split <;> rename_i heq <;> rw [heq] at h
    · exact h.trans (clocksOrHeld_of_mask (by simp [notClocks]))
    · exact h.trans (clocksOrHeld_of_mask (by simp [notClocks]))

theorem clocksOrHeld_writeDefault (a : Nat) (v : Word) (s : State) : ClocksOrHeld s (writeDefault a v s) := by
  have h := ClocksOrHeld.trans (t := s.bumpFree) (.inr ⟨rfl, rfl, rfl, rfl⟩)
    (clocksOrHeld_accessWrite .niddy a v (Config.freeBool s.free) s.bumpFree)
  unfold writeDefault
  split
  · exact .rfl' s
  · split
    · exact clocksOrHeld_bootTable 5 s
    · split <;> rename_i heq <;> rw [heq] at h
      · exact h
      · exact (h.trans (clocksOrHeld_acceptNext _)).trans (clocksOrHeld_bootTable 5 _)

theorem clocksOrHeld_writeDefaults (i : Nat) (s : State) : ClocksOrHeld s (writeDefaults i s) := by
  unfold writeDefaults
  split
  · exact .rfl' s
  · extract_lets s1
    have h1 : ClocksOrHeld s s1 := by
      simp only [s1]
      split
      · exact .rfl' s
      · exact clocksOrHeld_bootTable 5 s
    exact h1.trans (clocksOrHeld_foldl (fun s _ => clocksOrHeld_writeDefault _ _ s) _ s1)

/-! ## The units (Table 15-6, step 9) -/

theorem clocksOrHeld_setFault (k lo hi : Nat) (s : State) : ClocksOrHeld s (setFault k lo hi s) := by
  have hkind (win : Bool) (v : Word) (s : State) : ClocksOrHeld s ((writeKind win v s).over s) :=
    clocksOrHeld_of_mask (by simp [notClocks])
  have h0 := ClocksOrHeld.trans (t := s.setReg (rDst 0x90) (BitVec.ofNat 32 k)) (.inr ⟨rfl, rfl, rfl, rfl⟩) (hkind false (BitVec.ofNat 32 lo) _)
  unfold setFault
  dsimp only
  split
  · exact .rfl' s
  · split
    · exact clocksOrHeld_bootTable 4 s
    · rename_i t ht
      rw [ht] at h0
      have h1 := ClocksOrHeld.trans h0 (hkind true (BitVec.ofNat 32 hi) t)
      split
      · exact clocksOrHeld_bootTable 4 s
      · rename_i u hu
        rw [hu] at h1
        exact h1.trans (.inr ⟨rfl, rfl, rfl, rfl⟩)

theorem clocksOrHeld_loadFaults (i : Nat) (s : State) : ClocksOrHeld s (loadFaults i s) := by
  unfold loadFaults
  split
  · exact .rfl' s
  · split
    · exact clocksOrHeld_foldl (fun s _ => clocksOrHeld_setFault _ _ _ s) _ s
    · exact clocksOrHeld_bootTable 4 s

theorem clocksOrHeld_loadFormat (i j : Nat) (s : State) : ClocksOrHeld s (loadFormat i j s) := by
  have hslot (t : Option (List Word)) : ClocksOrHeld s (setSlot j t s) := .inr ⟨rfl, rfl, rfl, rfl⟩
  unfold loadFormat
  split
  · exact hslot _
  · split
    · exact hslot _
    · exact (hslot _).trans (clocksOrHeld_bootFault ..)

theorem clocksOrHeld_loadCurve (i j : Nat) (s : State) : ClocksOrHeld s (loadCurve i j s) := by
  have hcurves (m : AMap (List Word)) : ClocksOrHeld s { s with curves := m } := .inr ⟨rfl, rfl, rfl, rfl⟩
  unfold loadCurve
  split
  · exact hcurves _
  · split
    · exact hcurves _
    · exact (hcurves _).trans (clocksOrHeld_bootFault ..)

theorem clocksOrHeld_bootUnits (s : State) : ClocksOrHeld s (bootUnits s) := by
  unfold bootUnits
  extract_lets i s1 s2
  have h0 : ClocksOrHeld s (openGates ((imgTable s i 1 0).getD []) (setNdy (fun n => { n with step := 5 }) s)) :=
    .inr ⟨rfl, rfl, rfl, rfl⟩
  have h2 : ClocksOrHeld s s2 := (h0.trans (clocksOrHeld_loadFaults i _)).trans (clocksOrHeld_writeDefaults i _)
  clear_value s2
  split
  · exact h2
  · exact (h2.trans (clocksOrHeld_foldl (fun s j => clocksOrHeld_loadFormat i j s) _ s2)).trans
      (clocksOrHeld_foldl (fun s j => clocksOrHeld_loadCurve i j s) _ _)

/-- No unit's table holds the wall clock. -/
theorem bootUnits_wall (s : State) : (bootUnits s).wall = s.wall :=
  sameAt_of_mask (bootUnits_mask (L := others) s (by simp)) .wall rfl

/-- Every skein begins to train, and nothing else changes but where the boot stands. -/
theorem bootSkeins_facts (s : State) : (bootSkeins s).ndy = { s.ndy with step := 6, phase := .placed, trainAt := s.wall }
    ∧ (∀ k, k < 32 → ((bootSkeins s).skein k).mode = .training) ∧ Unchanged [.skn, .ndy] s (bootSkeins s) := by
  refine ⟨?_, fun k hk => ?_, unchanged_of_mask (by simp [pieces])⟩
  · have h (u : State) : Unchanged [.skn] u ((List.range 32).foldl (fun s k => s.setSkein k { s.skein k with mode := .training }) u) :=
      unchanged_of_mask (by simp [pieces])
    exact h _ .ndy (by decide)
  · unfold bootSkeins
    rw [foldl_skeinMode (P := fun _ => True) (f := fun k s => s.setSkein k { s.skein k with mode := .training }) (g := fun _ _ => .training)
      (fun _ _ => rfl) (fun _ _ _ => trivial) (fun i s _ j => ?_) k _ _ trivial, if_pos (List.mem_range.mpr hk)]
    rw [State.skein_setSkein]
    split <;> rfl

/-! ## CLOCK_STABILITY_WINDOW -/

section
variable {count p : Nat} {s s1 : State}

/-- A window in the phase of windows: `p` passes running after it, and `s1` the state in which it has been counted. -/
structure WindowCounted (count p : Nat) (s s1 : State) : Prop where
  phase : s.ndy.phase = .windows
  passes : p = if s.ndy.windows = 0 then 0 else if 131046 ≤ count ∧ count ≤ 131098 then s.ndy.passes + 1 else 0
  counted : s1 = { setNdy (fun n => { n with windows := s.ndy.windows + 1, passes := p }) s with
    fmResult := BitVec.ofNat 32 (min count 4294967295), fmDone := decide (p = 3 ∨ 64 ≤ s.ndy.windows + 1)
    fmRun := decide (p ≠ 3 ∧ s.ndy.windows + 1 < 64) }

theorem exec_window (h : WindowCounted count p s s1) : exec (.clockStabilityWindow count) s = .next (
    if p = 3 then
      if (bootUnits (clocksUp s1)).ndy.phase = .held then bootUnits (clocksUp s1) else bootSkeins (bootUnits (clocksUp s1))
    else if 64 ≤ s.ndy.windows + 1 then failBoot 0xF9 (faultParam srcNdy kCLK_DRIFT 2 s1)
    else s1) := by
  have hp : (if s.ndy.windows = 0 then 0 else if stableWindow count = true then s.ndy.passes + 1 else 0) = p := by
    rw [h.passes]
    simp [stableWindow]
  have hend : (!(decide (p = 3) || decide (64 ≤ s.ndy.windows + 1))) = decide (p ≠ 3 ∧ s.ndy.windows + 1 < 64) := by
    rw [← Bool.decide_or, ← decide_not, decide_eq_decide]
    omega
  have hs1 : { setNdy (fun n => { n with windows := s.ndy.windows + 1, passes := p }) s with
      fmResult := BitVec.ofNat 32 (min count 4294967295), fmDone := decide (p = 3) || decide (64 ≤ s.ndy.windows + 1)
      fmRun := !(decide (p = 3) || decide (64 ≤ s.ndy.windows + 1)) } = s1 := by
    rw [h.counted, hend, Bool.decide_or]
  show Host.Outcome.next (if s.ndy.phase = .windows then judgeWindow count s else s) = _
  rw [if_pos h.phase]
  unfold judgeWindow
  dsimp only
  rw [hp, hs1]

theorem window_counts (h : WindowCounted count p s s1) (hp : p ≠ 3) (hw : s.ndy.windows + 1 < 64) :
    exec (.clockStabilityWindow count) s = .next s1 := by
  rw [exec_window h, if_neg hp, if_neg (by omega)]

theorem window_fails (h : WindowCounted count p s s1) (hp : p ≠ 3) (hw : 64 ≤ s.ndy.windows + 1) :
    ∃ t, exec (.clockStabilityWindow count) s = .next t ∧ t.ndy = { s1.ndy with phase := .failing, reason := 0xF9 }
      ∧ Sent { source := srcNdy, kind := kCLK_DRIFT, flags := flagParam, addr := 2 } none s1 t ∧ Unchanged [.ndy, .dst, .seqs] s1 t := by
  have hexec := exec_window h
  rw [if_neg hp, if_pos hw] at hexec
  have hsent : Sent { source := srcNdy, kind := kCLK_DRIFT, flags := flagParam, addr := 2 } none s1 (faultParam srcNdy kCLK_DRIFT 2 s1) :=
    sent_sendMsg _ s1
  have hstay : Unchanged [.dst, .seqs] s1 (faultParam srcNdy kCLK_DRIFT 2 s1) := sendMsg_unchanged _ none s1
  refine ⟨_, hexec, ?_, hsent, hstay.trans (failBoot_unchanged 0xF9 _) (by decide) (by decide)⟩
  rw [failBoot_ndy, (hstay .ndy (by decide) : (faultParam srcNdy kCLK_DRIFT 2 s1).ndy = s1.ndy)]

/-- The third pass running: the device is on the root, and the skeins train, unless the image has asked for a device reset. -/
theorem window_passes (h : WindowCounted count p s s1) (hp : p = 3) (hheld : (bootUnits (clocksUp s1)).ndy.phase ≠ .held) :
    ∃ t, exec (.clockStabilityWindow count) s = .next t ∧ t.ndy.phase = .placed ∧ t.ndy.step = 6 ∧ t.ndy.trainAt = s.wall
      ∧ t.onRoot = true ∧ t.clocksOn = true ∧ t.spread = true ∧ (∀ k, k < 32 → (t.skein k).mode = .training)
      ∧ t.mem = (bootUnits (clocksUp s1)).mem := by
  have hexec := exec_window h
  rw [if_pos hp, if_neg hheld] at hexec
  have hwall : s1.wall = s.wall := by rw [h.counted]; rfl
  have hunits : (bootUnits (clocksUp s1)).wall = s1.wall := bootUnits_wall (clocksUp s1)
  have hup : (clocksUp s1).onRoot = true ∧ (clocksUp s1).clocksOn = true ∧ (clocksUp s1).spread = true := ⟨rfl, rfl, rfl⟩
  have hkeep := (clocksOrHeld_bootUnits (clocksUp s1)).resolve_left hheld
  generalize clocksUp s1 = u at *
  generalize bootUnits u = v at *
  obtain ⟨-, hroot, hon, hspread⟩ := hkeep
  rw [hup.1] at hroot
  rw [hup.2.1] at hon
  rw [hup.2.2] at hspread
  obtain ⟨hndy, hmode, hstay⟩ := bootSkeins_facts v
  refine ⟨_, hexec, by rw [hndy], by rw [hndy], ?_, ?_, ?_, ?_, hmode, hstay .mem (by decide)⟩
  · rw [hndy]
    exact hunits.trans hwall
  · exact Eq.trans (hstay .onRoot (by decide)) hroot
  · exact Eq.trans (hstay .clocksOn (by decide)) hon
  · exact Eq.trans (hstay .spread (by decide)) hspread

end

end Sys2Proof.Machine
end

section
/-! SUPPORT. The end of the boot (R340, R356, R400, R432 to R434): the fill, the placement check, READY, and the boot that has failed. -/

namespace Sys2Proof.Machine

/-! ## Tables written and loaded keep where skeins stand -/

theorem skeinsStay_errorResponse (who : BitVec 16) (flags : Byte) (a : Nat) (kind : Byte) (s : State) :
    SkeinsStay s (errorResponse who flags a kind s) :=
  .of_unchanged (ps := [.reg, .dst, .seqs]) (unchanged_of_mask (by simp [pieces])) (by decide)

theorem skeinsStay_touchRead (who : BitVec 16) (flags : Byte) (sec : Nat) (s : State) : SkeinsStay s (touchRead who flags sec s) := by
  have hrepair (t : State) : SkeinsStay t (repairSector sec t) :=
    .of_unchanged (ps := [.mem, .errs, .reg]) (unchanged_of_mask (by simp [repairSector, pieces])) (by decide)
  unfold touchRead
  dsimp only
  split
  · exact skeinsStay_errorResponse ..
  · split
    · exact .of_skn rfl
    · exact (skeinsStay_correctable ..).trans (hrepair _)
    · exact skeinsStay_count ..
    · exact skeinsStay_uncorrectable ..

theorem skeinsStay_touchReads (who : BitVec 16) (flags : Byte) (l : List Nat) (s : State) : SkeinsStay s (touchReads who flags l s) :=
  skeinsStay_foldl (fun s x => skeinsStay_touchRead who flags x s) _ s

theorem skeinsStay_writeSector (who : BitVec 16) (flags : Byte) (sec : Nat) (slots : List (Option MByte)) (s : State) :
    SkeinsStay s (writeSector who flags sec slots s).1 := by
  have hread := skeinsStay_count (rSkn (sknOf (sec * 32)) 0x10) 1 s
  unfold writeSector
  dsimp only
  split
  · exact skeinsStay_errorResponse ..
  · split
    · exact skeinsStay_store ..
    · split
      · exact hread.trans (skeinsStay_store ..)
      · exact (hread.trans (skeinsStay_correctable ..)).trans (skeinsStay_store ..)
      · exact hread.trans (skeinsStay_store ..)
      · exact (hread.trans (skeinsStay_uncorrectable ..)).trans (skeinsStay_store ..)

theorem skeinsStay_foldl_fst {α β : Type} {g : State × β → α → State × β} (h : ∀ x y, SkeinsStay x.1 (g x y).1) (l : List α)
    (x : State × β) : SkeinsStay x.1 (l.foldl g x).1 := by
  induction l generalizing x with
  | nil => exact .of_skn rfl
  | cons y r ih => exact (h x y).trans (ih _)

theorem skeinsStay_storeClean (who : BitVec 16) (a : Nat) (l : List Byte) (s : State) : SkeinsStay s (storeClean who a l s) := by
  unfold storeClean writeBytes
  exact skeinsStay_foldl_fst (x := (s, [])) (fun x g => by dsimp only; exact skeinsStay_writeSector who 0 g.1 g.2 x.1) _

theorem skeinsStay_setQp (n : Nat) (q : Qp) (s : State) : SkeinsStay s (s.setQp n q) := by
  have hput : SkeinsStay s { s with qps := mput s.qps n q {} } := .of_skn rfl
  have hfields (l : List ((Nat × Nat × Nat) × (Nat × Nat × Nat))) (a : Nat) (t : State) : SkeinsStay t (l.foldl (fun s f =>
      if f.1.2.2 = f.2.2.2 then s else storeClean (srcPrt 0) (a + f.2.1) (leBytes f.2.2.1 f.2.2.2) s) t) :=
    skeinsStay_foldl (fun s f => by
      split
      · exact .of_skn rfl
      · exact skeinsStay_storeClean ..) l t
  unfold State.setQp storeQp
  dsimp only
  split
  · exact hput
  · split
    · exact (hput.trans (skeinsStay_storeClean ..)).trans (hfields ..)
    · exact hput.trans (hfields ..)

theorem skeinsStay_qpLoad (n : Nat) (s : State) : SkeinsStay s (qpLoad n s) := by
  have hout (ok : Bool) (t : State) : SkeinsStay t (qpOutcome n ok t) :=
    .of_unchanged (ps := [.qpResult, .dst, .seqs]) (unchanged_of_mask (by simp [pieces])) (by decide)
  have hread := skeinsStay_touchReads (srcPrt 0) 0 (sectorsOf (qptBase s + n * 128) 128) s
  unfold qpLoad
  dsimp only
  split
  · exact hout false s
  · split
    · exact hread.trans (hout false _)
    · exact ((hread.trans (skeinsStay_setQp ..)).trans (skeinsStay_setQp ..)).trans (hout true _)

theorem skeinsStay_bootQueuePairs (t : List Byte) (s : State) : SkeinsStay s (bootQueuePairs t s) :=
  ((skeinsStay_storeClean ..).trans (skeinsStay_storeClean ..)).trans (skeinsStay_foldl (fun s n => skeinsStay_qpLoad n s) _ _)

/-! ## Steps 11 and 12: READY -/

theorem acceptAll_unready (n : Nat) {s : State} (h : s.ready = false) : Unchanged [.reg, .dst, .seqs] s (acceptAll n s) := by
  induction n generalizing s with
  | zero => exact fun p _ => by cases p <;> rfl
  | succ n ih =>
    unfold acceptAll
    split
    · exact fun p _ => by cases p <;> rfl
    · have hnext := acceptNext_unready h
      exact hnext.trans (ih (Eq.trans (hnext .ready (by decide)) h)) (by decide) (by decide)

theorem startSkeins_mode (s : State) (k : Nat) : (((List.range 32).foldl (fun s k => startSkein k s) s).skein k).mode = (s.skein k).mode := by
  rw [foldl_skeinMode (P := fun _ => True) (f := startSkein) (g := fun _ m => m) (fun _ _ => rfl) (fun _ _ _ => trivial)
    (fun i s _ j => ?_) k _ _ trivial]
  · split <;> rfl
  · have hcounters : ((startSkein i s).skein j).mode = ((s.setSkein i { s.skein i with
        buckets := [], scrubPos := 0, leakFrom := s.tick, scrubFrom := s.tick }).skein j).mode :=
      (SkeinsStay.of_unchanged (ps := [.reg]) (unchanged_of_mask (by simp [startSkein, pieces])) (by decide)).mode j
    rw [hcounters, State.skein_setSkein]
    split
    · next h => subst h; rfl
    · rfl

theorem isRetired_congr {s t : State} (h : t.rwp = s.rwp) (v : Nat) : isRetired t v = isRetired s v := by
  unfold isRetired State.pers
  rw [h]

/-- The distaff shuts the gates of retired units. -/
theorem foldl_gateOff_retired {s : State} {v : Nat} (hv : v < 128) (hr : isRetired s v = true) (l : List Nat) :
    ∀ t : State, t.rwp = s.rwp → (t.gate.getLsbD v = false ∨ v ∈ l) →
      (l.foldl (fun s v => if isRetired s v then gateOff v s else s) t).gate.getLsbD v = false := by
  have hoff (u : Nat) (t : State) : (gateOff u t).gate.getLsbD v = if v = u then false else t.gate.getLsbD v := by
    have h := congrArg Prod.fst (gateOff_seen u v t hv)
    rwa [apply_ite Prod.fst] at h
  have hrwp (u : Nat) (t : State) : (gateOff u t).rwp = t.rwp :=
    (unchanged_of_mask (by simp [pieces]) : Unchanged [.gate, .pend] t (gateOff u t)) .rwp (by decide)
  induction l with
  | nil => exact fun t _ h => by simpa using h
  | cons u r ih =>
    intro t ht h
    rw [List.foldl_cons]
    by_cases hu : isRetired t u = true
    · rw [if_pos hu]
      refine ih _ ((hrwp u t).trans ht) ?_
      rw [hoff]
      by_cases huv : v = u
      · exact .inl (if_pos huv)
      · rw [if_neg huv]
        simpa [huv] using h
    · rw [if_neg hu]
      have huv : v ≠ u := fun he => hu (by rw [← he, isRetired_congr ht]; exact hr)
      exact ih t ht (by simpa [huv] using h)

theorem startDistaff_gate {s : State} {v : Nat} (hv : v < 116) (hr : isRetired s v = true) :
    (startDistaff s).gate.getLsbD v = false :=
  foldl_gateOff_retired (s := s) (by omega) hr _ _ rfl (.inr (List.mem_range.mpr hv))

theorem startWhorl_facts (s : State) : (startWhorl s).whl.level = 0 ∧ (startWhorl s).getReg (rClk 0xA0) = 0x40404040
    ∧ Unchanged [.reg, .whl] s (startWhorl s) :=
  ⟨rfl, by unfold startWhorl; simp, unchanged_of_mask (by simp [pieces])⟩

/-- A NOTICE leaves where the boot stands. -/
theorem sendNotice_facts (s : State) :
    (∃ x n, (sendNotice s).ndy = { s.ndy with notice := x, noticeAt := n })
      ∧ (∀ a, a ≠ rPrt 20 0x40 → (sendNotice s).getReg a = s.getReg a) ∧ Unchanged [.reg, .ndy, .out] s (sendNotice s) := by
  have hcount (t : State) : (txFrames 20 1 t).ndy = t.ndy := count_unchanged _ _ t .ndy (by decide)
  refine ⟨?_, fun a ha => ?_, unchanged_of_mask (by simp [pieces])⟩
  · unfold sendNotice
    split
    · exact ⟨_, _, hcount _⟩
    · exact ⟨_, _, rfl⟩
  · unfold sendNotice
    split
    · exact getReg_count_ne ha.symm _ _
    · rfl

/-- READY: what the device shows, and what it keeps of `s`. -/
structure Readied (s t : State) : Prop where
  phase : t.ndy.phase = .ready
  step : t.ndy.step = 7
  ready : t.ready = true
  run : t.run = BitVec.allOnes 4096
  issue : t.getReg (rClk 0xA0) = 0x40404040
  level : t.whl.level = 0
  modes : ∀ k, (t.skein k).mode = (s.skein k).mode
  gates : ∀ v, v < 116 → isRetired s v = true → t.gate.getLsbD v = false
  tick : t.tick = s.tick
  onRoot : t.onRoot = s.onRoot

/-- A NOTICE goes out of a device that is READY. -/
theorem Readied.notice {s t : State} (h : Readied s t) : Readied s (sendNotice t) := by
  obtain ⟨⟨x, n, hndy⟩, hreg, hstay⟩ := sendNotice_facts t
  have hskn : SkeinsStay t (sendNotice t) := .of_unchanged hstay (by decide)
  exact {
    phase := by rw [hndy, h.phase]
    step := by rw [hndy, h.step]
    ready := Eq.trans (hstay .ready (by decide)) h.ready
    run := Eq.trans (hstay .run (by decide)) h.run
    issue := (hreg _ (by decide)).trans h.issue
    level := (congrArg Whl.level (hstay .whl (by decide))).trans h.level
    modes := fun k => (hskn.mode k).trans (h.modes k)
    gates := fun v hv hr => by rw [(hstay .gate (by decide) : (sendNotice t).gate = t.gate)]; exact h.gates v hv hr
    tick := Eq.trans (hstay .tick (by decide)) h.tick
    onRoot := Eq.trans (hstay .onRoot (by decide)) h.onRoot }

/-- The units at READY: distaff, skein controllers and whorl start. -/
def unitsStarted (s : State) : State := startWhorl (startDistaff ((List.range 32).foldl (fun s k => startSkein k s) s))

theorem unitsStarted_facts (s : State) : (unitsStarted s).whl.level = 0 ∧ (unitsStarted s).getReg (rClk 0xA0) = 0x40404040
    ∧ (∀ k, ((unitsStarted s).skein k).mode = (s.skein k).mode)
    ∧ (∀ v, v < 116 → isRetired s v = true → (unitsStarted s).gate.getLsbD v = false)
    ∧ Unchanged [.reg, .skn, .dst, .gate, .pend, .whl] s (unitsStarted s) := by
  unfold unitsStarted
  have hskeins : Unchanged [.reg, .skn] s ((List.range 32).foldl (fun s k => startSkein k s) s) :=
    unchanged_of_mask (by simp [pieces])
  have hmode := startSkeins_mode s
  generalize (List.range 32).foldl (fun s k => startSkein k s) s = u at *
  have hdst : Unchanged [.reg, .dst, .gate, .pend] u (startDistaff u) := unchanged_of_mask (by simp [pieces])
  have hgate (v : Nat) (hv : v < 116) (hr : isRetired s v = true) : (startDistaff u).gate.getLsbD v = false :=
    startDistaff_gate hv (by rw [isRetired_congr (hskeins .rwp (by decide))]; exact hr)
  generalize startDistaff u = w at *
  obtain ⟨hlevel, hissue, hwhorl⟩ := startWhorl_facts w
  have hstay : SkeinsStay u (startWhorl w) :=
    (SkeinsStay.of_unchanged hdst (by decide)).trans (SkeinsStay.of_unchanged hwhorl (by decide))
  refine ⟨hlevel, hissue, fun k => (hstay.mode k).trans (hmode k), fun v hv hr => ?_,
    (hskeins.trans hdst (n := [.reg, .skn, .dst, .gate, .pend]) (by decide) (by decide)).trans hwhorl (by decide) (by decide)⟩
  rw [(hwhorl .gate (by decide) : (startWhorl w).gate = w.gate)]
  exact hgate v hv hr

theorem reportReady_eq (s : State) : reportReady s = sendNotice (setNdy (fun n => { n with
      step := 7, phase := .ready, telemAt := (acceptAll (waitingMsgs s) s).wall, dayAt := (acceptAll (waitingMsgs s) s).wall })
    { unitsStarted (acceptAll (waitingMsgs s) s) with
      ready := true, run := BitVec.allOnes 4096, lsInit := BitVec.ofInt 8 (lsInit (unitsStarted (acceptAll (waitingMsgs s) s))) }) := rfl

theorem readied_reportReady {s : State} (h : s.ready = false) : Readied s (reportReady s) := by
  have haccept := acceptAll_unready (waitingMsgs s) h
  obtain ⟨r, hrun⟩ : ∃ r, r = BitVec.allOnes 4096 := ⟨_, rfl⟩
  rw [reportReady_eq, ← hrun]
  generalize acceptAll (waitingMsgs s) s = u at *
  obtain ⟨hlevel, hissue, hmodes, hgates, hstarted⟩ := unitsStarted_facts u
  have hkeep := haccept.trans hstarted (n := [.reg, .dst, .seqs, .skn, .gate, .pend, .whl]) (by decide) (by decide)
  generalize unitsStarted u = w at *
  have hskn : SkeinsStay s u := .of_unchanged haccept (by decide)
  exact Readied.notice {
    phase := rfl
    step := rfl
    ready := rfl
    run := hrun
    issue := hissue
    level := hlevel
    modes := fun k => (hmodes k).trans (hskn.mode k)
    gates := fun v hv hr => hgates v hv (by rw [isRetired_congr (haccept .rwp (by decide))]; exact hr)
    tick := hkeep .tick (by decide)
    onRoot := hkeep .onRoot (by decide) }

theorem bootReady_places {s s1 : State} (hphase : s.ndy.phase = .placed) (hready : s.ready = false)
    (hs1 : s1 = endFilling (endTraining s)) (hplaced : (placedTables s1).all (placedOk s1) = true) :
    ∃ t, exec .bootReady s = .next t ∧ t.ndy.phase = .ready ∧ t.ndy.step = 7 ∧ t.ready = true ∧ t.run = BitVec.allOnes 4096
      ∧ t.getReg (rClk 0xA0) = 0x40404040 ∧ t.whl.level = 0 ∧ t.tick = s.tick ∧ t.onRoot = s.onRoot
      ∧ (∀ k, k < 32 → (t.skein k).mode = (s1.skein k).mode)
      ∧ (∀ v, v < 116 → isRetired s v = true → t.gate.getLsbD v = false) := by
  have hexec : exec .bootReady s = .next (bootReady s1) := by rw [hs1]; exact congrArg Host.Outcome.next (if_pos hphase)
  rw [bootReady, if_neg (by rw [hplaced]; decide)] at hexec
  have hend : Unchanged [.mem, .errs, .skn, .dst, .seqs] s s1 := by rw [hs1]; exact unchanged_of_mask (by simp [pieces])
  extract_lets tab at hexec
  clear_value tab
  have hpairs : Unchanged [.reg, .mem, .errs, .skn, .dst, .seqs, .qps, .qpResult] s1 (bootQueuePairs tab s1) :=
    unchanged_of_mask (by simp [pieces])
  have hskn := skeinsStay_bootQueuePairs tab s1
  generalize bootQueuePairs tab s1 = u at *
  have hports : Unchanged [.dst, .seqs, .prts] u ((List.range 20).foldl (fun s n => enablePort n s) u) :=
    unchanged_of_mask (by simp [pieces])
  generalize (List.range 20).foldl (fun s n => enablePort n s) u = w at *
  have hkeep := (hend.trans hpairs (n := [.reg, .mem, .errs, .skn, .dst, .seqs, .qps, .qpResult]) (by decide) (by decide)).trans hports
    (n := [.reg, .mem, .errs, .skn, .dst, .seqs, .qps, .qpResult, .prts]) (by decide) (by decide)
  have hr := readied_reportReady (Eq.trans (hkeep .ready (by decide)) hready)
  generalize reportReady w = t at *
  have htick : w.tick = s.tick := hkeep .tick (by decide)
  have hroot : w.onRoot = s.onRoot := hkeep .onRoot (by decide)
  have hrwp : w.rwp = s.rwp := hkeep .rwp (by decide)
  have hmodes : SkeinsStay u w := .of_unchanged hports (by decide)
  exact ⟨t, hexec, hr.phase, hr.step, hr.ready, hr.run, hr.issue, hr.level, hr.tick.trans htick, hr.onRoot.trans hroot,
    fun k _ => (hr.modes k).trans ((hmodes.mode k).trans (hskn.mode k)),
    fun v hv hret => hr.gates v hv (by rw [isRetired_congr hrwp]; exact hret)⟩

/-! ## BOOT_READY where a table is not placed -/

theorem pageRetired_congr {s t : State} (hskn : t.skn = s.skn) (hrwp : t.rwp = s.rwp) (k p : Nat) : pageRetired t k p = pageRetired s k p := by
  unfold pageRetired pageFenced pfence bfence State.skein
  rw [hskn, hrwp]

theorem sknOf_lt_of_populated {a : Nat} (h : populated a = true) : sknOf a < 32 := by
  simp only [populated, Bool.and_eq_true, decide_eq_true_eq] at h
  unfold sknOf
  omega

/-- Whether an address is populated, and in which skein and page, is a matter of the sector. -/
theorem fillsSector_of_address (s : State) (a : Nat) :
    fillsSector s (a / 32) = (!pageRetired s (sknOf a) (pageOf a) && populated a) := by
  have hp : populated (a / 32 * 32) = populated a := by
    unfold populated sknOff
    congr 1 <;> (apply decide_eq_decide.mpr; omega)
  have hk : sknOf (a / 32 * 32) = sknOf a := by unfold sknOf; omega
  have hg : pageOf (a / 32 * 32) = pageOf a := by
    unfold pageOf bits
    rw [Nat.shiftRight_eq_div_pow, Nat.shiftRight_eq_div_pow]
    congr 1
    omega
  unfold fillsSector
  rw [hp, hk, hg]

theorem mget_filter_of_not {α : Type} (m : AMap α) (f : Nat × α → Bool) (k : Nat) (d : α) (h : ∀ v, f (k, v) = false) :
    mget (m.filter f) k d = d := by
  refine mget_of_not_mem (fun hk => ?_) d
  obtain ⟨⟨j, v⟩, he, rfl⟩ := List.mem_map.mp hk
  simp [h] at he

theorem zeroFill_mem (s : State) : (zeroFill s).mem = s.mem.filter (fun c => !fillsSector s (c.1 / 32)) :=
  (unchanged_of_mask (mask_foldl (fun t e => by split <;> simp [pieces]) _ _) : Unchanged [.errs] _ (zeroFill s)) .mem (by decide)

/-- The fill leaves zeros where the skein has become READY and the page is not retired. -/
theorem endFilling_zeros {s : State} {a : Nat} (ha : populated a = true) (hm : (s.skein (sknOf a)).mode = .filling)
    (hr : pageRetired (endFilling s) (sknOf a) (pageOf a) = false) : mget (endFilling s).mem a 0 = 0 := by
  have hk := sknOf_lt_of_populated ha
  rw [endFilling_eq, if_pos (List.any_eq_true.mpr ⟨_, List.mem_range.mpr hk, by simp [hm]⟩)] at hr ⊢
  generalize (List.range 32).foldl (fun s k => fillSkein k s) s = u at *
  have hfill : Unchanged [.mem, .errs] u (zeroFill u) := unchanged_of_mask (by simp [pieces])
  rw [pageRetired_congr (hfill .skn (by decide)) (hfill .rwp (by decide))] at hr
  rw [zeroFill_mem]
  exact mget_filter_of_not _ _ _ _ fun v => by simp [fillsSector_of_address, hr, ha]

theorem bootReady_turnsAway {s s1 : State} (hphase : s.ndy.phase = .placed) (hs1 : s1 = endFilling (endTraining s))
    (hplaced : (placedTables s1).all (placedOk s1) = false) :
    ∃ t, exec .bootReady s = .next t ∧ t.ndy = { s1.ndy with phase := .failing, reason := 0xF8 } ∧ Unchanged [.ndy] s1 t
      ∧ (∀ k, k < 32 → (s.skein k).mode = .training →
        (t.skein k).mode = (if s.ndy.trainFail.any (fun f => f.1.toNat = k) then .failed else .ready))
      ∧ (∀ a, populated a = true → (s.skein (sknOf a)).mode = .training → (t.skein (sknOf a)).mode = .ready →
        pageRetired t (sknOf a) (pageOf a) = false → Intact s a → mget t.mem a 0 = 0) := by
  have hexec : exec .bootReady s = .next (bootReady s1) := by rw [hs1]; exact congrArg Host.Outcome.next (if_pos hphase)
  rw [bootReady, if_pos (by rw [hplaced]; decide)] at hexec
  have hfail := failBoot_unchanged 0xF8 s1
  have hmode (k : Nat) (hk : k < 32) (hm : (s.skein k).mode = .training) : ((failBoot 0xF8 s1).skein k).mode
      = filledMode (if s.ndy.trainFail.any (fun f => f.1.toNat = k) then .failed else .filling) := by
    rw [(SkeinsStay.of_unchanged hfail (by decide)).mode k, hs1, endFilling_mode _ hk, endTraining_mode s hk, hm, trainedMode_training]
  refine ⟨_, hexec, failBoot_ndy _ _, hfail, fun k hk hm => ?_, fun a ha hm hr hpage _ => ?_⟩
  · rw [hmode k hk hm]
    exact apply_ite filledMode ..
  · have hk := sknOf_lt_of_populated ha
    have hfilling : ((endTraining s).skein (sknOf a)).mode = .filling := by
      have h := hmode _ hk hm
      rw [hr] at h
      rw [endTraining_mode s hk, hm, trainedMode_training]
      split at h
      · cases h
      · next hany => exact if_neg hany
    rw [pageRetired_congr (hfail .skn (by decide)) (hfail .rwp (by decide)), hs1] at hpage
    rw [(hfail .mem (by decide) : (failBoot 0xF8 s1).mem = s1.mem), hs1]
    exact endFilling_zeros ha hfilling hpage

/-! ## BOOT_FAIL (R434) -/

theorem bootFail_shows {s : State} (h : s.ndy.phase = .failing) :
    ∃ t, exec .bootFail s = .next t ∧ t.ndy.phase = .failed ∧ t.ndy.step = 8 ∧ t.ndy.reason = s.ndy.reason ∧ t.gate = 0 ∧ t.pend = 0
      ∧ Unchanged [.ndy, .gate, .pend, .reg, .out] s t := by
  have hexec : exec .bootFail s = .next (sendNotice (setNdy (fun n => { n with step := 8, phase := .failed }) { s with gate := 0, pend := 0 })) :=
    congrArg Host.Outcome.next (if_pos h)
  have hshut : Unchanged [.ndy, .gate, .pend] s (setNdy (fun n => { n with step := 8, phase := .failed }) { s with gate := 0, pend := 0 }) :=
    fun p hp => by cases p <;> first | rfl | exact absurd (by decide) hp
  generalize hv : setNdy (fun n => { n with step := 8, phase := .failed }) { s with gate := 0, pend := 0 } = v at *
  obtain ⟨⟨x, n, hndy⟩, -, hstay⟩ := sendNotice_facts v
  have hvndy : v.ndy = { s.ndy with step := 8, phase := .failed } := by rw [← hv]; rfl
  have hgate : v.gate = 0 := by rw [← hv]; rfl
  have hpend : v.pend = 0 := by rw [← hv]; rfl
  exact ⟨_, hexec, by rw [hndy, hvndy], by rw [hndy, hvndy], by rw [hndy, hvndy], Eq.trans (hstay .gate (by decide)) hgate,
    Eq.trans (hstay .pend (by decide)) hpend, hshut.trans hstay (by decide) (by decide)⟩

/-! ## The obligation -/

/-- With the core reference, step 8 goes on to its windows. -/
theorem exec_coreReferencePresent {s : State} (h : s.ndy.phase = .waitRef) :
    ∃ t, exec .coreReferencePresent s = .next t ∧ t.ndy = { s.ndy with step := 4, phase := .windows, windows := 0, passes := 0 }
      ∧ t.pllLock = true ∧ t.fmRun = true ∧ t.fmDone = false ∧ Unchanged [.ndy, .pllLock, .fmRun, .fmDone] s t :=
  ⟨startClocks true s, congrArg Host.Outcome.next (if_pos h), rfl, rfl, rfl, rfl, (startClocks_facts true s).2.2.2⟩

/-- Settles O46, clause by clause of the boot's steps. -/
theorem bootProceeds : Obligations.BootProceeds := by
  intro s
  refine ⟨fun e s1 hpower hreset hheld hready hs1 => ?_, fun h => exec_coreReferencePresent h, fun count p s1 hphase hp hs1 => ?_,
    fun s1 hphase hready hs1 => ⟨bootReady_places hphase hready hs1, bootReady_turnsAway hphase hs1⟩, bootFail_shows⟩
  · have hb : BootBegins e s s1 := ⟨hpower, hreset, hheld, hs1⟩
    refine ⟨bootStart_noNvm_leaves hb, fun s2 s3 hnvm hscan hs2 hs3 => ?_⟩
    have hs : BootScans e s1 s2 := ⟨hnvm, hscan, hs2⟩
    refine ⟨bootStart_badHeaders_leaves hb hs, bootStart_noCandidate_leaves hb hs hs3, fun i r hgood hc =>
      ⟨bootStart_badSlot_leaves hb hs hs3 hgood hc, fun x hbad hx hr => ?_, fun hbad hx => ?_⟩⟩
    · rw [hr] at hc
      exact bootStart_turnedAway_leaves hb hs hs3 hready hgood hc hbad hx
    · rw [hs3] at hx
      exact bootStart_passes_leaves hb hs hready hgood hc hbad hx
  · have hw : WindowCounted count p s s1 := ⟨hphase, hp, hs1⟩
    exact ⟨window_counts hw, window_fails hw, window_passes hw⟩

end Sys2Proof.Machine
end

section
/-! SUPPORT. Rates of queue pairs (R353): what setting one queue pair leaves of the others, and the cut and the raise of its rate. -/

namespace Sys2Proof.Machine

theorem unchanged_rfl (l : List Piece) (s : State) : Unchanged l s s := fun p _ => by cases p <;> rfl

/-- Setting a queue pair sets that pair, and its device fields in memory follow. -/
theorem qp_setQp_eq (s : State) (n : Nat) (q : Qp) (m : Nat) : (s.setQp n q).qp m = if n = m then q else s.qp m := by
  by_cases hm : n = m
  · rw [if_pos hm, ← hm, qp_setQp]
  · have hput : ({ s with qps := mput s.qps n q {} } : State).qp m = s.qp m := mget_mput_ne _ hm _ _ _
    have hstore : Unchanged [.reg, .mem, .errs, .skn, .dst, .seqs] { s with qps := mput s.qps n q {} }
        (storeQp n (s.qp n) q { s with qps := mput s.qps n q {} }) := unchanged_of_mask (by simp [pieces])
    rw [if_neg hm, ← hput]
    unfold State.setQp
    dsimp only
    split
    · rfl
    · exact qp_of_qps (hstore .qps (by decide)) m

theorem setQp_unchanged (n : Nat) (q : Qp) (s : State) : Unchanged [.reg, .mem, .errs, .skn, .dst, .seqs, .qps] s (s.setQp n q) :=
  unchanged_of_mask (by simp [pieces])

theorem rxFrames_unchanged (p k : Nat) (s : State) : Unchanged [.reg] s (rxFrames p k s) := count_unchanged _ _ s

theorem exec_cnp {qpn : BitVec 16} {s : State} (hst : (s.qp qpn.toNat).state = 3) (hup : portUp s (s.qp qpn.toNat).port = true) {r : Nat}
    (hr : r = (match (s.qp qpn.toNat).ccOld with | some (w, r) => if w = s.wall then r else (s.qp qpn.toNat).rate | none => (s.qp qpn.toNat).rate)) :
    exec (.cnp qpn) s = .next ((rxFrames (s.qp qpn.toNat).port 1 s).setQp qpn.toNat { s.qp qpn.toNat with
      rate := max ((s.getReg (rPrt 0 0x102C)).toNat % 1024) (r - r * ((s.getReg (rPrt 0 0x1020)).toNat % 256) / 256)
      ccFrom := s.wall, ccOld := none, cnpRx := satAdd32 (s.qp qpn.toNat).cnpRx 1 }) := by
  subst hr
  exact congrArg Host.Outcome.next (if_pos (by simp [hst, hup]))

theorem exec_ccPeriod {qpn : BitVec 16} {s : State} (hst : (s.qp qpn.toNat).state = 3) (hready : s.ready = true)
    (hdue : (s.qp qpn.toNat).ccFrom + ccPeriod s ≤ s.wall) :
    exec (.ccPeriod qpn) s = .next (s.setQp qpn.toNat { s.qp qpn.toNat with
      rate := min (lineRate (s.qp qpn.toNat).port) ((s.qp qpn.toNat).rate + (s.getReg (rPrt 0 0x1024)).toNat % 1024)
      ccFrom := (s.qp qpn.toNat).ccFrom + ccPeriod s
      ccOld := some (s.wall, (s.qp qpn.toNat).rate) }) :=
  congrArg Host.Outcome.next (if_pos (by simp [hst, hready, hdue]))

/-- Settles O34: each command sets the one queue pair anew. -/
theorem ratesFollowCnp : Obligations.RatesFollowCnp := by
  intro qpn s hst
  refine ⟨fun r hup hr => ⟨_, exec_cnp hst hup hr, qp_setQp .., fun m hm => ?_,
      (rxFrames_unchanged _ 1 s).trans (setQp_unchanged _ _ _) (by decide) (by decide)⟩,
    fun hready hdue => ⟨_, exec_ccPeriod hst hready hdue, qp_setQp .., fun m hm => ?_, setQp_unchanged _ _ s⟩⟩
  · rw [qp_setQp_eq, if_neg (Ne.symm hm), qp_of_qps (rxFrames_unchanged _ 1 s .qps (by decide))]
  · rw [qp_setQp_eq, if_neg (Ne.symm hm)]

end Sys2Proof.Machine
end

section
/-! SUPPORT. Flow control (R349 to R351): the pauses of a port's two lossless classes, what sending on a port leaves of the ports, and
the PFC frames that a port sends. -/

namespace Sys2Proof.Machine

/-! ## Pauses of a port -/

theorem prt_of_prts {s t : State} (h : t.prts = s.prts) (q : Nat) : t.prt q = s.prt q := congrArg (fun m : AMap Prt => mget m q {}) h

theorem setPause_prt_ne {p q : Nat} (h : q ≠ p) (c : Bool) (since : Option Nat) (storm : Bool) (s : State) :
    (setPause p c since storm s).prt q = s.prt q := by
  rw [setPause, State.prt_setPrt, if_neg (Ne.symm h)]

@[simp] theorem pauseOf_setPause (p : Nat) (c d : Bool) (since : Option Nat) (storm : Bool) (s : State) :
    pauseOf (setPause p c since storm s) p d = if d = c then since else pauseOf s p d := by
  unfold pauseOf setPause
  rw [State.prt_setPrt, if_pos rfl]
  cases c <;> cases d <;> rfl

@[simp] theorem stormOf_setPause (p : Nat) (c d : Bool) (since : Option Nat) (storm : Bool) (s : State) :
    stormOf (setPause p c since storm s) p d = if d = c then storm else stormOf s p d := by
  unfold stormOf setPause
  rw [State.prt_setPrt, if_pos rfl]
  cases c <;> cases d <;> rfl

/-- The pauses of port `p`, their storms, its link and what it has sent of PFC are as before, and so is every other port. -/
structure HeldOnly (p : Nat) (s t : State) : Prop where
  port : t.prt p = { s.prt p with held := (t.prt p).held }
  others : ∀ q, q ≠ p → t.prt q = s.prt q

theorem HeldOnly.of_prts {p : Nat} {s t : State} (h : t.prts = s.prts) : HeldOnly p s t :=
  ⟨by rw [prt_of_prts h], fun q _ => prt_of_prts h q⟩

theorem HeldOnly.trans {p : Nat} {s t u : State} (h : HeldOnly p s t) (k : HeldOnly p t u) : HeldOnly p s u :=
  ⟨by rw [k.port, h.port], fun q hq => (k.others q hq).trans (h.others q hq)⟩

theorem HeldOnly.pauseOf {p : Nat} {s t : State} (h : HeldOnly p s t) (c : Bool) : pauseOf t p c = pauseOf s p c := by
  unfold Machine.pauseOf
  rw [h.port]

theorem HeldOnly.stormOf {p : Nat} {s t : State} (h : HeldOnly p s t) (c : Bool) : stormOf t p c = stormOf s p c := by
  unfold Machine.stormOf
  rw [h.port]

theorem heldOnly_sendHeld (p : Nat) (s : State) : HeldOnly p s (sendHeld p s) := by
  unfold sendHeld
  split
  · have hsent (l : List HeldFrame) (u : State) : Unchanged [.reg, .out] u
        (l.foldl (fun s h => txFrames p h.frames (s.emit (.roce h.hdr h.pkt))) u) := unchanged_of_mask (by simp [pieces])
    dsimp only
    refine HeldOnly.trans ⟨?_, fun q hq => ?_⟩ (.of_prts (hsent _ _ .prts (by decide)))
    · rw [State.prt_setPrt, if_pos rfl]
    · rw [State.prt_setPrt, if_neg (Ne.symm hq)]
  · exact .of_prts rfl

theorem heldOnly_pumpPort (p : Nat) (s : State) : HeldOnly p s (pumpPort p s) :=
  have hpump : Unchanged [.reg, .mem, .errs, .skn, .dst, .seqs, .qps, .out] (sendHeld p s) (pumpPort p s) :=
    unchanged_of_mask (by simp [pumpPort, pieces])
  (heldOnly_sendHeld p s).trans (.of_prts (hpump .prts (by decide)))

theorem heldOnly_plyResume (p : Nat) (s : State) : HeldOnly p s (plyResume s) :=
  have hply : Unchanged [.reg, .mem, .errs, .skn, .dst, .reports, .seqs, .trns, .qps, .ply, .out] s (plyResume s) :=
    unchanged_of_mask (by simp [pieces])
  .of_prts (hply .prts (by decide))

/-! ## PFC frames that arrive -/

theorem pfcFrame_unchanged (p : Nat) (s : State) : Unchanged [.reg] s (pfcFrame p s) :=
  unchanged_of_mask (by simp [pieces])

theorem setPause_unchanged (p : Nat) (c : Bool) (since : Option Nat) (storm : Bool) (s : State) :
    Unchanged [.prts] s (setPause p c since storm s) := unchanged_of_mask (by simp [pieces])

theorem pauseOf_of_prts {s t : State} (h : t.prts = s.prts) (p : Nat) (c : Bool) : pauseOf t p c = pauseOf s p c := by
  unfold pauseOf
  rw [prt_of_prts h]

/-- PFC_XOFF, on a port that passes frames: the class pauses from now, or goes on pausing. -/
theorem pfcXoff_pauses {n : BitVec 5} {s : State} (hn : n.toNat < 20) (hup : portUp s n.toNat = true) (cls : Bool) :
    ∃ t, exec (.pfcXoff n cls) s = .next t ∧ pauseOf t n.toNat cls = some ((pauseOf s n.toNat cls).getD s.wall)
      ∧ pauseOf t n.toNat (!cls) = pauseOf s n.toNat (!cls) ∧ (∀ q, q ≠ n.toNat → t.prt q = s.prt q)
      ∧ Unchanged [.prts, .reg] s t := by
  have hframe := pfcFrame_unchanged n.toNat s
  have hprts : (pfcFrame n.toNat s).prts = s.prts := hframe .prts (by decide)
  have hpause := pauseOf_of_prts hprts n.toNat
  refine ⟨_, (guarded_runs (i := .pfcXoff n cls) (decide_eq_true hn) _).trans (congrArg Host.Outcome.next (if_pos hup)), ?_⟩
  dsimp only
  cases hold : pauseOf s n.toNat cls with
  | some w => exact ⟨(hpause cls).trans hold, hpause _, fun q _ => prt_of_prts hprts q, hframe.mono (by decide)⟩
  | none =>
    refine ⟨by simp, by simp [hpause], fun q hq => ?_, hframe.trans (setPause_unchanged _ _ _ _ _) (by decide) (by decide)⟩
    rw [setPause_prt_ne hq, prt_of_prts hprts]

/-- PFC_XON, or a pause that lapses: the class resumes, and what waits is sent. -/
theorem pfcXon_resumes {n : BitVec 5} {s : State} (hn : n.toNat < 20) (hup : portUp s n.toNat = true) {cls lapse : Bool}
    (hlapse : lapse = true → (pauseOf s n.toNat cls).isSome = true) :
    ∃ t, exec (.pfcXon n cls lapse) s = .next t ∧ pauseOf t n.toNat cls = none ∧ stormOf t n.toNat cls = false
      ∧ pauseOf t n.toNat (!cls) = pauseOf s n.toNat (!cls) ∧ (∀ q, q ≠ n.toNat → t.prt q = s.prt q)
      ∧ Unchanged [.reg, .mem, .errs, .skn, .dst, .reports, .seqs, .trns, .qps, .prts, .ply, .out] s t := by
  have hruns : (portUp s n.toNat && (!lapse || (pauseOf s n.toNat cls).isSome)) = true := by
    cases lapse <;> simp_all
  refine ⟨_, (guarded_runs (i := .pfcXon n cls lapse) (decide_eq_true hn) _).trans (congrArg Host.Outcome.next (if_pos hruns)), ?_⟩
  generalize hu : (if lapse = true then s else pfcFrame n.toNat s) = u
  have hframe : Unchanged [.reg] s u := by
    subst hu
    cases lapse
    · exact pfcFrame_unchanged n.toNat s
    · exact unchanged_rfl _ s
  have hprts : u.prts = s.prts := hframe .prts (by decide)
  have hheld := (heldOnly_pumpPort n.toNat (setPause n.toNat cls none false u)).trans (heldOnly_plyResume ..)
  refine ⟨by simp [hheld.pauseOf], by simp [hheld.stormOf], by simp [hheld.pauseOf, pauseOf_of_prts hprts], fun q hq => ?_, ?_⟩
  · rw [hheld.others q hq, setPause_prt_ne hq, prt_of_prts hprts]
  · exact hframe.trans (m := [.reg, .mem, .errs, .skn, .dst, .reports, .seqs, .trns, .qps, .prts, .ply, .out])
      (unchanged_of_mask (by simp [pieces])) (by decide) (by decide)

/-! ## PFC_STORM -/

theorem faultParam_unchanged (source : BitVec 16) (kind : Byte) (x : Nat) (s : State) :
    Unchanged [.dst, .seqs] s (faultParam source kind x s) := sendMsg_unchanged _ none s

theorem b2n_eq (c : Bool) : b2n c = if c then 1 else 0 := rfl

/-- PFC_STORM, of a pause not reported yet that has lasted its time: it is reported, and the pause goes on. -/
theorem pfcStorm_reports {n : BitVec 5} {s : State} (hn : n.toNat < 20) {cls : Bool} {w : Nat} (hpause : pauseOf s n.toNat cls = some w)
    (hdue : w + (s.getReg (rPrt 0 0x1034)).toNat ≤ s.wall) (hnew : stormOf s n.toNat cls = false) :
    ∃ t, exec (.pfcStorm n cls) s = .next t ∧ stormOf t n.toNat cls = true ∧ pauseOf t n.toNat cls = some w
      ∧ Sent { source := srcPrt n.toNat, kind := kPFC_STORM, flags := flagParam
               addr := BitVec.ofNat 48 (n.toNat + 32 * (if cls then 1 else 0)) } none s t
      ∧ (∀ q, q ≠ n.toNat → t.prt q = s.prt q) ∧ Unchanged [.prts, .dst, .seqs] s t := by
  have hexec : exec (.pfcStorm n cls) s = .next (faultParam (srcPrt n.toNat) kPFC_STORM (n.toNat + 32 * b2n cls)
      (setPause n.toNat cls (some w) true s)) := by
    refine (guarded_runs (i := .pfcStorm n cls) (decide_eq_true hn) _).trans (congrArg Host.Outcome.next ?_)
    rw [hpause]
    exact if_pos (by simp [hdue, hnew])
  have hsent := faultParam_unchanged (srcPrt n.toNat) kPFC_STORM (n.toNat + 32 * b2n cls) (setPause n.toNat cls (some w) true s)
  have hheld : HeldOnly n.toNat _ _ := .of_prts (hsent .prts (by decide))
  refine ⟨_, hexec, by simp [hheld.stormOf], by simp [hheld.pauseOf], ?_, fun q hq => ?_,
    (setPause_unchanged _ _ _ _ s).trans hsent (by decide) (by decide)⟩
  · rw [b2n_eq]
    exact (sent_sendMsg _ (setPause n.toNat cls (some w) true s)).of_dst rfl rfl
  · rw [hheld.others q hq, setPause_prt_ne hq]

theorem pfcStorm_reported {n : BitVec 5} {s : State} (hn : n.toNat < 20) {cls : Bool} (hold : stormOf s n.toNat cls = true) :
    exec (.pfcStorm n cls) s = .next s := by
  refine (guarded_runs (i := .pfcStorm n cls) (decide_eq_true hn) _).trans (congrArg Host.Outcome.next ?_)
  split
  · exact if_neg (by simp [hold])
  · rfl

/-! ## PFC frames that a port sends -/

theorem sendPfc_unchanged (p : Nat) (c x : Bool) (s : State) : Unchanged [.out, .prts, .reg] s (sendPfc p c x s) :=
  unchanged_of_mask (by simp [pieces])

/-- A PFC frame leaves with the priority of its class, and the port knows what it has asked for. -/
theorem sendPfc_sends (p : Nat) (c x : Bool) (s : State) :
    (sendPfc p c x s).out = s.out ++ [.pfc (BitVec.ofNat 5 p) (pcpOf s p (if c then 1 else 0)) (if x then 0xFFFF else 0)]
      ∧ xoffOf (sendPfc p c x s) p c = x ∧ ∀ q, q ≠ p → (sendPfc p c x s).prt q = s.prt q := by
  unfold sendPfc
  extract_lets y at_ s1 pause
  let u := s1.emit (.pfc (BitVec.ofNat 5 p) (pcpOf s p (b2n c)) pause)
  have hcounted : Unchanged [.reg] u (txFrames p 1 (u.count (rPrt p 0x58) 1)) := unchanged_of_mask (by simp [pieces])
  refine ⟨hcounted .out (by decide), ?_, fun q hq => ?_⟩
  · have hprt : u.prt p = _ := (State.prt_setPrt s p p _).trans (if_pos rfl)
    unfold xoffOf
    rw [prt_of_prts (hcounted .prts (by decide)), hprt]
    cases c <;> rfl
  · rw [prt_of_prts (hcounted .prts (by decide))]
    exact (State.prt_setPrt s p q _).trans (if_neg (Ne.symm hq))

/-- PFC_XOFF_REPEAT while the occupancy stays high, half the pause time later: XOFF again. -/
theorem pfcXoffRepeat_repeats {n : BitVec 5} {s : State} (hn : n.toNat < 20) (hup : portUp s n.toNat = true) {cls : Bool} {occ : Nat}
    (hoff : xoffOf s n.toNat cls = true) (hhigh : occHigh s n.toNat occ = true) (hhalf : halfPause s n.toNat cls = true) :
    exec (.pfcXoffRepeat n cls occ) s = .next (sendPfc n.toNat cls true s) := by
  refine (guarded_runs (i := .pfcXoffRepeat n cls occ) (decide_eq_true hn) _).trans (congrArg Host.Outcome.next ?_)
  rw [if_pos (by simp [hup, hoff]), if_pos hhigh, if_pos hhalf]

/-- PFC_XOFF_REPEAT where the occupancy has fallen 64 KiB below the threshold: XON. -/
theorem pfcXoffRepeat_ends {n : BitVec 5} {s : State} (hn : n.toNat < 20) (hup : portUp s n.toNat = true) {cls : Bool} {occ : Nat}
    (hoff : xoffOf s n.toNat cls = true) (hlow : occHigh s n.toNat occ = false) (hfallen : occ + 65536 + headroomBytes s n.toNat < 2 ^ 20) :
    exec (.pfcXoffRepeat n cls occ) s = .next (sendPfc n.toNat cls false s) := by
  refine (guarded_runs (i := .pfcXoffRepeat n cls occ) (decide_eq_true hn) _).trans (congrArg Host.Outcome.next ?_)
  rw [if_pos (by simp [hup, hoff]), if_neg (by simp [hlow]), watchIngress, if_neg (by simp [hlow]), if_pos hfallen, if_pos hoff]

/-- Settles O33, row by row of the frames that arrive and that are due. -/
theorem pausesFollowPfc : Obligations.PausesFollowPfc := by
  intro n cls s hn
  refine ⟨fun hup => pfcXoff_pauses hn hup cls, fun lapse hup hlapse => pfcXon_resumes hn hup hlapse,
    fun w hpause hdue hnew => pfcStorm_reports hn hpause hdue hnew, pfcStorm_reported hn, fun occ hup hoff hhigh hhalf => ?_,
    fun occ hup hoff hlow hfallen => ?_⟩
  · obtain ⟨hout, hx, hothers⟩ := sendPfc_sends n.toNat cls true s
    exact ⟨_, pfcXoffRepeat_repeats hn hup hoff hhigh hhalf, hout, hx, hothers, sendPfc_unchanged _ _ _ s⟩
  · obtain ⟨hout, hx, hothers⟩ := sendPfc_sends n.toNat cls false s
    exact ⟨_, pfcXoffRepeat_ends hn hup hoff hlow hfallen, hout, hx, hothers, sendPfc_unchanged _ _ _ s⟩

end Sys2Proof.Machine
end

section
/-! SUPPORT. What an answer on a queue pair is made of (R348, R350), and what leaves it as it was. -/

namespace Sys2Proof.Machine

/-- Of two states: queue pair `n` differs in the PSN it expects next alone, the ports, what has left, and the registers of packet headers
and of the queue pair table are the same. -/
structure AnswersAlike (n : Nat) (s t : State) : Prop where
  frame : Unchanged [.reg, .mem, .errs, .skn, .dst, .seqs, .qps, .bobs] s t
  pair : t.qp n = { s.qp n with rqPsn := (t.qp n).rqPsn }
  regs : ∀ p, ∀ o ∈ [0x20, 0x1000, 0x1004], t.getReg (rPrt p o) = s.getReg (rPrt p o)

namespace AnswersAlike

variable {n : Nat} {s t u : State}

theorem trans (h : AnswersAlike n s t) (k : AnswersAlike n t u) : AnswersAlike n s u where
  frame := h.frame.trans k.frame (by decide) (by decide)
  pair := by
    have hk := k.pair
    rw [h.pair] at hk
    exact hk
  regs p o ho := (k.regs p o ho).trans (h.regs p o ho)

theorem of_serves (h : Serves n s t) (hout : t.out = s.out) : AnswersAlike n s t where
  frame p hp := by
    by_cases hpo : p = .out
    · exact hpo ▸ hout
    · exact h.frame p (by simp at hp ⊢; tauto)
  pair := h.pair
  regs p o ho := h.portReg p (by simp at ho; omega) (by simp at ho; omega)

theorem of_bobs (h : Unchanged [.bobs, .dst] s t) : AnswersAlike n s t where
  frame := h.mono (by decide)
  pair := by rw [qp_of_qps (h .qps (by decide))]
  regs p o _ := congrArg (fun m => mget m (rPrt p o) (regReset (rPrt p o))) (h .reg (by decide))

theorem of_highRegs (h : Unchanged [.reg, .mem, .errs, .skn, .dst, .seqs] s t) (hr : SameHighRegs s t) : AnswersAlike n s t where
  frame := h.mono (by decide)
  pair := by rw [qp_of_qps (h .qps (by decide))]
  regs p o _ := hr.getReg _ (rPrt_high p o)

theorem of_rxFrames (n p k : Nat) (s : State) : AnswersAlike n s (rxFrames p k s) where
  frame := (rxFrames_unchanged p k s).mono (by decide)
  pair := by rw [qp_of_qps (rxFrames_unchanged p k s .qps (by decide))]
  regs q o ho := getReg_count_ne (rPrt_ne (by simp at ho; omega) (by decide) (by simp at ho; omega) _ _) k s

theorem prt (h : AnswersAlike n s t) (p : Nat) : t.prt p = s.prt p := prt_of_prts (h.frame .prts (by decide)) p

theorem takesRequests (h : AnswersAlike n s t) : takesRequests t n = takesRequests s n := by
  have hready : t.ready = s.ready := h.frame .ready (by decide)
  have hgate : t.gate = s.gate := h.frame .gate (by decide)
  have hbusy : t.rstBusy = s.rstBusy := h.frame .rstBusy (by decide)
  unfold Machine.takesRequests portUp
  rw [h.pair, hready, hgate, hbusy]
  simp only [h.prt]

theorem roceHdr (h : AnswersAlike n s t) (cls : Nat) : roceHdr t n cls = roceHdr s n cls := by
  unfold Machine.roceHdr pcpOf
  dsimp only
  rw [h.regs _ _ (by decide), h.pair]

theorem outsideEntry (h : AnswersAlike n s t) (b : Nat) : OutsideEntry t n b ↔ OutsideEntry s n b := by
  unfold OutsideEntry qptBase base48
  rw [h.regs 0 _ (by decide), h.regs 0 _ (by decide)]

/-- An answer in the later state is the answer of the earlier one. -/
theorem replied {o : Pkt} (h : AnswersAlike n s t) (hr : Replied n o t u) : Replied n o s u := by
  have hport : (t.qp n).port = (s.qp n).port := by rw [h.pair]
  have hcls : (t.qp n).cls = (s.qp n).cls := by rw [h.pair]
  have hout : t.out = s.out := h.frame .out (by decide)
  have hclass (p c : Nat) : classPaused t p c = classPaused s p c := by unfold classPaused; rw [h.prt]
  obtain ⟨hsent, hheld⟩ := hr
  rw [hport, hcls, hclass, h.roceHdr, hout] at hsent hheld
  rw [h.prt] at hheld
  exact ⟨hsent, hheld⟩

end AnswersAlike

end Sys2Proof.Machine
end

section
/-! SUPPORT. Links (R364, R365, R377) and the frames that a port drops or refuses (R347, R348, R373, R375). -/

namespace Sys2Proof.Machine

/-! ## LINK_DOWN -/

/-- The port's link is down, counted and reported. -/
def linkReported (p : Nat) (s : State) : State :=
  faultParam (srcPrt p) kLINK_DOWN p ((s.setPrt p { s.prt p with link := false, lost := false }).count (rPrt p 0x68) 1)

/-- What a host port's queue pairs do about it follows the report and leaves every port as it is. -/
theorem linkLost_after (p : Nat) (s : State) : Unchanged [.reg, .mem, .errs, .skn, .dst, .reports, .seqs, .trns, .qps, .crds, .ply, .out]
    (linkReported p s) (linkLost p s) := by
  unfold linkLost
  dsimp only
  split
  · exact unchanged_rfl _ (linkReported p s)
  · exact unchanged_of_mask (by simp [linkReported, pieces])

/-- A fabric port's link takes no queue pair with it. -/
theorem linkLost_fabric {p : Nat} (h : p < 16) (s : State) : linkLost p s = linkReported p s := if_pos h

theorem linkReported_unchanged (p : Nat) (s : State) : Unchanged [.prts, .reg, .dst, .seqs] s (linkReported p s) :=
  unchanged_of_mask (by simp [linkReported, pieces])

theorem linkReported_prt (p q : Nat) (s : State) :
    (linkReported p s).prt q = if p = q then { s.prt p with link := false, lost := false } else s.prt q := by
  have hafter : Unchanged [.reg, .dst, .seqs] (s.setPrt p { s.prt p with link := false, lost := false }) (linkReported p s) :=
    unchanged_of_mask (by simp [linkReported, pieces])
  rw [prt_of_prts (hafter .prts (by decide)), State.prt_setPrt]

theorem linkReported_sent (p : Nat) (s : State) :
    Sent { source := srcPrt p, kind := kLINK_DOWN, flags := flagParam, addr := BitVec.ofNat 48 p } none s (linkReported p s) :=
  (sent_sendMsg _ _).of_dst (count_unchanged _ 1 (s.setPrt p _) .dst (by decide)).symm rfl

theorem exec_linkDown {n : BitVec 5} {ticks : Nat} {s : State} (hn : n.toNat < 20)
    (hlink : (s.prt n.toNat).link = true ∨ (s.prt n.toNat).lost = true) (hhold : (s.getReg (rPrt n.toNat 0x28)).toNat % 2 ^ 24 ≤ ticks) :
    exec (.linkDown n ticks) s = .next (linkLost n.toNat s) := by
  refine (guarded_runs (i := .linkDown n ticks) (decide_eq_true hn) _).trans (congrArg Host.Outcome.next (if_pos ?_))
  simpa [hn, hlink] using hhold

theorem linkDown_clears {n : BitVec 5} {ticks : Nat} {s : State} (hn : n.toNat < 20)
    (hlink : (s.prt n.toNat).link = true ∨ (s.prt n.toNat).lost = true) (hhold : (s.getReg (rPrt n.toNat 0x28)).toNat % 2 ^ 24 ≤ ticks) :
    ∃ t, exec (.linkDown n ticks) s = .next t ∧ (t.prt n.toNat).link = false ∧ (t.prt n.toNat).lost = false
      ∧ (∀ p, p ≠ n.toNat → (t.prt p).link = (s.prt p).link)
      ∧ Unchanged [.reg, .mem, .errs, .skn, .dst, .reports, .seqs, .trns, .qps, .prts, .crds, .ply, .out] s t
      ∧ (n.toNat < 16 → Unchanged [.prts, .reg, .dst, .seqs] s t
          ∧ Sent { source := srcPrt n.toNat, kind := kLINK_DOWN, flags := flagParam, addr := BitVec.ofNat 48 n.toNat } none s t) := by
  have hafter := linkLost_after n.toNat s
  have hprt (q : Nat) : (linkLost n.toNat s).prt q = _ := (prt_of_prts (hafter .prts (by decide)) q).trans (linkReported_prt n.toNat q s)
  refine ⟨_, exec_linkDown hn hlink hhold, by rw [hprt, if_pos rfl], by rw [hprt, if_pos rfl],
    fun p hp => by rw [hprt, if_neg (Ne.symm hp)], (linkReported_unchanged _ s).trans hafter (by decide) (by decide), fun hfabric => ?_⟩
  rw [linkLost_fabric hfabric]
  exact ⟨linkReported_unchanged _ s, linkReported_sent _ s⟩

/-! ## LINK_UP -/

theorem heldOnly_retransmitPort (p : Nat) (s : State) : HeldOnly p s (retransmitPort p s) :=
  have hpump : Unchanged [.reg, .mem, .errs, .skn, .dst, .seqs, .qps, .out] (sendHeld p s) (retransmitPort p s) :=
    unchanged_of_mask (by simp [retransmitPort, pieces])
  (heldOnly_sendHeld p s).trans (.of_prts (hpump .prts (by decide)))

theorem linkUp_sets {n : BitVec 5} {s : State} (hn : n.toNat < 20) (hen : (s.prt n.toNat).en = true) (hdown : (s.prt n.toNat).link = false)
    (hgate : s.gate.getLsbD (vecPrt n.toNat) = true) (hbusy : s.rstBusy.getLsbD (vecPrt n.toNat) = false) :
    ∃ t, exec (.linkUp n) s = .next t ∧ (t.prt n.toNat).link = true ∧ (t.prt n.toNat).lost = false
      ∧ (∀ p, p ≠ n.toNat → t.prt p = s.prt p)
      ∧ Unchanged [.reg, .mem, .errs, .skn, .dst, .reports, .seqs, .trns, .qps, .prts, .ply, .out] s t := by
  let u := s.setPrt n.toNat { s.prt n.toNat with link := true, lost := false }
  have hu (q : Nat) : u.prt q = _ := State.prt_setPrt s n.toNat q _
  have hheld : HeldOnly n.toNat u (plyResume (retransmitPort n.toNat u)) :=
    (heldOnly_retransmitPort ..).trans (heldOnly_plyResume ..)
  refine ⟨plyResume (retransmitPort n.toNat u), (guarded_runs (i := .linkUp n) (decide_eq_true hn) _).trans
    (congrArg Host.Outcome.next (if_pos ?_)), ?_, ?_, fun p hp => ?_, unchanged_of_mask (by simp [u, pieces])⟩
  · simp [hn, hen, hdown, hgate, hbusy]
  · rw [hheld.port, hu, if_pos rfl]
  · rw [hheld.port, hu, if_pos rfl]
  · rw [hheld.others p hp, hu, if_neg (Ne.symm hp)]

/-! ## Frames that are dropped, and requests that are refused -/

/-- What a port that passes frames makes of a frame that it does not take (R347, R348, R377). -/
def frameRefused (p : Nat) (s : State) : BadFrame → State
  | .frame => (rxFrames p 1 s).count (rPrt p 0x54) 1
  | .request qpn =>
    if (s.qp qpn.toNat).state = 3 && (s.qp qpn.toNat).port = p then
      answerOn qpn.toNat (s.qp qpn.toNat).cls 1 (.nakInvalid qpn) (rxFrames p 1 s)
    else rxFrames p 1 s
  | .icrc => (rxFrames p 1 s).count (rPrt p 0x50) 1
  | .fec k => s.count (rPrt p 0x4C) k

theorem exec_unsupportedFrame {n : BitVec 5} {s : State} (hn : n.toNat < 20) (hup : portUp s n.toNat = true) (f : BadFrame) :
    exec (.unsupportedFrame n f) s = .next (frameRefused n.toNat s f) := by
  refine (guarded_runs (i := .unsupportedFrame n f) (decide_eq_true (by omega)) _).trans (congrArg Host.Outcome.next ?_)
  dsimp only
  rw [if_pos hup]
  cases f <;> rfl

/-- What a register reads once events are counted in it. -/
theorem getReg_count_same {k : Nat} (h : 0 < k) (a : Nat) (s : State) : (s.count a k).getReg a = satAdd32 (mget s.reg a 0) k := by
  unfold State.count
  rw [if_neg (by omega), State.getReg_setReg, if_pos rfl]

/-- A frame is counted, and counted as dropped. -/
theorem getReg_dropped {o : Nat} (ho : o < 65536) (hne : o ≠ 0x44) (p : Nat) (s : State) :
    ((rxFrames p 1 s).count (rPrt p o) 1).getReg (rPrt p o) = satAdd32 (mget s.reg (rPrt p o) 0) 1 := by
  have hkept : mget (rxFrames p 1 s).reg (rPrt p o) 0 = mget s.reg (rPrt p o) 0 :=
    mget_mput_ne _ (rPrt_ne hne.symm (by decide) ho p p) _ _ _
  rw [getReg_count_same (by decide), hkept]

theorem dropped_unchanged (p o : Nat) (s : State) : Unchanged [.reg] s ((rxFrames p 1 s).count (rPrt p o) 1) :=
  unchanged_of_mask (by simp [pieces])

theorem unsupportedRequest_refused {n : BitVec 5} {s : State} (hn : n.toNat < 20) (hup : portUp s n.toNat = true) {qpn : BitVec 16}
    (hst : (s.qp qpn.toNat).state = 3) (hport : (s.qp qpn.toNat).port = n.toNat) :
    ∃ t, exec (.unsupportedFrame n (.request qpn)) s = .next t ∧ Replied qpn.toNat (.nakInvalid qpn) s t
      ∧ Unchanged [.reg, .prts, .out] s t := by
  have hqp := qp_of_qps (rxFrames_unchanged n.toNat 1 s .qps (by decide)) qpn.toNat
  have hexec : exec (.unsupportedFrame n (.request qpn)) s = .next (answer qpn.toNat (.nakInvalid qpn) (rxFrames n.toNat 1 s)) := by
    rw [exec_unsupportedFrame hn hup, frameRefused, answer, hqp]
    exact congrArg Host.Outcome.next (if_pos (by simp [hst, hport]))
  exact ⟨_, hexec, (AnswersAlike.of_rxFrames ..).replied (replied_answer ..),
    (rxFrames_unchanged n.toNat 1 s).trans (answer_unchanged _ _ _) (by decide) (by decide)⟩

/-- The management port counts what it drops, and codewords that its FEC cannot correct. -/
theorem unsupportedFrame_management {f : BadFrame} {s : State} (hup : portUp s 20 = false) (hpower : s.pkg.power = .on)
    (hreset : s.pkg.resetLow = false) (hphase : s.ndy.phase ≠ .held) :
    ∃ t, exec (.unsupportedFrame 20 f) s = .next t ∧ Unchanged [.reg] s t := by
  have hruns : (decide (((20 : BitVec 5).toNat = 20)) && decide (s.pkg.power = .on) && !s.pkg.resetLow && decide (s.ndy.phase ≠ .held)) = true := by
    simp [hpower, hreset, hphase]
  refine ⟨_, (guarded_runs (i := .unsupportedFrame 20 f) rfl _).trans (congrArg Host.Outcome.next
    ((if_neg (by rw [show (20 : BitVec 5).toNat = 20 from rfl, hup]; decide)).trans (if_pos hruns))), ?_⟩
  cases f with
  | fec k => exact count_unchanged _ k s
  | frame => exact rxFrames_unchanged 20 1 s
  | request qpn => exact rxFrames_unchanged 20 1 s
  | icrc => exact rxFrames_unchanged 20 1 s

/-- Settles O36, row by row. -/
theorem linksComeAndGo : Obligations.LinksComeAndGo := by
  refine ⟨fun n ticks s hn hlink hhold => linkDown_clears hn hlink hhold,
    fun n s hn hen hdown hgate hbusy => linkUp_sets hn hen hdown hgate hbusy,
    fun n s hn hup => ⟨⟨_, exec_unsupportedFrame hn hup .frame, getReg_dropped (by decide) (by decide) _ s, dropped_unchanged _ _ s⟩,
      ⟨_, exec_unsupportedFrame hn hup .icrc, getReg_dropped (by decide) (by decide) _ s, dropped_unchanged _ _ s⟩,
      fun k hk => ⟨_, exec_unsupportedFrame hn hup (.fec k), getReg_count_same hk _ s, count_unchanged _ k s⟩,
      fun qpn hst hport => unsupportedRequest_refused hn hup hst hport⟩,
    fun f s hup hpower hreset hphase => unsupportedFrame_management hup hpower hreset hphase⟩

end Sys2Proof.Machine
end

section
/-! SUPPORT. PRT[0]_QP_CMD (R355, R364): the write of the command register is the command that its word names. -/

namespace Sys2Proof.Machine

theorem qpCmdWord_toNat (qpn : BitVec 16) {op : Nat} (h : op < 8) : (qpCmdWord qpn op).toNat = qpn.toNat + op * 65536 := by
  have hq := qpn.isLt
  unfold qpCmdWord packWord
  simp only [List.foldl_cons, List.foldl_nil, BitVec.toNat_ofNat]
  omega

/-- The command word names its queue pair and its operation. -/
theorem qpCmdWord_fields (qpn : BitVec 16) {op : Nat} (h : op < 8) :
    (qpCmdWord qpn op).toNat % 65536 = qpn.toNat ∧ bits (qpCmdWord qpn op).toNat 16 3 = op := by
  have hq := qpn.isLt
  rw [qpCmdWord_toNat qpn h, bits, Nat.shiftRight_eq_div_pow]
  omega

/-- A write that reaches the command register is its command, whose messages carry the flags of the access. -/
theorem regWrite_qpCmd {o : Origin} {s : State} (hr : Reaches o (rPrt 0 0x1018) s) (v : Word) :
    regWrite o (rPrt 0 0x1018) v false s = tagNew (originFlags o) s (qpCommand v s) :=
  regWrite_stored hr rfl

section

variable {o : Origin} {s : State} (hr : Reaches o (rPrt 0 0x1018) s) (qpn : BitVec 16)

include hr

theorem exec_qpLoad : exec (.qpLoad o qpn) s = .next (tagNew (originFlags o) s (qpLoad qpn.toNat s)) := by
  obtain ⟨hn, hop⟩ := qpCmdWord_fields qpn (op := 1) (by decide)
  refine congrArg Host.Outcome.next ((regWrite_qpCmd hr _).trans ?_)
  simp only [qpCommand, hn, hop]

theorem exec_qpCmdError : exec (.qpCmdError o qpn) s = .next (tagNew (originFlags o) s (qpToError qpn.toNat s)) := by
  obtain ⟨hn, hop⟩ := qpCmdWord_fields qpn (op := 2) (by decide)
  refine congrArg Host.Outcome.next ((regWrite_qpCmd hr _).trans ?_)
  simp only [qpCommand, hn, hop]

theorem exec_qpReset : exec (.qpReset o qpn) s = .next (tagNew (originFlags o) s (qpToReset qpn.toNat s)) := by
  obtain ⟨hn, hop⟩ := qpCmdWord_fields qpn (op := 3) (by decide)
  refine congrArg Host.Outcome.next ((regWrite_qpCmd hr _).trans ?_)
  simp only [qpCommand, hn, hop]

theorem exec_qpRearm : exec (.qpRearm o qpn) s = .next (tagNew (originFlags o) s (qpRearm qpn.toNat s)) := by
  obtain ⟨hn, hop⟩ := qpCmdWord_fields qpn (op := 4) (by decide)
  refine congrArg Host.Outcome.next ((regWrite_qpCmd hr _).trans ?_)
  simp only [qpCommand, hn, hop]

end

/-! ## What a command leaves -/

/-- Queue pair `n` is now `q`, no other one changes, and the result register names it without the failure bit. -/
structure QpDone (n : BitVec 16) (q : Qp) (s t : State) : Prop where
  pair : t.qp n.toNat = q
  others : ∀ m, m ≠ n.toNat → t.qp m = s.qp m
  result : t.qpResult = BitVec.ofNat 32 n.toNat
  frame : Unchanged [.qps, .qpResult, .dst, .errs, .mem, .reg, .seqs, .skn] s t

theorem qpDone_setQp {n : BitVec 16} (q : Qp) {s u : State} (hothers : ∀ m, m ≠ n.toNat → u.qp m = s.qp m)
    (hframe : Unchanged [.qps, .dst, .errs, .mem, .reg, .seqs, .skn] s u) (f : Byte) :
    QpDone n q s (tagNew f s (qpOutcome n.toNat true (u.setQp n.toNat q))) where
  pair := qp_setQp u n.toNat q
  others m hm := ((qp_setQp_eq u n.toNat q m).trans (if_neg (Ne.symm hm))).trans (hothers m hm)
  result := by
    have hn : n.toNat % 65536 = n.toNat := Nat.mod_eq_of_lt n.isLt
    show BitVec.ofNat 32 (n.toNat % 65536 + 0) = _
    rw [hn, Nat.add_zero]
  frame := hframe.trans (m := [.qps, .qpResult, .dst, .errs, .mem, .reg, .seqs, .skn]) (unchanged_of_mask (by simp [pieces]))
    (by decide) (by decide)

/-- The entry of queue pair `n` has been read. -/
def qpEntryRead (n : Nat) (s : State) : State := touchReads (srcPrt 0) 0 (sectorsOf (qptBase s + n * 128) 128) s

/-- Queue pair `n` is loaded as its entry `q` says. -/
def qpLoaded (n : Nat) (q : Qp) (s : State) : State :=
  qpOutcome n true (((qpEntryRead n s).setQp n { q with state := 0 }).setQp n
    { q with state := 3, mig := 0, rate := lineRate q.port, ccFrom := (qpEntryRead n s).wall })

theorem qpLoaded_done (n : BitVec 16) (q : Qp) (o : Origin) (s : State) :
    QpDone n { q with state := 3, mig := 0, rate := lineRate q.port, ccFrom := (qpEntryRead n.toNat s).wall } s
      (tagNew (originFlags o) s (qpLoaded n.toNat q s)) := by
  have hread : Unchanged [.reg, .mem, .errs, .skn, .dst, .seqs] s (qpEntryRead n.toNat s) := touchReads_unchanged _ _ _ s
  exact qpDone_setQp _
    (fun m hm => by rw [qp_setQp_eq, if_neg (Ne.symm hm), qp_of_qps (hread .qps (by decide))])
    (hread.trans (setQp_unchanged _ _ _) (by decide) (by decide)) (originFlags o)

/-- LOAD of a queue pair in RESET with a sound entry. -/
theorem qpLoad_sound_entry {n : Nat} {s : State} (hn : 2 ≤ n) (hst : (s.qp n).state = 0)
    (hpoison : rdPoison s (qptBase s + n * 128) 128 = false) (hres : qpReservedOk (rdNat s (qptBase s + n * 128) 128) = true)
    (hfields : qpFieldsOk (parseQp (rdNat s (qptBase s + n * 128) 128)) = true) :
    qpLoad n s = qpLoaded n (parseQp (rdNat s (qptBase s + n * 128) 128)) s := by
  unfold qpLoad
  dsimp only
  rw [if_neg (by simp [hst]; omega), if_neg (by simp [hpoison, hres, hfields]), qpLoaded, qpEntryRead]

theorem endQp_idle {n : Nat} {s : State} (h : (s.qp n).sq = []) (st : Nat) :
    endQp n st s = s.setQp n { s.qp n with state := st, sq := [], tries := 0, rnrTries := 0, again := false } := by
  unfold endQp
  dsimp only
  rw [h]
  rfl

/-- A command that is not accepted names its queue pair with the failure bit and sends QP_CFG. -/
theorem qpRefused_leaves (o : Origin) (n : BitVec 16) (s : State) :
    (tagNew (originFlags o) s (qpOutcome n.toNat false s)).qpResult = BitVec.ofNat 32 (n.toNat + 65536)
      ∧ Sent { source := srcPrt 0, kind := kQP_CFG, flags := flagParam ||| originFlags o, addr := BitVec.ofNat 48 n.toNat } none s
          (tagNew (originFlags o) s (qpOutcome n.toNat false s))
      ∧ Unchanged [.qpResult, .dst, .seqs] s (tagNew (originFlags o) s (qpOutcome n.toNat false s)) := by
  have hn : n.toNat % 65536 = n.toNat := Nat.mod_eq_of_lt n.isLt
  let u : State := { s with qpResult := BitVec.ofNat 32 (n.toNat + 65536) }
  have hout : qpOutcome n.toNat false s = faultParam (srcPrt 0) kQP_CFG n.toNat u := by
    unfold qpOutcome
    rw [hn]
    rfl
  have hsent : Sent { source := srcPrt 0, kind := kQP_CFG, flags := flagParam, addr := BitVec.ofNat 48 n.toNat } none s
      (faultParam (srcPrt 0) kQP_CFG n.toNat u) := (sent_sendMsg _ u).of_dst rfl rfl
  refine ⟨?_, ?_, unchanged_of_mask (by simp [pieces])⟩
  · rw [hout]
    exact ((sendMsg_unchanged _ none u).trans (tagNew_unchanged _ s _) (n := [.dst, .seqs]) (by decide) (by decide)) .qpResult (by decide)
  · rw [hout]
    exact hsent.tagged (originFlags o)

/-- Settles O37: each row is its command, and a command sets its queue pair or is refused. -/
theorem queuePairCommands : Obligations.QueuePairCommands := by
  intro o qpn s henters hreach
  have hr : Reaches o (rPrt 0 0x1018) s := ⟨henters, hreach⟩
  refine ⟨fun hn hst hpoison hres hfields => ?_, fun hn hidle c n hc => ?_, fun hmig => ?_, fun c hc => ?_⟩
  · have hload := exec_qpLoad hr qpn
    rw [qpLoad_sound_entry hn hst hpoison hres hfields] at hload
    obtain ⟨hpair, hothers, hresult, hframe⟩ := qpLoaded_done qpn (parseQp (rdNat s (qptBase s + qpn.toNat * 128) 128)) o s
    refine ⟨_, hload, ?_, ?_, ?_, ?_, ?_, hothers, hresult, hframe⟩ <;> rw [hpair]
  · have hset := qpDone_setQp (n := qpn) (s := s) (u := s)
      { s.qp qpn.toNat with state := n, sq := [], tries := 0, rnrTries := 0, again := false }
      (fun m _ => rfl) (unchanged_rfl _ s) (originFlags o)
    rw [← endQp_idle hidle n] at hset
    obtain ⟨hpair, hothers, hresult, hframe⟩ := hset
    rcases hc with ⟨rfl, rfl⟩ | ⟨rfl, rfl⟩
    · have herror := exec_qpCmdError hr qpn
      rw [qpToError, if_neg (by omega)] at herror
      exact ⟨_, herror, hpair, hothers, hresult, hframe⟩
    · have hreset := exec_qpReset hr qpn
      rw [qpToReset, if_neg (by omega)] at hreset
      exact ⟨_, hreset, hpair, hothers, hresult, hframe⟩
  · have hrearm := exec_qpRearm hr qpn
    rw [qpRearm, if_pos (by simpa using hmig)] at hrearm
    obtain ⟨hpair, hothers, hresult, hframe⟩ := qpDone_setQp (n := qpn) (s := s) (u := s) { s.qp qpn.toNat with mig := 0 }
      (fun m _ => rfl) (unchanged_rfl _ s) (originFlags o)
    exact ⟨_, hrearm, hpair, hothers, hresult, hframe⟩
  · have hrefused : exec c s = .next (tagNew (originFlags o) s (qpOutcome qpn.toNat false s)) := by
      rcases hc with ⟨rfl, hbad⟩ | ⟨rfl, hbad⟩ | ⟨rfl, hbad⟩ | ⟨rfl, hbad⟩
      · rw [exec_qpLoad hr, qpLoad, if_pos (by simpa using hbad)]
      · rw [exec_qpCmdError hr, qpToError, if_pos hbad]
      · rw [exec_qpReset hr, qpToReset, if_pos hbad]
      · rw [exec_qpRearm hr, qpRearm, if_neg (by simpa using hbad)]
    exact ⟨_, hrefused, qpRefused_leaves o qpn s⟩

end Sys2Proof.Machine
end

section
/-! SUPPORT. Writes of a peer (R359 to R362): what bytes a write leaves in memory, and how a request that stored is answered. -/

namespace Sys2Proof.Machine

/-! ## Bytes written to skein memory -/

theorem runWrites_append (a : Nat) (l : List MByte) (x : MByte) : runWrites a (l ++ [x]) = runWrites a l ++ [(a + l.length, x)] := by
  unfold runWrites
  rw [List.length_append, List.length_singleton, List.range_succ, List.map_append, List.map_singleton]
  congr 1
  · refine List.map_congr_left fun j hj => ?_
    rw [List.getD_append _ _ _ _ (List.mem_range.mp hj)]
  · simp

/-- Each byte of a run is written once. -/
theorem lastByte_runWrites (a : Nat) (l : List MByte) (b : Nat) :
    lastByte (runWrites a l) b = if a ≤ b ∧ b < a + l.length then some (l.getD (b - a) {}) else none := by
  induction l using List.reverseRecOn with
  | nil => exact (if_neg (by simp)).symm
  | append_singleton l x ih =>
    rw [runWrites_append, lastByte_append, ih, List.length_append, List.length_singleton]
    by_cases hb : a + l.length = b
    · subst hb
      simp
    · dsimp only
      rw [if_neg hb]
      by_cases hin : a ≤ b ∧ b < a + l.length
      · rw [if_pos hin, if_pos (by omega), List.getD_append _ _ _ _ (by omega)]
      · rw [if_neg hin, if_neg (by omega)]

/-- Between `s` and `t` the bytes `d` have been written from address `a` on, each where its sector answers. -/
structure Wrote (a : Nat) (d : List Byte) (s t : State) : Prop where
  frame : Unchanged [.reg, .mem, .errs, .skn, .dst, .seqs] s t
  regs : SameHighRegs s t
  stuck : ∀ sec, t.stuckOf sec = s.stuckOf sec
  bytes : ∀ b, Intact s b → (rdByte t b).val
    = if a ≤ b ∧ b < a + d.length ∧ sectorRefusal s b = none then d.getD (b - a) 0 else (rdByte s b).val

theorem Wrote.alike {a : Nat} {d : List Byte} {s t : State} (h : Wrote a d s t) (n : Nat) : AnswersAlike n s t :=
  .of_highRegs h.frame h.regs

theorem wrote_nothing (a : Nat) (s : State) : Wrote a [] s s :=
  ⟨unchanged_rfl _ s, ⟨fun _ _ => rfl⟩, fun _ => rfl, fun b _ => (if_neg (by simp; omega)).symm⟩

theorem wrote_writeBytes (who : BitVec 16) (f : Byte) (a : Nat) (l : List MByte) (s : State) :
    Wrote a (l.map (·.val)) s (writeBytes who f (runWrites a l) s).1 := by
  obtain ⟨-, hval, -, hstuck⟩ := writeBytes_spec who f (runWrites a l) s
  refine ⟨writeBytes_unchanged who f _ s, sameHighRegs_writeBytes who f _ s, hstuck, fun b hb => (hval b hb).trans ?_⟩
  rw [lastByte_runWrites, List.length_map, show (0 : Byte) = ({} : MByte).val from rfl, List.getD_map]
  by_cases hin : a ≤ b ∧ b < a + l.length
  · rw [if_pos hin]
    simp [hin]
  · rw [if_neg hin, if_neg fun h => hin ⟨h.1, h.2.1⟩]

/-- The region table is read before the bytes are written. -/
theorem Wrote.of_touchRegion {a : Nat} {d : List Byte} {rkey : Word} {s t : State} (h : Wrote a d (touchRegion rkey s) t) : Wrote a d s t := by
  have hsame : SameData s (touchRegion rkey s) := sameData_touchReads ..
  refine ⟨(touchRegion_unchanged rkey s).trans h.frame (by decide) (by decide), (sameHighRegs_touchReads ..).trans h.regs,
    fun sec => (h.stuck sec).trans (hsame.stuck sec), fun b hb => ?_⟩
  rw [h.bytes b ((hsame.intact b).mpr hb), hsame.refusal, hsame.val b hb]

/-! ## Answers after a request has stored -/

/-- What a request that was taken in as `s` leaves when it has come to `t`, but for the end of the request: the packet `o` has answered it,
and outside the table entry of its pair every byte reads as it did in `u`. -/
structure RepliedFrom (n : Nat) (o : Pkt) (s u t : State) : Prop where
  replied : Replied n o s t
  bytes : ∀ b, OutsideEntry s n b → Intact u b → (rdByte t b).val = (rdByte u b).val
  frame : Unchanged [.reg, .mem, .errs, .skn, .dst, .seqs, .qps, .prts, .out, .struck] u t

theorem RepliedFrom.ends {n : Nat} {o : Pkt} {s u t : State} (h : RepliedFrom n o s u t) (s' : State) :
    RepliedFrom n o s u (endRequest n s' t) := by
  have hend := endRequest_unchanged n s' t
  have hsame := sameData_endRequest n s' t
  refine ⟨h.replied.of_end (hend .out (by decide)) (hend .prts (by decide)), fun b hb hint => ?_, h.frame.trans hend (by decide) (by decide)⟩
  have hstuck : t.stuckOf (b / 32) = u.stuckOf (b / 32) := congrArg (fun p : Pkg => mget p.stuck (b / 32) []) (h.frame .pkg (by decide))
  rw [hsame.val b (hstuck.trans hint), h.bytes b hb hint]

section

variable {n : Nat} {s u : State} (h : AnswersAlike n s u) (ht : takesRequests s n = true)

include h ht

theorem reply_repliedFrom (o : Pkt) : RepliedFrom n o s u (reply n o u) := by
  have hanswer := answer_unchanged n o u
  have hsame : SameData u (answer n o u) := .of_unchanged hanswer (by decide)
  rw [reply, if_pos (h.takesRequests.trans ht)]
  exact ⟨h.replied (replied_answer n o u), fun b _ hint => hsame.val b hint, hanswer.mono (by decide)⟩

theorem acceptReq_repliedFrom (k : Nat) (o : Pkt) : RepliedFrom n o s u (acceptReq n k o u) := by
  have htu : takesRequests u n = true := h.takesRequests.trans ht
  have hserves : Serves n u (expectPsn n k u) := serves_expectPsn (by rw [state_of_takesRequests htu]; decide) k
  have hpsn : Unchanged [.reg, .mem, .errs, .skn, .dst, .seqs, .qps] u (expectPsn n k u) := unchanged_of_mask (by simp [pieces])
  have hanswer := answer_unchanged n o (expectPsn n k u)
  have hsame : SameData (expectPsn n k u) (answer n o (expectPsn n k u)) := .of_unchanged hanswer (by decide)
  have halike : AnswersAlike n s (expectPsn n k u) := h.trans (.of_serves hserves (hpsn .out (by decide)))
  rw [acceptReq, if_pos htu]
  refine ⟨halike.replied (replied_answer n o _), fun b hb hint => ?_, hpsn.trans hanswer (by decide) (by decide)⟩
  rw [hsame.val b ((hserves.clean.stuck _).trans hint), hserves.bytes b ((h.outsideEntry b).mpr hb) hint]

end

/-- A request that is refused after its region entry has been read stores nothing. -/
theorem refused_after_region {n : Nat} {s : State} (ht : takesRequests s n = true) (rkey : Word) (o : Pkt) :
    Replied n o s (endRequest n s (reply n o (touchRegion rkey s))) ∧ (endRequest n s (reply n o (touchRegion rkey s))).qps = s.qps
      ∧ BytesKept [] s (endRequest n s (reply n o (touchRegion rkey s)))
      ∧ Unchanged [.dst, .errs, .mem, .out, .prts, .reg, .seqs, .skn, .struck] s (endRequest n s (reply n o (touchRegion rkey s))) := by
  have hregion := serves_touchRegion n rkey s
  have hread := touchRegion_unchanged rkey s
  have hreplied := (reply_repliedFrom (.of_serves hregion (hread .out (by decide))) ht o).ends s
  have hanswer : Unchanged [.reg, .prts, .out] (touchRegion rkey s) (reply n o (touchRegion rkey s)) := unchanged_of_mask (by simp [pieces])
  have hend := endRequest_unchanged n s (reply n o (touchRegion rkey s))
  have hrest := hread.trans (hanswer.trans hend (n := [.reg, .prts, .out, .struck, .dst]) (by decide) (by decide))
    (n := [.dst, .errs, .mem, .out, .prts, .reg, .seqs, .skn, .struck]) (by decide) (by decide)
  refine ⟨hreplied.replied, hrest .qps (by decide), ?_, hrest⟩
  exact ((sameData_touchReads ..).trans ((SameData.of_unchanged hanswer (by decide)).trans (sameData_endRequest ..))).kept

/-! ## RDMA_WRITE -/

theorem arrivedBytes_val (s : State) (a : Nat) (d : List Byte) : (arrivedBytes s a d).map (·.val) = d := by
  refine List.ext_getElem (by simp [arrivedBytes]) fun i hi _ => ?_
  simp only [arrivedBytes, List.map_map, List.getElem_map, List.getElem_range, Function.comp_apply]
  exact List.getD_eq_getElem _ _ (by simpa [arrivedBytes] using hi)

/-- Bytes that all lie in skein memory are written there; the write is whole where every sector answers. -/
theorem writeParts_skein {a : Nat} {l : List MByte} (h : a + l.length ≤ 0x010000000000) (o : Origin) (s : State) :
    Wrote a (l.map (·.val)) s (writeParts o a l (partsOf a l.length) s).2
      ∧ ((∀ b, a ≤ b → b < a + l.length → sectorRefusal s b = none) → (writeParts o a l (partsOf a l.length) s).1 = true) := by
  rw [partsOf_skein h]
  split
  next hl =>
    rw [List.length_eq_zero_iff.mp hl]
    exact ⟨wrote_nothing a s, fun _ => rfl⟩
  next =>
    have hpart : writePart o .skein a ((l.drop (a - a)).take l.length) s
        = ((writeBytes (entry o) (originFlags o) (runWrites a l) s).2.isEmpty, (writeBytes (entry o) (originFlags o) (runWrites a l) s).1) := by
      rw [Nat.sub_self, List.drop_zero, List.take_length]
      rfl
    have hparts : writeParts o a l [(.skein, a, l.length)] s
        = ((writeBytes (entry o) (originFlags o) (runWrites a l) s).2.isEmpty, (writeBytes (entry o) (originFlags o) (runWrites a l) s).1) := by
      rw [writeParts, hpart]
      cases (writeBytes (entry o) (originFlags o) (runWrites a l) s).2.isEmpty <;> rfl
    rw [hparts]
    refine ⟨wrote_writeBytes _ _ a l s, fun hall => ?_⟩
    rw [List.isEmpty_iff, writeBytes_whole]
    exact fun j hj => hall _ (by omega) (by omega)

/-- A write that its region grants, of bytes in skein memory. -/
theorem performWrite_granted {n : Nat} {rkey : Word} {a : Nat} {d : List Byte} {s : State}
    (hok : regionOk s (s.qp n) rkey a d.length 0 = true) (hend : a + d.length ≤ 0x010000000000) :
    Wrote a d s (performWrite n rkey a d s).2
      ∧ ((∀ b, a ≤ b → b < a + d.length → sectorRefusal s b = none) → (performWrite n rkey a d s).1 = true) := by
  let l := arrivedBytes (touchRegion rkey s) a d
  have hlen : l.length = d.length := by simp [l, arrivedBytes]
  have hval : l.map (·.val) = d := arrivedBytes_val ..
  have hsame : SameData s (touchRegion rkey s) := sameData_touchReads ..
  obtain ⟨hwrote, hwhole⟩ := writeParts_skein (a := a) (l := l) (by rw [hlen]; exact hend) (qpOrigin s n) (touchRegion rkey s)
  rw [hval] at hwrote
  rw [hlen] at hwrote hwhole
  have hperform : performWrite n rkey a d s = writeParts (qpOrigin s n) a l (partsOf a d.length) (touchRegion rkey s) := if_pos hok
  rw [hperform]
  exact ⟨hwrote.of_touchRegion, fun hall => hwhole fun b hlo hhi => (hsame.refusal b).trans (hall b hlo hhi)⟩

theorem performWrite_refused {n : Nat} {rkey : Word} {a : Nat} {d : List Byte} {s : State}
    (hok : regionOk s (s.qp n) rkey a d.length 0 = false) : performWrite n rkey a d s = (false, touchRegion rkey s) :=
  if_neg (by simp [hok])

section

variable {qpn : BitVec 16} {a : Addr} {data : List Byte} {ing : Ingress} {hits : List Hit} {s s1 : State}
  (hin : takeIn qpn.toNat (packetsOf (s.qp qpn.toNat) data.length) ing hits s = some s1)

include hin

theorem exec_rdmaWrite (rkey : Word) :
    exec (.rdmaWrite qpn rkey a data ing hits) s = .next (endRequest qpn.toNat s1
      (answerWrite qpn.toNat (acceptReq qpn.toNat (packetsOf (s.qp qpn.toNat) data.length) (.rdmaAck qpn))
        (performWrite qpn.toNat rkey a.toNat data s1))) := by
  show execRdmaWrite qpn rkey a data ing hits s = _
  unfold execRdmaWrite
  dsimp only
  rw [hin]

theorem exec_rdmaWriteImm (rkey imm : Word) :
    exec (.rdmaWriteImm qpn rkey a data imm ing hits) s = .next (endRequest qpn.toNat s1
      (answerWrite qpn.toNat (fun t => if takesRequests t qpn.toNat then
          presentImm qpn.toNat (packetsOf (s.qp qpn.toNat) data.length) imm t else t)
        (performWrite qpn.toNat rkey a.toNat data s1))) := by
  show execRdmaWriteImm qpn rkey a data imm ing hits s = _
  unfold execRdmaWriteImm
  dsimp only
  rw [hin]

end

/-- The packet number as it stands in an answer's constructor. -/
theorem ofNat_toNat_qpn (qpn : BitVec 16) : BitVec.ofNat 16 qpn.toNat = qpn := by
  rw [BitVec.ofNat_toNat, BitVec.setWidth_eq]

/-! ## WRITE with immediate (R362) -/

/-- A host's write of DB_PROD that does not overrun posts its value. -/
theorem doorbellWrite_posts {p : BitVec 5} {b : Nat} {v : Word} {s : State} (hctl : ctlRuns s = true) (hen : (s.bob b).state = .enabled)
    (hfit : (v - (s.bob b).fetched).toNat ≤ 2 ^ (s.bob b).entry.log2) :
    doorbellWrite (.host p) (dbAddr b 0) v s
      = (true, tagNew (originFlags (.host p)) s (s.setBob b { s.bob b with prod := v })) := by
  have halign : dbAddr b 0 % 4 = 0 := by unfold dbAddr dbBase; omega
  have hreach : doorbellRefusal (.host p) (dbAddr b 0) s = none := by
    unfold doorbellRefusal
    rw [if_neg (by simp), if_neg (by simp [halign]), if_neg (by simp [hctl])]
  obtain ⟨hslot, hfield⟩ := dbAddr_slot (b := b) (off := 0) (by decide)
  have hwrite : writeDoorbell b 0 v s = .done (s.setBob b { s.bob b with prod := v }) := writeProd_posts hen hfit
  unfold doorbellWrite
  rw [hreach]
  dsimp only
  rw [hslot, hfield, hwrite]
  rfl

/-- What a write with immediate asks of its queue pair and of the bobbin that the pair is bound to. -/
structure Presents (n : Nat) (imm : Word) (s : State) : Prop where
  bound : (s.qp n).bobEn = true
  plain : (s.qp n).dex = false
  host : 16 ≤ (s.qp n).port
  runs : ctlRuns s = true
  enabled : (s.bob (s.qp n).bobbin.toNat).state = .enabled
  fits : (imm - (s.bob (s.qp n).bobbin.toNat).fetched).toNat ≤ 2 ^ (s.bob (s.qp n).bobbin.toNat).entry.log2

theorem Presents.of_wrote {a : Nat} {d : List Byte} {n : Nat} {imm : Word} {s t : State} (h : Presents n imm s) (hw : Wrote a d s t) :
    Presents n imm t := by
  have hqp := qp_of_qps (hw.frame .qps (by decide)) n
  have hbob := bob_of_bobs (hw.frame .bobs (by decide))
  have hready : t.ready = s.ready := hw.frame .ready (by decide)
  have hgate : t.gate = s.gate := hw.frame .gate (by decide)
  have hctl : ctlRuns t = ctlRuns s := by unfold ctlRuns; rw [hready, hgate]
  obtain ⟨hbound, hplain, hhost, hruns, henabled, hfits⟩ := h
  constructor <;> simp only [hqp, hbob, hctl] <;> assumption

/-- The bobbin of queue pair `n` with the immediate as PROD. -/
def immPosted (n : Nat) (imm : Word) (s : State) : State :=
  tagNew (originFlags (qpOrigin s n)) s
    (s.setBob (s.qp n).bobbin.toNat { s.bob (s.qp n).bobbin.toNat with prod := imm })

theorem immPosted_unchanged (n : Nat) (imm : Word) (s : State) : Unchanged [.bobs, .dst] s (immPosted n imm s) :=
  unchanged_of_mask (by simp [immPosted, pieces])

theorem immPosted_bob (n : Nat) (imm : Word) (s : State) (b : Nat) :
    (immPosted n imm s).bob b = if (s.qp n).bobbin.toNat = b then { s.bob (s.qp n).bobbin.toNat with prod := imm } else s.bob b := by
  rw [immPosted, tagNew_bob, State.bob_setBob]

theorem presentImm_posts {n : Nat} {imm : Word} {s : State} (h : Presents n imm s) (k : Nat) :
    presentImm n k imm s = acceptReq n k (.rdmaAck (BitVec.ofNat 16 n)) (immPosted n imm s) := by
  obtain ⟨hbound, hplain, hhost, hruns, henabled, hfits⟩ := h
  have hpost := doorbellWrite_posts (p := BitVec.ofNat 5 (s.qp n).port) hruns henabled hfits
  unfold presentImm
  dsimp only
  rw [if_pos (by simp [hbound, hplain, hhost]), qpOrigin, hpost]
  rfl

/-! ## The obligation -/

section

variable {qpn : BitVec 16} {rkey : Word} {a : Addr} {data : List Byte} {ing : Ingress} {hits : List Hit} {s s1 : State}
  (hin : takeIn qpn.toNat (packetsOf (s.qp qpn.toNat) data.length) ing hits s = some s1) (ht : takesRequests s1 qpn.toNat = true)

include hin ht

theorem rdmaWrite_lands (hok : regionOk s1 (s1.qp qpn.toNat) rkey a.toNat data.length 0 = true)
    (hend : a.toNat + data.length ≤ 0x010000000000) :
    ∃ t, exec (.rdmaWrite qpn rkey a data ing hits) s = .next t
      ∧ (∀ b, OutsideEntry s1 qpn.toNat b → Intact s1 b →
          (rdByte t b).val = if a.toNat ≤ b ∧ b < a.toNat + data.length ∧ sectorRefusal s1 b = none then data.getD (b - a.toNat) 0
            else (rdByte s1 b).val)
      ∧ ((∀ b, a.toNat ≤ b → b < a.toNat + data.length → sectorRefusal s1 b = none) → Replied qpn.toNat (.rdmaAck qpn) s1 t)
      ∧ Unchanged [.dst, .errs, .mem, .out, .prts, .qps, .reg, .seqs, .skn, .struck] s t := by
  obtain ⟨hwrote, hwhole⟩ := performWrite_granted hok hend
  have hexec := exec_rdmaWrite (a := a) hin rkey
  generalize hr : performWrite qpn.toNat rkey a.toNat data s1 = r at hwrote hwhole hexec
  obtain ⟨whole, u⟩ := r
  have halike := hwrote.alike qpn.toNat
  obtain ⟨o, hanswer, ho⟩ : ∃ o, RepliedFrom qpn.toNat o s1 u (answerWrite qpn.toNat
      (acceptReq qpn.toNat (packetsOf (s.qp qpn.toNat) data.length) (.rdmaAck qpn)) (whole, u)) ∧ (whole = true → o = .rdmaAck qpn) := by
    cases whole
    · exact ⟨_, reply_repliedFrom halike ht _, Bool.noConfusion⟩
    · exact ⟨_, acceptReq_repliedFrom halike ht _ _, fun _ => rfl⟩
  have hends := hanswer.ends s1
  refine ⟨_, hexec, fun b hb hint => ?_, fun hall => ho (hwhole hall) ▸ hends.replied,
    (takeIn_unchanged hin).trans (hwrote.frame.trans hends.frame (by decide) (by decide)) (by decide)
      (show [.reg, .mem, .errs, .skn, .dst, .seqs, .qps, .prts, .out, .struck] ⊆ _ by decide)⟩
  rw [hends.bytes b hb ((hwrote.stuck _).trans hint)]
  exact hwrote.bytes b hint

theorem rdmaWriteImm_presents (hok : regionOk s1 (s1.qp qpn.toNat) rkey a.toNat data.length 0 = true)
    (hend : a.toNat + data.length ≤ 0x010000000000)
    (hall : ∀ b, a.toNat ≤ b → b < a.toNat + data.length → sectorRefusal s1 b = none) {imm : Word} (himm : Presents qpn.toNat imm s1) :
    ∃ t, exec (.rdmaWriteImm qpn rkey a data imm ing hits) s = .next t ∧ Replied qpn.toNat (.rdmaAck qpn) s1 t
      ∧ t.bob (s1.qp qpn.toNat).bobbin.toNat = { s1.bob (s1.qp qpn.toNat).bobbin.toNat with prod := imm }
      ∧ (∀ b, b ≠ (s1.qp qpn.toNat).bobbin.toNat → t.bob b = s.bob b)
      ∧ (∀ b, OutsideEntry s1 qpn.toNat b → Intact s1 b →
          (rdByte t b).val = if a.toNat ≤ b ∧ b < a.toNat + data.length then data.getD (b - a.toNat) 0 else (rdByte s1 b).val)
      ∧ Unchanged [.bobs, .dst, .errs, .mem, .out, .prts, .qps, .reg, .seqs, .skn, .struck] s t := by
  obtain ⟨hwrote, hwhole⟩ := performWrite_granted hok hend
  have hexec := exec_rdmaWriteImm (a := a) hin rkey imm
  generalize hr : performWrite qpn.toNat rkey a.toNat data s1 = r at hwrote hwhole hexec
  obtain ⟨whole, u⟩ := r
  obtain rfl : whole = true := hwhole hall
  have halike := hwrote.alike qpn.toNat
  have hdone : answerWrite qpn.toNat (fun t => if takesRequests t qpn.toNat then
        presentImm qpn.toNat (packetsOf (s.qp qpn.toNat) data.length) imm t else t) (true, u)
      = acceptReq qpn.toNat (packetsOf (s.qp qpn.toNat) data.length) (.rdmaAck qpn) (immPosted qpn.toNat imm u) :=
    (if_pos (halike.takesRequests.trans ht)).trans (by rw [presentImm_posts (himm.of_wrote hwrote), ofNat_toNat_qpn])
  rw [hdone] at hexec
  have hpost := immPosted_unchanged qpn.toNat imm u
  have hends := (acceptReq_repliedFrom (halike.trans (.of_bobs hpost)) ht (packetsOf (s.qp qpn.toNat) data.length) (.rdmaAck qpn)).ends s1
  have hsame : SameData u (immPosted qpn.toNat imm u) := .of_unchanged hpost (by decide)
  have hbob (b : Nat) := (bob_of_bobs (hends.frame .bobs (by decide)) b).trans (immPosted_bob qpn.toNat imm u b)
  have hqp := qp_of_qps (hwrote.frame .qps (by decide)) qpn.toNat
  have hubob := bob_of_bobs (hwrote.frame .bobs (by decide))
  simp only [hqp, hubob] at hbob
  refine ⟨_, hexec, hends.replied, (hbob _).trans (if_pos rfl), fun b hb => ?_, fun b hb hint => ?_, ?_⟩
  · rw [hbob, if_neg (Ne.symm hb), bob_of_bobs (takeIn_unchanged hin .bobs (by decide))]
  · have hu : Intact u b := (hwrote.stuck _).trans hint
    rw [hends.bytes b hb ((hsame.intact b).mpr hu), hsame.val b hu, hwrote.bytes b hint]
    by_cases hb : a.toNat ≤ b ∧ b < a.toNat + data.length
    · rw [if_pos hb, if_pos ⟨hb.1, hb.2, hall b hb.1 hb.2⟩]
    · rw [if_neg hb, if_neg fun h => hb ⟨h.1, h.2.1⟩]
  · exact (takeIn_unchanged hin).trans ((hwrote.frame.trans hpost (n := [.reg, .mem, .errs, .skn, .dst, .seqs, .bobs]) (by decide)
      (by decide)).trans hends.frame (by decide) (by decide)) (by decide)
      (show [.reg, .mem, .errs, .skn, .dst, .seqs, .bobs, .qps, .prts, .out, .struck] ⊆ _ by decide)

/-- A write of either kind that no region grants. -/
theorem rdmaWrite_refused (hok : regionOk s1 (s1.qp qpn.toNat) rkey a.toNat data.length 0 = false) {imm : Word} {c : Instr}
    (hc : c = .rdmaWrite qpn rkey a data ing hits ∨ c = .rdmaWriteImm qpn rkey a data imm ing hits) :
    ∃ t, exec c s = .next t ∧ Replied qpn.toNat (.nakAccess qpn) s1 t ∧ t.qps = s1.qps ∧ BytesKept [] s1 t
      ∧ Unchanged [.dst, .errs, .mem, .out, .prts, .qps, .reg, .seqs, .skn, .struck] s t := by
  have hexec : exec c s = .next (endRequest qpn.toNat s1 (reply qpn.toNat (.nakAccess qpn) (touchRegion rkey s1))) := by
    rcases hc with rfl | rfl
    · rw [exec_rdmaWrite hin, performWrite_refused hok, answerWrite, if_neg Bool.false_ne_true, ofNat_toNat_qpn]
    · rw [exec_rdmaWriteImm hin, performWrite_refused hok, answerWrite, if_neg Bool.false_ne_true, ofNat_toNat_qpn]
  obtain ⟨hreplied, hqps, hbytes, hframe⟩ := refused_after_region ht rkey (.nakAccess qpn)
  exact ⟨_, hexec, hreplied, hqps, hbytes, (takeIn_unchanged hin).trans hframe (by decide) (by decide)⟩

end

/-- Settles O30: a write that its region grants stores its bytes and is answered; the immediate is posted between the two. -/
theorem remoteWritesLand : Obligations.RemoteWritesLand := by
  intro qpn rkey a data ing hits s s1 hin ht
  exact ⟨fun hok hend => rdmaWrite_lands hin ht hok hend,
    fun imm hok hend hall hbound hplain hhost hruns henabled hfits =>
      rdmaWriteImm_presents hin ht hok hend hall ⟨hbound, hplain, hhost, hruns, henabled, hfits⟩,
    fun hok imm c hc => rdmaWrite_refused hin ht hok hc⟩

end Sys2Proof.Machine
end

section
/-! SUPPORT. FETCH_AND_ADD (R361). -/

namespace Sys2Proof.Machine

/-- Bytes without poison, to be stored. -/
def cleanBytes (l : List Byte) : List MByte := l.map (fun v => { val := v })

theorem cleanBytes_val (l : List Byte) : (cleanBytes l).map (·.val) = l :=
  (List.map_map ..).trans (List.map_id l)

theorem runWrites_cleanBytes (a : Nat) (l : List Byte) :
    runWrites a (cleanBytes l) = (List.range l.length).map (fun i => (a + i, { val := l.getD i 0 })) := by
  unfold runWrites cleanBytes
  rw [List.length_map]
  refine List.map_congr_left fun j _ => ?_
  rw [show ({} : MByte) = { val := (0 : Byte) } from rfl, List.getD_map]

theorem sectorClean_of_classify {s : State} {sec : Nat} (hp : classify (s.errOf sec) ≠ .poison) (hb : classify (s.errOf sec) ≠ .bad) :
    sectorClean s sec = true := by
  unfold sectorClean patternClean
  split
  · rfl
  · rfl
  next h => exact absurd h hp
  next h => exact absurd h hb

/-- A word whose sector answers and is clean is added to. -/
theorem atomicAdd_adds {a : Nat} {s : State} (hr : sectorRefusal s a = none) (hc : sectorClean s (a / 32) = true) (f : Byte) (x : BitVec 64) :
    atomicAdd f a x s = (some (BitVec.ofNat 64 (rdNat s a 8)),
      (writeBytes (srcPrt 0) f (runWrites a (cleanBytes (leBytes 8 (BitVec.ofNat 64 (rdNat s a 8) + x).toNat))) s).1) := by
  unfold sectorClean patternClean at hc
  rw [runWrites_cleanBytes, length_leBytes]
  unfold atomicAdd
  rw [hr]
  dsimp only
  cases hcls : classify (s.errOf (a / 32)) with
  | clean => rfl
  | corrected p d => rfl
  | poison => rw [hcls] at hc; cases hc
  | bad => rw [hcls] at hc; cases hc

/-- The eight bytes of an aligned word lie in one sector. -/
theorem aligned_sector {a b : Nat} (ha : a % 8 = 0) (h : a ≤ b ∧ b < a + 8) : b / 32 = a / 32 := by omega

theorem aligned_refusal {s : State} {a b : Nat} (ha : a % 8 = 0) (h : a ≤ b ∧ b < a + 8) : sectorRefusal s b = sectorRefusal s a := by
  rw [← sectorRefusal_sector s b, ← sectorRefusal_sector s a, aligned_sector ha h]

theorem SameData.rdNat_aligned {s t : State} (h : SameData s t) {a : Nat} (ha : a % 8 = 0) (hint : Intact s a) : rdNat t a 8 = rdNat s a 8 := by
  have hbyte (i : Nat) (hi : i < 8) : (rdByte t (a + i)).val = (rdByte s (a + i)).val := by
    refine h.val _ ?_
    unfold Intact
    rwa [aligned_sector ha ⟨by omega, by omega⟩]
  unfold rdNat rdVals rdBytes
  rw [List.map_map, List.map_map]
  exact congrArg leNat (List.map_congr_left fun i hi => hbyte i (List.mem_range.mp hi))

/-- What answers an atomic: the old value, or NAK Remote Access Error where the word may not be used. -/
def answerAtomic (qpn : BitVec 16) (r : Option (BitVec 64) × State) : State :=
  match r with
  | (some old, t) => acceptReq qpn.toNat 1 (.atomicAck qpn old) t
  | (none, t) => reply qpn.toNat (.nakAccess qpn) t

section

variable {qpn : BitVec 16} {rkey : Word} {a : Addr} {operand : BitVec 64} {ing : Ingress} {hits : List Hit} {s s1 : State}
  (hin : takeIn qpn.toNat 1 ing hits s = some s1) (ht : takesRequests s1 qpn.toNat = true)

include hin

theorem exec_fetchAndAdd : exec (.fetchAndAdd qpn rkey a operand ing hits) s = .next (endRequest qpn.toNat s1
    (if !regionOk s1 (s1.qp qpn.toNat) rkey a.toNat 8 2 then reply qpn.toNat (.nakAccess qpn) (touchRegion rkey s1)
      else if !populated a.toNat || a.toNat % 8 ≠ 0 then reply qpn.toNat (.nakInvalid qpn) (touchRegion rkey s1)
      else answerAtomic qpn (atomicAdd (originFlags (qpOrigin (touchRegion rkey s1) qpn.toNat)) a.toNat operand (touchRegion rkey s1)))) := by
  show execFetchAndAdd qpn rkey a operand ing s hits = _
  unfold execFetchAndAdd
  dsimp only
  rw [hin]
  rfl

include ht

theorem fetchAndAdd_adds (hok : regionOk s1 (s1.qp qpn.toNat) rkey a.toNat 8 2 = true) (hpop : populated a.toNat = true)
    (halign : a.toNat % 8 = 0) (hr : sectorRefusal s1 a.toNat = none) (hint : Intact s1 a.toNat)
    (hclean : sectorClean s1 (a.toNat / 32) = true) :
    ∃ t, exec (.fetchAndAdd qpn rkey a operand ing hits) s = .next t
      ∧ Replied qpn.toNat (.atomicAck qpn (BitVec.ofNat 64 (rdNat s1 a.toNat 8))) s1 t
      ∧ (∀ b, OutsideEntry s1 qpn.toNat b → Intact s1 b →
          (rdByte t b).val = if a.toNat ≤ b ∧ b < a.toNat + 8 then
            (leBytes 8 (BitVec.ofNat 64 (rdNat s1 a.toNat 8) + operand).toNat).getD (b - a.toNat) 0 else (rdByte s1 b).val)
      ∧ Unchanged [.dst, .errs, .mem, .out, .prts, .qps, .reg, .seqs, .skn, .struck] s t := by
  have hsame : SameData s1 (touchRegion rkey s1) := sameData_touchReads ..
  have hstays : StaysClean s1 (touchRegion rkey s1) := staysClean_touchReads ..
  have hadd := atomicAdd_adds ((hsame.refusal _).trans hr) (hstays.clean _ hint hclean)
    (originFlags (qpOrigin (touchRegion rkey s1) qpn.toNat)) operand
  rw [hsame.rdNat_aligned halign hint] at hadd
  have hwrote := (wrote_writeBytes (srcPrt 0) (originFlags (qpOrigin (touchRegion rkey s1) qpn.toNat)) a.toNat
    (cleanBytes (leBytes 8 (BitVec.ofNat 64 (rdNat s1 a.toNat 8) + operand).toNat)) (touchRegion rkey s1)).of_touchRegion
  rw [cleanBytes_val] at hwrote
  have hexec := exec_fetchAndAdd (rkey := rkey) (a := a) (operand := operand) hin
  rw [if_neg (by simp [hok]), if_neg (by simp [hpop, halign]), hadd, answerAtomic] at hexec
  have hends := (acceptReq_repliedFrom (hwrote.alike qpn.toNat) ht 1 (.atomicAck qpn (BitVec.ofNat 64 (rdNat s1 a.toNat 8)))).ends s1
  refine ⟨_, hexec, hends.replied, fun b hb hbint => ?_,
    (takeIn_unchanged hin).trans (hwrote.frame.trans hends.frame (by decide) (by decide)) (by decide)
      (show [.reg, .mem, .errs, .skn, .dst, .seqs, .qps, .prts, .out, .struck] ⊆ _ by decide)⟩
  rw [hends.bytes b hb ((hwrote.stuck _).trans hbint), hwrote.bytes b hbint, length_leBytes]
  by_cases hrun : a.toNat ≤ b ∧ b < a.toNat + 8
  · rw [if_pos hrun, if_pos ⟨hrun.1, hrun.2, (aligned_refusal halign hrun).trans hr⟩]
  · rw [if_neg hrun, if_neg fun h => hrun ⟨h.1, h.2.1⟩]

/-- An atomic that the region or the address forbids is answered with `o` and changes no byte. -/
theorem fetchAndAdd_refused {o : Pkt} (ho : (regionOk s1 (s1.qp qpn.toNat) rkey a.toNat 8 2 = false ∧ o = .nakAccess qpn)
      ∨ (regionOk s1 (s1.qp qpn.toNat) rkey a.toNat 8 2 = true ∧ (populated a.toNat = false ∨ a.toNat % 8 ≠ 0) ∧ o = .nakInvalid qpn)) :
    ∃ t, exec (.fetchAndAdd qpn rkey a operand ing hits) s = .next t ∧ Replied qpn.toNat o s1 t ∧ t.qps = s1.qps ∧ BytesKept [] s1 t
      ∧ Unchanged [.dst, .errs, .mem, .out, .prts, .qps, .reg, .seqs, .skn, .struck] s t := by
  have hexec : exec (.fetchAndAdd qpn rkey a operand ing hits) s
      = .next (endRequest qpn.toNat s1 (reply qpn.toNat o (touchRegion rkey s1))) := by
    rw [exec_fetchAndAdd hin]
    rcases ho with ⟨hok, rfl⟩ | ⟨hok, hbad, rfl⟩
    · rw [if_pos (by simp [hok])]
    · rw [if_neg (by simp [hok]), if_pos (by simpa using hbad)]
  obtain ⟨hreplied, hqps, hbytes, hframe⟩ := refused_after_region ht rkey o
  exact ⟨_, hexec, hreplied, hqps, hbytes, (takeIn_unchanged hin).trans hframe (by decide) (by decide)⟩

end

/-- Settles O32: by whether the region grants the request, and then whether its address is sound. -/
theorem fetchAndAddAdds : Obligations.FetchAndAddAdds := by
  intro qpn rkey a operand ing hits s s1 hin ht
  exact ⟨fun hok hpop halign hr hint hpoison hbad =>
      fetchAndAdd_adds hin ht hok hpop halign hr hint (sectorClean_of_classify hpoison hbad),
    fun hok => fetchAndAdd_refused hin ht (.inl ⟨hok, rfl⟩), fun hok hbad => fetchAndAdd_refused hin ht (.inr ⟨hok, hbad, rfl⟩)⟩

end Sys2Proof.Machine
end

section
/-! SUPPORT. The niddy's duties (Table 15-8, R437, R441), and the neighbours of the management port (R346, R375, R433). -/

namespace Sys2Proof.Machine

/-! ## The telemetry copy -/

/-- The state with another telemetry frame, last copied at `t`. -/
def withFrame (t : Nat) (fr : List (Word × Nat)) (s : State) : State := { s with ndy := { s.ndy with telemAt := t, frame := fr } }

/-- No register shows the frame, and no access looks at it. -/
theorem reachRefusal_withFrame (o : Origin) (a t : Nat) (fr : List (Word × Nat)) (s : State) :
    reachRefusal o a (withFrame t fr s) = reachRefusal o a s := rfl

theorem regValue_withFrame (a t : Nat) (fr : List (Word × Nat)) (s : State) : regValue a (withFrame t fr s) = regValue a s := rfl

theorem withFrame_unchanged (t : Nat) (fr : List (Word × Nat)) (s : State) : Unchanged [.ndy] s (withFrame t fr s) :=
  unchanged_of_mask (by simp [withFrame, pieces])

/-- One copy of a register that can be read. -/
theorem copyTelem_withFrame {i : Nat} {s : State} (h : reachRefusal .niddy (s.ndy.telem.getD i 0) s = none) (t : Nat)
    (fr : List (Word × Nat)) :
    copyTelem i (withFrame t fr s) = withFrame t (fr.set i (regValue (s.ndy.telem.getD i 0) s, s.tick)) s := by
  have hread : accessRead .niddy true ((withFrame t fr s).ndy.telem.getD i 0) (withFrame t fr s)
      = (some (regValue (s.ndy.telem.getD i 0) s), withFrame t fr s) := by
    unfold accessRead
    rw [show (withFrame t fr s).ndy.telem = s.ndy.telem from rfl, reachRefusal_withFrame, h, regValue_withFrame]
    rfl
  unfold copyTelem
  rw [hread]
  rfl

/-- The copies of the first `k` registers over the frame `fr`. -/
def copied (s : State) (fr : List (Word × Nat)) (k : Nat) : List (Word × Nat) :=
  (s.ndy.telem.take k).map (fun a => (regValue a s, s.tick)) ++ fr.drop k

theorem copied_set {s : State} {fr : List (Word × Nat)} {k : Nat} (hk : k < s.ndy.telem.length) (hlen : fr.length = s.ndy.telem.length) :
    (copied s fr k).set k (regValue (s.ndy.telem.getD k 0) s, s.tick) = copied s fr (k + 1) := by
  have htake : ((s.ndy.telem.take k).map (fun a => (regValue a s, s.tick))).length = k := by simp; omega
  unfold copied
  rw [List.set_append_right _ _ (by omega), htake, Nat.sub_self, List.drop_eq_getElem_cons (by omega), List.set_cons_zero,
    List.take_succ_eq_append_getElem hk, List.map_append, List.getD_eq_getElem _ _ hk]
  simp

theorem copyTelems_withFrame {s : State} {fr : List (Word × Nat)} (hlen : fr.length = s.ndy.telem.length)
    (hreach : ∀ a ∈ s.ndy.telem, reachRefusal .niddy a s = none) (t k : Nat) (hk : k ≤ s.ndy.telem.length) :
    (List.range k).foldl (fun s i => copyTelem i s) (withFrame t fr s) = withFrame t (copied s fr k) s := by
  induction k with
  | zero => rfl
  | succ k ih =>
    rw [List.range_succ, List.foldl_append, ih (by omega), List.foldl_cons, List.foldl_nil,
      copyTelem_withFrame (hreach _ (by rw [List.getD_eq_getElem _ _ hk]; exact List.getElem_mem hk)), copied_set hk hlen]

/-- Where every register of the table can be read, the copy is the registers' values with the tick. -/
theorem telemetryDuty_copies {s : State} (hready : s.ndy.phase = .ready) (hdue : s.ndy.telemAt + 325000 ≤ s.wall)
    (hlen : s.ndy.frame.length = s.ndy.telem.length) (hreach : ∀ a ∈ s.ndy.telem, reachRefusal .niddy a s = none) :
    telemetryDuty s = withFrame (s.ndy.telemAt + 325000) (s.ndy.telem.map (fun a => (regValue a s, s.tick))) s := by
  have hcopies := copyTelems_withFrame hlen hreach (s.ndy.telemAt + 325000) s.ndy.telem.length le_rfl
  have hall : copied s s.ndy.frame s.ndy.telem.length = s.ndy.telem.map (fun a => (regValue a s, s.tick)) := by
    unfold copied
    rw [List.take_length, List.drop_eq_nil_of_le (by omega), List.append_nil]
  rw [hall] at hcopies
  exact (if_pos (by simp [hready, hdue])).trans hcopies

/-! ## LIFE_DAYS -/

/-- The telemetry copy touches the frame and the time of the last copy, and may send messages. -/
structure FrameOnly (s t : State) : Prop where
  ndy : t.ndy = { s.ndy with telemAt := t.ndy.telemAt, frame := t.ndy.frame }
  rest : Unchanged [.ndy, .dst] s t

theorem FrameOnly.trans {s t u : State} (h : FrameOnly s t) (k : FrameOnly t u) : FrameOnly s u :=
  ⟨k.ndy.trans (by rw [h.ndy]), h.rest.trans k.rest (by decide) (by decide)⟩

theorem frameOnly_copyTelem (i : Nat) (s : State) : FrameOnly s (copyTelem i s) := by
  unfold copyTelem accessRead
  cases reachRefusal .niddy (s.ndy.telem.getD i 0) s with
  | none => exact ⟨rfl, unchanged_of_mask (by simp [pieces])⟩
  | some e =>
    have hsent : Unchanged [.dst] s (raiseAccess .niddy e.2 e.1 (regBase + s.ndy.telem.getD i 0) s) := sendMsg_uncharged_unchanged _ s
    exact ⟨by dsimp only; rw [hsent .ndy (by decide)], hsent.mono (by decide)⟩

theorem frameOnly_telemetryDuty (s : State) : FrameOnly s (telemetryDuty s) := by
  unfold telemetryDuty
  split
  · have hfold (l : List Nat) (u : State) : FrameOnly u (l.foldl (fun s i => copyTelem i s) u) := by
      induction l generalizing u with
      | nil => exact ⟨rfl, unchanged_rfl _ u⟩
      | cons i l ih => exact (frameOnly_copyTelem i u).trans (ih _)
    have hset : FrameOnly s (setNdy (fun n => { n with telemAt := n.telemAt + 325000 }) s) :=
      ⟨rfl, unchanged_of_mask (by simp [pieces])⟩
    exact hset.trans (hfold _ _)
  · exact ⟨rfl, unchanged_rfl _ s⟩

/-- A lifetime counter adds one where its endurance allows and the NVM takes the write (R437). -/
theorem lifeCount_counts (off : Nat) (s : State) :
    (∀ a, (lifeCount off s).pers a = if a = off ∧ s.wearOf off < 100000 ∧ Config.freeBool s.free = false then satAdd32 (s.pers off) 1
        else s.pers a)
      ∧ (∀ a, (lifeCount off s).wearOf a = if a = off ∧ s.wearOf off < 100000 ∧ Config.freeBool s.free = false then s.wearOf off + 1
        else s.wearOf a)
      ∧ Unchanged [.ndy, .dst, .free, .nvm, .rwp, .seqs, .wear] s (lifeCount off s) := by
  have hframe : Unchanged [.ndy, .dst, .free, .nvm, .rwp, .seqs, .wear] s (lifeCount off s) := unchanged_of_mask (by simp [pieces])
  by_cases hw : s.wearOf off < 100000
  · cases hfree : Config.freeBool s.free with
    | true =>
      have hcount : lifeCount off s = faultParam srcNdy kNVM_WRITE off s.bumpFree := by
        unfold lifeCount persistFree
        rw [hfree, persist_error (s := s.bumpFree) hw]
      have hsent := faultParam_unchanged srcNdy kNVM_WRITE off s.bumpFree
      refine ⟨fun a => ?_, fun a => ?_, hframe⟩
      · rw [if_neg (by simp), hcount, State.pers, hsent .rwp (by decide)]
        rfl
      · rw [if_neg (by simp), hcount, State.wearOf, hsent .wear (by decide)]
        rfl
    | false =>
      have hcount : lifeCount off s = persisted off (satAdd32 (s.pers off) 1) s.bumpFree := by
        unfold lifeCount persistFree
        rw [hfree, persist_stored (s := s.bumpFree) hw]
      refine ⟨fun a => ?_, fun a => ?_, hframe⟩
      · rw [hcount, persisted_pers]
        simp only [hw, and_true, eq_comm (a := a)]
        rfl
      · rw [hcount, persisted_wearOf]
        simp only [hw, and_true, eq_comm (a := a)]
        rfl
  · have hcount : lifeCount off s = s.bumpFree := by
      unfold lifeCount persistFree
      rw [persist_full (s := s.bumpFree) (Nat.le_of_not_lt hw)]
    exact ⟨fun a => by rw [if_neg (by omega), hcount]; rfl, fun a => by rw [if_neg (by omega), hcount]; rfl, hframe⟩

/-- A day after the last count the day is counted, behind a copy that is due. -/
theorem lifeDaysTick_counts {s : State} (hready : s.ndy.phase = .ready) (hdue : s.ndy.dayAt + 28080000000 ≤ s.wall) :
    ∃ t, exec .lifeDaysTick s = .next t ∧ t.ndy.frame = (telemetryDuty s).ndy.frame ∧ t.ndy.dayAt = s.ndy.dayAt + 28080000000
      ∧ t.pers (rNdy 0x308) = (if s.wearOf (rNdy 0x308) < 100000 ∧ Config.freeBool s.free = false then satAdd32 (s.pers (rNdy 0x308)) 1
          else s.pers (rNdy 0x308))
      ∧ t.wearOf (rNdy 0x308) = (if s.wearOf (rNdy 0x308) < 100000 ∧ Config.freeBool s.free = false then s.wearOf (rNdy 0x308) + 1
          else s.wearOf (rNdy 0x308))
      ∧ (∀ a, a ≠ rNdy 0x308 → t.pers a = s.pers a ∧ t.wearOf a = s.wearOf a)
      ∧ Unchanged [.ndy, .dst, .free, .nvm, .rwp, .seqs, .wear] s t := by
  obtain ⟨hndy, hrest⟩ := frameOnly_telemetryDuty s
  generalize hu : telemetryDuty s = u at hndy hrest
  have hphase : u.ndy.phase = .ready := by rw [hndy]; exact hready
  have hday : u.ndy.dayAt = s.ndy.dayAt := by rw [hndy]
  have hwall : u.wall = s.wall := hrest .wall (by decide)
  let v := setNdy (fun n => { n with dayAt := n.dayAt + 28080000000 }) u
  have hexec : exec .lifeDaysTick s = .next (lifeCount (rNdy 0x308) v) := by
    refine congrArg Host.Outcome.next ?_
    rw [if_pos (by simp [hready, hdue]), hu]
    exact if_pos (by rw [hphase, hday, hwall]; simpa using hdue)
  have hv : Unchanged [.ndy, .dst] s v := hrest.trans (m := [.ndy]) (unchanged_of_mask (by simp [v, pieces])) (by decide) (by decide)
  have hpers (a : Nat) : v.pers a = s.pers a := congrArg (fun m : AMap Word => mget m a 0) (hv .rwp (by decide))
  have hwear (a : Nat) : v.wearOf a = s.wearOf a := congrArg (fun m : AMap Nat => mget m a 0) (hv .wear (by decide))
  have hfree : v.free = s.free := hv .free (by decide)
  obtain ⟨hcp, hcw, hcount⟩ := lifeCount_counts (rNdy 0x308) v
  have haccount : NvmAccount v (lifeCount (rNdy 0x308) v) := nvmAccount_persistFree ..
  simp only [hpers, hwear, hfree] at hcp hcw
  refine ⟨_, hexec, by rw [haccount.ndy]; rfl, by rw [haccount.ndy]; exact congrArg (· + 28080000000) hday, ?_, ?_, fun a ha => ⟨?_, ?_⟩,
    hv.trans hcount (by decide) (by decide)⟩
  · rw [hcp]; simp
  · rw [hcw]; simp
  · rw [hcp, if_neg (by simp [ha])]
  · rw [hcw, if_neg (by simp [ha])]

/-! ## Frames of the management port -/

theorem mgmtFrame_unchanged (fec : Nat) (s : State) : Unchanged [.reg] s (mgmtFrame fec s) := unchanged_of_mask (by simp [pieces])

theorem mgmtSend_unchanged (o : Out) (s : State) : Unchanged [.reg, .out] s (mgmtSend o s) := unchanged_of_mask (by simp [pieces])

theorem mgmtSend_out (o : Out) (s : State) : (mgmtSend o s).out = s.out ++ [o] := by
  rw [mgmtSend, State.emit_out, txFrames, count_unchanged _ _ s .out (by decide)]

/-- A register whose reset value is 0 counts from what it shows. -/
theorem getReg_count {a : Nat} (ha : regReset a = 0) {k : Nat} (hk : 0 < k) (s : State) (x : Nat) :
    (s.count a k).getReg x = if x = a then satAdd32 (s.getReg x) k else s.getReg x := by
  split
  next hx =>
    subst hx
    rw [getReg_count_same hk, State.getReg, ha]
  next hx => exact getReg_count_ne (Ne.symm hx) k s

theorem regReset_txFrames : regReset (rPrt 20 0x40) = 0 := by decide

/-- A frame that leaves is counted, from the registers as they were. -/
theorem frameSent_mgmtSend {s u : State} (h : u.reg = s.reg) (o : Out) : FrameSent s (mgmtSend o u) := by
  have hreg (x : Nat) : u.getReg x = s.getReg x := congrArg (fun m => mget m x (regReset x)) h
  intro x
  have hcount := getReg_count regReset_txFrames (k := 1) (by decide) u x
  rwa [hreg] at hcount

/-- The addresses that a neighbour may ask for. -/
def OwnAddress (v6 : Bool) (target : Nat) (s : State) : Prop :=
  if v6 then (target = s.ndy.ip6 ∧ s.ndy.ip6 ≠ 0) ∨ target = linkLocal s.ndy.mac else target % 2 ^ 32 = s.ndy.ip4 ∧ s.ndy.ip4 ≠ 0

theorem ownAddress_iff (v6 : Bool) (target : Nat) (s : State) : ownAddress v6 target s = true ↔ OwnAddress v6 target s := by
  cases v6 <;> simp [ownAddress, OwnAddress]

theorem exec_arpRequest {s : State} (hrun : mgmtRuns s = true) (v6 : Bool) (target ip : BitVec 128) (mac : BitVec 48) (fec : Nat) :
    exec (.arpRequest v6 target mac ip fec) s = .next (if ownAddress v6 target.toNat (mgmtFrame fec s) then
      mgmtSend (.neighbour mac ip target (BitVec.ofNat 48 (mgmtFrame fec s).ndy.mac)) (mgmtFrame fec s) else mgmtFrame fec s) :=
  congrArg Host.Outcome.next (if_neg (by simp [hrun]))

theorem arpRequest_answered {s : State} (hrun : mgmtRuns s = true) {v6 : Bool} {target : BitVec 128} (hown : OwnAddress v6 target.toNat s)
    (ip : BitVec 128) (mac : BitVec 48) (fec : Nat) :
    ∃ t, exec (.arpRequest v6 target mac ip fec) s = .next t
      ∧ t.out = s.out ++ [.neighbour mac ip target (BitVec.ofNat 48 s.ndy.mac)] ∧ FrameSent (mgmtFrame fec s) t ∧ Unchanged [.reg, .out] s t := by
  have hframe := mgmtFrame_unchanged fec s
  have hndy : (mgmtFrame fec s).ndy = s.ndy := hframe .ndy (by decide)
  have hexec := exec_arpRequest hrun v6 target ip mac fec
  rw [if_pos ((ownAddress_iff ..).mpr (by unfold OwnAddress; rw [hndy]; exact hown)), hndy] at hexec
  exact ⟨_, hexec, by rw [mgmtSend_out, hframe .out (by decide)], frameSent_mgmtSend rfl _,
    hframe.trans (mgmtSend_unchanged _ _) (by decide) (by decide)⟩

theorem arpRequest_unanswered {s : State} (hrun : mgmtRuns s = true) {v6 : Bool} {target : BitVec 128}
    (hother : ¬ OwnAddress v6 target.toNat s) (ip : BitVec 128) (mac : BitVec 48) (fec : Nat) :
    exec (.arpRequest v6 target mac ip fec) s = .next (mgmtFrame fec s) := by
  have hndy : (mgmtFrame fec s).ndy = s.ndy := mgmtFrame_unchanged fec s .ndy (by decide)
  rw [exec_arpRequest hrun, if_neg]
  rw [ownAddress_iff]
  unfold OwnAddress
  rwa [hndy]

/-! ## The NOTICE -/

/-- The NOTICE that waited, waits no more. -/
def noticeDropped (s : State) : State := setNdy (fun n => { n with notice := none }) s

theorem noticeDropped_unchanged (s : State) : Unchanged [.ndy] s (noticeDropped s) := unchanged_of_mask (by simp [noticeDropped, pieces])

theorem noticeDropped_ndy {s u : State} (h : u.ndy = s.ndy) : (noticeDropped u).ndy = { s.ndy with notice := none } :=
  congrArg (fun n : Ndy => { n with notice := none }) h

theorem nextHopAnswer_in_time {s : State} (hrun : mgmtRuns s = true) {f : List Byte} (hf : s.ndy.notice = some f)
    (htime : s.wall ≤ s.ndy.noticeAt + 325000000) (mac : BitVec 48) (fec : Nat) :
    ∃ t, exec (.nextHopAnswer mac fec) s = .next t ∧ t.ndy = { s.ndy with notice := none }
      ∧ t.out = s.out ++ [.notice mac s.ndy.collector s.ndy.colPort f] ∧ FrameSent (mgmtFrame fec s) t
      ∧ Unchanged [.ndy, .reg, .out] s t := by
  have hframe := mgmtFrame_unchanged fec s
  have hndy : (mgmtFrame fec s).ndy = s.ndy := hframe .ndy (by decide)
  have hwall : (mgmtFrame fec s).wall = s.wall := hframe .wall (by decide)
  have hdrop := noticeDropped_unchanged (mgmtFrame fec s)
  have hexec : exec (.nextHopAnswer mac fec) s
      = .next (mgmtSend (.notice mac s.ndy.collector s.ndy.colPort f) (noticeDropped (mgmtFrame fec s))) := by
    refine congrArg Host.Outcome.next ((if_neg (by simp [hrun])).trans ?_)
    dsimp only
    rw [hndy, hf, hwall]
    exact if_pos htime
  have hsend := mgmtSend_unchanged (.notice mac s.ndy.collector s.ndy.colPort f) (noticeDropped (mgmtFrame fec s))
  refine ⟨_, hexec, Eq.trans (hsend .ndy (by decide)) (noticeDropped_ndy hndy), ?_, frameSent_mgmtSend (hdrop .reg (by decide)) _,
    (hframe.trans hdrop (n := [.ndy, .reg]) (by decide) (by decide)).trans hsend (by decide) (by decide)⟩
  rw [mgmtSend_out, hdrop .out (by decide), hframe .out (by decide)]

theorem nextHopAnswer_late {s : State} (hrun : mgmtRuns s = true) {f : List Byte} (hf : s.ndy.notice = some f)
    (htime : s.ndy.noticeAt + 325000000 < s.wall) (mac : BitVec 48) (fec : Nat) :
    ∃ t, exec (.nextHopAnswer mac fec) s = .next t ∧ t.ndy = { s.ndy with notice := none } ∧ Unchanged [.ndy, .reg] s t := by
  have hframe := mgmtFrame_unchanged fec s
  have hndy : (mgmtFrame fec s).ndy = s.ndy := hframe .ndy (by decide)
  have hwall : (mgmtFrame fec s).wall = s.wall := hframe .wall (by decide)
  have hexec : exec (.nextHopAnswer mac fec) s = .next (noticeDropped (mgmtFrame fec s)) := by
    refine congrArg Host.Outcome.next ((if_neg (by simp [hrun])).trans ?_)
    dsimp only
    rw [hndy, hf, hwall]
    exact if_neg (Nat.not_le.mpr htime)
  exact ⟨_, hexec, noticeDropped_ndy hndy, hframe.trans (noticeDropped_unchanged _) (by decide) (by decide)⟩

theorem noticeTimeout_drops {s : State} {f : List Byte} (hf : s.ndy.notice = some f) (htime : s.ndy.noticeAt + 325000000 ≤ s.wall) :
    exec .noticeTimeout s = .next (noticeDropped s) :=
  congrArg Host.Outcome.next (if_pos (by simp [hf, noticeLimit, htime]))

/-- Settles O49, duty by duty. -/
theorem niddyDutiesRun : Obligations.NiddyDutiesRun := by
  intro s
  refine ⟨fun hready hdue hlen hreach => ?_, fun hready hdue => lifeDaysTick_counts hready hdue,
    fun v6 target ip mac fec hrun => ⟨fun hown => arpRequest_answered hrun hown ip mac fec,
      fun hother => arpRequest_unanswered hrun hother ip mac fec, fun f hf =>
        ⟨fun htime => nextHopAnswer_in_time hrun hf htime mac fec, fun htime => nextHopAnswer_late hrun hf htime mac fec⟩⟩,
    fun f hf htime => ⟨_, noticeTimeout_drops hf htime, rfl, noticeDropped_unchanged s⟩⟩
  exact ⟨_, congrArg Host.Outcome.next (telemetryDuty_copies hready hdue hlen hreach), rfl, withFrame_unchanged _ _ s⟩

end Sys2Proof.Machine
end

section
/-! SUPPORT. What the duties that run before a request leave of the state that the request meets (Table 15-8). -/

namespace Sys2Proof.Machine

/-- Duties have run: of the niddy they have changed the telemetry frame, the times of the duties and the account of the NVM. -/
structure DutiesRun (s t : State) : Prop where
  ndy : t.ndy = { s.ndy with telemAt := t.ndy.telemAt, frame := t.ndy.frame, dayAt := t.ndy.dayAt, half := t.ndy.half, gen := t.ndy.gen
                             nrec := t.ndy.nrec, nvmq := t.ndy.nvmq, compactAt := t.ndy.compactAt, eraseAt := t.ndy.eraseAt }
  rest : Unchanged [.ndy, .dst, .free, .nvm, .rwp, .seqs, .wear] s t

theorem dutiesRun_telemetryDuty (s : State) : DutiesRun s (telemetryDuty s) :=
  ⟨(frameOnly_telemetryDuty s).ndy.trans (by rw [(frameOnly_telemetryDuty s).ndy]), (frameOnly_telemetryDuty s).rest.mono (by decide)⟩

theorem dutiesRun_dayDuty (s : State) : DutiesRun s (dayDuty s) := by
  refine ⟨?_, unchanged_of_mask (by simp [pieces])⟩
  unfold dayDuty
  split
  · have haccount : NvmAccount (setNdy (fun n => { n with dayAt := n.dayAt + 28080000000 }) s)
        (lifeCount (rNdy 0x308) (setNdy (fun n => { n with dayAt := n.dayAt + 28080000000 }) s)) := nvmAccount_persistFree ..
    rw [haccount.ndy]
    rfl
  · rfl

theorem dutiesRun_dueDuties (s : State) : DutiesRun s (dueDuties s) := by
  have h := dutiesRun_telemetryDuty s
  have k := dutiesRun_dayDuty (telemetryDuty s)
  exact ⟨k.ndy.trans (by rw [h.ndy]; rfl), h.rest.trans k.rest (by decide) (by decide)⟩

/-- Where no duty is due, nothing precedes a request. -/
theorem dueDuties_idle {s : State} (h : s.ndy.phase ≠ .ready ∨ (s.wall < s.ndy.telemAt + 325000 ∧ s.wall < s.ndy.dayAt + 28080000000)) :
    dueDuties s = s := by
  have hdue (due : Nat) (hw : s.ndy.phase ≠ .ready ∨ s.wall < due) : ¬ (s.ndy.phase = .ready && due ≤ s.wall) = true := by
    simp only [Bool.and_eq_true, decide_eq_true_eq]
    rintro ⟨hp, hnow⟩
    exact hw.elim (· hp) (Nat.not_lt.mpr hnow)
  have htelem : telemetryDuty s = s := if_neg (hdue _ (h.imp_right And.left))
  unfold dueDuties
  rw [htelem]
  exact if_neg (hdue _ (h.imp_right And.right))

/-- The state in which a request is served: the duties due have run and its frame is counted. -/
def served (fec : Nat) (s : State) : State := mgmtFrame fec (dueDuties s)

theorem served_ndy (fec : Nat) (s : State) : (served fec s).ndy = (dueDuties s).ndy := mgmtFrame_unchanged fec _ .ndy (by decide)

/-- A request meets the niddy's tags, transcript and large response as the duties found them, in the phase in which they found it. -/
theorem served_kept (fec : Nat) (s : State) : (served fec s).ndy.tags = s.ndy.tags ∧ (served fec s).ndy.phase = s.ndy.phase
    ∧ (served fec s).ndy.transcript = s.ndy.transcript ∧ (served fec s).ndy.large = s.ndy.large := by
  rw [served_ndy, (dutiesRun_dueDuties s).ndy]
  exact ⟨rfl, rfl, rfl, rfl⟩

theorem served_unchanged (fec : Nat) (s : State) : Unchanged [.ndy, .dst, .free, .nvm, .rwp, .seqs, .wear, .reg] s (served fec s) :=
  (dutiesRun_dueDuties s).rest.trans (mgmtFrame_unchanged fec _) (by decide) (by decide)

theorem mgmtRuns_congr {s t : State} (hpkg : t.pkg = s.pkg) (hphase : t.ndy.phase = s.ndy.phase) : mgmtRuns t = mgmtRuns s := by
  unfold mgmtRuns
  rw [hpkg, hphase]

theorem mgmtRuns_served (fec : Nat) (s : State) : mgmtRuns (served fec s) = mgmtRuns s :=
  mgmtRuns_congr (served_unchanged fec s .pkg (by decide)) (served_kept fec s).2.1

end Sys2Proof.Machine
end

section
/-! SUPPORT. SPDM requests (R444 to R447): one packet answers, and what the request leaves beside it. -/

namespace Sys2Proof.Machine

/-- Between `s` and `t` the packet `a` has answered the asker `r`, the niddy is now `n`, and but for the pieces `ps` nothing else
changes. -/
structure SpdmAnswered (r : Asker) (a : Spdm) (n : Ndy) (ps : List Piece) (s t : State) : Prop where
  out : t.out = s.out ++ [.spdm r.mac r.ip a]
  ndy : t.ndy = n
  sent : FrameSent s t
  frame : Unchanged (ps ++ [.reg, .out]) s t

/-- The answer leaves from the state that its request has come to. -/
theorem spdm_answers {r : Asker} {f : State → Spdm × State} {s0 : State} (hrun : mgmtRuns s0 = true) {ps : List Piece} {a : Spdm} {t : State}
    (hf : f (served r.fec s0) = (a, t)) (ht : Unchanged ps (served r.fec s0) t) (hreg : Piece.reg ∉ ps := by decide)
    (hout : Piece.out ∉ ps := by decide) :
    ∃ u, spdm r f s0 = .next u ∧ SpdmAnswered r a t.ndy ps (served r.fec s0) u := by
  have hsend := mgmtSend_unchanged (.spdm r.mac r.ip a) t
  refine ⟨mgmtSend (.spdm r.mac r.ip a) t, congrArg Host.Outcome.next ((if_pos hrun).trans ?_), ?_, hsend .ndy (by decide),
    frameSent_mgmtSend (ht .reg hreg) _, ht.trans hsend (List.subset_append_left ..) (List.subset_append_right ..)⟩
  · exact congrArg (fun x : Spdm × State => mgmtSend (.spdm r.mac r.ip x.1) x.2) hf
  · rw [mgmtSend_out, ht .out hout]

/-- An answer that changes nothing of the device. -/
theorem spdm_replies {r : Asker} {f : State → Spdm × State} {s0 : State} (hrun : mgmtRuns s0 = true) {a : Spdm}
    (hf : f (served r.fec s0) = (a, served r.fec s0)) :
    ∃ u, spdm r f s0 = .next u ∧ SpdmAnswered r a (served r.fec s0).ndy [] (served r.fec s0) u :=
  spdm_answers hrun hf (unchanged_rfl _ _)

/-! ## Certificates -/

/-- A portion of slot 0's chain: as much as was asked for and fits a message. -/
theorem certificate_portion {offset : Nat} {s : State} (h : offset ≤ (certChain s).length) (len : Nat) :
    ∃ p, certificate 0 offset len s = .certificate p ((certChain s).length - offset - p.length)
      ∧ p.length ≤ 1016 ∧ p <+: (certChain s).drop offset ∧ (p.length < len → p.length < 1016 → p = (certChain s).drop offset) := by
  refine ⟨((certChain s).drop offset).take (min len portionSize), ?_, ?_, List.take_prefix .., fun hlen hfull => ?_⟩
  · unfold certificate
    dsimp only
    rw [if_neg (by decide), if_neg (by omega)]
  · rw [List.length_take]
    exact (Nat.min_le_left ..).trans (Nat.min_le_right ..)
  · rw [List.length_take] at hlen hfull
    have hsize : portionSize = 1016 := rfl
    exact List.take_of_length_le (by omega)

/-! ## Values that the spec leaves open -/

theorem length_openBytes (n : Nat) (s : State) : (openBytes n s).length = n := by simp [openBytes]

theorem useFree_unchanged (n : Nat) (s : State) : Unchanged [.free] s (useFree n s) := unchanged_of_mask (by simp [pieces])

/-! ## Measurements -/

/-- The blocks that an index asks for (R445). -/
def asked (i : BitVec 8) : List Nat := if i = 0 then [] else if i = 255 then [1, 2, 3, 4, 5, 6] else [i.toNat]

/-- The response to GET_MEASUREMENTS of blocks that exist; a signed one leaves the transcript's hash. -/
theorem measurements_answers {i : BitVec 8} (hi : i.toNat ≤ 6 ∨ i.toNat = 255) (b : Bool) (nonce : List Byte) (s : State) :
    measurements i.toNat b nonce s = if b then
        (.measurements 6 ((asked i).map (fun j => measureBlock j s)) (openBytes 32 s)
          (Config.deviceSign (nonce ++ openBytes 48 (useFree 32 s))),
          setNdy (fun n => { n with transcript := some (openBytes 48 (useFree 32 s)) }) (useFree 80 s))
      else (.measurements 6 ((asked i).map (fun j => measureBlock j s)) (openBytes 32 s) [], useFree 32 s) := by
  have hwhich : (if i.toNat = 0 then [] else if i.toNat = 255 then [1, 2, 3, 4, 5, 6] else [i.toNat]) = asked i := by
    unfold asked
    simp only [← BitVec.toNat_inj]
    rfl
  unfold measurements
  dsimp only
  rw [hwhich, if_neg (by simp; omega)]

/-! ## Chunks of a large response -/

/-- A chunk that exists; the last one ends the response. -/
theorem chunkOf_answers {g : Large} {c : Nat} {s : State} (hg : s.ndy.large = some g) (hc : c * 1024 < g.bytes.length) :
    chunkOf g.handle c s = (.chunk g.handle c (decide (g.bytes.length ≤ (c + 1) * 1024)) ((g.bytes.drop (c * 1024)).take 1024),
      if g.bytes.length ≤ (c + 1) * 1024 then setNdy (fun n => { n with large := none }) s else s) := by
  have hsize : transferSize = 1024 := rfl
  have hexists : ¬ (ceilDiv g.bytes.length transferSize ≤ c) := by
    unfold ceilDiv
    rw [hsize]
    omega
  have hlast : c + 1 = ceilDiv g.bytes.length transferSize ↔ g.bytes.length ≤ (c + 1) * 1024 := by
    unfold ceilDiv
    rw [hsize]
    omega
  unfold chunkOf
  rw [hg]
  dsimp only
  rw [if_neg (by simpa using hexists), hsize]
  rw [hsize] at hlast
  simp only [hlast]

/-! ## Vendor requests (R446) -/

theorem vendorRequest_signs {h : List Byte} {s : State} (ht : s.ndy.transcript = some h) :
    vendorRequest 4 s.fuses.vid [1] s = (.largeResponse (Config.freeByte s.free),
      setNdy (fun n => { n with large := some { handle := Config.freeByte s.free, bytes := h ++ Config.slhSign h } }) (useFree 1 s)) := by
  unfold vendorRequest
  rw [if_neg (by simp [idIana]), ht]

theorem vendorRequest_early {s : State} (ht : s.ndy.transcript = none) : vendorRequest 4 s.fuses.vid [1] s = (.unexpected, s) := by
  unfold vendorRequest
  rw [if_neg (by simp [idIana]), ht]

theorem vendorRequest_other {std : BitVec 16} {vid : Word} {p : List Byte} {s : State} (h : std ≠ 4 ∨ vid ≠ s.fuses.vid ∨ p ≠ [1]) :
    vendorRequest std vid p s = (.unsupported, s) := if_pos (by
  have hcases : (¬ std = 4 ∨ ¬ vid = s.fuses.vid) ∨ ¬ p = [1] := or_assoc.mpr h
  rw [Bool.or_eq_true, Bool.or_eq_true, decide_eq_true_eq, decide_eq_true_eq, decide_eq_true_eq]
  exact hcases)

theorem length_slhSign (h : List Byte) : (Config.slhSign h).length = 16224 := by simp [Config.slhSign]

/-! ## The obligation -/

section

variable {r : Asker} {s0 : State} (hrun : mgmtRuns s0 = true)

include hrun

theorem challenge_answered {nonce : List Byte} (hn : nonce.length = 32) :
    ∃ t own x, exec (.challenge 0 nonce r) s0 = .next t
      ∧ t.out = (served r.fec s0).out
        ++ [.spdm r.mac r.ip (.challengeAuth (sha384 (certChain (served r.fec s0))) own (Config.deviceSign (nonce ++ x)))]
      ∧ own.length = 32 ∧ FrameSent (served r.fec s0) t ∧ Unchanged [.free, .reg, .out] (served r.fec s0) t := by
  have hexec : exec (.challenge 0 nonce r) s0 = spdm r (challenge 0 nonce) s0 := if_pos (decide_eq_true hn)
  obtain ⟨t, ht, hout, -, hsent, hframe⟩ := spdm_answers hrun (f := challenge 0 nonce) rfl (useFree_unchanged 80 (served r.fec s0))
  exact ⟨t, _, _, hexec.trans ht, hout, length_openBytes .., hsent, hframe⟩

theorem getMeasurements_answered {i : BitVec 8} (hi : i.toNat ≤ 6 ∨ i.toNat = 255) (b : Bool) {nonce : List Byte} (hn : nonce.length = 32) :
    ∃ t own sig, exec (.getMeasurements i b nonce r) s0 = .next t
      ∧ t.out = (served r.fec s0).out
        ++ [.spdm r.mac r.ip (.measurements 6 ((asked i).map (fun j => measureBlock j (served r.fec s0))) own sig)]
      ∧ own.length = 32
      ∧ (b = false → sig = [] ∧ t.ndy = (served r.fec s0).ndy)
      ∧ (b = true → ∃ h : List Byte, h.length = 48 ∧ sig = Config.deviceSign (nonce ++ h)
          ∧ t.ndy = { (served r.fec s0).ndy with transcript := some h })
      ∧ FrameSent (served r.fec s0) t ∧ Unchanged [.free, .ndy, .reg, .out] (served r.fec s0) t := by
  have hexec : exec (.getMeasurements i b nonce r) s0 = spdm r (measurements i.toNat b nonce) s0 := if_pos (decide_eq_true hn)
  have hfree (k : Nat) := useFree_unchanged k (served r.fec s0)
  have hm := measurements_answers hi b nonce (served r.fec s0)
  cases b with
  | false =>
    obtain ⟨t, ht, hout, hndy, hsent, hframe⟩ := spdm_answers hrun hm ((hfree 32).mono (m := [.free, .ndy]) (by decide))
    exact ⟨t, _, _, hexec.trans ht, hout, length_openBytes .., fun _ => ⟨rfl, hndy⟩, Bool.noConfusion, hsent, hframe⟩
  | true =>
    obtain ⟨t, ht, hout, hndy, hsent, hframe⟩ := spdm_answers hrun hm ((hfree 80).trans (setNdy_unchanged _ _) (n := [.free, .ndy])
      (by decide) (by decide))
    exact ⟨t, _, _, hexec.trans ht, hout, length_openBytes .., Bool.noConfusion, fun _ => ⟨_, length_openBytes .., rfl, hndy⟩, hsent, hframe⟩

theorem vendorDefinedRequest_signed {h : List Byte} (htr : s0.ndy.transcript = some h) :
    ∃ t handle, exec (.vendorDefinedRequest 4 s0.fuses.vid [1] r) s0 = .next t
      ∧ t.out = (served r.fec s0).out ++ [.spdm r.mac r.ip (.largeResponse handle)]
      ∧ t.ndy = { (served r.fec s0).ndy with large := some { handle := handle, bytes := h ++ Config.slhSign h } }
      ∧ (Config.slhSign h).length = 16224 ∧ FrameSent (served r.fec s0) t ∧ Unchanged [.free, .ndy, .reg, .out] (served r.fec s0) t := by
  obtain ⟨-, -, hkept, -⟩ := served_kept r.fec s0
  have hfuses : (served r.fec s0).fuses = s0.fuses := served_unchanged r.fec s0 .fuses (by decide)
  have hsigns := vendorRequest_signs (hkept.trans htr)
  rw [hfuses] at hsigns
  obtain ⟨t, ht, hout, hndy, hsent, hframe⟩ := spdm_answers hrun hsigns
    ((useFree_unchanged 1 (served r.fec s0)).trans (setNdy_unchanged _ _) (n := [.free, .ndy]) (by decide) (by decide))
  exact ⟨t, _, ht, hout, hndy, length_slhSign h, hsent, hframe⟩

theorem chunkGet_answered {g : Large} {c : BitVec 16} (hg : s0.ndy.large = some g) (hc : c.toNat * 1024 < g.bytes.length) :
    ∃ t, exec (.chunkGet g.handle c r) s0 = .next t
      ∧ t.out = (served r.fec s0).out ++ [.spdm r.mac r.ip (.chunk g.handle c.toNat (decide (g.bytes.length ≤ (c.toNat + 1) * 1024))
          ((g.bytes.drop (c.toNat * 1024)).take 1024))]
      ∧ t.ndy = (if g.bytes.length ≤ (c.toNat + 1) * 1024 then { (served r.fec s0).ndy with large := none } else (served r.fec s0).ndy)
      ∧ FrameSent (served r.fec s0) t ∧ Unchanged [.ndy, .reg, .out] (served r.fec s0) t := by
  obtain ⟨-, -, -, hkept⟩ := served_kept r.fec s0
  have hchunk := chunkOf_answers (hkept.trans hg) hc
  have hleft : Unchanged [.ndy] (served r.fec s0) (if g.bytes.length ≤ (c.toNat + 1) * 1024 then
      setNdy (fun n => { n with large := none }) (served r.fec s0) else served r.fec s0) := by
    split
    · exact setNdy_unchanged _ _
    · exact unchanged_rfl _ _
  obtain ⟨t, ht, hout, hndy, hsent, hframe⟩ := spdm_answers hrun hchunk hleft
  exact ⟨t, ht, hout, hndy.trans (apply_ite State.ndy ..), hsent, hframe⟩

end

/-- Settles O51: each row is `spdm` of its answer, and what the answers are is said above, row by row. -/
theorem spdmRequestsAnswered : Obligations.SpdmRequestsAnswered := by
  intro r s0 s hrun hs
  obtain rfl : s = served r.fec s0 := hs
  have hkept := served_kept r.fec s0
  have hfuses : (served r.fec s0).fuses = s0.fuses := served_unchanged r.fec s0 .fuses (by decide)
  refine ⟨?_, fun c a hca => ?_, fun code => ?_, fun offset len hoffset => ?_, fun nonce hn => challenge_answered hrun hn,
    fun i b nonce hn hi => getMeasurements_answered hrun hi b hn, fun h htr => vendorDefinedRequest_signed hrun htr, fun htr => ?_,
    fun std vid p hother => ?_, fun g c hg hc => chunkGet_answered hrun hg hc⟩
  · obtain ⟨t, ht, hout, hndy, hsent, hframe⟩ := spdm_answers (r := r)
      (f := fun s => (.version 0x12, setNdy (fun n => { n with transcript := none, large := none }) s)) hrun rfl (setNdy_unchanged _ _)
    exact ⟨t, ht, hout, hndy, hsent, hframe⟩
  · obtain ⟨f, hexec, hf⟩ : ∃ f, exec c s0 = spdm r f s0 ∧ f (served r.fec s0) = (a, served r.fec s0) := by
      simp only [List.mem_cons, Prod.mk.injEq, List.not_mem_nil, or_false] at hca
      rcases hca with ⟨rfl, rfl⟩ | ⟨rfl, rfl⟩ | ⟨rfl, rfl⟩ <;> exact ⟨_, rfl, rfl⟩
    obtain ⟨t, ht, hout, -, hsent, hframe⟩ := spdm_replies hrun hf
    exact ⟨t, hexec.trans ht, hout, hsent, hframe⟩
  · obtain ⟨t, ht, hout, -, hsent, hframe⟩ := spdm_replies (r := r) (f := fun s => (.unsupported, s)) hrun rfl
    exact ⟨t, ht, hout, hsent, hframe⟩
  · obtain ⟨p, hp, hrest⟩ := certificate_portion hoffset len.toNat
    obtain ⟨t, ht, hout, -, hsent, hframe⟩ := spdm_replies (r := r) (f := fun s => (certificate 0 offset.toNat len.toNat s, s)) hrun rfl
    rw [hp] at hout
    obtain ⟨hsize, hprefix, hwhole⟩ := hrest
    exact ⟨t, p, ht, hout, hsize, hprefix, hwhole, hsent, hframe⟩
  · have hearly := vendorRequest_early (hkept.2.2.1.trans htr)
    rw [hfuses] at hearly
    obtain ⟨t, ht, hout, -, hsent, hframe⟩ := spdm_replies hrun hearly
    exact ⟨t, ht, hout, hsent, hframe⟩
  · obtain ⟨t, ht, hout, -, hsent, hframe⟩ := spdm_replies hrun (vendorRequest_other (hfuses ▸ hother))
    exact ⟨t, ht, hout, hsent, hframe⟩

end Sys2Proof.Machine
end

section
/-! SUPPORT. A request at the management port: what serving it leaves, from what its OP does (R441 to R443). -/

namespace Sys2Proof.Machine

theorem FrameSent.of_reg {s t u : State} (h : FrameSent t u) (hreg : t.reg = s.reg) : FrameSent s u := by
  have hget (x : Nat) : t.getReg x = s.getReg x := congrArg (fun m => mget m x (regReset x)) hreg
  intro x
  rw [h x, hget]

/-- A response is kept under its TAG, among the last 16. -/
def keepAnswer (m : MgmtIn) (r : List Byte) (s : State) : State :=
  setNdy (fun n => { n with tags := (n.tags ++ [(mTag m.frame, r)]).drop (n.tags.length + 1 - 16) }) s

section

variable {m : MgmtIn} {act : List Byte → State → MAns × State} {s0 t : State} {st : MStatus} {d : List Byte} (hrun : mgmtRuns s0 = true)

include hrun

/-- A TAG answered before gets its stored response. -/
theorem serve_stored {r : List Byte} (htag : s0.ndy.tags.find? (fun e => e.1 = mTag m.frame) = some (mTag m.frame, r)) :
    serve m act s0 = mgmtSend (.mgmt m.mac m.ip r) (served m.fec s0) := by
  have hfind : (mgmtFrame m.fec (dueDuties s0)).ndy.tags.find? (fun e => e.1 = mTag m.frame) = some (mTag m.frame, r) :=
    (congrArg (List.find? _) (served_kept m.fec s0).1).trans htag
  unfold serve
  rw [if_neg (by simp [hrun])]
  dsimp only
  rw [hfind]
  rfl

/-- A TAG not answered before: the request is acted on, and answered where the niddy still runs; a reset clears what it leaves. -/
theorem serve_fresh (hfresh : ∀ e ∈ s0.ndy.tags, e.1 ≠ mTag m.frame)
    (hact : (if mFrameOk m.frame then act m.frame (served m.fec s0) else ((.badFrame, []), served m.fec s0)) = ((st, d), t)) :
    serve m act s0 = if mgmtRuns t then mgmtSend (.mgmt m.mac m.ip (mResponse m.frame st d)) (keepAnswer m (mResponse m.frame st d) t)
      else t.emit (.mgmt m.mac m.ip (mResponse m.frame st d)) := by
  have hfind : (mgmtFrame m.fec (dueDuties s0)).ndy.tags.find? (fun e => e.1 = mTag m.frame) = none :=
    (congrArg (List.find? _) (served_kept m.fec s0).1).trans (List.find?_eq_none.mpr fun e he => by simpa using hfresh e he)
  unfold served at hact
  unfold serve
  rw [if_neg (by simp [hrun])]
  dsimp only
  rw [hfind]
  dsimp only
  rw [hact]
  cases h : mgmtRuns t <;> rfl

/-- The request is answered with `st` and `d` from the state `t` that its OP has come to. -/
structure ServedFrom (m : MgmtIn) (st : MStatus) (d : List Byte) (s t u : State) : Prop where
  answered : Answered m st d s u
  sent : FrameSent t u
  rest : Unchanged [.ndy, .reg, .out] t u

theorem serve_answers {ps : List Piece} (hfresh : ∀ e ∈ s0.ndy.tags, e.1 ≠ mTag m.frame)
    (hact : (if mFrameOk m.frame then act m.frame (served m.fec s0) else ((.badFrame, []), served m.fec s0)) = ((st, d), t))
    (ht : Unchanged ps (served m.fec s0) t) (hps : ∀ p ∈ [Piece.ndy, .pkg, .out], p ∉ ps := by decide) :
    ServedFrom m st d (served m.fec s0) t (serve m act s0) := by
  have hndy : t.ndy = (served m.fec s0).ndy := ht .ndy (hps _ (by decide))
  have hout : t.out = (served m.fec s0).out := ht .out (hps _ (by decide))
  have hpkg : t.pkg = (served m.fec s0).pkg := ht .pkg (hps _ (by decide))
  have hruns : mgmtRuns t = true :=
    (mgmtRuns_congr hpkg (congrArg Ndy.phase hndy)).trans ((mgmtRuns_served m.fec s0).trans hrun)
  have hkeep : Unchanged [.ndy] t (keepAnswer m (mResponse m.frame st d) t) := setNdy_unchanged _ t
  have hsend := mgmtSend_unchanged (.mgmt m.mac m.ip (mResponse m.frame st d)) (keepAnswer m (mResponse m.frame st d) t)
  rw [serve_fresh hrun hfresh hact, if_pos hruns]
  refine ⟨⟨?_, ?_⟩, frameSent_mgmtSend (hkeep .reg (by decide)) _, hkeep.trans hsend (by decide) (by decide)⟩
  · rw [mgmtSend_out, hkeep .out (by decide), hout]
  · rw [hsend .ndy (by decide), ← hndy]
    rfl

end

/-! ## What each OP does -/

/-- A request and the state that its OP comes to. -/
theorem acts_of_ok {m : MgmtIn} {act : List Byte → State → MAns × State} {s t : State} {a : MAns} (hok : mFrameOk m.frame = true)
    (h : act m.frame s = (a, t)) : (if mFrameOk m.frame then act m.frame s else ((.badFrame, []), s)) = (a, t) := by rw [if_pos hok, h]

theorem mOp_of_opWf {m : MgmtIn} {op : Nat} (hop : op ≠ 1) (h : opWf op m = true) : mOp m.frame = op := by
  unfold opWf at h
  unfold mOp tabField
  split at h
  next b l hframe =>
    rw [if_neg hop] at h
    rw [hframe]
    simpa [leNat] using h
  next => exact absurd h Bool.false_ne_true

/-- A request that is no read brings the data that it says it brings. -/
theorem length_mData {f : List Byte} (hok : mFrameOk f = true) (hop : mOp f = 2) : (mData f).length = mLen f := by
  unfold mFrameOk at hok
  simp only [hop, Bool.and_eq_true, Bool.or_eq_true, decide_eq_true_eq] at hok
  unfold mData
  rw [List.length_drop]
  obtain ⟨⟨-, hlen | ⟨hread, -⟩⟩, -⟩ := hok
  · omega
  · simp at hread

/-- The one word of a request of four bytes. -/
theorem mWords_one {f : List Byte} (h : (mData f).length = 4) : mWords (mData f) = [BitVec.ofNat 32 (tabField f 24 4)] := by
  unfold mWords
  rw [h]
  rfl

/-- The low half of a word of a frame is the half that comes first. -/
theorem tabField_low (f : List Byte) (o : Nat) : tabField f o 4 % 65536 = tabField f o 2 := by
  unfold tabField
  match f.drop o with
  | [] => rfl
  | [a] => simp [leNat]; omega
  | [a, b] => simp [leNat]; omega
  | [a, b, c] => simp [leNat]; omega
  | a :: b :: c :: d :: l => simp [leNat]; omega

/-- A register request for one word of the register space meets no refusal before it. -/
theorem mRegRefusal_word {f : List Byte} {off : Nat} (haddr : mAddr f = regBase + off) (hoff : off < 0x0E000000) (halign : off % 4 = 0)
    (hlen : mLen f = 4) (s : State) : mRegRefusal f s = none := by
  have hbase : regBase = 0x020200000000 := rfl
  unfold mRegRefusal
  dsimp only
  rw [if_neg (by simp only [Bool.or_eq_true, decide_eq_true_eq]; omega),
    if_neg (by simp only [Bool.or_eq_true, decide_eq_true_eq, hlen]; omega)]

theorem reachRefusal_served (o : Origin) (a fec : Nat) (s : State) : reachRefusal o a (served fec s) = reachRefusal o a s := by
  have hs := served_unchanged fec s
  have hgate : (served fec s).gate = s.gate := hs .gate (by decide)
  have hpend : (served fec s).pend = s.pend := hs .pend (by decide)
  have hasleep : (served fec s).asleep = s.asleep := hs .asleep (by decide)
  unfold reachRefusal blockGated
  rw [hgate, hpend, hasleep]

/-- REG_READ of one word that reaches its register. -/
theorem mOther_read {f : List Byte} {off : Nat} {s : State} (hop : mOp f = 1) (hlen : mLen f = 4) (haddr : mAddr f = regBase + off)
    (hoff : off < 0x0E000000) (halign : off % 4 = 0) (href : reachRefusal .mgmt off s = none) :
    mOther f s = ((.ok, leBytes 4 (regValue off s).toNat), clearRc off s) := by
  have hread : accessReads .mgmt false 1 off s = (some [regValue off s], clearRc off s) := by
    unfold accessReads accessRead
    rw [href]
    rfl
  unfold mOther
  rw [if_pos hop]
  unfold mRegRead
  rw [mRegRefusal_word haddr hoff halign hlen, hlen, haddr, Nat.add_sub_cancel_left]
  dsimp only
  rw [hread]
  simp

theorem getReg_clearRc (off x : Nat) (s : State) :
    (clearRc off s).getReg x = if x = off ∧ (regRow off).any (·.isRc) = true then 0 else s.getReg x := by
  unfold clearRc
  split
  next r hr =>
    rw [hr, Option.any_some]
    cases r.isRc with
    | true => simpa using getReg_setReg s off x 0
    | false => simp
  next hr => simp [hr]

theorem clearRc_unchanged (off : Nat) (s : State) : Unchanged [.reg] s (clearRc off s) := unchanged_of_mask (by simp [pieces])

/-- REG_WRITE of one word, where it is served and reaches its register, whose write is `t`. -/
theorem mRegWrite_word {m : MgmtIn} {off : Nat} {s t : State} (hwf : opWf 2 m = true) (hok : mFrameOk m.frame = true)
    (hopen : s.ndy.phase = .ready ∨ off = rClk 0x10) (hlen : mLen m.frame = 4) (haddr : mAddr m.frame = regBase + off)
    (hoff : off < 0x0E000000) (halign : off % 4 = 0) (hplain : isPersistent off = false) (href : reachRefusal .mgmt off s = none)
    (hw : writeReg .mgmt off (BitVec.ofNat 32 (tabField m.frame 24 4)) false s = wrDone t) :
    mRegWrite m.frame s = ((.ok, []), tagNew flagMgmt s t) := by
  have hwords : mWords (mData m.frame) = [BitVec.ofNat 32 (tabField m.frame 24 4)] :=
    mWords_one ((length_mData hok (mOp_of_opWf (by decide) hwf)).trans hlen)
  have hwrite : accessWrites .mgmt off [BitVec.ofNat 32 (tabField m.frame 24 4)] s = (true, tagNew flagMgmt s t) := by
    unfold accessWrites accessWrite
    dsimp only
    rw [nvmOutcome_plain hplain]
    dsimp only
    rw [href, hw]
    exact ite_self _
  have hserved : ¬ (s.ndy.phase ≠ .ready && s.ndy.phase ≠ .failed && !(mAddr m.frame = regBase + rClk 0x10 && mLen m.frame = 4)) = true := by
    rcases hopen with hready | rfl
    · simp [hready]
    · simp [haddr, hlen]
  unfold mRegWrite
  rw [if_neg hserved, mRegRefusal_word haddr hoff halign hlen, haddr, Nat.add_sub_cancel_left, hwords]
  dsimp only
  rw [hwrite]

/-! ## The NVM -/

theorem mget_filter_key {α : Type} (p : Nat → Bool) (m : AMap α) (k : Nat) (d : α) :
    mget (m.filter (fun e => p e.1)) k d = if p k then mget m k d else d := by
  induction m with
  | nil => exact (ite_self _).symm
  | cons e r ih =>
    obtain ⟨j, v⟩ := e
    rw [List.filter_cons, mget]
    split
    next hj =>
      rw [mget, ih]
      split
      next h => rw [if_pos (h ▸ hj)]
      next h => rfl
    next hj =>
      rw [ih]
      by_cases h : j = k
      · rw [if_neg (h ▸ hj), if_neg (h ▸ hj)]
      · rw [if_neg h]

theorem nvmByte_nvmEraseRange (a n x : Nat) (s : State) :
    (nvmEraseRange a n s).nvmByte x = if a ≤ x ∧ x < a + n then erased else s.nvmByte x := by
  refine (mget_filter_key (fun j => !(a ≤ j && j < a + n)) s.nvm x erased).trans ?_
  by_cases h : a ≤ x ∧ x < a + n
  · rw [if_pos h, if_neg (by simp [h])]
  · rw [if_neg h, if_pos (by simp; omega)]
    rfl

theorem nvmEraseRange_unchanged (a n : Nat) (s : State) : Unchanged [.nvm] s (nvmEraseRange a n s) := unchanged_of_mask (by simp [pieces])

/-- One byte programmed. -/
theorem nvmByte_mput (s : State) (a x : Nat) (v : Byte) (free : Nat) :
    ({ s with nvm := mput s.nvm a v erased, free := free } : State).nvmByte x = if x = a then v else s.nvmByte x := by
  show mget (mput s.nvm a v erased) x erased = _
  split
  next h => rw [h, mget_mput, if_pos rfl]
  next h => exact mget_mput_ne _ (Ne.symm h) _ _ _

theorem nvmByte_nvmProgramBytes (l : List Byte) (a : Nat) (s : State) :
    (∀ i, i < l.length → s.nvmByte (a + i) = erased → (nvmProgramBytes a l s).nvmByte (a + i) = l.getD i 0)
      ∧ ∀ x, x < a ∨ a + l.length ≤ x → (nvmProgramBytes a l s).nvmByte x = s.nvmByte x := by
  induction l generalizing a s with
  | nil => exact ⟨fun i hi => absurd hi (Nat.not_lt_zero i), fun _ _ => rfl⟩
  | cons b r ih =>
    obtain ⟨hin, hout⟩ := ih (a + 1)
      { s with nvm := mput s.nvm a (if s.nvmByte a = erased then b else Config.freeByte s.free) erased, free := s.free + 1 }
    simp only [nvmByte_mput] at hin hout
    refine ⟨fun i hi herased => ?_, fun x hx => ?_⟩
    · cases i with
      | zero =>
        refine (hout a (.inl (Nat.lt_succ_self a))).trans ?_
        exact (if_pos rfl).trans (if_pos herased)
      | succ i =>
        have hnext := hin i (Nat.lt_of_succ_lt_succ hi)
        rw [if_neg (by omega), Nat.add_right_comm a 1 i] at hnext
        exact hnext herased
    · rw [List.length_cons] at hx
      exact (hout x (by omega)).trans (if_neg (by omega))

theorem nvmProgramBytes_unchanged (a : Nat) (l : List Byte) (s : State) : Unchanged [.nvm, .free] s (nvmProgramBytes a l s) :=
  unchanged_of_mask (by simp [pieces])

theorem nvmOpen_iff (s : State) : nvmOpen s = true ↔ s.ndy.phase = .ready ∨ s.ndy.phase = .failed := by simp [nvmOpen]

theorem nvmWritable_congr {s t : State} (hphase : t.ndy.phase = s.ndy.phase) (hslot : t.ndy.slot = s.ndy.slot) (a : Nat) :
    nvmWritable t a = nvmWritable s a := by
  unfold nvmWritable
  rw [hphase, hslot]

theorem slot_served (fec : Nat) (s : State) : (served fec s).ndy.slot = s.ndy.slot := by
  rw [served_ndy, (dutiesRun_dueDuties s).ndy]

/-- What the management port may change of the NVM is what it was when the request came. -/
theorem nvmWritable_served (fec a : Nat) (s : State) : nvmWritable (served fec s) a = nvmWritable s a :=
  nvmWritable_congr (served_kept fec s).2.1 (slot_served fec s) a

theorem nvmRangeOk_served (fec a n : Nat) (s : State) : nvmRangeOk (served fec s) a n = nvmRangeOk s a n := by
  unfold nvmRangeOk
  simp only [nvmWritable_served]

theorem nvmOpen_served (fec : Nat) (s : State) : nvmOpen (served fec s) = nvmOpen s := by
  unfold nvmOpen
  rw [(served_kept fec s).2.1]

/-- A sector lies in one area. -/
theorem nvmRangeOk_sector {a : Nat} (h : a % 65536 = 0) (s : State) : nvmRangeOk s a 65536 = nvmWritable s a := by
  have hone : (a + 65536 - 1) / 65536 - a / 65536 + 1 = 1 := by omega
  have hsame : (a / 65536 + 0) * 65536 = a := by omega
  unfold nvmRangeOk
  rw [hone]
  simpa using congrArg (nvmWritable s) hsame

/-! ## The device reset -/

theorem wholeReset_deviceReset (cause : BitVec 3) (s : State) (o : Out) :
    WholeReset (latchCause cause s) s ((deviceReset cause s).emit o) where
  cleared := unchanged_of_mask rfl
  kept p hp := by
    simp only [List.mem_cons, List.not_mem_nil, or_false] at hp
    rcases hp with rfl | rfl | rfl | rfl | rfl | rfl | rfl | rfl <;> rfl
  cause := rfl

theorem writeReg_devReset {v : Word} (hkey : v.toNat % 65536 = 0x5A5A) (o : Origin) (e : Bool) (s : State) :
    writeReg o (rClk 0x10) v e s = wrDone (deviceReset 3 s) := by
  obtain ⟨r, hr⟩ := writeReg_clk (o := 0x10) (by decide) (by decide)
  rw [hr]
  unfold writeClk
  rw [clk_offset (by decide)]
  dsimp only
  rw [if_pos rfl, writeDevReset, if_pos hkey]
  rfl

/-- The KEY of CLK[0]_DEV_RESET resets the device; nothing then waits at junction 3. -/
theorem mRegWrite_devReset {m : MgmtIn} {s : State} (hwf : opWf 2 m = true) (hok : mFrameOk m.frame = true) (hlen : mLen m.frame = 4)
    (haddr : mAddr m.frame = regBase + rClk 0x10) (hkey : tabField m.frame 24 2 = 0x5A5A) :
    mRegWrite m.frame s = ((.ok, []), deviceReset 3 s) := by
  have href : reachRefusal .mgmt (rClk 0x10) s = none := rfl
  have hword : (BitVec.ofNat 32 (tabField m.frame 24 4)).toNat % 65536 = 0x5A5A := by
    rw [BitVec.toNat_ofNat, Nat.mod_mod_of_dvd _ (by decide), tabField_low, hkey]
  exact mRegWrite_word hwf hok (.inr rfl) hlen haddr (by decide) (by decide) (by decide) href (writeReg_devReset hword ..)

/-! ## The obligation -/

/-- The six rows of Table 15-10, each with what its OP does. -/
theorem exec_request {m : MgmtIn} {c : Instr} (hc : c ∈ [Instr.regRead m, .regWrite m, .telemRead m, .nvmRead m, .nvmErase m, .nvmProgram m])
    (hwf : c.wf = true) (s : State) : ∃ act, exec c s = .next (serve m act s) := by
  simp only [List.mem_cons, List.not_mem_nil, or_false] at hc
  rcases hc with rfl | rfl | rfl | rfl | rfl | rfl <;> exact ⟨_, guarded_runs hwf _⟩

/-- The plain registers that the management port reaches. -/
theorem mgmtPlain_facts {off : Nat}
    (h : off ∈ [rDst 0x44, rDst 0x48, rDst 0x80, rDst 0x90, rNdy 0x14, rNdy 0x404, rWhl 8, rWhl 0xC, rWhl 0x1C, rWhl 0x30]) :
    off ∈ plainRegs ∧ (∀ s, reachRefusal .mgmt off s = none) ∧ off % 4 = 0 := by
  have hfacts : ∀ off ∈ [rDst 0x44, rDst 0x48, rDst 0x80, rDst 0x90, rNdy 0x14, rNdy 0x404, rWhl 8, rWhl 0xC, rWhl 0x1C, rWhl 0x30],
      off ∈ plainRegs ∧ off % 4 = 0 ∧ blockExists off = true ∧ mgmtReach off = true
        ∧ vecOfBlock (off / 16777216) (off / 65536 % 256) = none := by decide
  obtain ⟨hplain, halign, hexists, hmgmt, hvec⟩ := hfacts off h
  refine ⟨hplain, fun s => ?_, halign⟩
  have hgate : blockGated s off = false := by
    unfold blockGated
    rw [hvec]
  unfold reachRefusal
  rw [if_neg (by simp [halign]), if_neg (by simp [hexists, hmgmt]), if_neg (by simp [hgate])]

section

variable {m : MgmtIn} {s0 : State} (hask : Asked m s0)

include hask

theorem serve_asked {act : List Byte → State → MAns × State} {st : MStatus} {d : List Byte} {t : State} {ps : List Piece}
    (hact : act m.frame (served m.fec s0) = ((st, d), t)) (ht : Unchanged ps (served m.fec s0) t)
    (hps : ∀ p ∈ [Piece.ndy, .pkg, .out], p ∉ ps := by decide) : ServedFrom m st d (served m.fec s0) t (serve m act s0) :=
  serve_answers hask.runs hask.fresh (acts_of_ok hask.ok hact) ht hps

theorem regRead_served {off : Nat} (hwf : opWf 1 m = true) (hop : mOp m.frame = 1) (hlen : mLen m.frame = 4)
    (haddr : mAddr m.frame = regBase + off) (hoff : off < 0x0E000000) (halign : off % 4 = 0) (href : reachRefusal .mgmt off s0 = none) :
    ∃ t, exec (.regRead m) s0 = .next t ∧ Answered m .ok (leBytes 4 (regValue off (served m.fec s0)).toNat) (served m.fec s0) t
      ∧ (∀ x, x ≠ rPrt 20 0x40 → t.getReg x = if x = off ∧ (regRow off).any (·.isRc) = true then 0 else (served m.fec s0).getReg x)
      ∧ t.getReg (rPrt 20 0x40) = satAdd32 (if off = rPrt 20 0x40 then 0 else (served m.fec s0).getReg (rPrt 20 0x40)) 1
      ∧ Unchanged [.reg, .ndy, .out] (served m.fec s0) t := by
  have hact := mOther_read hop hlen haddr hoff halign ((reachRefusal_served .mgmt off m.fec s0).trans href)
  have hclear := clearRc_unchanged off (served m.fec s0)
  have hrow : (regRow (rPrt 20 0x40)).any (·.isRc) = true := by decide
  obtain ⟨hans, hsent, hrest⟩ := serve_asked hask hact hclear
  refine ⟨_, guarded_runs (i := .regRead m) hwf _, hans, fun x hx => ?_, ?_, hclear.trans hrest (by decide) (by decide)⟩
  · rw [hsent x, if_neg hx, getReg_clearRc]
  · rw [hsent _, if_pos rfl, getReg_clearRc]
    by_cases h : off = rPrt 20 0x40
    · rw [if_pos h, if_pos ⟨h.symm, h ▸ hrow⟩]
    · rw [if_neg h, if_neg (fun hboth => h hboth.1.symm)]

theorem regWrite_served {off : Nat} {r : RegRow} (hwf : opWf 2 m = true) (hready : s0.ndy.phase = .ready) (hlen : mLen m.frame = 4)
    (haddr : mAddr m.frame = regBase + off)
    (hoff : off ∈ [rDst 0x44, rDst 0x48, rDst 0x80, rDst 0x90, rNdy 0x14, rNdy 0x404, rWhl 8, rWhl 0xC, rWhl 0x1C, rWhl 0x30])
    (hrow : regRow off = some r) :
    ∃ t, exec (.regWrite m) s0 = .next t ∧ Answered m .ok [] (served m.fec s0) t
      ∧ FrameSent ((served m.fec s0).setReg off (BitVec.ofNat 32 (tabField m.frame 24 4) &&& r.mask (fun f => f = .rw))) t
      ∧ SameDistaff (served m.fec s0) t ∧ Unchanged [.reg, .ndy, .out, .dst] (served m.fec s0) t := by
  obtain ⟨hplain, hmgmt, halign⟩ : off ∈ plainRegs ∧ (∀ s, reachRefusal .mgmt off s = none) ∧ off % 4 = 0 := mgmtPlain_facts hoff
  obtain ⟨hlt, hpers, -⟩ := plainRegs_facts off hplain
  have hw := writeReg_plain hplain hrow .mgmt (BitVec.ofNat 32 (tabField m.frame 24 4)) false (served m.fec s0)
  have hact := mRegWrite_word hwf hask.ok (.inl ((served_kept m.fec s0).2.1.trans hready)) hlen haddr hlt halign hpers (hmgmt _) hw
  have htag := tagNew_unchanged flagMgmt (served m.fec s0)
    ((served m.fec s0).setReg off (BitVec.ofNat 32 (tabField m.frame 24 4) &&& r.mask (fun f => f = .rw)))
  have hset := (setReg_unchanged off (BitVec.ofNat 32 (tabField m.frame 24 4) &&& r.mask (fun f => f = .rw)) (served m.fec s0)).trans htag
    (n := [.reg, .dst]) (by decide) (by decide)
  obtain ⟨hans, hsent, hrest⟩ := serve_asked hask hact hset
  refine ⟨_, guarded_runs (i := .regWrite m) hwf _, hans, hsent.of_reg (htag .reg (by decide)), ?_, hset.trans hrest (by decide) (by decide)⟩
  have hdst : SameDistaff (served m.fec s0) (tagNew flagMgmt (served m.fec s0)
      ((served m.fec s0).setReg off (BitVec.ofNat 32 (tabField m.frame 24 4) &&& r.mask (fun f => f = .rw)))) := tagNew_sameDistaff rfl
  unfold SameDistaff at hdst ⊢
  rwa [hrest .dst (by decide)]

theorem devReset_served (hwf : opWf 2 m = true) (hlen : mLen m.frame = 4) (haddr : mAddr m.frame = regBase + rClk 0x10)
    (hkey : tabField m.frame 24 2 = 0x5A5A) :
    ∃ t, exec (.regWrite m) s0 = .next t ∧ WholeReset (latchCause 3 (served m.fec s0)) (served m.fec s0) t
      ∧ t.pkg = { (served m.fec s0).pkg with resetAt := some (served m.fec s0).wall }
      ∧ t.out = (served m.fec s0).out ++ [.mgmt m.mac m.ip (mResponse m.frame .ok [])] := by
  have hact := acts_of_ok hask.ok (mRegWrite_devReset (s := served m.fec s0) hwf hask.ok hlen haddr hkey)
  have hheld : mgmtRuns (deviceReset 3 (served m.fec s0)) = false := Bool.and_false _
  have hserve := serve_fresh hask.runs hask.fresh hact
  rw [hheld] at hserve
  exact ⟨_, (guarded_runs (i := .regWrite m) hwf _).trans (congrArg _ hserve), wholeReset_deviceReset .., rfl, State.emit_out ..⟩

theorem telemRead_served (hwf : opWf 3 m = true) :
    ∃ t, exec (.telemRead m) s0 = .next t
      ∧ Answered m .ok ((List.range (mLen m.frame)).map (fun i => Config.telemByte (served m.fec s0).ndy.frame (mAddr m.frame + i)))
        (served m.fec s0) t
      ∧ FrameSent (served m.fec s0) t ∧ Unchanged [.ndy, .reg, .out] (served m.fec s0) t := by
  obtain ⟨hans, hsent, hrest⟩ := serve_asked (act := mTelemRead) hask rfl (unchanged_rfl [] _)
  exact ⟨_, guarded_runs (i := .telemRead m) hwf _, hans, hsent, hrest⟩

/-- A request that is refused changes nothing but its answer. -/
theorem serve_refused {act : List Byte → State → MAns × State} (h : act m.frame (served m.fec s0) = ((.refused, []), served m.fec s0)) :
    Answered m .refused [] (served m.fec s0) (serve m act s0) ∧ FrameSent (served m.fec s0) (serve m act s0)
      ∧ Unchanged [.ndy, .reg, .out] (served m.fec s0) (serve m act s0) := by
  obtain ⟨hans, hsent, hrest⟩ := serve_asked hask h (unchanged_rfl [] _)
  exact ⟨hans, hsent, hrest⟩

theorem nvmRead_served (hwf : opWf 4 m = true) :
    (mAddr m.frame + mLen m.frame ≤ 0x4000000 →
      ∃ t, exec (.nvmRead m) s0 = .next t ∧ FrameSent (served m.fec s0) t ∧ Unchanged [.ndy, .reg, .out] (served m.fec s0) t
        ∧ Answered m .ok ((List.range (mLen m.frame)).map (fun i => (served m.fec s0).nvmByte (mAddr m.frame + i))) (served m.fec s0) t)
    ∧ (0x4000000 < mAddr m.frame + mLen m.frame →
      ∃ t, exec (.nvmRead m) s0 = .next t ∧ FrameSent (served m.fec s0) t ∧ Unchanged [.ndy, .reg, .out] (served m.fec s0) t
        ∧ Answered m .refused [] (served m.fec s0) t) := by
  refine ⟨fun hin => ?_, fun hout => ?_⟩
  · obtain ⟨hans, hsent, hrest⟩ := serve_asked (act := mNvmRead) hask (if_pos hin) (unchanged_rfl [] _)
    exact ⟨_, guarded_runs (i := .nvmRead m) hwf _, hsent, hrest, hans⟩
  · obtain ⟨hans, hsent, hrest⟩ := serve_refused (act := mNvmRead) hask (if_neg (Nat.not_le.mpr hout))
    exact ⟨_, guarded_runs (i := .nvmRead m) hwf _, hsent, hrest, hans⟩

theorem nvmErase_served (hwf : opWf 5 m = true) :
    ((s0.ndy.phase = .ready ∨ s0.ndy.phase = .failed) → mAddr m.frame % 65536 = 0 → nvmWritable s0 (mAddr m.frame) = true →
      ∃ t, exec (.nvmErase m) s0 = .next t ∧ Answered m .ok [] (served m.fec s0) t ∧ FrameSent (served m.fec s0) t
        ∧ Unchanged [.ndy, .nvm, .reg, .out] (served m.fec s0) t
        ∧ ∀ a, t.nvmByte a = if mAddr m.frame ≤ a ∧ a < mAddr m.frame + 65536 then 0xFF else (served m.fec s0).nvmByte a)
    ∧ ((s0.ndy.phase ≠ .ready ∧ s0.ndy.phase ≠ .failed) ∨ mAddr m.frame % 65536 ≠ 0 ∨ nvmWritable s0 (mAddr m.frame) = false →
      ∃ t, exec (.nvmErase m) s0 = .next t ∧ Answered m .refused [] (served m.fec s0) t ∧ FrameSent (served m.fec s0) t
        ∧ Unchanged [.ndy, .reg, .out] (served m.fec s0) t) := by
  have hopen := (congrArg (· = true) (nvmOpen_served m.fec s0)).to_iff.trans (nvmOpen_iff s0)
  refine ⟨fun hphase halign hwrite => ?_, fun hno => ?_⟩
  · have hrange := (nvmRangeOk_sector halign (served m.fec s0)).trans ((nvmWritable_served ..).trans hwrite)
    have hact : mNvmErase m.frame (served m.fec s0) = ((.ok, []), nvmEraseRange (mAddr m.frame) 65536 (served m.fec s0)) :=
      if_pos (by simp [hopen.mpr hphase, halign, hrange])
    have herase := nvmEraseRange_unchanged (mAddr m.frame) 65536 (served m.fec s0)
    obtain ⟨hans, hsent, hrest⟩ := serve_asked hask hact herase
    refine ⟨_, guarded_runs (i := .nvmErase m) hwf _, hans, hsent.of_reg (herase .reg (by decide)), herase.trans hrest (by decide) (by decide), fun a => ?_⟩
    exact (congrArg (mget · a erased) (hrest .nvm (by decide))).trans (nvmByte_nvmEraseRange ..)
  · have hact : mNvmErase m.frame (served m.fec s0) = ((.refused, []), served m.fec s0) := by
      refine if_neg fun hyes => ?_
      simp only [Bool.and_eq_true, decide_eq_true_eq] at hyes
      obtain ⟨⟨hyes, halign⟩, hrange⟩ := hyes
      rw [nvmRangeOk_sector halign, nvmWritable_served] at hrange
      rcases hno with ⟨hready, hfailed⟩ | hmis | hlocked
      · exact (hopen.mp hyes).elim hready hfailed
      · exact hmis halign
      · exact Bool.false_ne_true (hlocked.symm.trans hrange)
    obtain ⟨hans, hsent, hrest⟩ := serve_refused hask hact
    exact ⟨_, guarded_runs (i := .nvmErase m) hwf _, hans, hsent, hrest⟩

theorem nvmProgram_served (hwf : opWf 6 m = true) :
    ((s0.ndy.phase = .ready ∨ s0.ndy.phase = .failed) → nvmRangeOk s0 (mAddr m.frame) (mLen m.frame) = true →
      ∃ t, exec (.nvmProgram m) s0 = .next t ∧ Answered m .ok [] (served m.fec s0) t ∧ FrameSent (served m.fec s0) t
        ∧ Unchanged [.ndy, .nvm, .free, .reg, .out] (served m.fec s0) t
        ∧ (∀ i, i < (mData m.frame).length → (served m.fec s0).nvmByte (mAddr m.frame + i) = 0xFF →
            t.nvmByte (mAddr m.frame + i) = (mData m.frame).getD i 0)
        ∧ (∀ a, a < mAddr m.frame ∨ mAddr m.frame + (mData m.frame).length ≤ a → t.nvmByte a = (served m.fec s0).nvmByte a))
    ∧ ((s0.ndy.phase ≠ .ready ∧ s0.ndy.phase ≠ .failed) ∨ nvmRangeOk s0 (mAddr m.frame) (mLen m.frame) = false →
      ∃ t, exec (.nvmProgram m) s0 = .next t ∧ Answered m .refused [] (served m.fec s0) t ∧ FrameSent (served m.fec s0) t
        ∧ Unchanged [.ndy, .reg, .out] (served m.fec s0) t) := by
  have hopen := (congrArg (· = true) (nvmOpen_served m.fec s0)).to_iff.trans (nvmOpen_iff s0)
  refine ⟨fun hphase hrange => ?_, fun hno => ?_⟩
  · have hact : mNvmProgram m.frame (served m.fec s0)
        = ((.ok, []), nvmProgramBytes (mAddr m.frame) (mData m.frame) (served m.fec s0)) :=
      if_pos (by simp [hopen.mpr hphase, nvmRangeOk_served, hrange])
    have hprog := nvmProgramBytes_unchanged (mAddr m.frame) (mData m.frame) (served m.fec s0)
    obtain ⟨hans, hsent, hrest⟩ := serve_asked hask hact hprog
    obtain ⟨hin, hout⟩ := nvmByte_nvmProgramBytes (mData m.frame) (mAddr m.frame) (served m.fec s0)
    have hbyte (a : Nat) := congrArg (mget · a erased) (hrest .nvm (by decide))
    exact ⟨_, guarded_runs (i := .nvmProgram m) hwf _, hans, hsent.of_reg (hprog .reg (by decide)), hprog.trans hrest (by decide) (by decide),
      fun i hi herased => (hbyte _).trans (hin i hi herased), fun a ha => (hbyte a).trans (hout a ha)⟩
  · have hact : mNvmProgram m.frame (served m.fec s0) = ((.refused, []), served m.fec s0) := by
      refine if_neg fun hyes => ?_
      rw [Bool.and_eq_true, nvmRangeOk_served] at hyes
      obtain ⟨hyes, hrange⟩ := hyes
      rcases hno with ⟨hready, hfailed⟩ | hlocked
      · exact (hopen.mp hyes).elim hready hfailed
      · exact Bool.false_ne_true (hlocked.symm.trans hrange)
    obtain ⟨hans, hsent, hrest⟩ := serve_refused hask hact
    exact ⟨_, guarded_runs (i := .nvmProgram m) hwf _, hans, hsent, hrest⟩

end

/-- Settles O50: each request is served from the state that the duties and its frame leave, row by row. -/
theorem managementRequestsServed : Obligations.ManagementRequestsServed := by
  intro m s0 s hs
  obtain rfl : s = served m.fec s0 := hs
  refine ⟨dueDuties_idle, fun c r hc hwf hrun => ⟨fun htag => ?_, fun hfresh hbad => ?_⟩,
    fun off hwf hask hop hlen haddr hoff halign href => regRead_served hask hwf hop hlen haddr hoff halign href,
    fun off r hwf hask hready hlen haddr hoff hrow => regWrite_served hask hwf hready hlen haddr hoff hrow,
    fun hwf hask hlen haddr hkey => devReset_served hask hwf hlen haddr hkey, fun hwf hask => telemRead_served hask hwf,
    fun hwf hask => nvmRead_served hask hwf, fun hwf hask => nvmErase_served hask hwf, fun hwf hask => nvmProgram_served hask hwf⟩
  · obtain ⟨act, hexec⟩ := exec_request hc hwf s0
    rw [serve_stored hrun htag] at hexec
    exact ⟨_, hexec, mgmtSend_out .., frameSent_mgmtSend rfl _, mgmtSend_unchanged _ _⟩
  · obtain ⟨act, hexec⟩ := exec_request hc hwf s0
    obtain ⟨hans, hsent, hrest⟩ := serve_answers (act := act) hrun hfresh (if_neg (by simp [hbad])) (unchanged_rfl [] _)
    exact ⟨_, hexec, hans, hsent, hrest⟩

end Sys2Proof.Machine
end

section
/-! SUPPORT. Every step keeps the invariant `Sound`: the forms of the rows, and the rows that first look at the state. -/

namespace Sys2Proof.Machine

/-- Where the row's result is a next state, `Sound` passes to it from `s`. -/
structure KeepsSound (s : State) (r : Res) : Prop where
  next : Sound s → ∀ t, r = .next t → Sound t

section
variable {i : Instr} {s t : State}

theorem KeepsSound.ofNext (h : Sound s → Sound t) : KeepsSound s (.next t) :=
  ⟨fun hs _ heq => next_inj heq ▸ h hs⟩

theorem KeepsSound.ofGuarded (h : Sound s → Sound t) : KeepsSound s (guarded i t) :=
  ⟨fun hs _ heq => guarded_next heq ▸ h hs⟩

theorem KeepsSound.ofNextIf {p : Prop} [Decidable p] (h : Sound s → Sound t) : KeepsSound s (.next (if p then t else s)) :=
  .ofNext fun hs => sound_ite (h hs) hs

theorem KeepsSound.ofGuardedIf {p : Prop} [Decidable p] (h : Sound s → Sound t) : KeepsSound s (guarded i (if p then t else s)) :=
  .ofGuarded fun hs => sound_ite (h hs) hs

theorem KeepsSound.ofSched {b : Bobbin} {op : Nat} {f : Issued → State → State}
    (h : ∀ j t, Sound t → Sound (f j t)) : KeepsSound s (runSched b op f s) := by
  refine ⟨fun hs t heq => ?_⟩
  obtain rfl | ⟨j, -, rfl⟩ := runSched_next heq
  · exact hs
  · exact h j _ (dropSched_sound _ _ hs)

theorem KeepsSound.ofSpdm {r : Asker} {f : State → Spdm × State} (h : ∀ t, Sound t → Sound (f t).2) :
    KeepsSound s (spdm r f s) := by
  refine ⟨fun hs t heq => ?_⟩
  obtain rfl | rfl := spdm_next heq
  · exact hs
  · exact mgmtSend_sound _ _ (h _ (mgmtFrame_sound _ _ (dueDuties_sound _ hs)))

theorem KeepsSound.ofChecked {c : Prop} [Decidable c] {r : Res} {e : Fault} (h : KeepsSound s r) :
    KeepsSound s (if c then r else .fault e) := by
  refine ⟨fun hs t heq => ?_⟩
  split at heq
  · exact h.next hs t heq
  · cases heq

end

theorem ite_sound {p : Prop} [Decidable p] {s t : State} (hs : Sound s) (h : Sound s → Sound t) : Sound (if p then t else s) := by
  split
  · exact h hs
  · exact hs

theorem damages_sound (hits : List Hit) {s : State} (hs : Sound s) : Sound (hits.foldl (fun s h => damageDst h s) s) :=
  sound_foldl (fun t h => damageDst_sound h t) hits s hs

theorem takeIn_sound {n k : Nat} {ing : Ingress} {hits : List Hit} {s s1 : State} (h : takeIn n k ing hits s = some s1)
    (hs : Sound s) : Sound s1 := by
  rw [takeIn_some h]
  exact noteHits_sound _ _ _ (ingress_sound _ _ _ _ hs)


theorem answerWrite_sound {n : Nat} {f : State → State} {r : Bool × State} (h : ∀ t, Sound t → Sound (f t)) (hr : Sound r.2) :
    Sound (answerWrite n f r) := by
  unfold answerWrite
  split
  · exact h _ hr
  · exact reply_sound _ _ _ hr

/-! ## SPDM's rows -/

section
variable (r : Asker) (s : State)

theorem getVersion_keepsSound : KeepsSound s (execGetVersion s r) := .ofSpdm (by simp +contextual)

theorem getCapabilities_keepsSound : KeepsSound s (execGetCapabilities s r) := .ofSpdm fun _ h => h

theorem negotiateAlgorithms_keepsSound : KeepsSound s (execNegotiateAlgorithms s r) := .ofSpdm fun _ h => h

theorem getDigests_keepsSound : KeepsSound s (execGetDigests s r) := .ofSpdm fun _ h => h

theorem getCertificate_keepsSound (slot : BitVec 8) (offset len : BitVec 16) :
    KeepsSound s (execGetCertificate slot offset len s r) := .ofSpdm fun _ h => h

theorem spdmUnsupportedRequest_keepsSound (code : Byte) : KeepsSound s (execSpdmUnsupportedRequest code s r) := .ofSpdm fun _ h => h

end

/-! ## Rows that first look at the state -/

section
variable (s : State)

theorem release_keepsSound (b : Bobbin) : KeepsSound s (execRelease b s) := by
  unfold execRelease
  dsimp only
  split
  · split
    · exact .ofNext fun hs => complete_sound _ _ (releaseTag_sound _ _ (State.setBob_sound _ _ _ hs))
    · exact .ofNext id
  · exact .ofNext id

theorem imageStart_keepsSound (b : Bobbin) : KeepsSound s (execImageStart b s) := by
  unfold execImageStart
  split
  · exact .ofSched fun _ _ => holdLoad_sound _ _
  · exact .ofNext id

theorem imageUnload_keepsSound : KeepsSound s (execImageUnload s) := by
  unfold execImageUnload
  dsimp only
  split
  · split
    · refine .ofNext fun hs => nextLoad_sound _ (sound_ite ?_ ?_)
      · exact State.addReport_sound _ _ (faultCharged_sound _ _ _ _ hs)
      · exact complete_sound _ _ (unloadCtx_sound _ _ hs)
    · exact .ofNext id
  · exact .ofNext id

theorem imageLoadComplete_keepsSound : KeepsSound s (execImageLoadComplete s) := by
  unfold execImageLoadComplete
  dsimp only
  split
  · split
    · refine .ofNext fun hs => nextLoad_sound _ ?_
      split <;> simp [hs]
    · exact .ofNext id
  · exact .ofNext id

theorem fetchBurst_keepsSound : KeepsSound s (execFetchBurst s) := by
  unfold execFetchBurst
  split
  · split
    · exact .ofNext fun hs => State.count_sound _ _ _ (sound_set_fetchTurns (State.setBob_sound _ _ _ hs))
    · exact .ofNext id
  · exact .ofNext id

theorem burstArrival_keepsSound (b : Bobbin) (hits : List Hit) : KeepsSound s (execBurstArrival b hits s) := by
  unfold execBurstArrival
  dsimp only
  split
  · exact .ofNext id
  · split
    · exact .ofNext fun hs => clearStruck_sound _ (arrive_sound _ _ _ _ (touchReads_sound _ _ _ _
        (noteHits_sound _ _ _ (State.setBob_sound _ _ _ hs))))
    · exact .ofNext id

theorem agePromotion_keepsSound (b : Bobbin) : KeepsSound s (execAgePromotion b s) := by
  unfold execAgePromotion
  dsimp only
  repeat' split
  case isTrue => exact .ofNext (setHead_sound _ _ _)
  all_goals exact .ofNext id

theorem runSizeResolve_keepsSound (b : Bobbin) : KeepsSound s (execRunSizeResolve b s) := by
  unfold execRunSizeResolve
  dsimp only
  repeat' split
  case isTrue => exact .ofNext (resolveHead_sound _ _ _ _)
  all_goals exact .ofNext id

theorem spareSwapTimeout_keepsSound : KeepsSound s (execSpareSwapTimeout s) := by
  unfold execSpareSwapTimeout
  split
  · exact .ofNext fun hs => ite_sound hs (swapSpare_sound _)
  · exact .ofNext id

theorem watchdogExpiry_keepsSound (b : Bobbin) : KeepsSound s (execWatchdogExpiry b s) := by
  unfold execWatchdogExpiry
  dsimp only
  repeat' split
  case isTrue => exact .ofNext fun hs => setHead_sound _ _ _ (State.count_sound _ _ _ (faultCharged_sound _ _ _ _ hs))
  all_goals exact .ofNext id

theorem readyIncrement_keepsSound (k : BitVec 5) : KeepsSound s (execReadyIncrement k s) := by
  unfold execReadyIncrement
  dsimp only
  split
  · split
    · exact .ofNext fun hs => State.incBarrier_sound _ _ (sound_set_crds hs)
    · exact .ofNext id
  · exact .ofNext id

theorem fetchComplete_keepsSound (k : BitVec 5) (gid : BitVec 20) (data : List MByte) (ing : Ingress) :
    KeepsSound s (execFetchComplete k gid data s ing) := by
  refine .ofNext fun hs => ?_
  split
  · next f _ =>
    refine ite_sound hs fun hs => ?_
    have hi := ingress_sound (f.qpn.getD 0) (packetsOf (s.qp (f.qpn.getD 0)) data.length) ing s hs
    dsimp only
    generalize ingress _ _ _ _ = x at hi ⊢
    obtain ⟨t, _ | _⟩ := x
    · exact hi
    · exact landFetch_sound _ _ _ _ (noteArrival_sound _ _ _ (dropOp_sound _ _ _ hi))
  · exact hs

theorem writeBackComplete_keepsSound (k : BitVec 5) (gid : BitVec 20) (ing : Ingress) :
    KeepsSound s (execWriteBackComplete k gid s ing) := by
  refine .ofNext fun hs => ?_
  split
  · next f _ =>
    refine ite_sound hs fun hs => ?_
    have hi := ingress_sound (f.qpn.getD 0) 1 ing s hs
    generalize ingress _ _ _ _ = x at hi ⊢
    obtain ⟨t, _ | _⟩ := x
    · exact hi
    · exact doneWriteBack_sound _ _ _ (dropOp_sound _ _ _ hi)
  · exact hs

theorem nakReceived_keepsSound (qpn : BitVec 16) (kind : NakKind) (ing : Ingress) : KeepsSound s (execNakReceived qpn kind s ing) := by
  refine .ofNext fun hs => ite_sound hs fun hs => ?_
  have hi := ingress_sound qpn.toNat 1 ing s hs
  generalize ingress _ _ _ _ = x at hi ⊢
  obtain ⟨t, _ | _⟩ := x
  · exact hi
  · cases kind with
    | other => exact qpError_sound _ _ _ hi
    | rnr => exact sound_ite (retransmit_sound _ _ (State.setQp_sound _ _ _ hi)) (qpError_sound _ _ _ hi)

theorem acknowledgement_keepsSound (qpn : BitVec 16) (ing : Ingress) : KeepsSound s (execAcknowledgement qpn s ing) := by
  refine .ofNext fun hs => ite_sound hs fun hs => ?_
  split
  · refine answered_sound _ _ _ _ (fun t ht => plyResume_sound _ ?_) hs
    split
    · exact plyAcked_sound _ _ ht
    · exact ht
  · refine answered_sound _ _ _ _ (fun t ht => plyResume_sound _ ?_) hs
    split
    · exact doneWriteBack_sound _ _ _ ht
    · exact ht
  · exact hs

theorem rdmaWrite_keepsSound (qpn : BitVec 16) (rkey : Word) (a : Addr) (data : List Byte) (ing : Ingress) (hits : List Hit) :
    KeepsSound s (execRdmaWrite qpn rkey a data ing hits s) := by
  unfold execRdmaWrite
  dsimp only
  split
  · exact .ofNext (turnedAway_sound _ _ _ _)
  · next h =>
    exact .ofNext fun hs => endRequest_sound _ _ _
      (answerWrite_sound (fun _ => acceptReq_sound _ _ _ _) (performWrite_sound _ _ _ _ _ (takeIn_sound h hs)))

theorem rdmaWriteImm_keepsSound (qpn : BitVec 16) (rkey : Word) (a : Addr) (data : List Byte) (imm : Word) (ing : Ingress)
    (hits : List Hit) : KeepsSound s (execRdmaWriteImm qpn rkey a data imm ing hits s) := by
  unfold execRdmaWriteImm
  dsimp only
  split
  · exact .ofNext (turnedAway_sound _ _ _ _)
  · next h =>
    exact .ofNext fun hs => endRequest_sound _ _ _ (answerWrite_sound (fun _ ht => ite_sound ht (presentImm_sound _ _ _ _))
      (performWrite_sound _ _ _ _ _ (takeIn_sound h hs)))

theorem rdmaRead_keepsSound (qpn : BitVec 16) (rkey : Word) (a : Addr) (len : Nat) (ing : Ingress) (hits : List Hit) :
    KeepsSound s (execRdmaRead qpn rkey a len ing hits s) := by
  unfold execRdmaRead
  dsimp only
  split
  · exact .ofNext (turnedAway_sound _ _ _ _)
  · next h =>
    refine .ofNext fun hs => endRequest_sound _ _ _ ?_
    have ht := touchRegion_sound rkey _ (takeIn_sound h hs)
    exact sound_ite (sendRead_sound _ _ _ _ _ ht) (reply_sound _ _ _ ht)

theorem fetchAndAdd_keepsSound (qpn : BitVec 16) (rkey : Word) (a : Addr) (operand : BitVec 64) (ing : Ingress) (hits : List Hit) :
    KeepsSound s (execFetchAndAdd qpn rkey a operand ing s hits) := by
  unfold execFetchAndAdd
  dsimp only
  split
  · exact .ofNext (turnedAway_sound _ _ _ _)
  · next s1 h =>
    refine .ofNext fun hs => endRequest_sound _ _ _ ?_
    have ht := touchRegion_sound rkey _ (takeIn_sound h hs)
    refine sound_ite (reply_sound _ _ _ ht) (sound_ite (reply_sound _ _ _ ht) ?_)
    have ha := atomicAdd_sound (originFlags (qpOrigin (touchRegion rkey s1) qpn.toNat)) a.toNat operand _ ht
    generalize atomicAdd _ _ _ _ = x at ha ⊢
    obtain ⟨_ | old, t⟩ := x
    · exact reply_sound _ _ _ ha
    · exact acceptReq_sound _ _ _ _ ha

theorem faultMessage_keepsSound (hits : List Hit) : KeepsSound s (execFaultMessage s hits) :=
  .ofNext fun hs => ite_sound hs fun hs => acceptNext_sound _ (damages_sound hits hs)

theorem rcCounterRead_keepsSound (o : Origin) (a : Addr) : KeepsSound s (execRcCounterRead o a s) := by
  refine .ofGuarded fun hs => ite_sound hs fun hs => ?_
  have hr := accessRead_sound o false (a.toNat - regBase) s hs
  generalize accessRead _ _ _ _ = x at hr ⊢
  obtain ⟨_ | v, t⟩ := x
  · exact hr
  · exact State.emit_sound _ _ hr

theorem bootFail_keepsSound : KeepsSound s (execBootFail s) :=
  .ofNext fun hs => ite_sound hs fun hs => sendNotice_sound _ (setNdy_sound _ _ ⟨hs.mem, hs.nvm, hs.queues, hs.tick, hs.cyc⟩)

theorem nextHopAnswer_keepsSound (mac : BitVec 48) (fec : Nat) : KeepsSound s (execNextHopAnswer mac s fec) := by
  refine .ofNext fun hs => sound_ite hs ?_
  have ht := mgmtFrame_sound fec s hs
  dsimp only
  split
  · exact sound_ite (mgmtSend_sound _ _ (setNdy_sound _ _ ht)) (setNdy_sound _ _ ht)
  · exact ht

theorem cpyPermute_keepsSound (k : BitVec 5) (hits : List Hit) : KeepsSound s (execCpyPermute k hits s) :=
  .ofNext fun hs => ite_sound hs fun hs =>
    clearStruck_sound _ (accept_sound _ _ _ _ _ _ (by simp +contextual) (noteHits_sound _ _ _ hs))

end

/-- Every row keeps `Sound`: each by its form, the rows that first look at the state by a lemma of their own. -/
theorem exec_keepsSound (c : Instr) (s : State) : KeepsSound s (exec c s) := by
  cases c with
  | nop _ => exact .ofSched fun _ _ => complete_sound _ _
  | barrierSet _ => exact .ofSched fun _ _ h => complete_sound _ _ (State.setBarrier_sound _ _ _ h)
  | phaseClose _ => exact .ofSched fun _ _ => phaseCloseRun_sound _ _
  | getVersion _ => exact getVersion_keepsSound ..
  | getCapabilities _ => exact getCapabilities_keepsSound ..
  | negotiateAlgorithms _ => exact negotiateAlgorithms_keepsSound ..
  | getDigests _ => exact getDigests_keepsSound ..
  | getCertificate _ _ _ _ => exact getCertificate_keepsSound ..
  | spdmUnsupportedRequest code r => exact spdmUnsupportedRequest_keepsSound r s code
  | chunkGet _ _ _ => exact .ofSpdm fun _ => chunkOf_sound _ _ _
  | vendorDefinedRequest _ _ _ _ => exact .ofSpdm fun _ => vendorRequest_sound _ _ _ _
  | challenge _ _ _ => exact .ofChecked (.ofSpdm fun _ => challenge_sound _ _ _)
  | getMeasurements _ _ _ _ => exact .ofChecked (.ofSpdm fun _ => measurements_sound _ _ _ _)
  | qpLoad _ _ | qpCmdError _ _ | qpReset _ _ | qpRearm _ _ | dstStatusClear _ _ | evrBaseWrite _ _ _
  | evrCfgWrite _ _ | kindCfgWrite _ _ _ | retire _ _ _ _ | returnFromRepair _ _ _ _ | gateWrite _ _ _
  | sleepWrite _ _ _ | unitReset _ _ _ | issueWrite _ _ | runSet _ _ _ | runClr _ _ _ | spareWrite _ _ | devReset _ _
  | fmStart _ _ | tabDataWrite _ _ => exact .ofNext (regWrite_sound _ _ _ _ _)
  | dbProdWrite _ _ | dbCqHeadWrite _ _ | enable _ | disable _ => exact .ofNext (hostDoorbell_sound _ _ _ _)
  | indDataWrite _ | ctxReset _ | trnDataWrite _ => exact .ofNext (hostBob_sound _ _ _)
  | journalEnable _ | arm _ | resume _ => exact .ofNextIf (hostBob_sound _ _ _)
  | fuseProgram _ _ | fuseRevoke _ _ => exact .ofNextIf (regWrite_sound _ _ _ _ _)
  | flyNormFwd _ _ | flyNormBwd _ _ | flyNormPgrad _ _ | flySmaxMerge _ _ | flySmaxFwd _ _ | flySmaxBwd _ _
  | flyStatsFree _ => exact .ofNext (flyCommand_sound _ _ _ _)
  | reduce m | prescaleUp m | prescaleDown m | sum m | gather m | verdictUp m | verdictDown m | barrier m
  | fetchNote m | wbNote m | replayHold m | echoReq m | echoRsp m => exact .ofGuarded (arriveSend_sound m s)
  | strayMessage m => exact .ofGuarded (i := .strayMessage m) (arriveSend_sound m s)
  | regRead _ | regWrite _ | nvmErase _ | nvmProgram _ => exact .ofGuarded (serve_sound _ _ _ (by simp +contextual))
  | spnStage _ _ | spnMma _ _ | crdGather _ _ | crdScatter _ _ | crdSpmm _ _ | expSelect _ _ | expFanout _ _
  | expDispatch _ _ | expAssign _ _ | expCombine _ _ | expPrefetch _ _ | trnLscale _ _ | optAdamw _ _ | optSgdm _ _ =>
    exact .ofNext (withHits_sound _ _ _ _ _ fun _ => accept_sound _ _ _ _ _ _ (by simp +contextual))
  | spnSlotDiscard _ => exact .ofNext (accept_sound _ _ _ _ _ _ (by simp +contextual))
  | plyReduce _ | plyGather _ | plyVerdict | plyBarrier | plyOrtho _ | plyLrSeed =>
    exact .ofNext (acceptPly_sound _ _ _ _ _ (by simp +contextual))
  | scrubGranule _ _ => exact .ofGuardedIf fun hs => scrubGranule_sound _ _ (applyUpsets_sound _ _ hs)
  | skeinRead _ _ _ _ =>
    exact .ofGuardedIf fun hs => State.emit_sound _ _ (demandRead_sound _ _ _ _ _ (applyUpsets_sound _ _ hs))
  | skeinWrite _ _ _ => exact .ofGuardedIf fun hs => State.emit_sound _ _ (writeBytes_sound _ _ _ _ hs)
  | linkUp _ =>
    exact .ofGuardedIf fun hs => plyResume_sound _ (retransmitPort_sound _ _ (State.setPrt_sound _ _ _ hs))
  | whorlPeriod _ =>
    exact .ofGuardedIf fun hs => sound_ite (thermalTrip_sound _ hs)
      (sound_ite (keepSample_sound _ _ hs) (evaluate_sound _ _ _ (keepSample_sound _ _ hs)))
  | pfcXon _ _ _ =>
    exact .ofGuardedIf fun hs => plyResume_sound _ (pumpPort_sound _ _ (setPause_sound _ _ _ _ _
      (sound_ite hs (pfcFrame_sound _ _ hs))))
  | pfcXoffRepeat _ _ _ =>
    exact .ofGuardedIf fun hs => sound_ite (ite_sound hs (sendPfc_sound _ _ _ _)) (watchIngress_sound _ _ _ _ hs)
  | fenceWrite _ _ _ _ _ | linkDown _ _ | telemRead _ | nvmRead _ | sleepEntry _ | unitResetDone _ | thermtripRelease _
  | retiredSleep _ | rwpWrite _ _ _ _ | registerWrite _ _ _ | smbOtherCommand _ =>
    refine .ofGuarded ?_
    simp +contextual
  | unsupportedFrame n f =>
    refine .ofGuarded fun hs => ?_
    have hrx := rxFrames_sound n.toNat 1 s hs
    repeat' split
    all_goals simp [hs, hrx]
  | engineCompletion _ | pfcXoff _ _ | pfcStorm _ _ | wake _ =>
    refine .ofGuarded fun hs => ?_
    repeat' split
    all_goals simp [hs]
  | cnp _ => exact .ofNextIf fun hs => State.setQp_sound _ _ _ (rxFrames_sound _ _ _ hs)
  | ackTimeout _ =>
    exact .ofNextIf fun hs => sound_ite (retransmit_sound _ _ (State.setQp_sound _ _ _ hs)) (qpError_sound _ _ _ hs)
  | arpRequest _ _ _ _ _ =>
    refine .ofNext fun hs => sound_ite hs ?_
    exact ite_sound (mgmtFrame_sound _ _ hs) (mgmtSend_sound _ _)
  | smbBlockRead => exact .ofNextIf fun hs => State.emit_sound _ _ (smbRead_sound _ hs)
  | resetPin => exact .ofNext fun hs => sound_ite hs (setPkg_sound _ _ (ite_sound hs (deviceReset_sound _ _)))
  | powerOn => exact .ofNextIf fun hs => setPower_sound _ _ (deviceReset_sound _ _ hs)
  | powerDown | powerTrip _ =>
    exact .ofNextIf fun hs => setPower_sound _ _ (setPkg_sound _ _ (deviceReset_sound _ _ hs))
  | flowLow => exact .ofNextIf fun hs => faultParam_sound _ _ _ _ (sound_set_whl hs)
  | lifeDaysTick => exact .ofNext fun hs => dayDuty_sound _ (ite_sound hs (telemetryDuty_sound _))
  | telemetryCopy => exact .ofNext (telemetryDuty_sound _)
  | fuseDone => exact .ofNext (endFuse_sound _)
  | extest | clamp | highz => exact .ofNext (driveTap_sound _ _)
  | bypass | samplePreload => exact .ofNext (loadTap_sound _ _)
  | testReset | resetPinRelease => exact .ofNext (setPkg_sound _ _)
  | driftWindow _ => exact .ofNext (driftEnd_sound _ _)
  | regulatorRestart =>
    refine .ofNext fun hs => ?_
    repeat' split
    all_goals simp [hs]
  | fmDone _ => exact .ofNext fun hs => sound_ite hs (fmEnd_sound _ _ hs)
  | flowRestored => exact .ofNextIf sound_set_whl
  | bootReady => exact .ofNextIf fun hs => bootReady_sound _ (endFilling_sound _ (endTraining_sound _ hs))
  | dispatch _ => exact .ofNextIf (dispatchBob_sound _ _)
  | bucketLeak _ => exact .ofNextIf (leakBuckets_sound _ _)
  | ccPeriod _ => exact .ofNextIf (State.setQp_sound _ _ _)
  | noticeTimeout => exact .ofNextIf (setNdy_sound _ _)
  | smbSetOffset _ => exact .ofNextIf fun hs => State.emit_sound _ _ (setNdy_sound _ _ hs)
  | smbAlertResponse => exact .ofNextIf (State.emit_sound _ _)
  | idcode => exact .ofNextIf fun hs => State.emit_sound _ _ (loadTap_sound _ _ hs)
  | clockMonitorReset => exact .ofNextIf (deviceReset_sound _ _)
  | vrFault _ => exact .ofNextIf (faultParam_sound _ _ _ _)
  | bootStart _ => exact .ofNextIf (bootStart_sound _ _)
  | clockStabilityWindow _ => exact .ofNextIf (judgeWindow_sound _ _)
  | coreReferencePresent => exact .ofNextIf (startClocks_sound _ _)
  | plyWatchExpiry _ =>
    refine .ofNext fun hs => ?_
    split
    · exact hs
    · exact ite_sound hs fun hs => plyAbandon_sound _ _ (State.count_sound _ _ _ (plyFault_sound _ _ _ hs))
  | fetchStart _ | fetchTimeout _ _ =>
    refine .ofNext fun hs => ?_
    repeat' split
    all_goals simp [hs]
  | release _ => exact release_keepsSound ..
  | imageStart _ => exact imageStart_keepsSound ..
  | imageUnload => exact imageUnload_keepsSound _
  | imageLoadComplete => exact imageLoadComplete_keepsSound _
  | fetchBurst => exact fetchBurst_keepsSound _
  | burstArrival _ _ => exact burstArrival_keepsSound ..
  | agePromotion _ => exact agePromotion_keepsSound ..
  | runSizeResolve _ => exact runSizeResolve_keepsSound ..
  | spareSwapTimeout => exact spareSwapTimeout_keepsSound _
  | watchdogExpiry _ => exact watchdogExpiry_keepsSound ..
  | readyIncrement _ => exact readyIncrement_keepsSound ..
  | fetchComplete _ _ _ _ => exact fetchComplete_keepsSound ..
  | writeBackComplete _ _ _ => exact writeBackComplete_keepsSound ..
  | nakReceived _ _ _ => exact nakReceived_keepsSound ..
  | acknowledgement _ _ => exact acknowledgement_keepsSound ..
  | rdmaWrite _ _ _ _ _ _ => exact rdmaWrite_keepsSound ..
  | rdmaWriteImm _ _ _ _ _ _ _ => exact rdmaWriteImm_keepsSound ..
  | rdmaRead _ _ _ _ _ _ => exact rdmaRead_keepsSound ..
  | fetchAndAdd _ _ _ _ _ _ => exact fetchAndAdd_keepsSound ..
  | faultMessage _ => exact faultMessage_keepsSound ..
  | rcCounterRead _ _ => exact rcCounterRead_keepsSound ..
  | bootFail => exact bootFail_keepsSound _
  | nextHopAnswer _ _ => exact nextHopAnswer_keepsSound ..
  | cpyPermute _ _ => exact cpyPermute_keepsSound ..

/-- Settles O60: a command by what its row keeps, an empty queue by what the tick keeps. -/
theorem stepKeepsSound : Obligations.StepKeepsSound := by
  intro s t hs hstep
  unfold step at hstep
  split at hstep
  · exact next_inj hstep ▸ managementTick_sound s hs
  · next c r _ => exact (exec_keepsSound c _).next (sound_set_pending hs) t hstep

end Sys2Proof.Machine
end

section
/-! SUPPORT. The SMBus target and the TAP (R469, R470): what each answers, and what it leaves. -/

namespace Sys2Proof.Machine

/-! ## Reads over SMBus -/

/-- The reach of an SMBus read: NDY, DST, WHL and CLK. -/
theorem smbReach_iff (a : Nat) : smbReach a = true ↔ 6 ≤ a / 16777216 ∧ a / 16777216 ≤ 9 ∧ a / 65536 % 256 = 0 := by
  simp [smbReach, and_assoc]

/-- A read in reach that its register answers clears nothing. -/
theorem smbRead_answered {s : State} (hreach : smbReach s.ndy.smb.toNat = true) (href : reachRefusal .niddy s.ndy.smb.toNat s = none) :
    smbRead s = (0 :: leBytes 4 (regValue s.ndy.smb.toNat s).toNat, s) := by
  have hread : accessRead .niddy true s.ndy.smb.toNat s = (some (regValue s.ndy.smb.toNat s), s) := by
    unfold accessRead
    rw [href]
    rfl
  unfold smbRead
  dsimp only
  rw [hreach, hread]
  rfl

/-- A read out of reach: status 3 and four bytes that the spec leaves open, and ACCESS_MAP is sent (R395). -/
theorem smbRead_outOfReach {s : State} (hreach : smbReach s.ndy.smb.toNat = false) :
    ∃ t d, smbRead s = (3 :: d, t) ∧ d.length = 4 ∧ t.out = s.out
      ∧ Sent { source := srcNdy, kind := kACCESS_MAP, flags := 0, addr := BitVec.ofNat 48 (regBase + s.ndy.smb.toNat) } none s t
      ∧ Unchanged [.dst, .seqs, .free] s t := by
  let m : Msg := { source := srcNdy, kind := kACCESS_MAP, flags := 0, addr := BitVec.ofNat 48 (regBase + s.ndy.smb.toNat) }
  have hsend := sendMsg_unchanged m none s
  have hfree := useFree_unchanged 4 (sendMsg m none s)
  refine ⟨useFree 4 (sendMsg m none s), openBytes 4 (sendMsg m none s), ?_, List.length_map .., hsend .out (by decide), sent_sendMsg m s,
    hsend.trans hfree (by decide) (by decide)⟩
  unfold smbRead
  dsimp only
  rw [hreach]
  rfl

/-! ## The TAP -/

theorem setPkg_unchanged (f : Pkg → Pkg) (s : State) : Unchanged [.pkg] s (setPkg f s) := unchanged_of_mask (by simp [pieces])

theorem loadTap_powered {s : State} (h : mgmtPower s = true) (t : Tap) : loadTap t s = setPkg (fun p => { p with tap := t }) s := if_pos h

/-- An instruction loads where VMGMT and VIO are up, and nothing else changes. -/
theorem loadTap_leaves {s : State} (h : mgmtPower s = true) (t : Tap) :
    (loadTap t s).pkg = { s.pkg with tap := t } ∧ Unchanged [.pkg] s (loadTap t s) := by
  rw [loadTap_powered h]
  exact ⟨rfl, setPkg_unchanged _ s⟩

/-! ## The obligation -/

theorem mgmtPower_of {s : State} (h : s.pkg.power = .on ∨ s.pkg.power = .thermal) : mgmtPower s = true := by
  simpa [mgmtPower] using h

/-- What a row does where VMGMT and VIO are up, it does. -/
theorem next_of_mgmtPower {s t : State} (h : mgmtPower s = true) : (.next (if mgmtPower s then t else s) : Res) = .next t :=
  congrArg _ (if_pos h)

/-- Settles O52. -/
theorem smbusAndJtagAnswer : Obligations.SmbusAndJtagAnswer := by
  intro s
  refine ⟨fun hpower => ?_, ⟨_, rfl, rfl, setPkg_unchanged _ s⟩⟩
  have hup := mgmtPower_of hpower
  refine ⟨fun v => ?_, ?_, ?_, fun code h10 h11 => ?_, fun halert => ?_, ?_, ?_, ?_, ?_⟩
  · exact ⟨_, next_of_mgmtPower hup, rfl, rfl, (setNdy_unchanged _ s).trans (emit_unchanged _ _) (by decide) (by decide)⟩
  · rintro _ rfl hreach href
    refine (next_of_mgmtPower hup).trans ?_
    rw [smbRead_answered ((smbReach_iff _).mpr hreach) href]
  · rintro _ rfl hreach
    obtain ⟨t, d, hread, hlen, hout, hsent, hrest⟩ :=
      smbRead_outOfReach (Bool.eq_false_of_not_eq_true (mt (smbReach_iff _).mp hreach))
    refine ⟨t.emit (.smbData (3 :: d)), d, (next_of_mgmtPower hup).trans ?_, ?_, hlen, hsent,
      hrest.trans (emit_unchanged t _) (by decide) (by decide)⟩
    · rw [hread]
    · exact congrArg (· ++ [Out.smbData (3 :: d)]) hout
  · have hwf : (Instr.smbOtherCommand code).wf = true := (Laws.WellFormed.smbOtherCommand code).mpr ⟨h10, h11⟩
    exact (guarded_runs hwf _).trans (congrArg _ (if_pos hup))
  · exact congrArg _ (if_pos (by simpa [hup, smbAlert] using halert))
  · exact ⟨_, rfl, loadTap_leaves hup .bypass⟩
  · exact ⟨_, rfl, loadTap_leaves hup .sample⟩
  · obtain ⟨hpkg, hrest⟩ := loadTap_leaves hup .idcode
    refine ⟨_, next_of_mgmtPower hup, hpkg, ?_, hrest.trans (emit_unchanged _ _) (by decide) (by decide)⟩
    exact congrArg (· ++ [Out.idcode idcodeValue]) (hrest .out (by decide))
  · intro c p hc
    have hdrive := loadTap_leaves hup (if s.pkg.resetLow then p else .bypass)
    simp only [List.mem_cons, Prod.mk.injEq, List.not_mem_nil, or_false] at hc
    rcases hc with ⟨rfl, rfl⟩ | ⟨rfl, rfl⟩ | ⟨rfl, rfl⟩ <;> exact ⟨_, rfl, hdrive⟩

end Sys2Proof.Machine
end

section
/-! SUPPORT. Units that sleep, wake, end a reset or retire (R391, R408, R409, R462), place by place; the frequency meter and the drift
monitor (R413, R414). -/

namespace Sys2Proof.Machine

/-! ## Epochs -/

theorem epoch_bumpEpoch (s : State) (u x : Nat) :
    (s.bumpEpoch u).epoch x = if s.ready = true ∧ u = x then s.epoch x + 1 else s.epoch x := by
  unfold State.bumpEpoch
  cases s.ready
  · simp
  · by_cases h : u = x
    · subst h
      simp [State.epoch]
    · simp [State.epoch, h]

theorem epoch_bumpVec (v : Nat) (s : State) (x : Nat) :
    (bumpVec v s).epoch x = if s.ready = true ∧ epochOfVec s v = some x then s.epoch x + 1 else s.epoch x := by
  unfold bumpVec
  split
  · next u hu => simp [epoch_bumpEpoch, hu]
  · next hu => simp [hu]

theorem bumpVec_unchanged (v : Nat) (s : State) : Unchanged [.epochs] s (bumpVec v s) := unchanged_of_mask (by simp [pieces])

theorem clearUnit_unchanged (v : Nat) (s : State) : Unchanged [.reg, .skn, .spn, .fly, .qps, .prts, .crds] s (clearUnit v s) :=
  unchanged_of_mask (by simp [pieces])

/-! ## Sleep (R408, R409) -/

theorem getLsbD_setBit_true (x : BitVec 128) (v : Nat) {u : Nat} (hu : u < 128) :
    (setBit x v true).getLsbD u = (decide (u = v) || x.getLsbD u) := by
  rw [getLsbD_setBit _ _ _ _ hu]
  by_cases h : u = v <;> simp [h]

theorem getLsbD_setBit_false (x : BitVec 128) (v : Nat) {u : Nat} (hu : u < 128) :
    (setBit x v false).getLsbD u = (decide (u ≠ v) && x.getLsbD u) := by
  rw [getLsbD_setBit _ _ _ _ hu]
  by_cases h : u = v <;> simp [h]

theorem enterSleep_asleep (v : Nat) (s : State) : (enterSleep v s).asleep = setBit s.asleep v true := by
  have hclear : (enterSleep v s).asleep = setBit (bumpVec v s).asleep v true := clearUnit_unchanged v _ .asleep (by decide)
  have hbump : (bumpVec v s).asleep = s.asleep := bumpVec_unchanged v s .asleep (by decide)
  rw [hclear, hbump]

theorem enterSleep_pend (v : Nat) (s : State) : (enterSleep v s).pend = setBit s.pend v false := by
  have hclear : (enterSleep v s).pend = setBit (bumpVec v s).pend v false := clearUnit_unchanged v _ .pend (by decide)
  have hbump : (bumpVec v s).pend = s.pend := bumpVec_unchanged v s .pend (by decide)
  rw [hclear, hbump]

theorem epoch_enterSleep (v : Nat) (s : State) (x : Nat) : (enterSleep v s).epoch x = (bumpVec v s).epoch x :=
  congrArg (mget · x 0) (clearUnit_unchanged v _ .epochs (by decide))

theorem enterSleep_unchanged (v : Nat) (s : State) :
    Unchanged [.reg, .skn, .pend, .asleep, .epochs, .spn, .fly, .qps, .prts, .crds] s (enterSleep v s) :=
  unchanged_of_mask (by simp [pieces])

theorem returnFromSleep_unchanged (v : Nat) (s : State) : Unchanged [.free, .reg, .mem, .errs, .skn, .dst, .pend, .asleep, .wakeAt, .epochs,
    .reports, .seqs, .spn, .fly, .qps, .prts, .crds, .ply] s (returnFromSleep v s) :=
  unchanged_of_mask (by simp [pieces])

theorem applyReset_unchanged (v : Nat) (s : State) : Unchanged [.free, .reg, .mem, .errs, .skn, .dst, .pend, .epochs, .reports, .seqs, .spn,
    .fly, .qps, .prts, .crds, .ply] s (applyReset v s) :=
  unchanged_of_mask (by simp [pieces])

/-- The unit at `v`, its power back, with its epoch risen and its state cleared; a reset asked for has yet to be applied. -/
def awoken (v : Nat) (s : State) : State :=
  clearUnit v (bumpVec v { s with asleep := setBit s.asleep v false, wakeAt := mdel s.wakeAt v })

theorem returnFromSleep_eq (v : Nat) (s : State) :
    returnFromSleep v s = if (awoken v s).rstBusy.getLsbD v then applyReset v (awoken v s) else awoken v s := rfl

theorem awoken_keeps (v : Nat) (s : State) : Unchanged [.reg, .skn, .spn, .fly, .qps, .prts, .crds, .epochs]
    { s with asleep := setBit s.asleep v false, wakeAt := mdel s.wakeAt v } (awoken v s) :=
  (bumpVec_unchanged v _).trans (clearUnit_unchanged v _) (by decide) (by decide)

theorem epoch_awoken (v : Nat) (s : State) (x : Nat) :
    (awoken v s).epoch x = if s.ready = true ∧ epochOfVec s v = some x then s.epoch x + 1 else s.epoch x := by
  have hclear : (awoken v s).epoch x = _ := congrArg (mget · x 0) (clearUnit_unchanged v _ .epochs (by decide))
  exact hclear.trans (epoch_bumpVec v _ x)

/-- A unit that wakes is no longer asleep nor due to wake. -/
theorem returnFromSleep_wakes (v : Nat) (s : State) :
    (returnFromSleep v s).asleep = setBit s.asleep v false ∧ (returnFromSleep v s).wakeAt = mdel s.wakeAt v := by
  have hasleep : (awoken v s).asleep = setBit s.asleep v false := awoken_keeps v s .asleep (by decide)
  have hwake : (awoken v s).wakeAt = mdel s.wakeAt v := awoken_keeps v s .wakeAt (by decide)
  rw [returnFromSleep_eq]
  split
  · have hreset := applyReset_unchanged v (awoken v s)
    exact ⟨Eq.trans (hreset .asleep (by decide)) hasleep, Eq.trans (hreset .wakeAt (by decide)) hwake⟩
  · exact ⟨hasleep, hwake⟩

theorem returnFromSleep_unreset {v : Nat} {s : State} (h : s.rstBusy.getLsbD v = false) : returnFromSleep v s = awoken v s := by
  have hbusy : (awoken v s).rstBusy = s.rstBusy := awoken_keeps v s .rstBusy (by decide)
  rw [returnFromSleep_eq, hbusy, h]
  rfl

/-! ## Retirement (R389 to R391) -/

theorem gateOff_gate (v : Nat) (s : State) {u : Nat} (hu : u < 128) :
    (gateOff v s).gate.getLsbD u = (decide (u ≠ v) && s.gate.getLsbD u) := by
  have h := congrArg Prod.fst (gateOff_seen v u s hu)
  rw [apply_ite Prod.fst] at h
  refine h.trans ?_
  by_cases hv : u = v <;> simp [hv, gateSeen]

theorem noteRetired_unchanged (v : Nat) (s : State) : Unchanged [.whl] s (noteRetired v s) := unchanged_of_mask (by simp [pieces])

theorem requestSpare_unchanged (p : Nat) (s : State) : Unchanged [.dst, .seqs, .spareReq] s (requestSpare p s) :=
  unchanged_of_mask (by simp [pieces])

theorem dropLink_unchanged (n : Nat) (s : State) : Unchanged [.prts] s (dropLink n s) := unchanged_of_mask (by simp [pieces])

/-- Beside the gate, RETIRE asks for the spare or takes a link down. -/
theorem retireEffect_afterGate (v : Nat) (s : State) :
    Unchanged [.dst, .seqs, .spareReq, .prts] (gateOff v (noteRetired v s)) (retireEffect v s) := by
  unfold retireEffect
  dsimp only
  split
  · split
    · exact (requestSpare_unchanged _ _).mono (by decide)
    · exact unchanged_rfl _ _
  · split
    · exact (dropLink_unchanged _ _).mono (by decide)
    · exact unchanged_rfl _ _

theorem retireEffect_unchanged (v : Nat) (s : State) : Unchanged [.dst, .gate, .pend, .spareReq, .seqs, .prts, .whl] s (retireEffect v s) :=
  unchanged_of_mask (by simp [pieces])

/-- RETIRE closes the unit's gate and no other. -/
theorem retireEffect_gate (v : Nat) (s : State) {u : Nat} (hu : u < 128) :
    (retireEffect v s).gate.getLsbD u = (decide (u ≠ v) && s.gate.getLsbD u) := by
  have hgate : (retireEffect v s).gate = _ := retireEffect_afterGate v s .gate (by decide)
  have hnote : (noteRetired v s).gate = s.gate := noteRetired_unchanged v s .gate (by decide)
  rw [hgate, gateOff_gate _ _ hu, hnote]

theorem markRetired_unchanged (v : Nat) (s : State) : Unchanged [.free, .dst, .seqs, .rwp, .wear, .nvm, .ndy] s (markRetired v s) :=
  unchanged_of_mask (by simp [pieces])

/-! ## The end of a reset (R391, R409) -/

theorem resetDone_unchanged (v : Nat) (s : State) : Unchanged [.free, .dst, .gate, .pend, .rstBusy, .spareReq, .seqs, .rwp, .wear,
    .retireWait, .prts, .nvm, .ndy, .whl] s (resetDone v s) :=
  unchanged_of_mask (by simp [pieces])

/-- The unit at `v` after its reset, with no retirement waiting. -/
def resetOver (v : Nat) (s : State) : State :=
  { s with rstBusy := setBit s.rstBusy v false, retireWait := setBit s.retireWait v false }

/-- The retired bit that has waited for the end of a reset is set, where it is not yet. -/
def retireMarked (v : Nat) (s : State) : State := if isRetired s v then s else markRetired v s

theorem retireMarked_unchanged (v : Nat) (s : State) : Unchanged [.free, .dst, .seqs, .rwp, .wear, .nvm, .ndy] s (retireMarked v s) := by
  unfold retireMarked
  split
  · exact unchanged_rfl _ _
  · exact markRetired_unchanged v s

theorem resetDone_waited {v : Nat} {s : State} (h : s.retireWait.getLsbD v = true) :
    resetDone v s = retireEffect v (retireMarked v (resetOver v s)) := if_pos h

theorem resetDone_plain {v : Nat} {s : State} (h : s.retireWait.getLsbD v = false) :
    resetDone v s = { s with rstBusy := setBit s.rstBusy v false } := if_neg (Bool.eq_false_iff.mp h)

theorem resetDone_bits (v : Nat) (s : State) (hv : v < 128) :
    (resetDone v s).rstBusy = setBit s.rstBusy v false ∧ (resetDone v s).retireWait.getLsbD v = false
      ∧ ∀ x, x < 128 → (resetDone v s).gate.getLsbD x = (s.gate.getLsbD x && !(decide (x = v) && s.retireWait.getLsbD v)) := by
  cases h : s.retireWait.getLsbD v with
  | false =>
    rw [resetDone_plain h]
    exact ⟨rfl, h, by simp⟩
  | true =>
    rw [resetDone_waited h]
    have hmark := retireMarked_unchanged v (resetOver v s)
    have heff := retireEffect_unchanged v (retireMarked v (resetOver v s))
    have hwait : (retireEffect v (retireMarked v (resetOver v s))).retireWait = setBit s.retireWait v false :=
      Eq.trans (heff .retireWait (by decide)) (hmark .retireWait (by decide))
    have hgate : (retireMarked v (resetOver v s)).gate = s.gate := hmark .gate (by decide)
    refine ⟨Eq.trans (heff .rstBusy (by decide)) (hmark .rstBusy (by decide)), ?_, fun x hx => ?_⟩
    · rw [hwait, getLsbD_setBit _ _ _ _ hv, if_pos rfl]
    · rw [retireEffect_gate _ _ hx, hgate, Bool.and_true, Bool.and_comm, decide_not]

/-! ## RETIRED_SLEEP (R462) -/

theorem sleepOn_unchanged (v : Nat) (s : State) : Unchanged [.sleepReq, .pend] s (sleepOn v s) := unchanged_of_mask (by simp [pieces])

/-! ## The frequency meter and the drift monitor (R413, R414) -/

theorem fmEnd_running {s : State} (h : s.fmRun = true) (n : Nat) :
    fmEnd n s = { s with fmRun := false, fmDone := true, fmResult := BitVec.ofNat 32 (min n 4294967295) } := if_pos h

/-- What a window of the monitor should count: domain 1 or domain 2. -/
def driftExpect (s : State) : Nat := if s.driftOdd then 204800 else 130744

/-- The window's count is taken, and the next window counts the other domain. -/
def driftTaken (n : Nat) (s : State) : State := { s with driftOdd := !s.driftOdd, monLast := BitVec.ofNat 32 (min n 4294967295) }

theorem driftTaken_unchanged (n : Nat) (s : State) : Unchanged [.driftOdd, .monLast] s (driftTaken n s) :=
  unchanged_of_mask ((mask_set_monLast (s := { s with driftOdd := !s.driftOdd }) rfl).trans (mask_set_driftOdd rfl))

/-- By how much the count of a window is off. -/
def driftOff (n : Nat) (s : State) : Nat := (n - driftExpect s) + (driftExpect s - n)

theorem driftEnd_eq {s : State} (h : s.clocksOn = true) (n : Nat) :
    driftEnd n s = if driftExpect s * ((s.getReg (rClk 0x510)).toNat % 65536) < driftOff n s * 1000000 then
        (faultParam srcNdy kCLK_DRIFT (if s.driftOdd then 1 else 2) (driftTaken n s)).count (rClk 0x518) 1
      else driftTaken n s := by
  have hoff : (if driftExpect s ≤ n then n - driftExpect s else driftExpect s - n) = driftOff n s := by
    unfold driftOff
    split <;> omega
  rw [← hoff]
  exact if_pos h

theorem driftEnd_unchanged (n : Nat) (s : State) : Unchanged [.driftOdd, .monLast, .dst, .seqs, .reg] s (driftEnd n s) :=
  unchanged_of_mask (by simp [pieces])

/-- Every window takes its count and alternates the domain. -/
theorem driftEnd_takes {s : State} (h : s.clocksOn = true) (n : Nat) :
    (driftEnd n s).driftOdd = !s.driftOdd ∧ (driftEnd n s).monLast = BitVec.ofNat 32 (min n 4294967295) := by
  rw [driftEnd_eq h]
  split
  · have hcount := count_unchanged (rClk 0x518) 1 (faultParam srcNdy kCLK_DRIFT (if s.driftOdd then 1 else 2) (driftTaken n s))
    have hsend : Unchanged [.dst, .seqs] (driftTaken n s) (faultParam srcNdy kCLK_DRIFT (if s.driftOdd then 1 else 2) (driftTaken n s)) :=
      sendMsg_unchanged _ none _
    exact ⟨Eq.trans (hcount .driftOdd (by decide)) (hsend .driftOdd (by decide)),
      Eq.trans (hcount .monLast (by decide)) (hsend .monLast (by decide))⟩
  · exact ⟨rfl, rfl⟩

/-- A window whose count is off by more than DRIFT_PPM sends CLK_DRIFT with its domain. -/
theorem driftEnd_sends {s : State} {n : Nat} (h : s.clocksOn = true)
    (hoff : driftExpect s * ((s.getReg (rClk 0x510)).toNat % 65536) < driftOff n s * 1000000) :
    Sent { source := srcNdy, kind := kCLK_DRIFT, flags := flagParam, addr := if s.driftOdd then 1 else 2 } none s (driftEnd n s) := by
  have haddr : (if s.driftOdd then 1 else 2 : Addr) = BitVec.ofNat 48 (if s.driftOdd then 1 else 2) := by split <;> rfl
  rw [driftEnd_eq h, if_pos hoff, haddr]
  unfold Sent
  rw [show (State.count _ _ _).dst = _ from count_unchanged (rClk 0x518) 1 _ .dst (by decide)]
  exact sent_sendMsg _ (driftTaken n s)

theorem driftEnd_within {s : State} {n : Nat} (h : s.clocksOn = true)
    (hoff : driftOff n s * 1000000 ≤ driftExpect s * ((s.getReg (rClk 0x510)).toNat % 65536)) : driftEnd n s = driftTaken n s := by
  rw [driftEnd_eq h, if_neg (by omega)]

/-! ## The obligation -/

/-- Settles O43. -/
theorem stopsWakesAndMeasures : Obligations.StopsWakesAndMeasures := by
  intro s
  refine ⟨fun u hwf hsleep hready hreq hawake hbusy hidle => ?_, fun u w hwf hw hasleep hdue => ?_, fun u hwf hbusy hawake => ?_,
    fun u hwf hready hret hsleep hdue => ?_, fun n hrun hphase => ?_, fun n hclocks => ?_⟩
  · have hexec : exec (.sleepEntry u) s = .next (enterSleep u.toNat s) :=
      (guarded_runs hwf _).trans (congrArg _ (if_pos (by simp [*])))
    refine ⟨_, hexec, enterSleep_unchanged _ s, fun x hx => ?_, ?_, fun x => ?_⟩
    · rw [enterSleep_asleep, getLsbD_setBit_true _ _ hx]
    · rw [enterSleep_pend, getLsbD_setBit_false _ _ u.isLt]
      simp
    · simp [epoch_enterSleep, epoch_bumpVec, hready]
  · have hexec : exec (.wake u) s = .next (returnFromSleep u.toNat s) := by
      refine (guarded_runs hwf _).trans (congrArg _ ?_)
      rw [hw]
      exact if_pos (by simp [hasleep, wakeTicks, hdue])
    obtain ⟨hset, hwake⟩ := returnFromSleep_wakes u.toNat s
    refine ⟨_, hexec, returnFromSleep_unchanged _ s, fun x hx => ?_, ?_, fun hrst x => ?_⟩
    · rw [hset, getLsbD_setBit_false _ _ hx]
    · rw [hwake, mfind_mdel, if_pos rfl]
    · rw [returnFromSleep_unreset hrst, epoch_awoken]
  · have hexec : exec (.unitResetDone u) s = .next (resetDone u.toNat s) :=
      (guarded_runs hwf _).trans (congrArg _ (if_pos (by simp [*])))
    obtain ⟨hrst, hwait, hgate⟩ := resetDone_bits u.toNat s u.isLt
    refine ⟨_, hexec, resetDone_unchanged _ s, fun x hx => ?_, hgate, hwait⟩
    rw [hrst, getLsbD_setBit_false _ _ hx]
  · have hexec : exec (.retiredSleep u) s = .next (sleepOn u.toNat s) := by
      have hwait : (match mfind s.whl.retiredAt u.toNat with
          | some w => decide (w + retiredTicks ≤ s.wall)
          | none => true) = true := by
        split
        · next w hw => exact decide_eq_true (hdue w hw)
        · rfl
      refine (guarded_runs hwf _).trans (congrArg _ (if_pos ?_))
      rw [hready, hret, hsleep]
      exact hwait
    refine ⟨_, hexec, sleepOn_unchanged _ s, fun x hx => ?_⟩
    rw [sleepOn_req _ _ _ hx]
    by_cases h : x = u.toNat <;> simp [h]
  · refine ⟨fmEnd n s, congrArg Host.Outcome.next (if_neg hphase), ?_⟩
    rw [fmEnd_running hrun]
    exact ⟨rfl, rfl, rfl, unchanged_of_mask (fmEnd_running hrun n ▸ fmEnd_mask n s rfl rfl rfl)⟩
  · obtain ⟨hodd, hlast⟩ := driftEnd_takes hclocks n
    exact ⟨_, rfl, hodd, hlast, driftEnd_unchanged n s, driftEnd_sends hclocks,
      fun hoff => driftEnd_within hclocks hoff ▸ driftTaken_unchanged n s⟩

end Sys2Proof.Machine
end

section
/-! SUPPORT. The message that FAULT_MESSAGE takes (R381 to R394): what it leaves of the distaff as it is numbered, classified, latched and
logged, and what each action then does. -/

namespace Sys2Proof.Machine

/-! ## What reports of skein memory leave of the distaff -/

/-- From `s` to `t` messages have joined the queues of junction 3, none of them charged, and nothing else of the distaff has changed. -/
structure OnlyMessages (s t : State) : Prop where
  rest : ∃ qs ds, t.dst = { s.dst with queues := qs, dropped := ds }
  seqs : t.seqs = s.seqs
  joined : ∀ k, mget s.dst.queues k [] <+: mget t.dst.queues k []

theorem OnlyMessages.of_same {s t : State} (hdst : t.dst = s.dst) (hseqs : t.seqs = s.seqs) : OnlyMessages s t :=
  ⟨⟨_, _, hdst⟩, hseqs, fun k => by rw [hdst]⟩

theorem OnlyMessages.of_unchanged {l : List Piece} {s t : State} (h : Unchanged l s t) (hdst : Piece.dst ∉ l) (hseqs : Piece.seqs ∉ l) :
    OnlyMessages s t :=
  .of_same (h .dst hdst) (h .seqs hseqs)

theorem OnlyMessages.trans {s t u : State} (h : OnlyMessages s t) (k : OnlyMessages t u) : OnlyMessages s u := by
  obtain ⟨qs, ds, hrest⟩ := h.rest
  obtain ⟨qs', ds', hrest'⟩ := k.rest
  exact ⟨⟨qs', ds', by rw [hrest', hrest]⟩, k.seqs.trans h.seqs, fun n => (h.joined n).trans (k.joined n)⟩

theorem onlyMessages_foldl_fst {α β : Type} {f : State × β → α → State × β} (h : ∀ a x, OnlyMessages a.1 (f a x).1) {a : State × β}
    (l : List α) : OnlyMessages a.1 (l.foldl f a).1 := by
  induction l generalizing a with
  | nil => exact .of_same rfl rfl
  | cons x r ih => exact (h a x).trans ih

theorem onlyMessages_sendMsg (m : Msg) (s : State) : OnlyMessages s (sendMsg m none s) := by
  obtain ⟨hq, -, hother⟩ := sent_sendMsg m s
  refine ⟨?_, ?_, fun k => ?_⟩
  · unfold sendMsg
    dsimp only
    split <;> exact ⟨_, _, rfl⟩
  · unfold sendMsg
    dsimp only
    split <;> rfl
  · by_cases hk : k = m.source.toNat
    · rw [hk, hq]
      split
      · exact List.prefix_append _ _
      · exact List.prefix_rfl
    · rw [(hother k hk).1]

theorem onlyMessages_faultAddr (source : BitVec 16) (kind : Byte) (a : Nat) (s : State) : OnlyMessages s (faultAddr source kind a s) :=
  onlyMessages_sendMsg ..

theorem onlyMessages_count (a n : Nat) (s : State) : OnlyMessages s (s.count a n) :=
  .of_unchanged (count_unchanged a n s) (by decide) (by decide)

theorem onlyMessages_errorResponse (who : BitVec 16) (f : Byte) (a : Nat) (kind : Byte) (s : State) :
    OnlyMessages s (errorResponse who f a kind s) := by
  unfold errorResponse
  split
  · exact (onlyMessages_count ..).trans (onlyMessages_sendMsg ..)
  · exact onlyMessages_sendMsg ..

theorem onlyMessages_correctable (k sec : Nat) (s : State) : OnlyMessages s (correctable k sec s) := by
  refine (onlyMessages_count (rSkn k 0x04) 1 s).trans ?_
  unfold correctable bucketAdd
  extract_lets sk from_ level full up sk1
  have hset (t : State) : OnlyMessages t (t.setSkein k sk1) := .of_same rfl rfl
  split
  · exact ((hset _).trans (onlyMessages_faultAddr ..)).trans (onlyMessages_count ..)
  · exact hset _

theorem onlyMessages_uncorrectable (kind : Byte) (k sec : Nat) (s : State) : OnlyMessages s (uncorrectable kind k sec s) :=
  ((onlyMessages_count (rSkn k 0x08) 1 s).trans (.of_same (State.setSkein_dst ..) rfl)).trans (onlyMessages_sendMsg ..)

theorem onlyMessages_storeSector (a sec : Nat) (bs ps : List Byte) (s : State) : OnlyMessages s ((s.setBytes a bs).writeErr sec ps) := by
  have h : Unchanged [.mem, .errs] s ((s.setBytes a bs).writeErr sec ps) := unchanged_of_mask (by simp [pieces])
  exact .of_unchanged h (by decide) (by decide)

theorem onlyMessages_writeSector (who : BitVec 16) (f : Byte) (sec : Nat) (slots : List (Option MByte)) (s : State) :
    OnlyMessages s (writeSector who f sec slots s).1 := by
  unfold writeSector
  dsimp only
  split
  · exact onlyMessages_errorResponse ..
  · split
    · exact onlyMessages_storeSector ..
    · have hcount := onlyMessages_count (rSkn (sknOf (sec * 32)) 0x10) 1 s
      split
      · exact hcount.trans (onlyMessages_storeSector ..)
      · exact (hcount.trans (onlyMessages_correctable ..)).trans (onlyMessages_storeSector ..)
      · exact hcount.trans (onlyMessages_storeSector ..)
      · exact (hcount.trans (onlyMessages_uncorrectable ..)).trans (onlyMessages_storeSector ..)

theorem onlyMessages_writeBytes (who : BitVec 16) (f : Byte) (ws : List (Nat × MByte)) (s : State) :
    OnlyMessages s (writeBytes who f ws s).1 := by
  unfold writeBytes
  refine onlyMessages_foldl_fst (a := (s, [])) (fun a g => ?_) _
  exact onlyMessages_writeSector who f g.1 g.2 a.1

/-- A parity error in the log or the counting table changes that entry, and sends a message (R388). -/
theorem damageDst_dst (h : Hit) (s : State) :
    ∃ qs ds lg ct, (damageDst h s).dst = { s.dst with queues := qs, dropped := ds, log := lg, ctab := ct } := by
  obtain ⟨qs, ds, hsend⟩ := (onlyMessages_faultAddr srcDst kPARITY 0 s).rest
  unfold damageDst
  dsimp only
  split
  · exact ⟨qs, ds, mput s.dst.log (h.at_ % 4096) 0 0, s.dst.ctab, by dsimp only; rw [hsend]⟩
  · exact ⟨qs, ds, s.dst.log, mdel s.dst.ctab (h.at_ % ctabSize), by dsimp only; rw [hsend]⟩

/-! ## Numbering, classifying, latching, logging (R381, R384 to R387) -/

/-- What parity errors leave of the distaff: its queues, its log and its counting table may differ, and nothing else (R388). -/
structure OnlyDamaged (s t : State) : Prop where
  rest : ∃ qs ds lg ct, t.dst = { s.dst with queues := qs, dropped := ds, log := lg, ctab := ct }
  frame : Unchanged [.dst, .seqs] s t

theorem onlyDamaged_damages (hits : List Hit) (s : State) : OnlyDamaged s (hits.foldl (fun s h => damageDst h s) s) := by
  induction hits generalizing s with
  | nil => exact ⟨⟨_, _, _, _, rfl⟩, unchanged_rfl _ s⟩
  | cons h hits ih =>
    obtain ⟨⟨qs, ds, lg, ct, hrest⟩, hframe⟩ := ih (damageDst h s)
    obtain ⟨qs', ds', lg', ct', hdamage⟩ := damageDst_dst h s
    have hone : Unchanged [.dst, .seqs] s (damageDst h s) := unchanged_of_mask (by simp [pieces])
    exact ⟨⟨qs, ds, lg, ct, hrest.trans (by rw [hdamage])⟩, hone.trans hframe (by decide) (by decide)⟩

/-- The message is classified, and the severe ones are counted. -/
def msgClassified (m : Msg) (s : State) : State :=
  if (classifyMsg m s).1 then (setStatus 32 (classifyMsg m s).2).count (rDst 0x24) 1 else (classifyMsg m s).2

/-- The action in force for the message, and whether it is a fallback (R389, R390). -/
def msgAction (m : Msg) (s : State) : BitVec 3 × Bool :=
  settleAction m.source (if (classifyMsg m s).1 then (kindCfg (msgClassified m s) m.kind).actSevere
    else (kindCfg (msgClassified m s) m.kind).actNormal)

/-- The message as the log and the event ring hold it. -/
def msgRecorded (m : Msg) (s : State) : Msg := if (classifyMsg m s).1 then { m with flags := m.flags ||| flagSevere } else m

/-- The message, with its number, is classified, latched and logged. -/
def msgNoted (seq : Word) (m : Msg) (s : State) : State :=
  logMsg (logRecord seq (msgRecorded m s) (msgClassified m s).tick (msgAction m s).1 (msgAction m s).2 false)
    (latchMsg seq m (msgClassified m s))

/-- What becomes of a noted message by its action. -/
def msgActed (a : BitVec 3) (m : Msg) (post : State → State) (s : State) : State :=
  if a = actResetDevice then deviceReset 1 (writeResetRecord m s)
  else if a = actLog then applyAction a m s else post (applyAction a m s)

theorem acceptMsg_ready {q : QMsg} {s : State} (h : s.ready = true) :
    acceptMsg q s = msgActed (msgAction q.msg (msgNumbered q s)).1 q.msg
      (postEvent s.dst.seq (msgRecorded q.msg (msgNumbered q s)) (msgAction q.msg (msgNumbered q s)).1
        (msgAction q.msg (msgNumbered q s)).2)
      (msgNoted s.dst.seq q.msg (msgNumbered q s)) := by
  have hready : (msgNumbered q s).ready = true := Eq.trans (msgNumbered_unchanged q s .ready (by decide)) h
  unfold acceptMsg
  extract_lets m seq d s1 s2 s3
  change s3.ready = true at hready
  change _ = msgActed (msgAction m s3).1 m (postEvent seq (msgRecorded m s3) (msgAction m s3).1 (msgAction m s3).2) (msgNoted seq m s3)
  rw [if_pos hready]
  clear_value s3
  unfold msgActed msgNoted msgRecorded msgAction msgClassified
  generalize classifyMsg m s3 = c
  obtain ⟨severe, s4⟩ := c
  dsimp only

/-- The message `q` has taken the next number and been latched where the latch was free, and it has a log entry unless 4,096 wait
(R381, R386, R387). -/
structure Noted (q : QMsg) (s t : State) : Prop where
  last : t.dst.last = s.dst.last
  queues : t.dst.queues = s.dst.queues
  seq : t.dst.seq = nextSeq s.dst.seq
  latched : s.dst.status.getLsbD 0 = false →
    t.dst.latch = q.msg.bits ∧ t.dst.latchSeq = s.dst.seq ∧ t.dst.latchTick = BitVec.ofNat 48 s.tick
  overflow : s.dst.status.getLsbD 0 = true →
    t.dst.latch = s.dst.latch ∧ t.dst.latchSeq = s.dst.latchSeq ∧ t.dst.status.getLsbD 1 = true
  full : t.dst.status.getLsbD 0 = true
  logTail : t.dst.logTail = if 4096 ≤ (s.dst.logTail - s.getReg (rDst 0x44)).toNat then s.dst.logTail else s.dst.logTail + 1
  charged : ∀ id, q.charge = some id → mfind t.seqs id = some s.dst.seq
  evrTail : t.dst.evrTail = s.dst.evrTail
  frame : Unchanged [.dst, .seqs, .reg] s t

theorem msgNumbered_dst (q : QMsg) (s : State) : (msgNumbered q s).dst = { s.dst with seq := nextSeq s.dst.seq } := by
  unfold msgNumbered
  rw [show (State.count _ _ _).dst = _ from count_unchanged _ _ _ .dst (by decide),
    show (State.count _ _ _).dst = _ from count_unchanged _ _ _ .dst (by decide)]
  cases q.charge <;> rfl

/-- The command that the message is charged to learns its number (R381). -/
theorem msgNumbered_charged {q : QMsg} {id : Nat} (h : q.charge = some id) (s : State) :
    mfind (msgNumbered q s).seqs id = some s.dst.seq := by
  unfold msgNumbered
  rw [show (State.count _ _ _).seqs = _ from count_unchanged _ _ _ .seqs (by decide),
    show (State.count _ _ _).seqs = _ from count_unchanged _ _ _ .seqs (by decide), h]
  exact (mfind_mset ..).trans (if_pos rfl)

theorem msgNumbered_logHead (q : QMsg) (s : State) : (msgNumbered q s).getReg (rDst 0x44) = s.getReg (rDst 0x44) := by
  unfold msgNumbered
  rw [getReg_count_ne (by decide), getReg_count_ne (by decide)]
  cases q.charge <;> rfl

/-- Classifying changes the counting table, and may say that it is full (R384). -/
theorem classifyMsg_leaves (m : Msg) (s : State) : ∃ ct b, b.getLsbD 0 = false ∧
    (classifyMsg m s).2 = { s with dst := { s.dst with ctab := ct, status := s.dst.status ||| b } } := by
  have hplain (ct : AMap CEntry) : ({ s with dst := { s.dst with ctab := ct } } : State)
      = { s with dst := { s.dst with ctab := ct, status := s.dst.status ||| 0#6 } } := by rw [BitVec.or_zero]
  unfold classifyMsg
  extract_lets n now place
  split
  · split
    · exact ⟨_, 0#6, rfl, hplain _⟩
    · exact ⟨_, 0#6, rfl, hplain s.dst.ctab⟩
  · split
    · exact ⟨_, 0#6, rfl, hplain _⟩
    · exact ⟨_, 16, by decide, rfl⟩

theorem msgClassified_dst (m : Msg) (s : State) : ∃ ct b, b.getLsbD 0 = false ∧
    (msgClassified m s).dst = { s.dst with ctab := ct, status := s.dst.status ||| b } := by
  obtain ⟨ct, b, hb, hclass⟩ := classifyMsg_leaves m s
  unfold msgClassified
  rw [hclass]
  split
  · refine ⟨ct, b ||| 32, by rw [BitVec.getLsbD_or, hb]; rfl, ?_⟩
    rw [show (State.count _ _ _).dst = _ from count_unchanged _ _ _ .dst (by decide), ← BitVec.or_assoc]
    rfl
  · exact ⟨ct, b, hb, rfl⟩

theorem msgClassified_unchanged (m : Msg) (s : State) : Unchanged [.dst, .reg] s (msgClassified m s) :=
  unchanged_of_mask (by unfold msgClassified; simp [pieces])

theorem msgClassified_logHead (m : Msg) (s : State) : (msgClassified m s).getReg (rDst 0x44) = s.getReg (rDst 0x44) := by
  obtain ⟨ct, b, -, hclass⟩ := classifyMsg_leaves m s
  unfold msgClassified
  rw [hclass]
  split
  · exact getReg_count_ne (by decide) _ _
  · rfl

/-- A log entry is added unless 4,096 wait, which is said (R387). -/
theorem logMsg_dst (rec : BitVec 256) (s : State) : ∃ lg b, b.getLsbD 0 = false ∧ (logMsg rec s).dst = { s.dst with
    log := lg
    logTail := if 4096 ≤ (s.dst.logTail - s.getReg (rDst 0x44)).toNat then s.dst.logTail else s.dst.logTail + 1
    status := s.dst.status ||| b } := by
  unfold logMsg
  by_cases hfull : (s.dst.logTail - s.getReg (rDst 0x44)).toNat ≥ 4096
  · rw [if_pos hfull, if_pos hfull]
    exact ⟨s.dst.log, 4, by decide, count_unchanged _ _ _ .dst (by decide)⟩
  · rw [if_neg hfull, if_neg hfull]
    exact ⟨_, 0#6, rfl, by rw [BitVec.or_zero]⟩

theorem setStatus_dst (b : BitVec 6) (s : State) : (setStatus b s).dst = { s.dst with status := s.dst.status ||| b } := rfl

theorem latched_dst (held : BitVec 96) (seq : Word) (time : BitVec 48) (s : State) :
    (setStatus 1 { s with dst := { s.dst with latch := held, latchSeq := seq, latchTick := time } }).dst
      = { s.dst with status := s.dst.status ||| 1, latch := held, latchSeq := seq, latchTick := time } := rfl

/-- The latch takes the message where it is free, and says otherwise that it was not (R386). -/
theorem latchMsg_dst (seq : Word) (m : Msg) (s : State) : (latchMsg seq m s).dst =
    if s.dst.status.getLsbD 0 then { s.dst with status := s.dst.status ||| 2 }
    else { s.dst with status := s.dst.status ||| 1, latch := m.bits, latchSeq := seq, latchTick := BitVec.ofNat 48 s.tick } := by
  unfold latchMsg
  by_cases h : s.dst.status.getLsbD 0 = true
  · rw [if_pos h, if_pos h]
    exact setStatus_dst ..
  · rw [if_neg h, if_neg h]
    exact latched_dst ..

theorem latchMsg_reg (seq : Word) (m : Msg) (s : State) : (latchMsg seq m s).reg = s.reg := by
  have h : Unchanged [.dst] s (latchMsg seq m s) := unchanged_of_mask (by simp [pieces])
  exact h .reg (by decide)

/-- Latching and logging what has been numbered, whatever the classification has left. -/
theorem noted_of {q : QMsg} {s u : State} {rec : BitVec 256} {ct : AMap CEntry} {b : BitVec 6} (hb : b.getLsbD 0 = false)
    (hdst : u.dst = { s.dst with seq := nextSeq s.dst.seq, ctab := ct, status := s.dst.status ||| b })
    (hhead : u.getReg (rDst 0x44) = s.getReg (rDst 0x44)) (hcharge : ∀ id, q.charge = some id → mfind u.seqs id = some s.dst.seq)
    (hframe : Unchanged [.dst, .seqs, .reg] s u) : Noted q s (logMsg rec (latchMsg s.dst.seq q.msg u)) := by
  have hun : Unchanged [.dst, .reg] u (logMsg rec (latchMsg s.dst.seq q.msg u)) := unchanged_of_mask (by simp [pieces])
  have hseqs : (logMsg rec (latchMsg s.dst.seq q.msg u)).seqs = u.seqs := hun .seqs (by decide)
  have htick : u.tick = s.tick := hframe .tick (by decide)
  have hhead' : (latchMsg s.dst.seq q.msg u).getReg (rDst 0x44) = s.getReg (rDst 0x44) :=
    Eq.trans (by unfold State.getReg; rw [latchMsg_reg]) hhead
  have hframe' := hframe.trans hun (n := [.dst, .seqs, .reg]) (by decide) (by decide)
  have hbit : u.dst.status.getLsbD 0 = s.dst.status.getLsbD 0 := by rw [hdst, BitVec.getLsbD_or, hb, Bool.or_false]
  obtain ⟨lg, b', hb', hlog⟩ := logMsg_dst rec (latchMsg s.dst.seq q.msg u)
  rw [hhead', latchMsg_dst, hbit, htick, hdst] at hlog
  have hc (id : Nat) (hid : q.charge = some id) : mfind (logMsg rec (latchMsg s.dst.seq q.msg u)).seqs id = some s.dst.seq := by
    rw [hseqs, hcharge id hid]
  cases h0 : s.dst.status.getLsbD 0
  · rw [h0, if_neg Bool.false_ne_true] at hlog
    exact ⟨by rw [hlog], by rw [hlog], by rw [hlog], fun _ => by rw [hlog]; exact ⟨rfl, rfl, rfl⟩,
      fun h => absurd (h0.symm.trans h) (by decide), by rw [hlog]; simp, by rw [hlog], hc, by rw [hlog], hframe'⟩
  · rw [h0, if_pos rfl] at hlog
    exact ⟨by rw [hlog], by rw [hlog], by rw [hlog], fun h => absurd (h0.symm.trans h) (by decide),
      fun _ => by rw [hlog]; exact ⟨rfl, rfl, by simp⟩, by rw [hlog]; simp [h0], by rw [hlog], hc, by rw [hlog], hframe'⟩

theorem noted_msgNoted (q : QMsg) (s : State) : Noted q s (msgNoted s.dst.seq q.msg (msgNumbered q s)) := by
  obtain ⟨ct, b, hb, hdst⟩ := msgClassified_dst q.msg (msgNumbered q s)
  have hclass := msgClassified_unchanged q.msg (msgNumbered q s)
  have hseqs : (msgClassified q.msg (msgNumbered q s)).seqs = (msgNumbered q s).seqs := hclass .seqs (by decide)
  rw [msgNumbered_dst] at hdst
  exact noted_of hb hdst ((msgClassified_logHead ..).trans (msgNumbered_logHead q s))
    (fun id hid => by rw [hseqs, msgNumbered_charged hid]) ((msgNumbered_unchanged q s).trans hclass (by decide) (by decide))

theorem noted_msgLogged (q : QMsg) (s : State) : Noted q s (msgLogged q s.dst.seq (msgNumbered q s)) :=
  noted_of (ct := s.dst.ctab) (b := 0#6) rfl (by rw [msgNumbered_dst, BitVec.or_zero]) (msgNumbered_logHead q s)
    (fun _ hid => msgNumbered_charged hid s) ((msgNumbered_unchanged q s).mono (by decide))

/-! ## The host event (R390, R394) -/

/-- From `s` to `t` a host event may have been posted, or turned away, and messages have joined the queues of junction 3. -/
structure OnlyPosted (s t : State) : Prop where
  rest : ∃ qs ds st n p, t.dst = { s.dst with queues := qs, dropped := ds, status := s.dst.status ||| st, evrTail := n, evrPosted := p }
  seqs : t.seqs = s.seqs
  joined : ∀ k, mget s.dst.queues k [] <+: mget t.dst.queues k []

theorem OnlyPosted.refl (s : State) : OnlyPosted s s :=
  ⟨⟨_, _, 0#6, _, _, by rw [BitVec.or_zero]⟩, rfl, fun _ => List.prefix_rfl⟩

theorem onlyMessages_storeClean (who : BitVec 16) (a : Nat) (l : List Byte) (s : State) : OnlyMessages s (storeClean who a l s) :=
  onlyMessages_writeBytes ..

theorem onlyPosted_of_stored {s t : State} (n : Word) (p : Bool)
    (h : OnlyMessages { s with dst := { s.dst with evrTail := n, evrPosted := p } } t) : OnlyPosted s t := by
  obtain ⟨⟨qs, ds, hrest⟩, hseqs, hjoined⟩ := h
  exact ⟨⟨qs, ds, 0#6, n, p, by rw [hrest, BitVec.or_zero]⟩, hseqs, hjoined⟩

theorem onlyPosted_postEvent (seq : Word) (m : Msg) (action : BitVec 3) (fallback : Bool) (s : State) :
    OnlyPosted s (postEvent seq m action fallback s) := by
  unfold postEvent
  extract_lets size tail n gen rec_
  split
  · have hcount := count_unchanged (rDst 0x30) 1 (setStatus 8 s)
    have hdst : ((setStatus 8 s).count (rDst 0x30) 1).dst = (setStatus 8 s).dst := hcount .dst (by decide)
    rw [setStatus_dst] at hdst
    exact ⟨⟨_, _, 8, _, _, hdst⟩, hcount .seqs (by decide), fun k => by rw [hdst]⟩
  · exact onlyPosted_of_stored (tail + 1) true (onlyMessages_storeClean ..)

theorem postEvent_unchanged (seq : Word) (m : Msg) (action : BitVec 3) (fallback : Bool) (s : State) :
    Unchanged [.reg, .mem, .errs, .skn, .dst, .seqs] s (postEvent seq m action fallback s) :=
  unchanged_of_mask (by simp [pieces])

/-! ## The message that FAULT_MESSAGE takes -/

/-- The message `q`, first of the queue `k`, is what FAULT_MESSAGE takes from the state `u`, whose only differences from `s` are what
parity errors damaged, and the queue. -/
structure Taking (k : Nat) (r : List QMsg) (s u : State) : Prop where
  rest : ∃ qs ds lg ct, u.dst = { s.dst with queues := qs, dropped := ds, log := lg, ctab := ct, last := k }
  queue : mget u.dst.queues k [] = r
  frame : Unchanged [.dst, .seqs] s u

theorem taking_msgTaken (hits : List Hit) (k : Nat) (r : List QMsg) (s : State) :
    Taking k r s (msgTaken k r (hits.foldl (fun s h => damageDst h s) s)) := by
  obtain ⟨⟨qs, ds, lg, ct, hrest⟩, hframe⟩ := onlyDamaged_damages hits s
  generalize hits.foldl (fun s h => damageDst h s) s = s1 at *
  exact ⟨⟨_, ds, lg, ct, by unfold msgTaken; rw [hrest]⟩, by simp [msgTaken],
    hframe.trans (msgTaken_unchanged k r s1) (by decide) (by decide)⟩

theorem exec_faultMessage {s : State} {hits : List Hit} {k : Nat} {q : QMsg} {r : List QMsg} (hrun : mgmtRuns s = true)
    (hnext : nextSource (hits.foldl (fun s h => damageDst h s) s) = some k)
    (hq : mget (hits.foldl (fun s h => damageDst h s) s).dst.queues k [] = q :: r) :
    exec (.faultMessage hits) s = .next (acceptMsg q (msgTaken k r (hits.foldl (fun s h => damageDst h s) s))) := by
  change execFaultMessage s hits = _
  unfold execFaultMessage acceptNext
  rw [if_pos hrun, hnext]
  dsimp only
  rw [hq]
  rfl

/-- The actions in force for the messages of a kind, severe or not (R389). -/
def ActionsIn (P : BitVec 3 → Prop) (kind : Byte) (s : State) : Prop :=
  ∀ a, a = (kindCfg s kind).actNormal ∨ a = (kindCfg s kind).actSevere → P a

theorem ActionsIn.congr {P : BitVec 3 → Prop} {kind : Byte} {s t : State} (h : ActionsIn P kind s) (hcfg : t.dst.cfg = s.dst.cfg) :
    ActionsIn P kind t := by
  unfold ActionsIn kindCfg
  rw [hcfg]
  exact h

/-- The message is treated by one of the actions in force for its kind. -/
theorem msgAction_inForce {P : BitVec 3 → Prop} {q : QMsg} {s : State} (h : ActionsIn P q.msg.kind s) :
    ∃ a, P a ∧ msgAction q.msg (msgNumbered q s) = settleAction q.msg.source a := by
  have hcfg : (msgClassified q.msg (msgNumbered q s)).dst.cfg = s.dst.cfg := by
    obtain ⟨ct, b, -, hdst⟩ := msgClassified_dst q.msg (msgNumbered q s)
    rw [hdst, msgNumbered_dst]
  refine ⟨_, h.congr hcfg _ ?_, rfl⟩
  split
  · exact .inr rfl
  · exact .inl rfl

/-- At READY a message whose actions in force all settle as `b` is noted, then treated by `b`. -/
theorem acceptMsg_settled {P : BitVec 3 → Prop} {q : QMsg} {s : State} {b : BitVec 3} (hready : s.ready = true)
    (h : ActionsIn P q.msg.kind s) (hb : ∀ a, P a → (settleAction q.msg.source a).1 = b) :
    ∃ n m fb, Noted q s n ∧ acceptMsg q s = msgActed b q.msg (postEvent s.dst.seq m b fb) n := by
  obtain ⟨a, ha, hact⟩ := msgAction_inForce h
  refine ⟨_, msgRecorded q.msg (msgNumbered q s), (msgAction q.msg (msgNumbered q s)).2, noted_msgNoted q s, ?_⟩
  rw [acceptMsg_ready hready, hact, hb a ha]

/-- A message whose actions in force are all LOG or EVENT, or that comes before READY, is noted; an event may be posted. -/
theorem acceptMsg_quiet {q : QMsg} {s : State}
    (h : s.ready = false ∨ ActionsIn (fun a => a = actLog ∨ a = actEvent) q.msg.kind s) :
    ∃ n, Noted q s n ∧ OnlyPosted n (acceptMsg q s) ∧ Unchanged [.reg, .mem, .errs, .skn, .dst, .seqs] n (acceptMsg q s)
      ∧ (s.ready = false ∨ ActionsIn (· = actLog) q.msg.kind s → acceptMsg q s = n) := by
  cases hready : s.ready
  · rw [acceptMsg_unready hready]
    exact ⟨_, noted_msgLogged q s, .refl _, unchanged_rfl _ _, fun _ => rfl⟩
  · replace h := h.resolve_left (by simp [hready])
    obtain ⟨a, ha, hact⟩ := msgAction_inForce h
    have hsettle : (settleAction q.msg.source a).1 = a := by
      rcases ha with rfl | rfl <;> rfl
    have hplain (x : State) : applyAction a q.msg x = x := by
      rcases ha with rfl | rfl <;> rfl
    rw [acceptMsg_ready hready, hact, hsettle]
    refine ⟨_, noted_msgNoted q s, ?_⟩
    unfold msgActed
    rw [hplain, if_neg (by rcases ha with rfl | rfl <;> decide)]
    split
    · exact ⟨.refl _, unchanged_rfl _ _, fun _ => rfl⟩
    · next hlog =>
      refine ⟨onlyPosted_postEvent .., postEvent_unchanged _ _ _ _ _, fun hl => ?_⟩
      obtain ⟨a', ha', hact'⟩ := msgAction_inForce (hl.resolve_left (by simp))
      have hsame : (msgAction q.msg (msgNumbered q s)).1 = a := by rw [hact, hsettle]
      rw [hact', ha'] at hsame
      exact absurd hsame.symm hlog

/-! ## What FAULT_MESSAGE does -/

/-- The same claims of the noted message, read from the state before parity errors did their damage. -/
theorem Noted.of_taking {k : Nat} {q : QMsg} {r : List QMsg} {s u n : State} (h : Taking k r s u) (hn : Noted q u n) :
    n.dst.last = k ∧ mget n.dst.queues k [] = r ∧ n.dst.seq = nextSeq s.dst.seq
      ∧ (s.dst.status.getLsbD 0 = false →
          n.dst.latch = q.msg.bits ∧ n.dst.latchSeq = s.dst.seq ∧ n.dst.latchTick = BitVec.ofNat 48 s.tick)
      ∧ (s.dst.status.getLsbD 0 = true →
          n.dst.latch = s.dst.latch ∧ n.dst.latchSeq = s.dst.latchSeq ∧ n.dst.status.getLsbD 1 = true)
      ∧ n.dst.status.getLsbD 0 = true
      ∧ n.dst.logTail = (if 4096 ≤ (s.dst.logTail - s.getReg (rDst 0x44)).toNat then s.dst.logTail else s.dst.logTail + 1)
      ∧ (∀ id, q.charge = some id → mfind n.seqs id = some s.dst.seq)
      ∧ n.dst.evrTail = s.dst.evrTail := by
  obtain ⟨⟨qs, ds, lg, ct, hrest⟩, hqueue, hframe⟩ := h
  obtain ⟨hlast, hqueues, hseq, hlatched, hover, hfull, htail, hcharged, hevr, -⟩ := hn
  have htick : u.tick = s.tick := hframe .tick (by decide)
  have hhead : u.getReg (rDst 0x44) = s.getReg (rDst 0x44) := congrArg (mget · (rDst 0x44) 0) (hframe .reg (by decide))
  rw [htick] at hlatched
  rw [hhead] at htail
  rw [hqueues.symm] at hqueue
  rw [hrest] at hlast hseq hlatched hover htail hcharged hevr
  exact ⟨hlast, hqueue, hseq, hlatched, hover, hfull, htail, hcharged, hevr⟩

/-- A posted event leaves a raised status bit raised, and the queues' messages before it. -/
theorem OnlyPosted.getLsbD_status {s t : State} (h : OnlyPosted s t) {i : Nat} (hi : s.dst.status.getLsbD i = true) :
    t.dst.status.getLsbD i = true := by
  obtain ⟨qs, ds, st, n, p, hrest⟩ := h.rest
  rw [hrest, BitVec.getLsbD_or, hi, Bool.true_or]

/-! ## The actions (R389 to R391) -/

theorem settleAction_plain {source : BitVec 16} {a : BitVec 3} (hretire : a ≠ actRetire) (hreset : a ≠ actResetUnit) :
    (settleAction source a).1 = a := by
  unfold settleAction
  rw [if_neg hretire, if_neg hreset]

theorem settleAction_resetUnit {source : BitVec 16} {v : Nat} (h : resetTarget source = some v) :
    (settleAction source actResetUnit).1 = actResetUnit := by
  unfold settleAction
  rw [if_neg (by decide), if_pos rfl, h]
  rfl

theorem settleAction_retire {source : BitVec 16} {v : Nat} (h : retireTarget source = some v) :
    (settleAction source actRetire).1 = actRetire := by
  unfold settleAction
  rw [if_pos rfl, h]
  rfl

theorem msgActed_stop (m : Msg) (post : State → State) (s : State) :
    msgActed actStop m post s = post (stopCtx (m.addr.toNat % 4096) s) := rfl

theorem msgActed_resetUnit {m : Msg} {v : Nat} (h : resetTarget m.source = some v) (post : State → State) (s : State) :
    msgActed actResetUnit m post s = post (resetUnit true v s) := by
  have happly : applyAction actResetUnit m s = resetUnit true v s := by
    unfold applyAction
    rw [if_neg (by decide), if_neg (by decide), if_pos rfl, h]
  rw [← happly]
  rfl

theorem msgActed_retire {m : Msg} {v : Nat} (h : retireTarget m.source = some v) (post : State → State) (s : State) :
    msgActed actRetire m post s = post (retireUnit v s) := by
  have happly : applyAction actRetire m s = retireUnit v s := by
    unfold applyAction
    rw [if_neg (by decide), if_pos rfl, h]
  rw [← happly]
  rfl

theorem msgActed_resetDevice (m : Msg) (post : State → State) (s : State) :
    msgActed actResetDevice m post s = deviceReset 1 (writeResetRecord m s) := rfl

/-- STOP_CTX clears one run bit. -/
theorem stopCtx_run {c x : Nat} (hx : x < 4096) (s : State) :
    (stopCtx c s).run.getLsbD x = (decide (x ≠ c) && s.run.getLsbD x) := by
  have hbit : (1#4096 <<< c).getLsbD x = decide (x = c) := by
    rw [← BitVec.twoPow_eq, BitVec.getLsbD_twoPow, Bool.eq_iff_iff]
    simp only [Bool.and_eq_true, decide_eq_true_eq]
    omega
  unfold stopCtx
  dsimp only
  rw [BitVec.getLsbD_and, BitVec.getLsbD_not, hbit, decide_eq_true hx, Bool.true_and, Bool.and_comm, decide_not]

theorem stopCtx_unchanged (c : Nat) (s : State) : Unchanged [.run] s (stopCtx c s) := unchanged_of_mask (by simp [pieces])

theorem resetUnit_unchanged (note : Bool) (v : Nat) (s : State) : Unchanged [.free, .reg, .mem, .errs, .skn, .dst, .pend, .rstBusy, .epochs,
    .reports, .seqs, .spn, .fly, .qps, .prts, .crds, .ply] s (resetUnit note v s) :=
  unchanged_of_mask (by simp [pieces])

/-- RETIRE of a unit neither retired nor in reset. -/
theorem retireUnit_eq {v : Nat} {s : State} (hr : isRetired s v = false) (hb : s.rstBusy.getLsbD v = false) :
    retireUnit v s = retireEffect v (markRetired v s) := by
  unfold retireUnit
  rw [if_neg (by rw [hr]; decide), if_neg (by rw [hb]; decide)]

theorem latchCause_one (s : State) : latchCause 1 s = 1 := by
  unfold latchCause
  refine if_neg fun h => ?_
  simp only [Bool.and_eq_true, decide_eq_true_eq] at h
  obtain ⟨⟨⟨-, hne⟩, -⟩, hlt⟩ := h
  exact hne (BitVec.eq_of_toNat_eq (by simpa using hlt))

theorem deviceReset_unchanged (cause : BitVec 3) (s : State) :
    Unchanged [.pending, .wall, .free, .ids, .rwp, .wear, .cause, .nvm, .fuses, .pkg, .out] State.reset (deviceReset cause s) := by
  intro p hp
  cases p <;> simp at hp <;> rfl

theorem deviceReset_keeps (cause : BitVec 3) (s : State) : ∀ p ∈ [Piece.pending, .wall, .fuses, .out], SameAt p s (deviceReset cause s) := by
  intro p hp
  fin_cases hp <;> rfl

theorem writeResetRecord_unchanged (m : Msg) (s : State) : Unchanged [.free, .dst, .seqs, .rwp, .wear, .nvm, .ndy] s (writeResetRecord m s) :=
  unchanged_of_mask (by simp [pieces])

/-- At READY a message taken, whose actions in force all settle as `b`, is noted, then treated by `b`. -/
theorem taking_settled {P : BitVec 3 → Prop} {k : Nat} {q : QMsg} {r : List QMsg} {s u : State} {b : BitVec 3} (h : Taking k r s u)
    (hready : s.ready = true) (hact : ActionsIn P q.msg.kind s) (hb : ∀ a, P a → (settleAction q.msg.source a).1 = b) :
    ∃ n m fb, Unchanged [.dst, .seqs, .reg] s n ∧ acceptMsg q u = msgActed b q.msg (postEvent u.dst.seq m b fb) n := by
  have hcfg : u.dst.cfg = s.dst.cfg := by
    obtain ⟨qs, ds, lg, ct, hrest⟩ := h.rest
    rw [hrest]
  obtain ⟨n, m, fb, hn, haccept⟩ := acceptMsg_settled (Eq.trans (h.frame .ready (by decide)) hready) (hact.congr hcfg) hb
  exact ⟨n, m, fb, h.frame.trans hn.frame (by decide) (by decide), haccept⟩

/-- LOG or EVENT, or any action before READY. -/
theorem taking_quiet {k : Nat} {q : QMsg} {r : List QMsg} {s u : State} (h : Taking k r s u)
    (hact : s.ready = false ∨ ActionsIn (fun a => a = actLog ∨ a = actEvent) q.msg.kind s) :
    ∃ n, Noted q u n ∧ OnlyPosted n (acceptMsg q u) ∧ Unchanged [.reg, .mem, .errs, .skn, .dst, .seqs] n (acceptMsg q u)
      ∧ (s.ready = false ∨ ActionsIn (· = actLog) q.msg.kind s → acceptMsg q u = n) := by
  have hcfg : u.dst.cfg = s.dst.cfg := by
    obtain ⟨qs, ds, lg, ct, hrest⟩ := h.rest
    rw [hrest]
  have hready : u.ready = s.ready := h.frame .ready (by decide)
  obtain ⟨n, hn, hposted, hframe, hlog⟩ := acceptMsg_quiet (q := q) (s := u) (by rw [hready]; exact hact.imp_right (·.congr hcfg))
  exact ⟨n, hn, hposted, hframe, fun hl => hlog (by rw [hready]; exact hl.imp_right (·.congr hcfg))⟩

/-- What is kept by an action and by the event posted after it is kept by the message as a whole. -/
theorem unchanged_of_acted {l ks : List Piece} {s n a : State} (hn : Unchanged [.dst, .seqs, .reg] s n) (ha : Unchanged l n a) (seq : Word)
    (m : Msg) (b : BitVec 3) (fb : Bool) (hl : l ⊆ ks) (hk : [.reg, .mem, .errs, .skn, .dst, .seqs] ⊆ ks) :
    Unchanged ks s (postEvent seq m b fb a) :=
  (hn.trans (n := ks) ha (List.Subset.trans (by decide) hk) hl).trans (postEvent_unchanged seq m b fb a) (List.Subset.refl _) hk

section

variable {k : Nat} {q : QMsg} {r : List QMsg} {s u : State}

/-- LOG or EVENT: the message is numbered, latched and logged (R381, R386, R387), and LOG posts no event. -/
theorem taking_noted (h : Taking k r s u) (hact : s.ready = false ∨ ActionsIn (fun a => a = actLog ∨ a = actEvent) q.msg.kind s) :
    ∃ n, Noted q u n ∧ Unchanged [.dst, .seqs, .reg] s n ∧ OnlyPosted n (acceptMsg q u)
      ∧ Unchanged [.dst, .seqs, .reg, .mem, .errs, .skn] s (acceptMsg q u)
      ∧ (s.ready = false ∨ ActionsIn (· = actLog) q.msg.kind s → acceptMsg q u = n) := by
  obtain ⟨n, hn, hposted, hframe, hlog⟩ := taking_quiet h hact
  have hkeep := h.frame.trans hn.frame (n := [.dst, .seqs, .reg]) (by decide) (by decide)
  exact ⟨n, hn, hkeep, hposted, hkeep.trans hframe (by decide) (by decide), hlog⟩

/-- STOP_CTX: the noted message clears the run bit of its context. -/
theorem taking_stopCtx (h : Taking k r s u) (hready : s.ready = true) (hact : ActionsIn (· = actStop) q.msg.kind s) :
    (∀ c, c < 4096 → (acceptMsg q u).run.getLsbD c = (decide (c ≠ q.msg.addr.toNat % 4096) && s.run.getLsbD c))
      ∧ Unchanged [.run, .dst, .seqs, .reg, .mem, .errs, .skn] s (acceptMsg q u) := by
  obtain ⟨n, m, fb, hn, haccept⟩ := taking_settled (b := actStop) h hready hact
    (fun a ha => by rw [ha]; exact settleAction_plain (by decide) (by decide))
  rw [haccept, msgActed_stop]
  refine ⟨fun c hc => ?_, unchanged_of_acted hn (stopCtx_unchanged _ _) _ _ _ _ (by decide) (by decide)⟩
  have hrun : n.run = s.run := hn .run (by decide)
  have hpost : (postEvent u.dst.seq m actStop fb (stopCtx (q.msg.addr.toNat % 4096) n)).run = _ :=
    postEvent_unchanged _ _ _ _ _ .run (by decide)
  rw [hpost, stopCtx_run hc, hrun]

/-- RESET_UNIT: the noted message puts the unit of its source in reset. -/
theorem taking_resetUnit {v : Nat} (h : Taking k r s u) (hready : s.ready = true) (hact : ActionsIn (· = actResetUnit) q.msg.kind s)
    (hv : resetTarget q.msg.source = some v) :
    (∀ x, x < 128 → (acceptMsg q u).rstBusy.getLsbD x = (decide (x = v) || s.rstBusy.getLsbD x))
      ∧ Unchanged [.free, .reg, .mem, .errs, .skn, .dst, .pend, .rstBusy, .epochs, .reports, .seqs, .spn, .fly, .qps, .prts, .crds, .ply]
          s (acceptMsg q u) := by
  obtain ⟨n, m, fb, hn, haccept⟩ := taking_settled (b := actResetUnit) h hready hact
    (fun a ha => by rw [ha]; exact settleAction_resetUnit hv)
  rw [haccept, msgActed_resetUnit hv]
  refine ⟨fun x hx => ?_, unchanged_of_acted hn (resetUnit_unchanged _ _ _) _ _ _ _ (by decide) (by decide)⟩
  have hbusy : n.rstBusy = s.rstBusy := hn .rstBusy (by decide)
  have hpost : (postEvent u.dst.seq m actResetUnit fb (resetUnit true v n)).rstBusy = _ :=
    postEvent_unchanged _ _ _ _ _ .rstBusy (by decide)
  rw [hpost, resetUnit_rstBusy _ _ _ hx, hbusy]
  by_cases hxv : x = v <;> simp [hxv]

/-- RETIRE: the noted message sets the retired bit of the unit of its source and shuts its gate. -/
theorem taking_retire {v : Nat} (h : Taking k r s u) (hready : s.ready = true) (hact : ActionsIn (· = actRetire) q.msg.kind s)
    (hv : retireTarget q.msg.source = some v) (hr : isRetired s v = false) (hb : s.rstBusy.getLsbD v = false) :
    (∀ x, x < 128 → (acceptMsg q u).gate.getLsbD x = (decide (x ≠ v) && s.gate.getLsbD x))
      ∧ Unchanged [.free, .dst, .seqs, .rwp, .wear, .nvm, .ndy, .gate, .pend, .spareReq, .prts, .whl, .reg, .mem, .errs, .skn]
          s (acceptMsg q u) := by
  obtain ⟨n, m, fb, hn, haccept⟩ := taking_settled (b := actRetire) h hready hact
    (fun a ha => by rw [ha]; exact settleAction_retire hv)
  have hret : isRetired n v = false := (isRetired_congr (hn .rwp (by decide)) v).trans hr
  have hbusy : n.rstBusy = s.rstBusy := hn .rstBusy (by decide)
  have hmark := markRetired_unchanged v n
  have hboth := hmark.trans (retireEffect_unchanged v _) (n := [.free, .dst, .seqs, .rwp, .wear, .nvm, .ndy, .gate, .pend, .spareReq, .prts,
    .whl]) (by decide) (by decide)
  rw [haccept, msgActed_retire hv, retireUnit_eq hret (by rw [hbusy]; exact hb)]
  refine ⟨fun x hx => ?_, unchanged_of_acted hn hboth _ _ _ _ (by decide) (by decide)⟩
  have hgate : (markRetired v n).gate = s.gate := Eq.trans (hmark .gate (by decide)) (hn .gate (by decide))
  have hpost : (postEvent u.dst.seq m actRetire fb (retireEffect v (markRetired v n))).gate = _ :=
    postEvent_unchanged _ _ _ _ _ .gate (by decide)
  rw [hpost, retireEffect_gate _ _ hx, hgate]

/-- RESET_DEVICE: the noted message is kept in the reset record, and the device resets with cause 1. -/
theorem taking_resetDevice (h : Taking k r s u) (hready : s.ready = true) (hact : ActionsIn (· = actResetDevice) q.msg.kind s) :
    (acceptMsg q u).cause = 1
      ∧ Unchanged [.pending, .wall, .free, .ids, .rwp, .wear, .cause, .nvm, .fuses, .pkg, .out] State.reset (acceptMsg q u)
      ∧ ∀ p ∈ [Piece.pending, .wall, .fuses, .out], SameAt p s (acceptMsg q u) := by
  obtain ⟨n, m, fb, hn, haccept⟩ := taking_settled (b := actResetDevice) h hready hact
    (fun a ha => by rw [ha]; exact settleAction_plain (by decide) (by decide))
  rw [haccept, msgActed_resetDevice]
  have hrecord := hn.trans (writeResetRecord_unchanged q.msg n) (n := [.dst, .seqs, .reg, .free, .rwp, .wear, .nvm, .ndy])
    (by decide) (by decide)
  have hapart : ∀ p ∈ [Piece.pending, .wall, .fuses, .out], p ∉ [Piece.dst, .seqs, .reg, .free, .rwp, .wear, .nvm, .ndy] := by decide
  exact ⟨latchCause_one _, deviceReset_unchanged _ _,
    fun p hp => (hrecord p (hapart p hp)).trans (deviceReset_keeps 1 (writeResetRecord q.msg n) p hp)⟩

end

/-- Settles O39: the state of the message taken differs from the first by the parity errors and the queue, and each action is applied to
the noted message before the event is posted. -/
theorem faultMessageAccepted : Obligations.FaultMessageAccepted := by
  intro s s1 hits k q r hrun hs1 hnext hq
  subst hs1
  have hexec := exec_faultMessage hrun hnext hq
  have htake := taking_msgTaken hits k r s
  generalize msgTaken k r _ = u at hexec htake
  refine ⟨fun hact => ⟨_, hexec, ?_⟩, fun hready hact => ⟨_, hexec, taking_stopCtx htake hready hact⟩,
    fun v hready hact hv _ => ⟨_, hexec, ?_⟩, fun v hready hact hv _ hr hb => ⟨_, hexec, ?_⟩,
    fun hready hact => ⟨_, hexec, taking_resetDevice htake hready hact⟩⟩
  · obtain ⟨n, hn, hkeep, hposted, hframe, hlog⟩ := taking_noted htake hact
    obtain ⟨hlast, hqueue, hseq, hlatched, hover, hfull, htail, hcharged, hevr⟩ := hn.of_taking htake
    obtain ⟨l, hl⟩ := hposted.joined k
    obtain ⟨qs, ds, st, e, p, hrest⟩ := hposted.rest
    have hbit {i : Nat} := hposted.getLsbD_status (i := i)
    refine ⟨by rw [hrest]; exact hlast, ⟨l, by rw [← hl, hqueue]⟩, by rw [hrest]; exact hseq, fun h => ?_, fun h => ?_,
      hbit hfull, by rw [hrest]; exact htail, fun id hid => by rw [hposted.seqs]; exact hcharged id hid, fun h => ?_, hframe⟩
    · rw [hrest]
      exact hlatched h
    · obtain ⟨hlatch, hseq, hset⟩ := hover h
      exact ⟨by rw [hrest]; exact hlatch, by rw [hrest]; exact hseq, hbit hset⟩
    · rw [hlog h]
      exact ⟨hevr, hkeep⟩
  · obtain ⟨hbusy, hframe⟩ := taking_resetUnit htake hready hact hv
    exact ⟨hbusy, hframe .gate (by decide), hframe.mono (by decide)⟩
  · obtain ⟨hgate, hframe⟩ := taking_retire htake hready hact hv hr hb
    exact ⟨hgate, hframe .rstBusy (by decide), hframe.mono (by decide)⟩

end Sys2Proof.Machine
end

section
/-! SUPPORT. Writing the RETIRED registers (R389, R391, R399, R400): the fields stored, and what becomes of the unit of each listed bit. -/

namespace Sys2Proof.Machine

/-! ## The listed bits -/

/-- How many units RETIREDw lists. -/
def retiredCount (w : Nat) : Nat :=
  match w with
  | 0 => 17
  | 1 => 32
  | 2 => 5
  | _ => 20

/-- The place of the unit of bit 0 of RETIREDw. -/
def retiredFirst (w : Nat) : Nat :=
  match w with
  | 0 => 0
  | 1 => 32
  | 2 => 17
  | _ => 96

theorem retiredBits_eq (w : Nat) : retiredBits w = (List.range (retiredCount w)).map (fun i => (i, retiredFirst w + i)) := by
  unfold retiredBits retiredCount retiredFirst
  split <;> simp

theorem mem_retiredBits {w b u : Nat} : (b, u) ∈ retiredBits w ↔ b < retiredCount w ∧ u = retiredFirst w + b := by
  simp only [retiredBits_eq, List.mem_map, List.mem_range, Prod.mk.injEq]
  exact ⟨fun ⟨i, hi, hb, hu⟩ => ⟨hb ▸ hi, by omega⟩, fun ⟨hb, hu⟩ => ⟨b, hb, rfl, hu.symm⟩⟩

/-- Different listed bits are of different units. -/
theorem retiredBits_units_ne {w b u : Nat} (hb : (b, u) ∈ retiredBits w) {y : Nat × Nat} (hy : y ∈ retiredBits w) (hne : y ≠ (b, u)) :
    u ≠ y.2 := by
  obtain ⟨c, x⟩ := y
  obtain ⟨-, hu⟩ := mem_retiredBits.mp hb
  obtain ⟨-, hx⟩ := mem_retiredBits.mp hy
  rintro (rfl : u = x)
  exact hne (by rw [show c = b by omega])

theorem nodup_retiredBits (w : Nat) : (retiredBits w).Nodup := by
  rw [retiredBits_eq]
  exact List.nodup_range.map fun i j h => congrArg Prod.fst h

theorem retiredCount_le (w : Nat) : retiredCount w ≤ 32 := by
  unfold retiredCount
  split <;> omega

/-- The listed units are the places that can retire, and each is found at its bit of its register. -/
theorem retiredPlace_listed (w : BitVec 2) {b u : Nat} (h : (b, u) ∈ retiredBits w.toNat) :
    u < 116 ∧ retiredPlace u = some (rDst (0xA0 + 4 * w.toNat), b) := by
  have hall : ∀ w : BitVec 2, ∀ x ∈ retiredBits w.toNat, x.2 < 116 ∧ retiredPlace x.2 = some (rDst (0xA0 + 4 * w.toNat), x.1) := by decide
  exact hall w _ h

/-- The fields of a RETIRED register that a write of `v` stores. -/
def retiredField (w : Nat) (v : Word) : Word := packWord ((retiredBits w).map (fun b => (b.1, 1, b2n (v.getLsbD b.1))))

/-- Packing the lowest bits of a word, one by one, is taking the word modulo a power of two. -/
theorem packBits_eq (v : Word) (n : Nat) :
    ((List.range n).map (fun i => (i, 1, b2n (v.getLsbD i)))).foldl (fun acc f => acc + (f.2.2 % 2 ^ f.2.1) * 2 ^ f.1) 0 = v.toNat % 2 ^ n := by
  induction n with
  | zero => simp [Nat.mod_one]
  | succ n ih =>
    have hbit : b2n (v.getLsbD n) % 2 ^ 1 = v.toNat / 2 ^ n % 2 := by
      rw [BitVec.getLsbD, Nat.testBit_eq_decide_div_mod_eq]
      rcases Nat.mod_two_eq_zero_or_one (v.toNat / 2 ^ n) with h | h <;> simp [h, b2n]
    rw [List.range_succ, List.map_append, List.foldl_append, ih, Nat.mod_pow_succ]
    simp only [List.map_cons, List.map_nil, List.foldl_cons, List.foldl_nil]
    rw [hbit, Nat.mul_comm]

/-- The stored field of each listed unit is its bit of the value. -/
theorem getLsbD_retiredField {w b u : Nat} (h : (b, u) ∈ retiredBits w) (v : Word) : (retiredField w v).getLsbD b = v.getLsbD b := by
  obtain ⟨hb, -⟩ := mem_retiredBits.mp h
  have hn := retiredCount_le w
  have hfold : (retiredField w v) = BitVec.ofNat 32 (v.toNat % 2 ^ retiredCount w) := by
    unfold retiredField packWord
    rw [retiredBits_eq, List.map_map]
    exact congrArg (BitVec.ofNat 32) (packBits_eq v _)
  rw [hfold, BitVec.getLsbD_ofNat, Nat.testBit_mod_two_pow]
  simp [hb, BitVec.getLsbD, show b < 32 by omega]

/-! ## The step for one listed bit -/

/-- What a write of RETIREDw does for the unit of one listed bit, once the fields are stored. -/
def retiredStep (new old : Word) (s : State) (b : Nat × Nat) : State :=
  if new.getLsbD b.1 && !old.getLsbD b.1 then
    (if s.rstBusy.getLsbD b.2 then noteRetired b.2 { s with retireWait := setBit s.retireWait b.2 true } else retireEffect b.2 s)
  else if !new.getLsbD b.1 && old.getLsbD b.1 then returnUnit b.2 s
  else s

theorem retiredStep_same {new old : Word} {b : Nat × Nat} (h : new.getLsbD b.1 = old.getLsbD b.1) (s : State) : retiredStep new old s b = s := by
  unfold retiredStep
  cases hb : old.getLsbD b.1 <;> rw [h, hb] <;> rfl

theorem retiredStep_set {new old : Word} {b : Nat × Nat} (hn : new.getLsbD b.1 = true) (ho : old.getLsbD b.1 = false) (s : State) :
    retiredStep new old s b
      = if s.rstBusy.getLsbD b.2 then noteRetired b.2 { s with retireWait := setBit s.retireWait b.2 true } else retireEffect b.2 s := by
  unfold retiredStep
  rw [hn, ho]
  rfl

theorem retiredStep_clear {new old : Word} {b : Nat × Nat} (hn : new.getLsbD b.1 = false) (ho : old.getLsbD b.1 = true) (s : State) :
    retiredStep new old s b = returnUnit b.2 s := by
  unfold retiredStep
  rw [hn, ho]
  rfl

/-- A register of DST[0] that is neither read-only nor a counter takes its write. -/
theorem writeReg_dst {o : Nat} (ho : o < 65536) (h : (regRow (rDst o)).any (fun r => !r.allRo && !r.isRc) = true) :
    ∃ r, ∀ org v e s, writeReg org (rDst o) v e s = writeDst (rDst o) r v e s := by
  obtain ⟨hcode, -, -⟩ := regOff_parts (code := 6) (inst := 0) (by omega) ho
  cases hr : regRow (rDst o) with
  | none => rw [hr] at h; cases h
  | some r =>
  rw [hr] at h
  have hro : (r.allRo || r.isRc) = false := by simpa using h
  refine ⟨r, fun org v e s => ?_⟩
  unfold writeReg
  rw [hr]
  dsimp only
  rw [hro]
  unfold rDst
  rw [hcode]
  rfl

/-- A RETIRED register written fewer than 100,000 times stores its fields, and then each listed bit takes effect. -/
theorem writeReg_retired (w : BitVec 2) {s : State} (h : s.wearOf (rDst (0xA0 + 4 * w.toNat)) < 100000) (o : Origin) (v : Word) :
    writeReg o (rDst (0xA0 + 4 * w.toNat)) v false s
      = wrDone ((retiredBits w.toNat).foldl (retiredStep (retiredField w.toNat v) (s.pers (rDst (0xA0 + 4 * w.toNat))))
          (persisted (rDst (0xA0 + 4 * w.toNat)) (retiredField w.toNat v) s)) := by
  have hwritten : ∀ w : BitVec 2, (regRow (rDst (0xA0 + 4 * w.toNat))).any (fun r => !r.allRo && !r.isRc) = true := by decide
  have hw := w.isLt
  obtain ⟨r, hr⟩ := writeReg_dst (o := 0xA0 + 4 * w.toNat) (by omega) (hwritten w)
  have hoff : rDst (0xA0 + 4 * w.toNat) % 65536 = 0xA0 + 4 * w.toNat := (regOff_parts (code := 6) (inst := 0) (by omega) (by omega)).2.2
  rw [hr]
  unfold writeDst
  rw [hoff]
  dsimp only
  rw [if_neg (by omega), if_neg (by omega), if_neg (by omega), if_neg (by omega), if_neg (by omega), if_neg (by omega),
    if_pos (by simp; omega), show (0xA0 + 4 * w.toNat - 0xA0) / 4 = w.toNat by omega]
  unfold writeRetired
  extract_lets off bs newv old
  rw [persist_stored h]
  rfl

/-! ## All the listed bits -/

section

variable {α : Type} {f : State → α → State} {R : State → State → Prop} (hrefl : ∀ s, R s s)
  (htrans : ∀ {s t u}, R s t → R t u → R s u)

include hrefl htrans

theorem foldl_rel {l : List α} (h : ∀ x ∈ l, ∀ s, R s (f s x)) (s : State) : R s (l.foldl f s) := by
  induction l generalizing s with
  | nil => exact hrefl s
  | cons x l ih => exact htrans (h x List.mem_cons_self s) (ih (fun y hy => h y (List.mem_cons_of_mem _ hy)) _)

/-- In a pass over a list that names each item once, item `x` finds what it looks at as it was, and leaves it as it ends. -/
theorem foldl_at {l : List α} (hl : l.Nodup) {x : α} (hx : x ∈ l) (hother : ∀ y ∈ l, y ≠ x → ∀ s, R s (f s y)) (s : State) :
    ∃ t, R s t ∧ R (f t x) (l.foldl f s) := by
  induction l generalizing s with
  | nil => cases hx
  | cons y l ih =>
    obtain ⟨hy, hl⟩ := List.nodup_cons.mp hl
    by_cases hxy : y = x
    · subst hxy
      exact ⟨s, hrefl s, foldl_rel hrefl htrans (fun z hz => hother z (List.mem_cons_of_mem _ hz) (fun h => hy (h ▸ hz))) _⟩
    · have hmem : x ∈ l := (List.mem_cons.mp hx).resolve_left (fun h => hxy h.symm)
      obtain ⟨t, ht, hend⟩ := ih hl hmem (fun z hz => hother z (List.mem_cons_of_mem _ hz)) (f s y)
      exact ⟨t, htrans (hother y List.mem_cons_self hxy s) ht, hend⟩

end

theorem unchanged_foldl {α : Type} {f : State → α → State} {ps : List Piece} {l : List α} (h : ∀ x ∈ l, ∀ s, Unchanged ps s (f s x))
    (s : State) : Unchanged ps s (l.foldl f s) :=
  foldl_rel (R := Unchanged ps) (unchanged_rfl ps) (fun h k => h.trans k (List.Subset.refl _) (List.Subset.refl _)) h s

/-! ## What one unit sees -/

/-- The unit at `u` is as it was in `s`: its gate, whether it is in reset, whether its retirement waits, and a port's link. -/
structure UnitKept (u : Nat) (s t : State) : Prop where
  gate : t.gate.getLsbD u = s.gate.getLsbD u
  busy : t.rstBusy.getLsbD u = s.rstBusy.getLsbD u
  wait : t.retireWait.getLsbD u = s.retireWait.getLsbD u

theorem UnitKept.refl (u : Nat) (s : State) : UnitKept u s s := ⟨rfl, rfl, rfl⟩

theorem UnitKept.trans {u : Nat} {s t x : State} (h : UnitKept u s t) (k : UnitKept u t x) : UnitKept u s x :=
  ⟨k.gate.trans h.gate, k.busy.trans h.busy, k.wait.trans h.wait⟩

theorem UnitKept.of_unchanged {u : Nat} {ps : List Piece} {s t : State} (h : Unchanged ps s t) (hgate : Piece.gate ∉ ps)
    (hbusy : Piece.rstBusy ∉ ps) (hwait : Piece.retireWait ∉ ps) : UnitKept u s t :=
  ⟨congrArg (BitVec.getLsbD · u) (h .gate hgate), congrArg (BitVec.getLsbD · u) (h .rstBusy hbusy),
    congrArg (BitVec.getLsbD · u) (h .retireWait hwait)⟩

/-- RETIRE takes down the link of a port, and no other. -/
theorem retireEffect_link (v : Nat) (s : State) (n : Nat) :
    ((retireEffect v s).prt n).link = if 96 ≤ v ∧ v < 116 ∧ n = v - 96 then false else (s.prt n).link := by
  have hbefore : (gateOff v (noteRetired v s)).prts = s.prts :=
    (unchanged_of_mask (l := [.whl, .gate, .pend]) (by simp [pieces]) : Unchanged _ s (gateOff v (noteRetired v s))) .prts (by decide)
  have hspare (p : Nat) (t : State) : (requestSpare p t).prts = t.prts := requestSpare_unchanged p t .prts (by decide)
  unfold retireEffect State.prt
  dsimp only
  split
  · next h =>
    rw [if_neg (by omega)]
    split
    · rw [hspare, hbefore]
    · rw [hbefore]
  · split
    · next h =>
      unfold dropLink
      dsimp only
      rw [mget_mput, hbefore]
      simp only [Bool.and_eq_true, decide_eq_true_eq] at h
      by_cases hn : v - 96 = n
      · rw [if_pos hn, if_pos ⟨h.1, h.2, hn.symm⟩]
      · rw [if_neg hn, if_neg (fun k => hn k.2.2.symm)]
    · next h =>
      rw [if_neg (fun k => h (by simp [k.1, k.2.1])), hbefore]

theorem resetUnit_silent_rstBusy (v : Nat) (s : State) {u : Nat} (hu : u < 128) :
    (resetUnit false v s).rstBusy.getLsbD u = (decide (u = v) || s.rstBusy.getLsbD u) := by
  unfold resetUnit
  split
  · next hb => by_cases h : u = v <;> simp [h, hb, -BitVec.getLsbD_eq_getElem]
  · dsimp only
    rw [if_neg Bool.false_ne_true]
    split
    · exact getLsbD_setBit_true _ _ hu
    · rw [applyReset_rstBusy]
      exact getLsbD_setBit_true _ _ hu

/-- The unit at `v` with its retirement forgotten, as R391 returns it, before it is put in reset. -/
def unretired (v : Nat) (s : State) : State :=
  { s with retireWait := setBit s.retireWait v false, whl := { s.whl with retiredAt := mdel s.whl.retiredAt v } }

theorem resetUnit_silent_unchanged (v : Nat) (s : State) : Unchanged [.free, .reg, .mem, .errs, .skn, .dst, .pend, .rstBusy, .epochs,
    .reports, .seqs, .spn, .fly, .qps, .prts, .crds, .ply] s (resetUnit false v s) :=
  unchanged_of_mask (by simp [pieces])

/-- A returned unit's gate opens and its sleep is asked off, after its reset. -/
theorem returnUnit_afterReset (v : Nat) (s : State) :
    Unchanged [.pend, .sleepReq, .wakeAt] (gateOn v (resetUnit false v (unretired v s))) (returnUnit v s) := by
  have h : returnUnit v s = if (gateOn v (resetUnit false v (unretired v s))).asleep.getLsbD v
      || (gateOn v (resetUnit false v (unretired v s))).sleepReq.getLsbD v then sleepOff v (gateOn v (resetUnit false v (unretired v s)))
      else gateOn v (resetUnit false v (unretired v s)) := rfl
  rw [h]
  split
  · exact unchanged_of_mask (by simp [pieces])
  · exact unchanged_rfl _ _

theorem returnUnit_gate (v : Nat) (s : State) : (returnUnit v s).gate = setBit s.gate v true := by
  have hafter : (returnUnit v s).gate = setBit (resetUnit false v (unretired v s)).gate v true := returnUnit_afterReset v s .gate (by decide)
  have hreset : (resetUnit false v (unretired v s)).gate = s.gate := resetUnit_silent_unchanged v _ .gate (by decide)
  rw [hafter, hreset]

theorem returnUnit_rstBusy (v : Nat) (s : State) {u : Nat} (hu : u < 128) :
    (returnUnit v s).rstBusy.getLsbD u = (decide (u = v) || s.rstBusy.getLsbD u) := by
  have hafter : (returnUnit v s).rstBusy = (resetUnit false v (unretired v s)).rstBusy := returnUnit_afterReset v s .rstBusy (by decide)
  rw [hafter, resetUnit_silent_rstBusy _ _ hu]
  rfl

theorem returnUnit_retireWait (v : Nat) (s : State) : (returnUnit v s).retireWait = setBit s.retireWait v false := by
  have hafter : (returnUnit v s).retireWait = (resetUnit false v (unretired v s)).retireWait :=
    returnUnit_afterReset v s .retireWait (by decide)
  have hreset : (resetUnit false v (unretired v s)).retireWait = setBit s.retireWait v false :=
    resetUnit_silent_unchanged v _ .retireWait (by decide)
  rw [hafter, hreset]

/-! ## Setting bits (R389, R391) -/

section

variable {new old : Word} {y : Nat × Nat}

/-- A step that clears nothing does nothing, or retires its unit. -/
theorem retiredStep_onlySets (h : old.getLsbD y.1 = true → new.getLsbD y.1 = true) (s : State) :
    retiredStep new old s y = s ∨ retiredStep new old s y = noteRetired y.2 { s with retireWait := setBit s.retireWait y.2 true }
      ∨ retiredStep new old s y = retireEffect y.2 s := by
  cases ho : old.getLsbD y.1
  · cases hn : new.getLsbD y.1
    · exact .inl (retiredStep_same (hn.trans ho.symm) s)
    · rw [retiredStep_set hn ho]
      split
      · exact .inr (.inl rfl)
      · exact .inr (.inr rfl)
  · exact .inl (retiredStep_same ((h ho).trans ho.symm) s)

theorem noteWaiting_unchanged (v : Nat) (s : State) :
    Unchanged [.retireWait, .whl] s (noteRetired v { s with retireWait := setBit s.retireWait v true }) := by
  have hset : Unchanged [.retireWait] s { s with retireWait := setBit s.retireWait v true } := unchanged_of_mask (mask_set_retireWait rfl)
  exact hset.trans (noteRetired_unchanged v _) (by decide) (by decide)

theorem noteWaiting_retireWait (v : Nat) (s : State) :
    (noteRetired v { s with retireWait := setBit s.retireWait v true }).retireWait = setBit s.retireWait v true :=
  noteRetired_unchanged v _ .retireWait (by decide)

theorem retiredStep_sets_unchanged (h : old.getLsbD y.1 = true → new.getLsbD y.1 = true) (s : State) :
    Unchanged [.dst, .gate, .pend, .spareReq, .seqs, .retireWait, .prts, .whl] s (retiredStep new old s y) := by
  rcases retiredStep_onlySets h s with he | he | he <;> rw [he]
  · exact unchanged_rfl _ s
  · exact (noteWaiting_unchanged y.2 s).mono (by decide)
  · exact (retireEffect_unchanged y.2 s).mono (by decide)

/-- The unit at `u`, and the link of its port, are as they were in `s`. -/
def PortKept (u : Nat) (s t : State) : Prop := UnitKept u s t ∧ (96 ≤ u → (t.prt (u - 96)).link = (s.prt (u - 96)).link)

theorem PortKept.refl (u : Nat) (s : State) : PortKept u s s := ⟨.refl u s, fun _ => rfl⟩

theorem PortKept.trans {u : Nat} {s t x : State} (h : PortKept u s t) (k : PortKept u t x) : PortKept u s x :=
  ⟨h.1.trans k.1, fun hu => (k.2 hu).trans (h.2 hu)⟩

/-- Retiring one unit leaves every other. -/
theorem retiredStep_sets_other (h : old.getLsbD y.1 = true → new.getLsbD y.1 = true) {u : Nat} (hu : u < 128) (huy : u ≠ y.2) (s : State) :
    PortKept u s (retiredStep new old s y) := by
  rcases retiredStep_onlySets h s with he | he | he <;> rw [he]
  · exact .refl u s
  · have hun := noteWaiting_unchanged y.2 s
    have hprts : (noteRetired y.2 { s with retireWait := setBit s.retireWait y.2 true }).prts = s.prts := hun .prts (by decide)
    refine ⟨⟨congrArg (BitVec.getLsbD · u) (hun .gate (by decide)), congrArg (BitVec.getLsbD · u) (hun .rstBusy (by decide)), ?_⟩,
      fun _ => ?_⟩
    · rw [noteWaiting_retireWait, getLsbD_setBit _ _ _ _ hu, if_neg huy]
    · unfold State.prt
      rw [hprts]
  · have hun := retireEffect_unchanged y.2 s
    refine ⟨⟨?_, congrArg (BitVec.getLsbD · u) (hun .rstBusy (by decide)), congrArg (BitVec.getLsbD · u) (hun .retireWait (by decide))⟩,
      fun h96 => ?_⟩
    · rw [retireEffect_gate _ _ hu, decide_eq_true huy, Bool.true_and]
    · rw [retireEffect_link, if_neg (by omega)]

/-! ## Clearing bits (R399) -/

/-- A step that sets nothing does nothing, or returns its unit. -/
theorem retiredStep_onlyClears (h : new.getLsbD y.1 = true → old.getLsbD y.1 = true) (s : State) :
    retiredStep new old s y = s ∨ retiredStep new old s y = returnUnit y.2 s := by
  cases hn : new.getLsbD y.1
  · cases ho : old.getLsbD y.1
    · exact .inl (retiredStep_same (hn.trans ho.symm) s)
    · exact .inr (retiredStep_clear hn ho s)
  · exact .inl (retiredStep_same (hn.trans (h hn).symm) s)

theorem returnUnit_unchanged (v : Nat) (s : State) : Unchanged [.free, .reg, .mem, .errs, .skn, .dst, .gate, .pend, .rstBusy, .sleepReq,
    .wakeAt, .epochs, .reports, .seqs, .retireWait, .spn, .fly, .qps, .prts, .crds, .ply, .whl] s (returnUnit v s) :=
  unchanged_of_mask (by simp [pieces])

theorem retiredStep_clears_unchanged (h : new.getLsbD y.1 = true → old.getLsbD y.1 = true) (s : State) :
    Unchanged [.free, .reg, .mem, .errs, .skn, .dst, .gate, .pend, .rstBusy, .sleepReq, .wakeAt, .epochs, .reports, .seqs, .retireWait, .spn,
      .fly, .qps, .prts, .crds, .ply, .whl] s (retiredStep new old s y) := by
  rcases retiredStep_onlyClears h s with he | he <;> rw [he]
  · exact unchanged_rfl _ s
  · exact returnUnit_unchanged y.2 s

/-- Returning one unit leaves every other. -/
theorem retiredStep_clears_other (h : new.getLsbD y.1 = true → old.getLsbD y.1 = true) {u : Nat} (hu : u < 128) (huy : u ≠ y.2) (s : State) :
    UnitKept u s (retiredStep new old s y) := by
  rcases retiredStep_onlyClears h s with he | he <;> rw [he]
  · exact .refl u s
  · exact ⟨by rw [returnUnit_gate, getLsbD_setBit _ _ _ _ hu, if_neg huy],
      by rw [returnUnit_rstBusy _ _ hu, decide_eq_false huy, Bool.false_or],
      by rw [returnUnit_retireWait, getLsbD_setBit _ _ _ _ hu, if_neg huy]⟩

end

/-! ## The write as a whole -/

/-- The state after the fields are stored and every listed bit has taken effect. -/
def retiredPass (w : Nat) (v : Word) (s : State) : State :=
  (retiredBits w).foldl (retiredStep (retiredField w v) (s.pers (rDst (0xA0 + 4 * w)))) (persisted (rDst (0xA0 + 4 * w)) (retiredField w v) s)

theorem regWrite_retired {o : Origin} {w : BitVec 2} {s : State} (hr : Reaches o (rDst (0xA0 + 4 * w.toNat)) s)
    (h : s.wearOf (rDst (0xA0 + 4 * w.toNat)) < 100000) (v : Word) :
    regWrite o (rDst (0xA0 + 4 * w.toNat)) v false s = tagNew (originFlags o) s (retiredPass w.toNat v s) :=
  regWrite_stored hr (writeReg_retired w h o v)

/-- What a pass that leaves the persistent fields leaves retired: the units whose bits are set in the value. -/
theorem isRetired_after {w : BitVec 2} {v : Word} {s t : State}
    (h : t.rwp = (persisted (rDst (0xA0 + 4 * w.toNat)) (retiredField w.toNat v) s).rwp) {b u : Nat} (hb : (b, u) ∈ retiredBits w.toNat) :
    isRetired t u = v.getLsbD b := by
  obtain ⟨-, hplace⟩ := retiredPlace_listed w hb
  have hpers := persisted_pers (rDst (0xA0 + 4 * w.toNat)) (retiredField w.toNat v) s (rDst (0xA0 + 4 * w.toNat))
  rw [if_pos rfl] at hpers
  rw [isRetired_congr h]
  unfold isRetired
  rw [hplace]
  dsimp only
  rw [hpers, getLsbD_retiredField hb]

theorem unitKept_persisted (u off : Nat) (x : Word) (s : State) : UnitKept u s (persisted off x s) :=
  .of_unchanged (persisted_unchanged off x s) (by decide) (by decide) (by decide)

theorem unitKept_tagNew (u : Nat) (f : Byte) (s t : State) : UnitKept u t (tagNew f s t) :=
  .of_unchanged (tagNew_unchanged f s t) (by decide) (by decide) (by decide)

theorem portKept_of_prts {u : Nat} {s t : State} (h : UnitKept u s t) (hprts : t.prts = s.prts) : PortKept u s t :=
  ⟨h, fun _ => by unfold State.prt; rw [hprts]⟩

section

variable {w : BitVec 2} {v : Word} {s : State}

/-- Where no bit is cleared: the pass leaves what retiring units leaves. -/
theorem retiredPass_sets_unchanged
    (h : ∀ b u, (b, u) ∈ retiredBits w.toNat → (s.pers (rDst (0xA0 + 4 * w.toNat))).getLsbD b = true → v.getLsbD b = true) :
    Unchanged [.dst, .gate, .pend, .spareReq, .seqs, .retireWait, .prts, .whl]
      (persisted (rDst (0xA0 + 4 * w.toNat)) (retiredField w.toNat v) s) (retiredPass w.toNat v s) :=
  unchanged_foldl (fun y hy t => retiredStep_sets_unchanged (fun ho => by rw [getLsbD_retiredField hy]; exact h _ _ hy ho) t) _

/-- Where no bit is cleared: each unit is found as it was, and left as its own step leaves it. -/
theorem retiredPass_sets_at
    (h : ∀ b u, (b, u) ∈ retiredBits w.toNat → (s.pers (rDst (0xA0 + 4 * w.toNat))).getLsbD b = true → v.getLsbD b = true)
    {b u : Nat} (hb : (b, u) ∈ retiredBits w.toNat) :
    ∃ t, PortKept u s t
      ∧ PortKept u (retiredStep (retiredField w.toNat v) (s.pers (rDst (0xA0 + 4 * w.toNat))) t (b, u)) (retiredPass w.toNat v s) := by
  have hu := (retiredPlace_listed w hb).1
  obtain ⟨t, ht, hend⟩ := foldl_at (R := PortKept u) (.refl u) .trans (nodup_retiredBits w.toNat) hb
    (fun y hy hne t => retiredStep_sets_other (fun ho => by rw [getLsbD_retiredField hy]; exact h _ _ hy ho) (by omega)
      (retiredBits_units_ne hb hy hne) t) (persisted (rDst (0xA0 + 4 * w.toNat)) (retiredField w.toNat v) s)
  exact ⟨t, (portKept_of_prts (unitKept_persisted ..) (persisted_unchanged _ _ s .prts (by decide))).trans ht, hend⟩

/-- Where no bit is set: the pass leaves what returning units leaves. -/
theorem retiredPass_clears_unchanged
    (h : ∀ b u, (b, u) ∈ retiredBits w.toNat → v.getLsbD b = true → (s.pers (rDst (0xA0 + 4 * w.toNat))).getLsbD b = true) :
    Unchanged [.free, .reg, .mem, .errs, .skn, .dst, .gate, .pend, .rstBusy, .sleepReq, .wakeAt, .epochs, .reports, .seqs, .retireWait, .spn,
      .fly, .qps, .prts, .crds, .ply, .whl]
      (persisted (rDst (0xA0 + 4 * w.toNat)) (retiredField w.toNat v) s) (retiredPass w.toNat v s) :=
  unchanged_foldl (fun y hy t => retiredStep_clears_unchanged (fun hn => h _ _ hy (by rw [← getLsbD_retiredField hy]; exact hn)) t) _

/-- Where no bit is set: each unit is found as it was, and left as its own step leaves it. -/
theorem retiredPass_clears_at
    (h : ∀ b u, (b, u) ∈ retiredBits w.toNat → v.getLsbD b = true → (s.pers (rDst (0xA0 + 4 * w.toNat))).getLsbD b = true)
    {b u : Nat} (hb : (b, u) ∈ retiredBits w.toNat) :
    ∃ t, UnitKept u s t
      ∧ UnitKept u (retiredStep (retiredField w.toNat v) (s.pers (rDst (0xA0 + 4 * w.toNat))) t (b, u)) (retiredPass w.toNat v s) := by
  have hu := (retiredPlace_listed w hb).1
  obtain ⟨t, ht, hend⟩ := foldl_at (R := UnitKept u) (.refl u) .trans (nodup_retiredBits w.toNat) hb
    (fun y hy hne t => retiredStep_clears_other (fun hn => h _ _ hy (by rw [← getLsbD_retiredField hy]; exact hn)) (by omega)
      (retiredBits_units_ne hb hy hne) t) (persisted (rDst (0xA0 + 4 * w.toNat)) (retiredField w.toNat v) s)
  exact ⟨t, (unitKept_persisted ..).trans ht, hend⟩

end

/-- Settles O40: the fields are stored first, and each listed bit then acts on its own unit, which the other bits leave alone. -/
theorem retireAndReturn : Obligations.RetireAndReturn := by
  intro o w v s hreach hwear
  have hexec := regWrite_retired hreach hwear v
  have hstored := persisted_unchanged (rDst (0xA0 + 4 * w.toNat)) (retiredField w.toNat v) s
  have htag := tagNew_unchanged (originFlags o) s (retiredPass w.toNat v s)
  refine ⟨fun h => ⟨_, congrArg Host.Outcome.next hexec, ?_, fun b u hb => ?_⟩,
    fun h => ⟨_, congrArg Host.Outcome.next hexec, ?_, fun b u hb => ?_⟩⟩
  · exact hstored.trans ((retiredPass_sets_unchanged h).trans htag (List.Subset.refl _) (by decide)) (by decide) (by decide)
  · have hu := (retiredPlace_listed w hb).1
    have hbit := getLsbD_retiredField hb v
    obtain ⟨t, ht, hend⟩ := retiredPass_sets_at h hb
    replace hend := hend.trans (portKept_of_prts (unitKept_tagNew u (originFlags o) s _) (htag .prts (by decide)))
    refine ⟨isRetired_after (Eq.trans (htag .rwp (by decide)) (retiredPass_sets_unchanged h .rwp (by decide))) hb,
      fun hv ho hbusy => ?_, fun hv ho hbusy => ?_, fun hv => ?_⟩
    · rw [retiredStep_set (hbit.trans hv) ho, if_pos (ht.1.busy.trans hbusy)] at hend
      have hgate : (noteRetired u { t with retireWait := setBit t.retireWait u true }).gate = t.gate :=
        noteWaiting_unchanged u t .gate (by decide)
      refine ⟨hend.1.wait.trans ?_, hend.1.gate.trans ?_⟩
      · rw [noteWaiting_retireWait, getLsbD_setBit _ _ _ _ (by omega), if_pos rfl]
      · rw [hgate, ht.1.gate]
    · rw [retiredStep_set (hbit.trans hv) ho, if_neg (by rw [ht.1.busy, hbusy]; decide)] at hend
      refine ⟨hend.1.gate.trans ?_, fun h96 => (hend.2 h96).trans ?_⟩
      · rw [retireEffect_gate _ _ (by omega)]
        simp
      · rw [retireEffect_link, if_pos ⟨h96, hu, rfl⟩]
    · rw [retiredStep_same (hbit.trans hv)] at hend
      exact hend.1.gate.trans ht.1.gate
  · exact hstored.trans ((retiredPass_clears_unchanged h).trans htag (List.Subset.refl _) (by decide)) (by decide) (by decide)
  · have hu := (retiredPlace_listed w hb).1
    have hbit := getLsbD_retiredField hb v
    obtain ⟨t, ht, hend⟩ := retiredPass_clears_at h hb
    replace hend := hend.trans (unitKept_tagNew u (originFlags o) s _)
    refine ⟨isRetired_after (Eq.trans (htag .rwp (by decide)) (retiredPass_clears_unchanged h .rwp (by decide))) hb,
      fun hv ho => ?_, fun hv => ?_⟩
    · rw [retiredStep_clear (hbit.trans hv) ho] at hend
      refine ⟨hend.gate.trans ?_, hend.busy.trans ?_, hend.wait.trans ?_⟩
      · rw [returnUnit_gate, getLsbD_setBit _ _ _ _ (by omega), if_pos rfl]
      · rw [returnUnit_rstBusy _ _ (by omega), decide_eq_true rfl, Bool.true_or]
      · rw [returnUnit_retireWait, getLsbD_setBit _ _ _ _ (by omega), if_pos rfl]
    · rw [retiredStep_same (hbit.trans hv)] at hend
      exact hend.gate.trans ht.gate

end Sys2Proof.Machine
end

section
/-! SUPPORT. A step, and writes of CLK[0]: ISSUE, RUN_SET, RUN_CLR, SPARE, DEV_RESET and FM_CTL (R410 to R413, R418). -/

namespace Sys2Proof.Machine

/-- Settles O53: the step looks at the queue alone. -/
theorem stepRunsFrontCommand : Obligations.StepRunsFrontCommand := by
  intro s
  unfold step
  exact ⟨fun c r h => by rw [h], fun h => by rw [h]⟩

/-! ## Registers of CLK[0] -/

theorem runWindows_written : ∀ i : Fin 128, (regRow (rClk (0x100 + 4 * i))).any (fun r => !r.allRo && !r.isRc) = true
    ∧ (regRow (rClk (0x300 + 4 * i))).any (fun r => !r.allRo && !r.isRc) = true := by decide

section
variable (org : Origin) (v : Word) (e : Bool) (s : State)

theorem writeReg_issue : writeReg org (rClk 0xA0) v e s = ofWr (writeIssue v s) s := by
  obtain ⟨r, hr⟩ := writeReg_clk (o := 0xA0) (by decide) (by decide)
  rw [hr]
  rfl

theorem writeReg_spare : writeReg org (rClk 0xB0) v e s = ofWr (writeSpare v s) s := by
  obtain ⟨r, hr⟩ := writeReg_clk (o := 0xB0) (by decide) (by decide)
  rw [hr]
  rfl

theorem writeReg_fmCtl : writeReg org (rClk 0x500) v e s = ofWr (writeFmCtl v s) s := by
  obtain ⟨r, hr⟩ := writeReg_clk (o := 0x500) (by decide) (by decide)
  rw [hr]
  rfl

theorem writeReg_runSet {i : Nat} (hi : i < 128) : writeReg org (rClk (0x100 + 4 * i)) v e s = ofWr (writeRunSet i v s) s := by
  obtain ⟨r, hr⟩ := writeReg_clk (o := 0x100 + 4 * i) (by omega) (runWindows_written ⟨i, hi⟩).1
  rw [hr]
  unfold writeClk
  rw [clk_offset (by omega)]
  dsimp only
  rw [if_neg (by omega), if_neg (by simp; omega), if_neg (by simp; omega), if_neg (by simp; omega), if_neg (by omega), if_neg (by omega),
    if_pos (by simp; omega), show (0x100 + 4 * i - 0x100) / 4 = i by omega]

theorem writeReg_runClr {i : Nat} (hi : i < 128) : writeReg org (rClk (0x300 + 4 * i)) v e s = ofWr (writeRunClr i v s) s := by
  obtain ⟨r, hr⟩ := writeReg_clk (o := 0x300 + 4 * i) (by omega) (runWindows_written ⟨i, hi⟩).2
  rw [hr]
  unfold writeClk
  rw [clk_offset (by omega)]
  dsimp only
  rw [if_neg (by omega), if_neg (by simp; omega), if_neg (by simp; omega), if_neg (by simp; omega), if_neg (by omega), if_neg (by omega),
    if_neg (by simp), if_pos (by simp; omega), show (0x300 + 4 * i - 0x300) / 4 = i by omega]

end

theorem getReg_of_reg {s t : State} (h : t.reg = s.reg) (a : Nat) : t.getReg a = s.getReg a := by
  unfold State.getReg
  rw [h]

/-- A write that stores, where what it stores leaves the distaff alone. -/
theorem regWrite_frame {o : Origin} {a : Nat} {v : Word} {e : Bool} {s t : State} {l : List Piece} (hr : Reaches o a s)
    (hw : writeReg o a v e s = wrDone t) (hl : Unchanged l s t) (hd : Piece.dst ∉ l) :
    ∃ t', regWrite o a v e s = t' ∧ Unchanged [.dst] t t' ∧ SameDistaff s t' ∧ Unchanged (l ++ [.dst]) s t' := by
  refine ⟨_, regWrite_stored hr hw, tagNew_unchanged _ s t, tagNew_sameDistaff (hl .dst hd),
    hl.trans (tagNew_unchanged _ s t) (List.subset_append_left ..) (List.subset_append_right ..)⟩

/-! ## ISSUE (R410) -/

theorem issueFields_eq (v : Word) : issueFields v = (List.range 4).map (fun j => v.toNat / 2 ^ (8 * j) % 128) := by
  simp [issueFields, bits, Nat.shiftRight_eq_div_pow, List.range_succ]

theorem issueFields_legal (v : Word) : (issueFields v).all (fun x => 1 ≤ x && x ≤ 64) = true
    ↔ ∀ j, j < 4 → 1 ≤ v.toNat / 2 ^ (8 * j) % 128 ∧ v.toNat / 2 ^ (8 * j) % 128 ≤ 64 := by
  rw [issueFields_eq, List.all_map, List.all_eq_true]
  simp only [List.mem_range, Function.comp_apply, Bool.and_eq_true, decide_eq_true_eq]

/-- Legal limits are stored. -/
theorem writeReg_issue_legal {v : Word} (h : (issueFields v).all (fun x => 1 ≤ x && x ≤ 64) = true) (o : Origin) (e : Bool) (s : State) :
    writeReg o (rClk 0xA0) v e s = wrDone (s.setReg (rClk 0xA0) (v &&& issueMask)) := by
  rw [writeReg_issue, writeIssue, if_pos h]
  rfl

/-- Any other limit is refused. -/
theorem writeReg_issue_illegal {v : Word} (h : ¬ (issueFields v).all (fun x => 1 ≤ x && x ≤ 64) = true) (o : Origin) (e : Bool) (s : State) :
    writeReg o (rClk 0xA0) v e s = wrRefuse kACCESS_REFUSED s := by
  rw [writeReg_issue, writeIssue, if_neg h]
  rfl

/-! ## The run mask (R411) -/

/-- The bits that a word names, at the place of its window. -/
theorem runBits (v : Word) (i : Nat) {c : Nat} (hc : c < 4096) :
    (v.setWidth 4096 <<< (32 * i)).getLsbD c = (decide (c / 32 = i) && v.getLsbD (c % 32)) := by
  rw [BitVec.getLsbD_shiftLeft, BitVec.getLsbD_setWidth, decide_eq_true hc, Bool.true_and]
  by_cases h : c / 32 = i
  · rw [show c - 32 * i = c % 32 by omega, decide_eq_false (by omega), decide_eq_true h, decide_eq_true (by omega)]
    rfl
  · rw [decide_eq_false h, Bool.false_and]
    by_cases hlt : c < 32 * i
    · rw [decide_eq_true hlt]
      rfl
    · rw [BitVec.getLsbD_of_ge v (c - 32 * i) (by omega), Bool.and_false, Bool.and_false]

theorem run_unchanged (x : BitVec 4096) (s : State) : Unchanged [.run] s { s with run := x } := unchanged_of_mask (mask_set_run rfl)

/-! ## SPARE (R412) -/

theorem spareReq_unchanged (x : Option (BitVec 5 × Nat)) (s : State) : Unchanged [.spareReq] s { s with spareReq := x } :=
  unchanged_of_mask (mask_set_spareReq rfl)

theorem writeReg_spare_done {v : Word} {s t : State} (h : writeSpare v s = .done t) (o : Origin) (e : Bool) :
    writeReg o (rClk 0xB0) v e s = wrDone t := by
  rw [writeReg_spare, h]
  rfl

theorem writeSpare_waiting {s : State} (h : s.spareReq.isSome = true) (v : Word) : writeSpare v s = .refuse kACCESS_REFUSED := if_pos h

theorem writeSpare_activates {v : Word} {s : State} (hnone : s.spareReq = none) (hv : v.getLsbD 4 = true) (hret : isRetired s 16 = false)
    (hidle : s.spare.getLsbD 4 = false) (hwear : mget s.wear (rClk 0xB0) 0 < 100000) :
    writeSpare v s = .done { s with spareReq := some (BitVec.ofNat 5 (16 + v.toNat % 16), s.wall) } := by
  unfold writeSpare
  dsimp only
  rw [hnone, if_neg (by decide), if_pos hv, hret, if_neg (by decide), hidle, if_neg (by decide), if_neg (by omega)]

theorem writeSpare_returns {v : Word} {s : State} (hnone : s.spareReq = none) (hv : v.getLsbD 4 = false) (hserves : s.spare.getLsbD 4 = true)
    (hret : isRetired s (s.spare.toNat % 16) = false) (hwear : mget s.wear (rClk 0xB0) 0 < 100000) :
    writeSpare v s = .done { s with spareReq := some (BitVec.ofNat 5 (s.spare.toNat % 16), s.wall) } := by
  unfold writeSpare
  dsimp only
  rw [hnone, if_neg (by decide), hv, if_neg (by decide), hserves, if_neg (by decide), hret, if_neg (by decide), if_neg (by omega)]

/-! ## DEV_RESET (R418) -/

/-- What the package does after a device reset leaves it one. -/
theorem WholeReset.of_unchanged {cause : BitVec 3} {s t : State} (h : Unchanged [.pkg, .out] (deviceReset cause s) t) :
    WholeReset (latchCause cause s) s t where
  cleared := (deviceReset_unchanged cause s).trans h (by decide) (by decide)
  kept p hp := by
    have hreset : SameAt p s (deviceReset cause s) := by fin_cases hp <;> rfl
    have hapart : ∀ p ∈ [Piece.pending, .wall, .free, .ids, .rwp, .wear, .nvm, .fuses], p ∉ [Piece.pkg, .out] := by decide
    exact hreset.trans (h p (hapart p hp))
  cause := h .cause (by decide)

theorem writeReg_devReset_wrong {v : Word} (hkey : v.toNat % 65536 ≠ 0x5A5A) (o : Origin) (e : Bool) (s : State) :
    writeReg o (rClk 0x10) v e s = wrRefuse kACCESS_REFUSED s := by
  obtain ⟨r, hr⟩ := writeReg_clk (o := 0x10) (by decide) (by decide)
  rw [hr]
  unfold writeClk
  rw [clk_offset (by decide)]
  dsimp only
  rw [if_pos rfl, writeDevReset, if_neg hkey]
  rfl

/-! ## FM_CTL (R413) -/

/-- START, which the command sets, lies above the fields. -/
theorem fmFields_start (v : Word) : (v ||| 0x2000).toNat % 8192 = v.toNat % 8192 := by
  rw [BitVec.toNat_or, Nat.or_mod_two_pow (n := 13)]
  exact Nat.or_zero _

theorem fmKeep_start (v : Word) : (v ||| 0x2000) &&& 0x1FFF = v &&& (0x1FFF : Word) := by
  have hmask (x : Word) : (x &&& 0x1FFF).toNat = x.toNat % 8192 :=
    (BitVec.toNat_and ..).trans (Nat.and_two_pow_sub_one_eq_mod x.toNat 13)
  exact BitVec.eq_of_toNat_eq (by rw [hmask, hmask, fmFields_start])

/-- The clock choices and the window of FM_CTL are legal. -/
def fmLegal (v : Word) : Prop :=
  v.toNat % 16 ≤ 7 ∧ v.toNat / 16 % 16 ≤ 7 ∧ 10 ≤ v.toNat / 256 % 32 ∧ v.toNat / 256 % 32 ≤ 24

theorem fmLegal_iff (v : Word) : (decide (v.toNat % 16 ≤ 7) && decide (bits v.toNat 4 4 ≤ 7) && decide (10 ≤ bits v.toNat 8 5)
    && decide (bits v.toNat 8 5 ≤ 24)) = true ↔ fmLegal v := by
  simp only [bits, Nat.shiftRight_eq_div_pow, Bool.and_eq_true, decide_eq_true_eq, fmLegal, and_assoc]
  rfl

theorem fmLegal_start (v : Word) : fmLegal (v ||| 0x2000) ↔ fmLegal v := by
  have h := fmFields_start v
  unfold fmLegal
  rw [show (v ||| 0x2000).toNat % 16 = v.toNat % 16 by omega, show (v ||| 0x2000).toNat / 16 % 16 = v.toNat / 16 % 16 by omega,
    show (v ||| 0x2000).toNat / 256 % 32 = v.toNat / 256 % 32 by omega]

theorem start_set (v : Word) : (v ||| 0x2000).getLsbD 13 = true := by
  rw [BitVec.getLsbD_or]
  exact Bool.or_true _

/-- A measurement begins. -/
def fmBegun (v : Word) (s : State) : State := { s.setReg (rClk 0x500) (v &&& 0x1FFF) with fmRun := true, fmDone := false }

theorem fmBegun_unchanged (v : Word) (s : State) : Unchanged [.reg, .fmRun, .fmDone] s (fmBegun v s) :=
  (setReg_unchanged (rClk 0x500) (v &&& 0x1FFF) s).trans (m := [.fmRun, .fmDone]) (unchanged_of_mask
    ((mask_set_fmDone (s := { s.setReg (rClk 0x500) (v &&& 0x1FFF) with fmRun := true }) rfl).trans (mask_set_fmRun rfl)))
    (by decide) (by decide)

theorem writeReg_fmCtl_legal {v : Word} (h : fmLegal v) (o : Origin) (e : Bool) (s : State) :
    writeReg o (rClk 0x500) (v ||| 0x2000) e s = wrDone (fmBegun v s) := by
  rw [writeReg_fmCtl, writeFmCtl, if_pos (start_set v), fmKeep_start]
  dsimp only
  rw [if_pos ((fmLegal_iff _).mpr ((fmLegal_start v).mpr h))]
  rfl

theorem writeReg_fmCtl_illegal {v : Word} (h : ¬ fmLegal v) (o : Origin) (e : Bool) (s : State) :
    writeReg o (rClk 0x500) (v ||| 0x2000) e s = wrRefuse kACCESS_REFUSED s := by
  rw [writeReg_fmCtl, writeFmCtl, if_pos (start_set v)]
  dsimp only
  rw [if_neg fun hl => h ((fmLegal_start v).mp ((fmLegal_iff _).mp hl))]
  rfl

/-! ## The obligation -/

/-- Settles O42: what each register of the file does with a value, and what one access makes of that. -/
theorem clockFileWritten : Obligations.ClockFileWritten := by
  intro o v s
  refine ⟨fun hr => ⟨fun h => ?_, fun j hj h => ?_⟩, fun i hr => ?_, fun i hr => ?_,
    fun hr => ⟨fun hnone hv hret hidle hwear => ?_, fun hnone hv hserves hret hwear => ?_, fun hwait => ?_⟩,
    fun hr => ⟨fun hkey => ?_, fun hkey => ?_⟩, fun hr => ⟨fun hd hs hlo hhi => ?_, fun h => ?_⟩⟩
  · obtain ⟨t, ht, hreg, hdst, hframe⟩ := regWrite_frame hr (writeReg_issue_legal ((issueFields_legal v).mpr h) o false s)
      (setReg_unchanged _ _ s) (by decide)
    refine ⟨t, congrArg _ ht, fun a => ?_, hdst, hframe⟩
    rw [getReg_of_reg (hreg .reg (by decide)), getReg_setReg]
    rfl
  · exact ⟨_, rfl, refused_regWrite hr (writeReg_issue_illegal (fun hl => by have := (issueFields_legal v).mp hl j hj; omega) o false s)⟩
  · obtain ⟨t, ht, hrun, hdst, hframe⟩ := regWrite_frame hr (writeReg_runSet o v false s i.isLt) (run_unchanged _ s) (by decide)
    refine ⟨t, congrArg _ ht, hdst, hframe, fun c hc => ?_⟩
    rw [show t.run = _ from hrun .run (by decide), BitVec.getLsbD_or, runBits v _ hc]
  · obtain ⟨t, ht, hrun, hdst, hframe⟩ := regWrite_frame hr (writeReg_runClr o v false s i.isLt) (run_unchanged _ s) (by decide)
    refine ⟨t, congrArg _ ht, hdst, hframe, fun c hc => ?_⟩
    rw [show t.run = _ from hrun .run (by decide), BitVec.getLsbD_and, BitVec.getLsbD_not, runBits v _ hc, decide_eq_true hc, Bool.true_and]
  · obtain ⟨t, ht, hreq, hdst, hframe⟩ := regWrite_frame hr (writeReg_spare_done (writeSpare_activates hnone hv hret hidle hwear) o false)
      (spareReq_unchanged _ s) (by decide)
    exact ⟨t, congrArg _ ht, hreq .spareReq (by decide), hdst, hframe⟩
  · obtain ⟨t, ht, hreq, hdst, hframe⟩ := regWrite_frame hr (writeReg_spare_done (writeSpare_returns hnone hv hserves hret hwear) o false)
      (spareReq_unchanged _ s) (by decide)
    exact ⟨t, congrArg _ ht, hreq .spareReq (by decide), hdst, hframe⟩
  · exact ⟨_, rfl, refused_regWrite hr (by rw [writeReg_spare, writeSpare_waiting hwait]; rfl)⟩
  · refine ⟨deviceReset 3 s, congrArg _ (regWrite_stored hr (writeReg_devReset hkey o false s)),
      .of_unchanged (unchanged_of_mask rfl), rfl, rfl⟩
  · exact ⟨_, rfl, refused_regWrite hr (writeReg_devReset_wrong hkey o false s)⟩
  · obtain ⟨t, ht, hbegun, hdst, hframe⟩ := regWrite_frame hr (writeReg_fmCtl_legal ⟨hd, hs, hlo, hhi⟩ o false s) (fmBegun_unchanged v s)
      (by decide)
    refine ⟨t, congrArg _ ht, hbegun .fmRun (by decide), hbegun .fmDone (by decide), fun a => ?_, hdst, hframe⟩
    exact (getReg_of_reg (hbegun .reg (by decide)) a).trans (getReg_setReg s _ a _)
  · exact ⟨_, rfl, refused_regWrite hr (writeReg_fmCtl_illegal (fun hl => by unfold fmLegal at hl; omega) o false s)⟩

end Sys2Proof.Machine
end

section
/-! SUPPORT. MIN_SEQ and the fuses (R430, R439, R440): writes of NDY[0], and what an operation that ends has burnt. -/

namespace Sys2Proof.Machine

/-- A register of NDY[0] that is neither read-only nor a counter takes its write. -/
theorem writeReg_ndy {o : Nat} (ho : o < 65536) (h : (regRow (rNdy o)).any (fun r => !r.allRo && !r.isRc) = true) :
    ∃ r, ∀ org v e s, writeReg org (rNdy o) v e s = writeNdy org (rNdy o) r v e s := by
  obtain ⟨hc, -, -⟩ := regOff_parts (code := 8) (inst := 0) (by omega) ho
  obtain ⟨r, hr, hrw⟩ := (Option.any_eq_true _ _).mp h
  have hro : (r.allRo || r.isRc) = false := by simpa using hrw
  refine ⟨r, fun org v e s => ?_⟩
  unfold writeReg
  rw [hr]
  dsimp only
  rw [hro]
  unfold rNdy
  rw [hc]
  rfl

/-! ## MIN_SEQ (R430, R440) -/

theorem writeReg_minSeq_refused {v : Word} {s : State} (h : v.toNat < (s.pers (rNdy 0xC)).toNat ∨ s.ndy.seq.toNat < v.toNat) (o : Origin)
    (e : Bool) : writeReg o (rNdy 0xC) v e s = wrRefuse kACCESS_REFUSED s := by
  obtain ⟨r, hr⟩ := writeReg_ndy (o := 0xC) (by decide) (by decide)
  rw [hr]
  unfold writeNdy
  dsimp only
  rw [if_pos (by decide), if_pos (by simpa using h)]

/-- A candidate's header gives no reason against it. -/
theorem headerReason_of_candidate {s : State} {i : Nat} (h : i ∈ candidates s) : headerReason s i = none := by
  unfold candidates at h
  cases h0 : headerReason s 0 <;> cases h1 : headerReason s 1 <;> simp only [h0, h1, slotOrder, Option.isNone] at h
  · split at h <;> simp only [List.mem_cons, List.not_mem_nil, or_false] at h <;> rcases h with rfl | rfl <;> assumption
  · rw [List.mem_singleton.mp h, h0]
  · rw [List.mem_singleton.mp h, h1]
  · cases h

theorem headerReason_old {s : State} {i : Nat} (h : imgSeq s i < (s.pers (rNdy 0xC)).toNat) : headerReason s i ≠ none := by
  unfold headerReason
  rw [if_pos h]
  split <;> exact Option.some_ne_none _

/-- Settles O57: the register's own check refuses the write, and the header's check keeps an older image from the candidates. -/
theorem minSeqOnlyRises : Obligations.MinSeqOnlyRises := by
  refine ⟨fun o a v e s ha hr h => ?_, fun s i h hc => headerReason_old h (headerReason_of_candidate hc)⟩
  exact ⟨_, exec_rwpWrite ha (by decide) o v e s, refused_regWrite hr (writeReg_minSeq_refused h o e)⟩

/-! ## FUSE_CMD (R439) -/

theorem writeReg_fuseCmd (o : Origin) (v : Word) (e : Bool) (s : State) : writeReg o (rNdy 0x24) v e s = writeFuseCmd o v s := by
  obtain ⟨r, hr⟩ := writeReg_ndy (o := 0x24) (by decide) (by decide)
  rw [hr]
  rfl

theorem endFuse_idle {s : State} (h : s.ndy.fuse = none) : endFuse s = s := by
  unfold endFuse
  rw [h]

theorem startFuse_unchanged (op : FuseOp) (s : State) : Unchanged [.ndy] s (startFuse op s) := unchanged_of_mask (by simp [pieces])

/-- The management port's FUSE_CMD starts the operation that it names. -/
theorem writeFuseCmd_mgmt {v : Word} {s : State} {op : FuseOp} (hidle : s.ndy.fuse = none) (hop : fuseOpOf v s = some op) :
    writeFuseCmd .mgmt v s = wrDone (startFuse op s) := by
  unfold writeFuseCmd
  rw [if_pos rfl]
  dsimp only
  rw [endFuse_idle hidle, hop]

/-- A FUSE_CMD from elsewhere is refused, and starts an operation that fails. -/
theorem writeFuseCmd_other {o : Origin} {v : Word} {s : State} (ho : o ≠ .mgmt) (hidle : s.ndy.fuse = none)
    (hv : v.toNat % 4 = 1 ∨ v.toNat % 4 = 2) : writeFuseCmd o v s = wrRefuse kACCESS_REFUSED (startFuse .refused s) := by
  unfold writeFuseCmd
  rw [if_neg ho, if_pos (by simpa using hv), endFuse_idle hidle]

section
variable {v : Word} {s : State}

theorem fuseKey : bits v.toNat 16 16 = v.toNat / 65536 := by
  have := v.isLt
  simp only [bits, Nat.shiftRight_eq_div_pow]
  omega

theorem fuseSlot : bits v.toNat 2 2 = v.toNat / 4 % 4 := by simp [bits, Nat.shiftRight_eq_div_pow]

theorem fuseOpOf_program (hv : v.toNat % 4 = 1) : fuseOpOf v s =
    some (if v.toNat / 65536 ≠ 0xF05E ∨ s.fuses.prog.getLsbD (v.toNat / 4 % 4) = true then .refused
      else .program (v.toNat / 4 % 4) s.ndy.fuseData) := by
  unfold fuseOpOf
  dsimp only
  rw [fuseKey, fuseSlot, hv, if_neg (by decide), if_pos rfl]
  by_cases hk : v.toNat / 65536 = 0xF05E
  · rw [if_neg (not_not.mpr hk)]
    by_cases hp : s.fuses.prog.getLsbD (v.toNat / 4 % 4) = true
    · rw [if_pos hp, if_pos (.inr hp)]
    · rw [if_neg hp, if_neg (by tauto)]
  · rw [if_pos hk, if_pos (.inl hk)]

/-- Another slot than `slot` is programmed and not revoked. -/
def otherLive (slot : Nat) (s : State) : Prop :=
  ∃ i, i < 4 ∧ i ≠ slot ∧ s.fuses.prog.getLsbD i = true ∧ s.fuses.revoked.getLsbD i = false

theorem live_all_iff (slot : Nat) (s : State) :
    ((List.range 4).filter (fun i => s.fuses.prog.getLsbD i && !s.fuses.revoked.getLsbD i)).all (· = slot) = true ↔ ¬ otherLive slot s := by
  simp only [List.all_eq_true, List.mem_filter, List.mem_range, Bool.and_eq_true, Bool.not_eq_true', decide_eq_true_eq, otherLive]
  constructor
  · rintro h ⟨i, hi, hne, hp, hr⟩
    exact hne (h i ⟨hi, hp, hr⟩)
  · rintro h i ⟨hi, hp, hr⟩
    by_contra hne
    exact h ⟨i, hi, hne, hp, hr⟩

theorem fuseOpOf_second (hv : v.toNat % 4 = 2) : fuseOpOf v s = if v.toNat / 65536 ≠ 0xF05E then some .refused
    else if (!s.fuses.prog.getLsbD (v.toNat / 4 % 4)
        || ((List.range 4).filter (fun i => s.fuses.prog.getLsbD i && !s.fuses.revoked.getLsbD i)).all (· = v.toNat / 4 % 4)) = true then
      some .refused
    else some (.revoke (v.toNat / 4 % 4)) := by
  unfold fuseOpOf
  dsimp only
  rw [fuseKey, fuseSlot, hv, if_neg (by decide), if_neg (show ¬ 2 = 1 by decide)]

theorem fuseOpOf_revoke (hv : v.toNat % 4 = 2) (hkey : v.toNat / 65536 = 0xF05E) (hprog : s.fuses.prog.getLsbD (v.toNat / 4 % 4) = true)
    (hlive : otherLive (v.toNat / 4 % 4) s) : fuseOpOf v s = some (.revoke (v.toNat / 4 % 4)) := by
  have hall := mt (live_all_iff _ s).mp (not_not.mpr hlive)
  rw [fuseOpOf_second hv, if_neg (not_not.mpr hkey), hprog, Bool.not_true, Bool.false_or, if_neg hall]

theorem fuseOpOf_revoke_refused (hv : v.toNat % 4 = 2)
    (h : v.toNat / 65536 ≠ 0xF05E ∨ s.fuses.prog.getLsbD (v.toNat / 4 % 4) = false ∨ ¬ otherLive (v.toNat / 4 % 4) s) :
    fuseOpOf v s = some .refused := by
  rw [fuseOpOf_second hv]
  rcases h with hkey | hprog | hlive
  · rw [if_pos hkey]
  · rw [hprog, Bool.not_false, Bool.true_or, if_pos rfl, ite_self]
  · rw [(live_all_iff _ s).mpr hlive, Bool.or_true, if_pos rfl, ite_self]

end

/-! ## An operation ends (R439) -/

/-- Words written side by side. -/
theorem mget_foldl_words (f : Nat → Word) (b j n : Nat) (m : AMap Word) :
    mget ((List.range n).foldl (fun m w => mput m (b + w) (f w) 0) m) j 0 = if b ≤ j ∧ j < b + n then f (j - b) else mget m j 0 := by
  induction n with
  | zero => rw [if_neg (by omega)]; rfl
  | succ n ih =>
    rw [List.range_succ, List.foldl_append, List.foldl_cons, List.foldl_nil, mget_mput, ih]
    by_cases h : b + n = j
    · rw [if_pos h, if_pos (by omega), show j - b = n by omega]
    · rw [if_neg h]
      exact if_congr (by omega) rfl rfl

/-- The words of one slot among those of all. -/
theorem mget_slotWords (f : Nat → Word) (slot j : Nat) (m : AMap Word) :
    mget ((List.range 24).foldl (fun m w => mput m (24 * slot + w) (f w) 0) m) j 0 = if j / 24 = slot then f (j % 24) else mget m j 0 := by
  rw [mget_foldl_words]
  by_cases h : j / 24 = slot
  · rw [if_pos h, if_pos (by omega), show j - 24 * slot = j % 24 by omega]
  · rw [if_neg h, if_neg (by omega)]

/-- A slot's bit is burnt. -/
theorem getLsbD_burnt (x : BitVec 4) {slot i : Nat} (hi : i < 4) :
    (x ||| (1#4 <<< slot)).getLsbD i = (decide (i = slot) || x.getLsbD i) := by
  have hbit : (1#4 <<< slot).getLsbD i = decide (i = slot) := by
    rw [← BitVec.twoPow_eq, BitVec.getLsbD_twoPow, Bool.eq_iff_iff]
    simp only [Bool.and_eq_true, decide_eq_true_eq]
    omega
  rw [BitVec.getLsbD_or, hbit, Bool.or_comm]

/-- The fuses after an operation. -/
def burn (op : FuseOp) (f : Fuses) : Fuses :=
  match op with
  | .refused => f
  | .program slot data =>
    { f with prog := f.prog ||| (1#4 <<< slot)
             hash := (List.range 24).foldl (fun m w => mput m (24 * slot + w) (mget data w 0) 0) f.hash }
  | .revoke slot => { f with revoked := f.revoked ||| (1#4 <<< slot) }

/-- The operation has ended. -/
def fuseEnded (op : FuseOp) (s : State) : State :=
  { s with fuses := burn op s.fuses, ndy := { s.ndy with fuse := none, fuseDone := true, fuseFail := decide (op = .refused) } }

theorem endFuse_busy {s : State} {op : FuseOp} (h : s.ndy.fuse = some op) : endFuse s = fuseEnded op s := by
  unfold endFuse
  rw [h]
  cases op <;> rfl

theorem fuseEnded_unchanged (op : FuseOp) (s : State) : Unchanged [.ndy, .fuses] s (fuseEnded op s) :=
  unchanged_of_mask ((mask_set_ndy (s := { s with fuses := burn op s.fuses }) rfl).trans (mask_set_fuses rfl))

/-! ## The obligation -/

/-- A FUSE_CMD that the management port writes. -/
theorem regWrite_fuseCmd_mgmt {o : Origin} {v : Word} {s : State} {op : FuseOp} (hr : Reaches o (rNdy 0x24) s) (ho : o = .mgmt)
    (hidle : s.ndy.fuse = none) (hop : fuseOpOf v s = some op) :
    ∃ t, regWrite o (rNdy 0x24) v false s = t ∧ t.ndy = { s.ndy with fuse := some op, fuseDone := false, fuseFail := false }
      ∧ SameDistaff s t ∧ Unchanged [.ndy, .dst] s t := by
  subst ho
  have hw : writeReg .mgmt (rNdy 0x24) v false s = wrDone (startFuse op s) := by rw [writeReg_fuseCmd, writeFuseCmd_mgmt hidle hop]
  obtain ⟨t, ht, hstart, hdst, hframe⟩ := regWrite_frame hr hw (startFuse_unchanged op s) (by decide)
  exact ⟨t, ht, hstart .ndy (by decide), hdst, hframe⟩

/-- A FUSE_CMD that comes from elsewhere. -/
theorem regWrite_fuseCmd_other {o : Origin} {v : Word} {s : State} (hr : Reaches o (rNdy 0x24) s) (ho : o ≠ .mgmt)
    (hidle : s.ndy.fuse = none) (hv : v.toNat % 4 = 1 ∨ v.toNat % 4 = 2) :
    Refused o (rNdy 0x24) (startFuse .refused s) (regWrite o (rNdy 0x24) v false s) := by
  have hw : writeReg o (rNdy 0x24) v false s = wrRefuse kACCESS_REFUSED (startFuse .refused s) := by
    rw [writeReg_fuseCmd, writeFuseCmd_other ho hidle hv]
  rw [regWrite_refused hr hw]
  exact refused_raiseAccess ..

theorem exec_fuseProgram {o : Origin} {v : Word} (hv : v.toNat % 4 = 1) (s : State) :
    exec (.fuseProgram o v) s = .next (regWrite o (rNdy 0x24) v false s) := congrArg Host.Outcome.next (if_pos hv)

theorem exec_fuseRevoke {o : Origin} {v : Word} (hv : v.toNat % 4 = 2) (s : State) :
    exec (.fuseRevoke o v) s = .next (regWrite o (rNdy 0x24) v false s) := congrArg Host.Outcome.next (if_pos hv)

theorem exec_fuseDone {s : State} {op : FuseOp} (h : s.ndy.fuse = some op) : exec .fuseDone s = .next (fuseEnded op s) :=
  congrArg Host.Outcome.next (endFuse_busy h)

/-- Settles O48: the operation that the command names, and what each operation burns. -/
theorem fusesBurnOnce : Obligations.FusesBurnOnce := by
  intro s hidle
  refine ⟨fun o v hr => ⟨fun hv op hop => ⟨fun ho => ?_, fun ho => ?_⟩, fun hv slot hslot => ⟨fun ho hkey hprog hlive => ?_, fun ho h => ?_,
    fun ho => ?_⟩⟩, fun op => ?_⟩
  · obtain ⟨t, ht, hrest⟩ := regWrite_fuseCmd_mgmt hr ho hidle (hop ▸ fuseOpOf_program hv)
    exact ⟨t, (exec_fuseProgram hv s).trans (congrArg _ ht), hrest⟩
  · exact ⟨_, exec_fuseProgram hv s, regWrite_fuseCmd_other hr ho hidle (.inl hv)⟩
  · subst hslot
    obtain ⟨t, ht, hrest⟩ := regWrite_fuseCmd_mgmt hr ho hidle (fuseOpOf_revoke hv hkey hprog hlive)
    exact ⟨t, (exec_fuseRevoke hv s).trans (congrArg _ ht), hrest⟩
  · subst hslot
    have hop : fuseOpOf v s = some .refused := fuseOpOf_revoke_refused hv (h.imp_right (Or.imp_right fun hall => ?_))
    · obtain ⟨t, ht, hrest⟩ := regWrite_fuseCmd_mgmt hr ho hidle hop
      exact ⟨t, (exec_fuseRevoke hv s).trans (congrArg _ ht), hrest⟩
    · rintro ⟨i, hi, hne, hp, hrev⟩
      rw [hall i hi hne hp] at hrev
      cases hrev
  · exact ⟨_, exec_fuseRevoke hv s, regWrite_fuseCmd_other hr ho hidle (.inr hv)⟩
  · have hstart : Unchanged [.ndy] s { s with ndy := { s.ndy with fuse := some op } } := unchanged_of_mask (mask_set_ndy rfl)
    refine ⟨_, exec_fuseDone rfl, rfl, hstart.trans (fuseEnded_unchanged op _) (by decide) (by decide), fun hop => ?_,
      fun slot data hop _ => ?_, fun slot hop _ => ?_⟩
    · rw [hop]
      rfl
    · rw [hop]
      exact ⟨fun i hi => getLsbD_burnt _ hi, rfl, fun w => mget_slotWords (fun w => mget data w 0) slot w s.fuses.hash⟩
    · rw [hop]
      exact ⟨fun i hi => getLsbD_burnt _ hi, rfl, rfl⟩

end Sys2Proof.Machine
end

section
/-! SUPPORT. Resets and the supply (R417, R418, R449, R452, R454, R455, R460): what each source of a device reset leaves, and what the
supply's changes show at the lands. -/

namespace Sys2Proof.Machine

/-! ## The supply -/

/-- What the supply's change to `p` shows at PWRGD and THERMTRIP_N (Table 16-9). -/
def powerShown (was p : Power) : List Out :=
  (if decide (was = .on) == decide (p = .on) then [] else [.pwrgd (decide (p = .on))])
    ++ (if decide (was = .thermal) == decide (p = .thermal) then [] else [.thermtrip (decide (p = .thermal))])

theorem setPower_eq (p : Power) (s : State) :
    setPower p s = { s with pkg := { s.pkg with power := p }, out := s.out ++ powerShown s.pkg.power p } := by
  unfold setPower powerShown
  dsimp only
  split <;> split <;> simp [setPkg, State.emit]

theorem setPower_unchanged (p : Power) (s : State) : Unchanged [.pkg, .out] s (setPower p s) := unchanged_of_mask (by simp [pieces])

/-! ## Causes -/

/-- POWER_ON and POWER_DOWN latch no cause (R418). -/
theorem latchCause_zero (s : State) : latchCause 0 s = 0 := by
  unfold latchCause
  exact if_neg (by simp)

theorem wholeReset_zero {s t : State} (h : Unchanged [.pkg, .out] (deviceReset 0 s) t) : WholeReset 0 s t :=
  latchCause_zero s ▸ WholeReset.of_unchanged h

/-! ## The sources -/

section
variable {s : State}

theorem exec_powerOn (h : s.pkg.power = .off) : exec .powerOn s = .next (setPower .on (deviceReset 0 s)) :=
  congrArg _ (if_pos h)

/-- What the package clears as the 12 V input falls (R452). -/
def supplyFallen (p : Pkg) : Pkg := { p with trips := [], tap := .idcode }

theorem exec_powerDown (h : s.pkg.power ≠ .off) : exec .powerDown s = .next (setPower .off (setPkg supplyFallen (deviceReset 0 s))) :=
  congrArg _ (if_pos h)

theorem exec_clockMonitorReset (h : s.clocksOn = true) : exec .clockMonitorReset s = .next (deviceReset 2 s) := congrArg _ (if_pos h)

theorem exec_resetPin (hlow : s.pkg.resetLow = false) (hon : s.pkg.power = .on) :
    exec .resetPin s = .next (setPkg (fun p => { p with resetLow := true }) (deviceReset 3 s)) :=
  congrArg _ ((if_neg (by simp [hlow])).trans (by rw [if_pos hon]))

theorem exec_vrFault (rail : BitVec 3) (hon : s.pkg.power = .on) :
    exec (.vrFault rail) s = .next (faultParam srcWhl kVR_FAULT rail.toNat s) := congrArg _ (if_pos hon)

/-- The trips of the last second (R455). -/
def recentTrips (s : State) : List Nat := s.pkg.trips.filter (fun t => s.wall < t + tripWindow)

/-- The supply after a trip: the third within 1 s latches it off. -/
def trippedTo (s : State) : Power := if 2 ≤ (recentTrips s).length then .latched else .tripped

def tripNoted (s : State) (p : Pkg) : Pkg := { p with trips := s.wall :: recentTrips s, tap := .idcode }

theorem exec_powerTrip (rail : BitVec 3) (h : s.pkg.power = .on ∨ s.pkg.power = .thermal) :
    exec (.powerTrip rail) s = .next (setPower (trippedTo s) (setPkg (tripNoted s) (deviceReset 4 s))) :=
  congrArg Host.Outcome.next (if_pos (by simpa using h))

theorem trippedTo_eq (s : State) :
    trippedTo s = if 2 ≤ s.pkg.trips.countP (fun w => decide (s.wall < w + 325000000)) then .latched else .tripped := by
  unfold trippedTo recentTrips
  rw [← List.countP_eq_length_filter]
  rfl

/-- A trip from a supply that stood, or from the thermal state, shows on the land of that state alone. -/
theorem powerShown_tripped {p : Power} (h : p = .on ∨ p = .thermal) (s : State) :
    powerShown p (trippedTo s) = if p = .on then [.pwrgd false] else [.thermtrip false] := by
  unfold trippedTo
  rcases h with rfl | rfl <;> split <;> rfl

theorem exec_regulatorRestart {w : Nat} {r : List Nat} (hp : s.pkg.power = .tripped) (ht : s.pkg.trips = w :: r)
    (hdue : w + 3250000 ≤ s.wall) : exec .regulatorRestart s = .next (setPower .on s) := by
  show execRegulatorRestart s = _
  unfold execRegulatorRestart
  rw [hp, ht]
  exact congrArg _ (if_pos hdue)

theorem exec_thermtripRelease {m : Sample} (hwf : m.wf = true) (hp : s.pkg.power = .thermal) (hdie : ∀ x ∈ m.die, x.toInt ≤ 16 * 95)
    (hskn : ∀ x ∈ m.skn, x.toInt ≤ 16 * 80) : exec (.thermtripRelease m) s = .next (setPower .on s) := by
  have hcool : cooled m = true := by
    unfold cooled
    rw [Bool.and_eq_true, List.all_eq_true, List.all_eq_true]
    exact ⟨fun x hx => decide_eq_true (hdie x hx), fun x hx => decide_eq_true (hskn x hx)⟩
  exact (guarded_runs (i := .thermtripRelease m) hwf _).trans (congrArg _ (if_pos (by rw [hcool, hp]; rfl)))

end

/-- The TAP as RESET_N rises (R470). -/
theorem releaseTap_drives {t : Tap} (h : t = .extest ∨ t = .clamp ∨ t = .highz) : releaseTap t = .bypass := by
  rcases h with rfl | rfl | rfl <;> rfl

theorem releaseTap_other {t : Tap} (he : t ≠ .extest) (hc : t ≠ .clamp) (hh : t ≠ .highz) : releaseTap t = t := by
  unfold releaseTap
  exact if_neg (by simp [he, hc, hh])

/-- Settles O44: each source is a device reset, and then what the package does of itself. -/
theorem resetsReachEverything : Obligations.ResetsReachEverything := by
  intro s
  refine ⟨fun h => ?_, fun h => ?_, fun h => ?_, fun hlow hon => ?_, ?_, fun rail hon => ?_, fun rail h => ?_, fun w r hp ht hdue => ?_,
    fun m hwf hp hdie hskn => ?_⟩
  · refine ⟨_, exec_powerOn h, wholeReset_zero (setPower_unchanged _ _), ?_, ?_⟩ <;> rw [setPower_eq]
    · rfl
    · show s.out ++ powerShown s.pkg.power .on = _
      rw [h]
      rfl
  · refine ⟨_, exec_powerDown h, wholeReset_zero ((setPkg_unchanged _ _).trans (setPower_unchanged _ _) (by decide) (by decide)), ?_, ?_⟩ <;>
      rw [setPower_eq]
    · rfl
    · show s.out ++ powerShown s.pkg.power .off = _
      cases hp : s.pkg.power <;> simp [powerShown]
  · exact ⟨_, exec_clockMonitorReset h, .of_unchanged (unchanged_of_mask rfl), rfl, rfl⟩
  · exact ⟨_, exec_resetPin hlow hon, .of_unchanged ((setPkg_unchanged _ _).mono (by decide)), rfl, rfl⟩
  · exact ⟨_, rfl, rfl, releaseTap_drives, releaseTap_other, setPkg_unchanged _ s⟩
  · refine ⟨_, exec_vrFault rail hon, ?_, sendMsg_unchanged _ none s⟩
    rw [← BitVec.ofNat_toNat]
    exact sent_sendMsg _ s
  · refine ⟨_, exec_powerTrip rail h, .of_unchanged ((setPkg_unchanged _ _).trans (setPower_unchanged _ _) (by decide) (by decide)), ?_, ?_, ?_, ?_⟩
      <;> rw [setPower_eq]
    · exact trippedTo_eq s
    · rfl
    · rfl
    · exact congrArg (s.out ++ ·) (powerShown_tripped h s)
  · refine ⟨_, exec_regulatorRestart hp ht hdue, ?_, ?_, setPower_unchanged _ s⟩ <;> rw [setPower_eq]
    dsimp only
    rw [hp]
    rfl
  · refine ⟨_, exec_thermtripRelease hwf hp hdie hskn, ?_, ?_, setPower_unchanged _ s⟩ <;> rw [setPower_eq]
    dsimp only
    rw [hp]
    rfl

end Sys2Proof.Machine
end

section
/-! SUPPORT. The whorl (R456, R457, R460, R461, R463): a control period, stage by stage, the flow's two events, and TAB_DATA. -/

namespace Sys2Proof.Machine

/-! ## The readings (R461) -/

/-- What a control period keeps of its readings: of the coolant, what is enabled. -/
def keptWhl (m : Sample) (wall : Nat) (w : Whl) : Whl :=
  let f := flowOf w.table m.pulses
  let low := decide (f < tabFlowMin w.table)
  { w with
    power := m.power, die := m.die, skn := m.skn, rails := m.rails
    inlet := if tabInletEn w.table then m.inlet else w.inlet
    flow := if tabFlowEn w.table then BitVec.ofNat 16 f else w.flow
    flowBelow := if tabFlowEn w.table && low then some (w.flowBelow.getD wall) else none
    flowAbove := if tabFlowEn w.table && !low then some (w.flowAbove.getD wall) else none }

theorem keptWhl_flow {m : Sample} {wall : Nat} {w : Whl} (hen : tabFlowEn w.table = true) :
    (keptWhl m wall w).flow = BitVec.ofNat 16 (flowOf w.table m.pulses)
    ∧ (keptWhl m wall w).flowBelow = (if flowOf w.table m.pulses < tabFlowMin w.table then some (w.flowBelow.getD wall) else none)
    ∧ (keptWhl m wall w).flowAbove = (if flowOf w.table m.pulses < tabFlowMin w.table then none else some (w.flowAbove.getD wall)) := by
  unfold keptWhl
  by_cases hlow : flowOf w.table m.pulses < tabFlowMin w.table <;> simp [hen, hlow]

theorem keptWhl_noFlow {m : Sample} {wall : Nat} {w : Whl} (hen : tabFlowEn w.table = false) :
    (keptWhl m wall w).flow = w.flow ∧ (keptWhl m wall w).flowBelow = none ∧ (keptWhl m wall w).flowAbove = none := by
  unfold keptWhl
  simp [hen]

theorem keepSample_eq (m : Sample) (s : State) : keepSample m s = { s with whl := keptWhl m s.wall s.whl } := by
  unfold keepSample keptWhl watchFlow
  dsimp only
  cases tabInletEn s.whl.table <;> cases tabFlowEn s.whl.table <;>
    cases decide (flowOf s.whl.table m.pulses < tabFlowMin s.whl.table) <;> rfl

theorem keepSample_unchanged (m : Sample) (s : State) : Unchanged [.whl] s (keepSample m s) := unchanged_of_mask (by simp [pieces])

/-! ## The levels (R456) -/

/-- The levels after a period in which the readings `m` came, over the levels `old`; `s` has the readings and the limits. -/
def leveled (m : Sample) (old : Whl) (s : State) : Whl :=
  let pl := powerLevel m.power (s.getReg (rWhl 4)).toNat (s.getReg (rWhl 8)).toNat (s.getReg (rWhl 0xC)).toNat old.plev old.below
  let cl := curveLevel (hottest (numbered m.die)).2.toInt (tabCt s.whl.table) (tabChyst s.whl.table) old.clev
  let dl := curveLevel (hottest (numbered m.skn)).2.toInt (tabDt s.whl.table) (tabDhyst s.whl.table) old.dlev
  { s.whl with level := if old.flowLow then max (max pl.1 (max cl dl)) 8 else max pl.1 (max cl dl)
               plev := pl.1, clev := cl, dlev := dl, below := pl.2 }

/-- The state with its levels, where POWER_CAP has been sent if the power level has come to 15. -/
def capped (m : Sample) (old : Whl) (s : State) : State :=
  if (leveled m old s).plev = 15 && old.plev < 15 then faultParam srcWhl kPOWER_CAP 0 { s with whl := leveled m old s }
  else { s with whl := leveled m old s }

/-- The state with the energy counted and the faults of the limits sent. -/
def warmed (m : Sample) (old : Whl) (s : State) : State := heatFaults old m (addEnergy m.power (capped m old s))

/-- The state before the period writes CLK[0]_ISSUE: refresh rates and the count of throttled periods too. -/
def settled (m : Sample) (old : Whl) (s : State) : State :=
  if (leveled m old s).level = 0 then setRefresh m (warmed m old s) else (setRefresh m (warmed m old s)).count (rWhl 0x18) 1

theorem evaluate_eq (m : Sample) (old : Whl) (s : State) :
    evaluate m old s = setIssue (leveled m old s).level (settled m old s) := rfl

/-! ## What each stage leaves -/

section
variable (m : Sample) (old : Whl) (s : State)

theorem capped_whl : (capped m old s).whl = leveled m old s := by
  unfold capped
  split
  · exact sendMsg_unchanged _ none { s with whl := leveled m old s } .whl (by decide)
  · rfl

theorem capped_unchanged : Unchanged [.whl, .dst, .seqs] s (capped m old s) := by
  have hset : Unchanged [.whl] s { s with whl := leveled m old s } := unchanged_of_mask (mask_set_whl rfl)
  unfold capped
  split
  · exact hset.trans (sendMsg_unchanged _ none _) (by decide) (by decide)
  · exact hset.mono (by decide)

theorem addEnergy_unchanged (p : Nat) : Unchanged [.reg, .whl] s (addEnergy p s) := unchanged_of_mask (by simp [pieces])

theorem addEnergy_whl (p : Nat) : ∃ e, (addEnergy p s).whl = { s.whl with energy := e } :=
  ⟨_, count_unchanged (rWhl 0x14) _ _ .whl (by decide)⟩

theorem addEnergy_getReg (p : Nat) {a : Nat} (ha : rWhl 0x14 ≠ a) : (addEnergy p s).getReg a = s.getReg a :=
  getReg_count_ne ha _ _

theorem heatFaults_unchanged : Unchanged [.dst, .seqs, .whl] s (heatFaults old m s) := unchanged_of_mask (by simp [pieces])

theorem heatFaults_whl : ∃ (high : Bool) (die skn : List Nat),
    (heatFaults old m s).whl = { s.whl with inletHigh := high, dieHot := die, sknHot := skn } := by
  have hsent (k : Byte) (i : Nat) (t : State) : Unchanged [.dst, .seqs] t (faultParam srcWhl k i t) := sendMsg_unchanged _ none t
  have hfold (k : Byte) (l : List Nat) (t : State) : Unchanged [.dst, .seqs] t (l.foldl (fun s i => faultParam srcWhl k i s) t) :=
    unchanged_of_mask (by simp [pieces])
  unfold heatFaults
  extract_lets t die skn s1 s2 high s3
  have h2 : Unchanged [.dst, .seqs] s s2 := (hfold _ _ s).trans (hfold _ _ s1) (by decide) (by decide)
  have h3 : Unchanged [.dst, .seqs] s2 s3 := by
    unfold s3
    split
    · exact hsent _ _ _
    · exact unchanged_of_mask rfl
  have hwhl : s3.whl = s.whl := h2.trans h3 (n := [.dst, .seqs]) (by decide) (by decide) .whl (by decide)
  exact ⟨high, die, skn, congrArg (fun w : Whl => { w with inletHigh := high, dieHot := die, sknHot := skn }) hwhl⟩

theorem setRefresh_unchanged : Unchanged [.skn] s (setRefresh m s) := unchanged_of_mask (by simp [pieces])

end

/-- A pass over skeins, each once, of which each step changes its own skein alone. -/
theorem foldl_setSkein (g : Nat → Skn → Skn) (j : Nat) (l : List Nat) (hl : l.Nodup) (s : State) :
    (l.foldl (fun s k => s.setSkein k (g k (s.skein k))) s).skein j = if j ∈ l then g j (s.skein j) else s.skein j := by
  induction l generalizing s with
  | nil => rfl
  | cons k l ih =>
    obtain ⟨hk, hl⟩ := List.nodup_cons.mp hl
    rw [List.foldl_cons, ih hl, State.skein_setSkein]
    by_cases h : k = j
    · subst h
      rw [if_neg hk, if_pos rfl, if_pos List.mem_cons_self]
    · rw [if_neg h]
      exact if_congr (by simp [Ne.symm h]) rfl rfl

/-- A skein whose refresh rate follows the reading of its sensor (R460). -/
def refreshed (m : Sample) (t : List Byte) (k : Nat) (x : Skn) : Skn :=
  { x with refresh := BitVec.ofNat 2 (refreshRate (m.skn.getD k 0).toInt (tabRef2 t) (tabRef4 t) (tabRhyst t) x.refresh.toNat) }

theorem setRefresh_skein (m : Sample) (s : State) {k : Nat} (hk : k < 32) :
    (setRefresh m s).skein k = refreshed m s.whl.table k (s.skein k) :=
  (foldl_setSkein (refreshed m s.whl.table) k (List.range 32) List.nodup_range s).trans (if_pos (List.mem_range.mpr hk))

section
variable (m : Sample) (old : Whl) (s : State)

theorem warmed_unchanged : Unchanged [.whl, .reg, .dst, .seqs] s (warmed m old s) :=
  ((capped_unchanged m old s).trans (addEnergy_unchanged _ _) (n := [.whl, .reg, .dst, .seqs]) (by decide) (by decide)).trans
    (heatFaults_unchanged m old _) (by decide) (by decide)

theorem warmed_whl : ∃ (e : Nat) (high : Bool) (die skn : List Nat), (warmed m old s).whl
    = { leveled m old s with energy := e, inletHigh := high, dieHot := die, sknHot := skn } := by
  obtain ⟨e, he⟩ := addEnergy_whl (capped m old s) m.power
  obtain ⟨high, die, skn, hh⟩ := heatFaults_whl m old (addEnergy m.power (capped m old s))
  rw [he, capped_whl] at hh
  exact ⟨e, high, die, skn, hh⟩

theorem warmed_getReg {a : Nat} (ha : rWhl 0x14 ≠ a) : (warmed m old s).getReg a = s.getReg a := by
  unfold warmed
  rw [getReg_of_reg (heatFaults_unchanged m old _ .reg (by decide)), addEnergy_getReg _ _ ha,
    getReg_of_reg (capped_unchanged m old s .reg (by decide))]

/-- What the counter of throttled periods leaves. -/
theorem settled_counted : Unchanged [.reg] (setRefresh m (warmed m old s)) (settled m old s) := by
  unfold settled
  split
  · exact unchanged_of_mask rfl
  · exact count_unchanged _ _ _

/-- What follows the counting of energy. -/
theorem settled_of_warmed : Unchanged [.skn, .reg] (warmed m old s) (settled m old s) :=
  (setRefresh_unchanged m _).trans (settled_counted m old s) (by decide) (by decide)

/-- The stages before the write of CLK[0]_ISSUE. -/
theorem settled_unchanged : Unchanged [.whl, .reg, .skn, .dst, .seqs] s (settled m old s) :=
  (warmed_unchanged m old s).trans (settled_of_warmed m old s) (by decide) (by decide)

theorem settled_whl : ∃ (e : Nat) (high : Bool) (die skn : List Nat), (settled m old s).whl
    = { leveled m old s with energy := e, inletHigh := high, dieHot := die, sknHot := skn } := by
  obtain ⟨e, high, die, skn, h⟩ := warmed_whl m old s
  exact ⟨e, high, die, skn, Eq.trans (settled_of_warmed m old s .whl (by decide)) h⟩

theorem skein_of_skn {s t : State} (h : t.skn = s.skn) (k : Nat) : t.skein k = s.skein k := by
  unfold State.skein
  rw [h]

theorem settled_skein {k : Nat} (hk : k < 32) : (settled m old s).skein k = refreshed m s.whl.table k (s.skein k) := by
  obtain ⟨e, high, die, skn, h⟩ := warmed_whl m old s
  have htable : (warmed m old s).whl.table = s.whl.table := (congrArg Whl.table h).trans rfl
  have hlast : (settled m old s).skein k = (setRefresh m (warmed m old s)).skein k :=
    skein_of_skn (settled_counted m old s .skn (by decide)) k
  have hfirst : (warmed m old s).skein k = s.skein k :=
    skein_of_skn (warmed_unchanged m old s .skn (by decide)) k
  rw [hlast, setRefresh_skein _ _ hk, htable, hfirst]

theorem settled_getReg {a : Nat} (h14 : rWhl 0x14 ≠ a) (h18 : rWhl 0x18 ≠ a) : (settled m old s).getReg a = s.getReg a := by
  have hlast : (settled m old s).getReg a = (setRefresh m (warmed m old s)).getReg a := by
    unfold settled
    split
    · rfl
    · exact getReg_count_ne h18 _ _
  rw [hlast, getReg_of_reg (setRefresh_unchanged m _ .reg (by decide)), warmed_getReg m old s h14]

end

/-! ## The whorl writes CLK[0]_ISSUE (R456) -/

theorem reach_issue (s : State) : reachRefusal .niddy (rClk 0xA0) s = none := rfl

theorem niddyWrite_issue_legal {v : Word} (h : (issueFields v).all (fun x => 1 ≤ x && x ≤ 64) = true) (s : State) :
    niddyWrite (rClk 0xA0) v s = tagNew (originFlags .niddy) s (s.setReg (rClk 0xA0) (v &&& issueMask)) := by
  unfold niddyWrite accessWrite
  rw [reach_issue]
  dsimp only
  rw [writeReg_issue_legal h]
  rfl

theorem niddyWrite_issue_illegal {v : Word} (h : ¬ (issueFields v).all (fun x => 1 ≤ x && x ≤ 64) = true) (s : State) :
    ∃ m, niddyWrite (rClk 0xA0) v s = sendMsg m none s := by
  unfold niddyWrite accessWrite
  rw [reach_issue]
  dsimp only
  rw [writeReg_issue_illegal h]
  exact ⟨_, rfl⟩

theorem setIssue_unchanged (lev : Nat) (s : State) : Unchanged [.reg, .dst, .seqs] s (setIssue lev s) := by
  unfold setIssue
  by_cases h : (issueFields (issueOf s lev)).all (fun x => 1 ≤ x && x ≤ 64) = true
  · rw [niddyWrite_issue_legal h]
    exact (setReg_unchanged _ _ s).trans (tagNew_unchanged _ s _) (by decide) (by decide)
  · obtain ⟨m, hm⟩ := niddyWrite_issue_illegal h s
    rw [hm]
    exact (sendMsg_unchanged m none s).mono (by decide)

/-- The limits of level `lev` under the ceilings `ceil`. -/
def limitsUnder (t : List Byte) (ceil : Word) (lev : Nat) : List Nat :=
  (List.range 4).map (fun c => min (tabRow t lev c) ((issueFields ceil).getD c 0))

/-- A fold of sums over four indices. -/
theorem foldl_four (g : Nat → Nat) : (List.range 4).foldl (fun acc c => acc + g c) 0 = g 0 + g 1 + g 2 + g 3 := by
  simp [List.range_succ]

/-- The word of four fields of seven bits, one in each byte. -/
theorem packWord_bytes (x : Nat → Nat) (h : ∀ c, c < 4 → x c < 128) :
    (packWord ((List.range 4).map (fun c => (8 * c, 7, x c)))).toNat = x 0 + x 1 * 256 + x 2 * 65536 + x 3 * 16777216 := by
  have h0 := h 0 (by decide)
  have h1 := h 1 (by decide)
  have h2 := h 2 (by decide)
  have h3 := h 3 (by decide)
  unfold packWord
  rw [List.foldl_map, foldl_four (fun c => x c % 2 ^ 7 * 2 ^ (8 * c)), BitVec.toNat_ofNat]
  norm_num
  omega

/-- Four fields of seven bits, one in each byte, are what they were packed from. -/
theorem issueFields_packed (x : Nat → Nat) (h : ∀ c, c < 4 → x c < 128) :
    issueFields (packWord ((List.range 4).map (fun c => (8 * c, 7, x c)))) = (List.range 4).map x := by
  have h0 := h 0 (by decide)
  have h1 := h 1 (by decide)
  have h2 := h 2 (by decide)
  have h3 := h 3 (by decide)
  rw [issueFields_eq, packWord_bytes x h]
  refine List.map_congr_left fun c hc => ?_
  have hc := List.mem_range.mp hc
  interval_cases c <;> omega

/-- The reserved bits play no part in the fields. -/
theorem issueFields_masked (v : Word) : issueFields (v &&& issueMask) = issueFields v := by
  rw [issueFields_eq, issueFields_eq]
  refine List.map_congr_left fun j hj => ?_
  have hmask : ∀ j : Fin 4, issueMask.toNat / 2 ^ (8 * j.val) % 2 ^ 7 = 2 ^ 7 - 1 := by decide
  rw [BitVec.toNat_and, Nat.and_div_two_pow, show 128 = 2 ^ 7 from rfl, Nat.and_mod_two_pow, hmask ⟨j, List.mem_range.mp hj⟩,
    Nat.and_two_pow_sub_one_eq_mod, Nat.mod_mod]

theorem issueFields_issueOf {lev : Nat} {s : State} (h : ∀ x ∈ limitsUnder s.whl.table (s.getReg (rWhl 0x1C)) lev, 1 ≤ x ∧ x ≤ 64) :
    issueFields (issueOf s lev) = limitsUnder s.whl.table (s.getReg (rWhl 0x1C)) lev := by
  unfold issueOf
  refine issueFields_packed (fun c => min (tabRow s.whl.table lev c) ((issueFields (s.getReg (rWhl 0x1C))).getD c 0)) fun c hc => ?_
  exact lt_of_le_of_lt (h _ (List.mem_map.mpr ⟨c, List.mem_range.mpr hc, rfl⟩)).2 (by decide)

/-- Limits from 1 to 64 take effect. -/
theorem setIssue_limits {lev : Nat} {s : State} (h : ∀ x ∈ limitsUnder s.whl.table (s.getReg (rWhl 0x1C)) lev, 1 ≤ x ∧ x ≤ 64) :
    issueFields ((setIssue lev s).getReg (rClk 0xA0)) = limitsUnder s.whl.table (s.getReg (rWhl 0x1C)) lev := by
  have hfields := issueFields_issueOf h
  have hlegal : (issueFields (issueOf s lev)).all (fun x => 1 ≤ x && x ≤ 64) = true := by
    rw [hfields, List.all_eq_true]
    exact fun x hx => by simpa using h x hx
  unfold setIssue
  rw [niddyWrite_issue_legal hlegal]
  rw [getReg_of_reg (tagNew_unchanged (originFlags .niddy) s _ .reg (by decide)), getReg_setReg, if_pos rfl, issueFields_masked, hfields]

/-! ## WHORL_PERIOD -/

section
variable {m : Sample} {s : State}

theorem exec_whorlPeriod (hwf : m.wf = true) (hon : s.pkg.power = .on) (hlow : s.pkg.resetLow = false) :
    exec (.whorlPeriod m) s = .next (if tripsNow s m then thermalTrip s else if s.whl.table.isEmpty then keepSample m s
      else evaluate m s.whl (keepSample m s)) :=
  (guarded_runs (i := .whorlPeriod m) hwf _).trans (congrArg _ (if_pos (by rw [hon, hlow]; rfl)))

theorem whorlPeriod_trips (hwf : m.wf = true) (hon : s.pkg.power = .on) (hlow : s.pkg.resetLow = false) (ht : tripsNow s m = true) :
    ∃ t, exec (.whorlPeriod m) s = .next t ∧ WholeReset (latchCause 4 s) s t ∧ t.pkg = { s.pkg with power := .thermal, resetAt := some s.wall }
      ∧ t.out = s.out ++ [.pwrgd false, .thermtrip true] := by
  refine ⟨thermalTrip s, (exec_whorlPeriod hwf hon hlow).trans (congrArg _ (if_pos ht)), .of_unchanged (setPower_unchanged _ _), ?_, ?_⟩ <;>
    unfold thermalTrip <;> rw [setPower_eq]
  · rfl
  · show s.out ++ powerShown s.pkg.power .thermal = _
    rw [hon]
    rfl

theorem whorlPeriod_bare (hwf : m.wf = true) (hon : s.pkg.power = .on) (hlow : s.pkg.resetLow = false) (ht : tripsNow s m = false)
    (htab : s.whl.table = []) : exec (.whorlPeriod m) s = .next (keepSample m s) := by
  rw [exec_whorlPeriod hwf hon hlow, ht, htab]
  rfl

theorem whorlPeriod_evaluates (hwf : m.wf = true) (hon : s.pkg.power = .on) (hlow : s.pkg.resetLow = false) (ht : tripsNow s m = false)
    (htab : s.whl.table ≠ []) : exec (.whorlPeriod m) s = .next (evaluate m s.whl (keepSample m s)) := by
  rw [exec_whorlPeriod hwf hon hlow, ht, if_neg (by decide), if_neg (by simpa using htab)]

end

/-! ## What an evaluation leaves -/

section
variable (m : Sample) (s : State)

/-- The levels stand on the limits and the table as they were before the readings. -/
theorem leveled_kept : leveled m s.whl (keepSample m s) = { leveled m s.whl s with
    power := m.power, die := m.die, skn := m.skn, rails := m.rails, inlet := (keptWhl m s.wall s.whl).inlet
    flow := (keptWhl m s.wall s.whl).flow, flowBelow := (keptWhl m s.wall s.whl).flowBelow
    flowAbove := (keptWhl m s.wall s.whl).flowAbove } := by
  rw [keepSample_eq]
  rfl

theorem evaluate_unchanged : Unchanged [.whl, .reg, .skn, .dst, .seqs] s (evaluate m s.whl (keepSample m s)) :=
  ((keepSample_unchanged m s).trans (settled_unchanged m s.whl _) (n := [.whl, .reg, .skn, .dst, .seqs]) (by decide) (by decide)).trans
    (setIssue_unchanged _ _) (by decide) (by decide)

theorem evaluate_whl : ∃ (e : Nat) (high : Bool) (die skn : List Nat), (evaluate m s.whl (keepSample m s)).whl
    = { leveled m s.whl (keepSample m s) with energy := e, inletHigh := high, dieHot := die, sknHot := skn } := by
  obtain ⟨e, high, die, skn, h⟩ := settled_whl m s.whl (keepSample m s)
  exact ⟨e, high, die, skn, Eq.trans (setIssue_unchanged (leveled m s.whl (keepSample m s)).level _ .whl (by decide)) h⟩

theorem evaluate_skein {k : Nat} (hk : k < 32) :
    (evaluate m s.whl (keepSample m s)).skein k = refreshed m s.whl.table k (s.skein k) := by
  have hskn : (evaluate m s.whl (keepSample m s)).skn = (settled m s.whl (keepSample m s)).skn := setIssue_unchanged _ _ .skn (by decide)
  have hsettled := settled_skein m s.whl (keepSample m s) hk
  rw [keepSample_eq] at hsettled hskn ⊢
  unfold State.skein at hsettled ⊢
  rw [hskn]
  exact hsettled

/-- The limits of the new level under the ceilings, where they are legal. -/
theorem evaluate_limits
    (h : ∀ x ∈ limitsUnder s.whl.table (s.getReg (rWhl 0x1C)) (leveled m s.whl (keepSample m s)).level, 1 ≤ x ∧ x ≤ 64) :
    issueFields ((evaluate m s.whl (keepSample m s)).getReg (rClk 0xA0))
      = limitsUnder s.whl.table (s.getReg (rWhl 0x1C)) (leveled m s.whl (keepSample m s)).level := by
  obtain ⟨e, high, die, skn, hwhl⟩ := settled_whl m s.whl (keepSample m s)
  have htable : (settled m s.whl (keepSample m s)).whl.table = s.whl.table := by
    rw [hwhl, leveled_kept]
    rfl
  have hceil : (settled m s.whl (keepSample m s)).getReg (rWhl 0x1C) = s.getReg (rWhl 0x1C) :=
    (settled_getReg m s.whl _ (by decide) (by decide)).trans (getReg_of_reg (keepSample_unchanged m s .reg (by decide)) _)
  rw [evaluate_eq, ← htable, ← hceil]
  rw [← htable, ← hceil] at h
  exact setIssue_limits h

end

/-- The limits of a row from 1 to 64 stay so under ceilings of at least 1. -/
theorem limitsUnder_legal {t : List Byte} {ceil : Word} {lev : Nat}
    (h : (List.range 4).all (fun c => 1 ≤ tabRow t lev c && tabRow t lev c ≤ 64 && 1 ≤ (issueFields ceil).getD c 0) = true) :
    ∀ x ∈ limitsUnder t ceil lev, 1 ≤ x ∧ x ≤ 64 := by
  intro x hx
  obtain ⟨c, hc, rfl⟩ := List.mem_map.mp hx
  have hrow := List.all_eq_true.mp h c hc
  simp only [Bool.and_eq_true, decide_eq_true_eq] at hrow
  omega

/-! ## The flow's events (R461) -/

section
variable {s : State} {w : Nat}

theorem heldFor_some {w wall : Nat} (h : w + 325000000 ≤ wall) : heldFor (some w) wall = true := by
  unfold heldFor tripWindow
  exact decide_eq_true h

theorem exec_flowLow (hen : tabFlowEn s.whl.table = true) (hlow : s.whl.flowLow = false) (hsince : s.whl.flowBelow = some w)
    (hdue : w + 325000000 ≤ s.wall) :
    exec .flowLow s = .next (faultParam srcWhl kTHERM_COMPUTE 0xF1 { s with whl := { s.whl with flowLow := true } }) := by
  refine congrArg _ (if_pos ?_)
  rw [hen, hlow, hsince, heldFor_some hdue]
  rfl

theorem exec_flowRestored (hlow : s.whl.flowLow = true) (hsince : s.whl.flowAbove = some w) (hdue : w + 325000000 ≤ s.wall) :
    exec .flowRestored s = .next { s with whl := { s.whl with flowLow := false } } := by
  refine congrArg _ (if_pos ?_)
  rw [hlow, hsince, heldFor_some hdue]
  rfl

theorem whl_unchanged (x : Whl) : Unchanged [.whl] s { s with whl := x } := unchanged_of_mask (mask_set_whl rfl)

end

/-! ## TAB_DATA (R463) -/

theorem writeReg_tabData (o : Origin) (v : Word) (e : Bool) (s : State) : writeReg o (rWhl 0x34) v e s = writeTab v s := by
  obtain ⟨r, hrow, hrw⟩ : ∃ r, regRow (rWhl 0x34) = some r ∧ (r.allRo || r.isRc) = false := ⟨_, rfl, rfl⟩
  unfold writeReg
  rw [hrow]
  dsimp only
  rw [hrw]
  rfl

/-- A write of TAB_DATA to a whole table: the word that TAB_SEL names is `v`, if the table stays valid. -/
theorem writeTab_word {s : State} {v : Word} {w : Nat} {l : List Byte} (hw : w = (s.getReg (rWhl 0x30)).toNat % 64)
    (hlen : s.whl.table.length = 256) (hl : l = s.whl.table.take (4 * w) ++ leBytes 4 v.toNat ++ s.whl.table.drop (4 * w + 4)) :
    writeTab v s = if tabOk l then wrDone { s with whl := { s.whl with table := l } } else wrRefuse kACCESS_REFUSED s := by
  have hsome : s.whl.table.isEmpty = false := by
    cases h : s.whl.table
    · rw [h] at hlen
      cases hlen
    · rfl
  subst hw hl
  unfold writeTab
  rw [hsome]
  rfl

/-! ## The obligation -/

/-- Settles O45: a period is the readings, the levels and what follows from them, and the write of CLK[0]_ISSUE. -/
theorem whorlPeriodActs : Obligations.WhorlPeriodActs := by
  refine ⟨fun m s hwf hon hlow => ⟨fun ht => whorlPeriod_trips hwf hon hlow ht, fun ht htab => ?_, fun pl cl dl f ht htab hpl hcl hdl hf => ?_⟩,
    fun s w hen hlow hsince hdue => ?_, fun s w hlow hsince hdue => ?_, fun o v s w l hr hw hlen hl => ⟨fun hok => ?_, fun hbad => ?_⟩⟩
  · refine ⟨_, whorlPeriod_bare hwf hon hlow ht htab, ?_⟩
    have hframe := keepSample_unchanged m s
    rw [keepSample_eq] at hframe ⊢
    exact ⟨rfl, rfl, rfl, rfl, rfl, hframe⟩
  · subst hpl hcl hdl hf
    obtain ⟨e, high, die, skn, hwhl⟩ := evaluate_whl m s
    have hlimits := evaluate_limits m s
    refine ⟨_, whorlPeriod_evaluates hwf hon hlow ht htab, ?_⟩
    rw [leveled_kept] at hwhl hlimits
    rw [hwhl]
    refine ⟨rfl, rfl, rfl, rfl, rfl, rfl, rfl, rfl, rfl, rfl, keptWhl_flow, keptWhl_noFlow, rfl, rfl,
      fun k hk => evaluate_skein m s hk, fun h => hlimits (limitsUnder_legal h), evaluate_unchanged m s⟩
  · exact ⟨_, exec_flowLow hen hlow hsince hdue, sendMsg_unchanged _ none { s with whl := _ } .whl (by decide), sent_sendMsg _ _,
      (whl_unchanged _).trans (sendMsg_unchanged _ none _) (by decide) (by decide)⟩
  · exact ⟨_, exec_flowRestored hlow hsince hdue, rfl, whl_unchanged _⟩
  · have hst : writeReg o (rWhl 0x34) v false s = wrDone { s with whl := { s.whl with table := l } } :=
      (writeReg_tabData o v false s).trans ((writeTab_word hw hlen hl).trans (if_pos hok))
    obtain ⟨t, ht, htab, hdst, hframe⟩ := regWrite_frame hr hst (whl_unchanged _) (by decide)
    exact ⟨t, congrArg _ ht, htab .whl (by decide), hdst, hframe⟩
  · exact ⟨_, rfl, refused_regWrite hr ((writeReg_tabData o v false s).trans ((writeTab_word hw hlen hl).trans (if_neg (by simp [hbad]))))⟩

end Sys2Proof.Machine
end

section
/-! SUPPORT. No step clears a fuse (R439, R449): only the end of a fuse operation burns any, and every way to a register write passes it. -/

namespace Sys2Proof.Machine

/-- Every fuse bit that is set in `s` is set in `t`. -/
structure FusesKept (s t : State) : Prop where
  prog : ∀ i, s.fuses.prog.getLsbD i = true → t.fuses.prog.getLsbD i = true
  revoked : ∀ i, s.fuses.revoked.getLsbD i = true → t.fuses.revoked.getLsbD i = true

/-- Every piece but the fuses. -/
def notFuses (p : Piece) : Bool := p ≠ .fuses

@[simp] theorem notFuses_eq_true {p : Piece} (h : p ≠ .fuses) : notFuses p = true := decide_eq_true h

@[simp] theorem covers_notFuses {K : List Piece} (h : Piece.fuses ∈ K) : Covers K notFuses :=
  fun _ hK => notFuses_eq_true (fun he => hK (he ▸ h))

section
variable {s t u : State}

theorem FusesKept.refl (s : State) : FusesKept s s := ⟨fun _ => id, fun _ => id⟩

theorem FusesKept.trans (h : FusesKept s t) (k : FusesKept t u) : FusesKept s u :=
  ⟨fun i hi => k.prog i (h.prog i hi), fun i hi => k.revoked i (h.revoked i hi)⟩

theorem FusesKept.of_eq (h : t.fuses = s.fuses) : FusesKept s t := ⟨fun _ hi => h ▸ hi, fun _ hi => h ▸ hi⟩

theorem FusesKept.of_mask (h : t.mask notFuses = s.mask notFuses) : FusesKept s t := .of_eq (sameAt_of_mask h .fuses rfl)

theorem FusesKept.ite {p : Prop} [Decidable p] (h : FusesKept s t) : FusesKept s (if p then t else s) := by
  split
  · exact h
  · exact .refl s

end

theorem fusesKept_foldl {α : Type} {g : State → α → State} (h : ∀ s x, FusesKept s (g s x)) (l : List α) (s : State) :
    FusesKept s (l.foldl g s) := by
  induction l generalizing s with
  | nil => exact .refl s
  | cons x r ih => exact (h s x).trans (ih _)

/-! ## The end of an operation (R439) -/

theorem burn_prog (op : FuseOp) (f : Fuses) {i : Nat} (h : f.prog.getLsbD i = true) : (burn op f).prog.getLsbD i = true := by
  cases op with
  | program slot data => exact (BitVec.getLsbD_or ..).trans (by rw [h, Bool.true_or])
  | _ => exact h

theorem burn_revoked (op : FuseOp) (f : Fuses) {i : Nat} (h : f.revoked.getLsbD i = true) : (burn op f).revoked.getLsbD i = true := by
  cases op with
  | revoke slot => exact (BitVec.getLsbD_or ..).trans (by rw [h, Bool.true_or])
  | _ => exact h

theorem fusesKept_endFuse (s : State) : FusesKept s (endFuse s) := by
  cases h : s.ndy.fuse with
  | none => rw [endFuse_idle h]; exact .refl s
  | some op => rw [endFuse_busy h]; exact ⟨fun i hi => burn_prog op _ hi, fun i hi => burn_revoked op _ hi⟩

/-! ## Register writes -/

theorem fusesKept_writeFuseCmd (o : Origin) (v : Word) (s : State) : FusesKept s (writeFuseCmd o v s).2 := by
  have hstart (op : FuseOp) : FusesKept s (startFuse op (endFuse s)) := (fusesKept_endFuse s).trans (.of_eq rfl)
  unfold writeFuseCmd
  split
  · dsimp only
    split
    · exact fusesKept_endFuse s
    · exact hstart _
  · split
    · exact hstart _
    · exact .refl s

theorem fusesKept_writeNdy (org : Origin) (a : Nat) (r : RegRow) (v : Word) (e : Bool) (s : State) :
    FusesKept s (writeNdy org a r v e s).2 := by
  unfold writeNdy
  dsimp only
  split
  · exact .of_mask (by simp [apply_ite Prod.snd])
  · split
    · exact fusesKept_writeFuseCmd org v s
    · exact .of_mask (by simp [apply_ite Prod.snd, wrDone])

theorem fusesKept_writeReg (org : Origin) (a : Nat) (v : Word) (e : Bool) (s : State) : FusesKept s (writeReg org a v e s).2 := by
  unfold writeReg
  split
  · exact .refl s
  · split
    · exact .refl s
    · dsimp only
      split
      case h_8 => exact fusesKept_writeNdy ..
      all_goals exact .of_mask (by simp)

theorem fusesKept_accessWrite (o : Origin) (a : Nat) (v : Word) (e : Bool) (s : State) : FusesKept s (accessWrite o a v e s).2 := by
  have h := fusesKept_writeReg o a v e s
  unfold accessWrite
  split
  · exact .of_mask (by simp)
  · split <;> rename_i heq <;> rw [heq] at h
    · exact h.trans (.of_mask (by simp))
    · exact h.trans (.of_mask (by simp))

theorem fusesKept_accessWrites (o : Origin) (a : Nat) (l : List Word) (s : State) : FusesKept s (accessWrites o a l s).2 := by
  induction l generalizing a s with
  | nil => exact .refl s
  | cons v r ih =>
    have h : FusesKept s (accessWrite o a v (nvmOutcome a s).1 (nvmOutcome a s).2).2 :=
      FusesKept.trans (.of_mask (by simp)) (fusesKept_accessWrite ..)
    unfold accessWrites
    dsimp only
    split <;> rename_i heq <;> rw [heq] at h
    · split
      · exact h.trans (ih _ _)
      · exact h
    · exact h

theorem fusesKept_regWrite (o : Origin) (a : Nat) (v : Word) (e : Bool) (s : State) : FusesKept s (regWrite o a v e s) :=
  .ite (fusesKept_accessWrite ..)

theorem fusesKept_hostBob (off : Nat) (v : Word) (s : State) : FusesKept s (hostBob off v s) := .ite (fusesKept_accessWrite ..)

theorem fusesKept_wordWrite (o : Origin) (a : Nat) (v : Word) (e : Bool) (s : State) : FusesKept s (wordWrite o a v e s) := by
  unfold wordWrite
  split
  · exact fusesKept_regWrite ..
  all_goals exact .of_mask (by simp)

theorem fusesKept_mRegWrite (f : List Byte) (s : State) : FusesKept s (mRegWrite f s).2 := by
  have h := fusesKept_accessWrites .mgmt (mAddr f - regBase) (mWords (mData f)) s
  unfold mRegWrite
  split
  · exact .refl s
  · split
    · next hq => exact .of_mask (mRegRefusal_mask hq (by simp) (by simp))
    · split <;> rename_i heq <;> rw [heq] at h <;> exact h

/-! ## Writes of a peer (R359, R362) -/

theorem fusesKept_writePart (o : Origin) (w : Window) (a : Nat) (d : List MByte) (s : State) : FusesKept s (writePart o w a d s).2 := by
  unfold writePart
  dsimp only
  split
  case h_3 =>
    split
    · exact fusesKept_accessWrites ..
    · exact .of_mask (by simp)
  all_goals exact .of_mask (by simp [apply_ite Prod.snd])

theorem fusesKept_writeParts (o : Origin) (a : Nat) (d : List MByte) (l : List (Window × Nat × Nat)) (s : State) :
    FusesKept s (writeParts o a d l s).2 := by
  induction l generalizing s with
  | nil => exact .refl s
  | cons x r ih =>
    obtain ⟨w, b, n⟩ := x
    have h := fusesKept_writePart o w b ((d.drop (b - a)).take n) s
    unfold writeParts
    split <;> rename_i heq <;> rw [heq] at h
    · exact h.trans (ih _)
    · exact h

theorem fusesKept_performWrite (n : Nat) (rkey : Word) (a : Nat) (d : List Byte) (s : State) :
    FusesKept s (performWrite n rkey a d s).2 := by
  have h : FusesKept s (touchRegion rkey s) := .of_mask (by simp)
  have hparts (l : List (Window × Nat × Nat)) (b : List MByte) : FusesKept s (writeParts (qpOrigin s n) a b l (touchRegion rkey s)).2 :=
    h.trans (fusesKept_writeParts (qpOrigin s n) a b l _)
  unfold performWrite
  extract_lets ok s1
  split
  · exact hparts _ _
  · exact h

theorem fusesKept_takeIn {n k : Nat} {ing : Ingress} {hits : List Hit} {s s1 : State} (h : takeIn n k ing hits s = some s1) :
    FusesKept s s1 := by
  rw [takeIn_some h]
  exact .of_mask (by simp)

theorem fusesKept_answerWrite {n : Nat} {f : State → State} {r : Bool × State} (h : ∀ t, FusesKept t (f t)) :
    FusesKept r.2 (answerWrite n f r) := by
  unfold answerWrite
  split
  · exact h _
  · exact .of_mask (by simp)

/-- A request to write: it is taken in, performed and answered. -/
theorem fusesKept_request {n k : Nat} {rkey : Word} {a : Nat} {d : List Byte} {ing : Ingress} {hits : List Hit} {s s1 : State}
    {f : State → State} (h : takeIn n k ing hits s = some s1) (hf : ∀ t, FusesKept t (f t)) :
    FusesKept s (endRequest n s1 (answerWrite n f (performWrite n rkey a d s1))) := by
  have hwrite : FusesKept s (performWrite n rkey a d s1).2 := (fusesKept_takeIn h).trans (fusesKept_performWrite ..)
  have hend (r : State) : FusesKept r (endRequest n s1 r) := .of_mask (by simp)
  exact (hwrite.trans (fusesKept_answerWrite hf)).trans (hend _)

/-! ## The whorl and the boot -/

theorem fusesKept_evaluate (m : Sample) (old : Whl) (s : State) : FusesKept s (evaluate m old s) :=
  (FusesKept.of_eq (settled_unchanged m old s .fuses (by decide))).trans (.of_eq (setIssue_unchanged _ _ .fuses (by decide)))

theorem fusesKept_writeDefault (a : Nat) (v : Word) (s : State) : FusesKept s (writeDefault a v s) := by
  have h : FusesKept s (accessWrite .niddy a v (Config.freeBool s.free) s.bumpFree).2 :=
    FusesKept.trans (t := s.bumpFree) (.of_eq rfl) (fusesKept_accessWrite ..)
  unfold writeDefault
  split
  · exact .refl s
  · split
    · exact .of_mask (by simp)
    · split <;> rename_i heq <;> rw [heq] at h
      · exact h
      · exact h.trans (.of_mask (by simp))

theorem fusesKept_writeDefaults (i : Nat) (s : State) : FusesKept s (writeDefaults i s) := by
  unfold writeDefaults
  split
  · exact .refl s
  · refine FusesKept.trans (.of_mask ?_) (fusesKept_foldl (fun s _ => fusesKept_writeDefault _ _ s) _ _)
    simp

theorem fusesKept_bootUnits (s : State) : FusesKept s (bootUnits s) := by
  have h1 (i : Nat) (t : List Byte) : FusesKept s (loadFaults i (openGates t (setNdy (fun n => { n with step := 5 }) s))) :=
    .of_mask (by simp)
  have hformat (i j : Nat) (t : State) : FusesKept t (loadFormat i j t) := .of_mask (by simp)
  have hcurve (i j : Nat) (t : State) : FusesKept t (loadCurve i j t) := .of_mask (by simp)
  unfold bootUnits
  extract_lets i s1 s2
  have h2 : FusesKept s s2 := (h1 i _).trans (fusesKept_writeDefaults i s1)
  split
  · exact h2
  · exact h2.trans ((fusesKept_foldl (fun t j => hformat i j t) _ s2).trans (fusesKept_foldl (fun t j => hcurve i j t) _ _))

/-- What a window's verdict sets going: the units, the end of the boot, or nothing. -/
theorem fusesKept_verdict (s : State) (p q : Prop) [Decidable p] [Decidable q] :
    FusesKept s (if p then let t := bootUnits (clocksUp s)
        if t.ndy.phase = .held then t else bootSkeins t
      else if q then failBoot 0xF9 (faultParam srcNdy kCLK_DRIFT 2 s) else s) := by
  have hunits : FusesKept s (bootUnits (clocksUp s)) := FusesKept.trans (.of_mask (by simp)) (fusesKept_bootUnits (clocksUp s))
  have hskeins (t : State) : FusesKept t (bootSkeins t) := .of_mask (by simp)
  dsimp only
  split
  · split
    · exact hunits
    · exact hunits.trans (hskeins _)
  · exact .ite (.of_mask (by simp))

theorem fusesKept_judgeWindow (count : Nat) (s : State) : FusesKept s (judgeWindow count s) := by
  unfold judgeWindow
  refine FusesKept.trans ?_ (fusesKept_verdict _ _ _)
  exact .of_eq rfl

/-! ## The rows -/

/-- Where the row's result is a next state, the fuses of `s` are kept in it. -/
structure KeepsFuses (s : State) (r : Res) : Prop where
  next : ∀ t, r = .next t → FusesKept s t

section
variable {i : Instr} {s t : State}

theorem KeepsFuses.ofNext (h : FusesKept s t) : KeepsFuses s (.next t) := ⟨fun _ heq => next_inj heq ▸ h⟩

theorem KeepsFuses.ofGuarded (h : FusesKept s t) : KeepsFuses s (guarded i t) := ⟨fun _ heq => guarded_next heq ▸ h⟩

theorem KeepsFuses.ofMask (h : t.mask notFuses = s.mask notFuses) : KeepsFuses s (.next t) := .ofNext (.of_mask h)

theorem KeepsFuses.ofGuardedMask (h : t.mask notFuses = s.mask notFuses) : KeepsFuses s (guarded i t) := .ofGuarded (.of_mask h)

theorem KeepsFuses.ofSched {b : Bobbin} {op : Nat} {f : Issued → State → State} (h : ∀ j t, (f j t).mask notFuses = t.mask notFuses) :
    KeepsFuses s (runSched b op f s) := by
  refine ⟨fun t heq => ?_⟩
  obtain rfl | ⟨j, -, rfl⟩ := runSched_next heq
  · exact .refl t
  · exact .of_mask (by simp [h])

theorem KeepsFuses.ofSpdm {r : Asker} {f : State → Spdm × State} (h : ∀ t, (f t).2.mask notFuses = t.mask notFuses) :
    KeepsFuses s (spdm r f s) := by
  refine ⟨fun t heq => ?_⟩
  obtain rfl | rfl := spdm_next heq
  · exact .refl t
  · exact .of_mask (by simp [h])

theorem KeepsFuses.ofChecked {c : Prop} [Decidable c] {r : Res} {e : Fault} (h : KeepsFuses s r) :
    KeepsFuses s (if c then r else .fault e) := by
  refine ⟨fun t heq => ?_⟩
  split at heq
  · exact h.next t heq
  · cases heq

end

theorem fusesKept_serve {m : MgmtIn} {act : List Byte → State → MAns × State} (h : ∀ l t, FusesKept t (act l t).2) (s : State) :
    FusesKept s (serve m act s) := by
  have h0 : FusesKept s (mgmtFrame m.fec (dueDuties s)) := .of_mask (by simp)
  unfold serve
  split
  · exact .refl s
  · extract_lets s1 f
    replace h0 : FusesKept s s1 := h0
    split
    · exact h0.trans (.of_mask (by simp))
    · have hact : FusesKept s (if mFrameOk f = true then act f s1 else ((.badFrame, []), s1)).2 := by
        split
        · exact h0.trans (h f s1)
        · exact h0
      generalize (if mFrameOk f = true then act f s1 else ((.badFrame, []), s1)) = x at hact ⊢
      obtain ⟨ans, u⟩ := x
      dsimp only
      split
      · exact hact.trans (.of_mask (by simp))
      · exact hact.trans (.of_mask (by simp))

section
variable {α : Type} {u op : Nat} {hs : List Hit} {chk : Issued → State → Chk α} {ov : Issued → α → State → Bool}
  {run : Issued → α → State → State} {s : State}

theorem accept_notFuses (h : ∀ i a t, (run i a t).mask notFuses = t.mask notFuses) :
    (accept u op chk ov run s).mask notFuses = s.mask notFuses :=
  accept_mask (hf := h) (hreg := rfl) (hmem := rfl) (herrs := rfl) (hskn := rfl) (hdst := rfl) (hports := rfl)
    (hreports := rfl) (hseqs := rfl) ..

theorem offered_notFuses (h : ∀ i a t, (run i a t).mask notFuses = t.mask notFuses) :
    (withHits u op hs (accept u op chk ov run) s).mask notFuses = s.mask notFuses :=
  withHits_mask (hf := fun _ => accept_notFuses h) (hreg := rfl) (hdst := rfl) (hseqs := rfl) (hstruck := rfl) ..

theorem acceptPly_notFuses (h : ∀ i a t, (run i a t).mask notFuses = t.mask notFuses) :
    (acceptPly op hs chk run s).mask notFuses = s.mask notFuses :=
  acceptPly_mask (hf := h) (hreg := rfl) (hmem := rfl) (herrs := rfl) (hskn := rfl) (hdst := rfl) (hports := rfl)
    (hreports := rfl) (hseqs := rfl) (hstruck := rfl) ..

end

/-! ## The rows that write registers -/

section
variable (s : State)

theorem whorlPeriod_keepsFuses (m : Sample) : KeepsFuses s (exec (.whorlPeriod m) s) := by
  have hkeep : FusesKept s (keepSample m s) := .of_mask (by simp)
  refine .ofGuarded (.ite ?_)
  split
  · exact .of_mask (by simp)
  · split
    · exact hkeep
    · exact hkeep.trans (fusesKept_evaluate ..)

theorem rdmaWrite_keepsFuses (qpn : BitVec 16) (rkey : Word) (a : Addr) (data : List Byte) (ing : Ingress) (hits : List Hit) :
    KeepsFuses s (execRdmaWrite qpn rkey a data ing hits s) := by
  unfold execRdmaWrite
  dsimp only
  split
  · exact .ofMask (by simp)
  · next h => exact .ofNext (fusesKept_request h fun _ => .of_mask (by simp))

theorem rdmaWriteImm_keepsFuses (qpn : BitVec 16) (rkey : Word) (a : Addr) (data : List Byte) (imm : Word) (ing : Ingress)
    (hits : List Hit) : KeepsFuses s (execRdmaWriteImm qpn rkey a data imm ing hits s) := by
  unfold execRdmaWriteImm
  dsimp only
  split
  · exact .ofMask (by simp)
  · next h => exact .ofNext (fusesKept_request h fun _ => .ite (.of_mask (by simp)))

end

/-! ## SPDM's rows -/

section
variable (r : Asker) (s : State)

theorem getVersion_keepsFuses : KeepsFuses s (execGetVersion s r) := .ofSpdm (by simp)

theorem getCapabilities_keepsFuses : KeepsFuses s (execGetCapabilities s r) := .ofSpdm fun _ => rfl

theorem negotiateAlgorithms_keepsFuses : KeepsFuses s (execNegotiateAlgorithms s r) := .ofSpdm fun _ => rfl

theorem getDigests_keepsFuses : KeepsFuses s (execGetDigests s r) := .ofSpdm fun _ => rfl

theorem getCertificate_keepsFuses (slot : BitVec 8) (offset len : BitVec 16) :
    KeepsFuses s (execGetCertificate slot offset len s r) := .ofSpdm fun _ => rfl

theorem spdmUnsupportedRequest_keepsFuses (code : Byte) : KeepsFuses s (execSpdmUnsupportedRequest code s r) := .ofSpdm fun _ => rfl

theorem chunkGet_keepsFuses (handle : Byte) (chunk : BitVec 16) : KeepsFuses s (execChunkGet handle chunk s r) := .ofSpdm (by simp)

theorem vendorDefinedRequest_keepsFuses (standard : BitVec 16) (vid : Word) (payload : List Byte) :
    KeepsFuses s (execVendorDefinedRequest standard vid payload s r) := .ofSpdm (by simp)

end

/-! ## Rows that first look at the state -/

section
variable (s : State)

theorem release_keepsFuses (b : Bobbin) : KeepsFuses s (execRelease b s) := by
  unfold execRelease
  dsimp only
  repeat' split
  all_goals exact .ofMask (by simp)

theorem barrierSet_keepsFuses (b : Bobbin) : KeepsFuses s (execBarrierSet b s) := .ofSched (by simp)

theorem imageStart_keepsFuses (b : Bobbin) : KeepsFuses s (execImageStart b s) := by
  unfold execImageStart
  split
  · exact .ofSched (by simp)
  · exact .ofMask rfl

theorem imageUnload_keepsFuses : KeepsFuses s (execImageUnload s) := by
  unfold execImageUnload
  dsimp only
  repeat' split
  all_goals exact .ofMask (by simp)

theorem imageLoadComplete_keepsFuses : KeepsFuses s (execImageLoadComplete s) := by
  unfold execImageLoadComplete
  dsimp only
  split
  · split
    · refine .ofMask ?_
      split <;> simp
    · exact .ofMask rfl
  · exact .ofMask rfl

theorem fetchBurst_keepsFuses : KeepsFuses s (execFetchBurst s) := by
  unfold execFetchBurst
  split
  · split
    · exact .ofMask ((State.count_mask (hreg := rfl) ..).trans ((mask_set_fetchTurns rfl).trans (State.setBob_mask (hbobs := rfl) ..)))
    · exact .ofMask rfl
  · exact .ofMask rfl

theorem burstArrival_keepsFuses (b : Bobbin) (hits : List Hit) : KeepsFuses s (execBurstArrival b hits s) := by
  unfold execBurstArrival
  dsimp only
  repeat' split
  all_goals exact .ofMask (by simp)

theorem agePromotion_keepsFuses (b : Bobbin) : KeepsFuses s (execAgePromotion b s) := by
  unfold execAgePromotion
  dsimp only
  repeat' split
  all_goals exact .ofMask (by simp)

theorem runSizeResolve_keepsFuses (b : Bobbin) : KeepsFuses s (execRunSizeResolve b s) := by
  unfold execRunSizeResolve
  dsimp only
  repeat' split
  all_goals exact .ofMask (by simp)

theorem spareSwapTimeout_keepsFuses : KeepsFuses s (execSpareSwapTimeout s) := by
  unfold execSpareSwapTimeout
  split
  all_goals exact .ofMask (by simp)

theorem watchdogExpiry_keepsFuses (b : Bobbin) : KeepsFuses s (execWatchdogExpiry b s) := by
  unfold execWatchdogExpiry
  dsimp only
  repeat' split
  all_goals exact .ofMask (by simp)

theorem readyIncrement_keepsFuses (k : BitVec 5) : KeepsFuses s (execReadyIncrement k s) := by
  unfold execReadyIncrement
  dsimp only
  repeat' split
  all_goals exact .ofMask (by simp)

theorem cpyPermute_keepsFuses (k : BitVec 5) (hits : List Hit) : KeepsFuses s (execCpyPermute k hits s) := by
  refine .ofNext (.ite (.of_mask ?_))
  rw [clearStruck_mask (hstruck := rfl), accept_notFuses (by simp)]
  simp

/-- What a packet brings, once its port has taken it in. -/
theorem ingress_notFuses (n k : Nat) (ing : Ingress) : (ingress n k ing s).1.mask notFuses = s.mask notFuses := by simp

theorem fetchComplete_keepsFuses (k : BitVec 5) (gid : BitVec 20) (data : List MByte) (ing : Ingress) :
    KeepsFuses s (execFetchComplete k gid data s ing) := by
  refine .ofNext ?_
  split
  · next f _ =>
    refine .ite (.of_mask ?_)
    have hi := ingress_notFuses s (f.qpn.getD 0) (packetsOf (s.qp (f.qpn.getD 0)) data.length) ing
    dsimp only
    generalize ingress _ _ _ _ = x at hi ⊢
    obtain ⟨t, _ | _⟩ := x
    · exact hi
    · simpa using hi
  · exact .refl s

theorem writeBackComplete_keepsFuses (k : BitVec 5) (gid : BitVec 20) (ing : Ingress) :
    KeepsFuses s (execWriteBackComplete k gid s ing) := by
  refine .ofNext ?_
  split
  · next f _ =>
    refine .ite (.of_mask ?_)
    have hi := ingress_notFuses s (f.qpn.getD 0) 1 ing
    generalize ingress _ _ _ _ = x at hi ⊢
    obtain ⟨t, _ | _⟩ := x
    · exact hi
    · simpa using hi
  · exact .refl s

theorem nakReceived_keepsFuses (qpn : BitVec 16) (kind : NakKind) (ing : Ingress) :
    KeepsFuses s (execNakReceived qpn kind s ing) := by
  refine .ofNext (.ite (.of_mask ?_))
  have hi := ingress_notFuses s qpn.toNat 1 ing
  generalize ingress _ _ _ _ = x at hi ⊢
  obtain ⟨t, _ | _⟩ := x
  · exact hi
  · cases kind with
    | other => simpa using hi
    | rnr =>
      dsimp only
      split <;> simpa using hi

theorem answered_notFuses {n : Nat} {ing : Ingress} {f : State → State} {s : State}
    (h : ∀ t, (f t).mask notFuses = t.mask notFuses) : (answered n ing f s).mask notFuses = s.mask notFuses := by
  simp [h]

theorem arriveSend_notFuses (m : SendIn) : (arriveSend m s).mask notFuses = s.mask notFuses := by simp

theorem acknowledgement_keepsFuses (qpn : BitVec 16) (ing : Ingress) : KeepsFuses s (execAcknowledgement qpn s ing) := by
  refine .ofNext (.ite ?_)
  split
  · refine .of_mask (answered_notFuses fun t => ?_)
    split <;> simp
  · refine .of_mask (answered_notFuses fun t => ?_)
    split <;> simp
  · exact .refl s

theorem rdmaRead_keepsFuses (qpn : BitVec 16) (rkey : Word) (a : Addr) (len : Nat) (ing : Ingress) (hits : List Hit) :
    KeepsFuses s (execRdmaRead qpn rkey a len ing hits s) := by
  unfold execRdmaRead
  dsimp only
  split
  · exact .ofMask (by simp)
  · next h => exact .ofNext ((fusesKept_takeIn h).trans (.of_mask (by simp)))

theorem fetchAndAdd_keepsFuses (qpn : BitVec 16) (rkey : Word) (a : Addr) (operand : BitVec 64) (ing : Ingress) (hits : List Hit) :
    KeepsFuses s (execFetchAndAdd qpn rkey a operand ing s hits) := by
  unfold execFetchAndAdd
  dsimp only
  split
  · exact .ofMask (by simp)
  · next s1 h =>
    refine .ofNext ((fusesKept_takeIn h).trans (.of_mask ((endRequest_mask (hdst := rfl) (hstruck := rfl) ..).trans ?_)))
    split
    · simp
    · split
      · simp
      · have ha := atomicAdd_mask (L := notFuses) (originFlags (qpOrigin (touchRegion rkey s1) qpn.toNat)) a.toNat operand
          (touchRegion rkey s1) rfl rfl rfl rfl rfl rfl
        generalize atomicAdd _ _ _ _ = x at ha ⊢
        obtain ⟨_ | old, t⟩ := x <;> simpa using ha

theorem faultMessage_keepsFuses (hits : List Hit) : KeepsFuses s (execFaultMessage s hits) :=
  .ofNext (.ite ((fusesKept_foldl (fun t h => .of_mask (damageDst_mask h t rfl rfl)) hits s).trans (.of_mask (by simp))))

theorem rcCounterRead_keepsFuses (o : Origin) (a : Addr) : KeepsFuses s (execRcCounterRead o a s) := by
  refine .ofGuarded (.ite (.of_mask ?_))
  have hr := accessRead_mask (L := notFuses) o false (a.toNat - regBase) s rfl rfl rfl
  generalize accessRead _ _ _ _ = x at hr ⊢
  obtain ⟨_ | v, t⟩ := x <;> simpa using hr

theorem bootFail_keepsFuses : KeepsFuses s (execBootFail s) := by
  refine .ofNext (.ite (.of_mask ?_))
  rw [sendNotice_mask (hreg := rfl) (hndy := rfl) (hout := rfl), setNdy_mask (hndy := rfl)]
  exact (mask_set_pend (s := { s with gate := 0 }) rfl).trans (mask_set_gate rfl)

theorem nextHopAnswer_keepsFuses (mac : BitVec 48) (fec : Nat) : KeepsFuses s (execNextHopAnswer mac s fec) := by
  refine .ofNext (.of_mask ?_)
  split
  · rfl
  · dsimp only
    split
    · split <;> simp
    · simp

end

/-- Every row keeps the fuses: the rows that write a register by the lemmas on register writes, the others because what they are made
of does not touch the fuses. -/
theorem exec_keepsFuses (c : Instr) (s : State) : KeepsFuses s (exec c s) := by
  cases c with
  | qpLoad _ _ | qpCmdError _ _ | qpReset _ _ | qpRearm _ _ | dstStatusClear _ _ | evrBaseWrite _ _ _
  | evrCfgWrite _ _ | kindCfgWrite _ _ _ | retire _ _ _ _ | returnFromRepair _ _ _ _ | gateWrite _ _ _
  | sleepWrite _ _ _ | unitReset _ _ _ | issueWrite _ _ | runSet _ _ _ | runClr _ _ _ | spareWrite _ _ | devReset _ _
  | fmStart _ _ | tabDataWrite _ _ => exact .ofNext (fusesKept_regWrite ..)
  | fuseProgram _ _ | fuseRevoke _ _ => exact .ofNext (.ite (fusesKept_regWrite ..))
  | fuseDone => exact .ofNext (fusesKept_endFuse s)
  | indDataWrite _ | ctxReset _ | trnDataWrite _ => exact .ofNext (fusesKept_hostBob ..)
  | journalEnable _ | arm _ | resume _ => exact .ofNext (.ite (fusesKept_hostBob ..))
  | fenceWrite _ _ _ _ _ => exact .ofGuarded (fusesKept_regWrite ..)
  | rwpWrite _ _ _ _ => exact .ofGuarded (fusesKept_wordWrite ..)
  | registerWrite o a v => exact .ofGuarded (FusesKept.trans (.of_mask (by simp)) (fusesKept_wordWrite ..))
  | regWrite _ => exact .ofGuarded (fusesKept_serve fusesKept_mRegWrite s)
  | whorlPeriod m => exact whorlPeriod_keepsFuses s m
  | clockStabilityWindow _ => exact .ofNext (.ite (fusesKept_judgeWindow ..))
  | rdmaWrite _ _ _ _ _ _ => exact rdmaWrite_keepsFuses ..
  | rdmaWriteImm _ _ _ _ _ _ _ => exact rdmaWriteImm_keepsFuses ..
  | barrierSet _ => exact barrierSet_keepsFuses ..
  | nop _ | phaseClose _ =>
    refine .ofSched ?_
    simp
  | getVersion _ => exact getVersion_keepsFuses ..
  | getCapabilities _ => exact getCapabilities_keepsFuses ..
  | negotiateAlgorithms _ => exact negotiateAlgorithms_keepsFuses ..
  | getDigests _ => exact getDigests_keepsFuses ..
  | getCertificate _ _ _ _ => exact getCertificate_keepsFuses ..
  | spdmUnsupportedRequest code r => exact spdmUnsupportedRequest_keepsFuses r s code
  | chunkGet handle chunk r => exact chunkGet_keepsFuses r s handle chunk
  | vendorDefinedRequest standard vid payload r => exact vendorDefinedRequest_keepsFuses r s standard vid payload
  | challenge _ _ _ | getMeasurements _ _ _ _ => exact .ofChecked (.ofSpdm (by simp))
  | spnStage _ _ | spnMma _ _ | crdGather _ _ | crdScatter _ _ | crdSpmm _ _ | expSelect _ _ | expFanout _ _
  | expDispatch _ _ | expAssign _ _ | expCombine _ _ | expPrefetch _ _ | trnLscale _ _ | optAdamw _ _ | optSgdm _ _ =>
    exact .ofMask (offered_notFuses (by simp))
  | spnSlotDiscard _ => exact .ofMask (accept_notFuses (by simp))
  | plyReduce _ | plyGather _ | plyVerdict | plyBarrier | plyOrtho _ | plyLrSeed => exact .ofMask (acceptPly_notFuses (by simp))
  | regRead _ | nvmErase _ | nvmProgram _ | telemRead _ | nvmRead _ =>
    exact .ofGuarded (fusesKept_serve (fun _ _ => .of_mask (by simp)) s)
  | dbProdWrite _ _ | dbCqHeadWrite _ _ | enable _ | disable _ | flyNormFwd _ _ | flyNormBwd _ _ | flyNormPgrad _ _
  | flySmaxMerge _ _ | flySmaxFwd _ _ | flySmaxBwd _ _ | flyStatsFree _ | dispatch _ | bucketLeak _ | cnp _ | ccPeriod _
  | ackTimeout _ | arpRequest _ _ _ _ _ | noticeTimeout | smbSetOffset _ | smbBlockRead | smbAlertResponse | bypass | idcode
  | samplePreload | extest | clamp | highz | testReset | fmDone _ | driftWindow _ | clockMonitorReset | resetPin | powerOn
  | powerDown | vrFault _ | powerTrip _ | flowLow | flowRestored | bootStart _ | bootReady | telemetryCopy | lifeDaysTick
  | resetPinRelease | coreReferencePresent =>
    exact .ofMask (by simp)
  | plyWatchExpiry _ | fetchStart _ | fetchTimeout _ _ | regulatorRestart =>
    refine .ofMask ?_
    repeat' split
    all_goals simp
  | reduce m | prescaleUp m | prescaleDown m | sum m | gather m | verdictUp m | verdictDown m | barrier m
  | fetchNote m | wbNote m | replayHold m | echoReq m | echoRsp m =>
    exact .ofGuardedMask (arriveSend_notFuses s m)
  | strayMessage m => exact .ofGuardedMask (i := .strayMessage m) (arriveSend_notFuses s m)
  | skeinRead _ _ _ _ | skeinWrite _ _ _ | scrubGranule _ _ | pfcXon _ _ _ | linkDown _ _ | linkUp _ | sleepEntry _
  | unitResetDone _ | thermtripRelease _ | retiredSleep _ | pfcXoffRepeat _ _ _ | smbOtherCommand _ =>
    exact .ofGuardedMask (by simp)
  | engineCompletion _ | unsupportedFrame _ _ | pfcXoff _ _ | pfcStorm _ _ | wake _ =>
    refine .ofGuardedMask ?_
    repeat' split
    all_goals simp
  | bootFail => exact bootFail_keepsFuses s
  | nextHopAnswer _ _ => exact nextHopAnswer_keepsFuses ..
  | faultMessage _ => exact faultMessage_keepsFuses ..
  | acknowledgement _ _ => exact acknowledgement_keepsFuses ..
  | rcCounterRead _ _ => exact rcCounterRead_keepsFuses ..
  | release _ => exact release_keepsFuses ..
  | imageStart _ => exact imageStart_keepsFuses ..
  | imageUnload => exact imageUnload_keepsFuses s
  | imageLoadComplete => exact imageLoadComplete_keepsFuses s
  | fetchBurst => exact fetchBurst_keepsFuses s
  | burstArrival _ _ => exact burstArrival_keepsFuses ..
  | agePromotion _ => exact agePromotion_keepsFuses ..
  | runSizeResolve _ => exact runSizeResolve_keepsFuses ..
  | spareSwapTimeout => exact spareSwapTimeout_keepsFuses s
  | watchdogExpiry _ => exact watchdogExpiry_keepsFuses ..
  | readyIncrement _ => exact readyIncrement_keepsFuses ..
  | cpyPermute _ _ => exact cpyPermute_keepsFuses ..
  | fetchComplete _ _ _ _ => exact fetchComplete_keepsFuses ..
  | writeBackComplete _ _ _ => exact writeBackComplete_keepsFuses ..
  | nakReceived _ _ _ => exact nakReceived_keepsFuses ..
  | rdmaRead _ _ _ _ _ _ => exact rdmaRead_keepsFuses ..
  | fetchAndAdd _ _ _ _ _ _ => exact fetchAndAdd_keepsFuses ..

/-- Settles O58: a step is a tick, which does not touch the fuses, or a row, which keeps them. -/
theorem fusesNeverClear : Obligations.FusesNeverClear := by
  intro s t hstep i _
  have hkept : FusesKept s t := by
    unfold step at hstep
    split at hstep
    · exact next_inj hstep ▸ .of_mask (by simp)
    · next c r _ => exact FusesKept.trans (t := { s with pending := r }) (.of_eq rfl) ((exec_keepsFuses c _).next t hstep)
  exact ⟨hkept.prog i, hkept.revoked i⟩

end Sys2Proof.Machine
end
